-- ==== Sys2Proof/Config.lean ====
section
/-!
DEFINITION. The values the spec leaves open: constants without a body, so that nothing can be proved of what they are.
-/

namespace Sys2Proof.Config

/-- The `.s` result a part gives for special function `fn` (0 to 5, Table 6.6) of an operand's bits.
The spec fixes it only within a bound (R171); the model takes it where it meets the bound (log entry 6). -/
opaque specialS : (fn operand : Nat) → Nat

/-- Bits of state of a bale that the spec lays out nowhere (R328), by a counter (log entry 7). -/
opaque freeByte : Nat → Byte

/-- Which free entry of its pool a task takes, by a counter: the scheduler's own choice (R303; log entry 41). -/
opaque poolEntry : Nat → Nat

/-- Whether a fetch returns words fetched before (1: by the thread, 2: held in the L1 instruction cache) or memory's present
ones, where R153 lets it return either, by a counter (log entry 9). -/
opaque fetchChoice : Nat → Nat

/-- Whether a direct-mode read of a shared register one to three cycles after a write returns the old value (R25), by a
counter (log entry 10). -/
opaque sharedOld : Nat → Bool

/-- The part's device identifier, cluster revision code, layout hash and firmware version (R406, Table 24.2). -/
opaque devid : Nat
opaque rev : Nat
opaque lhash : Nat
opaque fwver : Nat

/-- Another part of the pod holds the same identifier (R406). -/
opaque idTaken : Bool

/-- Whether the firmware's routes lead to the part of a device identifier through a Heathway port (R405; log entry 91). -/
opaque route : (dev port : Nat) → Bool

/-- An HBM stack has failed its training (FAIL bit 2 of Table 24.2; log entry 67). -/
opaque stackFailed : Bool

/-- How many cycles the part takes to write a sample record, by its SERIAL (R395; log entry 92). -/
opaque sampleTime : Nat → Nat

/-- The offset in the host window by which a host-error event names a place of a function's segment: no rule lays the segment in that window
(R384, Table 23.2; log entry 52). -/
opaque hostOffset : (vf ipa : Nat) → Nat

/-- The width and rate at which the host link has trained: LINK and LSLOW (R403, Table 24.2). -/
opaque link : Nat
opaque lslow : Bool

/-- How often a counted event that the spec ties to no architectural step has come about (Table 23.4: cache misses, lines across
a die boundary, vector lane-cycles, revision events), by a counter (log entry 16). -/
opaque eventCount : Nat → Nat

/-- Flits in the input skid buffers of a cluster at its freeze (R326, Table 16.8: SKQ, SKS, SKC, SKM), by a counter (log entry 17). -/
opaque skidCount : Nat → Nat

/-- Whether a signature that holds the items `own` and one that holds `other` test as intersecting where no item is common to
both (R245: the summary function is not architectural; log entry 63). -/
opaque sigAlias : (own other : List Nat) → Bool

/-- The L1 set of a line: not architectural (R240; log entry 8). -/
opaque l1Set : (line : Nat) → Nat

/-- Whether an operation of a chunk is performed before an earlier one that it need not follow, by a counter (R163, R138; log
entry 69). -/
opaque passes : Nat → Bool

/-- Whether a load that is still counted observes a later store of its chunk that it need not precede, by a counter (R163; log
entry 69). -/
opaque observesLater : Nat → Bool

/-- Whether a matrix command reads a block of its operands now, by a counter (R192; log entry 75). -/
opaque blockNow : Nat → Bool

/-- The member of a span, of 16, that a translation uses, by a counter and the address of the entry (R337; log entry 70). -/
opaque spanMember : (n entry : Nat) → Nat

/-- Whether an access uses a cached translation from another ASID's leaf with G = 1, by a counter (R345; log entry 71). -/
opaque globalHit : Nat → Bool

/-- What a peer part answers to an access at an address, by a counter: 0 done, else a fault or poison (R129, R342; log entry 72). -/
opaque peerFault : (n addr : Nat) → Nat

/-- Which copy a full cache set gives up, by a counter: replacement is not architectural (R266, R268; log entry 8). -/
opaque victim : Nat → Nat

/-- Which of several interrupts and refused messages that are due at once a slot takes first, by a counter: the spec gives no order among
them (R220, R314; log entry 19). -/
opaque dueFirst : Nat → Nat

/-- Element `index` of what a reduction node makes of its value and a child's where their formats differ: the spec states no
result for such a round (R77, R222; log entry 46). -/
opaque mixedElem : (fmt index : Nat) → (own child : List Nat) → Nat

end Sys2Proof.Config
end

