-- ==== Sys2Proof/Syntax.lean ====
section
/-!
DEFINITION. The instructions of the part: one constructor per row of the opcode table.
The rows with an encoding carry the fields of their word (R80, R83, R84), high field first, without the L bit;
the rows without an encoding are the indivisible steps of the part's own agents and carry what such a step is about.
-/

namespace Sys2Proof

/-- A mailbox command (R358): dword 0 as it stands at CTB, with SEQ, TGT and OP, and the seven argument words. -/
structure MbCmd where
  target : BitVec 64
  args : List (BitVec 64)
deriving DecidableEq, Repr

/-- What an action of the debug port is about, behind the device identifier of the part that it is for (R398). -/
structure ForDev (α : Type) where
  dev : Nat
  what : α
deriving DecidableEq, Repr

/-- The kinds of an access that arrives from a peer part (R342). -/
inductive PeerKind where
  | read
  | write
  | atomic
deriving DecidableEq, Repr

/-- An access of a peer part to this one (R342, R389): the part it comes from, whether the source of a migration passed it on,
the virtual function it names, the intermediate address, the kind, its size in bytes, the operation of an atomic, and the data of
a write or an atomic. -/
structure PeerAccess where
  dev : Nat
  fwd : Bool
  vf : Nat
  ipa : Nat
  kind : PeerKind
  size : Nat
  op : Nat
  data : List Byte
deriving DecidableEq, Repr

/-- The rows of the opcode table. -/
inductive Instr where
  /-- LD (R121). Loads 2^SZ bytes at xa+off, sign-extends them into xd and counts in LC. -/
  | ld (o : BitVec 8) (s : BitVec 2) (a d : BitVec 7)
  /-- LDZ (R121). Loads 2^SZ bytes at xa+off, zero-extends them into xd and counts in LC. -/
  | ldz (o : BitVec 8) (s : BitVec 2) (a d : BitVec 7)
  /-- ST (R121). Stores the low 2^SZ bytes of xd at xa+off and counts in SC. -/
  | st (o : BitVec 8) (s : BitVec 2) (a d : BitVec 7)
  /-- LDX (R122). Sign-extending load at xa + (xb << s), with the index scaled by the size or left unscaled. -/
  | ldx (x : BitVec 1) (s : BitVec 2) (b a d : BitVec 7)
  /-- STX (R122). Store at xa + (xb << s), with the index scaled by the size or left unscaled. -/
  | stx (x : BitVec 1) (s : BitVec 2) (b a d : BitVec 7)
  /-- LDM (R123). Loads 1 to 4 doublewords into xd onwards; every doubleword is checked before any is accessed. -/
  | ldm (o : BitVec 8) (n : BitVec 2) (a d : BitVec 7)
  /-- STM (R123). Stores 1 to 4 doublewords from xd onwards; every doubleword is checked before any is accessed. -/
  | stm (o : BitVec 8) (n : BitVec 2) (a d : BitVec 7)
  /-- LDK (R124). Loads the aligned literal doubleword at the word address + 4 × OFF17 into xd. -/
  | ldk (o : BitVec 17) (d : BitVec 7)
  /-- PF (R125). Requests a line into L1 or L2 as a hint that never traps and changes no readable state. -/
  | pf (o : BitVec 8) (s : BitVec 2) (a h : BitVec 7)
  /-- AMO (R126). Applies an atomic operation to the word at xa without returning a value; counts in SC. -/
  | amo (s : BitVec 2) (c : BitVec 4) (a d : BitVec 7)
  /-- AMO_E (R128). Edge atomic without return: a boundary instruction performed at the address's home, holding the thread until the response arrives. -/
  | amoE (s : BitVec 2) (c : BitVec 4) (a d : BitVec 7)
  /-- AMOF (R126). Applies an atomic operation to the word at xa and returns the old value to xd; counts in LC. -/
  | amof (s : BitVec 2) (c : BitVec 4) (a d : BitVec 7)
  /-- AMOF_E (R128). Edge atomic that returns the old value on response, performed at the address's home. -/
  | amofE (s : BitVec 2) (c : BitVec 4) (a d : BitVec 7)
  /-- CAS (R127). Checks write permission, then compares the word with xd, writes xb on a match and returns the old value. -/
  | cas (s : BitVec 1) (b a d : BitVec 7)
  /-- QRES (R130). Ends the chunk and sends a queued reservation request for the word to its home; the thread leaves rotation until served. -/
  | qres (s : BitVec 1) (a d : BitVec 7)
  /-- QREL (R130). Ends the chunk and sends xd to the home, which writes the word and passes it to the next queued request. -/
  | qrel (s : BitVec 1) (a d : BitVec 7)
  /-- BR (R107). Branches when bit 0 of the predicate XOR N is 1. -/
  | br (o : BitVec 20) (n : BitVec 1) (k : BitVec 3)
  /-- JMP (R108). Unconditional transfer to the word address + 4 × OFF17. -/
  | jmp (o : BitVec 17)
  /-- BR_END (R108). Branches on the end flag of the pattern engine serving the port, XOR N. -/
  | brEnd (o : BitVec 17) (n : BitVec 1) (p : BitVec 4)
  /-- JAL (R109). Writes the next address to xd and transfers to the target. -/
  | jal (o : BitVec 17) (d : BitVec 7)
  /-- JALR (R110). Transfers to xa + 4 × off and writes the link; traps with MISALIGNED when the target is misaligned. -/
  | jalr (i : BitVec 10) (a d : BitVec 7)
  /-- LOOP (R111). Decrements a non-zero xd and branches while the result is non-zero. -/
  | loop (o : BitVec 17) (d : BitVec 7)
  /-- SOPEN (R135). Reads a stream descriptor and binds a pattern engine to the port, at position 0 with the end flag clear. -/
  | sopen (r w t : BitVec 1) (s : BitVec 2) (p : BitVec 5) (a : BitVec 7)
  /-- SCLOSE (R141). Removes the port's pattern binding and discards prefetched elements. -/
  | sclose (p : BitVec 5)
  /-- SSEEK (R141). Sets the stream position, clears the end flag and discards prefetched elements. -/
  | sseek (p : BitVec 5) (a : BitVec 7)
  /-- SPOS (R141). Writes the stream position of the port to xd. -/
  | spos (p : BitVec 5) (d : BitVec 7)
  /-- FENCE (R143). Holds the thread until LC and SC are zero and every earlier write-stream push has been performed. -/
  | fence
  /-- FENCE_E (R144). Boundary instruction that holds the thread until every earlier edge write and edge atomic has been acknowledged. -/
  | fenceE
  /-- WAIT (R142). Holds the thread until each counter is at or below its immediate. -/
  | wait (m c s w : BitVec 4)
  /-- MONA (R146). Ends the chunk, arms monitor n on a 128-byte line and clears its hit bit. -/
  | mona (i : BitVec 10) (a : BitVec 7) (n : BitVec 2)
  /-- MONW (R147). Sleeps until a monitor is hit, the timeout passes or a qualifying interrupt is pending, then writes the sleep result. -/
  | monw (a d : BitVec 7)
  /-- WATCH (R148). Sets the watch bit of a scratchpad word of its own core and makes the calling slot its owner. -/
  | watch (i : BitVec 10) (a : BitVec 7)
  /-- WSLEEP (R149). Sleeps until the slot's ready bit is set, the timeout passes or an interrupt is pending, then clears the ready bit. -/
  | wsleep (a d : BitVec 7)
  /-- CUT (R150). Ends the chunk after itself in chunked mode. -/
  | cut
  /-- DIRECT (R150). Ends the chunk after itself and sets STATUS.DIR. -/
  | direct
  /-- RESUME (R150). Clears STATUS.DIR so that the next instruction begins a chunk. -/
  | resume
  /-- LOCK (R151). Tries to pin the line in its home L2 for the partition and writes the outcome to kd. -/
  | lock (a : BitVec 7) (k : BitVec 3)
  /-- UNLOCK (R151). Removes the partition's lock on the line without evicting it. -/
  | unlock (a : BitVec 7)
  /-- CLEAN (R152). Writes every dirty committed copy in the range back to memory and keeps the copies valid. -/
  | clean (b a : BitVec 7)
  /-- INVAL (R152). Writes dirty copies in the range back and removes every L1 and L2 copy, except the home copy of a locked line. -/
  | inval (b a : BitVec 7)
  /-- IFLUSH (R153). Invalidates the core's L1 instruction lines that overlap the range. -/
  | iflush (b a : BitVec 7)
  /-- ISYNC (R153). Discards every instruction the thread has already fetched. -/
  | isync
  /-- VLD (R161). Loads the active elements at consecutive addresses into a vector register or w port. -/
  | vld (o : BitVec 6) (v : BitVec 1) (m : BitVec 3) (a : BitVec 7) (s : BitVec 2) (d : BitVec 5)
  /-- VST (R161). Stores the active elements to consecutive addresses. -/
  | vst (o : BitVec 6) (v : BitVec 1) (m : BitVec 3) (a : BitVec 7) (s : BitVec 2) (d : BitVec 5)
  /-- VLDS (R161). Strided vector load with a signed byte stride taken from xb. -/
  | vlds (m : BitVec 3) (b a : BitVec 7) (s : BitVec 1) (d : BitVec 5)
  /-- VSTS (R161). Strided vector store with a signed byte stride taken from xb. -/
  | vsts (m : BitVec 3) (b a : BitVec 7) (s : BitVec 1) (d : BitVec 5)
  /-- VGAT (R161). Gathers each active element from xa plus its element of the index vector. -/
  | vgat (m : BitVec 3) (c : BitVec 1) (i : BitVec 5) (a : BitVec 7) (s : BitVec 1) (d : BitVec 5)
  /-- VSCT (R161). Scatters each active element to xa plus its element of the index vector; the highest index wins on overlap. -/
  | vsct (m : BitVec 3) (c : BitVec 1) (i : BitVec 5) (a : BitVec 7) (s : BitVec 1) (d : BitVec 5)
  /-- CPY (R211). Releases a copy command of xd bytes from [xb] to [xa] outside any chunk; counts in CC. -/
  | cpy (b a d : BitVec 7)
  /-- CPYW (R211). Copy command that also writes a completion record at the address held in xd+1. -/
  | cpyw (b a d : BitVec 7)
  /-- MSEND (R217). Sends the 64-bit payload to the target word's slot or channel as one singleton. -/
  | msend (b a : BitVec 7)
  /-- CHBIND (R219). Binds p15 or a w port to a channel of the calling core, with an optional scratchpad ring. -/
  | chbind (p : BitVec 5) (a : BitVec 7)
  /-- CHUNBIND (R219). Removes the port's channel binding. -/
  | chunbind (p : BitVec 5)
  /-- REDCFG (R221). Makes the thread a node of a reduction tree, naming its parent. -/
  | redcfg (b a : BitVec 7)
  /-- REDC (R222). Contributes a vector to the current round of a reduction tree. -/
  | redc (c : BitVec 4) (o : BitVec 2) (a : BitVec 7) (d : BitVec 5)
  /-- TSPAWN (R223). Creates a task of the ordered launch, taking effect when the chunk commits. -/
  | tspawn (b a d : BitVec 7)
  /-- TKEY (R226). Writes one word of the thread's key: the timestamp, or a word of the path. -/
  | tkey (a d : BitVec 7)
  /-- FORK (R224). Creates a child thread at commit and writes the child number to xd. -/
  | fork (b a d : BitVec 7)
  /-- JOIN (R225). Holds the thread until every child it has forked has executed exit. -/
  | join
  /-- RQPUT (R227). Appends a record to the core's ready queue at a priority, holding the thread while all 64 entries are in use. -/
  | rqput (b a : BitVec 7)
  /-- RQTAKE (R227). Removes the oldest entry of the highest priority in the mask, or writes 0 when there is none. -/
  | rqtake (b d : BitVec 7)
  /-- TMSET (R228). Writes the thread's TIMER at issue; a value of 0 disarms it. -/
  | tmset (a : BitVec 7)
  /-- SSTART (R229). Reads a start record, starts a thread in a slot of the issuing core and writes a status. -/
  | sstart (a d : BitVec 7)
  /-- SSTOP (R230). Stops a slot of the issuing core: discards its chunk, releases its resources and frees the slot once MC is zero. -/
  | sstop (a : BitVec 7)
  /-- EXIT (R231). Joins all children, waits for LC, SC and CC to reach zero, releases the thread's resources and ends the thread. -/
  | exit
  /-- TRAP (R232). Enters kernel level or higher with request code 128 + n. -/
  | trap (n : BitVec 7)
  /-- WFI (R234). Holds the thread until a qualifying interrupt is pending or an element is waiting in p15. -/
  | wfi
  /-- BRK (R232). Raises DEBUG with code n, or makes a debug stop when debug routing is on. -/
  | brk (n : BitVec 7)
  /-- ERET (R233). Returns to EPC, restoring the level and IE from the banked previous values. -/
  | eret
  /-- HCALL (R232). Enters hyper level or higher with request code 128 + n. -/
  | hcall (n : BitVec 7)
  /-- CSRR (R235). Reads a control register after the level check. -/
  | csrr (c : BitVec 10) (d : BitVec 7)
  /-- CSRW (R235). Ends the chunk before it and writes a control register at issue, with that register's own effects. -/
  | csrw (c : BitVec 10) (a : BitVec 7)
  /-- RDC (R112). Reads a user-readable control register, including the shared registers g0 to g15. -/
  | rdc (c : BitVec 10) (d : BitVec 7)
  /-- HINT (R91). A hint word of either class that has no effect and counts as one instruction. -/
  | hint (h : BitVec 24) (k : BitVec 1)
  /-- ADD (R95). Writes a + b. -/
  | add (b a d : BitVec 7)
  /-- SUB (R95). Writes a − b. -/
  | sub (b a d : BitVec 7)
  /-- AND (R95). Writes a AND b. -/
  | and (b a d : BitVec 7)
  /-- OR (R95). Writes a OR b. -/
  | or (b a d : BitVec 7)
  /-- XOR (R95). Writes a XOR b. -/
  | xor (b a d : BitVec 7)
  /-- ANDN (R95). Writes a AND NOT b. -/
  | andn (b a d : BitVec 7)
  /-- SLL (R95). Shifts a left by b[5:0], shifting in zeros. -/
  | sll (b a d : BitVec 7)
  /-- SRL (R95). Shifts a right by b[5:0], shifting in zeros. -/
  | srl (b a d : BitVec 7)
  /-- SRA (R95). Shifts a right by b[5:0], shifting in copies of the sign bit. -/
  | sra (b a d : BitVec 7)
  /-- ROL (R95). Rotates a left by b[5:0]. -/
  | rol (b a d : BitVec 7)
  /-- MIN (R95). Writes the signed minimum of a and b. -/
  | min (b a d : BitVec 7)
  /-- MAX (R95). Writes the signed maximum of a and b. -/
  | max (b a d : BitVec 7)
  /-- MINU (R95). Writes the unsigned minimum of a and b. -/
  | minu (b a d : BitVec 7)
  /-- MAXU (R95). Writes the unsigned maximum of a and b. -/
  | maxu (b a d : BitVec 7)
  /-- MULH (R95). Writes bits 127:64 of the exact signed product. -/
  | mulh (b a d : BitVec 7)
  /-- MULHU (R95). Writes bits 127:64 of the exact unsigned product. -/
  | mulhu (b a d : BitVec 7)
  /-- MUL (R95). Writes bits 63:0 of the product. -/
  | mul (b a d : BitVec 7)
  /-- DIV (R96). Signed division that rounds toward zero and never traps. -/
  | div (b a d : BitVec 7)
  /-- DIVU (R96). Unsigned division that never traps. -/
  | divu (b a d : BitVec 7)
  /-- REM (R96). Signed remainder, which takes the sign of the dividend. -/
  | rem (b a d : BitVec 7)
  /-- REMU (R96). Unsigned remainder. -/
  | remu (b a d : BitVec 7)
  /-- LEA_S1 (R95). Writes a + (b << 1). -/
  | leaS1 (b a d : BitVec 7)
  /-- LEA_S2 (R95). Writes a + (b << 2). -/
  | leaS2 (b a d : BitVec 7)
  /-- LEA_S3 (R95). Writes a + (b << 3). -/
  | leaS3 (b a d : BitVec 7)
  /-- ADDI (R97). Writes a plus the sign-extended 10-bit immediate. -/
  | addi (i : BitVec 10) (a d : BitVec 7)
  /-- ANDI (R98). Writes a AND the sign-extended 8-bit immediate. -/
  | andi (i : BitVec 8) (a d : BitVec 7)
  /-- ORI (R98). Writes a OR the sign-extended 8-bit immediate. -/
  | ori (i : BitVec 8) (a d : BitVec 7)
  /-- XORI (R98). Writes a XOR the sign-extended 8-bit immediate. -/
  | xori (i : BitVec 8) (a d : BitVec 7)
  /-- SLLI (R98). Shifts a left by the immediate amount. -/
  | slli (n : BitVec 6) (a d : BitVec 7)
  /-- SRLI (R98). Shifts a right by the immediate amount, shifting in zeros. -/
  | srli (n : BitVec 6) (a d : BitVec 7)
  /-- SRAI (R98). Shifts a right by the immediate amount, shifting in copies of the sign bit. -/
  | srai (n : BitVec 6) (a d : BitVec 7)
  /-- LIH (R99). Writes the sign-extended 16-bit immediate. -/
  | lih (v : BitVec 16) (d : BitVec 7)
  /-- LIH_M (R99). Shifts xd left by 16 and ORs in the 16-bit immediate. -/
  | lihM (v : BitVec 16) (d : BitVec 7)
  /-- CLZ (R100). Counts leading zero bits. -/
  | clz (a d : BitVec 7)
  /-- CTZ (R100). Counts trailing zero bits. -/
  | ctz (a d : BitVec 7)
  /-- POP (R100). Counts one bits. -/
  | pop (a d : BitVec 7)
  /-- BREV (R100). Reverses the order of the bits. -/
  | brev (a d : BitVec 7)
  /-- BEXT (R101). Extracts the bit field that the descriptor in xb names, optionally sign-extended. -/
  | bext (b a d : BitVec 7)
  /-- BINS (R101). Inserts the low bits of a into the bit field of xd that the descriptor names. -/
  | bins (b a d : BitVec 7)
  /-- FCVT (R178). Converts a scalar between integer and floating-point formats with the given rounding. -/
  | fcvt (r t s : BitVec 3) (a d : BitVec 7)
  /-- SEL (R105). Writes a when bit 0 of the predicate is 1, and b otherwise. -/
  | sel (k : BitVec 3) (b a d : BitVec 7)
  /-- PSET (R102). Compares two registers under an integer condition and writes the result to every bit of kd. -/
  | pset (b a : BitVec 7) (c : BitVec 4) (k : BitVec 3)
  /-- FCMP_HF (R176). binary16 scalar compare under a float condition, writing every bit of kd. -/
  | fcmpHf (b a : BitVec 7) (c : BitVec 4) (k : BitVec 3)
  /-- FCMP_BF (R176). bfloat16 scalar compare under a float condition, writing every bit of kd. -/
  | fcmpBf (b a : BitVec 7) (c : BitVec 4) (k : BitVec 3)
  /-- FCMP_S (R176). binary32 scalar compare under a float condition, writing every bit of kd. -/
  | fcmpS (b a : BitVec 7) (c : BitVec 4) (k : BitVec 3)
  /-- FCMP_D (R176). binary64 scalar compare under a float condition, writing every bit of kd. -/
  | fcmpD (b a : BitVec 7) (c : BitVec 4) (k : BitVec 3)
  /-- PSETI (R102). Compares a register with a sign-extended immediate and writes the result to every bit of kd. -/
  | pseti (i : BitVec 10) (a : BitVec 7) (c : BitVec 4) (k : BitVec 3)
  /-- PLOG (R103). Combines two predicates bit by bit with and, or, xor or andn. -/
  | plog (o : BitVec 2) (b a k : BitVec 3)
  /-- PMOV_K (R104). Writes a register to bits 63:0 of a predicate and clears the rest of the predicate. -/
  | pmovK (a : BitVec 7) (k : BitVec 3)
  /-- PMOV_X (R104). Writes bits 63:0 of a predicate to xd. -/
  | pmovX (a : BitVec 3) (d : BitVec 7)
  /-- FADD_HF (R175). binary16 add. -/
  | faddHf (b a d : BitVec 7)
  /-- FSUB_HF (R175). binary16 subtract. -/
  | fsubHf (b a d : BitVec 7)
  /-- FMUL_HF (R175). binary16 multiply. -/
  | fmulHf (b a d : BitVec 7)
  /-- FFMA_HF (R175). binary16 fused multiply-add into xd. -/
  | ffmaHf (b a d : BitVec 7)
  /-- FDIV_HF (R175). binary16 divide. -/
  | fdivHf (b a d : BitVec 7)
  /-- FMIN_HF (R175). binary16 minimum under R56. -/
  | fminHf (b a d : BitVec 7)
  /-- FMAX_HF (R175). binary16 maximum under R56. -/
  | fmaxHf (b a d : BitVec 7)
  /-- FSQRT_HF (R175). binary16 square root. -/
  | fsqrtHf (a d : BitVec 7)
  /-- FCLASS_HF (R177). Classifies a binary16 operand. -/
  | fclassHf (a d : BitVec 7)
  /-- FADD_BF (R175). bfloat16 add. -/
  | faddBf (b a d : BitVec 7)
  /-- FSUB_BF (R175). bfloat16 subtract. -/
  | fsubBf (b a d : BitVec 7)
  /-- FMUL_BF (R175). bfloat16 multiply. -/
  | fmulBf (b a d : BitVec 7)
  /-- FFMA_BF (R175). bfloat16 fused multiply-add into xd. -/
  | ffmaBf (b a d : BitVec 7)
  /-- FDIV_BF (R175). bfloat16 divide. -/
  | fdivBf (b a d : BitVec 7)
  /-- FMIN_BF (R175). bfloat16 minimum under R56. -/
  | fminBf (b a d : BitVec 7)
  /-- FMAX_BF (R175). bfloat16 maximum under R56. -/
  | fmaxBf (b a d : BitVec 7)
  /-- FSQRT_BF (R175). bfloat16 square root. -/
  | fsqrtBf (a d : BitVec 7)
  /-- FCLASS_BF (R177). Classifies a bfloat16 operand. -/
  | fclassBf (a d : BitVec 7)
  /-- FADD_S (R175). binary32 add. -/
  | faddS (b a d : BitVec 7)
  /-- FSUB_S (R175). binary32 subtract. -/
  | fsubS (b a d : BitVec 7)
  /-- FMUL_S (R175). binary32 multiply. -/
  | fmulS (b a d : BitVec 7)
  /-- FFMA_S (R175). binary32 fused multiply-add into xd. -/
  | ffmaS (b a d : BitVec 7)
  /-- FDIV_S (R175). binary32 divide. -/
  | fdivS (b a d : BitVec 7)
  /-- FMIN_S (R175). binary32 minimum under R56. -/
  | fminS (b a d : BitVec 7)
  /-- FMAX_S (R175). binary32 maximum under R56. -/
  | fmaxS (b a d : BitVec 7)
  /-- FSQRT_S (R175). binary32 square root. -/
  | fsqrtS (a d : BitVec 7)
  /-- FCLASS_S (R177). Classifies a binary32 operand. -/
  | fclassS (a d : BitVec 7)
  /-- FADD_D (R175). binary64 add. -/
  | faddD (b a d : BitVec 7)
  /-- FSUB_D (R175). binary64 subtract. -/
  | fsubD (b a d : BitVec 7)
  /-- FMUL_D (R175). binary64 multiply. -/
  | fmulD (b a d : BitVec 7)
  /-- FFMA_D (R175). binary64 fused multiply-add into xd. -/
  | ffmaD (b a d : BitVec 7)
  /-- FDIV_D (R175). binary64 divide. -/
  | fdivD (b a d : BitVec 7)
  /-- FMIN_D (R175). binary64 minimum under R56. -/
  | fminD (b a d : BitVec 7)
  /-- FMAX_D (R175). binary64 maximum under R56. -/
  | fmaxD (b a d : BitVec 7)
  /-- FSQRT_D (R175). binary64 square root. -/
  | fsqrtD (a d : BitVec 7)
  /-- FCLASS_D (R177). Classifies a binary64 operand. -/
  | fclassD (a d : BitVec 7)
  /-- VADD (R164). Vector integer add of the active elements. -/
  | vadd (s : BitVec 2) (v : BitVec 1) (m : BitVec 3) (b a d : BitVec 5)
  /-- VSUB (R164). Vector integer subtract. -/
  | vsub (s : BitVec 2) (v : BitVec 1) (m : BitVec 3) (b a d : BitVec 5)
  /-- VMUL (R164). Vector multiply, keeping the low bytes. -/
  | vmul (s : BitVec 2) (v : BitVec 1) (m : BitVec 3) (b a d : BitVec 5)
  /-- VMULH (R164). Vector multiply, keeping the high bytes of the signed product. -/
  | vmulh (s : BitVec 2) (v : BitVec 1) (m : BitVec 3) (b a d : BitVec 5)
  /-- VAND (R164). Vector bitwise and. -/
  | vand (s : BitVec 2) (v : BitVec 1) (m : BitVec 3) (b a d : BitVec 5)
  /-- VOR (R164). Vector bitwise or. -/
  | vor (s : BitVec 2) (v : BitVec 1) (m : BitVec 3) (b a d : BitVec 5)
  /-- VXOR (R164). Vector bitwise xor. -/
  | vxor (s : BitVec 2) (v : BitVec 1) (m : BitVec 3) (b a d : BitVec 5)
  /-- VSLL (R164). Vector shift left. -/
  | vsll (s : BitVec 2) (v : BitVec 1) (m : BitVec 3) (b a d : BitVec 5)
  /-- VSRL (R164). Vector logical shift right. -/
  | vsrl (s : BitVec 2) (v : BitVec 1) (m : BitVec 3) (b a d : BitVec 5)
  /-- VSRA (R164). Vector arithmetic shift right. -/
  | vsra (s : BitVec 2) (v : BitVec 1) (m : BitVec 3) (b a d : BitVec 5)
  /-- VMIN (R164). Vector signed minimum. -/
  | vmin (s : BitVec 2) (v : BitVec 1) (m : BitVec 3) (b a d : BitVec 5)
  /-- VMAX (R164). Vector signed maximum. -/
  | vmax (s : BitVec 2) (v : BitVec 1) (m : BitVec 3) (b a d : BitVec 5)
  /-- VMINU (R164). Vector unsigned minimum. -/
  | vminu (s : BitVec 2) (v : BitVec 1) (m : BitVec 3) (b a d : BitVec 5)
  /-- VMAXU (R164). Vector unsigned maximum. -/
  | vmaxu (s : BitVec 2) (v : BitVec 1) (m : BitVec 3) (b a d : BitVec 5)
  /-- VADD_X (R165). Vector add with a scalar second operand. -/
  | vaddX (s : BitVec 2) (m : BitVec 3) (b : BitVec 7) (a d : BitVec 5)
  /-- VSLL_X (R165). Vector shift left by a scalar amount. -/
  | vsllX (s : BitVec 2) (m : BitVec 3) (b : BitVec 7) (a d : BitVec 5)
  /-- VSRL_X (R165). Vector logical shift right by a scalar amount. -/
  | vsrlX (s : BitVec 2) (m : BitVec 3) (b : BitVec 7) (a d : BitVec 5)
  /-- VSRA_X (R165). Vector arithmetic shift right by a scalar amount. -/
  | vsraX (s : BitVec 2) (m : BitVec 3) (b : BitVec 7) (a d : BitVec 5)
  /-- VFADD (R164). Vector float add. -/
  | vfadd (s : BitVec 2) (v : BitVec 1) (m : BitVec 3) (b a d : BitVec 5)
  /-- VFSUB (R164). Vector float subtract. -/
  | vfsub (s : BitVec 2) (v : BitVec 1) (m : BitVec 3) (b a d : BitVec 5)
  /-- VFMUL (R164). Vector float multiply. -/
  | vfmul (s : BitVec 2) (v : BitVec 1) (m : BitVec 3) (b a d : BitVec 5)
  /-- VFFMA (R164). Vector fused multiply-add into vd. -/
  | vffma (s : BitVec 2) (v : BitVec 1) (m : BitVec 3) (b a d : BitVec 5)
  /-- VFMIN (R164). Vector float minimum. -/
  | vfmin (s : BitVec 2) (v : BitVec 1) (m : BitVec 3) (b a d : BitVec 5)
  /-- VFMAX (R164). Vector float maximum. -/
  | vfmax (s : BitVec 2) (v : BitVec 1) (m : BitVec 3) (b a d : BitVec 5)
  /-- VFDIV (R164). Vector float divide. -/
  | vfdiv (s : BitVec 2) (v : BitVec 1) (m : BitVec 3) (b a d : BitVec 5)
  /-- VFSQRT (R164). Vector float square root. -/
  | vfsqrt (s : BitVec 2) (v : BitVec 1) (m : BitVec 3) (a d : BitVec 5)
  /-- VFADD_X (R165). Vector float add with a scalar second operand. -/
  | vfaddX (s : BitVec 2) (m : BitVec 3) (b : BitVec 7) (a d : BitVec 5)
  /-- VFMUL_X (R165). Vector float multiply by a scalar. -/
  | vfmulX (s : BitVec 2) (m : BitVec 3) (b : BitVec 7) (a d : BitVec 5)
  /-- VFFMA_X (R165). Vector fused multiply-add with a scalar second operand. -/
  | vffmaX (s : BitVec 2) (m : BitVec 3) (b : BitVec 7) (a d : BitVec 5)
  /-- VCMP (R166). Vector integer compare into the bits of a predicate. -/
  | vcmp (s : BitVec 2) (c m : BitVec 3) (b a : BitVec 5) (k : BitVec 3)
  /-- VFCMP (R166). Vector float compare into the bits of a predicate. -/
  | vfcmp (s : BitVec 2) (c m : BitVec 3) (b a : BitVec 5) (k : BitVec 3)
  /-- VSEL (R167). Selects each element from a or b by a predicate bit. -/
  | vsel (s : BitVec 2) (m : BitVec 3) (b a d : BitVec 5)
  /-- VPERM (R167). Permutes the elements of a by the indices in b. -/
  | vperm (s : BitVec 2) (m : BitVec 3) (b a d : BitVec 5)
  /-- VCOMP (R167). Compacts the active elements of a to the front of vd. -/
  | vcomp (s : BitVec 2) (m : BitVec 3) (a d : BitVec 5)
  /-- VBCAST (R167). Broadcasts a scalar to the active elements. -/
  | vbcast (s : BitVec 2) (m : BitVec 3) (b : BitVec 7) (d : BitVec 5)
  /-- VSLIDE (R167). Slides the elements of a by a signed scalar amount. -/
  | vslide (s : BitVec 2) (m : BitVec 3) (b : BitVec 7) (a d : BitVec 5)
  /-- VEXT (R167). Extracts one sign-extended element into xd. -/
  | vext (s : BitVec 2) (b : BitVec 7) (a : BitVec 5) (d : BitVec 7)
  /-- VCVT (R168). Vector conversion to destination formats 0 to 7. -/
  | vcvt (r t m : BitVec 3) (v : BitVec 1) (s : BitVec 4) (a d : BitVec 5)
  /-- VCVT_NARROW (R168). Vector conversion to destination formats 8 to 15 (FP8, FP6 and FP4). -/
  | vcvtNarrow (r t m : BitVec 3) (v : BitVec 1) (s : BitVec 4) (a d : BitVec 5)
  /-- VCVT_SR (R169). Vector conversion with stochastic rounding, using the random vector vb. -/
  | vcvtSr (t : BitVec 4) (s : BitVec 2) (m : BitVec 3) (b a d : BitVec 5)
  /-- VRED (R170). Reduces the active elements by a tree sum, minimum or maximum into element 0. -/
  | vred (s : BitVec 2) (o m : BitVec 3) (a d : BitVec 5)
  /-- VSCAN (R170). Inclusive tree scan of the active elements. -/
  | vscan (s : BitVec 2) (o m : BitVec 3) (a d : BitVec 5)
  /-- VEXP2 (R171). Computes 2^x for each active element. -/
  | vexp2 (s : BitVec 2) (m : BitVec 3) (a d : BitVec 5)
  /-- VLOG2 (R171). Computes log2 x for each active element. -/
  | vlog2 (s : BitVec 2) (m : BitVec 3) (a d : BitVec 5)
  /-- VRCP (R171). Computes 1/x for each active element. -/
  | vrcp (s : BitVec 2) (m : BitVec 3) (a d : BitVec 5)
  /-- VRSQRT (R171). Computes 1/sqrt(x) for each active element. -/
  | vrsqrt (s : BitVec 2) (m : BitVec 3) (a d : BitVec 5)
  /-- VSIN (R171). Computes sin(pi x) for each active element. -/
  | vsin (s : BitVec 2) (m : BitVec 3) (a d : BitVec 5)
  /-- VCOS (R171). Computes cos(pi x) for each active element. -/
  | vcos (s : BitVec 2) (m : BitVec 3) (a d : BitVec 5)
  /-- VRNG (R173). Fills each active 64-bit element with ArxGen of the seed and that element's counter. -/
  | vrng (m : BitVec 3) (b : BitVec 7) (a d : BitVec 5)
  /-- VCLAIM (R156). Requests lanes from the pool, zeroes the granted lanes and writes the grant to xd. -/
  | vclaim (a d : BitVec 7)
  /-- VRENEW (R157). Renegotiates the lane grant, growing or shrinking it toward the fair share. -/
  | vrenew (a d : BitVec 7)
  /-- VREL (R158). Releases the lane claim and clears the unmet demand. -/
  | vrel
  /-- VLEN (R158). Writes VL at the given integer size. -/
  | vlen (s : BitVec 2) (d : BitVec 7)
  /-- MMA (R195). Checks the tile descriptors and releases a matrix multiply-accumulate command for formats .d to .i8. -/
  | mma (f : BitVec 3) (b a d : BitVec 7)
  /-- MMA_NARROW (R195). Matrix multiply-accumulate command for the FP6 and FP4 formats. -/
  | mmaNarrow (f : BitVec 3) (b a d : BitVec 7)
  /-- MMODE (R196). Command that sets the slot's summation mode at its place in the sub-queue. -/
  | mmode (a : BitVec 7)
  /-- MSCALE (R197). Command that sets the A and B scale descriptors. -/
  | mscale (b a : BitVec 7)
  /-- MBAR (R205). Command that completes when every earlier-accepted command of the partition in the cluster has completed. -/
  | mbar
  /-- MLD (R198). Command that copies scratchpad rows into the tile store. -/
  | mld (b a d : BitVec 7)
  /-- MST (R198). The thread copies tile rows into a scratchpad as the stores of one instruction, retrying while a row is locked. -/
  | mst (b a d : BitVec 7)
  /-- MRD (R200). Reads 8 bytes of a tile row into xd. -/
  | mrd (b a d : BitVec 7)
  /-- MZERO (R201). Command that zeroes 64 tile rows and clears their poison. -/
  | mzero (d : BitVec 7)
  /-- MDRAIN (R202). Command that converts an accumulator to the output format at the destination. -/
  | mdrain (f : BitVec 3) (a d : BitVec 7)
  /-- MTRANS (R203). Command that transposes a 128 × 128 region. -/
  | mtrans (a d : BitVec 7)
  /-- MCPY (R204). Command that copies 64 tile rows within the tile store. -/
  | mcpy (a d : BitVec 7)
  /-- INTERRUPT_TAKEN (R312). A pending, enabled interrupt ends the chunk and is taken with EPC at the next unit. -/
  | interruptTaken (gs : Nat)
  /-- TIMER_EXPIRY (R40). TIMER reaches zero and raises a TIMER interrupt to kernel level. -/
  | timerExpiry (gs : Nat)
  /-- CHUNK_END_CHUNKMAX (R238). The chunk's instruction count reaches CHUNKMAX and the chunk ends. -/
  | chunkEndChunkmax (gs : Nat)
  /-- CHUNK_CUT_CYCLES (R238). 20,000 cycles after the chunk's first issue, the chunk ends before the next unit. -/
  | chunkCutCycles (gs : Nat)
  /-- COMMIT_REQUEST (R247). Once the ended chunk's operations have been performed, its signatures go to the cluster arbiter and on upward. -/
  | commitRequest (gs : Nat)
  /-- COMMIT_GRANT (R248). An arbiter grants a non-conflicting request, fixing its place in the total order and broadcasting its write signature. -/
  | commitGrant (gs : Nat)
  /-- GRANT_ARRIVAL (R247). The grant reaches the core: CHSEQ rises, SQ clears and the next checkpoint becomes the oldest. -/
  | grantArrival (gs : Nat)
  /-- SIG (R271). A granted write signature arrives at cores and homes. -/
  | sig
  /-- DIRECT_FALLBACK (R253). SQ reaching 8 re-executes the chunk from its checkpoint in the unsquashable direct fallback. -/
  | directFallback (gs : Nat)
  /-- ENGINE_CHUNK_GRANT (R257). An engine chunk of at most 32 lines is granted and performs its reads and writes at its place in the order. -/
  | engineChunkGrant (eid : Nat)
  /-- COPY_COMPLETE (R213). A copy completes, writes its record if asked to and lowers CC. -/
  | copyComplete (cid : Nat)
  /-- COMBINING_RELEASE (R215). The combining node releases held copy commands, merging reads of identical sources. -/
  | combiningRelease (cl : Nat)
  /-- READS (R271). A request to the home to read a line shared. -/
  | reads (die : Nat) (line : Nat)
  /-- READM (R271). A committing die asks the home for M on a line. -/
  | readm (die : Nat) (line : Nat)
  /-- FWD (R271). The home asks the owner to send the line to the requester. -/
  | fwd (owner : Nat) (die : Nat) (line : Nat)
  /-- DATA (R271). A 128-byte line arrives at the requester. -/
  | data (die : Nat) (line : Nat)
  /-- WBACK (R271). Dirty data returns to the home L2. -/
  | wback (die : Nat) (line : Nat)
  /-- ACK (R271). Completes an invalidation, recall or write-back. -/
  | ack (die : Nat) (line : Nat)
  /-- INV (R271). After a grant, a sharer drops its copy. -/
  | inv (die : Nat) (line : Nat)
  /-- BINV (R272). After a snoop-filter eviction, a holder recalls its copy without any write. -/
  | binv (die : Nat) (line : Nat)
  /-- REMOTE_STORE_MESSAGE (R274). A remote-scratchpad store delivered at commit is written to the target bank. -/
  | remoteStoreMessage
  /-- LOAD_DATA_RETURN (R27). Load data is written to its destination in issue order and LC falls. -/
  | loadDataReturn (gs : Nat)
  /-- STORE_GLOBALLY_PERFORMED (R26). A direct-mode store is globally performed and SC falls. -/
  | storeGloballyPerformed (gs : Nat)
  /-- STREAM_PREFETCH_ARRIVAL (R138). A prefetched stream element arrives at its pattern engine. -/
  | streamPrefetchArrival (gs : Nat) (port : Nat)
  /-- MESSAGE_ARRIVAL (R217). A payload enters a p15 or channel arrival queue, or its ring, waking a held pop or wfi. -/
  | messageArrival (mid : Nat)
  /-- FULL_REPLY (R218). A full reply reaches the sender, which leaves rotation until its refused messages are accepted. -/
  | fullReply (mid : Nat)
  /-- MESSAGE_RESEND (R218). Once space appears, refused messages are resent in order. -/
  | messageResend (gs : Nat)
  /-- MESSAGE_REFUSAL (R220). A refusal returns to the sender, which takes MESSAGE, or an event of TYPE 6 is reported when the sender no longer runs. -/
  | messageRefusal (mid : Nat)
  /-- QRES_HEAD (R130). A qres request reaches the head of its queue and the home sends it the word's value. -/
  | qresHead (pa : Nat)
  /-- QREL_ACK (R130). The home acknowledges a release and the releasing thread resumes. -/
  | qrelAck (gs : Nat)
  /-- EDGE_ATOMIC_AT_HOME (R128). An edge atomic is performed at the home of its address. -/
  | edgeAtomicAtHome (gs : Nat)
  /-- EDGE_ATOMIC_RESPONSE (R128). The response of an edge atomic returns and the thread resumes. -/
  | edgeAtomicResponse (gs : Nat)
  /-- EDGE_WRITE_ACK (R260). The host or peer acknowledges a 64-byte edge-write piece. -/
  | edgeWriteAck (eid : Nat)
  /-- EDGE_WRITE_REFUSED (R260). A peer refuses a piece; the piece is dropped and a KIND 7 error record is written. -/
  | edgeWriteRefused (eid : Nat)
  /-- MONW_TIMEOUT (R147). The monw timeout passes and the thread returns with TMO set. -/
  | monwTimeout (gs : Nat)
  /-- WSLEEP_TIMEOUT (R149). The wsleep timeout passes and the thread returns with TMO set. -/
  | wsleepTimeout (gs : Nat)
  /-- MATRIX_COMMAND_ACCEPT (R189). A command at the head of its sub-queue starts when the lock rule allows it. -/
  | matrixCommandAccept (cl : Nat) (sq : Nat)
  /-- MATRIX_COMMAND_COMPLETE (R190). A matrix command completes: its locks and claims clear and MC falls. -/
  | matrixCommandComplete (cl : Nat) (sq : Nat)
  /-- REDUCTION_ROUND_DELIVER (R222). The root delivers a reduction round's total to its p15. -/
  | reductionRoundDeliver (vf : Nat) (tree : Nat)
  /-- CHILD_START (R224). A forked child starts in a free slot of the launch. -/
  | childStart (lid : Nat) (gs : Nat)
  /-- TASK_START (R303). A free slot of an ordered launch takes the lowest-key pending task. -/
  | taskStart (lid : Nat) (gs : Nat)
  /-- PASSED_OVER_ENTRY (R299). A deterministic wait is evaluated at its key place and either completes or is passed over. -/
  | passedOverEntry (gs : Nat)
  /-- QUEUE_NOTIFY (R285). A notify sets the queue's pending bit and maps the queue to a hardware queue slot where it can. -/
  | queueNotify (vf : Nat) (q : Nat)
  /-- LAUNCH_START (R289). The scheduler reads a head record whose wait events are met, checks it and starts the launch. -/
  | launchStart (vf : Nat) (q : Nat)
  /-- CORE_GROUP_START (R291). A core group starts once T slots and SPB scratchpad bytes are free on one core. -/
  | coreGroupStart (lid : Nat)
  /-- LAUNCH_COMPLETE (R295). All threads have exited: the completion record is written and CEV is raised. -/
  | launchComplete (lid : Nat)
  /-- ERROR_DETECTED (R401). SECDED, parity or residue checks detect an error, which is corrected, poisoned, retried or contained. -/
  | errorDetected (kind : Nat) (pa : Nat) (gs : Nat)
  /-- LINK_FLIT_ERROR (R405). A link flit fails its CRC and is resent. -/
  | linkFlitError
  /-- HEATHWAY_PORT_FAILURE (R405). A failing Heathway port is removed from the routes, keeping per-pair order. -/
  | heathwayPortFailure (port : Nat)
  /-- ACCESS_COUNTER_THRESHOLD (R352). COUNT reaches THR; a report is written or a region move starts. -/
  | accessCounterThreshold (vf : Nat) (host : Bool) (region : Nat)
  /-- REGION_MOVE_COMPLETE (R353). A region's copy finishes, its leaves are rewritten, and the report and notices are sent. -/
  | regionMoveComplete (vf : Nat)
  /-- CXL_MEM_READ (R258). A host read of package memory is served as a singleton at the home. -/
  | cxlMemRead (pa : Nat)
  /-- CXL_MEM_WRITE (R258). A host write of one line is granted by the home die arbiter and squashes intersecting chunks. -/
  | cxlMemWrite (pa : Nat) (bytes : List Byte)
  /-- CXL_CACHE_SNOOP (R348). A host snoop acts on the whole 128-byte device line. -/
  | cxlCacheSnoop (pa : Nat) (bytes : List Byte)
  /-- PACKAGE_RESET (R408). Firmware trains, zeroes memory, resets CYCLE and writes the hand-off block. -/
  | packageReset
  /-- HENTRY (R410). A HENTRY write while STATE = 1 starts the hypervisor thread. -/
  | hentry (v : BitVec 64)
  /-- FUNCTION_LEVEL_RESET (R404). A function-level reset of an SR-IOV function kills and drains its Emust function. -/
  | functionLevelReset (n : Nat)
  /-- THROTTLE_START (R407). Excess power or 105 °C starts idle wheel turns and writes a TYPE 15 record. -/
  | throttleStart (die : Nat) (cause : Nat) (frac : Nat)
  /-- THROTTLE_END (R407). The throttling cause ends and a TYPE 15 record is written. -/
  | throttleEnd (die : Nat)
  /-- THERMAL_RESET (R407). At 115 °C firmware resets the package and sets FAIL bit 1. -/
  | thermalReset
  /-- DBGEN (R398). Sets or clears the debug routing for a partition. -/
  | dbgen (part : ForDev Nat) (on : Bool)
  /-- BPSET (R398). Arms or clears an instruction-address breakpoint. -/
  | bpset (gc : ForDev Nat) (i : Nat) (bp : Option (Nat × Nat))
  /-- HALT (R399). Stops the named slots at the handover point. -/
  | halt (slots : ForDev (List Nat))
  /-- STEP (R398). Runs one stopped slot for one unit in direct mode. -/
  | step (gs : ForDev Nat)
  /-- DEBUG_RESUME (R398). Makes stopped slots ready again. -/
  | debugResume (slots : ForDev (List Nat))
  /-- DEBUG_READ (R398). Reads a stopped thread's state as a THREAD record. -/
  | debugRead (gs : ForDev Nat)
  /-- DEBUG_WRITE (R398). Writes a stopped thread's state from a THREAD record. -/
  | debugWrite (gs : ForDev Nat) (record : List (BitVec 64))
  /-- SAMPLING_PULSE (R395). At CYCLE mod P = 0, every started slot's PC and state are latched into a sample record. -/
  | samplingPulse
  /-- COUNTER_CONFIG (R393). A write to CFGi configures a counter and clears its value. -/
  | counterConfig (blk : Nat) (i : Nat) (v : BitVec 64)
  /-- SNAP (R394). Takes every counter in one cycle and writes the values and SNAPACK. -/
  | snap (blk : Nat) (v : BitVec 64)
  /-- TRACE_CONFIG (R397). A write to TBUF or TLOG resets TWPTR, TRPTR and TLOST. -/
  | traceConfig (blk : Nat)
  /-- TRPTR (R397). The owner records consumed trace records, making room for more. -/
  | trptr (blk : Nat) (v : BitVec 64)
  /-- TCLAIM (R373). A guest claims or releases a die's trace unit. -/
  | tclaim (vf : Nat) (die : Nat) (claim : Bool)
  /-- DRAIN_REQUEST (R323). A control-block write drains the named queue's started launch. -/
  | drainRequest (vf : Nat) (q : Nat)
  /-- REGISTER_WRITE (R37). A write to a register that has no behaviour of its own. -/
  | registerWrite (pa : Nat) (v : BitVec 64)
  /-- VSET (R365). Mailbox command that creates or deletes a virtual function, binding slots and scrubbing frames. -/
  | vset (c : MbCmd)
  /-- HSET (R359). Sets the hyper event ring, the event slot and the hypervisor's context. -/
  | hset (c : MbCmd)
  /-- CONTAIN (R320). Kills a context and reports the number of threads stopped. -/
  | contain (c : MbCmd)
  /-- DRAIN (R323). Mailbox command that drains a queue's started launch. -/
  | drain (c : MbCmd)
  /-- TRACE (R373). The hypervisor claims, releases or revokes a die's trace unit. -/
  | trace (c : MbCmd)
  /-- BSTOP (R326). Stops a cluster and begins its bale stop sequence. -/
  | bstop (c : MbCmd)
  /-- BALE_FREEZE (R326). Once granted commits finish and skids drain, the cluster freezes and flits park. -/
  | baleFreeze (cl : Nat)
  /-- BALE_STREAM_OUT_END (R326). The bale has been streamed out and the stop's result is written. -/
  | baleStreamOutEnd (cl : Nat)
  /-- BREST (R330). Checks a bale and restores it into a stopped, free cluster. -/
  | brest (c : MbCmd)
  /-- HOVER (R321). Requests a slot handover between two functions. -/
  | hover (c : MbCmd)
  /-- SLOT_HANDOVER (R321). An outgoing slot reaches its handover point and its state is saved. -/
  | slotHandover (gs : Nat)
  /-- HANDOVER_RESUME (R322). A handed-over thread resumes once its saved grant of lanes is free. -/
  | handoverResume (gs : Nat)
  /-- SCRUB_COMPLETE (R369). The scrubs that a command started finish and its result is written. -/
  | scrubComplete
  /-- PRECOPY (R375). REQ 1 produces the CONFIG steps while the function runs. -/
  | precopy (vf : Nat)
  /-- STOPPING (R377). REQ 2 stops the function on the source. -/
  | stopping (vf : Nat)
  /-- ABORT (R375). REQ 3 returns the function to RUNNING where the state allows. -/
  | abort (vf : Nat)
  /-- RESUMING (R375). REQ 4 makes the destination accept steps. -/
  | resuming (vf : Nat)
  /-- MIGRATION_STOPPED (R377). Every stop step is done; the source enters STOPPED and produces the state steps. -/
  | migrationStopped (vf : Nat)
  /-- MACK_RELEASE (R378). On the source, a MACK write of STEPS releases the window for the next step. -/
  | mackRelease (vf : Nat)
  /-- MACK_SUBMIT (R378). On the destination, a MACK write of STEPS + 1 submits the window for checking. -/
  | mackSubmit (vf : Nat)
  /-- PULLALL (R383). The destination pulls every remaining page in ascending order. -/
  | pullall (vf : Nat)
  /-- PULL (R382). The source gives up a page with its ownership records. -/
  | pull (vf : Nat) (page : Nat)
  /-- PULL_DATA (R382). The destination writes a pulled page and sets its presence bit. -/
  | pullData (vf : Nat) (page : Nat) (bytes : List Byte) (pois : List Nat) (recs : List (List (BitVec 64)))
  /-- STARTED (R375). The source learns that the destination runs the function and sends REMAP. -/
  | started (vf : Nat)
  /-- DONE (R375). The source learns that every page and peer has been settled. -/
  | done (vf : Nat)
  /-- REMAP (R389). A peer part posts a remap event to its hyper ring. -/
  | remap (src : BitVec 64) (dst : BitVec 64)
  /-- REMAPACK (R389). A peer acknowledges its rewritten entry; the source sends FWDEND and lowers PEERS. -/
  | remapack (vf : Nat) (dev : Nat)
  /-- FWDEND (R389). The destination releases the peer's held direct accesses. -/
  | fwdend (vf : Nat) (dev : Nat)
  /-- PEER_ACCESS_ARRIVAL (R259). A load, edge write or forwarded access from a peer part arrives over Heathway and is performed at this part's home after its stage two for PVF. -/
  | peerAccessArrival (a : PeerAccess)
  /-- BALE_STREAM_IN_END (R330). A restore's stream-in ends: skids are re-injected, the parking queue drains, the chunk check of R332 runs, the clock starts and the result is written. -/
  | baleStreamInEnd (cl : Nat)
  /-- PSET (R361). Mailbox command that creates, replaces or deletes a partition. -/
  | mbPset (c : MbCmd)
  /-- PLOG (R360). Mailbox command that sets a partition log and POLICY. -/
  | mbPlog (c : MbCmd)
deriving DecidableEq, Repr

end Sys2Proof
end

