-- ==== Sys2Proof/WellFormed.lean ====
section
/-!
DEFINITION. Which instructions are well formed: every function field holds an assigned value (R85).
Operand fields are not checked here: a value they do not admit traps with ILLEGAL_OPERAND when the unit is issued (R92).
-/

namespace Sys2Proof

/-- The function fields of the instruction hold assigned values (R85 and the map entry of each row).
A row without an encoding has no function field. -/
def Instr.wellFormed : Instr → Bool
  | .pf _ _ _ h => h.toNat ≤ 2
  | .amo s c _ _ => 2 ≤ s.toNat && c.toNat ≤ 9
  | .amoE s c _ _ => 2 ≤ s.toNat && c.toNat ≤ 9
  | .amof s c _ _ => 2 ≤ s.toNat && c.toNat ≤ 9
  | .amofE s c _ _ => 2 ≤ s.toNat && c.toNat ≤ 9
  | .sopen r w t _ p _ => !(r == 1 && p.toNat < 16) && !(w == 1 && t == 1)
  | .redc c o _ _ => c.toNat ≤ 7 && o.toNat ≤ 2
  | .fcvt r t s _ _ => r.toNat != 6 && t.toNat ≤ 6 && s.toNat ≤ 6
  | .pset _ _ c _ => c.toNat ≤ 5
  | .fcmpHf _ _ c _ => c.toNat ≤ 6
  | .fcmpBf _ _ c _ => c.toNat ≤ 6
  | .fcmpS _ _ c _ => c.toNat ≤ 6
  | .fcmpD _ _ c _ => c.toNat ≤ 6
  | .pseti _ _ c _ => c.toNat ≤ 5
  | .vcmp _ c _ _ _ _ => c.toNat ≤ 5
  | .vfcmp _ c _ _ _ _ => c.toNat ≤ 6
  | .vcvt r _ _ _ s _ _ => r.toNat != 5 && r.toNat != 6 && s.toNat ≤ 12
  | .vcvtNarrow r t _ _ s _ _ => r.toNat != 5 && r.toNat != 6 && s.toNat ≤ 12 && t.toNat ≤ 4
  | .vcvtSr t _ _ _ _ _ => t.toNat ≤ 12
  | .vexp2 s _ _ _ => s.toNat ≤ 2
  | .vlog2 s _ _ _ => s.toNat ≤ 2
  | .vrcp s _ _ _ => s.toNat ≤ 2
  | .vrsqrt s _ _ _ => s.toNat ≤ 2
  | .vsin s _ _ _ => s.toNat ≤ 2
  | .vcos s _ _ _ => s.toNat ≤ 2
  | .mma f _ _ _ => f.toNat ≤ 6
  | .mmaNarrow f _ _ _ => f.toNat ≤ 2
  | .mdrain f _ _ => f.toNat ≤ 6
  | .ld .. | .ldz .. | .st .. | .ldx .. | .stx .. | .ldm .. | .stm .. | .ldk .. | .cas .. | .qres ..
  | .qrel .. | .br .. | .jmp .. | .brEnd .. | .jal .. | .jalr .. | .loop .. | .sclose .. | .sseek ..
  | .spos .. | .fence | .fenceE | .wait .. | .mona .. | .monw .. | .watch .. | .wsleep .. | .cut | .direct
  | .resume | .lock .. | .unlock .. | .clean .. | .inval .. | .iflush .. | .isync | .vld .. | .vst ..
  | .vlds .. | .vsts .. | .vgat .. | .vsct .. | .cpy .. | .cpyw .. | .msend .. | .chbind .. | .chunbind ..
  | .redcfg .. | .tspawn .. | .tkey .. | .fork .. | .join | .rqput .. | .rqtake .. | .tmset .. | .sstart ..
  | .sstop .. | .exit | .trap .. | .wfi | .brk .. | .eret | .hcall .. | .csrr .. | .csrw .. | .rdc ..
  | .hint .. | .add .. | .sub .. | .and .. | .or .. | .xor .. | .andn .. | .sll .. | .srl .. | .sra ..
  | .rol .. | .min .. | .max .. | .minu .. | .maxu .. | .mulh .. | .mulhu .. | .mul .. | .div .. | .divu ..
  | .rem .. | .remu .. | .leaS1 .. | .leaS2 .. | .leaS3 .. | .addi .. | .andi .. | .ori .. | .xori ..
  | .slli .. | .srli .. | .srai .. | .lih .. | .lihM .. | .clz .. | .ctz .. | .pop .. | .brev .. | .bext ..
  | .bins .. | .sel .. | .plog .. | .pmovK .. | .pmovX .. | .faddHf .. | .fsubHf .. | .fmulHf .. | .ffmaHf ..
  | .fdivHf .. | .fminHf .. | .fmaxHf .. | .fsqrtHf .. | .fclassHf .. | .faddBf .. | .fsubBf .. | .fmulBf ..
  | .ffmaBf .. | .fdivBf .. | .fminBf .. | .fmaxBf .. | .fsqrtBf .. | .fclassBf .. | .faddS .. | .fsubS ..
  | .fmulS .. | .ffmaS .. | .fdivS .. | .fminS .. | .fmaxS .. | .fsqrtS .. | .fclassS .. | .faddD ..
  | .fsubD .. | .fmulD .. | .ffmaD .. | .fdivD .. | .fminD .. | .fmaxD .. | .fsqrtD .. | .fclassD ..
  | .vadd .. | .vsub .. | .vmul .. | .vmulh .. | .vand .. | .vor .. | .vxor .. | .vsll .. | .vsrl ..
  | .vsra .. | .vmin .. | .vmax .. | .vminu .. | .vmaxu .. | .vaddX .. | .vsllX .. | .vsrlX .. | .vsraX ..
  | .vfadd .. | .vfsub .. | .vfmul .. | .vffma .. | .vfmin .. | .vfmax .. | .vfdiv .. | .vfsqrt ..
  | .vfaddX .. | .vfmulX .. | .vffmaX .. | .vsel .. | .vperm .. | .vcomp .. | .vbcast .. | .vslide ..
  | .vext .. | .vred .. | .vscan .. | .vrng .. | .vclaim .. | .vrenew .. | .vrel | .vlen .. | .mmode ..
  | .mscale .. | .mbar | .mld .. | .mst .. | .mrd .. | .mzero .. | .mtrans .. | .mcpy .. | .interruptTaken ..
  | .timerExpiry .. | .chunkEndChunkmax .. | .chunkCutCycles .. | .commitRequest .. | .commitGrant ..
  | .grantArrival .. | .sig | .directFallback .. | .engineChunkGrant .. | .copyComplete ..
  | .combiningRelease .. | .reads .. | .readm .. | .fwd .. | .data .. | .wback .. | .ack .. | .inv ..
  | .binv .. | .remoteStoreMessage | .loadDataReturn .. | .storeGloballyPerformed ..
  | .streamPrefetchArrival .. | .messageArrival .. | .fullReply .. | .messageResend .. | .messageRefusal ..
  | .qresHead .. | .qrelAck .. | .edgeAtomicAtHome .. | .edgeAtomicResponse .. | .edgeWriteAck ..
  | .edgeWriteRefused .. | .monwTimeout .. | .wsleepTimeout .. | .matrixCommandAccept ..
  | .matrixCommandComplete .. | .reductionRoundDeliver .. | .childStart .. | .taskStart ..
  | .passedOverEntry .. | .queueNotify .. | .launchStart .. | .coreGroupStart .. | .launchComplete ..
  | .errorDetected .. | .linkFlitError | .heathwayPortFailure .. | .accessCounterThreshold ..
  | .regionMoveComplete .. | .cxlMemRead .. | .cxlMemWrite .. | .cxlCacheSnoop .. | .packageReset
  | .hentry .. | .functionLevelReset .. | .throttleStart .. | .throttleEnd .. | .thermalReset | .dbgen ..
  | .bpset .. | .halt .. | .step .. | .debugResume .. | .debugRead .. | .debugWrite .. | .samplingPulse
  | .counterConfig .. | .snap .. | .traceConfig .. | .trptr .. | .tclaim .. | .drainRequest ..
  | .registerWrite .. | .vset .. | .hset .. | .contain .. | .drain .. | .trace .. | .bstop ..
  | .baleFreeze .. | .baleStreamOutEnd .. | .brest .. | .hover .. | .slotHandover .. | .handoverResume ..
  | .scrubComplete | .precopy .. | .stopping .. | .abort .. | .resuming .. | .migrationStopped ..
  | .mackRelease .. | .mackSubmit .. | .pullall .. | .pull .. | .pullData .. | .started .. | .done ..
  | .remap .. | .remapack .. | .fwdend .. | .peerAccessArrival .. | .baleStreamInEnd .. | .mbPset ..
  | .mbPlog .. => true

/-- The row has a 32-bit encoding (R80). -/
def Instr.encodable : Instr → Bool
  | .ld .. | .ldz .. | .st .. | .ldx .. | .stx .. | .ldm .. | .stm .. | .ldk .. | .pf .. | .amo .. | .amoE ..
  | .amof .. | .amofE .. | .cas .. | .qres .. | .qrel .. | .br .. | .jmp .. | .brEnd .. | .jal .. | .jalr ..
  | .loop .. | .sopen .. | .sclose .. | .sseek .. | .spos .. | .fence | .fenceE | .wait .. | .mona ..
  | .monw .. | .watch .. | .wsleep .. | .cut | .direct | .resume | .lock .. | .unlock .. | .clean ..
  | .inval .. | .iflush .. | .isync | .vld .. | .vst .. | .vlds .. | .vsts .. | .vgat .. | .vsct .. | .cpy ..
  | .cpyw .. | .msend .. | .chbind .. | .chunbind .. | .redcfg .. | .redc .. | .tspawn .. | .tkey ..
  | .fork .. | .join | .rqput .. | .rqtake .. | .tmset .. | .sstart .. | .sstop .. | .exit | .trap .. | .wfi
  | .brk .. | .eret | .hcall .. | .csrr .. | .csrw .. | .rdc .. | .hint .. | .add .. | .sub .. | .and ..
  | .or .. | .xor .. | .andn .. | .sll .. | .srl .. | .sra .. | .rol .. | .min .. | .max .. | .minu ..
  | .maxu .. | .mulh .. | .mulhu .. | .mul .. | .div .. | .divu .. | .rem .. | .remu .. | .leaS1 ..
  | .leaS2 .. | .leaS3 .. | .addi .. | .andi .. | .ori .. | .xori .. | .slli .. | .srli .. | .srai ..
  | .lih .. | .lihM .. | .clz .. | .ctz .. | .pop .. | .brev .. | .bext .. | .bins .. | .fcvt .. | .sel ..
  | .pset .. | .fcmpHf .. | .fcmpBf .. | .fcmpS .. | .fcmpD .. | .pseti .. | .plog .. | .pmovK .. | .pmovX ..
  | .faddHf .. | .fsubHf .. | .fmulHf .. | .ffmaHf .. | .fdivHf .. | .fminHf .. | .fmaxHf .. | .fsqrtHf ..
  | .fclassHf .. | .faddBf .. | .fsubBf .. | .fmulBf .. | .ffmaBf .. | .fdivBf .. | .fminBf .. | .fmaxBf ..
  | .fsqrtBf .. | .fclassBf .. | .faddS .. | .fsubS .. | .fmulS .. | .ffmaS .. | .fdivS .. | .fminS ..
  | .fmaxS .. | .fsqrtS .. | .fclassS .. | .faddD .. | .fsubD .. | .fmulD .. | .ffmaD .. | .fdivD ..
  | .fminD .. | .fmaxD .. | .fsqrtD .. | .fclassD .. | .vadd .. | .vsub .. | .vmul .. | .vmulh .. | .vand ..
  | .vor .. | .vxor .. | .vsll .. | .vsrl .. | .vsra .. | .vmin .. | .vmax .. | .vminu .. | .vmaxu ..
  | .vaddX .. | .vsllX .. | .vsrlX .. | .vsraX .. | .vfadd .. | .vfsub .. | .vfmul .. | .vffma .. | .vfmin ..
  | .vfmax .. | .vfdiv .. | .vfsqrt .. | .vfaddX .. | .vfmulX .. | .vffmaX .. | .vcmp .. | .vfcmp ..
  | .vsel .. | .vperm .. | .vcomp .. | .vbcast .. | .vslide .. | .vext .. | .vcvt .. | .vcvtNarrow ..
  | .vcvtSr .. | .vred .. | .vscan .. | .vexp2 .. | .vlog2 .. | .vrcp .. | .vrsqrt .. | .vsin .. | .vcos ..
  | .vrng .. | .vclaim .. | .vrenew .. | .vrel | .vlen .. | .mma .. | .mmaNarrow .. | .mmode .. | .mscale ..
  | .mbar | .mld .. | .mst .. | .mrd .. | .mzero .. | .mdrain .. | .mtrans .. | .mcpy .. => true
  | .interruptTaken .. | .timerExpiry .. | .chunkEndChunkmax .. | .chunkCutCycles .. | .commitRequest ..
  | .commitGrant .. | .grantArrival .. | .sig | .directFallback .. | .engineChunkGrant .. | .copyComplete ..
  | .combiningRelease .. | .reads .. | .readm .. | .fwd .. | .data .. | .wback .. | .ack .. | .inv ..
  | .binv .. | .remoteStoreMessage | .loadDataReturn .. | .storeGloballyPerformed ..
  | .streamPrefetchArrival .. | .messageArrival .. | .fullReply .. | .messageResend .. | .messageRefusal ..
  | .qresHead .. | .qrelAck .. | .edgeAtomicAtHome .. | .edgeAtomicResponse .. | .edgeWriteAck ..
  | .edgeWriteRefused .. | .monwTimeout .. | .wsleepTimeout .. | .matrixCommandAccept ..
  | .matrixCommandComplete .. | .reductionRoundDeliver .. | .childStart .. | .taskStart ..
  | .passedOverEntry .. | .queueNotify .. | .launchStart .. | .coreGroupStart .. | .launchComplete ..
  | .errorDetected .. | .linkFlitError | .heathwayPortFailure .. | .accessCounterThreshold ..
  | .regionMoveComplete .. | .cxlMemRead .. | .cxlMemWrite .. | .cxlCacheSnoop .. | .packageReset
  | .hentry .. | .functionLevelReset .. | .throttleStart .. | .throttleEnd .. | .thermalReset | .dbgen ..
  | .bpset .. | .halt .. | .step .. | .debugResume .. | .debugRead .. | .debugWrite .. | .samplingPulse
  | .counterConfig .. | .snap .. | .traceConfig .. | .trptr .. | .tclaim .. | .drainRequest ..
  | .registerWrite .. | .vset .. | .hset .. | .contain .. | .drain .. | .trace .. | .bstop ..
  | .baleFreeze .. | .baleStreamOutEnd .. | .brest .. | .hover .. | .slotHandover .. | .handoverResume ..
  | .scrubComplete | .precopy .. | .stopping .. | .abort .. | .resuming .. | .migrationStopped ..
  | .mackRelease .. | .mackSubmit .. | .pullall .. | .pull .. | .pullData .. | .started .. | .done ..
  | .remap .. | .remapack .. | .fwdend .. | .peerAccessArrival .. | .baleStreamInEnd .. | .mbPset ..
  | .mbPlog .. => false

/-- The word is A-class, executed by the execute half (R80, bit 1). A row without an encoding has no class. -/
def Instr.isA : Instr → Bool
  | .hint _ k => k == 1
  | .add .. | .sub .. | .and .. | .or .. | .xor .. | .andn .. | .sll .. | .srl .. | .sra .. | .rol ..
  | .min .. | .max .. | .minu .. | .maxu .. | .mulh .. | .mulhu .. | .mul .. | .div .. | .divu .. | .rem ..
  | .remu .. | .leaS1 .. | .leaS2 .. | .leaS3 .. | .addi .. | .andi .. | .ori .. | .xori .. | .slli ..
  | .srli .. | .srai .. | .lih .. | .lihM .. | .clz .. | .ctz .. | .pop .. | .brev .. | .bext .. | .bins ..
  | .fcvt .. | .sel .. | .pset .. | .fcmpHf .. | .fcmpBf .. | .fcmpS .. | .fcmpD .. | .pseti .. | .plog ..
  | .pmovK .. | .pmovX .. | .faddHf .. | .fsubHf .. | .fmulHf .. | .ffmaHf .. | .fdivHf .. | .fminHf ..
  | .fmaxHf .. | .fsqrtHf .. | .fclassHf .. | .faddBf .. | .fsubBf .. | .fmulBf .. | .ffmaBf .. | .fdivBf ..
  | .fminBf .. | .fmaxBf .. | .fsqrtBf .. | .fclassBf .. | .faddS .. | .fsubS .. | .fmulS .. | .ffmaS ..
  | .fdivS .. | .fminS .. | .fmaxS .. | .fsqrtS .. | .fclassS .. | .faddD .. | .fsubD .. | .fmulD ..
  | .ffmaD .. | .fdivD .. | .fminD .. | .fmaxD .. | .fsqrtD .. | .fclassD .. | .vadd .. | .vsub .. | .vmul ..
  | .vmulh .. | .vand .. | .vor .. | .vxor .. | .vsll .. | .vsrl .. | .vsra .. | .vmin .. | .vmax ..
  | .vminu .. | .vmaxu .. | .vaddX .. | .vsllX .. | .vsrlX .. | .vsraX .. | .vfadd .. | .vfsub .. | .vfmul ..
  | .vffma .. | .vfmin .. | .vfmax .. | .vfdiv .. | .vfsqrt .. | .vfaddX .. | .vfmulX .. | .vffmaX ..
  | .vcmp .. | .vfcmp .. | .vsel .. | .vperm .. | .vcomp .. | .vbcast .. | .vslide .. | .vext .. | .vcvt ..
  | .vcvtNarrow .. | .vcvtSr .. | .vred .. | .vscan .. | .vexp2 .. | .vlog2 .. | .vrcp .. | .vrsqrt ..
  | .vsin .. | .vcos .. | .vrng .. | .vclaim .. | .vrenew .. | .vrel | .vlen .. | .mma .. | .mmaNarrow ..
  | .mmode .. | .mscale .. | .mbar | .mld .. | .mst .. | .mrd .. | .mzero .. | .mdrain .. | .mtrans ..
  | .mcpy .. => true
  | .ld .. | .ldz .. | .st .. | .ldx .. | .stx .. | .ldm .. | .stm .. | .ldk .. | .pf .. | .amo .. | .amoE ..
  | .amof .. | .amofE .. | .cas .. | .qres .. | .qrel .. | .br .. | .jmp .. | .brEnd .. | .jal .. | .jalr ..
  | .loop .. | .sopen .. | .sclose .. | .sseek .. | .spos .. | .fence | .fenceE | .wait .. | .mona ..
  | .monw .. | .watch .. | .wsleep .. | .cut | .direct | .resume | .lock .. | .unlock .. | .clean ..
  | .inval .. | .iflush .. | .isync | .vld .. | .vst .. | .vlds .. | .vsts .. | .vgat .. | .vsct .. | .cpy ..
  | .cpyw .. | .msend .. | .chbind .. | .chunbind .. | .redcfg .. | .redc .. | .tspawn .. | .tkey ..
  | .fork .. | .join | .rqput .. | .rqtake .. | .tmset .. | .sstart .. | .sstop .. | .exit | .trap .. | .wfi
  | .brk .. | .eret | .hcall .. | .csrr .. | .csrw .. | .rdc ..
  | .interruptTaken .. | .timerExpiry .. | .chunkEndChunkmax .. | .chunkCutCycles .. | .commitRequest ..
  | .commitGrant .. | .grantArrival .. | .sig | .directFallback .. | .engineChunkGrant .. | .copyComplete ..
  | .combiningRelease .. | .reads .. | .readm .. | .fwd .. | .data .. | .wback .. | .ack .. | .inv ..
  | .binv .. | .remoteStoreMessage | .loadDataReturn .. | .storeGloballyPerformed ..
  | .streamPrefetchArrival .. | .messageArrival .. | .fullReply .. | .messageResend .. | .messageRefusal ..
  | .qresHead .. | .qrelAck .. | .edgeAtomicAtHome .. | .edgeAtomicResponse .. | .edgeWriteAck ..
  | .edgeWriteRefused .. | .monwTimeout .. | .wsleepTimeout .. | .matrixCommandAccept ..
  | .matrixCommandComplete .. | .reductionRoundDeliver .. | .childStart .. | .taskStart ..
  | .passedOverEntry .. | .queueNotify .. | .launchStart .. | .coreGroupStart .. | .launchComplete ..
  | .errorDetected .. | .linkFlitError | .heathwayPortFailure .. | .accessCounterThreshold ..
  | .regionMoveComplete .. | .cxlMemRead .. | .cxlMemWrite .. | .cxlCacheSnoop .. | .packageReset
  | .hentry .. | .functionLevelReset .. | .throttleStart .. | .throttleEnd .. | .thermalReset | .dbgen ..
  | .bpset .. | .halt .. | .step .. | .debugResume .. | .debugRead .. | .debugWrite .. | .samplingPulse
  | .counterConfig .. | .snap .. | .traceConfig .. | .trptr .. | .tclaim .. | .drainRequest ..
  | .registerWrite .. | .vset .. | .hset .. | .contain .. | .drain .. | .trace .. | .bstop ..
  | .baleFreeze .. | .baleStreamOutEnd .. | .brest .. | .hover .. | .slotHandover .. | .handoverResume ..
  | .scrubComplete | .precopy .. | .stopping .. | .abort .. | .resuming .. | .migrationStopped ..
  | .mackRelease .. | .mackSubmit .. | .pullall .. | .pull .. | .pullData .. | .started .. | .done ..
  | .remap .. | .remapack .. | .fwdend .. | .peerAccessArrival .. | .baleStreamInEnd .. | .mbPset ..
  | .mbPlog .. => false

/-- A word of major 0x30, which stands only in a unit of two lone words (R81). -/
def Instr.loneOnly : Instr → Bool
  | .exit | .trap .. | .wfi | .brk .. | .eret | .hcall .. => true
  | .ld .. | .ldz .. | .st .. | .ldx .. | .stx .. | .ldm .. | .stm .. | .ldk .. | .pf .. | .amo .. | .amoE ..
  | .amof .. | .amofE .. | .cas .. | .qres .. | .qrel .. | .br .. | .jmp .. | .brEnd .. | .jal .. | .jalr ..
  | .loop .. | .sopen .. | .sclose .. | .sseek .. | .spos .. | .fence | .fenceE | .wait .. | .mona ..
  | .monw .. | .watch .. | .wsleep .. | .cut | .direct | .resume | .lock .. | .unlock .. | .clean ..
  | .inval .. | .iflush .. | .isync | .vld .. | .vst .. | .vlds .. | .vsts .. | .vgat .. | .vsct .. | .cpy ..
  | .cpyw .. | .msend .. | .chbind .. | .chunbind .. | .redcfg .. | .redc .. | .tspawn .. | .tkey ..
  | .fork .. | .join | .rqput .. | .rqtake .. | .tmset .. | .sstart .. | .sstop .. | .csrr .. | .csrw ..
  | .rdc .. | .hint .. | .add .. | .sub .. | .and .. | .or .. | .xor .. | .andn .. | .sll .. | .srl ..
  | .sra .. | .rol .. | .min .. | .max .. | .minu .. | .maxu .. | .mulh .. | .mulhu .. | .mul .. | .div ..
  | .divu .. | .rem .. | .remu .. | .leaS1 .. | .leaS2 .. | .leaS3 .. | .addi .. | .andi .. | .ori ..
  | .xori .. | .slli .. | .srli .. | .srai .. | .lih .. | .lihM .. | .clz .. | .ctz .. | .pop .. | .brev ..
  | .bext .. | .bins .. | .fcvt .. | .sel .. | .pset .. | .fcmpHf .. | .fcmpBf .. | .fcmpS .. | .fcmpD ..
  | .pseti .. | .plog .. | .pmovK .. | .pmovX .. | .faddHf .. | .fsubHf .. | .fmulHf .. | .ffmaHf ..
  | .fdivHf .. | .fminHf .. | .fmaxHf .. | .fsqrtHf .. | .fclassHf .. | .faddBf .. | .fsubBf .. | .fmulBf ..
  | .ffmaBf .. | .fdivBf .. | .fminBf .. | .fmaxBf .. | .fsqrtBf .. | .fclassBf .. | .faddS .. | .fsubS ..
  | .fmulS .. | .ffmaS .. | .fdivS .. | .fminS .. | .fmaxS .. | .fsqrtS .. | .fclassS .. | .faddD ..
  | .fsubD .. | .fmulD .. | .ffmaD .. | .fdivD .. | .fminD .. | .fmaxD .. | .fsqrtD .. | .fclassD ..
  | .vadd .. | .vsub .. | .vmul .. | .vmulh .. | .vand .. | .vor .. | .vxor .. | .vsll .. | .vsrl ..
  | .vsra .. | .vmin .. | .vmax .. | .vminu .. | .vmaxu .. | .vaddX .. | .vsllX .. | .vsrlX .. | .vsraX ..
  | .vfadd .. | .vfsub .. | .vfmul .. | .vffma .. | .vfmin .. | .vfmax .. | .vfdiv .. | .vfsqrt ..
  | .vfaddX .. | .vfmulX .. | .vffmaX .. | .vcmp .. | .vfcmp .. | .vsel .. | .vperm .. | .vcomp ..
  | .vbcast .. | .vslide .. | .vext .. | .vcvt .. | .vcvtNarrow .. | .vcvtSr .. | .vred .. | .vscan ..
  | .vexp2 .. | .vlog2 .. | .vrcp .. | .vrsqrt .. | .vsin .. | .vcos .. | .vrng .. | .vclaim .. | .vrenew ..
  | .vrel | .vlen .. | .mma .. | .mmaNarrow .. | .mmode .. | .mscale .. | .mbar | .mld .. | .mst .. | .mrd ..
  | .mzero .. | .mdrain .. | .mtrans .. | .mcpy .. | .interruptTaken .. | .timerExpiry ..
  | .chunkEndChunkmax .. | .chunkCutCycles .. | .commitRequest .. | .commitGrant .. | .grantArrival .. | .sig
  | .directFallback .. | .engineChunkGrant .. | .copyComplete .. | .combiningRelease .. | .reads ..
  | .readm .. | .fwd .. | .data .. | .wback .. | .ack .. | .inv .. | .binv .. | .remoteStoreMessage
  | .loadDataReturn .. | .storeGloballyPerformed .. | .streamPrefetchArrival .. | .messageArrival ..
  | .fullReply .. | .messageResend .. | .messageRefusal .. | .qresHead .. | .qrelAck ..
  | .edgeAtomicAtHome .. | .edgeAtomicResponse .. | .edgeWriteAck .. | .edgeWriteRefused .. | .monwTimeout ..
  | .wsleepTimeout .. | .matrixCommandAccept .. | .matrixCommandComplete .. | .reductionRoundDeliver ..
  | .childStart .. | .taskStart .. | .passedOverEntry .. | .queueNotify .. | .launchStart ..
  | .coreGroupStart .. | .launchComplete .. | .errorDetected .. | .linkFlitError | .heathwayPortFailure ..
  | .accessCounterThreshold .. | .regionMoveComplete .. | .cxlMemRead .. | .cxlMemWrite ..
  | .cxlCacheSnoop .. | .packageReset | .hentry .. | .functionLevelReset .. | .throttleStart ..
  | .throttleEnd .. | .thermalReset | .dbgen .. | .bpset .. | .halt .. | .step .. | .debugResume ..
  | .debugRead .. | .debugWrite .. | .samplingPulse | .counterConfig .. | .snap .. | .traceConfig ..
  | .trptr .. | .tclaim .. | .drainRequest .. | .registerWrite .. | .vset .. | .hset .. | .contain ..
  | .drain .. | .trace .. | .bstop .. | .baleFreeze .. | .baleStreamOutEnd .. | .brest .. | .hover ..
  | .slotHandover .. | .handoverResume .. | .scrubComplete | .precopy .. | .stopping .. | .abort ..
  | .resuming .. | .migrationStopped .. | .mackRelease .. | .mackSubmit .. | .pullall .. | .pull ..
  | .pullData .. | .started .. | .done .. | .remap .. | .remapack .. | .fwdend .. | .peerAccessArrival ..
  | .baleStreamInEnd .. | .mbPset .. | .mbPlog .. => false

end Sys2Proof
end

