-- ==== Sys2Proof/Decode.lean ====
section
/-!
DEFINITION. Decoding a 32-bit word, total on any word and any bytes, and the encoder beside it (R80 to R91).
A word that is not an assigned encoding is refused by name; each such word traps with ILLEGAL_INSTRUCTION (R85, R88, R90).
-/

namespace Sys2Proof

/-- Why a word is not an instruction. -/
inductive DecodeReject where
  /-- Fewer than four bytes are left. -/
  | tooShort
  /-- Major 0x00 or a reserved major (R88, R90). -/
  | reservedMajor
  /-- A reserved field is not zero, or a function field holds an unassigned value that the map does not lay out (R83, R85). -/
  | reservedField
  /-- A function field of a row holds an unassigned value (R85). -/
  | reservedFunction
deriving DecidableEq, Repr

/-- Major 0x01 of the C-class map: LD. -/
def decodeC01 (w : BitVec 32) : Except DecodeReject Instr :=
  .ok (.ld (w.extractLsb' 24 8) (w.extractLsb' 22 2) (w.extractLsb' 15 7) (w.extractLsb' 8 7))

/-- Major 0x01 of the A-class map: ADD, SUB, AND, OR, XOR, ANDN, SLL, SRL. -/
def decodeA01 (w : BitVec 32) : Except DecodeReject Instr :=
  if w.extractLsb' 29 3 = 0 then
    .ok (.add (w.extractLsb' 22 7) (w.extractLsb' 15 7) (w.extractLsb' 8 7))
  else
  if w.extractLsb' 29 3 = 1 then
    .ok (.sub (w.extractLsb' 22 7) (w.extractLsb' 15 7) (w.extractLsb' 8 7))
  else
  if w.extractLsb' 29 3 = 2 then
    .ok (.and (w.extractLsb' 22 7) (w.extractLsb' 15 7) (w.extractLsb' 8 7))
  else
  if w.extractLsb' 29 3 = 3 then
    .ok (.or (w.extractLsb' 22 7) (w.extractLsb' 15 7) (w.extractLsb' 8 7))
  else
  if w.extractLsb' 29 3 = 4 then
    .ok (.xor (w.extractLsb' 22 7) (w.extractLsb' 15 7) (w.extractLsb' 8 7))
  else
  if w.extractLsb' 29 3 = 5 then
    .ok (.andn (w.extractLsb' 22 7) (w.extractLsb' 15 7) (w.extractLsb' 8 7))
  else
  if w.extractLsb' 29 3 = 6 then
    .ok (.sll (w.extractLsb' 22 7) (w.extractLsb' 15 7) (w.extractLsb' 8 7))
  else
  if w.extractLsb' 29 3 = 7 then
    .ok (.srl (w.extractLsb' 22 7) (w.extractLsb' 15 7) (w.extractLsb' 8 7))
  else
  .error .reservedField

/-- Major 0x02 of the C-class map: LDZ. -/
def decodeC02 (w : BitVec 32) : Except DecodeReject Instr :=
  .ok (.ldz (w.extractLsb' 24 8) (w.extractLsb' 22 2) (w.extractLsb' 15 7) (w.extractLsb' 8 7))

/-- Major 0x02 of the A-class map: SRA, ROL, MIN, MAX, MINU, MAXU, MULH, MULHU. -/
def decodeA02 (w : BitVec 32) : Except DecodeReject Instr :=
  if w.extractLsb' 29 3 = 0 then
    .ok (.sra (w.extractLsb' 22 7) (w.extractLsb' 15 7) (w.extractLsb' 8 7))
  else
  if w.extractLsb' 29 3 = 1 then
    .ok (.rol (w.extractLsb' 22 7) (w.extractLsb' 15 7) (w.extractLsb' 8 7))
  else
  if w.extractLsb' 29 3 = 2 then
    .ok (.min (w.extractLsb' 22 7) (w.extractLsb' 15 7) (w.extractLsb' 8 7))
  else
  if w.extractLsb' 29 3 = 3 then
    .ok (.max (w.extractLsb' 22 7) (w.extractLsb' 15 7) (w.extractLsb' 8 7))
  else
  if w.extractLsb' 29 3 = 4 then
    .ok (.minu (w.extractLsb' 22 7) (w.extractLsb' 15 7) (w.extractLsb' 8 7))
  else
  if w.extractLsb' 29 3 = 5 then
    .ok (.maxu (w.extractLsb' 22 7) (w.extractLsb' 15 7) (w.extractLsb' 8 7))
  else
  if w.extractLsb' 29 3 = 6 then
    .ok (.mulh (w.extractLsb' 22 7) (w.extractLsb' 15 7) (w.extractLsb' 8 7))
  else
  if w.extractLsb' 29 3 = 7 then
    .ok (.mulhu (w.extractLsb' 22 7) (w.extractLsb' 15 7) (w.extractLsb' 8 7))
  else
  .error .reservedField

/-- Major 0x03 of the C-class map: ST. -/
def decodeC03 (w : BitVec 32) : Except DecodeReject Instr :=
  .ok (.st (w.extractLsb' 24 8) (w.extractLsb' 22 2) (w.extractLsb' 15 7) (w.extractLsb' 8 7))

/-- Major 0x03 of the A-class map: MUL, DIV, DIVU, REM, REMU, LEA_S1, LEA_S2, LEA_S3. -/
def decodeA03 (w : BitVec 32) : Except DecodeReject Instr :=
  if w.extractLsb' 29 3 = 0 then
    .ok (.mul (w.extractLsb' 22 7) (w.extractLsb' 15 7) (w.extractLsb' 8 7))
  else
  if w.extractLsb' 29 3 = 1 then
    .ok (.div (w.extractLsb' 22 7) (w.extractLsb' 15 7) (w.extractLsb' 8 7))
  else
  if w.extractLsb' 29 3 = 2 then
    .ok (.divu (w.extractLsb' 22 7) (w.extractLsb' 15 7) (w.extractLsb' 8 7))
  else
  if w.extractLsb' 29 3 = 3 then
    .ok (.rem (w.extractLsb' 22 7) (w.extractLsb' 15 7) (w.extractLsb' 8 7))
  else
  if w.extractLsb' 29 3 = 4 then
    .ok (.remu (w.extractLsb' 22 7) (w.extractLsb' 15 7) (w.extractLsb' 8 7))
  else
  if w.extractLsb' 29 3 = 5 then
    .ok (.leaS1 (w.extractLsb' 22 7) (w.extractLsb' 15 7) (w.extractLsb' 8 7))
  else
  if w.extractLsb' 29 3 = 6 then
    .ok (.leaS2 (w.extractLsb' 22 7) (w.extractLsb' 15 7) (w.extractLsb' 8 7))
  else
  if w.extractLsb' 29 3 = 7 then
    .ok (.leaS3 (w.extractLsb' 22 7) (w.extractLsb' 15 7) (w.extractLsb' 8 7))
  else
  .error .reservedField

/-- Major 0x04 of the C-class map: LDX. -/
def decodeC04 (w : BitVec 32) : Except DecodeReject Instr :=
  .ok (.ldx (w.extractLsb' 31 1) (w.extractLsb' 29 2) (w.extractLsb' 22 7) (w.extractLsb' 15 7) (w.extractLsb' 8 7))

/-- Major 0x04 of the A-class map: ADDI. -/
def decodeA04 (w : BitVec 32) : Except DecodeReject Instr :=
  .ok (.addi (w.extractLsb' 22 10) (w.extractLsb' 15 7) (w.extractLsb' 8 7))

/-- Major 0x05 of the C-class map: STX. -/
def decodeC05 (w : BitVec 32) : Except DecodeReject Instr :=
  .ok (.stx (w.extractLsb' 31 1) (w.extractLsb' 29 2) (w.extractLsb' 22 7) (w.extractLsb' 15 7) (w.extractLsb' 8 7))

/-- Major 0x05 of the A-class map: ANDI, ORI, XORI, SLLI, SRLI, SRAI. -/
def decodeA05 (w : BitVec 32) : Except DecodeReject Instr :=
  if w.extractLsb' 30 2 = 0 then
    .ok (.andi (w.extractLsb' 22 8) (w.extractLsb' 15 7) (w.extractLsb' 8 7))
  else
  if w.extractLsb' 30 2 = 1 then
    .ok (.ori (w.extractLsb' 22 8) (w.extractLsb' 15 7) (w.extractLsb' 8 7))
  else
  if w.extractLsb' 30 2 = 2 then
    .ok (.xori (w.extractLsb' 22 8) (w.extractLsb' 15 7) (w.extractLsb' 8 7))
  else
  if w.extractLsb' 28 4 = 12 then
    .ok (.slli (w.extractLsb' 22 6) (w.extractLsb' 15 7) (w.extractLsb' 8 7))
  else
  if w.extractLsb' 28 4 = 13 then
    .ok (.srli (w.extractLsb' 22 6) (w.extractLsb' 15 7) (w.extractLsb' 8 7))
  else
  if w.extractLsb' 28 4 = 14 then
    .ok (.srai (w.extractLsb' 22 6) (w.extractLsb' 15 7) (w.extractLsb' 8 7))
  else
  .error .reservedField

/-- Major 0x06 of the C-class map: LDM. -/
def decodeC06 (w : BitVec 32) : Except DecodeReject Instr :=
  .ok (.ldm (w.extractLsb' 24 8) (w.extractLsb' 22 2) (w.extractLsb' 15 7) (w.extractLsb' 8 7))

/-- Major 0x06 of the A-class map: LIH, LIH_M. -/
def decodeA06 (w : BitVec 32) : Except DecodeReject Instr :=
  if w.extractLsb' 31 1 = 0 then
    .ok (.lih (w.extractLsb' 15 16) (w.extractLsb' 8 7))
  else
  if w.extractLsb' 31 1 = 1 then
    .ok (.lihM (w.extractLsb' 15 16) (w.extractLsb' 8 7))
  else
  .error .reservedField

/-- Major 0x07 of the C-class map: STM. -/
def decodeC07 (w : BitVec 32) : Except DecodeReject Instr :=
  .ok (.stm (w.extractLsb' 24 8) (w.extractLsb' 22 2) (w.extractLsb' 15 7) (w.extractLsb' 8 7))

/-- Major 0x07 of the A-class map: CLZ, CTZ, POP, BREV, BEXT, BINS. -/
def decodeA07 (w : BitVec 32) : Except DecodeReject Instr :=
  if w.extractLsb' 22 10 = 0 then
    .ok (.clz (w.extractLsb' 15 7) (w.extractLsb' 8 7))
  else
  if w.extractLsb' 22 10 = 128 then
    .ok (.ctz (w.extractLsb' 15 7) (w.extractLsb' 8 7))
  else
  if w.extractLsb' 22 10 = 256 then
    .ok (.pop (w.extractLsb' 15 7) (w.extractLsb' 8 7))
  else
  if w.extractLsb' 22 10 = 384 then
    .ok (.brev (w.extractLsb' 15 7) (w.extractLsb' 8 7))
  else
  if w.extractLsb' 29 3 = 4 then
    .ok (.bext (w.extractLsb' 22 7) (w.extractLsb' 15 7) (w.extractLsb' 8 7))
  else
  if w.extractLsb' 29 3 = 5 then
    .ok (.bins (w.extractLsb' 22 7) (w.extractLsb' 15 7) (w.extractLsb' 8 7))
  else
  .error .reservedField

/-- Major 0x08 of the C-class map: LDK. -/
def decodeC08 (w : BitVec 32) : Except DecodeReject Instr :=
  .ok (.ldk (w.extractLsb' 15 17) (w.extractLsb' 8 7))

/-- Major 0x08 of the A-class map: FCVT. -/
def decodeA08 (w : BitVec 32) : Except DecodeReject Instr :=
  if w.extractLsb' 31 1 = 0 then
    .ok (.fcvt (w.extractLsb' 28 3) (w.extractLsb' 25 3) (w.extractLsb' 22 3) (w.extractLsb' 15 7) (w.extractLsb' 8 7))
  else
  .error .reservedField

/-- Major 0x09 of the C-class map: PF. -/
def decodeC09 (w : BitVec 32) : Except DecodeReject Instr :=
  .ok (.pf (w.extractLsb' 24 8) (w.extractLsb' 22 2) (w.extractLsb' 15 7) (w.extractLsb' 8 7))

/-- Major 0x09 of the A-class map: SEL. -/
def decodeA09 (w : BitVec 32) : Except DecodeReject Instr :=
  .ok (.sel (w.extractLsb' 29 3) (w.extractLsb' 22 7) (w.extractLsb' 15 7) (w.extractLsb' 8 7))

/-- Major 0x0A of the C-class map: AMO, AMO_E. -/
def decodeC0A (w : BitVec 32) : Except DecodeReject Instr :=
  if w.extractLsb' 28 4 = 0 then
    .ok (.amo (w.extractLsb' 26 2) (w.extractLsb' 22 4) (w.extractLsb' 15 7) (w.extractLsb' 8 7))
  else
  if w.extractLsb' 28 4 = 1 then
    .ok (.amoE (w.extractLsb' 26 2) (w.extractLsb' 22 4) (w.extractLsb' 15 7) (w.extractLsb' 8 7))
  else
  .error .reservedField

/-- Major 0x0A of the A-class map: PSET, FCMP_HF, FCMP_BF, FCMP_S, FCMP_D. -/
def decodeA0A (w : BitVec 32) : Except DecodeReject Instr :=
  if w.extractLsb' 29 3 = 0 then
    .ok (.pset (w.extractLsb' 22 7) (w.extractLsb' 15 7) (w.extractLsb' 11 4) (w.extractLsb' 8 3))
  else
  if w.extractLsb' 29 3 = 1 then
    .ok (.fcmpHf (w.extractLsb' 22 7) (w.extractLsb' 15 7) (w.extractLsb' 11 4) (w.extractLsb' 8 3))
  else
  if w.extractLsb' 29 3 = 2 then
    .ok (.fcmpBf (w.extractLsb' 22 7) (w.extractLsb' 15 7) (w.extractLsb' 11 4) (w.extractLsb' 8 3))
  else
  if w.extractLsb' 29 3 = 3 then
    .ok (.fcmpS (w.extractLsb' 22 7) (w.extractLsb' 15 7) (w.extractLsb' 11 4) (w.extractLsb' 8 3))
  else
  if w.extractLsb' 29 3 = 4 then
    .ok (.fcmpD (w.extractLsb' 22 7) (w.extractLsb' 15 7) (w.extractLsb' 11 4) (w.extractLsb' 8 3))
  else
  .error .reservedField

/-- Major 0x0B of the C-class map: AMOF, AMOF_E. -/
def decodeC0B (w : BitVec 32) : Except DecodeReject Instr :=
  if w.extractLsb' 28 4 = 0 then
    .ok (.amof (w.extractLsb' 26 2) (w.extractLsb' 22 4) (w.extractLsb' 15 7) (w.extractLsb' 8 7))
  else
  if w.extractLsb' 28 4 = 1 then
    .ok (.amofE (w.extractLsb' 26 2) (w.extractLsb' 22 4) (w.extractLsb' 15 7) (w.extractLsb' 8 7))
  else
  .error .reservedField

/-- Major 0x0B of the A-class map: PSETI. -/
def decodeA0B (w : BitVec 32) : Except DecodeReject Instr :=
  .ok (.pseti (w.extractLsb' 22 10) (w.extractLsb' 15 7) (w.extractLsb' 11 4) (w.extractLsb' 8 3))

/-- Major 0x0C of the C-class map: CAS. -/
def decodeC0C (w : BitVec 32) : Except DecodeReject Instr :=
  if w.extractLsb' 30 2 = 0 then
    .ok (.cas (w.extractLsb' 29 1) (w.extractLsb' 22 7) (w.extractLsb' 15 7) (w.extractLsb' 8 7))
  else
  .error .reservedField

/-- Major 0x0C of the A-class map: PLOG, PMOV_K, PMOV_X. -/
def decodeA0C (w : BitVec 32) : Except DecodeReject Instr :=
  if w.extractLsb' 31 1 = 0 ∧ w.extractLsb' 25 4 = 0 ∧ w.extractLsb' 18 4 = 0 ∧ w.extractLsb' 11 4 = 0 then
    .ok (.plog (w.extractLsb' 29 2) (w.extractLsb' 22 3) (w.extractLsb' 15 3) (w.extractLsb' 8 3))
  else
  if w.extractLsb' 22 10 = 512 ∧ w.extractLsb' 11 4 = 0 then
    .ok (.pmovK (w.extractLsb' 15 7) (w.extractLsb' 8 3))
  else
  if w.extractLsb' 18 14 = 10240 then
    .ok (.pmovX (w.extractLsb' 15 3) (w.extractLsb' 8 7))
  else
  .error .reservedField

/-- Major 0x0D of the C-class map: QRES. -/
def decodeC0D (w : BitVec 32) : Except DecodeReject Instr :=
  if w.extractLsb' 30 2 = 0 ∧ w.extractLsb' 22 7 = 0 then
    .ok (.qres (w.extractLsb' 29 1) (w.extractLsb' 15 7) (w.extractLsb' 8 7))
  else
  .error .reservedField

/-- Major 0x0D of the A-class map: FADD_HF, FSUB_HF, FMUL_HF, FFMA_HF, FDIV_HF, FMIN_HF, FMAX_HF, FSQRT_HF, FCLASS_HF. -/
def decodeA0D (w : BitVec 32) : Except DecodeReject Instr :=
  if w.extractLsb' 29 3 = 0 then
    .ok (.faddHf (w.extractLsb' 22 7) (w.extractLsb' 15 7) (w.extractLsb' 8 7))
  else
  if w.extractLsb' 29 3 = 1 then
    .ok (.fsubHf (w.extractLsb' 22 7) (w.extractLsb' 15 7) (w.extractLsb' 8 7))
  else
  if w.extractLsb' 29 3 = 2 then
    .ok (.fmulHf (w.extractLsb' 22 7) (w.extractLsb' 15 7) (w.extractLsb' 8 7))
  else
  if w.extractLsb' 29 3 = 3 then
    .ok (.ffmaHf (w.extractLsb' 22 7) (w.extractLsb' 15 7) (w.extractLsb' 8 7))
  else
  if w.extractLsb' 29 3 = 4 then
    .ok (.fdivHf (w.extractLsb' 22 7) (w.extractLsb' 15 7) (w.extractLsb' 8 7))
  else
  if w.extractLsb' 29 3 = 5 then
    .ok (.fminHf (w.extractLsb' 22 7) (w.extractLsb' 15 7) (w.extractLsb' 8 7))
  else
  if w.extractLsb' 29 3 = 6 then
    .ok (.fmaxHf (w.extractLsb' 22 7) (w.extractLsb' 15 7) (w.extractLsb' 8 7))
  else
  if w.extractLsb' 22 10 = 896 then
    .ok (.fsqrtHf (w.extractLsb' 15 7) (w.extractLsb' 8 7))
  else
  if w.extractLsb' 22 10 = 897 then
    .ok (.fclassHf (w.extractLsb' 15 7) (w.extractLsb' 8 7))
  else
  .error .reservedField

/-- Major 0x0E of the C-class map: QREL. -/
def decodeC0E (w : BitVec 32) : Except DecodeReject Instr :=
  if w.extractLsb' 30 2 = 0 ∧ w.extractLsb' 22 7 = 0 then
    .ok (.qrel (w.extractLsb' 29 1) (w.extractLsb' 15 7) (w.extractLsb' 8 7))
  else
  .error .reservedField

/-- Major 0x0E of the A-class map: FADD_BF, FSUB_BF, FMUL_BF, FFMA_BF, FDIV_BF, FMIN_BF, FMAX_BF, FSQRT_BF, FCLASS_BF. -/
def decodeA0E (w : BitVec 32) : Except DecodeReject Instr :=
  if w.extractLsb' 29 3 = 0 then
    .ok (.faddBf (w.extractLsb' 22 7) (w.extractLsb' 15 7) (w.extractLsb' 8 7))
  else
  if w.extractLsb' 29 3 = 1 then
    .ok (.fsubBf (w.extractLsb' 22 7) (w.extractLsb' 15 7) (w.extractLsb' 8 7))
  else
  if w.extractLsb' 29 3 = 2 then
    .ok (.fmulBf (w.extractLsb' 22 7) (w.extractLsb' 15 7) (w.extractLsb' 8 7))
  else
  if w.extractLsb' 29 3 = 3 then
    .ok (.ffmaBf (w.extractLsb' 22 7) (w.extractLsb' 15 7) (w.extractLsb' 8 7))
  else
  if w.extractLsb' 29 3 = 4 then
    .ok (.fdivBf (w.extractLsb' 22 7) (w.extractLsb' 15 7) (w.extractLsb' 8 7))
  else
  if w.extractLsb' 29 3 = 5 then
    .ok (.fminBf (w.extractLsb' 22 7) (w.extractLsb' 15 7) (w.extractLsb' 8 7))
  else
  if w.extractLsb' 29 3 = 6 then
    .ok (.fmaxBf (w.extractLsb' 22 7) (w.extractLsb' 15 7) (w.extractLsb' 8 7))
  else
  if w.extractLsb' 22 10 = 896 then
    .ok (.fsqrtBf (w.extractLsb' 15 7) (w.extractLsb' 8 7))
  else
  if w.extractLsb' 22 10 = 897 then
    .ok (.fclassBf (w.extractLsb' 15 7) (w.extractLsb' 8 7))
  else
  .error .reservedField

/-- Major 0x0F of the C-class map: BR. -/
def decodeC0F (w : BitVec 32) : Except DecodeReject Instr :=
  .ok (.br (w.extractLsb' 12 20) (w.extractLsb' 11 1) (w.extractLsb' 8 3))

/-- Major 0x0F of the A-class map: FADD_S, FSUB_S, FMUL_S, FFMA_S, FDIV_S, FMIN_S, FMAX_S, FSQRT_S, FCLASS_S. -/
def decodeA0F (w : BitVec 32) : Except DecodeReject Instr :=
  if w.extractLsb' 29 3 = 0 then
    .ok (.faddS (w.extractLsb' 22 7) (w.extractLsb' 15 7) (w.extractLsb' 8 7))
  else
  if w.extractLsb' 29 3 = 1 then
    .ok (.fsubS (w.extractLsb' 22 7) (w.extractLsb' 15 7) (w.extractLsb' 8 7))
  else
  if w.extractLsb' 29 3 = 2 then
    .ok (.fmulS (w.extractLsb' 22 7) (w.extractLsb' 15 7) (w.extractLsb' 8 7))
  else
  if w.extractLsb' 29 3 = 3 then
    .ok (.ffmaS (w.extractLsb' 22 7) (w.extractLsb' 15 7) (w.extractLsb' 8 7))
  else
  if w.extractLsb' 29 3 = 4 then
    .ok (.fdivS (w.extractLsb' 22 7) (w.extractLsb' 15 7) (w.extractLsb' 8 7))
  else
  if w.extractLsb' 29 3 = 5 then
    .ok (.fminS (w.extractLsb' 22 7) (w.extractLsb' 15 7) (w.extractLsb' 8 7))
  else
  if w.extractLsb' 29 3 = 6 then
    .ok (.fmaxS (w.extractLsb' 22 7) (w.extractLsb' 15 7) (w.extractLsb' 8 7))
  else
  if w.extractLsb' 22 10 = 896 then
    .ok (.fsqrtS (w.extractLsb' 15 7) (w.extractLsb' 8 7))
  else
  if w.extractLsb' 22 10 = 897 then
    .ok (.fclassS (w.extractLsb' 15 7) (w.extractLsb' 8 7))
  else
  .error .reservedField

/-- Major 0x10 of the C-class map: JMP, BR_END. -/
def decodeC10 (w : BitVec 32) : Except DecodeReject Instr :=
  if w.extractLsb' 8 7 = 0 then
    .ok (.jmp (w.extractLsb' 15 17))
  else
  if w.extractLsb' 14 1 = 1 ∧ w.extractLsb' 12 1 = 0 then
    .ok (.brEnd (w.extractLsb' 15 17) (w.extractLsb' 13 1) (w.extractLsb' 8 4))
  else
  .error .reservedField

/-- Major 0x10 of the A-class map: FADD_D, FSUB_D, FMUL_D, FFMA_D, FDIV_D, FMIN_D, FMAX_D, FSQRT_D, FCLASS_D. -/
def decodeA10 (w : BitVec 32) : Except DecodeReject Instr :=
  if w.extractLsb' 29 3 = 0 then
    .ok (.faddD (w.extractLsb' 22 7) (w.extractLsb' 15 7) (w.extractLsb' 8 7))
  else
  if w.extractLsb' 29 3 = 1 then
    .ok (.fsubD (w.extractLsb' 22 7) (w.extractLsb' 15 7) (w.extractLsb' 8 7))
  else
  if w.extractLsb' 29 3 = 2 then
    .ok (.fmulD (w.extractLsb' 22 7) (w.extractLsb' 15 7) (w.extractLsb' 8 7))
  else
  if w.extractLsb' 29 3 = 3 then
    .ok (.ffmaD (w.extractLsb' 22 7) (w.extractLsb' 15 7) (w.extractLsb' 8 7))
  else
  if w.extractLsb' 29 3 = 4 then
    .ok (.fdivD (w.extractLsb' 22 7) (w.extractLsb' 15 7) (w.extractLsb' 8 7))
  else
  if w.extractLsb' 29 3 = 5 then
    .ok (.fminD (w.extractLsb' 22 7) (w.extractLsb' 15 7) (w.extractLsb' 8 7))
  else
  if w.extractLsb' 29 3 = 6 then
    .ok (.fmaxD (w.extractLsb' 22 7) (w.extractLsb' 15 7) (w.extractLsb' 8 7))
  else
  if w.extractLsb' 22 10 = 896 then
    .ok (.fsqrtD (w.extractLsb' 15 7) (w.extractLsb' 8 7))
  else
  if w.extractLsb' 22 10 = 897 then
    .ok (.fclassD (w.extractLsb' 15 7) (w.extractLsb' 8 7))
  else
  .error .reservedField

/-- Major 0x11 of the C-class map: JAL. -/
def decodeC11 (w : BitVec 32) : Except DecodeReject Instr :=
  .ok (.jal (w.extractLsb' 15 17) (w.extractLsb' 8 7))

/-- Major 0x11 of the A-class map: VADD, VSUB, VMUL, VMULH, VAND, VOR, VXOR, VSLL. -/
def decodeA11 (w : BitVec 32) : Except DecodeReject Instr :=
  if w.extractLsb' 26 3 = 0 then
    .ok (.vadd (w.extractLsb' 30 2) (w.extractLsb' 29 1) (w.extractLsb' 23 3) (w.extractLsb' 18 5) (w.extractLsb' 13 5) (w.extractLsb' 8 5))
  else
  if w.extractLsb' 26 3 = 1 then
    .ok (.vsub (w.extractLsb' 30 2) (w.extractLsb' 29 1) (w.extractLsb' 23 3) (w.extractLsb' 18 5) (w.extractLsb' 13 5) (w.extractLsb' 8 5))
  else
  if w.extractLsb' 26 3 = 2 then
    .ok (.vmul (w.extractLsb' 30 2) (w.extractLsb' 29 1) (w.extractLsb' 23 3) (w.extractLsb' 18 5) (w.extractLsb' 13 5) (w.extractLsb' 8 5))
  else
  if w.extractLsb' 26 3 = 3 then
    .ok (.vmulh (w.extractLsb' 30 2) (w.extractLsb' 29 1) (w.extractLsb' 23 3) (w.extractLsb' 18 5) (w.extractLsb' 13 5) (w.extractLsb' 8 5))
  else
  if w.extractLsb' 26 3 = 4 then
    .ok (.vand (w.extractLsb' 30 2) (w.extractLsb' 29 1) (w.extractLsb' 23 3) (w.extractLsb' 18 5) (w.extractLsb' 13 5) (w.extractLsb' 8 5))
  else
  if w.extractLsb' 26 3 = 5 then
    .ok (.vor (w.extractLsb' 30 2) (w.extractLsb' 29 1) (w.extractLsb' 23 3) (w.extractLsb' 18 5) (w.extractLsb' 13 5) (w.extractLsb' 8 5))
  else
  if w.extractLsb' 26 3 = 6 then
    .ok (.vxor (w.extractLsb' 30 2) (w.extractLsb' 29 1) (w.extractLsb' 23 3) (w.extractLsb' 18 5) (w.extractLsb' 13 5) (w.extractLsb' 8 5))
  else
  if w.extractLsb' 26 3 = 7 then
    .ok (.vsll (w.extractLsb' 30 2) (w.extractLsb' 29 1) (w.extractLsb' 23 3) (w.extractLsb' 18 5) (w.extractLsb' 13 5) (w.extractLsb' 8 5))
  else
  .error .reservedField

/-- Major 0x12 of the C-class map: JALR. -/
def decodeC12 (w : BitVec 32) : Except DecodeReject Instr :=
  .ok (.jalr (w.extractLsb' 22 10) (w.extractLsb' 15 7) (w.extractLsb' 8 7))

/-- Major 0x12 of the A-class map: VSRL, VSRA, VMIN, VMAX, VMINU, VMAXU. -/
def decodeA12 (w : BitVec 32) : Except DecodeReject Instr :=
  if w.extractLsb' 26 3 = 0 then
    .ok (.vsrl (w.extractLsb' 30 2) (w.extractLsb' 29 1) (w.extractLsb' 23 3) (w.extractLsb' 18 5) (w.extractLsb' 13 5) (w.extractLsb' 8 5))
  else
  if w.extractLsb' 26 3 = 1 then
    .ok (.vsra (w.extractLsb' 30 2) (w.extractLsb' 29 1) (w.extractLsb' 23 3) (w.extractLsb' 18 5) (w.extractLsb' 13 5) (w.extractLsb' 8 5))
  else
  if w.extractLsb' 26 3 = 2 then
    .ok (.vmin (w.extractLsb' 30 2) (w.extractLsb' 29 1) (w.extractLsb' 23 3) (w.extractLsb' 18 5) (w.extractLsb' 13 5) (w.extractLsb' 8 5))
  else
  if w.extractLsb' 26 3 = 3 then
    .ok (.vmax (w.extractLsb' 30 2) (w.extractLsb' 29 1) (w.extractLsb' 23 3) (w.extractLsb' 18 5) (w.extractLsb' 13 5) (w.extractLsb' 8 5))
  else
  if w.extractLsb' 26 3 = 4 then
    .ok (.vminu (w.extractLsb' 30 2) (w.extractLsb' 29 1) (w.extractLsb' 23 3) (w.extractLsb' 18 5) (w.extractLsb' 13 5) (w.extractLsb' 8 5))
  else
  if w.extractLsb' 26 3 = 5 then
    .ok (.vmaxu (w.extractLsb' 30 2) (w.extractLsb' 29 1) (w.extractLsb' 23 3) (w.extractLsb' 18 5) (w.extractLsb' 13 5) (w.extractLsb' 8 5))
  else
  .error .reservedField

/-- Major 0x13 of the C-class map: LOOP. -/
def decodeC13 (w : BitVec 32) : Except DecodeReject Instr :=
  .ok (.loop (w.extractLsb' 15 17) (w.extractLsb' 8 7))

/-- Major 0x13 of the A-class map: VADD_X, VSLL_X, VSRL_X, VSRA_X. -/
def decodeA13 (w : BitVec 32) : Except DecodeReject Instr :=
  if w.extractLsb' 28 2 = 0 then
    .ok (.vaddX (w.extractLsb' 30 2) (w.extractLsb' 25 3) (w.extractLsb' 18 7) (w.extractLsb' 13 5) (w.extractLsb' 8 5))
  else
  if w.extractLsb' 28 2 = 1 then
    .ok (.vsllX (w.extractLsb' 30 2) (w.extractLsb' 25 3) (w.extractLsb' 18 7) (w.extractLsb' 13 5) (w.extractLsb' 8 5))
  else
  if w.extractLsb' 28 2 = 2 then
    .ok (.vsrlX (w.extractLsb' 30 2) (w.extractLsb' 25 3) (w.extractLsb' 18 7) (w.extractLsb' 13 5) (w.extractLsb' 8 5))
  else
  if w.extractLsb' 28 2 = 3 then
    .ok (.vsraX (w.extractLsb' 30 2) (w.extractLsb' 25 3) (w.extractLsb' 18 7) (w.extractLsb' 13 5) (w.extractLsb' 8 5))
  else
  .error .reservedField

/-- Major 0x14 of the C-class map: SOPEN. -/
def decodeC14 (w : BitVec 32) : Except DecodeReject Instr :=
  if w.extractLsb' 8 7 = 0 then
    .ok (.sopen (w.extractLsb' 31 1) (w.extractLsb' 30 1) (w.extractLsb' 29 1) (w.extractLsb' 27 2) (w.extractLsb' 22 5) (w.extractLsb' 15 7))
  else
  .error .reservedField

/-- Major 0x14 of the A-class map: VFADD, VFSUB, VFMUL, VFFMA, VFMIN, VFMAX, VFDIV, VFSQRT. -/
def decodeA14 (w : BitVec 32) : Except DecodeReject Instr :=
  if w.extractLsb' 26 3 = 0 then
    .ok (.vfadd (w.extractLsb' 30 2) (w.extractLsb' 29 1) (w.extractLsb' 23 3) (w.extractLsb' 18 5) (w.extractLsb' 13 5) (w.extractLsb' 8 5))
  else
  if w.extractLsb' 26 3 = 1 then
    .ok (.vfsub (w.extractLsb' 30 2) (w.extractLsb' 29 1) (w.extractLsb' 23 3) (w.extractLsb' 18 5) (w.extractLsb' 13 5) (w.extractLsb' 8 5))
  else
  if w.extractLsb' 26 3 = 2 then
    .ok (.vfmul (w.extractLsb' 30 2) (w.extractLsb' 29 1) (w.extractLsb' 23 3) (w.extractLsb' 18 5) (w.extractLsb' 13 5) (w.extractLsb' 8 5))
  else
  if w.extractLsb' 26 3 = 3 then
    .ok (.vffma (w.extractLsb' 30 2) (w.extractLsb' 29 1) (w.extractLsb' 23 3) (w.extractLsb' 18 5) (w.extractLsb' 13 5) (w.extractLsb' 8 5))
  else
  if w.extractLsb' 26 3 = 4 then
    .ok (.vfmin (w.extractLsb' 30 2) (w.extractLsb' 29 1) (w.extractLsb' 23 3) (w.extractLsb' 18 5) (w.extractLsb' 13 5) (w.extractLsb' 8 5))
  else
  if w.extractLsb' 26 3 = 5 then
    .ok (.vfmax (w.extractLsb' 30 2) (w.extractLsb' 29 1) (w.extractLsb' 23 3) (w.extractLsb' 18 5) (w.extractLsb' 13 5) (w.extractLsb' 8 5))
  else
  if w.extractLsb' 26 3 = 6 then
    .ok (.vfdiv (w.extractLsb' 30 2) (w.extractLsb' 29 1) (w.extractLsb' 23 3) (w.extractLsb' 18 5) (w.extractLsb' 13 5) (w.extractLsb' 8 5))
  else
  if w.extractLsb' 26 3 = 7 ∧ w.extractLsb' 18 5 = 0 then
    .ok (.vfsqrt (w.extractLsb' 30 2) (w.extractLsb' 29 1) (w.extractLsb' 23 3) (w.extractLsb' 13 5) (w.extractLsb' 8 5))
  else
  .error .reservedField

/-- Major 0x15 of the C-class map: SCLOSE. -/
def decodeC15 (w : BitVec 32) : Except DecodeReject Instr :=
  if w.extractLsb' 27 5 = 0 ∧ w.extractLsb' 8 14 = 0 then
    .ok (.sclose (w.extractLsb' 22 5))
  else
  .error .reservedField

/-- Major 0x15 of the A-class map: VFADD_X, VFMUL_X, VFFMA_X. -/
def decodeA15 (w : BitVec 32) : Except DecodeReject Instr :=
  if w.extractLsb' 28 2 = 0 then
    .ok (.vfaddX (w.extractLsb' 30 2) (w.extractLsb' 25 3) (w.extractLsb' 18 7) (w.extractLsb' 13 5) (w.extractLsb' 8 5))
  else
  if w.extractLsb' 28 2 = 1 then
    .ok (.vfmulX (w.extractLsb' 30 2) (w.extractLsb' 25 3) (w.extractLsb' 18 7) (w.extractLsb' 13 5) (w.extractLsb' 8 5))
  else
  if w.extractLsb' 28 2 = 2 then
    .ok (.vffmaX (w.extractLsb' 30 2) (w.extractLsb' 25 3) (w.extractLsb' 18 7) (w.extractLsb' 13 5) (w.extractLsb' 8 5))
  else
  .error .reservedField

/-- Major 0x16 of the C-class map: SSEEK. -/
def decodeC16 (w : BitVec 32) : Except DecodeReject Instr :=
  if w.extractLsb' 27 5 = 0 ∧ w.extractLsb' 8 7 = 0 then
    .ok (.sseek (w.extractLsb' 22 5) (w.extractLsb' 15 7))
  else
  .error .reservedField

/-- Major 0x16 of the A-class map: VCMP. -/
def decodeA16 (w : BitVec 32) : Except DecodeReject Instr :=
  if w.extractLsb' 29 1 = 0 ∧ w.extractLsb' 11 2 = 0 then
    .ok (.vcmp (w.extractLsb' 30 2) (w.extractLsb' 26 3) (w.extractLsb' 23 3) (w.extractLsb' 18 5) (w.extractLsb' 13 5) (w.extractLsb' 8 3))
  else
  .error .reservedField

/-- Major 0x17 of the C-class map: SPOS. -/
def decodeC17 (w : BitVec 32) : Except DecodeReject Instr :=
  if w.extractLsb' 27 5 = 0 ∧ w.extractLsb' 15 7 = 0 then
    .ok (.spos (w.extractLsb' 22 5) (w.extractLsb' 8 7))
  else
  .error .reservedField

/-- Major 0x17 of the A-class map: VFCMP. -/
def decodeA17 (w : BitVec 32) : Except DecodeReject Instr :=
  if w.extractLsb' 29 1 = 0 ∧ w.extractLsb' 11 2 = 0 then
    .ok (.vfcmp (w.extractLsb' 30 2) (w.extractLsb' 26 3) (w.extractLsb' 23 3) (w.extractLsb' 18 5) (w.extractLsb' 13 5) (w.extractLsb' 8 3))
  else
  .error .reservedField

/-- Major 0x18 of the C-class map: FENCE, FENCE_E. -/
def decodeC18 (w : BitVec 32) : Except DecodeReject Instr :=
  if w.extractLsb' 8 24 = 0 then
    .ok (.fence)
  else
  if w.extractLsb' 8 24 = 16384 then
    .ok (.fenceE)
  else
  .error .reservedField

/-- Major 0x18 of the A-class map: VSEL, VPERM, VCOMP. -/
def decodeA18 (w : BitVec 32) : Except DecodeReject Instr :=
  if w.extractLsb' 26 4 = 0 then
    .ok (.vsel (w.extractLsb' 30 2) (w.extractLsb' 23 3) (w.extractLsb' 18 5) (w.extractLsb' 13 5) (w.extractLsb' 8 5))
  else
  if w.extractLsb' 26 4 = 1 then
    .ok (.vperm (w.extractLsb' 30 2) (w.extractLsb' 23 3) (w.extractLsb' 18 5) (w.extractLsb' 13 5) (w.extractLsb' 8 5))
  else
  if w.extractLsb' 26 4 = 2 ∧ w.extractLsb' 18 5 = 0 then
    .ok (.vcomp (w.extractLsb' 30 2) (w.extractLsb' 23 3) (w.extractLsb' 13 5) (w.extractLsb' 8 5))
  else
  .error .reservedField

/-- Major 0x19 of the C-class map: WAIT. -/
def decodeC19 (w : BitVec 32) : Except DecodeReject Instr :=
  if w.extractLsb' 24 8 = 0 then
    .ok (.wait (w.extractLsb' 20 4) (w.extractLsb' 16 4) (w.extractLsb' 12 4) (w.extractLsb' 8 4))
  else
  .error .reservedField

/-- Major 0x19 of the A-class map: VBCAST, VSLIDE. -/
def decodeA19 (w : BitVec 32) : Except DecodeReject Instr :=
  if w.extractLsb' 28 2 = 0 ∧ w.extractLsb' 13 5 = 0 then
    .ok (.vbcast (w.extractLsb' 30 2) (w.extractLsb' 25 3) (w.extractLsb' 18 7) (w.extractLsb' 8 5))
  else
  if w.extractLsb' 28 2 = 1 then
    .ok (.vslide (w.extractLsb' 30 2) (w.extractLsb' 25 3) (w.extractLsb' 18 7) (w.extractLsb' 13 5) (w.extractLsb' 8 5))
  else
  .error .reservedField

/-- Major 0x1A of the C-class map: MONA. -/
def decodeC1A (w : BitVec 32) : Except DecodeReject Instr :=
  if w.extractLsb' 10 5 = 0 then
    .ok (.mona (w.extractLsb' 22 10) (w.extractLsb' 15 7) (w.extractLsb' 8 2))
  else
  .error .reservedField

/-- Major 0x1A of the A-class map: VEXT. -/
def decodeA1A (w : BitVec 32) : Except DecodeReject Instr :=
  if w.extractLsb' 31 1 = 0 ∧ w.extractLsb' 20 2 = 0 then
    .ok (.vext (w.extractLsb' 29 2) (w.extractLsb' 22 7) (w.extractLsb' 15 5) (w.extractLsb' 8 7))
  else
  .error .reservedField

/-- Major 0x1B of the C-class map: MONW. -/
def decodeC1B (w : BitVec 32) : Except DecodeReject Instr :=
  if w.extractLsb' 22 10 = 0 then
    .ok (.monw (w.extractLsb' 15 7) (w.extractLsb' 8 7))
  else
  .error .reservedField

/-- Major 0x1B of the A-class map: VCVT. -/
def decodeA1B (w : BitVec 32) : Except DecodeReject Instr :=
  .ok (.vcvt (w.extractLsb' 29 3) (w.extractLsb' 26 3) (w.extractLsb' 23 3) (w.extractLsb' 22 1) (w.extractLsb' 18 4) (w.extractLsb' 13 5) (w.extractLsb' 8 5))

/-- Major 0x1C of the C-class map: WATCH. -/
def decodeC1C (w : BitVec 32) : Except DecodeReject Instr :=
  if w.extractLsb' 8 7 = 0 then
    .ok (.watch (w.extractLsb' 22 10) (w.extractLsb' 15 7))
  else
  .error .reservedField

/-- Major 0x1C of the A-class map: VCVT_NARROW. -/
def decodeA1C (w : BitVec 32) : Except DecodeReject Instr :=
  .ok (.vcvtNarrow (w.extractLsb' 29 3) (w.extractLsb' 26 3) (w.extractLsb' 23 3) (w.extractLsb' 22 1) (w.extractLsb' 18 4) (w.extractLsb' 13 5) (w.extractLsb' 8 5))

/-- Major 0x1D of the C-class map: WSLEEP. -/
def decodeC1D (w : BitVec 32) : Except DecodeReject Instr :=
  if w.extractLsb' 22 10 = 0 then
    .ok (.wsleep (w.extractLsb' 15 7) (w.extractLsb' 8 7))
  else
  .error .reservedField

/-- Major 0x1D of the A-class map: VCVT_SR. -/
def decodeA1D (w : BitVec 32) : Except DecodeReject Instr :=
  .ok (.vcvtSr (w.extractLsb' 28 4) (w.extractLsb' 26 2) (w.extractLsb' 23 3) (w.extractLsb' 18 5) (w.extractLsb' 13 5) (w.extractLsb' 8 5))

/-- Major 0x1E of the C-class map: CUT, DIRECT, RESUME. -/
def decodeC1E (w : BitVec 32) : Except DecodeReject Instr :=
  if w.extractLsb' 8 24 = 0 then
    .ok (.cut)
  else
  if w.extractLsb' 8 24 = 16384 then
    .ok (.direct)
  else
  if w.extractLsb' 8 24 = 32768 then
    .ok (.resume)
  else
  .error .reservedField

/-- Major 0x1F of the C-class map: LOCK, UNLOCK. -/
def decodeC1F (w : BitVec 32) : Except DecodeReject Instr :=
  if w.extractLsb' 22 10 = 0 ∧ w.extractLsb' 11 4 = 0 then
    .ok (.lock (w.extractLsb' 15 7) (w.extractLsb' 8 3))
  else
  if w.extractLsb' 22 10 = 128 ∧ w.extractLsb' 8 7 = 0 then
    .ok (.unlock (w.extractLsb' 15 7))
  else
  .error .reservedField

/-- Major 0x1F of the A-class map: VRED. -/
def decodeA1F (w : BitVec 32) : Except DecodeReject Instr :=
  if w.extractLsb' 29 1 = 0 ∧ w.extractLsb' 18 5 = 0 then
    .ok (.vred (w.extractLsb' 30 2) (w.extractLsb' 26 3) (w.extractLsb' 23 3) (w.extractLsb' 13 5) (w.extractLsb' 8 5))
  else
  .error .reservedField

/-- Major 0x20 of the C-class map: CLEAN, INVAL. -/
def decodeC20 (w : BitVec 32) : Except DecodeReject Instr :=
  if w.extractLsb' 29 3 = 0 ∧ w.extractLsb' 8 7 = 0 then
    .ok (.clean (w.extractLsb' 22 7) (w.extractLsb' 15 7))
  else
  if w.extractLsb' 29 3 = 1 ∧ w.extractLsb' 8 7 = 0 then
    .ok (.inval (w.extractLsb' 22 7) (w.extractLsb' 15 7))
  else
  .error .reservedField

/-- Major 0x20 of the A-class map: VSCAN. -/
def decodeA20 (w : BitVec 32) : Except DecodeReject Instr :=
  if w.extractLsb' 29 1 = 0 ∧ w.extractLsb' 18 5 = 0 then
    .ok (.vscan (w.extractLsb' 30 2) (w.extractLsb' 26 3) (w.extractLsb' 23 3) (w.extractLsb' 13 5) (w.extractLsb' 8 5))
  else
  .error .reservedField

/-- Major 0x21 of the C-class map: IFLUSH, ISYNC. -/
def decodeC21 (w : BitVec 32) : Except DecodeReject Instr :=
  if w.extractLsb' 29 3 = 0 ∧ w.extractLsb' 8 7 = 0 then
    .ok (.iflush (w.extractLsb' 22 7) (w.extractLsb' 15 7))
  else
  if w.extractLsb' 8 24 = 2097152 then
    .ok (.isync)
  else
  .error .reservedField

/-- Major 0x21 of the A-class map: VEXP2, VLOG2, VRCP, VRSQRT, VSIN, VCOS. -/
def decodeA21 (w : BitVec 32) : Except DecodeReject Instr :=
  if w.extractLsb' 26 4 = 0 ∧ w.extractLsb' 18 5 = 0 then
    .ok (.vexp2 (w.extractLsb' 30 2) (w.extractLsb' 23 3) (w.extractLsb' 13 5) (w.extractLsb' 8 5))
  else
  if w.extractLsb' 26 4 = 1 ∧ w.extractLsb' 18 5 = 0 then
    .ok (.vlog2 (w.extractLsb' 30 2) (w.extractLsb' 23 3) (w.extractLsb' 13 5) (w.extractLsb' 8 5))
  else
  if w.extractLsb' 26 4 = 2 ∧ w.extractLsb' 18 5 = 0 then
    .ok (.vrcp (w.extractLsb' 30 2) (w.extractLsb' 23 3) (w.extractLsb' 13 5) (w.extractLsb' 8 5))
  else
  if w.extractLsb' 26 4 = 3 ∧ w.extractLsb' 18 5 = 0 then
    .ok (.vrsqrt (w.extractLsb' 30 2) (w.extractLsb' 23 3) (w.extractLsb' 13 5) (w.extractLsb' 8 5))
  else
  if w.extractLsb' 26 4 = 4 ∧ w.extractLsb' 18 5 = 0 then
    .ok (.vsin (w.extractLsb' 30 2) (w.extractLsb' 23 3) (w.extractLsb' 13 5) (w.extractLsb' 8 5))
  else
  if w.extractLsb' 26 4 = 5 ∧ w.extractLsb' 18 5 = 0 then
    .ok (.vcos (w.extractLsb' 30 2) (w.extractLsb' 23 3) (w.extractLsb' 13 5) (w.extractLsb' 8 5))
  else
  .error .reservedField

/-- Major 0x22 of the C-class map: VLD. -/
def decodeC22 (w : BitVec 32) : Except DecodeReject Instr :=
  .ok (.vld (w.extractLsb' 26 6) (w.extractLsb' 25 1) (w.extractLsb' 22 3) (w.extractLsb' 15 7) (w.extractLsb' 13 2) (w.extractLsb' 8 5))

/-- Major 0x22 of the A-class map: VRNG. -/
def decodeA22 (w : BitVec 32) : Except DecodeReject Instr :=
  if w.extractLsb' 28 4 = 0 then
    .ok (.vrng (w.extractLsb' 25 3) (w.extractLsb' 18 7) (w.extractLsb' 13 5) (w.extractLsb' 8 5))
  else
  .error .reservedField

/-- Major 0x23 of the C-class map: VST. -/
def decodeC23 (w : BitVec 32) : Except DecodeReject Instr :=
  .ok (.vst (w.extractLsb' 26 6) (w.extractLsb' 25 1) (w.extractLsb' 22 3) (w.extractLsb' 15 7) (w.extractLsb' 13 2) (w.extractLsb' 8 5))

/-- Major 0x23 of the A-class map: VCLAIM. -/
def decodeA23 (w : BitVec 32) : Except DecodeReject Instr :=
  if w.extractLsb' 22 10 = 0 then
    .ok (.vclaim (w.extractLsb' 15 7) (w.extractLsb' 8 7))
  else
  .error .reservedField

/-- Major 0x24 of the C-class map: VLDS, VSTS. -/
def decodeC24 (w : BitVec 32) : Except DecodeReject Instr :=
  if w.extractLsb' 13 1 = 0 then
    .ok (.vlds (w.extractLsb' 29 3) (w.extractLsb' 22 7) (w.extractLsb' 15 7) (w.extractLsb' 14 1) (w.extractLsb' 8 5))
  else
  if w.extractLsb' 13 1 = 1 then
    .ok (.vsts (w.extractLsb' 29 3) (w.extractLsb' 22 7) (w.extractLsb' 15 7) (w.extractLsb' 14 1) (w.extractLsb' 8 5))
  else
  .error .reservedField

/-- Major 0x24 of the A-class map: VRENEW. -/
def decodeA24 (w : BitVec 32) : Except DecodeReject Instr :=
  if w.extractLsb' 22 10 = 0 then
    .ok (.vrenew (w.extractLsb' 15 7) (w.extractLsb' 8 7))
  else
  .error .reservedField

/-- Major 0x25 of the C-class map: VGAT, VSCT. -/
def decodeC25 (w : BitVec 32) : Except DecodeReject Instr :=
  if w.extractLsb' 28 1 = 0 ∧ w.extractLsb' 13 1 = 0 then
    .ok (.vgat (w.extractLsb' 29 3) (w.extractLsb' 27 1) (w.extractLsb' 22 5) (w.extractLsb' 15 7) (w.extractLsb' 14 1) (w.extractLsb' 8 5))
  else
  if w.extractLsb' 28 1 = 0 ∧ w.extractLsb' 13 1 = 1 then
    .ok (.vsct (w.extractLsb' 29 3) (w.extractLsb' 27 1) (w.extractLsb' 22 5) (w.extractLsb' 15 7) (w.extractLsb' 14 1) (w.extractLsb' 8 5))
  else
  .error .reservedField

/-- Major 0x25 of the A-class map: VREL. -/
def decodeA25 (w : BitVec 32) : Except DecodeReject Instr :=
  if w.extractLsb' 8 24 = 0 then
    .ok (.vrel)
  else
  .error .reservedField

/-- Major 0x26 of the C-class map: CPY. -/
def decodeC26 (w : BitVec 32) : Except DecodeReject Instr :=
  if w.extractLsb' 29 3 = 0 then
    .ok (.cpy (w.extractLsb' 22 7) (w.extractLsb' 15 7) (w.extractLsb' 8 7))
  else
  .error .reservedField

/-- Major 0x26 of the A-class map: VLEN. -/
def decodeA26 (w : BitVec 32) : Except DecodeReject Instr :=
  if w.extractLsb' 31 1 = 0 ∧ w.extractLsb' 15 14 = 0 then
    .ok (.vlen (w.extractLsb' 29 2) (w.extractLsb' 8 7))
  else
  .error .reservedField

/-- Major 0x27 of the C-class map: CPYW. -/
def decodeC27 (w : BitVec 32) : Except DecodeReject Instr :=
  if w.extractLsb' 29 3 = 0 then
    .ok (.cpyw (w.extractLsb' 22 7) (w.extractLsb' 15 7) (w.extractLsb' 8 7))
  else
  .error .reservedField

/-- Major 0x28 of the C-class map: MSEND. -/
def decodeC28 (w : BitVec 32) : Except DecodeReject Instr :=
  if w.extractLsb' 29 3 = 0 ∧ w.extractLsb' 8 7 = 0 then
    .ok (.msend (w.extractLsb' 22 7) (w.extractLsb' 15 7))
  else
  .error .reservedField

/-- Major 0x28 of the A-class map: MMA. -/
def decodeA28 (w : BitVec 32) : Except DecodeReject Instr :=
  .ok (.mma (w.extractLsb' 29 3) (w.extractLsb' 22 7) (w.extractLsb' 15 7) (w.extractLsb' 8 7))

/-- Major 0x29 of the C-class map: CHBIND, CHUNBIND. -/
def decodeC29 (w : BitVec 32) : Except DecodeReject Instr :=
  if w.extractLsb' 27 5 = 0 ∧ w.extractLsb' 8 7 = 0 then
    .ok (.chbind (w.extractLsb' 22 5) (w.extractLsb' 15 7))
  else
  if w.extractLsb' 27 5 = 16 ∧ w.extractLsb' 8 14 = 0 then
    .ok (.chunbind (w.extractLsb' 22 5))
  else
  .error .reservedField

/-- Major 0x29 of the A-class map: MMA_NARROW. -/
def decodeA29 (w : BitVec 32) : Except DecodeReject Instr :=
  .ok (.mmaNarrow (w.extractLsb' 29 3) (w.extractLsb' 22 7) (w.extractLsb' 15 7) (w.extractLsb' 8 7))

/-- Major 0x2A of the C-class map: REDCFG, REDC. -/
def decodeC2A (w : BitVec 32) : Except DecodeReject Instr :=
  if w.extractLsb' 29 3 = 0 ∧ w.extractLsb' 8 7 = 0 then
    .ok (.redcfg (w.extractLsb' 22 7) (w.extractLsb' 15 7))
  else
  if w.extractLsb' 28 4 = 2 ∧ w.extractLsb' 13 2 = 0 then
    .ok (.redc (w.extractLsb' 24 4) (w.extractLsb' 22 2) (w.extractLsb' 15 7) (w.extractLsb' 8 5))
  else
  .error .reservedField

/-- Major 0x2A of the A-class map: MMODE, MSCALE, MBAR. -/
def decodeA2A (w : BitVec 32) : Except DecodeReject Instr :=
  if w.extractLsb' 22 10 = 0 ∧ w.extractLsb' 8 7 = 0 then
    .ok (.mmode (w.extractLsb' 15 7))
  else
  if w.extractLsb' 29 3 = 1 ∧ w.extractLsb' 8 7 = 0 then
    .ok (.mscale (w.extractLsb' 22 7) (w.extractLsb' 15 7))
  else
  if w.extractLsb' 8 24 = 4194304 then
    .ok (.mbar)
  else
  .error .reservedField

/-- Major 0x2B of the C-class map: TSPAWN, TKEY. -/
def decodeC2B (w : BitVec 32) : Except DecodeReject Instr :=
  if w.extractLsb' 29 3 = 0 then
    .ok (.tspawn (w.extractLsb' 22 7) (w.extractLsb' 15 7) (w.extractLsb' 8 7))
  else
  if w.extractLsb' 22 10 = 128 then
    .ok (.tkey (w.extractLsb' 15 7) (w.extractLsb' 8 7))
  else
  .error .reservedField

/-- Major 0x2B of the A-class map: MLD, MST. -/
def decodeA2B (w : BitVec 32) : Except DecodeReject Instr :=
  if w.extractLsb' 29 3 = 0 then
    .ok (.mld (w.extractLsb' 22 7) (w.extractLsb' 15 7) (w.extractLsb' 8 7))
  else
  if w.extractLsb' 29 3 = 1 then
    .ok (.mst (w.extractLsb' 22 7) (w.extractLsb' 15 7) (w.extractLsb' 8 7))
  else
  .error .reservedField

/-- Major 0x2C of the C-class map: FORK, JOIN. -/
def decodeC2C (w : BitVec 32) : Except DecodeReject Instr :=
  if w.extractLsb' 29 3 = 0 then
    .ok (.fork (w.extractLsb' 22 7) (w.extractLsb' 15 7) (w.extractLsb' 8 7))
  else
  if w.extractLsb' 8 24 = 2097152 then
    .ok (.join)
  else
  .error .reservedField

/-- Major 0x2C of the A-class map: MRD, MZERO. -/
def decodeA2C (w : BitVec 32) : Except DecodeReject Instr :=
  if w.extractLsb' 29 3 = 0 then
    .ok (.mrd (w.extractLsb' 22 7) (w.extractLsb' 15 7) (w.extractLsb' 8 7))
  else
  if w.extractLsb' 15 17 = 16384 then
    .ok (.mzero (w.extractLsb' 8 7))
  else
  .error .reservedField

/-- Major 0x2D of the C-class map: RQPUT, RQTAKE. -/
def decodeC2D (w : BitVec 32) : Except DecodeReject Instr :=
  if w.extractLsb' 29 3 = 0 ∧ w.extractLsb' 8 7 = 0 then
    .ok (.rqput (w.extractLsb' 22 7) (w.extractLsb' 15 7))
  else
  if w.extractLsb' 29 3 = 1 ∧ w.extractLsb' 15 7 = 0 then
    .ok (.rqtake (w.extractLsb' 22 7) (w.extractLsb' 8 7))
  else
  .error .reservedField

/-- Major 0x2D of the A-class map: MDRAIN. -/
def decodeA2D (w : BitVec 32) : Except DecodeReject Instr :=
  if w.extractLsb' 22 7 = 0 then
    .ok (.mdrain (w.extractLsb' 29 3) (w.extractLsb' 15 7) (w.extractLsb' 8 7))
  else
  .error .reservedField

/-- Major 0x2E of the C-class map: TMSET. -/
def decodeC2E (w : BitVec 32) : Except DecodeReject Instr :=
  if w.extractLsb' 22 10 = 0 ∧ w.extractLsb' 8 7 = 0 then
    .ok (.tmset (w.extractLsb' 15 7))
  else
  .error .reservedField

/-- Major 0x2E of the A-class map: MTRANS, MCPY. -/
def decodeA2E (w : BitVec 32) : Except DecodeReject Instr :=
  if w.extractLsb' 22 10 = 0 then
    .ok (.mtrans (w.extractLsb' 15 7) (w.extractLsb' 8 7))
  else
  if w.extractLsb' 22 10 = 128 then
    .ok (.mcpy (w.extractLsb' 15 7) (w.extractLsb' 8 7))
  else
  .error .reservedField

/-- Major 0x2F of the C-class map: SSTART, SSTOP. -/
def decodeC2F (w : BitVec 32) : Except DecodeReject Instr :=
  if w.extractLsb' 22 10 = 0 then
    .ok (.sstart (w.extractLsb' 15 7) (w.extractLsb' 8 7))
  else
  if w.extractLsb' 22 10 = 1 ∧ w.extractLsb' 8 7 = 0 then
    .ok (.sstop (w.extractLsb' 15 7))
  else
  .error .reservedField

/-- Major 0x30 of the C-class map: EXIT, TRAP, WFI, BRK, ERET, HCALL. -/
def decodeC30 (w : BitVec 32) : Except DecodeReject Instr :=
  if w.extractLsb' 8 24 = 0 ∧ w.extractLsb' 0 1 = 1 then
    .ok (.exit)
  else
  if w.extractLsb' 29 3 = 1 ∧ w.extractLsb' 8 14 = 0 ∧ w.extractLsb' 0 1 = 1 then
    .ok (.trap (w.extractLsb' 22 7))
  else
  if w.extractLsb' 8 24 = 4194304 ∧ w.extractLsb' 0 1 = 1 then
    .ok (.wfi)
  else
  if w.extractLsb' 29 3 = 3 ∧ w.extractLsb' 8 14 = 0 ∧ w.extractLsb' 0 1 = 1 then
    .ok (.brk (w.extractLsb' 22 7))
  else
  if w.extractLsb' 8 24 = 8388608 ∧ w.extractLsb' 0 1 = 1 then
    .ok (.eret)
  else
  if w.extractLsb' 29 3 = 5 ∧ w.extractLsb' 8 14 = 0 ∧ w.extractLsb' 0 1 = 1 then
    .ok (.hcall (w.extractLsb' 22 7))
  else
  .error .reservedField

/-- Major 0x31 of the C-class map: CSRR. -/
def decodeC31 (w : BitVec 32) : Except DecodeReject Instr :=
  if w.extractLsb' 15 7 = 0 then
    .ok (.csrr (w.extractLsb' 22 10) (w.extractLsb' 8 7))
  else
  .error .reservedField

/-- Major 0x32 of the C-class map: CSRW. -/
def decodeC32 (w : BitVec 32) : Except DecodeReject Instr :=
  if w.extractLsb' 8 7 = 0 then
    .ok (.csrw (w.extractLsb' 22 10) (w.extractLsb' 15 7))
  else
  .error .reservedField

/-- Major 0x33 of the C-class map: RDC. -/
def decodeC33 (w : BitVec 32) : Except DecodeReject Instr :=
  if w.extractLsb' 15 7 = 0 then
    .ok (.rdc (w.extractLsb' 22 10) (w.extractLsb' 8 7))
  else
  .error .reservedField

/-- The instruction in the hint space (R91): every bit outside OP is free. -/
def decodeHint (w : BitVec 32) : Instr := .hint (w.extractLsb' 8 24) (w.extractLsb' 1 1)

/-- The instruction whose fields a word holds, by its class and major (R80, R88, R90), before the function fields are checked. -/
def decodeFields (w : BitVec 32) : Except DecodeReject Instr :=
  match (w.extractLsb' 1 7).toNat with
  | 2 => decodeC01 w
  | 3 => decodeA01 w
  | 4 => decodeC02 w
  | 5 => decodeA02 w
  | 6 => decodeC03 w
  | 7 => decodeA03 w
  | 8 => decodeC04 w
  | 9 => decodeA04 w
  | 10 => decodeC05 w
  | 11 => decodeA05 w
  | 12 => decodeC06 w
  | 13 => decodeA06 w
  | 14 => decodeC07 w
  | 15 => decodeA07 w
  | 16 => decodeC08 w
  | 17 => decodeA08 w
  | 18 => decodeC09 w
  | 19 => decodeA09 w
  | 20 => decodeC0A w
  | 21 => decodeA0A w
  | 22 => decodeC0B w
  | 23 => decodeA0B w
  | 24 => decodeC0C w
  | 25 => decodeA0C w
  | 26 => decodeC0D w
  | 27 => decodeA0D w
  | 28 => decodeC0E w
  | 29 => decodeA0E w
  | 30 => decodeC0F w
  | 31 => decodeA0F w
  | 32 => decodeC10 w
  | 33 => decodeA10 w
  | 34 => decodeC11 w
  | 35 => decodeA11 w
  | 36 => decodeC12 w
  | 37 => decodeA12 w
  | 38 => decodeC13 w
  | 39 => decodeA13 w
  | 40 => decodeC14 w
  | 41 => decodeA14 w
  | 42 => decodeC15 w
  | 43 => decodeA15 w
  | 44 => decodeC16 w
  | 45 => decodeA16 w
  | 46 => decodeC17 w
  | 47 => decodeA17 w
  | 48 => decodeC18 w
  | 49 => decodeA18 w
  | 50 => decodeC19 w
  | 51 => decodeA19 w
  | 52 => decodeC1A w
  | 53 => decodeA1A w
  | 54 => decodeC1B w
  | 55 => decodeA1B w
  | 56 => decodeC1C w
  | 57 => decodeA1C w
  | 58 => decodeC1D w
  | 59 => decodeA1D w
  | 60 => decodeC1E w
  | 62 => decodeC1F w
  | 63 => decodeA1F w
  | 64 => decodeC20 w
  | 65 => decodeA20 w
  | 66 => decodeC21 w
  | 67 => decodeA21 w
  | 68 => decodeC22 w
  | 69 => decodeA22 w
  | 70 => decodeC23 w
  | 71 => decodeA23 w
  | 72 => decodeC24 w
  | 73 => decodeA24 w
  | 74 => decodeC25 w
  | 75 => decodeA25 w
  | 76 => decodeC26 w
  | 77 => decodeA26 w
  | 78 => decodeC27 w
  | 80 => decodeC28 w
  | 81 => decodeA28 w
  | 82 => decodeC29 w
  | 83 => decodeA29 w
  | 84 => decodeC2A w
  | 85 => decodeA2A w
  | 86 => decodeC2B w
  | 87 => decodeA2B w
  | 88 => decodeC2C w
  | 89 => decodeA2C w
  | 90 => decodeC2D w
  | 91 => decodeA2D w
  | 92 => decodeC2E w
  | 93 => decodeA2E w
  | 94 => decodeC2F w
  | 96 => decodeC30 w
  | 98 => decodeC31 w
  | 100 => decodeC32 w
  | 102 => decodeC33 w
  | 126 => .ok (decodeHint w)
  | 127 => .ok (decodeHint w)
  | _ => .error .reservedMajor

/-- Decode one word: its row's fields, refused when a function field holds an unassigned value (R85, R92 step 2). -/
def decode (w : BitVec 32) : Except DecodeReject Instr :=
  match decodeFields w with
  | .error e => .error e
  | .ok i => if i.wellFormed then .ok i else .error .reservedFunction

/-- The word a list of bytes begins with (R8), and the rest. -/
def wordOfBytes : List Byte → Option (BitVec 32 × List Byte)
  | a :: b :: c :: d :: rest => some (BitVec.ofNat 32 (leNat [a, b, c, d]), rest)
  | _ => none

/-- Decode the instruction at the head of a list of bytes, total on any bytes. -/
def decodeBytes (bs : List Byte) : Except DecodeReject (Instr × List Byte) :=
  match wordOfBytes bs with
  | none => .error .tooShort
  | some (w, rest) =>
    match decode w with
    | .error e => .error e
    | .ok i => .ok (i, rest)

/-- The word of an instruction with L = `l` (R80 and the map entry of each row); `none` for a row without an encoding.
A word of major 0x30 always has L = 1 (R81). -/
def encode (i : Instr) (l : BitVec 1) : Option (BitVec 32) :=
  match i with
  | .ld o s a d => some (o ++ s ++ a ++ d ++ 2#7 ++ l)
  | .ldz o s a d => some (o ++ s ++ a ++ d ++ 4#7 ++ l)
  | .st o s a d => some (o ++ s ++ a ++ d ++ 6#7 ++ l)
  | .ldx x s b a d => some (x ++ s ++ b ++ a ++ d ++ 8#7 ++ l)
  | .stx x s b a d => some (x ++ s ++ b ++ a ++ d ++ 10#7 ++ l)
  | .ldm o n a d => some (o ++ n ++ a ++ d ++ 12#7 ++ l)
  | .stm o n a d => some (o ++ n ++ a ++ d ++ 14#7 ++ l)
  | .ldk o d => some (o ++ d ++ 16#7 ++ l)
  | .pf o s a h => some (o ++ s ++ a ++ h ++ 18#7 ++ l)
  | .amo s c a d => some (0#4 ++ s ++ c ++ a ++ d ++ 20#7 ++ l)
  | .amoE s c a d => some (1#4 ++ s ++ c ++ a ++ d ++ 20#7 ++ l)
  | .amof s c a d => some (0#4 ++ s ++ c ++ a ++ d ++ 22#7 ++ l)
  | .amofE s c a d => some (1#4 ++ s ++ c ++ a ++ d ++ 22#7 ++ l)
  | .cas s b a d => some (0#2 ++ s ++ b ++ a ++ d ++ 24#7 ++ l)
  | .qres s a d => some (0#2 ++ s ++ 0#7 ++ a ++ d ++ 26#7 ++ l)
  | .qrel s a d => some (0#2 ++ s ++ 0#7 ++ a ++ d ++ 28#7 ++ l)
  | .br o n k => some (o ++ n ++ k ++ 30#7 ++ l)
  | .jmp o => some (o ++ 0#7 ++ 32#7 ++ l)
  | .brEnd o n p => some (o ++ 1#1 ++ n ++ 0#1 ++ p ++ 32#7 ++ l)
  | .jal o d => some (o ++ d ++ 34#7 ++ l)
  | .jalr i a d => some (i ++ a ++ d ++ 36#7 ++ l)
  | .loop o d => some (o ++ d ++ 38#7 ++ l)
  | .sopen r w t s p a => some (r ++ w ++ t ++ s ++ p ++ a ++ 0#7 ++ 40#7 ++ l)
  | .sclose p => some (0#5 ++ p ++ 0#14 ++ 42#7 ++ l)
  | .sseek p a => some (0#5 ++ p ++ a ++ 0#7 ++ 44#7 ++ l)
  | .spos p d => some (0#5 ++ p ++ 0#7 ++ d ++ 46#7 ++ l)
  | .fence => some (0#24 ++ 48#7 ++ l)
  | .fenceE => some (16384#24 ++ 48#7 ++ l)
  | .wait m c s w => some (0#8 ++ m ++ c ++ s ++ w ++ 50#7 ++ l)
  | .mona i a n => some (i ++ a ++ 0#5 ++ n ++ 52#7 ++ l)
  | .monw a d => some (0#10 ++ a ++ d ++ 54#7 ++ l)
  | .watch i a => some (i ++ a ++ 0#7 ++ 56#7 ++ l)
  | .wsleep a d => some (0#10 ++ a ++ d ++ 58#7 ++ l)
  | .cut => some (0#24 ++ 60#7 ++ l)
  | .direct => some (16384#24 ++ 60#7 ++ l)
  | .resume => some (32768#24 ++ 60#7 ++ l)
  | .lock a k => some (0#10 ++ a ++ 0#4 ++ k ++ 62#7 ++ l)
  | .unlock a => some (128#10 ++ a ++ 0#7 ++ 62#7 ++ l)
  | .clean b a => some (0#3 ++ b ++ a ++ 0#7 ++ 64#7 ++ l)
  | .inval b a => some (1#3 ++ b ++ a ++ 0#7 ++ 64#7 ++ l)
  | .iflush b a => some (0#3 ++ b ++ a ++ 0#7 ++ 66#7 ++ l)
  | .isync => some (2097152#24 ++ 66#7 ++ l)
  | .vld o v m a s d => some (o ++ v ++ m ++ a ++ s ++ d ++ 68#7 ++ l)
  | .vst o v m a s d => some (o ++ v ++ m ++ a ++ s ++ d ++ 70#7 ++ l)
  | .vlds m b a s d => some (m ++ b ++ a ++ s ++ 0#1 ++ d ++ 72#7 ++ l)
  | .vsts m b a s d => some (m ++ b ++ a ++ s ++ 1#1 ++ d ++ 72#7 ++ l)
  | .vgat m c i a s d => some (m ++ 0#1 ++ c ++ i ++ a ++ s ++ 0#1 ++ d ++ 74#7 ++ l)
  | .vsct m c i a s d => some (m ++ 0#1 ++ c ++ i ++ a ++ s ++ 1#1 ++ d ++ 74#7 ++ l)
  | .cpy b a d => some (0#3 ++ b ++ a ++ d ++ 76#7 ++ l)
  | .cpyw b a d => some (0#3 ++ b ++ a ++ d ++ 78#7 ++ l)
  | .msend b a => some (0#3 ++ b ++ a ++ 0#7 ++ 80#7 ++ l)
  | .chbind p a => some (0#5 ++ p ++ a ++ 0#7 ++ 82#7 ++ l)
  | .chunbind p => some (16#5 ++ p ++ 0#14 ++ 82#7 ++ l)
  | .redcfg b a => some (0#3 ++ b ++ a ++ 0#7 ++ 84#7 ++ l)
  | .redc c o a d => some (2#4 ++ c ++ o ++ a ++ 0#2 ++ d ++ 84#7 ++ l)
  | .tspawn b a d => some (0#3 ++ b ++ a ++ d ++ 86#7 ++ l)
  | .tkey a d => some (128#10 ++ a ++ d ++ 86#7 ++ l)
  | .fork b a d => some (0#3 ++ b ++ a ++ d ++ 88#7 ++ l)
  | .join => some (2097152#24 ++ 88#7 ++ l)
  | .rqput b a => some (0#3 ++ b ++ a ++ 0#7 ++ 90#7 ++ l)
  | .rqtake b d => some (1#3 ++ b ++ 0#7 ++ d ++ 90#7 ++ l)
  | .tmset a => some (0#10 ++ a ++ 0#7 ++ 92#7 ++ l)
  | .sstart a d => some (0#10 ++ a ++ d ++ 94#7 ++ l)
  | .sstop a => some (1#10 ++ a ++ 0#7 ++ 94#7 ++ l)
  | .exit => some (0#24 ++ 96#7 ++ 1#1)
  | .trap n => some (1#3 ++ n ++ 0#14 ++ 96#7 ++ 1#1)
  | .wfi => some (4194304#24 ++ 96#7 ++ 1#1)
  | .brk n => some (3#3 ++ n ++ 0#14 ++ 96#7 ++ 1#1)
  | .eret => some (8388608#24 ++ 96#7 ++ 1#1)
  | .hcall n => some (5#3 ++ n ++ 0#14 ++ 96#7 ++ 1#1)
  | .csrr c d => some (c ++ 0#7 ++ d ++ 98#7 ++ l)
  | .csrw c a => some (c ++ a ++ 0#7 ++ 100#7 ++ l)
  | .rdc c d => some (c ++ 0#7 ++ d ++ 102#7 ++ l)
  | .hint h k => some (h ++ 63#6 ++ k ++ l)
  | .add b a d => some (0#3 ++ b ++ a ++ d ++ 3#7 ++ l)
  | .sub b a d => some (1#3 ++ b ++ a ++ d ++ 3#7 ++ l)
  | .and b a d => some (2#3 ++ b ++ a ++ d ++ 3#7 ++ l)
  | .or b a d => some (3#3 ++ b ++ a ++ d ++ 3#7 ++ l)
  | .xor b a d => some (4#3 ++ b ++ a ++ d ++ 3#7 ++ l)
  | .andn b a d => some (5#3 ++ b ++ a ++ d ++ 3#7 ++ l)
  | .sll b a d => some (6#3 ++ b ++ a ++ d ++ 3#7 ++ l)
  | .srl b a d => some (7#3 ++ b ++ a ++ d ++ 3#7 ++ l)
  | .sra b a d => some (0#3 ++ b ++ a ++ d ++ 5#7 ++ l)
  | .rol b a d => some (1#3 ++ b ++ a ++ d ++ 5#7 ++ l)
  | .min b a d => some (2#3 ++ b ++ a ++ d ++ 5#7 ++ l)
  | .max b a d => some (3#3 ++ b ++ a ++ d ++ 5#7 ++ l)
  | .minu b a d => some (4#3 ++ b ++ a ++ d ++ 5#7 ++ l)
  | .maxu b a d => some (5#3 ++ b ++ a ++ d ++ 5#7 ++ l)
  | .mulh b a d => some (6#3 ++ b ++ a ++ d ++ 5#7 ++ l)
  | .mulhu b a d => some (7#3 ++ b ++ a ++ d ++ 5#7 ++ l)
  | .mul b a d => some (0#3 ++ b ++ a ++ d ++ 7#7 ++ l)
  | .div b a d => some (1#3 ++ b ++ a ++ d ++ 7#7 ++ l)
  | .divu b a d => some (2#3 ++ b ++ a ++ d ++ 7#7 ++ l)
  | .rem b a d => some (3#3 ++ b ++ a ++ d ++ 7#7 ++ l)
  | .remu b a d => some (4#3 ++ b ++ a ++ d ++ 7#7 ++ l)
  | .leaS1 b a d => some (5#3 ++ b ++ a ++ d ++ 7#7 ++ l)
  | .leaS2 b a d => some (6#3 ++ b ++ a ++ d ++ 7#7 ++ l)
  | .leaS3 b a d => some (7#3 ++ b ++ a ++ d ++ 7#7 ++ l)
  | .addi i a d => some (i ++ a ++ d ++ 9#7 ++ l)
  | .andi i a d => some (0#2 ++ i ++ a ++ d ++ 11#7 ++ l)
  | .ori i a d => some (1#2 ++ i ++ a ++ d ++ 11#7 ++ l)
  | .xori i a d => some (2#2 ++ i ++ a ++ d ++ 11#7 ++ l)
  | .slli n a d => some (12#4 ++ n ++ a ++ d ++ 11#7 ++ l)
  | .srli n a d => some (13#4 ++ n ++ a ++ d ++ 11#7 ++ l)
  | .srai n a d => some (14#4 ++ n ++ a ++ d ++ 11#7 ++ l)
  | .lih v d => some (0#1 ++ v ++ d ++ 13#7 ++ l)
  | .lihM v d => some (1#1 ++ v ++ d ++ 13#7 ++ l)
  | .clz a d => some (0#10 ++ a ++ d ++ 15#7 ++ l)
  | .ctz a d => some (128#10 ++ a ++ d ++ 15#7 ++ l)
  | .pop a d => some (256#10 ++ a ++ d ++ 15#7 ++ l)
  | .brev a d => some (384#10 ++ a ++ d ++ 15#7 ++ l)
  | .bext b a d => some (4#3 ++ b ++ a ++ d ++ 15#7 ++ l)
  | .bins b a d => some (5#3 ++ b ++ a ++ d ++ 15#7 ++ l)
  | .fcvt r t s a d => some (0#1 ++ r ++ t ++ s ++ a ++ d ++ 17#7 ++ l)
  | .sel k b a d => some (k ++ b ++ a ++ d ++ 19#7 ++ l)
  | .pset b a c k => some (0#3 ++ b ++ a ++ c ++ k ++ 21#7 ++ l)
  | .fcmpHf b a c k => some (1#3 ++ b ++ a ++ c ++ k ++ 21#7 ++ l)
  | .fcmpBf b a c k => some (2#3 ++ b ++ a ++ c ++ k ++ 21#7 ++ l)
  | .fcmpS b a c k => some (3#3 ++ b ++ a ++ c ++ k ++ 21#7 ++ l)
  | .fcmpD b a c k => some (4#3 ++ b ++ a ++ c ++ k ++ 21#7 ++ l)
  | .pseti i a c k => some (i ++ a ++ c ++ k ++ 23#7 ++ l)
  | .plog o b a k => some (0#1 ++ o ++ 0#4 ++ b ++ 0#4 ++ a ++ 0#4 ++ k ++ 25#7 ++ l)
  | .pmovK a k => some (512#10 ++ a ++ 0#4 ++ k ++ 25#7 ++ l)
  | .pmovX a d => some (10240#14 ++ a ++ d ++ 25#7 ++ l)
  | .faddHf b a d => some (0#3 ++ b ++ a ++ d ++ 27#7 ++ l)
  | .fsubHf b a d => some (1#3 ++ b ++ a ++ d ++ 27#7 ++ l)
  | .fmulHf b a d => some (2#3 ++ b ++ a ++ d ++ 27#7 ++ l)
  | .ffmaHf b a d => some (3#3 ++ b ++ a ++ d ++ 27#7 ++ l)
  | .fdivHf b a d => some (4#3 ++ b ++ a ++ d ++ 27#7 ++ l)
  | .fminHf b a d => some (5#3 ++ b ++ a ++ d ++ 27#7 ++ l)
  | .fmaxHf b a d => some (6#3 ++ b ++ a ++ d ++ 27#7 ++ l)
  | .fsqrtHf a d => some (896#10 ++ a ++ d ++ 27#7 ++ l)
  | .fclassHf a d => some (897#10 ++ a ++ d ++ 27#7 ++ l)
  | .faddBf b a d => some (0#3 ++ b ++ a ++ d ++ 29#7 ++ l)
  | .fsubBf b a d => some (1#3 ++ b ++ a ++ d ++ 29#7 ++ l)
  | .fmulBf b a d => some (2#3 ++ b ++ a ++ d ++ 29#7 ++ l)
  | .ffmaBf b a d => some (3#3 ++ b ++ a ++ d ++ 29#7 ++ l)
  | .fdivBf b a d => some (4#3 ++ b ++ a ++ d ++ 29#7 ++ l)
  | .fminBf b a d => some (5#3 ++ b ++ a ++ d ++ 29#7 ++ l)
  | .fmaxBf b a d => some (6#3 ++ b ++ a ++ d ++ 29#7 ++ l)
  | .fsqrtBf a d => some (896#10 ++ a ++ d ++ 29#7 ++ l)
  | .fclassBf a d => some (897#10 ++ a ++ d ++ 29#7 ++ l)
  | .faddS b a d => some (0#3 ++ b ++ a ++ d ++ 31#7 ++ l)
  | .fsubS b a d => some (1#3 ++ b ++ a ++ d ++ 31#7 ++ l)
  | .fmulS b a d => some (2#3 ++ b ++ a ++ d ++ 31#7 ++ l)
  | .ffmaS b a d => some (3#3 ++ b ++ a ++ d ++ 31#7 ++ l)
  | .fdivS b a d => some (4#3 ++ b ++ a ++ d ++ 31#7 ++ l)
  | .fminS b a d => some (5#3 ++ b ++ a ++ d ++ 31#7 ++ l)
  | .fmaxS b a d => some (6#3 ++ b ++ a ++ d ++ 31#7 ++ l)
  | .fsqrtS a d => some (896#10 ++ a ++ d ++ 31#7 ++ l)
  | .fclassS a d => some (897#10 ++ a ++ d ++ 31#7 ++ l)
  | .faddD b a d => some (0#3 ++ b ++ a ++ d ++ 33#7 ++ l)
  | .fsubD b a d => some (1#3 ++ b ++ a ++ d ++ 33#7 ++ l)
  | .fmulD b a d => some (2#3 ++ b ++ a ++ d ++ 33#7 ++ l)
  | .ffmaD b a d => some (3#3 ++ b ++ a ++ d ++ 33#7 ++ l)
  | .fdivD b a d => some (4#3 ++ b ++ a ++ d ++ 33#7 ++ l)
  | .fminD b a d => some (5#3 ++ b ++ a ++ d ++ 33#7 ++ l)
  | .fmaxD b a d => some (6#3 ++ b ++ a ++ d ++ 33#7 ++ l)
  | .fsqrtD a d => some (896#10 ++ a ++ d ++ 33#7 ++ l)
  | .fclassD a d => some (897#10 ++ a ++ d ++ 33#7 ++ l)
  | .vadd s v m b a d => some (s ++ v ++ 0#3 ++ m ++ b ++ a ++ d ++ 35#7 ++ l)
  | .vsub s v m b a d => some (s ++ v ++ 1#3 ++ m ++ b ++ a ++ d ++ 35#7 ++ l)
  | .vmul s v m b a d => some (s ++ v ++ 2#3 ++ m ++ b ++ a ++ d ++ 35#7 ++ l)
  | .vmulh s v m b a d => some (s ++ v ++ 3#3 ++ m ++ b ++ a ++ d ++ 35#7 ++ l)
  | .vand s v m b a d => some (s ++ v ++ 4#3 ++ m ++ b ++ a ++ d ++ 35#7 ++ l)
  | .vor s v m b a d => some (s ++ v ++ 5#3 ++ m ++ b ++ a ++ d ++ 35#7 ++ l)
  | .vxor s v m b a d => some (s ++ v ++ 6#3 ++ m ++ b ++ a ++ d ++ 35#7 ++ l)
  | .vsll s v m b a d => some (s ++ v ++ 7#3 ++ m ++ b ++ a ++ d ++ 35#7 ++ l)
  | .vsrl s v m b a d => some (s ++ v ++ 0#3 ++ m ++ b ++ a ++ d ++ 37#7 ++ l)
  | .vsra s v m b a d => some (s ++ v ++ 1#3 ++ m ++ b ++ a ++ d ++ 37#7 ++ l)
  | .vmin s v m b a d => some (s ++ v ++ 2#3 ++ m ++ b ++ a ++ d ++ 37#7 ++ l)
  | .vmax s v m b a d => some (s ++ v ++ 3#3 ++ m ++ b ++ a ++ d ++ 37#7 ++ l)
  | .vminu s v m b a d => some (s ++ v ++ 4#3 ++ m ++ b ++ a ++ d ++ 37#7 ++ l)
  | .vmaxu s v m b a d => some (s ++ v ++ 5#3 ++ m ++ b ++ a ++ d ++ 37#7 ++ l)
  | .vaddX s m b a d => some (s ++ 0#2 ++ m ++ b ++ a ++ d ++ 39#7 ++ l)
  | .vsllX s m b a d => some (s ++ 1#2 ++ m ++ b ++ a ++ d ++ 39#7 ++ l)
  | .vsrlX s m b a d => some (s ++ 2#2 ++ m ++ b ++ a ++ d ++ 39#7 ++ l)
  | .vsraX s m b a d => some (s ++ 3#2 ++ m ++ b ++ a ++ d ++ 39#7 ++ l)
  | .vfadd s v m b a d => some (s ++ v ++ 0#3 ++ m ++ b ++ a ++ d ++ 41#7 ++ l)
  | .vfsub s v m b a d => some (s ++ v ++ 1#3 ++ m ++ b ++ a ++ d ++ 41#7 ++ l)
  | .vfmul s v m b a d => some (s ++ v ++ 2#3 ++ m ++ b ++ a ++ d ++ 41#7 ++ l)
  | .vffma s v m b a d => some (s ++ v ++ 3#3 ++ m ++ b ++ a ++ d ++ 41#7 ++ l)
  | .vfmin s v m b a d => some (s ++ v ++ 4#3 ++ m ++ b ++ a ++ d ++ 41#7 ++ l)
  | .vfmax s v m b a d => some (s ++ v ++ 5#3 ++ m ++ b ++ a ++ d ++ 41#7 ++ l)
  | .vfdiv s v m b a d => some (s ++ v ++ 6#3 ++ m ++ b ++ a ++ d ++ 41#7 ++ l)
  | .vfsqrt s v m a d => some (s ++ v ++ 7#3 ++ m ++ 0#5 ++ a ++ d ++ 41#7 ++ l)
  | .vfaddX s m b a d => some (s ++ 0#2 ++ m ++ b ++ a ++ d ++ 43#7 ++ l)
  | .vfmulX s m b a d => some (s ++ 1#2 ++ m ++ b ++ a ++ d ++ 43#7 ++ l)
  | .vffmaX s m b a d => some (s ++ 2#2 ++ m ++ b ++ a ++ d ++ 43#7 ++ l)
  | .vcmp s c m b a k => some (s ++ 0#1 ++ c ++ m ++ b ++ a ++ 0#2 ++ k ++ 45#7 ++ l)
  | .vfcmp s c m b a k => some (s ++ 0#1 ++ c ++ m ++ b ++ a ++ 0#2 ++ k ++ 47#7 ++ l)
  | .vsel s m b a d => some (s ++ 0#4 ++ m ++ b ++ a ++ d ++ 49#7 ++ l)
  | .vperm s m b a d => some (s ++ 1#4 ++ m ++ b ++ a ++ d ++ 49#7 ++ l)
  | .vcomp s m a d => some (s ++ 2#4 ++ m ++ 0#5 ++ a ++ d ++ 49#7 ++ l)
  | .vbcast s m b d => some (s ++ 0#2 ++ m ++ b ++ 0#5 ++ d ++ 51#7 ++ l)
  | .vslide s m b a d => some (s ++ 1#2 ++ m ++ b ++ a ++ d ++ 51#7 ++ l)
  | .vext s b a d => some (0#1 ++ s ++ b ++ 0#2 ++ a ++ d ++ 53#7 ++ l)
  | .vcvt r t m v s a d => some (r ++ t ++ m ++ v ++ s ++ a ++ d ++ 55#7 ++ l)
  | .vcvtNarrow r t m v s a d => some (r ++ t ++ m ++ v ++ s ++ a ++ d ++ 57#7 ++ l)
  | .vcvtSr t s m b a d => some (t ++ s ++ m ++ b ++ a ++ d ++ 59#7 ++ l)
  | .vred s o m a d => some (s ++ 0#1 ++ o ++ m ++ 0#5 ++ a ++ d ++ 63#7 ++ l)
  | .vscan s o m a d => some (s ++ 0#1 ++ o ++ m ++ 0#5 ++ a ++ d ++ 65#7 ++ l)
  | .vexp2 s m a d => some (s ++ 0#4 ++ m ++ 0#5 ++ a ++ d ++ 67#7 ++ l)
  | .vlog2 s m a d => some (s ++ 1#4 ++ m ++ 0#5 ++ a ++ d ++ 67#7 ++ l)
  | .vrcp s m a d => some (s ++ 2#4 ++ m ++ 0#5 ++ a ++ d ++ 67#7 ++ l)
  | .vrsqrt s m a d => some (s ++ 3#4 ++ m ++ 0#5 ++ a ++ d ++ 67#7 ++ l)
  | .vsin s m a d => some (s ++ 4#4 ++ m ++ 0#5 ++ a ++ d ++ 67#7 ++ l)
  | .vcos s m a d => some (s ++ 5#4 ++ m ++ 0#5 ++ a ++ d ++ 67#7 ++ l)
  | .vrng m b a d => some (0#4 ++ m ++ b ++ a ++ d ++ 69#7 ++ l)
  | .vclaim a d => some (0#10 ++ a ++ d ++ 71#7 ++ l)
  | .vrenew a d => some (0#10 ++ a ++ d ++ 73#7 ++ l)
  | .vrel => some (0#24 ++ 75#7 ++ l)
  | .vlen s d => some (0#1 ++ s ++ 0#14 ++ d ++ 77#7 ++ l)
  | .mma f b a d => some (f ++ b ++ a ++ d ++ 81#7 ++ l)
  | .mmaNarrow f b a d => some (f ++ b ++ a ++ d ++ 83#7 ++ l)
  | .mmode a => some (0#10 ++ a ++ 0#7 ++ 85#7 ++ l)
  | .mscale b a => some (1#3 ++ b ++ a ++ 0#7 ++ 85#7 ++ l)
  | .mbar => some (4194304#24 ++ 85#7 ++ l)
  | .mld b a d => some (0#3 ++ b ++ a ++ d ++ 87#7 ++ l)
  | .mst b a d => some (1#3 ++ b ++ a ++ d ++ 87#7 ++ l)
  | .mrd b a d => some (0#3 ++ b ++ a ++ d ++ 89#7 ++ l)
  | .mzero d => some (16384#17 ++ d ++ 89#7 ++ l)
  | .mdrain f a d => some (f ++ 0#7 ++ a ++ d ++ 91#7 ++ l)
  | .mtrans a d => some (0#10 ++ a ++ d ++ 93#7 ++ l)
  | .mcpy a d => some (128#10 ++ a ++ d ++ 93#7 ++ l)
  | .interruptTaken .. | .timerExpiry .. | .chunkEndChunkmax .. | .chunkCutCycles .. | .commitRequest ..
  | .commitGrant .. | .grantArrival .. | .sig | .directFallback .. | .engineChunkGrant .. | .copyComplete ..
  | .combiningRelease .. | .reads .. | .readm .. | .fwd .. | .data .. | .wback .. | .ack .. | .inv ..
  | .binv .. | .remoteStoreMessage | .loadDataReturn .. | .storeGloballyPerformed ..
  | .streamPrefetchArrival .. | .messageArrival .. | .fullReply .. | .messageResend .. | .messageRefusal ..
  | .qresHead .. | .qrelAck .. | .edgeAtomicAtHome .. | .edgeAtomicResponse .. | .edgeWriteAck ..
  | .edgeWriteRefused .. | .monwTimeout .. | .wsleepTimeout .. | .matrixCommandAccept ..
  | .matrixCommandComplete .. | .reductionRoundDeliver .. | .childStart .. | .taskStart ..
  | .passedOverEntry .. | .queueNotify .. | .launchStart .. | .coreGroupStart .. | .launchComplete ..
  | .errorDetected .. | .linkFlitError | .heathwayPortFailure .. | .accessCounterThreshold ..
  | .regionMoveComplete .. | .cxlMemRead .. | .cxlMemWrite .. | .cxlCacheSnoop .. | .packageReset
  | .hentry .. | .functionLevelReset .. | .throttleStart .. | .throttleEnd .. | .thermalReset | .dbgen ..
  | .bpset .. | .halt .. | .step .. | .debugResume .. | .debugRead .. | .debugWrite .. | .samplingPulse
  | .counterConfig .. | .snap .. | .traceConfig .. | .trptr .. | .tclaim .. | .drainRequest ..
  | .registerWrite .. | .vset .. | .hset .. | .contain .. | .drain .. | .trace .. | .bstop ..
  | .baleFreeze .. | .baleStreamOutEnd .. | .brest .. | .hover .. | .slotHandover .. | .handoverResume ..
  | .scrubComplete | .precopy .. | .stopping .. | .abort .. | .resuming .. | .migrationStopped ..
  | .mackRelease .. | .mackSubmit .. | .pullall .. | .pull .. | .pullData .. | .started .. | .done ..
  | .remap .. | .remapack .. | .fwdend .. | .peerAccessArrival .. | .baleStreamInEnd .. | .mbPset ..
  | .mbPlog .. => none

/-- The instruction the decoder reads from a 32-bit word given as a number (bit 0 the least significant bit of the word);
the word is laid out as the part stores it, little-endian (R8), and given to the decoder on bytes. -/
def decodeTableWord (nbits w : Nat) : Option Instr :=
  if nbits = 32 then
    match decodeBytes (leBytes 4 w) with
    | .ok (i, _) => some i
    | .error _ => none
  else none

end Sys2Proof
end

