-- ==== Sys2Proof/Machine/Float.lean ====
section
/-!
DEFINITION. Number formats, rounding, exact floating-point arithmetic and the tree of a sum (R52 to R78).
Every operation is computed exactly on natural numbers and integers and rounded once at the end.
-/

namespace Sys2Proof.Machine

/-- How a format spends its all-ones exponent (R52, Table 2.1). -/
inductive FSpecial where
  | ieee
  | nanOnly
  | none
deriving DecidableEq, Repr

/-- A binary floating-point format (Table 2.1). -/
structure Fmt where
  exp : Nat
  frac : Nat
  bias : Nat
  special : FSpecial
deriving DecidableEq, Repr

namespace Fmt
/-- Width in bits (Table 2.1). -/
def width (f : Fmt) : Nat := 1 + f.exp + f.frac
end Fmt

/-- binary64 (Table 2.1). -/
def fmtD : Fmt := ⟨11, 52, 1023, .ieee⟩
/-- binary32 (Table 2.1). -/
def fmtS : Fmt := ⟨8, 23, 127, .ieee⟩
/-- binary16 (Table 2.1). -/
def fmtHf : Fmt := ⟨5, 10, 15, .ieee⟩
/-- bfloat16 (Table 2.1). -/
def fmtBf : Fmt := ⟨8, 7, 127, .ieee⟩
/-- OCP FP8 E4M3 (Table 2.1). -/
def fmtE4 : Fmt := ⟨4, 3, 7, .nanOnly⟩
/-- OCP FP8 E5M2 (Table 2.1). -/
def fmtE5 : Fmt := ⟨5, 2, 15, .ieee⟩
/-- OCP FP6 E2M3 (Table 2.1). -/
def fmtF6a : Fmt := ⟨2, 3, 1, .none⟩
/-- OCP FP6 E3M2 (Table 2.1). -/
def fmtF6b : Fmt := ⟨3, 2, 3, .none⟩
/-- OCP FP4 E2M1 (Table 2.1). -/
def fmtF4 : Fmt := ⟨2, 1, 1, .none⟩
/-- The 48-bit extended accumulator format (Table 2.1). -/
def fmtX48 : Fmt := ⟨11, 36, 1023, .ieee⟩
/-- The 72-bit extended accumulator format (Table 2.1). -/
def fmtX72 : Fmt := ⟨11, 60, 1023, .ieee⟩

/-- The value of an encoding (R52): a NaN (signalling or not), an infinity, or (-1)^s m 2^e. -/
inductive FVal where
  | nan (signalling : Bool)
  | inf (s : Bool)
  | fin (s : Bool) (m : Nat) (e : Int)
deriving DecidableEq, Repr

/-- A rounding mode of Table 2.3; a stochastic one carries its 16 random bits (R62). -/
inductive RMode where
  | rn
  | rz
  | ru
  | rd
  | ro
  | sr (u : Nat)
deriving DecidableEq, Repr

/-- The rounding mode of a code of Table 2.3, with FCTL.RM for 111 and the random bits for 101. -/
def RMode.ofCode (code rm u : Nat) : RMode :=
  match (if code = 7 then rm else code) with
  | 1 => .rz
  | 2 => .ru
  | 3 => .rd
  | 4 => .ro
  | 5 => .sr u
  | _ => .rn

/-- The five exception flags, at the bits of FFLAGS (Table 2.5). -/
abbrev FFlags := BitVec 5

/-- Invalid operation. -/
def flNV : FFlags := 16#5
/-- Division of a finite non-zero value by zero. -/
def flDZ : FFlags := 8#5
/-- Overflow. -/
def flOF : FFlags := 4#5
/-- Underflow. -/
def flUF : FFlags := 2#5
/-- Inexact. -/
def flNX : FFlags := 1#5

/-- The value an encoding stands for (R52). Bits above the format are ignored. -/
def decodeF (f : Fmt) (bits : Nat) : FVal :=
  let frac := bits % 2 ^ f.frac
  let ex := bits / 2 ^ f.frac % 2 ^ f.exp
  let s := bits / 2 ^ (f.frac + f.exp) % 2 == 1
  if f.special = .ieee ∧ ex = 2 ^ f.exp - 1 then
    if frac = 0 then .inf s else .nan (frac / 2 ^ (f.frac - 1) == 0)
  else if f.special = .nanOnly ∧ ex = 2 ^ f.exp - 1 ∧ frac = 2 ^ f.frac - 1 then .nan false
  else if ex = 0 then .fin s frac (1 - (f.bias : Int) - f.frac)
  else .fin s (2 ^ f.frac + frac) ((ex : Int) - f.bias - f.frac)

/-- The sign bit at its place in a format. -/
def signBit (f : Fmt) (s : Bool) : Nat := if s then 2 ^ (f.exp + f.frac) else 0

/-- The magnitude bits of the largest finite value (Table 2.1). -/
def maxEnc (f : Fmt) : Nat :=
  match f.special with
  | .ieee => (2 ^ f.exp - 1) * 2 ^ f.frac - 1
  | .nanOnly => 2 ^ (f.exp + f.frac) - 2
  | .none => 2 ^ (f.exp + f.frac) - 1

/-- The infinity of a format that has one. -/
def infEnc (f : Fmt) (s : Bool) : Nat := signBit f s + (2 ^ f.exp - 1) * 2 ^ f.frac

/-- The canonical NaN (Table 2.2); a format without a NaN gives +0 (R65). -/
def canonNaN (f : Fmt) : Nat :=
  match f.special with
  | .ieee => (2 ^ f.exp - 1) * 2 ^ f.frac + 2 ^ (f.frac - 1)
  | .nanOnly => 2 ^ (f.exp + f.frac) - 1
  | .none => 0

/-- A NaN delivered to a format: the canonical NaN (R55), or +0 with NV where the format has none (R65). -/
def nanResult (f : Fmt) (fl : FFlags) : Nat × FFlags :=
  (canonNaN f, if f.special = .none then fl ||| flNV else fl)

/-- The format is one of `.e4` and `.e5`, whose overflow FCTL.SATF governs (R65). -/
def isFp8 (f : Fmt) : Bool := f == fmtE4 || f == fmtE5

/-- The result and flags of a rounded overflow (R65, Table 2.3). -/
def overflowResult (f : Fmt) (mode : RMode) (satf s : Bool) : Nat × FFlags :=
  let big := signBit f s + maxEnc f
  match f.special with
  | .none => (big, flOF ||| flNX)
  | .nanOnly => if satf then (big, flOF ||| flNX) else (signBit f s + canonNaN f, flOF ||| flNX ||| flNV)
  | .ieee =>
    if isFp8 f && satf then (big, flOF ||| flNX)
    else
      (match mode with
       | .rn => infEnc f s
       | .sr _ => infEnc f s
       | .rz => big
       | .ro => big
       | .ru => if s then big else infEnc f s
       | .rd => if s then infEnc f s else big, flOF ||| flNX)

/-- An infinite input delivered to a format (R65). -/
def infResult (f : Fmt) (satf s : Bool) : Nat × FFlags :=
  match f.special with
  | .none => (signBit f s + maxEnc f, 0)
  | .nanOnly => if satf then (signBit f s + maxEnc f, 0) else (signBit f s + canonNaN f, flNV)
  | .ieee => if isFp8 f && satf then (signBit f s + maxEnc f, 0) else (infEnc f s, 0)

/-- Round the magnitude `m` at `sh` dropped bits: the kept integer and whether bits were lost (R60 to R62). -/
def roundShift (mode : RMode) (s : Bool) (m sh : Nat) : Nat × Bool :=
  let q := m / 2 ^ sh
  let r := m % 2 ^ sh
  if r = 0 then (q, false)
  else
    let up :=
      match mode with
      | .rn => decide (2 ^ sh < 2 * r) || (decide (2 * r = 2 ^ sh) && q % 2 == 1)
      | .rz => false
      | .ru => !s
      | .rd => s
      | .ro => q % 2 == 0
      | .sr u => decide (u < r * 2 ^ 16 / 2 ^ sh)
    (if up then q + 1 else q, true)

/-- Round (-1)^s m 2^e, with `m` not zero, into a format: bits and flags (R54, R60 to R65, R68). -/
def roundPos (f : Fmt) (mode : RMode) (satf s : Bool) (m : Nat) (e : Int) : Nat × FFlags :=
  let top : Int := e + (Nat.log2 m : Nat)
  let emin : Int := 1 - (f.bias : Int)
  let qn : Int := top - f.frac
  let q : Int := max qn (emin - f.frac)
  let kept : Nat × Bool := if q ≤ e then (m * 2 ^ (e - q).toNat, false) else roundShift mode s m (q - e).toNat
  let enc : Nat := if kept.1 < 2 ^ f.frac then kept.1
    else (q + f.frac + f.bias).toNat * 2 ^ f.frac + (kept.1 - 2 ^ f.frac)
  if maxEnc f < enc then overflowResult f mode satf s
  else
    -- tininess is judged after rounding with unbounded exponent (R68)
    let unb : Nat := if qn ≤ e then m * 2 ^ (e - qn).toNat else (roundShift mode s m (qn - e).toNat).1
    let tiny : Bool := decide (qn + (Nat.log2 unb : Nat) < emin)
    let fl : FFlags := if kept.2 then (if tiny then flNX ||| flUF else flNX) else 0
    (signBit f s + enc, fl)

/-- Round an exact value into a format (R54): a zero keeps its sign, an infinity and a NaN follow R65 and R55. -/
def roundF (f : Fmt) (mode : RMode) (satf : Bool) : FVal → Nat × FFlags
  | .nan sig => nanResult f (if sig then flNV else 0)
  | .inf s => infResult f satf s
  | .fin s m e => if m = 0 then (signBit f s, 0) else roundPos f mode satf s m e

/-- The signed integer a finite value is at exponent `q`, where `q` is not above its own. -/
def scaledInt (s : Bool) (m : Nat) (e q : Int) : Int :=
  let v : Int := ((m * 2 ^ (e - q).toNat : Nat) : Int)
  if s then -v else v

/-- A sum of two exact finite values; an exact zero sum has the sign the mode gives (R61, IEEE 754). -/
def addFin (mode : RMode) (s₁ : Bool) (m₁ : Nat) (e₁ : Int) (s₂ : Bool) (m₂ : Nat) (e₂ : Int) : FVal :=
  let q := min e₁ e₂
  let v := scaledInt s₁ m₁ e₁ q + scaledInt s₂ m₂ e₂ q
  if v = 0 then .fin (if s₁ = s₂ then s₁ else mode == .rd) 0 0
  else .fin (decide (v < 0)) v.natAbs q

/-- Exact addition of two values with the flags it raises before rounding (R54, R55). -/
def addV (mode : RMode) : FVal → FVal → FVal × FFlags
  | .nan a, .nan b => (.nan false, if a || b then flNV else 0)
  | .nan a, _ => (.nan false, if a then flNV else 0)
  | _, .nan b => (.nan false, if b then flNV else 0)
  | .inf a, .inf b => if a = b then (.inf a, 0) else (.nan false, flNV)
  | .inf a, _ => (.inf a, 0)
  | _, .inf b => (.inf b, 0)
  | .fin s₁ m₁ e₁, .fin s₂ m₂ e₂ => (addFin mode s₁ m₁ e₁ s₂ m₂ e₂, 0)

/-- The negation of a value. -/
def negV : FVal → FVal
  | .nan a => .nan a
  | .inf s => .inf !s
  | .fin s m e => .fin (!s) m e

/-- Exact multiplication with the flags it raises before rounding (R54, R55). -/
def mulV : FVal → FVal → FVal × FFlags
  | .nan a, .nan b => (.nan false, if a || b then flNV else 0)
  | .nan a, _ => (.nan false, if a then flNV else 0)
  | _, .nan b => (.nan false, if b then flNV else 0)
  | .inf a, .inf b => (.inf (a != b), 0)
  | .inf a, .fin s m _ => if m = 0 then (.nan false, flNV) else (.inf (a != s), 0)
  | .fin s m _, .inf b => if m = 0 then (.nan false, flNV) else (.inf (s != b), 0)
  | .fin s₁ m₁ e₁, .fin s₂ m₂ e₂ => (.fin (s₁ != s₂) (m₁ * m₂) (e₁ + e₂), 0)

/-- Round an exact result and join the flags of the operation with those of the rounding (R54, R68). -/
def finish (f : Fmt) (mode : RMode) (satf : Bool) (r : FVal × FFlags) : Nat × FFlags :=
  let o := roundF f mode satf r.1
  (o.1, r.2 ||| o.2)

/-- a + b, rounded once (R54). -/
def fAdd (f : Fmt) (mode : RMode) (a b : Nat) : Nat × FFlags :=
  finish f mode true (addV mode (decodeF f a) (decodeF f b))

/-- a - b, rounded once (R54). -/
def fSub (f : Fmt) (mode : RMode) (a b : Nat) : Nat × FFlags :=
  finish f mode true (addV mode (decodeF f a) (negV (decodeF f b)))

/-- a × b, rounded once (R54). -/
def fMul (f : Fmt) (mode : RMode) (a b : Nat) : Nat × FFlags :=
  finish f mode true (mulV (decodeF f a) (decodeF f b))

/-- a × b + d, rounded once; 0 × infinity raises NV whatever the addend (R54, R55). -/
def fFma (f : Fmt) (mode : RMode) (a b d : Nat) : Nat × FFlags :=
  let p := mulV (decodeF f a) (decodeF f b)
  let r := addV mode p.1 (decodeF f d)
  finish f mode true (r.1, p.2 ||| r.2)

/-- The quotient of two non-zero finite magnitudes with at least `bits` significant bits and a sticky last bit. -/
def divSticky (bits : Nat) (m₁ : Nat) (e₁ : Int) (m₂ : Nat) (e₂ : Int) : Nat × Int :=
  let k := bits + Nat.log2 m₂ + 2
  let n := m₁ * 2 ^ k
  (2 * (n / m₂) + (if n % m₂ = 0 then 0 else 1), e₁ - e₂ - k - 1)

/-- a / b, rounded once (R54, R68). -/
def fDiv (f : Fmt) (mode : RMode) (a b : Nat) : Nat × FFlags :=
  finish f mode true
    (match decodeF f a, decodeF f b with
     | .nan x, .nan y => (.nan false, if x || y then flNV else 0)
     | .nan x, _ => (.nan false, if x then flNV else 0)
     | _, .nan y => (.nan false, if y then flNV else 0)
     | .inf _, .inf _ => (.nan false, flNV)
     | .inf x, .fin s _ _ => (.inf (x != s), 0)
     | .fin s _ _, .inf y => (.fin (s != y) 0 0, 0)
     | .fin s₁ m₁ e₁, .fin s₂ m₂ e₂ =>
       if m₂ = 0 then
         if m₁ = 0 then (.nan false, flNV) else (.inf (s₁ != s₂), flDZ)
       else if m₁ = 0 then (.fin (s₁ != s₂) 0 0, 0)
       else
         let q := divSticky (f.frac + 4) m₁ e₁ m₂ e₂
         (.fin (s₁ != s₂) q.1 q.2, 0))

/-- Newton's iteration for the integer square root, from above, with fuel. -/
def sqrtGo : Nat → Nat → Nat → Nat
  | 0, _, x => x
  | n + 1, v, x =>
    let y := (x + v / x) / 2
    if y < x then sqrtGo n v y else x

/-- The integer square root, rounded down. -/
def natSqrt (v : Nat) : Nat :=
  if v = 0 then 0 else sqrtGo (Nat.log2 v + 8) v (2 ^ (Nat.log2 v / 2 + 1))

/-- The square root of a non-zero magnitude with at least `bits` significant bits and a sticky last bit. -/
def sqrtSticky (bits : Nat) (m : Nat) (e : Int) : Nat × Int :=
  let odd : Bool := e % 2 != 0
  let m' := if odd then 2 * m else m
  let e' : Int := if odd then e - 1 else e
  let n := m' * 2 ^ (2 * bits)
  let r := natSqrt n
  (2 * r + (if r * r = n then 0 else 1), e' / 2 - bits - 1)

/-- The square root, rounded once; a negative non-zero operand is invalid (R54, R175). -/
def fSqrt (f : Fmt) (mode : RMode) (a : Nat) : Nat × FFlags :=
  finish f mode true
    (match decodeF f a with
     | .nan x => (.nan false, if x then flNV else 0)
     | .inf true => (.nan false, flNV)
     | .inf false => (.inf false, 0)
     | .fin s m e =>
       if m = 0 then (.fin s 0 0, 0)
       else if s then (.nan false, flNV)
       else
         let q := sqrtSticky (f.frac + 4) m e
         (.fin false q.1 q.2, 0))

/-- The order of two values that are not NaNs, −0 equal to +0. -/
def cmpV : FVal → FVal → Ordering
  | .inf a, .inf b => if a = b then .eq else if a then .lt else .gt
  | .inf a, _ => if a then .lt else .gt
  | _, .inf b => if b then .gt else .lt
  | .fin s₁ m₁ e₁, .fin s₂ m₂ e₂ =>
    let q := min e₁ e₂
    compare (scaledInt s₁ m₁ e₁ q) (scaledInt s₂ m₂ e₂ q)
  | _, _ => .eq

/-- The sign of a value, false for a NaN. -/
def signV : FVal → Bool
  | .nan _ => false
  | .inf s => s
  | .fin s _ _ => s

/-- a is below b in the order of R56, where −0 lies below +0. -/
def belowV (a b : FVal) : Bool :=
  match cmpV a b with
  | .lt => true
  | .gt => false
  | .eq => signV a && !signV b

/-- The value is a NaN. -/
def isNaNV : FVal → Bool
  | .nan _ => true
  | _ => false

/-- The value is a signalling NaN. -/
def isSNaNV : FVal → Bool
  | .nan s => s
  | _ => false

/-- Bits of an operand within a format's width. -/
def fBits (f : Fmt) (a : Nat) : Nat := a % 2 ^ f.width

/-- Minimum (`wantMax` false) or maximum (R56). -/
def fMinMax (f : Fmt) (wantMax : Bool) (a b : Nat) : Nat × FFlags :=
  let x := decodeF f a
  let y := decodeF f b
  let fl : FFlags := if isSNaNV x || isSNaNV y then flNV else 0
  if isNaNV x && isNaNV y then (canonNaN f, fl)
  else if isNaNV x then (fBits f b, fl)
  else if isNaNV y then (fBits f a, fl)
  else if wantMax then (if belowV x y then fBits f b else fBits f a, fl)
  else (if belowV y x then fBits f b else fBits f a, fl)

/-- The result of a floating-point condition of Table 3.7 and the flags it raises (R166). -/
def fCond (f : Fmt) (c a b : Nat) : Bool × FFlags :=
  let x := decodeF f a
  let y := decodeF f b
  let un := isNaNV x || isNaNV y
  let o := cmpV x y
  let quiet := c = 0 ∨ c = 1 ∨ c = 6
  let r :=
    match c with
    | 0 => !un && o == .eq
    | 1 => un || o != .eq
    | 2 => !un && o == .lt
    | 3 => !un && (o == .gt || o == .eq)
    | 4 => !un && (o == .lt || o == .eq)
    | 5 => !un && o == .gt
    | _ => un
  (r, if isSNaNV x || isSNaNV y || (un && !decide quiet) then flNV else 0)

/-- The class word of Table 6.8 (R177). -/
def fClass (f : Fmt) (a : Nat) : Nat :=
  match decodeF f a with
  | .nan sig => if sig then 2 ^ 8 else 2 ^ 9
  | .inf s => if s then 1 else 2 ^ 7
  | .fin s m e =>
    if m = 0 then (if s then 2 ^ 3 else 2 ^ 4)
    else if m < 2 ^ f.frac ∧ e = 1 - (f.bias : Int) - f.frac then (if s then 2 ^ 2 else 2 ^ 5)
    else (if s then 2 ^ 1 else 2 ^ 6)

/-- The signed value of the low `w` bits of a number. -/
def signedOf (w v : Nat) : Int :=
  let x := v % 2 ^ w
  if 2 * x < 2 ^ w then (x : Int) else (x : Int) - (2 ^ w : Nat)

/-- The two's-complement bits of an integer in `w` bits. -/
def wrapBits (w : Nat) (v : Int) : Nat := (v % ((2 ^ w : Nat) : Int)).toNat

/-- Saturate an integer into `w` signed bits: the bits, and whether it saturated (R66). -/
def saturate (w : Nat) (v : Int) : Nat × Bool :=
  let hi : Int := ((2 ^ (w - 1) : Nat) : Int) - 1
  let lo : Int := -((2 ^ (w - 1) : Nat) : Int)
  if hi < v then (wrapBits w hi, true) else if v < lo then (wrapBits w lo, true) else (wrapBits w v, false)

/-- Conversion of a value to a signed integer of `w` bits (R66). -/
def toInt (mode : RMode) (w : Nat) : FVal → Nat × FFlags
  | .nan _ => (0, flNV)
  | .inf s => ((saturate w (if s then -((2 ^ w : Nat) : Int) else ((2 ^ w : Nat) : Int))).1, flNV)
  | .fin s m e =>
    let k : Nat × Bool := if 0 ≤ e then (m * 2 ^ (min e 70).toNat, false) else roundShift mode s m (-e).toNat
    let v : Int := if s then -(k.1 : Int) else (k.1 : Int)
    let r := saturate w v
    (r.1, if r.2 then flNV else if k.2 then flNX else 0)

/-- A conversion format: a signed integer of a width, or a floating-point format (Table 3.6). -/
inductive CFmt where
  | int (w : Nat)
  | flt (f : Fmt)
deriving DecidableEq, Repr

/-- The width of a conversion format in bits. -/
def CFmt.width : CFmt → Nat
  | .int w => w
  | .flt f => f.width

/-- The vector conversion codes of Table 3.6. -/
def CFmt.ofVec : Nat → CFmt
  | 0 => .int 8
  | 1 => .int 16
  | 2 => .int 32
  | 3 => .int 64
  | 4 => .flt fmtHf
  | 5 => .flt fmtBf
  | 6 => .flt fmtS
  | 7 => .flt fmtD
  | 8 => .flt fmtE4
  | 9 => .flt fmtE5
  | 10 => .flt fmtF6a
  | 11 => .flt fmtF6b
  | _ => .flt fmtF4

/-- The scalar conversion codes of Table 3.6. -/
def CFmt.ofScalar : Nat → CFmt
  | 0 => .int 32
  | 1 => .int 64
  | 2 => .flt fmtHf
  | 3 => .flt fmtBf
  | 4 => .flt fmtS
  | 5 => .flt fmtD
  | _ => .flt fmtX48

/-- One conversion (R54, R60 to R66): destination bits and flags. -/
def convert (dst src : CFmt) (mode : RMode) (satf : Bool) (a : Nat) : Nat × FFlags :=
  match src, dst with
  | .int ws, .int wd =>
    let r := saturate wd (signedOf ws a)
    (r.1, if r.2 then flNV else 0)
  | .int ws, .flt f =>
    let v := signedOf ws a
    roundF f mode satf (.fin (decide (v < 0)) v.natAbs 0)
  | .flt f, .int wd => toInt mode wd (decodeF f a)
  | .flt f, .flt g => roundF g mode satf (decodeF f a)

/-- The scalar and vector float size codes of Table 3.6: `.hf .bf .s .d`. -/
def Fmt.ofSz : Nat → Fmt
  | 0 => fmtHf
  | 1 => fmtBf
  | 2 => fmtS
  | _ => fmtD

/-- Combine one value and one possibly absent value (R71: Op(a, absent) = a). -/
def opAbsent (op : α → α → α) : Option α → Option α → Option α
  | some a, some b => some (op a b)
  | some a, none => some a
  | none, b => b

/-- One level of the tree: entries 2i and 2i+1 combine; a last entry without a partner stands alone. -/
def treeLevel (op : α → α → α) : List (Option α) → List (Option α)
  | a :: b :: rest => opAbsent op a b :: treeLevel op rest
  | l => l

/-- `fuel` levels of the tree. -/
def treeLevels (op : α → α → α) : Nat → List (Option α) → List (Option α)
  | 0, l => l
  | n + 1, l => treeLevels op n (treeLevel op l)

/-- TreeSum over entries that may be absent (R71); absent when every entry is. -/
def treeSum (op : α → α → α) (l : List (Option α)) : Option α :=
  match treeLevels op (Nat.log2 l.length + 1) l with
  | a :: _ => a
  | [] => none

/-- RoundToOdd(a + b, xf) on encoded extended values (R73). -/
def addOdd (xf : Fmt) (a b : Nat) : Nat := (fAdd xf .ro a b).1

end Sys2Proof.Machine
end

