-- ==== Sys2Proof/Machine/Sparse.lean ====
section
/-!
DEFINITION. Sparse maps: lists of (key, value) pairs with rising keys. A memory is such a map in canonical form:
no entry holds the value an unlisted key reads as, so that equal memories are equal lists.
-/

namespace Sys2Proof.Machine

/-- A finite map by natural-number keys, written with rising keys. -/
abbrev Map (α : Type) := List (Nat × α)

/-- The entry at a key. -/
def mget : Map α → Nat → Option α
  | [], _ => none
  | (k', v) :: rest, k => if k' = k then some v else mget rest k

/-- The entry at a key, or a default. -/
def mgetD (m : Map α) (k : Nat) (d : α) : α := (mget m k).getD d

/-- Write the entry at a key. -/
def mput : Map α → Nat → α → Map α
  | [], k, v => [(k, v)]
  | (k', v') :: rest, k, v =>
    if k' = k then (k, v) :: rest
    else if k < k' then (k, v) :: (k', v') :: rest
    else (k', v') :: mput rest k v

/-- Remove the entry at a key. -/
def mdel (m : Map α) (k : Nat) : Map α := m.filter (fun p => p.1 != k)

/-- Write a key of a map in canonical form: writing the default removes the entry. -/
def mset [DecidableEq α] (d : α) (m : Map α) (k : Nat) (v : α) : Map α :=
  if v = d then mdel m k else mput m k v

/-- The keys rise strictly. -/
def msorted : Map α → Bool
  | [] => true
  | [_] => true
  | p :: q :: rest => decide (p.1 < q.1) && msorted (q :: rest)

/-- Canonical form: rising keys, and no entry equal to the default. -/
def mwf [DecidableEq α] (d : α) (m : Map α) : Bool := msorted m && m.all (fun p => decide (p.2 ≠ d))

theorem mget_mput_self (m : Map α) (k : Nat) (v : α) : mget (mput m k v) k = some v := by
  induction m with
  | nil => simp [mput, mget]
  | cons p rest ih =>
    obtain ⟨k', v'⟩ := p
    by_cases h : k' = k
    · simp [mput, mget, h]
    · by_cases h2 : k < k' <;> simp [mput, mget, h, h2, ih]

theorem mget_mput_ne (m : Map α) {k j : Nat} (v : α) (h : j ≠ k) : mget (mput m k v) j = mget m j := by
  induction m with
  | nil => simp [mput, mget, Ne.symm h]
  | cons p rest ih =>
    obtain ⟨k', v'⟩ := p
    by_cases h1 : k' = k
    · subst h1; simp [mput, mget, Ne.symm h]
    · by_cases h2 : k < k'
      · simp [mput, mget, h1, h2, Ne.symm h]
      · simp [mput, mget, h1, h2, ih]

theorem mget_mdel_self (m : Map α) (k : Nat) : mget (mdel m k) k = none := by
  induction m with
  | nil => rfl
  | cons p rest ih =>
    obtain ⟨k', v'⟩ := p
    by_cases h : k' = k
    · subst h; simpa [mdel] using ih
    · have : (k' != k) = true := by simpa using h
      simp only [mdel, List.filter_cons, this, if_true, mget, h, if_false]
      exact ih

theorem mget_mdel_ne (m : Map α) {k j : Nat} (h : j ≠ k) : mget (mdel m k) j = mget m j := by
  induction m with
  | nil => rfl
  | cons p rest ih =>
    obtain ⟨k', v'⟩ := p
    by_cases h1 : k' = k
    · subst h1; simp [mdel, mget, Ne.symm h]; simpa [mdel] using ih
    · have : (k' != k) = true := by simpa using h1
      simp only [mdel, List.filter_cons, this, if_true, mget]
      by_cases h2 : k' = j
      · simp [h2]
      · simp only [h2, if_false]; exact ih

theorem mgetD_mset_self [DecidableEq α] (d : α) (m : Map α) (k : Nat) (v : α) : mgetD (mset d m k v) k d = v := by
  unfold mset mgetD
  by_cases h : v = d
  · simp [h, mget_mdel_self]
  · simp [h, mget_mput_self]

theorem mgetD_mset_ne [DecidableEq α] (d : α) (m : Map α) {k j : Nat} (v : α) (h : j ≠ k) :
    mgetD (mset d m k v) j d = mgetD m j d := by
  unfold mset mgetD
  by_cases h1 : v = d
  · simp [h1, mget_mdel_ne _ h]
  · simp [h1, mget_mput_ne _ _ h]

theorem msorted_cons {p : Nat × α} {m : Map α} :
    msorted (p :: m) = true ↔ (∀ q ∈ m, p.1 < q.1) ∧ msorted m = true := by
  induction m generalizing p with
  | nil => simp [msorted]
  | cons q rest ih =>
    simp only [msorted, Bool.and_eq_true, decide_eq_true_eq]
    constructor
    · rintro ⟨h1, h2⟩
      have h3 := (ih.mp h2).1
      exact ⟨fun r hr => by
        rcases List.mem_cons.mp hr with rfl | hr
        · exact h1
        · exact lt_trans h1 (h3 r hr), h2⟩
    · rintro ⟨h1, h2⟩
      exact ⟨h1 q (List.mem_cons_self ..), h2⟩

theorem mem_mput {m : Map α} {k : Nat} {v : α} {q : Nat × α} (h : q ∈ mput m k v) : q = (k, v) ∨ q ∈ m := by
  induction m with
  | nil => simpa [mput] using h
  | cons p rest ih =>
    obtain ⟨k', v'⟩ := p
    simp only [mput] at h
    split at h
    · rcases List.mem_cons.mp h with h | h
      · exact .inl h
      · exact .inr (List.mem_cons_of_mem _ h)
    · split at h
      · rcases List.mem_cons.mp h with h | h
        · exact .inl h
        · exact .inr h
      · rcases List.mem_cons.mp h with h | h
        · exact .inr (by simp [h])
        · rcases ih h with h | h
          · exact .inl h
          · exact .inr (List.mem_cons_of_mem _ h)

theorem msorted_mput (m : Map α) (k : Nat) (v : α) (h : msorted m = true) : msorted (mput m k v) = true := by
  induction m with
  | nil => simp [mput, msorted]
  | cons p rest ih =>
    obtain ⟨k', v'⟩ := p
    obtain ⟨h1, h2⟩ := msorted_cons.mp h
    simp only [mput]
    split
    · rename_i he; subst he; exact msorted_cons.mpr ⟨h1, h2⟩
    · split
      · rename_i hlt
        refine msorted_cons.mpr ⟨fun q hq => ?_, h⟩
        rcases List.mem_cons.mp hq with rfl | hq
        · exact hlt
        · exact lt_trans hlt (h1 q hq)
      · rename_i hne hge
        refine msorted_cons.mpr ⟨fun q hq => ?_, ih h2⟩
        rcases mem_mput hq with rfl | hq
        · simp only; omega
        · exact h1 q hq

theorem msorted_mdel (m : Map α) (k : Nat) (h : msorted m = true) : msorted (mdel m k) = true := by
  induction m with
  | nil => rfl
  | cons p rest ih =>
    obtain ⟨h1, h2⟩ := msorted_cons.mp h
    simp only [mdel, List.filter_cons]
    split
    · exact msorted_cons.mpr ⟨fun q hq => h1 q (List.mem_filter.mp hq).1, ih h2⟩
    · exact ih h2

/-- Every write keeps the canonical form. -/
theorem mwf_mset [DecidableEq α] (d : α) (m : Map α) (k : Nat) (v : α) (h : mwf d m = true) :
    mwf d (mset d m k v) = true := by
  simp only [mwf, Bool.and_eq_true, List.all_eq_true, decide_eq_true_eq] at h ⊢
  unfold mset
  split
  · exact ⟨msorted_mdel m k h.1, fun p hp => h.2 p (List.mem_filter.mp hp).1⟩
  · rename_i hv
    refine ⟨msorted_mput m k v h.1, fun p hp => ?_⟩
    rcases mem_mput hp with rfl | hp
    · exact hv
    · exact h.2 p hp

end Sys2Proof.Machine
end

