-- ==== Sys2Proof/Machine/Thread.lean ====
section
/-!
DEFINITION. The state of one thread slot: what a chunk's checkpoint holds and what it does not (R11, Table 1.1, R243),
the outstanding operations (R26), the uncommitted chunks (R242), the traps and what holds a thread.
-/

namespace Sys2Proof.Machine

/-- The cause of a trap (Table 16.1); a request carries its n (R232). -/
inductive Cause where
  | illegalInstruction
  | illegalPair
  | illegalOperand
  | privilege
  | pageAbsent
  | pageProtection
  | segmentBound
  | dataPoison
  | misaligned
  | streamEnd
  | arith
  | claim
  | port
  | message
  | debug
  | request (n : Nat)
deriving DecidableEq, Repr

/-- The value of ECAUSE.CODE (Table 16.1, R232). -/
def Cause.code : Cause → Nat
  | illegalInstruction => 1
  | illegalPair => 2
  | illegalOperand => 3
  | privilege => 4
  | pageAbsent => 5
  | pageProtection => 6
  | segmentBound => 7
  | dataPoison => 8
  | misaligned => 9
  | streamEnd => 10
  | arith => 11
  | claim => 12
  | port => 13
  | message => 16
  | debug => 17
  | request n => 128 + n

/-- A synchronous cause with the values of its fault record (Tables 16.2 and 16.3). -/
structure Trap where
  cause : Cause
  /-- EINFO1 holds a virtual address (AV). -/
  av : Bool := false
  /-- ACC: 0 read, 1 write, 2 instruction fetch, 3 read and write. -/
  acc : Nat := 0
  /-- ORIG: 0 stage one or none, 1 stage two or physical map, 2 partition ownership. -/
  orig : Nat := 0
  /-- EINFO2 holds an element index (EV). -/
  ev : Bool := false
  /-- The port code of PORTC, when PV is 1. -/
  portc : Option Nat := none
  /-- The A-class word of a pair raised the cause (SECOND). -/
  second : Bool := false
  broken : Bool := false
  held : Bool := false
  brkn : Nat := 0
  afl : FFlags := 0
  info1 : Word := 0
  info2 : Word := 0
  /-- The cause concerns the whole unit, or no word at all (R308). -/
  whole : Bool := false
  /-- The cause arose in fetching the instruction: EINFO3 is zero (R308). -/
  fetch : Bool := false
  /-- A malformed table entry, by its function, its level and the IPA of the entry, for the table-error event (R338). -/
  table : Option (Nat × Nat × Nat) := none
  /-- The push of the last element of an engine port's command raised it: the staging is emptied (R210). -/
  unstage : Option Nat := none
deriving DecidableEq, Repr

/-- An element prefetched from a read stream: its value, the line it came from, and the translation lines used (R138, R346). -/
structure Ahead where
  v : Nat
  line : Nat
  trans : List Nat
deriving DecidableEq, Repr

/-- A pattern-engine binding (R134 to R137): the descriptor, its flags, the position and the end flag. -/
structure Stream where
  base : Word
  /-- (COUNT, STRIDE) of each dimension, dimension 0 first. -/
  dims : List (Nat × Int)
  /-- Element size is 2^sz bytes. -/
  sz : Nat
  write : Bool
  trap : Bool
  wrap : Bool
  pos : Nat
  endFlag : Bool
  /-- Elements prefetched ahead of the position, the next one first (R138). -/
  ahead : List Ahead
deriving DecidableEq, Repr

/-- What a port is bound to (R22, R135, R219). -/
inductive PortBind where
  | stream (s : Stream)
  | channel (n : Nat)
deriving DecidableEq, Repr

/-- The part of the thread state that a checkpoint holds and a squash restores (R11); the x registers stand in the
core's register file and are copied beside it. -/
structure Arch where
  pc : Word
  /-- Bindings by port code (Table 3.5). -/
  ports : Map PortBind
  /-- Words of v0 to v27, by 32 × lane + register; an unlisted word is zero. -/
  vregs : Map (BitVec 32)
  grant : Nat
  unmet : Nat
  /-- k1 to k7; an unlisted one is zero. -/
  k : Map (BitVec 2048)
  fctl : Word
  fflags : Word
  /-- STATUS without SQ. -/
  status : Word
  icount : Word
  /-- Forks made since the thread started (R224). -/
  forks : Nat
deriving DecidableEq, Repr

/-- Where a scalar load read its value: the address, the bytes, and whether they are sign-extended. -/
structure Src where
  pa : Nat
  n : Nat
  sx : Bool
deriving DecidableEq, Repr

/-- Where the data of a load goes (R26 to R29), and where a load that later stores of its chunk may still reach read it (R163):
the address of a scalar load, the addresses of a vector load's elements. -/
inductive Dest where
  | x (f : Nat) (v : Word) (src : Option Src)
  /-- Elements of w bits of a v register, by index. -/
  | elems (r w : Nat) (vs : List (Nat × Nat)) (pas : List Nat)
deriving DecidableEq, Repr

/-- An effect that waits for its place in the total order (R236, R247, R256). -/
inductive Eff where
  /-- Bytes to package memory. -/
  | write (pa : Nat) (bs : List Byte)
  /-- A shared register, by 16 × core + number (R25). -/
  | greg (k : Nat) (v : Word)
  /-- Bytes to the scratchpad of another cluster, sent as a message (R240, R274). -/
  | remote (pa : Nat) (bs : List Byte)
  /-- Bytes to host memory, or to peer memory at a peer address, sent as edge writes (R260). -/
  | edge (addr : Nat) (bs : List Byte)
deriving DecidableEq, Repr

/-- What kind of operation reads or writes memory in a chunk (R118, R138, R163): a scalar load or store, an atomic and whether it
counts in LC, a vector or tile operation, a push to the write port of a code. -/
inductive Access where
  | scalar
  | atomic (load : Bool)
  | vector
  | push (code : Nat)
deriving DecidableEq, Repr

/-- One write of a chunk: the effect, what wrote it, its number among the chunk's writes and among its operations counted in SC and
in LC, and whether a `fence`, a `wait` or the port's `sclose` has put it before everything that follows (R163, R138). -/
structure Entry where
  eff : Eff
  by_ : Access
  num : Nat
  sc : Nat
  lc : Nat
  fixed : Bool
deriving DecidableEq, Repr

/-- An effect of a chunk that takes place at its commit (R148, R208). -/
inductive Deferred where
  | tspawn (entry ts arg x3 : Word)
  | fork (c : Nat) (entry arg x3 : Word)
  | watch (pa : Nat)
deriving DecidableEq, Repr

/-- An uncommitted chunk (R242 to R244). Items of signatures are line numbers, and shared registers from `gItem` on. -/
structure Chunk where
  ckpt : Arch
  ckptX : List Word
  len : Nat
  max : Nat
  start : Nat
  reads : List Nat
  writes : List Nat
  /-- The chunk's writes in the order they are performed, oldest first (R118, R163). -/
  log : List Entry
  /-- Writes entered, and operations counted in SC and in LC, since the chunk began. -/
  entered : Nat
  scn : Nat
  lcn : Nat
  deferred : List Deferred
  /-- POLICY of the partition as the chunk began (R235). -/
  policy : Nat
  /-- Translation lines used (R346). -/
  trans : List Nat
  /-- Elements popped from p15 and bound w ports, by port code, oldest first (R11). -/
  pops : Map (List Word)
  /-- Lanes and pattern engines given up in the chunk: they return to the share at its commit (R140, R159). -/
  lanes : Nat
  engines : Nat
  /-- Entries of the remote-store buffer in use (R240). -/
  rsb : Nat
  ended : Bool
  /-- Its commit request has reached the arbiters: the cycle in which it arrived (R247, R250). -/
  requested : Option Nat
  granted : Bool
deriving DecidableEq, Repr

/-- The level's copy of the banked trap registers (R37, Table 1.7). -/
structure TrapRegs where
  tvec : Word
  epc : Word
  ecause : Word
  einfo0 : Word
  einfo1 : Word
  einfo2 : Word
  einfo3 : Word
deriving DecidableEq, Repr

/-- A held reservation (R130, R131), with the word's value as it was granted (R386). -/
structure Resv where
  pa : Nat
  size : Nat
  broken : Bool
  value : Nat
deriving DecidableEq, Repr

/-- What the home of an edge atomic answers (R128, R342): the old value, poison, or a peer's fault. -/
inductive EdgeAnswer where
  | old (v : Nat)
  | poison
  | fault (c : Cause)
deriving DecidableEq, Repr

/-- Why a slot is not ready: the unit at PC is issued again and finds its progress here (R18, R293).
A plain `retry` is a condition evaluated again at every issue. -/
inductive Hold where
  | retry
  /-- A full ready queue or a full task pool, which a deterministic launch passes over (R299). -/
  | turn
  /-- `vclaim` or `vrenew` waiting until this many lanes can be granted (R156, R158, R299). -/
  | claim (n : Nat)
  /-- A write that takes its place at once waits at the arbiters behind a conflicting request: the cycle in which it arrived, and its items
  (R250, R256). -/
  | request (cyc : Nat) (items : List Nat)
  /-- An empty or short arrival queue: the port, and the bytes its instruction takes from it (R18, R218). -/
  | pop (port need : Nat)
  /-- Waiting for the grant of every earlier chunk (R120, R208, R242). -/
  | boundary
  /-- A vector load to a w port in direct mode, which reads its elements one by one: the values read so far (R119, R163). -/
  | gather (vs : List Nat)
  /-- `monw`, or `wsleep` when `watch`, with the cycle of its timeout; in a deterministic launch, with the entries left to
  it (R147, R149, R299). -/
  | sleep (watch : Bool) (deadline : Option Nat)
  | sleepDone (result : Word)
  /-- `qres` in the home's queue (R130), and its answer. -/
  | qresWait (pa size : Nat)
  | qresReply (v : Word) (broken : Bool)
  | qresPoison
  /-- `qrel` before its acknowledgement, and after it. -/
  | qrelWait (pa : Nat)
  | qrelDone
  /-- An edge atomic on its way to its home (address, size, operation, operand, whether it returns the old value), its
  response on the way back, and the response that has arrived (R128, R129). -/
  | edgeWait (addr n op v : Nat) (ret : Bool)
  | edgeDone (v : EdgeAnswer) (ret : Bool)
  | edgeReply (v : EdgeAnswer)
  /-- Waiting at a full matrix sub-queue (R188). -/
  | matrix
  /-- `mrd` or `mst` waiting for a row that a command writes or reads (R199). -/
  | rows
  /-- `join`, and the implicit one of `exit`. -/
  | join
  /-- `sstop` waiting for the target slot (R230). -/
  | sstop (target : Nat)
  /-- `redcfg` or `redc` waiting for the tree (R221, R222). -/
  | tree (t : Nat)
  /-- `wfi` (R234). -/
  | wfi
  /-- An access waiting for a pull of a page of a function (R341, R385). -/
  | pull (vf page : Nat)
  /-- That pull has failed: the access raises PAGE_ABSENT when the unit issues again (R341). -/
  | pullFailed (vf page : Nat)
  /-- A thread that has come back waits for its saved grant of lanes (R322, R381). -/
  | lanes (n : Nat)
deriving DecidableEq, Repr

/-- Why a unit takes no effect: a trap, or the thread leaves rotation (R18, R20). -/
inductive Stop where
  | trap (t : Trap)
  | hold (h : Hold)
  /-- The chunk ends before the unit; an instruction that overflows an empty chunk runs outside it (R238, R240). -/
  | cut
  /-- A 257th spilled line: the chunk is squashed into the direct fallback (R241). -/
  | spill
  /-- A request that does not match the next log entry of a replayed partition: its kind, length and that entry (R263). -/
  | diverge (kind len : Nat) (expected : Word)
  /-- A unit that pops several stream elements in direct mode, in a deterministic launch: one more has been read at its key place, from
  the port of a code; the unit issues again for the next (R298). -/
  | element (code : Nat) (a : Ahead)
deriving DecidableEq, Repr

/-- Why a slot is to stop at a handover point (R321): the debug port (R399), a handover, a migration (R377). -/
inductive StopFor where
  | halt
  | hover
  | migrate
deriving DecidableEq, Repr

/-- A pending interrupt: its level and its code (R306, R314). -/
structure Intr where
  level : Nat
  code : Nat
deriving DecidableEq, Repr

/-- The direct fallback in progress: instructions so far, the count at which it ends (R253), and its chunk's POLICY (R235). -/
structure Fallback where
  len : Nat
  max : Nat
  policy : Nat
deriving DecidableEq, Repr

/-- The matrix registers of a thread: MODE, SA and SB (R180). -/
structure MatRegs where
  mode : Word
  sa : Word
  sb : Word
deriving DecidableEq, Repr

/-- The page that an outstanding direct-mode store was issued to: its physical page, the virtual page and the level it was issued at
(R346). -/
structure Aim where
  frame : Nat
  page : Word
  level : Nat
deriving DecidableEq, Repr

/-- One thread slot (Table 1.1 and the state the other chapters add to it). -/
structure Thread where
  /-- The slot holds a thread (R293). -/
  live : Bool
  /-- Which thread it is: a number no other thread of the run has (the model's own). -/
  uid : Nat
  a : Arch
  winBase : Nat
  winLim : Nat
  /-- Virtual function and ASID of the context; none for a thread of the hypervisor (R333). -/
  vf : Option Nat
  asid : Nat
  loads : List (List Dest)
  /-- Elements of the one counted load of a direct-mode thread that are still to be read, the last ones, each at its key place (R298). -/
  unread : Nat
  /-- Outstanding stores, oldest first: the singletons each still has to perform, none in chunked mode (R26, R119). -/
  stores : List (List (List Eff))
  /-- Pushes of a direct-mode thread of a deterministic launch that are still to be performed, each at its key place (R31, R298). -/
  pushes : List (List Eff)
  /-- The pages of those stores and pushes, translated again when each is performed (R346). -/
  aims : List Aim
  /-- For each outstanding store, the cycle in which it arrived at the arbiters, which rank it by that (R250, R255). -/
  arrivals : List Nat
  /-- Copies outstanding, oldest first: identifier and whether its completion is recorded (R27, R211). -/
  copies : List (Nat × Bool)
  /-- Matrix commands outstanding, oldest first: identifier and whether the unit reported it complete. -/
  mats : List (Nat × Bool)
  chseq : Word
  timer : Word
  gid : List (BitVec 32)
  kern : TrapRegs
  hyp : TrapRegs
  mach : TrapRegs
  ucvec : Word
  chunkmax : Nat
  sq : Nat
  /-- SEQ of upcalls (R315). -/
  upseq : Nat
  /-- Armed monitors: line and hit bit (R146). -/
  mons : Map (Nat × Bool)
  /-- The ready bit of `wsleep` (R148). -/
  ready : Bool
  resv : Option Resv
  chunks : List Chunk
  fallback : Option Fallback
  /-- The next unit is the first of a trap handler: a fault in fetching it is a failed trap entry (R319). -/
  entry : Bool
  /-- What keeps the slot from being ready, if anything. -/
  hold : Option Hold
  pend : List Intr
  /-- Arrival queue of p15 (R218). -/
  p15 : List Word
  /-- Byte queues of channel-bound w ports, by port code (R219). -/
  wq : Map (List Byte)
  /-- Staged elements of p12, p13 and p14, by port code (R210). -/
  staged : Map (List Word)
  /-- Copies issued since the thread started, and the held copy faults by the number of their copy, oldest first (R214). -/
  copyn : Nat
  heldFaults : List (Nat × Trap)
  /-- Edge writes and edge atomics sent and not acknowledged (R144). -/
  edges : Nat
  /-- A refused message waiting to be raised (R220): target word and payload. -/
  refused : List (Word × Word)
  mat : MatRegs
  /-- Launch, path of child numbers, parent thread (its `uid`) and timestamp (R223 to R226, R288 to R304). -/
  lid : Option Nat
  path : List Nat
  parent : Option Nat
  ts : Word
  /-- Index of the task in creation order (R223, R303). -/
  order : Nat
  /-- Entry index of a deterministic launch (R298), the greatest last entry of its exited children, and the index at which
  its unit was last evaluated as a wait and held (R299). -/
  ent : Nat
  joined : Nat
  evald : Option Nat
  /-- Children that an `sstop` ended: they never execute `exit` (R225, R230). -/
  lost : Nat
  /-- The slot is being stopped (R230). -/
  stopping : Bool
  /-- Stopped by the debug port (R398). -/
  halted : Bool
  /-- Lines of instruction words fetched before an `iflush` and not discarded by `isync` since (R153). -/
  fetched : Map (List Byte)
  /-- One more unit may issue while the slot is halted, under STEP (R399). -/
  stepping : Bool
  /-- A `brk` (its n) or a breakpoint (128 and its number) was routed to debug, and its unit has not completed since (R399). -/
  dbgCause : Option Nat
  /-- The slot stops at the next point that R321 gives, for one of these reasons. -/
  stopFor : Option StopFor
  /-- It has reached that point for a migration (R377). -/
  frozen : Bool
  /-- A HALT came while the slot was stopping, or had stopped, for another reason: it stays stopped for the debug port afterwards
  (R399). -/
  haltNext : Bool
  /-- The chunk that re-executes was squashed for a logic error (R401). -/
  retried : Bool
deriving DecidableEq, Repr

end Sys2Proof.Machine
end

