-- ==== Sys2Proof/Machine/State.lean ====
section
/-!
DEFINITION. The state of the whole package, the reasons a step can stop, and the state after reset (R11, R264, R408).
-/

namespace Sys2Proof.Machine

/-- Reasons for a fault. Nobody raises one: every trap of the spec is a next state. -/
inductive Fault where
  /-- Raised by nobody; safe. -/
  | unreachable
deriving DecidableEq, Repr

/-- Reasons for a refusal. -/
inductive Refusal where
  /-- Raised by the arm of an instruction that has no meaning yet; safe. -/
  | notModelled (mnemonic : String)
deriving DecidableEq, Repr

/-- How the unit being executed is formed (R33, R81). -/
inductive Role where
  | lone
  | pairC
  | pairA
deriving DecidableEq, Repr

/-- A direct-mode write of a shared register: the value before it, its cycle, and the slots that have seen it (R25, R114). -/
structure GWrite where
  old : Word
  at_ : Nat
  seen : List Nat
deriving DecidableEq, Repr

/-- What the next step does, when the agenda names it (log entry 2): an event, a slot's issue, a cycle, or a step that a write to
memory has set going (R351, R358, R370, R374, R392). -/
inductive Act where
  | event (i : Instr)
  | issue (gs : Nat)
  | tick
  | command (c : MbCmd)
  | notify (vf q : Nat)
  | tclaim (vf die : Nat) (claim : Bool)
  | drain (vf q : Nat)
  | config (blk i : Nat) (v : Word)
  | snap (blk : Nat) (v : Word)
  | precopy (vf : Nat)
  | stopping (vf : Nat)
  | abort (vf : Nat)
  | resuming (vf : Nat)
  | pullall (vf : Nat)
  | mackSubmit (vf : Nat)
  | mackRelease (vf : Nat)
  | threshold (vf : Nat) (host : Bool) (region : Nat)
  /-- A step of a cluster's weighted round robin (R189); the eviction of a line from a die's L2 (R268, R271); the end of bring-up, with
  STATE and FAIL of the hand-off block (R408, R411); the host's response to a back-invalidation (R349); an access of a peer that was held
until its migration was given up (R375, R389). -/
  | matRound (pc : Nat)
  | evict (die line : Nat)
  | handOff (state fail : Nat)
  | hostResponse
  | peerAccess (a : PeerAccess)
deriving DecidableEq, Repr

/-- A partition: its descriptor (Table 20.2) and its log (R261, R360). -/
structure Part where
  desc : List Word
  policy : Nat
  logBase : Nat
  logLen : Nat
  logPos : Nat
  /-- Grants stopped: the log is full (R262) or a replay diverged (R263). -/
  stopped : Bool
deriving DecidableEq, Repr

/-- A virtual function: its descriptor (Table 20.4) and its cluster map, read when the descriptor was set. -/
structure VFunc where
  desc : List Word
  cmap : List Nat
  /-- AGG as granted (R196). -/
  agg : Bool
  /-- SERIAL of the next record of the kernel event ring (R390). -/
  serial : Nat
  /-- STATE of the migration block: 0 RUNNING, 1 PRECOPY, 2 STOPPING, 3 STOPPED, 4 RESUMING (Table 22.1). -/
  mstate : Nat
  /-- The Basuz link to the other part is lost, so that a pull fails (R341, R387). -/
  linkLost : Bool
deriving DecidableEq, Repr

/-- An edge write on its way (R260): the issuing slot and its function, the aligned 64-byte piece it lies in,
and the bytes it writes by their address. -/
structure EdgeWrite where
  id : Nat
  gs : Nat
  uid : Nat
  vf : Option Nat
  piece : Nat
  bytes : Map Byte
  /-- The copy whose engine chunk sent it, if one did (R212, R213). -/
  copy : Option Nat
deriving DecidableEq, Repr

/-- How far a message has come (R217, R218, R220). -/
inductive MsgState where
  /-- On its way to the receiver. -/
  | flying
  /-- The receiver had no room; the full reply is on its way back. -/
  | full
  /-- The full reply has reached the sender, which stays out of rotation. -/
  | held
  /-- On its way again; the sender stays out of rotation until it is accepted. -/
  | resent
  /-- The receiver refused it; the refusal is on its way back. -/
  | refused
deriving DecidableEq, Repr

/-- A message (R216, R217): sender, target word and payload, the target core and its slot or channel. -/
structure Msg where
  id : Nat
  gs : Nat
  uid : Nat
  vf : Option Nat
  word : Word
  payload : Word
  core : Nat
  /-- The target slot of the package; none for a channel. -/
  slot : Option Nat
  chan : Nat
  /-- The deterministic launch of the sender, if it is in one (R217). -/
  lid : Option Nat
  state : MsgState
deriving DecidableEq, Repr

/-- A channel binding (R219, Table 8.6): the slot and port it feeds, its ring, and what the ring holds. -/
structure Chan where
  gs : Nat
  port : Nat
  roff : Nat
  rlog : Nat
  head : Nat
  count : Nat
deriving DecidableEq, Repr

/-- A copy command (R211 to R215): its arguments, the context it translates in, and how far it has come. -/
structure Copy where
  id : Nat
  gs : Nat
  uid : Nat
  /-- Its number among the thread's copies (R214). -/
  num : Nat
  level : Nat
  vf : Option Nat
  asid : Nat
  dst : Word
  src : Word
  len : Nat
  record : Word
  /-- It is a `cpyw` (R211, R387). -/
  wide : Bool
  /-- Held in the combining node until released (R215). -/
  combining : Bool
  /-- Destination bytes in committed pieces. -/
  done : Nat
  fault : Option Trap
  /-- The completion record has been written, or none is due (R213). -/
  recorded : Bool
deriving DecidableEq, Repr

/-- The matrix commands (Table 7.3), with their format code. -/
inductive MatOp where
  | mma (fmt : Nat)
  | mmode
  | mscale
  | mbar
  | mld
  | mzero
  | mdrain (fmt : Nat)
  | mtrans
  | mcpy
deriving DecidableEq, Repr

/-- A matrix command in a sub-queue (R186 to R190), with what it read at issue. -/
structure MatCmd where
  id : Nat
  gs : Nat
  uid : Nat
  /-- The function of the thread that issued it (R393). -/
  fn : Option Nat
  op : MatOp
  xd : Word
  xa : Word
  xb : Word
  regs : MatRegs
  satf : Bool
  /-- Accepted and running (R189). -/
  running : Bool
  /-- Steps left to it, once it runs (R189). -/
  left : Nat
  /-- Engine chunks of its scratchpad writes committed, and the rows they write, read with the first of them: bytes and their poison
  (R192). -/
  pieces : Nat
  out : Option (List (List (Byte × Bool)))
  /-- Blocks of its scratchpad operands that it has read already, by 2,048 × core + offset / 128 (R192). -/
  held : Map (List (Byte × Bool))
  /-- `mbar`: the running commands it waits for, by identifier, once it is at the head (R205). -/
  waits : List Nat
  /-- The deterministic launch of the thread, if it is in one (R191). -/
  lid : Option Nat
deriving DecidableEq, Repr

/-- A node of a reduction tree (R221, R222, Table 8.7) and its contribution to the current round:
element format, operation, elements. -/
structure Node where
  vf : Nat
  tree : Nat
  gs : Nat
  uid : Nat
  root : Bool
  cix : Nat
  nch : Nat
  parent : Nat
  contrib : Option (Nat × Nat × List Nat)
  /-- A root: doublewords of the round's total still to be delivered. -/
  out : Option (List Word)
deriving DecidableEq, Repr

/-- A forked child that has not started (R224): its parent's slot and thread, entry, argument, x3, path of child numbers,
group indices and entry index (R298). -/
structure Child where
  parent : Nat
  puid : Nat
  entry : Word
  arg : Word
  x3 : Word
  path : List Nat
  gid : List (BitVec 32)
  ent : Nat
deriving DecidableEq, Repr

/-- A pending task of an ordered launch (R223, R303): creation number, timestamp, entry, argument and x3; an initial task
has no spawner, and takes x3 from the record. -/
structure Task where
  num : Nat
  ts : Word
  entry : Word
  arg : Word
  x3 : Word
  /-- Its entry in the task pool; none for an initial task (R303). -/
  pool : Option Nat
deriving DecidableEq, Repr

/-- The scratchpad area of a core group (R291): the group's number in the launch, the core, offset and length. -/
structure Area where
  grp : Nat
  gc : Nat
  off : Nat
  len : Nat
deriving DecidableEq, Repr

/-- A launch (R287 to R304). -/
structure Launch where
  vf : Nat
  queue : Nat
  part : Nat
  asid : Nat
  /-- The record as the scheduler read it (Table 14.2). -/
  record : List Word
  /-- Core groups started, and those of each block of die groups: within a die, in ascending order of their number (R291). -/
  begun : Nat
  blocks : Map Nat
  /-- CYCLE when the first thread started (Table 14.4). -/
  start : Option Nat
  /-- Threads that executed `exit`. -/
  exited : Nat
  /-- The die chosen for each block of die groups (R291), and the blocks that went to a die in turn. -/
  dies : Map Nat
  turns : Nat
  areas : List Area
  /-- Slots given to core groups, in the order they were given (R291, R300, R303): the slot and its core group. -/
  slots : List (Nat × Nat)
  /-- A deterministic launch: the package cluster of each cluster group (R297). -/
  places : Map Nat
  children : List Child
  tasks : List Task
  /-- The next initial task that has not started, and the creation number of the next task (R303). -/
  first : Nat
  created : Nat
  /-- What the launch's waits depend on, as it stood at the last passed-over entry, and the threads passed over since it last
  changed (R299). -/
  idle : List Nat × List Nat
  /-- 0 while it runs; 3 when a context of it was killed (R320), 4 when it is drained (R323). -/
  ending : Nat
deriving DecidableEq, Repr

/-- A queue that holds a hardware queue slot (R285), with the ASID of its QAT entry (R370). -/
structure QSlot where
  vf : Nat
  q : Nat
  asid : Nat
deriving DecidableEq, Repr

/-- The home's record of a reserved word: slots whose requests wait, oldest first, and a broken flag it keeps (R130, R133). -/
structure Home where
  queue : List Nat
  broken : Bool
deriving DecidableEq, Repr

/-- The state of a die's copies of a line (Table 11.3). -/
inductive Moesi where
  | m
  | o
  | e
  | s
  | i
deriving DecidableEq, Repr

/-- The coherence messages of Table 11.4 on their way; a DATA message carries the state it gives. `getm` stands at the home while it
waits for the acknowledgements of a READM. -/
inductive CohKind where
  | reads
  | readm
  | getm
  | fwd (owner : Nat)
  | data (st : Moesi)
  | wback
  | ack
  | inv
  | binv
deriving DecidableEq, Repr

/-- A coherence message: its kind, the die it is about (the requester, or the holder) and its line. -/
structure CohMsg where
  kind : CohKind
  die : Nat
  line : Nat
deriving DecidableEq, Repr

/-! The mailbox (R358 to R360), scrubs and frame tags (R367 to R369). -/

/-- What a mailbox command still waits for before its result is written. -/
inductive MbWait where
  /-- The scrubs it started (R369): the partition, and for a VSET the function and the frames, as ranges of frame numbers. -/
  | scrub (part : Nat) (vf : Option Nat) (frames : List (Nat × Nat))
  /-- The stream-out of a stop, or the stream-in of a restore, of a package cluster (R326, R330). -/
  | bstop (pc : Nat)
  | brest (pc : Nat)
  /-- The handover of its slots (R321). -/
  | hover
deriving DecidableEq, Repr

/-- A command in progress: its SEQ, what it waits for, and dwords 1 and 3 of its result. -/
structure MbRun where
  seq : Nat
  wait : MbWait
  d1 : Nat
  d3 : Nat
deriving DecidableEq, Repr

/-- The mailbox: a command has been read and its result is not yet written; a doorbell arrived meanwhile; the command that waits. -/
structure Mailbox where
  busy : Bool
  bell : Bool
  run : Option MbRun
deriving DecidableEq, Repr

/-- Frames and the function whose segment last held them (R367): frames lo to hi - 1. -/
structure Tag where
  lo : Nat
  hi : Nat
  vf : Nat
deriving DecidableEq, Repr

/-- Slots of some package cores, by a mask over a core's slots, bound to a function or to none (R321, R331, R365). -/
structure Bind where
  cores : List Nat
  slots : Word
  vf : Option Nat
deriving DecidableEq, Repr

/-- A handover in progress (R321): the partition, the functions, their save areas, the slots still to be handed over and the
number handed over. -/
structure Hover where
  part : Nat
  out : Nat
  inc : Nat
  outArea : Nat
  inArea : Nat
  slots : List Nat
  count : Nat
deriving DecidableEq, Repr

/-- What the part keeps of a thread that a handover has taken off its slot and whose THREAD record does not carry it: function,
place word, and the record of the slot as it stood (R322; log entry 15). -/
structure Away where
  vf : Nat
  place : Nat
  t : Thread
deriving DecidableEq, Repr

/-! Bales (R324 to R332). -/

/-- How far a stop or a restore has come: before the freeze; streaming out; out and free; streaming into a cluster. -/
inductive StopPhase where
  | stopping
  | frozen
  | out
  | into (pc : Nat)
deriving DecidableEq, Repr

/-- A cluster stopped for a bale (R326, R331): its package cluster and partition, the buffer, the phase, the package commit
sequence and CYCLE at the freeze, the stop signature, its lowest function, whether cores of several functions stand in it, the
function whose migration stopped it, if one did, whether another part took the bale, and whether the body of this part's bale no longer is
the one it wrote (log entry 7). -/
structure BaleStop where
  pc : Nat
  part : Nat
  buf : Nat
  phase : StopPhase
  cseq : Word
  cyc : Nat
  sig : List Nat
  vf : Nat
  multi : Bool
  mig : Option Nat
  foreign : Bool
  altered : Bool
deriving DecidableEq, Repr

/-! Observation (R392 to R397), debug (R398, R399), errors (R401), the module (R403 to R411). -/

/-- One performance counter (R393): its configuration word, its count and its flags. -/
structure Counter where
  cfg : Word
  value : Nat
  frozen : Bool
  inval : Bool
  ovf : Bool
deriving DecidableEq, Repr

/-- Corrected events of one unit that are merged into one record (R401): the kind, the address of the first, CYCLE of the first and
their number. -/
structure Merged where
  kind : Nat
  addr : Nat
  start : Nat
  count : Nat
deriving DecidableEq, Repr

/-- The fields of the hand-off block that change (Table 24.2): STATE, FAIL bits, HENTRY, HARG and PWRCAP. -/
structure Handoff where
  state : Nat
  fail : Nat
  hentry : Word
  harg : Word
  pwrcap : Nat
deriving DecidableEq, Repr

/-- A region move in progress (R353, R354): function, direction, the region's number, the frame taken, the address and the fields of
its 16 leaves, and the waiting threads with the SEQ of their upcalls. -/
structure Move where
  vf : Nat
  toDevice : Bool
  region : Nat
  frame : Nat
  ptea : Nat
  leaves : List Word
  waiters : List (Nat × Nat)
deriving DecidableEq, Repr

/-! Migration (R374 to R389). -/

/-- A part that maps pages of the function (R389): its device identifier and whether it has acknowledged. -/
structure Peer where
  dev : Nat
  acked : Bool
deriving DecidableEq, Repr

/-- The migration of a function beside STATE (Table 22.1): the fields of its block that the part writes, the stream that is left
to send or has been taken in, and what is left to settle. -/
structure Mig where
  last : Bool
  steps : Nat
  stat : Nat
  /-- FORM as read at the last REQ. -/
  form : Nat
  mack : Nat
  /-- Source: doublewords of the stream not yet in a step. Destination: those accepted (R380). -/
  stream : List Word
  /-- Source: the stream's last step is to carry END. -/
  ending : Bool
  /-- A FORM 0 step of another revision has been accepted: later ones are refused (R379). -/
  formBad : Bool
  /-- Destination: END is accepted. Source: STARTED has arrived, DONE has arrived. -/
  ended : Bool
  started : Bool
  finished : Bool
  /-- CONFIG steps have been produced. -/
  config : Bool
  peers : List Peer
  /-- Source: pages given up; destination: pages asked for, with the threads that wait found by their hold. -/
  given : List Nat
  asked : List Nat
  pullall : Bool
  /-- Source: pulls held until STOPPED, by page. -/
  heldPulls : List Nat
  /-- Destination: peers whose FWDEND has arrived, and direct accesses held until it does (R389). -/
  fwdended : List Nat
  heldAccesses : List PeerAccess
  /-- Source: the ownership records that wait for their page to be pulled (R386). -/
  own : List (Nat × List Word)
  /-- Destination: event records written to pages that have not arrived, by their intermediate address: they stand in the page once it has
  (R388, R390). -/
  late : List (Nat × List Byte)
deriving DecidableEq, Repr

/-- What the part has sent to the host, to other parts of its pod or to the debug master. -/
inductive Out where
  /-- The answer to a host read: the address and the bytes, or poison (R258, R384). -/
  | hostData (pa : Nat) (bytes : Option (List Byte))
  /-- The answer to a peer's access: the part, the old value or the data; a fault by its cause code (R342). -/
  | peerData (dev : Nat) (bytes : List Byte)
  | peerFault (dev code : Nat)
  /-- An access passed on to the destination of a migration (R389). -/
  | forward (dev : Nat) (a : PeerAccess)
  /-- Basuz messages (R382, R375, R389), to a part and about a function there. -/
  | pull (dev vf page : Nat)
  | pullData (dev vf page : Nat) (bytes : List Byte) (pois : List Nat) (recs : List (List Word))
  | pullFail (dev vf page : Nat)
  | started (dev vf : Nat)
  | done (dev vf : Nat)
  | remap (dev : Nat) (src dst : Word)
  | remapack (dev vf : Nat)
  | fwdend (dev vf peer : Nat)
  /-- The debug port's answer to READ (R398). -/
  | debugData (gs : Nat) (record : List Word)
  /-- The completion of a function-level reset: the SR-IOV function (R404). -/
  | resetDone (n : Nat)
  /-- A back-invalidation of a line of package memory that the host may hold (R349). -/
  | backInval (line : Nat)
deriving DecidableEq, Repr

/-- A cached stage-one translation of a leaf with G = 1, tagged with the function alone (R345): the page and its size, the entry and
where it stands, and the translation lines it was derived from (R346). -/
structure Global where
  vf : Nat
  page : Nat
  size : Nat
  level : Nat
  pte : Word
  ptePa : Nat
  lines : List Nat
deriving DecidableEq, Repr

/-- What the words of a pair read, as it stood before the unit (R33): the thread, its x registers, memory and its translation and
ownership, the tile stores, the shared registers, the remote stores on their way, and the counter behind free values. -/
structure Pre where
  t : Thread
  xs : List Word
  mem : List Host.Cell
  poison : Map Unit
  peer : Map Byte
  gregs : Map Word
  gregHist : Map (List GWrite)
  remotes : List (Nat × List Byte)
  vfs : Map VFunc
  parts : Map Part
  hctx : Word
  globals : List Global
  tiles : Map Byte
  tilePoison : Map Unit
  fresh : Nat
deriving DecidableEq, Repr

/-- The unit being executed: the model's own bookkeeping, not state of the part (log entry 1). -/
structure UnitCtx where
  role : Role
  /-- The address EPC would receive: the lone word or the pair. -/
  addr : Word
  /-- The executing word and the other word of its pair (zero for a lone word). -/
  word : BitVec 32
  other : BitVec 32
  pre : Option Pre
  /-- The unit stands outside any chunk (R120, R208). -/
  outside : Bool
  /-- Bytes the unit has popped from arrival queues, by port code (R18). -/
  popped : Map Nat
  /-- For each stream port the unit has used: its position before the unit, and the elements popped or pushed since (R139). -/
  walked : Map (Nat × Nat)
  /-- The stream element this issue of the unit has read at its key place, by its port code (R298). -/
  took : Option (Nat × Ahead)
  /-- The next address of the unit (R106), and where a control transfer in it goes. -/
  next : Word
  target : Option Word
  /-- The unit has sent a request and leaves rotation until its answer; it completes when it issues again (R128, R130). -/
  park : Option Hold
  /-- Why a member of a pair stopped. -/
  stop : Option Stop
  /-- The unit entered a handler, which has set the program counter (R232). -/
  entered : Bool
deriving DecidableEq, Repr

/-- A trace record of the present cycle, not yet written: its slot, the holder it is made for, TYPE, PC and AUX, and the cycle (R396,
R397). -/
structure Traced where
  gs : Nat
  holder : Nat
  type : Nat
  pc : Word
  aux : Word
  cycle : Nat
deriving DecidableEq, Repr

/-- The state of the package. -/
structure State where
  /-- The slot whose unit is being executed (the model's own, log entry 1). -/
  fs : Nat
  unit : UnitCtx
  /-- What the next steps do; empty for the default order (the model's own, log entry 2). -/
  agenda : List Act
  turn : List Nat
  /-- Which places the scheduler takes first where R291 leaves the choice open; empty for the lowest (the model's own, log entry 44). -/
  prefer : List Nat
  /-- Counter behind identifiers and free values (the model's own). -/
  fresh : Nat
  cycle : Nat
  mem : List Host.Cell
  /-- Indexes of the poisoned aligned 8-byte words (R282), rising. -/
  poison : Map Unit
  /-- Memory of peer parts as this part reaches it, by peer address (see `peerAddr`). -/
  peer : Map Byte
  /-- The register files: entry e of core c at 2,048 c + e (R12). -/
  rf : Map Word
  /-- The shared registers: gn of core c at 16 c + n (R24). -/
  gregs : Map Word
  /-- Their latest direct-mode writes, newest first (R25). -/
  gregHist : Map (List GWrite)
  threads : Map Thread
  /-- Translations that serve every ASID of their function (R345). -/
  globals : List Global
  parts : Map Part
  vfs : Map VFunc
  /-- The hypervisor's context: V and ROOT (R334). -/
  hctx : Word
  /-- The hyper event ring and event slot (ARG0 and ARG1 of HSET, R359) and the SERIAL of its next record (R390). -/
  hring : Word
  hslot : Word
  hserial : Nat
  /-- CTB: the mailbox's address (R358, R409; log entry 5). -/
  ctb : Nat
  /-- The package commit sequence (R251). -/
  pkgSeq : Word
  /-- Granted write signatures on their way: the writing slot plus one, or 0 for another agent, and the items (R247). -/
  sigs : List (Nat × List Nat)
  /-- Stores to other clusters' scratchpads, as messages on their way (R240, R274). -/
  remotes : List (Nat × List Byte)
  edges : List EdgeWrite
  msgs : List Msg
  /-- Channel bindings by 65,536 × core + channel (R219). -/
  chans : Map Chan
  copies : List Copy
  nodes : List Node
  /-- Bytes of the tile stores: (1,024 × cluster + row) × 2,048 + byte (R179), and which of them are poisoned (R206). -/
  tiles : Map Byte
  tilePoison : Map Unit
  /-- Matrix sub-queues by 32 × core + owner, the owner 0 for the hypervisor's set, else partition + 1 (R188, R362). -/
  matq : Map (List MatCmd)
  /-- The place of each cluster's weighted round robin: the next sub-queue (R189). -/
  wrr : Map Nat
  /-- Watch bits of scratchpad words: word index to owner slot (R148, R275). -/
  watches : Map Nat
  /-- Locked lines and their partitions, the hypervisor's as none (R151, R277). -/
  locks : Map (Option Nat)
  /-- Reserved words by address (R130). -/
  homes : Map Home
  /-- Directory entries by line: the state of each die (R270), and the messages on their way (R271). -/
  dirs : Map (List Moesi)
  coh : List CohMsg
  /-- Committed copies in the L1 data caches, by 2^48 × core + line (R266). -/
  l1 : Map Unit
  /-- For a host line on a die, by 4 × line + die: the partition whose thread fetched it (R269). -/
  hostPart : Map (Option Nat)
  /-- Lines of package memory that the host may hold in its caches, and those of them whose back-invalidation is on its way (R349). -/
  hostLines : Map Unit
  hostInval : List Nat
  /-- Lines of the L1 instruction caches, by 2^48 × core + line (R153, R280, R281). -/
  icache : Map (List Byte)
  /-- Ready queues by 32 × core + owner as `matq`: priority and record, oldest first (R227). -/
  rqs : Map (List (Nat × Word))
  launches : Map Launch
  /-- Children of threads that belong to no launch: no slot of a launch ever takes them (R224; log entry 12). -/
  orphans : List Child
  /-- Hardware queue slots in use, and queues whose pending bit is set: 64 × function + queue (R285, R286). -/
  qmap : List QSlot
  qpend : List Nat
  /-- The queue mapped last, and the queue served last: round robins (R286, R287). -/
  qlast : Nat
  qserve : Nat
  /-- MBASE: the migration blocks' address (R374, R409; log entry 5). -/
  mbase : Nat
  mb : Mailbox
  /-- Frame tags, newest first (R367). -/
  tags : List Tag
  /-- Slots bound to functions, newest first (R365). -/
  binds : List Bind
  hover : Option Hover
  away : List Away
  /-- Stops by their number (R331), and the next number. -/
  stops : Map BaleStop
  nextStop : Nat
  /-- Clusters that are stopped and free (R331). -/
  freed : List Nat
  /-- Holders of the dies' trace units: a function, 256 for the hypervisor, 511 for none, and the CYCLE of the last guest claim granted
  (R373). -/
  traceHold : List Nat
  traceAt : List Nat
  /-- Counters by 16 × block + number, the hypervisor's block 256 (R393). -/
  counters : Map Counter
  /-- SERIAL of the next sample record, CYCLE of the last pulse, and the slots that have issued in this cycle (R395). -/
  sserial : Nat
  pulsed : Option Nat
  issued : List Nat
  /-- Partitions with debug routing on, and breakpoints by 4 × core + number: address and partition (R398). -/
  dbgen : List Nat
  bps : Map (Nat × Nat)
  /-- Corrected errors being merged (R401). -/
  merged : List Merged
  ho : Handoff
  /-- Heathway ports removed from the routes (R405). -/
  portsDown : List Nat
  /-- Dies that throttle: cause and idle fraction (R407). -/
  throttle : Map (Nat × Nat)
  moves : List Move
  /-- Completion notices on their way, by the thread that took the upcall (R318, R354). -/
  notices : List (Nat × Word)
  migs : Map Mig
  /-- Remaps this part has heard of and not acknowledged: the source's identifier and function (R389). -/
  remaps : List (Nat × Nat)
  /-- What has left the part, newest last. -/
  outbox : List Out
  /-- Pairs whose request is on its way: what their words read, by slot (R33, R35; log entry 82). -/
  pairs : Map Pre
  /-- Trace records of the present cycle, to be written in the order of R397 when it ends. -/
  traced : List Traced
  /-- Dies whose wheel turn of 64 cycles is idle (R407). -/
  idling : List Nat
  /-- The cycle up to which the part is writing the last sample record (R395; log entry 92). -/
  sampling : Nat
  /-- Function-level resets that wait for the last thread of their function (R404). -/
  flrs : List Nat
deriving DecidableEq, Repr

/-- The unit context of a state in which no unit is being executed. -/
def UnitCtx.idle : UnitCtx :=
  { role := .lone, addr := 0, word := 0, other := 0, pre := none, outside := false, popped := [], walked := [], took := none, next := 0, target := none,
    park := none, stop := none, entered := false }

/-- The package at the end of its reset (R408): memory zero, CYCLE 0, no thread, no partition and no function; the mailbox
address is the one the model gives the firmware (log entry 5). -/
def State.reset : State :=
  { fs := 0, unit := .idle, agenda := [], turn := [], prefer := [], fresh := 1, cycle := 0, mem := [], poison := [], peer := [], rf := [],
    gregs := [], gregHist := [], threads := [], globals := [], parts := [], vfs := [], hctx := 0, hring := 0, hslot := 0, hserial := 1,
    ctb := 0xBFFFFFF000, pkgSeq := 0, sigs := [], remotes := [], edges := [], msgs := [], chans := [], copies := [],
    nodes := [], tiles := [], tilePoison := [], matq := [], wrr := [], watches := [], locks := [], homes := [], dirs := [],
    coh := [], l1 := [], hostPart := [], hostLines := [], hostInval := [], icache := [], rqs := [], launches := [], orphans := [], qmap := [], qpend := [], qlast := 0, qserve := 0,
    mbase := 0xBE00000000, mb := ⟨false, false, none⟩, tags := [], binds := [], hover := none, away := [], stops := [],
    nextStop := 0, freed := [], traceHold := [511, 511, 511, 511], traceAt := [0, 0, 0, 0], counters := [], sserial := 0, pulsed := none, issued := [], dbgen := [],
    bps := [], merged := [], ho := ⟨1, 0, 0, 0, 2800⟩, portsDown := [], throttle := [], moves := [], notices := [], migs := [], remaps := [], outbox := [],
    pairs := [], traced := [], idling := [], sampling := 0, flrs := [] }

end Sys2Proof.Machine
end

