-- ==== Sys2Proof/Machine/Focus.lean ====
section
/-!
DEFINITION. Bit fields of words, and the accessors of the state: the slot whose unit is being executed, its registers,
its level and mode, and the partition and function it belongs to (R4, R12, R36 to R41, R361 to R365).
-/

namespace Sys2Proof.Machine

/-- Bits hi to lo of a word, as a number (R51). -/
def bits (w : Word) (hi lo : Nat) : Nat := w.toNat / 2 ^ lo % 2 ^ (hi - lo + 1)

/-- One bit of a word. -/
def bit (w : Word) (i : Nat) : Bool := w.toNat / 2 ^ i % 2 == 1

/-- A word with bits hi to lo replaced by the low bits of a number. -/
def putBits (w : Word) (hi lo v : Nat) : Word :=
  let m : Word := BitVec.ofNat 64 ((2 ^ (hi - lo + 1) - 1) * 2 ^ lo)
  (w &&& ~~~m) ||| (BitVec.ofNat 64 (v * 2 ^ lo) &&& m)

/-- A word with one bit replaced. -/
def putBit (w : Word) (i : Nat) (b : Bool) : Word := putBits w i i (if b then 1 else 0)

/-- The low n bits of a number, sign-extended to 64 bits (Table 1.13). -/
def signExt (v n : Nat) : Word := BitVec.ofInt 64 (signedOf n v)

/-- The low n bits of a number, zero-extended to 64 bits (Table 1.13). -/
def zeroExt (v n : Nat) : Word := BitVec.ofNat 64 (v % 2 ^ n)

/-- Bits 63:57 are copies of bit 56 (R116, Table 1.7). -/
def addr57 (w : Word) : Word := (w.extractLsb' 0 57).signExtend 64

/-- EA(base, off) (R116). -/
def ea (base off : Word) : Word := addr57 (base + off)

/-! Places: slot numbers of the package are 64 × core + slot, cores 8 × package cluster + core (R4, R5, R11). -/

/-- The package core of a slot. -/
def coreOf (gs : Nat) : Nat := gs / 64
/-- The slot number within its core. -/
def slotOf (gs : Nat) : Nat := gs % 64
/-- The package cluster of a slot, 0 to 383. -/
def clusterOf (gs : Nat) : Nat := gs / 512
/-- The die of a slot. -/
def dieOf (gs : Nat) : Nat := gs / 49152
/-- The row and column of a die: north 0, west 0 (R5, Table 0.2). -/
def dieRow (d : Nat) : Nat := d / 2
def dieColumn (d : Nat) : Nat := d % 2
/-- The die that carries an HBM stack, and the one that carries a Heathway port; the host link attaches to die 0 (R5, R405). -/
def stackDie (stack : Nat) : Nat := stack / 3
def portDie (port : Nat) : Nat := port / 9
/-- The dies that traffic from one die to another passes through after the first: along the row, then the column (R6). -/
def dieRoute (a b : Nat) : List Nat :=
  (if dieColumn a = dieColumn b then [] else [2 * dieRow a + dieColumn b]) ++ (if dieRow a = dieRow b then [] else [b])
/-- Slots of the package: four dies of 96 clusters of 8 cores of 64 slots. -/
def slotCount : Nat := 196608

/-- A number above every slot's: threads off their slots are counted under it, and the channel bindings of such a thread stand under
it and the thread's `uid` (R322). -/
def noSlot : Nat := 2 ^ 32

/-- Clusters of the package. The state of a cluster that is stopped for a bale stands under a number from here on (R331). -/
def clusterCount : Nat := 384

/-- Trap registers at the values of Table 1.7. -/
def TrapRegs.zero : TrapRegs := ⟨0, 0, 0, 0, 0, 0, 0⟩

/-- The checkpointed state of a slot without a thread, at the values of Tables 1.6 and 1.7 (FCTL: Table 2.4). -/
def Arch.init : Arch :=
  { pc := 0, ports := [], vregs := [], grant := 0, unmet := 0, k := [], fctl := 32, fflags := 0,
    status := 65536, icount := 0, forks := 0 }

/-- The record of a slot that holds no thread (R408, Tables 1.6 and 1.7; log entry 3); SA and SB name unit scales (R180). -/
def Thread.idle : Thread :=
  { live := false, uid := 0, a := Arch.init, winBase := 0, winLim := 0, vf := none, asid := 0, loads := [], unread := 0, stores := [], pushes := [], aims := [], arrivals := [],
    copies := [], mats := [], chseq := 0, timer := 0, gid := [0, 0, 0, 0], kern := .zero, hyp := .zero, mach := .zero,
    ucvec := 0, chunkmax := 4096, sq := 0, upseq := 0, mons := [], ready := false, resv := none, chunks := [],
    fallback := none, entry := false, hold := none, pend := [], p15 := [], wq := [], staged := [], copyn := 0, heldFaults := [], edges := 0,
    refused := [], mat := ⟨0, 0xC000000000000000, 0xC000000000000000⟩, lid := none, path := [],
    parent := none, ts := 0, order := 0, ent := 0, joined := 0, evald := none, lost := 0, stopping := false, halted := false, fetched := [], stepping := false, dbgCause := none,
    stopFor := none, frozen := false, haltNext := false, retried := false }

namespace State

/-- The record of a slot. -/
def thread (s : State) (gs : Nat) : Thread := mgetD s.threads gs Thread.idle

/-- Replace the record of a slot. -/
def setThread (s : State) (gs : Nat) (t : Thread) : State := { s with threads := mput s.threads gs t }

/-- The slot whose unit is being executed. -/
def th (s : State) : Thread := s.thread s.fs

/-- Replace its record. -/
def setTh (s : State) (t : Thread) : State := s.setThread s.fs t

/-- Its checkpointed state. -/
def arch (s : State) : Arch := s.th.a

/-- Replace its checkpointed state. -/
def setArch (s : State) (a : Arch) : State := s.setTh { s.th with a := a }

/-- The register-file entry of xf of a slot with the given window base (R12). -/
def rfIndex (gs base f : Nat) : Nat := 2048 * coreOf gs + base + f

/-- x register f of a slot; x0 reads as zero (R14). -/
def getXOf (s : State) (gs f : Nat) : Word :=
  if f = 0 then 0 else mgetD s.rf (rfIndex gs (s.thread gs).winBase f) 0

/-- x register f of the executing slot. -/
def getX (s : State) (f : Nat) : Word := s.getXOf s.fs f

/-- Write x register f of a slot; a write to x0 is discarded (R14). -/
def setXOf (s : State) (gs f : Nat) (v : Word) : State :=
  if f = 0 then s else { s with rf := mput s.rf (rfIndex gs (s.thread gs).winBase f) v }

/-- Write x register f of the executing slot. -/
def setX (s : State) (f : Nat) (v : Word) : State := s.setXOf s.fs f v

/-- The whole window of a slot, x0 first. -/
def windowOf (s : State) (gs : Nat) : List Word :=
  (List.range (s.thread gs).winLim).map (fun f => s.getXOf gs f)

/-- Write a whole window. -/
def setWindowOf (s : State) (gs : Nat) (xs : List Word) : State :=
  (xs.zipIdx).foldl (fun s p => s.setXOf gs p.2 p.1) s

end State

/-! STATUS fields (Table 1.6). -/

/-- STATUS.PL: the current level. -/
def Thread.level (t : Thread) : Nat := bits t.a.status 18 17
/-- STATUS.IE. -/
def Thread.ie (t : Thread) : Bool := bit t.a.status 16
/-- STATUS.UE. -/
def Thread.ue (t : Thread) : Bool := bit t.a.status 15
/-- STATUS.DET. -/
def Thread.det (t : Thread) : Bool := bit t.a.status 14
/-- STATUS.ORD. -/
def Thread.ord (t : Thread) : Bool := bit t.a.status 13
/-- STATUS.DIR. -/
def Thread.dir (t : Thread) : Bool := bit t.a.status 12
/-- STATUS as read, with SQ (Table 1.6). -/
def Thread.statusWord (t : Thread) : Word := putBits t.a.status 3 0 t.sq

/-- OPCNT (Table 1.7). -/
def Thread.opcnt (t : Thread) : Word :=
  -- an edge atomic on its way counts as its ordinary form does (R128)
  let e : Nat × Nat := match t.hold with
    | some (.edgeWait _ _ _ _ ret) => if ret then (0, 1) else (1, 0)
    | some (.edgeDone _ ret) => if ret then (0, 1) else (1, 0)
    | _ => (0, 0)
  BitVec.ofNat 64
    (t.mats.length * 2 ^ 24 + t.copies.length * 2 ^ 16 + (t.stores.length + e.1) * 2 ^ 8 + (t.loads.length + e.2))

/-- The trap registers of a level (R37: kernel, hyper and machine have their own). -/
def Thread.bank (t : Thread) (lev : Nat) : TrapRegs :=
  if lev ≤ 1 then t.kern else if lev = 2 then t.hyp else t.mach

/-- Replace the trap registers of a level. -/
def Thread.setBank (t : Thread) (lev : Nat) (b : TrapRegs) : Thread :=
  if lev ≤ 1 then { t with kern := b } else if lev = 2 then { t with hyp := b } else { t with mach := b }

/-- Operations run under R119: STATUS.DIR, the direct fallback of R253, or a step of the debug port (R398). -/
def Thread.directMode (t : Thread) : Bool := t.dir || t.fallback.isSome || t.stepping

/-- Predicate n; k0 reads as all ones (R23). -/
def Arch.kreg (a : Arch) (n : Nat) : BitVec 2048 :=
  if n = 0 then BitVec.allOnes 2048 else mgetD a.k n 0

/-- Write predicate n; a write to k0 is discarded (R23). -/
def Arch.setK (a : Arch) (n : Nat) (v : BitVec 2048) : Arch :=
  if n = 0 then a else { a with k := mput a.k n v }

/-! Partition descriptors (Table 20.2) and function descriptors (Table 20.4). -/

/-- A dword of a descriptor. -/
def dw (d : List Word) (i : Nat) : Word := d.getD i 0

/-- CL: the partition owns the package cluster. -/
def Part.ownsCluster (p : Part) (c : Nat) : Bool := decide (c < 384) && bit (dw p.desc (c / 64)) (c % 64)
/-- SLOTS. -/
def Part.slots (p : Part) : Word := dw p.desc 6
/-- BANKS: the partition owns a bank on each of its cores. -/
def Part.ownsBank (p : Part) (b : Nat) : Bool := decide (b < 32) && bit (dw p.desc 7) (32 + b)
/-- TRN and TRB: the owned tile rows. -/
def Part.trn (p : Part) : Nat := bits (dw p.desc 7) 31 21
def Part.trb (p : Part) : Nat := bits (dw p.desc 7) 19 10
/-- LANES: the lane share S. -/
def Part.lanes (p : Part) : Nat := bits (dw p.desc 7) 9 0
/-- MW, PEN and MQE. -/
def Part.mw (p : Part) : Nat := bits (dw p.desc 8) 19 16
def Part.pen (p : Part) : Nat := bits (dw p.desc 8) 15 12
def Part.mqe (p : Part) : Nat := bits (dw p.desc 8) 11 7
/-- REG: the partition owns HBM region r. -/
def Part.ownsRegion (p : Part) (r : Nat) : Bool := decide (r < 96) && bit (dw p.desc (9 + r / 64)) (r % 64)
/-- COL: the owned colours in ascending order. -/
def Part.colours (p : Part) : List Nat := (List.range 64).filter (fun c => bit (dw p.desc 11) c)
/-- LQ: the lock quota per die. -/
def Part.lq (p : Part) : Nat := bits (dw p.desc 12) 19 0
/-- The partition owns the slot (R362). -/
def Part.ownsSlot (p : Part) (gs : Nat) : Bool := p.ownsCluster (clusterOf gs) && bit p.slots (slotOf gs)

/-- QSL. -/
def VFunc.qsl (v : VFunc) : Nat := bits (dw v.desc 0) 42 32
/-- NCL: logical clusters. -/
def VFunc.ncl (v : VFunc) : Nat := bits (dw v.desc 0) 24 16
/-- PART. -/
def VFunc.part (v : VFunc) : Nat := bits (dw v.desc 0) 4 0
/-- ACNT and ABASE: the range of ASIDs. -/
def VFunc.acnt (v : VFunc) : Nat := bits (dw v.desc 1) 46 32
def VFunc.abase (v : VFunc) : Nat := bits (dw v.desc 1) 13 0
/-- The segment. -/
def VFunc.sbase (v : VFunc) : Nat := (dw v.desc 3).toNat
def VFunc.sbound (v : VFunc) : Nat := (dw v.desc 4).toNat
/-- The presence map. -/
def VFunc.pmap (v : VFunc) : Nat := (dw v.desc 5).toNat
/-- The host window. -/
def VFunc.hbase (v : VFunc) : Nat := (dw v.desc 6).toNat
def VFunc.hbound (v : VFunc) : Nat := (dw v.desc 7).toNat
/-- The peer table, context table, queue table and control block. -/
def VFunc.peert (v : VFunc) : Nat := (dw v.desc 8).toNat
def VFunc.ctxt (v : VFunc) : Nat := (dw v.desc 9).toNat
def VFunc.qtab (v : VFunc) : Nat := (dw v.desc 10).toNat
def VFunc.vcba (v : VFunc) : Nat := (dw v.desc 11).toNat
/-- The counter tables. -/
def VFunc.hct (v : VFunc) : Nat := (dw v.desc 12).toNat
def VFunc.dct (v : VFunc) : Nat := (dw v.desc 13).toNat
/-- The kernel event ring: its IPA and ELOG. -/
def VFunc.evr (v : VFunc) : Nat := bits (dw v.desc 14) 56 12 * 4096
def VFunc.elog (v : VFunc) : Nat := bits (dw v.desc 14) 4 0
/-- The event slot: logical cluster, core, slot. -/
def VFunc.eslot (v : VFunc) : Word := dw v.desc 15
/-- The frame rings and the counter threshold. -/
def VFunc.dfr (v : VFunc) : Nat := (dw v.desc 16).toNat
def VFunc.hfr (v : VFunc) : Nat := (dw v.desc 17).toNat
def VFunc.thr (v : VFunc) : Nat := bits (dw v.desc 18) 11 0
/-- The logical cluster of a package cluster in the function, if it is mapped. -/
def VFunc.logical (v : VFunc) (pc : Nat) : Option Nat :=
  if pc ∈ v.cmap then some (v.cmap.idxOf pc) else none

namespace State

/-- The partition that owns a slot; none for the hypervisor's set (R293, R362). -/
def partOf (s : State) (gs : Nat) : Option Nat :=
  (s.parts.find? (fun p => p.2.ownsSlot gs)).map (·.1)

/-- The partition that owns a bank of a cluster; a stopped cluster's state stays its partition's (R331). -/
def bankOwner (s : State) (pc b : Nat) : Option Nat :=
  if clusterCount ≤ pc then (mget s.stops (pc - clusterCount)).map (·.part)
  else (s.parts.find? (fun p => p.2.ownsCluster pc && p.2.ownsBank b)).map (·.1)

/-- The partition that owns an HBM region (R265). -/
def regionOwner (s : State) (r : Nat) : Option Nat :=
  (s.parts.find? (fun p => p.2.ownsRegion r)).map (·.1)

/-- The partition that owns the shared registers of a core: the owner of slot 0 (R362). -/
def gOwner (s : State) (gc : Nat) : Option Nat := s.partOf (64 * gc)

/-- PMASK of a slot (Table 1.7): the slots of its core that share its owner. -/
def pmask (s : State) (gs : Nat) : Word :=
  let p := s.partOf gs
  BitVec.ofNat 64 ((List.range 64).foldl
    (fun acc n => if s.partOf (64 * coreOf gs + n) = p then acc + 2 ^ n else acc) 0)

/-- The partition record of a slot, if it has one. -/
def partRec (s : State) (gs : Nat) : Option Part := (s.partOf gs).bind (mget s.parts)

/-- POLICY of a slot's partition; 0 for the hypervisor's set (Table 1.7). -/
def policyOf (s : State) (gs : Nat) : Nat := ((s.partRec gs).map (·.policy)).getD 0

/-- The function record of a slot's thread. -/
def vfRec (s : State) (gs : Nat) : Option VFunc := (s.thread gs).vf.bind (mget s.vfs)

/-- POLICY as it applies to a slot: of the chunk or the fallback it runs, as that began, else its partition's (R235). -/
def policyNow (s : State) (gs : Nat) : Nat :=
  let t := s.thread gs
  match t.fallback, t.chunks.getLast? with
  | some f, _ => f.policy
  | none, some c => if c.ended then s.policyOf gs else c.policy
  | none, none => s.policyOf gs

/-- POLICY of the oldest chunk of a slot that has not been granted (R235). -/
def requestPolicy (s : State) (gs : Nat) : Nat :=
  (((s.thread gs).chunks.find? (fun c => !c.granted)).map (·.policy)).getD (s.policyOf gs)

/-- Exact-count mode (R241): a deterministic launch, or a partition in replay. -/
def exactCount (s : State) (gs : Nat) : Bool :=
  (s.thread gs).det || decide (s.policyNow gs / 2 = 2)

/-- The counter behind a free value that a pair draws again when its answer has come: as it stood before the unit. -/
def freshThen (s : State) : Nat := (s.unit.pre.map (·.fresh)).getD s.fresh

/-- What the words of a pair that issues in the executing slot read (R33). -/
def preOf (s : State) : Pre :=
  { t := s.th, xs := s.windowOf s.fs, mem := s.mem, poison := s.poison, peer := s.peer, gregs := s.gregs, gregHist := s.gregHist,
    remotes := s.remotes, vfs := s.vfs, parts := s.parts, hctx := s.hctx, globals := s.globals, tiles := s.tiles,
    tilePoison := s.tilePoison, fresh := s.fresh }

/-- The state as a word of a pair reads it: as it stood before the unit (R33). -/
def before (s : State) : State :=
  match s.unit.pre with
  | none => s
  | some p =>
    { s with threads := mput s.threads s.fs p.t, mem := p.mem, poison := p.poison, peer := p.peer, gregs := p.gregs, gregHist := p.gregHist,
             remotes := p.remotes, vfs := p.vfs, parts := p.parts, hctx := p.hctx, globals := p.globals, tiles := p.tiles,
             tilePoison := p.tilePoison }

/-- The unit's operations are performed outside every chunk: direct mode, the fallback, or a boundary instruction
(R119, R120, R208, R253). -/
def isDirect (s : State) : Bool := s.unit.outside || s.th.directMode

end State

end Sys2Proof.Machine
end

