-- ==== Sys2Proof/Machine/Memory.lean ====
section
/-!
DEFINITION. The physical map, bytes and poison of memory, and a thread's view of memory through its own uncommitted
writes (R8, R117, R118, R264, R265, R267, R282).
-/

namespace Sys2Proof.Machine

/-! The physical map (Table 11.1). -/

/-- The first scratchpad address. -/
def spadBase : Nat := 0x10000000000
/-- The first host address. -/
def hostBase : Nat := 0x8000000000000
/-- The address lies in HBM. -/
def isHbm (pa : Nat) : Bool := decide (pa < 0xC000000000)
/-- The address lies in the scratchpad range of the map. -/
def isSpadRange (pa : Nat) : Bool := decide (spadBase ≤ pa) && decide (pa < spadBase + 2 ^ 30) && decide (pa / 2 ^ 21 % 128 < 96)
/-- The address lies in a scratchpad of a cluster that is stopped for a bale: these stand above the map's scratchpads, and
nothing but a function's window leads there (R331; log entry 14). -/
def isParked (pa : Nat) : Bool := decide (spadBase + 2 ^ 30 ≤ pa) && decide (pa < 2 ^ 50)
/-- The address lies in a scratchpad. -/
def isSpad (pa : Nat) : Bool := isSpadRange pa || isParked pa
/-- The address lies in host memory. -/
def isHost (pa : Nat) : Bool := decide (hostBase ≤ pa) && decide (pa < 2 ^ 52)
/-- The address names peer memory: peer addresses lie above the physical addresses. -/
def isPeer (pa : Nat) : Bool := decide (2 ^ 52 ≤ pa)
/-- The device identifier of the peer part an address leads to. -/
def peerDev (pa : Nat) : Nat := (pa / 2 ^ 52 - 1) / 256
/-- The module's store holds an identifier that is never assigned, or that another part of the pod holds (R406). -/
def badIdentifier : Bool := Config.devid % 2 ^ 20 == 0 || Config.devid % 2 ^ 20 == 0xFFFFF || Config.idTaken
/-- A route to a part is left: by a port that carries one and has not failed; with a bad identifier every port is down (R405, R406). -/
def State.peerUp (s : State) (dev : Nat) : Bool :=
  !badIdentifier && (List.range 36).any (fun p => Config.route dev p && !s.portsDown.contains p)
/-- The address lies in a range of the map. -/
def isMapped (pa : Nat) : Bool := isHbm pa || isSpadRange pa || isHost pa
/-- The address lies in the package. -/
def isPackage (pa : Nat) : Bool := isHbm pa || isSpad pa

/-- A frame address in a peer's function, above every physical address (R342). -/
def peerAddr (dev vf ipa : Nat) : Nat := 2 ^ 52 * (1 + 256 * dev + vf) + ipa

/-- The package core of a scratchpad address: PA[29:28] die, PA[27:21] cluster, PA[20:18] core. -/
def spadCore (pa : Nat) : Nat := ((pa - spadBase) / 2 ^ 28 * 96 + pa / 2 ^ 21 % 128) * 8 + pa / 2 ^ 18 % 8
/-- The physical address of offset `off` of a core's scratchpad. -/
def spadAddr (gc off : Nat) : Nat :=
  spadBase + (gc / 768) * 2 ^ 28 + (gc / 8 % 96) * 2 ^ 21 + (gc % 8) * 2 ^ 18 + off
/-- The bank of a scratchpad address (Table 11.2). -/
def spadBank (pa : Nat) : Nat := pa % 2 ^ 18 / 8192
/-- The HBM region of an address: 8 × stack + BG (R265, Table 20.2). -/
def hbmRegion (pa : Nat) : Nat := pa / 2 ^ 36 * 8 + pa / 2 ^ 33 % 8
/-- The pseudo-channel of an address within its stack: 8 × NPC + BG, where NPC = PA[12:7] XOR PA[20:15] (R265). -/
def pseudoChannel (pa : Nat) : Nat := 8 * ((pa / 2 ^ 7 % 64) ^^^ (pa / 2 ^ 15 % 64)) + pa / 2 ^ 33 % 8
/-- The home die of a line of the package (R265). -/
def homeDie (pa : Nat) : Nat := if isSpad pa then pa / 2 ^ 28 % 4 else stackDie (pa / 2 ^ 36)

/-- The 128-byte line of an address (R244). -/
def lineOf (pa : Nat) : Nat := pa / 128
/-- The signature item of a shared register: above every line number (R244). -/
def gItem (k : Nat) : Nat := 2 ^ 80 + k

/-- The signature item of a line written by the part's own accessed and dirty bits, which invalidates no translation
(R339). -/
def adItem (line : Nat) : Nat := 2 ^ 90 + line

/-- The lines that n bytes at an address touch. -/
def linesOf (pa n : Nat) : List Nat :=
  (List.range ((pa + n - 1) / 128 + 1 - pa / 128)).map (fun i => pa / 128 + i)

/-- The aligned doublewords that n bytes at an address touch. -/
def dwordsOf (pa n : Nat) : List Nat :=
  (List.range ((pa + n - 1) / 8 + 1 - pa / 8)).map (fun i => pa / 8 + i)

namespace State

/-- One byte of committed memory; an unlisted byte reads as zero (R408, log entry 4). -/
def byteAt (s : State) (pa : Nat) : Byte :=
  if isPeer pa then mgetD s.peer pa 0 else mgetD s.mem pa 0

/-- Bytes of committed memory. -/
def bytesAt (s : State) (pa n : Nat) : List Byte := (List.range n).map (fun i => s.byteAt (pa + i))

/-- The little-endian value of n bytes of committed memory (R8). -/
def natAt (s : State) (pa n : Nat) : Nat := leNat (s.bytesAt pa n)

/-- A doubleword of committed memory. -/
def dwordAt (s : State) (pa : Nat) : Word := BitVec.ofNat 64 (s.natAt pa 8)

/-- Write one byte of committed memory. -/
def setByte (s : State) (pa : Nat) (b : Byte) : State :=
  if isPeer pa then { s with peer := mset 0 s.peer pa b } else { s with mem := mset 0 s.mem pa b }

/-- Write bytes of committed memory. -/
def setBytes (s : State) (pa : Nat) : List Byte → State
  | [] => s
  | b :: bs => (s.setByte pa b).setBytes (pa + 1) bs

/-- The aligned doubleword carries the poison marker (R282). -/
def poisoned (s : State) (dwi : Nat) : Bool := (mget s.poison dwi).isSome

/-- Mark or clear poison of an aligned doubleword. -/
def setPoison (s : State) (dwi : Nat) (p : Bool) : State :=
  { s with poison := if p then mput s.poison dwi () else mdel s.poison dwi }

/-- A store of all eight bytes of a poisoned word clears its poison, any other store leaves it (R282). -/
def clearPoison (s : State) (pa n : Nat) : State :=
  (dwordsOf pa n).foldl (fun s d => if pa ≤ 8 * d ∧ 8 * d + 8 ≤ pa + n then s.setPoison d false else s) s

end State

/-- The byte an effect writes at an address. -/
def Eff.byteAt (e : Eff) (pa : Nat) : Option Byte :=
  match e with
  | .write a bs => if a ≤ pa then bs[pa - a]? else none
  | .remote a bs => if a ≤ pa then bs[pa - a]? else none
  | .edge a bs => if a ≤ pa then bs[pa - a]? else none
  | .greg .. => none

/-- The effect writes all eight bytes of an aligned doubleword. -/
def Eff.coversDword (e : Eff) (dwi : Nat) : Bool :=
  match e with
  | .write a bs => decide (a ≤ 8 * dwi) && decide (8 * dwi + 8 ≤ a + bs.length)
  | .remote a bs => decide (a ≤ 8 * dwi) && decide (8 * dwi + 8 ≤ a + bs.length)
  | .edge a bs => decide (a ≤ 8 * dwi) && decide (8 * dwi + 8 ≤ a + bs.length)
  | .greg .. => false

/-- The effects of a thread's uncommitted chunks, newest first (R118, R267). -/
def Thread.ownWrites (t : Thread) : List Eff :=
  ((t.chunks.filter (fun c => !c.granted)).flatMap (fun c => c.log.map (·.eff))).reverse

/-! The order of a chunk's own operations (R118, R138, R163). -/

/-- The write and n bytes at an address have a byte in common. -/
def Entry.touches (e : Entry) (pa n : Nat) : Bool := (List.range n).any (fun i => (e.eff.byteAt (pa + i)).isSome)

/-- Two operations of a chunk keep program order: scalar ones and atomics among themselves (R118), pushes among themselves (R138). -/
def Access.inOrder : Access → Access → Bool
  | .scalar, .scalar | .scalar, .atomic _ | .atomic _, .scalar | .atomic _, .atomic _ | .push _, .push _ => true
  | _, _ => false

/-- An operation may be performed before the write (R163, R138). -/
def Entry.free (e : Entry) (k : Access) : Bool := !e.fixed && !k.inOrder e.by_

/-- How many of the writes, newest first, an access to n bytes at an address passes: it may pass those it is free of, one after the
other, but none beyond number `base`, which are its own unit's (R161, R163; log entry 69). -/
def passCount (base : Nat) (k : Access) (pa n : Nat) : List Entry → Nat → Nat
  | [], _ => 0
  | e :: rest, seed =>
    if e.touches pa n then
      (if decide (e.num ≤ base) && e.free k && Config.passes seed then passCount base k pa n rest (seed + 1) + 1 else 0)
    else
      match passCount base k pa n rest seed with
      | 0 => 0
      | m + 1 => m + 2

/-- The byte a thread's own uncommitted writes give at an address. -/
def overlay (ws : List Eff) (pa : Nat) : Option Byte := ws.findSome? (fun e => e.byteAt pa)

namespace State

/-- One byte as a slot sees it: its own uncommitted writes, else committed memory (R118). -/
def viewByte (s : State) (ws : List Eff) (pa : Nat) : Byte := (overlay ws pa).getD (s.byteAt pa)

/-- The value of n bytes through given uncommitted writes. -/
def viewThrough (s : State) (ws : List Eff) (pa n : Nat) : Nat := leNat ((List.range n).map (fun i => s.viewByte ws (pa + i)))

/-- The value of n bytes as a slot sees them, all its writes being in program order. -/
def viewNat (s : State) (gs pa n : Nat) : Nat := s.viewThrough (s.thread gs).ownWrites pa n

/-- Some word of the access is poisoned, through given uncommitted writes (R117 step 4, R282). -/
def poisonThrough (s : State) (ws : List Eff) (pa n : Nat) : Bool :=
  (dwordsOf pa n).any (fun d => s.poisoned d && !ws.any (fun e => e.coversDword d))

/-- Some word of the access is poisoned, as a slot sees it, all its writes being in program order. -/
def viewPoison (s : State) (gs pa n : Nat) : Bool := s.poisonThrough (s.thread gs).ownWrites pa n

/-- How many of a slot's newest writes an access of its chunk passes (R163, R138); none in direct mode and in a deterministic launch,
where the access stands behind all of them (R119, R301). -/
def passed (s : State) (gs base : Nat) (k : Access) (pa n : Nat) : Nat :=
  let t := s.thread gs
  if t.det || t.directMode then 0
  else
    match t.chunks.getLast? with
    | some c => if c.ended then 0 else passCount base k pa n c.log.reverse s.fresh
    | none => 0

/-- Writes that the slot's youngest chunk has entered. -/
def enteredOf (s : State) (gs : Nat) : Nat := ((s.thread gs).chunks.getLast?.map (·.entered)).getD 0

/-- The slot's own writes as an access of its chunk sees them, newest first. -/
def seenWrites (s : State) (gs : Nat) (k : Access) (pa n : Nat) : List Eff :=
  (s.thread gs).ownWrites.drop (s.passed gs (s.enteredOf gs) k pa n)

/-- The value of n bytes as an access of the slot's chunk sees them (R118, R163). -/
def loadView (s : State) (gs : Nat) (k : Access) (pa n : Nat) : Nat :=
  s.viewThrough (s.seenWrites gs k pa n) pa n

/-- Some word is poisoned, as an access of the slot's chunk sees it (R118, R163). -/
def loadPoison (s : State) (gs : Nat) (k : Access) (pa n : Nat) : Bool := s.poisonThrough (s.seenWrites gs k pa n) pa n

/-- The access has a choice of its place (R163, R138). -/
def hasChoice (s : State) (gs : Nat) (k : Access) (pa n : Nat) : Bool :=
  !(s.thread gs).det && !(s.thread gs).directMode &&
  (match (s.thread gs).chunks.getLast? with
   | some c => !c.ended && c.log.any (fun e => e.free k && e.touches pa n)
   | none => false)

/-- The free value behind an access's place is used up: an element of an instruction draws its own. -/
def drawn (s : State) (gs : Nat) (k : Access) (pa n : Nat) : State :=
  if s.hasChoice gs k pa n then { s with fresh := s.fresh + s.enteredOf gs } else s

/-- The value of a shared register as a slot sees it (R114). -/
def viewGreg (s : State) (gs k : Nat) : Word :=
  ((s.thread gs).ownWrites.findSome? (fun e => match e with
    | .greg k' v => if k' = k then some v else none
    | _ => none)).getD (mgetD s.gregs k 0)

end State

/-- The integer operations of an atomic (Table 5.2, codes 0 to 8) on n-byte values, and the floating-point add. -/
def atomicOp (op n old v : Nat) : Nat :=
  let w := 8 * n
  let o := old % 2 ^ w
  let x := v % 2 ^ w
  match op with
  | 0 => (o + x) % 2 ^ w
  | 1 => o &&& x
  | 2 => o ||| x
  | 3 => o ^^^ x
  | 4 => if signedOf w o ≤ signedOf w x then o else x
  | 5 => if signedOf w o ≤ signedOf w x then x else o
  | 6 => min o x
  | 7 => max o x
  | 8 => x
  | _ => (fAdd (if n = 4 then fmtS else fmtD) .rn o x).1

end Sys2Proof.Machine
end

