-- ==== Sys2Proof/Machine/Coherence.lean ====
section
/-!
DEFINITION. Coherence between dies: the directory, what reads and writes leave in it, and the messages of Table 11.4
(R266 to R272, R277). A load or a commit sends its request, and the steps of Table 11.4 carry it on; whatever asks for the line again
finds the messages about it at their end. Copies hold the committed bytes, so that no message changes a value.
-/

namespace Sys2Proof.Machine

/-- A line has cached copies: HBM and host lines do (R266). -/
def cached (line : Nat) : Bool := isHbm (128 * line) || isHost (128 * line)

/-- The home die of a cached line: of its stack, or the host's lines at die 0 (log entry 11). -/
def cohHome (line : Nat) : Nat := if isHbm (128 * line) then homeDie (128 * line) else 0

/-- The L1 set of a line, one of 64: the part's own choice (R240, log entry 8). -/
def l1Set (l : Nat) : Nat := Config.l1Set l % 64

/-- A request that has not reached the home. -/
def CohKind.request : CohKind → Bool
  | .reads | .readm => true
  | _ => false

/-- The message recalls or invalidates a copy. -/
def CohKind.isRecall : CohKind → Bool
  | .inv | .binv | .ack | .wback => true
  | _ => false

namespace State

/-- The states of a line on the four dies. -/
def dirOf (s : State) (line : Nat) : List Moesi := mgetD s.dirs line [.i, .i, .i, .i]

/-- The state of a line on a die. -/
def dieState (s : State) (line die : Nat) : Moesi := (s.dirOf line).getD die .i

/-- Replace the states of a line. -/
def setDir (s : State) (line : Nat) (d : List Moesi) : State := { s with dirs := mset [.i, .i, .i, .i] s.dirs line d }

/-- Replace the state of one die. -/
def setDie (s : State) (line die : Nat) (x : Moesi) : State := s.setDir line ((s.dirOf line).set die x)

/-- The key of a line of a core's L1 data cache. -/
def l1Key (gc line : Nat) : Nat := 2 ^ 48 * gc + line

/-- The committed copies of a line in the L1 data caches of a die are removed (R268). -/
def l1Drop (s : State) (die line : Nat) : State :=
  if s.l1 = [] then s
  else { s with l1 := s.l1.filter (fun p => p.1 % 2 ^ 48 != line || p.1 / 2 ^ 48 / 768 != die) }

/-- A core's L1 takes a committed copy of a line; a full set gives one up (R266; log entry 8). -/
def l1Add (s : State) (gc line : Nat) : State :=
  if !cached line || (mget s.l1 (l1Key gc line)).isSome then s
  else
    let own := s.l1.filter (fun p => p.1 / 2 ^ 48 == gc)
    let set := if own.length < 8 then [] else own.filter (fun p => l1Set (p.1 % 2 ^ 48) == l1Set line)
    let l := if set.length < 8 then s.l1
      else match set[Config.victim s.fresh % set.length]? with
        | some v => mdel s.l1 v.1
        | none => s.l1
    { s with l1 := mput l (l1Key gc line) () }

/-- A word of the line is reserved: the line is not cached (R132). -/
def reservedLine (s : State) (line : Nat) : Bool :=
  s.threads.any (fun p => match p.2.resv with | some r => r.pa / 128 == line | none => false) ||
    s.away.any (fun a => match a.t.resv with | some r => r.pa / 128 == line | none => false)

/-- Send a coherence message. -/
def cohSend (s : State) (k : CohKind) (die line : Nat) : State := { s with coh := s.coh ++ [⟨k, die, line⟩] }

/-- A message is on its way. -/
def cohHas (s : State) (k : CohKind) (die line : Nat) : Bool := s.coh.contains ⟨k, die, line⟩

/-- Take a message off its network. -/
def cohTake (s : State) (k : CohKind) (die line : Nat) : State := { s with coh := s.coh.erase ⟨k, die, line⟩ }

/-- The home works on a request for the line, or recalls it: it holds further requests for it (R247 step 5, R272). -/
def cohBusy (s : State) (line : Nat) : Bool := s.coh.any (fun m => m.line == line && !m.kind.request)

/-- The die that must send a line: the holder in M, O or E. -/
def cohOwner (s : State) (line : Nat) : Option Nat :=
  (List.range 4).find? (fun k => s.dieState line k ∈ [Moesi.m, .o, .e])

/-! Placement in the L2 (R269, R277). -/

/-- The colours of a partition; without one, those no partition owns (R269). -/
def partColours (s : State) (part : Option Nat) : List Nat :=
  match part with
  | some p => ((mget s.parts p).map Part.colours).getD []
  | none => (List.range 64).filter (fun c => s.parts.all (fun p => !(c ∈ p.2.colours)))

/-- The colours under which lines of a region are placed: its owner's (R269). -/
def coloursOf (s : State) (region : Nat) : List Nat := s.partColours (s.regionOwner region)

/-- The slice and set of an address among the colours (R269). Of a list that is empty, which no rule excludes, the model takes colour 0
(log entry 89). -/
def placeAmong (cl : List Nat) (pa : Nat) : Nat × Nat :=
  ((pa / 2 ^ 7 % 64) ^^^ (pa / 2 ^ 13 % 64), cl.getD (pa / 2 ^ 23 % 64 % cl.length) 0 * 16 + pa / 2 ^ 19 % 16)

/-- The home die, slice and set of an HBM line (R269). -/
def lineSet (s : State) (line : Nat) : Nat × Nat × Nat :=
  (homeDie (128 * line), placeAmong (s.coloursOf (hbmRegion (128 * line))) (128 * line))

/-- The slice and set of a line in the L2 of a die: a host line takes the colours of the partition whose thread fetched it (R269). -/
def l2Set (s : State) (die line : Nat) : Nat × Nat :=
  if isHbm (128 * line) then (s.lineSet line).2
  else placeAmong (s.partColours (mgetD s.hostPart (4 * line + die) none)) (128 * line)

/-- The L2 of a die evicts a line: its committed L1 copies on the die go with it (R268), dirty data goes to the home L2, and from the home
L2 to memory (R271); the home copy of a locked line stays (R277). -/
def evict (s : State) (die line : Nat) : State :=
  if s.dieState line die = .i || ((mget s.locks line).isSome && die == cohHome line) then s
  else
    let x := s.dieState line die
    let s1 := (s.setDie line die .i).l1Drop die line
    if die ≠ cohHome line ∧ (x = .m ∨ x = .o) then s1.cohSend .wback die line else s1

/-- The lines that stand in the set of a line in the L2 of a die. -/
def l2Mates (s : State) (die line : Nat) : List Nat :=
  let held := (s.dirs.filter (fun p => p.2.getD die .i != .i)).map (·.1)
  if held.length < 16 then [] else held.filter (fun l => l != line && s.l2Set die l == s.l2Set die line)

/-- A die's L2 takes a line: where its set holds 16 others, one of them that no lock pins is evicted (R266, R268, R269, R277). -/
def place (s : State) (die line : Nat) (x : Moesi) : State :=
  let mates := s.l2Mates die line
  let s1 := s.setDie line die x
  if mates.length < 16 then s1
  else
    let free := mates.filter (fun l => !((mget s.locks l).isSome && die == cohHome l))
    match free[Config.victim s.fresh % free.length]? with
    | some v => s1.evict die v
    | none => s1

/-! The messages (R271, R272). -/

/-- READS reaches the home (R271): the owner is asked to send the line, or the home sends it: in E where no die holds it, a state that no
rule gives or denies (log entry 89). -/
def doReads (s : State) (die line : Nat) : State :=
  if !s.cohHas .reads die line || s.cohBusy line then s
  else
    let s1 := s.cohTake .reads die line
    if s.dieState line die != .i then s1
    else
      match s1.cohOwner line with
      | some o => s1.cohSend (.fwd o) die line
      | none => s1.cohSend (.data (if (s.dirOf line).all (· == .i) then .e else .s)) die line

/-- READM of a committing die reaches the home (R271): every other holder is told to drop its copy; the line follows its
acknowledgements. -/
def doReadm (s : State) (die line : Nat) : State :=
  if !s.cohHas .readm die line || s.cohBusy line then s
  else
    let s1 := s.cohTake .readm die line
    let others := (List.range 4).filter (fun k => k != die && s.dieState line k != .i)
    if s.dieState line die == .m then s1
    else if others = [] then s1.cohSend (.data .m) die line
    else others.foldl (fun s k => s.cohSend .inv k line) (s1.cohSend .getm die line)

/-- FWD reaches the owner: it sends the line and keeps it in O or S (R271). -/
def doFwd (s : State) (owner die line : Nat) : State :=
  if s.cohHas (.fwd owner) die line then
    let s1 := (s.cohTake (.fwd owner) die line).cohSend (.data .s) die line
    s1.setDie line owner (match s.dieState line owner with | .m => .o | .e => .s | x => x)
  else s

/-- DATA reaches the requester: its die holds the line (R271). -/
def doData (s : State) (die line : Nat) : State :=
  match s.coh.find? (fun m => m.die == die && m.line == line &&
      (match m.kind with | .data _ => true | _ => false)) with
  | some m =>
    match m.kind with
    | .data st => (s.cohTake m.kind die line).place die line st
    | _ => s
  | none => s

/-- The acknowledgements of a READM are in: the line goes to the committing die in M (R247 step 5, R271). -/
def cohSettle (s : State) (line : Nat) : State :=
  if s.coh.any (fun m => m.line == line && (m.kind == .inv || m.kind == .ack || m.kind == .wback)) then s
  else
    match s.coh.find? (fun m => m.line == line && m.kind == .getm) with
    | some m => (s.cohTake .getm m.die line).cohSend (.data .m) m.die line
    | none => s

/-- INV reaches a sharer: it drops its copy and acknowledges (R271). -/
def doInv (s : State) (die line : Nat) : State :=
  if s.cohHas .inv die line then (((s.cohTake .inv die line).setDie line die .i).l1Drop die line).cohSend .ack die line else s

/-- ACK reaches the home (R271). -/
def doAck (s : State) (die line : Nat) : State :=
  if s.cohHas .ack die line then (s.cohTake .ack die line).cohSettle line else s

/-- A holder answers a recall: an O or M holder with WBACK, another with ACK; its copies on the die are dropped (R268, R272). -/
def recallCopy (s : State) (die line : Nat) : State :=
  let dirty := s.dieState line die == .m || s.dieState line die == .o
  ((s.setDie line die .i).l1Drop die line).cohSend (if dirty then .wback else .ack) die line

/-- The other dies than the home that hold a line: the entry of the snoop filter (R270, R272). -/
def listed (s : State) (line : Nat) : List Nat :=
  (List.range 4).filter (fun k => k != cohHome line && s.dieState line k != .i)

/-- BINV reaches a holder. Where none is on its way, the home frees the line's entry of its snoop filter: it sends BINV to every die that
the entry lists, and this one's is the first to arrive (R272). -/
def doBinv (s : State) (die line : Nat) : State :=
  if s.cohHas .binv die line then (s.cohTake .binv die line).recallCopy die line
  else if !cached line || s.cohBusy line || !(die ∈ s.listed line) then s
  else (((s.listed line).filter (· != die)).foldl (fun s k => s.cohSend .binv k line) s).recallCopy die line

/-- A host line that comes to a die by a write-back keeps the colours of the partition whose thread fetched it (R269). -/
def hostMoves (s : State) (src dst line : Nat) : State :=
  if isHost (128 * line) && s.dieState line dst == .i then
    { s with hostPart := mput s.hostPart (4 * line + dst) (mgetD s.hostPart (4 * line + src) none) }
  else s

/-- WBACK reaches the home: its L2 takes the dirty data, in M when no other die holds the line, and acknowledges it (R271, R272). -/
def doWback (s : State) (die line : Nat) : State :=
  if s.cohHas .wback die line then
    let s1 := (s.cohTake .wback die line).hostMoves die (cohHome line) line
    let alone := (List.range 4).all (fun k => k == cohHome line || s1.dieState line k == .i)
    (s1.place (cohHome line) line (if alone then .m else .o)).cohSend .ack die line
  else s

/-- The next step of the messages about a line: answers before requests, which the home holds until they are in (R272). -/
def cohNext (s : State) (line : Nat) : Option State :=
  match s.coh.find? (fun m => m.line == line && !m.kind.request && m.kind != .getm) with
  | some m => some (match m.kind with
    | .fwd o => s.doFwd o m.die line
    | .data _ => s.doData m.die line
    | .wback => s.doWback m.die line
    | .ack => s.doAck m.die line
    | .inv => s.doInv m.die line
    | .binv => s.doBinv m.die line
    | _ => s)
  | none =>
    match s.coh.find? (fun m => m.line == line && m.kind.request) with
    | some m => some (if m.kind = .reads then s.doReads m.die line else s.doReadm m.die line)
    | none => none

/-- At most n steps of the messages about a line. -/
def cohSteps : Nat → State → Nat → State
  | 0, s, _ => s
  | n + 1, s, line =>
    match s.cohNext line with
    | some s1 => s1.cohSteps n line
    | none => s

/-- Everything on its way about a line comes to its end: what asks for the line is held until then (R247 step 5, R272). A message leads to
at most eleven others. -/
def cohDrain (s : State) (line : Nat) : State :=
  let n := (s.coh.filter (fun m => m.line == line)).length
  if n = 0 then s else s.cohSteps (12 * n) line

/-! What accesses ask for (R247, R258, R271). -/

/-- A die asks the home for a line to read it, for a thread of a partition; a line that is reserved is read at its home (R132). -/
def cohAsk (s : State) (die line : Nat) (part : Option Nat) : State :=
  if !cached line || s.reservedLine line || s.dieState line die != .i ||
      s.coh.any (fun m => m.line == line && m.die == die && !m.kind.isRecall) then s
  else
    let s1 := if isHost (128 * line) then { s with hostPart := mput s.hostPart (4 * line + die) part } else s
    s1.cohSend .reads die line

/-- A slot's die obtains a line to read it, at once. -/
def cohFetch (s : State) (gs line : Nat) : State := (s.cohAsk (dieOf gs) line (s.partOf gs)).cohDrain line

/-- The dies that hold a line, but for the home of a locked one, are told to drop their copies, each by a message of a kind, and answer
(R271, R272, R277). -/
def cohRecall (s : State) (k : CohKind) (line : Nat) : State :=
  let s1 := s.cohDrain line
  let ds := (List.range 4).filter (fun d => s1.dieState line d != .i && !((mget s1.locks line).isSome && d == cohHome line))
  (ds.foldl (fun (s : State) d => s.cohSend k d line) s1).cohDrain line

/-- The home copy of a locked line stays, in a state (R277); no other copy of the line is left. -/
def cohKeep (s : State) (line : Nat) (x : Moesi) : State :=
  let h := cohHome line
  let y := if (mget s.locks line).isSome && s.dieState line h != .i then x else .i
  (List.range 4).foldl (fun (s : State) k => s.l1Drop k line) (s.setDir line (([.i, .i, .i, .i] : List Moesi).set h y))

/-- A slot's commit or write asks the home for M on a line: what was on its way for the line ends first, other L1 copies on its die go, and
the writer's becomes the committed one (R247 step 5, R267, R271); a line that is reserved is written at its home (R132). -/
def cohWrite (s : State) (gs line : Nat) : State :=
  if !cached line then s
  else
    let s1 := (s.cohDrain line).l1Drop (dieOf gs) line
    if s1.reservedLine line then (s1.cohRecall .inv line).cohKeep line .m
    else if s1.dieState line (dieOf gs) == .m then s1.l1Add (coreOf gs) line
    else
      let s2 := if isHost (128 * line) && s1.dieState line (dieOf gs) == .i then
        { s1 with hostPart := mput s1.hostPart (4 * line + dieOf gs) (s1.partOf gs) } else s1
      (s2.cohSend .readm (dieOf gs) line).l1Add (coreOf gs) line

/-- Another agent's write, or a reservation, leaves no die a copy but the home of a locked line (R132, R258, R277, R348). -/
def cohDrop (s : State) (line : Nat) : State := if cached line then (s.cohRecall .inv line).cohKeep line .m else s

/-- Dirty copies are written back and stay valid: another die's goes to the home by WBACK, which acknowledges it, and the home's to memory
(R152, R271). -/
def cohClean (s : State) (line : Nat) : State :=
  let s1 := s.cohDrain line
  let ds := (List.range 4).filter (fun d => d != cohHome line && (s1.dieState line d == .m || s1.dieState line d == .o))
  let s2 := (ds.foldl (fun (s : State) d => (s.setDie line d .s).cohSend .wback d line) s1).cohDrain line
  s2.setDir line ((s2.dirOf line).map (fun x => match x with | .m => .e | .o => .s | x => x))

/-- Copies are written back and removed, each die's by BINV and its answer, but for the home copy of a locked line (R152, R271, R277). -/
def cohInval (s : State) (line : Nat) : State := (s.cohRecall .binv line).cohKeep line .e

/-- A hint asks for a line, to read it or in a writable state: it changes nothing a program can read (R125). -/
def cohHint (s : State) (gs line : Nat) (h : Nat) : State :=
  if !cached line || s.reservedLine line then s
  else
    let s1 := if h = 1 && s.dieState line (dieOf gs) != .m && !s.coh.any (fun m => m.line == line && m.die == dieOf gs) then
        s.cohSend .readm (dieOf gs) line
      else s.cohAsk (dieOf gs) line (s.partOf gs)
    if h ≤ 1 ∧ s.dieState line (dieOf gs) ≠ .i then s1.l1Add (coreOf gs) line else s1

/-! Pinned lines (R151, R269, R277). -/

/-- Locking the line is admitted for a partition: at most 12 locked ways in its set, and the quota on its die (R151, R277);
the hypervisor's set has no quota. -/
def lockRoom (s : State) (line : Nat) (owner : Option Nat) : Bool :=
  let inSet := (s.locks.filter (fun p => s.lineSet p.1 == s.lineSet line)).length
  let onDie := (s.locks.filter (fun p => p.2 == owner && homeDie (128 * p.1) == homeDie (128 * line))).length
  decide (inSet < 12) &&
    (match owner.bind (mget s.parts) with
     | some p => decide (onDie < p.lq)
     | none => true)

/-- `lock` (R151): the outcome and the state after it; the home die holds the line from then on (R277). -/
def lockLine (s : State) (line : Nat) (owner : Option Nat) : Bool × State :=
  match mget s.locks line with
  | some o => (o == owner, s)
  | none =>
    if s.lockRoom line owner then
      let s1 := (s.cohAsk (cohHome line) line owner).cohDrain line
      (true, { s1 with locks := mput s1.locks line owner })
    else (false, s)

/-- `unlock` (R151). -/
def unlockLine (s : State) (line : Nat) (owner : Option Nat) : State :=
  if mget s.locks line = some owner then { s with locks := mdel s.locks line } else s

end State

end Sys2Proof.Machine
end

