-- ==== Sys2Proof/Machine/Doorbell.lean ====
section
/-!
DEFINITION. Stage two (R340, R341), and the words of memory whose writing makes the part act (R285, R358, R375, R392):
a committed write to one of them puts the part's answer on the agenda.
-/

namespace Sys2Proof.Machine

/-- Where an intermediate address of a function leads (Table 18.3), before presence and ownership are checked. -/
def VFunc.window (v : VFunc) (ipa : Nat) : Option Nat :=
  if ipa < v.sbound then some (v.sbase + ipa)
  else if spadBase ≤ ipa ∧ ipa < spadBase + 2 ^ 30 then
    let lcl := ipa / 2 ^ 21 % 512
    if lcl < v.ncl then
      (v.cmap[lcl]?).map (fun pc => spadAddr (8 * pc + ipa / 2 ^ 18 % 8) (ipa % 2 ^ 18))
    else none
  else if hostBase ≤ ipa ∧ ipa < hostBase + v.hbound then some (v.hbase + (ipa - hostBase))
  else none

/-- The physical address behind an intermediate address that the part itself uses for a function's structures. -/
def VFunc.pa (v : VFunc) (ipa : Nat) : Nat := (v.window ipa).getD (2 ^ 52 - 1)

/-- The presence bit of a segment address: the byte of the map and the bit in it (R341). -/
def VFunc.presenceByte (v : VFunc) (ipa : Nat) : Nat := v.pmap + ipa / 65536 / 8

/-- The 64 KiB of the segment that holds the address is present (R341). -/
def State.present (s : State) (v : VFunc) (ipa : Nat) : Bool :=
  (s.byteAt (v.presenceByte ipa)).toNat / 2 ^ (ipa / 65536 % 8) % 2 == 1

/-! Frames being scrubbed, and slots bound to functions (R365, R367, R369). -/

/-- A scrub that a VSET started is not complete, and the frame is one of those it scrubs: the function does not reach it yet
(R367). -/
def State.scrubbing (s : State) (vf frame : Nat) : Bool :=
  match s.mb.run with
  | some r =>
    match r.wait with
    | .scrub _ (some f) frames => f == vf && frames.any (fun (p : Nat × Nat) => decide (p.1 ≤ frame) && decide (frame < p.2))
    | _ => false
  | none => false

/-- A scrub of a partition's resources is not complete (R369). -/
def State.partScrubbing (s : State) (part : Nat) : Bool :=
  match s.mb.run with
  | some r => (match r.wait with | .scrub p _ _ => p == part | _ => false)
  | none => false

/-- The function a slot is bound to (R365). -/
def State.boundTo (s : State) (gs : Nat) : Option Nat :=
  (s.binds.find? (fun (b : Bind) => b.cores.contains (coreOf gs) && bit b.slots (slotOf gs))).bind (·.vf)

/-- The cluster runs: it is no stopped one, and none that a bale is streamed from or into (R326, R330). -/
def State.clusterRuns (s : State) (pc : Nat) : Bool :=
  decide (pc < clusterCount) && s.stops.all (fun (p : Nat × BaleStop) =>
    match p.2.phase with
    | .out => true
    | .into t => t != pc
    | _ => p.2.pc != pc)

/-- The slot's cluster runs. -/
def State.runs (s : State) (gs : Nat) : Bool := s.clusterRuns (clusterOf gs)

/-- The slot's cluster still stands where it was: it runs, or is being stopped and has not reached its freeze, so that answers to
what it issued still come (R326). -/
def State.answers (s : State) (gs : Nat) : Bool :=
  decide (gs < slotCount) && s.stops.all (fun (p : Nat × BaleStop) =>
    match p.2.phase with
    | .into t => t != clusterOf gs
    | _ => true)

/-! Counters (R393). -/

/-- A counter counts an event of a function in a partition: its own function's, or the hypervisor's by its selection (Table 23.3). -/
def Counter.counts (c : Counter) (vf part : Option Nat) (ev blk : Nat) : Bool :=
  bit c.cfg 63 && !c.inval && !c.frozen && bits c.cfg 7 0 == ev &&
    (if blk = 256 then bit c.cfg 62 || part == some (bits c.cfg 36 32) else vf == some blk)

/-- n events of a function in a partition: 48-bit counts that wrap (R393). -/
def State.countOf (s : State) (vf part : Option Nat) (ev n : Nat) : State :=
  { s with counters := s.counters.map (fun (p : Nat × Counter) =>
      if p.2.counts vf part ev (p.1 / 16) then
        (p.1, { p.2 with value := (p.2.value + n) % 2 ^ 48, ovf := p.2.ovf || decide (2 ^ 48 ≤ p.2.value + n) })
      else p) }

/-- The thread is stopped, by the debug port or for a migration, so that its function's counters count nothing of it (R393): its cycles,
matrix steps and copied bytes; a unit that STEP runs is counted. -/
def Thread.uncounted (t : Thread) (ev : Nat) : Bool :=
  ((t.halted && !t.stepping) || t.frozen) && (ev == 0x01 || ev == 0x30 || ev == 0x32)

/-- n events of a slot's thread, or of what it has issued (R393). -/
def State.count (s : State) (gs ev n : Nat) : State :=
  s.countOf (if (s.thread gs).uncounted ev then none else (s.thread gs).vf) (s.partOf gs) ev n

/-! Doorbells: words of memory whose writing makes the part act. -/

/-- A write of n bytes at an address reaches the doubleword at a. -/
def reaches (pa n a : Nat) : Bool := decide (pa < a + 8) && decide (a < pa + n)

/-- Put one of the part's own steps on the agenda. -/
def State.ring (s : State) (a : Act) : State := { s with agenda := s.agenda ++ [a] }

/-- The observation block of a function, or the hypervisor's, 256 (R392). -/
def State.obsBase (s : State) (blk : Nat) : Option Nat :=
  if blk = 256 then some (s.ctb + 0x400) else (mget s.vfs blk).map (fun v => v.pa (v.vcba + 256))

/-- A write to TBUF or TLOG sets TWPTR, TLOST and TRPTR, which stand in the line it writes, to zero; a TRPTR that comes with it stands
(R397). -/
def State.zeroTrace (s : State) (base : Nat) (keep : Bool) : State := s.setBytes (base + 0x120) (leBytes (if keep then 16 else 24) 0)

/-- Writes to an observation block (R392 to R397). -/
def State.obsBells (s : State) (blk base pa n : Nat) : State :=
  if decide (base + 512 ≤ pa) || decide (pa + n ≤ base) then s
  else
    let s1 := (List.range 16).foldl (fun (s : State) i =>
      if reaches pa n (base + 8 * i) then s.ring (.config blk i (s.dwordAt (base + 8 * i))) else s) s
    let s2 := if reaches pa n (base + 0x100) then s1.ring (.snap blk (s.dwordAt (base + 0x100))) else s1
    if reaches pa n (base + 0x110) then s2.zeroTrace base (reaches pa n (base + 0x130)) else s2

/-- Writes to a control block (R370, Table 20.6). -/
def State.ctlBells (s : State) (vf base pa n : Nat) : State :=
  if decide (base + 32 ≤ pa) || decide (pa + n ≤ base) then s
  else
    let s1 := if reaches pa n base then s.ring (.notify vf (bits (s.dwordAt base) 5 0)) else s
    let t := s.dwordAt (base + 8)
    let s2 := if reaches pa n (base + 8) then s1.ring (.tclaim vf (bits t 1 0) (bit t 63)) else s1
    if reaches pa n (base + 24) then s2.ring (.drain vf (bits (s.dwordAt (base + 24)) 5 0)) else s2

/-- A migration that has not begun (Table 22.1: every field zero). -/
def Mig.idle : Mig :=
  { last := false, steps := 0, stat := 0, form := 0, mack := 0, stream := [], ending := false, formBad := false,
    ended := false, started := false, finished := false, config := false, peers := [], given := [], asked := [],
    pullall := false, heldPulls := [], fwdended := [], heldAccesses := [], own := [], late := [] }

/-- The migration of a function. -/
def State.mig (s : State) (vf : Nat) : Mig := mgetD s.migs vf Mig.idle

/-- Pages of a function's segment. -/
def VFunc.pages (v : VFunc) : Nat := v.sbound / 65536

/-- MSTAT of a function's block (Table 22.1). -/
def State.mstat (s : State) (vf : Nat) (v : VFunc) : Word :=
  let m := s.mig vf
  BitVec.ofNat 64 (m.last.toNat * 2 ^ 63 + m.steps % 2 ^ 31 * 2 ^ 32 + m.stat * 2 ^ 8 + v.mstate)

/-- OWNED and PEERS of a function's block (Table 22.1): a source's pages not given up, a destination's absent pages. -/
def State.mowned (s : State) (vf : Nat) (v : VFunc) : Word :=
  let m := s.mig vf
  let absent := ((List.range v.pages).filter (fun p => !s.present v (65536 * p))).length
  let owned := if v.mstate = 1 ∨ v.mstate = 2 ∨ v.mstate = 3 then (if m.finished then 0 else v.pages - m.given.length) else absent
  let peers := if v.mstate = 4 then 0 else (m.peers.filter (fun p => !p.acked)).length
  BitVec.ofNat 64 (peers * 2 ^ 32 + owned)

/-- The address of a function's migration block (R374). -/
def State.migBase (s : State) (vf : Nat) : Nat := s.mbase + 0x20000 * vf

/-- The other part of a function's migration: its identifier and the function's number there (Table 22.1). -/
def State.otherPart (s : State) (vf : Nat) : Nat × Nat :=
  let w := s.dwordAt (s.migBase vf + 8)
  (bits w 28 9, bits w 8 1)

/-- A page of a migrating function's segment is pulled from the source, once (R341, R382). -/
def State.askPull (s : State) (vf page : Nat) : State :=
  let m := s.mig vf
  if m.asked.contains page then s
  else
    let o := s.otherPart vf
    { s with migs := mput s.migs vf { m with asked := m.asked ++ [page] }, outbox := s.outbox ++ [.pull o.1 o.2 page] }

/-- What a doubleword of a migration block holds after a write: bits not listed read as zero, and the part's own fields stay
(R374). -/
def State.migWord (s : State) (vf : Nat) (v : VFunc) (off : Nat) (w : Word) : Word :=
  match off with
  | 0 => w &&& 0x107
  | 8 => w &&& 0x1FFFFFFF
  | 0x10 => w &&& 1
  | 0x80 => s.mstat vf v
  | 0x88 => s.mowned vf v
  | 0x100 => w
  | _ => 0

/-- Writes to a migration block (R374, R375, R378, R383). -/
def State.migBells (s : State) (vf : Nat) (v : VFunc) (pa n : Nat) : State :=
  let base := s.migBase vf
  if decide (base + 0x10000 ≤ pa) || decide (pa + n ≤ base) then s
  else
    let s1 := (dwordsOf pa n).foldl (fun (s : State) d =>
      if base ≤ 8 * d ∧ 8 * d < base + 0x10000 then
        s.setBytes (8 * d) (leBytes 8 (s.migWord vf v (8 * d - base) (s.dwordAt (8 * d))).toNat)
      else s) s
    let s2 :=
      if reaches pa n base then
        match bits (s1.dwordAt base) 2 0 with
        | 1 => s1.ring (.precopy vf)
        | 2 => s1.ring (.stopping vf)
        | 4 => s1.ring (.resuming vf)
        | _ => s1.ring (.abort vf)
      else s1
    let s3 := if reaches pa n (base + 0x10) then s2.ring (.pullall vf) else s2
    if reaches pa n (base + 0x100) then s3.ring (if v.mstate = 4 then .mackSubmit vf else .mackRelease vf) else s3

/-- A function that the hypervisor has not set, as its migration block has it (R374). -/
def VFunc.absent : VFunc := { desc := [], cmap := [], agg := false, serial := 1, mstate := 0, linkLost := false }

/-- Writes to the migration block of a function that is not set (R374). -/
def State.bareBells (s : State) (pa n : Nat) : State :=
  let vf := (pa - s.mbase) / 0x20000
  if s.mbase ≤ pa ∧ vf < 256 ∧ (mget s.vfs vf).isNone then s.migBells vf VFunc.absent pa n else s

/-- What n bytes written at an address set going: the mailbox's doorbell, blocks of the hypervisor and of the functions. -/
def State.bells (s : State) (pa n : Nat) : State :=
  let s1 := if reaches pa n (s.ctb + 0x80) then { s with mb := { s.mb with bell := true } } else s
  let s2 := (s1.obsBells 256 (s1.ctb + 0x400) pa n).bareBells pa n
  s2.vfs.foldl (fun (s : State) (p : Nat × VFunc) =>
    ((s.ctlBells p.1 (p.2.pa p.2.vcba) pa n).obsBells p.1 (p.2.pa (p.2.vcba + 256)) pa n).migBells p.1 p.2 pa n) s2

/-! Access counters (R350, R351, Table 18.7). -/

/-- One access to a 64 KiB region: COUNT rises, outside the total order, and at THR falls to 0 and sets the threshold's answer going. -/
def State.countRegion (s : State) (vf : Nat) (v : VFunc) (host : Bool) (region : Nat) : State :=
  let pa := v.pa ((if host then v.hct else v.dct) + 8 * region)
  let w := s.dwordAt pa
  if bits w 51 50 = 0 ∨ bits w 51 50 = 3 ∨ v.thr = 0 then s
  else
    let n := min 4095 (bits w 63 52 + 1)
    if v.thr ≤ n then (s.setBytes pa (leBytes 8 (putBits w 63 52 0).toNat)).ring (.threshold vf host region)
    else s.setBytes pa (leBytes 8 (putBits w 63 52 n).toNat)

/-- A line of host memory that no cache of the part holds is fetched over CXL.cache for a function, and counted (R351). -/
def State.countFetch (s : State) (vf : Option Nat) (line : Nat) : State :=
  if isHost (128 * line) && (s.dirOf line).all (· == .i) && !s.coh.any (fun m => m.line == line) then
    match vf, vf.bind (mget s.vfs) with
    | some f, some v =>
      if v.hbase ≤ 128 * line ∧ 128 * line < v.hbase + v.hbound then s.countRegion f v true ((128 * line - v.hbase) / 65536) else s
    | _, _ => s
  else s

/-- The command that stands at CTB (R358). -/
def State.mbRead (s : State) : MbCmd :=
  { target := s.dwordAt s.ctb, args := (List.range 7).map (fun i => s.dwordAt (s.ctb + 8 * (i + 1))) }

/-- Read the mailbox when a doorbell is due and no command is in progress (R358). -/
def State.mbPoll (s : State) : State :=
  if s.mb.bell && !s.mb.busy then
    { s with mb := { s.mb with bell := false, busy := true }, agenda := s.agenda ++ [.command s.mbRead] }
  else s

end Sys2Proof.Machine
end

