-- ==== Sys2Proof/Machine/Order.lean ====
section
/-!
DEFINITION. Taking a place in the one total order: performing effects, monitors and watch bits, signatures and squash,
event records, the log of a recorded partition (R236, R243 to R263, R306, R390).
-/

namespace Sys2Proof.Machine

/-- Apply a change to every slot of the clusters; those that are stopped for a bale stand apart (R327). -/
def State.mapThreads (s : State) (f : Nat → Thread → Thread) : State :=
  { s with threads := s.threads.map (fun p => if p.1 < slotCount then (p.1, f p.1 p.2) else p) }

/-- A stream's elements prefetched from one of the lines, or through a translation derived from one, and those after them, are
discarded (R138, R346). -/
def Stream.dropLines (b : Stream) (ls : List Nat) : Stream :=
  { b with ahead := b.ahead.takeWhile (fun p => !(p.line ∈ ls) && !p.trans.any (fun l => l ∈ ls)) }

/-- Elements prefetched through a translation derived from one of the lines, and those after them, are discarded (R346). -/
def Stream.dropTrans (b : Stream) (ls : List Nat) : Stream :=
  { b with ahead := b.ahead.takeWhile (fun p => !p.trans.any (fun l => l ∈ ls)) }

/-- Change a thread's stream bindings. -/
def Thread.mapStreams (t : Thread) (f : Stream → Stream) : Thread :=
  { t with a := { t.a with ports := t.a.ports.map (fun p => match p.2 with
      | .stream b => (p.1, PortBind.stream (f b))
      | .channel n => (p.1, .channel n)) } }

/-- Monitors on written lines are hit (R146). -/
def Thread.hitMons (t : Thread) (ls : List Nat) : Thread :=
  { t with mons := t.mons.map (fun p => if p.2.1 ∈ ls then (p.1, (p.2.1, true)) else p) }

/-- Monitors on written lines are hit (R146), and elements prefetched from them are discarded (R138); those of a deterministic launch have
been read at their places (R298, R301), and are discarded only where a translation they used has changed (R346). -/
def Thread.hitLines (t : Thread) (ls : List Nat) : Thread :=
  (t.hitMons ls).mapStreams (fun b => if t.det then b.dropTrans ls else b.dropLines ls)

/-- The part's own write of a table entry's A and D bits: it hits monitors and discards elements prefetched from its line, and invalidates
no translation (R138, R146, R339). -/
def Thread.hitEntry (t : Thread) (line : Nat) : Thread :=
  (t.hitMons [line]).mapStreams (fun b => if t.det then b else { b with ahead := b.ahead.takeWhile (fun p => p.line != line) })

/-- A store by another agent clears the watch bit of a word and sets its owner's ready bit (R148). -/
def State.wakeWatch (src : Option Nat) (s : State) (dwi : Nat) : State :=
  match mget s.watches dwi with
  | none => s
  | some o =>
    if src = some o then s
    else { s with watches := mdel s.watches dwi }.setThread o { s.thread o with ready := true }

/-- Cached translations derived from the lines are invalidated (R346). -/
def State.dropGlobals (s : State) (ls : List Nat) : State :=
  if s.globals = [] then s else { s with globals := s.globals.filter (fun g => !g.lines.any (fun l => l ∈ ls)) }

/-- What follows the writing of n bytes of package or host memory: monitors, watch bits, translations, doorbells (R146, R148, R346). -/
def State.touched (s : State) (src : Option Nat) (pa n : Nat) : State :=
  let s1 := (s.dropGlobals (linesOf pa n)).mapThreads (fun _ t => t.hitLines (linesOf pa n))
  (if isSpad pa then (dwordsOf pa n).foldl (State.wakeWatch src) s1 else s1).bells pa n

/-- The bytes of an edge store by their address. -/
def edgeBytes (addr : Nat) (bs : List Byte) (m : Map Byte) : Map Byte :=
  (bs.zipIdx).foldl (fun m p => mput m (addr + p.2) p.1) m

/-- Send the edge writes of a slot, or of a copy of it: each line written leaves as two aligned 64-byte pieces (R260). -/
def State.sendEdges (s : State) (gs : Nat) (copy : Option Nat) (m : Map Byte) : State :=
  let pieces := (m.map (fun p => p.1 / 128)).dedup.flatMap (fun l => [2 * l, 2 * l + 1])
  pieces.foldl (fun s pc =>
    let e : EdgeWrite := ⟨s.fresh, gs, (s.thread gs).uid, (s.thread gs).vf, pc, m.filter (fun p => p.1 / 64 == pc), copy⟩
    let t := s.thread gs
    { s with edges := s.edges ++ [e], fresh := s.fresh + 1 }.setThread gs
      { t with edges := t.edges + if copy.isNone then 1 else 0 }) s

/-- Write bytes of committed memory, with what follows (R146, R148, R282). -/
def State.store (src : Option Nat) (s : State) (pa : Nat) (bs : List Byte) : State :=
  ((s.setBytes pa bs).clearPoison pa bs.length).touched src pa bs.length

/-- Perform one effect at its place in the order (R236). The package's copy of a host line is the committed one from then on (R267);
the edge writes that carry it to the host, or a store to a peer, are sent by the caller. A write of a shared register that takes its
place in the order leaves no earlier value to be read (R114). -/
def State.perform (src : Option Nat) (s : State) (e : Eff) : State :=
  match e with
  | .write pa bs => s.store src pa bs
  | .greg k v => { s with gregs := mput s.gregs k v, gregHist := mdel s.gregHist k }
  | .remote pa bs => { s with remotes := s.remotes ++ [(pa, bs)] }
  | .edge a bs => if isPeer a && src.isSome then s else s.store src a bs

/-- The items an effect enters in a write signature (Table 10.2). -/
def Eff.items : Eff → List Nat
  | .write pa bs => linesOf pa bs.length
  | .greg k _ => [gItem k]
  | .remote pa bs => linesOf pa bs.length
  | .edge a bs => linesOf a bs.length

/-- The items of several effects, each once. -/
def itemsOf (effs : List Eff) : List Nat := (effs.flatMap Eff.items).dedup

/-- Every stop that is frozen hears a write signature (R327). -/
def State.heard (s : State) (items : List Nat) : State :=
  if s.stops = [] then s
  else { s with stops := s.stops.map (fun (p : Nat × BaleStop) =>
    if p.2.phase = .stopping then p else (p.1, { p.2 with sig := (p.2.sig ++ items).dedup })) }

/-- Queue a write signature (R247 step 4). -/
def State.signal (s : State) (src : Option Nat) (items : List Nat) : State :=
  if items = [] then s
  else ({ s with sigs := s.sigs ++ [((match src with | some g => g + 1 | none => 0), items)] } : State).heard items

/-- The effect of the part's own write at an address. -/
def partEff (pa : Nat) (bs : List Byte) : Eff := if isHost pa || isPeer pa then .edge pa bs else .write pa bs

/-- The homes back-invalidate the host's copies of written lines (R349). -/
def State.backInvalidate (s : State) (items : List Nat) : State :=
  if s.hostLines = [] then s
  else
    let ls := items.filter (fun l => (mget s.hostLines l).isSome)
    { s with
      hostLines := s.hostLines.filter (fun p => !(p.1 ∈ ls)), hostInval := s.hostInval ++ ls
      outbox := s.outbox ++ ls.map Out.backInval }

/-- The host answers the oldest back-invalidation: it holds no copy of the line (R349). -/
def State.hostResponds (s : State) : State := { s with hostInval := s.hostInval.drop 1 }

/-- A load or commit of a slot follows the direct-mode writes of shared registers made so far: no later read of the slot misses one (R25). -/
def State.sawShared (s : State) (gs : Nat) : State :=
  if s.gregHist = [] then s
  else { s with gregHist := s.gregHist.map (fun (p : Nat × List GWrite) => (p.1, p.2.map (fun w => { w with seen := gs :: w.seen }))) }

/-- Perform several effects together at one place in the order, send their edge writes and their signature
(R247 steps 3 to 5, R256, R257). -/
def State.performAll (s : State) (src : Option Nat) (effs : List Eff) : State :=
  let s1 := effs.foldl (State.perform src) s
  let em : Map Byte := effs.foldl (fun m e => match e with | .edge a bs => edgeBytes a bs m | _ => m) []
  let s1 := match src with
    | some g => (itemsOf effs).foldl (fun (s : State) l => s.cohWrite g l) s1
    | none => (itemsOf effs).foldl State.cohDrop s1
  let s2 := match src with
    | some g => if em = [] then s1 else s1.sendEdges g none em
    | none => s1
  ((s2.backInvalidate (itemsOf effs)).signal src (itemsOf effs)).mbPoll

/-! Trace (R396, R397). -/

/-- A trace record's words (R396): TYPE and place on the die, PC, AUX, CYCLE. -/
def Traced.bytes (r : Traced) : List Byte :=
  leBytes 8 (r.type * 2 ^ 60 + clusterOf r.gs % 96 * 2 ^ 51 + coreOf r.gs % 8 * 2 ^ 48 + slotOf r.gs * 2 ^ 42) ++
    leBytes 8 r.pc.toNat ++ leBytes 8 r.aux.toNat ++ leBytes 8 r.cycle

/-- A trace record of a slot, for the holder of its die's unit where it traces the slot: it is written when the cycle ends, in the order of
the cores and slots (R396, R397). -/
def State.traceRec (s : State) (gs type : Nat) (pc aux : Word) : State :=
  let h := s.traceHold.getD (dieOf gs) 511
  if h = 511 ∨ (h ≠ 256 ∧ (s.thread gs).vf ≠ some h) then s
  else { s with traced := s.traced ++ [⟨gs, h, type, pc, aux, s.cycle⟩] }

/-- Write a record: where the unit still has the holder it was made for, which selects its type; at TWPTR where the owner has made room, else
it is counted in TLOST (R396, R397). -/
def State.writeTrace (s : State) (r : Traced) : State :=
  match s.obsBase r.holder with
  | none => s
  | some base =>
    let conf := s.dwordAt (base + 0x110)
    let tlog := bits conf 4 0
    if s.traceHold.getD (dieOf r.gs) 511 ≠ r.holder || !bit (s.dwordAt (base + 0x118)) r.type || decide (tlog < 7) || decide (20 < tlog) then s
    else
      let n := (s.dwordAt (base + 0x120)).toNat
      let taken := min (s.dwordAt (base + 0x130)).toNat n
      if n - taken < 2 ^ tlog then
        let buf := bits conf 56 12 * 4096 + 32 * (n % 2 ^ tlog)
        let pa := match mget s.vfs r.holder with
          | some v => if r.holder = 256 then buf else v.pa buf
          | none => buf
        (s.performAll none [.write pa r.bytes]).performAll none [.write (base + 0x120) (leBytes 8 (n + 1))]
      else s.performAll none [.write (base + 0x128) (leBytes 8 ((s.dwordAt (base + 0x128)).toNat + 1))]

/-- Insert a record behind those of its slot and of the slots before it. -/
def Traced.insert (r : Traced) : List Traced → List Traced
  | [] => [r]
  | q :: rest => if r.gs < q.gs then r :: q :: rest else q :: r.insert rest

/-- The records of a cycle are written: a slot's in issue order, those of several by core and then by slot (R397). -/
def State.writeTraces (s : State) : State :=
  (s.traced.foldl (fun l r => r.insert l) []).foldl State.writeTrace { s with traced := [] }

/-! Squash (R243, R252, R253). -/

/-- A checkpoint's bindings without prefetched elements (R140). -/
def Arch.rewound (a : Arch) : Arch :=
  { a with ports := a.ports.map (fun p => match p.2 with
      | .stream b => (p.1, PortBind.stream { b with ahead := [] })
      | .channel n => (p.1, .channel n)) }

/-- Return a chunk's popped elements to the heads of their queues (R11). -/
def Thread.unpop (t : Thread) (pops : Map (List Word)) : Thread :=
  pops.foldl (fun t p =>
    if p.1 = 15 then { t with p15 := p.2 ++ t.p15 }
    else { t with wq := mput t.wq p.1 (p.2.map (fun w => BitVec.ofNat 8 w.toNat) ++ mgetD t.wq p.1 []) }) t

/-- The thread of a slot with its chunks from index i on discarded and the checkpoint of chunk i restored.
`count` raises STATUS.SQ; `fall` starts the direct fallback whatever SQ holds, which reads 8 under it unless a fault brought it about
(R252, R253, R310). -/
def Thread.squashed (t : Thread) (c : Chunk) (i : Nat) (count fall : Bool) : Thread :=
  let t1 := (t.chunks.drop i).reverse.foldl (fun t d => t.unpop d.pops) t
  let sq := if count then (if fall then 8 else min 8 (t.sq + 1)) else t.sq
  { t1 with
    a := c.ckpt.rewound
    loads := []
    unread := 0
    stores := []
    pushes := []
    arrivals := []
    chunks := t.chunks.take i
    sq := sq
    hold := none
    fallback := if fall || (count && decide (8 ≤ sq)) then some ⟨0, c.max, c.policy⟩ else none }

/-- Squash a slot's chunks from index i on. -/
def State.squash (s : State) (gs i : Nat) (count fall : Bool) : State :=
  match (s.thread gs).chunks[i]? with
  | none => s
  | some c =>
    let s1 := (s.setWindowOf gs c.ckptX).setThread gs ((s.thread gs).squashed c i count fall)
    let s2 := s1.count gs 0x11 1
    let s3 := if (s1.thread gs).fallback.isSome then s2.count gs 0x12 1 else s2
    s3.traceRec gs 5 (s.thread gs).a.pc (BitVec.ofNat 64 (s1.thread gs).sq)

/-- Two summaries of 2,048 bits without a common item may test as intersecting, unless one of them is empty (R245). -/
def sigAliases (own other : List Nat) : Bool := !own.isEmpty && !other.isEmpty && Config.sigAlias own other

/-- The chunk holds one of the items, in a signature or as a translation line (R252, R346), or tests so (R245). -/
def Chunk.meets (c : Chunk) (items : List Nat) : Bool :=
  !c.granted && (items.any (fun x =>
    if 2 ^ 90 ≤ x then x - 2 ^ 90 ∈ c.reads || x - 2 ^ 90 ∈ c.writes
    else x ∈ c.reads || x ∈ c.writes || x ∈ c.trans) || sigAliases (c.reads ++ c.writes) items)

/-- The oldest chunk of a slot that a signature meets. -/
def Thread.firstMet (t : Thread) (items : List Nat) : Option Nat :=
  t.chunks.findIdx? (fun c => c.meets items)

/-- The oldest chunk of a slot that used a translation line its own older commit wrote (R346). -/
def Thread.firstStale (t : Thread) (items : List Nat) : Option Nat :=
  t.chunks.findIdx? (fun c => !c.granted && items.any (fun x => x ∈ c.trans))

/-- Deliver one signature: squash every chunk of another slot that it meets (R252), and of its own slot those that used a translation
it changes (R346); a stopped cluster has its stop signature (R327). -/
def State.deliverSig (s : State) (src : Nat) (items : List Nat) : State :=
  (s.threads.map (·.1)).foldl (fun s gs =>
    if slotCount ≤ gs then s
    else
      match (if gs + 1 = src then (s.thread gs).firstStale items else (s.thread gs).firstMet items) with
      | none => s
      | some i => s.squash gs i true false) s

/-! Event rings (R306, R390, R391). -/

/-- The event record of Table 23.1. -/
def eventRecord (s : State) (type part vf serial place : Nat) (body : List Word) : List Byte :=
  leBytes 8 (type * 2 ^ 56 + part * 2 ^ 51 + vf * 2 ^ 43 + serial % 2 ^ 32) ++ leBytes 8 s.cycle ++ leBytes 8 place ++
    ((List.range 5).flatMap (fun i => leBytes 8 (body.getD i 0).toNat))

/-- Raise an interrupt at a slot (R306, R314). -/
def State.raise (s : State) (gs level code : Nat) : State :=
  let t := s.thread gs
  if t.live then s.setThread gs { t with pend := t.pend ++ [⟨level, code⟩] } else s

/-- The code of the notice of a record: CONTAINMENT for a containment record, else 0 (R306). -/
def noticeCode (type : Nat) : Nat := if type = 9 then 14 else 0

/-- Write a record to the hyper ring and raise its notice (R390); nothing before the first HSET. -/
def State.postHyper (s : State) (type part vf place : Nat) (body : List Word) : State :=
  let elog := bits s.hring 4 0
  if elog = 0 then s
  else
    let idx := (s.hserial - 1) % 2 ^ elog
    let rec_ := eventRecord s type part vf s.hserial place body
    let s1 := { s with hserial := s.hserial + 1 }.performAll none [.write (bits s.hring 56 12 * 4096 + 64 * idx) rec_]
    s1.raise (bits s.hslot 17 0) 2 (noticeCode type)

/-- The package slot of a place word in a function: LCL 17:9, CORE 8:6, SLOT 5:0. -/
def VFunc.slotOfPlace (v : VFunc) (place : Nat) : Option Nat :=
  (v.cmap[place / 512 % 512]?).map (fun pc => 512 * pc + place % 512)

/-- The place word of a slot in a function (Table 23.1). -/
def VFunc.placeOf (v : VFunc) (gs : Nat) : Nat :=
  match v.logical (clusterOf gs) with
  | some l => 512 * l + gs % 512
  | none => 0

/-- Write a record of a function's kernel ring: into a page that a migration has not brought yet when that page has come, which is pulled
(R341, R388). -/
def State.writeEvent (s : State) (vf : Nat) (v : VFunc) (ipa : Nat) (bs : List Byte) : State :=
  if v.mstate = 4 ∧ ipa < v.sbound ∧ !s.present v ipa then
    let s1 := s.askPull vf (ipa / 65536)
    let m := s1.mig vf
    { s1 with migs := mput s1.migs vf { m with late := m.late ++ [(ipa, bs)] } }
  else s.performAll none [.write (v.pa ipa) bs]

/-- Write a record to a function's kernel ring and raise its notice (R390). -/
def State.postKernel (s : State) (vf type place : Nat) (body : List Word) : State :=
  match mget s.vfs vf with
  | none => s
  | some v =>
    if v.elog = 0 then s
    else
      let idx := (v.serial - 1) % 2 ^ v.elog
      let rec_ := eventRecord s type v.part vf v.serial place body
      let s1 := { s with vfs := mput s.vfs vf { v with serial := v.serial + 1 } }.writeEvent vf v (v.evr + 64 * idx) rec_
      match v.slotOfPlace (bits v.eslot 17 0) with
      | some gs => s1.raise gs 1 (noticeCode type)
      | none => s1

/-! Levels, the commit sequence and the log (R246, R251, R261 to R263). -/

/-- The level one item needs from a slot: 0 cluster, 1 die, 2 package (Table 10.3). -/
def itemLevel (gs item : Nat) : Nat :=
  if 2 ^ 80 ≤ item then 0
  else
    let pa := 128 * item
    if isSpad pa then
      if spadCore pa / 8 = clusterOf gs then 0 else if homeDie pa = dieOf gs then 1 else 2
    else if isHbm pa then (if homeDie pa = dieOf gs then 1 else 2)
    else 2

/-- The kinds of a log entry (Table 10.5). -/
def kindChunk : Nat := 0
def kindSingle : Nat := 1
def kindEngine : Nat := 2

/-- POLICY as it applies to a request of a slot (R235): a chunk's as it began, a singleton's as the slot stands, and an engine chunk's
the partition's. -/
def State.policyAt (s : State) (gs kind : Nat) : Nat :=
  if kind = kindChunk then s.requestPolicy gs else if kind = kindSingle then s.policyNow gs else s.policyOf gs

/-- The level of a request of a kind with these items (Table 10.3); a recorded one commits at package level (R246). -/
def State.levelOf (s : State) (gs kind : Nat) (items : List Nat) : Nat :=
  if s.policyAt gs kind / 2 = 1 then 2 else items.foldl (fun l i => max l (itemLevel gs i)) 0

/-- The function of the thread whose matrix command still runs at a slot that the thread has left: the slot stays its own until then
(R231, R261). -/
def State.commandFn (s : State) (gs : Nat) : Option Nat :=
  ((s.matq.flatMap (·.2)).find? (fun (c : MatCmd) => c.gs == gs && c.running)).bind (·.fn)

/-- The function a slot's grants are of: its thread's, or that of the command that outlasts it. -/
def State.grantFn (s : State) (gs : Nat) : Option Nat := if (s.thread gs).live then (s.thread gs).vf else s.commandFn gs

/-- The thread fields of a log entry: LCL 17:9, CORE 8:6, SLOT 5:0 (Table 10.5). -/
def State.logPlace (s : State) (gs : Nat) : Nat :=
  match (s.grantFn gs).bind (mget s.vfs) with
  | some v => v.placeOf gs
  | none => gs % 512

/-- The answer of the log to a request: grant, hold, or stop the partition's grants (R262, R263). -/
inductive Gate where
  | go
  | wait
  | diverge (expected : Word)
deriving DecidableEq, Repr

/-- Whether a partition's log lets a request be granted (R262, R263): replay, and the room of a log, end with the partition's POLICY. -/
def State.gate (s : State) (gs kind len : Nat) : Gate :=
  match s.partRec gs with
  | none => .go
  | some p =>
    let pol := s.policyAt gs kind
    if p.stopped then .wait
    else if pol / 2 = 1 then (if p.policy / 2 = 1 ∧ p.logLen < p.logPos + 8 then .wait else .go)
    else if pol / 2 = 2 ∧ p.policy / 2 = 2 then
      if p.logLen < p.logPos + 8 then .diverge 0
      else
        let e := s.dwordAt (p.logBase + p.logPos)
        if bits e 17 0 ≠ s.logPlace gs then .wait
        else if bits e 39 38 = kind ∧ bits e 31 18 = len then .go else .diverge e
    else .go

/-- The log entry of a grant (Table 10.5). -/
def State.logEntry (s : State) (gs kind len : Nat) : Nat :=
  s.pkgSeq.toNat % 2 ^ 24 * 2 ^ 40 + kind * 2 ^ 38 + len * 2 ^ 18 + s.logPlace gs

/-- Count a grant: the package commit sequence, and the log entry or the log position (R251, R261, R263).
A log left without room for another entry raises the log-full event (R262). -/
def State.noteGrant (s : State) (gs kind len level : Nat) : State :=
  let s1 := if level = 2 then { s with pkgSeq := s.pkgSeq + 1 } else s
  let pol := s.policyAt gs kind
  match s.partOf gs, s.partRec gs with
  | some pid, some p =>
    if pol / 2 = 1 ∧ p.logPos + 8 ≤ p.logLen then
      let s2 := { s1 with parts := mput s1.parts pid { p with logPos := p.logPos + 8 } }.performAll none
        [.write (p.logBase + p.logPos) (leBytes 8 (s1.logEntry gs kind len))]
      if p.logLen < p.logPos + 16 then s2.postHyper 11 pid 0 0 [] else s2
    else if pol / 2 = 2 ∧ p.policy / 2 = 2 then { s1 with parts := mput s1.parts pid { p with logPos := p.logPos + 8 } }
    else s1
  | _, _ => s1

/-- Stop a partition's grants after a replay divergence (R263). -/
def State.divergence (s : State) (gs kind len : Nat) (expected : Word) : State :=
  match s.partOf gs, s.partRec gs with
  | some pid, some p =>
    { s with parts := mput s.parts pid { p with stopped := true } }.postHyper 12 pid ((s.grantFn gs).getD 0) gs
      [expected, BitVec.ofNat 64 (s.logEntry gs kind len)]
  | _, _ => s

end Sys2Proof.Machine
end

