-- ==== Sys2Proof/Machine/Key.lean ====
section
/-!
DEFINITION. Launches as their records give them, the key order of deterministic launches and the task order of ordered
ones (R288, R290, R297 to R304).
-/

namespace Sys2Proof.Machine

/-! Fields of a launch record (Table 14.2). -/

def lrEntry (r : List Word) : Word := addr57 (dw r 0)
def lrArg (r : List Word) : Word := dw r 1
def lrD (r : List Word) : Nat := bits (dw r 2) 39 16 + 1
def lrL (r : List Word) : Nat := bits (dw r 2) 15 9 + 1
def lrC (r : List Word) : Nat := bits (dw r 2) 8 6 + 1
def lrT (r : List Word) : Nat := bits (dw r 2) 5 0 + 1
def lrSpb (r : List Word) : Nat := bits (dw r 3) 50 32
def lrVclh (r : List Word) : Nat := bits (dw r 3) 29 20
def lrUE (r : List Word) : Bool := bit (dw r 3) 19
def lrOrd (r : List Word) : Bool := bit (dw r 3) 18
def lrDet (r : List Word) : Bool := bit (dw r 3) 17
def lrDir (r : List Word) : Bool := bit (dw r 3) 16
def lrSlots (r : List Word) : Nat := bits (dw r 3) 14 8
def lrWin (r : List Word) : Nat := bits (dw r 3) 6 0
def lrEvAddr (r : List Word) (i : Nat) : Word := addr57 (dw r (4 + 2 * i))
def lrEvTgt (r : List Word) (i : Nat) : Word := dw r (5 + 2 * i)
def lrCev (r : List Word) : Word := addr57 (dw r 12)
def lrCrec (r : List Word) : Word := addr57 (dw r 13)
def lrPmap (r : List Word) : Word := addr57 (dw r 14)
def lrTpool (r : List Word) : Nat := bits (dw r 15) 56 12 * 4096
def lrPlog (r : List Word) : Nat := bits (dw r 15) 4 0

/-- Core groups of a launch. -/
def lrGroups (r : List Word) : Nat := lrD r * lrL r * lrC r

/-- The checks of R288 on a record as read: reserved bits and ranges, then the combinations. -/
def lrValid (r : List Word) : Bool :=
  bits (dw r 0) 63 57 == 0 && bits (dw r 0) 1 0 == 0 &&
  bits (dw r 2) 63 40 == 0 && bits (dw r 2) 39 16 != 0xFFFFFF && decide (lrL r ≤ 96) &&
  bits (dw r 3) 63 51 == 0 && bits (dw r 3) 31 30 == 0 && !bit (dw r 3) 15 && !bit (dw r 3) 7 &&
  decide (lrSpb r % 16 = 0 ∧ lrSpb r ≤ 262144) && decide (lrVclh r % 32 = 0 ∧ lrVclh r ≤ 512) &&
  decide (1 ≤ lrSlots r ∧ lrSlots r ≤ 64) && decide (lrWin r % 8 = 0 ∧ 8 ≤ lrWin r ∧ lrWin r ≤ 112) &&
  (List.range 4).all (fun i => bits (dw r (4 + 2 * i)) 63 57 == 0 && bits (dw r (4 + 2 * i)) 2 0 == 0) &&
  bits (dw r 12) 63 57 == 0 && bits (dw r 12) 2 0 == 0 &&
  bits (dw r 13) 63 57 == 0 && bits (dw r 13) 4 0 == 0 &&
  bits (dw r 14) 63 57 == 0 && bits (dw r 14) 6 0 == 0 &&
  bits (dw r 15) 63 57 == 0 && bits (dw r 15) 11 5 == 0 &&
  !(lrDet r && lrOrd r) && !(lrOrd r && lrDir r) && decide (lrSlots r * lrWin r ≤ 2048) && decide (lrT r ≤ lrSlots r) &&
  (if lrOrd r then decide (12 ≤ lrPlog r ∧ lrPlog r ≤ 24) else bits (dw r 15) 56 12 == 0)

/-! Keys (R298). -/

/-- The logical thread number G of group indices (R290). -/
def logicalG (r : List Word) (gid : List (BitVec 32)) : Nat :=
  (((gid.getD 3 0).toNat * lrL r + (gid.getD 2 0).toNat) * lrC r + (gid.getD 1 0).toNat) * lrT r + (gid.getD 0 0).toNat

/-- The number of a thread's core group in its launch, in the order of (GID3, GID2, GID1) (R291). -/
def groupOf (r : List Word) (gid : List (BitVec 32)) : Nat := logicalG r gid / lrT r

/-- Paths are compared by their child numbers in order; a path comes before its own extensions (R298). -/
def pathBefore : List Nat → List Nat → Bool
  | [], [] => false
  | [], _ :: _ => true
  | _ :: _, [] => false
  | a :: as, b :: bs => decide (a < b) || (a == b && pathBefore as bs)

/-- One key stands before another (R298). -/
def keyBefore (a b : Nat × Nat × List Nat) : Bool :=
  decide (a.1 < b.1) || (a.1 == b.1 && (decide (a.2.1 < b.2.1) || (a.2.1 == b.2.1 && pathBefore a.2.2 b.2.2)))

/-- The key of a thread. -/
def Thread.key (t : Thread) (r : List Word) : Nat × Nat × List Nat := (t.ent, logicalG r t.gid, t.path)

/-- The key of a child that has not started. -/
def Child.key (c : Child) (r : List Word) : Nat × Nat × List Nat := (c.ent, logicalG r c.gid, c.path)

/-- One task stands before another: timestamp, then creation number (R303). -/
def taskBefore (a b : Nat × Nat) : Bool := decide (a.1 < b.1) || (a.1 == b.1 && decide (a.2 < b.2))

/-- The tasks an ordered launch starts with (R303). -/
def Launch.initial (l : Launch) : Nat := lrGroups l.record * lrT l.record

/-- Pending tasks in the pool (R303). -/
def Launch.pending (l : Launch) : Nat := l.tasks.length + (l.initial - l.first)

/-- The keys of the pending tasks, the initial ones by their first. -/
def Launch.taskKeys (l : Launch) : List (Nat × Nat) :=
  l.tasks.map (fun x => (x.ts.toNat, x.num)) ++ (if l.first < l.initial then [(0, l.first)] else [])

/-- The threads of a launch: those in slots, and those a handover has taken off theirs (R322). -/
def State.launchThreads (s : State) (lid : Nat) : List (Nat × Thread) :=
  s.threads.filter (fun p => p.2.live && p.2.lid == some lid) ++
    (s.away.filter (fun a => a.t.lid == some lid)).map (fun a => (noSlot, a.t))

/-- A fallback in progress: it has performed a unit (R253). -/
def Thread.inFallback (t : Thread) : Bool := match t.fallback with | some f => decide (0 < f.len) | none => false

/-- The slot's place has come: in a deterministic launch its key is the least of the launch's threads and waiting children
(R298), or its fallback is in progress, which no other entry passes (R253; log entry 73); in an ordered launch its task is the earliest
uncommitted one (R304), pending tasks of a launch that is ending no longer counting (R323). -/
def State.keyTurn (s : State) (gs : Nat) : Bool :=
  let t := s.thread gs
  match t.lid.bind (fun l => (mget s.launches l).map (fun x => (l, x))) with
  | none => true
  | some (lid, l) =>
    let others := (s.launchThreads lid).filter (fun p => p.1 != gs)
    if t.det then
      let k := t.key l.record
      t.inFallback || !others.any (fun p => p.2.inFallback) &&
      others.all (fun p => !keyBefore (p.2.key l.record) k) && l.children.all (fun c => !keyBefore (c.key l.record) k)
    else if t.ord then
      let k := (t.ts.toNat, t.order)
      others.all (fun p => !taskBefore (p.2.ts.toNat, p.2.order) k) &&
        (decide (l.ending ≠ 0) || l.taskKeys.all (fun x => !taskBefore x k))
    else true

end Sys2Proof.Machine
end

