-- ==== Sys2Proof/Machine/Arbiter.lean ====
section
/-!
DEFINITION. The arbiters: the requests of chunks, of singletons and of the writes that take their place at once, and which of two that
conflict stands first (R247, R248, R250, R255).
-/

namespace Sys2Proof.Machine

/-- A request at the arbiters: its slot, the cycle in which it arrived, its level and its items (R247, R250). -/
structure Req where
  gs : Nat
  cyc : Nat
  level : Nat
  reads : List Nat
  writes : List Nat
deriving DecidableEq, Repr

/-- Two requests conflict: one writes what the other reads or writes, or their signatures test so (R245). -/
def Req.conflicts (a b : Req) : Bool :=
  a.writes.any (fun x => x ∈ b.reads || x ∈ b.writes) || b.writes.any (fun x => x ∈ a.reads || x ∈ a.writes) ||
    sigAliases (a.reads ++ a.writes) b.writes || sigAliases (b.reads ++ b.writes) a.writes

/-- One arbiter decides both requests: they need the same level, in one cluster or on one die (R247). -/
def Req.sameArbiter (a b : Req) : Bool :=
  a.level == b.level &&
    (match a.level with
     | 0 => clusterOf a.gs == clusterOf b.gs
     | 1 => dieOf a.gs == dieOf b.gs
     | _ => true)

/-- A request stands before another: one that arrived in an earlier cycle, where one arbiter decides both or they conflict, since the
three levels act as one arbiter between those (R248); of those that arrived in one cycle and conflict, the one from the lower die, cluster,
core and slot (R250, R255). -/
def Req.first (a b : Req) : Bool :=
  if a.cyc < b.cyc then a.sameArbiter b || a.conflicts b else a.cyc == b.cyc && decide (a.gs < b.gs) && a.conflicts b

/-- The pool of a slot's launch takes n more tasks (R303). -/
def State.poolRoom (s : State) (gs n : Nat) : Bool :=
  match (s.thread gs).lid.bind (mget s.launches) with
  | some l => n == 0 || decide (l.pending + n ≤ 2 ^ lrPlog l.record)
  | none => true

/-- Tasks among deferred effects. -/
def spawnsOf (ds : List Deferred) : Nat := (ds.filter (fun d => match d with | .tspawn .. => true | _ => false)).length

/-- A chunk's request may be decided: its place in a deterministic or ordered launch has come, and its partition's log lets the request
through (R250, R262, R263, R298, R304). -/
def State.decidable (s : State) (gs : Nat) (c : Chunk) : Bool :=
  let t := s.thread gs
  s.runs gs && (!(t.det || t.ord) || s.keyTurn gs) && s.gate gs kindChunk c.len == .go && s.poolRoom gs (spawnsOf c.deferred)

/-- A slot's singleton may be decided: in a deterministic launch its place has come, and the log lets it through (R255, R262, R263, R298). -/
def State.singleDecidable (s : State) (gs : Nat) : Bool :=
  s.runs gs && (!(s.thread gs).det || s.keyTurn gs) && s.gate gs kindSingle 1 == .go

/-- The request of a chunk. -/
def State.chunkReq (s : State) (gs cyc : Nat) (c : Chunk) : Req := ⟨gs, cyc, s.levelOf gs kindChunk (c.reads ++ c.writes), c.reads, c.writes⟩

/-- The request of a singleton. -/
def State.singleReq (s : State) (gs cyc : Nat) (effs : List Eff) : Req := ⟨gs, cyc, s.levelOf gs kindSingle (itemsOf effs), [], itemsOf effs⟩

/-- What a slot has at the arbiters that can be decided: a chunk, a counted store, or a write that takes its place at once and waits for
another request; one that is held for another reason stands aside (log entry 83). -/
def State.requestOf (s : State) (gs : Nat) : Option Req :=
  let t := s.thread gs
  match t.chunks, t.stores, t.arrivals with
  | c :: _, _, _ =>
    match c.requested with
    | some n => if !c.granted && s.decidable gs c then some (s.chunkReq gs n c) else none
    | none => none
  | [], (effs :: _) :: _, n :: _ => if s.singleDecidable gs then some (s.singleReq gs n effs) else none
  | [], [], _ =>
    match t.hold with
    | some (.request n items) => if s.singleDecidable gs then some ⟨gs, n, s.levelOf gs kindSingle items, [], items⟩ else none
    | _ => none
  | _, _, _ => none

/-- Another slot's request stands before one (R250, R255). -/
def State.earlierRequest (s : State) (r : Req) : Bool :=
  s.threads.any (fun p => p.1 != r.gs && (match s.requestOf p.1 with | some q => q.first r | none => false))

/-- A request that no slot holds at the arbiters, of an engine or of a home for an edge atomic, arrives now: another's stands before it
(R250, R257). -/
def State.behindRequest (s : State) (r : Req) : Bool :=
  s.threads.any (fun p => match s.requestOf p.1 with | some q => q.first r | none => false)

/-- The cycle in which a write of a slot that takes its place at once arrived: the present one, unless it waits already (R250). -/
def State.arrivedAt (s : State) (gs : Nat) : Nat :=
  match (s.thread gs).hold with
  | some (.request n _) => n
  | _ => s.cycle

/-- The host may hold one of the lines, or has not answered its back-invalidation (R349). -/
def State.hostHolds (s : State) (items : List Nat) : Bool :=
  items.any (fun l => s.hostInval.contains l || (mget s.hostLines l).isSome)

/-- A remote store that has been granted is still on its way to one of the lines: the bank holds every access to it (R247, R274). -/
def State.remoteHolds (s : State) (items : List Nat) : Bool :=
  s.remotes.any (fun r => (linesOf r.1 r.2.length).any (fun l => items.contains l))

/-- The lines at which effects are held by a bank; a store to another cluster's scratchpad is a message behind the earlier ones (R240,
R274). -/
def heldItems (effs : List Eff) : List Nat := effs.flatMap (fun e => match e with | .remote .. => [] | e => e.items)

/-- A write of a slot that arrived in a cycle may take its place: no earlier request stands before it, no bank holds a line of it, and the
host holds none (R250, R274, R349). -/
def State.mayPlace (s : State) (gs cyc : Nat) (effs : List Eff) : Bool :=
  !s.earlierRequest (s.singleReq gs cyc effs) && !s.remoteHolds (heldItems effs) && !s.hostHolds (itemsOf effs)

/-- A request that arrives now waits: for a remote store on its way to a line of it (R274), for an earlier request it conflicts with (R250),
for the host to give up a line that it writes (R349); the state that waits. -/
def State.requestWait (s : State) (r : Req) : Option State :=
  if s.remoteHolds (r.reads ++ r.writes) || s.behindRequest r then some s
  else if s.hostHolds r.writes then some (s.backInvalidate r.writes)
  else none

/-- An engine chunk of a slot waits (R257). -/
def State.engineWait (s : State) (gs : Nat) (reads writes : List Nat) : Option State :=
  s.requestWait ⟨gs, s.cycle, s.levelOf gs kindEngine (reads ++ writes), reads, writes⟩

end Sys2Proof.Machine
end

