-- ==== Sys2Proof/Machine/Translate.lean ====
section
/-!
DEFINITION. The two-stage translation of an access, its checks in their order, and the accessed and dirty bits
(R333 to R346).
-/

namespace Sys2Proof.Machine

/-- The kinds of access of Table 18.5. -/
inductive Acc where
  | read
  | write
  | fetch
  | rmw
deriving DecidableEq, Repr

/-- The ACC code of a kind (Table 16.2). -/
def Acc.code : Acc → Nat
  | .read => 0
  | .write => 1
  | .fetch => 2
  | .rmw => 3

/-- A translation fault at an address. -/
def xFault (cause : Cause) (acc : Acc) (orig : Nat) (va : Word) : Stop :=
  .trap { cause := cause, av := true, acc := acc.code, orig := orig, info1 := va,
          whole := acc = .fetch, fetch := acc = .fetch }

/-- What a translation gives: the address, the translation lines it used, the entry whose A and D bits the access sets, and what may be
kept of a leaf with G = 1 (R345). -/
structure XOk where
  addr : Nat
  lines : List Nat
  pte : Option Nat
  glob : Option Global := none
deriving DecidableEq, Repr

namespace State

/-- Checks 3 to 6 of R343 on an intermediate address of a function: window, presence, ownership of the bank, map. A page whose pull has
failed for the unit at issue is absent (R341). -/
def stageTwo (s : State) (vid : Nat) (v : VFunc) (ipa : Nat) (acc : Acc) (va : Word) : Except Stop (Nat × List Nat) :=
  match v.window ipa with
  | none => .error (xFault .segmentBound acc 1 va)
  | some pa =>
    let seg := decide (ipa < v.sbound)
    let ln := if seg then [lineOf (v.presenceByte ipa)] else []
    if seg && s.scrubbing vid (pa / 65536) then .error (.hold .retry)
    else if seg && !s.present v ipa then
      if v.mstate = 4 && !v.linkLost && s.th.hold != some (.pullFailed vid (ipa / 65536)) then .error (.hold (.pull vid (ipa / 65536)))
      else .error (xFault .pageAbsent acc 1 va)
    else if isParked pa && !isSpadRange ipa then .error (xFault .segmentBound acc 1 va)
    else if isSpad pa && s.bankOwner (spadCore pa / 8) (spadBank pa) ≠ some v.part then
      .error (xFault .pageProtection acc 2 va)
    else if isMapped pa || (isParked pa && isSpadRange ipa) then .ok (pa, ln)
    else .error (xFault .segmentBound acc 1 va)

/-- A table read of a context: through stage two, or physical for the hypervisor's own context (R334, R335). -/
def tableRead (s : State) (ctx : Option (Nat × VFunc)) (ipa : Nat) (acc : Acc) (va : Word) :
    Except Stop (Nat × List Nat) := do
  let (pa, ls) ←
    match ctx with
    | some (vid, v) => s.stageTwo vid v ipa acc va
    | none => if isMapped ipa then .ok (ipa, []) else .error (xFault .segmentBound acc 1 va)
  if s.poisoned (pa / 8) then .error (xFault .dataPoison acc 0 va)
  else .ok (pa, lineOf pa :: ls)

end State

/-- A leaf of stage one: its level, the entry, the physical address of the entry. -/
structure Leaf where
  level : Nat
  pte : Word
  ptePa : Nat
deriving DecidableEq, Repr

/-- A pointer entry is malformed (R338). -/
def badPointer (e : Word) : Bool :=
  bits e 59 54 != 0 || bits e 11 10 != 0 || bits e 9 2 != 0 || bit e 52 || bit e 53

/-- The low address bits a leaf must keep zero (Table 18.2): the page size. -/
def pageSize (level : Nat) (span : Bool) : Nat :=
  if level = 0 then (if span then 65536 else 4096)
  else if level = 1 then (if span then 2 ^ 25 else 2 ^ 21)
  else 2 ^ 30

/-- A leaf entry is malformed at a level (R338). -/
def badLeaf (level : Nat) (e : Word) : Bool :=
  bits e 59 54 != 0 || bits e 11 10 != 0 || decide (3 ≤ level) || (bit e 9 && decide (level = 2)) ||
    (bit e 3 && !bit e 2) || bits e 51 12 * 4096 % pageSize level (bit e 9) != 0

/-- The fault of a malformed entry: PAGE_ABSENT, with the table-error event to the function whose table it is (R338). -/
def malformed (ctx : Option (Nat × VFunc)) (acc : Acc) (va : Word) (level ipa : Nat) : Stop :=
  .trap { cause := .pageAbsent, av := true, acc := acc.code, orig := 0, info1 := va,
          whole := acc = .fetch, fetch := acc = .fetch, table := ctx.map (fun c => (c.1, level, ipa)) }

/-- The fields of a leaf in which the members of a span may not differ: all but A, D and SW (R337). -/
def spanFields (e : Word) : Word := e &&& 0x0FFFFFFFFFFFFE7F#64

/-- The entry that a translation through an entry of a group of 16 uses: where a leaf of the group has SPAN = 1 and another member differs
from the one indexed, that of any member (R337; log entry 70). -/
def State.spanEntry (s : State) (epa : Nat) (e : Word) : Word :=
  let es := (List.range 16).map (fun i => s.dwordAt (epa / 128 * 128 + 8 * i))
  if !es.any (fun m => bit m 0 && bit m 1 && bit m 9) || es.all (fun m => spanFields m == spanFields e) then e
  else es.getD (Config.spanMember s.fresh epa % 16) e

/-- Stage one: walk the tables from a level down (R335); an entry with V = 0 is absent, a malformed one too (R338), and a leaf with
MOV = 1 (R354). -/
def State.walk (s : State) (ctx : Option (Nat × VFunc)) (va : Word) (acc : Acc) :
    Nat → Nat → List Nat → Except Stop (Leaf × List Nat)
  | level, table, lines => do
    let idx := bits va (20 + 9 * level) (12 + 9 * level)
    let eipa := table + 8 * idx
    let (epa, ls) ← s.tableRead ctx eipa acc va
    let e := s.dwordAt epa
    let e := if level ≤ 1 then s.spanEntry epa e else e
    if !bit e 0 then .error (xFault .pageAbsent acc 0 va)
    else if bit e 1 then
      if badLeaf level e then .error (malformed ctx acc va level eipa)
      else if bit e 53 then .error (xFault .pageAbsent acc 0 va)
      else .ok (⟨level, e, epa⟩, lines ++ ls)
    else
      match level with
      | 0 => .error (malformed ctx acc va 0 eipa)
      | l + 1 =>
        if badPointer e then .error (malformed ctx acc va (l + 1) eipa)
        else s.walk ctx va acc l (bits e 51 12 * 4096) (lines ++ ls)

/-- The physical address of the entry at which a walk of stage one stops: a leaf, or an entry with V = 0. -/
def State.entryAt (s : State) (ctx : Option (Nat × VFunc)) (va : Word) : Nat → Nat → Option Nat
  | level, table =>
    match s.tableRead ctx (table + 8 * bits va (20 + 9 * level) (12 + 9 * level)) .read va with
    | .error _ => none
    | .ok (epa, _) =>
      let e := s.dwordAt epa
      match level with
      | 0 => some epa
      | l + 1 => if !bit e 0 || bit e 1 then some epa else s.entryAt ctx va l (bits e 51 12 * 4096)

/-- The entry for an address of a context of a function. -/
def State.entryOf (s : State) (vid : Nat) (v : VFunc) (asid : Nat) (va : Word) : Option Nat :=
  match s.tableRead (some (vid, v)) (v.ctxt + 16 * (asid - v.abase)) .read va with
  | .error _ => none
  | .ok (cpa, _) => s.entryAt (some (vid, v)) va 4 (bits (s.dwordAt cpa) 51 12 * 4096)

/-- The leaf grants the access at the level (Table 18.5, R344). -/
def leafGrants (e : Word) (acc : Acc) (level : Nat) : Bool :=
  let r := bit e 2
  let w := bit e 3
  let x := bit e 4
  let u := bit e 5
  (match acc with
   | .read => r
   | .write => w
   | .fetch => x
   | .rmw => r && w) &&
  (if level = 0 then u else !(u && decide (acc = .fetch)))

/-- The address a leaf gives: the page frame and the offset within the page (R336). -/
def leafAddr (l : Leaf) (va : Word) : Nat :=
  let size := pageSize l.level (bit l.pte 9)
  bits l.pte 51 12 * 4096 + va.toNat % size

/-- Untranslated addresses: bits 56:52 must be zero, and the address must lie in the map (R334). -/
def State.physical (_s : State) (va : Word) (acc : Acc) : Except Stop XOk :=
  if bits va 56 52 ≠ 0 then .error (xFault .segmentBound acc 1 va)
  else
    let pa := bits va 51 0
    if isMapped pa then .ok ⟨pa, [], none, none⟩ else .error (xFault .segmentBound acc 1 va)

/-- What is kept of a translation through a leaf with G = 1 (R345). -/
def keptGlobal (vid : Nat) (va : Word) (l : Leaf) (lines : List Nat) : Option Global :=
  let size := pageSize l.level (bit l.pte 9)
  if bit l.pte 6 then some ⟨vid, va.toNat / size, size, l.level, l.pte, l.ptePa, lines⟩ else none

/-- A peer page: the peer table names the part and its function (R342). The frame is taken within the leaf's page. -/
def State.peerTarget (s : State) (vid : Nat) (v : VFunc) (l : Leaf) (va : Word) (acc : Acc) (lines : List Nat) : Except Stop XOk :=
  if acc = .fetch then .error (xFault .pageProtection acc 0 va)
  else
    let pe := s.dwordAt (v.peert + 8 * bits l.pte 51 44)
    if !bit pe 0 then .error (xFault .segmentBound acc 1 va)
    else
      let size := pageSize l.level (bit l.pte 9)
      let ipa := bits l.pte 43 12 * 4096 / size * size + va.toNat % size
      let ls := lineOf (v.peert + 8 * bits l.pte 51 44) :: lines
      .ok ⟨peerAddr (bits pe 28 9) (bits pe 8 1) ipa, ls, some l.ptePa, keptGlobal vid va l ls⟩

/-- The leaf that a translation of a function uses: that of its own walk, or of a translation kept from a leaf with G = 1 of another ASID
(R345; log entry 71). -/
def State.leafFor (s : State) (vid : Nat) (va : Word) (own : Except Stop (Leaf × List Nat)) : Except Stop (Leaf × List Nat) :=
  match s.globals.find? (fun g => g.vf == vid && g.page == va.toNat / g.size) with
  | none => own
  | some g =>
    let same := match own with | .ok (l, _) => l.ptePa == g.ptePa && l.pte == g.pte | .error _ => false
    if !same && Config.globalHit s.fresh then .ok (⟨g.level, g.pte, g.ptePa⟩, g.lines) else own

/-- The translation of an effective address at a level, for a function and an ASID (R333, R334, R343). -/
def State.translate (s : State) (fn : Option Nat) (asid level : Nat) (va : Word) (acc : Acc) : Except Stop XOk := do
  if level = 3 then s.physical va acc
  else if level = 2 then
    if !bit s.hctx 0 then s.physical va acc
    else
      let (l, lines) ← s.walk none va acc 4 (bits s.hctx 51 12 * 4096) []
      if !leafGrants l.pte acc 1 then .error (xFault .pageProtection acc 0 va)
      else
        let pa := leafAddr l va
        if isMapped pa then .ok ⟨pa, lines, some l.ptePa, none⟩ else .error (xFault .segmentBound acc 1 va)
  else
    match fn, fn.bind (mget s.vfs) with
    | some vid, some v =>
      -- the context entry, by ASID within the function's range
      let cipa := v.ctxt + 16 * (asid - v.abase)
      let (cpa, cl) ← s.tableRead (some (vid, v)) cipa acc va
      let c0 := s.dwordAt cpa
      if !bit c0 0 then .error (xFault .pageAbsent acc 0 va)
      else
        let (l, lines) ← s.leafFor vid va (s.walk (some (vid, v)) va acc 4 (bits c0 51 12 * 4096) cl)
        if !leafGrants l.pte acc level then .error (xFault .pageProtection acc 0 va)
        else if bit l.pte 52 then s.peerTarget vid v l va acc lines
        else
          let (pa, ls) ← s.stageTwo vid v (leafAddr l va) acc va
          .ok ⟨pa, lines ++ ls, some l.ptePa, keptGlobal vid va l lines⟩
    | _, _ =>
      -- a thread of no function has no context below hyper level
      .error (xFault .pageAbsent acc 0 va)

/-- Set A, and D before a write, by an atomic OR at the entry's home (R339): a write performed outside any chunk, which hits monitors (R146)
and invalidates no translation. An entry that already has the bits is not written. -/
def State.setAD (s : State) (pte : Nat) (acc : Acc) : State :=
  let e := s.dwordAt pte
  let e1 := putBit e 7 true
  let e2 := if acc = .write ∨ acc = .rmw then putBit e1 8 true else e1
  if e2 = e then s
  else ((s.setBytes pte (leBytes 8 e2.toNat)).mapThreads (fun _ t => t.hitEntry (lineOf pte))).signal (some s.fs) [adItem (lineOf pte)]

/-- Keep a translation from a leaf with G = 1 (R345). -/
def State.keep (s : State) (g : Option Global) : State :=
  match g with
  | some g => if g ∈ s.globals then s else { s with globals := s.globals ++ [g] }
  | none => s

/-- Lines of host memory that a walk has read, fetched where no cache of the part holds them (R351). -/
def State.walkLines (s : State) (vf : Option Nat) (ls : List Nat) : State :=
  (ls.filter (fun l => isHost (128 * l))).foldl (fun (s : State) l => s.countFetch vf l) s

/-- Translate for an engine or the scheduler, which is no thread (R212, R412): the address, and the state with A and D set. -/
def State.engineXlat (s : State) (vf : Option Nat) (asid level : Nat) (va : Word) (acc : Acc) : Except Stop (Nat × State) :=
  match ({ s with fs := noSlot } : State).translate vf asid level va acc with
  | .error e => .error e
  | .ok x =>
    .ok (x.addr, ((match x.pte with
      | some p => { ({ s with fs := noSlot }.setAD p acc) with fs := s.fs }
      | none => s).walkLines vf x.lines).keep x.glob)

end Sys2Proof.Machine
end

