-- ==== Sys2Proof/Machine/Ops.lean ====
section
/-!
DEFINITION. The named operations of a unit: memory accesses and their checks (R116 to R119), the effects of stores,
the counters (R26 to R30), registers, streams (R134 to R141), traps taken and returned from (R232, R233, R305 to R316).
-/

namespace Sys2Proof.Machine

/-- A step of a unit's meaning: it reads and changes the state, or stops with no effect at all (R20, R35). -/
abbrev M (α : Type) := StateT State (Except Stop) α

namespace M

/-- Trap (Table 1.13). -/
def trap (t : Trap) : M α := fun _ => .error (.trap t)

/-- A trap with no address. -/
def cause (c : Cause) : M α := trap { cause := c }

/-- Leave rotation; the unit has no effect and issues again (R18). -/
def hold (h : Hold) : M α := fun _ => .error (.hold h)

/-- Stop unless a condition holds. -/
def require (b : Bool) (c : Cause) : M Unit := if b then pure () else cause c

/-- Hold until a condition holds (Table 1.13). -/
def until_ (b : Bool) : M Unit := if b then pure () else hold .retry

/-- Hold until a condition holds that a deterministic launch passes over (R299). -/
def untilTurn (b : Bool) : M Unit := if b then pure () else hold .turn

/-- Leave rotation after the effects so far: the unit issues again when its answer has come (R128, R130). -/
def park (h : Hold) : M Unit := modify (fun s => { s with unit := { s.unit with park := some h } })

/-- Lift a result that may stop. -/
def lift (r : Except Stop α) : M α := fun s =>
  match r with
  | .ok a => .ok (a, s)
  | .error e => .error e

end M

/-! The executing chunk (R238, R242). -/

/-- The executing chunk: the youngest, if it has not ended. -/
def Thread.cur (t : Thread) : Option Chunk :=
  match t.chunks.getLast? with
  | some c => if c.ended then none else some c
  | none => none

/-- Change the youngest chunk. -/
def Thread.modLast (t : Thread) (f : Chunk → Chunk) : Thread :=
  match t.chunks.getLast? with
  | some c => { t with chunks := t.chunks.dropLast ++ [f c] }
  | none => t

/-- Change the executing thread. -/
def modTh (f : Thread → Thread) : M Unit := modify (fun s => s.setTh (f s.th))

/-- Change its checkpointed state. -/
def modArch (f : Arch → Arch) : M Unit := modify (fun s => s.setArch (f s.arch))

/-- Record something in the executing chunk, in chunked mode only. -/
def modChunk (f : Chunk → Chunk) : M Unit :=
  modify (fun s => if s.isDirect then s else s.setTh (s.th.modLast f))

/-- Add to a set of items. -/
def addItems (l xs : List Nat) : List Nat := l ++ (xs.filter (fun x => !(x ∈ l))).dedup

/-- Enter lines in the read signature (R118, R244). -/
def noteReads (xs : List Nat) : M Unit := modChunk (fun c => { c with reads := addItems c.reads xs })

/-! Checked accesses. -/

/-- What reach an access needs (R117 step 3, Table 11.5). -/
inductive Reach where
  | load
  | store
  /-- Ordinary atomics, `cas`, `mona`: no peer page. -/
  | atomic
  /-- Edge atomics, and accesses that only read or name lines. -/
  | line
deriving DecidableEq, Repr

/-- A direct-mode store keeps the page it was issued to, by which it is translated again when it is performed (R346). -/
def State.aim (s : State) (va : Word) (pa level : Nat) : State :=
  let a : Aim := ⟨pa / 4096, va &&& ~~~4095, level⟩
  if s.isDirect then s.setTh { s.th with aims := a :: s.th.aims.erase a } else s

/-- Translate for the executing thread, record the translation lines and set A and D (R339, R343, R346). -/
def xlatAt (level : Nat) (va : Word) (acc : Acc) : M Nat := do
  let s ← get
  let x ← M.lift (s.before.translate s.th.vf s.th.asid level va acc)
  modChunk (fun c => { c with trans := addItems c.trans x.lines })
  modify (fun s => (x.lines.filter (fun l => isHost (128 * l))).foldl (fun (s : State) l =>
    (s.countFetch s.th.vf l).cohAsk (dieOf s.fs) l (s.partOf s.fs)) (s.keep x.glob))
  match x.pte with
  | some p =>
    modify (fun s => s.setAD p acc)
    if acc = .write then modify (fun s => s.aim va x.addr level) else pure ()
  | none => pure ()
  pure x.addr

/-- The address lies in the scratchpad of a core outside the executing core's cluster (R117 step 3). -/
def State.isRemote (s : State) (pa : Nat) : Bool := isSpad pa && decide (spadCore pa / 8 ≠ clusterOf s.fs)

/-- The fault a peer part returns to an access of a kind, if it does: its own stage two decides, and its memory may be poisoned (R129, R342;
log entry 72). -/
def peerFault (n pa : Nat) : Option Cause :=
  match Config.peerFault n pa % 5 with
  | 0 => none
  | 1 => some .pageAbsent
  | 2 => some .pageProtection
  | 3 => some .segmentBound
  | _ => some .dataPoison

/-- ORIG of a fault that a peer part returns (Table 16.2): stage two, but for poison. -/
def peerOrig (c : Cause) : Nat := if c = .dataPoison then 0 else 1

/-- The reach check of R117 step 3; an instruction fetch reaches no scratchpad (R273), and the peer part may answer a load with a fault
(R342). -/
def reachCheck (pa : Nat) (acc : Acc) (r : Reach) (va : Word) : M Unit := do
  let s ← get
  if isPeer pa && decide (acc = .read) && decide (r = .load) then
    M.until_ (s.peerUp (peerDev pa))
    match peerFault s.freshThen pa with
    | some c => M.lift (.error (xFault c acc (peerOrig c) va))
    | none => pure ()
  else if acc = .fetch && isSpad pa then M.lift (.error (xFault .pageProtection acc 2 va))
  else if s.isRemote pa && decide (r ≠ .store) then M.lift (.error (xFault .pageProtection acc 2 va))
  else if isPeer pa && decide (r = .atomic) then M.lift (.error (xFault .pageProtection acc 0 va))
  else pure ()

/-- A remote store on its way to a line makes the bank hold every access to it (R274). -/
def State.remotePending (s : State) (pa n : Nat) : Bool :=
  s.remotes.any (fun r => (linesOf r.1 r.2.length).any (fun l => l ∈ linesOf pa n))

/-- CheckAccess(ea, n, kind): the checks of R117, steps 1 to 3, with alignment to `align`; the physical address. -/
def checkAccess (va : Word) (n align : Nat) (acc : Acc) (r : Reach) : M Nat := do
  if va.toNat % align ≠ 0 then
    M.trap { cause := .misaligned, av := true, acc := acc.code, info1 := va }
  else
    let s ← get
    let pa ← xlatAt s.th.level va acc
    reachCheck pa acc r va
    let s ← get
    M.until_ (!s.before.remotePending pa n)
    pure pa

/-- Step 4 of R117: data that carries a poison marker, as a read of kind `k` sees it, traps with DATA_POISON. -/
def poisonCheck (k : Access) (pa n : Nat) (acc : Acc) (va : Word) : M Unit := do
  let s ← get
  if s.before.loadPoison s.fs k pa n then
    M.trap { cause := .dataPoison, av := true, acc := acc.code, info1 := va }
  else pure ()

/-- Direct-mode operations are entries of a deterministic launch, one for each singleton; an operation outside any chunk is
one entry in all (R298). -/
def countEntries (n : Nat) : M Unit := do
  let s ← get
  if s.th.det && s.th.directMode && !s.unit.outside then modTh (fun t => { t with ent := t.ent + n }) else pure ()

/-- The operations of the unit are entries of a deterministic launch, one for each singleton (R298). -/
def State.singly (s : State) : Bool := s.th.det && s.th.directMode && !s.unit.outside

/-- The n elements a load reads in direct mode are n singletons: the first is read at the issue, the others one after the other, and they
are n entries of a deterministic launch (R119, R163, R298). -/
def countReads (n : Nat) : M Unit := do
  let s ← get
  if s.th.directMode && !s.unit.outside && decide (0 < n) then
    modTh (fun t => { t with ent := if t.det then t.ent + 1 else t.ent, unread := n - 1 })
  else pure ()

/-- Every earlier store and push of a thread has been performed. -/
def Thread.drained (t : Thread) : Bool := t.stores.isEmpty && t.pushes.isEmpty

/-- Direct-mode memory operations are performed in order: none before every earlier store has been (R119). -/
def directOrder : M Unit := do
  let s ← get
  M.until_ (!s.isDirect || s.before.th.drained)

/-- Lines read by the unit: their die asks for them (R271, R351), and they enter the read signature; peer lines do neither
(R244, R259, R266). In direct mode the read has its place in the order, behind the writes of shared registers made so far (R25, R256). -/
def readLines (ls : List Nat) : M Unit := do
  let own := ls.filter (fun l => !isPeer (128 * l))
  modify (fun s => own.foldl (fun (s : State) l => (s.countFetch s.th.vf l).cohAsk (dieOf s.fs) l (s.partOf s.fs)) s)
  modify (fun s => if s.isDirect then s.sawShared s.fs else s)
  noteReads own

/-- The value of n bytes as a read of kind `k` finds it: in program order, or at the place it takes among the chunk's unordered
operations (R118, R119, R163). -/
def viewed (k : Access) (pa n : Nat) : M Nat := do
  let s ← get
  modify (fun s => { s with fresh := (s.before.drawn s.fs k pa n).fresh })
  pure (s.before.loadView s.fs k pa n)

/-- Read n bytes at an address: the checks of R117, the read signature, the value as the thread sees it (R118, R119); with the
physical address. -/
def memRead (va : Word) (n : Nat) : M (Nat × Nat) := do
  directOrder
  let pa ← checkAccess va n n .read .load
  poisonCheck .scalar pa n .read va
  readLines (linesOf pa n)
  countReads 1
  let v ← viewed .scalar pa n
  pure (pa, v)

/-- The effect of storing bytes at a physical address (R117 step 3, R260). -/
def State.effFor (s : State) (pa : Nat) (bs : List Byte) : Eff :=
  if s.isRemote pa then .remote pa bs
  else if isHost pa || isPeer pa then .edge pa bs
  else .write pa bs

/-! Room for speculative writes (R238, R240, R241). -/

/-- The lines an effect holds in L1 as uncommitted ones (R240). -/
def Eff.l1Lines : Eff → List Nat
  | .write pa bs | .edge pa bs => linesOf pa bs.length
  | _ => []

/-- The lines a chunk holds in L1, and those of all a thread's uncommitted chunks (R240). -/
def Chunk.l1Lines (c : Chunk) : List Nat := (c.log.flatMap (fun e => e.eff.l1Lines)).dedup
def Thread.l1Lines (t : Thread) : List Nat := ((t.chunks.filter (fun c => !c.granted)).flatMap Chunk.l1Lines).dedup

/-- Some set of 64 would hold more than 8 uncommitted lines (Table 11.2). -/
def overSet (ls : List Nat) : Bool :=
  decide (8 < ls.length) && ls.any (fun l => decide (8 < (ls.filter (fun m => l1Set m == l1Set l)).length))

/-- Lines beyond eight of their set: the spilled lines (R241). -/
def spilled (ls : List Nat) : Nat :=
  if ls.length ≤ 8 then 0
  else ((List.range 64).map (fun k => (ls.filter (fun l => l1Set l == k)).length - 8)).foldl (· + ·) 0

/-- The uncommitted lines of every slot of the executing core. -/
def State.coreLines (s : State) : List Nat :=
  ((s.threads.filter (fun p => coreOf p.1 == coreOf s.fs)).flatMap (fun p => p.2.l1Lines.map (fun l => l)))

/-- Room for an effect in the chunk, or the chunk ends before the instruction (R238, R240). In exact-count mode lines spill: a chunk that
spills a 257th is squashed, and one that finds the slot's area full of its older chunk's lines waits for that grant, so that chunk ends
depend on the program alone (R241). -/
def roomFor (e : Eff) : M Unit := do
  let s ← get
  let own := s.th.l1Lines
  let new := e.l1Lines.filter (fun l => !(l ∈ own))
  if new = [] then pure ()
  else if s.exactCount s.fs then
    if 256 < spilled (((s.th.cur.map Chunk.l1Lines).getD []) ++ new) then fun _ => .error .spill
    else M.until_ (decide (spilled (own ++ new) ≤ 256))
  else if overSet (s.coreLines ++ new) then fun _ => .error .cut else pure ()

/-- Take the place of one direct-mode write or outside operation in the order, through its partition's log and behind the requests that
stand before it (R250, R251, R256, R261 to R263, R274, R349). -/
def performNow (effs : List Eff) : M Unit := do
  let s ← get
  match s.gate s.fs kindSingle 1 with
  | .wait => M.hold .retry
  | .diverge e => fun _ => .error (.diverge kindSingle 1 e)
  | .go =>
    if s.mayPlace s.fs (s.arrivedAt s.fs) effs then
      modify (fun s => (s.noteGrant s.fs kindSingle 1 (s.levelOf s.fs kindSingle (itemsOf effs))).performAll (some s.fs) effs |>.sawShared s.fs)
      countEntries 1
    else M.hold (.request (s.arrivedAt s.fs) (itemsOf effs))

/-- Entries of the remote-store buffer in use by a slot (R240). -/
def Thread.rsbUsed (t : Thread) : Nat := ((t.chunks.filter (fun c => !c.granted)).map (·.rsb)).foldl (· + ·) 0

/-- Where an effect writes memory: the address and the bytes. -/
def Eff.span : Eff → Option (Nat × Nat)
  | .write pa bs | .remote pa bs | .edge pa bs => some (pa, bs.length)
  | .greg .. => none

/-- The n bytes at an address, the low bytes of a value, with those a store writes replaced. -/
def Eff.over (e : Eff) (pa n v : Nat) : Nat :=
  leNat ((leBytes n v).zipIdx.map (fun b => (e.byteAt (pa + b.2)).getD b.1))

/-- The store and n bytes at an address have a byte in common. -/
def Eff.hits (e : Eff) (pa n : Nat) : Bool := (List.range n).any (fun i => (e.byteAt (pa + i)).isSome)

/-- A counted load whose place among the chunk's operations is not before a later store may observe it (R163; log entry 69). -/
def Dest.late (k : Access) (e : Eff) (seed : Nat) : Dest → Dest
  | .x f v (some src) =>
    if !k.inOrder .scalar && e.hits src.pa src.n && Config.observesLater seed then
      let b := e.over src.pa src.n v.toNat
      .x f (if src.sx then signExt b (8 * src.n) else zeroExt b (8 * src.n)) (some src)
    else .x f v (some src)
  | .elems r w vs pas =>
    .elems r w ((vs.zip pas).zipIdx.map (fun p =>
      if e.hits p.1.2 (w / 8) && Config.observesLater (seed + p.2) then (p.1.1.1, e.over p.1.2 (w / 8) p.1.1.2) else p.1.1) ++
        vs.drop pas.length) pas
  | d => d

/-- The destination is one that a later store of the chunk may still reach. -/
def Dest.open_ (k : Access) (e : Eff) : Dest → Bool
  | .x _ _ (some src) => !k.inOrder .scalar && e.hits src.pa src.n
  | .elems _ w _ pas => pas.any (fun pa => e.hits pa (w / 8))
  | _ => false

/-- The first n counted loads with a later store of their chunk (R163); none of a deterministic launch observes it (R301). -/
def State.lateLoads (s : State) (n : Nat) (k : Access) (e : Eff) : State :=
  let t := s.th
  let (now, rest) := (t.loads.take n, t.loads.drop n)
  if !t.det && now.any (fun ds => ds.any (Dest.open_ k e)) then
    { s with fresh := s.fresh + 4096 * now.length }.setTh { t with
      loads := now.zipIdx.map (fun (p : List Dest × Nat) => p.1.zipIdx.map (fun (d : Dest × Nat) =>
        d.1.late k e (s.fresh + 4096 * p.2 + d.2))) ++ rest }
  else s

/-- Enter one effect of the executing unit in its chunk, at its place (R118, R163); `base` writes stood in the chunk before the unit. -/
def State.enter (s : State) (k : Access) (base : Nat) (e : Eff) : State :=
  match s.th.chunks.getLast? with
  | none => s
  | some c =>
    let p := match e.span with
      | some (pa, n) => s.passed s.fs base k pa n
      | none => 0
    let x : Entry := ⟨e, k, c.entered + 1, c.scn + 1, c.lcn + 1, false⟩
    let at_ := c.log.length - p
    let s1 := match e.span with
      | some (pa, n) => s.drawn s.fs k pa n
      | none => s
    s1.setTh (s1.th.modLast (fun c => { c with
      log := c.log.take at_ ++ x :: c.log.drop at_, entered := c.entered + 1, writes := addItems c.writes e.items }))

/-- Enter effects in the chunk's speculative state (R118); `entries` is what they take of the remote-store buffer. -/
def enterChunk (k : Access) (effs : List Eff) (entries : Nat) : M Unit := do
  let s ← get
  if entries ≠ 0 ∧ 64 < s.th.rsbUsed + entries then
    -- exact-count mode counts the chunk's own entries alone (R241)
    if s.exactCount s.fs && decide (((s.th.cur.map (·.rsb)).getD 0) + entries ≤ 64) then M.hold .retry else fun _ => .error .cut
  else
    let base := s.before.enteredOf s.fs
    let loads := s.before.th.loads.length
    for e in effs do
      roomFor e
      modify (fun s => (s.enter k base e).lateLoads loads k e)
    modChunk (fun c => { c with rsb := c.rsb + entries })

/-- The effect goes to the scratchpad of another cluster. -/
def Eff.isRemote : Eff → Bool
  | .remote .. => true
  | _ => false

/-- Raise SC for an operation with these singletons still to be performed; the arbiters rank them by their arrival (R26, R250). -/
def countIn (singles : List (List Eff)) : M Unit := do
  modify (fun s => s.setTh { s.th with stores := s.th.stores ++ [singles], arrivals := s.th.arrivals ++ [s.cycle] })
  modChunk (fun c => { c with scn := c.scn + 1 })

/-- Issue an instruction that counts in SC: its singletons' effects enter the chunk, or wait to be performed in order
(R26, R118, R119). -/
def countSingles (k : Access) (singles : List (List Eff)) (entries : Nat) : M Unit := do
  let s ← get
  M.until_ (decide (s.th.stores.length < 63))
  if s.isDirect then countIn singles
  else
    enterChunk k singles.flatten entries
    countIn []

/-- Issue a store of one singleton. -/
def countStore (effs : List Eff) : M Unit := countSingles .scalar [effs] (if effs.any Eff.isRemote then 1 else 0)

/-- Issue effects that count in no counter: write-stream pushes (R31, R138), the writes of atomics, shared registers (R25, R256). In direct
mode each takes its place at once, but for the pushes of a deterministic launch, whose places are its keys (R298). -/
def uncounted (k : Access) (effs : List Eff) : M Unit := do
  let s ← get
  match k, s.singly with
  | .push _, true => modTh (fun t => { t with pushes := t.pushes ++ [effs] })
  | _, _ =>
  if s.isDirect then
    directOrder
    performNow effs
  else enterChunk k effs (if effs.any Eff.isRemote then 1 else 0)

/-- A load counts in LC until its data is written to its destination (R26 to R29). -/
def countLoad (ds : List Dest) : M Unit := do
  let s ← get
  M.until_ (decide (s.th.loads.length < 63))
  modTh (fun t => { t with loads := t.loads ++ [ds] })
  modChunk (fun c => { c with lcn := c.lcn + 1 })

/-- The store effect of the low n bytes of a value at an address, checked (R117, R121). -/
def storeEff (va : Word) (n v : Nat) : M Eff := do
  directOrder
  let pa ← checkAccess va n n .write .store
  let s ← get
  pure (s.effFor pa (leBytes n v))

/-! Registers. -/

/-- A C-class register source: in a pair, as it stood before the unit (R14, R33). -/
def readX (f : Nat) : M Word := do
  let s ← get
  match s.unit.pre with
  | some p => pure (p.xs.getD f 0)
  | none => pure (s.getX f)

/-- A C-class register destination (R14). -/
def writeX (f : Nat) (v : Word) : M Unit := modify (fun s => s.setX f v)

/-- The checkpointed state a C-class instruction reads: in a pair, as it stood before the unit (R33). -/
def readArch : M Arch := do
  let s ← get
  pure s.before.arch

/-- A predicate as a source. -/
def readK (n : Nat) : M (BitVec 2048) := do
  let a ← readArch
  pure (a.kreg n)

/-- Write a one-bit result to all bits of a predicate (R23). -/
def writeKBit (n : Nat) (b : Bool) : M Unit :=
  modArch (fun a => a.setK n (if b then BitVec.allOnes 2048 else 0))

/-! Streams (R134 to R141). -/

/-- N: the elements of a stream. -/
def Stream.total (b : Stream) : Nat := b.dims.foldl (fun n d => n * d.1) 1

/-- ElemAddr(i) (R136). -/
def elemAddrGo : List (Nat × Int) → Nat → Word → Word
  | [], _, a => a
  | (c, st) :: rest, i, a => elemAddrGo rest (i / c) (a + BitVec.ofInt 64 ((i % c : Nat) * st))

/-- ElemAddr(i) (R136). -/
def Stream.elemAddr (b : Stream) (i : Nat) : Word := addr57 (elemAddrGo b.dims i b.base)

/-- Replace a stream binding of the executing thread. -/
def setStream (code : Nat) (b : Stream) : M Unit :=
  modArch (fun a => { a with ports := mput a.ports code (.stream b) })

/-- The position of a port before the unit, and the elements the unit has popped or pushed there. -/
def UnitCtx.walkedAt (u : UnitCtx) (code : Nat) (b : Stream) : Nat × Nat := mgetD u.walked code (b.pos, 0)

/-- One element of a stream port: a trap at it carries the port code and the position as it stood before the unit plus the elements
taken ahead of it (R139). -/
def atElement (code : Nat) (b : Stream) (m : M α) : M α := fun s =>
  let w := s.unit.walkedAt code b
  match m s with
  | .error (.trap t) =>
    .error (.trap { t with portc := some code, ev := true, info2 := BitVec.ofNat 64 (w.1 + w.2) })
  | .error e => .error e
  | .ok (x, s1) => .ok (x, { s1 with unit := { s1.unit with walked := mput s1.unit.walked code (w.1, w.2 + 1) } })

/-- The elements ahead of a stream's position that a pop may take: in chunked mode those prefetched (R138), in a deterministic launch only
those read at their key places in direct mode, whose elements observe exactly the stores issued before their pops (R298, R301). -/
def State.aheadOf (s : State) (b : Stream) : List Ahead := if s.th.det then (if s.singly then b.ahead else []) else if s.isDirect then [] else b.ahead

/-- The value of the element at a stream's position, at an address that has been checked: one read ahead of the pop, or memory's. A unit
that pops several in direct mode, in a deterministic launch, reads one at each of its key places (R298). -/
def readElement (code : Nat) (b : Stream) (pa n : Nat) : M Nat := do
  let s ← get
  match s.aheadOf b, s.unit.took with
  | p :: _, _ =>
    readLines (linesOf pa n)
    pure p.v
  | [], some (c, a) => fun _ => .error (.element c a)
  | [], none =>
    readLines (linesOf pa n)
    countEntries 1
    let v := s.before.viewNat s.fs pa n
    if s.singly then modify (fun s => { s with unit := { s.unit with took := some (code, ⟨v, lineOf pa, []⟩) } }) else pure ()
    pure v

/-- PopStream (R137): one element. -/
def popStream (code : Nat) (b : Stream) : M Nat := do
  let n := b.total
  let b0 := b
  let b := if b.pos = n ∧ b.wrap ∧ 0 < n then { b with pos := 0 } else b
  if b.pos = n then
    if b.trap then
      M.trap { cause := .streamEnd, portc := some code, ev := true, info2 := BitVec.ofNat 64 n }
    else
      setStream code { b with endFlag := true }
      pure 0
  else
    let sz := 2 ^ b.sz
    let v ← atElement code b0 (do
      directOrder
      let va := b.elemAddr b.pos
      let pa ← checkAccess va sz sz .read .load
      let s ← get
      if s.before.viewPoison s.fs pa sz then M.trap { cause := .dataPoison, av := true, acc := 0, info1 := va }
      else readElement code b pa sz)
    setStream code { b with pos := b.pos + 1, ahead := b.ahead.drop 1 }
    pure v

/-- One push to a write stream (R137). -/
def pushStream (code : Nat) (b : Stream) (v : Nat) : M Unit := do
  let n := b.total
  let b0 := b
  let b := if b.pos = n ∧ b.wrap ∧ 0 < n then { b with pos := 0 } else b
  if b.pos = n then
    if b.trap then
      M.trap { cause := .streamEnd, portc := some code, ev := true, info2 := BitVec.ofNat 64 n }
    else setStream code { b with endFlag := true }
  else
    let sz := 2 ^ b.sz
    atElement code b0 (do
      let e ← storeEff (b.elemAddr b.pos) sz v
      uncounted (.push code) [e])
    setStream code { b with pos := b.pos + 1 }

/-! Traps (R305 to R316) and the return from them (R233). -/

/-- EINFO0 of a trap (Table 16.2). -/
def Trap.einfo0 (t : Trap) : Word :=
  BitVec.ofNat 64 (t.afl.toNat * 2 ^ 35 + t.brkn * 2 ^ 28 + t.broken.toNat * 2 ^ 27 + t.held.toNat * 2 ^ 26 +
    t.portc.isSome.toNat * 2 ^ 25 + t.portc.getD 0 * 2 ^ 20 + t.ev.toNat * 2 ^ 19 + t.av.toNat * 2 ^ 18 +
    t.orig * 2 ^ 16 + t.acc * 2 ^ 14 + t.second.toNat * 2 ^ 13)

/-- EINFO3: the raising word and the other word of its pair, the two words of the unit when the cause concerns it whole,
zero for a fetch fault (R308). -/
def UnitCtx.einfo3 (u : UnitCtx) (t : Trap) : Word :=
  if t.fetch then 0
  else if t.second then (u.word ++ u.other)
  else (u.other ++ u.word)

/-- The status with PP(L), PIE(L) saved, IE cleared and PL set to L (R232). -/
def enterStatus (st : Word) (lev : Nat) : Word :=
  let pl := bits st 18 17
  let ie := bit st 16
  let st1 :=
    match lev with
    | 1 => putBit (putBits st 20 19 pl) 21 ie
    | 2 => putBit (putBits st 23 22 pl) 24 ie
    | _ => putBit (putBits st 26 25 pl) 27 ie
  putBits (putBit st1 16 false) 18 17 lev

/-- The status `eret` at a level leaves: PL from PP(L), IE from PIE(L) (R233). -/
def eretStatus (st : Word) (lev : Nat) : Word :=
  match lev with
  | 1 => putBit (putBits st 18 17 (bits st 20 19)) 16 (bit st 21)
  | 2 => putBit (putBits st 18 17 (bits st 23 22)) 16 (bit st 24)
  | _ => putBit (putBits st 18 17 (bits st 26 25)) 16 (bit st 27)

/-- Enter(L, code, epc) (R232), with the ECAUSE word and the EINFO words given. -/
def Thread.enter (t : Thread) (lev : Nat) (ecause epc : Word) (e0 e1 e2 e3 : Word) : Thread :=
  let b := t.bank lev
  let t1 := t.setBank lev { b with epc := epc, ecause := ecause, einfo0 := e0, einfo1 := e1, einfo2 := e2, einfo3 := e3 }
  let a := { t1.a with status := enterStatus t1.a.status lev, pc := b.tvec }
  { t1 with a := a, entry := true, hold := none, stepping := false }

/-- The level a synchronous cause is taken at (Table 16.4); DEBUG beyond debug routing goes as the last row. -/
def trapLevel (t : Trap) (lev : Nat) : Nat :=
  if t.orig ≠ 0 ∨ t.cause = .segmentBound then (if lev = 3 then 3 else 2) else max 1 lev

/-- The cause goes to the upcall vector (Table 16.4, first row). -/
def takesUpcall (th : Thread) (t : Trap) : Bool :=
  (t.cause == .pageAbsent || t.cause == .pageProtection) && t.orig == 0 && !t.held && th.level == 0 && th.ue

/-- Enter the handler of a synchronous cause (R232, R307, R308, R313). -/
def State.enterTrap (s : State) (t : Trap) (lev : Nat) : State :=
  (s.setTh (s.th.enter lev (BitVec.ofNat 64 t.cause.code) s.unit.addr t.einfo0 t.info1 t.info2 (s.unit.einfo3 t))).traceRec s.fs 2
    s.unit.addr (BitVec.ofNat 64 t.cause.code)

/-- The upcall frame of Table 16.5. -/
def upcallFrame (s : State) (t : Trap) : List Byte :=
  ([s.unit.addr, BitVec.ofNat 64 (s.th.upseq * 2 ^ 32 + t.cause.code), t.einfo0, t.info1, t.info2,
    s.unit.einfo3 t, (0 : Word), 0] : List Word).flatMap (fun w => leBytes 8 w.toNat)

/-- The user store of the frame, checked as eight doublewords and performed as singletons, none before every earlier store of the thread
has been (R119, R315). -/
def upcallStore (f : Word) (bytes : List Byte) : M Unit := do
  let s ← get
  M.until_ s.th.drained
  for i in List.range 8 do
    let va := f + BitVec.ofNat 64 (8 * i)
    let pa ← checkAccess va 8 8 .write .store
    let s ← get
    performNow [s.effFor pa ((bytes.drop (8 * i)).take 8)]

/-- Post the table-error event of a malformed entry to the function's kernel, with the place of the slot whose access met it, if a slot's
did (R338, R390, Table 23.2). -/
def State.postTable (s : State) (t : Trap) (slot : Option Nat := none) : State :=
  match t.table with
  | some (v, lev, ipa) =>
    let place := match slot with
      | some gs => if (s.thread gs).vf = some v then ((mget s.vfs v).map (VFunc.placeOf · gs)).getD 0 else 0
      | none => 0
    s.postKernel v 4 place [BitVec.ofNat 64 lev, BitVec.ofNat 64 ipa]
  | none => s

/-- A taken held copy fault is cleared (R214). -/
def State.clearHeld (s : State) (t : Trap) : State :=
  if t.held then s.setTh { s.th with heldFaults := s.th.heldFaults.eraseP (fun p => p.2 == t) } else s

/-- DEBUG goes to the debug port: debug routing is on for the thread's partition (R399). -/
def State.debugRouted (s : State) (t : Trap) : Bool :=
  t.cause == .debug && (match s.partOf s.fs with | some p => p ∈ s.dbgen | none => false)

/-- A debug stop (R399): the unit takes no effect, the slot keeps its thread and is not ready. -/
def State.debugStop (s : State) (t : Trap) : State :=
  s.setTh { s.th with halted := true, stepping := false, dbgCause := some t.brkn, hold := none }

/-- An access that takes an upcall at a region being moved is recorded with its SEQ, for up to 64 waiters of the move (R354). -/
def State.noteWaiter (s : State) (va : Word) : State :=
  match s.th.vf, s.vfRec s.fs with
  | some vid, some v =>
    match s.entryOf vid v s.th.asid va with
    | some e =>
      if bit (s.dwordAt e) 53 then
        { s with moves := s.moves.map (fun (m : Move) =>
            if m.vf = vid ∧ v.pa m.ptea ≤ e ∧ e < v.pa m.ptea + 128 ∧ m.waiters.length < 64 then
              { m with waiters := m.waiters ++ [(s.th.uid, s.th.upseq)] }
            else m) }
      else s
    | none => s
  | _, _ => s

/-- A unit of a deterministic launch that traps or is interrupted reads its stream elements anew (R298). -/
def Thread.forget (t : Thread) : Thread := if t.det then { t with a := t.a.rewound } else t

/-- Take a synchronous cause: by a debug stop, by the upcall, or by Enter at the level of Table 16.4 (R313, R315, R399). -/
def State.takeTrap (s : State) (t : Trap) : State :=
  let s0 := (s.postTable t (some s.fs)).clearHeld t
  let s1 := s0.setTh s0.th.forget
  if s1.debugRouted t then s1.debugStop t
  else if takesUpcall s1.th t then
    let f := s1.getX 2 - 64
    let bad := decide (s1.th.winLim < 32) || decide (f.toNat % 16 ≠ 0)
    -- the frame is stored outside any chunk
    match upcallStore f (upcallFrame s1 t) { s1 with unit := { s1.unit with outside := true } } with
    | .ok (_, s2) =>
      if bad then s1.enterTrap t 1
      else
        let s3 := ({ s2 with unit := s1.unit }.setX 2 f).setX 31 f
        let s4 := match s3.th.vf with
          | some v =>
            let place := ((mget s3.vfs v).map (VFunc.placeOf · s3.fs)).getD 0
            (s3.noteWaiter t.info1).postKernel v 1 place [BitVec.ofNat 64 (s3.th.upseq * 2 ^ 32 + t.cause.code), t.info1]
          | none => s3
        s4.setTh { s4.th with upseq := (s4.th.upseq + 1) % 2 ^ 16, a := { s4.th.a with pc := s4.th.ucvec }, hold := none, stepping := false }
    | .error (.hold h) =>
      let s2 := s1.setTh { s1.th with hold := some h }
      match h with
      | .pull v p => s2.askPull v p
      | .request _ items => s2.backInvalidate items
      | _ => s2
    | .error (.diverge k l x) => (s1.divergence s1.fs k l x).setTh { s1.th with hold := some .retry }
    | .error (.trap t1) => (s1.postTable t1 (some s1.fs)).enterTrap t 1
    | .error _ => s1.enterTrap t 1
  else s1.enterTrap t (trapLevel t s1.th.level)

/-- Deliver a synchronous cause at the executing unit (R310, R311): inside a chunk the chunk is squashed and re-executed
in the direct fallback; otherwise the cause is taken, in the fallback once every store has been performed. -/
def State.deliver (s : State) (t : Trap) : State :=
  if s.isDirect || s.th.cur.isNone then
    if s.th.fallback.isSome && !s.th.drained then s.setTh { s.th with hold := some .retry }
    else
      let s1 := if s.th.fallback.isSome then s.setTh { s.th with fallback := none, sq := 0 } else s
      s1.takeTrap t
  else s.squash s.fs (s.th.chunks.length - 1) false true

/-- Take an interrupt with EPC at the next unit (R307, R312, R314): code and level. -/
def Thread.takeInterrupt (t : Thread) (i : Intr) : Thread :=
  t.forget.enter i.level (putBit (BitVec.ofNat 64 i.code) 63 true) t.a.pc 0 0 0 0

/-- An interrupt is enabled at the current level (R314). -/
def Thread.intEnabled (t : Thread) (i : Intr) : Bool :=
  decide (t.level < i.level) || (decide (i.level = t.level) && t.ie)

/-- An interrupt to the current level or a higher one is pending, whatever IE holds (R145, R234). -/
def Thread.intPending (t : Thread) : Bool := t.pend.any (fun i => decide (t.level ≤ i.level))

end Sys2Proof.Machine
end

