-- ==== Sys2Proof/Machine/Matrix.lean ====
section
/-!
DEFINITION. The matrix unit: tile descriptors and their checks, the sub-queues, acceptance, what a command computes and
writes, and the two instructions the thread executes itself (R179 to R207, R73 to R76).
-/

namespace Sys2Proof.Machine

/-! Tile descriptors (Table 7.1). -/

def tdLoc (w : Word) : Nat := bits w 63 62
def tdKG (w : Word) : Nat := bits w 61 57
def tdEK (w : Word) : Nat := bits w 56 55
def tdPitch (w : Word) : Nat := bits w 54 44
def tdCore (w : Word) : Nat := bits w 20 18
def tdOff (w : Word) : Nat := bits w 17 0

/-- One use of a descriptor: its shape and what the use admits (Table 7.2). -/
structure Region where
  desc : Word
  rows : Nat
  bytes : Nat
  tile : Bool
  spad : Bool
  unit : Bool := false
  kg : Bool := false
  ek : Bool := false
  write : Bool := false
deriving DecidableEq, Repr

/-- The tile rows of a region (R181); none for another LOC. -/
def Region.tileRows (r : Region) : List Nat :=
  if tdLoc r.desc = 0 then (List.range r.rows).map (fun i => tdOff r.desc + i * tdPitch r.desc) else []

/-- The zero fields and LOC of a descriptor are as the use admits (R181, R183). A LOC 11 descriptor must have CORE zero too, where it is
used: no rule says it of `mscale`, which lets it pass (log entry 89). -/
def Region.fieldsOk (r : Region) : Bool :=
  let d := r.desc
  (match tdLoc d with
   | 0 => r.tile && tdCore d == 0 && bits d 17 10 == 0
   | 1 => r.spad
   | 3 => r.unit && tdOff d == 0 && tdPitch d == 0 && tdCore d == 0
   | _ => false) &&
  bits d 43 21 == 0 && (r.kg || tdKG d == 0) && (r.ek || tdEK d == 0)

/-- The extent checks of a region (R183). -/
def Region.extentOk (r : Region) : Bool :=
  let d := r.desc
  match tdLoc d with
  | 0 => decide (tdOff d + (r.rows - 1) * tdPitch d ≤ 1023) && decide (r.bytes ≤ 2048)
  | 1 => decide (tdOff d % 16 = 0) && decide (tdOff d + 16 * (r.rows - 1) * tdPitch d + r.bytes ≤ 262144)
  | _ => true

/-- The partition that owns a tile row of a cluster (R179, R362). -/
def State.rowOwner (s : State) (pc row : Nat) : Option Nat :=
  (s.parts.find? (fun p => p.2.ownsCluster pc && decide (p.2.trb ≤ row) && decide (row < p.2.trb + p.2.trn))).map (·.1)

/-- The byte offset of logical row i of a scratchpad region. -/
def Region.spadOff (r : Region) (i : Nat) : Nat := tdOff r.desc + 16 * i * tdPitch r.desc

/-- Every row or bank of the region belongs to the thread's partition (R183). -/
def State.regionOwned (s : State) (gs : Nat) (r : Region) : Bool :=
  let pc := clusterOf gs
  match tdLoc r.desc with
  | 0 => r.tileRows.all (fun row => s.rowOwner pc row == s.partOf gs)
  | 1 => (List.range r.rows).all (fun i =>
      (List.range (if r.bytes = 0 then 0 else (r.spadOff i + r.bytes - 1) / 8192 + 1 - r.spadOff i / 8192)).all (fun k =>
        s.bankOwner pc (r.spadOff i / 8192 + k) == s.partOf gs))
  | _ => true

/-- The checks of R183 on all regions of an instruction, in the order ILLEGAL_OPERAND, then PAGE_PROTECTION. ACC of the latter is 1 where
the instruction writes a region, whichever of its regions is not owned: the rule does not say (log entry 89). -/
def regionChecks (rs : List Region) : M Unit := do
  let s ← get
  let writes := rs.filter (·.write)
  let reads := rs.filter (fun r => !r.write)
  M.require (rs.all (fun r => r.fieldsOk && r.extentOk)) .illegalOperand
  M.require (writes.all (fun r => tdPitch r.desc != 0)) .illegalOperand
  M.require (writes.all (fun w => w.tileRows.all (fun row => !reads.any (fun r => row ∈ r.tileRows)))) .illegalOperand
  if rs.all (s.before.regionOwned s.fs) then pure ()
  else M.trap { cause := .pageProtection, orig := 2, acc := if writes = [] then 0 else 1 }

/-! Formats of `mma` and `mdrain`. -/

/-- The input formats of major 0x28 and, from 7 on, of major 0x29. -/
inductive MFmt where
  | flt (f : Fmt)
  | i8
deriving DecidableEq, Repr

/-- The input format of an `mma` code: 0 `.d` to 6 `.i8`, 7 `.f6a`, 8 `.f6b`, 9 `.f4`. -/
def mmaFmt : Nat → MFmt
  | 0 => .flt fmtD
  | 1 => .flt fmtS
  | 2 => .flt fmtBf
  | 3 => .flt fmtHf
  | 4 => .flt fmtE4
  | 5 => .flt fmtE5
  | 6 => .i8
  | 7 => .flt fmtF6a
  | 8 => .flt fmtF6b
  | _ => .flt fmtF4

/-- Bits of an element of a format. -/
def MFmt.width : MFmt → Nat
  | .flt f => f.width
  | .i8 => 8

/-- The format takes block scales (R195). -/
def mmaScaled (code : Nat) : Bool := decide (code ∈ [4, 5, 7, 8, 9])

/-- The accumulator kind an `mma` needs (R195 step 3). -/
def mmaEK (code : Nat) : Nat := if code = 0 then 1 else if code = 6 then 2 else 0

/-- Bytes of an accumulator element by EK: xf48 8, xf72 16, int32 4. -/
def accBytes : Nat → Nat
  | 0 => 8
  | 1 => 16
  | _ => 4

/-- Bytes of an output element of `mdrain` (R202): `.d .s .bf .hf .e4 .e5 .x`. -/
def drainBytes (code ek : Nat) : Nat :=
  match code with
  | 0 => 8
  | 1 => 4
  | 2 => 2
  | 3 => 2
  | 4 => 1
  | 5 => 1
  | _ => accBytes ek

/-- K of an A or B descriptor. -/
def tdK (w : Word) : Nat := 32 * (tdKG w + 1)

/-- Shape word of `mld` and `mst` (R198): rows and bytes. -/
def shapeRows (w : Word) : Nat := bits w 26 16
def shapeBytes (w : Word) : Nat := bits w 11 0
def shapeOk (w : Word) : Bool :=
  bits w 63 27 == 0 && bits w 15 12 == 0 && decide (1 ≤ shapeRows w) && decide (shapeRows w ≤ 1024) &&
    decide (shapeBytes w % 16 = 0) && decide (16 ≤ shapeBytes w) && decide (shapeBytes w ≤ 2048)

/-- The scale regions of a narrow `mma` (R195 step 4). -/
def scaleRegions (m : MatRegs) (k : Nat) : List Region :=
  [{ desc := m.sa, rows := 64, bytes := k / 32, tile := true, spad := true, unit := true },
   { desc := m.sb, rows := 128, bytes := k / 32, tile := true, spad := true, unit := true }]

/-- The regions of a command (Table 7.2). -/
def matRegions (op : MatOp) (m : MatRegs) (xd xa xb : Word) : List Region :=
  match op with
  | .mma c =>
    let k := tdK xa
    let n := k * (mmaFmt c).width / 8
    [{ desc := xa, rows := 64, bytes := n, tile := true, spad := true, kg := true },
     { desc := xb, rows := 128, bytes := n, tile := true, spad := true, kg := true },
     { desc := xd, rows := 64, bytes := 128 * accBytes (mmaEK c), tile := true, spad := false, ek := true, write := true }] ++
      (if mmaScaled c then scaleRegions m k else [])
  | .mmode => []
  | .mscale => []
  | .mbar => []
  | .mld =>
    [{ desc := xa, rows := shapeRows xb, bytes := shapeBytes xb, tile := false, spad := true },
     { desc := xd, rows := shapeRows xb, bytes := shapeBytes xb, tile := true, spad := false, write := true }]
  | .mzero => [{ desc := xd, rows := 64, bytes := 2048, tile := true, spad := false, ek := true, write := true }]
  | .mdrain c =>
    [{ desc := xa, rows := 64, bytes := 128 * accBytes (tdEK xa), tile := true, spad := false, ek := true },
     { desc := xd, rows := 64, bytes := 128 * drainBytes c (tdEK xa), tile := true, spad := true, write := true }]
  | .mtrans =>
    let e := 2 ^ tdEK xa
    [{ desc := xa, rows := 128, bytes := 128 * e, tile := true, spad := true, ek := true },
     { desc := xd, rows := 128, bytes := 128 * e, tile := true, spad := true, write := true }]
  | .mcpy =>
    [{ desc := xa, rows := 64, bytes := 2048, tile := true, spad := false },
     { desc := xd, rows := 64, bytes := 2048, tile := true, spad := false, write := true }]

/-- The span of a region: storage, first byte, byte after the last (R203, R204). -/
def Region.span (r : Region) : Nat × Nat × Nat :=
  if tdLoc r.desc = 0 then (0, tdOff r.desc * 2048, (tdOff r.desc + (r.rows - 1) * tdPitch r.desc) * 2048 + r.bytes)
  else (1 + tdCore r.desc, tdOff r.desc, r.spadOff (r.rows - 1) + r.bytes)

/-- Two spans lie in the same storage and overlap. -/
def spansMeet (a b : Nat × Nat × Nat) : Bool :=
  decide (a.1 = b.1) && decide (a.2.1 < b.2.2) && decide (b.2.1 < a.2.2)

/-- Source and destination of `mtrans` and `mcpy` overlap (R203, R204). -/
def overlapOk (op : MatOp) (rs : List Region) : Bool :=
  match op, rs with
  | .mtrans, a :: b :: _ => !spansMeet a.span b.span
  | .mcpy, a :: b :: _ => !spansMeet a.span b.span
  | _, _ => true

/-- The virtual function of the thread holds the aligned-group grant; the hypervisor's threads hold none (R196). -/
def State.aggGrant (s : State) (gs : Nat) : Bool := ((s.vfRec gs).map (·.agg)).getD false

/-- What `mscale` checks of a descriptor: LOC, the zero fields KG, EK and the reserved bits, and OFF and PITCH of LOC 11 (R197). -/
def scaleOk (d : Word) : Bool :=
  decide (tdLoc d ≠ 2) && tdKG d == 0 && tdEK d == 0 && bits d 43 21 == 0 && (decide (tdLoc d ≠ 3) || (tdOff d == 0 && tdPitch d == 0))

/-- The checks a command makes at issue, before it takes any effect (R183, R195 to R204). -/
def matChecks (op : MatOp) (xd xa xb : Word) : M Unit := do
  let s ← get
  let m := s.th.mat
  match op with
  | .mma c =>
    M.require (tdKG xa == tdKG xb && tdEK xd == mmaEK c) .illegalOperand
    M.require (m.mode != 1 || s.aggGrant s.fs) .illegalOperand
  | .mmode => M.require (decide (xa.toNat ≤ 1) && (xa != 1 || s.aggGrant s.fs)) .illegalOperand
  | .mscale => M.require (scaleOk xa && scaleOk xb) .illegalOperand
  | .mld => M.require (shapeOk xb) .illegalOperand
  | .mzero => M.require (tdEK xd != 3) .illegalOperand
  | .mdrain _ => M.require (tdEK xa != 3) .illegalOperand
  | _ => pure ()
  let rs := matRegions op m xd xa xb
  M.require (overlapOk op rs) .illegalOperand
  regionChecks rs

/-! Sub-queues (R188, R362). -/

/-- The owner code of a slot's sub-queue: 0 for the hypervisor's set, else partition + 1. -/
def State.ownerCode (s : State) (gs : Nat) : Nat :=
  match s.partOf gs with
  | some p => p + 1
  | none => 0

/-- The key of a slot's sub-queue. -/
def State.subq (s : State) (gs : Nat) : Nat := 32 * coreOf gs + s.ownerCode gs

/-- Entries of a slot's sub-queue: MQE of its partition; the hypervisor's set has what no partition owns (R362). -/
def State.subqSize (s : State) (gs : Nat) : Nat :=
  match s.partRec gs with
  | some p => p.mqe
  | none => 16 - ((s.parts.filter (fun p => p.2.ownsCluster (clusterOf gs))).map (fun p => p.2.mqe)).foldl (· + ·) 0

/-- Issue a command: checks, room in the sub-queue, MC, and the core's copy of the matrix state (R180, R186, R188). -/
def issueMat (op : MatOp) (xd xa xb : Word) : M Unit := do
  matChecks op xd xa xb
  let s ← get
  let q := mgetD s.matq (s.subq s.fs) []
  if q.length < s.subqSize s.fs then pure () else M.hold .matrix
  M.until_ (decide (s.th.mats.length < 63))
  let regs : MatRegs :=
    match op with
    | .mmode => { s.th.mat with mode := xa }
    | .mscale => { s.th.mat with sa := xa, sb := xb }
    | _ => s.th.mat
  let c : MatCmd :=
    { id := s.fresh, gs := s.fs, uid := s.th.uid, fn := s.th.vf, op := op, xd := xd, xa := xa, xb := xb, regs := regs,
      satf := bit s.arch.fctl 5, running := false, left := 0, pieces := 0, out := none, held := [], waits := [],
      lid := if s.th.det then s.th.lid else none }
  modify (fun s => { s with matq := mput s.matq (s.subq s.fs) (q ++ [c]), fresh := s.fresh + 1 })
  modTh (fun t => { t with mats := t.mats ++ [(c.id, false)], mat := regs })

/-! Rows of tiles and scratchpads: bytes with their poison. -/

/-- A byte and its poison. -/
abbrev PByte := Byte × Bool

/-- The key of a tile byte. -/
def tileKey (pc row b : Nat) : Nat := (1024 * pc + row) * 2048 + b

/-- Bytes of a tile row. -/
def State.tileBytes (s : State) (pc row n : Nat) : List PByte :=
  (List.range n).map (fun b => (mgetD s.tiles (tileKey pc row b) 0, (mget s.tilePoison (tileKey pc row b)).isSome))

/-- Write bytes of a tile row from byte 0; a written byte takes the poison given. -/
def State.setTileBytes (s : State) (pc row : Nat) (bs : List PByte) : State :=
  (bs.zipIdx).foldl (fun s p =>
    let k := tileKey pc row p.2
    { s with tiles := mset 0 s.tiles k p.1.1
             tilePoison := if p.1.2 then mput s.tilePoison k () else mdel s.tilePoison k }) s

/-- Bytes of a logical row of a region, as a command of the cluster reads them (R192). -/
def State.regionRow (s : State) (pc : Nat) (r : Region) (i : Nat) : List PByte :=
  if tdLoc r.desc = 0 then s.tileBytes pc (tdOff r.desc + i * tdPitch r.desc) r.bytes
  else
    let a := spadAddr (8 * pc + tdCore r.desc) (r.spadOff i)
    (List.range r.bytes).map (fun b => (s.byteAt (a + b), s.poisoned ((a + b) / 8)))

/-- Element k of `w` bits of a row, with its poison (R58: packed from byte 0, low bits first). -/
def rowElem (row : List PByte) (w k : Nat) : Nat × Bool :=
  let lo := w * k
  let first := lo / 8
  let bs := (row.drop first).take ((lo + w - 1) / 8 + 1 - first)
  (leNat (bs.map (·.1)) / 2 ^ (lo % 8) % 2 ^ w, bs.any (·.2))

/-! What `mma` computes. -/

/-- A value times 2^n. -/
def scaleV (n : Int) : FVal → FVal
  | .fin s m e => .fin s m (e + n)
  | v => v

/-- Apply an E8M0 scale byte: 0xFF makes the element a NaN (R57, R195). -/
def applyScale (sc : Nat) (v : FVal) : FVal := if sc = 255 then .nan false else scaleV ((sc : Int) - 127) v

/-- RoundToOdd of a value into the accumulator format, as a value again (R73). -/
def roundOddV (xf : Fmt) (v : FVal) : FVal := decodeF xf (roundF xf .ro true v).1

/-- The odd-tree update of one element of D (R73). -/
def oddTree (xf : Fmt) (d : Nat) (p : List FVal) : Nat :=
  let add := fun a b => roundOddV xf (addV .ro a b).1
  match treeSum add (p.map some) with
  | some t => (roundF xf .ro true (addV .ro (decodeF xf d) t).1).1
  | none => d

/-- Exponent E of a non-zero finite value, 2^E ≤ |v| < 2^(E+1). -/
def expOf : FVal → Option Int
  | .fin _ m e => if m = 0 then none else some (e + (Nat.log2 m : Nat))
  | _ => none

/-- trunc(v × 2^(64 − E)) with its sign (R74 step 3). -/
def alignedInt (E : Int) : FVal → Int
  | .fin s m e =>
    let sh := e + 64 - E
    let q : Nat := if 0 ≤ sh then m * 2 ^ sh.toNat else m / 2 ^ (-sh).toNat
    if s then -(q : Int) else (q : Int)
  | _ => 0

/-- The aligned-group update of one element by one group of 32 products (R74). -/
def alignedGroup (xf : Fmt) (d : Nat) (g : List FVal) : Nat :=
  let specials := g.filter (fun v => match v with | .fin .. => false | _ => true)
  if specials ≠ [] then
    let v := specials.foldl (fun a b => (addV .ro a b).1) (.fin true 0 0)
    (roundF xf .ro true (addV .ro (decodeF xf d) v).1).1
  else
    match (g.filterMap expOf).max? with
    | none => d
    | some E =>
      let S := (g.map (alignedInt E)).foldl (· + ·) 0
      let sv : FVal := .fin (decide (S < 0)) S.natAbs (E - 64)
      (roundF xf .ro true (addV .ro (decodeF xf d) sv).1).1

/-- The groups of 32 of a list. -/
def groups32 : Nat → List α → List (List α)
  | 0, _ => []
  | n + 1, l => l.take 32 :: groups32 n (l.drop 32)

/-- The scales of a region row, one byte per 32 elements; unit scales are 2^0. -/
def State.scaleRow (s : State) (pc : Nat) (r : Region) (i : Nat) : List PByte :=
  if tdLoc r.desc = 3 then List.replicate r.bytes (127, false) else s.regionRow pc r i

/-- The scaled values of a row of K elements, and whether each is poisoned. -/
def rowValues (f : Fmt) (k : Nat) (row scales : List PByte) (scaled : Bool) : List (FVal × Bool) :=
  (List.range k).map (fun i =>
    let e := rowElem row f.width i
    let sc := scales.getD (i / 32) (127, false)
    if scaled then (applyScale sc.1.toNat (decodeF f e.1), e.2 || sc.2) else (decodeF f e.1, e.2))

/-- One element of D after an `mma` (R73 to R75, R195): `d` is its value before. -/
def mmaElem (c mode d : Nat) (a b : List (FVal × Bool)) (ai bi : List Int) : Nat :=
  match mmaFmt c with
  | .i8 => wrapBits 32 ((d : Int) + ((ai.zip bi).map (fun p => p.1 * p.2)).foldl (· + ·) 0)
  | .flt _ =>
    let xf := if c = 0 then fmtX72 else fmtX48
    let p := (a.zip b).map (fun q => (mulV q.1.1 q.2.1).1)
    if mode = 1 then (groups32 (p.length / 32) p).foldl (alignedGroup xf) (d % 2 ^ xf.width)
    else oddTree xf (d % 2 ^ xf.width) p

/-- What an `mma` writes: for each of its 64 rows the 128 elements, packed (R195, R206). -/
def State.mmaRows (s : State) (pc : Nat) (cmd : MatCmd) (c : Nat) : List (List PByte) :=
  match matRegions cmd.op cmd.regs cmd.xd cmd.xa cmd.xb with
  | ra :: rb :: rd :: sc =>
    let k := tdK cmd.xa
    let scaled := mmaScaled c
    let sRow := fun (i j : Nat) => match sc[i]? with
      | some r => s.scaleRow pc r j
      | none => []
    let f := match mmaFmt c with | .flt f => f | .i8 => fmtE4
    let w := (mmaFmt c).width
    let n := accBytes (mmaEK c)
    let bRows := (List.range 128).map (fun j =>
      let row := s.regionRow pc rb j
      let ints := (List.range k).map (fun i => rowElem row 8 i)
      (rowValues f k row (sRow 1 j) scaled, ints.map (fun e => signedOf w e.1), ints.any (·.2)))
    (List.range 64).map (fun i =>
      let row := s.regionRow pc ra i
      let aVals := rowValues f k row (sRow 0 i) scaled
      let ints := (List.range k).map (fun x => rowElem row 8 x)
      let aInts := ints.map (fun e => signedOf w e.1)
      let aBad := if mmaFmt c = .i8 then ints.any (·.2) else aVals.any (·.2)
      let dRow := s.regionRow pc rd i
      (bRows.zipIdx).flatMap (fun q =>
        let d := rowElem dRow (8 * n) q.2
        let bBad := if mmaFmt c = .i8 then q.1.2.2 else q.1.1.any (·.2)
        let v := mmaElem c cmd.regs.mode.toNat d.1 aVals q.1.1 aInts q.1.2.1
        (leBytes n v).map (fun b => (b, d.2 || aBad || bBad))))
  | _ => []

/-- One element of `mdrain` (R76, R202): source bits of an accumulator kind to output bits. -/
def drainElem (c ek : Nat) (satf : Bool) (v : Nat) : Nat :=
  let src : FVal :=
    match ek with
    | 0 => decodeF fmtX48 (v % 2 ^ 48)
    | 1 => decodeF fmtX72 (v % 2 ^ 72)
    | _ => .fin (decide (signedOf 32 v < 0)) (signedOf 32 v).natAbs 0
  match c with
  | 0 => (roundF fmtD .rn satf src).1
  | 1 => (roundF fmtS .rn satf src).1
  | 2 => (roundF fmtBf .rn satf src).1
  | 3 => (roundF fmtHf .rn satf src).1
  | 4 => (roundF fmtE4 .rn satf src).1
  | 5 => (roundF fmtE5 .rn satf src).1
  | _ => match ek with
    | 0 => v % 2 ^ 48
    | 1 => v % 2 ^ 72
    | _ => v

/-- Row i of `mdrain`'s output (R202). -/
def State.drainRow (s : State) (pc : Nat) (cmd : MatCmd) (c : Nat) (src : Region) (i : Nat) : List PByte :=
  let ek := tdEK cmd.xa
  let row := s.regionRow pc src i
  (List.range 128).flatMap (fun j =>
    let e := rowElem row (8 * accBytes ek) j
    (leBytes (drainBytes c ek) (drainElem c ek cmd.satf e.1)).map (fun b => (b, e.2)))

/-- An element that is poisoned anywhere is poisoned whole (R206, R282). -/
def wholePoison (el : List PByte) : List PByte := el.map (fun b => (b.1, el.any (·.2)))

/-- Row i of what a command copies, drains or transposes (R198, R201 to R204, R206). -/
def State.moveRow (s : State) (pc : Nat) (cmd : MatCmd) (i : Nat) : List PByte :=
  match cmd.op, matRegions cmd.op cmd.regs cmd.xd cmd.xa cmd.xb with
  | .mld, src :: _ => s.regionRow pc src i
  | .mcpy, src :: _ => s.regionRow pc src i
  | .mdrain c, src :: _ => s.drainRow pc cmd c src i
  | .mtrans, src :: _ =>
    let e := 2 ^ tdEK cmd.xa
    (List.range 128).flatMap (fun j => wholePoison (((s.regionRow pc src j).drop (e * i)).take e))
  | _, _ => []

/-- The written region of a command, if it writes one. -/
def MatCmd.dest (c : MatCmd) : Option Region :=
  (matRegions c.op c.regs c.xd c.xa c.xb).find? (·.write)

/-- The rows a command writes, in ascending order: destination row number and its bytes (R198 to R204). -/
def State.matRows (s : State) (pc : Nat) (cmd : MatCmd) : List (List PByte) :=
  match cmd.op with
  | .mma c => s.mmaRows pc cmd c
  | .mzero => List.replicate 64 (List.replicate 2048 (0, false))
  | _ => match cmd.dest with
    | some r => (List.range r.rows).map (s.moveRow pc cmd)
    | none => []

/-- The command writes a scratchpad, through engine chunks (R192). -/
def MatCmd.toSpad (c : MatCmd) : Bool :=
  match c.dest with
  | some r => decide (tdLoc r.desc = 1)
  | none => false

/-- Tile rows a command writes, and those it reads (R190). -/
def MatCmd.rowsWritten (c : MatCmd) : List Nat :=
  (matRegions c.op c.regs c.xd c.xa c.xb).flatMap (fun r => if r.write then r.tileRows else [])
def MatCmd.rowsRead (c : MatCmd) : List Nat :=
  (matRegions c.op c.regs c.xd c.xa c.xb).flatMap (fun r => if r.write then [] else r.tileRows)

/-- Engine chunks a command must commit before it is complete: one per row written to a scratchpad (R192). -/
def MatCmd.piecesDue (c : MatCmd) : Nat :=
  if c.toSpad then (match c.dest with | some r => r.rows | none => 0) else 0

/-- The sub-queues of a cluster. -/
def State.clusterQueues (s : State) (pc : Nat) : List (Nat × List MatCmd) :=
  s.matq.filter (fun p => p.1 / 32 / 8 == pc)

/-- The running commands of a cluster (R189). -/
def State.runningCmds (s : State) (pc : Nat) : List MatCmd :=
  (s.clusterQueues pc).flatMap (fun p => p.2.filter (·.running))

/-- A tile row is locked: a running command writes it (R190). -/
def State.rowLocked (s : State) (pc row : Nat) : Bool :=
  (s.runningCmds pc).any (fun c => row ∈ c.rowsWritten)

/-- Two commands conflict in their rows (R190, R191). -/
def MatCmd.conflicts (c d : MatCmd) : Bool :=
  c.rowsWritten.any (fun row => row ∈ d.rowsWritten || row ∈ d.rowsRead) || c.rowsRead.any (fun row => row ∈ d.rowsWritten)

/-- Commands of the same deterministic launch released before one, still queued or running (R191). -/
def State.releasedBefore (s : State) (pc : Nat) (c : MatCmd) : List MatCmd :=
  if c.lid.isNone then []
  else ((s.clusterQueues pc).flatMap (·.2)).filter (fun d => d.lid == c.lid && decide (d.id < c.id))

/-- The lock rule lets a command start (R190), and in a deterministic launch the release order does (R191). -/
def State.mayStart (s : State) (pc : Nat) (c : MatCmd) : Bool :=
  let run := s.runningCmds pc
  !(s.releasedBefore pc c).any c.conflicts &&
  c.rowsWritten.all (fun row => !run.any (fun d => row ∈ d.rowsWritten || row ∈ d.rowsRead)) &&
    c.rowsRead.all (fun row => !run.any (fun d => row ∈ d.rowsWritten))

/-- Commands accepted from the partition's other sub-queues that an `mbar` waits for (R205). -/
def State.barrierSet (s : State) (pc key : Nat) : List Nat :=
  ((s.clusterQueues pc).filter (fun p => p.1 % 32 == key % 32 && p.1 != key)).flatMap
    (fun p => (p.2.filter (·.running)).map (·.id))

/-- The head of a sub-queue may be accepted: it is not running, the lock rule allows it, and an `mbar` may start. -/
def State.acceptable (s : State) (pc key : Nat) : Bool :=
  match mgetD s.matq key [] with
  | c :: _ => !c.running && s.mayStart pc c
  | [] => false

/-- Steps of a command (R189, R194): groups of 32 K-indices, or pieces of 512 bytes of what it writes. -/
def MatCmd.stepCount (c : MatCmd) : Nat :=
  match c.op with
  | .mma _ => tdKG c.xa + 1
  | _ => match c.dest with
    | some r => (r.rows * r.bytes + 511) / 512
    | none => 0

/-- The weight of a sub-queue: MW of its partition, 8 for the hypervisor's (R189, R362). -/
def State.subqWeight (s : State) (key : Nat) : Nat :=
  if key % 32 = 0 then 8 else max 1 (((mget s.parts (key % 32 - 1)).map (·.mw)).getD 1)

/-- Steps of a command are counted: by the thread that issued it, or by its function when that thread is gone (R393). -/
def State.countSteps (s : State) (c : MatCmd) (part : Option Nat) (n : Nat) : State :=
  if (s.thread c.gs).uid = c.uid ∧ (s.thread c.gs).live then s.count c.gs 0x30 n else s.countOf c.fn part 0x30 n

/-- The blocks of a command's scratchpad operands, as keys of `held`. -/
def MatCmd.blocks (c : MatCmd) : List Nat :=
  ((matRegions c.op c.regs c.xd c.xa c.xb).filter (fun r => !r.write && decide (tdLoc r.desc = 1) && decide (0 < r.bytes))).flatMap (fun r =>
    (List.range r.rows).flatMap (fun i =>
      (linesOf (r.spadOff i) r.bytes).map (fun l => 2048 * tdCore r.desc + l))) |>.dedup

/-- The address of a block of a cluster's scratchpads. -/
def blockAddr (pc k : Nat) : Nat := spadAddr (8 * pc + k / 2048) (k % 2048 * 128)

/-- A running command reads some of the blocks it has not read, which ones is free: each block is read at one point, and different blocks at
different ones; no remote store is on its way to one that is read, and none is read ahead in a deterministic launch (R192, R274, R301;
log entry 75). -/
def State.readBlocks (s : State) (pc seed : Nat) (c : MatCmd) : MatCmd :=
  if !c.running || c.out.isSome || c.lid.isSome then c
  else
    let ks := (c.blocks.zipIdx.filter (fun p => (mget c.held p.1).isNone && Config.blockNow (seed + p.2) &&
      !s.remotePending (blockAddr pc p.1) 128)).map (·.1)
    { c with held := ks.foldl (fun m k => mput m k ((List.range 128).map (fun b =>
        (s.byteAt (blockAddr pc k + b), s.poisoned ((blockAddr pc k + b) / 8))))) c.held }

/-- The state as a command of a cluster reads it: the blocks it has read already as it read them (R192). -/
def State.seenBy (s : State) (pc : Nat) (c : MatCmd) : State :=
  c.held.foldl (fun (s : State) p =>
    p.2.zipIdx.foldl (fun (s : State) b => if b.2 % 8 = 0 then s.setPoison ((blockAddr pc p.1 + b.2) / 8) b.1.2 else s)
      (s.setBytes (blockAddr pc p.1) (p.2.map (·.1)))) s

/-- One round of a cluster's matrix unit: every running command receives as many steps as its sub-queue's weight (R189), and may read blocks
of its operands (R192). -/
def State.matRound (s : State) (pc : Nat) : State :=
  let seed := s.fresh
  let s1 := (s.clusterQueues pc).foldl (fun (s : State) p => (p.2.filter (·.running)).foldl (fun (s : State) c =>
    s.countSteps c (if p.1 % 32 = 0 then none else some (p.1 % 32 - 1)) (min c.left (s.subqWeight p.1))) s) s
  { s1 with fresh := s1.fresh + 1, matq := s.matq.map (fun (p : Nat × List MatCmd) =>
      if p.1 / 32 / 8 = pc then
        (p.1, p.2.map (fun c =>
          if c.running then { s.readBlocks pc (seed + 65536 * c.id) c with left := c.left - s.subqWeight p.1 } else c))
      else p) }

/-- A remote store is on its way to a line of a scratchpad region: its bank holds the region's accesses (R274). -/
def State.regionPending (s : State) (pc : Nat) (r : Region) : Bool :=
  decide (tdLoc r.desc = 1) && (List.range r.rows).any (fun i =>
    s.remotePending (spadAddr (8 * pc + tdCore r.desc) (r.spadOff i)) r.bytes)

/-- The command's scratchpad operands are to be read, and a remote store is on its way to one of them (R274). -/
def State.operandsPending (s : State) (pc : Nat) (c : MatCmd) : Bool :=
  c.out.isNone && (matRegions c.op c.regs c.xd c.xa c.xb).any (fun r => !r.write && s.regionPending pc r)

/-- Accept the head of a sub-queue (R189); the round robin moves just past it, in the order of core and owner, which no rule gives (log
entry 74). -/
def State.acceptCmd (s : State) (pc key : Nat) : State :=
  match mgetD s.matq key [] with
  | c :: rest =>
    if !c.running && s.mayStart pc c then
      { s with
        matq := mput s.matq key ({ c with running := true, left := c.stepCount, waits := s.barrierSet pc key } :: rest)
        wrr := mput s.wrr pc (key + 1) }
    else s
  | [] => s

/-- Where the next engine chunk of a command writes: the address and the bytes (R192). -/
def MatCmd.pieceAt (c : MatCmd) (pc : Nat) (r : Region) : Nat × Nat :=
  (spadAddr (8 * pc + tdCore r.desc) (r.spadOff c.pieces), r.bytes)

/-- The lines of that engine chunk (R261). -/
def MatCmd.pieceLines (c : MatCmd) (pc : Nat) : Nat :=
  match c.dest with
  | some r => (linesOf (c.pieceAt pc r).1 (c.pieceAt pc r).2).length
  | none => 0

/-- The next engine chunk of a command can be granted: it runs and has rows to write, and no remote store is on its way to what it reads
or writes (R192, R274). -/
def State.matPieceDue (s : State) (pc : Nat) (c : MatCmd) : Bool :=
  c.running && decide (c.pieces < c.piecesDue) && !s.operandsPending pc c &&
    (match c.dest with | some r => !s.remotePending (c.pieceAt pc r).1 (c.pieceAt pc r).2 | none => false)

/-- One engine chunk of a command's scratchpad writes: its next row, with its poison (R192, R206). The first reads the blocks of the
command's operands that are left to read. -/
def State.matPiece (s : State) (pc key : Nat) : State :=
  match mgetD s.matq key [] with
  | c :: rest =>
    match c.dest with
    | some r =>
      if c.running && c.toSpad && decide (c.pieces < c.piecesDue) then
        let out := c.out.getD ((s.seenBy pc c).matRows pc c)
        let row := out.getD c.pieces []
        let a := (c.pieceAt pc r).1
        let eff := Eff.write a (row.map (·.1))
        match s.engineWait c.gs [] eff.items with
        | some w => w
        | none =>
          let s1 := { s with matq := mput s.matq key ({ c with pieces := c.pieces + 1, out := some out } :: rest) }
          let lev := s1.levelOf c.gs kindEngine eff.items
          let s2 := (s1.noteGrant c.gs kindEngine (linesOf a row.length).length lev).performAll none [eff]
          (row.zipIdx).foldl (fun s p => if p.1.2 then s.setPoison ((a + p.2) / 8) true else s) s2
      else s
    | none => s
  | [] => s

/-- A copied, moved or computed row enters the tile store: a whole element keeps or takes the poison of its source. -/
def State.writeTiles (s : State) (pc : Nat) (c : MatCmd) : State :=
  match c.dest with
  | some r =>
    if tdLoc r.desc = 0 then
      (((s.seenBy pc c).matRows pc c).zipIdx).foldl (fun s p => s.setTileBytes pc (tdOff r.desc + p.2 * tdPitch r.desc) p.1) s
    else s
  | none => s

/-- Mark a thread's command complete and retire completed commands in issue order (R26, R27). -/
def retireDone : List (Nat × Bool) → List (Nat × Bool)
  | (_, true) :: rest => retireDone rest
  | l => l

/-- Report a command complete to its thread (R186). -/
def Thread.matDone (t : Thread) (id : Nat) : Thread :=
  { t with mats := retireDone (t.mats.map (fun p => if p.1 = id then (id, true) else p)) }

/-- The running head of a sub-queue can complete: its steps are done, its engine chunks are committed, no remote store is on its way to
what it is still to read, and the commands a barrier waits for are done (R189, R192, R205, R274). -/
def State.completable (s : State) (pc key : Nat) : Bool :=
  match mgetD s.matq key [] with
  | c :: _ => c.running && decide (c.left = 0) && decide (c.pieces = c.piecesDue) && !s.operandsPending pc c &&
      c.waits.all (fun id => !(s.runningCmds pc).any (fun d => d.id == id))
  | [] => false

/-- Complete the running head of a sub-queue: its rows take their final values, its locks clear, MC falls (R190). A command with a tile
destination reads here the blocks of its scratchpad operands that are left to read (R192; log entry 75), and its entry of the sub-queue
frees here, where the rule does not say whether it does so at the start (R188; log entry 89). -/
def State.completeCmd (s : State) (pc key : Nat) : State :=
  match mgetD s.matq key [] with
  | c :: rest =>
    if s.completable pc key then
      let s1 := { s.writeTiles pc c with matq := mput s.matq key rest }
      let t := s1.thread c.gs
      if t.uid = c.uid then s1.setThread c.gs (t.matDone c.id) else s1
    else s
  | [] => s

/-! The instructions the thread executes itself (R199, R200). -/

/-- Rows read by `mst` and `mrd`: a locked row holds the thread (R190); this is none of the waits of R299. -/
def rowsUnlocked (rows : List Nat) : M Unit := do
  let s ← get
  let pc := clusterOf s.fs
  if rows.any (fun r => s.rowLocked pc r) then M.hold .rows
  else if s.th.det then
    -- every command of the launch released earlier in key order that writes the rows has completed (R301)
    if !s.keyTurn s.fs || decide (1 < s.th.chunks.length) ||
        ((s.clusterQueues pc).flatMap (·.2)).any (fun c => c.lid == s.th.lid && c.rowsWritten.any (fun r => r ∈ rows)) then
      M.hold .rows
    else pure ()
  else pure ()

/-- `mst` (R198, R199, R206): each destination row is one store, in direct mode one singleton, in ascending order. -/
def runMst (xd xa xb : Word) : M Unit := do
  M.require (shapeOk xb) .illegalOperand
  let src : Region := { desc := xa, rows := shapeRows xb, bytes := shapeBytes xb, tile := true, spad := false }
  let dst : Region :=
    { desc := xd, rows := shapeRows xb, bytes := shapeBytes xb, tile := false, spad := true, write := true }
  regionChecks [src, dst]
  rowsUnlocked src.tileRows
  directOrder
  let s ← get
  let pc := clusterOf s.fs
  let rows := (List.range src.rows).map (s.before.regionRow pc src)
  M.require (!rows.any (fun r => r.any (·.2))) .dataPoison
  M.until_ (!s.before.regionPending pc dst)
  countSingles .vector
    (rows.zipIdx.map (fun p => [Eff.write (spadAddr (8 * pc + tdCore xd) (dst.spadOff p.2)) (p.1.map (·.1))])) 0

/-- `mrd` (R200, R206): eight bytes of one row. -/
def runMrd (xa xb : Word) : M Word := do
  M.require (decide (xb.toNat % 8 = 0) && decide (xb.toNat ≤ 2040)) .illegalOperand
  let src : Region := { desc := xa, rows := 1, bytes := 2048, tile := true, spad := false }
  regionChecks [src]
  rowsUnlocked src.tileRows
  let s ← get
  let bs := ((s.before.regionRow (clusterOf s.fs) src 0).drop xb.toNat).take 8
  M.require (!bs.any (·.2)) .dataPoison
  pure (BitVec.ofNat 64 (leNat (bs.map (·.1))))

end Sys2Proof.Machine
end

