-- ==== Sys2Proof/Machine/Engine.lean ====
section
/-!
DEFINITION. Copies, messages, channels and the engine ports p12 to p14 (R210 to R220).
-/

namespace Sys2Proof.Machine

/-! Copies (R211 to R215). -/

/-- Issue a copy: `rec_` is its record address, 0 for none; `wide` for a `cpyw` (R211). -/
def issueCopy (dst src len rec_ : Word) (wide : Bool) : M Unit := do
  M.require (decide (len.toNat < 2 ^ 32)) .illegalOperand
  if rec_.toNat % 16 ≠ 0 then M.trap { cause := .misaligned, av := true, acc := 1, info1 := addr57 rec_ } else pure ()
  let s ← get
  M.until_ (decide (s.th.copies.length < 63))
  let t := s.th
  let c : Copy :=
    { id := s.fresh, gs := s.fs, uid := t.uid, num := t.copyn, level := t.level, vf := t.vf, asid := t.asid,
      dst := dst, src := src, len := len.toNat, record := rec_, wide := wide, combining := true, done := 0, fault := none,
      recorded := rec_ == 0 }
  modify (fun s => { s with copies := s.copies ++ [c], fresh := s.fresh + 1 })
  modTh (fun t => { t with copies := t.copies ++ [(c.id, false)], copyn := t.copyn + 1 })

/-- Replace a copy record. -/
def State.setCopy (s : State) (c : Copy) : State :=
  { s with copies := s.copies.map (fun d => if d.id = c.id then c else d) }

/-- Bytes of the next piece: up to the next aligned 4 KiB boundary of the destination (R212). -/
def Copy.pieceLen (c : Copy) : Nat :=
  min (c.len - c.done) (4096 - (c.dst.toNat + c.done) % 4096)

/-- Translate one byte of a copy's range, setting A and D. -/
def State.copyXlat (s : State) (c : Copy) (va : Word) (acc : Acc) : Except Stop (Nat × State) :=
  s.engineXlat c.vf c.asid c.level va acc

/-- Lines of the destination that the next piece of a copy writes (R261). -/
def Copy.pieceLines (c : Copy) : Nat := ((c.dst.toNat + c.done) % 128 + c.pieceLen + 127) / 128

/-- Read n bytes of a copy's source, page by page; a peer's fault or poison stops it, and a remote store on its way to a line holds it
(R212, R214, R274, R282, R342, R351). -/
def State.copyRead (c : Copy) : Nat → State → Word → Nat → Except Stop (List Byte × List Nat × State)
  | 0, s, _, _ => .ok ([], [], s)
  | fuel + 1, s, va, n =>
    if n = 0 then .ok ([], [], s)
    else
      let m := min n (4096 - va.toNat % 4096)
      match s.copyXlat c (addr57 va) .read with
      | .error e => .error e
      | .ok (pa, s1) =>
        match if isPeer pa then peerFault s1.fresh pa else none with
        | some f => .error (xFault f .read (peerOrig f) (addr57 va))
        | none =>
        if s1.remotePending pa m || (isPeer pa && !s1.peerUp (peerDev pa)) then .error (.hold .retry)
        else
        match (dwordsOf pa m).find? s1.poisoned with
        | some d => .error (xFault .dataPoison .read 0 (addr57 va + BitVec.ofNat 64 (8 * d - pa)))
        | none =>
          let s1 := (linesOf pa m).foldl (fun (s : State) l => s.countFetch c.vf l) s1
          match s1.copyRead c fuel (va + BitVec.ofNat 64 m) (n - m) with
          | .error e => .error e
          | .ok (bs, ls, s2) => .ok (s1.bytesAt pa m ++ bs, linesOf pa m ++ ls, s2)

/-- What an engine writes for a slot's copy, at its place in the order: the grant is counted, the package's copy of a host line becomes the
committed one and the edge writes of a host or peer line leave, a stopped cluster's scratchpad takes it when it stands again
(R212, R251, R257, R260, R327). -/
def State.engineWrite (s : State) (c : Copy) (lines : Nat) (items : List Nat) (pa : Nat) (bs : List Byte) : State :=
  let s1 := s.noteGrant c.gs kindEngine lines (s.levelOf c.gs kindEngine items)
  if isPeer pa then (s1.sendEdges c.gs (some c.id) (edgeBytes pa bs [])).signal none (linesOf pa bs.length)
  else if isParked pa then ({ s1 with remotes := s1.remotes ++ [(pa, bs)] } : State).signal none (linesOf pa bs.length)
  else
    let s2 := s1.performAll none [.write pa bs]
    if isHost pa then s2.sendEdges c.gs (some c.id) (edgeBytes pa bs []) else s2

/-- Bytes a copy has moved count for the function that issued it (R393). -/
def State.countCopied (s : State) (c : Copy) (n : Nat) : State :=
  let t := s.thread c.gs
  s.countOf (if t.uid = c.uid && t.uncounted 0x32 then none else c.vf) (s.partOf c.gs) 0x32 n

/-- The next piece of a copy at its grant: its reads, then its writes (R212); a fault stops the copy (R214), and what stands before the
chunk holds it (R250, R274, R349). -/
def State.copyPiece (s : State) (c : Copy) : State :=
  let n := c.pieceLen
  let off := BitVec.ofNat 64 c.done
  match s.copyRead c 3 (c.src + off) n with
  | .error e => stop e
  | .ok (bs, ls, s1) =>
    match s1.copyXlat c (addr57 (c.dst + off)) .write with
    | .error e => stop e
    | .ok (pa, s2) =>
      match s.engineWait c.gs ls (linesOf pa n) with
      | some w => w
      | none => ((s2.engineWrite c c.pieceLines (ls ++ linesOf pa n) pa bs).setCopy { c with done := c.done + n }).countCopied c n
where
  stop (e : Stop) : State :=
    match e with
    | .trap t => (s.postTable t (some c.gs)).setCopy { c with fault := some t }
    | .hold (.pull v p) => s.askPull v p
    | _ => s

/-- An engine's access waits for a page to be pulled: the function and the page (R341). -/
def State.pullWanted (s : State) (vf : Option Nat) (asid level : Nat) (va : Word) (acc : Acc) : Option (Nat × Nat) :=
  match ({ s with fs := noSlot } : State).translate vf asid level va acc with
  | .error (.hold (.pull v p)) => some (v, p)
  | _ => none

/-- A copy has stopped, or its data is written and acknowledged: its record is next, or else its completion (R213). -/
def State.copyReady (s : State) (c : Copy) : Bool :=
  !c.combining && (decide (c.done = c.len) || c.fault.isSome) && !s.edges.any (fun e => e.copy == some c.id)

/-- The completion record (Table 8.4). -/
def Copy.recordBytes (c : Copy) : List Byte :=
  let code := (c.fault.map (fun (t : Trap) => t.cause.code)).getD 0
  leBytes 8 (2 ^ 63 + code * 2 ^ 48 + c.done) ++ leBytes 8 ((c.fault.map (fun (t : Trap) => t.info1)).getD 0).toNat

/-- The fault a stopped copy holds for its thread (R214, Table 16.3). -/
def Copy.heldTrap (c : Copy) (t : Trap) : Trap :=
  { t with held := true, whole := false, fetch := false, ev := false, portc := none, table := none
           info2 := BitVec.ofNat 64 c.done }

/-- Write the completion record of a copy, an engine chunk of its own; a fault in it is held with the copy (R213, R214). -/
def State.copyRecord (s : State) (c : Copy) : State :=
  match s.copyXlat c (addr57 c.record) .write with
  | .error (.trap t) => (s.postTable t (some c.gs)).setCopy { c with record := 0, recorded := true, fault := some (c.fault.getD t) }
  | .error _ => s
  | .ok (pa, s1) =>
    match s.engineWait c.gs [] (linesOf pa 16) with
    | some w => w
    | none => (s1.engineWrite c 1 (linesOf pa 16) pa c.recordBytes).setCopy { c with recorded := true }

/-- Faults of a thread's copies stand in the issue order of their copies (R214). -/
def holdFault (f : Nat × Trap) : List (Nat × Trap) → List (Nat × Trap)
  | [] => [f]
  | g :: rest => if f.1 < g.1 then f :: g :: rest else g :: holdFault f rest

/-- Complete a copy: report it to its thread; a fault that no record reports is held (R213, R214). -/
def State.copyFinish (s : State) (c : Copy) : State :=
  let s1 := { s with copies := s.copies.filter (fun d => d.id != c.id) }
  let t := s1.thread c.gs
  if t.uid = c.uid then
    let t1 := { t with copies := retireDone (t.copies.map (fun p => if p.1 = c.id then (c.id, true) else p)) }
    s1.setThread c.gs (match (if c.record = 0 then c.fault else none) with
      | some f => { t1 with heldFaults := holdFault (c.num, c.heldTrap f) t1.heldFaults }
      | none => t1)
  else s1

/-! Messages and channels (R216 to R220). -/

def tgKind (w : Word) : Nat := bits w 63 62
def tgChan (w : Word) : Nat := bits w 33 18
def tgLcl (w : Word) : Nat := bits w 17 9
def tgCore (w : Word) : Nat := bits w 8 6
def tgSlot (w : Word) : Nat := bits w 5 0

/-- The deterministic launch of a thread, if it is in one. -/
def Thread.detLaunch (t : Thread) : Option Nat := if t.det then t.lid else none

/-- The place a target word names, as a core of the package and a slot of it (Table 8.5): by the function's clusters, or in a
deterministic launch by its group indices (R297); indices that name no thread of the launch name no place, which `msend` refuses with
ILLEGAL_OPERAND (DESIGN CHOICE, log entry 89: R216 and R297 do not say so). -/
def State.targetPlace (s : State) (vf lid : Option Nat) (own : Nat) (w : Word) : Option (Nat × Nat) :=
  if tgKind w = 2 then some (own, tgSlot w)
  else
    match lid.bind (mget s.launches) with
    | some l =>
      let grp := tgLcl w * lrC l.record + tgCore w
      if lrC l.record ≤ tgCore w then none
      else if tgKind w = 1 then (l.slots.find? (fun x => x.2 == grp)).map (fun x => (coreOf x.1, 0))
      else if lrT l.record ≤ tgSlot w then none
      else ((l.slots.filter (fun x => x.2 == grp))[tgSlot w]?).map (fun x => (coreOf x.1, slotOf x.1))
    | none =>
      match vf.bind (mget s.vfs) with
      | some v => (v.cmap[tgLcl w]?).map (fun pc => (8 * pc + tgCore w, tgSlot w))
      | none => none

/-- The package core of that place. -/
def State.targetCore (s : State) (vf lid : Option Nat) (own : Nat) (w : Word) : Option Nat :=
  (s.targetPlace vf lid own w).map (·.1)

/-- The logical cluster of a target word is one of the function's, in a deterministic launch one of its cluster groups (R216, R297). -/
def State.targetCluster (s : State) (vf lid : Option Nat) (w : Word) : Bool :=
  match lid.bind (mget s.launches), vf.bind (mget s.vfs) with
  | some l, _ => decide (tgLcl w < lrD l.record * lrL l.record)
  | none, some v => decide (tgLcl w < v.cmap.length)
  | none, none => false

/-- A target word is admitted (R216); a channel's receiver is looked for at the arrival (R220). -/
def State.targetOk (s : State) (gs : Nat) (w : Word) : Bool :=
  let t := s.thread gs
  bits w 61 34 == 0 &&
  (match tgKind w with
   | 0 => tgChan w == 0
   | 1 => tgChan w != 0 && tgSlot w == 0
   | 2 => tgChan w == 0 && tgLcl w == 0 && tgCore w == 0
   | _ => false) &&
  (if tgKind w = 1 then s.targetCluster t.vf t.detLaunch w
   else match s.targetPlace t.vf t.detLaunch (coreOf gs) w with
   | some (gc, n) => s.partOf (64 * gc + n) == s.partOf gs
   | none => false)

/-- Issue a message (R217): a singleton of the total order at its issue. -/
def issueMsg (target payload : Word) : M Unit := do
  let s ← get
  M.require (s.targetOk s.fs target) .illegalOperand
  performNow []
  let s ← get
  let (gc, n) := (s.targetPlace s.th.vf s.th.detLaunch (coreOf s.fs) target).getD (noSlot, 0)
  let m : Msg :=
    { id := s.fresh, gs := s.fs, uid := s.th.uid, vf := s.th.vf, word := target, payload := payload, core := gc,
      slot := if tgKind target = 1 then none else some (64 * gc + n), chan := tgChan target, lid := s.th.detLaunch,
      state := .flying }
  set { s with msgs := s.msgs ++ [m], fresh := s.fresh + 1 }

/-- The channel binding of a slot's port. -/
def State.chanOf (s : State) (gs port : Nat) : Option (Nat × Chan) :=
  s.chans.find? (fun p => p.2.gs == gs && p.2.port == port)

/-- Bytes in a port's arrival queue. -/
def Thread.queueBytes (t : Thread) (port : Nat) : Nat :=
  if port = 15 then 8 * t.p15.length else (mgetD t.wq port []).length

/-- A port's queue takes another element of 8 bytes: it holds fewer than 16, or an instruction that waits at the port has
yet to take more than it holds (R18, R218). -/
def Thread.queueRoom (t : Thread) (port : Nat) : Bool :=
  decide (t.queueBytes port ≤ 120) ||
  (match t.hold with
   | some (.pop p need) => p == port && decide (t.queueBytes port < need)
   | _ => false)

/-- Append an element to a port's arrival queue. -/
def Thread.enqueue (t : Thread) (port : Nat) (v : Word) : Thread :=
  if port = 15 then { t with p15 := t.p15 ++ [v] }
  else { t with wq := mput t.wq port (mgetD t.wq port [] ++ leBytes 8 v.toNat) }

/-- The address of ring element i of a channel binding (Table 8.6). -/
def Chan.ringAddr (c : Chan) (i : Nat) : Nat := spadAddr (coreOf c.gs) (c.roff + 8 * (i % 2 ^ c.rlog))

/-- A remote store is on its way to the ring of a port: its bank holds the ring (R274). -/
def State.ringHeld (s : State) (gs port : Nat) : Bool :=
  match s.chanOf gs port with
  | some (_, c) => c.rlog != 0 && s.remotePending (spadAddr (coreOf c.gs) c.roff) (8 * 2 ^ c.rlog)
  | none => false

/-- Deliver an element to a port of a slot: queue, then ring; none when there is no room (R218), or the ring is held (R274). -/
def State.arrive (s : State) (gs port : Nat) (v : Word) : Option State :=
  let t := s.thread gs
  if s.ringHeld gs port then none else
  let ring := s.chanOf gs port
  let ringCount := (ring.map (fun p => p.2.count)).getD 0
  if t.queueRoom port ∧ ringCount = 0 then some (s.setThread gs (t.enqueue port v))
  else
    match ring with
    | some (k, c) =>
      if c.rlog ≠ 0 ∧ c.count < 2 ^ c.rlog then
        some ({ s with chans := mput s.chans k { c with count := c.count + 1 } }.performAll none
          [.write (c.ringAddr (c.head + c.count)) (leBytes 8 v.toNat)])
      else none
    | none => none

/-- Move one element from a port's ring to its queue, if there is one and room for it (R218). -/
def State.refillOne (s : State) (gs port : Nat) : State :=
  match s.chanOf gs port with
  | some (k, c) =>
    if 0 < c.count ∧ (s.thread gs).queueRoom port ∧ !s.ringHeld gs port then
      { s with chans := mput s.chans k { c with head := (c.head + 1) % 2 ^ c.rlog, count := c.count - 1 } }.setThread gs
        ((s.thread gs).enqueue port (s.dwordAt (c.ringAddr c.head)))
    else s
  | none => s

/-- Refill a port's queue from its ring (R218). -/
def State.refill (s : State) (gs port : Nat) : State :=
  (List.range (((s.chanOf gs port).map (fun (p : Nat × Chan) => p.2.count)).getD 0)).foldl
    (fun (s : State) _ => s.refillOne gs port) s

/-- Remember that the unit popped bytes of a port. -/
def notePopped (port n : Nat) : M Unit :=
  modify (fun s => { s with unit := { s.unit with popped := mput s.unit.popped port (mgetD s.unit.popped port 0 + n) } })

/-- Leave rotation until the port's queue holds the bytes the unit takes from it (R18). -/
def holdPop (port n : Nat) : M α := do
  let s ← get
  M.hold (.pop port (mgetD s.unit.popped port 0 + n))

/-- Pop one element from p15 (R18, R217); a chunk remembers it for a squash (R11). -/
def popP15 : M Word := do
  let s ← get
  match s.th.p15 with
  | v :: rest =>
    modTh (fun t => { t with p15 := rest })
    modChunk (fun c => { c with pops := mput c.pops 15 (mgetD c.pops 15 [] ++ [v]) })
    modify (fun s => s.refill s.fs 15)
    notePopped 15 8
    pure v
  | [] => holdPop 15 8

/-- Pop n bytes from the byte queue of a channel-bound w port (R217). -/
def popBytes (port n : Nat) : M (List Byte) := do
  let s ← get
  let q := mgetD s.th.wq port []
  if q.length < n then holdPop port n
  else
    modTh (fun t => { t with wq := mput t.wq port (q.drop n) })
    modChunk (fun c => { c with
      pops := mput c.pops port (mgetD c.pops port [] ++ (q.take n).map (fun b => BitVec.zeroExtend 64 b)) })
    modify (fun s => s.refill s.fs port)
    notePopped port n
    pure (q.take n)

/-- The partition of a message's sender. -/
def State.msgPart (s : State) (m : Msg) : Option Nat := (m.vf.bind (mget s.vfs)).map VFunc.part

/-- Where a message goes: the slot and port, if there is one to take it (R219, R220); a channel that another partition's slot has bound takes
none (R371). -/
def State.msgPort (s : State) (m : Msg) : Option (Nat × Nat) :=
  match s.targetPlace m.vf m.lid (coreOf m.gs) m.word with
  | none => none
  | some (gc, n) =>
    if tgKind m.word = 1 then
      (mget s.chans (65536 * gc + m.chan)).bind (fun (c : Chan) =>
        if c.gs < noSlot ∧ s.partOf c.gs = s.msgPart m then some (c.gs, c.port) else none)
    else
      let gs := 64 * gc + n
      if (s.thread gs).live && (s.thread gs).vf == m.vf then some (gs, 15) else none

/-- The message's word names the place of an absent thread: on its sender's core, by the groups of its deterministic launch, or by its
function's places. -/
def State.namesAway (s : State) (m : Msg) (a : Away) : Bool :=
  let bound := a.t.a.ports.any (fun p => p.2 == .channel m.chan)
  if tgKind m.word = 2 then (mget s.vfs a.vf).map (fun v => v.placeOf (64 * m.core + tgSlot m.word)) == some a.place
  else
    match m.lid.bind (mget s.launches) with
    | some l =>
      a.t.lid == m.lid && groupOf l.record a.t.gid == tgLcl m.word * lrC l.record + tgCore m.word &&
        (if tgKind m.word = 1 then bound else (a.t.gid.getD 0 0).toNat == tgSlot m.word)
    | none =>
      if tgKind m.word = 1 then a.place / 64 == tgLcl m.word * 8 + tgCore m.word && bound
      else a.place == tgLcl m.word * 512 + tgCore m.word * 64 + tgSlot m.word

/-- The message is for a thread, or a channel of one, that a handover has taken off its slot (R322). -/
def State.absentFor (s : State) (m : Msg) : Bool :=
  (s.msgPort m).isNone && s.away.any (fun a => a.t.live && some a.vf == m.vf && s.namesAway m a)

/-- Two messages name one receiver: by their words, or by the place these named at their issue. -/
def Msg.sameTarget (x m : Msg) : Bool := x.word == m.word || (x.core == m.core && x.slot == m.slot && x.chan == m.chan)

/-- The message is the first of its sender to its target on its way; in a deterministic launch, the first of the launch to
the queue (R217). -/
def State.msgFirst (s : State) (m : Msg) : Bool :=
  match s.msgs.find? (fun x => (x.uid == m.uid && x.sameTarget m) ||
      (m.lid.isSome && x.lid == m.lid && (s.msgPort m).isSome && s.msgPort x == s.msgPort m)) with
  | some x => x.id == m.id
  | none => false

/-- Replace the state of a message. -/
def State.setMsg (s : State) (id : Nat) (st : MsgState) : State :=
  { s with msgs := s.msgs.map (fun x => if x.id = id then { x with state := st } else x) }

/-- The state of a message that found no room: a full reply goes back to its sender, which is out of rotation already where the message was
resent (R218). -/
def Msg.turnedAway (m : Msg) : MsgState := if m.state = .resent then .held else .full

/-- A message reaches its target: it enters the queue, meets a full one, or is refused (R217, R218, R220). -/
def State.msgArrive (s : State) (m : Msg) : State :=
  match s.msgPort m with
  | none => s.setMsg m.id (if s.absentFor m then m.turnedAway else .refused)
  | some (gs, port) =>
    match s.arrive gs port m.payload with
    | some s1 => { s1 with msgs := s1.msgs.filter (fun x => x.id != m.id) }
    | none => if s.ringHeld gs port then s else s.setMsg m.id m.turnedAway

/-! Engine ports (R19, R210, Table 8.3). -/

/-- The matrix command an AM word names (Table 7.3), with which of XA, XB and XD it reads. -/
def matOpOf : Instr → Option MatOp
  | .mma f _ _ _ => some (.mma f.toNat)
  | .mmaNarrow f _ _ _ => some (.mma (7 + f.toNat))
  | .mmode _ => some .mmode
  | .mscale _ _ => some .mscale
  | .mbar => some .mbar
  | .mld _ _ _ => some .mld
  | .mzero _ => some .mzero
  | .mdrain f _ _ => some (.mdrain f.toNat)
  | .mtrans _ _ => some .mtrans
  | .mcpy _ _ => some .mcpy
  | _ => none

/-- Element 0 of a p12 command: bits 7:0 other than OP are ignored, XD, XA and XB and bits 63:32 are zero (Table 8.3). -/
def commandWord (v : Word) : Option MatOp :=
  if bits v 63 32 ≠ 0 ∨ bits v 28 8 ≠ 0 then none
  else
    match decode (BitVec.ofNat 32 (bits v 31 0 / 4 * 4 + 3)) with
    | .ok i => matOpOf i
    | .error _ => none

/-- Elements of a command of an engine port. -/
def stageSize (code : Nat) : Nat := if code = 14 then 2 else 4

/-- A trap of a completed command empties the staging of its port (R210). -/
def unstaging (code : Nat) (m : M α) : M α := fun s =>
  match m s with
  | .error (.trap t) => .error (.trap { t with unstage := some code })
  | r => r

/-- One push to p12, p13 or p14: staged, or the whole command issued with its last element (R210). A failing check of the
equivalent instruction traps at the last push and empties the staging. -/
def pushEngine (code : Nat) (v : Word) : M Unit := do
  let s ← get
  let q := mgetD s.th.staged code []
  if code = 12 ∧ q = [] ∧ (commandWord v).isNone then M.cause .illegalInstruction
  else if q.length + 1 < stageSize code then
    modTh (fun t => { t with staged := mput t.staged code (q ++ [v]) })
  else
    modTh (fun t => { t with staged := mdel t.staged code })
    unstaging code (match code, q with
    | 12, [w, a, b] =>
      match commandWord w with
      | some op => issueMat op v a b
      | none => M.cause .illegalInstruction
    | 13, [d, sr, n] => issueCopy d sr n v (decide (v ≠ 0))
    | 14, [t] => issueMsg t v
    | _, _ => M.cause .illegalOperand)

end Sys2Proof.Machine
end

