-- ==== Sys2Proof/Machine/Operands.lean ====
section
/-!
DEFINITION. The operand forms: which operands a word names, the checks of Table 3.11 on them, and their reading and
writing: register fields, ports, predicates and vector fields (R14 to R23, R84, R92, R154, R155).
-/

namespace Sys2Proof.Machine

/-- One operand of an instruction. Element sizes are given by their base-two logarithm in bytes. -/
inductive Opd where
  /-- A-class register fields: source, destination, and source and destination at once (R14, R16). -/
  | as (f : BitVec 7)
  | ad (f : BitVec 7)
  | aa (f : BitVec 7)
  /-- C-class register fields: source, destination, and ranges of n registers. -/
  | cs (f : BitVec 7)
  | cd (f : BitVec 7)
  | cdr (f : BitVec 7) (n : Nat)
  | csr (f : BitVec 7) (n : Nat)
  /-- Vector fields: source, destination, accumulator, and a source that must be a v register. -/
  | vs (f : BitVec 5) (esz : Nat)
  | vd (f : BitVec 5) (esz : Nat)
  | va (f : BitVec 5)
  | vx (f : BitVec 5)
  /-- Port fields: of `sopen`, of `sclose`, of `sseek` and `spos`, of `br.end`, of the channel instructions. -/
  | sopenP (p : Nat)
  /-- The first register of a stream descriptor (R134). -/
  | descr (f : BitVec 7)
  | strm (p : Nat)
  | bound (p : Nat)
  | endp (p : Nat)
  | chan (p : Nat)
  /-- Control-register numbers of `csrr`, `csrw` and `rdc`. -/
  | csrR (c : Nat)
  | csrW (c : Nat)
  | rdc (c : Nat)
deriving DecidableEq, Repr

/-- Log of the element size of a float SZ code (Table 3.6). -/
def fszLog (s : BitVec 2) : Nat := if s.toNat = 3 then 3 else if s.toNat = 2 then 2 else 1

/-- Log of the element size of a vector conversion code; a sub-byte format counts as one byte (Table 3.6, R168). -/
def cfmtLog (c : Nat) : Nat :=
  match c with
  | 1 | 4 | 5 => 1
  | 2 | 6 => 2
  | 3 | 7 => 3
  | _ => 0

/-- Log of the element size of `vred` and `vscan`: integer SZ below operation 5, float SZ from it on (R170). -/
def redLog (s : BitVec 2) (o : BitVec 3) : Nat := if o.toNat < 5 then s.toNat else fszLog s

/-- The register, port and control-register operands a word names, in field order A, B, D (R14, R20, R22, R84). -/
def operandsOf : Instr → List Opd
  | .ld _ _ a d | .ldz _ _ a d | .amof _ _ a d | .amofE _ _ a d | .qres _ a d | .jalr _ a d | .monw a d
  | .wsleep a d | .tkey a d | .sstart a d
    => [.cs a, .cd d]
  | .st _ _ a d | .amo _ _ a d | .amoE _ _ a d | .qrel _ a d
    => [.cs a, .cs d]
  | .ldx _ _ b a d | .cas _ b a d | .fork b a d
    => [.cs a, .cs b, .cd d]
  | .stx _ _ b a d | .cpy b a d | .tspawn b a d
    => [.cs a, .cs b, .cs d]
  | .ldm _ n a d
    => [.cs a, .cdr d (n.toNat + 1)]
  | .stm _ n a d
    => [.cs a, .csr d (n.toNat + 1)]
  | .ldk _ d | .jal _ d | .loop _ d
    => [.cd d]
  | .pf _ _ a _ | .mona _ a _ | .watch _ a | .lock a _ | .unlock a | .tmset a | .sstop a
    => [.cs a]
  | .br _ _ _ | .jmp _ | .fence | .fenceE | .wait _ _ _ _ | .cut | .direct | .resume | .isync | .join
  | .exit | .trap _ | .wfi | .brk _ | .eret | .hcall _ | .hint _ _ | .plog _ _ _ _ | .vrel | .mbar
    => []
  | .brEnd _ _ p
    => [.endp p.toNat]
  | .sopen _ _ _ _ p a
    => [.sopenP p.toNat, .cs a, .descr a]
  | .sclose p
    => [.strm p.toNat]
  | .sseek p a
    => [.bound p.toNat, .cs a]
  | .spos p d
    => [.bound p.toNat, .cd d]
  | .clean b a | .inval b a | .iflush b a | .msend b a | .redcfg b a | .rqput b a
    => [.cs a, .cs b]
  | .vld _ _ _ a s d
    => [.cs a, .vd d s.toNat]
  | .vst _ _ _ a s d
    => [.cs a, .vs d s.toNat]
  | .vlds _ b a s d
    => [.cs a, .cs b, .vd d (2 + s.toNat)]
  | .vsts _ b a s d
    => [.cs a, .cs b, .vs d (2 + s.toNat)]
  | .vgat _ _ i a s d
    => [.cs a, .vs i (2 + s.toNat), .vd d (2 + s.toNat)]
  | .vsct _ _ i a s d
    => [.cs a, .vs i (2 + s.toNat), .vs d (2 + s.toNat)]
  | .cpyw b a d
    => [.cs a, .cs b, .csr d 2]
  | .chbind p a
    => [.chan p.toNat, .cs a]
  | .chunbind p
    => [.chan p.toNat]
  | .redc c _ a d
    => [.cs a, .vs d (cfmtLog c.toNat)]
  | .rqtake b d
    => [.cs b, .cd d]
  | .csrr c d
    => [.csrR c.toNat, .cd d]
  | .csrw c a
    => [.csrW c.toNat, .cs a]
  | .rdc c d
    => [.rdc c.toNat, .cd d]
  | .add b a d | .sub b a d | .and b a d | .or b a d | .xor b a d | .andn b a d | .sll b a d
  | .srl b a d | .sra b a d | .rol b a d | .min b a d | .max b a d | .minu b a d | .maxu b a d
  | .mulh b a d | .mulhu b a d | .mul b a d | .div b a d | .divu b a d | .rem b a d | .remu b a d
  | .leaS1 b a d | .leaS2 b a d | .leaS3 b a d | .bext b a d | .sel _ b a d | .faddHf b a d
  | .fsubHf b a d | .fmulHf b a d | .fdivHf b a d | .fminHf b a d | .fmaxHf b a d | .faddBf b a d
  | .fsubBf b a d | .fmulBf b a d | .fdivBf b a d | .fminBf b a d | .fmaxBf b a d | .faddS b a d
  | .fsubS b a d | .fmulS b a d | .fdivS b a d | .fminS b a d | .fmaxS b a d | .faddD b a d
  | .fsubD b a d | .fmulD b a d | .fdivD b a d | .fminD b a d | .fmaxD b a d | .mrd b a d
    => [.as a, .as b, .ad d]
  | .addi _ a d | .andi _ a d | .ori _ a d | .xori _ a d | .slli _ a d | .srli _ a d | .srai _ a d
  | .clz a d | .ctz a d | .pop a d | .brev a d | .fsqrtHf a d | .fclassHf a d | .fsqrtBf a d
  | .fclassBf a d | .fsqrtS a d | .fclassS a d | .fsqrtD a d | .fclassD a d | .vclaim a d | .vrenew a d
    => [.as a, .ad d]
  | .lih _ d | .pmovX _ d | .vlen _ d
    => [.ad d]
  | .lihM _ d
    => [.aa d]
  | .bins b a d | .ffmaHf b a d | .ffmaBf b a d | .ffmaS b a d | .ffmaD b a d
    => [.as a, .as b, .aa d]
  | .fcvt r _ _ a d
    => if r = 5 then [.as a, .aa d] else [.as a, .ad d]
  | .pset b a _ _ | .fcmpHf b a _ _ | .fcmpBf b a _ _ | .fcmpS b a _ _ | .fcmpD b a _ _ | .mscale b a
    => [.as a, .as b]
  | .pseti _ a _ _ | .pmovK a _ | .mmode a
    => [.as a]
  | .vadd s _ _ b a d | .vsub s _ _ b a d | .vmul s _ _ b a d | .vmulh s _ _ b a d | .vand s _ _ b a d
  | .vor s _ _ b a d | .vxor s _ _ b a d | .vsll s _ _ b a d | .vsrl s _ _ b a d | .vsra s _ _ b a d
  | .vmin s _ _ b a d | .vmax s _ _ b a d | .vminu s _ _ b a d | .vmaxu s _ _ b a d | .vsel s _ b a d
    => [.vs a s.toNat, .vs b s.toNat, .vd d s.toNat]
  | .vaddX s _ b a d | .vsllX s _ b a d | .vsrlX s _ b a d | .vsraX s _ b a d
    => [.vs a s.toNat, .as b, .vd d s.toNat]
  | .vfadd s _ _ b a d | .vfsub s _ _ b a d | .vfmul s _ _ b a d | .vfmin s _ _ b a d
  | .vfmax s _ _ b a d | .vfdiv s _ _ b a d
    => [.vs a (fszLog s), .vs b (fszLog s), .vd d (fszLog s)]
  | .vffma s _ _ b a d
    => [.vs a (fszLog s), .vs b (fszLog s), .va d]
  | .vfsqrt s _ _ a d | .vexp2 s _ a d | .vlog2 s _ a d | .vrcp s _ a d | .vrsqrt s _ a d
  | .vsin s _ a d | .vcos s _ a d
    => [.vs a (fszLog s), .vd d (fszLog s)]
  | .vfaddX s _ b a d | .vfmulX s _ b a d
    => [.vs a (fszLog s), .as b, .vd d (fszLog s)]
  | .vffmaX s _ b a d
    => [.vs a (fszLog s), .as b, .va d]
  | .vcmp s _ _ b a _
    => [.vs a s.toNat, .vs b s.toNat]
  | .vfcmp s _ _ b a _
    => [.vs a (fszLog s), .vs b (fszLog s)]
  | .vperm s _ b a d
    => [.vx a, .vs b s.toNat, .vd d s.toNat]
  | .vcomp s _ a d
    => [.vs a s.toNat, .vd d s.toNat]
  | .vbcast s _ b d
    => [.as b, .vd d s.toNat]
  | .vslide s _ b a d
    => [.vx a, .as b, .vd d s.toNat]
  | .vext _ b a d
    => [.vx a, .as b, .ad d]
  | .vcvt _ t _ _ s a d
    => [.vs a (cfmtLog s.toNat), .vd d (cfmtLog t.toNat)]
  | .vcvtNarrow _ t _ _ s a d
    => [.vs a (cfmtLog s.toNat), .vd d (cfmtLog (8 + t.toNat))]
  | .vcvtSr t s _ b a d
    => [.vs a (cfmtLog (4 + s.toNat)), .vs b 1, .vd d (cfmtLog t.toNat)]
  | .vred s o _ a d | .vscan s o _ a d
    => [.vs a (redLog s o), .vd d (redLog s o)]
  | .vrng _ b a d
    => [.vs a 3, .as b, .vd d 3]
  | .mma _ b a d | .mmaNarrow _ b a d | .mld b a d | .mst b a d
    => [.as a, .as b, .as d]
  | .mzero d
    => [.as d]
  | .mdrain _ a d | .mtrans a d | .mcpy a d
    => [.as a, .as d]
  | .interruptTaken .. | .timerExpiry .. | .chunkEndChunkmax .. | .chunkCutCycles .. | .commitRequest ..
  | .commitGrant .. | .grantArrival .. | .sig | .directFallback .. | .engineChunkGrant ..
  | .copyComplete .. | .combiningRelease .. | .reads .. | .readm .. | .fwd .. | .data .. | .wback ..
  | .ack .. | .inv .. | .binv .. | .remoteStoreMessage | .loadDataReturn .. | .storeGloballyPerformed ..
  | .streamPrefetchArrival .. | .messageArrival .. | .fullReply .. | .messageResend ..
  | .messageRefusal .. | .qresHead .. | .qrelAck .. | .edgeAtomicAtHome .. | .edgeAtomicResponse ..
  | .edgeWriteAck .. | .edgeWriteRefused .. | .monwTimeout .. | .wsleepTimeout ..
  | .matrixCommandAccept .. | .matrixCommandComplete .. | .reductionRoundDeliver .. | .childStart ..
  | .taskStart .. | .passedOverEntry .. | .queueNotify .. | .launchStart .. | .coreGroupStart ..
  | .launchComplete .. | .errorDetected .. | .linkFlitError | .heathwayPortFailure ..
  | .accessCounterThreshold .. | .regionMoveComplete .. | .cxlMemRead .. | .cxlMemWrite ..
  | .cxlCacheSnoop .. | .packageReset | .hentry .. | .functionLevelReset .. | .throttleStart ..
  | .throttleEnd .. | .thermalReset | .dbgen .. | .bpset .. | .halt .. | .step .. | .debugResume ..
  | .debugRead .. | .debugWrite .. | .samplingPulse | .counterConfig .. | .snap .. | .traceConfig ..
  | .trptr .. | .tclaim .. | .drainRequest .. | .registerWrite .. | .vset .. | .hset .. | .contain ..
  | .drain .. | .trace .. | .bstop .. | .baleFreeze .. | .baleStreamOutEnd .. | .brest .. | .hover ..
  | .slotHandover .. | .handoverResume .. | .scrubComplete | .precopy .. | .stopping .. | .abort ..
  | .resuming .. | .migrationStopped .. | .mackRelease .. | .mackSubmit .. | .pullall .. | .pull ..
  | .pullData .. | .started .. | .done .. | .remap .. | .remapack .. | .fwdend ..
  | .peerAccessArrival .. | .baleStreamInEnd .. | .mbPset .. | .mbPlog ..
    => []

/-! Control registers (Table 1.5). -/

/-- The read level of a control register: 0 user, 1 kernel; none where the number is not listed. -/
def csrReadLevel (c : Nat) : Option Nat :=
  if c ≤ 5 ∨ (8 ≤ c ∧ c ≤ 14) ∨ c = 0x10 ∨ c = 0x11 ∨ (0x40 ≤ c ∧ c ≤ 0x4F) then some 0
  else if (0x100 ≤ c ∧ c ≤ 0x104) ∨ (0x108 ≤ c ∧ c ≤ 0x10B) ∨ (0x110 ≤ c ∧ c ≤ 0x115) then some 1
  else none

/-- The write level; none where Table 1.5 gives "—". -/
def csrWriteLevel (c : Nat) : Option Nat :=
  if c = 0x10 ∨ c = 0x11 ∨ (0x40 ≤ c ∧ c ≤ 0x4F) then some 0
  else if (0x100 ≤ c ∧ c ≤ 0x104) ∨ c = 0x110 ∨ c = 0x114 then some 1
  else if c = 0x115 then some 2
  else none

/-- Number n of a shared register, or none (Table 1.5). -/
def csrShared (c : Nat) : Option Nat := if 0x40 ≤ c ∧ c ≤ 0x4F then some (c - 0x40) else none

/-- The slot reaches the shared registers of its core (R24, R362). -/
def State.reachesShared (s : State) (gs : Nat) : Bool :=
  match s.gOwner (coreOf gs) with
  | some p => s.partOf gs == some p
  | none => decide (2 ≤ (s.thread gs).level)

/-! The checks of Table 3.11, steps 3 to 6. -/

/-- Encodings privileged at kernel level (R89). -/
def kernelOnly : Instr → Bool
  | .sstart .. | .sstop .. | .wfi | .eret | .hcall .. => true
  | _ => false

/-- Step 3 for a control-register operand (R37). -/
def Opd.privileged (o : Opd) (level : Nat) : Bool :=
  match o with
  | .csrR c => match csrReadLevel c with | some l => decide (level < l) | none => false
  | .csrW c => match csrWriteLevel c with | some l => decide (level < l) | none => false
  | _ => false

/-- Port codes that name a stream port: p0–p11, w0–w3 (R135, R141). -/
def isStreamCode (p : Nat) : Bool := decide (p ≤ 11) || (decide (16 ≤ p) && decide (p ≤ 19))

/-- Step 4 for one operand: a register field beyond the window, a port where none may stand, a code not admitted
(R14, R37, R112, R123, R135, R141, R164, R167, R219). -/
def Opd.inadmissible (o : Opd) (s : State) : Bool :=
  let size := s.th.winLim
  match o with
  | .as f | .ad f | .aa f => decide (size ≤ f.toNat) && decide (f.toNat < 112)
  | .cs f | .cd f => decide (size ≤ f.toNat)
  | .cdr f n | .csr f n => decide (size < f.toNat + n)
  | .va f | .vx f => decide (28 ≤ f.toNat)
  | .sopenP p | .strm p | .bound p => !isStreamCode p
  | .endp p => decide (12 ≤ p)
  | .chan p => !(p == 15 || (decide (16 ≤ p) && decide (p ≤ 19)))
  | .descr f => decide (f.toNat = 0) || decide (size < f.toNat + 3)
  | .csrR c => (csrReadLevel c).isNone || ((csrShared c).isSome && !s.reachesShared s.fs)
  | .csrW c => (csrWriteLevel c).isNone || ((csrShared c).isSome && !s.reachesShared s.fs)
  | .rdc c => csrReadLevel c != some 0 || ((csrShared c).isSome && !s.reachesShared s.fs)
  | .vs .. | .vd .. => false

/-- The pattern binding of a port of the executing thread. -/
def Arch.stream (a : Arch) (code : Nat) : Option Stream :=
  match mget a.ports code with
  | some (.stream b) => some b
  | _ => none

/-- The port is bound to a channel. -/
def Arch.onChannel (a : Arch) (code : Nat) : Bool :=
  match mget a.ports code with
  | some (.channel _) => true
  | _ => false

/-- The port code of `br.end`'s four-bit number (R108). -/
def endCode (p : Nat) : Nat := if p < 8 then p else p + 8

/-- Pattern engines a slot may use on its core: PEN of its partition; the hypervisor's set has what no partition on the
cluster has (R135, R362). -/
def State.enginesAllotted (s : State) (gs : Nat) : Nat :=
  match s.partRec gs with
  | some p => p.pen
  | none => 8 - ((s.parts.filter (fun p => p.2.ownsCluster (clusterOf gs))).map (fun p => p.2.pen)).foldl (· + ·) 0

/-- Pattern engines in use by a slot: its stream bindings, and those given up in uncommitted chunks (R140). -/
def Thread.enginesUsed (t : Thread) : Nat :=
  (t.a.ports.filter (fun p => match p.2 with | .stream _ => true | .channel _ => false)).length +
    (t.chunks.map (·.engines)).foldl (· + ·) 0

/-- A pattern engine of the executing slot's partition is free on its core (R135). -/
def State.engineFree (s : State) : Bool :=
  let used := ((s.threads.filter (fun p => p.2.live && coreOf p.1 == coreOf s.fs && s.partOf p.1 == s.partOf s.fs)).map
    (fun p => p.2.enginesUsed)).foldl (· + ·) 0
  decide (used < s.enginesAllotted s.fs)

/-- The port an operand misuses, if it does: step 5 (R16, R22, R108, R135, R141, R155). -/
def Opd.portError (o : Opd) (s : State) : Option Nat :=
  let a := s.arch
  let unboundW (f : BitVec 5) (esz : Nat) (write : Bool) : Option Nat :=
    if f.toNat < 28 then none
    else
      let code := f.toNat - 12
      match mget a.ports code with
      | some (.stream b) => if b.write = write ∧ b.sz = esz then none else some code
      | some (.channel _) => if write then some code else none
      | none => some code
  match o with
  | .as f =>
    let n := f.toNat - 112
    if f.toNat < 112 then none
    else if 8 ≤ n ∧ n ≤ 14 then some n
    else if n ≤ 7 ∧ (a.stream n).isNone then some n else none
  | .ad f =>
    let n := f.toNat - 112
    if f.toNat < 112 then none
    else if n ≤ 7 ∨ n = 15 then some n
    else if n ≤ 11 ∧ (a.stream n).isNone then some n else none
  | .aa f => if f.toNat < 112 then none else some (f.toNat - 112)
  | .vs f esz => unboundW f esz false
  | .vd f esz => unboundW f esz true
  | .bound p => if (a.stream p).isNone then some p else none
  | .endp p => if (a.stream (endCode p)).isNone then some (endCode p) else none
  | .sopenP p => if a.onChannel p then some p else none
  | _ => none

/-- The operand names a v register: step 6 needs a grant (R21). -/
def Opd.needsClaim (o : Opd) : Bool :=
  match o with
  | .vs f _ | .vd f _ => decide (f.toNat < 28)
  | .va _ | .vx _ => true
  | _ => false

/-- Step `k` of Table 3.11 (3 to 6) for one word. -/
def stepCheck (s : State) (i : Instr) (k : Nat) : Option Trap :=
  let os := operandsOf i
  match k with
  | 3 =>
    if (kernelOnly i && decide (s.th.level = 0)) || os.any (fun o => o.privileged s.th.level) then
      some { cause := .privilege } else none
  | 4 => if os.any (fun o => o.inadmissible s) then some { cause := .illegalOperand } else none
  | 5 => (os.findSome? (fun o => o.portError s)).map (fun p => { cause := .port, portc := some p })
  | _ => if s.arch.grant = 0 && os.any Opd.needsClaim then some { cause := .claim } else none

/-- x registers a word names as destinations (R34, R123). -/
def destsOf (i : Instr) : List Nat :=
  (operandsOf i).flatMap (fun o => match o with
    | .ad f | .aa f | .cd f => [f.toNat]
    | .cdr f n => (List.range n).map (fun k => f.toNat + k)
    | _ => []) |>.filter (fun f => decide (0 < f) && decide (f < 112))

/-- Both members of a pair name one destination (R34). -/
def sameDest (c a : Instr) : Bool := (destsOf c).any (fun f => f ∈ destsOf a)

/-! Scalar operands. -/

/-- ReadX of an A-class field whose checks have passed (R14, R18). -/
def srcA (f : BitVec 7) : M Word := do
  let s ← get
  if f.toNat < 112 then pure (s.getX f.toNat)
  else if f.toNat = 127 then popP15
  else
    match s.arch.stream (f.toNat - 112) with
    | some b => do
      let v ← popStream (f.toNat - 112) b
      pure (BitVec.ofNat 64 v)
    | none => M.trap { cause := .port, portc := some (f.toNat - 112) }

/-- WriteX of an A-class field whose checks have passed (R14, R19). -/
def dstA (f : BitVec 7) (v : Word) : M Unit := do
  let s ← get
  if f.toNat < 112 then set (s.setX f.toNat v)
  else if f.toNat < 124 then
    match s.arch.stream (f.toNat - 112) with
    | some b => pushStream (f.toNat - 112) b v.toNat
    | none => M.trap { cause := .port, portc := some (f.toNat - 112) }
  else pushEngine (f.toNat - 112) v

/-- A C-class register source. -/
def srcC (f : BitVec 7) : M Word := readX f.toNat

/-- A C-class register destination. -/
def dstC (f : BitVec 7) (v : Word) : M Unit := writeX f.toNat v

/-! Vector operands (R154, R155). -/

/-- VL at an element size of 2^esz bytes (R154). -/
def vlOf (grant esz : Nat) : Nat := 4 * grant / 2 ^ esz

/-- The word a lane holds for a v register. -/
def Arch.laneWord (a : Arch) (r lane : Nat) : BitVec 32 := mgetD a.vregs (32 * lane + r) 0

/-- Replace the word of a lane. -/
def Arch.setLane (a : Arch) (r lane : Nat) (w : BitVec 32) : Arch :=
  { a with vregs := mput a.vregs (32 * lane + r) w }

/-- Byte b of a v register (R154). -/
def Arch.vbyte (a : Arch) (r b : Nat) : Byte := (a.laneWord r (b / 4)).extractLsb' (8 * (b % 4)) 8

/-- Bits lo to lo + w − 1 of a v register, read as one number. -/
def Arch.vbits (a : Arch) (r lo w : Nat) : Nat :=
  let first := lo / 8
  let n := (lo + w - 1) / 8 + 1 - first
  leNat ((List.range n).map (fun i => a.vbyte r (first + i))) / 2 ^ (lo % 8) % 2 ^ w

/-- Replace bits lo to lo + w − 1 of a lane's word. -/
def putLaneBits (x : BitVec 32) (lo w v : Nat) : BitVec 32 :=
  let m : BitVec 32 := BitVec.ofNat 32 ((2 ^ w - 1) * 2 ^ lo)
  (x &&& ~~~m) ||| (BitVec.ofNat 32 (v % 2 ^ w * 2 ^ lo) &&& m)

/-- Replace bits lo to lo + w − 1 of a v register, within one lane or over a pair of lanes. -/
def Arch.setVbits (a : Arch) (r lo w v : Nat) : Arch :=
  if w ≤ 32 ∧ lo % 32 + w ≤ 32 then
    a.setLane r (lo / 32) (putLaneBits (a.laneWord r (lo / 32)) (lo % 32) w v)
  else
    let k := 32 - lo % 32
    let a1 := a.setLane r (lo / 32) (putLaneBits (a.laneWord r (lo / 32)) (lo % 32) k v)
    a1.setLane r (lo / 32 + 1) (putLaneBits (a1.laneWord r (lo / 32 + 1)) 0 (w - k) (v / 2 ^ k))

/-- Elements below VL that bit j of a predicate makes active (R155). -/
def actives (k : BitVec 2048) (vl : Nat) : List Bool := (List.range vl).map (fun j => k.getLsbD j)

/-- How a w port pops or pushes n elements of w bits: the bytes they occupy (R58, R155). -/
def packedBytes (w n : Nat) : Nat := if w = 6 then (n + 3) / 4 * 3 else (w * n + 7) / 8

/-- Pop n bytes of a w read port, element-wise from a pattern or from the channel's byte queue (R155, R217). -/
def popW (code n : Nat) : M (List Byte) := do
  let s ← get
  match mget s.arch.ports code with
  | some (.channel _) => popBytes code n
  | some (.stream b) =>
    let mut out : List Byte := []
    for _ in List.range (n / 2 ^ b.sz) do
      let s ← get
      match s.arch.stream code with
      | some b => do
        let v ← popStream code b
        out := out ++ leBytes (2 ^ b.sz) v
      | none => pure ()
    pure out
  | none => M.trap { cause := .port, portc := some code }

/-- Element k of w bits of packed bytes. -/
def packedElem (bs : List Byte) (w k : Nat) : Nat :=
  let lo := w * k
  leNat ((bs.drop (lo / 8)).take ((lo + w - 1) / 8 + 1 - lo / 8)) / 2 ^ (lo % 8) % 2 ^ w

/-- The values of a vector source, w bits each, for the elements of a mask; 0 where nothing is read (R155). -/
def srcV (f : BitVec 5) (w : Nat) (act : List Bool) (adv : Bool) : M (List Nat) := do
  let a ← readArch
  if f.toNat < 28 then pure ((List.range act.length).map (fun j => a.vbits f.toNat (w * j) w))
  else
    let n := if adv then act.length else (act.filter id).length
    let bs ← popW (f.toNat - 12) (packedBytes w n)
    let go := act.foldl (fun (p : List Nat × Nat) b =>
      if b then (packedElem bs w p.2 :: p.1, p.2 + 1)
      else (0 :: p.1, if adv then p.2 + 1 else p.2)) ([], 0)
    pure go.1.reverse

/-- The bytes that n elements of w bits occupy, packed low bits first, unused bits zero (R58, R155). -/
def packElems (w : Nat) (vs : List Nat) : List Byte :=
  leBytes (packedBytes w vs.length) ((vs.zipIdx).foldl (fun acc p => acc + p.1 % 2 ^ w * 2 ^ (w * p.2)) 0)

/-- Push bytes to a w write port, one element of the port's size at a time (R137, R155). -/
def pushW (code : Nat) (bs : List Byte) : M Unit := do
  let s ← get
  match s.arch.stream code with
  | some b =>
    for i in List.range (bs.length / 2 ^ b.sz) do
      let s ← get
      match s.arch.stream code with
      | some b => pushStream code b (leNat ((bs.drop (i * 2 ^ b.sz)).take (2 ^ b.sz)))
      | none => pure ()
  | none => M.trap { cause := .port, portc := some code }

/-- Write a vector destination: `some v` for an active element; a masked-off element keeps its value, and pushes zero
under `.adv` (R155). -/
def dstV (f : BitVec 5) (w : Nat) (vs : List (Option Nat)) (adv : Bool) : M Unit := do
  if f.toNat < 28 then
    modArch (fun a => (vs.zipIdx).foldl (fun (a : Arch) p => match p.1 with
      | some v => a.setVbits f.toNat (w * p.2) w v
      | none => a) a)
  else
    let out := vs.filterMap (fun v => match v with
      | some x => some x
      | none => if adv then some 0 else none)
    pushW (f.toNat - 12) (packElems w out)

end Sys2Proof.Machine
end

