-- ==== Sys2Proof/Machine/Flags.lean ====
section
/-!
DEFINITION. The floating-point control and flag registers: the rounding mode, saturation and the raising of flags
(R60, R67 to R69), and the integer conditions (Table 3.7).
-/

namespace Sys2Proof.Machine

/-- FCTL.RM as a rounding mode. -/
def Arch.rm (a : Arch) : RMode := RMode.ofCode 7 (bits a.fctl 2 0) 0

/-- FCTL.SATF (R65). -/
def Arch.satf (a : Arch) : Bool := bit a.fctl 5

/-- FCTL of a written value: reserved bits are ignored (R67). -/
def fctlWrite (v : Word) : Word := BitVec.ofNat 64 (bits v 12 8 * 256 + bits v 5 5 * 32 + bits v 2 0)

/-- A written RM is admitted (R67). -/
def fctlOk (v : Word) : Bool := decide (bits v 2 0 ≤ 4)

/-- The enabled flags among some (R69). -/
def Arch.enabled (a : Arch) (fl : FFlags) : FFlags := fl &&& a.fctl.extractLsb' 8 5

/-- Set sticky flags (R68). -/
def Arch.addFlags (a : Arch) (fl : FFlags) : Arch := { a with fflags := a.fflags ||| fl.zeroExtend 64 }

/-- Raise the flags of a scalar instruction, or trap with ARITH (R68, R69). -/
def raiseFlags (fl : FFlags) : M Unit := do
  let s ← get
  if s.arch.enabled fl ≠ 0 then M.trap { cause := .arith, afl := fl }
  else modArch (fun a => a.addFlags fl)

/-- Raise the flags of a vector instruction, given by element index: ARITH names the lowest index that raised an enabled
flag (R68, R69, Table 16.3). -/
def raiseVec (fls : List (Nat × FFlags)) : M Unit := do
  let s ← get
  let all : FFlags := fls.foldl (fun acc p => acc ||| p.2) 0
  match ((fls.filter (fun p => s.arch.enabled p.2 != 0)).map (·.1)).min? with
  | some j => M.trap { cause := .arith, afl := all, ev := true, info2 := BitVec.ofNat 64 j }
  | none => modArch (fun a => a.addFlags all)

/-- An integer condition of Table 3.7 on w-bit values. -/
def intCond (c w a b : Nat) : Bool :=
  let x := a % 2 ^ w
  let y := b % 2 ^ w
  match c with
  | 0 => x == y
  | 1 => x != y
  | 2 => decide (signedOf w x < signedOf w y)
  | 3 => decide (signedOf w y ≤ signedOf w x)
  | 4 => decide (x < y)
  | _ => decide (y ≤ x)

end Sys2Proof.Machine
end

