-- ==== Sys2Proof/Machine/Issue.lean ====
section
/-!
DEFINITION. The issue of a unit: where chunks end and begin around it, the checks before it, what a trap or a hold in it
does, and what it leaves when it completes (R32 to R35, R92, R119, R120, R208, R238 to R242, R253, R263, R310, R311).
-/

namespace Sys2Proof.Machine

/-- The outcome of a unit or an event. -/
abbrev Outcome := Host.Outcome State Fault Refusal

/-- The word is one that ends the chunk before it and is performed outside any chunk: the boundary instructions of R120, those
marked "before, outside" in Table 8.1, the matrix commands (R187). -/
def boundaryWord (i : Instr) : Bool :=
  match i with
  | .qres .. | .qrel .. | .fenceE | .amoE .. | .amofE .. | .mona .. | .monw .. | .wsleep .. => true
  | .cpy .. | .cpyw .. | .msend .. | .chbind .. | .chunbind .. | .redcfg .. | .redc .. => true
  | .join | .rqput .. | .rqtake .. | .tmset .. | .sstart .. | .sstop .. => true
  | .exit | .trap .. | .wfi | .brk .. | .eret | .hcall .. => true
  | .mma .. | .mmaNarrow .. | .mmode .. | .mscale .. | .mbar | .mld .. | .mzero .. | .mdrain .. | .mtrans ..
  | .mcpy .. => true
  | _ => false

/-- The word pushes to an engine port, p12 to p14 (R19). -/
def pushesEngine (i : Instr) : Bool :=
  (operandsOf i).any (fun o => match o with
    | .ad f => decide (124 ≤ f.toNat) && decide (f.toNat ≤ 126)
    | _ => false)

/-- The word ends the chunk before it and is performed outside any chunk (R19, R120, R187, R208). -/
def isBoundary (i : Instr) : Bool := boundaryWord i || pushesEngine i

/-- The word pops an arrival queue: p15 or a w port bound to a channel (R18). -/
def State.popsQueue (s : State) (i : Instr) : Bool :=
  (operandsOf i).any (fun o => match o with
    | .as f => f.toNat == 127
    | .vs f _ => decide (28 ≤ f.toNat) && s.arch.onChannel (f.toNat - 12)
    | _ => false)

/-- The unit stands outside any chunk: by its words, or by a pop in a deterministic launch (R299). -/
def State.standsOutside (s : State) (is : List Instr) : Bool :=
  is.any isBoundary || (s.th.det && is.any s.popsQueue)

/-- Registers whose values a word reads: x registers by number, v registers from 128 on; `fork` and `tspawn` pass x3 on (R223, R224). -/
def readsOf (i : Instr) : List Nat :=
  (operandsOf i).flatMap (fun o => match o with
    | .as f | .aa f | .cs f => [f.toNat]
    | .csr f n => (List.range n).map (fun k => f.toNat + k)
    | .descr f => (List.range 6).map (fun k => f.toNat + k)
    | .vs f _ | .va f | .vx f => [128 + f.toNat]
    | _ => []) ++
  (match i with | .fork .. | .tspawn .. => [3] | _ => [])

/-- Registers that a counted load has yet to write. -/
def Thread.dueRegs (t : Thread) : List Nat :=
  (t.loads.flatMap id).map (fun d => match d with
    | .x f _ _ => f
    | .elems r _ _ _ => 128 + r)

/-- A deterministic launch holds a thread that reads a register whose load is counted (R301). -/
def State.readsDue (s : State) (is : List Instr) : Bool :=
  s.th.det && (is.flatMap readsOf).any (fun f => f ∈ s.th.dueRegs)

/-- The word ends the chunk before it and is the first of the next (Table 10.1). -/
def isCsrw (i : Instr) : Bool := match i with | .csrw .. => true | _ => false

/-- The word ends the chunk after it (Table 10.1). -/
def endsAfter (i : Instr) : Bool := match i with | .cut | .direct => true | _ => false

/-! Ends and beginnings (R238, R242, R253). -/

/-- End the executing chunk; one that holds no instruction is dropped (R238). -/
def Thread.endChunk (t : Thread) : Thread :=
  match t.cur with
  | some c => if c.len = 0 then { t with chunks := t.chunks.dropLast } else t.modLast (fun c => { c with ended := true })
  | none => t

/-- Whatever follows a task's first chunk runs in direct mode (R304). -/
def Thread.taskDirect (t : Thread) : Thread :=
  if t.ord then { t with a := { t.a with status := putBit t.a.status 12 true } } else t

/-- End the direct fallback: SQ is set to 0 and chunked execution resumes (R253). -/
def Thread.endFallback (t : Thread) : Thread := { t with fallback := none, sq := 0 }.taskDirect

/-- The 20,000-cycle cut is due (R238, R241). -/
def State.cutDue (s : State) (c : Chunk) : Bool := !s.exactCount s.fs && decide (c.start + 20000 ≤ s.cycle)

/-- What ends before a unit of n instructions: the executing chunk or the fallback (Table 10.1, R253). -/
def State.endsBefore (s : State) (outside csrw : Bool) (n : Nat) : State :=
  let t := s.th
  if t.dir then s
  else
    match t.fallback with
    | some f => if outside || (csrw && decide (0 < f.len)) || decide (f.max < f.len + n) then s.setTh t.endFallback else s
    | none =>
      match t.cur with
      | none => s
      | some c =>
        if outside || csrw || decide (c.max < c.len + n) || s.cutDue c then s.setTh t.endChunk else s

/-- The lengths of the chunk entries of a partition's log that name a place, from a position on (R263). -/
def State.logLens (s : State) (p : Part) (place : Nat) : Nat → Nat → List Nat
  | 0, _ => []
  | n + 1, pos =>
    let e := s.dwordAt (p.logBase + pos)
    let rest := s.logLens p place n (pos + 8)
    if bits e 17 0 = place ∧ bits e 39 38 = kindChunk then bits e 31 18 :: rest else rest

/-- Where the next chunk of the executing slot ends at the latest: CHUNKMAX, or in replay the LEN of its log entry, the one that follows
those of its chunks not yet granted (R38, R263). -/
def State.chunkLimit (s : State) : Nat :=
  match s.partRec s.fs with
  | some p =>
    if p.policy / 2 = 2 then
      let ls := s.logLens p (s.logPlace s.fs) ((p.logLen - p.logPos) / 8) p.logPos
      match ls[(s.th.chunks.filter (fun c => !c.granted)).length]? with
      | some n => if n = 0 then s.th.chunkmax else n
      | none => s.th.chunkmax
    else s.th.chunkmax
  | none => s.th.chunkmax

/-- A new executing chunk with the present state as its checkpoint (R243), under POLICY as it stands (R235). -/
def State.newChunk (s : State) : Chunk :=
  { ckpt := s.arch, ckptX := s.windowOf s.fs, len := 0, max := s.chunkLimit, start := s.cycle, reads := [], writes := [],
    log := [], entered := 0, scn := 0, lcn := 0, deferred := [], policy := s.policyOf s.fs, trans := [], pops := [], lanes := 0,
    engines := 0, rsb := 0, ended := false, requested := none, granted := false }

/-- Nothing of the thread is outstanding in LC or SC. -/
def Thread.quiet (t : Thread) : Bool := t.loads.isEmpty && t.drained

/-- Prepare the state for a unit to issue in it, or say why it is held: a boundary waits for every earlier chunk and
operation and, in a deterministic or ordered launch, for its place; direct mode waits for loads; a chunk begins, a task's
second one never (R119, R120, R208, R242, R253, R256, R298, R304). -/
def State.beginUnit (s : State) (outside : Bool) : Except Stop State :=
  let t := s.th
  if outside then
    if t.chunks.isEmpty && t.quiet then
      if (t.det || t.ord) && !s.keyTurn s.fs then .error (.hold .boundary)
      else .ok { s with unit := { s.unit with outside := true } }
    else .error (.hold .boundary)
  else if t.directMode then
    if t.chunks.isEmpty && t.loads.isEmpty && (!(t.det || t.ord) || s.keyTurn s.fs) then .ok s
    else .error (.hold .retry)
  else if t.cur.isSome then .ok s
  else if t.chunks.length < 2 ∧ t.quiet ∧ !(t.ord && !t.chunks.isEmpty) then .ok (s.setTh { t with chunks := t.chunks ++ [s.newChunk] })
  else .error (.hold .boundary)

/-! What is due before a unit (R220, R312, R314). -/

/-- The slot waits in a unit that has issued and whose answer is still to come, so that nothing is taken before it. -/
def Hold.answering : Hold → Bool
  | .qresWait .. | .qresReply .. | .qresPoison | .qrelWait .. | .qrelDone | .edgeWait .. | .edgeDone .. | .edgeReply ..
  | .sstop .. => true
  | _ => false

/-- The unit's answer has come: it completes when it issues again (R128, R130, R147). -/
def Hold.answered : Hold → Bool
  | .sleepDone .. | .qresReply .. | .qresPoison | .qrelDone | .edgeReply .. => true
  | _ => false

/-- A request of the unit is on its way, and the slot has left rotation until its answer has come (R128, R130, R293). -/
def Hold.awaits : Hold → Bool
  | .qresWait .. | .qrelWait .. | .edgeWait .. | .edgeDone .. => true
  | _ => false

/-- The slot waits in a unit that an interrupt makes return first: `monw`, `wsleep`, `wfi` (R147, R149, R234). -/
def Hold.returning : Hold → Bool
  | .sleep .. | .sleepDone .. | .wfi => true
  | _ => false

/-- The pending interrupts that are enabled (R314). -/
def Thread.enabled (t : Thread) : List Intr := t.pend.filter t.intEnabled

/-- A refused message is due (R220), or an interrupt is (R312). -/
def Thread.messageDue (t : Thread) : Bool :=
  !t.refused.isEmpty && !(match t.hold with | some h => h.answering | none => false)
def Thread.intrDue (t : Thread) : Bool :=
  !t.enabled.isEmpty && !(match t.hold with | some h => h.answering || h.returning | none => false)

/-! Checks (R92). -/

/-- The first failing check of steps 3 to 6 of Table 3.11, the C-class or first word before the second at each step. -/
def State.unitChecks (s : State) (is : List Instr) : Option Trap :=
  [3, 4, 5, 6].findSome? (fun k =>
    match is with
    | [c, a] =>
      (stepCheck s c k) <|> ((stepCheck s a k).map (fun t => { t with second := true })) <|>
        (if k = 4 ∧ sameDest c a then some { cause := .illegalOperand, whole := true } else none)
    | _ => is.findSome? (fun i => stepCheck s i k))

/-! Completion. -/

/-- A completed unit of n instructions: the program counter moves, ICOUNT and the chunk's count rise, and the chunk or
the fallback ends where Table 10.1 ends it (R35, R106, R238, R239). -/
def State.finishUnit (s : State) (n : Nat) (after : Bool) : State :=
  let t := s.th
  -- the thread has ended (R231)
  if !t.live then s else
  let ic := t.a.icount + BitVec.ofNat 64 n
  let a := if s.unit.entered then { t.a with icount := ic }
    else { t.a with pc := s.unit.target.getD s.unit.next, icount := ic }
  let t1 := { t with
    a := a, entry := s.unit.entered, hold := none, evald := none, stepping := false
    dbgCause := if t.stepping || t.dbgCause.isSome then none else t.dbgCause }
  let t2 :=
    if s.unit.outside then (if t1.det then { t1 with ent := t1.ent + 1 } else t1)
    else
      match t1.fallback with
      | some f =>
        if after || decide (f.max ≤ f.len + n) then t1.endFallback
        else { t1 with fallback := some { f with len := f.len + n } }
      | none =>
        let t3 := t1.modLast (fun c => { c with len := c.len + n })
        match t3.cur with
        | some c => if after || decide (c.max ≤ c.len) then t3.endChunk else t3
        | none => t3
  match s.unit.park with
  | some h => s.setTh { t with hold := some h }
  | none => s.setTh t2

/-- The word returns from a handler. -/
def isEret (i : Instr) : Bool := match i with | .eret => true | _ => false

/-- What a completed unit of n instructions leaves with the observers: its slot has issued in this cycle (R395), the counters
count it (R393), a taken transfer is traced (R396). A unit that waits for an answer is counted when it completes. -/
def State.observe (s : State) (is : List Instr) : State :=
  let s1 := { s with issued := s.fs :: s.issued }
  if s.unit.park.isSome then s1
  else
    let s2 := (s1.count s.fs 0x02 1).count s.fs 0x03 is.length
    match s.unit.target with
    | some t => s2.traceRec s.fs (if is.any isEret then 3 else 1) s.unit.addr t
    | none => s2

/-! Stops. -/

/-- The hold is a condition of the issue alone, evaluated again at every issue. -/
def Hold.plain : Hold → Bool
  | .retry | .boundary => true
  | _ => false

/-- The hold keeps how far its unit has come: what it has read, when it arrived or went to sleep. -/
def Hold.keeps : Hold → Bool
  | .sleep .. | .gather _ | .request .. => true
  | h => h.answering

/-- The hold that a slot has after its unit stopped with another: an answer that has come stays, and a condition of the issue alone undoes
no progress of the unit (R51, R299). -/
def Hold.after (h : Hold) : Option Hold → Option Hold
  | some a => if a.answered || (h.plain && a.keeps) then none else some h
  | none => some h

/-- Put the slot out of rotation; the unit has no effect (R18). A wait at an arrival queue lets its ring fill it; a wait for a page
pulls it (R341); a write that waits for the host's copies recalls them (R349); an element read takes its place (R298). A unit whose answer
has come keeps it (R51). -/
def State.holdUnit (s : State) (h : Hold) : State :=
  let s1 := match h.after s.th.hold with
    | some h => s.setTh { s.th with hold := some h, evald := if s.th.det && s.keyTurn s.fs then some s.th.ent else none }
    | none => s
  match h with
  | .pop p _ => s1.refill s.fs p
  | .pull v p => s1.askPull v p
  | .request _ items => s1.backInvalidate items
  | .gather _ => (if s1.th.det then s1.setTh { s1.th with ent := s1.th.ent + 1, evald := none } else s1).sawShared s1.fs
  | _ => s1

/-- Raise a cause at the unit (R310, R311). -/
def State.raiseUnit (s : State) (t : Trap) : State :=
  let s1 := match t.unstage with
    | some code => s.setTh { s.th with staged := mdel s.th.staged code }
    | none => s
  s1.deliver t

/-- A unit that stopped: `s` is the state before it, `s1` the state it began in, if it began (R238, R240, R241, R263). -/
def State.stopUnit (s s1 : State) (outsideRun : State → Except Stop State) (e : Stop) : State :=
  match e with
  | .trap t => s1.raiseUnit t
  | .hold h => s.holdUnit h
  | .spill => s1.squash s1.fs (s1.th.chunks.length - 1) true true
  | .diverge k l x => (s.divergence s.fs k l x).holdUnit .retry
  | .element code a =>
    let t := s.th
    s.setTh { t with
      hold := some .retry, ent := t.ent + 1
      a := { t.a with ports := t.a.ports.map (fun p => match p with
        | (c, .stream b) => (c, .stream (if c = code then { b with ahead := b.ahead ++ [a] } else b))
        | p => p) } }
  | .cut =>
    match s1.th.cur with
    | some c =>
      if 0 < c.len then s1.setTh { s1.th.endChunk with hold := none }
      else
        -- too much for an empty chunk: performed as a direct-mode operation once the older chunk is granted (R240)
        let s2 := s1.setTh s1.th.endChunk
        if s2.th.chunks.isEmpty && s2.th.quiet then
          let s3 := { s2 with unit := { s2.unit with outside := true } }
          match outsideRun s3 with
          | .ok s4 => s4
          | .error (.trap t) => s3.raiseUnit t
          | .error (.hold h) => s2.holdUnit h
          | .error _ => s2.holdUnit .retry
        else s2.holdUnit .boundary
    | none => s.holdUnit .retry

/-! Units. -/

/-- In exact-count mode the chunk or the fallback has ended before the unit, and an interrupt or MESSAGE is pending: it is taken at this
end, before the unit (R220, R241). -/
def State.dueAtEnd (s s0 : State) : Bool :=
  s.exactCount s.fs && (s.th.messageDue || s.th.intrDue) &&
    (s.th.cur.isSome && s0.th.cur.isNone || s.th.fallback.isSome && s0.th.fallback.isNone)

/-- Issue a unit: its words in order, and what they do. -/
def State.runUnit (s : State) (is : List Instr) (body : M Unit) : State :=
  let outside := s.standsOutside is
  let n := is.length
  let after := is.any endsAfter
  let s0 := s.endsBefore outside (is.any isCsrw) n
  if s.dueAtEnd s0 then s0 else
  match s0.beginUnit outside with
  | .error e => s0.stopUnit s0 .ok e
  | .ok s1 =>
    match s1.unitChecks is with
    | some t => s1.raiseUnit t
    | none =>
      if s1.readsDue is then s0.stopUnit s1 .ok (.hold .retry) else
      let run := fun (z : State) =>
        match body z with
        | .ok (_, s2) => Except.ok ((s2.finishUnit n after).observe is)
        | .error e => .error e
      match run s1 with
      | .ok s2 => s2
      | .error e => s0.stopUnit s1 run e

/-- What one word of a unit does: the whole unit when it is lone; its own effect, or why it stopped, in a pair. -/
def issue (i : Instr) (body : M Unit) (s : State) : Outcome :=
  match s.unit.role with
  | .lone => .next (s.runUnit [i] body)
  | _ =>
    match body s with
    | .ok (_, s1) => .next s1
    | .error e => .next { s with unit := { s.unit with stop := some e } }

end Sys2Proof.Machine
end

