-- ==== Sys2Proof/Machine/Scalar.lean ====
section
/-!
DEFINITION. The A-class scalar instructions: integer, immediate, bit-field, predicate and floating-point
(R93 to R105, R174 to R178).
-/

namespace Sys2Proof.Machine

/-! Three-register operations (R95, R96, R101). -/

/-- The three-register integer operations (Tables 4.1, 4.2 and 4.4). -/
inductive AluOp where
  | add
  | sub
  | and
  | or
  | xor
  | andn
  | sll
  | srl
  | sra
  | rol
  | min
  | max
  | minu
  | maxu
  | mulh
  | mulhu
  | mul
  | div
  | divu
  | rem
  | remu
  | leaS1
  | leaS2
  | leaS3
  | bext
deriving DecidableEq, Repr

/-- Signed quotient, toward zero (Table 4.2). -/
def divS (a b : Word) : Word := if b = 0 then BitVec.allOnes 64 else a.sdiv b
/-- Unsigned quotient (Table 4.2). -/
def divU (a b : Word) : Word := if b = 0 then BitVec.allOnes 64 else a / b
/-- Signed remainder (Table 4.2). -/
def remS (a b : Word) : Word := if b = 0 then a else a.srem b
/-- Unsigned remainder (Table 4.2). -/
def remU (a b : Word) : Word := if b = 0 then a else a % b

/-- The field of W bits at P, sign-extended where the descriptor asks for it (R101). -/
def bextWord (a b : Word) : Word :=
  let w := bits b 13 8 + 1
  let f := (a.toNat / 2 ^ bits b 5 0) % 2 ^ w
  if bit b 14 then signExt f w else zeroExt f w

/-- Insert the low W bits of a into d at P (R101). -/
def binsWord (a b d : Word) : Word :=
  let w := bits b 13 8 + 1
  let m : Word := BitVec.ofNat 64 ((2 ^ w - 1) * 2 ^ bits b 5 0)
  (d &&& ~~~m) ||| ((a <<< bits b 5 0) &&& m)

/-- The result of a three-register operation. -/
def AluOp.eval (o : AluOp) (a b : Word) : Word :=
  let n := bits b 5 0
  match o with
  | .add => a + b
  | .sub => a - b
  | .and => a &&& b
  | .or => a ||| b
  | .xor => a ^^^ b
  | .andn => a &&& ~~~b
  | .sll => a <<< n
  | .srl => a >>> n
  | .sra => a.sshiftRight n
  | .rol => a.rotateLeft n
  | .min => if a.slt b then a else b
  | .max => if a.slt b then b else a
  | .minu => if a.ult b then a else b
  | .maxu => if a.ult b then b else a
  | .mulh => BitVec.ofInt 64 (a.toInt * b.toInt / 2 ^ 64)
  | .mulhu => BitVec.ofNat 64 (a.toNat * b.toNat / 2 ^ 64)
  | .mul => a * b
  | .div => divS a b
  | .divu => divU a b
  | .rem => remS a b
  | .remu => remU a b
  | .leaS1 => a + (b <<< 1)
  | .leaS2 => a + (b <<< 2)
  | .leaS3 => a + (b <<< 3)
  | .bext => bextWord a b

/-- The instruction of a three-register operation. -/
def AluOp.instr (o : AluOp) (b a d : BitVec 7) : Instr :=
  match o with
  | .add => .add b a d
  | .sub => .sub b a d
  | .and => .and b a d
  | .or => .or b a d
  | .xor => .xor b a d
  | .andn => .andn b a d
  | .sll => .sll b a d
  | .srl => .srl b a d
  | .sra => .sra b a d
  | .rol => .rol b a d
  | .min => .min b a d
  | .max => .max b a d
  | .minu => .minu b a d
  | .maxu => .maxu b a d
  | .mulh => .mulh b a d
  | .mulhu => .mulhu b a d
  | .mul => .mul b a d
  | .div => .div b a d
  | .divu => .divu b a d
  | .rem => .rem b a d
  | .remu => .remu b a d
  | .leaS1 => .leaS1 b a d
  | .leaS2 => .leaS2 b a d
  | .leaS3 => .leaS3 b a d
  | .bext => .bext b a d

/-- Read A, then B, write D (R93). -/
def aluOp (o : AluOp) (b a d : BitVec 7) : M Unit := do
  let x ← srcA a
  let y ← srcA b
  dstA d (o.eval x y)

/-- `add` (R95). -/
def execAdd (b a d : BitVec 7) (s : State) : Outcome := issue (.add b a d) (aluOp .add b a d) s
/-- `sub` (R95). -/
def execSub (b a d : BitVec 7) (s : State) : Outcome := issue (.sub b a d) (aluOp .sub b a d) s
/-- `and` (R95). -/
def execAnd (b a d : BitVec 7) (s : State) : Outcome := issue (.and b a d) (aluOp .and b a d) s
/-- `or` (R95). -/
def execOr (b a d : BitVec 7) (s : State) : Outcome := issue (.or b a d) (aluOp .or b a d) s
/-- `xor` (R95). -/
def execXor (b a d : BitVec 7) (s : State) : Outcome := issue (.xor b a d) (aluOp .xor b a d) s
/-- `andn` (R95). -/
def execAndn (b a d : BitVec 7) (s : State) : Outcome := issue (.andn b a d) (aluOp .andn b a d) s
/-- `sll` (R95). -/
def execSll (b a d : BitVec 7) (s : State) : Outcome := issue (.sll b a d) (aluOp .sll b a d) s
/-- `srl` (R95). -/
def execSrl (b a d : BitVec 7) (s : State) : Outcome := issue (.srl b a d) (aluOp .srl b a d) s
/-- `sra` (R95). -/
def execSra (b a d : BitVec 7) (s : State) : Outcome := issue (.sra b a d) (aluOp .sra b a d) s
/-- `rol` (R95). -/
def execRol (b a d : BitVec 7) (s : State) : Outcome := issue (.rol b a d) (aluOp .rol b a d) s
/-- `min` (R95). -/
def execMin (b a d : BitVec 7) (s : State) : Outcome := issue (.min b a d) (aluOp .min b a d) s
/-- `max` (R95). -/
def execMax (b a d : BitVec 7) (s : State) : Outcome := issue (.max b a d) (aluOp .max b a d) s
/-- `minu` (R95). -/
def execMinu (b a d : BitVec 7) (s : State) : Outcome := issue (.minu b a d) (aluOp .minu b a d) s
/-- `maxu` (R95). -/
def execMaxu (b a d : BitVec 7) (s : State) : Outcome := issue (.maxu b a d) (aluOp .maxu b a d) s
/-- `mulh` (R95). -/
def execMulh (b a d : BitVec 7) (s : State) : Outcome := issue (.mulh b a d) (aluOp .mulh b a d) s
/-- `mulhu` (R95). -/
def execMulhu (b a d : BitVec 7) (s : State) : Outcome := issue (.mulhu b a d) (aluOp .mulhu b a d) s
/-- `mul` (R95). -/
def execMul (b a d : BitVec 7) (s : State) : Outcome := issue (.mul b a d) (aluOp .mul b a d) s
/-- `div` (R95, R96). -/
def execDiv (b a d : BitVec 7) (s : State) : Outcome := issue (.div b a d) (aluOp .div b a d) s
/-- `divu` (R95, R96). -/
def execDivu (b a d : BitVec 7) (s : State) : Outcome := issue (.divu b a d) (aluOp .divu b a d) s
/-- `rem` (R95, R96). -/
def execRem (b a d : BitVec 7) (s : State) : Outcome := issue (.rem b a d) (aluOp .rem b a d) s
/-- `remu` (R95, R96). -/
def execRemu (b a d : BitVec 7) (s : State) : Outcome := issue (.remu b a d) (aluOp .remu b a d) s
/-- `leaS1` (R95). -/
def execLeaS1 (b a d : BitVec 7) (s : State) : Outcome := issue (.leaS1 b a d) (aluOp .leaS1 b a d) s
/-- `leaS2` (R95). -/
def execLeaS2 (b a d : BitVec 7) (s : State) : Outcome := issue (.leaS2 b a d) (aluOp .leaS2 b a d) s
/-- `leaS3` (R95). -/
def execLeaS3 (b a d : BitVec 7) (s : State) : Outcome := issue (.leaS3 b a d) (aluOp .leaS3 b a d) s
/-- `bext` (R101). -/
def execBext (b a d : BitVec 7) (s : State) : Outcome := issue (.bext b a d) (aluOp .bext b a d) s

/-- `bins` (R101): D is read too. -/
def execBins (b a d : BitVec 7) (s : State) : Outcome :=
  issue (.bins b a d) (do
    let x ← srcA a
    let y ← srcA b
    let z ← srcA d
    dstA d (binsWord x y z)) s

/-! Immediate forms and unary operations (R97 to R100). -/

/-- The operations with one register source. -/
inductive UnOp where
  | addi (i : BitVec 10)
  | andi (i : BitVec 8)
  | ori (i : BitVec 8)
  | xori (i : BitVec 8)
  | slli (n : BitVec 6)
  | srli (n : BitVec 6)
  | srai (n : BitVec 6)
  | clz
  | ctz
  | pop
  | brev
deriving DecidableEq, Repr

/-- Leading zero bits of a word (R100). -/
def clzWord (a : Word) : Nat := if a = 0 then 64 else 63 - Nat.log2 a.toNat
/-- Trailing zero bits of a word (R100). -/
def ctzWord (a : Word) : Nat := ((List.range 64).find? (fun i => a.getLsbD i)).getD 64
/-- One bits of a word (R100). -/
def popWord (a : Word) : Nat := ((List.range 64).filter (fun i => a.getLsbD i)).length
/-- The bits of a word in reverse order (R100). -/
def brevWord (a : Word) : Word :=
  BitVec.ofNat 64 ((List.range 64).foldl (fun acc i => acc + if a.getLsbD i then 2 ^ (63 - i) else 0) 0)

/-- The result of an operation with one register source. -/
def UnOp.eval (o : UnOp) (a : Word) : Word :=
  match o with
  | .addi i => a + i.signExtend 64
  | .andi i => a &&& i.signExtend 64
  | .ori i => a ||| i.signExtend 64
  | .xori i => a ^^^ i.signExtend 64
  | .slli n => a <<< n.toNat
  | .srli n => a >>> n.toNat
  | .srai n => a.sshiftRight n.toNat
  | .clz => BitVec.ofNat 64 (clzWord a)
  | .ctz => BitVec.ofNat 64 (ctzWord a)
  | .pop => BitVec.ofNat 64 (popWord a)
  | .brev => brevWord a

/-- The instruction of an operation with one register source. -/
def UnOp.instr (o : UnOp) (a d : BitVec 7) : Instr :=
  match o with
  | .addi i => .addi i a d
  | .andi i => .andi i a d
  | .ori i => .ori i a d
  | .xori i => .xori i a d
  | .slli n => .slli n a d
  | .srli n => .srli n a d
  | .srai n => .srai n a d
  | .clz => .clz a d
  | .ctz => .ctz a d
  | .pop => .pop a d
  | .brev => .brev a d

/-- Read A, write D (R93). -/
def unOp (o : UnOp) (a d : BitVec 7) : M Unit := do
  let x ← srcA a
  dstA d (o.eval x)

/-- `addi` (R97). -/
def execAddi (i : BitVec 10) (a d : BitVec 7) (s : State) : Outcome := issue (.addi i a d) (unOp (.addi i) a d) s
/-- `andi` (R98). -/
def execAndi (i : BitVec 8) (a d : BitVec 7) (s : State) : Outcome := issue (.andi i a d) (unOp (.andi i) a d) s
/-- `ori` (R98). -/
def execOri (i : BitVec 8) (a d : BitVec 7) (s : State) : Outcome := issue (.ori i a d) (unOp (.ori i) a d) s
/-- `xori` (R98). -/
def execXori (i : BitVec 8) (a d : BitVec 7) (s : State) : Outcome := issue (.xori i a d) (unOp (.xori i) a d) s
/-- `slli` (R98). -/
def execSlli (n : BitVec 6) (a d : BitVec 7) (s : State) : Outcome := issue (.slli n a d) (unOp (.slli n) a d) s
/-- `srli` (R98). -/
def execSrli (n : BitVec 6) (a d : BitVec 7) (s : State) : Outcome := issue (.srli n a d) (unOp (.srli n) a d) s
/-- `srai` (R98). -/
def execSrai (n : BitVec 6) (a d : BitVec 7) (s : State) : Outcome := issue (.srai n a d) (unOp (.srai n) a d) s
/-- `clz` (R100). -/
def execClz (a d : BitVec 7) (s : State) : Outcome := issue (.clz a d) (unOp .clz a d) s
/-- `ctz` (R100). -/
def execCtz (a d : BitVec 7) (s : State) : Outcome := issue (.ctz a d) (unOp .ctz a d) s
/-- `pop` (R100). -/
def execPop (a d : BitVec 7) (s : State) : Outcome := issue (.pop a d) (unOp .pop a d) s
/-- `brev` (R100). -/
def execBrev (a d : BitVec 7) (s : State) : Outcome := issue (.brev a d) (unOp .brev a d) s

/-- `lih` with M = 0 (R99). -/
def execLih (v : BitVec 16) (d : BitVec 7) (s : State) : Outcome :=
  issue (.lih v d) (dstA d (v.signExtend 64)) s
/-- `lih` with M = 1 (R99). -/
def execLihM (v : BitVec 16) (d : BitVec 7) (s : State) : Outcome :=
  issue (.lihM v d) (do
    let x ← srcA d
    dstA d ((x <<< 16) ||| v.zeroExtend 64)) s

/-! Predicates (R102 to R105). -/

/-- `pset` (R102). -/
def execPset (b a : BitVec 7) (c : BitVec 4) (k : BitVec 3) (s : State) : Outcome :=
  issue (.pset b a c k) (do
    let x ← srcA a
    let y ← srcA b
    writeKBit k.toNat (intCond c.toNat 64 x.toNat y.toNat)) s
/-- `pseti` (R102). -/
def execPseti (i : BitVec 10) (a : BitVec 7) (c : BitVec 4) (k : BitVec 3) (s : State) : Outcome :=
  issue (.pseti i a c k) (do
    let x ← srcA a
    writeKBit k.toNat (intCond c.toNat 64 x.toNat (i.signExtend 64).toNat)) s

/-- The operations of `plog` by F (R103). -/
def plogEval (o : BitVec 2) (x y : BitVec 2048) : BitVec 2048 :=
  match o.toNat with
  | 0 => x &&& y
  | 1 => x ||| y
  | 2 => x ^^^ y
  | _ => x &&& ~~~y

/-- `plog` (R103). -/
def execPlog (o : BitVec 2) (b a k : BitVec 3) (s : State) : Outcome :=
  issue (.plog o b a k) (do
    let x ← readK a.toNat
    let y ← readK b.toNat
    modArch (fun r => r.setK k.toNat (plogEval o x y))) s
/-- `pmov kd, xa` (R104). -/
def execPmovK (a : BitVec 7) (k : BitVec 3) (s : State) : Outcome :=
  issue (.pmovK a k) (do
    let x ← srcA a
    modArch (fun r => r.setK k.toNat (x.zeroExtend 2048))) s
/-- `pmov xd, ka` (R104). -/
def execPmovX (a : BitVec 3) (d : BitVec 7) (s : State) : Outcome :=
  issue (.pmovX a d) (do
    let x ← readK a.toNat
    dstA d (x.extractLsb' 0 64)) s
/-- `sel` (R105): both sources are read. -/
def execSel (k : BitVec 3) (b a d : BitVec 7) (s : State) : Outcome :=
  issue (.sel k b a d) (do
    let x ← srcA a
    let y ← srcA b
    let p ← readK k.toNat
    dstA d (if p.getLsbD 0 then x else y)) s

/-! Scalar floating point (R174 to R178). -/

/-- The two-source floating-point operations; `ffma` also reads D. -/
inductive FpOp where
  | fadd
  | fsub
  | fmul
  | fdiv
  | fmin
  | fmax
deriving DecidableEq, Repr

/-- The result and flags of a floating-point operation (R54 to R56). -/
def FpOp.eval (o : FpOp) (f : Fmt) (m : RMode) (a b : Nat) : Nat × FFlags :=
  match o with
  | .fadd => fAdd f m a b
  | .fsub => fSub f m a b
  | .fmul => fMul f m a b
  | .fdiv => fDiv f m a b
  | .fmin => fMinMax f false a b
  | .fmax => fMinMax f true a b

/-- A floating-point operation on registers: operands are the low bits, the result is zero-extended (R174). -/
def fpOp (o : FpOp) (f : Fmt) (b a d : BitVec 7) : M Unit := do
  let x ← srcA a
  let y ← srcA b
  let s ← get
  let r := o.eval f s.arch.rm (fBits f x.toNat) (fBits f y.toNat)
  raiseFlags r.2
  dstA d (BitVec.ofNat 64 r.1)

/-- `ffma`: a × b + d, rounded once (R175). -/
def fmaOp (f : Fmt) (b a d : BitVec 7) : M Unit := do
  let x ← srcA a
  let y ← srcA b
  let z ← srcA d
  let s ← get
  let r := fFma f s.arch.rm (fBits f x.toNat) (fBits f y.toNat) (fBits f z.toNat)
  raiseFlags r.2
  dstA d (BitVec.ofNat 64 r.1)

/-- `fsqrt` (R175). -/
def sqrtOp (f : Fmt) (a d : BitVec 7) : M Unit := do
  let x ← srcA a
  let s ← get
  let r := fSqrt f s.arch.rm (fBits f x.toNat)
  raiseFlags r.2
  dstA d (BitVec.ofNat 64 r.1)

/-- `fclass` (R177). -/
def classOp (f : Fmt) (a d : BitVec 7) : M Unit := do
  let x ← srcA a
  dstA d (BitVec.ofNat 64 (fClass f (fBits f x.toNat)))

/-- `fcmp` (R176). -/
def fcmpOp (f : Fmt) (b a : BitVec 7) (c : BitVec 4) (k : BitVec 3) : M Unit := do
  let x ← srcA a
  let y ← srcA b
  let r := fCond f c.toNat (fBits f x.toNat) (fBits f y.toNat)
  raiseFlags r.2
  writeKBit k.toNat r.1

/-- `fadd.hf` (R175). -/
def execFaddHf (b a d : BitVec 7) (s : State) : Outcome := issue (.faddHf b a d) (fpOp .fadd fmtHf b a d) s
/-- `fsub.hf` (R175). -/
def execFsubHf (b a d : BitVec 7) (s : State) : Outcome := issue (.fsubHf b a d) (fpOp .fsub fmtHf b a d) s
/-- `fmul.hf` (R175). -/
def execFmulHf (b a d : BitVec 7) (s : State) : Outcome := issue (.fmulHf b a d) (fpOp .fmul fmtHf b a d) s
/-- `fdiv.hf` (R175). -/
def execFdivHf (b a d : BitVec 7) (s : State) : Outcome := issue (.fdivHf b a d) (fpOp .fdiv fmtHf b a d) s
/-- `fmin.hf` (R175). -/
def execFminHf (b a d : BitVec 7) (s : State) : Outcome := issue (.fminHf b a d) (fpOp .fmin fmtHf b a d) s
/-- `fmax.hf` (R175). -/
def execFmaxHf (b a d : BitVec 7) (s : State) : Outcome := issue (.fmaxHf b a d) (fpOp .fmax fmtHf b a d) s
/-- `ffma.hf` (R175). -/
def execFfmaHf (b a d : BitVec 7) (s : State) : Outcome := issue (.ffmaHf b a d) (fmaOp fmtHf b a d) s
/-- `fsqrt.hf` (R175). -/
def execFsqrtHf (a d : BitVec 7) (s : State) : Outcome := issue (.fsqrtHf a d) (sqrtOp fmtHf a d) s
/-- `fclass.hf` (R177). -/
def execFclassHf (a d : BitVec 7) (s : State) : Outcome := issue (.fclassHf a d) (classOp fmtHf a d) s
/-- `fcmp.hf` (R176). -/
def execFcmpHf (b a : BitVec 7) (c : BitVec 4) (k : BitVec 3) (s : State) : Outcome :=
  issue (.fcmpHf b a c k) (fcmpOp fmtHf b a c k) s
/-- `fadd.bf` (R175). -/
def execFaddBf (b a d : BitVec 7) (s : State) : Outcome := issue (.faddBf b a d) (fpOp .fadd fmtBf b a d) s
/-- `fsub.bf` (R175). -/
def execFsubBf (b a d : BitVec 7) (s : State) : Outcome := issue (.fsubBf b a d) (fpOp .fsub fmtBf b a d) s
/-- `fmul.bf` (R175). -/
def execFmulBf (b a d : BitVec 7) (s : State) : Outcome := issue (.fmulBf b a d) (fpOp .fmul fmtBf b a d) s
/-- `fdiv.bf` (R175). -/
def execFdivBf (b a d : BitVec 7) (s : State) : Outcome := issue (.fdivBf b a d) (fpOp .fdiv fmtBf b a d) s
/-- `fmin.bf` (R175). -/
def execFminBf (b a d : BitVec 7) (s : State) : Outcome := issue (.fminBf b a d) (fpOp .fmin fmtBf b a d) s
/-- `fmax.bf` (R175). -/
def execFmaxBf (b a d : BitVec 7) (s : State) : Outcome := issue (.fmaxBf b a d) (fpOp .fmax fmtBf b a d) s
/-- `ffma.bf` (R175). -/
def execFfmaBf (b a d : BitVec 7) (s : State) : Outcome := issue (.ffmaBf b a d) (fmaOp fmtBf b a d) s
/-- `fsqrt.bf` (R175). -/
def execFsqrtBf (a d : BitVec 7) (s : State) : Outcome := issue (.fsqrtBf a d) (sqrtOp fmtBf a d) s
/-- `fclass.bf` (R177). -/
def execFclassBf (a d : BitVec 7) (s : State) : Outcome := issue (.fclassBf a d) (classOp fmtBf a d) s
/-- `fcmp.bf` (R176). -/
def execFcmpBf (b a : BitVec 7) (c : BitVec 4) (k : BitVec 3) (s : State) : Outcome :=
  issue (.fcmpBf b a c k) (fcmpOp fmtBf b a c k) s
/-- `fadd.s` (R175). -/
def execFaddS (b a d : BitVec 7) (s : State) : Outcome := issue (.faddS b a d) (fpOp .fadd fmtS b a d) s
/-- `fsub.s` (R175). -/
def execFsubS (b a d : BitVec 7) (s : State) : Outcome := issue (.fsubS b a d) (fpOp .fsub fmtS b a d) s
/-- `fmul.s` (R175). -/
def execFmulS (b a d : BitVec 7) (s : State) : Outcome := issue (.fmulS b a d) (fpOp .fmul fmtS b a d) s
/-- `fdiv.s` (R175). -/
def execFdivS (b a d : BitVec 7) (s : State) : Outcome := issue (.fdivS b a d) (fpOp .fdiv fmtS b a d) s
/-- `fmin.s` (R175). -/
def execFminS (b a d : BitVec 7) (s : State) : Outcome := issue (.fminS b a d) (fpOp .fmin fmtS b a d) s
/-- `fmax.s` (R175). -/
def execFmaxS (b a d : BitVec 7) (s : State) : Outcome := issue (.fmaxS b a d) (fpOp .fmax fmtS b a d) s
/-- `ffma.s` (R175). -/
def execFfmaS (b a d : BitVec 7) (s : State) : Outcome := issue (.ffmaS b a d) (fmaOp fmtS b a d) s
/-- `fsqrt.s` (R175). -/
def execFsqrtS (a d : BitVec 7) (s : State) : Outcome := issue (.fsqrtS a d) (sqrtOp fmtS a d) s
/-- `fclass.s` (R177). -/
def execFclassS (a d : BitVec 7) (s : State) : Outcome := issue (.fclassS a d) (classOp fmtS a d) s
/-- `fcmp.s` (R176). -/
def execFcmpS (b a : BitVec 7) (c : BitVec 4) (k : BitVec 3) (s : State) : Outcome :=
  issue (.fcmpS b a c k) (fcmpOp fmtS b a c k) s
/-- `fadd.d` (R175). -/
def execFaddD (b a d : BitVec 7) (s : State) : Outcome := issue (.faddD b a d) (fpOp .fadd fmtD b a d) s
/-- `fsub.d` (R175). -/
def execFsubD (b a d : BitVec 7) (s : State) : Outcome := issue (.fsubD b a d) (fpOp .fsub fmtD b a d) s
/-- `fmul.d` (R175). -/
def execFmulD (b a d : BitVec 7) (s : State) : Outcome := issue (.fmulD b a d) (fpOp .fmul fmtD b a d) s
/-- `fdiv.d` (R175). -/
def execFdivD (b a d : BitVec 7) (s : State) : Outcome := issue (.fdivD b a d) (fpOp .fdiv fmtD b a d) s
/-- `fmin.d` (R175). -/
def execFminD (b a d : BitVec 7) (s : State) : Outcome := issue (.fminD b a d) (fpOp .fmin fmtD b a d) s
/-- `fmax.d` (R175). -/
def execFmaxD (b a d : BitVec 7) (s : State) : Outcome := issue (.fmaxD b a d) (fpOp .fmax fmtD b a d) s
/-- `ffma.d` (R175). -/
def execFfmaD (b a d : BitVec 7) (s : State) : Outcome := issue (.ffmaD b a d) (fmaOp fmtD b a d) s
/-- `fsqrt.d` (R175). -/
def execFsqrtD (a d : BitVec 7) (s : State) : Outcome := issue (.fsqrtD a d) (sqrtOp fmtD a d) s
/-- `fclass.d` (R177). -/
def execFclassD (a d : BitVec 7) (s : State) : Outcome := issue (.fclassD a d) (classOp fmtD a d) s
/-- `fcmp.d` (R176). -/
def execFcmpD (b a : BitVec 7) (c : BitVec 4) (k : BitVec 3) (s : State) : Outcome :=
  issue (.fcmpD b a c k) (fcmpOp fmtD b a c k) s

/-- The result of a scalar conversion as a register holds it: integers sign-extended, other formats zero-extended (R178). -/
def cvtResult (f : CFmt) (v : Nat) : Word :=
  match f with
  | .int w => signExt v w
  | .flt _ => BitVec.ofNat 64 v

/-- `fcvt` (R178): the random bits of `.sr` are bits 15:0 of D before the write. -/
def execFcvt (r t sc : BitVec 3) (a d : BitVec 7) (s : State) : Outcome :=
  issue (.fcvt r t sc a d) (do
    let x ← srcA a
    let u ← if r.toNat = 5 then srcA d else pure 0
    let s ← get
    let src := CFmt.ofScalar sc.toNat
    let dst := CFmt.ofScalar t.toNat
    let o := convert dst src (RMode.ofCode r.toNat (bits s.arch.fctl 2 0) (bits u 15 0)) s.arch.satf
      (x.toNat % 2 ^ src.width)
    raiseFlags o.2
    dstA d (cvtResult dst o.1)) s

end Sys2Proof.Machine
end

