-- ==== Sys2Proof/Machine/Csr.lean ====
section
/-!
DEFINITION. The control registers as they read: banked registers, the registers that show the place and the counters, and
the shared registers (R24, R25, R37 to R41, R112 to R114).
-/

namespace Sys2Proof.Machine

/-- The writes of a shared register that a direct-mode read may still miss: newer than four cycles and not yet seen by
the slot (R25, R114). -/
def State.openWrites (s : State) (gs k : Nat) : List GWrite :=
  (mgetD s.gregHist k []).takeWhile (fun w => decide (s.cycle < w.at_ + 4) && !(gs ∈ w.seen))

/-- What a direct-mode read returns when it may miss some writes: the value before the last of them that it misses; and
how many it misses. -/
def pickShared : List GWrite → Nat → Word → Nat → Word × Nat
  | [], _, v, n => (v, n)
  | w :: rest, i, v, n => if Config.sharedOld (i + n) then pickShared rest i w.old (n + 1) else (v, n)

/-- A direct-mode read of a shared register (R25, R114): the value, and the state in which the slot has seen it. -/
def State.readShared (s : State) (gs k : Nat) : Word × State :=
  let ws := s.openWrites gs k
  let p := pickShared ws s.fresh (mgetD s.gregs k 0) 0
  if ws = [] then (p.1, s)
  else
    let h := (mgetD s.gregHist k []).zipIdx.map (fun w => if p.2 ≤ w.2 then { w.1 with seen := gs :: w.1.seen } else w.1)
    (p.1, { s with gregHist := mput s.gregHist k h, fresh := s.fresh + 1 })

/-- A read in a chunk returns the latest write before the chunk: the slot has seen every direct-mode write (R114). -/
def State.seenShared (s : State) (gs k : Nat) : State :=
  match mget s.gregHist k with
  | none => s
  | some ws => { s with gregHist := mput s.gregHist k (ws.map (fun w => { w with seen := gs :: w.seen })) }

/-- `rdc` of a shared register (R114). -/
def readG (n : Nat) : M Word := do
  let s ← get
  let k := 16 * coreOf s.fs + n
  if s.isDirect then
    let p := s.readShared s.fs k
    set p.2
    pure p.1
  else
    noteReads [gItem k]
    modify (fun s => s.seenShared s.fs k)
    pure (s.viewGreg s.fs k)

/-- OPCNT as it stood before the unit (R113). -/
def readOpcnt : M Word := do
  let s ← get
  pure s.before.th.opcnt

/-- CHSEQ as read: the committed chunks before the one that reads it, those still awaiting their grant among them, so that a re-execution
reads the same (R113). -/
def Thread.chseqRead (t : Thread) : Word := t.chseq + BitVec.ofNat 64 (t.chunks.length - 1)

/-- STATUS as read: SQ, and REC and RPL by the partition's log (Table 1.6). -/
def State.statusOf (s : State) (gs : Nat) : Word :=
  let w := (s.thread gs).statusWord
  putBit (putBit w 11 (decide (s.policyOf gs / 2 = 1))) 10 (decide (s.policyOf gs / 2 = 2))

/-- The value of a control register that is listed and admitted (R37, R113, Tables 1.5 to 1.7). -/
def csrRead (c : Nat) : M Word := do
  let s ← get
  let t := s.th
  let a ← readArch
  let b := t.bank t.level
  match c with
  | 0 => pure (BitVec.ofNat 64 s.cycle)
  | 1 => pure a.icount
  | 2 => pure (BitVec.ofNat 64 (slotOf s.fs))
  | 3 => pure (BitVec.ofNat 64 (coreOf s.fs % 8))
  | 4 => pure (BitVec.ofNat 64 (clusterOf s.fs % 96))
  | 5 => pure (BitVec.ofNat 64 (dieOf s.fs))
  | 8 | 9 | 10 | 11 => pure ((t.gid.getD (c - 8) 0).zeroExtend 64)
  | 12 => pure t.chseqRead
  | 13 => pure (BitVec.ofNat 64 a.grant)
  | 14 => readOpcnt
  | 0x10 => pure a.fctl
  | 0x11 => pure a.fflags
  | 0x100 => pure (s.statusOf s.fs)
  | 0x101 => pure b.tvec
  | 0x102 => pure t.ucvec
  | 0x103 => pure b.epc
  | 0x104 => pure b.ecause
  | 0x108 => pure b.einfo0
  | 0x109 => pure b.einfo1
  | 0x10A => pure b.einfo2
  | 0x10B => pure b.einfo3
  | 0x110 => pure t.timer
  | 0x111 => pure (BitVec.ofNat 64 t.winBase)
  | 0x112 => pure (BitVec.ofNat 64 t.winLim)
  | 0x113 => pure (s.pmask s.fs)
  | 0x114 => pure (BitVec.ofNat 64 t.chunkmax)
  | 0x115 => pure (BitVec.ofNat 64 (s.policyOf s.fs))
  | _ => match csrShared c with
    | some n => readG n
    | none => M.cause .illegalOperand

end Sys2Proof.Machine
end

