-- ==== Sys2Proof/Machine/Control.lean ====
section
/-!
DEFINITION. Control transfers, `rdc` and hint words (R91, R106 to R114).
-/

namespace Sys2Proof.Machine

/-- Transfer control to a target (R106). -/
def jumpTo (t : Word) : M Unit := modify (fun s => { s with unit := { s.unit with target := some t } })

/-- The target of an offset in words from the word that holds it (R106). -/
def wordTarget (o : BitVec n) : M Word := do
  let s ← get
  pure (addr57 (s.unit.addr + (o.signExtend 64) * 4))

/-- NextAddress() (R106). -/
def nextAddress : M Word := do
  let s ← get
  pure s.unit.next

/-- Transfer to an offset when a condition holds. -/
def branchIf (c : Bool) (o : BitVec n) : M Unit := do
  let t ← wordTarget o
  if c then jumpTo t else pure ()

/-- `br` (R107). -/
def execBr (o : BitVec 20) (n : BitVec 1) (k : BitVec 3) (s : State) : Outcome :=
  issue (.br o n k) (do
    let p ← readK k.toNat
    branchIf (p.getLsbD 0 != (n == 1)) o) s
/-- `jmp` (R108). -/
def execJmp (o : BitVec 17) (s : State) : Outcome := issue (.jmp o) (branchIf true o) s
/-- `br.end` (R108): the end flag is read as it stood before the unit. -/
def execBrEnd (o : BitVec 17) (n : BitVec 1) (p : BitVec 4) (s : State) : Outcome :=
  issue (.brEnd o n p) (do
    let a ← readArch
    let e := ((a.stream (endCode p.toNat)).map (·.endFlag)).getD false
    branchIf (e != (n == 1)) o) s
/-- `jal` (R109). -/
def execJal (o : BitVec 17) (d : BitVec 7) (s : State) : Outcome :=
  issue (.jal o d) (do
    let nx ← nextAddress
    dstC d nx
    branchIf true o) s
/-- `jalr` (R110). -/
def execJalr (i : BitVec 10) (a d : BitVec 7) (s : State) : Outcome :=
  issue (.jalr i a d) (do
    let x ← srcC a
    let t := addr57 (x + (i.signExtend 64) * 4)
    if t.toNat % 4 ≠ 0 then M.trap { cause := .misaligned, av := true, acc := 2, info1 := t }
    else
      let nx ← nextAddress
      dstC d nx
      jumpTo t) s
/-- `loop` (R111). -/
def execLoop (o : BitVec 17) (d : BitVec 7) (s : State) : Outcome :=
  issue (.loop o d) (do
    let n ← srcC d
    if n = 0 then pure ()
    else
      dstC d (n - 1)
      branchIf (n - 1 != 0) o) s
/-- `rdc` (R112, R113). -/
def execRdc (c : BitVec 10) (d : BitVec 7) (s : State) : Outcome :=
  issue (.rdc c d) (do
    let v ← csrRead c.toNat
    dstC d v) s
/-- A hint word (R91): no effect; it counts as one instruction. -/
def execHint (h : BitVec 24) (k : BitVec 1) (s : State) : Outcome := issue (.hint h k) (pure ()) s

end Sys2Proof.Machine
end

