-- ==== Sys2Proof/Machine/MemInstr.lean ====
section
/-!
DEFINITION. Scalar loads, stores and atomics, queued reservations and edge atomics (R116 to R133).
-/

namespace Sys2Proof.Machine

/-- The value of the low n bytes as a register receives it: sign- or zero-extended (R121). -/
def extendBytes (sx : Bool) (n v : Nat) : Word := if sx then signExt v (8 * n) else zeroExt v (8 * n)

/-- Load n bytes into a register (R121): the data is written when the load retires (R27). -/
def loadTo (sx : Bool) (addr : Word) (n : Nat) (d : BitVec 7) : M Unit := do
  let (pa, v) ← memRead addr n
  countLoad [.x d.toNat (extendBytes sx n v) (some ⟨pa, n, sx⟩)]

/-- Store the low n bytes of a value (R121). -/
def storeFrom (addr : Word) (n : Nat) (v : Word) : M Unit := do
  let e ← storeEff addr n v.toNat
  countStore [e]

/-- EA of a CM word: the offset counts units of 2^SZ bytes (R121). -/
def eaOff (a : BitVec 7) (o : BitVec 8) (sz : Nat) : M Word := do
  let x ← srcC a
  pure (ea x (o.signExtend 64 <<< sz))

/-- EA of an indexed word (R122). -/
def eaIndex (a b : BitVec 7) (x : BitVec 1) (sz : Nat) : M Word := do
  let p ← srcC a
  let q ← srcC b
  pure (ea p (q <<< (if x = 1 then 0 else sz)))

/-- `ld` (R121). -/
def execLd (o : BitVec 8) (z : BitVec 2) (a d : BitVec 7) (s : State) : Outcome :=
  issue (.ld o z a d) (do
    let p ← eaOff a o z.toNat
    loadTo true p (2 ^ z.toNat) d) s
/-- `ldz` (R121). -/
def execLdz (o : BitVec 8) (z : BitVec 2) (a d : BitVec 7) (s : State) : Outcome :=
  issue (.ldz o z a d) (do
    let p ← eaOff a o z.toNat
    loadTo false p (2 ^ z.toNat) d) s
/-- `st` (R121). -/
def execSt (o : BitVec 8) (z : BitVec 2) (a d : BitVec 7) (s : State) : Outcome :=
  issue (.st o z a d) (do
    let p ← eaOff a o z.toNat
    let v ← srcC d
    storeFrom p (2 ^ z.toNat) v) s
/-- `ldx` (R122). -/
def execLdx (x : BitVec 1) (z : BitVec 2) (b a d : BitVec 7) (s : State) : Outcome :=
  issue (.ldx x z b a d) (do
    let p ← eaIndex a b x z.toNat
    loadTo true p (2 ^ z.toNat) d) s
/-- `stx` (R122). -/
def execStx (x : BitVec 1) (z : BitVec 2) (b a d : BitVec 7) (s : State) : Outcome :=
  issue (.stx x z b a d) (do
    let p ← eaIndex a b x z.toNat
    let v ← srcC d
    storeFrom p (2 ^ z.toNat) v) s

/-- The checked physical addresses of n doublewords; a later one is aligned when the first is (R123). -/
def checkDwords (addr : Word) (n : Nat) (acc : Acc) (r : Reach) : M (List Nat) :=
  (List.range n).mapM (fun i => checkAccess (ea addr (BitVec.ofNat 64 (8 * i))) 8 8 acc r)

/-- Join writes to adjacent addresses into one, so that an instruction's bytes in one place are one effect. -/
def joinWrites : List (Nat × List Byte) → List (Nat × List Byte)
  | (p, bs) :: (q, cs) :: rest =>
    match joinWrites ((q, cs) :: rest) with
    | (q', ds) :: more => if p + bs.length = q' then (p, bs ++ ds) :: more else (p, bs) :: (q', ds) :: more
    | [] => [(p, bs)]
  | l => l

/-- `ldm` (R123): in direct mode one singleton (R119). -/
def execLdm (o : BitVec 8) (n : BitVec 2) (a d : BitVec 7) (s : State) : Outcome :=
  issue (.ldm o n a d) (do
    let p ← eaOff a o 3
    directOrder
    let pas ← checkDwords p (n.toNat + 1) .read .load
    for q in pas.zipIdx do
      poisonCheck .scalar q.1 8 .read (ea p (BitVec.ofNat 64 (8 * q.2)))
    readLines (pas.flatMap (fun q => linesOf q 8)).dedup
    countReads 1
    let vs ← pas.mapM (fun q => viewed .scalar q 8)
    countLoad ((pas.zip vs).zipIdx.map (fun q => Dest.x (d.toNat + q.2) (BitVec.ofNat 64 q.1.2) (some ⟨q.1.1, 8, false⟩)))) s
/-- `stm` (R123). -/
def execStm (o : BitVec 8) (n : BitVec 2) (a d : BitVec 7) (s : State) : Outcome :=
  issue (.stm o n a d) (do
    let p ← eaOff a o 3
    directOrder
    let pas ← checkDwords p (n.toNat + 1) .write .store
    let vs ← (List.range (n.toNat + 1)).mapM (fun i => readX (d.toNat + i))
    let s ← get
    countStore ((joinWrites (pas.zip (vs.map (fun v => leBytes 8 v.toNat)))).map (fun q => s.effFor q.1 q.2))) s
/-- `ldk` (R124). -/
def execLdk (o : BitVec 17) (d : BitVec 7) (s : State) : Outcome :=
  issue (.ldk o d) (do
    let p ← wordTarget o
    loadTo true p 8 d) s
/-- `pf` (R125): the core asks for the line; an address that fails a check is dropped, and no state changes that a program can read: no A
bit, no counter of fetches (log entry 90). -/
def execPf (o : BitVec 8) (z : BitVec 2) (a h : BitVec 7) (s : State) : Outcome :=
  issue (.pf o z a h) (do
    let p ← eaOff a o z.toNat
    modify (fun s =>
      match s.before.translate s.th.vf s.th.asid s.th.level p .read with
      | .ok x => if isPeer x.addr || s.isRemote x.addr then s else s.cohHint s.fs (lineOf x.addr) h.toNat
      | .error _ => s)) s

/-! Atomics (R126, R127, R129). -/

/-- Check an atomic's word and read its old value (R117, R126, R129); `load` when the atomic counts in LC. The read draws no free value of
its own: it stands at the one place at which the write that follows is entered (R126). -/
def atomicRead (load : Bool) (addr : Word) (n : Nat) : M (Nat × Nat) := do
  directOrder
  let pa ← checkAccess addr n n .rmw .atomic
  poisonCheck (.atomic load) pa n .rmw addr
  readLines (linesOf pa n)
  let s ← get
  pure (pa, s.before.loadView s.fs (.atomic load) pa n)

/-- Write the result of an atomic in its place (R118, R126, R256). -/
def atomicWrite (load : Bool) (pa n v : Nat) : M Unit := do
  let s ← get
  uncounted (.atomic load) [s.effFor pa (leBytes n v)]

/-- A `cas` that does not write has its place where it read (R127). -/
def casMissed (pa n : Nat) : M Unit := do
  modify (fun s => { s with fresh := (s.before.drawn s.fs (.atomic true) pa n).fresh })
  countEntries 1

/-- Count an operation in SC whose write has taken its place. -/
def countDone : M Unit := do
  let s ← get
  M.until_ (decide (s.th.stores.length < 63))
  countIn []

/-- `amo` (R126). -/
def execAmo (z : BitVec 2) (c : BitVec 4) (a d : BitVec 7) (s : State) : Outcome :=
  issue (.amo z c a d) (do
    let p ← srcC a
    let v ← srcC d
    let r ← atomicRead false (ea p 0) (2 ^ z.toNat)
    atomicWrite false r.1 (2 ^ z.toNat) (atomicOp c.toNat (2 ^ z.toNat) r.2 v.toNat)
    countDone) s
/-- `amof` (R126). -/
def execAmof (z : BitVec 2) (c : BitVec 4) (a d : BitVec 7) (s : State) : Outcome :=
  issue (.amof z c a d) (do
    let p ← srcC a
    let v ← srcC d
    let r ← atomicRead true (ea p 0) (2 ^ z.toNat)
    atomicWrite true r.1 (2 ^ z.toNat) (atomicOp c.toNat (2 ^ z.toNat) r.2 v.toNat)
    countLoad [.x d.toNat (signExt r.2 (8 * 2 ^ z.toNat)) none]) s
/-- `cas` (R127). -/
def execCas (z : BitVec 1) (b a d : BitVec 7) (s : State) : Outcome :=
  issue (.cas z b a d) (do
    let p ← srcC a
    let e ← srcC d
    let nv ← srcC b
    let n := 4 + 4 * z.toNat
    let r ← atomicRead true (ea p 0) n
    if r.2 = e.toNat % 2 ^ (8 * n) then atomicWrite true r.1 n nv.toNat else casMissed r.1 n
    countLoad [.x d.toNat (signExt r.2 (8 * n)) none]) s

/-! Edge atomics (R128). -/

/-- The request of the unit is on its way: the slot stays out of rotation (R128, R130). -/
def M.outstanding (hold : Option Hold) : M Unit :=
  match hold with
  | some h => if h.awaits then M.hold h else pure ()
  | none => pure ()

/-- What an edge atomic does at the issues of its unit: it is sent; the response has come. -/
def edgeAtomic (ret : Bool) (z : BitVec 2) (c : BitVec 4) (a d : BitVec 7) : M Unit := do
  let s ← get
  match s.th.hold with
  | some (.edgeReply (.old old)) => if ret then dstC d (signExt old (8 * 2 ^ z.toNat)) else pure ()
  | some (.edgeReply .poison) =>
    let p ← srcC a
    M.trap { cause := .dataPoison, av := true, acc := 3, info1 := ea p 0 }
  | some (.edgeReply (.fault c)) =>
    let p ← srcC a
    M.trap { cause := c, av := true, acc := 3, orig := 1, info1 := ea p 0 }
  | h =>
    M.outstanding h
    let p ← srcC a
    let v ← srcC d
    directOrder
    let pa ← checkAccess (ea p 0) (2 ^ z.toNat) (2 ^ z.toNat) .rmw .line
    modTh (fun t => { t with edges := t.edges + 1 })
    M.park (.edgeWait pa (2 ^ z.toNat) c.toNat v.toNat ret)

/-- `amo.e` (R128). -/
def execAmoE (z : BitVec 2) (c : BitVec 4) (a d : BitVec 7) (s : State) : Outcome :=
  issue (.amoE z c a d) (edgeAtomic false z c a d) s
/-- `amof.e` (R128). -/
def execAmofE (z : BitVec 2) (c : BitVec 4) (a d : BitVec 7) (s : State) : Outcome :=
  issue (.amofE z c a d) (edgeAtomic true z c a d) s

/-! Queued reservations (R130 to R133). -/

/-- The checked address of a reservation: HBM, or a scratchpad of the issuing core's cluster (R130). -/
def resvAddr (addr : Word) (n : Nat) (acc : Acc) : M Nat := do
  let pa ← checkAccess addr n n acc .atomic
  if isPackage pa then pure pa else M.lift (.error (xFault .pageProtection acc 0 addr))

/-- `qres` (R130, R131, R133): each start address is a word of its own, with its own queue (log entry 79). No rule orders ILLEGAL_OPERAND for
a held reservation and the causes of the address; it is tested first (DESIGN CHOICE, log entry 89). -/
def execQres (z : BitVec 1) (a d : BitVec 7) (s : State) : Outcome :=
  issue (.qres z a d) (do
    let n := 4 + 4 * z.toNat
    let p ← srcC a
    let s ← get
    match s.th.hold with
    | some (.qresReply v false) => dstC d (signExt v.toNat (8 * n))
    | some (.qresReply _ true) => M.trap { cause := .dataPoison, av := true, acc := 3, broken := true, info1 := ea p 0 }
    | some .qresPoison => M.trap { cause := .dataPoison, av := true, acc := 3, info1 := ea p 0 }
    | h =>
      M.outstanding h
      M.require s.th.resv.isNone .illegalOperand
      let pa ← resvAddr (ea p 0) n .rmw
      modify (fun s =>
        let h := mgetD s.homes pa ⟨[], false⟩
        { s with homes := mput s.homes pa { h with queue := h.queue ++ [s.fs] } })
      M.park (.qresWait pa n)) s
/-- `qrel` (R130, R131, R133): the home writes the word; that of a broken reservation loses its poison, else R282 says what a store leaves. No
rule orders ILLEGAL_OPERAND for another reservation and the causes of the address; here the address is checked first (DESIGN CHOICE, log entry
89). -/
def execQrel (z : BitVec 1) (a d : BitVec 7) (s : State) : Outcome :=
  issue (.qrel z a d) (do
    let n := 4 + 4 * z.toNat
    let p ← srcC a
    let v ← srcC d
    let s ← get
    match s.th.hold with
    | some .qrelDone => pure ()
    | h =>
      M.outstanding h
      let pa ← resvAddr (ea p 0) n .write
      M.require (match s.th.resv with | some r => r.pa == pa && r.size == n | none => false) .illegalOperand
      performNow [.write pa (leBytes n v.toNat)]
      modify (fun s => if (s.th.resv.map (·.broken)).getD false then s.setPoison (pa / 8) false else s)
      modTh (fun t => { t with resv := none })
      M.park (.qrelWait pa)) s

end Sys2Proof.Machine
end

