-- ==== Sys2Proof/Machine/Sync.lean ====
section
/-!
DEFINITION. Stream ports, waits and fences, monitors and watch bits, chunk control, and the line instructions
(R134 to R153).
-/

namespace Sys2Proof.Machine

/-! Streams (R134, R135, R141). -/

/-- The dimension a descriptor register holds: COUNT and STRIDE (Table 5.3). -/
def dimOf (w : Word) : Nat × Int := (bits w 31 0, signedOf 32 (bits w 63 32))

/-- `sopen` (R134, R135). -/
def execSopen (r w t : BitVec 1) (z : BitVec 2) (p : BitVec 5) (a : BitVec 7) (s : State) : Outcome :=
  issue (.sopen r w t z p a) (do
    let base ← readX a.toNat
    let hdr ← readX (a.toNat + 1)
    let nd := bits hdr 1 0 + 1
    let s ← get
    M.require (bits hdr 63 2 == 0 && decide (a.toNat + 2 + nd ≤ s.th.winLim)) .illegalOperand
    let ds ← (List.range nd).mapM (fun i => readX (a.toNat + 2 + i))
    let b : Stream :=
      { base := base, dims := ds.map dimOf, sz := z.toNat,
        write := (decide (8 ≤ p.toNat) && decide (p.toNat ≤ 11)) || (decide (16 ≤ p.toNat) && r == 1),
        trap := t == 1, wrap := w == 1, pos := 0, endFlag := false, ahead := [] }
    M.require (decide (b.total < 2 ^ 48)) .illegalOperand
    if (s.arch.stream p.toNat).isNone && !s.engineFree then M.trap { cause := .port, portc := some p.toNat }
    else setStream p.toNat b) s
/-- Entries of the chunk stand before everything that follows (R138, R143, R163). -/
def fixEntries (p : Entry → Bool) : M Unit :=
  modChunk (fun c => { c with log := c.log.map (fun e => if p e then { e with fixed := true } else e) })

/-- `sclose` (R140, R141): loads that follow observe the port's pushes (R138). A port bound to a channel stays bound, since the rule says
nothing of one (log entry 78). -/
def execSclose (p : BitVec 5) (s : State) : Outcome :=
  issue (.sclose p) (do
    let s ← get
    if (s.arch.stream p.toNat).isSome then
      modArch (fun a => { a with ports := mdel a.ports p.toNat })
      let n := s.before.enteredOf s.fs
      fixEntries (fun e => e.by_ == .push p.toNat && decide (e.num ≤ n))
      modChunk (fun c => { c with engines := c.engines + 1 })
    else pure ()) s
/-- `sseek` (R141). -/
def execSseek (p : BitVec 5) (a : BitVec 7) (s : State) : Outcome :=
  issue (.sseek p a) (do
    let v ← srcC a
    let s ← get
    match s.arch.stream p.toNat with
    | some b =>
      let n := b.total
      M.require (decide (v.toNat ≤ n) && !(decide (v.toNat = n) && b.wrap && decide (0 < n))) .illegalOperand
      setStream p.toNat { b with pos := v.toNat, endFlag := false, ahead := [] }
    | none => M.trap { cause := .port, portc := some p.toNat }) s
/-- `spos` (R141): the position as it stood before the unit. -/
def execSpos (p : BitVec 5) (d : BitVec 7) (s : State) : Outcome :=
  issue (.spos p d) (do
    let a ← readArch
    dstC d (BitVec.ofNat 64 (((a.stream p.toNat).map (·.pos)).getD 0))) s

/-! Waits and fences (R142 to R144). -/

/-- A counter meets the immediate of `wait` (R142). -/
def meetsWait (imm : BitVec 4) (n : Nat) : Bool := imm == 15 || decide (n ≤ imm.toNat)

/-- The held copy fault that a `wait` with an immediate takes: the oldest whose copy it requires (R214). -/
def Thread.dueFault (t : Thread) (imm : BitVec 4) : Option Trap :=
  (t.heldFaults.find? (fun f => imm != 15 && decide (imm.toNat < t.copyn - 1 - f.1))).map (·.2)

/-- The write is of an operation that a `wait` has held for: it counts in LC or in SC, and was not among the last that the immediate lets
stand (R27, R163). -/
def Entry.waited (e : Entry) (lc sc : Nat) (w z : BitVec 4) : Bool :=
  match e.by_ with
  | .push _ => false
  | .atomic true => w != 15 && decide (e.lc + w.toNat ≤ lc)
  | _ => z != 15 && decide (e.sc + z.toNat ≤ sc)

/-- `wait` (R142, R163, R214). -/
def execWait (m c z w : BitVec 4) (s : State) : Outcome :=
  issue (.wait m c z w) (do
    let s ← get
    let t := s.before.th
    M.until_ (meetsWait w t.loads.length && meetsWait z t.stores.length && meetsWait c t.copies.length &&
      meetsWait m t.mats.length)
    match t.dueFault c with
    | some f => M.trap f
    | none =>
      let k := t.cur
      fixEntries (fun e => e.waited ((k.map (·.lcn)).getD 0) ((k.map (·.scn)).getD 0) w z)) s
/-- `fence` (R143, R163). -/
def execFence (s : State) : Outcome :=
  issue .fence (do
    let s ← get
    M.until_ s.before.th.quiet
    let n := s.before.enteredOf s.fs
    fixEntries (fun e => decide (e.num ≤ n))) s
/-- `fence.e` (R144). -/
def execFenceE (s : State) : Outcome :=
  issue .fenceE (do
    let s ← get
    M.until_ (s.before.th.quiet && decide (s.before.th.edges = 0))) s

/-! Monitors and watch bits (R145 to R149). -/

/-- The sleep result word (Table 5.7). -/
def sleepWord (int tmo watch : Bool) (hits : Nat) : Word :=
  BitVec.ofNat 64 (int.toNat * 64 + tmo.toNat * 32 + watch.toNat * 16 + hits)

/-- The hit bits of the armed monitors (R146). -/
def Thread.hits (t : Thread) : Nat := t.mons.foldl (fun n p => if p.2.2 then n + 2 ^ p.1 else n) 0

/-- The timeout of a sleep has passed (R147); in a deterministic launch, its entries are used up (R299). -/
def sleepOver (s : State) (deadline : Option Nat) : Bool :=
  match deadline with
  | some d => if s.th.det then decide (d = 0) else decide (d ≤ s.cycle)
  | none => false

/-- The deadline of the sleep at this issue of its unit, and whether it is the first issue (R147). -/
def sleepDeadline (s : State) (x : Word) : Option Nat × Bool :=
  match s.th.hold with
  | some (.sleep _ d) => (d, false)
  | _ => (if x = 0 then none else if s.th.det then some x.toNat else some (s.cycle + x.toNat), true)

/-- `mona` (R146). -/
def execMona (i : BitVec 10) (a : BitVec 7) (n : BitVec 2) (s : State) : Outcome :=
  issue (.mona i a n) (do
    let x ← srcC a
    let pa ← checkAccess (ea x (i.signExtend 64)) 1 1 .read .atomic
    modTh (fun t => { t with mons := mput t.mons n.toNat (lineOf pa, false) })) s
/-- Finish a `monw`: the result is written and the hit bits it reports are cleared (R147). -/
def monwDone (d : BitVec 7) (r : Word) : M Unit := do
  dstC d r
  modTh (fun t => { t with mons := t.mons.map (fun p => (p.1, (p.2.1, p.2.2 && !bit r p.1))) })
/-- `monw` (R147). With an interrupt pending, no monitor armed and no timeout, the result names the interrupt, as R145 asks, where R147 by
itself would give 0 (log entry 76). -/
def execMonw (a d : BitVec 7) (s : State) : Outcome :=
  issue (.monw a d) (do
    let x ← srcC a
    let s ← get
    match s.th.hold with
    | some (.sleepDone r) => monwDone d r
    | _ =>
      let dl := sleepDeadline s x
      let tmo := sleepOver s dl.1
      let t := s.before.th
      let hits := t.hits
      if hits ≠ 0 ∨ tmo ∨ t.intPending then monwDone d (sleepWord t.intPending tmo false hits)
      else if dl.2 ∧ t.mons = [] ∧ x = 0 then monwDone d 0
      else M.hold (.sleep false dl.1)) s
/-- Set a watch bit (R148). -/
def State.setWatch (s : State) (gs pa : Nat) : State := { s with watches := mput s.watches (pa / 8) gs }
/-- `watch` (R148). No rule gives it a permission; the model asks for a readable page (DESIGN CHOICE, log entry 89). -/
def execWatch (i : BitVec 10) (a : BitVec 7) (s : State) : Outcome :=
  issue (.watch i a) (do
    let x ← srcC a
    let va := ea x (i.signExtend 64)
    let pa ← checkAccess va 8 8 .read .line
    let s ← get
    if isSpad pa && decide (spadCore pa = coreOf s.fs) then
      if s.isDirect then set (s.setWatch s.fs pa)
      else
        readLines [lineOf pa]
        modChunk (fun c => { c with deferred := c.deferred ++ [.watch pa] })
    else M.lift (.error (xFault .pageProtection .read (if isSpad pa then 2 else 0) va))) s
/-- Finish a `wsleep`: the result is written and the ready bit cleared (R149); one set since the timeout is reported with it, so that no
wake-up is lost. -/
def wsleepDone (d : BitVec 7) (r : Word) : M Unit := do
  let s ← get
  dstC d (r ||| sleepWord false false s.before.th.ready 0)
  modTh (fun t => { t with ready := false })
/-- `wsleep` (R149). -/
def execWsleep (a d : BitVec 7) (s : State) : Outcome :=
  issue (.wsleep a d) (do
    let x ← srcC a
    let s ← get
    match s.th.hold with
    | some (.sleepDone r) => wsleepDone d r
    | _ =>
      let dl := sleepDeadline s x
      let tmo := sleepOver s dl.1
      let t := s.before.th
      if t.ready ∨ tmo ∨ t.intPending then wsleepDone d (sleepWord t.intPending tmo t.ready 0)
      else M.hold (.sleep true dl.1)) s

/-! Chunk control (R150). -/

/-- `cut` (R150): the chunk ends after it; it has no other effect. -/
def execCut (s : State) : Outcome := issue .cut (pure ()) s
/-- The launch allows `direct` and `resume` (R150). -/
def freeLaunch : M Unit := do
  let s ← get
  M.require (!s.th.det && !s.th.ord) .illegalOperand
/-- `direct` (R150). -/
def execDirect (s : State) : Outcome :=
  issue .direct (do
    freeLaunch
    modArch (fun a => { a with status := putBit a.status 12 true })) s
/-- `resume` (R150). -/
def execResume (s : State) : Outcome :=
  issue .resume (do
    freeLaunch
    modArch (fun a => { a with status := putBit a.status 12 false })) s

/-! Lines (R151 to R153). -/

/-- The line of an HBM address that a lock instruction names (R151). -/
def lockAddr (a : BitVec 7) : M Nat := do
  let x ← srcC a
  let pa ← checkAccess (ea x 0) 1 1 .read .atomic
  if isHbm pa then pure (lineOf pa) else M.lift (.error (xFault .pageProtection .read 0 (ea x 0)))
/-- `lock` (R151). -/
def execLock (a : BitVec 7) (k : BitVec 3) (s : State) : Outcome :=
  issue (.lock a k) (do
    let l ← lockAddr a
    let s ← get
    let r := s.lockLine l (s.partOf s.fs)
    set r.2
    writeKBit k.toNat r.1) s
/-- The line that `unlock` names, if its address leads to memory: it asks for no permission, and no rule but `lock`'s asks where the line
lies (R151). -/
def unlockAddr (a : BitVec 7) : M (Option Nat) := do
  let x ← srcC a
  let s ← get
  let look (acc : Acc) := s.before.translate s.th.vf s.th.asid s.th.level (ea x 0) acc
  match look .read with
  | .ok _ => do
    let pa ← xlatAt s.th.level (ea x 0) .read
    pure (some (lineOf pa))
  | .error (.trap t) =>
    if t.cause = .pageProtection then
      pure ([Acc.write, .fetch].findSome? (fun acc => match look acc with | .ok r => some (lineOf r.addr) | .error _ => none))
    else M.trap t
  | .error e => M.lift (.error e)
/-- `unlock` (R151): a line that the partition has not locked stays as it is. -/
def execUnlock (a : BitVec 7) (s : State) : Outcome :=
  issue (.unlock a) (do
    match ← unlockAddr a with
    | some l => modify (fun s => s.unlockLine l (s.partOf s.fs))
    | none => pure ()) s

/-- The lines of a range of n bytes, page by page; pages that are absent or unmapped are skipped (R152). -/
def rangeLines : Nat → Word → Nat → M (List Nat)
  | 0, _, _ => pure []
  | fuel + 1, va, n => do
    if n = 0 then pure []
    else
      let m := min n (4096 - va.toNat % 4096)
      let s ← get
      let here : List Nat ←
        match s.before.translate s.th.vf s.th.asid s.th.level va .read with
        | .error (.trap t) =>
          if t.cause = .pageAbsent ∨ t.cause = .segmentBound then pure [] else M.trap t
        | .error _ => pure []
        | .ok x => do
          let pa ← xlatAt s.th.level va .read
          if s.isRemote pa then M.lift (.error (xFault .pageProtection .read 2 va))
          else pure (if isPeer x.addr then [] else linesOf pa m)
      let rest ← rangeLines fuel (addr57 (va + BitVec.ofNat 64 m)) (n - m)
      pure (here ++ rest)

/-- The lines that `clean`, `inval` and `iflush` name (R152, R153). -/
def rangeOf (a b : BitVec 7) : M (List Nat) := do
  let x ← srcC a
  let n ← srcC b
  M.require (decide (n.toNat ≤ 2 ^ 30)) .illegalOperand
  rangeLines (n.toNat / 4096 + 2) (addr57 x) n.toNat
/-- `clean` (R152). -/
def execClean (b a : BitVec 7) (s : State) : Outcome :=
  issue (.clean b a) (do
    let ls ← rangeOf a b
    modify (fun s => ls.foldl State.cohClean s)
    countDone) s
/-- `inval` (R152). -/
def execInval (b a : BitVec 7) (s : State) : Outcome :=
  issue (.inval b a) (do
    let ls ← rangeOf a b
    modify (fun s => ls.foldl State.cohInval s)
    countDone) s

/-- The key of a line of a core's L1 instruction cache. -/
def icKey (gc line : Nat) : Nat := 2 ^ 48 * gc + line

/-- Invalidate a line of a core's L1 instruction cache; the core's threads may have fetched from it (R153). -/
def State.iflushLine (s : State) (line : Nat) : State :=
  match mget s.icache (icKey (coreOf s.fs) line) with
  | none => s
  | some bs =>
    { s with icache := mdel s.icache (icKey (coreOf s.fs) line) }.mapThreads (fun gs t =>
      if coreOf gs = coreOf s.fs ∧ t.live then { t with fetched := mput t.fetched line bs } else t)
/-- `iflush` (R153). -/
def execIflush (b a : BitVec 7) (s : State) : Outcome :=
  issue (.iflush b a) (do
    let ls ← rangeOf a b
    modify (fun s => ls.foldl State.iflushLine s)) s
/-- `isync` (R153). -/
def execIsync (s : State) : Outcome := issue .isync (modTh (fun t => { t with fetched := [] })) s

end Sys2Proof.Machine
end

