-- ==== Sys2Proof/Machine/Slots.lean ====
section
/-!
DEFINITION. Threads of slots: how one starts, how one is stopped or ends, its children and tasks, and the policy of its
partition (R13, R133, R207, R223 to R231, R235, R303, R360).
-/

namespace Sys2Proof.Machine

/-! Starts (R13, R229, R292). -/

/-- STATUS of a starting thread: the reset values of Table 1.6, with the fields that the start gives. -/
def startStatus (dir ue det ord : Bool) : Word :=
  putBit (putBit (putBit (putBit Arch.init.status 15 ue) 14 det) 13 ord) 12 dir

/-- A thread as it starts (R229): its context, window, entry and status; everything else at its reset value. -/
def Thread.fresh (vf : Option Nat) (asid base size : Nat) (entry status : Word) : Thread :=
  { Thread.idle with
    live := true, vf := vf, asid := asid, winBase := base, winLim := size
    a := { Arch.init with pc := entry, status := status } }

/-- Start a thread in a slot: its window is zero but for the registers given (R229). One of a function that is being stopped for a
migration stops at its first point (R377). -/
def State.startThread (s : State) (gs : Nat) (t : Thread) (xs : List (Nat × Word)) : State :=
  let leaving := (match t.vf.bind (mget s.vfs) with | some v => v.mstate == 2 | none => false)
  let s1 := { s with fresh := s.fresh + 1 }.setThread gs
    { t with uid := s.fresh, stopFor := if leaving then some .migrate else t.stopFor }
  let s2 := s1.setWindowOf gs (List.replicate t.winLim 0)
  xs.foldl (fun (s : State) (p : Nat × Word) => s.setXOf gs p.1 p.2) s2

/-- The slot can take a new thread: it holds none, and MC of the last is zero (R207, R229). -/
def State.slotFree (s : State) (gs : Nat) : Bool :=
  let t := s.thread gs
  !t.live && t.mats.isEmpty

/-- The window overlaps no started slot's window of the core (R13). -/
def State.windowFree (s : State) (gc base size : Nat) : Bool :=
  s.threads.all (fun p => !(p.2.live && coreOf p.1 == gc) ||
    decide (base + size ≤ p.2.winBase) || decide (p.2.winBase + p.2.winLim ≤ base))

/-! Ends (R133, R207, R230, R231). -/

/-- Break a slot's held reservation: its home keeps the broken flag for the next request (R133). -/
def State.breakResv (s : State) (gs : Nat) : State :=
  match (s.thread gs).resv with
  | none => s
  | some r =>
    let h := mgetD s.homes r.pa ⟨[], false⟩
    { s with homes := mput s.homes r.pa { h with broken := true } }

/-- Withdraw a slot's waiting `qres` requests (R230). -/
def State.withdraw (s : State) (gs : Nat) : State :=
  { s with homes := s.homes.map (fun p => (p.1, { p.2 with queue := p.2.queue.filter (fun g => g != gs) })) }

/-- Release what step 3 of R230 lists that stands outside the slot's record: reservation, watch bits, channel bindings. -/
def State.releaseSlot (s : State) (gs : Nat) : State :=
  let s1 := (s.breakResv gs).withdraw gs
  { s1 with
    watches := s1.watches.filter (fun p => p.2 != gs)
    chans := s1.chans.filter (fun p => p.2.gs != gs) }

/-- Free the scratchpad area of a core group none of whose threads is left (R291). -/
def State.freeArea (s : State) (lid grp : Nat) : State :=
  match mget s.launches lid with
  | none => s
  | some l =>
    if lrOrd l.record || (s.launchThreads lid).any (fun p => groupOf l.record p.2.gid == grp) then s
    else { s with launches := mput s.launches lid { l with areas := l.areas.filter (fun a => a.grp != grp) } }

/-- What the end of a child does to its parent: the key index of its last entry is joined (R298), and a child that was stopped stays one
that has not executed `exit` (R225). -/
def Thread.childEnds (p t : Thread) (exited : Bool) : Thread :=
  if some p.uid = t.parent ∧ p.live then { p with joined := max p.joined t.ent, lost := p.lost + (!exited).toNat } else p

/-- A thread ends: what it holds is released, and its slot becomes free when its MC reaches zero (R207, R230, R231). Its nodes
in reduction trees last as long as a contribution of theirs (R222). -/
def State.endThread (s : State) (gs : Nat) (exited : Bool) : State :=
  let t := s.thread gs
  let s1 := s.releaseSlot gs
  let s2 := { s1 with
    nodes := s1.nodes.filter (fun n => n.uid != t.uid || n.contrib.isSome || n.out.isSome)
    threads := s1.threads.map (fun (p : Nat × Thread) => (p.1, p.2.childEnds t exited))
    away := s1.away.map (fun (a : Away) => { a with t := a.t.childEnds t exited }) }
  let s3 := s2.setThread gs { Thread.idle with uid := t.uid, mats := t.mats, lid := if t.mats.isEmpty then none else t.lid }
  match t.lid with
  | none => s3
  | some lid =>
    match mget s3.launches lid with
    | none => s3
    | some l =>
      { s3 with launches := mput s3.launches lid { l with exited := l.exited + exited.toNat } }.freeArea lid
        (groupOf l.record t.gid)

/-- Begin to stop a slot (R230, R207): its uncommitted chunks go, what it issued outside any chunk stays to be performed, a
`qres` not yet at the head is withdrawn, and its commands that have not started are discarded. -/
def State.beginStop (s : State) (gs : Nat) : State :=
  let t := s.thread gs
  if !t.live then s
  else
    let s1 := s.withdraw gs
    let s2 := { s1 with
      matq := s1.matq.map (fun (p : Nat × List MatCmd) => (p.1, p.2.filter (fun c => c.running || c.uid != t.uid)))
      copies := s1.copies.map (fun (c : Copy) => if c.uid = t.uid then { c with combining := false } else c) }
    let queued := (s.matq.flatMap (fun p => p.2.filter (fun c => !c.running && c.uid == t.uid))).map (·.id)
    s2.setThread gs
      { t with
        stopping := true, chunks := [], fallback := none, loads := [], unread := 0
        stores := if t.directMode || t.chunks.isEmpty then t.stores else []
        pushes := if t.directMode || t.chunks.isEmpty then t.pushes else []
        arrivals := if t.directMode || t.chunks.isEmpty then t.arrivals else []
        mats := t.mats.filter (fun m => !(m.1 ∈ queued))
        hold := match t.hold with
          | some (.edgeWait a n o v r) => some (.edgeWait a n o v r)
          | some (.edgeDone v r) => some (.edgeDone v r)
          | _ => none }

/-- Steps 1 to 4 of a stop are complete: its operations have been performed and acknowledged, its copies are done (R230). -/
def State.stopDone (s : State) (gs : Nat) : Bool :=
  let t := s.thread gs
  t.stopping && t.drained && t.copies.isEmpty && decide (t.edges = 0) &&
    (match t.hold with
     | some (.edgeWait ..) | some (.edgeDone ..) => false
     | _ => true)

/-- Complete the stops that can be completed. -/
def State.settleStops (s : State) : State :=
  (s.threads.map (·.1)).foldl (fun (s : State) gs => if s.stopDone gs then s.endThread gs false else s) s

/-! Children and tasks (R223 to R225, R303). -/

/-- Children of a thread that have not executed `exit` (R225): those that run or wait, and those an `sstop` has ended. -/
def State.childrenLeft (s : State) (uid : Nat) : Bool :=
  s.threads.any (fun p => p.2.live && p.2.uid == uid && decide (0 < p.2.lost)) ||
  s.threads.any (fun p => p.2.live && p.2.parent == some uid) || s.away.any (fun a => a.t.parent == some uid) ||
    s.launches.any (fun p => p.2.children.any (fun c => c.puid == uid)) || s.orphans.any (fun c => c.puid == uid)

/-- Create a child of a slot's thread (R224, R298). -/
def State.addChild (s : State) (gs c : Nat) (entry arg x3 : Word) : State :=
  let t := s.thread gs
  let ch : Child :=
    { parent := gs, puid := t.uid, entry := entry, arg := arg, x3 := x3, path := t.path ++ [c], gid := t.gid, ent := t.ent + 1 }
  match t.lid.bind (fun l => (mget s.launches l).map (fun x => (l, x))) with
  | some (lid, l) => { s with launches := mput s.launches lid { l with children := l.children ++ [ch] } }
  | none => { s with orphans := s.orphans ++ [ch] }

/-- A free entry of a launch's task pool: the scheduler's own choice (R303; log entry 41). -/
def Launch.freeEntry (l : Launch) (n : Nat) : Nat :=
  let size := 2 ^ lrPlog l.record
  let start := Config.poolEntry n
  ((List.range (l.tasks.length + 1)).map (fun i => (start + i) % size)).find? (fun e => l.tasks.all (fun k => k.pool != some e))
    |>.getD (start % size)

/-- The scheduler writes a task to its pool entry, 32 bytes at a virtual address of the queue's context whose layout is the scheduler's own
(R303, R412; log entry 41); where the address does not translate nothing is written. -/
def State.writePool (s : State) (l : Launch) (entry : Nat) : State :=
  match s.engineXlat (some l.vf) l.asid 1 (BitVec.ofNat 64 (lrTpool l.record + 32 * entry)) .rmw with
  | .ok (pa, s1) =>
    { s1 with fresh := s1.fresh + 32 }.performAll none [partEff pa ((List.range 32).map (fun i => Config.freeByte (s1.fresh + i)))]
  | .error (.trap t) => s.postTable t
  | .error _ => s

/-- A task enters the pool of a launch (R303). -/
def State.poolTask (s : State) (lid : Nat) (l : Launch) (k : Task) : State :=
  let e := l.freeEntry s.fresh
  ({ s with
     launches := mput s.launches lid { l with tasks := l.tasks ++ [{ k with pool := some e }] }, fresh := s.fresh + 1 } : State).writePool l e

/-- Create a task of a slot's launch (R223, R303). -/
def State.addTask (s : State) (gs : Nat) (entry ts arg x3 : Word) : State :=
  match (s.thread gs).lid.bind (fun l => (mget s.launches l).map (fun x => (l, x))) with
  | some (lid, l) =>
    s.poolTask lid { l with created := l.created + 1 } { num := l.created, ts := ts, entry := entry, arg := arg, x3 := x3, pool := none }
  | none => s

/-- The deferred effects of a chunk take place at its commit (R148, R208). -/
def State.runDeferred (s : State) (gs : Nat) (d : Deferred) : State :=
  match d with
  | .tspawn entry ts arg x3 => s.addTask gs entry ts arg x3
  | .fork c entry arg x3 => s.addChild gs c entry arg x3
  | .watch pa => { s with watches := mput s.watches (pa / 8) gs }

/-! Policy (R263, R360). -/

/-- A partition records, and its log has no room for another entry (R262). -/
def Part.logFull (p : Part) : Bool := decide (p.policy / 2 = 1 ∧ p.logLen < p.logPos + 8)

/-- PLOG: the log region, its length and the policy of a partition (R360); leaving replay resumes its grants (R263). A region that is full
as it is given raises the log-full event at once (R262). -/
def State.setLog (s : State) (pid base len policy : Nat) : State :=
  match mget s.parts pid with
  | none => s
  | some p =>
    let q : Part :=
      { p with
        policy := policy, logBase := base, logLen := len
        logPos := if base = p.logBase then p.logPos else 0
        stopped := p.stopped && decide (policy / 2 = 2) }
    let s1 := { s with parts := mput s.parts pid q }
    if q.logFull && !(p.logFull && base == p.logBase && len == p.logLen) then s1.postHyper 11 pid 0 0 [] else s1

end Sys2Proof.Machine
end

