-- ==== Sys2Proof/Machine/MatInstr.lean ====
section
/-!
DEFINITION. Matrix and tile instructions: the commands given to the unit, and the two that the thread executes itself
(R179 to R207, Tables 7.3 and 7.7).
-/

namespace Sys2Proof.Machine

/-- Issue a command whose descriptors stand in x registers (R186). -/
def issueRegs (op : MatOp) (xd xa xb : M Word) : M Unit := do
  let a ← xa
  let b ← xb
  let d ← xd
  issueMat op d a b

/-- A command descriptor that the command does not have. -/
def noWord : M Word := pure 0

/-- `mma` with the formats 0 to 6 (R195). -/
def execMma (f : BitVec 3) (b a d : BitVec 7) (s : State) : Outcome :=
  issue (.mma f b a d) (issueRegs (.mma f.toNat) (srcA d) (srcA a) (srcA b)) s
/-- `mma` with the narrow formats (R195). -/
def execMmaNarrow (f : BitVec 3) (b a d : BitVec 7) (s : State) : Outcome :=
  issue (.mmaNarrow f b a d) (issueRegs (.mma (7 + f.toNat)) (srcA d) (srcA a) (srcA b)) s
/-- `mmode` (R180). -/
def execMmode (a : BitVec 7) (s : State) : Outcome := issue (.mmode a) (issueRegs .mmode noWord (srcA a) noWord) s
/-- `mscale` (R180). -/
def execMscale (b a : BitVec 7) (s : State) : Outcome :=
  issue (.mscale b a) (issueRegs .mscale noWord (srcA a) (srcA b)) s
/-- `mbar` (R205). -/
def execMbar (s : State) : Outcome := issue .mbar (issueMat .mbar 0 0 0) s
/-- `mld` (R198). -/
def execMld (b a d : BitVec 7) (s : State) : Outcome :=
  issue (.mld b a d) (issueRegs .mld (srcA d) (srcA a) (srcA b)) s
/-- `mst` (R198, R199). -/
def execMst (b a d : BitVec 7) (s : State) : Outcome :=
  issue (.mst b a d) (do
    let xa ← srcA a
    let xb ← srcA b
    let xd ← srcA d
    runMst xd xa xb) s
/-- `mrd` (R200). -/
def execMrd (b a d : BitVec 7) (s : State) : Outcome :=
  issue (.mrd b a d) (do
    let xa ← srcA a
    let xb ← srcA b
    let v ← runMrd xa xb
    dstA d v) s
/-- `mzero` (R201). -/
def execMzero (d : BitVec 7) (s : State) : Outcome := issue (.mzero d) (issueRegs .mzero (srcA d) noWord noWord) s
/-- `mdrain` (R202). -/
def execMdrain (f : BitVec 3) (a d : BitVec 7) (s : State) : Outcome :=
  issue (.mdrain f a d) (issueRegs (.mdrain f.toNat) (srcA d) (srcA a) noWord) s
/-- `mtrans` (R203). -/
def execMtrans (a d : BitVec 7) (s : State) : Outcome :=
  issue (.mtrans a d) (issueRegs .mtrans (srcA d) (srcA a) noWord) s
/-- `mcpy` (R204). -/
def execMcpy (a d : BitVec 7) (s : State) : Outcome :=
  issue (.mcpy a d) (issueRegs .mcpy (srcA d) (srcA a) noWord) s

end Sys2Proof.Machine
end

