-- ==== Sys2Proof/Machine/System.lean ====
section
/-!
DEFINITION. Copies, messages, channels, the reduction network, tasks, forks, ready queues, slots, levels and control
registers (R208 to R235).
-/

namespace Sys2Proof.Machine

/-! Copies and messages (R211, R217). -/

/-- `cpy` (R211). -/
def execCpy (b a d : BitVec 7) (s : State) : Outcome :=
  issue (.cpy b a d) (do
    let x ← srcC a
    let y ← srcC b
    let n ← srcC d
    issueCopy x y n 0 false) s
/-- `cpyw` (R211): the record address stands in the register after D. -/
def execCpyw (b a d : BitVec 7) (s : State) : Outcome :=
  issue (.cpyw b a d) (do
    let x ← srcC a
    let y ← srcC b
    let n ← srcC d
    let r ← readX (d.toNat + 1)
    issueCopy x y n r true) s
/-- `msend` (R217). -/
def execMsend (b a : BitVec 7) (s : State) : Outcome :=
  issue (.msend b a) (do
    let w ← srcC a
    let v ← srcC b
    issueMsg w v) s

/-! Channels (R219, Table 8.6). -/

/-- The channel word is admitted: reserved bits, the channel number, and a ring inside the scratchpad. RLOG 13 to 15, to which Table 8.6 gives
no meaning and for which R219 names no cause, is refused as the reserved bits are (DESIGN CHOICE, log entry 89). -/
def chanWordOk (w : Word) : Bool :=
  bits w 63 42 == 0 && bits w 19 16 == 0 && bits w 15 0 != 0 && decide (bits w 23 20 ≤ 12) && bits w 41 24 % 8 == 0 &&
    (bits w 23 20 == 0 || decide (bits w 41 24 + 8 * 2 ^ bits w 23 20 ≤ 262144))

/-- Every bank of the ring is owned by the partition, or by none for the hypervisor's set (R219, R362). -/
def State.ringOwned (s : State) (gs : Nat) (w : Word) : Bool :=
  bits w 23 20 == 0 ||
    (List.range 32).all (fun b =>
      decide (8192 * (b + 1) ≤ bits w 41 24) || decide (bits w 41 24 + 8 * 2 ^ bits w 23 20 ≤ 8192 * b) ||
        s.bankOwner (clusterOf gs) b == s.partOf gs)

/-- `chbind` (R219). -/
def execChbind (p : BitVec 5) (a : BitVec 7) (s : State) : Outcome :=
  issue (.chbind p a) (do
    let w ← srcC a
    let s ← get
    if (mget s.arch.ports p.toNat).isSome then M.trap { cause := .port, portc := some p.toNat } else pure ()
    M.require (chanWordOk w) .illegalOperand
    let k := 65536 * coreOf s.fs + bits w 15 0
    if (mget s.chans k).isSome then M.trap { cause := .port, portc := some p.toNat } else pure ()
    if !s.ringOwned s.fs w then M.trap { cause := .pageProtection, orig := 2 } else pure ()
    let c : Chan := { gs := s.fs, port := p.toNat, roff := bits w 41 24, rlog := bits w 23 20, head := 0, count := 0 }
    set { s with chans := mput s.chans k c }
    modArch (fun t => { t with ports := mput t.ports p.toNat (.channel (bits w 15 0)) })) s
/-- `chunbind` (R219): a w port loses its elements, p15 keeps those in its queue; those in its ring go with the ring, of which the rule says
nothing (log entry 77). -/
def execChunbind (p : BitVec 5) (s : State) : Outcome :=
  issue (.chunbind p) (do
    let s ← get
    if s.arch.onChannel p.toNat then
      set { s with chans := s.chans.filter (fun c => !(c.2.gs == s.fs && c.2.port == p.toNat)) }
      modArch (fun t => { t with ports := mdel t.ports p.toNat })
      modTh (fun t => if p.toNat = 15 then t else { t with wq := mdel t.wq p.toNat })
    else pure ()) s

/-! The reduction network (R77, R221, R222). -/

/-- The node of a thread in a tree. -/
def State.nodeOf (s : State) (uid tree : Nat) : Option Node := s.nodes.find? (fun n => n.uid == uid && n.tree == tree)

/-- The function number under which a thread's trees stand; threads of no function share a set of their own. -/
def treeSpace (vf : Option Nat) : Nat := match vf with | some v => v | none => 256

/-- `redcfg` (R221). -/
def execRedcfg (b a : BitVec 7) (s : State) : Outcome :=
  issue (.redcfg b a) (do
    let w ← srcC a
    let p ← srcC b
    let s ← get
    let root := bit w 16
    let cix := bits w 15 12
    M.require (bits w 63 17 == 0 && bits w 7 6 == 0) .illegalOperand
    M.require (if root then cix == 0 && p == 0 else cix != 0 && tgKind p == 0 && s.targetOk s.fs p) .illegalOperand
    let tree := bits w 5 0
    match s.nodeOf s.th.uid tree with
    | some n => if n.contrib.isSome ∨ n.out.isSome then M.hold (.tree tree) else pure ()
    | none => pure ()
    let place := (s.targetPlace s.th.vf s.th.detLaunch (coreOf s.fs) p).getD (0, 0)
    let parent := if root then 0 else 64 * place.1 + place.2
    let n : Node :=
      { vf := treeSpace s.th.vf, tree := tree, gs := s.fs, uid := s.th.uid, root := root, cix := cix, nch := bits w 11 8,
        parent := parent, contrib := none, out := none }
    set { s with nodes := s.nodes.filter (fun (m : Node) => !(m.uid == n.uid && m.tree == tree)) ++ [n] }) s

/-- Op of a reduction on two elements of a vector conversion code (R77, R222). -/
def treeOp (fmt op a b : Nat) : Nat :=
  let w := 8 * 2 ^ cfmtLog fmt
  if fmt ≤ 3 then
    match op with
    | 0 => (a + b) % 2 ^ w
    | 1 => if signedOf w a ≤ signedOf w b then a else b
    | _ => if signedOf w a ≤ signedOf w b then b else a
  else
    let f := match fmt with | 4 => fmtHf | 5 => fmtBf | 6 => fmtS | _ => fmtD
    match op with
    | 0 => (fAdd f .rn a b).1
    | 1 => (fMinMax f false a b).1
    | _ => (fMinMax f true a b).1

/-- Op on contributions, element by element; an absent element changes nothing (R222). -/
def treeZip (fmt op : Nat) : List Nat → List Nat → List Nat
  | [], bs => bs
  | as, [] => as
  | a :: as, b :: bs => treeOp fmt op a b :: treeZip fmt op as bs

/-- `redc` (R222): the contribution waits at the thread's node. -/
def execRedc (c : BitVec 4) (o : BitVec 2) (a : BitVec 7) (d : BitVec 5) (s : State) : Outcome :=
  issue (.redc c o a d) (do
    let x ← srcC a
    M.require (decide (x.toNat < 64)) .illegalOperand
    let s ← get
    match s.nodeOf s.th.uid x.toNat with
    | none => M.cause .illegalOperand
    | some n =>
      if n.contrib.isSome ∨ n.out.isSome then M.hold (.tree x.toNat)
      else do
        let esz := cfmtLog c.toNat
        let vs ← srcV d (8 * 2 ^ esz) (List.replicate (vlOf s.before.arch.grant esz) true) false
        modify (fun s => { s with
          nodes := s.nodes.map (fun (m : Node) =>
            if m.uid = n.uid ∧ m.tree = n.tree then { m with contrib := some (c.toNat, o.toNat, vs) } else m) })) s

/-! Tasks and forks (R223 to R226). -/

/-- A deferred effect enters the chunk, or takes place at issue (R208). -/
def deferOr (d : Deferred) : M Unit := do
  let s ← get
  if s.isDirect then set (s.runDeferred s.fs d) else modChunk (fun c => { c with deferred := c.deferred ++ [d] })

/-- `tspawn` (R223). -/
def execTspawn (b a d : BitVec 7) (s : State) : Outcome :=
  issue (.tspawn b a d) (do
    let entry ← srcC a
    let ts ← srcC b
    let arg ← srcC d
    let x3 ← readX 3
    let s ← get
    M.require (s.th.ord && decide (s.th.ts.toNat ≤ ts.toNat)) .illegalOperand
    if entry.toNat % 4 ≠ 0 then M.trap { cause := .misaligned, av := true, acc := 2, info1 := addr57 entry } else pure ()
    M.untilTurn (!s.isDirect || s.poolRoom s.fs 1)
    deferOr (.tspawn (addr57 entry) ts arg x3)) s
/-- `fork` (R224). -/
def execFork (b a d : BitVec 7) (s : State) : Outcome :=
  issue (.fork b a d) (do
    let entry ← srcC a
    let arg ← srcC b
    let x3 ← readX 3
    let s ← get
    let c := s.arch.forks
    M.require (decide (c < 255) && !s.th.ord && decide (s.th.path.length < 64)) .illegalOperand
    modArch (fun t => { t with forks := c + 1 })
    deferOr (.fork c (addr57 entry) arg x3)
    dstC d (BitVec.ofNat 64 c)) s
/-- Hold until every child has executed `exit` (R225); the entry index of a deterministic launch joins theirs (R298). -/
def joinChildren : M Unit := do
  let s ← get
  if s.childrenLeft s.th.uid then M.hold .join
  else modTh (fun t => { t with ent := max t.ent t.joined })
/-- `join` (R225). -/
def execJoin (s : State) : Outcome := issue .join joinChildren s

/-- The path word: depth and the first seven levels (R226). -/
def pathWord (p : List Nat) : Word :=
  BitVec.ofNat 64 (p.length * 2 ^ 56 + ((List.range 7).map (fun k => p.getD k 0 * 2 ^ (8 * k))).foldl (· + ·) 0)
/-- Word w of the path, from 1 (R226). -/
def pathPart (p : List Nat) (w : Nat) : Word :=
  BitVec.ofNat 64 (((List.range 8).map (fun j => p.getD (8 * (w - 1) + j) 0 * 2 ^ (8 * j))).foldl (· + ·) 0)
/-- `tkey` (R226). -/
def execTkey (a d : BitVec 7) (s : State) : Outcome :=
  issue (.tkey a d) (do
    let x ← srcC a
    let s ← get
    if s.th.ord then
      M.require (x == 0) .illegalOperand
      dstC d s.th.ts
    else
      M.require (decide (x.toNat ≤ 8)) .illegalOperand
      dstC d (if x = 0 then pathWord s.th.path else pathPart s.th.path x.toNat)) s

/-! Ready queues (R227, R362). -/

/-- `rqput` (R227). -/
def execRqput (b a : BitVec 7) (s : State) : Outcome :=
  issue (.rqput b a) (do
    let r ← srcC a
    let p ← srcC b
    M.require (r != 0 && decide (p.toNat ≤ 3)) .illegalOperand
    let s ← get
    let q := mgetD s.rqs (s.subq s.fs) []
    M.untilTurn (decide (q.length < 64))
    set { s with rqs := mput s.rqs (s.subq s.fs) (q ++ [(p.toNat, r)]) }) s

/-- The oldest entry of the highest priority in a mask (R227). -/
def rqPick (q : List (Nat × Word)) (mask : Nat) : Option (Nat × Word) :=
  (List.range 4).findSome? (fun p => if mask / 2 ^ p % 2 = 1 then q.find? (fun e => e.1 == p) else none)
/-- `rqtake` (R227). -/
def execRqtake (b d : BitVec 7) (s : State) : Outcome :=
  issue (.rqtake b d) (do
    let m ← srcC b
    M.require (decide (m.toNat < 16)) .illegalOperand
    let s ← get
    let q := mgetD s.rqs (s.subq s.fs) []
    match rqPick q m.toNat with
    | some e =>
      set { s with rqs := mput s.rqs (s.subq s.fs) (q.erase e) }
      dstC d e.2
    | none => dstC d 0) s

/-! Slots (R228 to R231, R234). -/

/-- `tmset` (R228). -/
def execTmset (a : BitVec 7) (s : State) : Outcome :=
  issue (.tmset a) (do
    let x ← srcC a
    modTh (fun t => { t with timer := x })) s

/-- The start record's fields are in range and its reserved bits zero (Table 8.8). -/
def startRecordOk (d0 d1 : Word) : Bool :=
  bits d0 63 29 == 0 && !bit d0 19 && bits d0 7 6 == 0 && bits d0 26 20 % 8 == 0 &&
    decide (8 ≤ bits d0 26 20 ∧ bits d0 26 20 ≤ 112) && bits d0 18 8 % 8 == 0 &&
    decide (bits d0 18 8 + bits d0 26 20 ≤ 2048) && bits d1 1 0 == 0
/-- The status of an `sstart`, the conditions in the order 4, 1, 2, 3 (R229). -/
def State.startStatusOf (s : State) (d0 d1 : Word) : Nat :=
  let gs := 64 * coreOf s.fs + bits d0 5 0
  if !startRecordOk d0 d1 then 4
  else if !bit (s.pmask s.fs) (bits d0 5 0) then 1
  else if !s.slotFree gs then 2
  else if !s.windowFree (coreOf s.fs) (bits d0 18 8) (bits d0 26 20) then 3
  else 0
/-- `sstart` (R229). -/
def execSstart (a d : BitVec 7) (s : State) : Outcome :=
  issue (.sstart a d) (do
    let x ← srcC a
    let (_, v) ← memRead (addr57 x) 32
    let dwn := fun (i : Nat) => BitVec.ofNat 64 (v / 2 ^ (64 * i))
    let s ← get
    let st := s.startStatusOf (dwn 0) (dwn 1)
    if st = 0 then
      let t := Thread.fresh s.th.vf s.th.asid (bits (dwn 0) 18 8) (bits (dwn 0) 26 20) (addr57 (dwn 1))
        (startStatus (bit (dwn 0) 27) (bit (dwn 0) 28) false false)
      set (s.startThread (64 * coreOf s.fs + bits (dwn 0) 5 0) t [(3, dwn 2), (2, dwn 3)])
    else pure ()
    dstC d (BitVec.ofNat 64 st)) s

/-- `sstop` (R230): the thread leaves rotation until steps 1 to 4 are complete. -/
def execSstop (a : BitVec 7) (s : State) : Outcome :=
  issue (.sstop a) (do
    let x ← srcC a
    let s ← get
    let gs := 64 * coreOf s.fs + x.toNat % 64
    match s.th.hold with
    | some (.sstop uid) =>
      if (s.thread gs).uid ≠ uid ∨ !(s.thread gs).live then pure ()
      else if s.stopDone gs then set (s.endThread gs false)
      else M.hold (.sstop uid)
    | _ =>
      M.require (decide (x.toNat < 64) && bit (s.pmask s.fs) x.toNat && gs != s.fs) .illegalOperand
      if (s.thread gs).live then
        let s1 := s.beginStop gs
        if s1.stopDone gs then set (s1.endThread gs false)
        else
          set s1
          M.park (.sstop (s.thread gs).uid)
      else pure ()) s

/-- What the A-class word of an ending pair has left to be performed is performed (R33, R231). -/
def performRest : M Unit := do
  let s ← get
  for effs in s.th.stores.flatten ++ s.th.pushes do
    performNow effs

/-- `exit` (R231). -/
def execExit (s : State) : Outcome :=
  issue .exit (do
    joinChildren
    let s ← get
    M.until_ (s.before.th.quiet && s.before.th.copies.isEmpty)
    match s.th.heldFaults with
    | f :: _ => M.trap f.2
    | [] =>
      performRest
      let s ← get
      set (s.endThread s.fs true)) s

/-- `wfi` (R234). -/
def execWfi (s : State) : Outcome :=
  issue .wfi (do
    let s ← get
    if s.before.th.intPending || !s.before.th.p15.isEmpty then pure () else M.hold .wfi) s

/-! Levels (R232, R233). -/

/-- Enter a handler by request: EPC is the next address (R232). Its Enter names no EINFO register; the model records the request as it records
a cause: EINFO0 to EINFO2 of a cause without an address, and the raising word in EINFO3 (DESIGN CHOICE, log entry 89). -/
def enterRequest (lev n : Nat) : M Unit := do
  let s ← get
  let t : Trap := { cause := .request n }
  let th := s.th.enter (max lev s.th.level) (BitVec.ofNat 64 t.cause.code) s.unit.next t.einfo0 t.info1 t.info2 (s.unit.einfo3 t)
  set ({ s.setTh th with unit := { s.unit with entered := true } }.traceRec s.fs 2 s.unit.addr (BitVec.ofNat 64 t.cause.code))
/-- `trap` (R232). -/
def execTrap (n : BitVec 7) (s : State) : Outcome := issue (.trap n) (enterRequest 1 n.toNat) s
/-- `hcall` (R232). -/
def execHcall (n : BitVec 7) (s : State) : Outcome := issue (.hcall n) (enterRequest 2 n.toNat) s
/-- `brk` (R232). -/
def execBrk (n : BitVec 7) (s : State) : Outcome := issue (.brk n) (M.trap { cause := .debug, brkn := n.toNat }) s
/-- `eret` (R233). -/
def execEret (s : State) : Outcome :=
  issue .eret (do
    let s ← get
    let lev := s.th.level
    jumpTo (s.th.bank lev).epc
    modArch (fun a => { a with status := eretStatus a.status lev })) s

/-! Control registers (R38 to R40, R235, Tables 1.6 and 1.7). -/

/-- `csrr` (R235). -/
def execCsrr (c : BitVec 10) (d : BitVec 7) (s : State) : Outcome :=
  issue (.csrr c d) (do
    let v ← csrRead c.toNat
    dstC d v) s

/-- The bits of STATUS that a write at a level reaches (Table 1.6). -/
def statusMask (level : Nat) : Word :=
  (if 1 ≤ level then 0x398000 else 0) ||| (if 2 ≤ level then 0x1C00000 else 0) ||| (if 3 ≤ level then 0xE000000 else 0)
/-- A register that holds a word address: bits 1:0 read zero (Table 1.7). -/
def wordAddr (v : Word) : Word := addr57 v &&& ~~~3
/-- Change the bank of trap registers of the current level (R37). -/
def modBank (f : TrapRegs → TrapRegs) : M Unit := modTh (fun t => t.setBank t.level (f (t.bank t.level)))
/-- Write a shared register (R25, R235); a direct-mode write is remembered for the reads that may miss it, the slot's own among them. -/
def writeG (n : Nat) (v : Word) : M Unit := do
  let s ← get
  let k := 16 * coreOf s.fs + n
  let old := mgetD s.gregs k 0
  let h := (mgetD s.gregHist k []).filter (fun (x : GWrite) => decide (s.cycle < x.at_ + 4))
  uncounted .scalar [.greg k v]
  if s.isDirect then
    modify (fun s => { s with gregHist := mput s.gregHist k ({ old := old, at_ := s.cycle, seen := [] } :: h) })
  else pure ()
/-- Write POLICY of the executing slot's partition, its log region unchanged (R235, R360). -/
def writePolicy (v : Word) : M Unit := do
  M.require (bits v 2 1 != 3) .illegalOperand
  modify (fun s =>
    match s.partOf s.fs, s.partRec s.fs with
    | some pid, some p => s.setLog pid p.logBase p.logLen (bits v 2 0)
    | _, _ => s)
/-- The write of a control register that is listed and admitted (R37 to R40, R235). -/
def csrWrite (c : Nat) (v : Word) : M Unit := do
  let s ← get
  match c with
  | 0x10 =>
    M.require (fctlOk v) .illegalOperand
    modArch (fun a => { a with fctl := fctlWrite v })
  | 0x11 => modArch (fun a => { a with fflags := v &&& 31 })
  | 0x100 =>
    let m := statusMask s.th.level
    modArch (fun a => { a with status := (a.status &&& ~~~m) ||| (v &&& m) })
  | 0x101 => modBank (fun b => { b with tvec := wordAddr v })
  | 0x102 => modTh (fun t => { t with ucvec := wordAddr v })
  | 0x103 => modBank (fun b => { b with epc := wordAddr v })
  | 0x104 => modBank (fun b => { b with ecause := v &&& 0x80000000000000FF })
  | 0x110 => modTh (fun t => { t with timer := v })
  | 0x114 =>
    M.require (!s.th.det && decide (256 ≤ v.toNat ∧ v.toNat ≤ 8192)) .illegalOperand
    modTh (fun t => { t with chunkmax := v.toNat })
  | 0x115 => writePolicy v
  | _ => match csrShared c with
    | some n => writeG n v
    | none => M.cause .illegalOperand
/-- `csrw` (R235). -/
def execCsrw (c : BitVec 10) (a : BitVec 7) (s : State) : Outcome :=
  issue (.csrw c a) (do
    let v ← srcC a
    csrWrite c.toNat v) s

end Sys2Proof.Machine
end

