-- ==== Sys2Proof/Machine/VecMem.lean ====
section
/-!
DEFINITION. Vector loads and stores, strided, gathered and scattered (R160 to R163).
-/

namespace Sys2Proof.Machine

/-- A trap at element j carries its index (R162). -/
def atIndex (j : Nat) (m : M α) : M α := fun s =>
  match m s with
  | .error (.trap t) => .error (.trap { t with ev := true, info2 := BitVec.ofNat 64 j })
  | r => r

/-- VL at an element size of 2^esz bytes, and the active elements under a mask (R154, R155). -/
def activeOf (m : BitVec 3) (esz : Nat) : M (List Bool) := do
  let a ← readArch
  pure (actives (a.kreg m.toNat) (vlOf a.grant esz))

/-- The active elements with their addresses. -/
def activeAddrs (act : List Bool) (addrs : List Word) : List (Nat × Word) :=
  ((act.zip addrs).zipIdx).filterMap (fun p => if p.1.1 then some (p.2, p.1.2) else none)

/-- Check every active element before any is accessed (R162): their physical addresses. -/
def checkElems (els : List (Nat × Word)) (esz : Nat) (load : Bool) : M (List (Nat × Nat)) := do
  directOrder
  els.mapM (fun p => atIndex p.1 (do
    let pa ← checkAccess p.2 (2 ^ esz) (2 ^ esz) (if load then .read else .write) (if load then .load else .store)
    if load then poisonCheck .vector pa (2 ^ esz) .read p.2 else pure ()
    pure (p.1, pa)))

/-- The elements that a load to a w port has read so far (R119). -/
def State.gathered (s : State) : List Nat := match s.th.hold with | some (.gather vs) => vs | _ => []

/-- Read the active elements. In a chunk each is read at the place it takes among the chunk's operations. In direct mode each is a
singleton (R119, R163): those of a v register are read one after the other while the load is counted; those that are pushed to a w port are
read one at each issue of the unit, which completes with the last. -/
def readElems (pas : List (Nat × Nat)) (esz : Nat) (port : Bool) : M (List Nat) := do
  let s ← get
  if port && s.th.directMode && !s.unit.outside then
    let vs := s.gathered
    match pas[vs.length]? with
    | none => pure vs
    | some p =>
      let x ← viewed .vector p.2 (2 ^ esz)
      if vs.length + 1 < pas.length then M.hold (.gather (vs ++ [x]))
      else
        countEntries 1
        pure (vs ++ [x])
  else
    if port then countEntries pas.length else countReads pas.length
    pas.mapM (fun p => viewed .vector p.2 (2 ^ esz))

/-- Load the active elements at their addresses into a vector field (R161 to R163). -/
def vecLoad (act : List Bool) (addrs : List Word) (esz : Nat) (d : BitVec 5) (adv : Bool) : M Unit := do
  let pas ← checkElems (activeAddrs act addrs) esz true
  readLines (pas.flatMap (fun p => linesOf p.2 (2 ^ esz))).dedup
  let xs ← readElems pas esz (decide (28 ≤ d.toNat))
  let vs := (pas.zip xs).map (fun p => (p.1.1, p.2))
  if d.toNat < 28 then countLoad [.elems d.toNat (8 * 2 ^ esz) vs (pas.map (·.2))]
  else
    dstV d (8 * 2 ^ esz) (act.zipIdx.map (fun p => if p.1 then mget vs p.2 else none)) adv
    countLoad []

/-- Store the active elements of a vector field at their addresses (R161, R162): in ascending index, each a singleton. -/
def vecStore (act : List Bool) (addrs : List Word) (esz : Nat) (vals : List Nat) : M Unit := do
  let pas ← checkElems (activeAddrs act addrs) esz false
  let s ← get
  let effs := pas.map (fun p => s.effFor p.2 (leBytes (2 ^ esz) (vals.getD p.1 0)))
  let lines := ((effs.filter Eff.isRemote).flatMap Eff.items).dedup
  countSingles .vector (effs.map (fun e => [e])) lines.length

/-- Addresses of `vld` and `vst` (R161). -/
def unitAddrs (a : BitVec 7) (o : BitVec 6) (esz n : Nat) : M (List Word) := do
  let x ← srcC a
  let p := ea x (o.signExtend 64 <<< esz)
  pure ((List.range n).map (fun j => addr57 (p + BitVec.ofNat 64 (2 ^ esz * j))))

/-- Addresses of `vlds` and `vsts` (R161). -/
def stridedAddrs (a b : BitVec 7) (n : Nat) : M (List Word) := do
  let x ← srcC a
  let st ← srcC b
  pure ((List.range n).map (fun j => addr57 (ea x 0 + BitVec.ofNat 64 j * st)))

/-- Addresses of `vgat` and `vsct` from the index elements (R161). -/
def indexedAddrs (a : BitVec 7) (esz : Nat) (scaled : Bool) (idx : List Nat) : M (List Word) := do
  let x ← srcC a
  pure (idx.map (fun i =>
    let k := signExt i (8 * 2 ^ esz)
    ea x (if scaled then k <<< esz else k)))

/-- `vld` (R161). -/
def execVld (o : BitVec 6) (v : BitVec 1) (m : BitVec 3) (a : BitVec 7) (z : BitVec 2) (d : BitVec 5) (s : State) :
    Outcome :=
  issue (.vld o v m a z d) (do
    let act ← activeOf m z.toNat
    let ps ← unitAddrs a o z.toNat act.length
    vecLoad act ps z.toNat d (v == 1)) s
/-- `vst` (R161). -/
def execVst (o : BitVec 6) (v : BitVec 1) (m : BitVec 3) (a : BitVec 7) (z : BitVec 2) (d : BitVec 5) (s : State) :
    Outcome :=
  issue (.vst o v m a z d) (do
    let act ← activeOf m z.toNat
    let ps ← unitAddrs a o z.toNat act.length
    let vs ← srcV d (8 * 2 ^ z.toNat) act (v == 1)
    vecStore act ps z.toNat vs) s
/-- `vlds` (R161). -/
def execVlds (m : BitVec 3) (b a : BitVec 7) (z : BitVec 1) (d : BitVec 5) (s : State) : Outcome :=
  issue (.vlds m b a z d) (do
    let act ← activeOf m (2 + z.toNat)
    let ps ← stridedAddrs a b act.length
    vecLoad act ps (2 + z.toNat) d false) s
/-- `vsts` (R161). -/
def execVsts (m : BitVec 3) (b a : BitVec 7) (z : BitVec 1) (d : BitVec 5) (s : State) : Outcome :=
  issue (.vsts m b a z d) (do
    let act ← activeOf m (2 + z.toNat)
    let ps ← stridedAddrs a b act.length
    let vs ← srcV d (8 * 2 ^ (2 + z.toNat)) act false
    vecStore act ps (2 + z.toNat) vs) s
/-- `vgat` (R161). -/
def execVgat (m : BitVec 3) (c : BitVec 1) (i : BitVec 5) (a : BitVec 7) (z : BitVec 1) (d : BitVec 5) (s : State) :
    Outcome :=
  issue (.vgat m c i a z d) (do
    let act ← activeOf m (2 + z.toNat)
    let idx ← srcV i (8 * 2 ^ (2 + z.toNat)) act false
    let ps ← indexedAddrs a (2 + z.toNat) (c == 1) idx
    vecLoad act ps (2 + z.toNat) d false) s
/-- `vsct` (R161). -/
def execVsct (m : BitVec 3) (c : BitVec 1) (i : BitVec 5) (a : BitVec 7) (z : BitVec 1) (d : BitVec 5) (s : State) :
    Outcome :=
  issue (.vsct m c i a z d) (do
    let act ← activeOf m (2 + z.toNat)
    let idx ← srcV i (8 * 2 ^ (2 + z.toNat)) act false
    let vs ← srcV d (8 * 2 ^ (2 + z.toNat)) act false
    let ps ← indexedAddrs a (2 + z.toNat) (c == 1) idx
    vecStore act ps (2 + z.toNat) vs) s

end Sys2Proof.Machine
end

