-- ==== Sys2Proof/Machine/Special.lean ====
section
/-!
DEFINITION. The special functions of the vector pool and the counter generator (R64, R171 to R173).
An irrational value is computed to more than 80 bits beyond its leading bit; the `.hf` and `.bf` results are that
value rounded to nearest even, the `.s` result is any value within the bound of Table 6.6 (a constant of Config).
-/

namespace Sys2Proof.Machine

/-- Bits after the point of the fixed-point values below. -/
def spBits : Nat := 160

/-- The fixed-point product. -/
def fxMul (a b : Nat) : Nat := a * b / 2 ^ spBits

/-- Product of 2^(2^-i) over the set bits of a fraction of `n` bits; `c` is the current root of two. -/
def exp2Go : Nat → Nat → Nat → Nat → Nat
  | 0, _, _, acc => acc
  | n + 1, f, c, acc => exp2Go n f (natSqrt (c * 2 ^ spBits)) (if f / 2 ^ n % 2 = 1 then fxMul acc c else acc)

/-- 2^(f / 2^n) as a fixed-point value between 1 and 2. -/
def exp2Frac (n f : Nat) : Nat := exp2Go n f (natSqrt (2 * 2 ^ (2 * spBits))) (2 ^ spBits)

/-- `n` bits of log2 of a fixed-point value between 1 and 2, by repeated squaring. -/
def log2Go : Nat → Nat → Nat → Nat
  | 0, _, acc => acc
  | n + 1, y, acc =>
    let z := fxMul y y
    if 2 ^ (spBits + 1) ≤ z then log2Go n (z / 2) (2 * acc + 1) else log2Go n z (2 * acc)

/-- The number π with `spBits` bits after the point, by Machin's formula: arctan(1/n) as an alternating series. -/
def arctanInvGo (n2 : Nat) : Nat → Nat → Nat → Bool → Int → Int
  | 0, _, _, _, acc => acc
  | fuel + 1, p, k, neg, acc =>
    let t : Int := ((p / k : Nat) : Int)
    arctanInvGo n2 fuel (p / n2) (k + 2) (!neg) (if neg then acc - t else acc + t)

/-- arctan(1/n) in fixed point. -/
def arctanInv (n : Nat) : Int := arctanInvGo (n * n) 60 (2 ^ (spBits + 16) / n) 1 false 0

/-- π in fixed point. -/
def piFx : Nat := ((16 * arctanInv 5 - 4 * arctanInv 239).toNat) / 2 ^ 16

/-- sin(z)/z for z² = `z2` in fixed point, by its series. -/
def sincGo (z2 : Nat) : Nat → Nat → Nat → Bool → Int → Int
  | 0, _, _, _, acc => acc
  | fuel + 1, t, k, neg, acc =>
    sincGo z2 fuel (fxMul t z2 / ((k + 1) * (k + 2))) (k + 2) (!neg)
      (if neg then acc - (t : Int) else acc + (t : Int))

/-- sin(π m 2^e) for m 2^e above 0 and at most 1/2: a magnitude and its exponent, relative precision kept. -/
def sinPiSmall (m : Nat) (e : Int) : Nat × Int :=
  -- x in fixed point, for the correction series only
  let xf : Nat := if 0 ≤ e then m * 2 ^ (spBits + e.toNat) else m * 2 ^ spBits / 2 ^ (-e).toNat
  let z := fxMul piFx xf
  let g := (sincGo (fxMul z z) 40 (2 ^ spBits) 1 false 0).toNat
  (piFx * g * m, e - 2 * spBits)

/-- An exact or nearly exact real result: it is what Table 6.7 gives, or a magnitude to be rounded. -/
inductive SpRes where
  /-- A result of Table 6.7 with its flags. -/
  | exact (v : FVal) (fl : FFlags)
  /-- A value that is not in the table: sign, magnitude and exponent, to more bits than any format holds. -/
  | near (s : Bool) (m : Nat) (e : Int)
deriving DecidableEq, Repr

/-- The magnitude is a power of two; its exponent. -/
def pow2Exp (m : Nat) (e : Int) : Option Int :=
  if m = 2 ^ Nat.log2 m then some (e + Nat.log2 m) else none

/-- 2^n is a normal number of the format. -/
def isNormalExp (f : Fmt) (n : Int) : Bool :=
  decide (1 - (f.bias : Int) ≤ n) && decide (n ≤ (f.bias : Int))

/-- 2^x (R172). -/
def spExp2 (f : Fmt) : FVal → SpRes
  | .nan sig => .exact (.nan false) (if sig then flNV else 0)
  | .inf s => if s then .exact (.fin false 0 0) 0 else .exact (.inf false) 0
  | .fin s m e =>
    if m = 0 then .exact (.fin false 1 0) 0
    else if 0 ≤ e + (Nat.log2 m : Nat) - 12 then
      -- far beyond every exponent range
      if s then .near false 1 (-4000) else .near false 1 4000
    else
      -- x = q / 2^p exactly
      let p := (-e).toNat
      let a : Int := if s then -((m * 2 ^ e.toNat : Nat) : Int) else ((m * 2 ^ e.toNat : Nat) : Int)
      let n : Int := a / ((2 ^ p : Nat) : Int)
      let r : Nat := (a % ((2 ^ p : Nat) : Int)).toNat
      if r = 0 then
        if isNormalExp f n then .exact (.fin false 1 n) 0 else .near false 1 n
      else .near false (2 * exp2Frac p r + 1) (n - spBits - 1)

/-- log2 x (R172). -/
def spLog2 : FVal → SpRes
  | .nan sig => .exact (.nan false) (if sig then flNV else 0)
  | .inf s => if s then .exact (.nan false) flNV else .exact (.inf false) 0
  | .fin s m e =>
    if m = 0 then .exact (.inf true) flDZ
    else if s then .exact (.nan false) flNV
    else
      match pow2Exp m e with
      | some n => .exact (.fin (decide (n < 0)) n.natAbs 0) 0
      | none =>
        let k := Nat.log2 m
        let frac := log2Go 120 (m * 2 ^ spBits / 2 ^ k) 0
        let v : Int := (e + (k : Nat)) * ((2 ^ 120 : Nat) : Int) + (frac : Nat)
        .near (decide (v < 0)) (2 * v.natAbs + 1) (-121)

/-- 1/x (R172). -/
def spRcp (f : Fmt) : FVal → SpRes
  | .nan sig => .exact (.nan false) (if sig then flNV else 0)
  | .inf s => .exact (.fin s 0 0) 0
  | .fin s m e =>
    if m = 0 then .exact (.inf s) flDZ
    else
      match pow2Exp m e with
      | some n => if isNormalExp f (-n) then .exact (.fin s 1 (-n)) 0 else .near s 1 (-n)
      | none =>
        let q := divSticky 60 1 0 m e
        .near s q.1 q.2

/-- 1/√x (R172). -/
def spRsqrt : FVal → SpRes
  | .nan sig => .exact (.nan false) (if sig then flNV else 0)
  | .inf s => if s then .exact (.nan false) flNV else .exact (.fin false 0 0) 0
  | .fin s m e =>
    if m = 0 then .exact (.inf s) flDZ
    else if s then .exact (.nan false) flNV
    else
      match pow2Exp m e with
      | some n =>
        if n % 2 = 0 then .exact (.fin false 1 (-n / 2)) 0
        else
          let q := sqrtSticky 80 1 (-n)
          .near false q.1 q.2
      | none =>
        let d := divSticky 200 1 0 m e
        let q := sqrtSticky 80 d.1 d.2
        .near false (q.1 / 2 * 2 + 1) q.2

/-- sin(π x) for a finite x that is not a multiple of one half, x given by sign, magnitude and exponent. -/
def sinPiRes (s : Bool) (m : Nat) (e : Int) : SpRes :=
  -- x modulo 2, as a / 2^p; here e is negative, for x is no integer
  let p := (-e).toNat
  let a := m % 2 ^ (p + 1)
  let neg := decide (2 ^ p < a)
  let b := if neg then a - 2 ^ p else a
  let c := if 2 ^ p < 2 * b then 2 ^ p - b else b
  let r := sinPiSmall c e
  .near (s != neg) (2 * r.1 + 1) (r.2 - 1)

/-- sin(πx) (R172). -/
def spSin : FVal → SpRes
  | .nan sig => .exact (.nan false) (if sig then flNV else 0)
  | .inf _ => .exact (.nan false) flNV
  | .fin s m e =>
    if m = 0 ∨ 0 ≤ e ∨ m % 2 ^ (-e).toNat = 0 then .exact (.fin s 0 0) 0
    else if m % 2 ^ ((-e).toNat - 1) = 0 then
      -- x = n + 0.5: +1 if n is even, −1 if odd
      let h : Int := if s then -((m / 2 ^ ((-e).toNat - 1) : Nat) : Int) else ((m / 2 ^ ((-e).toNat - 1) : Nat) : Int)
      .exact (.fin ((h - 1) / 2 % 2 != 0) 1 0) 0
    else sinPiRes s m e

/-- cos(πx) (R172). -/
def spCos : FVal → SpRes
  | .nan sig => .exact (.nan false) (if sig then flNV else 0)
  | .inf _ => .exact (.nan false) flNV
  | .fin _ m e =>
    if m = 0 then .exact (.fin false 1 0) 0
    else if 1 ≤ e then .exact (.fin false 1 0) 0
    else if m % 2 ^ (-e).toNat = 0 then .exact (.fin (m / 2 ^ (-e).toNat % 2 == 1) 1 0) 0
    else if m % 2 ^ ((-e).toNat - 1) = 0 then .exact (.fin false 0 0) 0
    else
      -- cos(πx) = sin(π(x + 1/2)), with x at least two bits below the point
      sinPiRes false (m + 2 ^ ((-e).toNat - 1)) e

/-- The function of Table 6.6 by its number. -/
def spFun (fn : Nat) (f : Fmt) (x : FVal) : SpRes :=
  match fn with
  | 0 => spExp2 f x
  | 1 => spLog2 x
  | 2 => spRcp f x
  | 3 => spRsqrt x
  | 4 => spSin x
  | _ => spCos x

/-- The nearest-even result of a value that is not in Table 6.7, and its flags (R172): NX when the result is finite and
not zero, UF beside it when it is subnormal, OF and NX when it passes the largest finite value. -/
def spRound (f : Fmt) (s : Bool) (m : Nat) (e : Int) : Nat × FFlags :=
  let r := (roundPos f .rn true s m e).1
  match decodeF f r with
  | .fin _ k ke =>
    (r, if k = 0 then 0
        else if k < 2 ^ f.frac ∧ ke = 1 - (f.bias : Int) - f.frac then flNX ||| flUF else flNX)
  | _ => (r, flOF ||| flNX)

/-- The distance of a `.s` candidate from the value is within the bound of Table 6.6:
one unit in the last place of the nearest result, or 2^-23 absolute. -/
def withinBound (fn : Nat) (x : FVal) (s : Bool) (m : Nat) (e : Int) (best cand : Nat) : Bool :=
  match decodeF fmtS best, decodeF fmtS cand with
  | .fin _ _ be, .fin cs cm ce =>
    let q := min e (min be ce) - 1
    let d := (scaledInt cs cm ce q - scaledInt s m e q).natAbs
    let ulp := 2 ^ (be - q).toNat
    let abs23 := if q ≤ -23 then 2 ^ (-23 - q).toNat else 1
    let near1 : Bool :=
      match x with
      | .fin _ xm xe => belowV (.fin false xm xe) (.fin false 1 1) && !belowV (.fin false xm xe) (.fin false 1 (-1))
      | _ => false
    decide (cand < 2 ^ 32) &&
      (if fn = 4 ∨ fn = 5 then decide (d ≤ abs23)
       else if fn = 1 ∧ near1 then decide (d ≤ abs23)
       else decide (d ≤ ulp))
  | _, _ => false

/-- A special function of an operand: result bits and flags (R171, R172). -/
def special (fn : Nat) (f : Fmt) (a : Nat) : Nat × FFlags :=
  let x := decodeF f a
  match spFun fn f x with
  | .exact v fl => ((roundF f .rn true v).1, fl)
  | .near s m e =>
    let best := spRound f s m e
    if f = fmtS then
      let cand := Config.specialS fn (fBits fmtS a)
      let r := if withinBound fn x s m e best.1 cand then cand else best.1
      match decodeF fmtS r with
      | .fin _ k ke =>
        (r, if k = 0 then 0 else if k < 2 ^ 23 ∧ ke = -149 then flNX ||| flUF else flNX)
      | _ => (r, best.2)
    else best

/-- 32-bit rotate left (Table 1.13). -/
def rotl32 (x : BitVec 32) (n : Nat) : BitVec 32 := x.rotateLeft n

/-- One round of ArxGen (R64). -/
def arxRound (kb : BitVec 32) (st : BitVec 32 × BitVec 32 × BitVec 32) (rot : Nat) : BitVec 32 × BitVec 32 × BitVec 32 :=
  let a := st.1 + st.2.1 + st.2.2
  (a, rotl32 st.2.1 rot ^^^ a, st.2.2 + kb + 0x9E3779B9#32)

/-- ArxGen(S, C) (R64). -/
def arxGen (seed ctr : Word) : Word :=
  let kb := seed.extractLsb' 32 32
  let r := [13, 17, 26, 7].foldl (arxRound kb) (ctr.extractLsb' 0 32, ctr.extractLsb' 32 32, seed.extractLsb' 0 32)
  (r.2.1 ++ r.1)

end Sys2Proof.Machine
end

