-- ==== Sys2Proof/Machine/Vector.lean ====
section
/-!
DEFINITION. The vector instructions: lane claims, arithmetic, compares, movement, conversions, reductions, special
functions and the counter generator (R154 to R159, R164 to R173).
-/

namespace Sys2Proof.Machine

/-! Integer and floating-point arithmetic (R164 to R166). -/

/-- The integer operations of Table 6.4. -/
inductive VOp where
  | vadd
  | vsub
  | vmul
  | vmulh
  | vand
  | vor
  | vxor
  | vsll
  | vsrl
  | vsra
  | vmin
  | vmax
  | vminu
  | vmaxu
deriving DecidableEq, Repr

/-- The result of an integer operation on w-bit elements (R53, R164). -/
def VOp.eval (o : VOp) (w a b : Nat) : Nat :=
  let n := b % w
  match o with
  | .vadd => (a + b) % 2 ^ w
  | .vsub => (a + 2 ^ w - b % 2 ^ w) % 2 ^ w
  | .vmul => a * b % 2 ^ w
  | .vmulh => wrapBits w (signedOf w a * signedOf w b / 2 ^ w)
  | .vand => a &&& b
  | .vor => a ||| b
  | .vxor => a ^^^ b
  | .vsll => a * 2 ^ n % 2 ^ w
  | .vsrl => a / 2 ^ n
  | .vsra => wrapBits w (signedOf w a / 2 ^ n)
  | .vmin => if signedOf w a ≤ signedOf w b then a else b
  | .vmax => if signedOf w a ≤ signedOf w b then b else a
  | .vminu => min a b
  | .vmaxu => max a b

/-- Bits of an element of 2^esz bytes. -/
def ebits (esz : Nat) : Nat := 8 * 2 ^ esz

/-- Results for the active elements. -/
def onActive (act : List Bool) (rs : List α) : List (Option α) :=
  (act.zip rs).map (fun p => if p.1 then some p.2 else none)

/-- A scalar operand, read once; with zero grant nothing is popped (R155, R165). -/
def scalarOf (act : List Bool) (b : BitVec 7) : M Word := if act.isEmpty then pure 0 else srcA b

/-- A vector integer operation on two vector fields (R164). -/
def vecInt (o : VOp) (esz : Nat) (m : BitVec 3) (b a d : BitVec 5) (adv : Bool) : M Unit := do
  let act ← activeOf m esz
  let xs ← srcV a (ebits esz) act adv
  let ys ← srcV b (ebits esz) act adv
  dstV d (ebits esz) (onActive act ((xs.zip ys).map (fun p => o.eval (ebits esz) p.1 p.2))) adv

/-- A vector integer operation with a scalar second operand, read once (R165). -/
def vecIntX (o : VOp) (esz : Nat) (m : BitVec 3) (b : BitVec 7) (a d : BitVec 5) : M Unit := do
  let act ← activeOf m esz
  let xs ← srcV a (ebits esz) act false
  let y ← scalarOf act b
  dstV d (ebits esz) (onActive act (xs.map (fun x => o.eval (ebits esz) x (y.toNat % 2 ^ ebits esz)))) false

/-- Write floating-point results, with the flags of the active elements (R68, R69). -/
def vecFlt (act : List Bool) (d : BitVec 5) (w : Nat) (rs : List (Nat × FFlags)) (adv : Bool) : M Unit := do
  raiseVec ((onActive act rs).zipIdx.filterMap (fun p => p.1.map (fun (r : Nat × FFlags) => (p.2, r.2))))
  dstV d w (onActive act (rs.map (·.1))) adv

/-- A vector floating-point operation on two vector fields (R164). -/
def vecFp (o : FpOp) (z : BitVec 2) (m : BitVec 3) (b a d : BitVec 5) (adv : Bool) : M Unit := do
  let esz := fszLog z
  let act ← activeOf m esz
  let xs ← srcV a (ebits esz) act adv
  let ys ← srcV b (ebits esz) act adv
  let s ← get
  vecFlt act d (ebits esz) ((xs.zip ys).map (fun p => o.eval (Fmt.ofSz z.toNat) s.arch.rm p.1 p.2)) adv

/-- The same with a scalar second operand (R165). -/
def vecFpX (o : FpOp) (z : BitVec 2) (m : BitVec 3) (b : BitVec 7) (a d : BitVec 5) : M Unit := do
  let esz := fszLog z
  let act ← activeOf m esz
  let xs ← srcV a (ebits esz) act false
  let y ← scalarOf act b
  let s ← get
  vecFlt act d (ebits esz)
    (xs.map (fun x => o.eval (Fmt.ofSz z.toNat) s.arch.rm x (fBits (Fmt.ofSz z.toNat) y.toNat))) false

/-- a × b + d, rounded once (R164). -/
def vecFma (z : BitVec 2) (act : List Bool) (xs ys : List Nat) (d : BitVec 5) : M Unit := do
  let esz := fszLog z
  let ds ← srcV d (ebits esz) act false
  let s ← get
  vecFlt act d (ebits esz)
    (((xs.zip ys).zip ds).map (fun p => fFma (Fmt.ofSz z.toNat) s.arch.rm p.1.1 p.1.2 p.2)) false

/-- `vadd` (R164). -/
def execVadd (z : BitVec 2) (v : BitVec 1) (m : BitVec 3) (b a d : BitVec 5) (s : State) : Outcome :=
  issue (.vadd z v m b a d) (vecInt .vadd z.toNat m b a d (v == 1)) s
/-- `vsub` (R164). -/
def execVsub (z : BitVec 2) (v : BitVec 1) (m : BitVec 3) (b a d : BitVec 5) (s : State) : Outcome :=
  issue (.vsub z v m b a d) (vecInt .vsub z.toNat m b a d (v == 1)) s
/-- `vmul` (R164). -/
def execVmul (z : BitVec 2) (v : BitVec 1) (m : BitVec 3) (b a d : BitVec 5) (s : State) : Outcome :=
  issue (.vmul z v m b a d) (vecInt .vmul z.toNat m b a d (v == 1)) s
/-- `vmulh` (R164). -/
def execVmulh (z : BitVec 2) (v : BitVec 1) (m : BitVec 3) (b a d : BitVec 5) (s : State) : Outcome :=
  issue (.vmulh z v m b a d) (vecInt .vmulh z.toNat m b a d (v == 1)) s
/-- `vand` (R164). -/
def execVand (z : BitVec 2) (v : BitVec 1) (m : BitVec 3) (b a d : BitVec 5) (s : State) : Outcome :=
  issue (.vand z v m b a d) (vecInt .vand z.toNat m b a d (v == 1)) s
/-- `vor` (R164). -/
def execVor (z : BitVec 2) (v : BitVec 1) (m : BitVec 3) (b a d : BitVec 5) (s : State) : Outcome :=
  issue (.vor z v m b a d) (vecInt .vor z.toNat m b a d (v == 1)) s
/-- `vxor` (R164). -/
def execVxor (z : BitVec 2) (v : BitVec 1) (m : BitVec 3) (b a d : BitVec 5) (s : State) : Outcome :=
  issue (.vxor z v m b a d) (vecInt .vxor z.toNat m b a d (v == 1)) s
/-- `vsll` (R164). -/
def execVsll (z : BitVec 2) (v : BitVec 1) (m : BitVec 3) (b a d : BitVec 5) (s : State) : Outcome :=
  issue (.vsll z v m b a d) (vecInt .vsll z.toNat m b a d (v == 1)) s
/-- `vsrl` (R164). -/
def execVsrl (z : BitVec 2) (v : BitVec 1) (m : BitVec 3) (b a d : BitVec 5) (s : State) : Outcome :=
  issue (.vsrl z v m b a d) (vecInt .vsrl z.toNat m b a d (v == 1)) s
/-- `vsra` (R164). -/
def execVsra (z : BitVec 2) (v : BitVec 1) (m : BitVec 3) (b a d : BitVec 5) (s : State) : Outcome :=
  issue (.vsra z v m b a d) (vecInt .vsra z.toNat m b a d (v == 1)) s
/-- `vmin` (R164). -/
def execVmin (z : BitVec 2) (v : BitVec 1) (m : BitVec 3) (b a d : BitVec 5) (s : State) : Outcome :=
  issue (.vmin z v m b a d) (vecInt .vmin z.toNat m b a d (v == 1)) s
/-- `vmax` (R164). -/
def execVmax (z : BitVec 2) (v : BitVec 1) (m : BitVec 3) (b a d : BitVec 5) (s : State) : Outcome :=
  issue (.vmax z v m b a d) (vecInt .vmax z.toNat m b a d (v == 1)) s
/-- `vminu` (R164). -/
def execVminu (z : BitVec 2) (v : BitVec 1) (m : BitVec 3) (b a d : BitVec 5) (s : State) : Outcome :=
  issue (.vminu z v m b a d) (vecInt .vminu z.toNat m b a d (v == 1)) s
/-- `vmaxu` (R164). -/
def execVmaxu (z : BitVec 2) (v : BitVec 1) (m : BitVec 3) (b a d : BitVec 5) (s : State) : Outcome :=
  issue (.vmaxu z v m b a d) (vecInt .vmaxu z.toNat m b a d (v == 1)) s
/-- `vadd` with a scalar operand (R165). -/
def execVaddX (z : BitVec 2) (m : BitVec 3) (b : BitVec 7) (a d : BitVec 5) (s : State) : Outcome :=
  issue (.vaddX z m b a d) (vecIntX .vadd z.toNat m b a d) s
/-- `vsll` with a scalar operand (R165). -/
def execVsllX (z : BitVec 2) (m : BitVec 3) (b : BitVec 7) (a d : BitVec 5) (s : State) : Outcome :=
  issue (.vsllX z m b a d) (vecIntX .vsll z.toNat m b a d) s
/-- `vsrl` with a scalar operand (R165). -/
def execVsrlX (z : BitVec 2) (m : BitVec 3) (b : BitVec 7) (a d : BitVec 5) (s : State) : Outcome :=
  issue (.vsrlX z m b a d) (vecIntX .vsrl z.toNat m b a d) s
/-- `vsra` with a scalar operand (R165). -/
def execVsraX (z : BitVec 2) (m : BitVec 3) (b : BitVec 7) (a d : BitVec 5) (s : State) : Outcome :=
  issue (.vsraX z m b a d) (vecIntX .vsra z.toNat m b a d) s
/-- `vfadd` (R164). -/
def execVfadd (z : BitVec 2) (v : BitVec 1) (m : BitVec 3) (b a d : BitVec 5) (s : State) : Outcome :=
  issue (.vfadd z v m b a d) (vecFp .fadd z m b a d (v == 1)) s
/-- `vfsub` (R164). -/
def execVfsub (z : BitVec 2) (v : BitVec 1) (m : BitVec 3) (b a d : BitVec 5) (s : State) : Outcome :=
  issue (.vfsub z v m b a d) (vecFp .fsub z m b a d (v == 1)) s
/-- `vfmul` (R164). -/
def execVfmul (z : BitVec 2) (v : BitVec 1) (m : BitVec 3) (b a d : BitVec 5) (s : State) : Outcome :=
  issue (.vfmul z v m b a d) (vecFp .fmul z m b a d (v == 1)) s
/-- `vfmin` (R164). -/
def execVfmin (z : BitVec 2) (v : BitVec 1) (m : BitVec 3) (b a d : BitVec 5) (s : State) : Outcome :=
  issue (.vfmin z v m b a d) (vecFp .fmin z m b a d (v == 1)) s
/-- `vfmax` (R164). -/
def execVfmax (z : BitVec 2) (v : BitVec 1) (m : BitVec 3) (b a d : BitVec 5) (s : State) : Outcome :=
  issue (.vfmax z v m b a d) (vecFp .fmax z m b a d (v == 1)) s
/-- `vfdiv` (R164). -/
def execVfdiv (z : BitVec 2) (v : BitVec 1) (m : BitVec 3) (b a d : BitVec 5) (s : State) : Outcome :=
  issue (.vfdiv z v m b a d) (vecFp .fdiv z m b a d (v == 1)) s
/-- `vfadd` with a scalar operand (R165). -/
def execVfaddX (z : BitVec 2) (m : BitVec 3) (b : BitVec 7) (a d : BitVec 5) (s : State) : Outcome :=
  issue (.vfaddX z m b a d) (vecFpX .fadd z m b a d) s
/-- `vfmul` with a scalar operand (R165). -/
def execVfmulX (z : BitVec 2) (m : BitVec 3) (b : BitVec 7) (a d : BitVec 5) (s : State) : Outcome :=
  issue (.vfmulX z m b a d) (vecFpX .fmul z m b a d) s
/-- `vffma` (R164): VD is read too. -/
def execVffma (z : BitVec 2) (v : BitVec 1) (m : BitVec 3) (b a d : BitVec 5) (s : State) : Outcome :=
  issue (.vffma z v m b a d) (do
    let act ← activeOf m (fszLog z)
    let xs ← srcV a (ebits (fszLog z)) act (v == 1)
    let ys ← srcV b (ebits (fszLog z)) act (v == 1)
    vecFma z act xs ys d) s
/-- `vffma` with a scalar operand (R165). -/
def execVffmaX (z : BitVec 2) (m : BitVec 3) (b : BitVec 7) (a d : BitVec 5) (s : State) : Outcome :=
  issue (.vffmaX z m b a d) (do
    let act ← activeOf m (fszLog z)
    let xs ← srcV a (ebits (fszLog z)) act false
    let y ← scalarOf act b
    vecFma z act xs (xs.map (fun _ => fBits (Fmt.ofSz z.toNat) y.toNat)) d) s
/-- `vfsqrt` (R164). -/
def execVfsqrt (z : BitVec 2) (v : BitVec 1) (m : BitVec 3) (a d : BitVec 5) (s : State) : Outcome :=
  issue (.vfsqrt z v m a d) (do
    let act ← activeOf m (fszLog z)
    let xs ← srcV a (ebits (fszLog z)) act (v == 1)
    let s ← get
    vecFlt act d (ebits (fszLog z)) (xs.map (fun x => fSqrt (Fmt.ofSz z.toNat) s.arch.rm x)) (v == 1)) s

/-- A predicate from bits 0 up; the bits above are clear (R23). -/
def kOfBits (bs : List Bool) : BitVec 2048 :=
  BitVec.ofNat 2048 ((bs.zipIdx).foldl (fun n p => if p.1 then n + 2 ^ p.2 else n) 0)

/-- `vcmp` (R166). -/
def execVcmp (z : BitVec 2) (c m : BitVec 3) (b a : BitVec 5) (k : BitVec 3) (s : State) : Outcome :=
  issue (.vcmp z c m b a k) (do
    let act ← activeOf m z.toNat
    let w := ebits z.toNat
    let xs ← srcV a w act false
    let ys ← srcV b w act false
    modArch (fun r => r.setK k.toNat (kOfBits ((act.zip (xs.zip ys)).map (fun p =>
      p.1 && intCond c.toNat w p.2.1 p.2.2))))) s
/-- `vfcmp` (R166). -/
def execVfcmp (z : BitVec 2) (c m : BitVec 3) (b a : BitVec 5) (k : BitVec 3) (s : State) : Outcome :=
  issue (.vfcmp z c m b a k) (do
    let act ← activeOf m (fszLog z)
    let w := ebits (fszLog z)
    let xs ← srcV a w act false
    let ys ← srcV b w act false
    let rs := (xs.zip ys).map (fun p => fCond (Fmt.ofSz z.toNat) c.toNat p.1 p.2)
    raiseVec ((onActive act rs).zipIdx.filterMap (fun p => p.1.map (fun (r : Bool × FFlags) => (p.2, r.2))))
    modArch (fun r => r.setK k.toNat (kOfBits ((act.zip rs).map (fun p => p.1 && p.2.1))))) s

/-! Element movement (R167). -/

/-- `vsel` (R167): every element below VL is active. -/
def execVsel (z : BitVec 2) (m : BitVec 3) (b a d : BitVec 5) (s : State) : Outcome :=
  issue (.vsel z m b a d) (do
    let p ← activeOf m z.toNat
    let all := p.map (fun _ => true)
    let w := ebits z.toNat
    let xs ← srcV a w all false
    let ys ← srcV b w all false
    dstV d w (onActive all ((p.zip (xs.zip ys)).map (fun q => if q.1 then q.2.1 else q.2.2))) false) s
/-- `vperm` (R167). -/
def execVperm (z : BitVec 2) (m : BitVec 3) (b a d : BitVec 5) (s : State) : Outcome :=
  issue (.vperm z m b a d) (do
    let act ← activeOf m z.toNat
    let w := ebits z.toNat
    let xs ← srcV a w act false
    let is ← srcV b w act false
    dstV d w (onActive act (is.map (fun i => xs.getD i 0))) false) s
/-- `vcomp` (R155, R167). -/
def execVcomp (z : BitVec 2) (m : BitVec 3) (a d : BitVec 5) (s : State) : Outcome :=
  issue (.vcomp z m a d) (do
    let act ← activeOf m z.toNat
    let w := ebits z.toNat
    let xs ← srcV a w act false
    let vs := (onActive act xs).filterMap id
    let out := if d.toNat < 28 then vs ++ List.replicate (act.length - vs.length) 0 else vs
    dstV d w (out.map some) false) s
/-- `vbcast` (R167). -/
def execVbcast (z : BitVec 2) (m : BitVec 3) (b : BitVec 7) (d : BitVec 5) (s : State) : Outcome :=
  issue (.vbcast z m b d) (do
    let act ← activeOf m z.toNat
    let y ← scalarOf act b
    dstV d (ebits z.toNat) (onActive act (act.map (fun _ => y.toNat % 2 ^ ebits z.toNat))) false) s
/-- `vslide` (R167). -/
def execVslide (z : BitVec 2) (m : BitVec 3) (b : BitVec 7) (a d : BitVec 5) (s : State) : Outcome :=
  issue (.vslide z m b a d) (do
    let act ← activeOf m z.toNat
    let w := ebits z.toNat
    let xs ← srcV a w act false
    let n ← scalarOf act b
    dstV d w (onActive act ((List.range act.length).map (fun (j : Nat) =>
      let i : Int := Int.ofNat j - n.toInt
      if 0 ≤ i then xs.getD i.toNat 0 else 0))) false) s
/-- `vext` (R167). -/
def execVext (z : BitVec 2) (b : BitVec 7) (a : BitVec 5) (d : BitVec 7) (s : State) : Outcome :=
  issue (.vext z b a d) (do
    let w := ebits z.toNat
    let act ← activeOf 0 z.toNat
    let xs ← srcV a w act false
    let i ← srcA b
    dstA d (if i.toNat < act.length then signExt (xs.getD i.toNat 0) w else 0)) s

/-! Conversions (R168, R169). -/

/-- The elements a conversion covers: VL at the wider of its two element sizes (R168). -/
def cvtActive (m : BitVec 3) (dst src : Nat) : M (List Bool) := activeOf m (max (cfmtLog dst) (cfmtLog src))

/-- Convert the active elements (R168). -/
def vecCvt (r m : BitVec 3) (dst src : Nat) (a d : BitVec 5) (adv : Bool) : M Unit := do
  let act ← cvtActive m dst src
  let df := CFmt.ofVec dst
  let sf := CFmt.ofVec src
  let xs ← srcV a sf.width act adv
  let s ← get
  let mode := RMode.ofCode r.toNat (bits s.arch.fctl 2 0) 0
  vecFlt act d df.width (xs.map (fun x => convert df sf mode s.arch.satf x)) adv

/-- `vcvt` to codes 0 to 7 (R168). -/
def execVcvt (r t m : BitVec 3) (v : BitVec 1) (c : BitVec 4) (a d : BitVec 5) (s : State) : Outcome :=
  issue (.vcvt r t m v c a d) (vecCvt r m t.toNat c.toNat a d (v == 1)) s
/-- `vcvt` to the narrow formats, codes 8 to 12 (R168). -/
def execVcvtNarrow (r t m : BitVec 3) (v : BitVec 1) (c : BitVec 4) (a d : BitVec 5) (s : State) : Outcome :=
  issue (.vcvtNarrow r t m v c a d) (vecCvt r m (8 + t.toNat) c.toNat a d (v == 1)) s
/-- `vcvt` with stochastic rounding (R62, R63, R169). -/
def execVcvtSr (t : BitVec 4) (c : BitVec 2) (m : BitVec 3) (b a d : BitVec 5) (s : State) : Outcome :=
  issue (.vcvtSr t c m b a d) (do
    let act ← cvtActive m t.toNat (4 + c.toNat)
    let df := CFmt.ofVec t.toNat
    let sf := CFmt.ofVec (4 + c.toNat)
    let xs ← srcV a sf.width act false
    let us ← srcV b 16 (act.map (fun _ => true)) false
    let s ← get
    vecFlt act d df.width ((xs.zip us).map (fun p => convert df sf (.sr p.2) s.arch.satf p.1)) false) s

/-! Reduction and scan (R71, R72, R170). -/

/-- A value at a node of the tree: the lowest element index under it, and the flags raised at nodes under it, each with
the lowest index under its node (Table 16.3). -/
abbrev RNode := Nat × Nat × List (Nat × FFlags)

/-- Op at a node of a reduction by its operation code (R170). -/
def redOp (o : Nat) (z : BitVec 2) (rm : RMode) (a b : Nat) : Nat × FFlags :=
  let w := 8 * 2 ^ z.toNat
  match o with
  | 0 => (VOp.vadd.eval w a b, 0)
  | 1 => (VOp.vmin.eval w a b, 0)
  | 2 => (VOp.vmax.eval w a b, 0)
  | 3 => (VOp.vminu.eval w a b, 0)
  | 4 => (VOp.vmaxu.eval w a b, 0)
  | 5 => fAdd (Fmt.ofSz z.toNat) rm a b
  | 6 => fMinMax (Fmt.ofSz z.toNat) false a b
  | _ => fMinMax (Fmt.ofSz z.toNat) true a b

/-- The empty value of a reduction (R71). -/
def redEmpty (o : Nat) (z : BitVec 2) : Nat :=
  let w := 8 * 2 ^ z.toNat
  match o with
  | 0 => 0
  | 1 => 2 ^ (w - 1) - 1
  | 2 => 2 ^ (w - 1)
  | 3 => 2 ^ w - 1
  | 4 => 0
  | 5 => 0
  | 6 => infEnc (Fmt.ofSz z.toNat) false
  | _ => infEnc (Fmt.ofSz z.toNat) true

/-- The tree over elements that may be absent: its value and the flags of its nodes. -/
def redTree (o : Nat) (z : BitVec 2) (rm : RMode) (xs : List (Option Nat)) : Nat × List (Nat × FFlags) :=
  let leaves : List (Option RNode) := xs.zipIdx.map (fun p => p.1.map (fun v => (v, p.2, [])))
  let join : RNode → RNode → RNode := fun a b =>
    let r := redOp o z rm a.1 b.1
    (r.1, min a.2.1 b.2.1, a.2.2 ++ b.2.2 ++ [(min a.2.1 b.2.1, r.2)])
  match treeSum join leaves with
  | some n => (n.1, n.2.2)
  | none => (redEmpty o z, [])

/-- `vred` (R170). -/
def execVred (z : BitVec 2) (o m : BitVec 3) (a d : BitVec 5) (s : State) : Outcome :=
  issue (.vred z o m a d) (do
    let esz := redLog z o
    let act ← activeOf m esz
    let xs ← srcV a (ebits esz) act false
    let s ← get
    let r := redTree o.toNat z s.arch.rm (onActive act xs)
    raiseVec r.2
    if act = [] then pure () else dstV d (ebits esz) [some r.1] false) s
/-- `vscan` (R72, R170). -/
def execVscan (z : BitVec 2) (o m : BitVec 3) (a d : BitVec 5) (s : State) : Outcome :=
  issue (.vscan z o m a d) (do
    let esz := redLog z o
    let act ← activeOf m esz
    let xs ← srcV a (ebits esz) act false
    let s ← get
    let vs := onActive act xs
    let rs := vs.zipIdx.map (fun p =>
      if p.1.isSome then some (redTree o.toNat z s.arch.rm (vs.take (p.2 + 1))) else none)
    raiseVec (rs.filterMap id |>.flatMap (·.2))
    dstV d (ebits esz) (rs.map (fun r => r.map (·.1))) false) s

/-! Special functions and the counter generator (R171 to R173). -/

/-- A special function over the active elements. -/
def vecSpecial (fn : Nat) (z : BitVec 2) (m : BitVec 3) (a d : BitVec 5) : M Unit := do
  let esz := fszLog z
  let act ← activeOf m esz
  let xs ← srcV a (ebits esz) act false
  vecFlt act d (ebits esz) (xs.map (fun x => special fn (Fmt.ofSz z.toNat) x)) false

/-- `vexp2` (R171, R172). -/
def execVexp2 (z : BitVec 2) (m : BitVec 3) (a d : BitVec 5) (s : State) : Outcome :=
  issue (.vexp2 z m a d) (vecSpecial 0 z m a d) s
/-- `vlog2` (R171, R172). -/
def execVlog2 (z : BitVec 2) (m : BitVec 3) (a d : BitVec 5) (s : State) : Outcome :=
  issue (.vlog2 z m a d) (vecSpecial 1 z m a d) s
/-- `vrcp` (R171, R172). -/
def execVrcp (z : BitVec 2) (m : BitVec 3) (a d : BitVec 5) (s : State) : Outcome :=
  issue (.vrcp z m a d) (vecSpecial 2 z m a d) s
/-- `vrsqrt` (R171, R172). -/
def execVrsqrt (z : BitVec 2) (m : BitVec 3) (a d : BitVec 5) (s : State) : Outcome :=
  issue (.vrsqrt z m a d) (vecSpecial 3 z m a d) s
/-- `vsin` (R171, R172). -/
def execVsin (z : BitVec 2) (m : BitVec 3) (a d : BitVec 5) (s : State) : Outcome :=
  issue (.vsin z m a d) (vecSpecial 4 z m a d) s
/-- `vcos` (R171, R172). -/
def execVcos (z : BitVec 2) (m : BitVec 3) (a d : BitVec 5) (s : State) : Outcome :=
  issue (.vcos z m a d) (vecSpecial 5 z m a d) s
/-- `vrng` (R173). -/
def execVrng (m : BitVec 3) (b : BitVec 7) (a d : BitVec 5) (s : State) : Outcome :=
  issue (.vrng m b a d) (do
    let act ← activeOf m 3
    let xs ← srcV a 64 act false
    let seed ← scalarOf act b
    dstV d 64 (onActive act (xs.map (fun x => (arxGen seed (BitVec.ofNat 64 x)).toNat))) false) s

/-! Lane claims (R156 to R159). -/

/-- Lanes asked for: at most 512, a multiple of 32 (R156). -/
def lanesAsked (x : Word) : Nat := min x.toNat 512 / 32 * 32

/-- The lane share of a slot's owner in its cluster: S of its partition; the hypervisor's set has what no partition has
(R156, R362). -/
def State.laneShare (s : State) (gs : Nat) : Nat :=
  match s.partRec gs with
  | some p => p.lanes
  | none => 512 - ((s.parts.filter (fun p => p.2.ownsCluster (clusterOf gs))).map (fun p => p.2.lanes)).foldl (· + ·) 0

/-- The started slots of a slot's cluster under the same owner. -/
def State.laneMates (s : State) (gs : Nat) : List (Nat × Thread) :=
  s.threads.filter (fun p => p.2.live && clusterOf p.1 == clusterOf gs && s.partOf p.1 == s.partOf gs)

/-- Lanes a thread keeps from the share: its grant, and those given up in uncommitted chunks (R159). -/
def Thread.lanesKept (t : Thread) : Nat := t.a.grant + (t.chunks.map (·.lanes)).foldl (· + ·) 0

/-- Free lanes of the share (R156). -/
def State.lanesFree (s : State) (gs : Nat) : Nat :=
  s.laneShare gs - ((s.laneMates gs).map (fun p => p.2.lanesKept)).foldl (· + ·) 0

/-- F, the fair share (R157). -/
def State.fairShare (s : State) (gs : Nat) : Nat :=
  let n := ((s.laneMates gs).filter (fun p => p.2.a.grant != 0 || p.2.a.unmet != 0)).length
  32 * (s.laneShare gs / (32 * max n 1))

/-- Set the grant: lanes at and above it are lost, and lanes added read as zero, so that only lanes in both keep their words (R156, R157);
lanes given up in a chunk return at its commit (R159). -/
def setGrant (g unmet : Nat) : M Unit := do
  let s ← get
  let c := s.arch.grant
  modArch (fun a => { a with grant := g, unmet := unmet, vregs := a.vregs.filter (fun p => decide (p.1 / 32 < min g c)) })
  modChunk (fun k => { k with lanes := k.lanes + (c - g) })

/-- Hold until n lanes can be granted: a wait of a deterministic launch (R156, R299). -/
def M.untilLanes (s : State) (n : Nat) : M Unit := if n ≤ s.lanesFree s.fs then pure () else M.hold (.claim n)

/-- The grant of `vclaim` for q lanes; a deterministic launch waits for all of them (R156, R159). -/
def claimLanes (q : Nat) : M Nat := do
  let s ← get
  if s.th.det then
    M.require (decide (q ≤ s.laneShare s.fs)) .claim
    M.untilLanes s q
    setGrant q 0
    pure q
  else
    let g := min q (s.lanesFree s.fs / 32 * 32)
    setGrant g (q - g)
    pure g

/-- `vclaim` (R156). -/
def execVclaim (a d : BitVec 7) (s : State) : Outcome :=
  issue (.vclaim a d) (do
    let x ← srcA a
    let s ← get
    M.require (decide (s.arch.grant = 0)) .claim
    let g ← claimLanes (lanesAsked x)
    dstA d (BitVec.ofNat 64 g)) s
/-- `vrenew` (R157, R159). In a deterministic launch the lanes that the thread holds count among those that are free for it (log entry 80). -/
def execVrenew (a d : BitVec 7) (s : State) : Outcome :=
  issue (.vrenew a d) (do
    let x ← srcA a
    let q := lanesAsked x
    let s ← get
    let c := s.arch.grant
    let f := s.fairShare s.fs
    let waiting := (s.laneMates s.fs).any (fun p => p.1 != s.fs && p.2.a.unmet != 0)
    let g ←
      if c = 0 then claimLanes q
      else if s.th.det then do
        M.require (decide (q ≤ s.laneShare s.fs)) .claim
        M.untilLanes s (q - c)
        setGrant q 0
        pure q
      else do
        let g := if waiting ∧ f < c then min q f else min q ((c + s.lanesFree s.fs) / 32 * 32)
        setGrant g (q - g)
        pure g
    dstA d (BitVec.ofNat 64 g)) s
/-- `vrel` (R158). -/
def execVrel (s : State) : Outcome := issue .vrel (setGrant 0 0) s
/-- `vlen` (R158). -/
def execVlen (z : BitVec 2) (d : BitVec 7) (s : State) : Outcome :=
  issue (.vlen z d) (do
    let s ← get
    dstA d (BitVec.ofNat 64 (vlOf s.arch.grant z.toNat))) s

end Sys2Proof.Machine
end

