-- ==== Sys2Proof/Machine/Units.lean ====
section
/-!
DEFINITION. Fetching a unit, its shape, the two members of a pair together, and what is taken before a unit issues:
interrupts and refused messages (R33, R81, R82, R92, R106, R153, R220, R280, R308, R312, R319).
-/

namespace Sys2Proof.Machine

/-! Fetch (R81, R153, R280, R281). -/

/-- A line of committed memory. -/
def State.memLine (s : State) (line : Nat) : List Byte := s.bytesAt (128 * line) 128

/-- A core's L1 instruction cache holds 256 lines: a full one gives one up for another line (R266; log entry 8). -/
def State.icRoom (s : State) (gc line : Nat) : State :=
  if (mget s.icache (icKey gc line)).isSome then s
  else
    let own := s.icache.filter (fun p => p.1 / 2 ^ 48 == gc)
    if own.length < 256 then s
    else
      match own[Config.victim s.fresh % own.length]? with
      | some v => { s with icache := mdel s.icache v.1 }
      | none => s

/-- The line a fetch returns, and the state after it: what memory holds now, what the core's instruction cache holds, or what
the thread fetched before an `iflush`; where they differ the part may return any of them (R153, R281; log entry 9). -/
def State.fetchLine (s : State) (line : Nat) : List Byte × State :=
  let key := icKey (coreOf s.fs) line
  let s := s.icRoom (coreOf s.fs) line
  let now := s.memLine line
  let held := mget s.icache key
  let old := mget s.th.fetched line
  match held, old with
  | none, none => (now, { s with icache := mput s.icache key now })
  | some h, none =>
    if h = now then (now, s)
    else
      let b := if Config.fetchChoice s.fresh = 2 then h else now
      (b, { s with fresh := s.fresh + 1, icache := mput s.icache key b })
  | h, some o =>
    let b := match Config.fetchChoice s.fresh with
      | 1 => o
      | 2 => h.getD now
      | _ => now
    (b, { s with fresh := s.fresh + 1, icache := mput s.icache key (if h.isSome then h.getD now else now) })

/-- The two words of the aligned unit that holds an address (R81), or the fault in fetching them. -/
def fetchUnit (pc : Word) : M (BitVec 32 × BitVec 32) := do
  let va := pc &&& ~~~7
  if pc.toNat % 4 ≠ 0 then
    M.lift (.error (xFault .misaligned .fetch 0 pc))
  else
    let s ← get
    let pa ← xlatAt s.th.level va .fetch
    reachCheck pa .fetch .load va
    let s ← get
    M.until_ (!s.remotePending pa 8)
    if s.poisoned (pa / 8) then M.lift (.error (xFault .dataPoison .fetch 0 va))
    else
      modify (fun s => (s.countFetch s.th.vf (lineOf pa)).cohAsk (dieOf s.fs) (lineOf pa) (s.partOf s.fs))
      let s ← get
      let r := s.fetchLine (lineOf pa)
      set r.2
      let bs := (r.1.drop (pa % 128)).take 8
      pure (BitVec.ofNat 32 (leNat (bs.take 4)), BitVec.ofNat 32 (leNat (bs.drop 4)))

/-! Shape (R81, R82). -/

/-- What issues at an address of a unit. -/
inductive Shape where
  | bad
  | lone (w : BitVec 32)
  | pair (c a : BitVec 32)
deriving DecidableEq, Repr

/-- The shape of a unit, entered at its first or its second word (Table 3.2). -/
def shapeOf (w0 w1 : BitVec 32) (second : Bool) : Shape :=
  let l0 := w0.getLsbD 0
  let l1 := w1.getLsbD 0
  if l0 && l1 then .lone (if second then w1 else w0)
  else if !l0 && !l1 && !w0.getLsbD 1 && w1.getLsbD 1 && w0.extractLsb' 2 6 != 0x30#6 && !second then .pair w0 w1
  else .bad

/-! Pairs (R33, R34). -/

/-- What both members of a pair do, on the state before the unit (R33): the C-class word is tried first, so that its cause comes first; the
A-class word acts; then the C-class word acts, so that where both write one place the C-class word's write stands (log entry 81). A C-class
word that sends a request is sent only where the A-class word neither traps nor holds; what the words read then is kept, and the pair
completes on it when the answer has come, so that nothing that has come about since, the answer least of all, can make the A-class word
trap or be seen by it (R33, R35; log entry 82). -/
def pairBody (run : Instr → State → Outcome) (c a : Instr) : M Unit := fun z =>
  let sent := match z.th.hold with | some h => h.answering | none => false
  let pre : Pre := (if sent then mget z.pairs z.fs else none).getD z.preOf
  let asC (s : State) : State :=
    { s with unit := { s.unit with role := .pairC, pre := some pre, word := z.unit.word, other := z.unit.other, stop := none } }
  let asA (s : State) : State :=
    { s with unit := { s.unit with role := .pairA, pre := some pre, word := z.unit.other, other := z.unit.word, stop := none } }
  let back (s : State) (p : Map Pre) : State :=
    { s with unit := { s.unit with pre := none, word := z.unit.word, other := z.unit.other }, pairs := p }
  let stopOf (r : Outcome) (second : Bool) : Except Stop State :=
    match r with
    | .next s =>
      match s.unit.stop with
      | some (.trap t) => .error (.trap (if second then { t with second := true } else t))
      | some e => .error e
      | none => .ok s
    | _ => .error (.hold .retry)
  do
    let z1 ← stopOf (run c (asC z)) false
    let z2 ← stopOf (run a (asA z)) true
    if z1.unit.park.isSome then pure ((), back z1 (mput z.pairs z.fs pre))
    else
      let z3 ← stopOf (run c (asC z2)) false
      pure ((), back z3 (mdel z.pairs z.fs))

/-! Before a unit issues (R220, R312, R314). -/

/-- Something is due before the next unit of the slot, and whether it may be taken now: chunks end and are granted first; in
exact-count mode it waits for the next chunk end (R220, R312). -/
inductive Due where
  | none
  | wait (s : State)
  | take (s : State)
deriving DecidableEq, Repr

/-- Where the slot stands towards what is due. -/
def State.dueNow (s : State) (gs : Nat) : Due :=
  let t := s.thread gs
  if !(t.messageDue || t.intrDue) then .none
  else if t.dir then (if t.chunks.isEmpty then .take s else .wait s)
  else if t.fallback.isSome then
    if s.exactCount gs then .none
    else if t.chunks.isEmpty then .take (s.setThread gs t.endFallback)
    else .wait s
  else if t.cur.isSome then
    if s.exactCount gs then .none
    else
      let s1 := s.setThread gs t.endChunk
      if (s1.thread gs).chunks.isEmpty then .take s1 else .wait s1
  else if t.chunks.isEmpty then .take s
  else .wait s

/-- The unit context of a cause that no word raises. -/
def UnitCtx.at_ (pc : Word) : UnitCtx := { UnitCtx.idle with addr := pc, next := pc }

/-- What is due: the refused message that came first, as none, and the enabled interrupts. -/
def Thread.duesOf (t : Thread) : List (Option Intr) :=
  (if t.messageDue then [none] else []) ++ (if t.intrDue then t.enabled.map some else [])

/-- Take MESSAGE or an interrupt that is due, with EPC at the next unit (R220, R307, R312); among several the order is free (log entry
19). A slot that runs one unit under STEP still has it to run (R398). -/
def State.takeDue (s : State) (gs : Nat) : State :=
  let t := s.thread gs
  let ds := t.duesOf
  let s0 := { s with fs := gs, unit := UnitCtx.at_ t.a.pc, fresh := if ds.length ≤ 1 then s.fresh else s.fresh + 1 }
  let s1 := match (if ds.length ≤ 1 then ds.head? else ds[Config.dueFirst s.fresh % ds.length]?), t.refused with
    | some none, (w, v) :: rest =>
      (s0.setTh { t with refused := rest, hold := none }).takeTrap
        { cause := .message, info1 := w, info2 := v, whole := true, fetch := true }
    | some (some i), _ =>
      (s0.setTh ({ t with pend := t.pend.erase i, hold := none }.takeInterrupt i)).traceRec gs 2 t.a.pc
        (putBit (BitVec.ofNat 64 i.code) 63 true)
    | _, _ => s0
  s1.setTh { s1.th with stepping := t.stepping }

/-! Issue. -/

/-- A unit that no word of can run: its cause is raised as a unit's is. -/
def State.raiseAt (s : State) (t : Trap) : State := s.runUnit [] (M.trap t)

/-- The slot waits in nothing that the next unit's issue could end: a request of it waits for its answer. -/
def Thread.answering (t : Thread) : Bool := match t.hold with | some h => h.answering | none => false

/-- A request of the slot's unit is on its way: the slot is not ready (R293). -/
def Thread.awaits (t : Thread) : Bool := match t.hold with | some h => h.awaits | none => false

/-- A unit has read some of its elements, each at its own place, and issues again for the next (R163, R298). -/
def Thread.midUnit (t : Thread) : Bool :=
  (match t.hold with | some (.gather _) => true | _ => false) ||
    (t.det && t.a.ports.any (fun p => match p.2 with | .stream b => !b.ahead.isEmpty | .channel _ => false))

/-- A slot that is to stop at a handover point issues nothing outside the chunk it is in, but for a unit whose answer is still to
come, or that has begun (R321). -/
def Thread.stopsHere (t : Thread) : Bool := t.frozen || (t.stopFor.isSome && t.cur.isNone && !t.answering && !t.midUnit)

/-- A thread that is stopped: by the debug port too, where a HALT came meanwhile (R399). -/
def Thread.halts (t : Thread) : Thread := { t with halted := t.halted || t.haltNext, haltNext := false, stopFor := none }

/-- A slot is to stop for a handover or a migration; a HALT that has not taken effect holds afterwards (R321, R377, R399). -/
def Thread.stopsFor (t : Thread) (w : StopFor) : Thread :=
  { t with stopFor := some w, haltNext := t.haltNext || t.stopFor == some .halt }

/-- The thread waits for the lanes it had (R322). -/
def Thread.awaitsLanes (t : Thread) : Bool := match t.hold with | some (.lanes _) => true | _ => false

/-- The slot holds a thread that may issue: its cluster runs, it is not being stopped, waits for no answer, is not halted but for a step, is at no
handover point, has its lanes, and no message of it waits for room after a full reply (R218, R230, R321, R322, R326, R398). -/
def State.mayIssue (s : State) (gs : Nat) : Bool :=
  let t := s.thread gs
  t.live && !t.stopping && !t.awaits && (!t.halted || t.stepping) && !t.stopsHere && !t.awaitsLanes && s.runs gs &&
    !s.msgs.any (fun m => m.uid == t.uid && (m.state == .held || m.state == .resent))

/-- The decoded unit at the program counter of the slot in focus: its context, and the instructions. -/
inductive Fetched where
  /-- Nothing issues: the fetch fault, the shape or the decoder refused the unit. -/
  | stop (s : State) (e : Stop)
  | lone (s : State) (i : Instr)
  | pair (s : State) (c a : Instr)
deriving DecidableEq, Repr

/-- Fetch and decode the unit at the program counter of the slot in focus (R81, R82, R92). -/
def State.fetchNext (s : State) : Fetched :=
  let pc := s.th.a.pc
  let second := bit pc 2
  let base := pc &&& ~~~7
  let u := UnitCtx.at_ pc
  let s0 := { s with unit := u }
  match fetchUnit pc s0 with
  | .error e => .stop s0 e
  | .ok ((w0, w1), s1) =>
    match shapeOf w0 w1 second with
    | .bad =>
      .stop { s1 with unit := { u with addr := base, word := w0, other := w1 } } (.trap { cause := .illegalPair, whole := true })
    | .lone w =>
      let s2 := { s1 with unit := { u with word := w, next := addr57 (pc + 4) } }
      match decode w with
      | .ok i => .lone s2 i
      | .error _ => .stop s2 (.trap { cause := .illegalInstruction })
    | .pair c a =>
      let s2 := { s1 with unit := { u with word := c, other := a, next := addr57 (pc + 8) } }
      match decode c, decode a with
      | .ok i, .ok j => .pair s2 i j
      | .error _, _ => .stop s2 (.trap { cause := .illegalInstruction })
      | .ok _, .error _ => .stop s2 (.trap { cause := .illegalInstruction, second := true })

end Sys2Proof.Machine
end

