-- ==== Sys2Proof/Machine/Contain.lean ====
section
/-!
DEFINITION. Containment: the kill of a context and of the launches it has threads in (R144, R319, R320, R402).
-/

namespace Sys2Proof.Machine

/-- Stop a thread whose context is killed: its edge writes and edge atomics are no longer awaited (R144). -/
def State.killThread (s : State) (gs : Nat) : State :=
  let s1 := s.beginStop gs
  s1.setThread gs { s1.thread gs with edges := 0, hold := none }

/-- The threads of a context; a thread of no function stands alone. -/
def State.contextThreads (s : State) (vf : Option Nat) (asid gs : Nat) : List Nat :=
  match vf with
  | some v => (s.threads.filter (fun p => p.2.live && p.2.vf == some v && p.2.asid == asid)).map (·.1)
  | none => if (s.thread gs).live then [gs] else []

/-- A launch that a kill ends starts nothing more (R296, R320). -/
def Launch.kill (l : Launch) : Launch :=
  { l with ending := 3, children := [], tasks := [], first := l.initial }

/-- Stop a thread that a handover has taken off its slot (R320, R322): what it holds is released, and its place remembers that the record
in the save area is that of a thread that never runs again. -/
def State.endAway (s : State) (w : Away) : State :=
  let t := w.t
  let s1 := match t.resv with
    | some r => { s with homes := mput s.homes r.pa { mgetD s.homes r.pa ⟨[], false⟩ with broken := true } }
    | none => s
  let s2 := { s1 with
    nodes := s1.nodes.filter (fun n => n.uid != t.uid || n.contrib.isSome || n.out.isSome)
    chans := s1.chans.filter (fun p => p.2.gs != noSlot + t.uid)
    threads := s1.threads.map (fun (p : Nat × Thread) => (p.1, p.2.childEnds t false))
    away := s1.away.map (fun (a : Away) => if a.t.uid = t.uid then { a with t := { Thread.idle with uid := t.uid } } else { a with t := a.t.childEnds t false }) }
  match t.lid.bind (fun l => (mget s2.launches l).map (fun x => (l, x))) with
  | some (lid, l) => s2.freeArea lid (groupOf l.record t.gid)
  | none => s2

/-- The thread off its slot is one of a context, or of one of some launches that a kill ends. -/
def Away.killed (a : Away) (vf : Option Nat) (asid : Nat) (lids : List Nat) : Bool :=
  a.t.live && ((some a.vf == vf && a.t.asid == asid) || (match a.t.lid with | some l => l ∈ lids | none => false))

/-- Kill a context (R320): the reason of Table 23.9; `gs` is the slot concerned, if one is. The state after it, and the number
of threads stopped. -/
def State.contain (s : State) (vf : Option Nat) (asid reason : Nat) (gs : Option Nat) : State × Nat :=
  let ctx := s.contextThreads vf asid (gs.getD slotCount)
  let lids := (ctx.filterMap (fun g => (s.thread g).lid) ++
    (s.away.filter (fun a => a.killed vf asid [])).filterMap (fun a => a.t.lid)).dedup
  let off := s.away.filter (fun a => a.killed vf asid lids)
  let more := (s.threads.filter (fun p => p.2.live && !(p.1 ∈ ctx) && (match p.2.lid with
    | some l => l ∈ lids
    | none => false))).map (·.1)
  let unack := (s.edges.filter (fun e => e.gs ∈ ctx && e.uid == (s.thread e.gs).uid)).length
  let s1 := ctx.foldl State.killThread s
  let s2 := off.foldl State.endAway (more.foldl State.beginStop s1)
  let s3 := { s2 with launches := s2.launches.map (fun (p : Nat × Launch) => if p.1 ∈ lids then (p.1, p.2.kill) else p) }
  let body : List Word :=
    [BitVec.ofNat 64 (reason * 2 ^ 16 + asid), BitVec.ofNat 64 unack, BitVec.ofNat 64 (ctx.length + more.length + off.length)]
  let part := ((gs.bind s.partOf) <|> ((vf.bind (mget s.vfs)).map VFunc.part)).getD 31
  let s4 := s3.postHyper 9 part (vf.getD 0) (gs.getD 0) body
  let s5 := match vf with
    | some v => s4.postKernel v 9 (match gs, mget s4.vfs v with | some g, some f => f.placeOf g | _, _ => 0) body
    | none => s4
  (s5.settleStops, ctx.length + more.length + off.length)

/-- The fault is a failed trap entry: the fetch at TVEC faults, or TVEC names the second word of a pair (R319, Table 1.7). -/
def State.entryFailed (s : State) (t : Trap) : Bool :=
  s.th.entry && (t.fetch || (t.cause == .illegalPair && bit s.th.a.pc 2 &&
    (match shapeOf s.unit.word s.unit.other false with | .pair .. => true | _ => false)))

/-- A unit that nothing of can run: its cause is raised as a unit's is, or the trap entry has failed (R319). -/
def State.refuseUnit (s : State) (e : Stop) : State :=
  match e with
  | .trap t => if s.entryFailed t then ((s.postTable t (some s.fs)).contain s.th.vf s.th.asid 3 (some s.fs)).1 else s.raiseAt t
  | .hold h => s.holdUnit h
  | _ => s.holdUnit .retry

end Sys2Proof.Machine
end

