-- ==== Sys2Proof/Machine/Record.lean ====
section
/-!
DEFINITION. The THREAD record of Table 22.6, in which a handover, the debug port and a migration carry a thread, and the points at
which a slot can be stopped for them (R321, R322, R380, R381, R398).
-/

namespace Sys2Proof.Machine

/-! Addresses of a function as it names them itself (R380). -/

/-- The intermediate address of a physical one, in the function's windows (Table 18.3). -/
def VFunc.ipaOf (v : VFunc) (pa : Nat) : Nat :=
  if v.sbase ≤ pa ∧ pa < v.sbase + v.sbound then pa - v.sbase
  else if isSpad pa then
    match v.logical (spadCore pa / 8) with
    | some l => spadBase + 2 ^ 21 * l + pa % 2 ^ 21
    | none => pa
  else if v.hbase ≤ pa ∧ pa < v.hbase + v.hbound then hostBase + (pa - v.hbase)
  else pa

/-- A function's place word of a slot and its windows; a thread of no function stands under its own numbers. -/
def State.placeIn (s : State) (fn : Option Nat) (gs : Nat) : Nat :=
  match fn.bind (mget s.vfs) with
  | some v => v.placeOf gs
  | none => gs % 2 ^ 18
def State.ipaIn (s : State) (fn : Option Nat) (pa : Nat) : Nat :=
  match fn.bind (mget s.vfs) with
  | some v => v.ipaOf pa
  | none => pa
def State.paIn (s : State) (fn : Option Nat) (ipa : Nat) : Nat :=
  match fn.bind (mget s.vfs) with
  | some v => v.pa ipa
  | none => ipa

/-! Writing a record (Table 22.6). -/

/-- The eight doublewords of a port. -/
def portWords : Option PortBind → List Word
  | none => List.replicate 8 0
  | some (.channel n) => [BitVec.ofNat 64 (2 ^ 63 + n * 2 ^ 32), 0, 0, 0, 0, 0, 0, 0]
  | some (.stream b) =>
    let dims : List Word := b.dims.map (fun (d : Nat × Int) => BitVec.ofNat 64 (d.1 + 2 ^ 32 * (d.2 % 2 ^ 32).toNat))
    [BitVec.ofNat 64 (2 ^ 63 + b.write.toNat * 2 ^ 62 + b.trap.toNat * 2 ^ 61 + b.wrap.toNat * 2 ^ 60 + b.endFlag.toNat * 2 ^ 59 +
      b.sz * 2 ^ 4 + (b.dims.length - 1)), b.base] ++
      (dims ++ List.replicate 4 0).take 4 ++ [BitVec.ofNat 64 b.pos, 0]

/-- A list cut or filled with zeros to a length. -/
def fitTo (n : Nat) (ws : List Word) : List Word := (ws ++ List.replicate n 0).take n

/-- The ports of a record: p0 to p11, then w0 to w3. -/
def recordPorts : List Nat := List.range 12 ++ [16, 17, 18, 19]

/-- The bytes of a w port's arrival queue as elements: one that pops have begun comes first, its bytes high (log entry 18). -/
def queueElems (q : List Byte) : List Word :=
  let r := q.length % 8
  let bs := (if r = 0 then [] else List.replicate (8 - r) 0) ++ q
  (List.range (bs.length / 8)).map (fun i => BitVec.ofNat 64 (leNat ((bs.drop (8 * i)).take 8)))

/-- The words of v0 to v27, VGRANT / 2 doublewords each. -/
def vregWords (a : Arch) (grant : Nat) : List Word :=
  (List.range 28).flatMap (fun r => (List.range (grant / 2)).map (fun i =>
    BitVec.ofNat 64 ((mgetD a.vregs (32 * (2 * i) + r) 0).toNat + 2 ^ 32 * (mgetD a.vregs (32 * (2 * i + 1) + r) 0).toNat)))

/-- Lanes a thread has, or waits to be given again (R322). -/
def Thread.savedGrant (t : Thread) : Nat :=
  match t.hold with
  | some (.lanes n) => n
  | _ => t.a.grant

/-- Dwords 0 to 31 of the record (Table 22.6). -/
def State.recordHead (s : State) (gs : Nat) : List Word :=
  let t := s.thread gs
  let abase := ((t.vf.bind (mget s.vfs)).map VFunc.abase).getD 0
  let mon (n : Nat) : Word := match mget t.mons n with
    | none => 0
    | some (line, hit) => BitVec.ofNat 64 (2 ^ 63 + hit.toNat * 2 ^ 62 + s.ipaIn t.vf (128 * line) % 2 ^ 57)
  let fb : Nat := match t.fallback with
    | some f => 2 ^ 63 + (f.max - f.len) % 2 ^ 14 * 2 ^ 16
    | none => 0
  [BitVec.ofNat 64 (s.placeIn t.vf gs + t.winLim * 2 ^ 20 + t.upseq * 2 ^ 32 + (t.asid - abase) % 2 ^ 14 * 2 ^ 48),
    t.a.pc, s.statusOf gs, t.a.fctl, t.a.fflags, t.a.icount, t.chseq, t.timer, BitVec.ofNat 64 t.chunkmax,
    t.kern.tvec, t.ucvec, t.kern.epc, t.kern.ecause, t.kern.einfo0, t.kern.einfo1, t.kern.einfo2, t.kern.einfo3,
    BitVec.ofNat 64 (t.copies.length * 2 ^ 16)] ++
    (fitTo 4 (t.gid.map (fun (g : BitVec 32) => g.zeroExtend 64))) ++
    [BitVec.ofNat 64 (t.savedGrant + t.a.unmet * 2 ^ 16), t.mat.mode, t.mat.sa, t.mat.sb,
      mon 0, mon 1, mon 2, mon 3, BitVec.ofNat 64 t.ent, BitVec.ofNat 64 (t.path.length + fb)]

/-- The THREAD record of a slot (Table 22.6). -/
def State.threadRecord (s : State) (gs : Nat) : List Word :=
  let t := s.thread gs
  let st (c : Nat) : List Word := mgetD t.staged c []
  let q (n : Nat) : List Word := (queueElems (mgetD t.wq (16 + n) [])).take 16
  let counts := (List.range 4).map (fun n => (q n).length * 2 ^ (5 * n + 5) + (mgetD t.wq (16 + n) []).length % 8 * 2 ^ (28 + 3 * n))
  s.recordHead gs ++
    (recordPorts.flatMap (fun p => portWords (mget t.a.ports p))) ++
    (BitVec.ofNat 64 ((st 12).length + (st 13).length * 16 + (st 14).length * 256) ::
      (fitTo 3 (st 12) ++ fitTo 3 (st 13) ++ fitTo 1 (st 14))) ++
    (BitVec.ofNat 64 (min 16 t.p15.length + counts.foldl (· + ·) 0) ::
      (fitTo 16 t.p15 ++ (List.range 4).flatMap (fun n => fitTo 16 (q n)))) ++
    ((List.range 7).flatMap (fun k => (List.range 32).map (fun i => (t.a.kreg (k + 1)).extractLsb' (64 * i) 64))) ++
    (s.windowOf gs).drop 1 ++
    vregWords t.a t.savedGrant ++
    ((List.range 8).map (fun d => BitVec.ofNat 64
      (((List.range 8).map (fun j => t.path.getD (8 * d + j) 0 * 2 ^ (8 * j))).foldl (· + ·) 0)))

/-! Taking a record in (R322, R381). -/

/-- The binding that the eight doublewords of a port give. -/
def portOf (w : List Word) : Option PortBind :=
  let f := dw w 0
  if !bit f 63 then none
  else if bits f 47 32 ≠ 0 then some (.channel (bits f 47 32))
  else some (.stream
    { base := dw w 1, dims := (List.range (bits f 1 0 + 1)).map (fun i => (bits (dw w (2 + i)) 31 0, signedOf 32 (bits (dw w (2 + i)) 63 32))),
      sz := bits f 5 4, write := bit f 62, trap := bit f 61, wrap := bit f 60, pos := (dw w 6).toNat, endFlag := bit f 59, ahead := [] })

/-- The bytes of a w port's queue from its elements and the bytes left of the first. -/
def elemBytes (ws : List Word) (r : Nat) : List Byte :=
  (ws.flatMap (fun w => leBytes 8 w.toNat)).drop (if r = 0 then 0 else 8 - r)

/-- The size and the grant that a record names. -/
def recSize (r : List Word) : Nat := bits (dw r 0) 26 20
def recGrant (r : List Word) : Nat := bits (dw r 22) 9 0

/-- The checkpointed state that a record gives; the lanes come later (R322). -/
def recordArch (r : List Word) : Arch :=
  let grant := recGrant r
  let vbase := 473 + (recSize r - 1)
  let ports := (recordPorts.zipIdx).filterMap (fun (p : Nat × Nat) => (portOf ((r.drop (32 + 8 * p.2)).take 8)).map (fun b => (p.1, b)))
  let k (n : Nat) : BitVec 2048 := (List.range 32).foldl (fun (acc : BitVec 2048) i =>
    acc ||| ((dw r (249 + 32 * n + i)).zeroExtend 2048 <<< (64 * i))) 0
  let vregs : Map (BitVec 32) := (List.range 28).foldl (fun m v => (List.range (grant / 2)).foldl (fun m i =>
    let w := dw r (vbase + v * (grant / 2) + i)
    mput (mput m (32 * (2 * i) + v) (w.extractLsb' 0 32)) (32 * (2 * i + 1) + v) (w.extractLsb' 32 32)) m) []
  { pc := dw r 1, ports := ports.foldl (fun m p => mput m p.1 p.2) [], vregs := vregs, grant := 0, unmet := bits (dw r 22) 25 16,
    k := (List.range 7).foldl (fun m n => mput m (n + 1) (k n)) [], fctl := dw r 3, fflags := dw r 4,
    status := dw r 2 &&& ~~~0xC0F, icount := dw r 5, forks := 0 }

/-- A thread from its record, as the record has it: `base` holds what the record does not carry, p15's channel among it; the thread is not ready
while its grant is not free (R322, R381, R398). -/
def State.recordThread (s : State) (base : Thread) (fn : Option Nat) (winBase : Nat) (r : List Word) : Thread :=
  let abase := ((fn.bind (mget s.vfs)).map VFunc.abase).getD 0
  let a := recordArch r
  let fb := bit (dw r 31) 63
  let st : Map (List Word) := [(12, (r.drop 161).take (bits (dw r 160) 3 0)), (13, (r.drop 164).take (bits (dw r 160) 7 4)),
    (14, (r.drop 167).take (bits (dw r 160) 11 8))]
  let wq : Map (List Byte) := (List.range 4).map (fun n =>
    (16 + n, elemBytes ((r.drop (185 + 16 * n)).take (bits (dw r 168) (5 * n + 9) (5 * n + 5))) (bits (dw r 168) (30 + 3 * n) (28 + 3 * n))))
  let path := (List.range (bits (dw r 31) 7 0)).map (fun k => bits (dw r (r.length - 8 + k / 8)) (8 * (k % 8) + 7) (8 * (k % 8)))
  { base with
    live := true, vf := fn, asid := abase + bits (dw r 0) 61 48, winBase := winBase, winLim := recSize r
    a := { a with
      forks := base.a.forks
      ports := match mget base.a.ports 15 with
        | some b => mput a.ports 15 b
        | none => a.ports }
    loads := [], unread := 0, stores := [], pushes := [], aims := [], arrivals := [], chunks := [], fetched := [], chseq := dw r 6, timer := dw r 7, chunkmax := (dw r 8).toNat
    kern := ⟨dw r 9, dw r 11, dw r 12, dw r 13, dw r 14, dw r 15, dw r 16⟩, ucvec := dw r 10
    gid := (List.range 4).map (fun i => (dw r (18 + i)).extractLsb' 0 32)
    mat := ⟨dw r 23, dw r 24, dw r 25⟩
    mons := (List.range 4).filterMap (fun n =>
      if bit (dw r (26 + n)) 63 then some (n, (lineOf (s.paIn fn (bits (dw r (26 + n)) 56 0)), bit (dw r (26 + n)) 62)) else none)
    ent := (dw r 30).toNat, upseq := bits (dw r 0) 47 32, path := path
    sq := if fb then 8 else bits (dw r 2) 3 0
    fallback := if fb then some ⟨0, bits (dw r 31) 29 16, ((base.fallback.map (·.policy)) <|>
      (((fn.bind (mget s.vfs)).bind (fun v => mget s.parts v.part)).map (·.policy))).getD 0⟩ else none
    staged := st.filter (fun p => !p.2.isEmpty), p15 := (r.drop 169).take (bits (dw r 168) 4 0), wq := wq.filter (fun p => !p.2.isEmpty)
    hold := if recGrant r = 0 then none else some (.lanes (recGrant r)), stopFor := none, frozen := false, evald := none }

/-- A thread that goes on where it did not stand: every armed monitor comes back hit, and the ready bit set (R322, R381). -/
def Thread.rearmed (t : Thread) : Thread :=
  { t with mons := t.mons.map (fun (p : Nat × Nat × Bool) => (p.1, p.2.1, true)), ready := true }

/-- Put a thread from its record in a slot, with its window's contents. -/
def State.placeRecord (s : State) (gs : Nat) (t : Thread) (r : List Word) : State :=
  let s1 := s.setThread gs t
  s1.setWindowOf gs (0 :: (r.drop 473).take (t.winLim - 1))

/-! Handover points (R321). -/

/-- A request is out and its answer still to come: the slot is not at a point. -/
def Hold.outstanding : Hold → Bool
  | .qresReply .. | .qresPoison | .qrelWait .. | .qrelDone | .edgeWait .. | .edgeDone .. | .edgeReply .. | .sstop .. => true
  | _ => false

/-- A queued `qres` is at the head of its home's queue of a free word, so that its answer is on its way (R321). -/
def State.qresServed (s : State) (gs : Nat) : Bool :=
  match (s.thread gs).hold with
  | some (.qresWait pa _) => (mgetD s.homes pa ⟨[], false⟩).queue.head? == some gs
  | _ => false

/-- A hold of a unit inside a chunk: R321 lists `wait`, a full push and an empty pop; the model's other waits at an issue go with them. -/
def Hold.inChunk (h : Hold) : Bool := !h.outstanding

/-- The state with the slot at its point, if it has one now (R321): a chunk held in a wait is squashed, a queued `qres` withdrawn;
every operation has been performed and no chunk is uncommitted. -/
def State.atPoint (s : State) (gs : Nat) : Option State :=
  let t := s.thread gs
  let s1 :=
    if t.cur.isSome && (match t.hold with | some h => h.inChunk | none => false) then s.squash gs (t.chunks.length - 1) true false
    else s
  let t1 := s1.thread gs
  if t1.chunks.isEmpty && t1.quiet && !t1.midUnit && !(match t1.hold with | some h => h.outstanding | none => false) && !s1.qresServed gs then
    let keep := if t1.awaitsLanes then t1.hold else none
    some ((s1.withdraw gs).setThread gs { t1 with hold := keep })
  else none

/-- Whether the slot's launch needs a thread's pending answer first: edge writes sent are acknowledged, and matrix commands are done
before a record is taken (R322, R377). -/
def State.settled (s : State) (gs : Nat) : Bool :=
  let t := s.thread gs
  t.copies.isEmpty && t.mats.isEmpty && decide (t.edges = 0)

end Sys2Proof.Machine
end

