-- ==== Sys2Proof/Machine/Debug.lean ====
section
/-!
DEFINITION. The debug port (R398, R399): routing, breakpoints, stops at handover points, single units, threads read and written.
-/

namespace Sys2Proof.Machine

/-- The debug port's action names a device identifier: the part whose identifier it is performs it (R398). -/
def forPart {α : Type} (x : ForDev α) (s : State) (act : α → Outcome) : Outcome :=
  if x.dev = Config.devid % 2 ^ 20 then act x.what else .next s

/-- The part performs the actions that name it. -/
@[simp] theorem forPart_own {α : Type} (x : α) (s : State) (act : α → Outcome) :
    forPart ⟨Config.devid % 2 ^ 20, x⟩ s act = act x := if_pos rfl

/-- `DBGEN` (R398): debug routing of a partition on or off. -/
def execDbgen (part : ForDev Nat) (on : Bool) (s : State) : Outcome :=
  forPart part s fun part =>
  let rest := s.dbgen.filter (fun p => p != part)
  .next { s with dbgen := if on then part :: rest else rest }

/-- `BPSET` (R398): arm one of a core's four breakpoints with an address and a partition, or clear it. -/
def execBpset (gc : ForDev Nat) (i : Nat) (bp : Option (Nat × Nat)) (s : State) : Outcome :=
  forPart gc s fun gc =>
  if 4 ≤ i then .next s
  else
    match bp with
    | some b => .next { s with bps := mput s.bps (4 * gc + i) b }
    | none => .next { s with bps := mdel s.bps (4 * gc + i) }

/-- A slot that is to stop for the debug port stops where it has reached its point (R399). -/
def State.settleHalt (s : State) (gs : Nat) : State :=
  if (s.thread gs).stopFor = some .halt ∧ s.runs gs then
    match s.atPoint gs with
    | some s1 => s1.setThread gs { s1.thread gs with halted := true, stopFor := none }
    | none => s
  else s

/-- Every such slot. -/
def State.settleHalts (s : State) : State := (s.threads.map (·.1)).foldl State.settleHalt s

/-- A HALT of one slot (R399): it stops at its point; one that stops for a handover or a migration is stopped for the debug port as well, once
its thread would run again (log entry 89), and one at its point already is at once. -/
def State.haltSlot (s : State) (gs : Nat) : State :=
  let t := s.thread gs
  if !t.live || t.halted then s
  else if t.frozen then s.setThread gs { t with halted := true }
  else if t.stopFor.isSome then s.setThread gs { t with haltNext := true }
  else (s.setThread gs { t with stopFor := some .halt }).settleHalt gs

/-- `HALT` (R399): the named slots stop at the point that R321 gives for a handover. -/
def execHalt (slots : ForDev (List Nat)) (s : State) : Outcome :=
  forPart slots s fun slots => .next (slots.foldl State.haltSlot s)

/-- `STEP` (R398): a stopped slot runs one unit in direct mode. -/
def execStep (gs : ForDev Nat) (s : State) : Outcome :=
  forPart gs s fun gs =>
  let t := s.thread gs
  if t.live ∧ t.halted then .next (s.setThread gs { t with stepping := true }) else .next s

/-- `DEBUG_RESUME` (R398): stopped slots become ready again. -/
def execDebugResume (slots : ForDev (List Nat)) (s : State) : Outcome :=
  forPart slots s fun slots =>
  .next (slots.foldl (fun (s : State) gs =>
    let t := s.thread gs
    if t.halted || t.haltNext || t.stopFor == some .halt then
      s.setThread gs { t with
        halted := false, haltNext := false, stepping := false, stopFor := if t.stopFor = some .halt then none else t.stopFor }
    else s) s)

/-- `DEBUG_READ` (R398): a stopped thread's state as a THREAD record. -/
def execDebugRead (gs : ForDev Nat) (s : State) : Outcome :=
  forPart gs s fun gs =>
  if (s.thread gs).live ∧ (s.thread gs).halted then .next { s with outbox := s.outbox ++ [.debugData gs (s.threadRecord gs)] }
  else .next s

/-- The length of a record with a window and a grant (Table 22.6). -/
def recLength (size grant : Nat) : Nat := 473 + (size - 1) + 28 * (grant / 2) + 8

/-- `DEBUG_WRITE` (R398): a stopped thread takes the state of a THREAD record of its window; its slot stays stopped. -/
def execDebugWrite (gs : ForDev Nat) (record : List Word) (s : State) : Outcome :=
  forPart gs s fun gs =>
  let t := s.thread gs
  if t.live ∧ t.halted ∧ recSize record = t.winLim ∧ record.length = recLength t.winLim (recGrant record) then
    .next (s.placeRecord gs (s.recordThread t t.vf t.winBase record) record)
  else .next s

/-- The breakpoint that a slot's next unit hits (R399): one of its core and partition, with routing on; a unit that has stopped the
slot is passed when it is resumed or stepped (log entry 25). -/
def State.breakHit (s : State) (gs : Nat) : Option Nat :=
  let t := s.thread gs
  match s.partOf gs with
  | some p =>
    if s.dbgen.contains p && !t.stepping && t.dbgCause.isNone then
      (List.range 4).find? (fun i => mget s.bps (4 * coreOf gs + i) == some (t.a.pc.toNat, p))
    else none
  | none => none

/-- A breakpoint is hit: a debug stop, made as a cause would be (R399). -/
def State.takeBreak (s : State) (i : Nat) : State :=
  { s with unit := UnitCtx.at_ s.th.a.pc }.raiseAt { cause := .debug, brkn := 128 + i, whole := true }

end Sys2Proof.Machine
end

