-- ==== Sys2Proof/Machine/Observe.lean ====
section
/-!
DEFINITION. Observation: counters and snapshots, the sampling pulse, trace units and their holders, writes to registers without a
behaviour of their own (R372, R373, R392 to R397, R409).
-/

namespace Sys2Proof.Machine

/-! Counters (R393, R394, Table 23.4). -/

/-- Events that the spec ties to no architectural step; their counts are free (log entry 16). -/
def freeEvents : List Nat := [0x20, 0x21, 0x22, 0x31, 0x40, 0x41]

/-- The event is present on this revision (Table 23.4). -/
def eventPresent (ev : Nat) : Bool :=
  ev ∈ [0x01, 0x02, 0x03, 0x10, 0x11, 0x12, 0x20, 0x21, 0x22, 0x30, 0x31, 0x32] ||
    (Config.rev == 0x010203 && (ev == 0x40 || ev == 0x41))

/-- A configuration is refused: an absent event, a reserved bit, or ALL or PSEL in a function's block (R393). -/
def cfgInvalid (blk : Nat) (v : Word) : Bool :=
  !eventPresent (bits v 7 0) || bits v 61 37 != 0 || bits v 31 8 != 0 || (blk != 256 && (bit v 62 || bits v 36 32 != 0))

/-- The word of a counter in its block (Table 23.3). -/
def Counter.word (c : Counter) : Word :=
  BitVec.ofNat 64 (c.frozen.toNat * 2 ^ 63 + c.inval.toNat * 2 ^ 62 + c.ovf.toNat * 2 ^ 61 + c.value)

/-- A counter that nothing has configured. -/
def Counter.zero : Counter := ⟨0, 0, false, false, false⟩

/-- `COUNTER_CONFIG` (R393): a write to CFGi clears the value and its flags and sets INVAL as the write requires. -/
def execCounterConfig (blk i : Nat) (v : Word) (s : State) : Outcome :=
  match s.obsBase blk with
  | some base =>
    if 16 ≤ i then .next s
    else
      let c : Counter := ⟨v, 0, false, cfgInvalid blk v, false⟩
      .next ({ s with counters := mput s.counters (16 * blk + i) c }.performAll none [.write (base + 0x80 + 8 * i) (leBytes 8 c.word.toNat)])
  | none => .next s

/-- Some thread that a counter counts events of runs: it counts nothing while those threads are stopped, handed over or held in a bale
(R393). -/
def State.countsNow (s : State) (k : Nat) (c : Counter) : Bool :=
  s.threads.any (fun p => p.2.live && s.runs p.1 && !(p.2.halted && !p.2.stepping) && !p.2.frozen &&
    c.counts p.2.vf (s.partOf p.1) (bits c.cfg 7 0) (k / 16))

/-- A counter of a free event counts the events of a cycle (log entry 16). -/
def State.countFree (s : State) (k : Nat) : State :=
  match mget s.counters k with
  | some c =>
    if freeEvents.contains (bits c.cfg 7 0) && s.countsNow k c then
      let n := c.value + Config.eventCount s.fresh
      { s with fresh := s.fresh + 1, counters := mput s.counters k { c with value := n % 2 ^ 48, ovf := c.ovf || decide (2 ^ 48 ≤ n) } }
    else s
  | none => s

/-- Every counter of a free event. -/
def State.countFrees (s : State) : State := (s.counters.map (·.1)).foldl State.countFree s

/-- `SNAP` (R394): every counter of the block in one cycle, then SNAPACK, as one engine chunk. -/
def execSnap (blk : Nat) (v : Word) (s : State) : Outcome :=
  match s.obsBase blk with
  | some base =>
    let vals := (List.range 16).flatMap (fun i => leBytes 8 (mgetD s.counters (16 * blk + i) Counter.zero).word.toNat)
    .next (s.performAll none [.write (base + 0x80) vals, .write (base + 0x108) (leBytes 8 v.toNat)])
  | none => .next s

/-! Trace (R373, R396, R397). -/

/-- `TRACE_CONFIG` (R397): TWPTR, TLOST and TRPTR are set to zero. A store of the owner to TBUF or TLOG does so itself. -/
def execTraceConfig (blk : Nat) (s : State) : Outcome :=
  match s.obsBase blk with
  | some base => .next (s.performAll none [.write (base + 0x120) (leBytes 24 0)])
  | none => .next s

/-- `TRPTR` (R397): the count of records the owner has consumed stands in its block, where the next record finds it. A store of the owner puts
it there itself. -/
def execTrptr (blk : Nat) (v : Word) (s : State) : Outcome :=
  match s.obsBase blk with
  | some base => .next (s.performAll none [.write (base + 0x130) (leBytes 8 v.toNat)])
  | none => .next s

/-- THELD of a function: the dies whose unit it holds (Table 20.6). -/
def State.theld (s : State) (vf : Nat) : Nat :=
  ((List.range 4).map (fun d => if s.traceHold.getD d 511 = vf then 2 ^ d else 0)).foldl (· + ·) 0

/-- Give a die's trace unit to a holder, and write THELD of a function that this concerns. -/
def State.setHolder (s : State) (die h vf : Nat) : State :=
  let s1 := { s with traceHold := s.traceHold.set die h, traceAt := s.traceAt.set die s.cycle }
  match mget s1.vfs vf with
  | some v => s1.performAll none [.write (v.pa (v.vcba + 16)) (leBytes 8 (s1.theld vf))]
  | none => s1

/-- A record of TYPE 7: a claim refused, or a hold revoked (R373). -/
def State.traceNotice (s : State) (vf die : Nat) (revoked : Bool) : State :=
  s.postKernel vf 7 0 [BitVec.ofNat 64 (die + revoked.toNat * 2 ^ 8)]

/-- A guest claim of the die's unit was granted in this cycle: a hypervisor claim in the same cycle goes before it (R373). -/
def State.claimedNow (s : State) (die : Nat) : Bool :=
  decide (s.traceHold.getD die 511 < 256) && decide (s.traceAt.getD die 0 = s.cycle)

/-- A hypervisor claim of the die's unit has come in the same cycle (R373). -/
def State.hyperClaims (s : State) (die : Nat) : Bool :=
  s.agenda.any (fun a => match a with
    | .command c => bits c.target 7 0 == 7 && bits c.target 31 16 == die && bit (c.args.getD 0 0) 0
    | _ => false)

/-- `TCLAIM` (R373): a guest claims a die's trace unit, or releases it. -/
def execTclaim (vf die : Nat) (claim : Bool) (s : State) : Outcome :=
  match mget s.vfs vf with
  | none => .next s
  | some _ =>
    let h := s.traceHold.getD die 511
    if 4 ≤ die then .next s
    else if claim then
      if h = 511 ∧ !s.hyperClaims die then .next (s.setHolder die vf vf) else .next (s.traceNotice vf die false)
    else if h = vf then .next (s.setHolder die 511 vf)
    else .next s

/-! The sampling pulse (R395). -/

/-- A held direct-mode unit waits for a grant: of its chunks, or of its place in the order. -/
def State.awaitsGrant (s : State) (gs : Nat) : Bool :=
  let t := s.thread gs
  t.directMode && (!t.chunks.isEmpty || ((t.det || t.ord) && !s.keyTurn gs))

/-- The run state of a slot's thread (Table 23.5). A slot out of rotation for a full reply reads 3, and a hold that the table does not list 5
(log entry 92). -/
def State.runState (s : State) (gs : Nat) : Nat :=
  let t := s.thread gs
  if t.halted && !t.stepping then 7
  else if s.issued.contains gs then 0
  else if t.fallback.isSome then 6
  else if s.msgs.any (fun m => m.uid == t.uid && (m.state == .held || m.state == .resent)) then 3
  else
    match t.hold with
    | none => 1
    | some h =>
      match h with
      | .retry => if s.awaitsGrant gs then 5 else 2
      | .pop .. => 3
      | .sleep .. | .sleepDone .. | .wfi | .join | .qresWait .. | .qresReply .. | .qresPoison => 4
      | _ => 5

/-- Started slots of the running clusters, in ascending order. -/
def State.startedSlots (s : State) : List Nat := (s.threads.filter (fun p => p.2.live && s.runs p.1)).map (·.1)

/-- The dwords of a sample after its head: for each cluster its cores, for each core its slots, for each slot its PC and state. -/
def State.sampleBody (s : State) : List Word :=
  let gs := s.startedSlots
  let mask (ns : List Nat) : Nat := (ns.map (fun n => 2 ^ n)).foldl (· + ·) 0
  ((gs.map clusterOf).dedup).flatMap (fun pc =>
    let cores := ((gs.filter (fun g => clusterOf g == pc)).map coreOf).dedup
    BitVec.ofNat 64 (pc + 2 ^ 16 * mask (cores.map (· % 8))) ::
      cores.flatMap (fun gc =>
        let slots := gs.filter (fun g => coreOf g == gc)
        BitVec.ofNat 64 (mask (slots.map slotOf)) ::
          slots.map (fun g => BitVec.ofNat 64 (s.runState g * 2 ^ 60 + bits (s.thread g).a.pc 56 0))))

/-- The sample record of this cycle. -/
def State.sampleRecord (s : State) : List Word :=
  let body := s.sampleBody
  BitVec.ofNat 64 (s.sserial % 2 ^ 32 * 2 ^ 32 + 8 * (body.length + 2)) :: BitVec.ofNat 64 s.cycle :: body

/-- The bytes of a record as effects on a ring of `size` bytes at `buf`, from `wp` on and again from the start of the ring (R395). -/
def ringEffs (buf size wp : Nat) (bs : List Byte) : List Eff :=
  let room := size - wp % size
  .write (buf + wp % size) (bs.take room) ::
    (List.range ((bs.length - room + size - 1) / size)).map (fun k => Eff.write buf ((bs.drop (room + k * size)).take size))

/-- A pulse is due: CYCLE is a multiple of the period, and none has been raised in this cycle. -/
def State.pulseDue (s : State) : Bool :=
  let p := (s.dwordAt (s.ctb + 0x580)).toNat
  p != 0 && decide (s.cycle % max 10000 p = 0) && s.pulsed != some s.cycle

/-- `SAMPLING_PULSE` (R395): one record into the sample ring at SWPTR, and SWPTR rises by its length; a pulse that arrives while the last record
is still being written makes none and raises SDROP (log entry 92). -/
def execSamplingPulse (s : State) : Outcome :=
  if s.pulseDue then
    let base := s.ctb + 0x400
    let conf := s.dwordAt (base + 0x188)
    let size := 2 ^ bits conf 4 0
    let buf := bits conf 56 12 * 4096
    let s1 := { s with pulsed := some s.cycle }
    if s.cycle < s.sampling then
      .next (s1.performAll none [.write (base + 0x198) (leBytes 8 ((s.dwordAt (base + 0x198)).toNat + 1))])
    else if bits conf 4 0 < 16 ∨ 30 < bits conf 4 0 then .next s1
    else
      let bs := s.sampleRecord.flatMap (fun w => leBytes 8 w.toNat)
      let wp := (s.dwordAt (base + 0x190)).toNat
      .next (({ s1 with sserial := s.sserial + 1, sampling := s.cycle + Config.sampleTime s.sserial }.performAll none (ringEffs buf size wp bs)).performAll none
        [.write (base + 0x190) (leBytes 8 (wp + bs.length))])
  else .next s

/-! The hand-off block (R408 to R411, Table 24.2). -/

/-- Where the model names the hand-off block, the first 4 KiB of BAR0 of PF0, which no physical address reaches (log entry 5). -/
def bar0 : Nat := 2 ^ 62

/-- A doubleword of the hand-off block as a read returns it: with STATE = 0 every other field is zero (R411). FAIL bit 0 is set with a bad
identifier (R406), bit 2 where a stack has failed its training (log entry 67). -/
def State.handoffWord (s : State) (i : Nat) : Word :=
  if s.ho.state = 0 then 0
  else
    match i with
    | 0 => BitVec.ofNat 64 (0x4F444943 * 2 ^ 32 + s.ho.state)
    | 1 => BitVec.ofNat 64 (Config.devid % 2 ^ 20 * 2 ^ 44 + Config.lslow.toNat * 2 ^ 43 + Config.link % 3 * 2 ^ 40 + Config.rev % 2 ^ 24)
    | 2 => BitVec.ofNat 64 (Config.lhash % 2 ^ 32 * 2 ^ 32 + Config.fwver % 2 ^ 32)
    | 3 => BitVec.ofNat 64 s.ctb
    | 4 => BitVec.ofNat 64 s.mbase
    | 5 => BitVec.ofNat 64 (s.ho.fail ||| badIdentifier.toNat ||| 4 * Config.stackFailed.toNat)
    | 6 => s.ho.hentry
    | 7 => s.ho.harg
    | 8 => BitVec.ofNat 64 s.ho.pwrcap
    | _ => 0

/-- The address lies in the hand-off block. -/
def inHandoff (pa : Nat) : Bool := decide (bar0 ≤ pa) && decide (pa < bar0 + 4096)

/-- The 64 bytes of the hand-off block that hold an address (R409, R411). -/
def State.handoffBytes (s : State) (pa : Nat) : List Byte :=
  (List.range 8).flatMap (fun i => leBytes 8 (s.handoffWord ((pa - bar0) / 64 * 8 + i)).toNat)

/-- `REGISTER_WRITE`: a doubleword written to a register that has no behaviour of its own: HARG and PWRCAP of the hand-off block
(R409), or a field of a block in memory; a write to what is read-only, or to no register, has no effect. -/
def execRegisterWrite (pa : Nat) (v : Word) (s : State) : Outcome :=
  if pa = bar0 + 56 then .next { s with ho := { s.ho with harg := v } }
  else if pa = bar0 + 64 then
    let w := bits v 11 0
    .next (if 1000 ≤ w ∧ w ≤ 2800 then { s with ho := { s.ho with pwrcap := w } } else s)
  else if pa % 8 = 0 ∧ isMapped pa then .next (s.performAll none [partWrite pa v])
  else .next s
where
  /-- The doubleword as the effect of its write. -/
  partWrite (pa : Nat) (v : Word) : Eff := if isHost pa then .edge pa (leBytes 8 v.toNat) else .write pa (leBytes 8 v.toNat)

end Sys2Proof.Machine
end

