-- ==== Sys2Proof/Machine/Commit.lean ====
section
/-!
DEFINITION. The steps of chunks and of the total order: ends, requests, grants, signatures, engine chunks, loads and stores that
complete, elements prefetched, remote stores (R26, R27, R138, R236 to R263, R274, R312).
-/

namespace Sys2Proof.Machine

/-! Ends. -/

/-- `INTERRUPT_TAKEN` (R312): a pending, enabled interrupt ends the chunk, and is taken before the next unit. -/
def execInterruptTaken (gs : Nat) (s : State) : Outcome :=
  if s.mayIssue gs ∧ (s.thread gs).intrDue ∧ !(s.thread gs).messageDue then
    match s.dueNow gs with
    | .take s1 => .next (s1.takeDue gs)
    | .wait s1 => .next s1
    | .none => .next s
  else .next s

/-- `CHUNK_END_CHUNKMAX` (R238): the chunk's count has reached its limit. -/
def execChunkEndChunkmax (gs : Nat) (s : State) : Outcome :=
  match (s.thread gs).cur with
  | some c => if c.max ≤ c.len ∧ s.runs gs then .next (s.setThread gs (s.thread gs).endChunk) else .next s
  | none => .next s

/-- `CHUNK_CUT_CYCLES` (R238): 20,000 cycles after its first unit the chunk ends, outside exact-count mode. -/
def execChunkCutCycles (gs : Nat) (s : State) : Outcome :=
  match (s.thread gs).cur with
  | some c =>
    if !s.exactCount gs && decide (c.start + 20000 ≤ s.cycle) && s.runs gs then .next (s.setThread gs (s.thread gs).endChunk) else .next s
  | none => .next s

/-- `DIRECT_FALLBACK` (R253): a chunk squashed eight times re-executes from its checkpoint in the direct fallback. -/
def execDirectFallback (gs : Nat) (s : State) : Outcome :=
  let t := s.thread gs
  if t.live ∧ s.runs gs ∧ 8 ≤ t.sq ∧ t.fallback = none ∧ !t.dir ∧ t.chunks = [] then
    .next (s.setThread gs { t with fallback := some ⟨0, t.chunkmax, s.policyOf gs⟩ })
  else .next s

/-! Requests and grants (R247 to R252, R255). -/

/-- A signature still on its way to the slot meets the chunk: a grant before it squashes it (R248, R252). -/
def State.sigMeets (s : State) (gs : Nat) (c : Chunk) : Bool := s.sigs.any (fun q => q.1 != gs + 1 && c.meets q.2)

/-- The clusters of scratchpads that items lie in. -/
def spadClusters (items : List Nat) : List Nat :=
  ((items.filter (fun i => decide (i < 2 ^ 80) && isSpad (128 * i))).map (fun i => spadCore (128 * i) / 8)).dedup

/-- `COMMIT_REQUEST` (R247 steps 1 and 2): the oldest chunk has ended and its operations have been performed. -/
def execCommitRequest (gs : Nat) (s : State) : Outcome :=
  let t := s.thread gs
  match t.chunks with
  | c :: rest =>
    if t.live ∧ s.runs gs ∧ c.ended ∧ c.requested = none ∧ (rest ≠ [] ∨ t.quiet) then
      .next (s.setThread gs { t with chunks := { c with requested := some s.cycle } :: rest })
    else .next s
  | [] => .next s

/-- The state after a grant (R247 steps 3 to 5): the chunk takes its place in the order. -/
def State.grant (s : State) (gs : Nat) (c : Chunk) (rest : List Chunk) : State :=
  let lev := s.levelOf gs kindChunk (c.reads ++ c.writes)
  let s1 := (s.noteGrant gs kindChunk c.len lev).performAll (some gs) (c.log.map (·.eff))
  let s2 := c.deferred.foldl (fun (s : State) d => s.runDeferred gs d) s1
  let t := s2.thread gs
  s2.setThread gs { t with
    chunks := { c with granted := true } :: rest, ent := if t.det then t.ent + 1 else t.ent, retried := false } |>.sawShared gs |>.count gs 0x10 1

/-- `COMMIT_GRANT` (R248, R250): a request that conflicts with no earlier grant, and that no earlier request stands before, is granted in
a cycle after its arrival; a request that the log does not expect stops the partition's grants (R263). -/
def execCommitGrant (gs : Nat) (s : State) : Outcome :=
  let t := s.thread gs
  match t.chunks with
  | c :: rest =>
    match c.requested with
    | some n =>
      if c.granted ∨ s.sigMeets gs c ∨ !s.runs gs ∨ s.cycle ≤ n then .next s
      else
        match s.gate gs kindChunk c.len with
        | .diverge e => .next (s.divergence gs kindChunk c.len e)
        | _ => if s.decidable gs c && !s.earlierRequest (s.chunkReq gs n c) then .next (s.grant gs c rest) else .next s
    | none => .next s
  | [] => .next s

/-- `GRANT_ARRIVAL` (R247 step 6): the written lines have come, and the host has answered for those it held (R349); CHSEQ rises, SQ is cleared, but not under the fallback of the younger chunk
(R253), and the next checkpoint becomes the oldest; the rest of a task runs in direct mode (R304). -/
def execGrantArrival (gs : Nat) (s : State) : Outcome :=
  let t := s.thread gs
  match t.chunks with
  | c :: rest =>
    if c.granted ∧ !c.writes.any (fun l => s.hostInval.contains l) then
      let s1 := c.writes.foldl State.cohDrain s
      .next ((s1.setThread gs ({ t with
        chunks := rest, chseq := t.chseq + 1, sq := if t.fallback.isSome && t.sq == 8 then 8 else 0 } : Thread).taskDirect).traceRec gs 4 t.a.pc
        (t.chseq + 1))
    else .next s
  | [] => .next s

/-- `SIG` (R252): the oldest granted signature on its way arrives at cores and homes. -/
def execSig (s : State) : Outcome :=
  match s.sigs with
  | q :: rest => .next ({ s with sigs := rest }.deliverSig q.1 q.2)
  | [] => .next s

/-! Engine chunks (R192, R212, R255, R257). -/

/-- Copies of the same deterministic launch that were released before and have not finished (R212). -/
def State.copyBehind (s : State) (c : Copy) : Bool :=
  let t := s.thread c.gs
  t.det && s.copies.any (fun d => decide (d.id < c.id) && (s.thread d.gs).det && (s.thread d.gs).lid == t.lid)

/-- The next piece of a copy reads a scratchpad of a cluster that is stopped (R255, R327). -/
def State.readsParked (s : State) (c : Copy) : Bool :=
  let n := c.pieceLen
  [c.src + BitVec.ofNat 64 c.done, c.src + BitVec.ofNat 64 (c.done + n - 1)].any (fun va =>
    match s.translate c.vf c.asid c.level (addr57 va) .read with
    | .ok x => isParked x.addr || (isSpad x.addr && !s.clusterRuns (spadCore x.addr / 8))
    | .error _ => false)

/-- The next piece of a copy can be granted: not of a stopped cluster or slot (R326, R377), and not from one. -/
def State.pieceDue (s : State) (c : Copy) : Bool :=
  !c.combining && decide (c.done < c.len) && c.fault.isNone && !s.copyBehind c && s.runs c.gs && !(s.thread c.gs).frozen &&
    !s.readsParked c

/-- Ask the log about an engine chunk of a slot's command, and perform it (R261 to R263). -/
def State.engineGrant (s : State) (gs lines : Nat) (f : State → State) : State :=
  match s.gate gs kindEngine lines with
  | .go => f s
  | .wait => s
  | .diverge e => s.divergence gs kindEngine lines e

/-- `ENGINE_CHUNK_GRANT` (R257): the next piece of a copy, or the next row of a matrix command's scratchpad writes. -/
def execEngineChunkGrant (eid : Nat) (s : State) : Outcome :=
  match s.copies.find? (fun c => c.id == eid) with
  | some c => if s.pieceDue c then .next (s.engineGrant c.gs c.pieceLines (fun s => s.copyPiece c)) else .next s
  | none =>
    match s.matq.find? (fun p => (p.2.head?.map (·.id)) == some eid) with
    | some (key, c :: _) =>
      let pc := key / 32 / 8
      if s.matPieceDue pc c ∧ s.clusterRuns pc then .next (s.engineGrant c.gs (c.pieceLines pc) (fun s => s.matPiece pc key))
      else .next s
    | _ => .next s

/-- `COPY_COMPLETE` (R213, R214): the record is written, an engine chunk of its own; once its edge write, if it is one, is acknowledged, the
copy is complete. -/
def execCopyComplete (cid : Nat) (s : State) : Outcome :=
  match s.copies.find? (fun c => c.id == cid) with
  | some c =>
    if s.copyReady c ∧ s.runs c.gs ∧ !(s.thread c.gs).frozen then
      if c.recorded then .next (s.copyFinish c)
      else if s.copyBehind c then .next s
      else
        match s.pullWanted c.vf c.asid c.level (addr57 c.record) .write with
        | some (v, p) => .next (s.askPull v p)
        | none =>
          let s1 := s.engineGrant c.gs 1 (fun s => s.copyRecord c)
          match s1.copies.find? (fun d => d.id == cid) with
          | some d => .next (if d.recorded && s1.copyReady d then s1.copyFinish d else s1)
          | none => .next s1
    else .next s
  | none => .next s

/-- `COMBINING_RELEASE` (R215): the copies held in a cluster's combining node are released; merged reads change no result. -/
def execCombiningRelease (cl : Nat) (s : State) : Outcome :=
  .next { s with copies := s.copies.map (fun (c : Copy) => if clusterOf c.gs = cl ∧ s.clusterRuns cl then { c with combining := false } else c) }

/-! Loads and stores (R26, R27, R119). -/

/-- Write the data of a load to its destination. -/
def State.writeDest (s : State) (gs : Nat) (d : Dest) : State :=
  match d with
  | .x f v _ => s.setXOf gs f v
  | .elems r w vs _ =>
    let t := s.thread gs
    s.setThread gs { t with
      a := vs.foldl (fun (a : Arch) p => if w * p.1 / 32 < a.grant then a.setVbits r (w * p.1) w p.2 else a) t.a }

/-- The lines that the data of a load comes from. -/
def Dest.lines : Dest → List Nat
  | .x _ _ (some src) => linesOf src.pa src.n
  | .elems _ w _ pas => (pas.flatMap (fun pa => linesOf pa (w / 8))).dedup
  | _ => []

/-- The data of a line comes to a core: what is on its way about the line ends, and its L1 holds the line where its die's L2 does and no
word of it is reserved (R132, R266, R268, R271). -/
def State.loadLine (gs : Nat) (s : State) (l : Nat) : State :=
  if isPeer (128 * l) then s
  else
    let s1 := s.cohDrain l
    if cached l && (s1.reservedLine l || s1.dieState l (dieOf gs) == .i) then s1 else s1.l1Add (coreOf gs) l

/-- The data of a load comes. -/
def State.loadLines (s : State) (gs : Nat) (ds : List Dest) : State := (ds.flatMap Dest.lines).foldl (State.loadLine gs) s

/-- The next unread element of a vector load is read, at its place (R163, R298). -/
def State.rereadDest (s : State) (n : Nat) : Dest → Dest
  | .elems r w vs pas =>
    let i := pas.length - n
    .elems r w (vs.zipIdx.map (fun p => if p.2 = i then (p.1.1, s.natAt (pas.getD i 0) (w / 8)) else p.1)) pas
  | d => d

/-- A remote store is on its way to a line that a load reads (R274). -/
def State.destPending (s : State) (d : Dest) : Bool := d.lines.any (fun l => s.remotePending (128 * l) 128)

/-- `LOAD_DATA_RETURN` (R27): the oldest counted load's data is written and LC falls; in direct mode once every element of it has been read,
one after the other (R119, R163), in a deterministic launch at its key place (R298). -/
def execLoadDataReturn (gs : Nat) (s : State) : Outcome :=
  let t := s.thread gs
  match (if s.answers gs then t.loads else []) with
  | ds :: rest =>
    if 0 < t.unread then
      if (!t.det || s.keyTurn gs) ∧ !ds.any s.destPending then
        .next ((s.setThread gs { t with
          loads := ds.map (s.rereadDest t.unread) :: rest, unread := t.unread - 1, ent := if t.det then t.ent + 1 else t.ent }).sawShared gs)
      else .next s
    else
      let s1 := ds.foldl (fun (s : State) d => s.writeDest gs d) (s.loadLines gs ds)
      .next (s1.setThread gs { s1.thread gs with loads := rest })
  | [] => .next s

/-- Perform a singleton of a slot at its place (R251, R256). -/
def State.performSingle (s : State) (gs : Nat) (effs : List Eff) : State :=
  (s.noteGrant gs kindSingle 1 (s.levelOf gs kindSingle (itemsOf effs))).performAll (some gs) effs

/-- A run of bytes, cut where it crosses a page. -/
def splitPage (pa : Nat) (bs : List Byte) : List (Nat × List Byte) :=
  let n := 4096 - pa % 4096
  if bs.length ≤ n then [(pa, bs)] else [(pa, bs.take n), (pa + n, bs.drop n)]

/-- Where the page of an outstanding write is now: a table write ordered before it moves it (R346); with a translation that faults meanwhile
it stays where it was issued to (log entry 93). -/
def State.aimed (s : State) (gs pa : Nat) : Nat × State :=
  let t := s.thread gs
  match t.aims.find? (fun a => a.frame == pa / 4096) with
  | none => (pa, s)
  | some a =>
    match ({ s with fs := gs } : State).translate t.vf t.asid a.level a.page .write with
    | .error _ => (pa, s)
    | .ok x =>
      if x.addr / 4096 = a.frame then (pa, s)
      else (x.addr / 4096 * 4096 + pa % 4096, match x.pte with | some p => s.setAD p .write | none => s)

/-- A write at its place in the order goes where its page is then (R346). -/
def State.reaimEff (gs : Nat) (s : State) (e : Eff) : List Eff × State :=
  match e with
  | .greg .. => ([e], s)
  | .write pa bs | .remote pa bs | .edge pa bs =>
    (splitPage pa bs).foldl (fun (r : List Eff × State) p =>
      let q := r.2.aimed gs p.1
      (r.1 ++ [if q.1 = p.1 then (match e with
        | .remote .. => .remote p.1 p.2
        | .edge .. => .edge p.1 p.2
        | _ => .write p.1 p.2) else ({ q.2 with fs := gs } : State).effFor q.1 p.2], q.2)) ([], s)

/-- The writes of a singleton where their pages are at its place (R346). -/
def State.reaim (s : State) (gs : Nat) (effs : List Eff) : List Eff × State :=
  if (s.thread gs).aims = [] then (effs, s)
  else effs.foldl (fun (r : List Eff × State) e => let q := State.reaimEff gs r.2 e; (r.1 ++ q.1, q.2)) ([], s)

/-- A singleton of a slot that arrived in a cycle takes its place (R247, R250, R256, R274, R346, R349): it is gone from what the thread has
outstanding, and its writes are performed where their pages are now; or it waits. -/
def State.placeSingle (s : State) (gs cyc : Nat) (effs : List Eff) (upd : Thread → Thread) : State :=
  match s.gate gs kindSingle 1 with
  | .diverge e => s.divergence gs kindSingle 1 e
  | _ =>
    let r := s.reaim gs effs
    if !s.singleDecidable gs then s
    else if s.mayPlace gs cyc r.1 then
      let t := upd (r.2.thread gs)
      ((r.2.setThread gs { t with
        ent := if t.det then t.ent + 1 else t.ent, aims := if t.drained then [] else t.aims }).performSingle gs r.1).sawShared gs
    else s.backInvalidate (itemsOf r.1)

/-- `STORE_GLOBALLY_PERFORMED` (R26, R119, R256): the next singleton of the oldest counted store takes its place, in the order of arrival
(R250), in a deterministic launch at its key place (R298); with its last one, SC falls. The pushes of such a launch take theirs so too. -/
def execStoreGloballyPerformed (gs : Nat) (s : State) : Outcome :=
  let t := s.thread gs
  if !s.runs gs then .next s
  else
    match t.stores, t.pushes with
    | [] :: rest, _ => .next (s.setThread gs { t with stores := rest, arrivals := t.arrivals.drop 1 })
    | (effs :: more) :: rest, _ =>
      .next (s.placeSingle gs (t.arrivals.headD s.cycle) effs (fun t => { t with
        stores := if more = [] then rest else more :: rest, arrivals := if more = [] then t.arrivals.drop 1 else t.arrivals }))
    | [], effs :: more => .next (s.placeSingle gs s.cycle effs (fun t => { t with pushes := more }))
    | [], [] => .next s

/-- The next element of a read stream, read ahead of its pop, with its line and the translation lines used; none where it would fault
(R138, R139, R346). -/
def State.prefetch (s : State) (gs : Nat) (b : Stream) : Option Ahead :=
  let i := b.pos + b.ahead.length
  let sz := 2 ^ b.sz
  let va := b.elemAddr i
  let t := s.thread gs
  if b.write || decide (b.total ≤ i) || va.toNat % sz != 0 then none
  else
    match s.translate t.vf t.asid t.level va .read with
    | .ok x =>
      if x.pte.all (fun p => bit (s.dwordAt p) 7) && (isHbm x.addr || (isSpad x.addr && spadCore x.addr / 8 == clusterOf gs) ||
          isHost x.addr) && !s.viewPoison gs x.addr sz && !s.remotePending x.addr sz then
        some ⟨s.viewNat gs x.addr sz, lineOf x.addr, x.lines⟩
      else none
    | .error _ => none

/-- `STREAM_PREFETCH_ARRIVAL` (R138): in chunked mode, an element ahead of the position arrives at its engine; none in a deterministic
launch, whose elements observe every store issued before their pops (R301). -/
def execStreamPrefetchArrival (gs port : Nat) (s : State) : Outcome :=
  let t := s.thread gs
  if t.live ∧ s.runs gs ∧ !t.directMode ∧ !t.det then
    match t.a.stream port with
    | some b =>
      match s.prefetch gs b with
      | some e =>
        let s1 := ((s.walkLines t.vf e.trans).countFetch t.vf e.line).cohAsk (dieOf gs) e.line (s.partOf gs)
        .next (s1.setThread gs
          { s1.thread gs with a := { t.a with ports := mput t.a.ports port (.stream { b with ahead := b.ahead ++ [e] }) } })
      | none => .next s
    | none => .next s
  else .next s

/-- The store goes to a cluster that takes it now: one that is stopped parks it (R326). -/
def State.remoteDue (s : State) (pa : Nat) : Bool := !isParked pa && s.answers (64 * spadCore pa)

/-- `REMOTE_STORE_MESSAGE` (R274): the oldest store on its way to another cluster's scratchpad is written to its bank; stores to a
stopped cluster wait parked, in the order they came (R326, R330). -/
def execRemoteStoreMessage (s : State) : Outcome :=
  match s.remotes.find? (fun r => s.remoteDue r.1) with
  | some (pa, bs) =>
    .next ({ s with remotes := s.remotes.erase (pa, bs) }.store none pa bs)
  | none => .next s

end Sys2Proof.Machine
end

