-- ==== Sys2Proof/Machine/Traffic.lean ====
section
/-!
DEFINITION. The steps of messages, homes, edge writes and edge atomics, sleeps, coherence messages, the matrix unit and the
reduction network (R128 to R133, R144 to R149, R189, R190, R217 to R222, R258, R260, R271, R272).
-/

namespace Sys2Proof.Machine

/-! Messages (R217, R218, R220). -/

/-- The message with an identifier. -/
def State.msgOf (s : State) (mid : Nat) : Option Msg := s.msgs.find? (fun m => m.id == mid)

/-- The message is for a cluster that is stopped: it parks (R326). -/
def State.parkedMsg (s : State) (m : Msg) : Bool :=
  match s.targetPlace m.vf m.lid (coreOf m.gs) m.word with
  | some (gc, _) => !s.answers (64 * gc)
  | none => false

/-- What stands parked for the same cluster before a message: messages and remote stores (R326, R327). -/
def State.parkedBefore (s : State) (m : Msg) : Nat :=
  match s.targetPlace m.vf m.lid (coreOf m.gs) m.word with
  | some (gc, _) =>
    (s.msgs.filter (fun x => decide (x.id < m.id) && (x.state == .flying || x.state == .resent) &&
      ((s.targetPlace x.vf x.lid (coreOf x.gs) x.word).map (fun p => p.1 / 8)) == some (gc / 8))).length +
      (s.remotes.filter (fun r => spadCore r.1 / 8 == gc / 8)).length
  | none => 0

/-- `MESSAGE_ARRIVAL` (R217): a payload reaches its queue, in the order of its sender; a full queue or an absent receiver
answers (R218, R220). -/
def execMessageArrival (mid : Nat) (s : State) : Outcome :=
  match s.msgOf mid with
  | some m =>
    if (m.state ≠ .flying ∧ m.state ≠ .resent) ∨ !s.msgFirst m then .next s
    else if s.parkedMsg m then
      -- the parking queue holds 16,384 flits; beyond that a message meets a full reply (R327)
      if 16384 ≤ s.parkedBefore m then .next (s.setMsg m.id m.turnedAway) else .next s
    else .next (s.msgArrive m)
  | none => .next s

/-- `FULL_REPLY` (R218): the full reply reaches the sender, which leaves rotation. -/
def execFullReply (mid : Nat) (s : State) : Outcome :=
  match s.msgOf mid with
  | some m => if m.state = .full ∧ s.answers m.gs then .next (s.setMsg mid .held) else .next s
  | none => .next s

/-- The receiver of a message would take it, or is no longer there. -/
def State.wouldTake (s : State) (m : Msg) : Bool :=
  match s.msgPort m with
  | some (gs, port) => (s.arrive gs port m.payload).isSome
  | none => !s.absentFor m

/-- `MESSAGE_RESEND` (R218): once space appears, the sender's refused messages are resent, in order; it stays out of rotation until they are
accepted. -/
def execMessageResend (gs : Nat) (s : State) : Outcome :=
  .next { s with msgs := s.msgs.map (fun (m : Msg) =>
    if m.gs = gs ∧ m.state = .held ∧ s.runs gs ∧ !s.parkedMsg m ∧ s.wouldTake m then { m with state := .resent } else m) }

/-- `MESSAGE_REFUSAL` (R220): the refusal returns to the sender, or to its function's kernel when it no longer runs. -/
def execMessageRefusal (mid : Nat) (s : State) : Outcome :=
  match s.msgOf mid with
  | some m =>
    if m.state = .refused ∧ s.answers m.gs then
      let s1 := { s with msgs := s.msgs.filter (fun (x : Msg) => x.id != mid) }
      let t := s1.thread m.gs
      if t.live ∧ t.uid = m.uid ∧ !t.stopping then
        .next (s1.setThread m.gs { t with refused := t.refused ++ [(m.word, m.payload)] })
      else
        match m.vf with
        | some v => .next (s1.postKernel v 6 0 [m.word, m.payload])
        | none => .next s1
    else .next s
  | none => .next s

/-! Homes of reservations (R130, R133). -/

/-- The slot holds a reservation of the word. -/
def State.holderOf (s : State) (pa : Nat) : Bool :=
  s.threads.any (fun p => p.2.live && (match p.2.resv with | some r => r.pa == pa | none => false)) ||
    s.away.any (fun a => match a.t.resv with | some r => r.pa == pa | none => false)

/-- `QRES_HEAD` (R130, R133): the request at the head of a free word's queue is served, in a deterministic launch at its key place (R299),
once no remote store is on its way to the word's line (R274); from then on no cache holds the line (R132). -/
def execQresHead (pa : Nat) (s : State) : Outcome :=
  let h := mgetD s.homes pa ⟨[], false⟩
  match h.queue with
  | gs :: rest =>
    let t := s.thread gs
    match t.hold with
    | some (.qresWait _ n) =>
      if s.holderOf pa ∨ s.remotePending pa n ∨ (t.det ∧ !s.keyTurn gs) then .next s
      else if h.broken then
        let s1 := { s.cohDrop (lineOf pa) with homes := mput s.homes pa ⟨rest, false⟩ }
        .next (s1.setThread gs { t with hold := some (.qresReply 0 true), resv := some ⟨pa, n, true, s.natAt pa n⟩ })
      else if s.poisoned (pa / 8) then
        let s1 := { s with homes := mput s.homes pa ⟨rest, true⟩ }
        .next (s1.setThread gs { t with hold := some .qresPoison })
      else
        let s1 := { s.cohDrop (lineOf pa) with homes := mput s.homes pa ⟨rest, false⟩ }
        .next (s1.setThread gs { t with hold := some (.qresReply (BitVec.ofNat 64 (s.natAt pa n)) false), resv := some ⟨pa, n, false, s.natAt pa n⟩ })
    | _ => .next s
  | [] => .next s

/-- `QREL_ACK` (R130): the home acknowledges a release. -/
def execQrelAck (gs : Nat) (s : State) : Outcome :=
  let t := s.thread gs
  match t.hold with
  | some (.qrelWait _) => .next (s.setThread gs { t with hold := some .qrelDone })
  | _ => .next s

/-! Edge atomics and edge writes (R128, R129, R144, R260). -/

/-- `EDGE_ATOMIC_AT_HOME` (R128, R129, R250): performed at the home of its address, one singleton of the order in the package or at the host; a
peer part that a route leads to performs it, or answers with a fault or with poison (R342, R405). -/
def execEdgeAtomicAtHome (gs : Nat) (s : State) : Outcome :=
  let t := s.thread gs
  match t.hold with
  | some (.edgeWait pa n op v ret) =>
    let answer (s : State) (a : EdgeAnswer) : State := s.setThread gs { s.thread gs with hold := some (.edgeDone a ret) }
    let bs := leBytes n (atomicOp op n (s.natAt pa n) v)
    if s.remotePending pa n then .next s
    else if isPeer pa then
      if !s.peerUp (peerDev pa) then .next s else
      match peerFault s.fresh pa with
      | some .dataPoison => .next ({ answer s .poison with fresh := s.fresh + 1 })
      | some c => .next ({ answer s (.fault c) with fresh := s.fresh + 1 })
      | none => .next ({ answer (s.setBytes pa bs) (.old (s.natAt pa n)) with fresh := s.fresh + 1 })
    else if s.poisoned (pa / 8) then .next (answer s .poison)
    else
      match s.gate gs kindSingle 1 with
      | .wait => .next s
      | .diverge e => .next (s.divergence gs kindSingle 1 e)
      | .go =>
        match s.requestWait (s.singleReq gs s.cycle [.write pa bs]) with
        | some w => .next w
        | none =>
        let s1 := s.noteGrant gs kindSingle 1 (s.levelOf gs kindSingle (linesOf pa n))
        .next (answer (if isHost pa then s1.performAll none [.edge pa bs] else s1.performAll (some gs) [.write pa bs]) (.old (s.natAt pa n)))
  | _ => .next s

/-- `EDGE_ATOMIC_RESPONSE` (R128). -/
def execEdgeAtomicResponse (gs : Nat) (s : State) : Outcome :=
  let t := s.thread gs
  match t.hold with
  | some (.edgeDone v _) => .next (s.setThread gs { t with hold := some (.edgeReply v), edges := t.edges - 1 })
  | _ => .next s

/-- An edge write is no longer on its way: its thread counts one fewer (R144). -/
def State.edgeGone (s : State) (e : EdgeWrite) : State :=
  let t := s.thread e.gs
  let s1 := { s with edges := s.edges.filter (fun (x : EdgeWrite) => x.id != e.id) }
  if e.copy = none ∧ t.uid = e.uid then s1.setThread e.gs { t with edges := t.edges - 1 } else s1

/-- `EDGE_WRITE_ACK` (R260): the host, or the peer that a route leads to (R405), has written the piece whole, and acknowledges it; the part's
view of host memory has held it since its commit (R267). -/
def execEdgeWriteAck (eid : Nat) (s : State) : Outcome :=
  match s.edges.find? (fun e => e.id == eid) with
  | some e =>
    if isPeer (64 * e.piece) && !s.peerUp (peerDev (64 * e.piece)) then .next s else
    let s1 := if isPeer (64 * e.piece) then e.bytes.foldl (fun (s : State) (p : Nat × Byte) => s.setByte p.1 p.2) s else s
    .next (s1.edgeGone e)
  | none => .next s

/-- `EDGE_WRITE_REFUSED` (R260): a peer refuses the piece, which is dropped; error records of KIND 7 report it (R401, R402). -/
def execEdgeWriteRefused (eid : Nat) (s : State) : Outcome :=
  match s.edges.find? (fun e => e.id == eid) with
  | some e =>
    if isPeer (64 * e.piece) && s.peerUp (peerDev (64 * e.piece)) then
      let a := 64 * e.piece
      let body : List Word := [BitVec.ofNat 64 (2 ^ 32 + 1 * 2 ^ 8 + 7), BitVec.ofNat 64 (a % 2 ^ 52),
        BitVec.ofNat 64 ((a / 2 ^ 52 - 1) / 256)]
      let s1 := s.edgeGone e
      let s2 := s1.postHyper 10 ((s1.partOf e.gs).getD 31) (e.vf.getD 0) (e.gs % 2 ^ 18) body
      match e.vf with
      | some v => .next (s2.postKernel v 10 (((mget s2.vfs v).map (VFunc.placeOf · e.gs)).getD 0) body)
      | none => .next s2
    else .next s
  | none => .next s

/-! Sleeps (R147, R149). -/

/-- A sleep whose timeout has passed gets its result; that of a deterministic launch, which counts entries and not cycles, gets it when its
unit issues at its key place (R299). -/
def State.sleepOut (s : State) (gs : Nat) (watch : Bool) : State :=
  let t := s.thread gs
  match t.hold with
  | some (.sleep w (some d)) =>
    if w = watch ∧ s.runs gs ∧ !t.det ∧ d ≤ s.cycle then
      s.setThread gs { t with
        hold := some (.sleepDone (sleepWord t.intPending true (watch && t.ready) (if watch then 0 else t.hits))) }
    else s
  | _ => s

/-- `MONW_TIMEOUT` (R147). -/
def execMonwTimeout (gs : Nat) (s : State) : Outcome := .next (s.sleepOut gs false)
/-- `WSLEEP_TIMEOUT` (R149). -/
def execWsleepTimeout (gs : Nat) (s : State) : Outcome := .next (s.sleepOut gs true)

/-! Coherence messages (Table 11.4, R271, R272). -/

/-- `READS` (R271). -/
def execReads (die line : Nat) (s : State) : Outcome := .next (s.doReads die line)
/-- `READM` (R271). -/
def execReadm (die line : Nat) (s : State) : Outcome := .next (s.doReadm die line)
/-- `FWD` (R271). -/
def execFwd (owner die line : Nat) (s : State) : Outcome := .next (s.doFwd owner die line)
/-- `DATA` (R271). -/
def execData (die line : Nat) (s : State) : Outcome := .next (s.doData die line)
/-- `WBACK` (R271, R272). -/
def execWback (die line : Nat) (s : State) : Outcome := .next (s.doWback die line)
/-- `ACK` (R271). -/
def execAck (die line : Nat) (s : State) : Outcome := .next (s.doAck die line)
/-- `INV` (R271). -/
def execInv (die line : Nat) (s : State) : Outcome := .next (s.doInv die line)
/-- `BINV` (R272). -/
def execBinv (die line : Nat) (s : State) : Outcome := .next (s.doBinv die line)

/-! The matrix unit (R189 to R191). -/

/-- Where a sub-queue stands in the weighted round robin: from the place after the last acceptance (log entry 74). -/
def State.wrrPlace (s : State) (pc key : Nat) : Nat :=
  let k := key % 256
  let w := mgetD s.wrr pc 0 % 256
  if w ≤ k then k - w else k + 256 - w

/-- The head of a sub-queue. -/
def State.headOf (s : State) (key : Nat) : Option MatCmd := (mgetD s.matq key []).head?

/-- Another head that could start and conflicts comes next in the round robin (R191). -/
def State.headBefore (s : State) (pc key : Nat) : Bool :=
  match s.headOf key with
  | some c =>
    (s.clusterQueues pc).any (fun p => p.1 != key && s.acceptable pc p.1 && decide (s.wrrPlace pc p.1 < s.wrrPlace pc key) &&
      (match s.headOf p.1 with | some d => c.conflicts d | none => false))
  | none => false

/-- `MATRIX_COMMAND_ACCEPT` (R189, R190): the head of a sub-queue starts. -/
def execMatrixCommandAccept (cl sq : Nat) (s : State) : Outcome :=
  if sq / 256 = cl ∧ s.clusterRuns cl ∧ s.acceptable cl sq ∧ !s.headBefore cl sq then .next (s.acceptCmd cl sq) else .next s

/-- `MATRIX_COMMAND_COMPLETE` (R190). -/
def execMatrixCommandComplete (cl sq : Nat) (s : State) : Outcome :=
  if sq / 256 = cl ∧ s.clusterRuns cl ∧ s.completable cl sq then .next (s.completeCmd cl sq) else .next s

/-! The reduction network (R77, R222). -/

/-- The children of a node of a tree: they name the node's slot as their parent. -/
def State.childNodes (s : State) (n : Node) : List Node :=
  s.nodes.filter (fun m => !m.root && m.vf == n.vf && m.tree == n.tree && m.parent == n.gs)

/-- Child c of a node; one whose thread has ended with its contribution made comes before those that have come since. -/
def State.childNode (s : State) (n : Node) (c : Nat) : Option Node := (s.childNodes n).find? (fun m => m.cix == c)

/-- A node's thread still stands at its slot, or is off it for a handover. -/
def State.nodeStands (s : State) (n : Node) : Bool := (s.thread n.gs).uid == n.uid || s.away.any (fun a => a.t.uid == n.uid)

/-- No child of a node lies above its NCH, and no two share a CIX: a tree that breaks this never completes a round (R221). -/
def State.childrenOk (s : State) (n : Node) : Bool :=
  (s.childNodes n).all (fun m => decide (m.cix ≤ n.nch)) &&
    decide ((((s.childNodes n).filter s.nodeStands).map (·.cix)).Nodup)

/-- A node's value and a child's in one: by the node's operation where their formats agree (R77, R222); the spec states no result
where they differ (log entry 46). -/
def treeJoin (fmt op : Nat) (own : List Nat) (child : Nat × List Nat) : List Nat :=
  if child.1 = fmt then treeZip fmt op own child.2
  else (List.range (max own.length child.2.length)).map (fun j =>
    Config.mixedElem fmt j own child.2 % 2 ^ (8 * 2 ^ cfmtLog fmt))

/-- The value of a node: its own contribution, then its children's in ascending order; none while one is missing or not in its place. Format and
operation are those of the node's own contribution. A tree is no deeper than its nodes are many. -/
def State.nodeValue : Nat → State → Node → Option (Nat × List Nat)
  | 0, _, _ => none
  | fuel + 1, s, n =>
    match (if s.childrenOk n then n.contrib else none) with
    | none => none
    | some (fmt, op, vs) =>
      (List.range n.nch).foldl (fun (acc : Option (Nat × List Nat)) c =>
        match acc, (s.childNode n (c + 1)).bind (s.nodeValue fuel) with
        | some a, some v => some (fmt, treeJoin fmt op a.2 v)
        | _, _ => none) (some (fmt, vs))

/-- A total as doublewords, elements packed from the low byte (R222). -/
def totalWords (fmt : Nat) (vs : List Nat) : List Word :=
  let bs := vs.flatMap (fun v => leBytes (2 ^ cfmtLog fmt) v)
  (List.range ((bs.length + 7) / 8)).map (fun i => BitVec.ofNat 64 (leNat ((bs.drop (8 * i)).take 8)))

/-- A running command has steps to receive: the cluster's unit makes a round (R189). -/
def State.roundDue (s : State) (pc : Nat) : Bool := s.clusterRuns pc && (s.runningCmds pc).any (fun c => c.left != 0)

/-- Deliver doublewords to a slot's p15 while they find room; what is left waits (R218). -/
def State.deliverWords : State → Nat → List Word → State × List Word
  | s, _, [] => (s, [])
  | s, gs, w :: ws =>
    match s.arrive gs 15 w with
    | some s1 => s1.deliverWords gs ws
    | none => (s, w :: ws)

/-- The nodes below a node, itself included. -/
def State.subtree : Nat → State → Node → List Nat
  | 0, _, n => [n.uid]
  | fuel + 1, s, n => n.uid :: (List.range n.nch).flatMap (fun c =>
      match s.childNode n (c + 1) with
      | some m => s.subtree fuel m
      | none => [])

/-- `REDUCTION_ROUND_DELIVER` (R222): when every node of a tree has contributed, the root delivers the total to its own p15;
with its last doubleword the round is over. -/
def execReductionRoundDeliver (vf tree : Nat) (s : State) : Outcome :=
  match s.nodes.find? (fun n => n.vf == vf && n.tree == tree && n.root && (s.thread n.gs).uid == n.uid) with
  | none => .next s
  | some n =>
    let words : Option (List Word) :=
      match n.out with
      | some ws => some ws
      | none => (s.nodeValue (s.nodes.length + 1) n).map (fun v => totalWords v.1 v.2)
    match words with
    | none => .next s
    | some ws =>
      let r := s.deliverWords n.gs ws
      let upd (m : Node) : Node := if m.uid = n.uid ∧ m.tree = tree then { m with out := some r.2 } else m
      if r.2 = [] then
        let us := s.subtree (s.nodes.length + 1) n
        let clear (m : Node) : Node :=
          if m.tree = tree ∧ m.vf = vf ∧ m.uid ∈ us then { m with contrib := none, out := none } else m
        let ns := (s.nodes.map clear).filter (fun m =>
          m.contrib.isSome || m.out.isSome || ((s.thread m.gs).uid == m.uid && (s.thread m.gs).live))
        .next { r.1 with nodes := ns }
      else .next { r.1 with nodes := r.1.nodes.map upd }

end Sys2Proof.Machine
end

