-- ==== Sys2Proof/Machine/Sched.lean ====
section
/-!
DEFINITION. The hardware scheduler: queues, launches, groups, children, tasks, passed-over waits, completion
(R284 to R304, R323, R370, R412).
-/

namespace Sys2Proof.Machine

/-! Queues (R284 to R287, R370). -/

/-- A queue descriptor (Table 14.1). -/
structure QDesc where
  pa : Nat
  ring : Word
  ctl : Word
  head : Nat
  tail : Nat
deriving DecidableEq, Repr

/-- The descriptor of a queue of a function. -/
def State.qdesc (s : State) (v : VFunc) (q : Nat) : QDesc :=
  let pa := v.pa (v.qtab + 32 * q)
  ⟨pa, s.dwordAt pa, s.dwordAt (pa + 8), (s.dwordAt (pa + 16)).toNat, (s.dwordAt (pa + 24)).toNat⟩

def QDesc.rlog (d : QDesc) : Nat := bits d.ctl 4 0
def QDesc.prio (d : QDesc) : Nat := bits d.ctl 9 8
def QDesc.np (d : QDesc) : Bool := bit d.ctl 10
/-- Records appended and not taken, modulo 2^64. -/
def QDesc.count (d : QDesc) : Nat := (d.tail + 2 ^ 64 - d.head) % 2 ^ 64
/-- The descriptor is enabled and well formed (R284). -/
def QDesc.ok (d : QDesc) : Bool :=
  bit d.ctl 11 && bits d.ctl 63 12 == 0 && bits d.ctl 7 5 == 0 && bits d.ring 63 57 == 0 && bits d.ring 6 0 == 0 &&
    decide (1 ≤ d.rlog ∧ d.rlog ≤ 16) && decide (d.count ≤ 2 ^ d.rlog)

/-- The key of a queue. -/
def qKey (vf q : Nat) : Nat := 64 * vf + q

/-- The priority of a queue by its key. -/
def State.qPrio (s : State) (k : Nat) : Nat :=
  match mget s.vfs (k / 64) with
  | some v => (s.qdesc v (k % 64)).prio
  | none => 3

/-- The queue holds a hardware queue slot. -/
def State.mapped (s : State) (k : Nat) : Bool := s.qmap.any (fun m => qKey m.vf m.q == k)

/-- A queue-error event (TYPE 3): the queue, a cause code and an address. -/
def State.queueError (s : State) (vf q code : Nat) (va : Word) : State :=
  s.postKernel vf 3 0 [BitVec.ofNat 64 q, BitVec.ofNat 64 code, va]

/-- A free hardware queue slot within the function's quota, and within the 1,024 of the package (R285, R286). -/
def State.qFree (s : State) (v : VFunc) (vf : Nat) : Bool :=
  decide ((s.qmap.filter (fun m => m.vf == vf)).length < v.qsl) && decide (s.qmap.length < 1024)

/-- Map a queue: its ASID is read from the QAT; an ASID outside the function's range makes the queue empty (R370). -/
def State.mapQueue (s : State) (v : VFunc) (vf q : Nat) : State :=
  let asid := s.natAt (v.pa (v.vcba + 128 + 2 * q)) 2
  if v.abase ≤ asid ∧ asid < v.abase + v.acnt then
    { s with qmap := s.qmap ++ [⟨vf, q, asid⟩], qlast := qKey vf q }
  else { s with qpend := s.qpend.filter (fun k => k != qKey vf q) }.queueError vf q 0 0

/-- The mapped queue that gives up its slot to one of a higher priority (R285 step 4). -/
def State.victim (s : State) (v : VFunc) (vf prio : Nat) : Option QSlot :=
  let cs := s.qmap.filter (fun m => m.vf == vf && !(s.qdesc v m.q).np && decide (prio < (s.qdesc v m.q).prio))
  cs.foldl (fun (b : Option QSlot) m =>
    match b with
    | none => some m
    | some x =>
      let pm := (s.qdesc v m.q).prio
      let px := (s.qdesc v x.q).prio
      if px < pm ∨ (px = pm ∧ x.q < m.q) then some m else some x) none

/-- How far a key stands after another in a round robin. -/
def after (last k : Nat) : Nat := if last < k then k - last else k + 2 ^ 14 - last

/-- The pending unmapped queue that gets a free slot: of the highest priority, equal ones in round robin after the queue mapped last
(R286). -/
def State.nextPending (s : State) : Option Nat :=
  (s.qpend.filter (fun k => !s.mapped k && (match mget s.vfs (k / 64) with
    | some v => s.qFree v (k / 64)
    | none => false))).foldl (fun (b : Option Nat) k =>
      match b with
      | none => some k
      | some x =>
        if s.qPrio k < s.qPrio x ∨ (s.qPrio k = s.qPrio x ∧ after s.qlast k < after s.qlast x) then some k else some x) none

/-- A slot has become free: pending queues are mapped while there is one that may be; one whose ASID is out of range is empty, and leaves
the slot to the next (R286, R370). -/
def State.mapPending : Nat → State → State
  | 0, s => s
  | n + 1, s =>
    match s.nextPending with
    | some k => match mget s.vfs (k / 64) with
      | some v => State.mapPending n (s.mapQueue v (k / 64) (k % 64))
      | none => s
    | none => s

/-- A notify of a queue (R285); a slot that its mapping leaves free goes to another pending queue (R286). -/
def State.notify (s : State) (vf q0 : Nat) : State :=
  let q := q0 % 64
  match mget s.vfs vf with
  | none => s
  | some v =>
    let k := qKey vf q
    let s1 := if k ∈ s.qpend then s else { s with qpend := s.qpend ++ [k] }
    if s1.mapped k then s1
    else if s1.qFree v vf then s1.mapQueue v vf q
    else
      match s1.victim v vf (s1.qdesc v q).prio with
      | some m => ({ s1 with qmap := s1.qmap.filter (fun x => x != m) }.mapQueue v vf q).mapPending s1.qpend.length
      | none =>
        (s1.postKernel vf 2 0 [BitVec.ofNat 64 q]).postHyper 2 v.part vf 0 [BitVec.ofNat 64 q]

/-- `QUEUE_NOTIFY` (R285). -/
def execQueueNotify (vf q : Nat) (s : State) : Outcome := .next (s.notify vf q)

/-- The queue is empty: it releases its slot and its pending bit is cleared (R286). -/
def State.releaseQueue (s : State) (k : Nat) : State :=
  ({ s with qmap := s.qmap.filter (fun m => qKey m.vf m.q != k), qpend := s.qpend.filter (fun x => x != k) } : State).mapPending
    s.qpend.length

/-! Head records (R287 to R289). -/

/-- What stands at the head of a mapped queue. -/
inductive Head where
  /-- Nothing, or the descriptor is treated as empty; `true` when it is in error. -/
  | empty (bad : Bool)
  /-- Its wait events are not met, the previous record's core groups have not all started, or a page is to be pulled first. -/
  | blocked (pull : Option (Nat × Nat))
  /-- The record itself cannot be read. -/
  | unreadable (t : Trap)
  /-- A record with its status, and the fault of a wait event that gave it (R288). -/
  | record (asid : Nat) (r : List Word) (status : Nat) (fault : Option Trap)
deriving DecidableEq, Repr

/-- The scheduler's translation of an address that it reads: a kernel-level access of the context, which sets A (R339, R412). With `fetch`
the lines that the read brings into the part are counted (R351); a read of what the scheduler watches (R289) is counted once, when it is
used. -/
def State.schedXlat (s : State) (fetch : Bool) (vf asid : Nat) (va : Word) : Except Stop (Nat × State) :=
  if fetch then (s.engineXlat (some vf) asid 1 va .read).map (fun r => (r.1, r.2.countFetch (some vf) (lineOf r.1)))
  else
    match ({ s with fs := noSlot } : State).translate (some vf) asid 1 va .read with
    | .error e => .error e
    | .ok x => .ok (x.addr, match x.pte with
      | some p => { ({ s with fs := noSlot }.setAD p .read) with fs := s.fs }
      | none => s)

/-- A doubleword that the scheduler reads at a virtual address of a context (R412). Poison, of which no rule of the scheduler speaks, is taken
as a translation fault is (DESIGN CHOICE, log entry 89). -/
def schedRead (fetch : Bool) (vf asid : Nat) (va : Word) : M Word := fun s =>
  match s.schedXlat fetch vf asid va with
  | .error e => .error e
  | .ok (pa, s1) => if s1.poisoned (pa / 8) then .error (xFault .dataPoison .read 0 va) else .ok (s1.dwordAt pa, s1)

/-- A launch record, read as one singleton (R288). -/
def readRecord (fetch : Bool) (m : QSlot) (base : Word) : M (List Word) :=
  (List.range 16).mapM (fun i => schedRead (fetch && i == 0) m.vf m.asid (base + BitVec.ofNat 64 (8 * i)))

/-- Every used wait event of a record is met (R289). -/
def eventsMet (fetch : Bool) (m : QSlot) (r : List Word) : M Bool :=
  (List.range 4).foldlM (fun (b : Bool) i =>
    if lrEvAddr r i = 0 then pure b
    else do
      let c ← schedRead fetch m.vf m.asid (lrEvAddr r i)
      pure (b && decide ((lrEvTgt r i).toNat ≤ c.toNat))) true

/-- Every core group of the queue's earlier launches has started (R287). -/
def State.queueClear (s : State) (vf q : Nat) : Bool :=
  s.launches.all (fun p => !(p.2.vf == vf && p.2.queue == q) || p.2.ending != 0 || decide (p.2.begun = lrGroups p.2.record))

/-- What stands between the scheduler and a head: a page to be pulled, or something else that it waits for. -/
def Stop.blocks : Stop → Head
  | .hold (.pull f p) => .blocked (some (f, p))
  | _ => .blocked none

/-- The head of a mapped queue, and the state after the scheduler has looked at it (R287, R288, R289); it does so once every core group of
the record before has started. -/
def State.headOfQueue (s : State) (fetch : Bool) (m : QSlot) : Head × State :=
  match mget s.vfs m.vf with
  | none => (.empty false, s)
  | some v =>
    let d := s.qdesc v m.q
    if v.mstate = 4 ∧ v.qtab < v.sbound ∧ !s.present v v.qtab then (.blocked (some (m.vf, v.qtab / 65536)), s)
    else if !s.queueClear m.vf m.q then (.blocked none, s)
    else if !d.ok then (.empty true, s)
    else if d.count = 0 then (.empty false, s)
    else
      match readRecord fetch m (addr57 (d.ring + BitVec.ofNat 64 (128 * (d.head % 2 ^ d.rlog)))) s with
      | .error (.trap t) => (.unreadable t, s)
      | .error e => (e.blocks, s)
      | .ok (r, s1) =>
        if !lrValid r then (.record m.asid r 2 none, s1)
        else
          match eventsMet fetch m r s1 with
          | .error (.trap t) => (.record m.asid r 5 (some t), s1)
          | .error e => (e.blocks, s1)
          | .ok (b, s2) => (if b then .record m.asid r 0 none else .blocked none, s2)

/-- The head of a queue can start now, or can be taken from its queue. -/
def Head.startable : Head → Bool
  | .record .. | .unreadable _ => true
  | _ => false

/-! Resources (R290, R291). -/

/-- Clusters of a function that its partition owns (R365); one that is stopped for a bale stays its own, wherever the bale will stand again. -/
def State.ownClusters (s : State) (v : VFunc) : List Nat :=
  match mget s.parts v.part with
  | some p => v.cmap.filter (fun pc => p.ownsCluster pc || (mget s.stops (pc - clusterCount)).any (fun b => decide (clusterCount ≤ pc) && b.part == v.part))
  | none => []

/-- Clusters a launch of a function may use now: those of its own that run (R365, R326). -/
def State.launchClusters (s : State) (v : VFunc) : List Nat :=
  (s.ownClusters v).filter (fun pc => decide (pc < clusterCount) && s.clusterRuns pc)

/-- Places in the order in which the scheduler tries them, a choice that is not architectural (R291): those that the state
prefers first, the rest in ascending order (log entry 44). Cores stand in `prefer` as they are, slots from 2^20, window bases in
eighths from 2^30. -/
def State.inOrder (s : State) (tag : Nat) (l : List Nat) : List Nat :=
  let first := ((s.prefer.filter (fun x => decide (tag ≤ x))).map (fun x => x - tag)).filter (fun x => x ∈ l)
  first.dedup ++ l.filter (fun x => !(x ∈ first))

/-- Slots of a core that the partition owns, in the order in which they are taken. -/
def State.ownedSlots (s : State) (part gc : Nat) : List Nat :=
  s.inOrder (2 ^ 20) ((List.range 64).map (fun n => 64 * gc + n) |>.filter (fun gs => s.partOf gs == some part))

/-- The slot is free for a new group: no thread is in it or stopped on it, and no ordered launch has it. -/
def State.openSlot (s : State) (gs : Nat) : Bool :=
  s.slotFree gs && s.runs gs && !s.launches.any (fun p => lrOrd p.2.record && p.2.slots.any (fun x => x.1 == gs))

/-- Slots of a core that a launch uses. -/
def State.usedBy (s : State) (lid gc : Nat) : Nat :=
  match mget s.launches lid with
  | some l =>
    if lrOrd l.record then (l.slots.filter (fun x => coreOf x.1 == gc)).length
    else ((s.launchThreads lid).filter (fun p => coreOf p.1 == gc)).length
  | none => 0

/-- Free window bases of a core for n windows of a size (R12, R13). -/
def State.freeWindows (s : State) (gc size : Nat) : Nat → List Nat → List Nat
  | 0, acc => acc
  | n + 1, acc =>
    match (s.inOrder (2 ^ 30) (List.range 256)).find? (fun i => decide (8 * i + size ≤ 2048) && s.windowFree gc (8 * i) size &&
        acc.all (fun b => decide (8 * i + size ≤ b) || decide (b + size ≤ 8 * i))) with
    | some i => s.freeWindows gc size n (acc ++ [8 * i])
    | none => acc

/-- The lowest run of free bytes of a core's scratchpad in owned banks (R291). -/
def State.freeRun (s : State) (part gc len : Nat) : Option Nat :=
  if len = 0 then some 0
  else
    let used := s.launches.flatMap (fun p => p.2.areas.filter (fun a => a.gc == gc && a.len != 0))
    (List.range (16384 - len / 16 + 1)).map (· * 16) |>.find? (fun off =>
      (List.range 32).all (fun b => decide (8192 * (b + 1) ≤ off) || decide (off + len ≤ 8192 * b) ||
        s.bankOwner (gc / 8) b == some part) &&
      used.all (fun a => decide (off + len ≤ a.off) || decide (a.off + a.len ≤ off)))

/-- A core group fits on a core now: its slots, window bases and scratchpad offset (R290, R291). -/
def State.fitCore (s : State) (lid : Nat) (l : Launch) (gc : Nat) : Option (List Nat × List Nat × Nat) :=
  let r := l.record
  let free := (s.ownedSlots l.part gc).filter (fun gs => s.openSlot gs && s.boundTo gs == some l.vf)
  let wins := s.freeWindows gc (lrWin r) (lrT r) []
  match s.freeRun l.part gc (lrSpb r) with
  | some off =>
    if lrT r ≤ free.length ∧ s.usedBy lid gc + lrT r ≤ lrSlots r ∧ wins.length = lrT r then
      some (free.take (lrT r), wins, off)
    else none
  | none => none

/-- A core group could fit on a core of the partition with nothing else on it (R296): a partition owns the same slots and banks on every core
of its clusters (R362). -/
def State.couldFit (s : State) (l : Launch) : Bool :=
  match mget s.parts l.part with
  | some p =>
    let k := (lrSpb l.record + 8191) / 8192
    decide (lrT l.record ≤ ((List.range 64).filter (fun n => bit p.slots n)).length) &&
      (List.range (33 - k)).any (fun b => (List.range k).all (fun i => p.ownsBank (b + i)))
  | none => false

/-- Cores of a cluster. -/
def coresOf (pc : Nat) : List Nat := (List.range 8).map (fun i => 8 * pc + i)

/-! The die of a block (R291). -/

/-- Bytes of a range whose frames lie in each die's stacks, page by page; absent and host pages count for none. -/
def State.rangeCount (s : State) (vf asid die : Nat) : Nat → Word → Nat → Nat
  | 0, _, _ => 0
  | fuel + 1, va, n =>
    if n = 0 then 0
    else
      let m := min n (4096 - va.toNat % 4096)
      let here := match s.translate (some vf) asid 1 va .read with
        | .ok x => if isHbm x.addr && homeDie x.addr == die then m else 0
        | .error _ => 0
      here + s.rangeCount vf asid die fuel (addr57 (va + BitVec.ofNat 64 m)) (n - m)

/-- The ranges of a block's placement map entry (R291); a fault on the map is status 5 (R288). -/
def blockRanges (l : Launch) (b : Nat) : M (List (Word × Nat)) :=
  (List.range 8).mapM (fun i => do
    let e := addr57 (lrPmap l.record + BitVec.ofNat 64 (128 * b + 16 * i))
    let base ← schedRead (i == 0) l.vf l.asid e
    let len ← schedRead false l.vf l.asid (e + 8)
    pure (addr57 base, len.toNat))

/-- The count of a block's ranges for a die. -/
def State.blockCount (s : State) (l : Launch) (rs : List (Word × Nat)) (die : Nat) : Nat :=
  (rs.map (fun p => s.rangeCount l.vf l.asid die (p.2 / 4096 + 2) p.1 p.2)).foldl (· + ·) 0

/-- Dies on which a launch's partition owns a core. -/
def State.launchDies (s : State) (l : Launch) : List Nat :=
  match mget s.parts l.part with
  | some p => (List.range 4).filter (fun d => (List.range 96).any (fun c => p.ownsCluster (96 * d + c)))
  | none => []

/-- The die chosen for a block, and whether it went in turn (R291). -/
def chooseDie (l : Launch) (b : Nat) : M (Nat × Bool) := do
  let s ← get
  let dies := s.launchDies l
  let turn := dies.getD (l.turns % dies.length) 0
  if lrPmap l.record = 0 then pure (turn, true)
  else
    let rs ← blockRanges l b
    let s ← get
    match dies.foldl (fun (m : Nat × Nat) d => if m.1 < s.blockCount l rs d then (s.blockCount l rs d, d) else m) ((0, 0) : Nat × Nat) with
    | (0, _) => pure (turn, true)
    | (_, d) => pure (d, false)

/-- Blocks of 256 die groups of a launch, and the core groups of one (R291). -/
def lrBlocks (r : List Word) : Nat := (lrD r + 255) / 256
def blockGroups (r : List Word) (b : Nat) : Nat := min 256 (lrD r - 256 * b) * lrL r * lrC r

/-! Starting groups (R290 to R292, R297). -/

/-- Group indices of a core group: GID1, GID2, GID3. -/
def groupGid (r : List Word) (g : Nat) : Nat × Nat × Nat := (g % lrC r, g / lrC r % lrL r, g / lrC r / lrL r)

/-- STATUS of a launch's threads (R292). -/
def launchStatus (r : List Word) : Word := startStatus (lrDir r) (lrUE r) (lrDet r) (lrOrd r)

/-- x2 of a thread (R292): SB + 16 × (GID0 + 1) × floor(SPB / 16T). -/
def stackTop (v : VFunc) (r : List Word) (gc off g0 : Nat) : Word :=
  if lrSpb r = 0 then 0
  else
    let lcl := (v.logical (gc / 8)).getD 0
    BitVec.ofNat 64 (spadBase + lcl * 2 ^ 21 + gc % 8 * 2 ^ 18 + off + 16 * (g0 + 1) * (lrSpb r / (16 * lrT r)))

/-- A thread of a launch as it starts. -/
def launchThread (l : Launch) (lid base : Nat) (entry : Word) (gid : List (BitVec 32)) : Thread :=
  { Thread.fresh (some l.vf) l.asid base (lrWin l.record) entry (launchStatus l.record) with gid := gid, lid := some lid }

/-- Start a core group of a launch on a core (R291, R292); an ordered launch takes its slots for tasks (R303). -/
def State.startGroup (s : State) (lid : Nat) (l : Launch) (v : VFunc) (g gc : Nat) (fit : List Nat × List Nat × Nat) : State :=
  let r := l.record
  let (g1, g2, g3) := groupGid r g
  let off := fit.2.2
  let extra := (s.ownedSlots l.part gc).filter (fun x =>
    !(x ∈ fit.1) && !l.slots.any (fun y => y.1 == x) && s.openSlot x && s.boundTo x == some l.vf)
  let b := g / (256 * lrL r * lrC r)
  let given := if lrDet r then fit.1 ++ extra.take (lrSlots r - lrT r) else fit.1
  let l1 : Launch :=
    { l with
      begun := l.begun + 1
      blocks := mput l.blocks b (mgetD l.blocks b 0 + 1)
      start := if lrOrd r then l.start else some (l.start.getD s.cycle)
      areas := l.areas ++ [⟨g, gc, off, lrSpb r⟩]
      slots := l.slots ++ given.map (fun x => (x, g))
      places := mput l.places (g3 * lrL r + g2) (gc / 8) }
  let s1 := { s with launches := mput s.launches lid l1 }
  if lrOrd r then s1
  else
    ((fit.1.zip fit.2.1).zipIdx).foldl (fun (s : State) p =>
      let gid := [BitVec.ofNat 32 p.2, BitVec.ofNat 32 g1, BitVec.ofNat 32 g2, BitVec.ofNat 32 g3]
      s.startThread p.1.1 (launchThread l1 lid p.1.2 (lrEntry r) gid) [(2, stackTop v r gc off p.2), (3, lrArg r)]) s1

/-- The die of a block, chosen now if it has not been (R291). -/
def blockDie (lid : Nat) (l : Launch) (b : Nat) : M Nat :=
  match mget l.dies b with
  | some d => pure d
  | none => do
    let (d, t) ← chooseDie l b
    modify (fun s => { s with launches := mput s.launches lid { l with dies := mput l.dies b d, turns := l.turns + t.toNat } })
    pure d

/-- Cores on which the next core group may start: those of its cluster group's cluster, or of the clusters of its die; in a
deterministic launch of clusters and cores that the launch does not use (R290). -/
def State.groupCores (s : State) (lid : Nat) (l : Launch) (v : VFunc) (g die : Nat) : List Nat :=
  let r := l.record
  let cg := g / lrC r
  let pcs := match mget l.places cg with
    | some pc => [pc]
    | none => (s.launchClusters v).filter (fun pc => pc / 96 == die &&
        (!lrDet r || (!l.places.any (fun p => p.2 == pc) &&
          decide (lrC r ≤ ((coresOf pc).filter (fun gc => (s.fitCore lid l gc).isSome)).length))))
  s.inOrder 0 ((pcs.flatMap coresOf).filter (fun gc => !(lrDet r && l.areas.any (fun a => a.gc == gc))))

/-- Start a core group on its die where it fits; none where it fits nowhere now. -/
def State.startOn (s : State) (lid : Nat) (l : Launch) (v : VFunc) (g die : Nat) : Option State :=
  ((s.groupCores lid l v g die).findSome? (fun gc => (s.fitCore lid l gc).map (fun f => (gc, f)))).map
    (fun p => s.startGroup lid l v g p.1 p.2)

/-- Start a core group of a launch: within a die in ascending order, so that a block waits where a lower one waits on its die (R291). The
blocks from b on are tried in order; `held` are the dies that a lower block waits on. -/
def startNext (lid : Nat) : Nat → Nat → List Nat → M Bool
  | 0, _, _ => pure false
  | n + 1, b, held => do
    let s ← get
    match mget s.launches lid, (mget s.launches lid).bind (fun l => mget s.vfs l.vf) with
    | some l, some v =>
      let k := mgetD l.blocks b 0
      if blockGroups l.record b ≤ k then startNext lid n (b + 1) held
      else if (s.launchDies l).all (fun d => d ∈ held) then pure false
      else
        let d ← blockDie lid l b
        if d ∈ held then startNext lid n (b + 1) held
        else
          let s1 ← get
          match s1.startOn lid ((mget s1.launches lid).getD l) v (256 * lrL l.record * lrC l.record * b + k) d with
          | some s2 =>
            set s2
            pure true
          | none => startNext lid n (b + 1) (d :: held)
    | _, _ => pure false

/-- The dies of every block of a launch. -/
def chooseDies (lid : Nat) (blocks : Nat) : M Unit :=
  (List.range blocks).forM (fun b => do
    let s ← get
    match mget s.launches lid with
    | some l => do
      let _ ← blockDie lid l b
    | none => pure ())

/-- Start every core group of a deterministic launch together, or none (R297). A cluster is taken only where all the core groups
of its cluster group fit. -/
def allGroups (lid blocks : Nat) : Nat → M Bool
  | 0 => pure true
  | n + 1 => do
    if ← startNext lid blocks 0 [] then allGroups lid blocks n else pure false

/-- The launch ends with a status, and starts nothing more. -/
def State.endLaunch (s : State) (lid status : Nat) : State :=
  match mget s.launches lid with
  | some l => { s with launches := mput s.launches lid { l with ending := status } }
  | none => s

/-- The function is being stopped or has been stopped for a migration: its queues start nothing (R377). -/
def State.migrating (s : State) (vf : Nat) : Bool :=
  match mget s.vfs vf with
  | some v => v.mstate == 2 || v.mstate == 3
  | none => false

/-- Clusters of a die that can hold a whole cluster group of a launch (R297); one whose bale is out may stand again on any die. -/
def State.dieRoom (s : State) (l : Launch) (v : VFunc) (die : Nat) : Nat :=
  if s.couldFit l then ((s.ownClusters v).filter (fun pc => pc / 96 == die || decide (clusterCount ≤ pc))).length else 0

/-- Clusters that a block of a deterministic launch needs. -/
def blockNeed (r : List Word) (b : Nat) : Nat := min 256 (lrD r - 256 * b) * lrL r

/-- The blocks of a deterministic launch that go to a die need more clusters than it has. -/
def State.dieShort (s : State) (l : Launch) (v : VFunc) (die : Nat) (bs : List Nat) : Bool :=
  decide (s.dieRoom l v die < (bs.map (blockNeed l.record)).foldl (· + ·) 0)

/-- A launch could never start on its partition (R296): no core holds a core group, or the blocks of a deterministic one find no room on the
dies that they go to, or with a placement map on any. -/
def State.cannotFit (s : State) (l : Launch) (v : VFunc) : Bool :=
  let r := l.record
  if lrDet r then
    let dies := s.launchDies l
    let bs := List.range (lrBlocks r)
    if lrPmap r = 0 then
      dies.isEmpty || dies.zipIdx.any (fun p => s.dieShort l v p.1 (bs.filter (fun b => b % dies.length == p.2)))
    else
      bs.any (fun b => dies.all (fun d => s.dieShort l v d [b])) ||
        decide ((dies.map (s.dieRoom l v)).foldl (· + ·) 0 < (bs.map (blockNeed r)).foldl (· + ·) 0)
  else (s.ownClusters v).isEmpty || !s.couldFit l

/-- The blocks of a deterministic launch have gone to dies that can never hold them (R296). -/
def State.misplaced (s : State) (lid : Nat) : Bool :=
  match mget s.launches lid, (mget s.launches lid).bind (fun l => mget s.vfs l.vf) with
  | some l, some v => (s.launchDies l).any (fun d => s.dieShort l v d ((l.dies.filter (fun p => p.2 == d)).map (·.1)))
  | _, _ => false

/-- The launch may start core groups now. -/
def State.launchOpen (s : State) (l : Launch) : Bool :=
  l.ending == 0 && decide (l.begun < lrGroups l.record) && !s.partScrubbing l.part && !s.migrating l.vf

/-- Start what a launch can start now: its next core group, of a deterministic launch all of them. -/
def startGroups (lid : Nat) (l : Launch) : M Bool :=
  let n := lrBlocks l.record
  if lrDet l.record then do
    chooseDies lid n
    allGroups lid n (lrGroups l.record)
  else startNext lid n 0 []

/-- A queue of a higher priority has a head record that can start, or a launch that can start a core group now (R287). -/
def State.outranked (s : State) (lid : Nat) (l : Launch) : Bool :=
  let p := s.qPrio (qKey l.vf l.queue)
  s.qmap.any (fun m => decide (s.qPrio (qKey m.vf m.q) < p) && !s.migrating m.vf && (s.headOfQueue false m).1.startable) ||
    s.launches.any (fun x => x.1 != lid && decide (s.qPrio (qKey x.2.vf x.2.queue) < p) && s.launchOpen x.2 &&
      (match startGroups x.1 x.2 s with | .ok (b, _) => b | .error _ => false))

/-- `CORE_GROUP_START` (R287, R291, R292, R297): the next core group starts, in a deterministic launch all of them or none; the dies that
blocks went to stay chosen. A fault on the placement map ends the launch (R288), and so do dies that cannot hold a deterministic one
(R296). -/
def execCoreGroupStart (lid : Nat) (s : State) : Outcome :=
  match mget s.launches lid with
  | none => .next s
  | some l =>
    if !s.launchOpen l ∨ s.outranked lid l then .next s
    else
      match startGroups lid l s with
      | .error (.trap t) => .next ((s.postTable t).endLaunch lid 5)
      | .error (.hold (.pull f p)) => .next (s.askPull f p)
      | .error _ => .next s
      | .ok (done, s1) =>
        if !lrDet l.record ∨ done then .next s1
        else
          match chooseDies lid (lrBlocks l.record) s with
          | .ok (_, s2) => .next (if s2.misplaced lid then s2.endLaunch lid 1 else s2)
          | .error _ => .next s

/-- The level of the part's own write is that of the package: its lines have their homes on several dies, or in host memory (Table 10.3;
log entry 11). -/
def wideItems (items : List Nat) : Bool :=
  let homes := (items.map (fun l => if isHbm (128 * l) || isSpad (128 * l) then homeDie (128 * l) else 4)).dedup
  homes.contains 4 || decide (1 < homes.length)

/-- The package commit sequence counts a grant of the part's own that the package arbiter gives (R251). -/
def State.noteOwn (s : State) (items : List Nat) : State := if wideItems items then { s with pkgSeq := s.pkgSeq + 1 } else s

/-- The part's own engine chunk or singleton at its place in the order. -/
def State.writeOwn (s : State) (effs : List Eff) : State := (s.noteOwn (itemsOf effs)).performAll none effs

/-- Raise a queue's HEAD past its record. -/
def State.raiseHead (s : State) (v : VFunc) (q : Nat) : State :=
  let d := s.qdesc v q
  s.writeOwn [partEff (d.pa + 16) (leBytes 8 (d.head + 1))]

/-- A fault of the scheduler's own access: the table-error event of a malformed entry (R338), and the queue error (R295). -/
def State.schedFault (s : State) (vf q : Nat) (t : Trap) (va : Word) : State := (s.postTable t).queueError vf q t.cause.code va

/-- Another mapped queue is served before one: it can start, and stands higher, or earlier in the round robin (R287). -/
def State.servedBefore (s : State) (k : Nat) : Bool :=
  s.qmap.any (fun x =>
    let kx := qKey x.vf x.q
    kx != k && !s.migrating x.vf && (s.headOfQueue false x).1.startable &&
      (decide (s.qPrio kx < s.qPrio k) || (s.qPrio kx == s.qPrio k && decide (after s.qserve kx < after s.qserve k))))

/-- A launch as its record begins it. -/
def Launch.start_ (m : QSlot) (part asid : Nat) (r : List Word) (status : Nat) : Launch :=
  { vf := m.vf, queue := m.q, part := part, asid := asid, record := r, begun := 0, blocks := [], start := none, exited := 0, dies := [],
    turns := 0, areas := [], slots := [], places := [], children := [], tasks := [], first := 0,
    created := lrGroups r * lrT r, idle := ([], []), ending := status }

/-- The scheduler puts the tasks that an ordered launch starts with into its pool, while the pool has entries for them (R303). -/
def State.fillPool : Nat → State → Nat → State
  | 0, s, _ => s
  | n + 1, s, lid =>
    match mget s.launches lid with
    | some l =>
      if lrOrd l.record && l.ending == 0 && decide (l.first < l.initial ∧ l.tasks.length < 2 ^ lrPlog l.record) then
        State.fillPool n (s.poolTask lid { l with first := l.first + 1 }
          { num := l.first, ts := 0, entry := lrEntry l.record, arg := 0, x3 := lrArg l.record, pool := none }) lid
      else s
    | none => s

/-- `LAUNCH_START` (R286 to R289, R295, R296): the scheduler serves a mapped queue: an empty one releases its slot; a record whose
wait events are met becomes a launch, unless a queue of a higher priority, or one earlier in the round robin, can start. -/
def execLaunchStart (vf q : Nat) (s : State) : Outcome :=
  match s.qmap.find? (fun m => m.vf == vf && m.q == q), mget s.vfs vf with
  | some m, some v =>
    let k := qKey vf q
    if s.migrating vf then .next s else
    match s.headOfQueue false m with
    | (.empty bad, _) => .next ((if bad then s.queueError vf q 0 0 else s).releaseQueue k)
    | (.blocked (some (f, p)), s1) => .next (s1.askPull f p)
    | (.blocked none, s1) => .next s1
    | (.unreadable t, _) =>
      if s.servedBefore k then .next s
      else .next (({ s with qserve := k }.raiseHead v q).schedFault vf q t t.info1)
    | (.record asid r st f, _) =>
      if s.servedBefore k then .next s
      else
        let l := Launch.start_ m v.part asid r st
        let l1 := if st = 0 ∧ s.cannotFit l v then { l with ending := 1 } else l
        let s0 := (s.headOfQueue true m).2
        let s1 := { (match f with | some t => s0.postTable t | none => s0) with qserve := k, fresh := s.fresh + 1 }.raiseHead v q
        .next (({ s1 with launches := mput s1.launches s.fresh l1 } : State).fillPool (2 ^ lrPlog r) s.fresh)
  | _, _ => .next s

/-! Children and tasks (R224, R300, R303, R304). -/

/-- The hash of a path (R300). -/
def pathHash (p : List Nat) : Nat := (pathWord p * 0x9E3779B97F4A7C15#64).toNat / 2 ^ 32

/-- The slot is one that the next child of a launch may take: in a deterministic launch the first free one from the hash's place
on; in a free launch any open one on a core of the launch within SLOTS (R300). -/
def State.childSlot (s : State) (lid : Nat) (l : Launch) (c : Child) (gs : Nat) : Bool :=
  if lrDet l.record then
    let sl := l.slots.map (·.1)
    let i := pathHash c.path % sl.length
    (sl.drop i ++ sl.take i).find? (fun x => s.openSlot x && s.boundTo x == some l.vf) == some gs
  else
    s.openSlot gs && s.boundTo gs == some l.vf && s.partOf gs == some l.part && l.slots.any (fun x => coreOf x.1 == coreOf gs) &&
      decide (s.usedBy lid (coreOf gs) < lrSlots l.record)

/-- `CHILD_START` (R224, R300): the oldest waiting child starts in a free slot of its launch. -/
def execChildStart (lid gs : Nat) (s : State) : Outcome :=
  match mget s.launches lid with
  | none => .next s
  | some l =>
    match l.children with
    | [] => .next s
    | c :: rest =>
      match s.childSlot lid l c gs && s.runs gs && !s.migrating l.vf, s.freeWindows (coreOf gs) (lrWin l.record) 1 [] with
      | true, [b] =>
        let t := { launchThread l lid b c.entry c.gid with path := c.path, parent := some c.puid, ent := c.ent }
        .next ({ s with launches := mput s.launches lid { l with children := rest } }.startThread gs t [(3, c.x3), (4, c.arg)])
      | _, _ => .next s

/-- The pending task of the lowest key, and the launch without it (R303); a task that the launch starts with and that has found no entry of a
full pool yet is taken past it. -/
def Launch.takeTask (l : Launch) : Option (Task × Launch) :=
  let init : Option Task :=
    if l.first < l.initial then
      some { num := l.first, ts := 0, entry := lrEntry l.record, arg := 0, x3 := lrArg l.record, pool := none }
    else none
  let best := l.tasks.foldl (fun (b : Option Task) x =>
    match b with
    | none => some x
    | some y => if taskBefore (x.ts.toNat, x.num) (y.ts.toNat, y.num) then some x else some y) init
  match best with
  | none => none
  | some x => some (x, if some x = init then { l with first := l.first + 1 } else { l with tasks := l.tasks.erase x })

/-- Return a running task to the pool: its uncommitted chunk is discarded (R304). -/
def State.returnTask (s : State) (lid gs : Nat) : State :=
  let t := s.thread gs
  let xs := match t.chunks with
    | c :: _ => c.ckptX
    | [] => s.windowOf gs
  let pc := match t.chunks with
    | c :: _ => c.ckpt.pc
    | [] => t.a.pc
  let k : Task := { num := t.order, ts := t.ts, entry := pc, arg := xs.getD 4 0, x3 := xs.getD 3 0, pool := none }
  let s1 := s.endThread gs false
  match mget s1.launches lid with
  | some l => s1.poolTask lid l k
  | none => s1

/-- The scheduler reads a task from its pool entry, an access that needs R and W (R303, R412): its words are the scheduler's own, so that only
the access shows (log entry 41). -/
def State.readPool (s : State) (l : Launch) (entry : Nat) : State :=
  match s.engineXlat (some l.vf) l.asid 1 (BitVec.ofNat 64 (lrTpool l.record + 32 * entry)) .rmw with
  | .ok (pa, s1) => s1.countFetch (some l.vf) (lineOf pa)
  | .error (.trap t) => s.postTable t
  | .error _ => s

/-- The slot's task is the latest of its launch's running tasks, the earliest uncommitted task has no slot, and none is free
(R304). -/
def State.mustYield (s : State) (lid : Nat) (l : Launch) (gs : Nat) : Bool :=
  let run := s.launchThreads lid
  let t := s.thread gs
  t.lid == some lid && t.live && !l.slots.any (fun x => s.slotFree x.1) &&
    run.all (fun p => p.1 == gs || taskBefore (p.2.ts.toNat, p.2.order) (t.ts.toNat, t.order)) &&
    l.taskKeys.any (fun k => run.all (fun p => taskBefore k (p.2.ts.toNat, p.2.order)))

/-- `TASK_START` (R303, R304): a free slot of an ordered launch, still its function's and its partition's (R365, R371), takes the pending task
of the lowest key; where the earliest uncommitted task has no slot, the latest running task gives its slot up first. -/
def execTaskStart (lid gs : Nat) (s : State) : Outcome :=
  match mget s.launches lid with
  | none => .next s
  | some l0 =>
    match l0.slots.find? (fun x => x.1 == gs), mget s.vfs l0.vf with
    | some (_, g), some v =>
      let s0 := if s.mustYield lid l0 gs then s.returnTask lid gs else s
      match mget s0.launches lid with
      | none => .next s
      | some l =>
        if l.ending ≠ 0 ∨ !lrOrd l.record ∨ !s0.slotFree gs ∨ !s0.runs gs ∨ s0.migrating l.vf ∨
            s0.boundTo gs ≠ some l.vf ∨ s0.partOf gs ≠ some l.part then .next s
        else
          match l.takeTask, s0.freeWindows (coreOf gs) (lrWin l.record) 1 [] with
          | some (k, l1), [b] =>
            let off := ((l.areas.find? (fun a => a.grp == g)).map (·.off)).getD 0
            let t := { launchThread l lid b k.entry [0, 0, 0, 0] with ts := k.ts, order := k.num }
            let l2 := { l1 with start := some (l1.start.getD s.cycle) }
            let s1 := match k.pool with | some e => s0.readPool l e | none => s0
            .next (({ s1 with launches := mput s1.launches lid l2 }.startThread gs t
              [(2, stackTop v l.record (coreOf gs) off 0), (3, k.x3), (4, k.arg)]).fillPool (2 ^ lrPlog l.record) lid)
          | _, _ => .next s
    | _, _ => .next s

/-! Waits of deterministic launches (R299). -/

/-- The hold is a wait that R299 lists. -/
def Hold.passable : Hold → Bool
  | .turn | .claim _ | .pop .. | .sleep .. | .qresWait .. | .matrix | .join | .tree _ => true
  | _ => false

/-- A command, a copy or another engine operation of a launch is outstanding (R299): what will come about without any of its threads. A
message that its receiver has turned away waits for a thread. -/
def State.launchBusy (s : State) (lid : Nat) : Bool :=
  (s.launchThreads lid).any (fun p => !p.2.copies.isEmpty || !p.2.mats.isEmpty) ||
    s.msgs.any (fun m => m.lid == some lid && m.state != .held) ||
    s.nodes.any (fun n => n.root && (s.thread n.gs).lid == some lid && (match execReductionRoundDeliver n.vf n.tree s with
      | .next s1 => s1 != s
      | _ => false))

/-- A finite timeout is left among a launch's sleeping threads. -/
def State.timeoutLeft (s : State) (lid : Nat) : Bool :=
  (s.launchThreads lid).any (fun p => match p.2.hold with
    | some (.sleep _ (some _)) => true
    | _ => false)

/-- A thread at a wait: how far it has come, and what its wait's condition depends on (R299). -/
def State.waitOf (s : State) (gs : Nat) (t : Thread) : List Nat :=
  [t.uid, t.a.icount.toNat, t.enabled.length, t.refused.length] ++
  (match t.hold with
   | some .turn => [(decide ((mgetD s.rqs (s.subq gs) []).length < 64)).toNat, (s.poolRoom gs 1).toNat]
   | some (.claim n) => [(decide (n ≤ s.lanesFree gs)).toNat]
   | some (.pop p n) => [(decide (n ≤ t.queueBytes p)).toNat]
   | some (.sleep w _) => [(if w then t.ready else t.mons.any (fun m => m.2.2)).toNat]
   | some (.qresWait pa _) => [((mgetD s.homes pa ⟨[], false⟩).queue.head? == some gs && !s.holderOf pa).toNat]
   | some .matrix => [(decide ((mgetD s.matq (s.subq gs) []).length < s.subqSize gs)).toNat]
   | some .join => [(s.childrenLeft t.uid).toNat]
   | some (.tree k) => (s.nodes.filter (fun n => some n.vf == t.vf && n.tree == k)).map (fun n => n.contrib.isSome.toNat + 2 * n.out.isSome.toNat)
   | _ => [])

/-- What the waits of a launch depend on. -/
def State.waitView (s : State) (lid : Nat) : List Nat := (s.launchThreads lid).flatMap (fun p => s.waitOf p.1 p.2)

/-- Every live thread of a launch waits and has been passed over since anything that its waits depend on last changed: evaluation stops, and
resumes when something outside changes one of them (R299). -/
def State.launchStuck (s : State) (lid : Nat) (l : Launch) : Bool :=
  l.idle.1 == s.waitView lid && !s.timeoutLeft lid &&
    (s.launchThreads lid).all (fun p => (match p.2.hold with | some h => h.passable | none => false) && l.idle.2.contains p.2.uid)

/-- The wait at a slot's key place has been evaluated there and does not hold; nothing of the launch is on its way to it. -/
def State.waitFails (s : State) (t : Thread) (gs : Nat) : Bool :=
  match t.hold with
  | some (.qresWait pa _) => (mgetD s.homes pa ⟨[], false⟩).queue.head? != some gs || s.holderOf pa
  | some (.pop ..) => t.evald == some t.ent && !s.msgs.any (fun m => m.lid == t.lid)
  | some h => h.passable && t.evald == some t.ent
  | none => false

/-- `PASSED_OVER_ENTRY` (R299): a wait that does not hold at its key place is passed over; it consumes an index, and one entry of a
sleep's timeout. What is outstanding of the launch comes about first, so that the number of passes does not depend on time. Where nothing in
the launch can go on, no index advances. -/
def execPassedOverEntry (gs : Nat) (s : State) : Outcome :=
  let t := s.thread gs
  match t.lid.bind (fun l => (mget s.launches l).map (fun x => (l, x))) with
  | none => .next s
  | some (lid, l) =>
    if t.live ∧ t.det ∧ s.runs gs ∧ s.keyTurn gs ∧ s.waitFails t gs ∧ !s.launchBusy lid ∧ !s.launchStuck lid l then
      let h := match t.hold with
        | some (.sleep w (some d)) => some (Hold.sleep w (some (d - 1)))
        | h => h
      let view := s.waitView lid
      let idle := (view, if l.idle.1 = view then t.uid :: l.idle.2.filter (fun u => u != t.uid) else [t.uid])
      .next ({ s with launches := mput s.launches lid { l with idle := idle } }.setThread gs
        { t with ent := t.ent + 1, evald := none, hold := h })
    else .next s

/-! Completion (R295, R296, R323). -/

/-- Every thread of a launch has ended, its commands and copies are done, and nothing of it is left to start. -/
def State.launchDone (s : State) (lid : Nat) (l : Launch) : Bool :=
  !s.threads.any (fun p => p.2.lid == some lid && (p.2.live || !p.2.mats.isEmpty)) && !s.away.any (fun a => a.t.lid == some lid) &&
    l.children.isEmpty &&
    (l.ending != 0 || (if lrOrd l.record then decide (l.pending = 0) else decide (l.begun = lrGroups l.record)))

/-- STATUS of the completion record (Table 14.4): a drained launch left something unstarted, of an ordered one tasks (R323). -/
def Launch.status (l : Launch) : Nat :=
  if l.ending = 4 then
    (if (if lrOrd l.record then l.pending ≠ 0 else l.begun < lrGroups l.record) then 4 else 0)
  else l.ending

/-- Write the completion record (R295, Table 14.4). -/
def State.writeRecord (s : State) (l : Launch) : State :=
  let va := lrCrec l.record
  if va = 0 then s
  else
    match s.engineXlat (some l.vf) l.asid 1 va .rmw with
    | .error (.trap t) => s.schedFault l.vf l.queue t va
    | .error _ => s
    | .ok (pa, s1) =>
      s1.writeOwn [partEff pa (leBytes 8 (2 ^ 63 + l.status * 2 ^ 48) ++ leBytes 8 (l.start.getD 0) ++
        leBytes 8 s.cycle ++ leBytes 8 l.exited)]

/-- Add 1 to the completion event counter (R295). One that carries poison is taken as one that faults: it is not raised, and the queue error
says so (DESIGN CHOICE, log entry 89). -/
def State.raiseCev (s : State) (l : Launch) : State :=
  let va := lrCev l.record
  if va = 0 then s
  else
    match s.engineXlat (some l.vf) l.asid 1 va .rmw with
    | .error (.trap t) => s.schedFault l.vf l.queue t va
    | .error _ => s
    | .ok (pa, s1) =>
      if s1.poisoned (pa / 8) then s1.queueError l.vf l.queue Cause.dataPoison.code va
      else (s1.countFetch (some l.vf) (lineOf pa)).writeOwn [partEff pa (leBytes 8 (s1.natAt pa 8 + 1))]

/-- What an address of a completion waits for: a page to be pulled, or something else that its translation holds on, and what stands before a
write there (R250, R274, R341, R349). -/
def State.completionWait (s : State) (l : Launch) (va : Word) (n : Nat) : Option State :=
  if va = 0 then none
  else
    match ({ s with fs := noSlot } : State).translate (some l.vf) l.asid 1 va .rmw with
    | .error (.hold (.pull v p)) => some (s.askPull v p)
    | .error (.hold _) => some s
    | .error _ => none
    | .ok x => s.requestWait ⟨noSlot, s.cycle, 2, [], linesOf x.addr n⟩

/-- `LAUNCH_COMPLETE` (R295): the completion record, then the completion event. -/
def execLaunchComplete (lid : Nat) (s : State) : Outcome :=
  match mget s.launches lid with
  | none => .next s
  | some l =>
    if s.launchDone lid l then
      match (s.completionWait l (lrCrec l.record) 32).orElse (fun _ => s.completionWait l (lrCev l.record) 8) with
      | some w => .next w
      | none =>
      let s1 := (s.writeRecord l).raiseCev l
      .next { s1 with launches := mdel s1.launches lid }
    else .next s

/-- A drain of a queue's started launch (R323). -/
def State.drainQueue (s : State) (vf q : Nat) : State :=
  { s with launches := s.launches.map (fun (p : Nat × Launch) =>
      if p.2.vf = vf ∧ p.2.queue = q % 64 ∧ p.2.ending = 0 ∧ (p.2.start.isSome ∨ p.2.begun ≠ 0) then
        (p.1, { p.2 with ending := 4 })
      else p) }

/-- `DRAIN_REQUEST` (R323, R370). -/
def execDrainRequest (vf q : Nat) (s : State) : Outcome := .next (s.drainQueue vf q)

end Sys2Proof.Machine
end

