-- ==== Sys2Proof/Machine/Mailbox.lean ====
section
/-!
DEFINITION. The mailbox and its commands that carve the part: partitions, functions, the hypervisor's context, logs, kills, drains,
trace units, and the scrubs between owners (R358 to R373).
-/

namespace Sys2Proof.Machine

/-! Commands and results (R358, R359, R360). -/

/-- SEQ, TGT and OP of a command's dword 0, and its arguments. -/
def mbSeq (c : MbCmd) : Nat := bits c.target 63 48
def mbTgt (c : MbCmd) : Nat := bits c.target 31 16
def mbOp (c : MbCmd) : Nat := bits c.target 7 0
def mbArg (c : MbCmd) (i : Nat) : Word := c.args.getD i 0

/-- Bits of dword 0 outside SEQ, TGT and OP are zero. -/
def mbFormed (c : MbCmd) : Bool := bits c.target 47 32 == 0 && bits c.target 15 8 == 0

/-- Write a command's result as one engine chunk; the next doorbell may be acted on (R358). -/
def State.mbResult (s : State) (seq status d1 d3 : Nat) : State :=
  { s with mb := { s.mb with busy := false, run := none } }.performAll none
    [.write (s.ctb + 0x100) (leBytes 8 (2 ^ 63 + status * 2 ^ 48 + seq * 2 ^ 32) ++ leBytes 8 d1 ++ leBytes 8 s.cycle ++ leBytes 8 d3)]

/-- What a command that is carried out leaves: the state, dwords 1 and 3, and what the result still waits for. -/
structure MbDone where
  s : State
  d1 : Nat := 0
  d3 : Nat := 0
  wait : Option MbWait := none

/-- Carry out a command, if none is in progress: one that is not admitted changes nothing and answers with its STATUS and dwords 1
and 3 (R358, R360). -/
def State.mbDo (s : State) (op : Nat) (c : MbCmd) (f : State → Except (Nat × Nat × Nat) MbDone) : Outcome :=
  if s.mb.run.isSome then .next s
  else
    let s0 := { s with mb := { s.mb with busy := true } }
    if mbOp c ≠ op ∨ !mbFormed c then .next (s0.mbResult (mbSeq c) 1 0 0)
    else
      match f s0 with
      | .error (st, d1, d3) => .next (s0.mbResult (mbSeq c) st d1 d3)
      | .ok d =>
        match d.wait with
        | some w => .next { d.s with mb := { d.s.mb with run := some ⟨mbSeq c, w, d.d1, d.d3⟩ } }
        | none => .next (d.s.mbResult (mbSeq c) 0 d.d1 d.d3)

/-- A command that no row of Table 20.1 gives (R359). -/
def State.mbUnknown (s : State) (c : MbCmd) : State := if s.mb.run.isSome then s else s.mbResult (mbSeq c) 1 0 0

/-- A STATUS of Table 20.1's commands. -/
def mbFail (st : Nat) : Except (Nat × Nat × Nat) α := .error (st, 0, 0)

/-- A condition of a command, or its STATUS. -/
def mbNeed (ok : Bool) (st : Nat) : Except (Nat × Nat × Nat) Unit := if ok then .ok () else mbFail st

/-- Bytes of a structure in memory can be read: they lie in the map, without poison (STATUS 4). -/
def State.readable (s : State) (pa n : Nat) : Bool :=
  isMapped pa && isMapped (pa + n - 1) && (dwordsOf pa n).all (fun d => !s.poisoned d)

/-- Doublewords of a descriptor (R360). -/
def State.mbDwords (s : State) (pa n : Nat) : Except (Nat × Nat × Nat) (List Word) := do
  mbNeed (s.readable pa (8 * n)) 4
  pure ((List.range n).map (fun i => s.dwordAt (pa + 8 * i)))

/-- A wholly zero descriptor deletes (R361, R365). -/
def allZero (d : List Word) : Bool := d.all (fun w => w == 0)

/-! Scrubs (R367, R368, Table 20.5). -/

/-- Copies of lines are written back and dropped on every die, in L1 and L2 (R367, R368). -/
def State.dropCopies (s : State) (f : Nat → Bool) : State :=
  ((s.dirs.map (·.1) ++ s.coh.map (·.line)).dedup.filter f).foldl State.cohDrop s

/-- Zero the bytes of memory whose addresses a predicate gives, and clear their poison, their locks, their cached copies, the host's too, the
translations derived from them, and what is still on its way to them (R349, R367, R368). -/
def State.zeroMem (s : State) (f : Nat → Bool) : State :=
  let s1 := (s.dropCopies (fun l => f (128 * l))).backInvalidate ((s.hostLines.map (·.1)).filter (fun l => f (128 * l)))
  { s1 with
    mem := s1.mem.filter (fun (p : Host.Cell) => !f p.1)
    poison := s1.poison.filter (fun (p : Nat × Unit) => !f (8 * p.1))
    locks := s1.locks.filter (fun (p : Nat × Option Nat) => !f (128 * p.1))
    globals := s1.globals.filter (fun (g : Global) => !g.lines.any (fun l => f (128 * l)))
    remotes := s1.remotes.filter (fun (r : Nat × List Byte) => !f r.1)
    icache := s1.icache.filter (fun (p : Nat × List Byte) => !f (128 * (p.1 % 2 ^ 48))) }

/-- The address lies in one of some ranges of 64 KiB frames. -/
def inFrames (fr : List (Nat × Nat)) (pa : Nat) : Bool := fr.any (fun r => decide (r.1 ≤ pa / 65536) && decide (pa / 65536 < r.2))

/-- Zero banks of a cluster's cores: data, poison, watch bits and owners (R275). -/
def State.zeroBanks (s : State) (pc : Nat) (bank : Nat → Bool) : State :=
  let f (pa : Nat) : Bool := isSpadRange pa && spadCore pa / 8 == pc && bank (spadBank pa)
  { s.zeroMem f with watches := s.watches.filter (fun (p : Nat × Nat) => !f (8 * p.1)) }

/-- Zero tile rows of a cluster (R179). -/
def State.zeroRows (s : State) (pc : Nat) (row : Nat → Bool) : State :=
  let f (k : Nat) : Bool := k / 2048 / 1024 == pc && row (k / 2048 % 1024)
  { s with tiles := s.tiles.filter (fun (p : Nat × Byte) => !f p.1)
           tilePoison := s.tilePoison.filter (fun (p : Nat × Unit) => !f p.1) }

/-- An entry of a register file lies in no started slot's window. -/
def State.unusedEntry (s : State) (k : Nat) : Bool :=
  s.threads.all (fun p => !p.2.live || coreOf p.1 != k / 2048 || decide (k % 2048 < p.2.winBase) ||
    decide (p.2.winBase + p.2.winLim ≤ k % 2048))

/-- Zero the register-file entries of a cluster that no started slot's window holds. -/
def State.zeroEntries (s : State) (pc : Nat) : State :=
  { s with rf := s.rf.filter (fun (p : Nat × Word) => !(p.1 / 2048 / 8 == pc && s.unusedEntry p.1)) }

/-- Empty the ready queues and the matrix sub-queues of a partition on a cluster, and what its free slots still hold. -/
def State.emptyQueues (s : State) (pc part : Nat) (slots : Word) : State :=
  let keyed (k : Nat) : Bool := k / 256 == pc && k % 32 == part + 1
  let gone : List Nat := (s.matq.flatMap (fun p => if keyed p.1 then p.2 else [])).map (·.id)
  { s with
    rqs := s.rqs.filter (fun (p : Nat × List (Nat × Word)) => !keyed p.1)
    matq := s.matq.filter (fun (p : Nat × List MatCmd) => !keyed p.1)
    chans := s.chans.filter (fun (p : Nat × Chan) =>
      !(clusterOf p.2.gs == pc && bit slots (slotOf p.2.gs) && !(s.thread p.2.gs).live))
    threads := s.threads.map (fun (p : Nat × Thread) =>
      if clusterOf p.1 = pc ∧ !p.2.live then (p.1, { p.2 with mats := p.2.mats.filter (fun m => !(m.1 ∈ gone)) }) else p) }

/-- The rows a partition owns. -/
def Part.ownsRow (p : Part) (r : Nat) : Bool := decide (p.trb ≤ r) && decide (r < p.trb + p.trn)

/-- Zero a partition's whole share of a cluster, when the cluster is bound anew (R368). -/
def State.zeroShare (s : State) (pc part : Nat) (p : Part) : State :=
  ((((s.zeroBanks pc p.ownsBank).zeroRows pc p.ownsRow).zeroEntries pc).emptyQueues pc part p.slots)

/-! Slots bound to functions (R365). -/

/-- A binding without some slots of some cores. -/
def Bind.cut (cores : List Nat) (m : Word) (b : Bind) : List Bind :=
  [{ b with cores := b.cores.filter (fun c => !cores.contains c) },
   { b with cores := b.cores.filter (fun c => cores.contains c), slots := b.slots &&& ~~~m }].filter
    (fun (x : Bind) => !x.cores.isEmpty && x.slots != 0)

/-- Slots are bound to nothing. -/
def State.unbind (s : State) (cores : List Nat) (m : Word) : State := { s with binds := s.binds.flatMap (Bind.cut cores m) }

/-- Slots are bound to a function, or to none. -/
def State.bindSlots (s : State) (cores : List Nat) (m : Word) (vf : Option Nat) : State :=
  { s with binds := ⟨cores, m, vf⟩ :: (s.unbind cores m).binds }

/-- The function holds a thread, in a slot or off it, or a launch that has not completed (R365). -/
def State.fnBusy (s : State) (vf : Nat) : Bool :=
  s.threads.any (fun p => p.2.live && p.2.vf == some vf) || s.away.any (fun a => a.vf == vf && a.t.live) || s.launches.any (fun p => p.2.vf == vf)

/-! PSET (R361, R362, R363, R368). -/

/-- Reserved bits and ranges of a partition descriptor (Table 20.2). -/
def partValid (d : List Word) : Bool :=
  let p : Part := ⟨d, 0, 0, 0, 0, false⟩
  !bit (dw d 7) 20 && bits (dw d 8) 63 20 == 0 && bits (dw d 8) 6 0 == 0 && bits (dw d 10) 63 32 == 0 && bits (dw d 12) 63 20 == 0 &&
    [13, 14, 15].all (fun i => dw d i == 0) && decide (p.trb + p.trn ≤ 1024) && decide (p.lanes % 32 = 0 ∧ p.lanes ≤ 512) &&
    (p.mw != 0 || p.mqe == 0) && decide (p.pen ≤ 8) && decide (p.mqe ≤ 16)

/-- Rows of two partitions intersect. -/
def Part.rowsMeet (p q : Part) : Bool :=
  decide (0 < p.trn ∧ 0 < q.trn ∧ p.trb < q.trb + q.trn ∧ q.trb < p.trb + p.trn)

/-- Package clusters. -/
def allClusters : List Nat := List.range clusterCount

/-- Another partition stands in a descriptor's way (R363): shares of a cluster, regions or colours. -/
def Part.conflicts (p q : Part) : Bool :=
  (allClusters.any (fun c => p.ownsCluster c && q.ownsCluster c) &&
    (p.slots &&& q.slots != 0 || (List.range 32).any (fun b => p.ownsBank b && q.ownsBank b) || p.rowsMeet q)) ||
  (List.range 96).any (fun r => p.ownsRegion r && q.ownsRegion r) || (dw p.desc 11 &&& dw q.desc 11 != 0)

/-- On some cluster the partitions together exceed 512 lanes, 16 entries or 8 engines (R363; log entry 26). -/
def overfull (p : Part) (others : List Part) : Bool :=
  allClusters.any (fun c =>
    let on := p :: others.filter (fun q => q.ownsCluster c)
    p.ownsCluster c && decide (1 < on.length) &&
      (decide (512 < (on.map Part.lanes).foldl (· + ·) 0) || decide (16 < (on.map Part.mqe).foldl (· + ·) 0) ||
        decide (8 < (on.map Part.pen).foldl (· + ·) 0)))

/-- A function's segment lies in a partition's regions (R365). -/
def Part.holds (p : Part) (sbase sbound : Nat) : Bool :=
  sbound == 0 || (decide (sbase + sbound ≤ 0xC000000000) &&
    (List.range ((sbase + sbound - 1) / 2 ^ 33 + 1 - sbase / 2 ^ 33)).all (fun i => p.ownsRegion (sbase / 2 ^ 33 + i)))

/-- A cluster runs a launch of a partition. -/
def State.runsLaunch (s : State) (pid c : Nat) : Bool :=
  s.launches.any (fun l => l.2.part == pid && (l.2.areas.any (fun a => a.gc / 8 == c) || l.2.slots.any (fun x => clusterOf x.1 == c) ||
    (s.launchThreads l.1).any (fun x => clusterOf x.1 == c)))

/-- What a replaced descriptor would take away, or give, is in use (R363). -/
def State.inUse (s : State) (pid : Nat) (p : Part) : Bool :=
  let q : Part := (mget s.parts pid).getD ⟨[], 0, 0, 0, 0, false⟩
  s.threads.any (fun t => t.2.live && ((q.ownsSlot t.1 && !p.ownsSlot t.1) || (p.ownsSlot t.1 && (s.partOf t.1).isNone))) ||
    allClusters.any (fun c => q.ownsCluster c && !p.ownsCluster c && s.runsLaunch pid c) ||
    s.vfs.any (fun v => v.2.part == pid && !p.holds v.2.sbase v.2.sbound)

/-- The colour of a cached line (R269). -/
def State.colourOf (s : State) (line : Nat) : Nat := (s.lineSet line).2.2 / 16

/-- A partition's share of a cluster grew (Table 20.1): slots, banks, rows or lanes. -/
def shareGrew (q p : Part) (c : Nat) : Bool :=
  let had := q.ownsCluster c
  p.ownsCluster c &&
    ((p.slots &&& ~~~(if had then q.slots else 0)) != 0 || (List.range 32).any (fun b => p.ownsBank b && !(had && q.ownsBank b)) ||
      (List.range 1024).any (fun r => p.ownsRow r && !(had && q.ownsRow r)) || decide ((if had then q.lanes else 0) < p.lanes))

/-- Scrub what a partition has gained on a cluster (R368). -/
def State.scrubGain (s : State) (pid : Nat) (q p : Part) (c : Nat) : State :=
  let had := q.ownsCluster c
  let s1 := (s.zeroBanks c (fun b => p.ownsBank b && !(had && q.ownsBank b))).zeroRows c (fun r => p.ownsRow r && !(had && q.ownsRow r))
  let s2 := s1.zeroEntries c
  if had then s2 else s2.emptyQueues c pid p.slots

/-- The ready queues of a partition whose slots on its clusters are reassigned are cleared (R227). -/
def State.clearReady (s : State) (pid : Nat) (cs : List Nat) : State :=
  { s with rqs := s.rqs.filter (fun (x : Nat × List (Nat × Word)) => !(cs.contains (x.1 / 256) && x.1 % 32 == pid + 1)) }

/-- Locks in regions and colours that leave a partition are released (R363). -/
def State.leaveLocks (s : State) (q p : Part) : State :=
  { s with locks := s.locks.filter (fun (l : Nat × Option Nat) =>
      let r := hbmRegion (128 * l.1)
      let k := s.colourOf l.1
      !(q.ownsRegion r && !p.ownsRegion r) && !(bit (dw q.desc 11) k && !bit (dw p.desc 11) k)) }

/-- Copies of lines under colours a partition has gained are written back and dropped (R368). -/
def State.dropColours (s : State) (q p : Part) : State :=
  s.dropCopies (fun l => bit (dw p.desc 11) (s.colourOf l) && !bit (dw q.desc 11) (s.colourOf l))

/-- Where colours or regions have been reassigned, lines whose place in the L2 is another one lose their locks and their copies, so that no
set comes to hold more of them than it may (R269, R277). -/
def State.replaceLines (s before : State) : State :=
  let moved (l : Nat) : Bool := (List.range 4).any (fun d => s.l2Set d l != before.l2Set d l)
  ({ s with locks := s.locks.filter (fun (l : Nat × Option Nat) => !moved l.1) } : State).dropCopies moved

/-- Frame tags of the regions given to a partition are cleared (R367). -/
def cutTags (lo hi : Nat) (ts : List Tag) : List Tag :=
  ts.flatMap (fun t => [{ t with hi := min t.hi lo }, { t with lo := max t.lo hi }].filter (fun (x : Tag) => decide (x.lo < x.hi)))

/-- `PSET` carried out: the descriptor replaced, what changes hands scrubbed (R361, R363, R368). -/
def State.setPart (s : State) (pid : Nat) (d : List Word) : MbDone :=
  let old := mget s.parts pid
  let q : Part := old.getD ⟨[], 0, 0, 0, 0, false⟩
  let p : Part := { q with desc := d }
  let gained := allClusters.filter (shareGrew q p)
  let regions := (List.range 96).filter (fun r => p.ownsRegion r && !q.ownsRegion r)
  let fresh := allClusters.filter (fun c => p.ownsCluster c && !q.ownsCluster c)
  let lost := allClusters.filter (fun c => !p.ownsCluster c && q.ownsCluster c)
  let both := allClusters.filter (fun c => p.ownsCluster c && q.ownsCluster c)
  let s1 := (s.leaveLocks q p).dropColours q p
  let s2 := gained.foldl (fun (s : State) c => s.scrubGain pid q p c) s1
  let s3 := if regions = [] then s2 else s2.zeroMem (fun pa => isHbm pa && regions.contains (hbmRegion pa))
  let s4 := { s3 with tags := regions.foldl (fun ts r => cutTags (131072 * r) (131072 * (r + 1)) ts) s3.tags }
  let s5 := ((s4.unbind (fresh.flatMap coresOf) p.slots).unbind (lost.flatMap coresOf) q.slots).unbind (both.flatMap coresOf)
    (p.slots ^^^ q.slots)
  let s6 := { s5 with parts := if allZero d then mdel s5.parts pid else mput s5.parts pid p }
  -- the shared registers of cores whose slot 0 changes its owner
  let moved (k : Nat) : Bool := s.gOwner (k / 16) != s6.gOwner (k / 16)
  let s6 := (if p.slots = q.slots then s6 else s6.clearReady pid both).replaceLines s
  let s7 := { s6 with gregs := s6.gregs.filter (fun (x : Nat × Word) => !moved x.1)
                      gregHist := s6.gregHist.filter (fun (x : Nat × List GWrite) => !moved x.1) }
  let s8 := if old.isSome then s7
    else { s7 with counters := s7.counters.filter (fun (x : Nat × Counter) => ((mget s7.vfs (x.1 / 16)).map VFunc.part) != some pid) }
  { s := s8, d1 := 8 * gained.length, d3 := regions.length,
    wait := if gained = [] ∧ regions = [] then none else some (.scrub pid none []) }

/-- `PSET` (R361, R363): create, replace or delete a partition. -/
def execMbPset (c : MbCmd) (s : State) : Outcome :=
  s.mbDo 0x01 c (fun s => do
    let pid := mbTgt c
    let a := (mbArg c 0).toNat
    mbNeed (decide (pid < 20 ∧ a % 128 = 0)) 1
    let d ← s.mbDwords a 16
    let p : Part := ⟨d, 0, 0, 0, 0, false⟩
    let others := (s.parts.filter (fun x => x.1 != pid)).map (·.2)
    mbNeed (allZero d || partValid d) 1
    mbNeed (!others.any (fun q => p.conflicts q) && !overfull p others) 2
    mbNeed (allZero d || (others.foldl (fun (acc : Word) q => acc ||| dw q.desc 11) (dw d 11)) != BitVec.allOnes 64) 2
    mbNeed (!s.inUse pid p) 3
    pure (s.setPart pid d))

/-! VSET (R364 to R367). -/

/-- Write MSTAT and OWNED of a function's migration block as one engine chunk (R374, R375). -/
def State.showMig (s : State) (vf : Nat) : State :=
  let v := (mget s.vfs vf).getD VFunc.absent
  s.performAll none [.write (s.migBase vf + 0x80) (leBytes 8 (s.mstat vf v).toNat ++ leBytes 8 (s.mowned vf v).toNat)]

/-- Reserved bits, ranges and alignments of a function descriptor (Table 20.4). -/
def fnValid (d : List Word) : Bool :=
  let v : VFunc := ⟨d, [], false, 1, 0, false⟩
  bits (dw d 0) 63 43 == 0 && bits (dw d 0) 31 25 == 0 && bits (dw d 0) 15 9 == 0 && bits (dw d 0) 7 5 == 0 &&
    bits (dw d 1) 63 47 == 0 && bits (dw d 1) 31 14 == 0 && bits (dw d 14) 63 57 == 0 && bits (dw d 14) 11 5 == 0 &&
    bits (dw d 15) 63 18 == 0 && bits (dw d 18) 63 12 == 0 && [19, 20, 21, 22, 23].all (fun i => dw d i == 0) &&
    decide (v.qsl ≤ 1024) && decide (1 ≤ v.ncl ∧ v.ncl ≤ 384) && decide (1 ≤ v.acnt ∧ v.acnt ≤ 16384) &&
    decide (v.abase + v.acnt ≤ 16384) && decide (v.sbase % 65536 = 0 ∧ v.sbound % 65536 = 0) && decide (v.ctxt % 4096 = 0) &&
    decide (v.qtab % 32 = 0) && decide (v.vcba % 256 = 0) && decide (6 ≤ v.elog ∧ v.elog ≤ 16) && decide (1 ≤ v.thr)

/-- Two ranges of a base and a length meet. -/
def rangesMeet (a n b m : Nat) : Bool := decide (0 < n ∧ 0 < m ∧ a < b + m ∧ b < a + n)

/-- The level at which a chunk executes: that of its checkpoint, since what changes the level ends the chunk (Table 8.1). -/
def Chunk.level (c : Chunk) : Nat := bits c.ckpt.status 18 17

/-- A thread of a function, or with the hypervisor's context any thread, gives up the stream elements it has prefetched through a translation
that changes (R138, R346); what a unit of a deterministic launch has read at its key place it has read. -/
def State.forgetAhead (s : State) (fn : Option Nat) (gs : Nat) : State :=
  let t := s.thread gs
  if t.det || (fn.isSome && t.vf != fn) then s else s.setThread gs { t with a := t.a.rewound }

/-- Squash every uncommitted chunk that used a translation of a function, or of the hypervisor's context, which every thread at hyper level
uses (R334, R346). -/
def State.squashXlat (s : State) (fn : Option Nat) : State :=
  (s.threads.map (·.1)).foldl (fun (s : State) gs =>
    let s := s.forgetAhead fn gs
    let t := s.thread gs
    let uses (c : Chunk) : Bool := !c.granted && !c.trans.isEmpty && (if fn.isNone then c.level == 2 else t.vf == fn && decide (c.level < 2))
    if gs < slotCount then
      match t.chunks.findIdx? uses with
      | some i => s.squash gs i true false
      | none => s
    else s) s

/-- Frames of a segment that another function's segment last held (R367). -/
def foreignFrames (vf lo hi : Nat) (ts : List Tag) : List (Nat × Nat) :=
  (ts.filter (fun t => t.vf != vf)).filterMap (fun t => if max lo t.lo < min hi t.hi then some (max lo t.lo, min hi t.hi) else none)

/-- A cluster changes hands at a VSET: it is stopped and free (R331), or a slot of it that no running function keeps was bound to another
function (R365, R368). -/
def State.rebound (s : State) (vf : Nat) (p : Part) (pc : Nat) : Bool :=
  let held := (List.range 512).filterMap (fun i => if bit p.slots (i % 64) then s.boundTo (512 * pc + i) else none)
  held.any (fun f => f != vf && !s.fnBusy f) || s.freed.contains pc

/-- `VSET` carried out: slots bound, clusters and frames that change hands scrubbed, the function's tables in force, its
migration block brought up to date (R365 to R368, R374). -/
def State.setFn (s : State) (vf : Nat) (d : List Word) (cmap : List Nat) (p : Part) : MbDone :=
  let old := mget s.vfs vf
  let part := bits (dw d 0) 4 0
  let v : VFunc := ⟨d, cmap, bit (dw d 0) 8, 1, (old.map VFunc.mstate).getD 0, (old.map VFunc.linkLost).getD false⟩
  let frames := if v.sbound = 0 then [] else foreignFrames vf (v.sbase / 65536) ((v.sbase + v.sbound) / 65536) s.tags
  let count := (frames.map (fun r => r.2 - r.1)).foldl (· + ·) 0
  let moved := cmap.filter (s.rebound vf p)
  let s1 := moved.foldl (fun (s : State) pc => s.zeroShare pc part p) s
  let s2 := if frames = [] then s1 else s1.zeroMem (fun pa => isHbm pa && inFrames frames pa)
  let tag : Tag := ⟨v.sbase / 65536, (v.sbase + v.sbound) / 65536, vf⟩
  let tags := if v.sbound = 0 then s2.tags
    else tag :: cutTags (v.sbase / 65536) ((v.sbase + v.sbound) / 65536) s2.tags
  let cores := cmap.flatMap coresOf
  let nb : Bind := ⟨cores, p.slots, some vf⟩
  let kept := s2.binds.filter (fun (b : Bind) => match b.vf with | some f => f != vf && s.fnBusy f | none => false)
  let rest := (s2.binds.filter (fun b => !kept.contains b)).flatMap (Bind.cut cores p.slots)
  let s3 := { s2 with
    globals := s2.globals.filter (fun (g : Global) => g.vf != vf)
    tags := tags, binds := kept ++ nb :: rest, vfs := mput s2.vfs vf v, freed := s2.freed.filter (fun c => !cmap.contains c)
    counters := if old.isSome then s2.counters else s2.counters.filter (fun (x : Nat × Counter) => x.1 / 16 != vf) }
  { s := (s3.squashXlat (some vf)).showMig vf, d1 := moved.length, d3 := count,
    wait := if moved = [] ∧ frames = [] then none else some (.scrub part (some vf) frames) }

/-- A migrating source may not be deleted until DONE has arrived and no peer is left (R376). -/
def State.migHolds (s : State) (vf : Nat) : Bool :=
  match mget s.vfs vf with
  | some v => (v.mstate == 1 || v.mstate == 2 || v.mstate == 3) && (!(s.mig vf).finished || (s.mig vf).peers.any (fun p => !p.acked))
  | none => false

/-- A deleted function: its queues, counters and trace units go; its slots and frames remember it (R365, R367). -/
def State.deleteFn (s : State) (vf : Nat) : State :=
  { s with
    vfs := mdel s.vfs vf, migs := mdel s.migs vf, globals := s.globals.filter (fun (g : Global) => g.vf != vf)
    away := s.away.filter (fun (a : Away) => a.vf != vf), qmap := s.qmap.filter (fun (m : QSlot) => m.vf != vf)
    qpend := s.qpend.filter (fun k => k / 64 != vf), counters := s.counters.filter (fun (x : Nat × Counter) => x.1 / 16 != vf)
    traceHold := s.traceHold.map (fun h => if h = vf then 511 else h), moves := s.moves.filter (fun (m : Move) => m.vf != vf) }

/-- `VSET` (R365): create, replace or delete a function. -/
def execVset (c : MbCmd) (s : State) : Outcome :=
  s.mbDo 0x02 c (fun s => do
    let vf := mbTgt c
    let a := (mbArg c 0).toNat
    mbNeed (decide (vf < 256 ∧ a % 64 = 0)) 1
    let d ← s.mbDwords a 24
    if allZero d then
      mbNeed (!s.fnBusy vf && !s.migHolds vf) 3
      pure { s := (s.deleteFn vf).showMig vf }
    else
      mbNeed (fnValid d) 1
      match mget s.parts (bits (dw d 0) 4 0) with
      | none => mbFail 1
      | some p =>
        let v : VFunc := ⟨d, [], false, 1, 0, false⟩
        let ca := (dw d 2).toNat
        mbNeed (s.readable ca (2 * v.ncl)) 4
        let cmap := (List.range v.ncl).map (fun i => s.natAt (ca + 2 * i) 2)
        let others := (s.vfs.filter (fun x => x.1 != vf)).map (·.2)
        mbNeed (decide cmap.Nodup && cmap.all (fun c => p.ownsCluster c)) 2
        mbNeed (p.holds v.sbase v.sbound && !others.any (fun w => rangesMeet v.sbase v.sbound w.sbase w.sbound)) 2
        mbNeed (!others.any (fun w => rangesMeet v.abase v.acnt w.abase w.acnt)) 2
        mbNeed (decide (v.qsl + (others.map VFunc.qsl).foldl (· + ·) 0 ≤ 1024)) 2
        mbNeed (!s.threads.any (fun t => t.2.live && p.ownsSlot t.1 && cmap.contains (clusterOf t.1) &&
          (match t.2.vf with | some f => f != vf | none => false))) 3
        pure (s.setFn vf d cmap p))

/-! The other commands. -/

/-- `HSET` (R334, R359, R390): the hyper ring starts afresh; the hypervisor's context is in force. -/
def execHset (c : MbCmd) (s : State) : Outcome :=
  s.mbDo 0x03 c (fun s => do
    let a0 := mbArg c 0
    let a1 := mbArg c 1
    let a2 := mbArg c 2
    mbNeed (mbTgt c == 0 && bits a0 63 57 == 0 && bits a0 11 5 == 0 && decide (6 ≤ bits a0 4 0 ∧ bits a0 4 0 ≤ 16)) 1
    mbNeed (bits a1 63 18 == 0 && decide (bits a1 17 9 < clusterCount) && bits a2 63 52 == 0 && bits a2 11 1 == 0) 1
    let s1 := { s with hring := a0, hslot := a1, hserial := 1, hctx := a2 }
    pure { s := if s.hctx = a2 then s1 else s1.squashXlat none })

/-- `PLOG` (R262, R263, R360): a partition's log and POLICY. -/
def execMbPlog (c : MbCmd) (s : State) : Outcome :=
  s.mbDo 0x04 c (fun s => do
    let a2 := mbArg c 2
    mbNeed ((mget s.parts (mbTgt c)).isSome && decide ((mbArg c 0).toNat % 8 = 0) && bits a2 63 3 == 0 && bits a2 2 1 != 3) 1
    pure { s := s.setLog (mbTgt c) (mbArg c 0).toNat (mbArg c 1).toNat (bits a2 2 0) })

/-- `CONTAIN` (R320): kill a context; dword 1 counts the threads stopped. -/
def execContain (c : MbCmd) (s : State) : Outcome :=
  s.mbDo 0x05 c (fun s => do
    mbNeed ((mget s.vfs (mbTgt c)).isSome && bits (mbArg c 0) 63 14 == 0) 1
    let r := s.contain (some (mbTgt c)) (mbArg c 0).toNat 4 none
    pure { s := r.1, d1 := r.2 })

/-- `DRAIN` (R323): drain a queue's started launch. -/
def execDrain (c : MbCmd) (s : State) : Outcome :=
  s.mbDo 0x06 c (fun s => do
    mbNeed ((mget s.vfs (mbTgt c)).isSome && decide ((mbArg c 0).toNat < 64)) 1
    pure { s := s.drainQueue (mbTgt c) (mbArg c 0).toNat })

/-- `TRACE` (R373): the hypervisor claims, releases or revokes a die's trace unit; dword 1 is the holder after it. -/
def execTrace (c : MbCmd) (s : State) : Outcome :=
  s.mbDo 0x07 c (fun s => do
    let die := mbTgt c
    let a := mbArg c 0
    mbNeed (decide (die < 4) && bits a 63 2 == 0) 1
    let h := s.traceHold.getD die 511
    if h < 256 then
      if bit a 1 then
        let h1 := if bit a 0 then 256 else 511
        pure { s := (s.setHolder die h1 h).traceNotice h die true, d1 := h1 }
      else if bit a 0 then
        -- a guest claim of the same cycle gives way
        if s.claimedNow die then pure { s := (s.setHolder die 256 h).traceNotice h die false, d1 := 256 } else .error (3, h, 0)
      else pure { s := s, d1 := h }
    else
      let h1 := if bit a 0 then 256 else 511
      pure { s := { s with traceHold := s.traceHold.set die h1 }, d1 := h1 })

/-- `SCRUB_COMPLETE` (R369): the scrubs a command started have finished, and its result is written. -/
def execScrubComplete (s : State) : Outcome :=
  match s.mb.run with
  | some r =>
    match r.wait with
    | .scrub .. => .next (s.mbResult r.seq 0 r.d1 r.d3)
    | _ => .next s
  | none => .next s

end Sys2Proof.Machine
end

