-- ==== Sys2Proof/Machine/Handover.lean ====
section
/-!
DEFINITION. Handing slots from one function to another (R321, R322): the HOVER command, each slot at its point, and the threads that
come back. A save area holds one THREAD record for each slot, 64 KiB apart by the slot's place in its function (log entry 15).
-/

namespace Sys2Proof.Machine

/-- Where a slot's record stands in a save area of a function. -/
def VFunc.saveAt (v : VFunc) (area gs : Nat) : Nat := area + 65536 * v.placeOf gs

/-- Words of a record as the part's own write. -/
def wordsEff (pa : Nat) (ws : List Word) : Eff := partEff pa (ws.flatMap (fun w => leBytes 8 w.toNat))

/-- A thread leaves its slot with what a record does not carry; its channel bindings stand apart (R322). -/
def State.leaveSlot (s : State) (gs vf place : Nat) : State :=
  let t := s.thread gs
  { s with
    away := ⟨vf, place, t.halts⟩ :: s.away
    chans := s.chans.map (fun (p : Nat × Chan) => if p.2.gs = gs then (p.1, { p.2 with gs := noSlot + t.uid }) else p) }.setThread gs Thread.idle

/-- The slots a handover is to hand over: those of the mask on the partition's clusters that serve the outgoing function, on clusters
the incoming one maps. -/
def State.hoverSlots (s : State) (p : Part) (mask : Word) (out : Nat) (inc : VFunc) : List Nat :=
  (allClusters.filter (fun c => p.ownsCluster c && inc.cmap.contains c)).flatMap (fun c =>
    ((List.range 512).map (fun i => 512 * c + i)).filter (fun gs =>
      bit mask (slotOf gs) && p.ownsSlot gs && s.boundTo gs == some out))

/-- `HOVER` (R321): the slots are to stop at their points. -/
def execHover (c : MbCmd) (s : State) : Outcome :=
  s.mbDo 0x12 c (fun s => do
    let a1 := mbArg c 1
    let out := bits a1 7 0
    let inc := bits a1 15 8
    let oa := (mbArg c 2).toNat
    let ia := (mbArg c 3).toNat
    mbNeed (bits a1 63 16 == 0 && decide (oa % 8 = 0 ∧ ia % 8 = 0 ∧ out ≠ inc) && isMapped oa && (ia == 0 || isMapped ia)) 1
    match mget s.parts (mbTgt c), mget s.vfs out, mget s.vfs inc with
    | some p, some vo, some vi =>
      mbNeed (vo.part == mbTgt c && vi.part == mbTgt c) 1
      mbNeed ((mbArg c 0 &&& ~~~p.slots) == 0) 2
      let slots := s.hoverSlots p (mbArg c 0) out vi
      let s1 := slots.foldl (fun (s : State) gs =>
        let t := s.thread gs
        if t.live then s.setThread gs (t.stopsFor .hover) else s) s
      if slots.isEmpty then pure { s := s }
      else pure { s := { s1 with hover := some ⟨mbTgt c, out, inc, oa, ia, slots, 0⟩ }, wait := some .hover }
    | _, _, _ => mbFail 1)

/-- The slot with its outgoing thread at its point and everything it sent out settled, or without a thread (R321, R322). -/
def State.handable (s : State) (h : Hover) (gs : Nat) : Option State :=
  let t := s.thread gs
  if !t.live then (if t.mats.isEmpty then some s else none)
  else if t.vf = some h.out ∧ !t.stopping then (s.atPoint gs).filter (fun s1 => s1.settled gs)
  else none

/-- The outgoing thread's record goes to its save area, and the thread off its slot; an empty slot's record names no thread. -/
def State.saveSlot (s : State) (h : Hover) (v : VFunc) (gs : Nat) : State :=
  let pa := v.saveAt h.outArea gs
  if (s.thread gs).live then
    (s.performAll none [wordsEff pa (s.threadRecord gs)]).leaveSlot gs h.out (v.placeOf gs)
  else s.performAll none [wordsEff pa [0]]

/-- The record of a slot in the incoming save area, if it names a thread. -/
def State.savedRecord (s : State) (h : Hover) (v : VFunc) (gs : Nat) : Option (List Word) :=
  let pa := v.saveAt h.inArea gs
  let w := s.dwordAt pa
  let size := bits w 26 20
  let grant := bits (s.dwordAt (pa + 176)) 9 0
  if h.inArea = 0 ∨ size % 8 ≠ 0 ∨ size = 0 ∨ 112 < size ∨ 512 < grant ∨ bits w 17 0 ≠ v.placeOf gs then none
  else some ((List.range (recLength size grant)).map (fun i => s.dwordAt (pa + 8 * i)))

/-- A thread comes back to a slot: what its record does not carry is as it was when it left (R322). -/
def State.returnSlot (s : State) (h : Hover) (v : VFunc) (gs base : Nat) (r : List Word) : State :=
  let place := v.placeOf gs
  match s.away.find? (fun a => a.vf == h.inc && a.place == place) with
  | some a =>
    let s1 := { s with
      away := s.away.filter (fun (x : Away) => !(x.vf == h.inc && x.place == place))
      chans := (s.chans.filter (fun (p : Nat × Chan) => p.2.gs == noSlot + a.t.uid)).foldl (fun (m : Map Chan) (p : Nat × Chan) =>
        mput m (65536 * coreOf gs + p.1 % 65536) { p.2 with gs := gs })
        (s.chans.filter (fun (p : Nat × Chan) => p.2.gs != noSlot + a.t.uid))
      nodes := s.nodes.map (fun (n : Node) => if n.uid = a.t.uid then { n with gs := gs } else n) }
    -- a thread killed meanwhile never runs again (R320)
    if !a.t.live then s1 else s1.placeRecord gs (s1.recordThread a.t (some h.inc) base r).rearmed r
  | none => { s with fresh := s.fresh + 1 }.placeRecord gs (s.recordThread { Thread.idle with uid := s.fresh } (some h.inc) base r).rearmed r

/-- Give a slot to the incoming function: its thread comes back if the area holds one; none while no window is free for it. -/
def State.fillSlot (s : State) (h : Hover) (v : VFunc) (gs : Nat) : Option State :=
  match s.savedRecord h v gs with
  | none => some s
  | some r =>
    match s.freeWindows (coreOf gs) (recSize r) 1 [] with
    | [b] => some (s.returnSlot h v gs b r)
    | _ => none

/-- `SLOT_HANDOVER` (R321): a slot changes its function; after the last one the command's result is written. -/
def execSlotHandover (gs : Nat) (s : State) : Outcome :=
  match s.hover, s.mb.run with
  | some h, some r =>
    match mget s.vfs h.out, mget s.vfs h.inc with
    | some vo, some vi =>
      if !h.slots.contains gs ∨ !s.runs gs then .next s
      else
        match (s.handable h gs).bind (fun s1 => (s1.saveSlot h vo gs).fillSlot h vi gs) with
        | some s2 =>
          let s3 := s2.bindSlots [coreOf gs] (BitVec.ofNat 64 (2 ^ slotOf gs)) (some h.inc)
          let left := h.slots.erase gs
          if left.isEmpty then .next ({ s3 with hover := none }.mbResult r.seq 0 (h.count + 1) 0)
          else .next { s3 with hover := some { h with slots := left, count := h.count + 1 } }
        | none => .next s
    | _, _ => .next s
  | _, _ => .next s

/-- `HANDOVER_RESUME` (R322, R381): the lanes a thread had are free, and it is granted exactly those. -/
def execHandoverResume (gs : Nat) (s : State) : Outcome :=
  let t := s.thread gs
  match t.hold with
  | some (.lanes n) =>
    if t.live ∧ s.runs gs ∧ n ≤ s.lanesFree gs then .next (s.setThread gs { t with hold := none, a := { t.a with grant := n } }) else .next s
  | _ => .next s

end Sys2Proof.Machine
end

