-- ==== Sys2Proof/Machine/Rename.lean ====
section
/-!
DEFINITION. A cluster's state under another cluster number: what a stop takes off the cluster and a restore puts on one, every item of
Table 16.7 with every name the rest of the part has for it (R325, R330, R331; log entry 14).
-/

namespace Sys2Proof.Machine

/-- A map with its keys renamed, in rising order again. -/
def mren (f : Nat → Nat) (m : Map α) : Map α := m.foldl (fun (acc : Map α) p => mput acc (f p.1) p.2) []

/-- Cluster a is named b. -/
structure Ren where
  a : Nat
  b : Nat

namespace Ren

/-- Names of cores, slots, scratchpad addresses, lines and signature items. -/
def core (r : Ren) (gc : Nat) : Nat := if gc / 8 = r.a then 8 * r.b + gc % 8 else gc
def slot (r : Ren) (gs : Nat) : Nat := if gs / 512 = r.a then 512 * r.b + gs % 512 else gs
def pa (r : Ren) (x : Nat) : Nat := if isSpad x ∧ spadCore x / 8 = r.a then spadAddr (r.core (spadCore x)) (x % 2 ^ 18) else x
def dword (r : Ren) (d : Nat) : Nat := r.pa (8 * d) / 8
def line (r : Ren) (l : Nat) : Nat := lineOf (r.pa (128 * l))
def item (r : Ren) (x : Nat) : Nat :=
  if 2 ^ 90 ≤ x then x
  else if 2 ^ 80 ≤ x then gItem (16 * r.core ((x - 2 ^ 80) / 16) + (x - 2 ^ 80) % 16)
  else r.line x

/-- An effect. -/
def eff (r : Ren) : Eff → Eff
  | .write x bs => .write (r.pa x) bs
  | .greg k v => .greg (16 * r.core (k / 16) + k % 16) v
  | .remote x bs => .remote (r.pa x) bs
  | .edge x bs => .edge x bs

/-- A binding with its prefetched elements. -/
def port (r : Ren) : PortBind → PortBind
  | .stream b => .stream { b with ahead := b.ahead.map (fun (p : Ahead) => { p with line := r.line p.line, trans := p.trans.map r.line }) }
  | .channel n => .channel n

/-- A load's destination, with the places it has read. -/
def dest (r : Ren) : Dest → Dest
  | .x f v src => .x f v (src.map (fun (p : Src) => { p with pa := r.pa p.pa }))
  | .elems v w vs pas => .elems v w vs (pas.map r.pa)

def arch (r : Ren) (a : Arch) : Arch := { a with ports := a.ports.map (fun (p : Nat × PortBind) => (p.1, r.port p.2)) }

def chunk (r : Ren) (c : Chunk) : Chunk :=
  { c with
    ckpt := r.arch c.ckpt, reads := c.reads.map r.item, writes := c.writes.map r.item, log := c.log.map (fun (e : Entry) => { e with eff := r.eff e.eff })
    trans := c.trans.map r.line
    deferred := c.deferred.map (fun d => match d with | .watch x => .watch (r.pa x) | d => d) }

def hold (r : Ren) : Hold → Hold
  | .qresWait x n => .qresWait (r.pa x) n
  | .qrelWait x => .qrelWait (r.pa x)
  | .edgeWait x n o v t => .edgeWait (r.pa x) n o v t
  | .sstop g => .sstop (r.slot g)
  | .request c items => .request c (items.map r.item)
  | h => h

def thread (r : Ren) (t : Thread) : Thread :=
  { t with
    a := r.arch t.a, chunks := t.chunks.map r.chunk, loads := t.loads.map (fun ds => ds.map r.dest)
    stores := t.stores.map (fun ss => ss.map (fun es => es.map r.eff)), pushes := t.pushes.map (fun es => es.map r.eff)
    mons := t.mons.map (fun (p : Nat × Nat × Bool) => (p.1, r.line p.2.1, p.2.2))
    aims := t.aims.map (fun (x : Aim) => { x with frame := r.pa (4096 * x.frame) / 4096 })
    resv := t.resv.map (fun (x : Resv) => { x with pa := r.pa x.pa })
    hold := t.hold.map r.hold }

/-- Keys of queues, 32 × core + owner; of bytes of tile rows; of register-file entries, shared registers and channels. -/
def queue (r : Ren) (k : Nat) : Nat := 32 * r.core (k / 32) + k % 32
def tile (r : Ren) (k : Nat) : Nat := if k / 2097152 = r.a then 2097152 * r.b + k % 2097152 else k
def entry (r : Ren) (k : Nat) : Nat := 2048 * r.core (k / 2048) + k % 2048
def greg (r : Ren) (k : Nat) : Nat := 16 * r.core (k / 16) + k % 16
def chan (r : Ren) (k : Nat) : Nat := 65536 * r.core (k / 65536) + k % 65536

/-- What the words of a pair read: the thread, memory and what stands beside it (R33). -/
def pre (r : Ren) (p : Pre) : Pre :=
  { p with
    t := r.thread p.t, mem := mren r.pa p.mem, poison := mren r.dword p.poison
    gregs := mren r.greg p.gregs
    gregHist := (mren r.greg p.gregHist).map (fun (x : Nat × List GWrite) =>
      (x.1, x.2.map (fun (g : GWrite) => { g with seen := g.seen.map r.slot })))
    remotes := p.remotes.map (fun (x : Nat × List Byte) => (r.pa x.1, x.2))
    tiles := mren r.tile p.tiles
    tilePoison := mren r.tile p.tilePoison
    vfs := p.vfs.map (fun (q : Nat × VFunc) => (q.1, { q.2 with cmap := q.2.cmap.map (fun c => if c = r.a then r.b else c) })) }

def child (r : Ren) (c : Child) : Child := { c with parent := r.slot c.parent }

def launch (r : Ren) (l : Launch) : Launch :=
  { l with
    areas := l.areas.map (fun (a : Area) => { a with gc := r.core a.gc })
    slots := l.slots.map (fun (x : Nat × Nat) => (r.slot x.1, x.2))
    places := l.places.map (fun (x : Nat × Nat) => (x.1, if x.2 = r.a then r.b else x.2))
    children := l.children.map r.child }

end Ren

/-- The state with a cluster under another number. Its cores' instruction caches and the words its slots have fetched do not go with it
(R281), nor do the committed lines of its L1 data caches (R325, R326). -/
def State.renameCluster (s : State) (a b : Nat) : State :=
  let r : Ren := ⟨a, b⟩
  { s with
    mem := mren r.pa s.mem, poison := mren r.dword s.poison
    rf := mren r.entry s.rf, gregs := mren r.greg s.gregs
    gregHist := (mren r.greg s.gregHist).map (fun (p : Nat × List GWrite) =>
      (p.1, p.2.map (fun (g : GWrite) => { g with seen := g.seen.map r.slot })))
    threads := (mren r.slot s.threads).map (fun (p : Nat × Thread) => (p.1, if clusterOf p.1 = b then { r.thread p.2 with fetched := [] } else r.thread p.2))
    vfs := s.vfs.map (fun (p : Nat × VFunc) => (p.1, { p.2 with cmap := p.2.cmap.map (fun c => if c = a then b else c) }))
    sigs := s.sigs.map (fun (q : Nat × List Nat) => ((if q.1 = 0 then 0 else r.slot (q.1 - 1) + 1), q.2.map r.item))
    remotes := s.remotes.map (fun (x : Nat × List Byte) => (r.pa x.1, x.2))
    edges := s.edges.map (fun (e : EdgeWrite) => { e with gs := r.slot e.gs })
    msgs := s.msgs.map (fun (m : Msg) => { m with gs := r.slot m.gs, core := r.core m.core, slot := m.slot.map r.slot })
    chans := (mren r.chan s.chans).map (fun (p : Nat × Chan) => (p.1, { p.2 with gs := r.slot p.2.gs }))
    copies := s.copies.map (fun (c : Copy) => { c with gs := r.slot c.gs })
    nodes := s.nodes.map (fun (n : Node) => { n with gs := r.slot n.gs, parent := r.slot n.parent })
    tiles := mren r.tile s.tiles, tilePoison := mren r.tile s.tilePoison
    matq := (mren r.queue s.matq).map (fun (p : Nat × List MatCmd) => (p.1, p.2.map (fun (c : MatCmd) => { c with gs := r.slot c.gs, held := mren r.entry c.held })))
    wrr := mren (fun c => if c = a then b else c) s.wrr
    watches := (mren r.dword s.watches).map (fun (p : Nat × Nat) => (p.1, r.slot p.2))
    homes := (mren r.pa s.homes).map (fun (p : Nat × Home) => (p.1, { p.2 with queue := p.2.queue.map r.slot }))
    icache := s.icache.filter (fun (p : Nat × List Byte) => p.1 / 2 ^ 48 / 8 != a)
    l1 := s.l1.filter (fun (p : Nat × Unit) => p.1 / 2 ^ 48 / 8 != a)
    bps := mren (fun k => 4 * r.core (k / 4) + k % 4) s.bps
    rqs := mren r.queue s.rqs
    launches := s.launches.map (fun (p : Nat × Launch) => (p.1, r.launch p.2)), orphans := s.orphans.map r.child
    binds := s.binds.map (fun (x : Bind) => { x with cores := x.cores.map r.core })
    hover := s.hover.map (fun (h : Hover) => { h with slots := h.slots.map r.slot })
    away := s.away.map (fun (w : Away) => { w with t := r.thread w.t })
    stops := s.stops.map (fun (p : Nat × BaleStop) => (p.1, { p.2 with sig := p.2.sig.map r.item }))
    pairs := (mren r.slot s.pairs).map (fun (p : Nat × Pre) => (p.1, r.pre p.2))
    traced := s.traced.map (fun (x : Traced) => { x with gs := r.slot x.gs }) }

end Sys2Proof.Machine
end

