-- ==== Sys2Proof/Machine/Bale.lean ====
section
/-!
DEFINITION. Bales (R324 to R332): the stop of a cluster, its freeze, the bale in its buffer, and the restore into a cluster. What
the bale's body holds is the part's own; the state of a stopped cluster stands under a number of its own until it is restored.
-/

/-- What the body of a bale holds: a state in which the baled cluster stands under the number 384; none where the bytes are no body. R328 lays
the body out nowhere, so that the value is free (log entry 7). -/
opaque Sys2Proof.Config.baleState : (body : List Sys2Proof.Byte) → Option Sys2Proof.Machine.State

namespace Sys2Proof.Machine

/-- The number under which the state of stop n stands. -/
def parked (n : Nat) : Nat := clusterCount + n

/-- The partition that owns a cluster's slots, banks, rows and lanes all alone, if one does (R324). -/
def State.wholeOwner (s : State) (pc : Nat) : Option Nat :=
  (s.parts.find? (fun x => x.2.ownsCluster pc && x.2.slots == BitVec.allOnes 64 && bits (dw x.2.desc 7) 63 32 == 0xFFFFFFFF &&
    x.2.trn == 1024 && x.2.lanes == 512)).map (·.1)

/-- A buffer may stand here: in host memory or a region that no partition owns (Table 16.9). -/
def State.bufferByte (s : State) (pa : Nat) : Bool := isHost pa || (isHbm pa && (s.regionOwner (hbmRegion pa)).isNone)
def State.bufferBlock (s : State) (pa : Nat) : Bool := s.bufferByte pa && s.bufferByte (pa + 4095)

/-- Blocks of a bale on this revision (R328). -/
def baleBlocks : Nat := 1335

/-- The stop in a given phase whose cluster is a given one. -/
def State.stopAt (s : State) (pc : Nat) (ph : StopPhase) : Option (Nat × BaleStop) :=
  s.stops.find? (fun (x : Nat × BaleStop) => x.2.pc == pc && x.2.phase == ph)

/-- A condition of a stop or restore, or its code of Table 16.9 with a block (R329). -/
def baleNeed (ok : Bool) (code block : Nat) : Except (Nat × Nat × Nat) Unit :=
  if ok then .ok () else .error (code, 0, code + 2 ^ 32 * block)

/-! Stops. -/

/-- A cluster stops: its cores issue nothing more, its ungranted requests are withdrawn (R326 step 1). -/
def State.stopCluster (s : State) (pc part buf : Nat) (mig : Option Nat) : State :=
  let b : BaleStop := ⟨pc, part, buf, .stopping, 0, 0, [], 0, false, mig, false, false⟩
  { s with
    stops := mput s.stops s.nextStop b, nextStop := s.nextStop + 1
    threads := s.threads.map (fun (x : Nat × Thread) =>
      if clusterOf x.1 = pc then
        (x.1, { x.2 with chunks := x.2.chunks.map (fun (c : Chunk) => if c.granted then c else { c with requested := none }) })
      else x) }

/-- `BSTOP` (R324, R326): stop a cluster into a buffer. -/
def execBstop (c : MbCmd) (s : State) : Outcome :=
  s.mbDo 0x10 c (fun s => do
    let pc := mbTgt c
    let buf := (mbArg c 0).toNat
    match (if pc < clusterCount then s.wholeOwner pc else none) with
    | none => .error (5, 0, 5)
    | some part =>
      baleNeed (s.clusterRuns pc && !s.freed.contains pc) 5 0
      baleNeed ((List.range baleBlocks).all (fun k => s.bufferBlock (buf + 4096 * k))) 6 0
      pure { s := s.stopCluster pc part buf none, wait := some (.bstop pc) })

/-- A slot's oldest chunk that stands with lines spilled to L2 (R241, R326 step 3). -/
def Thread.firstSpilled (t : Thread) : Option Nat :=
  (List.range t.chunks.length).find? (fun i => decide (0 < spilled ({ t with chunks := t.chunks.take (i + 1) } : Thread).l1Lines))

/-- Chunks of a cluster that hold spilled lines are squashed. -/
def State.unspill (s : State) (pc : Nat) : State :=
  ((s.threads.map (·.1)).filter (fun gs => clusterOf gs == pc)).foldl (fun (s : State) gs =>
    match (if s.exactCount gs then (s.thread gs).firstSpilled else none) with
    | some i => s.squash gs i true false
    | none => s) s

/-- Functions that slots of a cluster serve, in ascending order. -/
def State.functionsOn (s : State) (pc : Nat) : List Nat :=
  let fs := (List.range 512).filterMap (fun i => s.boundTo (512 * pc + i))
  (List.range 256).filter (fun f => fs.contains f)

/-- The signature on its way comes from a slot of the cluster. -/
def sigFrom (cl : Nat) (q : Nat × List Nat) : Bool := q.1 != 0 && clusterOf (q.1 - 1) == cl

/-- `BALE_FREEZE` (R326): every grant of the cluster has reached its core, and what its commits wrote has been heard; the clock stops, and the
cluster's state stands apart. Signatures still on their way to it are in its stop signature (R327). -/
def execBaleFreeze (cl : Nat) (s : State) : Outcome :=
  match s.stopAt cl .stopping with
  | none => .next s
  | some (n, b) =>
    if s.threads.any (fun x => clusterOf x.1 == cl && x.2.chunks.any (fun c => c.granted)) || s.sigs.any (sigFrom cl) then .next s
    else
      let fs := s.functionsOn cl
      let s1 := s.unspill cl
      let b1 := { b with
        phase := .frozen, cseq := s1.pkgSeq, cyc := s1.cycle, vf := fs.headD 0, multi := decide (1 < fs.length)
        sig := (s1.sigs.flatMap (·.2)).dedup }
      .next ({ s1 with stops := mput s1.stops n b1 }.renameCluster cl (parked n))

/-! The bale (R328, Table 16.8). -/

/-- The header's dwords, with HCRC as given. -/
def State.baleHeader (s : State) (n : Nat) (b : BaleStop) (hcrc : Nat) : List Word :=
  let sk (k : Nat) : Nat := Config.skidCount (4 * n + k) % 9
  let nunc := (s.threads.filter (fun x => clusterOf x.1 == parked n && !x.2.chunks.isEmpty)).length
  ([2 ^ 48 + Config.rev % 2 ^ 24 * 2 ^ 24 + baleBlocks * 2 ^ 12,
    Config.lhash % 2 ^ 32 * 2 ^ 32 + hcrc,
    Config.devid % 2 ^ 20 * 2 ^ 44 + b.pc / 96 * 2 ^ 42 + b.pc % 96 * 2 ^ 35 + b.part * 2 ^ 30 + b.multi.toNat * 2 ^ 29 + b.vf * 2 ^ 21,
    b.cseq.toNat,
    sk 3 * 2 ^ 12 + sk 2 * 2 ^ 8 + sk 1 * 2 ^ 4 + sk 0,
    nunc, b.cyc] : List Nat).map (BitVec.ofNat 64)

/-- A block of 4 KiB that begins with some doublewords. -/
def blockOf (ws : List Word) : List Byte :=
  let bs := ws.flatMap (fun w => leBytes 8 w.toNat)
  bs ++ List.replicate (4096 - bs.length) 0

/-- Block k of the body: bits that the spec lays out nowhere. -/
def bodyBlock (n k : Nat) : List Byte := (List.range 4096).map (fun i => Config.freeByte (2 ^ 24 * n + 4096 * k + i))

/-- The CRC table, blocks 1 and 2. -/
def crcTable (n : Nat) : List Byte :=
  (List.range 2048).flatMap (fun k => leBytes 4 (if 3 ≤ k ∧ k < baleBlocks then crc32c (bodyBlock n k) else 0))

/-- The whole bale of stop n. -/
def State.baleBytes (s : State) (n : Nat) (b : BaleStop) : List Byte :=
  blockOf (s.baleHeader n b (crc32c (blockOf (s.baleHeader n b 0)))) ++ crcTable n ++
    (List.range (baleBlocks - 3)).flatMap (fun k => bodyBlock n (k + 3))

/-- A command's wait has ended: its result is written (R358). -/
def State.answerWait (s : State) (w : MbWait) (d1 d3 : Nat) : State :=
  match s.mb.run with
  | some r => if r.wait = w then s.mbResult r.seq 0 d1 d3 else s
  | none => s

/-- `BALE_STREAM_OUT_END` (R326, R331): the bale stands in its buffer; the cluster is stopped and free. -/
def execBaleStreamOutEnd (cl : Nat) (s : State) : Outcome :=
  match s.stopAt cl .frozen with
  | none => .next s
  | some (n, b) =>
    let s1 := { s with stops := mput s.stops n { b with phase := .out } }
    match b.mig with
    | some _ => .next s1
    | none =>
      .next (({ s1 with freed := cl :: s1.freed }.performAll none [partEff b.buf (s.baleBytes n b)]).answerWait (.bstop cl)
        b.cseq.toNat 0)

/-! Restores (R329 to R332). -/

/-- What a bale's header names: revision, hash, part, cluster, partition, function, several functions, CSEQ, CYCLE at the freeze. -/
structure BaleHead where
  rev : Nat
  lhash : Nat
  dev : Nat
  pc : Nat
  part : Nat
  vf : Nat
  multi : Bool
  cseq : Word
  cyc : Nat
deriving DecidableEq, Repr

/-- The header's fields. -/
def baleHead (h : List Word) : BaleHead :=
  ⟨bits (dw h 0) 47 24, bits (dw h 1) 63 32, bits (dw h 2) 63 44, bits (dw h 2) 43 42 * 96 + bits (dw h 2) 41 35, bits (dw h 2) 34 30,
    bits (dw h 2) 28 21, bit (dw h 2) 29, dw h 3, (dw h 6).toNat⟩

/-- Checks 1 to 5 of R329 on a bale in a buffer. -/
def State.checkBale (s : State) (buf : Nat) : Except (Nat × Nat × Nat) BaleHead := do
  baleNeed (s.bufferBlock buf) 6 0
  let h := (List.range 512).map (fun i => s.dwordAt (buf + 8 * i))
  let blocks := bits (dw h 0) 23 12
  baleNeed (bits (dw h 0) 63 48 == 1 && decide (4 ≤ blocks ∧ blocks ≤ 2048)) 4 0
  baleNeed ((List.range blocks).all (fun k => s.bufferBlock (buf + 4096 * k))) 6 0
  baleNeed (crc32c (blockOf (h.set 1 (putBits (dw h 1) 31 0 0))) == bits (dw h 1) 31 0) 3 0
  match (List.range (blocks - 3)).find? (fun k =>
      crc32c (s.bytesAt (buf + 4096 * (k + 3)) 4096) != s.natAt (buf + 4096 + 4 * (k + 3)) 4) with
  | some k => .error (3, 0, 3 + 2 ^ 32 * (k + 3))
  | none => pure ()
  let b := baleHead h
  baleNeed (b.rev == Config.rev % 2 ^ 24) 1 0
  baleNeed (b.lhash == Config.lhash % 2 ^ 32) 2 0
  pure b

/-- The stop that a bale of this part comes from, if it has its parking queue (R331). -/
def State.stopOf (s : State) (h : BaleHead) : Option (Nat × BaleStop) :=
  s.stops.find? (fun (x : Nat × BaleStop) => x.2.phase == .out && x.2.pc == h.pc && x.2.cseq == h.cseq && x.2.mig.isNone && !x.2.foreign)

/-- The body in a buffer is not the one that stop n of this part wrote (log entry 7). -/
def State.bodyAltered (s : State) (n buf : Nat) : Bool :=
  (List.range (baleBlocks - 3)).any (fun k => s.bytesAt (buf + 4096 * (k + 3)) 4096 != bodyBlock n (k + 3))

/-- `BREST` (R329 to R331): check a bale and stream it into a stopped, free cluster. -/
def execBrest (c : MbCmd) (s : State) : Outcome :=
  s.mbDo 0x11 c (fun s => do
    let pc := mbTgt c
    let h ← s.checkBale (mbArg c 0).toNat
    baleNeed (decide (pc < clusterCount) && s.freed.contains pc && s.wholeOwner pc == some h.part) 5 0
    let into (n : Nat) (b : BaleStop) : MbDone :=
      { s := { s with stops := mput s.stops n { b with phase := .into pc }, freed := s.freed.filter (fun x => x != pc) }
        wait := some (.brest pc) }
    if h.dev = Config.devid % 2 ^ 20 then
      match s.stopOf h with
      | some (n, b) => pure (into n { b with buf := (mbArg c 0).toNat, altered := s.bodyAltered n (mbArg c 0).toNat })
      | none => .error (5, 0, 5)
    else
      let d := into s.nextStop ⟨pc, h.part, (mbArg c 0).toNat, .out, h.cseq, h.cyc, [], h.vf, h.multi, none, true, false⟩
      pure { d with s := { d.s with nextStop := s.nextStop + 1 } })

/-- A cluster's arrays and queues, which a restore writes whole, start empty (R331). -/
def State.clearCluster (s : State) (pc : Nat) : State :=
  let s1 := (s.zeroBanks pc (fun _ => true)).zeroRows pc (fun _ => true)
  { s1.unbind (coresOf pc) (BitVec.allOnes 64) with
    rf := s1.rf.filter (fun (p : Nat × Word) => p.1 / 2048 / 8 != pc)
    gregs := s1.gregs.filter (fun (p : Nat × Word) => p.1 / 16 / 8 != pc)
    gregHist := s1.gregHist.filter (fun (p : Nat × List GWrite) => p.1 / 16 / 8 != pc)
    rqs := s1.rqs.filter (fun (p : Nat × List (Nat × Word)) => p.1 / 256 != pc)
    matq := s1.matq.filter (fun (p : Nat × List MatCmd) => p.1 / 256 != pc)
    chans := s1.chans.filter (fun (p : Nat × Chan) => p.1 / 65536 / 8 != pc)
    icache := s1.icache.filter (fun (p : Nat × List Byte) => p.1 / 2 ^ 48 / 8 != pc)
    l1 := s1.l1.filter (fun (p : Nat × Unit) => p.1 / 2 ^ 48 / 8 != pc)
    bps := s1.bps.filter (fun (p : Nat × Nat × Nat) => p.1 / 32 != pc)
    copies := s1.copies.filter (fun (c : Copy) => clusterOf c.gs != pc)
    threads := s1.threads.filter (fun (p : Nat × Thread) => clusterOf p.1 != pc) }

/-- One map with the entries of another over its own. -/
def mjoin (m n : Map α) : Map α := n.foldl (fun (acc : Map α) p => mput acc p.1 p.2) m

/-- Every item of Table 16.7 that a state holds of a cluster, and nothing else. -/
def State.onlyCluster (d : State) (cl : Nat) : State :=
  let spad (pa : Nat) : Bool := isSpad pa && spadCore pa / 8 == cl
  let slot (gs : Nat) : Bool := clusterOf gs == cl
  { State.reset with
    fresh := d.fresh
    mem := d.mem.filter (fun (p : Host.Cell) => spad p.1), poison := d.poison.filter (fun (p : Nat × Unit) => spad (8 * p.1))
    rf := d.rf.filter (fun (p : Nat × Word) => p.1 / 2048 / 8 == cl), gregs := d.gregs.filter (fun (p : Nat × Word) => p.1 / 16 / 8 == cl)
    gregHist := d.gregHist.filter (fun (p : Nat × List GWrite) => p.1 / 16 / 8 == cl)
    threads := d.threads.filter (fun (p : Nat × Thread) => slot p.1), pairs := d.pairs.filter (fun (p : Nat × Pre) => slot p.1)
    remotes := d.remotes.filter (fun (r : Nat × List Byte) => spad r.1), edges := d.edges.filter (fun (e : EdgeWrite) => slot e.gs)
    msgs := d.msgs.filter (fun (m : Msg) => m.core / 8 == cl || slot m.gs)
    chans := d.chans.filter (fun (p : Nat × Chan) => p.1 / 65536 / 8 == cl), copies := d.copies.filter (fun (c : Copy) => slot c.gs)
    nodes := d.nodes.filter (fun (n : Node) => slot n.gs)
    tiles := d.tiles.filter (fun (p : Nat × Byte) => p.1 / 2097152 == cl)
    tilePoison := d.tilePoison.filter (fun (p : Nat × Unit) => p.1 / 2097152 == cl)
    matq := d.matq.filter (fun (p : Nat × List MatCmd) => p.1 / 256 == cl), wrr := d.wrr.filter (fun (p : Nat × Nat) => p.1 == cl)
    watches := d.watches.filter (fun (p : Nat × Nat) => spad (8 * p.1)), homes := d.homes.filter (fun (p : Nat × Home) => spad p.1)
    rqs := d.rqs.filter (fun (p : Nat × List (Nat × Word)) => p.1 / 256 == cl)
    bps := d.bps.filter (fun (p : Nat × Nat × Nat) => p.1 / 32 == cl) }

/-- The function of a core of a bale: the header's, or where cores of several functions stand in it the one that the bale records for the core
(R331); `d` is what the body holds, with its cluster under the number `cl`. -/
def BaleStop.coreFn (b : BaleStop) (s d : State) (cl c : Nat) : Nat :=
  match d.boundTo (64 * (8 * cl + c)) with
  | some f => if b.multi && ((mget s.vfs f).map VFunc.part) == some b.part then f else b.vf
  | none => b.vf

/-- A function's logical cluster of a bale that another part took names the target: the entry that the bale records, unless one names it
already (R330 step 3). -/
def State.pointAt (s d : State) (cl vf pc : Nat) : State :=
  match mget s.vfs vf with
  | none => s
  | some v =>
    if v.cmap.contains pc then s
    else
      let l := (((mget d.vfs vf).bind (fun w => w.logical cl)).getD 0) % max 1 v.cmap.length
      { s with vfs := mput s.vfs vf { v with cmap := v.cmap.set l pc } }

/-- The numbers that a bale's threads, copies, commands and messages bear rise by `off`, so that none of them is one of this part's; an ASID is
the function's own. -/
def VFunc.asidIn (v : VFunc) (asid : Nat) : Nat := v.abase + asid % max 1 v.acnt

/-- A thread of a bale, as a thread of a function of this part. -/
def Thread.seated (t : Thread) (off vf : Nat) (v : VFunc) : Thread :=
  { t with
    uid := off + t.uid, parent := t.parent.map (off + ·), lid := none
    vf := t.vf.map (fun _ => vf), asid := if t.vf.isSome then v.asidIn t.asid else t.asid
    copies := t.copies.map (fun (c : Nat × Bool) => (off + c.1, c.2)), mats := t.mats.map (fun (c : Nat × Bool) => (off + c.1, c.2))
    hold := match t.hold with
      | some (.pull ..) | some (.pullFailed ..) => some .retry
      | h => h
    stopFor := none, frozen := false, haltNext := false, fetched := [] }

/-- A thread that a bale brings has a window and a grant that a thread can have (R12, R156). -/
def Thread.seatable (t : Thread) : Bool :=
  decide (t.winLim % 8 = 0 ∧ 8 ≤ t.winLim ∧ t.winLim ≤ 112 ∧ t.winBase % 8 = 0 ∧ t.winBase + t.winLim ≤ 2048 ∧ t.a.grant ≤ 512)

/-- Put one thread of a bale in its slot. -/
def State.seat (s : State) (off gs vf : Nat) (t : Thread) : State :=
  match mget s.vfs vf with
  | some v => if !t.live || (t.seatable && s.windowFree (coreOf gs) t.winBase t.winLim) then s.setThread gs (t.seated off vf v) else s
  | none => s

/-- Put what a bale holds of a cluster, already under the cluster's number, into the cluster: arrays and queues, threads, and what is in
progress or on its way, each with this part's numbers and the core's function (R330, R331). -/
def State.joinCluster (s d : State) (part : Nat) (fn : Nat → Nat) : State :=
  let off := s.fresh
  let at_ (gs : Nat) : Nat := fn (gs / 64 % 8)
  let asid (gs a : Nat) : Nat := ((mget s.vfs (at_ gs)).map (fun v => v.asidIn a)).getD a
  let key (k : Nat) : Nat := 32 * (k / 32) + part + 1
  let s1 := d.mem.foldl (fun (s : State) c => s.setBytes c.1 [c.2]) s
  let s2 := d.poison.foldl (fun (s : State) p => s.setPoison p.1 true) s1
  let s3 := d.threads.foldl (fun (s : State) p => s.seat off p.1 (at_ p.1) p.2) s2
  { s3 with
    fresh := s.fresh + d.fresh
    rf := mjoin s3.rf d.rf, gregs := mjoin s3.gregs d.gregs, gregHist := mjoin s3.gregHist d.gregHist, pairs := mjoin s3.pairs d.pairs
    remotes := s3.remotes ++ d.remotes
    edges := s3.edges ++ d.edges.map (fun (e : EdgeWrite) =>
      { e with id := off + e.id, uid := off + e.uid, vf := e.vf.map (fun _ => at_ e.gs), copy := e.copy.map (off + ·) })
    msgs := s3.msgs ++ d.msgs.map (fun (m : Msg) =>
      { m with id := off + m.id, uid := off + m.uid, vf := m.vf.map (fun _ => at_ (64 * m.core)), lid := none })
    chans := mjoin s3.chans d.chans
    copies := s3.copies ++ d.copies.map (fun (c : Copy) =>
      { c with id := off + c.id, uid := off + c.uid, vf := c.vf.map (fun _ => at_ c.gs), asid := asid c.gs c.asid })
    nodes := s3.nodes ++ d.nodes.map (fun (n : Node) => { n with uid := off + n.uid, vf := at_ n.gs })
    tiles := d.tiles.foldl (fun m p => mset 0 m p.1 p.2) s3.tiles, tilePoison := mjoin s3.tilePoison d.tilePoison
    matq := d.matq.foldl (fun m p => mput m (key p.1) (p.2.map (fun (c : MatCmd) =>
      { c with id := off + c.id, uid := off + c.uid, fn := c.fn.map (fun _ => at_ c.gs), waits := c.waits.map (off + ·), lid := none }))) s3.matq
    wrr := mjoin s3.wrr d.wrr
    watches := d.watches.foldl (fun m p => mput m p.1 (64 * spadCore (8 * p.1) + p.2 % 64)) s3.watches
    homes := mjoin s3.homes d.homes
    rqs := d.rqs.foldl (fun m p => mput m (key p.1) p.2) s3.rqs
    bps := d.bps.foldl (fun m p => mput m p.1 (p.2.1, part)) s3.bps }

/-- What the body of a bale brings into a cluster, for a bale of another part or one of this part whose body has been altered: every item of
Table 16.7, each bound to its core's function. How the body is laid out is the part's own, so that what it holds is a free value of its bytes
(log entry 7). With `bare` a migration carries the copies, nodes, bindings and messages beside the bale (R377, R387). -/
def State.foreignContent (s : State) (body : List Byte) (b : BaleStop) (pc : Nat) (bare : Bool) : State :=
  let d := (Config.baleState body).getD State.reset
  let d1 := (d.onlyCluster (parked 0)).renameCluster (parked 0) pc
  let d2 := if bare then { d1 with copies := [], nodes := [], chans := [], msgs := [] } else d1
  let fn (c : Nat) : Nat := b.coreFn s d (parked 0) c
  let s1 := (List.range 8).foldl (fun (s : State) c => s.bindSlots [8 * pc + c] (BitVec.allOnes 64) (some (fn c))) s
  let s2 := ((List.range 8).map fn).dedup.foldl (fun (s : State) f => s.pointAt d (parked 0) f pc) s1
  s2.joinCluster d2 b.part fn

/-- A thread whose cluster's clock stood still from one cycle to another (R327). -/
def Thread.later (t : Thread) (stop now : Nat) : Thread :=
  { t with
    chunks := t.chunks.map (fun (c : Chunk) => { c with start := c.start + now - stop })
    hold := match t.hold with
      | some (.sleep w (some x)) => some (.sleep w (some (if t.det then x else x + now - stop)))
      | h => h }

/-- The check of R332 on one slot: with `all`, every uncommitted chunk is squashed and every monitor hit; else what the stop
signature meets. -/
def State.checkChunks (s : State) (all : Bool) (sig : List Nat) (gs : Nat) : State :=
  let t := s.thread gs
  let t1 : Thread :=
    if all then { t with a := t.a.rewound, mons := t.mons.map (fun (p : Nat × Nat × Bool) => (p.1, p.2.1, true)) }
    else
      let h := t.hitLines sig
      { h with mons := h.mons.map (fun (p : Nat × Nat × Bool) => if sigAliases [p.2.1] sig then (p.1, p.2.1, true) else p) }
  let s1 := s.setThread gs t1
  match (if all then (if t1.chunks.isEmpty then none else some 0) else t1.firstMet sig) with
  | some i => s1.squash gs i true false
  | none => s1

/-- The clock of a cluster starts again: its threads go on from the cycle in which it stopped, after the check of R332. -/
def State.startClock (s : State) (pc stop : Nat) (all : Bool) (sig : List Nat) : State :=
  ((s.threads.map (·.1)).filter (fun gs => clusterOf gs == pc)).foldl (fun (s : State) gs =>
    (s.setThread gs ((s.thread gs).later stop s.cycle)).checkChunks all sig gs) s

/-- `BALE_STREAM_IN_END` (R330, R332): the cluster's state stands in the target, the names follow, the chunks are checked and the
clock starts. -/
def execBaleStreamInEnd (cl : Nat) (s : State) : Outcome :=
  match s.stops.find? (fun (x : Nat × BaleStop) => x.2.phase == .into cl) with
  | none => .next s
  | some (n, b) =>
    let s1 := s.clearCluster cl
    let body := s.bytesAt (b.buf + 12288) (4096 * (baleBlocks - 3))
    let s2 := if b.foreign then s1.foreignContent body b cl false
      else if b.altered then ((s1.renameCluster (parked n) cl).clearCluster cl).foreignContent body b cl false
      else s1.renameCluster (parked n) cl
    let sig := ((mget s2.stops n).map BaleStop.sig).getD []
    let all := b.foreign || decide (4096 < (s2.pkgSeq - b.cseq).toNat)
    let s3 := s2.startClock cl b.cyc all sig
    .next ({ s3 with stops := mdel s3.stops n }.answerWait (.brest cl) s3.pkgSeq.toNat 0)

end Sys2Proof.Machine
end

