-- ==== Sys2Proof/Machine/Wire.lean ====
section
/-!
DEFINITION. The stream of a migration (R378 to R381): steps and their headers, sections with zero doublewords left out, and what the
QUEUE and OWN sections carry. The spec names the items of these two and lays them out nowhere: their order is the model's (log
entry 28).
-/

namespace Sys2Proof.Machine

/-! Sections (R380, Table 22.5). -/

/-- A group of up to 64 dwords: its mask and its non-zero dwords. -/
def groupWords (ws : List Word) : List Word :=
  BitVec.ofNat 64 ((ws.zipIdx.map (fun p => if p.1 = 0 then 0 else 2 ^ p.2)).foldl (· + ·) 0) :: ws.filter (fun w => w != 0)

/-- A content in groups. -/
def contentWords : Nat → List Word → List Word
  | 0, _ => []
  | n + 1, ws => if ws = [] then [] else groupWords (ws.take 64) ++ contentWords n (ws.drop 64)

/-- A section. -/
def sectionWords (type : Nat) (ws : List Word) : List Word :=
  BitVec.ofNat 64 (type * 2 ^ 56 + ws.length) :: contentWords (ws.length / 64 + 1) ws

/-- Where a section stands in the order of Table 22.5; none for a TYPE it does not list. -/
def sectionRank (type : Nat) : Option Nat := ([1, 2, 3, 4, 5, 8, 7, 6, 9] : List Nat).idxOf? type

/-- What reading gives: a value and what is left, too few dwords so far, or a wrong format. -/
inductive Got (α : Type) where
  | ok (a : α) (rest : List Word)
  | short
  | bad

/-- The dwords of a group by its mask. -/
def takeGroup (mask : Word) : Nat → Nat → List Word → Option (List Word × List Word)
  | 0, _, ws => some ([], ws)
  | n + 1, i, ws =>
    if bit mask i then
      match ws with
      | w :: r => (takeGroup mask n (i + 1) r).map (fun x => (w :: x.1, x.2))
      | [] => none
    else (takeGroup mask n (i + 1) ws).map (fun x => (0 :: x.1, x.2))

/-- A content of n dwords. -/
def takeContent : Nat → Nat → List Word → Got (List Word)
  | 0, _, ws => .ok [] ws
  | fuel + 1, n, ws =>
    if n = 0 then .ok [] ws
    else
      match ws with
      | [] => .short
      | mask :: r =>
        let k := min n 64
        if k < 64 ∧ bits mask 63 k ≠ 0 then .bad
        else
          match takeGroup mask k 0 r with
          | none => .short
          | some (c, r1) =>
            match takeContent fuel (n - k) r1 with
            | .ok d r2 => .ok (c ++ d) r2
            | .short => .short
            | .bad => .bad

/-- The sections of a stream so far: those that stand whole, and the TYPE of one that continues. -/
def takeSections : Nat → Nat → List Word → Option (List (Nat × List Word) × Option Nat)
  | 0, _, _ => none
  | _ + 1, _, [] => some ([], none)
  | fuel + 1, rank, h :: ws =>
    let type := bits h 63 56
    let n := bits h 31 0
    match sectionRank type with
    | none => none
    | some k =>
      if k < rank ∨ bits h 55 32 ≠ 0 ∨ (type = 9 ∧ (n ≠ 0 ∨ ws ≠ [])) then none
      else
        match takeContent (ws.length + 1) n ws with
        | .bad => none
        | .short => some ([], some type)
        | .ok c rest => (takeSections fuel k rest).map (fun x => ((type, c) :: x.1, x.2))

/-! Steps (Table 22.4). -/

/-- Dwords of payload in a step at most. -/
def stepRoom : Nat := 8184

/-- The header of a step with HCRC as given. -/
def stepHeader (form index dev vf : Nat) (fin : Bool) (payload : List Byte) (hcrc : Nat) : List Word :=
  ([2 ^ 48 + form * 2 ^ 40 + index % 2 ^ 32, fin.toNat * 2 ^ 63 + payload.length, Config.lhash % 2 ^ 32 * 2 ^ 32 + Config.rev % 2 ^ 24,
    vf * 2 ^ 20 + dev, hcrc * 2 ^ 32 + crc32c payload, 0, 0, 0] : List Nat).map (BitVec.ofNat 64)

/-- Doublewords as bytes. -/
def wordBytes (ws : List Word) : List Byte := ws.flatMap (fun w => leBytes 8 w.toNat)

/-- A step of this part. -/
def stepBytes (form index vf : Nat) (fin : Bool) (payload : List Word) : List Byte :=
  let pb := wordBytes payload
  let dev := Config.devid % 2 ^ 20
  wordBytes (stepHeader form index dev vf fin pb (crc32c (wordBytes (stepHeader form index dev vf fin pb 0)))) ++ pb

/-! Items as doublewords and back. -/

/-- A reader of items. -/
abbrev Rd := StateT (List Word) Option

def nw (n : Nat) : Word := BitVec.ofNat 64 n
def rdW : Rd Word := fun ws => match ws with
  | w :: r => some (w, r)
  | [] => none
def rdN : Rd Nat := do
  let w ← rdW
  pure w.toNat
def wList (f : α → List Word) (xs : List α) : List Word := nw xs.length :: xs.flatMap f
def rdMany (f : Rd α) : Nat → Rd (List α)
  | 0 => pure []
  | n + 1 => do
    let a ← f
    let r ← rdMany f n
    pure (a :: r)
def rdList (f : Rd α) : Rd (List α) := do
  let n ← rdN
  rdMany f n
def wOpt (f : α → List Word) : Option α → List Word
  | none => [0]
  | some a => 1 :: f a
def rdOpt (f : Rd α) : Rd (Option α) := do
  let n ← rdN
  if n = 0 then pure none
  else do
    let a ← f
    pure (some a)
def wPair (p : Nat × Nat) : List Word := [nw p.1, nw p.2]
def rdPair : Rd (Nat × Nat) := do
  let a ← rdN
  let b ← rdN
  pure (a, b)

/-- The synchronous causes by their codes (Table 16.1). -/
def Cause.ofCode (n : Nat) : Cause :=
  match n with
  | 1 => .illegalInstruction
  | 2 => .illegalPair
  | 3 => .illegalOperand
  | 4 => .privilege
  | 5 => .pageAbsent
  | 6 => .pageProtection
  | 7 => .segmentBound
  | 8 => .dataPoison
  | 9 => .misaligned
  | 10 => .streamEnd
  | 11 => .arith
  | 12 => .claim
  | 13 => .port
  | 16 => .message
  | 17 => .debug
  | n => .request (n - 128)

/-- A fault that a copy holds (R214, R387). -/
def wTrap (t : Trap) : List Word := [nw t.cause.code, nw (t.acc + 4 * t.orig + 16 * t.av.toNat), t.info1, t.info2]
def rdTrap : Rd Trap := do
  let c ← rdN
  let k ← rdN
  let i1 ← rdW
  let i2 ← rdW
  pure { cause := Cause.ofCode c, acc := k % 4, orig := k / 4 % 4, av := k / 16 % 2 == 1, held := true, info1 := i1, info2 := i2 }

def wChild (c : Child) : List Word :=
  [nw c.parent, nw c.puid, c.entry, c.arg, c.x3, nw c.ent] ++ wList (fun n => [nw n]) c.path ++ wList (fun g => [g.zeroExtend 64]) c.gid
def rdChild : Rd Child := do
  let parent ← rdN
  let puid ← rdN
  let entry ← rdW
  let arg ← rdW
  let x3 ← rdW
  let ent ← rdN
  let path ← rdList rdN
  let gid ← rdList rdW
  pure ⟨parent, puid, entry, arg, x3, path, gid.map (fun (w : Word) => w.extractLsb' 0 32), ent⟩

def wTask (t : Task) : List Word := [nw t.num, t.ts, t.entry, t.arg, t.x3] ++ wOpt (fun n => [nw n]) t.pool
def rdTask : Rd Task := do
  let num ← rdN
  let ts ← rdW
  let entry ← rdW
  let arg ← rdW
  let x3 ← rdW
  let pool ← rdOpt rdN
  pure ⟨num, ts, entry, arg, x3, pool⟩

def wArea (a : Area) : List Word := [nw a.grp, nw a.gc, nw a.off, nw a.len]
def rdArea : Rd Area := do
  let grp ← rdN
  let gc ← rdN
  let off ← rdN
  let len ← rdN
  pure ⟨grp, gc, off, len⟩

def wLaunch (l : Launch) : List Word :=
  [nw l.queue, nw l.asid] ++ wList (fun w => [w]) l.record ++ [nw l.begun] ++ wOpt (fun n => [nw n]) l.start ++
    [nw l.exited, nw l.turns, nw l.first, nw l.created, nw l.ending] ++ wList wPair l.blocks ++ wList wPair l.dies ++ wList wArea l.areas ++
    wList wPair l.slots ++ wList wPair l.places ++ wList wChild l.children ++ wList wTask l.tasks
def rdLaunch : Rd Launch := do
  let queue ← rdN
  let asid ← rdN
  let record ← rdList rdW
  let begun ← rdN
  let start ← rdOpt rdN
  let exited ← rdN
  let turns ← rdN
  let first ← rdN
  let created ← rdN
  let ending ← rdN
  let blocks ← rdList rdPair
  let dies ← rdList rdPair
  let areas ← rdList rdArea
  let slots ← rdList rdPair
  let places ← rdList rdPair
  let children ← rdList rdChild
  let tasks ← rdList rdTask
  pure ⟨0, queue, 0, asid, record, begun, blocks, start, exited, dies, turns, areas, slots, places, children, tasks, first, created,
    ([], []), ending⟩

def wChan (p : Nat × Chan) : List Word :=
  [nw p.1, nw p.2.gs, nw p.2.port, nw p.2.roff, nw p.2.rlog, nw p.2.head, nw p.2.count]
def rdChan : Rd (Nat × Chan) := do
  let k ← rdN
  let gs ← rdN
  let port ← rdN
  let roff ← rdN
  let rlog ← rdN
  let head ← rdN
  let count ← rdN
  pure (k, ⟨gs, port, roff, rlog, head, count⟩)

def wNode (n : Node) : List Word :=
  [nw n.tree, nw n.gs, nw n.uid, nw n.root.toNat, nw n.cix, nw n.nch, nw n.parent] ++
    wOpt (fun c => [nw c.1, nw c.2.1] ++ wList (fun v => [nw v]) c.2.2) n.contrib ++ wOpt (wList (fun w => [w])) n.out
def rdNode : Rd Node := do
  let tree ← rdN
  let gs ← rdN
  let uid ← rdN
  let root ← rdN
  let cix ← rdN
  let nch ← rdN
  let parent ← rdN
  let contrib ← rdOpt (do
    let p ← rdPair
    let vs ← rdList rdN
    pure (p.1, p.2, vs))
  let out ← rdOpt (rdList rdW)
  pure ⟨0, tree, gs, uid, root == 1, cix, nch, parent, contrib, out⟩

/-- A queue as it travels: number, pending, mapped, the offset of its ASID, NP, HEAD (R377, Table 22.5). -/
structure QueueItem where
  q : Nat
  pend : Bool
  mapped : Bool
  asid : Nat
  np : Bool
  head : Nat

def wQueue (x : QueueItem) : List Word := [nw (x.q + 64 * x.pend.toNat + 128 * x.mapped.toNat + 256 * x.np.toNat), nw x.asid, nw x.head]
def rdQueue : Rd QueueItem := do
  let f ← rdN
  let asid ← rdN
  let head ← rdN
  pure ⟨f % 64, f / 64 % 2 == 1, f / 128 % 2 == 1, asid, f / 256 % 2 == 1, head⟩

/-- A core as it travels: its place, the shared registers if they go with it, its ready queue. -/
structure CoreItem where
  core : Nat
  gregs : Option (List Word)
  ready : List (Nat × Word)

def wCore (x : CoreItem) : List Word :=
  nw x.core :: (wOpt (wList (fun w => [w])) x.gregs ++ wList (fun p => [nw p.1, p.2]) x.ready)
def rdCore : Rd CoreItem := do
  let core ← rdN
  let gregs ← rdOpt (rdList rdW)
  let ready ← rdList (do
    let p ← rdN
    let w ← rdW
    pure (p, w))
  pure ⟨core, gregs, ready⟩

/-- What a thread takes along beside its THREAD record: place, number, parent, launch by its place in the section, timestamp, order,
last entries of joined children, children that were stopped, forks, copies and those of them that are done, refused messages, pending
interrupts. -/
structure ThreadItem where
  place : Nat
  uid : Nat
  parent : Option Nat
  launch : Option Nat
  ts : Word
  order : Nat
  joined : Nat
  lost : Nat
  forks : Nat
  copyn : Nat
  copies : List (Nat × Nat)
  refused : List (Word × Word)
  pend : List (Nat × Nat)

def wThread (x : ThreadItem) : List Word :=
  [nw x.place, nw x.uid] ++ wOpt (fun n => [nw n]) x.parent ++ wOpt (fun n => [nw n]) x.launch ++
    [x.ts, nw x.order, nw x.joined, nw x.lost, nw x.forks, nw x.copyn] ++ wList wPair x.copies ++ wList (fun p => [p.1, p.2]) x.refused ++
    wList wPair x.pend
def rdThread : Rd ThreadItem := do
  let place ← rdN
  let uid ← rdN
  let parent ← rdOpt rdN
  let launch ← rdOpt rdN
  let ts ← rdW
  let order ← rdN
  let joined ← rdN
  let lost ← rdN
  let forks ← rdN
  let copyn ← rdN
  let copies ← rdList rdPair
  let refused ← rdList (do
    let a ← rdW
    let b ← rdW
    pure (a, b))
  let pend ← rdList rdPair
  pure ⟨place, uid, parent, launch, ts, order, joined, lost, forks, copyn, copies, refused, pend⟩

/-- A message that its receiver has turned away, with its sender, which resends it where it runs (R218, R377): number, thread, place, target word
and payload, and the place it named at its issue. -/
structure MsgItem where
  id : Nat
  uid : Nat
  place : Nat
  word : Word
  payload : Word
  core : Nat
  slot : Option Nat
  chan : Nat
  launch : Option Nat

def wMsg (x : MsgItem) : List Word :=
  [nw x.id, nw x.uid, nw x.place, x.word, x.payload, nw x.core] ++ wOpt (fun n => [nw n]) x.slot ++ [nw x.chan] ++
    wOpt (fun n => [nw n]) x.launch
def rdMsg : Rd MsgItem := do
  let id ← rdN
  let uid ← rdN
  let place ← rdN
  let word ← rdW
  let payload ← rdW
  let core ← rdN
  let slot ← rdOpt rdN
  let chan ← rdN
  let launch ← rdOpt rdN
  pure ⟨id, uid, place, word, payload, core, slot, chan, launch⟩

/-- The content of a QUEUE section. -/
structure Cargo where
  queues : List QueueItem
  cores : List CoreItem
  launches : List Launch
  chans : List (Nat × Chan)
  nodes : List Node
  threads : List ThreadItem
  msgs : List MsgItem

def wCargo (c : Cargo) : List Word :=
  wList wQueue c.queues ++ wList wCore c.cores ++ wList wLaunch c.launches ++ wList wChan c.chans ++ wList wNode c.nodes ++
    wList wThread c.threads ++ wList wMsg c.msgs
def rdCargo : Rd Cargo := do
  let queues ← rdList rdQueue
  let cores ← rdList rdCore
  let launches ← rdList rdLaunch
  let chans ← rdList rdChan
  let nodes ← rdList rdNode
  let threads ← rdList rdThread
  let msgs ← rdList rdMsg
  pure ⟨queues, cores, launches, chans, nodes, threads, msgs⟩

/-- An ownership record (R386, R387, R389): a reservation with its word, size, value and broken flag; a broken flag that a home keeps;
a copy, `cpy` or `cpyw`; a fault held for a thread; a peer. -/
inductive OwnItem where
  | resv (place ipa size : Nat) (value : Word) (broken : Bool)
  | broken (ipa : Nat)
  | copy (place id num level len done : Nat) (wide combining recorded : Bool) (dst src record : Word) (fault : Option Trap)
  | fault (place num : Nat) (t : Trap)
  | peer (dev : Nat)

def wOwn : OwnItem → List Word
  | .resv p i n v b => [1, nw p, nw i, nw n, v, nw b.toNat]
  | .broken i => [2, nw i]
  | .copy p id num lev len done wide comb wr dst src rec_ f =>
    [3, nw p, nw id, nw num, nw lev, nw len, nw done, nw (comb.toNat + 2 * wr.toNat + 4 * wide.toNat), dst, src, rec_] ++ wOpt wTrap f
  | .fault p n t => [4, nw p, nw n] ++ wTrap t
  | .peer d => [5, nw d]
def rdOwn : Rd OwnItem := do
  let k ← rdN
  match k with
  | 1 => do
    let p ← rdPair
    let n ← rdN
    let v ← rdW
    let b ← rdN
    pure (.resv p.1 p.2 n v (b == 1))
  | 2 => do
    let i ← rdN
    pure (.broken i)
  | 3 => do
    let p ← rdPair
    let q ← rdPair
    let r ← rdPair
    let comb ← rdN
    let dst ← rdW
    let src ← rdW
    let rec_ ← rdW
    let f ← rdOpt rdTrap
    pure (.copy p.1 p.2 q.1 q.2 r.1 r.2 (comb / 4 % 2 == 1) (comb % 2 == 1) (comb / 2 % 2 == 1) dst src rec_ f)
  | 4 => do
    let p ← rdPair
    let t ← rdTrap
    pure (.fault p.1 p.2 t)
  | 5 => do
    let d ← rdN
    pure (.peer d)
  | _ => fun _ => none

/-- The whole of a content as one item; none where dwords are missing or left over. -/
def rdAll (f : Rd α) (ws : List Word) : Option α :=
  match f ws with
  | some (a, []) => some a
  | _ => none

end Sys2Proof.Machine
end

