-- ==== Sys2Proof/Machine/Migrate.lean ====
section
/-!
DEFINITION. Migration (R374 to R389): the states of a function's block, the steps of the source, what the destination takes in, pages
and what is owned with them, peers and their remaps, and accesses that come from other parts (R259, R342).
-/

namespace Sys2Proof.Machine

/-! The block. -/

/-- Replace a function's migration record. -/
def State.modMig (s : State) (vf : Nat) (f : Mig → Mig) : State := { s with migs := mput s.migs vf (f (s.mig vf)) }

/-- Replace STATE of a function's block. -/
def State.setMState (s : State) (vf n : Nat) : State :=
  match mget s.vfs vf with
  | some v => { s with vfs := mput s.vfs vf { v with mstate := n } }
  | none => s

/-- FORM as it stands at a write to REQ (Table 22.1). -/
def State.reqForm (s : State) (vf : Nat) : Nat := if bit (s.dwordAt (s.migBase vf)) 8 then 1 else 0

/-- A write to REQ clears LAST and STAT (Table 22.1). -/
def State.readReq (s : State) (vf : Nat) : State := s.modMig vf (fun m => { m with last := false, stat := 0 })

/-- A request that is admitted takes FORM (Table 22.1); one that is not changes nothing but STAT (R375). -/
def State.takeForm (s : State) (vf : Nat) : State := s.modMig vf (fun m => { m with form := s.reqForm vf })

/-- STAT takes a code, and nothing else changes. -/
def State.statMig (s : State) (vf code : Nat) : State := (s.modMig vf (fun m => { m with stat := code })).showMig vf

/-- A request for a function that is not set: Table 22.3 admits none (R375). -/
def State.refuseReq (s : State) (vf : Nat) : State := (s.readReq vf).statMig vf 2

/-- MPEER is valid. -/
def State.mpeer (s : State) (vf : Nat) : Bool := bit (s.dwordAt (s.migBase vf + 8)) 0

/-- Discard the steps and start afresh, with the peers known so far, the pulls and the accesses held, and PULLALL as it was written (R382,
R383, R385). -/
def Mig.restart (m : Mig) : Mig :=
  { Mig.idle with form := m.form, peers := m.peers, heldPulls := m.heldPulls, heldAccesses := m.heldAccesses, pullall := m.pullall }

/-! The source's steps (R378, R380). -/

/-- The content of CONFIG (R380): the descriptor, REV, LHASH, the control block, the counter configurations. -/
def State.configWords (s : State) (vf : Nat) (v : VFunc) : List Word :=
  (List.range 24).map (dw v.desc) ++ [nw (Config.rev % 2 ^ 24), nw (Config.lhash % 2 ^ 32)] ++
    (List.range 32).map (fun i => s.dwordAt (v.pa (v.vcba + 8 * i))) ++
    (List.range 16).map (fun i => ((mget s.counters (16 * vf + i)).map Counter.cfg).getD 0)

/-- Write the next step into the window once the last one is released (R378); LAST marks the last of the current state. -/
def State.pumpMig (s : State) (vf : Nat) : State :=
  match mget s.vfs vf with
  | none => s
  | some v =>
    let m := s.mig vf
    if m.mack < m.steps ∨ m.stream.isEmpty then s
    else
      let rest := m.stream.drop stepRoom
      let fin := m.ending && rest.isEmpty
      let bytes := stepBytes m.form (m.steps + 1) vf fin (m.stream.take stepRoom)
      ((s.modMig vf (fun m => { m with stream := rest, steps := m.steps + 1, last := fin || (rest.isEmpty && v.mstate == 1) })).performAll
        none [.write (s.migBase vf + 0x10000) bytes]).showMig vf

/-- `PRECOPY` (R375): the CONFIG steps are produced while the function runs on. -/
def execPrecopy (vf : Nat) (s : State) : Outcome :=
  match mget s.vfs vf with
  | none => .next (s.refuseReq vf)
  | some v =>
    let s1 := s.readReq vf
    if !s.mpeer vf ∨ v.mstate ≠ 0 then .next (s1.statMig vf 2)
    else
      let s2 := ((s1.takeForm vf).modMig vf (fun m => { m.restart with stream := sectionWords 1 (s.configWords vf v) })).setMState vf 1
      .next ((s2.showMig vf).pumpMig vf)

/-- A cluster of the function is shared or not wholly owned, so that it has no bale form (Table 22.2). -/
def State.noBaleForm (s : State) (v : VFunc) : Bool :=
  v.cmap.any (fun c => decide (1 < (s.functionsOn c).length) || s.wholeOwner c != some v.part)

/-- Live slots of a function. -/
def State.slotsOf (s : State) (vf : Nat) : List Nat := (s.threads.filter (fun x => x.2.live && x.2.vf == some vf)).map (·.1)

/-- Every trace unit a function holds is released, with a revocation record (R377 step 6). -/
def State.endTrace (s : State) (vf : Nat) : State :=
  (List.range 4).foldl (fun (s : State) d =>
    if s.traceHold.getD d 511 = vf then (s.setHolder d 511 vf).traceNotice vf d true else s) s

/-- `STOPPING` (R375, R377): the function's slots are to stop at their points; nothing more of it starts. -/
def execStopping (vf : Nat) (s : State) : Outcome :=
  match mget s.vfs vf with
  | none => .next (s.refuseReq vf)
  | some v =>
    let s1 := s.readReq vf
    if !s.mpeer vf ∨ (v.mstate ≠ 0 ∧ v.mstate ≠ 1) then .next (s1.statMig vf 2)
    else if s.reqForm vf = 0 ∧ s.noBaleForm v then .next (s1.statMig vf 6)
    else
      let s1 := s1.takeForm vf
      let s2 := if v.mstate = 1 then s1
        else s1.modMig vf (fun m => { m.restart with stream := sectionWords 1 (s.configWords vf v) })
      let s3 := (s.slotsOf vf).foldl (fun (s : State) gs => s.setThread gs ((s.thread gs).stopsFor .migrate)) (s2.setMState vf 2)
      .next (((s3.endTrace vf).showMig vf).pumpMig vf)

/-- A slot of a function that is being stopped has reached its point, with what it sent out settled (R377). -/
def State.settleFreeze (s : State) (gs : Nat) : State :=
  if (s.thread gs).stopFor = some .migrate ∧ s.runs gs then
    match s.atPoint gs with
    | some s1 =>
      let t := s1.thread gs
      if t.mats.isEmpty ∧ t.edges = 0 then s1.setThread gs { t.halts with frozen := true } else s
    | none => s
  else s

/-- Every such slot. -/
def State.settleFreezes (s : State) : State := (s.threads.map (·.1)).foldl State.settleFreeze s

/-- Every step of R377 but the bales is done: slots are stopped, operations in flight have their answers. -/
def State.migQuiet (s : State) (vf : Nat) : Bool :=
  (s.slotsOf vf).all (fun gs => (s.thread gs).frozen && !(s.thread gs).stopping && decide ((s.thread gs).edges = 0)) &&
    !s.threads.any (fun x => !x.2.live && !x.2.mats.isEmpty && (match x.2.lid.bind (mget s.launches) with
      | some l => l.vf == vf
      | none => false)) &&
    !s.edges.any (fun e => e.vf == some vf) && !s.msgs.any (fun m => m.vf == some vf && m.state != .held)

/-- Places as the function names them: slots, cores, clusters. -/
def VFunc.coreName (v : VFunc) (gc : Nat) : Nat := v.placeOf (64 * gc) / 64
def VFunc.clusterName (v : VFunc) (pc : Nat) : Nat := (v.logical pc).getD 0

/-- A launch with other names for slots, cores, clusters and threads. -/
def Launch.named (l : Launch) (fs fc fp fu : Nat → Nat) : Launch :=
  { l with
    areas := l.areas.map (fun (a : Area) => { a with gc := fc a.gc })
    slots := l.slots.map (fun (x : Nat × Nat) => (fs x.1, x.2))
    places := l.places.map (fun (x : Nat × Nat) => (x.1, fp x.2))
    children := l.children.map (fun (c : Child) => { c with parent := fs c.parent, puid := fu c.puid }) }

/-- The content of the QUEUE section of a function (Table 22.5). -/
def State.cargo (s : State) (vf : Nat) (v : VFunc) : Cargo :=
  let lids := (s.launches.filter (fun x => x.2.vf == vf)).map (·.1)
  let mine (gs : Nat) : Bool := v.cmap.contains (clusterOf gs)
  { queues := (List.range 64).filterMap (fun q =>
      let k := qKey vf q
      let m := s.qmap.find? (fun m => qKey m.vf m.q == k)
      if k ∈ s.qpend ∨ m.isSome then
        some ⟨q, s.qpend.contains k, m.isSome, (m.map QSlot.asid).getD v.abase - v.abase, (s.qdesc v q).np, (s.qdesc v q).head⟩
      else none)
    cores := (v.cmap.flatMap coresOf).map (fun gc =>
      { core := v.coreName gc
        gregs := if s.gOwner gc = some v.part then some ((List.range 16).map (fun n => mgetD s.gregs (16 * gc + n) 0)) else none
        ready := mgetD s.rqs (32 * gc + v.part + 1) [] })
    launches := lids.filterMap (fun l => (mget s.launches l).map (fun x =>
      { x.named v.placeOf v.coreName v.clusterName id with asid := x.asid - v.abase }))
    chans := (s.chans.filter (fun x => mine x.2.gs && (s.thread x.2.gs).live && (s.thread x.2.gs).vf == some vf)).map (fun x =>
      (65536 * v.coreName (x.1 / 65536) + x.1 % 65536, { x.2 with gs := v.placeOf x.2.gs }))
    nodes := (s.nodes.filter (fun n => n.vf == vf)).map (fun (n : Node) => { n with gs := v.placeOf n.gs, parent := v.placeOf n.parent })
    threads := (s.slotsOf vf).map (fun gs =>
      let t := s.thread gs
      ⟨v.placeOf gs, t.uid, t.parent, t.lid.bind (fun l => lids.idxOf? l), t.ts, t.order, t.joined, t.lost, t.a.forks, t.copyn,
        t.copies.map (fun c => (c.1, c.2.toNat)), t.refused, t.pend.map (fun i => (i.level, i.code))⟩)
    msgs := (s.msgs.filter (fun m => m.vf == some vf && mine m.gs)).map (fun m =>
      ⟨m.id, m.uid, v.placeOf m.gs, m.word, m.payload, v.coreName m.core, m.slot.map v.placeOf, m.chan, m.lid.bind (fun l => lids.idxOf? l)⟩) }

/-- A bank as it travels: its place, data, and poison, watch bit and owner of each word (Table 22.5). -/
def State.bankWords (s : State) (lcl gc bank : Nat) : List Word :=
  let a := spadAddr gc (8192 * bank)
  nw (lcl * 2 ^ 9 + gc % 8 * 2 ^ 6 + bank) :: ((List.range 1024).map (fun i => s.dwordAt (a + 8 * i)) ++
    (List.range 1024).map (fun i =>
      let d := a / 8 + i
      nw ((s.poisoned d).toNat * 2 ^ 63 + (match mget s.watches d with | some o => 2 ^ 62 + o % 64 | none => 0))))

/-- A tile row as it travels: its place, data, and the poison of each byte (Table 22.5). -/
def State.rowWords (s : State) (lcl pc row : Nat) : List Word :=
  let byte (i : Nat) : Byte := mgetD s.tiles (tileKey pc row i) 0
  let pois (i : Nat) : Byte := if (mget s.tilePoison (tileKey pc row i)).isSome then 1 else 0
  let pack (f : Nat → Byte) : List Word := (List.range 256).map (fun k => nw (leNat ((List.range 8).map (fun j => f (8 * k + j)))))
  nw (lcl * 2 ^ 16 + row) :: (pack byte ++ pack pois)

/-- The counters of a function as they travel: number, event and flags, value (Table 22.5). -/
def State.counterWords (s : State) (vf : Nat) : List Word :=
  (List.range 16).flatMap (fun i =>
    match mget s.counters (16 * vf + i) with
    | some c => [nw (i + 2 ^ 8 * bits c.cfg 7 0 + 2 ^ 16 * c.inval.toNat + 2 ^ 17 * c.ovf.toNat + 2 ^ 18 * c.frozen.toNat), nw c.value]
    | none => [])

/-- The word lies in the function's segment and travels with its page. -/
def VFunc.inSegment (v : VFunc) (pa : Nat) : Bool := decide (v.sbase ≤ pa) && decide (pa < v.sbase + v.sbound)

/-- The word lies in a window of the function: its segment, its clusters' scratchpads, its host window (Table 18.3). -/
def VFunc.reaches (v : VFunc) (pa : Nat) : Bool :=
  v.inSegment pa || (isSpad pa && v.cmap.contains (spadCore pa / 8)) || (decide (v.hbase ≤ pa) && decide (pa < v.hbase + v.hbound))

/-- The reservations and broken flags of a function's words, with the words' addresses (R386). -/
def State.ownedWords (s : State) (vf : Nat) (v : VFunc) : List (Nat × OwnItem) :=
  ((s.slotsOf vf).filterMap (fun gs => ((s.thread gs).resv).map (fun (r : Resv) =>
    (r.pa, .resv (v.placeOf gs) (v.ipaOf r.pa) r.size (nw r.value) r.broken)))) ++
  (s.homes.filter (fun h => h.2.broken && v.reaches h.1)).map (fun h => (h.1, .broken (v.ipaOf h.1)))

/-- The content of the OWN section (R386, R387, R389): words that have no page, copies, held faults, peers. -/
def State.ownWords (s : State) (vf : Nat) (v : VFunc) : List OwnItem :=
  (((s.ownedWords vf v).filter (fun x => !v.inSegment x.1)).map (·.2)) ++
    (s.copies.filter (fun c => c.vf == some vf)).map (fun c =>
      .copy (v.placeOf c.gs) c.id c.num c.level c.len c.done c.wide c.combining c.recorded c.dst c.src c.record c.fault) ++
    (s.slotsOf vf).flatMap (fun gs => (s.thread gs).heldFaults.map (fun f => .fault (v.placeOf gs) f.1 f.2)) ++
    (s.mig vf).peers.map (fun p => .peer p.dev)

/-- The state steps of a stopped function (R380, Table 22.5). -/
def State.stateWords (s : State) (vf : Nat) (v : VFunc) : List Word :=
  let rows : List Nat := match mget s.parts v.part with
    | some p => (List.range 1024).filter p.ownsRow
    | none => []
  let arch : List Word := (s.slotsOf vf).flatMap (fun gs => sectionWords 2 (s.threadRecord gs))
  let banks : List Word := v.cmap.zipIdx.flatMap (fun c => (coresOf c.1).flatMap (fun gc =>
    ((List.range 32).filter (fun b => s.bankOwner c.1 b == some v.part)).flatMap (fun b => sectionWords 4 (s.bankWords c.2 gc b))))
  let tiles : List Word := v.cmap.zipIdx.flatMap (fun c => rows.flatMap (fun r => sectionWords 5 (s.rowWords c.2 c.1 r)))
  let bales : List Word := v.cmap.zipIdx.flatMap (fun c =>
    match s.stops.find? (fun (x : Nat × BaleStop) => parked x.1 == c.1) with
    | some (n, b) =>
      let bs := s.baleBytes n b
      sectionWords 8 (nw c.2 :: (List.range (bs.length / 8)).map (fun i => nw (leNat ((bs.drop (8 * i)).take 8))))
    | none => [])
  let form1 := (s.mig vf).form == 1
  (if form1 then arch else []) ++ sectionWords 3 (wCargo (s.cargo vf v)) ++ (if form1 then banks ++ tiles else bales) ++
    sectionWords 7 (s.counterWords vf) ++ sectionWords 6 (wList wOwn (s.ownWords vf v)) ++ sectionWords 9 []

/-! Pages (R382 to R386). -/

/-- The source gives up a page: its copies are dropped, it goes out with its poison and its records, and OWNED falls (R382). -/
def State.givePage (s : State) (vf page : Nat) (v : VFunc) : State :=
  let m := s.mig vf
  let o := s.otherPart vf
  if m.given.contains page then s
  else if v.pages ≤ page then { s with outbox := s.outbox ++ [.pullFail o.1 o.2 page] }
  else
    let pa := v.sbase + 65536 * page
    let pois := (List.range 8192).filter (fun i => s.poisoned (pa / 8 + i))
    let recs := (m.own.filter (fun x => x.1 == page)).map (·.2)
    let here (l : Nat) : Bool := 128 * l / 65536 == pa / 65536
    let s0 := (s.dropCopies here).backInvalidate ((s.hostLines.map (·.1)).filter here)
    let s1 := { s0 with outbox := s0.outbox ++ [Out.pullData o.1 o.2 page (s.bytesAt pa 65536) pois recs] }
    (s1.modMig vf (fun m => { m with given := m.given ++ [page], own := m.own.filter (fun x => x.1 != page) })).showMig vf

/-- `PULL` (R382): a page is given up once the function is STOPPED; until then the pull is held. -/
def execPull (vf page : Nat) (s : State) : Outcome :=
  match mget s.vfs vf with
  | none =>
    let o := s.otherPart vf
    .next { s with outbox := s.outbox ++ [.pullFail o.1 o.2 page] }
  | some v =>
    if v.mstate = 3 then .next (s.givePage vf page v)
    else if v.mstate = 4 then .next s
    else .next (s.modMig vf (fun m => { m with heldPulls := if m.heldPulls.contains page then m.heldPulls else m.heldPulls ++ [page] }))

/-- `MIGRATION_STOPPED` (R375, R377): every stop step is done; with FORM 0 each cluster is stopped as by BSTOP first. The state steps
follow, and the pulls held until now are answered. -/
def execMigrationStopped (vf : Nat) (s : State) : Outcome :=
  match mget s.vfs vf with
  | none => .next s
  | some v =>
    if v.mstate ≠ 2 ∨ !s.migQuiet vf then .next s
    else if (s.mig vf).form = 0 ∧ !v.cmap.all (fun c => s.stops.any (fun (x : Nat × BaleStop) => x.2.mig == some vf &&
        (x.2.pc == c || parked x.1 == c))) then
      .next (v.cmap.foldl (fun (s : State) c => s.stopCluster c v.part 0 (some vf)) s)
    else if s.stops.any (fun (x : Nat × BaleStop) => x.2.mig == some vf && x.2.phase != .out) then .next s
    else
      let own := ((s.ownedWords vf v).filter (fun x => v.inSegment x.1)).map (fun x => (v.ipaOf x.1 / 65536, wOwn x.2))
      let ws := s.stateWords vf v
      let s2 := (s.modMig vf (fun m => { m with stream := m.stream ++ ws, ending := true, own := own, heldPulls := [] })).setMState vf 3
      let s3 := (s.mig vf).heldPulls.foldl (fun (s : State) p => s.givePage vf p v) s2
      .next ((s3.showMig vf).pumpMig vf)

/-- `MACK_RELEASE` (R378): a MACK write of STEPS releases the window; any other value is ignored. -/
def execMackRelease (vf : Nat) (s : State) : Outcome :=
  match mget s.vfs vf with
  | none => .next s
  | some v =>
    if v.mstate ≠ 4 ∧ s.dwordAt (s.migBase vf + 0x100) = nw (s.mig vf).steps then
      .next ((s.modMig vf (fun m => { m with mack := m.steps })).pumpMig vf)
    else .next s

/-! ABORT and what the source does when the function runs elsewhere. -/

/-- A cluster's state goes back from under the number of its stop. -/
def State.unstop (s : State) (vf : Nat) : State :=
  (s.stops.filter (fun (x : Nat × BaleStop) => x.2.mig == some vf)).foldl (fun (s : State) x =>
    let s1 := s.renameCluster (parked x.1) x.2.pc
    let s2 := s1.startClock x.2.pc x.2.cyc (decide (4096 < (s.pkgSeq - x.2.cseq).toNat)) x.2.sig
    { s2 with stops := mdel s2.stops x.1 }) s

/-- Every thread of the function restarts from its record (R375). -/
def State.restartThreads (s : State) (vf : Nat) : State :=
  (s.slotsOf vf).foldl (fun (s : State) gs =>
    let t := s.thread gs
    let r := s.threadRecord gs
    s.placeRecord gs (s.recordThread t (some vf) t.winBase r).rearmed r) s

/-- Every pull held for the function fails (R382). -/
def State.failHeldPulls (s : State) (vf : Nat) : State :=
  let o := s.otherPart vf
  { s with outbox := s.outbox ++ (s.mig vf).heldPulls.map (fun p => Out.pullFail o.1 o.2 p) }.modMig vf (fun m => { m with heldPulls := [] })

/-- Accesses of peers that the function's part holds arrive next, in their order (R389). -/
def State.releaseHeld (s : State) (vf : Nat) : State :=
  { s with agenda := (s.mig vf).heldAccesses.map (fun a => Act.peerAccess a) ++ s.agenda }.modMig vf
    (fun m => { m with heldAccesses := [] })

/-- `ABORT` (R375, R382): the function returns to RUNNING where Table 22.3 admits it; every other request is refused. -/
def execAbort (vf : Nat) (s : State) : Outcome :=
  match mget s.vfs vf with
  | none => .next (s.refuseReq vf)
  | some v =>
    let s1 := s.readReq vf
    let m := s.mig vf
    let req := bits (s.dwordAt (s.migBase vf)) 2 0
    if req ≠ 3 ∨ !s.mpeer vf then .next (s1.statMig vf 2)
    else if v.mstate = 1 ∨ (v.mstate = 4 ∧ !m.ended) then
      .next (((((s1.failHeldPulls vf).releaseHeld vf).modMig vf Mig.restart).setMState vf 0).showMig vf)
    else if v.mstate = 3 ∧ !m.started then
      let s2 := (((s1.unstop vf).restartThreads vf).failHeldPulls vf).releaseHeld vf
      .next (((s2.modMig vf Mig.restart).setMState vf 0).showMig vf)
    else .next (s1.statMig vf 2)

/-- Whatever the source still has of a function that runs elsewhere: threads, launches, copies, channels, nodes, queues. -/
def State.dropFn (s : State) (vf : Nat) : State :=
  let s1 := s.unstop vf
  let gone (gs : Nat) : Bool := (s1.thread gs).live && (s1.thread gs).vf == some vf
  { s1 with
    threads := s1.threads.filter (fun (x : Nat × Thread) => !gone x.1)
    launches := s1.launches.filter (fun (x : Nat × Launch) => x.2.vf != vf)
    copies := s1.copies.filter (fun (c : Copy) => c.vf != some vf), msgs := s1.msgs.filter (fun (m : Msg) => m.vf != some vf)
    chans := s1.chans.filter (fun (x : Nat × Chan) => !gone x.2.gs), nodes := s1.nodes.filter (fun (n : Node) => n.vf != vf)
    watches := s1.watches.filter (fun (x : Nat × Nat) => !gone x.2)
    qmap := s1.qmap.filter (fun (m : QSlot) => m.vf != vf), qpend := s1.qpend.filter (fun k => k / 64 != vf) }

/-- `STARTED` (R375, R389): the destination runs the function; every listed peer is told. -/
def execStarted (vf : Nat) (s : State) : Outcome :=
  match mget s.vfs vf with
  | none => .next s
  | some v =>
    if v.mstate = 3 ∧ !(s.mig vf).started then
      let o := s.otherPart vf
      let s1 := s.dropFn vf
      let msgs := (s.mig vf).peers.map (fun p => Out.remap p.dev (nw (Config.devid % 2 ^ 20 + vf * 2 ^ 20)) (nw (o.1 + o.2 * 2 ^ 20)))
      .next (({ s1 with outbox := s1.outbox ++ msgs }.modMig vf (fun m => { m with started := true })).showMig vf)
    else .next s

/-- `DONE` (R375): every page and peer has been settled; the source stays in STOPPED with OWNED = 0. -/
def execDone (vf : Nat) (s : State) : Outcome :=
  match mget s.vfs vf with
  | none => .next s
  | some v =>
    if v.mstate = 3 ∧ (s.mig vf).started then .next ((s.modMig vf (fun m => { m with finished := true })).showMig vf) else .next s

/-! The destination (R375, R378, R379, R381). -/

/-- Pages whose presence bit is clear. -/
def State.absentPages (s : State) (v : VFunc) : List Nat := (List.range v.pages).filter (fun p => !s.present v (65536 * p))

/-- `RESUMING` (R375): the destination, with no thread and no page, accepts steps. -/
def execResuming (vf : Nat) (s : State) : Outcome :=
  match mget s.vfs vf with
  | none => .next (s.refuseReq vf)
  | some v =>
    let s1 := s.readReq vf
    if s.mpeer vf ∧ v.mstate = 0 ∧ !s.fnBusy vf ∧ (s.absentPages v).length = v.pages then
      let s2 := s1.modMig vf (fun m =>
        { Mig.idle with form := s.reqForm vf, heldAccesses := m.heldAccesses, pullall := bit (s.dwordAt (s.migBase vf + 0x10)) 0 })
      .next ({ s2 with vfs := mput s2.vfs vf { v with mstate := 4, linkLost := !s.peerUp (s.otherPart vf).1 } }.showMig vf)
    else .next (s1.statMig vf 2)

/-- A step that passes the checks of R379: the stream with it, its sections, whether it holds END, and STAT 1 where its bale form is
refused. -/
structure StepIn where
  stream : List Word
  secs : List (Nat × List Word)
  fin : Bool
  formBad : Bool

/-- The checks of R379 on the step in the window; the STAT code of the first that fails. No section follows END (R380). -/
def State.checkStep (s : State) (vf : Nat) (v : VFunc) : Except Nat StepIn := do
  let m := s.mig vf
  let w := s.migBase vf + 0x10000
  let h := (List.range 8).map (fun i => s.dwordAt (w + 8 * i))
  let len := bits (dw h 1) 16 0
  let need (ok : Bool) (code : Nat) : Except Nat Unit := if ok then .ok () else .error code
  need (bits (dw h 0) 63 48 == 1 && decide (bits (dw h 0) 47 40 < 2) && bits (dw h 0) 39 32 == 0 && bits (dw h 1) 62 17 == 0 &&
    decide (len ≤ 65472 ∧ len % 8 = 0)) 5
  let payload := s.bytesAt (w + 64) len
  need (crc32c (wordBytes (h.set 4 (putBits (dw h 4) 63 32 0))) == bits (dw h 4) 63 32 && crc32c payload == bits (dw h 4) 31 0) 5
  need (bits (dw h 0) 31 0 == (m.steps + 1) % 2 ^ 32) 5
  need (!m.ended) 5
  let stream := m.stream ++ (List.range (len / 8)).map (fun i => s.dwordAt (w + 64 + 8 * i))
  match takeSections (stream.length + 1) 0 stream with
  | none => .error 5
  | some (secs, part) =>
    let fin := bit (dw h 1) 63
    need (fin == secs.any (fun x => x.1 == 9)) 5
    need (bits (dw h 3) 19 0 == (s.otherPart vf).1 && bits (dw h 3) 27 20 == (s.otherPart vf).2) 3
    let configOnly := secs.all (fun x => x.1 == 1) && (part.isNone || part == some 1)
    let differs := bits (dw h 0) 47 40 == 0 && (bits (dw h 2) 23 0 != Config.rev % 2 ^ 24 || bits (dw h 2) 63 32 != Config.lhash % 2 ^ 32)
    need (!(bits (dw h 0) 47 40 == 0 && m.formBad) && (!differs || configOnly)) 1
    match secs.find? (fun x => x.1 == 1) with
    | some (_, c) =>
      let f : VFunc := ⟨c.take 24, [], false, 1, 0, false⟩
      need (c.length == 74) 5
      need (f.ncl == v.ncl && f.sbound == v.sbound && f.acnt == v.acnt) 3
      pure ⟨stream, secs, fin, differs⟩
    | none => pure ⟨stream, secs, fin, differs⟩

/-- The contents of the sections of a type. -/
def sectionsOf (type : Nat) (secs : List (Nat × List Word)) : List (List Word) := (secs.filter (fun x => x.1 == type)).map (·.2)

/-- A seat for each THREAD record: its slot and the lowest window that fits (R381); none where one has no seat. -/
def State.seats (s : State) (vf : Nat) (v : VFunc) (p : Part) : List (List Word) → List (Nat × Nat × List Word) →
    Option (List (Nat × Nat × List Word))
  | [], acc => some acc
  | r :: rs, acc =>
    let size := recSize r
    match v.slotOfPlace (bits (dw r 0) 17 0) with
    | none => none
    | some gs =>
      let fits (b : Nat) : Bool := decide (b + size ≤ 2048) && s.windowFree (coreOf gs) b size &&
        acc.all (fun (x : Nat × Nat × List Word) => coreOf x.1 != coreOf gs || decide (b + size ≤ x.2.1) || decide (x.2.1 + recSize x.2.2 ≤ b))
      match ((List.range 256).map (8 * ·)).find? fits with
      | some b =>
        if s.slotFree gs && p.ownsSlot gs && s.boundTo gs == some vf && !acc.any (fun x => x.1 == gs) then
          s.seats vf v p rs (acc ++ [(gs, b, r)])
        else none
      | none => none

/-- A record is well formed: its window, its grant, its length (Table 22.6). -/
def recordOk (r : List Word) : Bool :=
  decide (recSize r % 8 = 0 ∧ 8 ≤ recSize r ∧ recSize r ≤ 112) && decide (recGrant r ≤ 512) &&
    decide (r.length = recLength (recSize r) (recGrant r))

/-- What the state steps bring: the seats, the QUEUE section and the ownership records. -/
structure Intake where
  seats : List (Nat × Nat × List Word)
  cargo : Cargo
  own : List OwnItem

/-- The STAT code with which a BALE section cannot be restored (R329, R330, R381; log entry 35): its form or a CRC is wrong (5), its revision or
layout is another (1), or its cluster holds a thread or is not all its partition's (7). -/
def State.baleFails (s : State) (v : VFunc) (c : List Word) : Option Nat :=
  let h := c.drop 1
  let pc := v.cmap[(dw c 0).toNat]?
  let block (k : Nat) : List Byte := wordBytes ((h.drop (512 * k)).take 512)
  let crc (k : Nat) : Nat := bits (dw h (512 + k / 2)) (32 * (k % 2) + 31) (32 * (k % 2))
  let head := baleHead h
  if c.length ≠ 1 + 512 * baleBlocks ∨ pc.isNone ∨ bits (dw h 0) 63 48 ≠ 1 ∨ bits (dw h 0) 23 12 ≠ baleBlocks ∨
      crc32c (wordBytes ((h.take 512).set 1 (putBits (dw h 1) 31 0 0))) ≠ bits (dw h 1) 31 0 ∨
      (List.range (baleBlocks - 3)).any (fun k => crc32c (block (k + 3)) != crc (k + 3)) then some 5
  else if head.rev ≠ Config.rev % 2 ^ 24 ∨ head.lhash ≠ Config.lhash % 2 ^ 32 then some 1
  else if pc.any (fun c => s.wholeOwner c != some v.part || s.threads.any (fun x => x.2.live && clusterOf x.1 == c)) then some 7
  else none

/-- The checks before the step that holds END is taken in (R381); STAT 1, 5 or 7. A section that is left out brings nothing. -/
def State.checkIntake (s : State) (vf : Nat) (v : VFunc) (secs : List (Nat × List Word)) : Except Nat Intake :=
  let recs := sectionsOf 2 secs
  match mget s.parts v.part, rdAll rdCargo ((sectionsOf 3 secs).headD (wCargo ⟨[], [], [], [], [], [], []⟩)),
    rdAll (rdList rdOwn) ((sectionsOf 6 secs).headD (wList wOwn [])) with
  | some p, some cargo, some own =>
    if !recs.all recordOk || (sectionsOf 4 secs).any (fun c => c.length != 2049) || (sectionsOf 5 secs).any (fun c => c.length != 513) then
      .error 5
    else if let some code := (sectionsOf 8 secs).findSome? (s.baleFails v) then .error code
    else if cargo.cores.any (fun x => x.gregs.isSome && (match v.slotOfPlace (64 * x.core) with
        | some gs => s.gOwner (coreOf gs) != some v.part
        | none => true)) then .error 7
    else
      match s.seats vf v p recs [] with
      | some seats => .ok ⟨seats, cargo, own⟩
      | none => .error 7
  | none, _, _ => .error 7
  | _, _, _ => .error 5

/-- The package slot, core and cluster of the function's names. -/
def VFunc.slotNamed (v : VFunc) (place : Nat) : Nat := (v.slotOfPlace place).getD slotCount
def VFunc.coreNamed (v : VFunc) (c : Nat) : Nat := coreOf (v.slotNamed (64 * c))
def VFunc.clusterNamed (v : VFunc) (l : Nat) : Nat := v.cmap.getD l clusterCount

/-- What travels beside a thread of a place, put onto it: its item of the QUEUE section, the channel of its p15, and its held faults and
reservation of the OWN section (R380, R386, R387); numbers of threads and copies of the source rise by `off`. -/
def Intake.onto (x : Intake) (v : VFunc) (off lid0 place : Nat) (t : Thread) : Thread :=
  let t1 : Thread := match x.cargo.threads.find? (fun y => y.place == place) with
    | some y =>
      { t with
        uid := off + y.uid, parent := y.parent.map (off + ·), lid := y.launch.map (lid0 + ·), ts := y.ts, order := y.order
        joined := y.joined, lost := y.lost, copyn := y.copyn, a := { t.a with forks := y.forks }
        copies := y.copies.map (fun c => (off + c.1, c.2 == 1)), refused := y.refused
        pend := y.pend.map (fun i => ⟨i.1, i.2⟩) }
    | none => { t with uid := off }
  let p15 := x.cargo.chans.find? (fun c => c.2.gs == place && c.2.port == 15)
  { t1 with
    a := match p15 with
      | some c => { t1.a with ports := mput t1.a.ports 15 (.channel (c.1 % 65536)) }
      | none => t1.a
    heldFaults := x.own.filterMap (fun o => match o with | .fault p n t => if p = place then some (n, t) else none | _ => none)
    resv := x.own.findSome? (fun o => match o with
      | .resv p i n w b => if p = place then some (⟨v.pa i, n, b, w.toNat⟩ : Resv) else none
      | _ => none) }

/-- Start the threads of the records with what travels beside them (R381). -/
def State.seatThreads (s : State) (vf : Nat) (x : Intake) (v : VFunc) (off lid0 : Nat) : State :=
  x.seats.foldl (fun (s : State) (q : Nat × Nat × List Word) =>
    let r := q.2.2
    let base := x.onto v off lid0 (bits (dw r 0) 17 0) Thread.idle
    s.placeRecord q.1 (s.recordThread base (some vf) q.2.1 r).rearmed r) s

/-- The threads of the bales take on what travels beside them (R330, R381, R387). -/
def State.baleThreads (s : State) (vf : Nat) (x : Intake) (v : VFunc) (off lid0 : Nat) : State :=
  x.cargo.threads.foldl (fun (s : State) y =>
    let gs := v.slotNamed y.place
    if (s.thread gs).live ∧ (s.thread gs).vf = some vf then s.setThread gs (x.onto v off lid0 y.place (s.thread gs)) else s) s

/-- Take a BANK section in. -/
def State.bankIn (s : State) (v : VFunc) (c : List Word) : State :=
  let k := dw c 0
  let gc := v.coreNamed (bits k 17 6)
  let a := spadAddr gc (8192 * bits k 4 0)
  (List.range 1024).foldl (fun (s : State) i =>
    let m := dw c (1025 + i)
    let d := a / 8 + i
    let s1 := (s.setBytes (8 * d) (leBytes 8 (dw c (1 + i)).toNat)).setPoison d (bit m 63)
    { s1 with watches := if bit m 62 then mput s1.watches d (64 * gc + bits m 5 0) else mdel s1.watches d }) s

/-- Take a TILE section in. -/
def State.rowIn (s : State) (v : VFunc) (c : List Word) : State :=
  let k := dw c 0
  let bytes := wordBytes ((c.drop 1).take 256)
  let pois := wordBytes ((c.drop 257).take 256)
  s.setTileBytes (v.clusterNamed (bits k 24 16)) (bits k 9 0) (bytes.zip (pois.map (fun b => b.toNat % 2 == 1)))

/-- Take the counters in: a configuration, and the carried value; one whose event this part lacks is frozen and reported (R388). -/
def State.countersIn (s : State) (vf : Nat) (config : List Word) (cs : List Word) : State :=
  (List.range (cs.length / 2)).foldl (fun (s : State) j =>
    let w := dw cs (2 * j)
    let i := bits w 7 0
    let ev := bits w 15 8
    let frozen := bit w 18 || (!bit w 16 && !eventPresent ev)
    let c : Counter := ⟨dw config (58 + i), bits (dw cs (2 * j + 1)) 47 0, frozen, bit w 16, bit w 17⟩
    let s1 := { s with counters := mput s.counters (16 * vf + i) c }
    if frozen ∧ !bit w 18 then s1.postKernel vf 8 0 [nw (i % 16 + 2 ^ 8 * ev)] else s1) s

/-- Take CONFIG in: the control block and the counter configurations (R380). -/
def State.configIn (s : State) (vf : Nat) (v : VFunc) (c : List Word) : State :=
  let s1 := s.setBytes (v.pa v.vcba) (wordBytes ((c.drop 26).take 32))
  match s1.obsBase vf with
  | some base => s1.setBytes base (wordBytes ((c.drop 58).take 16))
  | none => s1

/-- Take the QUEUE section in. -/
def State.cargoIn (s : State) (vf : Nat) (v : VFunc) (c : Cargo) (off lid0 : Nat) : State :=
  let ls : Map Launch := c.launches.zipIdx.foldl (fun (m : Map Launch) x =>
    mput m (lid0 + x.2) { x.1.named v.slotNamed v.coreNamed v.clusterNamed (off + ·) with vf := vf, part := v.part, asid := v.abase + x.1.asid })
    s.launches
  { s with
    qpend := s.qpend ++ (c.queues.filter (fun q => q.pend)).map (fun q => qKey vf q.q)
    qmap := s.qmap ++ (c.queues.filter (fun q => q.mapped)).map (fun q => (⟨vf, q.q, v.abase + q.asid⟩ : QSlot))
    gregs := c.cores.foldl (fun (m : Map Word) x => match x.gregs with
      | some ws => (List.range 16).foldl (fun (m : Map Word) n => mput m (16 * v.coreNamed x.core + n) (dw ws n)) m
      | none => m) s.gregs
    rqs := c.cores.foldl (fun (m : Map (List (Nat × Word))) x =>
      if x.ready.isEmpty then m else mput m (32 * v.coreNamed x.core + v.part + 1) x.ready) s.rqs
    launches := ls
    chans := c.chans.foldl (fun (m : Map Chan) x =>
      mput m (65536 * v.coreNamed (x.1 / 65536) + x.1 % 65536) { x.2 with gs := v.slotNamed x.2.gs }) s.chans
    msgs := s.msgs ++ c.msgs.map (fun (m : MsgItem) =>
      ({ id := off + m.id, gs := v.slotNamed m.place, uid := off + m.uid, vf := some vf, word := m.word, payload := m.payload,
         core := v.coreNamed m.core, slot := m.slot.map v.slotNamed, chan := m.chan, lid := m.launch.map (lid0 + ·), state := .held } : Msg))
    nodes := s.nodes ++ c.nodes.map (fun (n : Node) =>
      { n with vf := vf, gs := v.slotNamed n.gs, parent := v.slotNamed n.parent, uid := off + n.uid }) }

/-- A home takes up a broken flag, or a thread its reservation (R386). -/
def State.ownIn (s : State) (v : VFunc) (o : OwnItem) : State :=
  match o with
  | .resv place ipa n w b =>
    let gs := v.slotNamed place
    if (s.thread gs).live then s.setThread gs { s.thread gs with resv := some ⟨v.pa ipa, n, b, w.toNat⟩ } else s
  | .broken ipa => { s with homes := mput s.homes (v.pa ipa) { mgetD s.homes (v.pa ipa) ⟨[], false⟩ with broken := true } }
  | _ => s

/-- Copies resume at their next piece (R387). -/
def State.copiesIn (s : State) (vf : Nat) (v : VFunc) (own : List OwnItem) (off : Nat) : State :=
  own.foldl (fun (s : State) o => match o with
    | .copy place id num lev len done wide comb wr dst src rec_ f =>
      let gs := v.slotNamed place
      let c : Copy :=
        { id := off + id, gs := gs, uid := (s.thread gs).uid, num := num, level := lev, vf := some vf, asid := (s.thread gs).asid, dst := dst,
          src := src, len := len, record := rec_, wide := wide, combining := comb, done := done, fault := f, recorded := wr || rec_ == 0 }
      { s with copies := s.copies ++ [c] }
    | _ => s) s

/-- Take a BALE section in (R330, R381): its cluster with what the bale holds; another part took it, so that every uncommitted chunk is
squashed and every monitor is hit (R332). -/
def State.baleIn (s : State) (vf : Nat) (v : VFunc) (c : List Word) : State :=
  let pc := v.clusterNamed (dw c 0).toNat
  let h := baleHead (c.drop 1)
  let b : BaleStop := ⟨pc, v.part, 0, .out, h.cseq, h.cyc, [], vf, false, none, true, false⟩
  if clusterCount ≤ pc then s
  else ((s.clearCluster pc).foreignContent (wordBytes (c.drop (1 + 3 * 512))) b pc true).startClock pc h.cyc true []

/-- The destination sends DONE and runs the function alone: no page is absent, and every listed peer's FWDEND has come (R375). -/
def State.settleDone (s : State) (vf : Nat) : State :=
  match mget s.vfs vf with
  | none => s
  | some v =>
    let m := s.mig vf
    let o := s.otherPart vf
    if v.mstate = 4 ∧ m.ended ∧ s.absentPages v = [] ∧ m.peers.all (fun p => !p.acked || m.fwdended.contains p.dev) then
      (({ s with outbox := s.outbox ++ [Out.done o.1 o.2] }.modMig vf (fun m =>
        { m with peers := m.peers.map (fun (p : Peer) => { p with acked := false }) })).setMState vf 0).showMig vf
    else s

/-- Everything the state steps bring is taken in, the threads start, and STARTED goes to the source (R375, R381). -/
def State.takeIn (s : State) (vf : Nat) (v : VFunc) (x : Intake) (secs : List (Nat × List Word)) : State :=
  let config := (sectionsOf 1 secs).headD []
  let off := s.fresh
  let ids := x.cargo.threads.map (·.uid) ++ x.own.map (fun o => match o with | .copy _ id .. => id | _ => 0) ++ x.cargo.nodes.map (·.uid) ++
    x.cargo.msgs.map (·.id)
  let lid0 := off + ids.foldl max 0 + 1
  let s0 := { s with fresh := lid0 + x.cargo.launches.length }
  let s1 := (sectionsOf 4 secs).foldl (fun (s : State) c => s.bankIn v c) s0
  let s2 := (sectionsOf 5 secs).foldl (fun (s : State) c => s.rowIn v c) s1
  let s3 := (sectionsOf 8 secs).foldl (fun (s : State) c => s.baleIn vf v c) s2
  let s4 := ((s3.cargoIn vf v x.cargo off lid0).baleThreads vf x v off lid0).seatThreads vf x v off lid0
  let s5 := ((x.own.foldl (fun (s : State) o => s.ownIn v o) s4).copiesIn vf v x.own off).configIn vf v config
  let s6 := s5.countersIn vf config ((sectionsOf 7 secs).headD [])
  let peers := x.own.filterMap (fun o => match o with | .peer d => some (⟨d, true⟩ : Peer) | _ => none)
  let o := s.otherPart vf
  ({ s6 with outbox := s6.outbox ++ [Out.started o.1 o.2] }).modMig vf (fun m =>
    { m with ended := true, last := true, stream := [], peers := peers })

/-- With PULLALL, and once END has been accepted (log entry 87), the page migrator asks for the next absent pages in ascending order, at most 16 at a time (R383). -/
def State.pumpPulls (s : State) (vf : Nat) : State :=
  match mget s.vfs vf with
  | none => s
  | some v =>
    if !(s.mig vf).pullall ∨ v.mstate ≠ 4 ∨ !(s.mig vf).ended ∨ v.linkLost then s
    else
      let todo := (s.absentPages v).filter (fun p => !(s.mig vf).asked.contains p)
      (todo.take (16 - (s.mig vf).asked.length)).foldl (fun (s : State) p => s.askPull vf p) s

/-- `MACK_SUBMIT` (R378, R379): a MACK write of STEPS + 1 submits the window; a step that passes is taken in. -/
def execMackSubmit (vf : Nat) (s : State) : Outcome :=
  match mget s.vfs vf with
  | none => .next s
  | some v =>
    let m := s.mig vf
    if v.mstate ≠ 4 ∨ s.dwordAt (s.migBase vf + 0x100) ≠ nw (m.steps + 1) then .next s
    else
      match s.checkStep vf v with
      | .error code => .next (s.statMig vf code)
      | .ok x =>
        let s1 := s.modMig vf (fun m =>
          { m with stream := x.stream, steps := m.steps + 1, formBad := m.formBad || x.formBad, stat := if x.formBad then 1 else m.stat })
        if x.fin then
          match s.checkIntake vf v x.secs with
          | .error code => .next (s.statMig vf code)
          | .ok y => .next ((((s1.takeIn vf v y x.secs).showMig vf).pumpPulls vf).settleDone vf)
        else .next (s1.showMig vf)

/-! Pulls at the destination (R382, R383). -/

/-- `PULLALL` (R383). -/
def execPullall (vf : Nat) (s : State) : Outcome :=
  .next ((s.modMig vf (fun m => { m with pullall := bit (s.dwordAt (s.migBase vf + 0x10)) 0 })).pumpPulls vf)

/-! Accesses from peers (R259, R260, R342, R385, R389). -/

/-- The kind of access of a peer's request. -/
def peerAcc : PeerKind → Acc
  | .read => .read
  | .write => .write
  | .atomic => .rmw

/-- A peer's access is held until something else has happened (R382, R389). -/
def State.holdPeer (s : State) (a : PeerAccess) : State :=
  s.modMig a.vf (fun m => { m with heldAccesses := m.heldAccesses ++ [a] })

/-- Perform a peer's access at the home, after this part's stage two (R259, R342). -/
def State.servePeer (s : State) (a : PeerAccess) (v : VFunc) : State :=
  let fault (code : Nat) : State := { s with outbox := s.outbox ++ [.peerFault a.dev code] }
  let answer (s : State) (bs : List Byte) : State := { s with outbox := s.outbox ++ [.peerData a.dev bs] }
  match ({ s with fs := noSlot } : State).stageTwo a.vf v a.ipa (peerAcc a.kind) 0 with
  | .error (.trap t) => fault t.cause.code
  | .error (.hold (.pull f p)) => (s.askPull f p).holdPeer a
  | .error _ => s.holdPeer a
  | .ok (pa, _) =>
    match a.kind with
    | .read => if (dwordsOf pa a.size).any s.poisoned then fault 8 else answer s (s.bytesAt pa a.size)
    | .write => answer (s.performAll none [partEff pa a.data]) []
    | .atomic =>
      if s.poisoned (pa / 8) then fault 8
      else
        let old := s.natAt pa a.size
        answer (s.performAll none [partEff pa (leBytes a.size (atomicOp a.op a.size old (leNat a.data)))]) (leBytes a.size old)

/-- A peer's access arrives: the peer is listed; a destination holds what does not come through the source until its FWDEND, a source
passes on what concerns a page it has given up, in the order of arrival (R389). -/
def State.peerArrival (s : State) (a : PeerAccess) : State :=
  match mget s.vfs a.vf with
  | none => { s with outbox := s.outbox ++ [.peerFault a.dev 7] }
  | some v =>
    let m := s.mig a.vf
    if m.heldAccesses.any (fun x => x.dev == a.dev && x.fwd == a.fwd) then s.holdPeer a
    else if v.mstate = 4 ∧ !a.fwd ∧ (!m.ended ∨ (m.peers.any (fun p => p.dev == a.dev && p.acked) ∧ !m.fwdended.contains a.dev)) then s.holdPeer a
    else
      let s1 := if a.fwd ∨ m.peers.any (fun p => p.dev == a.dev) ∨ 256 ≤ m.peers.length then s
        else (s.modMig a.vf (fun m => { m with peers := m.peers ++ [⟨a.dev, false⟩] })).showMig a.vf
      if v.mstate = 3 ∧ m.given.contains (a.ipa / 65536) ∧ a.ipa < v.sbound then
        let o := s.otherPart a.vf
        { s1 with outbox := s1.outbox ++ [.forward o.1 { a with fwd := true, vf := o.2 }] }
      else s1.servePeer a v

/-- `PEER_ACCESS_ARRIVAL` (R259, R342, R389). -/
def execPeerAccessArrival (a : PeerAccess) (s : State) : Outcome := .next (s.peerArrival a)

/-- The accesses a function's part holds are tried again, in their order. -/
def State.retryHeld (s : State) (vf : Nat) : State :=
  let held := (s.mig vf).heldAccesses
  if held.isEmpty then s
  else held.foldl State.peerArrival (s.modMig vf (fun m => { m with heldAccesses := [] }))

/-- The page counts as one whose pull has failed for the engines, the scheduler and the accesses of peers, which are no thread (R341). -/
def State.withFailed (s : State) (vf page : Nat) : State := s.setThread noSlot { Thread.idle with hold := some (.pullFailed vf page) }
def State.sansFailed (s : State) : State := { s with threads := mdel s.threads noSlot }

/-- A step of an engine or the scheduler that waits for the page meets PAGE_ABSENT. -/
def State.faultStep (vf page : Nat) (s : State) (e : State → Outcome) : State :=
  match e s with
  | .next s0 =>
    if s0 = s then
      match e (s.withFailed vf page) with
      | .next s1 => s1.sansFailed
      | _ => s
    else s
  | _ => s

/-- Steps that may wait for a page: of copies, queues and launches. -/
def State.pullers (s : State) : List (State → Outcome) :=
  s.copies.flatMap (fun c => [execEngineChunkGrant c.id, execCopyComplete c.id]) ++ s.qmap.map (fun m => execLaunchStart m.vf m.q) ++
    s.launches.flatMap (fun x => [execCoreGroupStart x.1, execLaunchComplete x.1])

/-- A pull has failed: STAT is 4, and every access that waits for the page raises PAGE_ABSENT; a later access pulls it again (R341, R382). -/
def State.failPull (s : State) (vf page : Nat) : State :=
  let s1 := { s with threads := s.threads.map (fun (x : Nat × Thread) =>
    if x.2.hold = some (Hold.pull vf page) then (x.1, { x.2 with hold := some (.pullFailed vf page) }) else x) }
  let s2 := s1.pullers.foldl (State.faultStep vf page) s1
  let held := (s2.mig vf).heldAccesses
  let s3 := (held.foldl State.peerArrival ((s2.modMig vf (fun m => { m with heldAccesses := [] })).withFailed vf page)).sansFailed
  (s3.modMig vf (fun m => { m with asked := m.asked.filter (fun p => p != page) })).statMig vf 4

/-- `PULL_DATA` (R382, R386): a page arrives with its poison and its records, and its presence bit is set; no data means that the pull
has failed. -/
def execPullData (vf page : Nat) (bytes : List Byte) (pois : List Nat) (recs : List (List Word)) (s : State) : Outcome :=
  match mget s.vfs vf with
  | none => .next s
  | some v =>
    if v.mstate ≠ 4 ∨ v.pages ≤ page ∨ s.present v (65536 * page) then .next s
    else if bytes.length ≠ 65536 then .next (s.failPull vf page)
    else
      let pa := v.sbase + 65536 * page
      let s1 := s.performAll none [.write pa bytes]
      let here (x : Nat × List Byte) : Bool := x.1 / 65536 == page
      let s2 := (pois.filter (· < 8192)).foldl (fun (s : State) i => s.setPoison (pa / 8 + i) true) s1
      let pb := v.presenceByte (65536 * page)
      -- event records that were written meanwhile stand in the page (R388)
      let s2 := ((s2.mig vf).late.filter here).foldl (fun (s : State) x => s.performAll none [.write (v.pa x.1) x.2]) s2
      let s3 := s2.performAll none [.write pb [s2.byteAt pb ||| BitVec.ofNat 8 (2 ^ (page % 8))]]
      let s4 := (recs.filterMap (rdAll rdOwn)).foldl (fun (s : State) o => s.ownIn v o) s3
      let s5 := (s4.modMig vf (fun m => { m with asked := m.asked.filter (fun p => p != page), late := m.late.filter (fun x => !here x) })).showMig vf
      .next (((s5.retryHeld vf).pumpPulls vf).settleDone vf)

/-! Remaps (R389). -/

/-- `REMAP` (R389): a function this part has accessed moves; the hypervisor is told, and the part watches its peer tables. -/
def execRemap (src dst : Word) (s : State) : Outcome :=
  let s1 := s.postHyper 13 31 0 0 [nw (bits src 27 0), nw (bits dst 27 0)]
  let k := (bits src 19 0, bits src 27 20)
  .next { s1 with remaps := if s1.remaps.contains k then s1.remaps else s1.remaps ++ [k] }

/-- A valid entry of a function's peer table still names the source of a remap, or an access through it is on its way. -/
def State.stillMapped (s : State) (k : Nat × Nat) : Bool :=
  s.vfs.any (fun x => (List.range 256).any (fun i =>
    let e := s.dwordAt (x.2.peert + 8 * i)
    bit e 0 && bits e 28 9 == k.1 && bits e 8 1 == k.2)) ||
    (let at_ (a : Nat) : Bool := isPeer a && a / 2 ^ 52 - 1 == 256 * k.1 + k.2
     s.edges.any (fun e => at_ (64 * e.piece)) ||
      s.threads.any (fun x => match x.2.hold with | some (.edgeWait a ..) => at_ a | _ => false))

/-- Remaps whose entries have been replaced are acknowledged to their sources. -/
def State.settleRemaps (s : State) : State :=
  let done := s.remaps.filter (fun k => !s.stillMapped k)
  if done.isEmpty then s
  else { s with remaps := s.remaps.filter (fun k => s.stillMapped k), outbox := s.outbox ++ done.map (fun k => .remapack k.1 k.2) }

/-- `REMAPACK` (R389): the source has served or passed on all of the peer's accesses, and tells the destination. -/
def execRemapack (vf dev : Nat) (s : State) : Outcome :=
  match mget s.vfs vf with
  | none => .next s
  | some v =>
    if v.mstate = 3 ∧ (s.mig vf).started ∧ (s.mig vf).peers.any (fun p => p.dev == dev && !p.acked) then
      let o := s.otherPart vf
      let s1 := s.modMig vf (fun m => { m with peers := m.peers.map (fun (p : Peer) => if p.dev = dev then { p with acked := true } else p) })
      .next ({ s1 with outbox := s1.outbox ++ [Out.fwdend o.1 o.2 dev] }.showMig vf)
    else .next s

/-- `FWDEND` (R389): the destination releases the peer's held direct accesses. -/
def execFwdend (vf dev : Nat) (s : State) : Outcome :=
  match mget s.vfs vf with
  | none => .next s
  | some v =>
    if v.mstate = 4 ∧ !(s.mig vf).fwdended.contains dev then
      .next (((s.modMig vf (fun m => { m with fwdended := m.fwdended ++ [dev] })).retryHeld vf).settleDone vf)
    else .next s

end Sys2Proof.Machine
end

