-- ==== Sys2Proof/Machine/Host.lean ====
section
/-!
DEFINITION. The host link: the host's accesses to package memory and its snoops, the access counters' thresholds and the moves of
regions (R258, R347 to R356, R384).
-/

namespace Sys2Proof.Machine

/-! Moves of a region (R352 to R355). -/

/-- A migration report (Table 18.8). -/
def State.report (s : State) (vf : Nat) (v : VFunc) (kind old new ptea : Nat) : State :=
  s.postKernel vf 5 0 [0, nw (kind * 2 ^ 56 + v.thr), nw old, nw new, nw ptea]

/-- The next frame of a ring (R366): entries outside the segment or the window are skipped with a report; an empty ring gives none. -/
def State.takeFrame (vf : Nat) (v : VFunc) (toDevice : Bool) (old ptea : Nat) : Nat → State → Option Nat × State
  | 0, s => (none, s)
  | fuel + 1, s =>
    let ring := v.pa (if toDevice then v.dfr else v.hfr)
    let head := (s.dwordAt ring).toNat
    if s.dwordAt ring = s.dwordAt (ring + 8) then (none, s)
    else
      let e := (s.dwordAt (ring + 16 + 8 * (head % 510))).toNat
      let s1 := s.performAll none [partEff ring (leBytes 8 (head + 1))]
      if e % 65536 = 0 ∧ e + 65536 ≤ (if toDevice then v.sbound else v.hbound) then (some e, s1)
      else State.takeFrame vf v toDevice old ptea fuel ((mget s1.vfs vf).elim s1 (fun v => s1.report vf v 4 old 0 ptea))

/-- The address within a region that leaf i of its group maps: the frame of the whole page in a span (R337). -/
def memberAddr (span : Bool) (base i : Nat) : Nat := if span then base else base + 4096 * i

/-- Sixteen entries form one group that maps a region: a span of it, or its pages in order (R336, R337, R352). -/
def groupMaps (base : Nat) (leaves : List Word) : Bool :=
  leaves.length == 16 && [true, false].any (fun span => leaves.zipIdx.all (fun (p : Word × Nat) =>
    let e := p.1
    bit e 0 && bit e 1 && !badLeaf 0 e && !bit e 52 && !bit e 53 && bit e 9 == span &&
      bits e 51 12 * 4096 == memberAddr span base p.2))

/-- The intermediate address of a region: in the host window, or in the segment. -/
def regionIpa (host : Bool) (region : Nat) : Nat := (if host then hostBase else 0) + 65536 * region

/-- The sixteen leaves as the move leaves them: V = 0 and MOV = 1 while it runs, and the new address at its end (R353). -/
def leafMoving (e : Word) : Word := putBit (putBit e 0 false) 53 true
def leafMoved (base : Nat) (e : Word) (i : Nat) : Word :=
  putBit (putBit (putBits e 51 12 (memberAddr (bit e 9) base i / 4096)) 0 true) 53 false

/-- Write a group of leaves as one engine chunk (R346, R353). -/
def State.writeLeaves (s : State) (v : VFunc) (ptea : Nat) (leaves : List Word) : State :=
  s.writeOwn [partEff (v.pa ptea) (leaves.flatMap (fun w => leBytes 8 w.toNat))]

/-- `ACCESS_COUNTER_THRESHOLD` (R352, R353 steps 1 and 2): COUNT has reached THR and is 0 again; a report is written, or a move
starts. -/
def execAccessCounterThreshold (vf : Nat) (host : Bool) (region : Nat) (s : State) : Outcome :=
  match mget s.vfs vf with
  | none => .next s
  | some v =>
    let e := s.dwordAt (v.pa ((if host then v.hct else v.dct) + 8 * region))
    let old := 65536 * region
    let ptea := 8 * bits e 48 0
    let leaves := (List.range 16).map (fun i => s.dwordAt (v.pa ptea + 8 * i))
    if bits e 51 50 = 1 then .next (s.report vf v 3 old 0 ptea)
    else if bits e 51 50 ≠ 2 then .next s
    else if ptea = 0 ∨ ptea % 128 ≠ 0 ∨ (v.window ptea).isNone ∨ !groupMaps (regionIpa host region) leaves then
      .next (s.report vf v 5 old 0 ptea)
    else if 16 ≤ s.moves.length then .next (s.report vf v 3 old 0 ptea)
    else
      match State.takeFrame vf v host old ptea 511 s with
      | (none, s1) => .next ((mget s1.vfs vf).elim s1 (fun v => s1.report vf v 4 old 0 ptea))
      | (some f, s1) =>
        .next { s1.writeLeaves v ptea (leaves.map leafMoving) with
                moves := s1.moves ++ [⟨vf, host, region, f, ptea, leaves, []⟩] }

/-- Copy 64 KiB from one place of a function to another, with its poison, as engine chunks of 4 KiB (R257, R353 step 3);
the host lines it fetches are counted (R351). -/
def State.copyRegion (s : State) (vf : Nat) (v : VFunc) (src dst : Nat) : State :=
  (List.range 16).foldl (fun (s : State) i =>
    let from_ := v.pa (src + 4096 * i)
    let to_ := v.pa (dst + 4096 * i)
    let bad := (List.range 512).filter (fun k => s.poisoned (from_ / 8 + k))
    let s0 := s.walkLines (some vf) (linesOf from_ 4096)
    let s1 := (s0.noteOwn (linesOf from_ 4096 ++ linesOf to_ 4096)).performAll none [partEff to_ (s.bytesAt from_ 4096)]
    bad.foldl (fun (s : State) k => s.setPoison (to_ / 8 + k) true) s1) s

/-- `REGION_MOVE_COMPLETE` (R353 steps 3 to 5, R354): the oldest move of a function copies its region, gives the leaves their new
address, reports, and sends its waiters their notices. -/
def execRegionMoveComplete (vf : Nat) (s : State) : Outcome :=
  match s.moves.find? (fun m => m.vf == vf), mget s.vfs vf with
  | some m, some v =>
    let dst := (if m.toDevice then 0 else hostBase) + m.frame
    let s1 := s.copyRegion vf v (regionIpa m.toDevice m.region) dst
    let s2 := s1.writeLeaves v m.ptea (m.leaves.zipIdx.map (fun (p : Word × Nat) => leafMoved dst p.1 p.2))
    let s3 := s2.report vf v (if m.toDevice then 1 else 2) (65536 * m.region) m.frame m.ptea
    .next { s3 with
            moves := s3.moves.erase m
            notices := s3.notices ++ m.waiters.map (fun (w : Nat × Nat) => (w.1, nw (0xFE * 2 ^ 56 + w.2 * 2 ^ 32))) }
  | _, _ => .next s

/-- A completion notice arrives at p15 of the slot that holds its thread, where there is room; for a thread that a handover or a bale has taken
off its slot it waits, and for one that is no more it is dropped (R218, R318, R322, R354). -/
def State.sendNotice (s : State) (n : Nat × Word) : State :=
  let later : State := { s with notices := s.notices ++ [n] }
  match s.threads.find? (fun p => p.2.live && p.2.uid == n.1) with
  | some (gs, _) => if slotCount ≤ gs then later else (s.arrive gs 15 n.2).getD later
  | none => if s.away.any (fun a => a.t.live && a.t.uid == n.1) then later else s

/-- Every completion notice. -/
def State.sendNotices (s : State) : State := s.notices.foldl State.sendNotice { s with notices := [] }

/-! The host's accesses to package memory (R258, R349, R351, R384). -/

/-- The function whose segment holds an HBM address. -/
def State.segmentOf (s : State) (pa : Nat) : Option (Nat × VFunc) :=
  s.vfs.find? (fun p => decide (p.2.sbase ≤ pa) && decide (pa < p.2.sbase + p.2.sbound))

/-- How a CXL.mem request to an address is answered: it waits, it finds the page given up, or it is served. -/
inductive CxlMem where
  | wait (s : State)
  | gone (s : State) (vf : Nat) (v : VFunc)
  | serve (s : State)
deriving DecidableEq, Repr

/-- A CXL.mem request reaches the home (R258): the region's access is counted; a device-to-host move of it holds the request, a page
that a migration has not brought yet is pulled first, one that it has given up is answered with poison. -/
def State.cxlMem (s : State) (pa : Nat) : CxlMem :=
  match s.segmentOf pa with
  | none => .serve s
  | some (vf, v) =>
    let ipa := pa - v.sbase
    if s.moves.any (fun m => m.vf == vf && !m.toDevice && m.region == ipa / 65536) then .wait s
    else if v.mstate = 3 ∧ (s.mig vf).given.contains (ipa / 65536) then .gone (s.countRegion vf v false (ipa / 65536)) vf v
    else if v.mstate = 4 ∧ !v.linkLost ∧ !s.present v ipa then .wait (s.askPull vf (ipa / 65536))
    else .serve (s.countRegion vf v false (ipa / 65536))

/-- A host-error event (R384) with the access's offset in the host window; which offset that is for a page of the segment no rule says (log
entry 52). -/
def State.hostError (s : State) (vf : Nat) (v : VFunc) (pa : Nat) : State :=
  s.postHyper 14 v.part vf 0 [0, nw (Config.hostOffset vf (pa - v.sbase))]

/-- The host may hold a copy of the line from now on (R349; log entry 86), or writes it and holds none. -/
def State.hostTakes (s : State) (line : Nat) : State := { s with hostLines := mput s.hostLines line () }
def State.hostGives (s : State) (line : Nat) : State := { s with hostLines := mdel s.hostLines line }

/-- `CXL_MEM_READ` (R258): a host read of a 64-byte line of HBM is a singleton at its home, of committed values; a poisoned word
answers it with poison. At the address that names the hand-off block it is a read of that block (R409, R411; log entry 5). -/
def execCxlMemRead (pa : Nat) (s : State) : Outcome :=
  if inHandoff pa then .next { s with outbox := s.outbox ++ [Out.hostData (pa / 64 * 64) (some (s.handoffBytes pa))] }
  else if !isHbm pa then .next s
  else
    let a := pa / 64 * 64
    match s.cxlMem a with
    | .wait s1 => .next s1
    | .gone s1 vf v => .next { s1.hostError vf v a with outbox := (s1.hostError vf v a).outbox ++ [Out.hostData a none] }
    | .serve s1 =>
      let bs : Option (List Byte) := if (dwordsOf a 64).any s1.poisoned then none else some (s1.bytesAt a 64)
      .next ({ s1 with outbox := s1.outbox ++ [Out.hostData a bs] }.hostTakes (lineOf a))

/-- `CXL_MEM_WRITE` (R258): a host write within one line of HBM is a singleton, which squashes under R252. -/
def execCxlMemWrite (pa : Nat) (bytes : List Byte) (s : State) : Outcome :=
  if !isHbm pa ∨ bytes = [] ∨ 64 < pa % 64 + bytes.length then .next s
  else
    match s.cxlMem pa with
    | .wait s1 => .next s1
    | .gone s1 vf v => .next (s1.hostError vf v pa)
    | .serve s1 => .next ((s1.hostGives (lineOf pa)).performAll none [.write pa bytes])

/-- `CXL_CACHE_SNOOP` (R348, R258): a host snoop of a half of a host line acts on the whole line: with the bytes of a host write every
copy is dropped and chunks that hold the line are squashed; a host read writes a dirty copy back and downgrades it. -/
def execCxlCacheSnoop (pa : Nat) (bytes : List Byte) (s : State) : Outcome :=
  if !isHost pa ∨ 64 < pa % 64 + bytes.length then .next s
  else if bytes = [] then
    let s1 := s.cohDrain (lineOf pa)
    .next (s1.setDir (lineOf pa) ((s1.dirOf (lineOf pa)).map (fun x => match x with | .i => .i | _ => .s)))
  else .next (s.performAll none [.edge pa bytes])

end Sys2Proof.Machine
end

