-- ==== Sys2Proof/Machine/Package.lean ====
section
/-!
DEFINITION. Errors and what the part does about them, Heathway ports, resets, throttling and the start of the hypervisor
(R282, R283, R401 to R411).
-/

namespace Sys2Proof.Machine

/-! Errors (R401, R402). -/

/-- The partition an address belongs to, or 31 for none (Table 23.1). -/
def State.ownerOf (s : State) (pa : Nat) : Nat :=
  (if isHbm pa then s.regionOwner (hbmRegion pa)
   else if isSpad pa then s.bankOwner (spadCore pa / 8) (spadBank pa) else none).getD 31

/-- An error record's body: COUNT, SEV and KIND, ADDR and PDEV (Table 23.9). -/
def errorBody (count sev kind addr : Nat) : List Word := [nw (count * 2 ^ 32 + sev * 2 ^ 8 + kind), nw addr, 0]

/-- The unit that merges corrected events: a link, or a bank of 8 KiB of SRAM (R401). -/
def sameUnit (a b kind : Nat) : Bool := kind == 6 || a / 8192 == b / 8192

/-- A corrected event joins those of its unit, or opens a new record (R401). -/
def State.corrected (s : State) (kind addr : Nat) : State :=
  if s.merged.any (fun m => m.kind == kind && sameUnit m.addr addr kind) then
    { s with merged := s.merged.map (fun (m : Merged) =>
        if m.kind = kind ∧ sameUnit m.addr addr kind then { m with count := m.count + 1 } else m) }
  else { s with merged := s.merged ++ [⟨kind, addr, s.cycle, 1⟩] }

/-- Merged events are due for their record: 1,250,000 cycles have passed since the first. -/
def Merged.due (m : Merged) (cycle : Nat) : Bool := decide (m.start + 1250000 ≤ cycle)

/-- Write the records of corrected events whose time has passed (R401). -/
def State.flushMerged (s : State) : State :=
  (s.merged.filter (fun m => m.due s.cycle)).foldl
    (fun (s : State) (m : Merged) => s.postHyper 10 (if m.kind = 6 then 31 else s.ownerOf m.addr) 0 0 (errorBody m.count 0 m.kind m.addr))
    { s with merged := s.merged.filter (fun m => !m.due s.cycle) }

/-- The place a record names for a slot, at a ring of the hypervisor and of a function. -/
def State.kernelPlace (s : State) (gs : Nat) : Nat := ((s.vfRec gs).map (VFunc.placeOf · gs)).getD 0

/-- An arithmetic or pipeline error at a slot (R401): the uncommitted chunk is squashed and retried once under LRETRY, and any other
is contained. -/
def State.logicError (s : State) (gs : Nat) : State :=
  let t := s.thread gs
  -- POLICY as it stood when the chunk began (R235)
  let retry := match t.chunks.getLast? with
    | some c => !c.granted && c.policy % 2 == 1
    | none => false
  if retry && !t.retried then
    let s1 := s.squash gs (t.chunks.length - 1) true false
    let s2 := (s1.setThread gs { s1.thread gs with retried := true }).postHyper 10 ((s.partOf gs).getD 31) (t.vf.getD 0) gs (errorBody 1 2 4 0)
    match t.vf with
    | some v => s2.postKernel v 10 (s.kernelPlace gs) (errorBody 1 2 4 0)
    | none => s2
  else (s.contain t.vf t.asid 2 (some gs)).1

/-- Where the model names the bytes of the tile stores in an error: no physical address reaches them (log entry 36). -/
def tileBase : Nat := 2 ^ 61

/-- A multi-bit error that no second source mends: the word is marked poisoned, in the tile store the element that holds the byte
(R282, R283). -/
def State.markBad (s : State) (pa : Nat) : State :=
  if tileBase ≤ pa then
    let k := pa - tileBase
    let pc := k / 2097152
    if pc < clusterCount then
      { s with tilePoison := mput s.tilePoison k () }.postHyper 10 ((s.rowOwner pc (k / 2048 % 1024)).getD 31) 0 0 (errorBody 1 1 3 pa)
    else s
  else if isPackage pa || isHost pa then (s.setPoison (pa / 8) true).postHyper 10 (s.ownerOf pa) 0 0 (errorBody 1 1 3 pa)
  else s

/-- `ERROR_DETECTED` (R401, Table 23.8): kind 1 at an SRAM address, 2 and 3 at an address of memory or of a tile store, 4 and 5 at a slot, 6 on
a link. Kind 3 is an error in memory of the package, in a dirty copy, or in host memory as a clean copy is refetched (R283). Kind 7
comes with the refusal of an edge write. -/
def execErrorDetected (kind pa gs : Nat) (s : State) : Outcome :=
  match kind with
  | 1 => .next (s.corrected 1 pa)
  | 2 =>
    -- a clean copy is dropped and refetched: its die holds the line as before (R283)
    .next (if s.dieState (lineOf pa) (dieOf gs) = .e ∨ s.dieState (lineOf pa) (dieOf gs) = .s then
        s.postHyper 10 (s.ownerOf pa) 0 0 (errorBody 1 1 2 pa)
      else s)
  | 3 => .next (s.markBad pa)
  | 4 => .next (if (s.thread gs).live then s.logicError gs else s)
  | 5 => .next (if (s.thread gs).live then (s.contain (s.thread gs).vf (s.thread gs).asid 1 (some gs)).1 else s)
  | 6 => .next (s.corrected 6 0)
  | _ => .next s

/-- `LINK_FLIT_ERROR` (R401, R405): the flit is resent, and the event is reported. -/
def execLinkFlitError (s : State) : Outcome := .next (s.corrected 6 0)

/-! Heathway (R405). -/

/-- Functions whose migration has lost its link, no route being left to the other part: the pulls on their way fail, and so does every later
one (R341, R382, R405). -/
def State.loseLinks (s : State) : State :=
  (s.vfs.filter (fun p => p.2.mstate == 4 && !p.2.linkLost && !s.peerUp (s.otherPart p.1).1)).foldl (fun (s : State) p =>
    let s1 := (s.mig p.1).asked.foldl (fun (s : State) page => s.failPull p.1 page) s
    ({ s1 with vfs := s1.vfs.map (fun (x : Nat × VFunc) => if x.1 = p.1 then (x.1, { x.2 with linkLost := true }) else x) } : State).statMig p.1 4) s

/-- `HEATHWAY_PORT_FAILURE` (R405): the port leaves the routes, and traffic keeps its order over those that are left; a part that no route
leads to any more gets no answer and gives none (log entry 91). -/
def execHeathwayPortFailure (port : Nat) (s : State) : Outcome :=
  if 36 ≤ port ∨ s.portsDown.contains port then .next s
  else .next { s with portsDown := port :: s.portsDown }.loseLinks

/-! Resets (R404, R407, R408). -/

/-- An act that comes from outside the part, and so outlives a reset of it. -/
def Act.outside : Act → Bool
  | .event _ | .issue _ | .tick | .hostResponse => true
  | _ => false

/-- A package reset (R408): nothing of the package survives; host and peer memory and what has left the part stay. STATE reads 0 until
firmware has brought the package up and writes dword 0 of the hand-off block with these STATE and FAIL, after what is to come from outside
first (R411; log entry 67). -/
def State.packageReset (s : State) (state fail : Nat) : State :=
  { State.reset with
    mem := s.mem.filter (fun p => isHost p.1), peer := s.peer, outbox := s.outbox, fresh := s.fresh
    ho := { State.reset.ho with state := 0 }, agenda := s.agenda.filter Act.outside ++ [.handOff state fail] }

/-- The end of bring-up: STATE and FAIL are written (R408 step 4); only the firmware of a part that is not ready does so. What a bad
identifier and a failed stack add to FAIL stands in `State.handoffWord`. -/
def State.handOff (s : State) (state fail : Nat) : State :=
  if s.ho.state = 0 then { s with ho := { s.ho with state := state, fail := fail } } else s

/-- `PACKAGE_RESET` (R408). -/
def execPackageReset (s : State) : Outcome := .next (s.packageReset 1 0)

/-- `THERMAL_RESET` (R407): firmware resets the package; STATE reads 2 and FAIL bit 1 is set. -/
def execThermalReset (s : State) : Outcome := .next (s.packageReset 2 2)

/-- Function-level resets whose function holds no thread any more are complete (R404 step 3). -/
def State.settleResets (s : State) : State :=
  let held (n : Nat) : Bool := s.threads.any (fun p => p.2.live && p.2.vf == some (n - 1)) || s.away.any (fun a => a.t.live && a.vf == n - 1)
  if s.flrs = [] then s
  else { s with flrs := s.flrs.filter held, outbox := s.outbox ++ (s.flrs.filter (fun n => !held n)).map Out.resetDone }

/-- `FUNCTION_LEVEL_RESET` (R404): SR-IOV function n kills every context of function n - 1 and drains its queues, and is complete once the
function holds no thread; that of PF0 resets the package. -/
def execFunctionLevelReset (n : Nat) (s : State) : Outcome :=
  if n = 0 then .next (s.packageReset 1 0)
  else
    let vf := n - 1
    let asids := ((s.threads.filter (fun p => p.2.live && p.2.vf == some vf)).map (fun p => p.2.asid) ++
      (s.away.filter (fun a => a.t.live && a.vf == vf)).map (fun a => a.t.asid)).dedup
    let s1 := asids.foldl (fun (s : State) a => (s.contain (some vf) a 4 none).1) s
    let s2 := (List.range 64).foldl (fun (s : State) q => s.drainQueue vf q) s1
    .next { s2 with flrs := if s2.flrs.contains n then s2.flrs else s2.flrs ++ [n] }.settleResets

/-! Hand-off (R409, R410). -/

/-- The slot of the hypervisor thread that bring-up starts: die 3, cluster 95, core 0, slot 0 (R410). -/
def fetchSlot : Nat := 196096

/-- The thread that bring-up starts: at hyper level, in direct mode, with IE = 0 and a window of 64 registers at base 0 (R410). -/
def hyperThread (entry : Word) : Thread :=
  Thread.fresh none 0 0 64 entry (putBit (putBits (startStatus true false false false) 18 17 2) 16 false)

/-- `HENTRY` (R410): a write of HENTRY while STATE is 1 starts the hypervisor's first thread, with x3 = HARG. -/
def execHentry (v : Word) (s : State) : Outcome :=
  if s.ho.state ≠ 1 ∨ bits v 1 0 ≠ 0 then .next s
  else .next ({ s with ho := { s.ho with hentry := v, state := 3 } }.startThread fetchSlot (hyperThread v) [(3, s.ho.harg)])

/-! Throttling (R407). -/

/-- `THROTTLE_START` (R407): a die throttles for a cause, with an idle fraction in 64ths; where it does so already, nothing changes. -/
def execThrottleStart (die cause frac : Nat) (s : State) : Outcome :=
  if 4 ≤ die ∨ cause = 0 ∨ 2 < cause ∨ 63 < frac ∨ mget s.throttle die = some (cause, frac) then .next s
  else
    .next ({ s with throttle := mput s.throttle die (cause, frac) }.postHyper 15 31 0 0 [nw (frac * 2 ^ 16 + cause * 2 ^ 8 + die)])

/-- `THROTTLE_END` (R407). -/
def execThrottleEnd (die : Nat) (s : State) : Outcome :=
  if (mget s.throttle die).isSome then
    .next ({ s with throttle := mdel s.throttle die }.postHyper 15 31 0 0 [nw die])
  else .next s

/-- The wheel turn of 64 cycles is idle on a throttled die: idle turns are spread evenly (R407). -/
def State.idleTurn (s : State) (die : Nat) : Bool :=
  match mget s.throttle die with
  | some (_, f) => decide (s.cycle / 64 * f / 64 ≠ (s.cycle / 64 + 1) * f / 64)
  | none => false

/-- A turn is idle or not as a whole: it is settled for each die as a turn of the wheel begins (R407). -/
def State.drawIdle (s : State) : State :=
  if s.cycle % 64 = 0 then { s with idling := (List.range 4).filter s.idleTurn } else s

end Sys2Proof.Machine
end

