-- ==== Sys2Proof/Machine/Tick.lean ====
section
/-!
DEFINITION. What a cycle does: CYCLE, the timers, and the wheel's turn of the cores (R293, Table 1.7).
-/

namespace Sys2Proof.Machine

/-- TIMER reaches zero: it raises a TIMER interrupt to kernel level (Table 1.7). -/
def State.expire (s : State) (gs : Nat) : State :=
  (s.setThread gs { s.thread gs with timer := 0 }).raise gs 1 15

/-- `TIMER_EXPIRY` (R40): the last count of a slot's TIMER. -/
def execTimerExpiry (gs : Nat) (s : State) : Outcome :=
  if (s.thread gs).live ∧ s.answers gs ∧ (s.thread gs).timer = 1 then .next (s.expire gs) else .next s

/-- Every TIMER that is not zero falls by one while its slot is started (Table 1.7); the clock of a cluster that is being stopped runs on up
to its freeze (R326). -/
def State.countTimers (s : State) : State :=
  (s.threads.filter (fun p => p.2.live && p.2.timer != 0 && s.answers p.1)).foldl (fun (s : State) p =>
    if p.2.timer = 1 then s.expire p.1
    else s.setThread p.1 { s.thread p.1 with timer := p.2.timer - 1 }) s

/-- One cycle passes; the cores with threads have their turn again. -/
def State.tick (s : State) : State :=
  let s1 := { s with cycle := s.cycle + 1 }.countTimers.settleStops
  { s1 with turn := ((s1.threads.filter (fun p => p.2.live && s1.runs p.1)).map (fun p => coreOf p.1)).dedup }

end Sys2Proof.Machine
end

