-- ==== Sys2Proof/Machine/Dispatch.lean ====
section
/-!
DEFINITION. The meaning of every row of the opcode table: one arm per constructor.
-/

namespace Sys2Proof.Machine

def exec (i : Instr) (s : State) : Host.Outcome State Fault Refusal :=
  match i with
  | .ld o sz a d => Sys2Proof.Machine.execLd o sz a d s
  | .ldz o sz a d => Sys2Proof.Machine.execLdz o sz a d s
  | .st o sz a d => Sys2Proof.Machine.execSt o sz a d s
  | .ldx x sz b a d => Sys2Proof.Machine.execLdx x sz b a d s
  | .stx x sz b a d => Sys2Proof.Machine.execStx x sz b a d s
  | .ldm o n a d => Sys2Proof.Machine.execLdm o n a d s
  | .stm o n a d => Sys2Proof.Machine.execStm o n a d s
  | .ldk o d => Sys2Proof.Machine.execLdk o d s
  | .pf o sz a h => Sys2Proof.Machine.execPf o sz a h s
  | .amo sz c a d => Sys2Proof.Machine.execAmo sz c a d s
  | .amoE sz c a d => Sys2Proof.Machine.execAmoE sz c a d s
  | .amof sz c a d => Sys2Proof.Machine.execAmof sz c a d s
  | .amofE sz c a d => Sys2Proof.Machine.execAmofE sz c a d s
  | .cas sz b a d => Sys2Proof.Machine.execCas sz b a d s
  | .qres sz a d => Sys2Proof.Machine.execQres sz a d s
  | .qrel sz a d => Sys2Proof.Machine.execQrel sz a d s
  | .br o n k => Sys2Proof.Machine.execBr o n k s
  | .jmp o => Sys2Proof.Machine.execJmp o s
  | .brEnd o n p => Sys2Proof.Machine.execBrEnd o n p s
  | .jal o d => Sys2Proof.Machine.execJal o d s
  | .jalr im a d => Sys2Proof.Machine.execJalr im a d s
  | .loop o d => Sys2Proof.Machine.execLoop o d s
  | .sopen r w t sz p a => Sys2Proof.Machine.execSopen r w t sz p a s
  | .sclose p => Sys2Proof.Machine.execSclose p s
  | .sseek p a => Sys2Proof.Machine.execSseek p a s
  | .spos p d => Sys2Proof.Machine.execSpos p d s
  | .fence => Sys2Proof.Machine.execFence s
  | .fenceE => Sys2Proof.Machine.execFenceE s
  | .wait m c sz w => Sys2Proof.Machine.execWait m c sz w s
  | .mona im a n => Sys2Proof.Machine.execMona im a n s
  | .monw a d => Sys2Proof.Machine.execMonw a d s
  | .watch im a => Sys2Proof.Machine.execWatch im a s
  | .wsleep a d => Sys2Proof.Machine.execWsleep a d s
  | .cut => Sys2Proof.Machine.execCut s
  | .direct => Sys2Proof.Machine.execDirect s
  | .resume => Sys2Proof.Machine.execResume s
  | .lock a k => Sys2Proof.Machine.execLock a k s
  | .unlock a => Sys2Proof.Machine.execUnlock a s
  | .clean b a => Sys2Proof.Machine.execClean b a s
  | .inval b a => Sys2Proof.Machine.execInval b a s
  | .iflush b a => Sys2Proof.Machine.execIflush b a s
  | .isync => Sys2Proof.Machine.execIsync s
  | .vld o v m a sz d => Sys2Proof.Machine.execVld o v m a sz d s
  | .vst o v m a sz d => Sys2Proof.Machine.execVst o v m a sz d s
  | .vlds m b a sz d => Sys2Proof.Machine.execVlds m b a sz d s
  | .vsts m b a sz d => Sys2Proof.Machine.execVsts m b a sz d s
  | .vgat m c im a sz d => Sys2Proof.Machine.execVgat m c im a sz d s
  | .vsct m c im a sz d => Sys2Proof.Machine.execVsct m c im a sz d s
  | .cpy b a d => Sys2Proof.Machine.execCpy b a d s
  | .cpyw b a d => Sys2Proof.Machine.execCpyw b a d s
  | .msend b a => Sys2Proof.Machine.execMsend b a s
  | .chbind p a => Sys2Proof.Machine.execChbind p a s
  | .chunbind p => Sys2Proof.Machine.execChunbind p s
  | .redcfg b a => Sys2Proof.Machine.execRedcfg b a s
  | .redc c o a d => Sys2Proof.Machine.execRedc c o a d s
  | .tspawn b a d => Sys2Proof.Machine.execTspawn b a d s
  | .tkey a d => Sys2Proof.Machine.execTkey a d s
  | .fork b a d => Sys2Proof.Machine.execFork b a d s
  | .join => Sys2Proof.Machine.execJoin s
  | .rqput b a => Sys2Proof.Machine.execRqput b a s
  | .rqtake b d => Sys2Proof.Machine.execRqtake b d s
  | .tmset a => Sys2Proof.Machine.execTmset a s
  | .sstart a d => Sys2Proof.Machine.execSstart a d s
  | .sstop a => Sys2Proof.Machine.execSstop a s
  | .exit => Sys2Proof.Machine.execExit s
  | .trap n => Sys2Proof.Machine.execTrap n s
  | .wfi => Sys2Proof.Machine.execWfi s
  | .brk n => Sys2Proof.Machine.execBrk n s
  | .eret => Sys2Proof.Machine.execEret s
  | .hcall n => Sys2Proof.Machine.execHcall n s
  | .csrr c d => Sys2Proof.Machine.execCsrr c d s
  | .csrw c a => Sys2Proof.Machine.execCsrw c a s
  | .rdc c d => Sys2Proof.Machine.execRdc c d s
  | .hint h k => Sys2Proof.Machine.execHint h k s
  | .add b a d => Sys2Proof.Machine.execAdd b a d s
  | .sub b a d => Sys2Proof.Machine.execSub b a d s
  | .and b a d => Sys2Proof.Machine.execAnd b a d s
  | .or b a d => Sys2Proof.Machine.execOr b a d s
  | .xor b a d => Sys2Proof.Machine.execXor b a d s
  | .andn b a d => Sys2Proof.Machine.execAndn b a d s
  | .sll b a d => Sys2Proof.Machine.execSll b a d s
  | .srl b a d => Sys2Proof.Machine.execSrl b a d s
  | .sra b a d => Sys2Proof.Machine.execSra b a d s
  | .rol b a d => Sys2Proof.Machine.execRol b a d s
  | .min b a d => Sys2Proof.Machine.execMin b a d s
  | .max b a d => Sys2Proof.Machine.execMax b a d s
  | .minu b a d => Sys2Proof.Machine.execMinu b a d s
  | .maxu b a d => Sys2Proof.Machine.execMaxu b a d s
  | .mulh b a d => Sys2Proof.Machine.execMulh b a d s
  | .mulhu b a d => Sys2Proof.Machine.execMulhu b a d s
  | .mul b a d => Sys2Proof.Machine.execMul b a d s
  | .div b a d => Sys2Proof.Machine.execDiv b a d s
  | .divu b a d => Sys2Proof.Machine.execDivu b a d s
  | .rem b a d => Sys2Proof.Machine.execRem b a d s
  | .remu b a d => Sys2Proof.Machine.execRemu b a d s
  | .leaS1 b a d => Sys2Proof.Machine.execLeaS1 b a d s
  | .leaS2 b a d => Sys2Proof.Machine.execLeaS2 b a d s
  | .leaS3 b a d => Sys2Proof.Machine.execLeaS3 b a d s
  | .addi im a d => Sys2Proof.Machine.execAddi im a d s
  | .andi im a d => Sys2Proof.Machine.execAndi im a d s
  | .ori im a d => Sys2Proof.Machine.execOri im a d s
  | .xori im a d => Sys2Proof.Machine.execXori im a d s
  | .slli n a d => Sys2Proof.Machine.execSlli n a d s
  | .srli n a d => Sys2Proof.Machine.execSrli n a d s
  | .srai n a d => Sys2Proof.Machine.execSrai n a d s
  | .lih v d => Sys2Proof.Machine.execLih v d s
  | .lihM v d => Sys2Proof.Machine.execLihM v d s
  | .clz a d => Sys2Proof.Machine.execClz a d s
  | .ctz a d => Sys2Proof.Machine.execCtz a d s
  | .pop a d => Sys2Proof.Machine.execPop a d s
  | .brev a d => Sys2Proof.Machine.execBrev a d s
  | .bext b a d => Sys2Proof.Machine.execBext b a d s
  | .bins b a d => Sys2Proof.Machine.execBins b a d s
  | .fcvt r t sz a d => Sys2Proof.Machine.execFcvt r t sz a d s
  | .sel k b a d => Sys2Proof.Machine.execSel k b a d s
  | .pset b a c k => Sys2Proof.Machine.execPset b a c k s
  | .fcmpHf b a c k => Sys2Proof.Machine.execFcmpHf b a c k s
  | .fcmpBf b a c k => Sys2Proof.Machine.execFcmpBf b a c k s
  | .fcmpS b a c k => Sys2Proof.Machine.execFcmpS b a c k s
  | .fcmpD b a c k => Sys2Proof.Machine.execFcmpD b a c k s
  | .pseti im a c k => Sys2Proof.Machine.execPseti im a c k s
  | .plog o b a k => Sys2Proof.Machine.execPlog o b a k s
  | .pmovK a k => Sys2Proof.Machine.execPmovK a k s
  | .pmovX a d => Sys2Proof.Machine.execPmovX a d s
  | .faddHf b a d => Sys2Proof.Machine.execFaddHf b a d s
  | .fsubHf b a d => Sys2Proof.Machine.execFsubHf b a d s
  | .fmulHf b a d => Sys2Proof.Machine.execFmulHf b a d s
  | .ffmaHf b a d => Sys2Proof.Machine.execFfmaHf b a d s
  | .fdivHf b a d => Sys2Proof.Machine.execFdivHf b a d s
  | .fminHf b a d => Sys2Proof.Machine.execFminHf b a d s
  | .fmaxHf b a d => Sys2Proof.Machine.execFmaxHf b a d s
  | .fsqrtHf a d => Sys2Proof.Machine.execFsqrtHf a d s
  | .fclassHf a d => Sys2Proof.Machine.execFclassHf a d s
  | .faddBf b a d => Sys2Proof.Machine.execFaddBf b a d s
  | .fsubBf b a d => Sys2Proof.Machine.execFsubBf b a d s
  | .fmulBf b a d => Sys2Proof.Machine.execFmulBf b a d s
  | .ffmaBf b a d => Sys2Proof.Machine.execFfmaBf b a d s
  | .fdivBf b a d => Sys2Proof.Machine.execFdivBf b a d s
  | .fminBf b a d => Sys2Proof.Machine.execFminBf b a d s
  | .fmaxBf b a d => Sys2Proof.Machine.execFmaxBf b a d s
  | .fsqrtBf a d => Sys2Proof.Machine.execFsqrtBf a d s
  | .fclassBf a d => Sys2Proof.Machine.execFclassBf a d s
  | .faddS b a d => Sys2Proof.Machine.execFaddS b a d s
  | .fsubS b a d => Sys2Proof.Machine.execFsubS b a d s
  | .fmulS b a d => Sys2Proof.Machine.execFmulS b a d s
  | .ffmaS b a d => Sys2Proof.Machine.execFfmaS b a d s
  | .fdivS b a d => Sys2Proof.Machine.execFdivS b a d s
  | .fminS b a d => Sys2Proof.Machine.execFminS b a d s
  | .fmaxS b a d => Sys2Proof.Machine.execFmaxS b a d s
  | .fsqrtS a d => Sys2Proof.Machine.execFsqrtS a d s
  | .fclassS a d => Sys2Proof.Machine.execFclassS a d s
  | .faddD b a d => Sys2Proof.Machine.execFaddD b a d s
  | .fsubD b a d => Sys2Proof.Machine.execFsubD b a d s
  | .fmulD b a d => Sys2Proof.Machine.execFmulD b a d s
  | .ffmaD b a d => Sys2Proof.Machine.execFfmaD b a d s
  | .fdivD b a d => Sys2Proof.Machine.execFdivD b a d s
  | .fminD b a d => Sys2Proof.Machine.execFminD b a d s
  | .fmaxD b a d => Sys2Proof.Machine.execFmaxD b a d s
  | .fsqrtD a d => Sys2Proof.Machine.execFsqrtD a d s
  | .fclassD a d => Sys2Proof.Machine.execFclassD a d s
  | .vadd sz v m b a d => Sys2Proof.Machine.execVadd sz v m b a d s
  | .vsub sz v m b a d => Sys2Proof.Machine.execVsub sz v m b a d s
  | .vmul sz v m b a d => Sys2Proof.Machine.execVmul sz v m b a d s
  | .vmulh sz v m b a d => Sys2Proof.Machine.execVmulh sz v m b a d s
  | .vand sz v m b a d => Sys2Proof.Machine.execVand sz v m b a d s
  | .vor sz v m b a d => Sys2Proof.Machine.execVor sz v m b a d s
  | .vxor sz v m b a d => Sys2Proof.Machine.execVxor sz v m b a d s
  | .vsll sz v m b a d => Sys2Proof.Machine.execVsll sz v m b a d s
  | .vsrl sz v m b a d => Sys2Proof.Machine.execVsrl sz v m b a d s
  | .vsra sz v m b a d => Sys2Proof.Machine.execVsra sz v m b a d s
  | .vmin sz v m b a d => Sys2Proof.Machine.execVmin sz v m b a d s
  | .vmax sz v m b a d => Sys2Proof.Machine.execVmax sz v m b a d s
  | .vminu sz v m b a d => Sys2Proof.Machine.execVminu sz v m b a d s
  | .vmaxu sz v m b a d => Sys2Proof.Machine.execVmaxu sz v m b a d s
  | .vaddX sz m b a d => Sys2Proof.Machine.execVaddX sz m b a d s
  | .vsllX sz m b a d => Sys2Proof.Machine.execVsllX sz m b a d s
  | .vsrlX sz m b a d => Sys2Proof.Machine.execVsrlX sz m b a d s
  | .vsraX sz m b a d => Sys2Proof.Machine.execVsraX sz m b a d s
  | .vfadd sz v m b a d => Sys2Proof.Machine.execVfadd sz v m b a d s
  | .vfsub sz v m b a d => Sys2Proof.Machine.execVfsub sz v m b a d s
  | .vfmul sz v m b a d => Sys2Proof.Machine.execVfmul sz v m b a d s
  | .vffma sz v m b a d => Sys2Proof.Machine.execVffma sz v m b a d s
  | .vfmin sz v m b a d => Sys2Proof.Machine.execVfmin sz v m b a d s
  | .vfmax sz v m b a d => Sys2Proof.Machine.execVfmax sz v m b a d s
  | .vfdiv sz v m b a d => Sys2Proof.Machine.execVfdiv sz v m b a d s
  | .vfsqrt sz v m a d => Sys2Proof.Machine.execVfsqrt sz v m a d s
  | .vfaddX sz m b a d => Sys2Proof.Machine.execVfaddX sz m b a d s
  | .vfmulX sz m b a d => Sys2Proof.Machine.execVfmulX sz m b a d s
  | .vffmaX sz m b a d => Sys2Proof.Machine.execVffmaX sz m b a d s
  | .vcmp sz c m b a k => Sys2Proof.Machine.execVcmp sz c m b a k s
  | .vfcmp sz c m b a k => Sys2Proof.Machine.execVfcmp sz c m b a k s
  | .vsel sz m b a d => Sys2Proof.Machine.execVsel sz m b a d s
  | .vperm sz m b a d => Sys2Proof.Machine.execVperm sz m b a d s
  | .vcomp sz m a d => Sys2Proof.Machine.execVcomp sz m a d s
  | .vbcast sz m b d => Sys2Proof.Machine.execVbcast sz m b d s
  | .vslide sz m b a d => Sys2Proof.Machine.execVslide sz m b a d s
  | .vext sz b a d => Sys2Proof.Machine.execVext sz b a d s
  | .vcvt r t m v sz a d => Sys2Proof.Machine.execVcvt r t m v sz a d s
  | .vcvtNarrow r t m v sz a d => Sys2Proof.Machine.execVcvtNarrow r t m v sz a d s
  | .vcvtSr t sz m b a d => Sys2Proof.Machine.execVcvtSr t sz m b a d s
  | .vred sz o m a d => Sys2Proof.Machine.execVred sz o m a d s
  | .vscan sz o m a d => Sys2Proof.Machine.execVscan sz o m a d s
  | .vexp2 sz m a d => Sys2Proof.Machine.execVexp2 sz m a d s
  | .vlog2 sz m a d => Sys2Proof.Machine.execVlog2 sz m a d s
  | .vrcp sz m a d => Sys2Proof.Machine.execVrcp sz m a d s
  | .vrsqrt sz m a d => Sys2Proof.Machine.execVrsqrt sz m a d s
  | .vsin sz m a d => Sys2Proof.Machine.execVsin sz m a d s
  | .vcos sz m a d => Sys2Proof.Machine.execVcos sz m a d s
  | .vrng m b a d => Sys2Proof.Machine.execVrng m b a d s
  | .vclaim a d => Sys2Proof.Machine.execVclaim a d s
  | .vrenew a d => Sys2Proof.Machine.execVrenew a d s
  | .vrel => Sys2Proof.Machine.execVrel s
  | .vlen sz d => Sys2Proof.Machine.execVlen sz d s
  | .mma f b a d => Sys2Proof.Machine.execMma f b a d s
  | .mmaNarrow f b a d => Sys2Proof.Machine.execMmaNarrow f b a d s
  | .mmode a => Sys2Proof.Machine.execMmode a s
  | .mscale b a => Sys2Proof.Machine.execMscale b a s
  | .mbar => Sys2Proof.Machine.execMbar s
  | .mld b a d => Sys2Proof.Machine.execMld b a d s
  | .mst b a d => Sys2Proof.Machine.execMst b a d s
  | .mrd b a d => Sys2Proof.Machine.execMrd b a d s
  | .mzero d => Sys2Proof.Machine.execMzero d s
  | .mdrain f a d => Sys2Proof.Machine.execMdrain f a d s
  | .mtrans a d => Sys2Proof.Machine.execMtrans a d s
  | .mcpy a d => Sys2Proof.Machine.execMcpy a d s
  | .interruptTaken gs => Sys2Proof.Machine.execInterruptTaken gs s
  | .timerExpiry gs => Sys2Proof.Machine.execTimerExpiry gs s
  | .chunkEndChunkmax gs => Sys2Proof.Machine.execChunkEndChunkmax gs s
  | .chunkCutCycles gs => Sys2Proof.Machine.execChunkCutCycles gs s
  | .commitRequest gs => Sys2Proof.Machine.execCommitRequest gs s
  | .commitGrant gs => Sys2Proof.Machine.execCommitGrant gs s
  | .grantArrival gs => Sys2Proof.Machine.execGrantArrival gs s
  | .sig => Sys2Proof.Machine.execSig s
  | .directFallback gs => Sys2Proof.Machine.execDirectFallback gs s
  | .engineChunkGrant eid => Sys2Proof.Machine.execEngineChunkGrant eid s
  | .copyComplete cid => Sys2Proof.Machine.execCopyComplete cid s
  | .combiningRelease cl => Sys2Proof.Machine.execCombiningRelease cl s
  | .reads die line => Sys2Proof.Machine.execReads die line s
  | .readm die line => Sys2Proof.Machine.execReadm die line s
  | .fwd owner die line => Sys2Proof.Machine.execFwd owner die line s
  | .data die line => Sys2Proof.Machine.execData die line s
  | .wback die line => Sys2Proof.Machine.execWback die line s
  | .ack die line => Sys2Proof.Machine.execAck die line s
  | .inv die line => Sys2Proof.Machine.execInv die line s
  | .binv die line => Sys2Proof.Machine.execBinv die line s
  | .remoteStoreMessage => Sys2Proof.Machine.execRemoteStoreMessage s
  | .loadDataReturn gs => Sys2Proof.Machine.execLoadDataReturn gs s
  | .storeGloballyPerformed gs => Sys2Proof.Machine.execStoreGloballyPerformed gs s
  | .streamPrefetchArrival gs port => Sys2Proof.Machine.execStreamPrefetchArrival gs port s
  | .messageArrival mid => Sys2Proof.Machine.execMessageArrival mid s
  | .fullReply mid => Sys2Proof.Machine.execFullReply mid s
  | .messageResend gs => Sys2Proof.Machine.execMessageResend gs s
  | .messageRefusal mid => Sys2Proof.Machine.execMessageRefusal mid s
  | .qresHead pa => Sys2Proof.Machine.execQresHead pa s
  | .qrelAck gs => Sys2Proof.Machine.execQrelAck gs s
  | .edgeAtomicAtHome gs => Sys2Proof.Machine.execEdgeAtomicAtHome gs s
  | .edgeAtomicResponse gs => Sys2Proof.Machine.execEdgeAtomicResponse gs s
  | .edgeWriteAck eid => Sys2Proof.Machine.execEdgeWriteAck eid s
  | .edgeWriteRefused eid => Sys2Proof.Machine.execEdgeWriteRefused eid s
  | .monwTimeout gs => Sys2Proof.Machine.execMonwTimeout gs s
  | .wsleepTimeout gs => Sys2Proof.Machine.execWsleepTimeout gs s
  | .matrixCommandAccept cl sq => Sys2Proof.Machine.execMatrixCommandAccept cl sq s
  | .matrixCommandComplete cl sq => Sys2Proof.Machine.execMatrixCommandComplete cl sq s
  | .reductionRoundDeliver vf tree => Sys2Proof.Machine.execReductionRoundDeliver vf tree s
  | .childStart lid gs => Sys2Proof.Machine.execChildStart lid gs s
  | .taskStart lid gs => Sys2Proof.Machine.execTaskStart lid gs s
  | .passedOverEntry gs => Sys2Proof.Machine.execPassedOverEntry gs s
  | .queueNotify vf q => Sys2Proof.Machine.execQueueNotify vf q s
  | .launchStart vf q => Sys2Proof.Machine.execLaunchStart vf q s
  | .coreGroupStart lid => Sys2Proof.Machine.execCoreGroupStart lid s
  | .launchComplete lid => Sys2Proof.Machine.execLaunchComplete lid s
  | .errorDetected kind pa gs => Sys2Proof.Machine.execErrorDetected kind pa gs s
  | .linkFlitError => Sys2Proof.Machine.execLinkFlitError s
  | .heathwayPortFailure port => Sys2Proof.Machine.execHeathwayPortFailure port s
  | .accessCounterThreshold vf host region => Sys2Proof.Machine.execAccessCounterThreshold vf host region s
  | .regionMoveComplete vf => Sys2Proof.Machine.execRegionMoveComplete vf s
  | .cxlMemRead pa => Sys2Proof.Machine.execCxlMemRead pa s
  | .cxlMemWrite pa bytes => Sys2Proof.Machine.execCxlMemWrite pa bytes s
  | .cxlCacheSnoop pa bytes => Sys2Proof.Machine.execCxlCacheSnoop pa bytes s
  | .packageReset => Sys2Proof.Machine.execPackageReset s
  | .hentry v => Sys2Proof.Machine.execHentry v s
  | .functionLevelReset n => Sys2Proof.Machine.execFunctionLevelReset n s
  | .throttleStart die cause frac => Sys2Proof.Machine.execThrottleStart die cause frac s
  | .throttleEnd die => Sys2Proof.Machine.execThrottleEnd die s
  | .thermalReset => Sys2Proof.Machine.execThermalReset s
  | .dbgen part on => Sys2Proof.Machine.execDbgen part on s
  | .bpset gc im bp => Sys2Proof.Machine.execBpset gc im bp s
  | .halt slots => Sys2Proof.Machine.execHalt slots s
  | .step gs => Sys2Proof.Machine.execStep gs s
  | .debugResume slots => Sys2Proof.Machine.execDebugResume slots s
  | .debugRead gs => Sys2Proof.Machine.execDebugRead gs s
  | .debugWrite gs record => Sys2Proof.Machine.execDebugWrite gs record s
  | .samplingPulse => Sys2Proof.Machine.execSamplingPulse s
  | .counterConfig blk im v => Sys2Proof.Machine.execCounterConfig blk im v s
  | .snap blk v => Sys2Proof.Machine.execSnap blk v s
  | .traceConfig blk => Sys2Proof.Machine.execTraceConfig blk s
  | .trptr blk v => Sys2Proof.Machine.execTrptr blk v s
  | .tclaim vf die claim => Sys2Proof.Machine.execTclaim vf die claim s
  | .drainRequest vf q => Sys2Proof.Machine.execDrainRequest vf q s
  | .registerWrite pa v => Sys2Proof.Machine.execRegisterWrite pa v s
  | .vset c => Sys2Proof.Machine.execVset c s
  | .hset c => Sys2Proof.Machine.execHset c s
  | .contain c => Sys2Proof.Machine.execContain c s
  | .drain c => Sys2Proof.Machine.execDrain c s
  | .trace c => Sys2Proof.Machine.execTrace c s
  | .bstop c => Sys2Proof.Machine.execBstop c s
  | .baleFreeze cl => Sys2Proof.Machine.execBaleFreeze cl s
  | .baleStreamOutEnd cl => Sys2Proof.Machine.execBaleStreamOutEnd cl s
  | .brest c => Sys2Proof.Machine.execBrest c s
  | .hover c => Sys2Proof.Machine.execHover c s
  | .slotHandover gs => Sys2Proof.Machine.execSlotHandover gs s
  | .handoverResume gs => Sys2Proof.Machine.execHandoverResume gs s
  | .scrubComplete => Sys2Proof.Machine.execScrubComplete s
  | .precopy vf => Sys2Proof.Machine.execPrecopy vf s
  | .stopping vf => Sys2Proof.Machine.execStopping vf s
  | .abort vf => Sys2Proof.Machine.execAbort vf s
  | .resuming vf => Sys2Proof.Machine.execResuming vf s
  | .migrationStopped vf => Sys2Proof.Machine.execMigrationStopped vf s
  | .mackRelease vf => Sys2Proof.Machine.execMackRelease vf s
  | .mackSubmit vf => Sys2Proof.Machine.execMackSubmit vf s
  | .pullall vf => Sys2Proof.Machine.execPullall vf s
  | .pull vf page => Sys2Proof.Machine.execPull vf page s
  | .pullData vf page bytes pois recs => Sys2Proof.Machine.execPullData vf page bytes pois recs s
  | .started vf => Sys2Proof.Machine.execStarted vf s
  | .done vf => Sys2Proof.Machine.execDone vf s
  | .remap src dst => Sys2Proof.Machine.execRemap src dst s
  | .remapack vf dev => Sys2Proof.Machine.execRemapack vf dev s
  | .fwdend vf dev => Sys2Proof.Machine.execFwdend vf dev s
  | .peerAccessArrival a => Sys2Proof.Machine.execPeerAccessArrival a s
  | .baleStreamInEnd cl => Sys2Proof.Machine.execBaleStreamInEnd cl s
  | .mbPset c => Sys2Proof.Machine.execMbPset c s
  | .mbPlog c => Sys2Proof.Machine.execMbPlog c s

end Sys2Proof.Machine
end

