-- ==== Sys2Proof/Machine/Policy.lean ====
section
/-!
DEFINITION. What a step does: the issue of a slot's unit, the cycle, the part's own steps, and the order in which the package takes
them when nothing outside asks for another (log entry 2), R293.
-/

namespace Sys2Proof.Machine

/-! Issue (R81, R92, R220, R293, R312, R319, R399). -/

/-- Issue the next unit of a slot: what is due before it first, then a breakpoint on it, then the unit. -/
def issueSlot (s : State) (gs : Nat) : Outcome :=
  let s0 := { s with fs := gs, unit := UnitCtx.idle }
  if !s0.mayIssue gs then .next s
  else
    match s0.dueNow gs with
    | .take s1 => .next (s1.takeDue gs)
    | .wait s1 => .next s1
    | .none =>
      match s0.breakHit gs with
      | some i => .next (s0.takeBreak i)
      | none =>
        match s0.fetchNext with
        | .stop s1 e => .next (s1.refuseUnit e)
        | .lone s1 i => exec i s1
        | .pair s1 c a => .next (s1.runUnit [c, a] (pairBody exec c a))

/-- The state after a slot has issued in its core's turn, if anything came of it: a slot that is held is not ready. -/
def State.tryIssue (s : State) (gs : Nat) : Option State :=
  match issueSlot s gs with
  | .next s1 =>
    if decide ((s1.thread gs).a.pc = (s.thread gs).a.pc) && decide ({ s1 with fs := s.fs, unit := s.unit } = s) then none else some s1
  | _ => none

/-- The slots that a core's wheel asks in this cycle, in its order (R293): slot w, then the slots after it that share its owner. -/
def State.wheelOrder (s : State) (gc : Nat) : List Nat :=
  let w := s.cycle % 64
  let p := s.partOf (64 * gc + w)
  ((List.range 64).map (fun i => 64 * gc + (w + i) % 64)).filter (fun gs => (s.thread gs).live && s.partOf gs == p)

/-- A core has had its turn in this cycle. -/
def State.spendTurn (s : State) (gc : Nat) : State := { s with turn := s.turn.erase gc }

/-- The wheel of a core turns (R293): the first slot in its order that is ready issues. -/
def State.wheelTurn (s : State) (gc : Nat) : State :=
  ((s.wheelOrder gc).findSome? (s.spendTurn gc).tryIssue).getD (s.spendTurn gc)

/-- The wheel lets a slot issue: its core has not had its turn in this cycle, and no slot that the wheel asks before it is ready (R293). -/
def State.wheelGives (s : State) (gs : Nat) : Bool :=
  s.turn.contains (coreOf gs) && (s.wheelOrder (coreOf gs)).contains gs &&
    ((s.wheelOrder (coreOf gs)).takeWhile (fun x => x != gs)).all (fun x => ((s.spendTurn (coreOf gs)).tryIssue x).isNone)

/-- The agenda names a slot to issue: it issues where the wheel gives it the turn; where it does not, or the slot is not ready, nothing comes
of it and the core's turn is still to come. -/
def State.issueTurn (s : State) (gs : Nat) : Outcome :=
  if s.wheelGives gs then .next (((s.spendTurn (coreOf gs)).tryIssue gs).getD s) else .next s

/-! The part's own steps. -/

/-- What the agenda names: an event, a slot's issue, an answer of the part to a write of memory. A word of the instruction set is no event: a
slot runs it, when the wheel lets that slot issue (R293). -/
def State.act (s : State) (a : Act) : Outcome :=
  match a with
  | .event i => if i.encodable then .next s else exec i s
  | .issue gs => s.issueTurn gs
  | .tick => .next s
  | .command c =>
    match mbOp c with
    | 0x01 => execMbPset c s
    | 0x02 => execVset c s
    | 0x03 => execHset c s
    | 0x04 => execMbPlog c s
    | 0x05 => execContain c s
    | 0x06 => execDrain c s
    | 0x07 => execTrace c s
    | 0x10 => execBstop c s
    | 0x11 => execBrest c s
    | 0x12 => execHover c s
    | _ => .next (s.mbUnknown c)
  | .notify vf q => execQueueNotify vf q s
  | .tclaim vf die claim => execTclaim vf die claim s
  | .drain vf q => execDrainRequest vf q s
  | .config blk i v => execCounterConfig blk i v s
  | .snap blk v => execSnap blk v s
  | .precopy vf => execPrecopy vf s
  | .stopping vf => execStopping vf s
  | .abort vf => execAbort vf s
  | .resuming vf => execResuming vf s
  | .pullall vf => execPullall vf s
  | .mackSubmit vf => execMackSubmit vf s
  | .mackRelease vf => execMackRelease vf s
  | .threshold vf host region => execAccessCounterThreshold vf host region s
  | .matRound pc => .next (if s.roundDue pc then s.matRound pc else s)
  | .evict die line => .next (s.evict die line)
  | .handOff state fail => .next (s.handOff state fail)
  | .hostResponse => .next s.hostResponds
  | .peerAccess a => execPeerAccessArrival a s

/-- One of the part's own events. -/
abbrev OwnEvent := State → Outcome

/-- Events of a slot that need nothing from outside. -/
def slotEvents (gs : Nat) : List OwnEvent :=
  [execGrantArrival gs, execLoadDataReturn gs, execStoreGloballyPerformed gs, execChunkEndChunkmax gs, execChunkCutCycles gs,
   execDirectFallback gs, execCommitRequest gs, execCommitGrant gs, execEdgeAtomicAtHome gs, execEdgeAtomicResponse gs, execQrelAck gs,
   execMonwTimeout gs, execWsleepTimeout gs, execInterruptTaken gs, execMessageResend gs, execHandoverResume gs]

/-- Events of a launch. -/
def Launch.events (lid : Nat) (l : Launch) : List OwnEvent :=
  [execCoreGroupStart lid] ++ l.slots.map (fun (x : Nat × Nat) => execChildStart lid x.1) ++
    l.slots.map (fun (x : Nat × Nat) => execTaskStart lid x.1) ++ [execLaunchComplete lid]

/-- The arrival of a coherence message. -/
def CohMsg.event (m : CohMsg) : OwnEvent :=
  match m.kind with
  | .reads => execReads m.die m.line
  | .readm => execReadm m.die m.line
  | .binv => execBinv m.die m.line
  | .getm => .next
  | .fwd o => execFwd o m.die m.line
  | .data _ => execData m.die m.line
  | .wback => execWback m.die m.line
  | .ack => execAck m.die m.line
  | .inv => execInv m.die m.line

/-- What the package can do by itself, in the order in which it does it here; each takes place only where its rule lets it. -/
def State.ownEvents (s : State) : List OwnEvent :=
  [execSig, execRemoteStoreMessage, fun s => .next s.hostResponds] ++
  s.coh.map CohMsg.event ++
  s.threads.flatMap (fun x => if x.1 < slotCount then slotEvents x.1 else []) ++
  s.homes.map (fun x => execQresHead x.1) ++
  s.copies.flatMap (fun c => [execCombiningRelease (clusterOf c.gs), execEngineChunkGrant c.id, execCopyComplete c.id]) ++
  s.matq.flatMap (fun x => [execMatrixCommandAccept (x.1 / 256) x.1] ++
    (match x.2.head? with | some c => [execEngineChunkGrant c.id] | none => []) ++
    [fun s => .next (if s.roundDue (x.1 / 256) then s.matRound (x.1 / 256) else s), execMatrixCommandComplete (x.1 / 256) x.1]) ++
  s.msgs.flatMap (fun m => [execMessageArrival m.id, execFullReply m.id, execMessageRefusal m.id]) ++
  s.edges.map (fun e => execEdgeWriteAck e.id) ++
  s.nodes.map (fun n => execReductionRoundDeliver n.vf n.tree) ++
  s.launches.flatMap (fun x => x.2.events x.1) ++
  s.qmap.map (fun m => execLaunchStart m.vf m.q) ++
  s.moves.map (fun m => execRegionMoveComplete m.vf) ++
  [execScrubComplete] ++
  s.stops.flatMap (fun x => [execBaleFreeze x.2.pc, execBaleStreamOutEnd x.2.pc] ++
    (match x.2.phase with | .into pc => [execBaleStreamInEnd pc] | _ => [])) ++
  (match s.hover with | some h => h.slots.map execSlotHandover | none => []) ++
  s.vfs.map (fun x => execMigrationStopped x.1) ++
  [execSamplingPulse]

/-- The state after the first of some events that changes it. -/
def State.firstEvent (s : State) : List OwnEvent → Option State
  | [] => none
  | e :: rest =>
    match e s with
    | .next s1 => if s1 = s then s.firstEvent rest else some s1
    | _ => s.firstEvent rest

/-! The cycle. -/

/-- The sampling pulse of this cycle, where it is due and has not been raised (R395). -/
def State.pulse (s : State) : State :=
  match execSamplingPulse s with
  | .next s1 => s1
  | _ => s

/-- A cycle passes: what goes with it (R293, R354, R377, R389, R393, R395, R397, R399, R401, R404,
R407). -/
def State.passCycle (s : State) : State :=
  let s1 := s.writeTraces.pulse.tick.flushMerged.settleHalts.settleFreezes.settleRemaps.settleResets.sendNotices
  let s2 := (s1.migs.map (·.1)).foldl (fun (s : State) vf => s.retryHeld vf) s1
  let s3 := (s2.startedSlots.foldl (fun (s : State) gs => s.count gs 0x01 1) s2).countFrees.drawIdle
  { s3 with issued := [], turn := s3.turn.filter (fun gc => !s3.idling.contains (gc / 768)) }

/-- The step when the agenda is empty: the next core's wheel turns; then the package's own events; then the cycle, with one wait of a
deterministic launch that is passed over. -/
def State.nextStep (s : State) : State :=
  match s.turn with
  | gc :: _ => s.wheelTurn gc
  | [] =>
    match s.firstEvent s.ownEvents with
    | some s1 => s1
    | none =>
      ((s.firstEvent (s.threads.map (fun x => execPassedOverEntry x.1))).getD s).passCycle

/-! The first instruction (log entry 13). -/

/-- The unit that an instruction word given alone makes, as its L bit asks: the second word of a unit of two lone words or of
a pair is a hint (R81, R91). -/
def unitBytes (nbits w : Nat) : List Byte :=
  let v := w % 2 ^ min nbits 32
  if v % 2 = 1 then leBytes 4 v ++ leBytes 4 0xFF
  else if v / 2 % 2 = 0 then leBytes 4 v ++ leBytes 4 0xFE
  else leBytes 4 0xFC ++ leBytes 4 v

/-- The thread that is to run a word given alone: the hypervisor's first (R410). -/
def wordThread (uid : Nat) : Thread := { hyperThread 0 with uid := uid }

end Sys2Proof.Machine
end

