-- ==== Sys2Proof/Machine/Step.lean ====
section
/-!
DEFINITION. One step of the package: the act the agenda names, or the next of the default order (log entry 2).
-/

namespace Sys2Proof.Machine

/-- One step. A cycle does not pass before every core with threads has had its turn in it, so that no slot is kept waiting for more than
64 cycles (R294). -/
def step (s : State) : Host.Outcome State Fault Refusal :=
  match s.agenda with
  | .tick :: rest =>
    match s.turn with
    | gc :: _ => .next (s.wheelTurn gc)
    | [] => .next { s with agenda := rest }.passCycle
  | a :: rest => ({ s with agenda := rest } : State).act a
  | [] => .next s.nextStep

namespace State

/-- The state with an instruction word at physical address 0, where the hypervisor's first thread (R410) stands, about to issue
it: untranslated, in direct mode, with a window of 64 registers, in its core's turn and at the wheel position of its slot (log
entry 13). -/
def withFetchWord (s : State) (nbits w : Nat) : State :=
  let s1 := { s with
    hctx := 0, remotes := [], icache := mdel s.icache (icKey (coreOf fetchSlot) 0), fresh := s.fresh + 1
    cycle := s.cycle / 64 * 64, turn := coreOf fetchSlot :: s.turn.erase (coreOf fetchSlot), agenda := [.issue fetchSlot] }
  ((s1.setBytes 0 (unitBytes nbits w)).setPoison 0 false).setThread fetchSlot (wordThread s.fresh)

end State

end Sys2Proof.Machine
end

