-- ==== Sys2Proof/Safety.lean ====
section
/-!
DEFINITION. What a safe run is, in the terms the statements use: a step that goes on, memory in its canonical form, a slot whose unit
can issue here and now, and what a completed unit leaves.
-/

namespace Sys2Proof.Machine

/-- The step answers a next state: no fault, no refusal. -/
def StepsOn (s : State) : Prop := ∃ t, step s = .next t

/-- Memory and peer memory stand in their canonical form: rising addresses, and no byte listed that reads as zero anyway. -/
def State.Canonical (s : State) : Prop := mwf 0 s.mem = true ∧ mwf 0 s.peer = true

/-- A run of the machine from a state to a state. -/
inductive Reaches : State → State → Prop where
  | here (s : State) : Reaches s s
  | on {s t u : State} (h : Reaches s t) (e : step t = .next u) : Reaches s u

/-! Units that can issue. -/

/-- The unit at hand is a lone word of a live slot, as its fetch leaves it. -/
structure State.LoneUnit (s : State) : Prop where
  role : s.unit.role = .lone
  pre : s.unit.pre = none
  outside : s.unit.outside = false
  target : s.unit.target = none
  park : s.unit.park = none
  entered : s.unit.entered = false
  live : s.th.live = true

/-- The key of a deterministic or ordered launch lets the slot take the next place (R256, R298, R304). -/
def State.InTurn (s : State) : Prop := s.th.det = true ∨ s.th.ord = true → s.keyTurn s.fs = true

/-- The slot runs in direct mode with nothing of a chunk and no load outstanding (R119). -/
structure State.InDirect (s : State) : Prop extends s.LoneUnit where
  dir : s.th.dir = true
  chunks : s.th.chunks = []
  loads : s.th.loads = []
  turn : s.InTurn

/-- The slot runs inside a chunk with room for another instruction (R238). -/
structure State.InChunk (s : State) (c : Chunk) : Prop extends s.LoneUnit where
  dir : s.th.dir = false
  stepping : s.th.stepping = false
  fallback : s.th.fallback = none
  cur : s.th.cur = some c
  room : c.len < c.max
  uncut : s.cutDue c = false
  det : s.th.det = false

/-- A word that is performed in direct mode or inside a chunk can issue here and now. -/
def State.Ready (s : State) : Prop := s.InDirect ∨ ∃ c, s.InChunk c

/-- A word that stands outside every chunk can issue here and now: every earlier chunk is granted, and every earlier operation has
been performed (R120, R208). -/
structure State.AtBoundary (s : State) : Prop extends s.LoneUnit where
  chunks : s.th.chunks = []
  loads : s.th.loads = []
  stores : s.th.stores = []
  pushes : s.th.pushes = []
  fallback : s.th.fallback = none
  turn : s.InTurn

/-- The state in which a word outside every chunk acts. -/
def State.stepOut (s : State) : State := { s with unit := { s.unit with outside := true } }

/-- Nothing is due before the lone word `i`, it passes its checks and begins in state `s1` (Tables 3.11 and 10.1, R241). -/
structure State.Opens (s : State) (i : Instr) (s1 : State) : Prop where
  role : s.unit.role = .lone
  undue : s.dueAtEnd (s.endsBefore (s.standsOutside [i]) (isCsrw i) 1) = false
  begins : (s.endsBefore (s.standsOutside [i]) (isCsrw i) 1).beginUnit (s.standsOutside [i]) = .ok s1
  checks : s1.unitChecks [i] = none
  due : s1.readsDue [i] = false

/-- What a completed lone word leaves beside its own effect: the program counter, ICOUNT and the chunk's count move, the observers see
it (R35, R106, R238, R393, R395, R396). -/
def State.done (s : State) (i : Instr) : State := (s.finishUnit 1 (endsAfter i)).observe [i]

/-- Field `f` names an x register of the executing slot's window (R12, R14). -/
def State.inWindow (s : State) (f : BitVec 7) : Prop := f.toNat < s.th.winLim ∧ f.toNat < 112

end Sys2Proof.Machine
end

