-- ==== Sys2Proof/Certificates/Slice0/Obligations.lean ====
section
/-!
DEFINITION. The statements for the provers, and the tables of the spec they compare the model with. A statement of the form
"`exec` answers `.next (t.done i)`" says that the unit completes and that `t` is all that its own effect leaves; what `done` adds is
said once, by `CompletedUnitMovesOn`. Each holds for every state in which the word opens
(`State.Opens`), lone, in a chunk, in direct mode or outside every chunk; when a word opens is said by `WhenAWordOpens`.
-/

/-! Results as the tables of the spec give them. -/

namespace Sys2Proof.Spec

/-- Tables 4.1, 4.2 and 4.4 (R95, R96, R101). -/
def alu (o : Machine.AluOp) (a b : Word) : Word :=
  let n := b.toNat % 64
  match o with
  | .add => BitVec.ofNat 64 (a.toNat + b.toNat)
  | .sub => a + (-b)
  | .and => a &&& b
  | .or => a ||| b
  | .xor => a ^^^ b
  | .andn => a &&& ~~~b
  | .sll => BitVec.ofNat 64 (a.toNat * 2 ^ n)
  | .srl => BitVec.ofNat 64 (a.toNat / 2 ^ n)
  | .sra => BitVec.ofInt 64 (a.toInt / 2 ^ n)
  | .rol => (a <<< n) ||| (a >>> (64 - n))
  | .min => if a.toInt ≤ b.toInt then a else b
  | .max => if a.toInt ≤ b.toInt then b else a
  | .minu => if a.toNat ≤ b.toNat then a else b
  | .maxu => if a.toNat ≤ b.toNat then b else a
  | .mulh => BitVec.ofInt 64 (a.toInt * b.toInt / 2 ^ 64)
  | .mulhu => BitVec.ofNat 64 (a.toNat * b.toNat / 2 ^ 64)
  | .mul => BitVec.ofNat 64 (a.toNat * b.toNat)
  | .div => if b = 0 then -1 else BitVec.ofInt 64 (a.toInt.tdiv b.toInt)
  | .divu => if b = 0 then -1 else BitVec.ofNat 64 (a.toNat / b.toNat)
  | .rem => if b = 0 then a else a - b * BitVec.ofInt 64 (a.toInt.tdiv b.toInt)
  | .remu => if b = 0 then a else BitVec.ofNat 64 (a.toNat % b.toNat)
  | .leaS1 => a + b * 2
  | .leaS2 => a + b * 4
  | .leaS3 => a + b * 8
  | .bext =>
    let w := b.toNat / 256 % 64 + 1
    let f := a.toNat / 2 ^ n % 2 ^ w
    if b.getLsbD 14 ∧ 2 ^ (w - 1) ≤ f then BitVec.ofInt 64 (f - 2 ^ w) else BitVec.ofNat 64 f

end Sys2Proof.Spec

section

open Sys2Proof Sys2Proof.Machine

/-- Result `v` goes to A-class field `d` of the word `i` that has opened at `s`: whatever the write of the field leaves (R14, R19, R137)
is what the unit leaves. -/
def Sys2Proof.Spec.Writes (i : Instr) (s : State) (s1 : State) (d : BitVec 7) (v : Word) : Prop :=
  ∀ t, dstA d v s1 = .ok ((), t) → exec i s = .next (t.done i)

/-- R95, R96, R101 with Tables 4.1, 4.2 and 4.4: the 25 three-register operations read A, then B, and write the table's result to D, in
every operand form (registers, x0, stream ports, p15, engine ports), whatever the values. -/
def Obligations.AluWritesTableResult : Prop :=
  ∀ (o : AluOp) (b a d : BitVec 7) (s s1 s2 s3 : State) (x y : Word),
    s.Opens (o.instr b a d) s1 → srcA a s1 = .ok (x, s2) → srcA b s2 = .ok (y, s3) →
    Spec.Writes (o.instr b a d) s s3 d (Spec.alu o x y)

/-- What R97 to R100 say of the operations with one register source. -/
def Sys2Proof.Spec.unary (o : UnOp) (a r : Word) : Prop :=
  match o with
  | .addi i => r = BitVec.ofInt 64 (a.toInt + i.toInt)
  | .andi i => r = a &&& BitVec.ofInt 64 i.toInt
  | .ori i => r = a ||| BitVec.ofInt 64 i.toInt
  | .xori i => r = a ^^^ BitVec.ofInt 64 i.toInt
  | .slli n => r = BitVec.ofNat 64 (a.toNat * 2 ^ n.toNat)
  | .srli n => r = BitVec.ofNat 64 (a.toNat / 2 ^ n.toNat)
  | .srai n => r = BitVec.ofInt 64 (a.toInt / 2 ^ n.toNat)
  | .clz => r.toNat ≤ 64 ∧ (∀ i < r.toNat, a.getLsbD (63 - i) = false) ∧ (r.toNat < 64 → a.getLsbD (63 - r.toNat) = true)
  | .ctz => r.toNat ≤ 64 ∧ (∀ i < r.toNat, a.getLsbD i = false) ∧ (r.toNat < 64 → a.getLsbD r.toNat = true)
  | .pop => r.toNat = (List.range 64).countP (fun i => a.getLsbD i)
  | .brev => ∀ i < 64, r.getLsbD i = a.getLsbD (63 - i)

/-- R97, R98, R100: the immediate forms and the unary bit operations write the result those rules give, in every operand form. -/
def Sys2Proof.Spec.ImmediateAndUnaryWriteResult : Prop :=
  ∀ (o : UnOp) (a d : BitVec 7) (s s1 s2 : State) (x : Word),
    s.Opens (o.instr a d) s1 → srcA a s1 = .ok (x, s2) →
    ∃ r, Spec.unary o x r ∧ Spec.Writes (o.instr a d) s s2 d r

/-- R99, R101: `lih` writes the sign-extended constant, or shifts D left by 16 and ors the constant in; `bins` replaces bits P to
P + W − 1 of D by the low bits of a. -/
def Sys2Proof.Spec.ConstantsAndBitInsert : Prop :=
  (∀ (v : BitVec 16) (d : BitVec 7) (s s1 : State), s.Opens (.lih v d) s1 →
    Spec.Writes (.lih v d) s s1 d (BitVec.ofInt 64 v.toInt)) ∧
  (∀ (v : BitVec 16) (d : BitVec 7) (s s1 s2 : State) (x : Word), s.Opens (.lihM v d) s1 → srcA d s1 = .ok (x, s2) →
    Spec.Writes (.lihM v d) s s2 d (BitVec.ofNat 64 (x.toNat % 2 ^ 48 * 2 ^ 16 + v.toNat))) ∧
  (∀ (b a d : BitVec 7) (s s1 s2 s3 s4 : State) (x y z : Word), s.Opens (.bins b a d) s1 →
    srcA a s1 = .ok (x, s2) → srcA b s2 = .ok (y, s3) → srcA d s3 = .ok (z, s4) →
    ∃ r : Word, (∀ k < 64, r.getLsbD k =
        let p := y.toNat % 64
        let w := y.toNat / 256 % 64 + 1
        if p ≤ k ∧ k < p + w then x.getLsbD (k - p) else z.getLsbD k) ∧
      Spec.Writes (.bins b a d) s s4 d r)

/-- Immediates and constants write their result: the register form of the immediates, and the constants and bit fields. -/
def Obligations.ImmediatesAndConstantsWriteTheirResult : Prop :=
  Spec.ImmediateAndUnaryWriteResult ∧ Spec.ConstantsAndBitInsert

/-- The integer conditions of Table 3.7 on 64-bit values. -/
def Sys2Proof.Spec.cond (c : Nat) (a b : Word) : Prop :=
  match c with
  | 0 => a = b
  | 1 => a ≠ b
  | 2 => a.toInt < b.toInt
  | 3 => b.toInt ≤ a.toInt
  | 4 => a.toNat < b.toNat
  | _ => b.toNat ≤ a.toNat

/-- The predicate that `pset` and its like write: every bit the result (R23). -/
def Sys2Proof.Spec.allBits (b : Bool) : BitVec 2048 := if b then BitVec.allOnes 2048 else 0

/-- R102 to R105, R23: `pset` and `pseti` write their condition to every bit of the predicate; `plog` combines two predicates bit by bit;
`pmov` moves 64 bits either way; `sel` reads both sources and writes the one that bit 0 of its predicate chooses. -/
def Obligations.PredicateInstructions : Prop :=
  (∀ (b a : BitVec 7) (c : BitVec 4) (k : BitVec 3) (s s1 s2 s3 : State) (x y : Word) (r : Bool), s.Opens (.pset b a c k) s1 →
    srcA a s1 = .ok (x, s2) → srcA b s2 = .ok (y, s3) → (r = true ↔ Spec.cond c.toNat x y) →
    exec (.pset b a c k) s = .next ((s3.setArch (s3.arch.setK k.toNat (Spec.allBits r))).done (.pset b a c k))) ∧
  (∀ (i : BitVec 10) (a : BitVec 7) (c : BitVec 4) (k : BitVec 3) (s s1 s2 : State) (x : Word) (r : Bool),
    s.Opens (.pseti i a c k) s1 → srcA a s1 = .ok (x, s2) → (r = true ↔ Spec.cond c.toNat x (BitVec.ofInt 64 i.toInt)) →
    exec (.pseti i a c k) s = .next ((s2.setArch (s2.arch.setK k.toNat (Spec.allBits r))).done (.pseti i a c k))) ∧
  (∀ (o : BitVec 2) (b a k : BitVec 3) (s s1 : State), s.Opens (.plog o b a k) s1 → s1.unit.pre = none →
    ∃ r : BitVec 2048, (∀ j < 2048, r.getLsbD j =
        let x := (s1.arch.kreg a.toNat).getLsbD j
        let y := (s1.arch.kreg b.toNat).getLsbD j
        match o.toNat with
        | 0 => x && y
        | 1 => x || y
        | 2 => x != y
        | _ => x && !y) ∧
      exec (.plog o b a k) s = .next ((s1.setArch (s1.arch.setK k.toNat r)).done (.plog o b a k))) ∧
  (∀ (a : BitVec 7) (k : BitVec 3) (s s1 s2 : State) (x : Word), s.Opens (.pmovK a k) s1 → srcA a s1 = .ok (x, s2) →
    exec (.pmovK a k) s = .next ((s2.setArch (s2.arch.setK k.toNat (BitVec.ofNat 2048 x.toNat))).done (.pmovK a k))) ∧
  (∀ (a : BitVec 3) (d : BitVec 7) (s s1 : State), s.Opens (.pmovX a d) s1 → s1.unit.pre = none →
    Spec.Writes (.pmovX a d) s s1 d (BitVec.ofNat 64 (s1.arch.kreg a.toNat).toNat)) ∧
  (∀ (k : BitVec 3) (b a d : BitVec 7) (s s1 s2 s3 : State) (x y : Word), s.Opens (.sel k b a d) s1 →
    srcA a s1 = .ok (x, s2) → srcA b s2 = .ok (y, s3) → s3.unit.pre = none →
    Spec.Writes (.sel k b a d) s s3 d (if (s3.arch.kreg k.toNat).getLsbD 0 then x else y))

/-! Scalar floating point. -/

/-- The scalar formats (Table 3.6). -/
inductive Sys2Proof.Spec.Fp4 where
  | hf
  | bf
  | s
  | d
deriving DecidableEq, Repr

def Sys2Proof.Spec.Fp4.fmt : Spec.Fp4 → Fmt
  | .hf => fmtHf
  | .bf => fmtBf
  | .s => fmtS
  | .d => fmtD

/-- The two-source words of R175, by operation and format. -/
def Sys2Proof.Spec.fpWord (o : FpOp) (f : Spec.Fp4) (b a d : BitVec 7) : Instr :=
  match o, f with
  | .fadd, .hf => .faddHf b a d
  | .fsub, .hf => .fsubHf b a d
  | .fmul, .hf => .fmulHf b a d
  | .fdiv, .hf => .fdivHf b a d
  | .fmin, .hf => .fminHf b a d
  | .fmax, .hf => .fmaxHf b a d
  | .fadd, .bf => .faddBf b a d
  | .fsub, .bf => .fsubBf b a d
  | .fmul, .bf => .fmulBf b a d
  | .fdiv, .bf => .fdivBf b a d
  | .fmin, .bf => .fminBf b a d
  | .fmax, .bf => .fmaxBf b a d
  | .fadd, .s => .faddS b a d
  | .fsub, .s => .fsubS b a d
  | .fmul, .s => .fmulS b a d
  | .fdiv, .s => .fdivS b a d
  | .fmin, .s => .fminS b a d
  | .fmax, .s => .fmaxS b a d
  | .fadd, .d => .faddD b a d
  | .fsub, .d => .fsubD b a d
  | .fmul, .d => .fmulD b a d
  | .fdiv, .d => .fdivD b a d
  | .fmin, .d => .fminD b a d
  | .fmax, .d => .fmaxD b a d

def Sys2Proof.Spec.fmaWord (f : Spec.Fp4) (b a d : BitVec 7) : Instr :=
  match f with
  | .hf => .ffmaHf b a d
  | .bf => .ffmaBf b a d
  | .s => .ffmaS b a d
  | .d => .ffmaD b a d

def Sys2Proof.Spec.sqrtWord (f : Spec.Fp4) (a d : BitVec 7) : Instr :=
  match f with
  | .hf => .fsqrtHf a d
  | .bf => .fsqrtBf a d
  | .s => .fsqrtS a d
  | .d => .fsqrtD a d

def Sys2Proof.Spec.classWord (f : Spec.Fp4) (a d : BitVec 7) : Instr :=
  match f with
  | .hf => .fclassHf a d
  | .bf => .fclassBf a d
  | .s => .fclassS a d
  | .d => .fclassD a d

def Sys2Proof.Spec.fcmpWord (f : Spec.Fp4) (b a : BitVec 7) (c : BitVec 4) (k : BitVec 3) : Instr :=
  match f with
  | .hf => .fcmpHf b a c k
  | .bf => .fcmpBf b a c k
  | .s => .fcmpS b a c k
  | .d => .fcmpD b a c k

/-- The operand of a format: the low bits of the register, the others ignored (R174). -/
def Sys2Proof.Spec.low (f : Spec.Fp4) (x : Word) : Nat := x.toNat % 2 ^ f.fmt.width

/-- The rounding mode in FCTL (Table 2.4). -/
def Sys2Proof.Spec.rm (s : State) : RMode := RMode.ofCode 7 (s.arch.fctl.toNat % 8) 0

/-- Flags `fl` among those FCTL enables (R69): FCTL bits 12:8. -/
def Sys2Proof.Spec.trapping (s : State) (fl : FFlags) : FFlags := fl &&& s.arch.fctl.extractLsb' 8 5

/-- The state with flags `fl` sticky in FFLAGS (R68). -/
def Sys2Proof.Spec.withFlags (s : State) (fl : FFlags) : State :=
  s.setArch { s.arch with fflags := s.arch.fflags ||| fl.zeroExtend 64 }

/-- R174, R175, R68, R69: the 32 two-source, fused and square-root words of the four formats read the low bits of their sources in the
order A, B, D, raise their flags in FFLAGS and write the result zero-extended, when no raised flag is enabled. -/
def Sys2Proof.Spec.ScalarFloatArithmetic : Prop :=
  (∀ (o : FpOp) (f : Spec.Fp4) (b a d : BitVec 7) (s s1 s2 s3 : State) (x y : Word),
    s.Opens (Spec.fpWord o f b a d) s1 → srcA a s1 = .ok (x, s2) → srcA b s2 = .ok (y, s3) →
    let r := o.eval f.fmt (Spec.rm s3) (Spec.low f x) (Spec.low f y)
    Spec.trapping s3 r.2 = 0 → Spec.Writes (Spec.fpWord o f b a d) s (Spec.withFlags s3 r.2) d (BitVec.ofNat 64 r.1)) ∧
  (∀ (f : Spec.Fp4) (b a d : BitVec 7) (s s1 s2 s3 s4 : State) (x y z : Word),
    s.Opens (Spec.fmaWord f b a d) s1 → srcA a s1 = .ok (x, s2) → srcA b s2 = .ok (y, s3) → srcA d s3 = .ok (z, s4) →
    let r := fFma f.fmt (Spec.rm s4) (Spec.low f x) (Spec.low f y) (Spec.low f z)
    Spec.trapping s4 r.2 = 0 → Spec.Writes (Spec.fmaWord f b a d) s (Spec.withFlags s4 r.2) d (BitVec.ofNat 64 r.1)) ∧
  (∀ (f : Spec.Fp4) (a d : BitVec 7) (s s1 s2 : State) (x : Word),
    s.Opens (Spec.sqrtWord f a d) s1 → srcA a s1 = .ok (x, s2) →
    let r := fSqrt f.fmt (Spec.rm s2) (Spec.low f x)
    Spec.trapping s2 r.2 = 0 → Spec.Writes (Spec.sqrtWord f a d) s (Spec.withFlags s2 r.2) d (BitVec.ofNat 64 r.1))

/-- R176 to R178: `fcmp` writes its condition to every bit of a predicate and raises its flags; `fclass` writes the class and raises
nothing; `fcvt` converts between the scalar formats, integers sign-extended and the others zero-extended, with the rounding its word
names (bits 15:0 of D being the random bits of `.sr`). -/
def Obligations.ScalarFloatCompareClassConvert : Prop :=
  (∀ (f : Spec.Fp4) (b a : BitVec 7) (c : BitVec 4) (k : BitVec 3) (s s1 s2 s3 : State) (x y : Word),
    s.Opens (Spec.fcmpWord f b a c k) s1 → srcA a s1 = .ok (x, s2) → srcA b s2 = .ok (y, s3) →
    let r := fCond f.fmt c.toNat (Spec.low f x) (Spec.low f y)
    let t := Spec.withFlags s3 r.2
    Spec.trapping s3 r.2 = 0 →
    exec (Spec.fcmpWord f b a c k) s = .next ((t.setArch (t.arch.setK k.toNat (Spec.allBits r.1))).done (Spec.fcmpWord f b a c k))) ∧
  (∀ (f : Spec.Fp4) (a d : BitVec 7) (s s1 s2 : State) (x : Word),
    s.Opens (Spec.classWord f a d) s1 → srcA a s1 = .ok (x, s2) →
    Spec.Writes (Spec.classWord f a d) s s2 d (BitVec.ofNat 64 (fClass f.fmt (Spec.low f x)))) ∧
  (∀ (r t sc : BitVec 3) (a d : BitVec 7) (s s1 s2 s3 : State) (x u : Word),
    s.Opens (.fcvt r t sc a d) s1 → srcA a s1 = .ok (x, s2) →
    (if r.toNat = 5 then srcA d s2 = .ok (u, s3) else s3 = s2 ∧ u = 0) →
    let src := CFmt.ofScalar sc.toNat
    let dst := CFmt.ofScalar t.toNat
    let o := convert dst src (RMode.ofCode r.toNat (s3.arch.fctl.toNat % 8) (u.toNat % 65536)) (s3.arch.fctl.getLsbD 5)
      (x.toNat % 2 ^ src.width)
    Spec.trapping s3 o.2 = 0 →
    Spec.Writes (.fcvt r t sc a d) s (Spec.withFlags s3 o.2) d
      (match dst with | .int w => BitVec.ofInt 64 (signedOf w o.1) | .flt _ => BitVec.ofNat 64 o.1))

/-- R69: a scalar floating-point word of R175, R176 or R178 that raises an enabled flag traps with ARITH, its raised flags in the fault
record, and has no other effect: neither D nor FFLAGS changes and no popped element is lost. -/
def Sys2Proof.Spec.EnabledFlagTrapsArith : Prop :=
  (∀ (o : FpOp) (f : Spec.Fp4) (b a d : BitVec 7) (s s1 s2 s3 : State) (x y : Word),
    s.Opens (Spec.fpWord o f b a d) s1 → srcA a s1 = .ok (x, s2) → srcA b s2 = .ok (y, s3) →
    let r := o.eval f.fmt (Spec.rm s3) (Spec.low f x) (Spec.low f y)
    Spec.trapping s3 r.2 ≠ 0 → exec (Spec.fpWord o f b a d) s = .next (s1.raiseUnit { cause := .arith, afl := r.2 })) ∧
  (∀ (f : Spec.Fp4) (a d : BitVec 7) (s s1 s2 : State) (x : Word),
    s.Opens (Spec.sqrtWord f a d) s1 → srcA a s1 = .ok (x, s2) →
    let r := fSqrt f.fmt (Spec.rm s2) (Spec.low f x)
    Spec.trapping s2 r.2 ≠ 0 → exec (Spec.sqrtWord f a d) s = .next (s1.raiseUnit { cause := .arith, afl := r.2 })) ∧
  (∀ (f : Spec.Fp4) (b a : BitVec 7) (c : BitVec 4) (k : BitVec 3) (s s1 s2 s3 : State) (x y : Word),
    s.Opens (Spec.fcmpWord f b a c k) s1 → srcA a s1 = .ok (x, s2) → srcA b s2 = .ok (y, s3) →
    let r := fCond f.fmt c.toNat (Spec.low f x) (Spec.low f y)
    Spec.trapping s3 r.2 ≠ 0 → exec (Spec.fcmpWord f b a c k) s = .next (s1.raiseUnit { cause := .arith, afl := r.2 })) ∧
  (∀ (f : Spec.Fp4) (b a d : BitVec 7) (s s1 s2 s3 s4 : State) (x y z : Word),
    s.Opens (Spec.fmaWord f b a d) s1 → srcA a s1 = .ok (x, s2) → srcA b s2 = .ok (y, s3) → srcA d s3 = .ok (z, s4) →
    let r := fFma f.fmt (Spec.rm s4) (Spec.low f x) (Spec.low f y) (Spec.low f z)
    Spec.trapping s4 r.2 ≠ 0 → exec (Spec.fmaWord f b a d) s = .next (s1.raiseUnit { cause := .arith, afl := r.2 })) ∧
  (∀ (r t sc : BitVec 3) (a d : BitVec 7) (s s1 s2 s3 : State) (x u : Word),
    s.Opens (.fcvt r t sc a d) s1 → srcA a s1 = .ok (x, s2) →
    (if r.toNat = 5 then srcA d s2 = .ok (u, s3) else s3 = s2 ∧ u = 0) →
    let src := CFmt.ofScalar sc.toNat
    let o := convert (CFmt.ofScalar t.toNat) src (RMode.ofCode r.toNat (s3.arch.fctl.toNat % 8) (u.toNat % 65536)) (s3.arch.fctl.getLsbD 5)
      (x.toNat % 2 ^ src.width)
    Spec.trapping s3 o.2 ≠ 0 → exec (.fcvt r t sc a d) s = .next (s1.raiseUnit { cause := .arith, afl := o.2 }))

/-- Scalar float arithmetic and traps: results, and the trap of an enabled flag. -/
def Obligations.ScalarFloatArithmeticAndTraps : Prop :=
  Spec.ScalarFloatArithmetic ∧ Spec.EnabledFlagTrapsArith

/-! Units: when a word opens, what a completed one leaves, and the operand forms. -/

/-- R35, R106 to a lone word: a completed unit moves the program counter to its target, or else to its next address, raises ICOUNT by
one and ends what held the slot, in a chunk, in direct mode and outside every chunk; and inside a chunk it counts one instruction
towards the chunk's length, which ends at CHUNKMAX (R238). -/
def Sys2Proof.Spec.CompletedUnitAdvances : Prop :=
  ∀ (s : State) (i : Instr), s.th.live = true → s.unit.entered = false → s.unit.park = none →
    let t := (s.finishUnit 1 (endsAfter i)).th
    t.a.pc = s.unit.target.getD s.unit.next ∧ t.a.icount = s.th.a.icount + 1 ∧ t.hold = none ∧
    (s.unit.target = none → (s.done i).th = t) ∧
    (∀ c, s.unit.outside = false → s.th.fallback = none → s.th.cur = some c →
      ∃ c', t.chunks = s.th.chunks.dropLast ++ [c'] ∧ c'.len = c.len + 1 ∧ c'.log = c.log ∧ c'.ckpt = c.ckpt ∧
        (c'.ended = true ↔ endsAfter i = true ∨ c.max ≤ c.len + 1))

/-- A completed unit that transfers no control leaves everything but its own thread, the model's counter of changes and what the
observers keep: every register, shared register, byte of memory, poison marker, tile, signature, message and copy, every other thread,
every partition and function (the frame of a completion). Of its own thread it leaves every binding, vector register, predicate, flag,
mode, trap register, counter of outstanding operations, queue, monitor and reservation. -/
def Sys2Proof.Spec.CompletedUnitKeepsTheRest : Prop :=
  ∀ (s : State) (i : Instr), s.unit.target = none →
    (∃ ts l cs, s.done i = { s with threads := ts, issued := l, counters := cs }) ∧
    (∀ gs, gs ≠ s.fs → (s.done i).thread gs = s.thread gs) ∧
    (s.th.live = true → s.unit.entered = false → s.unit.park = none → (s.unit.outside = true ∨ s.th.fallback = none) →
      ∃ cs ent, (s.done i).th =
        { s.th with
          a := { s.th.a with pc := s.unit.next, icount := s.th.a.icount + 1 }
          entry := false, hold := none, evald := none, stepping := false
          dbgCause := if s.th.stepping || s.th.dbgCause.isSome then none else s.th.dbgCause
          chunks := cs, ent := ent })

/-- Completed unit moves on: what a completed unit moves, and what it leaves. -/
def Obligations.CompletedUnitMovesOn : Prop :=
  Spec.CompletedUnitAdvances ∧ Spec.CompletedUnitKeepsTheRest

/-- R119, R238: in direct mode with no load outstanding, or inside a chunk with room, a word that ends no chunk before it opens in the
state as it stands, when its register fields name registers of the window; it needs no privilege. -/
def Sys2Proof.Spec.ReadySlotOpensPlainWords : Prop :=
  ∀ (s : State) (i : Instr), s.Ready → boundaryWord i = false → isCsrw i = false → kernelOnly i = false →
    (∀ o ∈ operandsOf i, ∃ f, (o = .as f ∨ o = .ad f ∨ o = .aa f ∨ o = .cs f ∨ o = .cd f) ∧ s.inWindow f) →
    s.Opens i s

/-- R238, R242, R243: in chunked mode a slot with no executing chunk, nothing outstanding and fewer than two uncommitted chunks begins
a chunk with its next word: the chunk is empty, and its checkpoint is the checkpointed state and the window as they stand. -/
def Sys2Proof.Spec.EmptySlotBeginsAChunk : Prop :=
  ∀ (s : State), s.LoneUnit → s.th.dir = false → s.th.stepping = false → s.th.fallback = none → s.th.ord = false →
    s.th.cur = none → s.th.chunks.length < 2 → s.th.loads = [] → s.th.stores = [] → s.th.pushes = [] →
    ∃ c, (s.endsBefore false false 1).beginUnit false = .ok (s.setTh { s.th with chunks := s.th.chunks ++ [c] }) ∧
      c.len = 0 ∧ c.log = [] ∧ c.reads = [] ∧ c.writes = [] ∧ c.ended = false ∧ c.granted = false ∧
      c.ckpt = s.arch ∧ c.ckptX = s.windowOf s.fs

/-- R120, R208: a word that stands outside every chunk opens where every earlier chunk is granted and every earlier operation
performed, its loads too by the model's reading (log entry 20), and its place has come; until then the slot is held and the word has no
effect. R220, R241: in exact-count mode an interrupt or
a refused message that is pending as the chunk ends before the word is due at that end, and the word does not issue. -/
def Sys2Proof.Spec.BoundaryWordWaitsForItsPlace : Prop :=
  (∀ (s : State) (i : Instr), s.AtBoundary → isBoundary i = true → s.stepOut.unitChecks [i] = none → s.Opens i s.stepOut) ∧
  (∀ (s : State) (i : Instr), (encode i 1).isSome → s.unit.role = .lone → isBoundary i = true →
    let s0 := s.endsBefore true (isCsrw i) 1
    (s.dueAtEnd s0 = false → (s0.th.chunks ≠ [] ∨ s0.th.loads ≠ [] ∨ s0.th.drained = false ∨ ¬s0.InTurn) →
      exec i s = .next (s0.holdUnit .boundary)) ∧
    (s.dueAtEnd s0 = true → exec i s = .next s0))

/-- When a word opens: a plain word of a ready slot, the first word of a chunk, and a word outside every chunk. -/
def Obligations.WhenAWordOpens : Prop :=
  Spec.ReadySlotOpensPlainWords ∧ Spec.EmptySlotBeginsAChunk ∧ Spec.BoundaryWordWaitsForItsPlace

/-- R92, Table 3.11, R20: a lone word that has begun and fails a check raises the cause of the first failing step, PRIVILEGE before
ILLEGAL_OPERAND before PORT before CLAIM, and has no effect. -/
def Obligations.FirstFailingCheckRaisesItsCause : Prop :=
  ∀ (s s1 : State) (i : Instr), s.unit.role = .lone → s.dueAtEnd (s.endsBefore (s.standsOutside [i]) (isCsrw i) 1) = false →
    (s.endsBefore (s.standsOutside [i]) (isCsrw i) 1).beginUnit (s.standsOutside [i]) = .ok s1 → (encode i 1).isSome →
    let privilege := (kernelOnly i = true ∧ s1.th.level = 0) ∨ ∃ o ∈ operandsOf i, o.privileged s1.th.level = true
    let operand := ∃ o ∈ operandsOf i, o.inadmissible s1 = true
    let claim := s1.arch.grant = 0 ∧ ∃ o ∈ operandsOf i, o.needsClaim = true
    (privilege → exec i s = .next (s1.raiseUnit { cause := .privilege })) ∧
    (¬privilege → operand → exec i s = .next (s1.raiseUnit { cause := .illegalOperand })) ∧
    (¬privilege → ¬operand → ∀ p, (operandsOf i).findSome? (fun o => o.portError s1) = some p →
      exec i s = .next (s1.raiseUnit { cause := .port, portc := some p })) ∧
    (¬privilege → ¬operand → (operandsOf i).findSome? (fun o => o.portError s1) = none → claim →
      exec i s = .next (s1.raiseUnit { cause := .claim }))

/-! Operand forms (R14, R18, R19, R137). -/

/-- R14: an x register is read as it stands and x0 as zero; R18: a read of p15 takes the oldest element out of its queue, which the ring of a
channel bound there may fill up again behind the others, and with the queue
empty the unit is held and has no effect; R137: a read of a port bound to a stream pops one element. -/
def Sys2Proof.Spec.SourceFieldForms : Prop :=
  (∀ (s : State) (f : BitVec 7), f.toNat < 112 → srcA f s = .ok (s.getX f.toNat, s)) ∧
  (∀ s : State, s.getX 0 = 0) ∧
  (∀ (s : State) (v : Word) (rest : List Word), s.th.p15 = v :: rest → ∃ t more, srcA 127 s = .ok (v, t) ∧ t.th.p15 = rest ++ more ∧
    (s.chanOf s.fs 15 = none → more = []) ∧ t.rf = s.rf ∧ t.arch = s.arch) ∧
  (∀ s : State, s.th.p15 = [] → s.unit.popped = [] → srcA 127 s = .error (.hold (.pop 15 8))) ∧
  (∀ (s : State) (f : BitVec 7) (b : Stream), 112 ≤ f.toNat → f.toNat ≤ 119 → s.arch.stream (f.toNat - 112) = some b →
    srcA f s = (do let v ← popStream (f.toNat - 112) b; pure (BitVec.ofNat 64 v)) s) ∧
  (∀ (s : State) (f : BitVec 7), s.unit.pre = none → srcC f s = .ok (s.getX f.toNat, s))

/-- Element 0 of a p12 command: its bits 31:0, but for L and the class bit, are the word of a matrix command with XD, XA and XB zero, and bits
63:32 are zero (Table 8.3). -/
def Sys2Proof.Spec.isCommand (v : Word) (op : MatOp) : Prop :=
  bits v 63 32 = 0 ∧ bits v 28 8 = 0 ∧ ∃ i, decode (BitVec.ofNat 32 (v.toNat % 2 ^ 32 / 4 * 4 + 3)) = .ok i ∧ matOpOf i = some op

/-- The push of the last element to an engine port empties its staging and acts as the equivalent instruction `m`; where that traps, the trap
empties the staging too (R210). -/
def Sys2Proof.Spec.Sends (code : Nat) (m : M Unit) (v : Word) (s : State) : Prop :=
  let s0 := s.setTh { s.th with staged := mdel s.th.staged code }
  (∀ t, m s0 = .ok ((), t) → dstA (BitVec.ofNat 7 (112 + code)) v s = .ok ((), t)) ∧
  (∀ t, m s0 = .error (.trap t) → dstA (BitVec.ofNat 7 (112 + code)) v s = .error (.trap { t with unstage := some code })) ∧
  ∀ h, m s0 = .error (.hold h) → dstA (BitVec.ofNat 7 (112 + code)) v s = .error (.hold h)

/-- R14: a result goes to the x register named, no other register, byte of memory, flag or thread changes, and a write to x0 is
discarded; R19: a push to p12, p13 or p14 short of the command's last element is staged, but that an element 0 of p12 which names no matrix
command traps with ILLEGAL_INSTRUCTION and nothing is staged; the push of the last element takes the staged ones and does what the command
does, and where that traps the trap empties the port's staging (R210, Table 8.3). -/
def Sys2Proof.Spec.DestinationFieldForms : Prop :=
  (∀ (s : State) (f : BitVec 7) (v : Word), f.toNat < 112 → dstA f v s = .ok ((), s.setX f.toNat v)) ∧
  (∀ (s : State) (v : Word), s.setX 0 v = s) ∧
  (∀ (s : State) (f : Nat) (v : Word), f ≠ 0 → (s.setX f v).getX f = v) ∧
  (∀ (s : State) (f g : Nat) (v : Word), g ≠ f → (s.setX f v).getX g = s.getX g) ∧
  (∀ (s : State) (f : Nat) (v : Word), ∃ r, s.setX f v = { s with rf := r }) ∧
  (∀ (s : State) (f : BitVec 7) (v : Word), f = 124 ∨ f = 125 ∨ f = 126 →
    let q := mgetD s.th.staged (f.toNat - 112) []
    (f = 124 → q = [] → (∀ op, ¬Spec.isCommand v op) → dstA f v s = .error (.trap { cause := .illegalInstruction })) ∧
    (q.length + 1 < (if f = 126 then 2 else 4) → (f = 124 → q = [] → ∃ op, Spec.isCommand v op) →
      dstA f v s = .ok ((), s.setTh { s.th with staged := mput s.th.staged (f.toNat - 112) (q ++ [v]) }))) ∧
  (∀ (s : State) (v w a b : Word) (op : MatOp), mgetD s.th.staged 12 [] = [w, a, b] → Spec.isCommand w op →
    Spec.Sends 12 (issueMat op v a b) v s) ∧
  (∀ (s : State) (v a b n : Word), mgetD s.th.staged 13 [] = [a, b, n] → Spec.Sends 13 (issueCopy a b n v (decide (v ≠ 0))) v s) ∧
  (∀ (s : State) (v w : Word), mgetD s.th.staged 14 [] = [w] → Spec.Sends 14 (issueMsg w v) v s) ∧
  (∀ (s : State) (f : BitVec 7) (v : Word) (b : Stream), 120 ≤ f.toNat → f.toNat ≤ 123 → s.arch.stream (f.toNat - 112) = some b →
    dstA f v s = pushStream (f.toNat - 112) b v.toNat s)

/-- Operand forms: the source and the destination forms of a register field. -/
def Obligations.OperandForms : Prop :=
  Spec.SourceFieldForms ∧ Spec.DestinationFieldForms

/-- What stands before a memory operation of the executing slot in direct mode has been performed (R119). -/
def Sys2Proof.Spec.Ordered (s : State) : Prop := s.isDirect = true → s.before.th.drained = true

/-- R137, R138: below its end a read stream gives the zero-extended element at ElemAddr(pos), as the thread saw memory before the unit (R33), and its
position advances; at its end it wraps to element 0, traps with STREAM_END, or sets the end flag and gives zero with the position left.
In a chunk a pop takes the element fetched ahead of it, where there is one. -/
def Obligations.StreamPops : Prop :=
  (∀ (s s1 : State) (code pa pos : Nat) (b : Stream), Spec.Ordered s → b.ahead = [] → s1.unit.took = none →
    (b.pos < b.total ∧ pos = b.pos) ∨ (b.pos = b.total ∧ b.wrap = true ∧ 0 < b.total ∧ pos = 0) →
    checkAccess (b.elemAddr pos) (2 ^ b.sz) (2 ^ b.sz) .read .load s = .ok (pa, s1) →
    s1.before.viewPoison s1.fs pa (2 ^ b.sz) = false →
    ∃ t, popStream code b s = .ok (s1.before.viewNat s1.fs pa (2 ^ b.sz), t) ∧ t.arch.stream code = some { b with pos := pos + 1 } ∧
      t.rf = s1.rf) ∧
  (∀ (s s1 : State) (code pa : Nat) (b : Stream) (x : Ahead) (rest : List Ahead), Spec.Ordered s → b.ahead = x :: rest →
    s.th.det = false → s.isDirect = false → b.pos < b.total →
    checkAccess (b.elemAddr b.pos) (2 ^ b.sz) (2 ^ b.sz) .read .load s = .ok (pa, s1) →
    s1.before.viewPoison s1.fs pa (2 ^ b.sz) = false →
    ∃ t, popStream code b s = .ok (x.v, t) ∧ t.arch.stream code = some { b with pos := b.pos + 1, ahead := rest }) ∧
  (∀ (s : State) (code : Nat) (b : Stream), b.pos = b.total → (b.wrap = false ∨ b.total = 0) → b.trap = true →
    popStream code b s = .error (.trap { cause := .streamEnd, portc := some code, ev := true, info2 := BitVec.ofNat 64 b.total })) ∧
  (∀ (s : State) (code : Nat) (b : Stream), b.pos = b.total → (b.wrap = false ∨ b.total = 0) → b.trap = false →
    ∃ t, popStream code b s = .ok (0, t) ∧ t.arch.stream code = some { b with endFlag := true } ∧ t.mem = s.mem)

/-! Control transfers and control registers. -/

/-- The unit `i` at `s` completes, its own effect leaving `t`. -/
def Sys2Proof.Spec.Completes (i : Instr) (s t : State) : Prop := exec i s = .next (t.done i)

/-- The unit takes no effect and raises a cause, from the state it began in (R20, R310, R311). -/
def Sys2Proof.Spec.Raises (i : Instr) (s s1 : State) (t : Trap) : Prop := exec i s = .next (s1.raiseUnit t)

/-- A word outside every chunk has no effect and its slot is held (R18, R120). -/
def Sys2Proof.Spec.Waits (i : Instr) (s : State) (h : Hold) : Prop := exec i s = .next ((s.endsBefore true false 1).holdUnit h)

/-- A word has no effect and its slot is held, the chunk before it having ended where Table 10.1 ends it (R18, R119, R120). -/
def Sys2Proof.Spec.Held (i : Instr) (s : State) (h : Hold) : Prop :=
  exec i s = .next ((s.endsBefore (s.standsOutside [i]) (isCsrw i) 1).holdUnit h)

/-- The transfer of control to an address (R106). -/
def Sys2Proof.Spec.jump (s : State) (t : Word) : State := { s with unit := { s.unit with target := some t } }

/-- The target of an offset in words: the word's own address plus four times the offset, a 57-bit address (R106). -/
def Sys2Proof.Spec.target (s : State) (o : Int) : Word := addr57 (s.unit.addr + BitVec.ofInt 64 (4 * o))

/-- R106 to R111: `br`, `br.end` and `loop` go to their target exactly when their condition holds, `jmp`, `jal` and `jalr` always;
`jal` and `jalr` write the next address, `loop` counts down without wrapping; a `jalr` to a target that is no word address traps with
MISALIGNED and writes nothing. -/
def Obligations.ControlTransfers : Prop :=
  (∀ (o : BitVec 20) (n : BitVec 1) (k : BitVec 3) (s s1 : State), s.Opens (.br o n k) s1 → s1.unit.pre = none →
    Spec.Completes (.br o n k) s
      (if (s1.arch.kreg k.toNat).getLsbD 0 != n.getLsbD 0 then Spec.jump s1 (Spec.target s1 o.toInt) else s1)) ∧
  (∀ (o : BitVec 17) (s s1 : State), s.Opens (.jmp o) s1 → Spec.Completes (.jmp o) s (Spec.jump s1 (Spec.target s1 o.toInt))) ∧
  (∀ (o : BitVec 17) (n : BitVec 1) (p : BitVec 4) (s s1 : State) (b : Stream), s.Opens (.brEnd o n p) s1 → s1.unit.pre = none →
    s1.arch.stream (if p.toNat < 8 then p.toNat else p.toNat + 8) = some b →
    Spec.Completes (.brEnd o n p) s (if b.endFlag != n.getLsbD 0 then Spec.jump s1 (Spec.target s1 o.toInt) else s1)) ∧
  (∀ (o : BitVec 17) (d : BitVec 7) (s s1 : State), s.Opens (.jal o d) s1 →
    Spec.Completes (.jal o d) s (Spec.jump (s1.setX d.toNat s1.unit.next) (Spec.target s1 o.toInt))) ∧
  (∀ (i : BitVec 10) (a d : BitVec 7) (s s1 : State), s.Opens (.jalr i a d) s1 → s1.unit.pre = none →
    let t := addr57 (s1.getX a.toNat + BitVec.ofInt 64 (4 * i.toInt))
    (t.toNat % 4 = 0 → Spec.Completes (.jalr i a d) s (Spec.jump (s1.setX d.toNat s1.unit.next) t)) ∧
    (t.toNat % 4 ≠ 0 → Spec.Raises (.jalr i a d) s s1 { cause := .misaligned, av := true, acc := 2, info1 := t })) ∧
  (∀ (o : BitVec 17) (d : BitVec 7) (s s1 : State), s.Opens (.loop o d) s1 → s1.unit.pre = none →
    let n := s1.getX d.toNat
    Spec.Completes (.loop o d) s
      (if n = 0 then s1
       else if n = 1 then s1.setX d.toNat 0
       else Spec.jump (s1.setX d.toNat (n - 1)) (Spec.target s1 o.toInt)))

/-- What a control register reads as at the executing slot, the shared registers apart (R37, R40, R113, Tables 1.5 to 1.7). -/
def Sys2Proof.Spec.csr (s : State) (c : Nat) : Option Word :=
  let t := s.th
  let b := if t.level ≤ 1 then t.kern else if t.level = 2 then t.hyp else t.mach
  match c with
  | 0x000 => some (BitVec.ofNat 64 s.cycle)
  | 0x001 => some t.a.icount
  | 0x002 => some (BitVec.ofNat 64 (s.fs % 64))
  | 0x003 => some (BitVec.ofNat 64 (s.fs / 64 % 8))
  | 0x004 => some (BitVec.ofNat 64 (s.fs / 512 % 96))
  | 0x005 => some (BitVec.ofNat 64 (s.fs / 49152))
  | 0x008 => some ((t.gid.getD 0 0).zeroExtend 64)
  | 0x009 => some ((t.gid.getD 1 0).zeroExtend 64)
  | 0x00A => some ((t.gid.getD 2 0).zeroExtend 64)
  | 0x00B => some ((t.gid.getD 3 0).zeroExtend 64)
  -- committed chunks before the one that reads it (R113)
  | 0x00C => some (t.chseq + BitVec.ofNat 64 (t.chunks.length - 1))
  | 0x00D => some (BitVec.ofNat 64 t.a.grant)
  | 0x00E => some t.opcnt
  | 0x010 => some t.a.fctl
  | 0x011 => some t.a.fflags
  | 0x100 => some (s.statusOf s.fs)
  | 0x101 => some b.tvec
  | 0x102 => some t.ucvec
  | 0x103 => some b.epc
  | 0x104 => some b.ecause
  | 0x108 => some b.einfo0
  | 0x109 => some b.einfo1
  | 0x10A => some b.einfo2
  | 0x10B => some b.einfo3
  | 0x110 => some t.timer
  | 0x111 => some (BitVec.ofNat 64 t.winBase)
  | 0x112 => some (BitVec.ofNat 64 t.winLim)
  | 0x113 => some (s.pmask s.fs)
  | 0x114 => some (BitVec.ofNat 64 t.chunkmax)
  | 0x115 => some (BitVec.ofNat 64 (s.policyOf s.fs))
  | _ => none

/-- R37, R112 to R114, R25: `rdc` and `csrr` write the register's value to D. A shared register reads, in a chunk, as the thread's own
uncommitted write or the latest committed one, and enters the read signature; in direct mode as the latest write, or as the value before
a write at most three cycles old that the slot has not seen. -/
def Sys2Proof.Spec.ControlRegisterReads : Prop :=
  (∀ (c : BitVec 10) (d : BitVec 7) (s s1 : State) (v : Word), s.Opens (.rdc c d) s1 → s1.unit.pre = none →
    Spec.csr s1 c.toNat = some v → Spec.Completes (.rdc c d) s (s1.setX d.toNat v)) ∧
  (∀ (c : BitVec 10) (d : BitVec 7) (s s1 : State) (v : Word), s.Opens (.csrr c d) s1 → s1.unit.pre = none →
    Spec.csr s1 c.toNat = some v → Spec.Completes (.csrr c d) s (s1.setX d.toNat v)) ∧
  (∀ (i : Instr) (c : BitVec 10) (d : BitVec 7) (s s1 : State) (n : Nat), i = .rdc c d ∨ i = .csrr c d → s.Opens i s1 →
    s1.unit.pre = none → n < 16 → c.toNat = 0x40 + n →
    let k := 16 * coreOf s1.fs + n
    (s1.isDirect = false → ∃ t : State, noteReads [gItem k] s1 = .ok ((), t) ∧
      Spec.Completes i s ((t.seenShared s1.fs k).setX d.toNat (s1.viewGreg s1.fs k))) ∧
    (s1.isDirect = true → ∃ (t : State) (v : Word), Spec.Completes i s (t.setX d.toNat v) ∧ t.rf = s1.rf ∧ t.gregs = s1.gregs ∧ t.mem = s1.mem ∧
      (v = mgetD s1.gregs k 0 ∨ ∃ w ∈ mgetD s1.gregHist k [], v = w.old ∧ s1.cycle < w.at_ + 4 ∧ s1.fs ∉ w.seen)))

/-- What a write of a control register leaves, where the value is admitted (R37 to R40, R67, R68, R235, Tables 1.6 and 1.7). -/
def Sys2Proof.Spec.csrWritten (s : State) (c : Nat) (v : Word) : Option State :=
  let t := s.th
  let bank (f : TrapRegs → TrapRegs) : State := s.setTh (t.setBank t.level (f (t.bank t.level)))
  let word : Word := addr57 v &&& ~~~3
  match c with
  | 0x010 => if v.toNat % 8 ≤ 4 then some (s.setArch { s.arch with fctl := v &&& 0x1F27 }) else none
  | 0x011 => some (s.setArch { s.arch with fflags := v &&& 31 })
  | 0x100 =>
    let m : Word := if t.level = 0 then 0 else if t.level = 1 then 0x398000 else if t.level = 2 then 0x1F98000 else 0xFF98000
    some (s.setArch { s.arch with status := (s.arch.status &&& ~~~m) ||| (v &&& m) })
  | 0x101 => some (bank (fun b => { b with tvec := word }))
  | 0x102 => some (s.setTh { t with ucvec := word })
  | 0x103 => some (bank (fun b => { b with epc := word }))
  | 0x104 => some (bank (fun b => { b with ecause := v &&& 0x80000000000000FF }))
  | 0x110 => some (s.setTh { t with timer := v })
  | 0x114 => if t.det = false ∧ 256 ≤ v.toNat ∧ v.toNat ≤ 8192 then some (s.setTh { t with chunkmax := v.toNat }) else none
  | _ => none

/-- R38 to R40, R67, R68, R235: `csrw` writes the fields of its register that the level reaches and nothing else of the machine; a value
outside the range of FCTL.RM or CHUNKMAX, and CHUNKMAX in a deterministic launch, trap with ILLEGAL_OPERAND; a write of g0 to g15 takes
its place as the chunk's or the singleton's effect; a write of POLICY sets the policy of the slot's partition. -/
def Sys2Proof.Spec.ControlRegisterWrites : Prop :=
  (∀ (c : BitVec 10) (a : BitVec 7) (s s1 t : State), s.Opens (.csrw c a) s1 → s1.unit.pre = none →
    Spec.csrWritten s1 c.toNat (s1.getX a.toNat) = some t → Spec.Completes (.csrw c a) s t) ∧
  (∀ (c : BitVec 10) (a : BitVec 7) (s s1 : State), s.Opens (.csrw c a) s1 → s1.unit.pre = none → c.toNat = 0x10 ∨ c.toNat = 0x114 →
    Spec.csrWritten s1 c.toNat (s1.getX a.toNat) = none → Spec.Raises (.csrw c a) s s1 { cause := .illegalOperand }) ∧
  (∀ (c : BitVec 10) (a : BitVec 7) (s s1 t : State) (n : Nat), s.Opens (.csrw c a) s1 → s1.unit.pre = none → n < 16 →
    c.toNat = 0x40 + n → uncounted .scalar [.greg (16 * coreOf s1.fs + n) (s1.getX a.toNat)] s1 = .ok ((), t) →
    (t.isDirect = false → Spec.Completes (.csrw c a) s t) ∧
    (t.isDirect = true → ∃ h, Spec.Completes (.csrw c a) s { t with gregHist := h })) ∧
  (∀ (c : BitVec 10) (a : BitVec 7) (s s1 : State) (pid : Nat) (p : Part), s.Opens (.csrw c a) s1 → s1.unit.pre = none →
    c.toNat = 0x115 → s1.partOf s1.fs = some pid → mget s1.parts pid = some p →
    let v := (s1.getX a.toNat).toNat % 8
    (v / 2 = 3 → Spec.Raises (.csrw c a) s s1 { cause := .illegalOperand }) ∧
    (v / 2 ≠ 3 → ∃ (q : Part) (t : State), q.policy = v ∧ q.logBase = p.logBase ∧ q.logLen = p.logLen ∧ q.desc = p.desc ∧
      mget t.parts pid = some q ∧ (v / 2 ≠ 1 → t = { s1 with parts := mput s1.parts pid q }) ∧ Spec.Completes (.csrw c a) s t))

/-- Control register access: the reads, and the writes. POLICY in a slot of the hypervisor's set is the model's reading (log entry 48),
and a shared register read shortly after a direct write is a free value (10). -/
def Obligations.ControlRegisterAccess : Prop :=
  Spec.ControlRegisterReads ∧ Spec.ControlRegisterWrites

/-! Loads, stores and atomics (R116 to R133). -/

/-- The address of an x register plus an offset in bytes: 57 bits, sign-extended (R116). -/
def Sys2Proof.Spec.addr (s : State) (a : BitVec 7) (o : Int) : Word := addr57 (s.getX a.toNat + BitVec.ofInt 64 o)

/-- The address of an indexed word: the second register shifted left by k (R116, R122). -/
def Sys2Proof.Spec.indexed (s : State) (a b : BitVec 7) (k : Nat) : Word := addr57 (s.getX a.toNat + BitVec.ofNat 64 ((s.getX b.toNat).toNat * 2 ^ k))

/-- n bytes can be read at `va` from `s`: in direct mode every earlier store has been performed (R119), the checks of R117 pass with
physical address `pa`, the data carries no poison, and its lines enter the read signature, leaving `s2` (accessed bits, translation
lines, coherence requests, access counters). -/
def Sys2Proof.Spec.Readable (s : State) (va : Word) (n pa : Nat) (s2 : State) : Prop :=
  Spec.Ordered s ∧ ∃ s1, checkAccess va n n .read .load s = .ok (pa, s1) ∧ s1.loadPoison s1.fs .scalar pa n = false ∧
    readLines (linesOf pa n) s1 = .ok ((), s2)

/-- n bytes can be written at `va` from `s` (R117, R119). -/
def Sys2Proof.Spec.Writable (s : State) (va : Word) (n pa : Nat) (s2 : State) : Prop :=
  Spec.Ordered s ∧ checkAccess va n n .write .store s = .ok (pa, s2)

/-- n bytes can be read and written at `va` from `s` by an ordinary atomic, which finds `old` there (R117, R118, R126); `load` for one that
counts in LC. The read draws no place of its own: it stands where the write that follows is entered. -/
def Sys2Proof.Spec.Atomically (s : State) (load : Bool) (va : Word) (n pa old : Nat) (s2 : State) : Prop :=
  Spec.Ordered s ∧ ∃ s1, checkAccess va n n .rmw .atomic s = .ok (pa, s1) ∧ s1.loadPoison s1.fs (.atomic load) pa n = false ∧
    readLines (linesOf pa n) s1 = .ok ((), s2) ∧ old = s2.loadView s2.fs (.atomic load) pa n

/-- A number of w bits as a register holds it, sign-extended or zero-extended (Table 1.13). -/
def Sys2Proof.Spec.extended (sx : Bool) (w v : Nat) : Word := if sx then BitVec.ofInt 64 (signedOf w v) else BitVec.ofNat 64 (v % 2 ^ w)

/-- An operation with these singletons still to perform counts in SC from now on (R26, R119). -/
def Sys2Proof.Spec.counted (s : State) (singles : List (List Eff)) : State :=
  let u := s.setTh { s.th with stores := s.th.stores ++ [singles], arrivals := s.th.arrivals ++ [s.cycle] }
  if s.isDirect then u else u.setTh (u.th.modLast (fun c => { c with scn := c.scn + 1 }))

/-- A load of these destinations counts in LC from now on (R26, R27). -/
def Sys2Proof.Spec.countedLoad (s : State) (ds : List Dest) : State :=
  let u := s.setTh { s.th with loads := s.th.loads ++ [ds] }
  if s.isDirect then u else u.setTh (u.th.modLast (fun c => { c with lcn := c.lcn + 1 }))

/-- A load of n bytes at `va` into x register d, begun in `s1`: it counts in LC with its data to write when it retires, and changes no
register, flag or shared register, nor, where it reads no host line, any byte of memory (R26, R27, R118, R121). -/
def Sys2Proof.Spec.Loads (i : Instr) (s s1 : State) (sx : Bool) (va : Word) (n d : Nat) : Prop :=
  ∀ (pa : Nat) (s2 : State), Spec.Readable s1 va n pa s2 →
    (63 ≤ s2.th.loads.length → Spec.Held i s .retry) ∧
    (s2.th.loads.length < 63 → ∃ t, Spec.Completes i s t ∧
      t.th.loads = s2.th.loads ++ [[.x d (Spec.extended sx (8 * n) (s2.loadView s2.fs .scalar pa n)) (some ⟨pa, n, sx⟩)]] ∧
      t.th.stores = s1.th.stores ∧ t.rf = s1.rf ∧ t.arch = s2.arch ∧ t.gregs = s1.gregs ∧ t.unit = s1.unit ∧ t.mem = s2.mem ∧
      (∀ s3, checkAccess va n n .read .load s1 = .ok (pa, s3) → (∀ l ∈ linesOf pa n, isHost (128 * l) = false) → ∀ q, t.byteAt q = s3.byteAt q))

/-- R121, R122, R124, R26, R27: `ld`, `ldz`, `ldx` and `ldk` read 2^SZ bytes (eight for `ldk`) at their effective address and queue the
sign- or zero-extended value for D; a 64th outstanding load waits. R118: a scalar load sees every earlier scalar store and atomic of its
chunk, and what stands before a `fence` or a `wait`; in direct mode, and in a deterministic launch, every earlier write of its thread.
That the value is fixed as the load issues, and in which order a chunk's unordered operations stand, is the model's own choice (log entries
23, 69). -/
def Obligations.ScalarLoads : Prop :=
  (∀ (o : BitVec 8) (z : BitVec 2) (a d : BitVec 7) (s s1 : State), s.Opens (.ld o z a d) s1 → s1.unit.pre = none →
    Spec.Loads (.ld o z a d) s s1 true (Spec.addr s1 a (o.toInt * 2 ^ z.toNat)) (2 ^ z.toNat) d.toNat) ∧
  (∀ (o : BitVec 8) (z : BitVec 2) (a d : BitVec 7) (s s1 : State), s.Opens (.ldz o z a d) s1 → s1.unit.pre = none →
    Spec.Loads (.ldz o z a d) s s1 false (Spec.addr s1 a (o.toInt * 2 ^ z.toNat)) (2 ^ z.toNat) d.toNat) ∧
  (∀ (x : BitVec 1) (z : BitVec 2) (b a d : BitVec 7) (s s1 : State), s.Opens (.ldx x z b a d) s1 → s1.unit.pre = none →
    Spec.Loads (.ldx x z b a d) s s1 true (Spec.indexed s1 a b (if x = 1 then 0 else z.toNat)) (2 ^ z.toNat) d.toNat) ∧
  (∀ (o : BitVec 17) (d : BitVec 7) (s s1 : State), s.Opens (.ldk o d) s1 →
    Spec.Loads (.ldk o d) s s1 true (Spec.target s1 o.toInt) 8 d.toNat) ∧
  (∀ (s : State) (gs pa n : Nat),
    (∀ c, (s.thread gs).chunks.getLast? = some c → ∀ e ∈ c.log, e.touches pa n = true →
      e.by_ = .scalar ∨ (∃ b, e.by_ = .atomic b) ∨ e.fixed = true) →
    s.loadView gs .scalar pa n = s.viewNat gs pa n) ∧
  (∀ (s : State) (gs pa n : Nat) (k : Access), (s.thread gs).det = true ∨ (s.thread gs).directMode = true →
    s.loadView gs k pa n = s.viewNat gs pa n)

/-- A store of the low n bytes of a value at `va`, begun in `s1`: outside a chunk it waits, counted in SC, to be performed in order; in a
chunk it enters the chunk's speculative state and counts in SC; nothing else changes but what the chunk records (R26, R118, R119). -/
def Sys2Proof.Spec.Stores (i : Instr) (s s1 : State) (va : Word) (n : Nat) (v : Word) : Prop :=
  ∀ (pa : Nat) (s2 : State), Spec.Writable s1 va n pa s2 → s2.th.stores.length < 63 →
    let e := s2.effFor pa (leBytes n v.toNat)
    (s2.isDirect = true → Spec.Completes i s (Spec.counted s2 [[e]])) ∧
    (s2.isDirect = false → ∀ s3, enterChunk .scalar [e] (if s2.isRemote pa then 1 else 0) s2 = .ok ((), s3) →
      Spec.Completes i s (Spec.counted s3 []))

/-- R121, R122, R26, R118, R119: `st` and `stx` store the low 2^SZ bytes of D at their effective address. -/
def Sys2Proof.Spec.ScalarStores : Prop :=
  (∀ (o : BitVec 8) (z : BitVec 2) (a d : BitVec 7) (s s1 : State), s.Opens (.st o z a d) s1 → s1.unit.pre = none →
    Spec.Stores (.st o z a d) s s1 (Spec.addr s1 a (o.toInt * 2 ^ z.toNat)) (2 ^ z.toNat) (s1.getX d.toNat)) ∧
  (∀ (x : BitVec 1) (z : BitVec 2) (b a d : BitVec 7) (s s1 : State), s.Opens (.stx x z b a d) s1 → s1.unit.pre = none →
    Spec.Stores (.stx x z b a d) s s1 (Spec.indexed s1 a b (if x = 1 then 0 else z.toNat)) (2 ^ z.toNat) (s1.getX d.toNat))

/-- R118, R163, R240: entering a chunk puts the effect among the chunk's writes, before none to the same bytes that it must follow, and
its lines in the write signature; it changes no byte of memory, no register and no other thread; a counted load keeps its value unless it
is one that the chunk's later stores may reach. In a deterministic launch the effect is the last. Where it may go before others, whether
it does is the model's free value (log entry 69). -/
def Sys2Proof.Spec.ChunkHoldsItsStores : Prop :=
  ∀ (s s3 : State) (k : Access) (e : Eff) (n : Nat) (c : Chunk), s.isDirect = false → s.unit.pre = none →
    s.th.chunks.getLast? = some c → enterChunk k [e] n s = .ok ((), s3) →
    ∃ (c' : Chunk) (cs : List Chunk) (ls : List (List Dest)) (f j : Nat) (x : Entry),
      s3 = { s.setTh { s.th with chunks := cs, loads := ls } with fresh := f } ∧ cs = s.th.chunks.dropLast ++ [c'] ∧
      c'.log = c.log.take j ++ x :: c.log.drop j ∧ x.eff = e ∧ x.by_ = k ∧
      (∀ pa m, e.span = some (pa, m) → ∀ y ∈ c.log.drop j, y.touches pa m = true → y.fixed = false ∧ k.inOrder y.by_ = false) ∧
      (s.th.det = true → c.log.drop j = [] ∧ ls = s.th.loads) ∧
      ((∀ ds ∈ s.th.loads, ∀ d ∈ ds, d.open_ k e = false) → ls = s.th.loads) ∧
      (∀ l, l ∈ c'.writes ↔ l ∈ c.writes ∨ l ∈ e.items) ∧ c'.ckpt = c.ckpt ∧ c'.ckptX = c.ckptX

/-- Stores and the chunk that holds them: the scalar stores, and where their bytes stand until the grant. The L1 set that decides where
an overflow cuts a chunk is a free value (log entry 8). -/
def Obligations.StoresAndTheChunkThatHoldsThem : Prop :=
  Spec.ScalarStores ∧ Spec.ChunkHoldsItsStores

/-- R123: `ldm` checks every doubleword before it reads any, and counts once in LC with the n values for D to D + n − 1; `stm` checks
every doubleword and counts once in SC with all of them. Each value is what a scalar load of the doubleword finds.
That the values are fixed as the load issues, in the free order of the chunk's operations, is the model's own choice (log entries 23, 69). -/
def Obligations.MultipleLoadsAndStores : Prop :=
  (∀ (o : BitVec 8) (n : BitVec 2) (a d : BitVec 7) (s s1 s2 s3 s4 s5 : State) (pas vs : List Nat), s.Opens (.ldm o n a d) s1 →
    s1.unit.pre = none → Spec.Ordered s1 →
    checkDwords (Spec.addr s1 a (o.toInt * 8)) (n.toNat + 1) .read .load s1 = .ok (pas, s2) →
    (∀ p ∈ pas, s2.loadPoison s2.fs .scalar p 8 = false) →
    readLines (pas.flatMap (fun q => linesOf q 8)).dedup s2 = .ok ((), s3) → countReads 1 s3 = .ok ((), s4) →
    pas.mapM (fun q => viewed .scalar q 8) s4 = .ok (vs, s5) → s5.th.loads.length < 63 →
    Spec.Completes (.ldm o n a d) s (Spec.countedLoad s5 ((pas.zip vs).zipIdx.map (fun q =>
      Dest.x (d.toNat + q.2) (BitVec.ofNat 64 q.1.2) (some ⟨q.1.1, 8, false⟩))))) ∧
  (∀ (s : State) (k : Access) (pa n : Nat), s.unit.pre = none →
    ∃ f, viewed k pa n s = .ok (s.loadView s.fs k pa n, { s with fresh := f })) ∧
  (∀ (s s1 : State) (n : Nat), countReads n s = .ok ((), s1) → s1.rf = s.rf ∧ s1.mem = s.mem ∧ s1.arch = s.arch ∧
    s1.th.loads = s.th.loads ∧ s1.th.ent = (if s.singly = true ∧ 0 < n then s.th.ent + 1 else s.th.ent) ∧
    (s.th.directMode = true → s.unit.outside = false → 0 < n → s1.th.unread = n - 1)) ∧
  (∀ (o : BitVec 8) (n : BitVec 2) (a d : BitVec 7) (s s1 s2 : State) (pas : List Nat), s.Opens (.stm o n a d) s1 →
    s1.unit.pre = none → Spec.Ordered s1 →
    checkDwords (Spec.addr s1 a (o.toInt * 8)) (n.toNat + 1) .write .store s1 = .ok (pas, s2) →
    s2.unit.pre = none → s2.th.stores.length < 63 →
    let vs := (List.range (n.toNat + 1)).map (fun i => leBytes 8 (s2.getX (d.toNat + i)).toNat)
    let es := (joinWrites (pas.zip vs)).map (fun q => s2.effFor q.1 q.2)
    (s2.isDirect = true → Spec.Completes (.stm o n a d) s (Spec.counted s2 [es])) ∧
    (s2.isDirect = false → ∀ s3, enterChunk .scalar es (if es.any Eff.isRemote then 1 else 0) s2 = .ok ((), s3) →
      Spec.Completes (.stm o n a d) s (Spec.counted s3 [])))

/-- The elements of 2^esz bytes below VL that predicate m makes active (R154, R155). -/
def Sys2Proof.Spec.active (s : State) (m : BitVec 3) (esz : Nat) : List Bool :=
  (List.range (4 * s.arch.grant / 2 ^ esz)).map (fun j => (s.arch.kreg m.toNat).getLsbD j)

/-- The addresses of the elements of a vector access, the active ones by index. -/
def Sys2Proof.Spec.elements (act : List Bool) (addr : Nat → Word) : List (Nat × Word) :=
  ((act.zipIdx).filter (fun p => p.1)).map (fun p => (p.2, addr p.2))

/-- A slot's unit has sent no request yet. -/
def Sys2Proof.Spec.Unsent (s : State) : Prop := ∀ h, s.th.hold = some h → h.answering = false

/-- The access that a scalar memory word checks as R117 says: its address, its bytes, its kind and where it may reach (R116, R121 to R130). -/
def Sys2Proof.Spec.access (i : Instr) (s : State) : Option (Word × Nat × Acc × Reach) :=
  match i with
  | .ld o z a _ | .ldz o z a _ => some (Spec.addr s a (o.toInt * 2 ^ z.toNat), 2 ^ z.toNat, .read, .load)
  | .ldx x z b a _ => some (Spec.indexed s a b (if x = 1 then 0 else z.toNat), 2 ^ z.toNat, .read, .load)
  | .ldk o _ => some (Spec.target s o.toInt, 8, .read, .load)
  | .st o z a _ => some (Spec.addr s a (o.toInt * 2 ^ z.toNat), 2 ^ z.toNat, .write, .store)
  | .stx x z b a _ => some (Spec.indexed s a b (if x = 1 then 0 else z.toNat), 2 ^ z.toNat, .write, .store)
  | .amo z _ a _ | .amof z _ a _ => some (Spec.addr s a 0, 2 ^ z.toNat, .rmw, .atomic)
  | .cas z _ a _ => some (Spec.addr s a 0, 4 + 4 * z.toNat, .rmw, .atomic)
  | .amoE z _ a _ | .amofE z _ a _ => some (Spec.addr s a 0, 2 ^ z.toNat, .rmw, .line)
  | .qres z a _ => if s.th.resv = none then some (Spec.addr s a 0, 4 + 4 * z.toNat, .rmw, .atomic) else none
  | .qrel z a _ => some (Spec.addr s a 0, 4 + 4 * z.toNat, .write, .atomic)
  | _ => none

/-- How a scalar word that reads memory at its issue reads it. -/
def Sys2Proof.Spec.reading (i : Instr) : Option Access :=
  match i with
  | .ld .. | .ldz .. | .ldx .. | .ldk .. => some .scalar
  | .amo .. => some (.atomic false)
  | .amof .. | .cas .. => some (.atomic true)
  | _ => none

/-- A fault of an access: its cause, address and access code (R307 to R309). -/
def Sys2Proof.Spec.fault (c : Cause) (acc : Acc) (orig : Nat) (va : Word) : Trap :=
  { cause := c, av := true, acc := acc.code, orig := orig, info1 := va }

/-- The check of R117 on n bytes at an address: alignment before translation before reach. -/
def Sys2Proof.Spec.AccessCheck : Prop :=
  ∀ (va : Word) (n : Nat) (acc : Acc) (r : Reach) (s : State), s.unit.pre = none → acc ≠ .fetch →
    (va.toNat % n ≠ 0 → checkAccess va n n acc r s = .error (.trap (Spec.fault .misaligned acc 0 va))) ∧
    (∀ t, va.toNat % n = 0 → s.translate s.th.vf s.th.asid s.th.level va acc = .error (.trap t) →
      checkAccess va n n acc r s = .error (.trap t) ∧ t.av = true ∧ t.acc = acc.code ∧ t.info1 = va ∧
        t.cause ∈ [Cause.pageAbsent, .pageProtection, .segmentBound, .dataPoison]) ∧
    (∀ pa s2, va.toNat % n = 0 → xlatAt s.th.level va acc s = .ok (pa, s2) →
      (s.isRemote pa = true → r ≠ .store → checkAccess va n n acc r s = .error (.trap (Spec.fault .pageProtection acc 2 va))) ∧
      (isPeer pa = true → r = .atomic → checkAccess va n n acc r s = .error (.trap (Spec.fault .pageProtection acc 0 va))) ∧
      (∀ c, isPeer pa = true → r = .load → acc = .read → s2.peerUp (peerDev pa) = true → peerFault s2.fresh pa = some c →
        checkAccess va n n acc r s = .error (.trap (Spec.fault c acc (if c = .dataPoison then 0 else 1) va))))

/-- Scalar words raise what the check of their access raises, and DATA_POISON where what they read carries poison; a reservation outside
the package's memory, PAGE_PROTECTION (R117, R123, R128 to R130). -/
def Sys2Proof.Spec.ScalarAccessFaults : Prop :=
  (∀ (i : Instr) (s s1 : State) (va : Word) (n : Nat) (acc : Acc) (r : Reach), Spec.access i s1 = some (va, n, acc, r) → s.Opens i s1 →
    s1.unit.pre = none → Spec.Ordered s1 → Spec.Unsent s1 →
    (∀ f, checkAccess va n n acc r s1 = .error (.trap f) → Spec.Raises i s s1 f) ∧
    (∀ pa s2 k, Spec.reading i = some k → checkAccess va n n acc r s1 = .ok (pa, s2) → s2.loadPoison s2.fs k pa n = true →
      Spec.Raises i s s1 (Spec.fault .dataPoison acc 0 va)) ∧
    (∀ pa s2, (∃ z a d, i = .qres z a d ∨ i = .qrel z a d) → checkAccess va n n acc r s1 = .ok (pa, s2) → isPackage pa = false →
      Spec.Raises i s s1 (Spec.fault .pageProtection acc 0 va))) ∧
  (∀ (i : Instr) (acc : Acc) (r : Reach) (o : BitVec 8) (n : BitVec 2) (a d : BitVec 7) (s s1 s2 : State) (pas : List Nat),
    (i, acc, r) = (.ldm o n a d, .read, .load) ∨ (i, acc, r) = (.stm o n a d, .write, .store) → s.Opens i s1 → s1.unit.pre = none →
    Spec.Ordered s1 →
    let p := Spec.addr s1 a (o.toInt * 8)
    let word (k : Nat) : Word := addr57 (p + BitVec.ofNat 64 (8 * k))
    (∀ k f, k ≤ n.toNat → checkDwords p k acc r s1 = .ok (pas, s2) → checkAccess (word k) 8 8 acc r s2 = .error (.trap f) →
      Spec.Raises i s s1 f) ∧
    (∀ k pa, acc = .read → checkDwords p (n.toNat + 1) acc r s1 = .ok (pas, s2) → pas[k]? = some pa →
      s2.loadPoison s2.fs .scalar pa 8 = true → (∀ q ∈ pas.take k, s2.loadPoison s2.fs .scalar q 8 = false) →
      Spec.Raises i s s1 (Spec.fault .dataPoison acc 0 (word k))))

/-- Vector words check every active element in ascending index, and the first fault carries the index (R117, R162). -/
def Sys2Proof.Spec.VectorAccessFaults : Prop :=
  (∀ (els rest : List (Nat × Word)) (j : Nat) (va : Word) (esz : Nat) (load : Bool) (s s1 : State) (pas : List (Nat × Nat)),
    checkElems els esz load s = .ok (pas, s1) →
    let acc : Acc := if load then .read else .write
    let r : Reach := if load then .load else .store
    (∀ f, checkAccess va (2 ^ esz) (2 ^ esz) acc r s1 = .error (.trap f) →
      checkElems (els ++ (j, va) :: rest) esz load s = .error (.trap { f with ev := true, info2 := BitVec.ofNat 64 j })) ∧
    (∀ pa s2, load = true → s1.unit.pre = none → checkAccess va (2 ^ esz) (2 ^ esz) acc r s1 = .ok (pa, s2) →
      s2.loadPoison s2.fs .vector pa (2 ^ esz) = true →
      checkElems (els ++ (j, va) :: rest) esz load s =
        .error (.trap { Spec.fault .dataPoison acc 0 va with ev := true, info2 := BitVec.ofNat 64 j }))) ∧
  (∀ (i : Instr) (m : BitVec 3) (a : BitVec 7) (d : BitVec 5) (adv load : Bool) (esz : Nat) (addr : Nat → Word) (s s1 s2 : State) (vs : List Nat)
      (f : Trap),
    ((∃ o v z, i = (if load then .vld o v m a z d else .vst o v m a z d) ∧ esz = z.toNat ∧ adv = (v == 1) ∧
        addr = fun j => addr57 (Spec.addr s1 a (o.toInt * 2 ^ z.toNat) + BitVec.ofNat 64 (2 ^ z.toNat * j)))) ∨
      (∃ b z, i = (if load then .vlds m b a z d else .vsts m b a z d) ∧ esz = 2 + z.toNat ∧ adv = false ∧
        addr = fun j => addr57 (Spec.addr s1 a 0 + BitVec.ofNat 64 j * s1.getX b.toNat)) →
    s.Opens i s1 → s1.unit.pre = none →
    (if load then s2 = s1 else srcV d (8 * 2 ^ esz) (Spec.active s1 m esz) adv s1 = .ok (vs, s2)) →
    checkElems (Spec.elements (Spec.active s1 m esz) addr) esz load s2 = .error (.trap f) → Spec.Raises i s s1 f) ∧
  (∀ (i : Instr) (m : BitVec 3) (c : BitVec 1) (x : BitVec 5) (a : BitVec 7) (z : BitVec 1) (d : BitVec 5) (load : Bool) (s s1 s2 s3 : State)
      (idx vs : List Nat) (f : Trap),
    i = (if load then .vgat m c x a z d else .vsct m c x a z d) → s.Opens i s1 → s1.unit.pre = none →
    let esz := 2 + z.toNat
    let act := Spec.active s1 m esz
    srcV x (8 * 2 ^ esz) act false s1 = .ok (idx, s2) → idx.length = act.length →
    (if load then s3 = s2 else srcV d (8 * 2 ^ esz) act false s2 = .ok (vs, s3)) → s3.unit.pre = none →
    let addr (j : Nat) : Word := Spec.addr s3 a (signedOf (8 * 2 ^ esz) (idx.getD j 0) * (if c = 1 then 2 ^ esz else 1))
    checkElems (Spec.elements act addr) esz load s3 = .error (.trap f) → Spec.Raises i s s1 f)

/-- An element of a stream that faults raises its cause with the port and its position, as it stood before the unit with the elements the
unit has taken before it; so does the word that pops or pushes it (R117, R139). -/
def Sys2Proof.Spec.StreamAccessFaults : Prop :=
  (∀ (s : State) (code pos v : Nat) (b : Stream), Spec.Ordered s →
    (b.pos < b.total ∧ pos = b.pos) ∨ (b.pos = b.total ∧ b.wrap = true ∧ 0 < b.total ∧ pos = 0) →
    let w := (mget s.unit.walked code).getD (b.pos, 0)
    let at_ (f : Trap) : Stop := .trap { f with portc := some code, ev := true, info2 := BitVec.ofNat 64 (w.1 + w.2) }
    (∀ f, checkAccess (b.elemAddr pos) (2 ^ b.sz) (2 ^ b.sz) .read .load s = .error (.trap f) → popStream code b s = .error (at_ f)) ∧
    (∀ pa s1, checkAccess (b.elemAddr pos) (2 ^ b.sz) (2 ^ b.sz) .read .load s = .ok (pa, s1) →
      s1.before.viewPoison s1.fs pa (2 ^ b.sz) = true →
      popStream code b s = .error (at_ (Spec.fault .dataPoison .read 0 (b.elemAddr pos)))) ∧
    (∀ f, checkAccess (b.elemAddr pos) (2 ^ b.sz) (2 ^ b.sz) .write .store s = .error (.trap f) →
      pushStream code b v s = .error (at_ f))) ∧
  (∀ (o : AluOp) (b a d : BitVec 7) (s s1 s2 s3 : State) (x y : Word) (f : Trap), s.Opens (o.instr b a d) s1 →
    (srcA a s1 = .error (.trap f) → Spec.Raises (o.instr b a d) s s1 f) ∧
    (srcA a s1 = .ok (x, s2) → srcA b s2 = .error (.trap f) → Spec.Raises (o.instr b a d) s s1 f) ∧
    (srcA a s1 = .ok (x, s2) → srcA b s2 = .ok (y, s3) → dstA d (Spec.alu o x y) s3 = .error (.trap f) →
      Spec.Raises (o.instr b a d) s s1 f))

/-- R117, R20, R123, R128 to R130, R139, R162: an access whose address is not aligned raises MISALIGNED; one whose translation fails, the cause
of that; one that reaches where its kind may not, PAGE_PROTECTION; one that reads poison, DATA_POISON; each with its address and its
access code, in this order, at its instruction, which has no other effect: for scalar loads and stores, multiple ones, atomics, edge atomics,
reservations, vector accesses (with the index of the element) and elements of streams (with the port and the position).
What a peer part answers to a load is a free value (log entry 72); ACC = 11 of a reservation is the model's reading (60). -/
def Obligations.LoadsAndStoresFault : Prop :=
  Spec.AccessCheck ∧ Spec.ScalarAccessFaults ∧ Spec.VectorAccessFaults ∧ Spec.StreamAccessFaults

/-- Table 5.2 on values of w bits. -/
def Sys2Proof.Spec.amo (c w old v : Nat) : Nat :=
  let o := old % 2 ^ w
  let x := v % 2 ^ w
  match c with
  | 0 => (old + v) % 2 ^ w
  | 1 => o &&& x
  | 2 => o ||| x
  | 3 => o ^^^ x
  | 4 => if signedOf w o ≤ signedOf w x then o else x
  | 5 => if signedOf w x ≤ signedOf w o then o else x
  | 6 => if o ≤ x then o else x
  | 7 => if x ≤ o then o else x
  | 8 => x
  | _ => (fAdd (if w = 32 then fmtS else fmtD) .rn o x).1

/-- R126, R127, R118, R256: `amo`, `amof` and `cas` read the word as the thread sees it, write the result of Table 5.2, or of the
comparison, in one place with the read, and count in SC, or in LC with the old value sign-extended for D. -/
def Sys2Proof.Spec.OrdinaryAtomics : Prop :=
  (∀ (z : BitVec 2) (c : BitVec 4) (a d : BitVec 7) (s s1 s2 s3 : State) (pa old : Nat), s.Opens (.amo z c a d) s1 → s1.unit.pre = none →
    2 ≤ z.toNat → Spec.Atomically s1 false (Spec.addr s1 a 0) (2 ^ z.toNat) pa old s2 →
    uncounted (.atomic false) [s2.effFor pa (leBytes (2 ^ z.toNat)
      (Spec.amo c.toNat (8 * 2 ^ z.toNat) old (s1.getX d.toNat).toNat))] s2 = .ok ((), s3) →
    s3.th.stores.length < 63 → Spec.Completes (.amo z c a d) s (Spec.counted s3 [])) ∧
  (∀ (z : BitVec 2) (c : BitVec 4) (a d : BitVec 7) (s s1 s2 s3 : State) (pa old : Nat), s.Opens (.amof z c a d) s1 → s1.unit.pre = none →
    2 ≤ z.toNat → Spec.Atomically s1 true (Spec.addr s1 a 0) (2 ^ z.toNat) pa old s2 →
    uncounted (.atomic true) [s2.effFor pa (leBytes (2 ^ z.toNat)
      (Spec.amo c.toNat (8 * 2 ^ z.toNat) old (s1.getX d.toNat).toNat))] s2 = .ok ((), s3) →
    s3.th.loads.length < 63 →
    Spec.Completes (.amof z c a d) s (Spec.countedLoad s3 [.x d.toNat (Spec.extended true (8 * 2 ^ z.toNat) old) none])) ∧
  (∀ (z : BitVec 1) (b a d : BitVec 7) (s s1 s2 s3 : State) (pa old : Nat), s.Opens (.cas z b a d) s1 → s1.unit.pre = none →
    let n := 4 + 4 * z.toNat
    Spec.Atomically s1 true (Spec.addr s1 a 0) n pa old s2 →
    (old = (s1.getX d.toNat).toNat % 2 ^ (8 * n) →
      uncounted (.atomic true) [s2.effFor pa (leBytes n (s1.getX b.toNat).toNat)] s2 = .ok ((), s3)) →
    (old ≠ (s1.getX d.toNat).toNat % 2 ^ (8 * n) → casMissed pa n s2 = .ok ((), s3)) →
    s3.th.loads.length < 63 →
    Spec.Completes (.cas z b a d) s (Spec.countedLoad s3 [.x d.toNat (Spec.extended true (8 * n) old) none]))

/-- R128, R129: an edge atomic is checked and sent, and its thread leaves rotation with the request recorded; when its response is back
the unit completes, and `amof.e` writes the sign-extended old value; a poison response traps with DATA_POISON, a peer part's fault with its
cause (R342). -/
def Sys2Proof.Spec.EdgeAtomics : Prop :=
  ∀ (i : Instr) (ret : Bool) (z : BitVec 2) (c : BitVec 4) (a d : BitVec 7) (s s1 : State),
    i = (if ret then .amofE z c a d else .amoE z c a d) → s.Opens i s1 → s1.unit.pre = none →
    (∀ pa s2, Spec.Unsent s1 → Spec.Ordered s1 →
      checkAccess (Spec.addr s1 a 0) (2 ^ z.toNat) (2 ^ z.toNat) .rmw .line s1 = .ok (pa, s2) →
      ∃ t, Spec.Completes i s t ∧ t.unit.park = some (.edgeWait pa (2 ^ z.toNat) c.toNat (s1.getX d.toNat).toNat ret) ∧
        t.th.edges = s2.th.edges + 1 ∧ t.rf = s2.rf ∧ t.mem = s2.mem) ∧
    (∀ h, s1.th.hold = some h → h.awaits = true → Spec.Waits i s h) ∧
    (∀ old, s1.th.hold = some (.edgeReply (.old old)) →
      Spec.Completes i s (if ret then s1.setX d.toNat (Spec.extended true (8 * 2 ^ z.toNat) old) else s1)) ∧
    (s1.th.hold = some (.edgeReply .poison) →
      Spec.Raises i s s1 { cause := .dataPoison, av := true, acc := 3, info1 := Spec.addr s1 a 0 }) ∧
    (∀ f, s1.th.hold = some (.edgeReply (.fault f)) →
      Spec.Raises i s s1 { cause := f, av := true, acc := 3, orig := 1, info1 := Spec.addr s1 a 0 })

/-- Atomic operations: the ordinary atomics, and the edge atomics. What a peer's memory holds is the model's own choice (log entry 37),
and nothing is taken before the unit while its answer is awaited (24). -/
def Obligations.AtomicOperations : Prop :=
  Spec.OrdinaryAtomics ∧ Spec.EdgeAtomics

/-- R130, R131, R133: `qres` joins the queue of its word's home and leaves rotation, traps with ILLEGAL_OPERAND while a reservation is
held, and when its value has come writes it, sign-extended for `.w`, or traps with DATA_POISON and BROKEN where the word's reservation
was broken, and with DATA_POISON where its data is poisoned; `qrel` writes the word at its place, clears the poison that a broken
reservation left, gives the reservation up and leaves rotation until it is acknowledged, and traps with ILLEGAL_OPERAND without the reservation it names.
ACC = 11 of the trap is the model's reading (log entry 60), and nothing is taken before the unit while its answer is awaited (24). -/
def Obligations.QueuedReservations : Prop :=
  (∀ (z : BitVec 1) (a d : BitVec 7) (s s1 : State), s.Opens (.qres z a d) s1 → s1.unit.pre = none →
    let n := 4 + 4 * z.toNat
    (∀ v, s1.th.hold = some (.qresReply v false) →
      Spec.Completes (.qres z a d) s (s1.setX d.toNat (Spec.extended true (8 * n) v.toNat))) ∧
    (∀ v, s1.th.hold = some (.qresReply v true) →
      Spec.Raises (.qres z a d) s s1 { cause := .dataPoison, av := true, acc := 3, broken := true, info1 := Spec.addr s1 a 0 }) ∧
    (s1.th.hold = some .qresPoison →
      Spec.Raises (.qres z a d) s s1 { cause := .dataPoison, av := true, acc := 3, info1 := Spec.addr s1 a 0 }) ∧
    (∀ h, s1.th.hold = some h → h.awaits = true → Spec.Waits (.qres z a d) s h) ∧
    (Spec.Unsent s1 → s1.th.resv ≠ none → Spec.Raises (.qres z a d) s s1 { cause := .illegalOperand }) ∧
    (∀ pa s2, Spec.Unsent s1 → s1.th.resv = none → resvAddr (Spec.addr s1 a 0) n .rmw s1 = .ok (pa, s2) →
      ∃ t, Spec.Completes (.qres z a d) s t ∧ t.unit.park = some (.qresWait pa n) ∧ t.rf = s2.rf ∧ t.mem = s2.mem ∧
        (mgetD t.homes pa ⟨[], false⟩).queue = (mgetD s2.homes pa ⟨[], false⟩).queue ++ [s2.fs])) ∧
  (∀ (z : BitVec 1) (a d : BitVec 7) (s s1 : State), s.Opens (.qrel z a d) s1 → s1.unit.pre = none →
    let n := 4 + 4 * z.toNat
    (s1.th.hold = some .qrelDone → Spec.Completes (.qrel z a d) s s1) ∧
    (∀ h, s1.th.hold = some h → h.awaits = true → Spec.Waits (.qrel z a d) s h) ∧
    (∀ pa s2, Spec.Unsent s1 → resvAddr (Spec.addr s1 a 0) n .write s1 = .ok (pa, s2) →
      (¬(∃ b v, s1.th.resv = some ⟨pa, n, b, v⟩) → Spec.Raises (.qrel z a d) s s1 { cause := .illegalOperand }) ∧
      (∀ b v s3, s1.th.resv = some ⟨pa, n, b, v⟩ → performNow [.write pa (leBytes n (s1.getX d.toNat).toNat)] s2 = .ok ((), s3) →
        ∃ t, Spec.Completes (.qrel z a d) s t ∧ t.unit.park = some (.qrelWait pa) ∧ t.th.resv = none ∧
          (b = true → t.poisoned (pa / 8) = false) ∧ (b = false → t.poison = s3.poison) ∧ t.mem = s3.mem ∧ t.rf = s3.rf)))

/-- R125, R91, R150, R153: `pf` asks the home for its line, in a writable state where its hint says so, and raises nothing: only what caches
hold may change; the hint words and `cut` change nothing but the program counter and the counts of instructions, `cut`
ending its chunk; `isync` discards the instruction words its thread fetched before.
Which checks `pf` makes, and that it leaves A bits and fetch counters alone, is the model's own choice (log entry 90). -/
def Sys2Proof.Spec.WordsWithoutEffect : Prop :=
  (∀ (o : BitVec 8) (z : BitVec 2) (a h : BitVec 7) (s s1 : State), s.Opens (.pf o z a h) s1 → s1.unit.pre = none →
    ∃ (c : List CohMsg) (hp : Map (Option Nat)) (l1 : Map Unit),
      Spec.Completes (.pf o z a h) s { s1 with coh := c, hostPart := hp, l1 := l1 } ∧
      ∀ x, s1.translate s1.th.vf s1.th.asid s1.th.level (Spec.addr s1 a (o.toInt * 2 ^ z.toNat)) .read = .ok x →
        let l := lineOf x.addr
        isPeer x.addr = false → s1.isRemote x.addr = false → cached l = true → s1.reservedLine l = false → s1.dieState l (dieOf s1.fs) = .i →
        (∀ m ∈ s1.coh, m.line ≠ l) → c = s1.coh ++ [⟨if h = 1 then .readm else .reads, dieOf s1.fs, l⟩]) ∧
  (∀ (h : BitVec 24) (k : BitVec 1) (s s1 : State), s.Opens (.hint h k) s1 → Spec.Completes (.hint h k) s s1) ∧
  (∀ s s1 : State, s.Opens .cut s1 → Spec.Completes .cut s s1) ∧
  (∀ s s1 : State, s.Opens .isync s1 → Spec.Completes .isync s (s1.setTh { s1.th with fetched := [] }))

/-! Streams, waits, monitors, chunk control and lines (R134 to R153). -/

/-- The binding that the descriptor in xa, xa + 1, … describes (R134, R135, Table 5.3). -/
def Sys2Proof.Spec.descriptor (s : State) (r w t : BitVec 1) (z : BitVec 2) (p : BitVec 5) (a : BitVec 7) : Stream :=
  let nd := (s.getX (a.toNat + 1)).toNat % 4 + 1
  { base := s.getX a.toNat
    dims := (List.range nd).map (fun i =>
      let d := s.getX (a.toNat + 2 + i)
      (d.toNat % 2 ^ 32, signedOf 32 (d.toNat / 2 ^ 32)))
    sz := z.toNat, write := decide (8 ≤ p.toNat ∧ p.toNat ≤ 11) || (decide (16 ≤ p.toNat) && r == 1)
    trap := t == 1, wrap := w == 1, pos := 0, endFlag := false, ahead := [] }

/-- R134, R135, R140, R141: `sopen` binds its port to the described stream at position 0 with the end flag clear, on the port's engine or
on a free one, PORT without one and ILLEGAL_OPERAND where the descriptor is not admitted; `sclose` takes the binding away; `sseek` sets the position and clears the
end flag, ILLEGAL_OPERAND above N or at N of a wrapping stream; `spos` reads the position.
The order of the checks of `sopen` is the model's own choice (log entry 40), and that `sclose` leaves a w port's channel bound its reading (78). -/
def Obligations.StreamBindings : Prop :=
  (∀ (r w t : BitVec 1) (z : BitVec 2) (p : BitVec 5) (a : BitVec 7) (s s1 : State), s.Opens (.sopen r w t z p a) s1 →
    s1.unit.pre = none →
    let b := Spec.descriptor s1 r w t z p a
    let hdr := s1.getX (a.toNat + 1)
    let ok := hdr.toNat / 4 = 0 ∧ a.toNat + 2 + b.dims.length ≤ s1.th.winLim ∧ b.total < 2 ^ 48
    (ok → ((s1.arch.stream p.toNat).isSome ∨ s1.engineFree = true) →
      Spec.Completes (.sopen r w t z p a) s (s1.setArch { s1.arch with ports := mput s1.arch.ports p.toNat (.stream b) })) ∧
    (ok → s1.arch.stream p.toNat = none → s1.engineFree = false →
      Spec.Raises (.sopen r w t z p a) s s1 { cause := .port, portc := some p.toNat }) ∧
    (¬ok → Spec.Raises (.sopen r w t z p a) s s1 { cause := .illegalOperand })) ∧
  (∀ (p : BitVec 5) (s s1 : State), s.Opens (.sclose p) s1 →
    ((s1.arch.stream p.toNat) = none → Spec.Completes (.sclose p) s s1) ∧
    ((s1.arch.stream p.toNat).isSome → ∃ t, Spec.Completes (.sclose p) s t ∧ t.arch.ports = mdel s1.arch.ports p.toNat ∧
      t.rf = s1.rf ∧ t.mem = s1.mem ∧ t.arch.vregs = s1.arch.vregs ∧ t.arch.k = s1.arch.k)) ∧
  (∀ (p : BitVec 5) (a : BitVec 7) (s s1 : State) (b : Stream), s.Opens (.sseek p a) s1 → s1.unit.pre = none →
    s1.arch.stream p.toNat = some b →
    let v := (s1.getX a.toNat).toNat
    let ok := v ≤ b.total ∧ ¬(v = b.total ∧ b.wrap = true ∧ 0 < b.total)
    (ok → Spec.Completes (.sseek p a) s (s1.setArch { s1.arch with
      ports := mput s1.arch.ports p.toNat (.stream { b with pos := v, endFlag := false, ahead := [] }) })) ∧
    (¬ok → Spec.Raises (.sseek p a) s s1 { cause := .illegalOperand })) ∧
  (∀ (p : BitVec 5) (d : BitVec 7) (s s1 : State) (b : Stream), s.Opens (.spos p d) s1 → s1.unit.pre = none →
    s1.arch.stream p.toNat = some b → Spec.Completes (.spos p d) s (s1.setX d.toNat (BitVec.ofNat 64 b.pos)))

/-- A counter satisfies an immediate of `wait`: 15 asks nothing (R142). -/
def Sys2Proof.Spec.waits (imm : BitVec 4) (n : Nat) : Prop := imm.toNat = 15 ∨ n ≤ imm.toNat

/-- The writes of the executing chunk for which `p` holds stand before whatever follows in the chunk (R163). -/
def Sys2Proof.Spec.fixed (s : State) (p : Entry → Bool) : State :=
  if s.isDirect then s
  else s.setTh (s.th.modLast (fun c => { c with log := c.log.map (fun e => if p e then { e with fixed := true } else e) }))

/-- R142 to R144, R163, R214: `wait` completes once every counter named stands at or below its immediate, and `fence` once LC and SC are
zero, `fence.e` when every edge write and edge atomic is acknowledged too; until then the slot is held and nothing else changes. What has
been waited for, and for `fence` every earlier write of the chunk, stands before what follows; nothing else changes. A `wait` that
requires a copy with a held fault takes that fault.
Which `wait` requires a copy follows R214 as it is written (log entry 21). -/
def Obligations.WaitsAndFences : Prop :=
  (∀ (m c z w : BitVec 4) (s s1 : State), s.Opens (.wait m c z w) s1 → s1.unit.pre = none →
    let met := Spec.waits w s1.th.loads.length ∧ Spec.waits z s1.th.stores.length ∧ Spec.waits c s1.th.copies.length ∧
      Spec.waits m s1.th.mats.length
    (met → s1.th.dueFault c = none → ∃ p, Spec.Completes (.wait m c z w) s (Spec.fixed s1 p) ∧
      ∀ k, s1.th.cur = some k → ∀ e, (p e = true ↔ match e.by_ with
        | .push _ => False
        | .atomic true => w.toNat ≠ 15 ∧ e.lc + w.toNat ≤ k.lcn
        | _ => z.toNat ≠ 15 ∧ e.sc + z.toNat ≤ k.scn)) ∧
    (met → ∀ f, s1.th.dueFault c = some f → Spec.Raises (.wait m c z w) s s1 f) ∧
    (¬met → Spec.Held (.wait m c z w) s .retry)) ∧
  (∀ s s1 : State, s.Opens .fence s1 → s1.unit.pre = none →
    (s1.th.loads = [] ∧ s1.th.drained = true →
      Spec.Completes .fence s (Spec.fixed s1 (fun e => decide (e.num ≤ s1.enteredOf s1.fs)))) ∧
    (¬(s1.th.loads = [] ∧ s1.th.drained = true) → Spec.Held .fence s .retry)) ∧
  (∀ s s1 : State, s.Opens .fenceE s1 → s1.unit.pre = none →
    (s1.th.loads = [] ∧ s1.th.drained = true ∧ s1.th.edges = 0 → Spec.Completes .fenceE s s1) ∧
    (¬(s1.th.loads = [] ∧ s1.th.drained = true ∧ s1.th.edges = 0) → Spec.Held .fenceE s .retry))

/-- The result word of a sleep (R145, Table 5.7): INT, TMO, WT and the hit bits. -/
def Sys2Proof.Spec.sleepResult (int tmo wt : Bool) (hits : Nat) : Word :=
  BitVec.ofNat 64 (64 * int.toNat + 32 * tmo.toNat + 16 * wt.toNat + hits)

/-- The timeout of a sleep is over: its cycle has come, or in a deterministic launch its entries are used up (R147, R299). -/
def Sys2Proof.Spec.over (s : State) (dl : Option Nat) : Prop := ∃ n, dl = some n ∧ (if s.th.det = true then n = 0 else n ≤ s.cycle)

/-- The timeout of a sleep whose operand is `x`: set at the first issue of its unit, kept at every later one (R147, R149, R299). -/
def Sys2Proof.Spec.Deadline (s : State) (x : Word) (first : Bool) (dl : Option Nat) : Prop :=
  (first = true ∧ (∀ w d, s.th.hold ≠ some (.sleep w d)) ∧
    dl = if x = 0 then none else some (if s.th.det = true then x.toNat else s.cycle + x.toNat)) ∨
  (first = false ∧ ∃ w, s.th.hold = some (.sleep w dl))

/-- R145 to R149: `mona` arms its monitor on the line and clears its hit bit; `monw` returns with the monitors hit, an
interrupt pending or its timeout over, clearing the hit bits it reports, or at once with 0 when no monitor is armed and no timeout is given, and
sleeps otherwise; `wsleep` returns with the ready bit set, an interrupt pending or its timeout over, clearing the ready bit, and sleeps
otherwise; `watch` sets the watch bit of a doubleword of the core's own scratchpad,
at once in direct mode and at the commit in a chunk, and traps with PAGE_PROTECTION elsewhere.
How faults of these are recorded is the model's reading (log entry 39), and that `monw` reports a pending interrupt with no monitor armed and
no timeout too (76); the permission of `watch` is its own choice (89). -/
def Obligations.MonitorsAndWatchBits : Prop :=
  (∀ (i : BitVec 10) (a : BitVec 7) (n : BitVec 2) (s s1 s2 : State) (pa : Nat), s.Opens (.mona i a n) s1 → s1.unit.pre = none →
    checkAccess (Spec.addr s1 a i.toInt) 1 1 .read .atomic s1 = .ok (pa, s2) →
    Spec.Completes (.mona i a n) s (s2.setTh { s2.th with mons := mput s2.th.mons n.toNat (pa / 128, false) })) ∧
  (∀ (a d : BitVec 7) (s s1 : State) (dl : Option Nat) (first tmo : Bool), s.Opens (.monw a d) s1 → s1.unit.pre = none →
    (∀ r, s1.th.hold ≠ some (.sleepDone r)) → Spec.Deadline s1 (s1.getX a.toNat) first dl → (tmo = true ↔ Spec.over s1 dl) →
    let finish (r : Word) : State :=
      (s1.setX d.toNat r).setTh { s1.th with mons := s1.th.mons.map (fun m => (m.1, m.2.1, m.2.2 && !r.toNat.testBit m.1)) }
    let none_ := first = true ∧ s1.th.mons = [] ∧ s1.getX a.toNat = 0
    (s1.th.hits ≠ 0 ∨ s1.th.intPending = true ∨ tmo = true →
      Spec.Completes (.monw a d) s (finish (Spec.sleepResult s1.th.intPending tmo false s1.th.hits))) ∧
    (s1.th.hits = 0 → s1.th.intPending = false → tmo = false →
      (none_ → Spec.Completes (.monw a d) s (finish 0)) ∧ (¬none_ → Spec.Waits (.monw a d) s (.sleep false dl)))) ∧
  (∀ (a d : BitVec 7) (s s1 : State) (r : Word), s.Opens (.monw a d) s1 → s1.unit.pre = none → s1.th.hold = some (.sleepDone r) →
    Spec.Completes (.monw a d) s
      ((s1.setX d.toNat r).setTh { s1.th with mons := s1.th.mons.map (fun m => (m.1, m.2.1, m.2.2 && !r.toNat.testBit m.1)) })) ∧
  (∀ (a d : BitVec 7) (s s1 : State) (dl : Option Nat) (first tmo : Bool), s.Opens (.wsleep a d) s1 → s1.unit.pre = none →
    (∀ r, s1.th.hold ≠ some (.sleepDone r)) → Spec.Deadline s1 (s1.getX a.toNat) first dl → (tmo = true ↔ Spec.over s1 dl) →
    (s1.th.ready = true ∨ s1.th.intPending = true ∨ tmo = true → Spec.Completes (.wsleep a d) s
      ((s1.setX d.toNat (Spec.sleepResult s1.th.intPending tmo s1.th.ready 0)).setTh { s1.th with ready := false })) ∧
    (s1.th.ready = false → s1.th.intPending = false → tmo = false → Spec.Waits (.wsleep a d) s (.sleep true dl))) ∧
  (∀ (a d : BitVec 7) (s s1 : State) (r : Word), s.Opens (.wsleep a d) s1 → s1.unit.pre = none → s1.th.hold = some (.sleepDone r) →
    Spec.Completes (.wsleep a d) s
      ((s1.setX d.toNat (r ||| Spec.sleepResult false false s1.th.ready 0)).setTh { s1.th with ready := false })) ∧
  (∀ (i : BitVec 10) (a : BitVec 7) (s s1 s2 : State) (pa : Nat), s.Opens (.watch i a) s1 → s1.unit.pre = none →
    checkAccess (Spec.addr s1 a i.toInt) 8 8 .read .line s1 = .ok (pa, s2) →
    let own := isSpad pa = true ∧ spadCore pa = coreOf s2.fs
    (own → s2.isDirect = true → Spec.Completes (.watch i a) s { s2 with watches := mput s2.watches (pa / 8) s2.fs }) ∧
    (own → s2.isDirect = false → ∃ t, Spec.Completes (.watch i a) s t ∧ t.watches = s2.watches ∧ t.rf = s2.rf ∧
      ∀ c, s2.th.chunks.getLast? = some c → ∃ c', t.th.chunks.getLast? = some c' ∧ c'.deferred = c.deferred ++ [.watch pa]) ∧
    (¬own → ∃ t, Spec.Raises (.watch i a) s s1 t ∧ t.cause = .pageProtection ∧ t.info1 = Spec.addr s1 a i.toInt))

/-- R150: `direct` sets STATUS.DIR and `resume` clears it, and nothing else changes; both trap with ILLEGAL_OPERAND in a deterministic
or ordered launch. -/
def Sys2Proof.Spec.DirectAndResume : Prop :=
  (∀ s s1 : State, s.Opens .direct s1 →
    (s1.th.det = false → s1.th.ord = false →
      Spec.Completes .direct s (s1.setArch { s1.arch with status := putBit s1.arch.status 12 true })) ∧
    (s1.th.det = true ∨ s1.th.ord = true → Spec.Raises .direct s s1 { cause := .illegalOperand })) ∧
  (∀ s s1 : State, s.Opens .resume s1 →
    (s1.th.det = false → s1.th.ord = false →
      Spec.Completes .resume s (s1.setArch { s1.arch with status := putBit s1.arch.status 12 false })) ∧
    (s1.th.det = true ∨ s1.th.ord = true → Spec.Raises .resume s s1 { cause := .illegalOperand }))

/-- Direct mode and hints: direct mode and its end, and the words without an effect of their own. -/
def Obligations.DirectModeAndHints : Prop :=
  Spec.DirectAndResume ∧ Spec.WordsWithoutEffect

/-- R151: `lock` writes true, and locks the line for the thread's partition, when the line is already the partition's or is unlocked and
there is room; false, and nothing changes, otherwise; an address of `lock` outside HBM traps with PAGE_PROTECTION; `unlock` removes the
partition's own lock and changes nothing else, on a line that is not so locked nothing. -/
def Sys2Proof.Spec.LineLocks : Prop :=
  (∀ (a : BitVec 7) (k : BitVec 3) (s s1 s2 : State) (pa : Nat), s.Opens (.lock a k) s1 → s1.unit.pre = none →
    checkAccess (Spec.addr s1 a 0) 1 1 .read .atomic s1 = .ok (pa, s2) →
    let l := pa / 128
    let p := s2.partOf s2.fs
    let put (t : State) (b : Bool) : State := t.setArch (t.arch.setK k.toNat (Spec.allBits b))
    (isHbm pa = true → mget s2.locks l = some p → Spec.Completes (.lock a k) s (put s2 true)) ∧
    (isHbm pa = true → ∀ q, mget s2.locks l = some q → q ≠ p → Spec.Completes (.lock a k) s (put s2 false)) ∧
    (isHbm pa = true → mget s2.locks l = none → s2.lockRoom l p = true →
      ∃ t, Spec.Completes (.lock a k) s (put t true) ∧ t.locks = mput s2.locks l p ∧ t.mem = s2.mem ∧ t.rf = s2.rf) ∧
    (isHbm pa = true → mget s2.locks l = none → s2.lockRoom l p = false → Spec.Completes (.lock a k) s (put s2 false)) ∧
    (isHbm pa = false → ∃ t, Spec.Raises (.lock a k) s s1 t ∧ t.cause = .pageProtection)) ∧
  (∀ (a : BitVec 7) (s s1 s2 : State) (pa : Nat), s.Opens (.unlock a) s1 → s1.unit.pre = none →
    (∃ x, s1.translate s1.th.vf s1.th.asid s1.th.level (Spec.addr s1 a 0) .read = .ok x) →
    xlatAt s1.th.level (Spec.addr s1 a 0) .read s1 = .ok (pa, s2) →
    (mget s2.locks (pa / 128) = some (s2.partOf s2.fs) →
      ∃ t, Spec.Completes (.unlock a) s t ∧ mget t.locks (pa / 128) = none ∧ t.mem = s2.mem ∧ t.rf = s2.rf) ∧
    (mget s2.locks (pa / 128) ≠ some (s2.partOf s2.fs) → Spec.Completes (.unlock a) s s2)) ∧
  (∀ (a : BitVec 7) (s s1 : State) (t : Trap), s.Opens (.unlock a) s1 → s1.unit.pre = none →
    s1.translate s1.th.vf s1.th.asid s1.th.level (Spec.addr s1 a 0) .read = .error (.trap t) → t.cause ≠ .pageProtection →
    Spec.Raises (.unlock a) s s1 t)

/-- R152, R153: `clean`, `inval` and `iflush` over a range of at most 2^30 bytes act on the cached copies of its lines and change no byte
of memory and no register: `clean` and `inval` count in SC; a length above 2^30 traps with ILLEGAL_OPERAND. -/
def Sys2Proof.Spec.CacheRanges : Prop :=
  (∀ (b a : BitVec 7) (s s1 s2 : State) (ls : List Nat), s.Opens (.clean b a) s1 → s1.unit.pre = none →
    (2 ^ 30 < (s1.getX b.toNat).toNat → Spec.Raises (.clean b a) s s1 { cause := .illegalOperand }) ∧
    (rangeOf a b s1 = .ok (ls, s2) → s2.th.stores.length < 63 →
      ∃ t, Spec.Completes (.clean b a) s t ∧ t.th.stores = s2.th.stores ++ [[]] ∧ t.mem = s2.mem ∧ t.rf = s2.rf ∧ t.arch = s2.arch ∧
        ∀ l ∈ ls, ∀ die < 4, t.dieState l die ≠ .m ∧ t.dieState l die ≠ .o)) ∧
  (∀ (b a : BitVec 7) (s s1 s2 : State) (ls : List Nat), s.Opens (.inval b a) s1 → s1.unit.pre = none →
    (2 ^ 30 < (s1.getX b.toNat).toNat → Spec.Raises (.inval b a) s s1 { cause := .illegalOperand }) ∧
    (rangeOf a b s1 = .ok (ls, s2) → s2.th.stores.length < 63 →
      ∃ t, Spec.Completes (.inval b a) s t ∧ t.th.stores = s2.th.stores ++ [[]] ∧ t.mem = s2.mem ∧ t.rf = s2.rf ∧ t.arch = s2.arch ∧
        ∀ l ∈ ls, mget s2.locks l = none → ∀ die < 4, t.dieState l die = .i)) ∧
  (∀ (b a : BitVec 7) (s s1 s2 : State) (ls : List Nat), s.Opens (.iflush b a) s1 → s1.unit.pre = none →
    (2 ^ 30 < (s1.getX b.toNat).toNat → Spec.Raises (.iflush b a) s s1 { cause := .illegalOperand }) ∧
    (rangeOf a b s1 = .ok (ls, s2) →
      ∃ t, Spec.Completes (.iflush b a) s t ∧ t.mem = s2.mem ∧ t.rf = s2.rf ∧
        ∀ l ∈ ls, mget t.icache (icKey (coreOf s2.fs) l) = none))

/-- Line locks and cache ranges: line locks, and cache ranges. How faults of cache and lock words are recorded is the model's reading
(log entry 39). -/
def Obligations.LineLocksAndCacheRanges : Prop :=
  Spec.LineLocks ∧ Spec.CacheRanges

/-! Vector instructions (R154 to R173). -/

/-- Results for the active elements alone (R155). -/
def Sys2Proof.Spec.onActive {α : Type} (act : List Bool) (rs : List α) : List (Option α) :=
  List.zipWith (fun b r => if b then some r else none) act rs

/-- Elements of w bits go to vector field d of the word i: what the write of the field leaves is what the unit leaves (R155). -/
def Sys2Proof.Spec.VWrites (i : Instr) (s s1 : State) (d : BitVec 5) (w : Nat) (vs : List (Option Nat)) (adv : Bool) : Prop :=
  ∀ t, dstV d w vs adv s1 = .ok ((), t) → exec i s = .next (t.done i)

/-- The scalar operand of a vector word is read once; with no element below VL nothing is read (R155, R165). -/
def Sys2Proof.Spec.scalar (act : List Bool) (b : BitVec 7) (s : State) (y : Word) (t : State) : Prop :=
  if act = [] then y = 0 ∧ t = s else srcA b s = .ok (y, t)

/-- The words of Table 6.4 with two vector sources. -/
def Sys2Proof.Spec.vintWord (o : VOp) (z : BitVec 2) (v : BitVec 1) (m : BitVec 3) (b a d : BitVec 5) : Instr :=
  match o with
  | .vadd => .vadd z v m b a d
  | .vsub => .vsub z v m b a d
  | .vmul => .vmul z v m b a d
  | .vmulh => .vmulh z v m b a d
  | .vand => .vand z v m b a d
  | .vor => .vor z v m b a d
  | .vxor => .vxor z v m b a d
  | .vsll => .vsll z v m b a d
  | .vsrl => .vsrl z v m b a d
  | .vsra => .vsra z v m b a d
  | .vmin => .vmin z v m b a d
  | .vmax => .vmax z v m b a d
  | .vminu => .vminu z v m b a d
  | .vmaxu => .vmaxu z v m b a d

/-- R164, R165, R155: the integer operations read their sources for the active elements, A before B (a scalar B once), and write each
active element the operation's result, in every field form, with and without `.adv`. -/
def Sys2Proof.Spec.VectorIntegerOperations : Prop :=
  (∀ (o : VOp) (z : BitVec 2) (v : BitVec 1) (m : BitVec 3) (b a d : BitVec 5) (s s1 s2 s3 : State) (xs ys : List Nat),
    s.Opens (Spec.vintWord o z v m b a d) s1 → s1.unit.pre = none →
    let act := Spec.active s1 m z.toNat
    let w := 8 * 2 ^ z.toNat
    srcV a w act (v == 1) s1 = .ok (xs, s2) → srcV b w act (v == 1) s2 = .ok (ys, s3) →
    Spec.VWrites (Spec.vintWord o z v m b a d) s s3 d w (Spec.onActive act (List.zipWith (o.eval w) xs ys)) (v == 1)) ∧
  (∀ (i : Instr) (o : VOp) (z : BitVec 2) (m : BitVec 3) (b : BitVec 7) (a d : BitVec 5) (s s1 s2 s3 : State) (xs : List Nat) (y : Word),
    (i, o) = (.vaddX z m b a d, .vadd) ∨ (i, o) = (.vsllX z m b a d, .vsll) ∨ (i, o) = (.vsrlX z m b a d, .vsrl) ∨
      (i, o) = (.vsraX z m b a d, .vsra) →
    s.Opens i s1 → s1.unit.pre = none →
    let act := Spec.active s1 m z.toNat
    let w := 8 * 2 ^ z.toNat
    srcV a w act false s1 = .ok (xs, s2) → Spec.scalar act b s2 y s3 →
    Spec.VWrites i s s3 d w (Spec.onActive act (xs.map (fun x => o.eval w x (y.toNat % 2 ^ w)))) false)

/-- R53, R164: the result of each integer operation on elements of 8, 16, 32 and 64 bits is that of w-bit arithmetic; a shift uses the
amount modulo w. -/
def Sys2Proof.Spec.VectorIntegerResults : Prop :=
  ∀ (w a b : Nat), w = 8 ∨ w = 16 ∨ w = 32 ∨ w = 64 → a < 2 ^ w → b < 2 ^ w →
    let x := BitVec.ofNat w a
    let y := BitVec.ofNat w b
    VOp.vadd.eval w a b = (x + y).toNat ∧ VOp.vsub.eval w a b = (x - y).toNat ∧ VOp.vmul.eval w a b = (x * y).toNat ∧
    VOp.vmulh.eval w a b = (BitVec.ofInt w (x.toInt * y.toInt / 2 ^ w)).toNat ∧
    VOp.vand.eval w a b = (x &&& y).toNat ∧ VOp.vor.eval w a b = (x ||| y).toNat ∧ VOp.vxor.eval w a b = (x ^^^ y).toNat ∧
    VOp.vsll.eval w a b = (x <<< (b % w)).toNat ∧ VOp.vsrl.eval w a b = (x >>> (b % w)).toNat ∧
    VOp.vsra.eval w a b = (x.sshiftRight (b % w)).toNat ∧
    VOp.vmin.eval w a b = (if x.sle y then x else y).toNat ∧ VOp.vmax.eval w a b = (if x.sle y then y else x).toNat ∧
    VOp.vminu.eval w a b = (if x.ule y then x else y).toNat ∧ VOp.vmaxu.eval w a b = (if x.ule y then y else x).toNat

/-- Vector integer instructions: what the words do with the elements, and the elements the tables give. -/
def Obligations.VectorIntegerInstructions : Prop :=
  Spec.VectorIntegerOperations ∧ Spec.VectorIntegerResults

/-- R154: an element of 8, 16, 32 or 64 bits written to a v register reads back, and every other element and every other register keeps
its value. -/
def Sys2Proof.Spec.VectorElementsReadBack : Prop :=
  ∀ (x : Arch) (w r q j k v : Nat), w = 8 ∨ w = 16 ∨ w = 32 ∨ w = 64 → r < 28 → q < 28 →
    (x.setVbits r (w * j) w v).vbits r (w * j) w = v % 2 ^ w ∧
    (k ≠ j → (x.setVbits r (w * j) w v).vbits r (w * k) w = x.vbits r (w * k) w) ∧
    (q ≠ r → (x.setVbits r (w * j) w v).vbits q (w * k) w = x.vbits q (w * k) w) ∧
    (x.setVbits r (w * j) w v).k = x.k ∧ (x.setVbits r (w * j) w v).ports = x.ports

/-- The flags of the active elements together (R68). -/
def Sys2Proof.Spec.orFlags {α : Type} (act : List Bool) (rs : List (α × FFlags)) : FFlags :=
  ((act.zip rs).filter (fun p => p.1)).foldl (fun acc p => acc ||| p.2.2) 0

/-- Floating-point results with flags go to a vector field: with no active element's flag enabled the flags become sticky and the
results are written; else ARITH is raised, naming the flags and the lowest index that raised an enabled one (R68, R69). -/
def Sys2Proof.Spec.VFloat (i : Instr) (s s1 s2 : State) (act : List Bool) (d : BitVec 5) (w : Nat) (rs : List (Nat × FFlags)) (adv : Bool) : Prop :=
  ((∀ p ∈ act.zip rs, p.1 = true → Spec.trapping s2 p.2.2 = 0) →
    Spec.VWrites i s (Spec.withFlags s2 (Spec.orFlags act rs)) d w (Spec.onActive act (rs.map (·.1))) adv) ∧
  (∀ j r, (act.zip rs)[j]? = some (true, r) → Spec.trapping s2 r.2 ≠ 0 →
    (∀ k < j, ∀ q, (act.zip rs)[k]? = some (true, q) → Spec.trapping s2 q.2 = 0) →
    Spec.Raises i s s1 { cause := .arith, afl := Spec.orFlags act rs, ev := true, info2 := BitVec.ofNat 64 j })

/-- Log of the element size of a float SZ code: 16 bits for codes 0 and 1, 32 for 2, 64 for 3 (Table 3.6). -/
def Sys2Proof.Spec.floatLog (z : BitVec 2) : Nat := if z.toNat ≤ 1 then 1 else z.toNat

/-- The words of R164 with two floating-point vector sources. -/
def Sys2Proof.Spec.vfpWord (o : FpOp) (z : BitVec 2) (v : BitVec 1) (m : BitVec 3) (b a d : BitVec 5) : Instr :=
  match o with
  | .fadd => .vfadd z v m b a d
  | .fsub => .vfsub z v m b a d
  | .fmul => .vfmul z v m b a d
  | .fdiv => .vfdiv z v m b a d
  | .fmin => .vfmin z v m b a d
  | .fmax => .vfmax z v m b a d

/-- R164, R165, R68, R69: the floating-point operations act on each active element with FCTL's rounding, `vffma` and its scalar form on
VD too, the scalar forms on the low bits of a register read once. -/
def Obligations.VectorFloatOperations : Prop :=
  (∀ (o : FpOp) (z : BitVec 2) (v : BitVec 1) (m : BitVec 3) (b a d : BitVec 5) (s s1 s2 s3 : State) (xs ys : List Nat),
    s.Opens (Spec.vfpWord o z v m b a d) s1 → s1.unit.pre = none →
    let act := Spec.active s1 m (Spec.floatLog z)
    let w := 8 * 2 ^ Spec.floatLog z
    srcV a w act (v == 1) s1 = .ok (xs, s2) → srcV b w act (v == 1) s2 = .ok (ys, s3) →
    Spec.VFloat (Spec.vfpWord o z v m b a d) s s1 s3 act d w (List.zipWith (o.eval (Fmt.ofSz z.toNat) (Spec.rm s3)) xs ys) (v == 1)) ∧
  (∀ (i : Instr) (o : FpOp) (z : BitVec 2) (m : BitVec 3) (b : BitVec 7) (a d : BitVec 5) (s s1 s2 s3 : State) (xs : List Nat) (y : Word),
    (i, o) = (.vfaddX z m b a d, .fadd) ∨ (i, o) = (.vfmulX z m b a d, .fmul) → s.Opens i s1 → s1.unit.pre = none →
    let f := Fmt.ofSz z.toNat
    let act := Spec.active s1 m (Spec.floatLog z)
    let w := 8 * 2 ^ Spec.floatLog z
    srcV a w act false s1 = .ok (xs, s2) → Spec.scalar act b s2 y s3 →
    Spec.VFloat i s s1 s3 act d w (xs.map (fun x => o.eval f (Spec.rm s3) x (y.toNat % 2 ^ f.width))) false) ∧
  (∀ (z : BitVec 2) (v : BitVec 1) (m : BitVec 3) (b a d : BitVec 5) (s s1 s2 s3 s4 : State) (xs ys ds : List Nat),
    s.Opens (.vffma z v m b a d) s1 → s1.unit.pre = none →
    let act := Spec.active s1 m (Spec.floatLog z)
    let w := 8 * 2 ^ Spec.floatLog z
    srcV a w act (v == 1) s1 = .ok (xs, s2) → srcV b w act (v == 1) s2 = .ok (ys, s3) → srcV d w act false s3 = .ok (ds, s4) →
    Spec.VFloat (.vffma z v m b a d) s s1 s4 act d w
      (((xs.zip ys).zip ds).map (fun p => fFma (Fmt.ofSz z.toNat) (Spec.rm s4) p.1.1 p.1.2 p.2)) false) ∧
  (∀ (z : BitVec 2) (m : BitVec 3) (b : BitVec 7) (a d : BitVec 5) (s s1 s2 s3 s4 : State) (xs ds : List Nat) (y : Word),
    s.Opens (.vffmaX z m b a d) s1 → s1.unit.pre = none →
    let f := Fmt.ofSz z.toNat
    let act := Spec.active s1 m (Spec.floatLog z)
    let w := 8 * 2 ^ Spec.floatLog z
    srcV a w act false s1 = .ok (xs, s2) → Spec.scalar act b s2 y s3 → srcV d w act false s3 = .ok (ds, s4) →
    Spec.VFloat (.vffmaX z m b a d) s s1 s4 act d w
      ((xs.zip ds).map (fun p => fFma f (Spec.rm s4) p.1 (y.toNat % 2 ^ f.width) p.2)) false) ∧
  (∀ (z : BitVec 2) (v : BitVec 1) (m : BitVec 3) (a d : BitVec 5) (s s1 s2 : State) (xs : List Nat),
    s.Opens (.vfsqrt z v m a d) s1 → s1.unit.pre = none →
    let act := Spec.active s1 m (Spec.floatLog z)
    let w := 8 * 2 ^ Spec.floatLog z
    srcV a w act (v == 1) s1 = .ok (xs, s2) →
    Spec.VFloat (.vfsqrt z v m a d) s s1 s2 act d w (xs.map (fun x => fSqrt (Fmt.ofSz z.toNat) (Spec.rm s2) x)) (v == 1))

/-- A predicate whose low bits are given and whose other bits are clear (R23). -/
def Sys2Proof.Spec.predicate (bs : List Bool) : BitVec 2048 := BitVec.ofNat 2048 ((bs.map Bool.toNat).foldr (fun b n => b + 2 * n) 0)

/-- R166, R167, R155, R23: the compares write bits below VL of their predicate, zero for inactive elements, and clear the rest; `vsel`
chooses by the predicate; `vperm` and `vslide` take elements by index and give zero outside; `vcomp` moves the active elements to the
front and zeroes the rest of a v register; `vbcast` writes a scalar to each active element; `vext` writes one element, sign-extended, to
a register. -/
def Obligations.VectorComparesAndMoves : Prop :=
  (∀ (z : BitVec 2) (c m : BitVec 3) (b a : BitVec 5) (k : BitVec 3) (s s1 s2 s3 : State) (xs ys : List Nat),
    s.Opens (.vcmp z c m b a k) s1 → s1.unit.pre = none →
    let act := Spec.active s1 m z.toNat
    let w := 8 * 2 ^ z.toNat
    srcV a w act false s1 = .ok (xs, s2) → srcV b w act false s2 = .ok (ys, s3) →
    act.length ≤ 2048 → xs.length = act.length → ys.length = act.length →
    Spec.Completes (.vcmp z c m b a k) s (s3.setArch (s3.arch.setK k.toNat
      (Spec.predicate (List.zipWith (fun b r => b && r) act (List.zipWith (fun x y => intCond c.toNat w x y) xs ys)))))) ∧
  (∀ (z : BitVec 2) (c m : BitVec 3) (b a : BitVec 5) (k : BitVec 3) (s s1 s2 s3 : State) (xs ys : List Nat),
    s.Opens (.vfcmp z c m b a k) s1 → s1.unit.pre = none →
    let act := Spec.active s1 m (Spec.floatLog z)
    let w := 8 * 2 ^ Spec.floatLog z
    srcV a w act false s1 = .ok (xs, s2) → srcV b w act false s2 = .ok (ys, s3) →
    act.length ≤ 2048 → xs.length = act.length → ys.length = act.length →
    let rs := List.zipWith (fun x y => fCond (Fmt.ofSz z.toNat) c.toNat x y) xs ys
    (∀ p ∈ act.zip rs, p.1 = true → Spec.trapping s3 p.2.2 = 0) →
    let t := Spec.withFlags s3 (Spec.orFlags act rs)
    Spec.Completes (.vfcmp z c m b a k) s (t.setArch (t.arch.setK k.toNat
      (Spec.predicate (List.zipWith (fun b r => b && r.1) act rs))))) ∧
  (∀ (z : BitVec 2) (m : BitVec 3) (b a d : BitVec 5) (s s1 s2 s3 : State) (xs ys : List Nat),
    s.Opens (.vsel z m b a d) s1 → s1.unit.pre = none →
    let act := Spec.active s1 m z.toNat
    let all := act.map (fun _ => true)
    let w := 8 * 2 ^ z.toNat
    srcV a w all false s1 = .ok (xs, s2) → srcV b w all false s2 = .ok (ys, s3) →
    Spec.VWrites (.vsel z m b a d) s s3 d w
      (Spec.onActive all ((act.zip (xs.zip ys)).map (fun p => if p.1 then p.2.1 else p.2.2))) false) ∧
  (∀ (z : BitVec 2) (m : BitVec 3) (b a d : BitVec 5) (s s1 s2 s3 : State) (xs js : List Nat),
    s.Opens (.vperm z m b a d) s1 → s1.unit.pre = none →
    let act := Spec.active s1 m z.toNat
    let w := 8 * 2 ^ z.toNat
    srcV a w act false s1 = .ok (xs, s2) → srcV b w act false s2 = .ok (js, s3) →
    Spec.VWrites (.vperm z m b a d) s s3 d w (Spec.onActive act (js.map (fun j => xs.getD j 0))) false) ∧
  (∀ (z : BitVec 2) (m : BitVec 3) (a d : BitVec 5) (s s1 s2 : State) (xs : List Nat),
    s.Opens (.vcomp z m a d) s1 → s1.unit.pre = none →
    let act := Spec.active s1 m z.toNat
    let w := 8 * 2 ^ z.toNat
    srcV a w act false s1 = .ok (xs, s2) →
    let front := ((act.zip xs).filter (fun p => p.1)).map (fun p => p.2)
    Spec.VWrites (.vcomp z m a d) s s2 d w
      ((front ++ List.replicate (if d.toNat < 28 then act.length - front.length else 0) 0).map some) false) ∧
  (∀ (z : BitVec 2) (m : BitVec 3) (b : BitVec 7) (d : BitVec 5) (s s1 s2 : State) (y : Word),
    s.Opens (.vbcast z m b d) s1 → s1.unit.pre = none →
    let act := Spec.active s1 m z.toNat
    Spec.scalar act b s1 y s2 →
    let w := 8 * 2 ^ z.toNat
    Spec.VWrites (.vbcast z m b d) s s2 d w (act.map (fun b => if b then some (y.toNat % 2 ^ w) else none)) false) ∧
  (∀ (z : BitVec 2) (m : BitVec 3) (b : BitVec 7) (a d : BitVec 5) (s s1 s2 s3 : State) (xs : List Nat) (n : Word),
    s.Opens (.vslide z m b a d) s1 → s1.unit.pre = none →
    let act := Spec.active s1 m z.toNat
    let w := 8 * 2 ^ z.toNat
    srcV a w act false s1 = .ok (xs, s2) → Spec.scalar act b s2 n s3 →
    Spec.VWrites (.vslide z m b a d) s s3 d w (Spec.onActive act ((List.range act.length).map (fun j =>
      if n.toInt ≤ (j : Int) then xs.getD ((j : Int) - n.toInt).toNat 0 else 0))) false) ∧
  (∀ (z : BitVec 2) (b : BitVec 7) (a : BitVec 5) (d : BitVec 7) (s s1 s2 s3 : State) (xs : List Nat) (j : Word),
    s.Opens (.vext z b a d) s1 → s1.unit.pre = none →
    let act := Spec.active s1 0 z.toNat
    let w := 8 * 2 ^ z.toNat
    srcV a w act false s1 = .ok (xs, s2) → srcA b s2 = .ok (j, s3) →
    Spec.Writes (.vext z b a d) s s3 d (if j.toNat < act.length then BitVec.ofInt 64 (signedOf w (xs.getD j.toNat 0)) else 0))

/-- Log of the element size of a vector conversion code: a format below a byte counts as one (Table 3.6, R168). -/
def Sys2Proof.Spec.codeLog (c : Nat) : Nat :=
  if c = 1 ∨ c = 4 ∨ c = 5 then 1 else if c = 2 ∨ c = 6 then 2 else if c = 3 ∨ c = 7 then 3 else 0

/-- R168 to R173, R71, R72: conversions round each active element as their word names; `vred` and `vscan` sum or compare by the tree of
R71; the special functions and the counter generator act on each active element.
The `.s` results of the special functions are free within their bound (log entry 6); the flags of a result that rounds to zero are
the model's reading (22). -/
def Obligations.VectorConversionsReductionsFunctions : Prop :=
  (∀ (i : Instr) (r t m : BitVec 3) (v : BitVec 1) (c : BitVec 4) (a d : BitVec 5) (dst : Nat) (s s1 s2 : State) (xs : List Nat),
    (i, dst) = (.vcvt r t m v c a d, t.toNat) ∨ (i, dst) = (.vcvtNarrow r t m v c a d, 8 + t.toNat) → s.Opens i s1 → s1.unit.pre = none →
    let act := Spec.active s1 m (max (Spec.codeLog dst) (Spec.codeLog c.toNat))
    let sf := CFmt.ofVec c.toNat
    let df := CFmt.ofVec dst
    srcV a sf.width act (v == 1) s1 = .ok (xs, s2) →
    let mode := RMode.ofCode r.toNat (s2.arch.fctl.toNat % 8) 0
    Spec.VFloat i s s1 s2 act d df.width (xs.map (fun x => convert df sf mode (s2.arch.fctl.getLsbD 5) x)) (v == 1)) ∧
  (∀ (t : BitVec 4) (c : BitVec 2) (m : BitVec 3) (b a d : BitVec 5) (s s1 s2 s3 : State) (xs us : List Nat),
    s.Opens (.vcvtSr t c m b a d) s1 → s1.unit.pre = none →
    let act := Spec.active s1 m (max (Spec.codeLog t.toNat) (Spec.codeLog (4 + c.toNat)))
    let sf := CFmt.ofVec (4 + c.toNat)
    let df := CFmt.ofVec t.toNat
    srcV a sf.width act false s1 = .ok (xs, s2) → srcV b 16 (act.map (fun _ => true)) false s2 = .ok (us, s3) →
    Spec.VFloat (.vcvtSr t c m b a d) s s1 s3 act d df.width
      (List.zipWith (fun x u => convert df sf (.sr u) (s3.arch.fctl.getLsbD 5) x) xs us) false) ∧
  (∀ (z : BitVec 2) (o m : BitVec 3) (a d : BitVec 5) (s s1 s2 : State) (xs : List Nat),
    s.Opens (.vred z o m a d) s1 → s1.unit.pre = none →
    let esz := if o.toNat < 5 then z.toNat else Spec.floatLog z
    let act := Spec.active s1 m esz
    srcV a (8 * 2 ^ esz) act false s1 = .ok (xs, s2) →
    let r := redTree o.toNat z (Spec.rm s2) (Spec.onActive act xs)
    (∀ p ∈ r.2, Spec.trapping s2 p.2 = 0) →
    let t := Spec.withFlags s2 (r.2.foldl (fun acc p => acc ||| p.2) 0)
    (act = [] → Spec.Completes (.vred z o m a d) s t) ∧
    (act ≠ [] → Spec.VWrites (.vred z o m a d) s t d (8 * 2 ^ esz) [some r.1] false)) ∧
  (∀ (z : BitVec 2) (o m : BitVec 3) (a d : BitVec 5) (s s1 s2 : State) (xs : List Nat),
    s.Opens (.vscan z o m a d) s1 → s1.unit.pre = none →
    let esz := if o.toNat < 5 then z.toNat else Spec.floatLog z
    let act := Spec.active s1 m esz
    srcV a (8 * 2 ^ esz) act false s1 = .ok (xs, s2) →
    let vs := Spec.onActive act xs
    let node (j : Nat) : Nat × List (Nat × FFlags) := redTree o.toNat z (Spec.rm s2) (vs.take (j + 1))
    let rs := vs.zipIdx.map (fun p => if p.1.isSome then some (node p.2) else none)
    let fl := (rs.filterMap id).flatMap (fun r => r.2)
    (∀ p ∈ fl, Spec.trapping s2 p.2 = 0) →
    Spec.VWrites (.vscan z o m a d) s (Spec.withFlags s2 (fl.foldl (fun acc p => acc ||| p.2) 0)) d (8 * 2 ^ esz)
      (rs.map (fun r => r.map (fun x => x.1))) false) ∧
  (∀ (i : Instr) (fn : Nat) (z : BitVec 2) (m : BitVec 3) (a d : BitVec 5) (s s1 s2 : State) (xs : List Nat),
    (i, fn) ∈ [(.vexp2 z m a d, 0), (.vlog2 z m a d, 1), (.vrcp z m a d, 2), (.vrsqrt z m a d, 3), (.vsin z m a d, 4), (.vcos z m a d, 5)] →
    s.Opens i s1 → s1.unit.pre = none →
    let act := Spec.active s1 m (Spec.floatLog z)
    let w := 8 * 2 ^ Spec.floatLog z
    srcV a w act false s1 = .ok (xs, s2) →
    Spec.VFloat i s s1 s2 act d w (xs.map (fun x => special fn (Fmt.ofSz z.toNat) x)) false) ∧
  (∀ (m : BitVec 3) (b : BitVec 7) (a d : BitVec 5) (s s1 s2 s3 : State) (xs : List Nat) (seed : Word),
    s.Opens (.vrng m b a d) s1 → s1.unit.pre = none →
    let act := Spec.active s1 m 3
    srcV a 64 act false s1 = .ok (xs, s2) → Spec.scalar act b s2 seed s3 →
    Spec.VWrites (.vrng m b a d) s s3 d 64 (Spec.onActive act (xs.map (fun x => (arxGen seed (BitVec.ofNat 64 x)).toNat))) false)

/-- A claim of q lanes by a thread without a grant (R156, R159): outside a deterministic launch it gets those of the share that are free, in
whole multiples of 32, and the rest is its unmet demand; in one it gets all of them, waits while they are not free, and traps with CLAIM where
they are more than the share. -/
def Sys2Proof.Spec.Claims (i : Instr) (d : BitVec 7) (s s1 s2 : State) (q : Nat) : Prop :=
  (s2.th.det = false →
    let g := min q (s2.lanesFree s2.fs / 32 * 32)
    ∀ s3, setGrant g (q - g) s2 = .ok ((), s3) → Spec.Writes i s s3 d (BitVec.ofNat 64 g)) ∧
  (s2.th.det = true →
    (s2.laneShare s2.fs < q → Spec.Raises i s s1 { cause := .claim }) ∧
    (q ≤ s2.laneShare s2.fs → s2.lanesFree s2.fs < q → Spec.Held i s (.claim q)) ∧
    (q ≤ s2.laneShare s2.fs → q ≤ s2.lanesFree s2.fs → ∀ s3, setGrant q 0 s2 = .ok ((), s3) → Spec.Writes i s s3 d (BitVec.ofNat 64 q)))

/-- R156 to R159: `vclaim` without a grant claims the lanes its operand asks for, the multiple of 32 below it and at most 512, and writes the
grant; with one it traps with CLAIM. `vrenew` without a grant claims too; with one it keeps its lanes, outside a deterministic launch giving
back what is above the fair share while others wait and else growing as far as lanes are free, and in one it gets all it asks for, waits or
traps as a claim does. `vrel` gives every lane back; `vlen` writes VL. A new grant keeps the words of the lanes that are in both the old one and
it; every other lane reads as zero, so that a claim's lanes are all zero.
What a waiting claim of a deterministic launch consumes is the model's reading (log entry 45), and that a renewal there counts its own lanes as free (80). -/
def Sys2Proof.Spec.LaneClaims : Prop :=
  (∀ (a d : BitVec 7) (s s1 s2 : State) (x : Word), s.Opens (.vclaim a d) s1 → srcA a s1 = .ok (x, s2) →
    (s2.arch.grant ≠ 0 → Spec.Raises (.vclaim a d) s s1 { cause := .claim }) ∧
    (s2.arch.grant = 0 → Spec.Claims (.vclaim a d) d s s1 s2 (min x.toNat 512 / 32 * 32))) ∧
  (∀ (a d : BitVec 7) (s s1 s2 s3 : State) (x : Word), s.Opens (.vrenew a d) s1 → srcA a s1 = .ok (x, s2) →
    let q := min x.toNat 512 / 32 * 32
    let c := s2.arch.grant
    (c = 0 → Spec.Claims (.vrenew a d) d s s1 s2 q) ∧
    (c ≠ 0 → s2.th.det = false →
      let waiting := (s2.laneMates s2.fs).any (fun p => p.1 != s2.fs && p.2.a.unmet != 0)
      let g := if waiting = true ∧ s2.fairShare s2.fs < c then min q (s2.fairShare s2.fs) else min q ((c + s2.lanesFree s2.fs) / 32 * 32)
      setGrant g (q - g) s2 = .ok ((), s3) → Spec.Writes (.vrenew a d) s s3 d (BitVec.ofNat 64 g)) ∧
    (c ≠ 0 → s2.th.det = true →
      (s2.laneShare s2.fs < q → Spec.Raises (.vrenew a d) s s1 { cause := .claim }) ∧
      (q ≤ s2.laneShare s2.fs → c + s2.lanesFree s2.fs < q → Spec.Held (.vrenew a d) s (.claim (q - c))) ∧
      (q ≤ s2.laneShare s2.fs → q ≤ c + s2.lanesFree s2.fs → setGrant q 0 s2 = .ok ((), s3) →
        Spec.Writes (.vrenew a d) s s3 d (BitVec.ofNat 64 q)))) ∧
  (∀ s s1 : State, s.Opens .vrel s1 → ∃ t, Spec.Completes .vrel s t ∧ t.arch.grant = 0 ∧ t.arch.unmet = 0 ∧ t.arch.vregs = [] ∧
    t.arch.k = s1.arch.k ∧ t.rf = s1.rf ∧ t.mem = s1.mem) ∧
  (∀ (z : BitVec 2) (d : BitVec 7) (s s1 : State), s.Opens (.vlen z d) s1 →
    Spec.Writes (.vlen z d) s s1 d (BitVec.ofNat 64 (4 * s1.arch.grant / 2 ^ z.toNat))) ∧
  (∀ (s t : State) (g u : Nat), setGrant g u s = .ok ((), t) →
    t.arch.grant = g ∧ t.arch.unmet = u ∧ t.rf = s.rf ∧ t.mem = s.mem ∧
    (∀ r lane, r < 32 → lane < min g s.arch.grant → t.arch.laneWord r lane = s.arch.laneWord r lane) ∧
    (∀ r lane, r < 32 → min g s.arch.grant ≤ lane → t.arch.laneWord r lane = 0) ∧
    (s.arch.grant = 0 → ∀ r lane, r < 32 → t.arch.laneWord r lane = 0)) ∧
  ∀ (s : State) (g u : Nat), ∃ t, setGrant g u s = .ok ((), t)

/-- Vector registers and claims: vector elements as registers hold them, and lane claims. -/
def Obligations.VectorRegistersAndClaims : Prop :=
  Spec.VectorElementsReadBack ∧ Spec.LaneClaims

/-- A vector load of elements whose checks have left `s2` reads each of them as an access of its chunk finds it, and counts once in LC: with
the elements for its v register, or with those pushed to its w port. In direct mode a load to a w port reads one element at each issue of its
unit, and completes with the last (R119, R155, R161, R163, R298). -/
def Sys2Proof.Spec.LoadsElements (i : Instr) (s s2 : State) (act : List Bool) (esz : Nat) (d : BitVec 5) (adv : Bool) (pas : List (Nat × Nat)) : Prop :=
  ∀ s3, readLines (pas.flatMap (fun p => linesOf p.2 (2 ^ esz))).dedup s2 = .ok ((), s3) →
    let singly : Prop := 28 ≤ d.toNat ∧ s3.th.directMode = true ∧ s3.unit.outside = false
    let pushes (xs : List Nat) (u : State) : Prop :=
      ∀ v, dstV d (8 * 2 ^ esz) (act.zipIdx.map (fun p => if p.1 then mget ((pas.zip xs).map (fun q => (q.1.1, q.2))) p.2 else none)) adv u =
        .ok ((), v) → v.th.loads.length < 63 → Spec.Completes i s (Spec.countedLoad v [])
    (¬singly → ∀ s4 s5 xs, (if d.toNat < 28 then countReads pas.length else countEntries pas.length) s3 = .ok ((), s4) →
      pas.mapM (fun p => viewed .vector p.2 (2 ^ esz)) s4 = .ok (xs, s5) →
      (d.toNat < 28 → s5.th.loads.length < 63 → Spec.Completes i s (Spec.countedLoad s5
        [.elems d.toNat (8 * 2 ^ esz) ((pas.zip xs).map (fun q => (q.1.1, q.2))) (pas.map (fun p => p.2))])) ∧
      (28 ≤ d.toNat → pushes xs s5)) ∧
    (singly → ∀ xs, s3.gathered = xs →
      (pas = [] → xs = [] → pushes [] s3) ∧
      (∀ p x s4 s5, pas[xs.length]? = some p → viewed .vector p.2 (2 ^ esz) s3 = .ok (x, s4) →
        (xs.length + 1 < pas.length → Spec.Held i s (.gather (xs ++ [x]))) ∧
        (pas.length = xs.length + 1 → countEntries 1 s4 = .ok ((), s5) → pushes (xs ++ [x]) s5)))

/-- R160 to R163: the vector loads check every active element before they read any and count once in LC with the elements they read;
the vector stores check every active element, and count once in SC with each active element a singleton in ascending index: `vld` and
`vst` at consecutive elements, `vlds` and `vsts` at a stride, `vgat` and `vsct` at index elements.
That elements are read as the load issues, in the free order of a chunk's operations, is the model's own choice (log entries 23, 69, 85). -/
def Obligations.VectorLoadsAndStores : Prop :=
  (∀ (i : Instr) (m : BitVec 3) (a : BitVec 7) (d : BitVec 5) (adv : Bool) (esz : Nat) (addr : Nat → Word) (s s1 s2 : State)
      (pas : List (Nat × Nat)),
    s.Opens i s1 → s1.unit.pre = none →
    ((∃ o v z, i = .vld o v m a z d ∧ esz = z.toNat ∧ adv = (v == 1) ∧
        addr = fun j => addr57 (Spec.addr s1 a (o.toInt * 2 ^ z.toNat) + BitVec.ofNat 64 (2 ^ z.toNat * j)))) ∨
      (∃ b z, i = .vlds m b a z d ∧ esz = 2 + z.toNat ∧ adv = false ∧
        addr = fun j => addr57 (Spec.addr s1 a 0 + BitVec.ofNat 64 j * s1.getX b.toNat)) →
    checkElems (Spec.elements (Spec.active s1 m esz) addr) esz true s1 = .ok (pas, s2) →
    Spec.LoadsElements i s s2 (Spec.active s1 m esz) esz d adv pas) ∧
  (∀ (m : BitVec 3) (c : BitVec 1) (x : BitVec 5) (a : BitVec 7) (z : BitVec 1) (d : BitVec 5) (s s1 s2 s3 : State) (idx : List Nat)
      (pas : List (Nat × Nat)),
    s.Opens (.vgat m c x a z d) s1 → s1.unit.pre = none →
    let esz := 2 + z.toNat
    let act := Spec.active s1 m esz
    srcV x (8 * 2 ^ esz) act false s1 = .ok (idx, s2) → s2.unit.pre = none → idx.length = act.length →
    let addr (j : Nat) : Word := Spec.addr s2 a (signedOf (8 * 2 ^ esz) (idx.getD j 0) * (if c = 1 then 2 ^ esz else 1))
    checkElems (Spec.elements act addr) esz true s2 = .ok (pas, s3) →
    Spec.LoadsElements (.vgat m c x a z d) s s3 act esz d false pas) ∧
  (∀ (i : Instr) (m : BitVec 3) (a : BitVec 7) (d : BitVec 5) (adv : Bool) (esz : Nat) (addr : Nat → Word) (s s1 s2 s3 s4 : State)
      (vs : List Nat) (pas : List (Nat × Nat)),
    s.Opens i s1 → s1.unit.pre = none →
    ((∃ o v z, i = .vst o v m a z d ∧ esz = z.toNat ∧ adv = (v == 1) ∧
        addr = fun j => addr57 (Spec.addr s1 a (o.toInt * 2 ^ z.toNat) + BitVec.ofNat 64 (2 ^ z.toNat * j)))) ∨
      (∃ b z, i = .vsts m b a z d ∧ esz = 2 + z.toNat ∧ adv = false ∧
        addr = fun j => addr57 (Spec.addr s1 a 0 + BitVec.ofNat 64 j * s1.getX b.toNat)) →
    srcV d (8 * 2 ^ esz) (Spec.active s1 m esz) adv s1 = .ok (vs, s2) →
    checkElems (Spec.elements (Spec.active s1 m esz) addr) esz false s2 = .ok (pas, s3) →
    let effs := pas.map (fun p => s3.effFor p.2 (leBytes (2 ^ esz) (vs.getD p.1 0)))
    countSingles .vector (effs.map (fun e => [e])) ((effs.filter Eff.isRemote).flatMap Eff.items).dedup.length s3 = .ok ((), s4) →
    Spec.Completes i s s4) ∧
  (∀ (m : BitVec 3) (c : BitVec 1) (x : BitVec 5) (a : BitVec 7) (z : BitVec 1) (d : BitVec 5) (s s1 s2 s3 s4 s5 : State)
      (idx vs : List Nat) (pas : List (Nat × Nat)),
    s.Opens (.vsct m c x a z d) s1 → s1.unit.pre = none →
    let esz := 2 + z.toNat
    let act := Spec.active s1 m esz
    srcV x (8 * 2 ^ esz) act false s1 = .ok (idx, s2) → srcV d (8 * 2 ^ esz) act false s2 = .ok (vs, s3) → s3.unit.pre = none →
    idx.length = act.length →
    let addr (j : Nat) : Word := Spec.addr s3 a (signedOf (8 * 2 ^ esz) (idx.getD j 0) * (if c = 1 then 2 ^ esz else 1))
    checkElems (Spec.elements act addr) esz false s3 = .ok (pas, s4) →
    let effs := pas.map (fun p => s4.effFor p.2 (leBytes (2 ^ esz) (vs.getD p.1 0)))
    countSingles .vector (effs.map (fun e => [e])) ((effs.filter Eff.isRemote).flatMap Eff.items).dedup.length s4 = .ok ((), s5) →
    Spec.Completes (.vsct m c x a z d) s s5)

/-! Matrix and tile instructions (R179 to R207). -/

/-- The three sources of a matrix word, A before B before D; a source that the command does not have is zero (R92, R186). -/
def Sys2Proof.Spec.sources (a b d : Option (BitVec 7)) : M (Word × Word × Word) := do
  let one (f : Option (BitVec 7)) : M Word := match f with | some f => srcA f | none => pure 0
  let xa ← one a
  let xb ← one b
  let xd ← one d
  pure (xa, xb, xd)

/-- The words that enter the matrix unit as commands (Table 7.3, R186), with their A, B and D. -/
def Sys2Proof.Spec.matCommand (i : Instr) : Option (MatOp × Option (BitVec 7) × Option (BitVec 7) × Option (BitVec 7)) :=
  match i with
  | .mma f b a d => some (.mma f.toNat, some a, some b, some d)
  | .mmaNarrow f b a d => some (.mma (7 + f.toNat), some a, some b, some d)
  | .mmode a => some (.mmode, some a, none, none)
  | .mscale b a => some (.mscale, some a, some b, none)
  | .mbar => some (.mbar, none, none, none)
  | .mld b a d => some (.mld, some a, some b, some d)
  | .mzero d => some (.mzero, none, none, some d)
  | .mdrain f a d => some (.mdrain f.toNat, some a, none, some d)
  | .mtrans a d => some (.mtrans, some a, none, some d)
  | .mcpy a d => some (.mcpy, some a, none, some d)
  | _ => none

/-- R180, R186, R188: a command whose checks pass, with room in its sub-queue and fewer than 63 in MC, enters the sub-queue of its
partition at its end, waiting, with its descriptors and the matrix state it was checked against; it counts in MC; `mmode` and `mscale`
set the core's copy of the matrix state; no register, byte of memory or tile changes. With its sub-queue full the slot is held and
nothing happens; a failed check traps. -/
def Sys2Proof.Spec.MatrixCommandsEnterTheQueue : Prop :=
  ∀ (i : Instr) (op : MatOp) (a b d : Option (BitVec 7)) (s s1 s2 : State) (xa xb xd : Word),
    Spec.matCommand i = some (op, a, b, d) → s.Opens i s1 → Spec.sources a b d s1 = .ok ((xa, xb, xd), s2) →
    let q := mgetD s2.matq (s2.subq s2.fs) []
    (matChecks op xd xa xb s2 = .ok ((), s2) → q.length < s2.subqSize s2.fs → s2.th.mats.length < 63 →
      ∃ (t : State) (c : MatCmd), Spec.Completes i s t ∧ t.matq = mput s2.matq (s2.subq s2.fs) (q ++ [c]) ∧
        c.op = op ∧ c.xd = xd ∧ c.xa = xa ∧ c.xb = xb ∧ c.gs = s2.fs ∧ c.uid = s2.th.uid ∧ c.running = false ∧
        c.satf = s2.arch.fctl.getLsbD 5 ∧
        c.regs = (if op = .mmode then { s2.th.mat with mode := xa } else if op = .mscale then { s2.th.mat with sa := xa, sb := xb } else s2.th.mat) ∧
        t.th = { s2.th with mats := s2.th.mats ++ [(c.id, false)], mat := c.regs } ∧
        t.rf = s2.rf ∧ t.mem = s2.mem ∧ t.tiles = s2.tiles ∧ t.gregs = s2.gregs) ∧
    (matChecks op xd xa xb s2 = .ok ((), s2) → s2.subqSize s2.fs ≤ q.length →
      exec i s = .next ((s.endsBefore true false 1).holdUnit .matrix)) ∧
    (∀ t, matChecks op xd xa xb s2 = .error (.trap t) → Spec.Raises i s s1 t)

/-- R180, R196, R198, R205: `mbar` has no check; `mmode` admits 0 always, 1 with the aligned-group grant, and nothing else; a shape word of
`mld` holds 1 to 1,024 rows and a multiple of 16 from 16 to 2,048 bytes, its other bits zero, or the word traps. -/
def Sys2Proof.Spec.MatrixOperandChecks : Prop :=
  (∀ s : State, matChecks .mbar 0 0 0 s = .ok ((), s)) ∧
  (∀ (s : State) (xa : Word), matChecks .mmode 0 xa 0 s =
    if xa = 0 ∨ (xa = 1 ∧ s.aggGrant s.fs = true) then .ok ((), s) else .error (.trap { cause := .illegalOperand })) ∧
  (∀ (s : State) (xd xa xb : Word), ¬(1 ≤ bits xb 26 16 ∧ bits xb 26 16 ≤ 1024 ∧ bits xb 11 0 % 16 = 0 ∧ 16 ≤ bits xb 11 0 ∧
      bits xb 11 0 ≤ 2048 ∧ bits xb 63 27 = 0 ∧ bits xb 15 12 = 0) →
    matChecks .mld xd xa xb s = .error (.trap { cause := .illegalOperand })) ∧
  (∀ (s : State) (op : MatOp) (xd xa xb : Word), (∃ t, matChecks op xd xa xb s = .error (.trap t) ∧
      (t.cause = .illegalOperand ∨ t.cause = .pageProtection)) ∨ matChecks op xd xa xb s = .ok ((), s))

/-- Matrix commands are sent: the checks of the commands, and what a command that passes them does. -/
def Obligations.MatrixCommandsAreSent : Prop :=
  Spec.MatrixOperandChecks ∧ Spec.MatrixCommandsEnterTheQueue

/-- Byte k of tile row r of the executing slot's cluster (R179). -/
def Sys2Proof.Spec.tileByte (s : State) (r k : Nat) : Byte := mgetD s.tiles ((1024 * (s.fs / 512) + r) * 2048 + k) 0

/-- R198 to R200, R206: `mrd` writes the 8 bytes at an offset of the row A names, a multiple of 8 up to 2,040 or ILLEGAL_OPERAND; `mst`
counts once in SC and stores, for each of its rows in ascending order and as a singleton of its own, the first bytes of the source row at
the destination row's place in the scratchpad, once no remote store is on its way there. Neither changes a tile. A row that a running command locks holds the slot. -/
def Obligations.TileReadsAndStores : Prop :=
  (∀ (b a d : BitVec 7) (s s1 s2 : State) (xa xb xd : Word), s.Opens (.mrd b a d) s1 → s1.unit.pre = none →
    Spec.sources (some a) (some b) none s1 = .ok ((xa, xb, xd), s2) →
    let src : Region := { desc := xa, rows := 1, bytes := 2048, tile := true, spad := false }
    (¬(xb.toNat % 8 = 0 ∧ xb.toNat ≤ 2040) → Spec.Raises (.mrd b a d) s s1 { cause := .illegalOperand }) ∧
    (xb.toNat % 8 = 0 → xb.toNat ≤ 2040 → regionChecks [src] s2 = .ok ((), s2) →
      (rowsUnlocked src.tileRows s2 = .ok ((), s2) →
        (∀ k < 8, mget s2.tilePoison (tileKey (clusterOf s2.fs) (tdOff xa) (xb.toNat + k)) = none) →
        Spec.Writes (.mrd b a d) s s2 d
          (BitVec.ofNat 64 (leNat ((List.range 8).map (fun k => Spec.tileByte s2 (tdOff xa) (xb.toNat + k)))))) ∧
      (s2.rowLocked (clusterOf s2.fs) (tdOff xa) = true → Spec.Held (.mrd b a d) s .rows))) ∧
  (∀ (b a d : BitVec 7) (s s1 s2 t : State) (xa xb xd : Word), s.Opens (.mst b a d) s1 → s1.unit.pre = none →
    Spec.sources (some a) (some b) (some d) s1 = .ok ((xa, xb, xd), s2) →
    let src : Region := { desc := xa, rows := bits xb 26 16, bytes := bits xb 11 0, tile := true, spad := false }
    let dst : Region := { desc := xd, rows := bits xb 26 16, bytes := bits xb 11 0, tile := false, spad := true, write := true }
    let row (r : Nat) := tdOff xa + r * tdPitch xa
    let place (r : Nat) := spadAddr (8 * (s2.fs / 512) + tdCore xd) (tdOff xd + 16 * r * tdPitch xd)
    s2.regionPending (clusterOf s2.fs) dst = false → shapeOk xb = true → regionChecks [src, dst] s2 = .ok ((), s2) → rowsUnlocked src.tileRows s2 = .ok ((), s2) →
    (∀ r < bits xb 26 16, ∀ k < bits xb 11 0, mget s2.tilePoison (tileKey (clusterOf s2.fs) (row r) k) = none) →
    Spec.Ordered s2 →
    countSingles .vector ((List.range (bits xb 26 16)).map (fun r =>
      [.write (place r) ((List.range (bits xb 11 0)).map (Spec.tileByte s2 (row r)))])) 0 s2 = .ok ((), t) →
    Spec.Completes (.mst b a d) s t ∧ t.tiles = s2.tiles ∧ t.rf = s2.rf ∧ t.th.stores.length = s2.th.stores.length + 1)

/-! Copies, messages, channels and the reduction network (R211 to R222). -/

/-- The copy record of a `cpy` or `cpyw` begun in `s` (R211, R213). -/
def Sys2Proof.Spec.IsCopy (c : Copy) (s : State) (dst src len rec_ : Word) (wide : Bool) : Prop :=
  c.id = s.fresh ∧ c.combining = true ∧ c.wide = wide ∧ c.dst = dst ∧ c.src = src ∧ c.len = len.toNat ∧ c.record = rec_ ∧ c.done = 0 ∧ c.fault = none ∧ c.gs = s.fs ∧ c.uid = s.th.uid ∧
    c.level = s.th.level ∧ c.vf = s.th.vf ∧ c.asid = s.th.asid ∧ c.num = s.th.copyn ∧ (c.recorded = true ↔ rec_ = 0)

/-- A copy word with its operands: checked as R211 says, counted in CC, and given to the engine; nothing else changes (R26, R211). -/
def Sys2Proof.Spec.Copies (i : Instr) (s s1 : State) (dst src len rec_ : Word) (wide : Bool) : Prop :=
  (2 ^ 32 ≤ len.toNat → Spec.Raises i s s1 { cause := .illegalOperand }) ∧
  (len.toNat < 2 ^ 32 → rec_.toNat % 16 ≠ 0 →
    Spec.Raises i s s1 { cause := .misaligned, av := true, acc := 1, info1 := addr57 rec_ }) ∧
  (len.toNat < 2 ^ 32 → rec_.toNat % 16 = 0 → 63 ≤ s1.th.copies.length → Spec.Waits i s .retry) ∧
  (len.toNat < 2 ^ 32 → rec_.toNat % 16 = 0 → s1.th.copies.length < 63 →
    ∃ c, Spec.IsCopy c s1 dst src len rec_ wide ∧
      Spec.Completes i s ({ s1 with copies := s1.copies ++ [c], fresh := s1.fresh + 1 }.setTh
        { s1.th with copies := s1.th.copies ++ [(c.id, false)], copyn := s1.th.copyn + 1 }))

/-- R211: `cpy` and `cpyw` issue a copy of D bytes from B to A, the second with a completion record at the address in the register after
D; a length of 2^32 or more traps with ILLEGAL_OPERAND, a record address that is not a multiple of 16 with MISALIGNED and that address, its
low 57 bits sign-extended, in EINFO1 (R308); while CC is 63 the word waits. -/
def Sys2Proof.Spec.CopiesEnterTheEngine : Prop :=
  (∀ (b a d : BitVec 7) (s s1 : State), s.Opens (.cpy b a d) s1 → s1.unit.pre = none →
    Spec.Copies (.cpy b a d) s s1 (s1.getX a.toNat) (s1.getX b.toNat) (s1.getX d.toNat) 0 false) ∧
  (∀ (b a d : BitVec 7) (s s1 : State), s.Opens (.cpyw b a d) s1 → s1.unit.pre = none →
    Spec.Copies (.cpyw b a d) s s1 (s1.getX a.toNat) (s1.getX b.toNat) (s1.getX d.toNat) (s1.getX (d.toNat + 1)) true)

/-- R216, R217: `msend` to an admitted target takes one place of the total order and leaves a message with the payload in flight to the
target slot or channel; a target word that R216 rejects traps with ILLEGAL_OPERAND. -/
def Sys2Proof.Spec.MessagesAreSent : Prop :=
  ∀ (b a : BitVec 7) (s s1 : State), s.Opens (.msend b a) s1 → s1.unit.pre = none →
    let w := s1.getX a.toNat
    (s1.targetOk s1.fs w = false → Spec.Raises (.msend b a) s s1 { cause := .illegalOperand }) ∧
    (s1.targetOk s1.fs w = true → ∀ s2, performNow [] s1 = .ok ((), s2) →
      ∃ m : Msg, m.payload = s1.getX b.toNat ∧ m.word = w ∧ m.gs = s2.fs ∧ m.uid = s2.th.uid ∧ m.vf = s2.th.vf ∧ m.chan = bits w 33 18 ∧
        (bits w 63 62 = 1 → m.slot = none) ∧ (bits w 63 62 ≠ 1 → ∃ n, m.slot = some n) ∧
        Spec.Completes (.msend b a) s { s2 with msgs := s2.msgs ++ [m], fresh := s2.fresh + 1 })

/-- Copies and messages are sent: the commands of the copy engine, and messages. -/
def Obligations.CopiesAndMessagesAreSent : Prop :=
  Spec.CopiesEnterTheEngine ∧ Spec.MessagesAreSent

/-- R219: `chbind` binds a port to a channel of the core with an empty ring, or raises PORT, ILLEGAL_OPERAND or PAGE_PROTECTION in that
order and changes nothing; `chunbind` ends the binding, drops what a w port still holds and keeps p15's queue, and has no effect on an
unbound port. Which queue keeps what is the model's reading (log entry 77), and the order of the checks its choice (40). -/
def Sys2Proof.Spec.ChannelBindings : Prop :=
  (∀ (p : BitVec 5) (a : BitVec 7) (s s1 : State), s.Opens (.chbind p a) s1 → s1.unit.pre = none →
    let w := s1.getX a.toNat
    let k := 65536 * coreOf s1.fs + bits w 15 0
    let port := Spec.Raises (.chbind p a) s s1 { cause := .port, portc := some p.toNat }
    let admitted : Prop := bits w 63 42 = 0 ∧ bits w 19 16 = 0 ∧ bits w 15 0 ≠ 0 ∧ bits w 23 20 ≤ 12 ∧ bits w 41 24 % 8 = 0 ∧
      (bits w 23 20 = 0 ∨ bits w 41 24 + 8 * 2 ^ bits w 23 20 ≤ 262144)
    let unbound := mget s1.arch.ports p.toNat = none
    (¬unbound → port) ∧
    (unbound → ¬admitted → Spec.Raises (.chbind p a) s s1 { cause := .illegalOperand }) ∧
    (unbound → admitted → mget s1.chans k ≠ none → port) ∧
    (unbound → admitted → mget s1.chans k = none → s1.ringOwned s1.fs w = false →
      Spec.Raises (.chbind p a) s s1 { cause := .pageProtection, orig := 2 }) ∧
    (unbound → admitted → mget s1.chans k = none → s1.ringOwned s1.fs w = true →
      Spec.Completes (.chbind p a) s
        ({ s1 with chans := mput s1.chans k { gs := s1.fs, port := p.toNat, roff := bits w 41 24, rlog := bits w 23 20, head := 0, count := 0 } }.setArch
          { s1.arch with ports := mput s1.arch.ports p.toNat (.channel (bits w 15 0)) }))) ∧
  (∀ (p : BitVec 5) (s s1 : State), s.Opens (.chunbind p) s1 → s1.unit.pre = none →
    ((∀ n, mget s1.arch.ports p.toNat ≠ some (.channel n)) → Spec.Completes (.chunbind p) s s1) ∧
    (∀ n, mget s1.arch.ports p.toNat = some (.channel n) →
      ∃ t, Spec.Completes (.chunbind p) s t ∧ mget t.arch.ports p.toNat = none ∧ t.rf = s1.rf ∧ t.mem = s1.mem ∧
        (∀ c ∈ t.chans, ¬(c.2.gs = s1.fs ∧ c.2.port = p.toNat)) ∧ (p.toNat = 15 → t.th.p15 = s1.th.p15) ∧
        (p.toNat ≠ 15 → mget t.th.wq p.toNat = none)))

/-- R221, R222: `redcfg` makes the thread a node of a tree of its function, replacing its earlier node once that node's round has
delivered, and traps for a node word or a parent that is not admitted; `redc` leaves the thread's elements below VL as the contribution
of its node, waits while an earlier one has not delivered, and traps without a node. -/
def Sys2Proof.Spec.ReductionNodes : Prop :=
  (∀ (b a : BitVec 7) (s s1 : State), s.Opens (.redcfg b a) s1 → s1.unit.pre = none →
    let w := s1.getX a.toNat
    let p := s1.getX b.toNat
    let admitted : Prop := bits w 63 17 = 0 ∧ bits w 7 6 = 0 ∧
      (if w.getLsbD 16 then bits w 15 12 = 0 ∧ p = 0 else bits w 15 12 ≠ 0 ∧ tgKind p = 0 ∧ s1.targetOk s1.fs p = true)
    (¬admitted → Spec.Raises (.redcfg b a) s s1 { cause := .illegalOperand }) ∧
    (admitted → (∃ m, s1.nodeOf s1.th.uid (bits w 5 0) = some m ∧ (m.contrib ≠ none ∨ m.out ≠ none)) →
      Spec.Waits (.redcfg b a) s (.tree (bits w 5 0))) ∧
    (admitted → (∀ m, s1.nodeOf s1.th.uid (bits w 5 0) = some m → m.contrib = none ∧ m.out = none) →
      ∃ n : Node, n.uid = s1.th.uid ∧ n.gs = s1.fs ∧ n.tree = bits w 5 0 ∧ n.root = w.getLsbD 16 ∧ n.cix = bits w 15 12 ∧
        n.nch = bits w 11 8 ∧ n.contrib = none ∧ n.out = none ∧
        ∃ rest, (∀ m ∈ rest, m ∈ s1.nodes ∧ ¬(m.uid = n.uid ∧ m.tree = n.tree)) ∧
          Spec.Completes (.redcfg b a) s { s1 with nodes := rest ++ [n] })) ∧
  (∀ (c : BitVec 4) (o : BitVec 2) (a : BitVec 7) (d : BitVec 5) (s s1 : State), s.Opens (.redc c o a d) s1 → s1.unit.pre = none →
    let x := s1.getX a.toNat
    let esz := cfmtLog c.toNat
    (64 ≤ x.toNat → Spec.Raises (.redc c o a d) s s1 { cause := .illegalOperand }) ∧
    (x.toNat < 64 → s1.nodeOf s1.th.uid x.toNat = none → Spec.Raises (.redc c o a d) s s1 { cause := .illegalOperand }) ∧
    (∀ n, x.toNat < 64 → s1.nodeOf s1.th.uid x.toNat = some n → (n.contrib ≠ none ∨ n.out ≠ none) →
      Spec.Waits (.redc c o a d) s (.tree x.toNat)) ∧
    (∀ n, x.toNat < 64 → s1.nodeOf s1.th.uid x.toNat = some n → n.contrib = none → n.out = none →
      ∀ vs s2, srcV d (8 * 2 ^ esz) (List.replicate (vlOf s1.arch.grant esz) true) false s1 = .ok (vs, s2) →
        Spec.Completes (.redc c o a d) s { s2 with
          nodes := s2.nodes.map (fun m => if m.uid = n.uid ∧ m.tree = n.tree then { m with contrib := some (c.toNat, o.toNat, vs) } else m) }))

/-- Channel and reduction bindings: channel bindings, and reduction nodes. The order of the checks of `chbind` is the model's own choice
(log entry 40). -/
def Obligations.ChannelAndReductionBindings : Prop :=
  Spec.ChannelBindings ∧ Spec.ReductionNodes

/-! Tasks, forks, ready queues and slots (R223 to R231). -/

/-- R223, R224, R225, R226: in chunked mode `tspawn` and `fork` join the chunk's effects, to create their task or child at its commit, and
in direct mode they create it at once, `tspawn` where the task pool has room for one; `fork` writes the child's number to D and counts it; each traps with ILLEGAL_OPERAND where it is
not admitted; `join` waits for every child to exit; `tkey` writes the task's timestamp, or the words of the thread's path. -/
def Sys2Proof.Spec.TasksAndForks : Prop :=
  (∀ (b a d : BitVec 7) (s s1 : State), s.Opens (.tspawn b a d) s1 → s1.unit.pre = none →
    let entry := s1.getX a.toNat
    let ts := s1.getX b.toNat
    let x3 := s1.getX 3
    (s1.th.ord = false ∨ ts.toNat < s1.th.ts.toNat → Spec.Raises (.tspawn b a d) s s1 { cause := .illegalOperand }) ∧
    (s1.th.ord = true → s1.th.ts.toNat ≤ ts.toNat → entry.toNat % 4 ≠ 0 →
      Spec.Raises (.tspawn b a d) s s1 { cause := .misaligned, av := true, acc := 2, info1 := addr57 entry }) ∧
    (s1.th.ord = true → s1.th.ts.toNat ≤ ts.toNat → entry.toNat % 4 = 0 →
      (s1.isDirect = true → s1.poolRoom s1.fs 1 = false → exec (.tspawn b a d) s =
        .next ((s.endsBefore (s.standsOutside [.tspawn b a d]) false 1).holdUnit .turn)) ∧
      (s1.isDirect = true → s1.poolRoom s1.fs 1 = true →
        Spec.Completes (.tspawn b a d) s (s1.addTask s1.fs (addr57 entry) ts (s1.getX d.toNat) x3)) ∧
      (s1.isDirect = false → Spec.Completes (.tspawn b a d) s (s1.setTh (s1.th.modLast (fun c =>
        { c with deferred := c.deferred ++ [.tspawn (addr57 entry) ts (s1.getX d.toNat) x3] })))))) ∧
  (∀ (b a d : BitVec 7) (s s1 : State), s.Opens (.fork b a d) s1 → s1.unit.pre = none →
    let c := s1.arch.forks
    let entry := addr57 (s1.getX a.toNat)
    let arg := s1.getX b.toNat
    let s2 := s1.setArch { s1.arch with forks := c + 1 }
    (255 ≤ c ∨ s1.th.ord = true ∨ 64 ≤ s1.th.path.length → Spec.Raises (.fork b a d) s s1 { cause := .illegalOperand }) ∧
    (c < 255 → s1.th.ord = false → s1.th.path.length < 64 →
      (s1.isDirect = true → Spec.Completes (.fork b a d) s
        ((s2.addChild s2.fs c entry arg (s1.getX 3)).setX d.toNat (BitVec.ofNat 64 c))) ∧
      (s1.isDirect = false → Spec.Completes (.fork b a d) s
        ((s2.setTh (s2.th.modLast (fun k => { k with deferred := k.deferred ++ [.fork c entry arg (s1.getX 3)] }))).setX d.toNat
          (BitVec.ofNat 64 c))))) ∧
  (∀ s s1 : State, s.Opens .join s1 →
    (s1.childrenLeft s1.th.uid = true → Spec.Waits .join s .join) ∧
    (s1.childrenLeft s1.th.uid = false → Spec.Completes .join s (s1.setTh { s1.th with ent := max s1.th.ent s1.th.joined }))) ∧
  (∀ (a d : BitVec 7) (s s1 : State), s.Opens (.tkey a d) s1 → s1.unit.pre = none →
    let x := (s1.getX a.toNat).toNat
    let level (k : Nat) : Nat := s1.th.path.getD k 0
    let word (k : Nat) : Nat := ((List.range 8).map (fun j => level (k + j) * 2 ^ (8 * j))).sum
    (s1.th.ord = true → x ≠ 0 → Spec.Raises (.tkey a d) s s1 { cause := .illegalOperand }) ∧
    (s1.th.ord = true → x = 0 → Spec.Completes (.tkey a d) s (s1.setX d.toNat s1.th.ts)) ∧
    (s1.th.ord = false → 8 < x → Spec.Raises (.tkey a d) s s1 { cause := .illegalOperand }) ∧
    (s1.th.ord = false → x = 0 → Spec.Completes (.tkey a d) s (s1.setX d.toNat
      (BitVec.ofNat 64 (s1.th.path.length * 2 ^ 56 + ((List.range 7).map (fun j => level j * 2 ^ (8 * j))).sum)))) ∧
    (s1.th.ord = false → 1 ≤ x → x ≤ 8 → Spec.Completes (.tkey a d) s (s1.setX d.toNat (BitVec.ofNat 64 (word (8 * (x - 1)))))))

/-- R227: `rqput` puts a non-zero record at the end of its priority of the ready queue of the thread's partition on its core, waiting while
64 entries stand there; `rqtake` takes the oldest entry of the highest priority that its mask names, priority 0 the highest, and writes
zero where there is none. -/
def Sys2Proof.Spec.ReadyQueues : Prop :=
  (∀ (b a : BitVec 7) (s s1 : State), s.Opens (.rqput b a) s1 → s1.unit.pre = none →
    let r := s1.getX a.toNat
    let p := (s1.getX b.toNat).toNat
    let q := mgetD s1.rqs (s1.subq s1.fs) []
    (r = 0 ∨ 3 < p → Spec.Raises (.rqput b a) s s1 { cause := .illegalOperand }) ∧
    (r ≠ 0 → p ≤ 3 → 64 ≤ q.length → Spec.Waits (.rqput b a) s .turn) ∧
    (r ≠ 0 → p ≤ 3 → q.length < 64 →
      Spec.Completes (.rqput b a) s { s1 with rqs := mput s1.rqs (s1.subq s1.fs) (q ++ [(p, r)]) })) ∧
  (∀ (b d : BitVec 7) (s s1 : State), s.Opens (.rqtake b d) s1 → s1.unit.pre = none →
    let m := s1.getX b.toNat
    let q := mgetD s1.rqs (s1.subq s1.fs) []
    (16 ≤ m.toNat → Spec.Raises (.rqtake b d) s s1 { cause := .illegalOperand }) ∧
    (m.toNat < 16 → (∀ e ∈ q, e.1 < 4 → m.getLsbD e.1 = false) →
      Spec.Completes (.rqtake b d) s (s1.setX d.toNat 0)) ∧
    (∀ pre post p r, m.toNat < 16 → p < 4 → m.getLsbD p = true → q = pre ++ (p, r) :: post → (∀ e ∈ pre, e.1 ≠ p) →
      (∀ e ∈ q, e.1 < p → m.getLsbD e.1 = false) →
      Spec.Completes (.rqtake b d) s ({ s1 with rqs := mput s1.rqs (s1.subq s1.fs) (pre ++ post) }.setX d.toNat r)))

/-- Tasks forks and ready queues: tasks and forks, and the ready queues. Where the misaligned entry of `tspawn` and `fork` is met, and
the pool of tasks as a list of the state, are the model's own choices (log entries 40, 41). -/
def Obligations.TasksForksAndReadyQueues : Prop :=
  Spec.TasksAndForks ∧ Spec.ReadyQueues

/-- R228 to R231: `tmset` sets TIMER and no other register; `sstart` writes its status to D, 4, 1, 2 or 3 for the first condition that
fails, and 0 where it starts the slot it names with the window, entry, status and two registers of the record; `sstop` of an idle slot
has no effect, and of the own slot or one outside PMASK traps; `exit` ends the thread once all its children, operations and copies are
done, and takes a held copy fault first. -/
def Obligations.SlotsStartAndStop : Prop :=
  (∀ (a : BitVec 7) (s s1 : State), s.Opens (.tmset a) s1 → s1.unit.pre = none →
    Spec.Completes (.tmset a) s (s1.setTh { s1.th with timer := s1.getX a.toNat })) ∧
  (∀ (a d : BitVec 7) (s s1 s2 : State) (pa v : Nat), s.Opens (.sstart a d) s1 → s1.unit.pre = none →
    memRead (addr57 (s1.getX a.toNat)) 32 s1 = .ok ((pa, v), s2) →
    let d0 : Word := BitVec.ofNat 64 v
    let d1 : Word := BitVec.ofNat 64 (v / 2 ^ 64)
    let gs := 64 * coreOf s2.fs + bits d0 5 0
    let st := if startRecordOk d0 d1 = false then 4 else if (s2.pmask s2.fs).getLsbD (bits d0 5 0) = false then 1
      else if s2.slotFree gs = false then 2 else if s2.windowFree (coreOf s2.fs) (bits d0 18 8) (bits d0 26 20) = false then 3 else 0
    (st ≠ 0 → Spec.Completes (.sstart a d) s (s2.setX d.toNat (BitVec.ofNat 64 st))) ∧
    (st = 0 → ∃ t : State, Spec.Completes (.sstart a d) s (t.setX d.toNat 0) ∧ t.mem = s2.mem ∧
      (t.thread gs).live = true ∧ (t.thread gs).a.pc = addr57 d1 ∧ (t.thread gs).vf = s2.th.vf ∧ (t.thread gs).asid = s2.th.asid ∧
      (t.thread gs).winBase = bits d0 18 8 ∧ (t.thread gs).winLim = bits d0 26 20 ∧
      (t.thread gs).dir = d0.getLsbD 27 ∧ (t.thread gs).ue = d0.getLsbD 28 ∧
      t.getXOf gs 3 = BitVec.ofNat 64 (v / 2 ^ 128) ∧ t.getXOf gs 2 = BitVec.ofNat 64 (v / 2 ^ 192) ∧
      (∀ g, g ≠ gs → t.thread g = s2.thread g))) ∧
  (∀ (a : BitVec 7) (s s1 : State), s.Opens (.sstop a) s1 → s1.unit.pre = none → (∀ u, s1.th.hold ≠ some (.sstop u)) →
    let x := s1.getX a.toNat
    let gs := 64 * coreOf s1.fs + x.toNat
    (64 ≤ x.toNat ∨ (s1.pmask s1.fs).getLsbD x.toNat = false ∨ gs = s1.fs → Spec.Raises (.sstop a) s s1 { cause := .illegalOperand }) ∧
    (x.toNat < 64 → (s1.pmask s1.fs).getLsbD x.toNat = true → gs ≠ s1.fs →
      ((s1.thread gs).live = false → Spec.Completes (.sstop a) s s1) ∧
      ((s1.thread gs).live = true → (s1.beginStop gs).stopDone gs = true →
        ∃ t, Spec.Completes (.sstop a) s t ∧ t = (s1.beginStop gs).endThread gs false ∧ (t.thread gs).live = false ∧ t.mem = s1.mem))) ∧
  (∀ s s1 : State, s.Opens .exit s1 → s1.unit.pre = none →
    (s1.childrenLeft s1.th.uid = true → Spec.Waits .exit s .join) ∧
    (s1.childrenLeft s1.th.uid = false → s1.th.copies ≠ [] → Spec.Waits .exit s .retry) ∧
    (∀ n f rest, s1.childrenLeft s1.th.uid = false → s1.th.copies = [] → s1.th.heldFaults = (n, f) :: rest → Spec.Raises .exit s s1 f) ∧
    (s1.childrenLeft s1.th.uid = false → s1.th.copies = [] → s1.th.heldFaults = [] →
      ∃ t, exec .exit s = .next t ∧ t.th.live = false ∧ t.mem = s1.mem ∧ t.rf = s1.rf ∧
        (∀ c ∈ t.chans, c.2.gs ≠ s1.fs) ∧ (∀ w ∈ t.watches, w.2 ≠ s1.fs)))

/-! Levels, traps and interrupts (R232 to R234, R305 to R316). -/

/-- Enter(L, code, epc) of R232 on a thread: EPC, ECAUSE and the EINFO words of level L, PP(L) and PIE(L) saved, IE cleared, PL set to L,
and the program counter at the vector of level L; nothing else of the thread but its hold and step. -/
structure Sys2Proof.Spec.Entered (t u : Thread) (lev : Nat) (ecause epc : Word) (info : Word × Word × Word × Word) : Prop where
  bank : u.bank lev = { t.bank lev with epc := epc, ecause := ecause, einfo0 := info.1, einfo1 := info.2.1, einfo2 := info.2.2.1, einfo3 := info.2.2.2 }
  pc : u.a.pc = (t.bank lev).tvec
  level : u.level = lev
  ie : u.ie = false
  others : ∀ l, 1 ≤ l → l ≤ 3 → l ≠ lev → u.bank l = t.bank l
  savedLevel : bits u.a.status (20 + 3 * (lev - 1)) (19 + 3 * (lev - 1)) = t.level
  savedIe : u.a.status.getLsbD (21 + 3 * (lev - 1)) = t.ie
  status : ∀ k, k ≠ 16 → k ≠ 17 → k ≠ 18 → ¬(19 + 3 * (lev - 1) ≤ k ∧ k ≤ 21 + 3 * (lev - 1)) → u.a.status.getLsbD k = t.a.status.getLsbD k
  arch : u.a = { t.a with status := u.a.status, pc := u.a.pc }

/-- R232, R307: `trap n` and `hcall n` enter a handler, at the current level or at level 1 or 2, whichever is higher, with the code of the
request, EPC the next address and EINFO3 the word: a next state that counts the unit, traced where a tracer holds the die (R396). -/
def Sys2Proof.Spec.RequestsEnterAHandler : Prop :=
  ∀ (n : BitVec 7) (i : Instr) (low : Nat) (s s1 : State), (i = .trap n ∧ low = 1) ∨ (i = .hcall n ∧ low = 2) → s.Opens i s1 →
    let lev := max low s1.th.level
    let code : Word := BitVec.ofNat 64 (128 + n.toNat)
    let u := s1.th.enter lev code s1.unit.next 0 0 0 (s1.unit.einfo3 { cause := .request n.toNat })
    Spec.Completes i s (State.traceRec { s1.setTh u with unit := { s1.unit with entered := true } } s1.fs 2 s1.unit.addr code) ∧
    (s1.th.live = true → s1.unit.park = none → s1.th.det = false → s1.traceHold.getD (dieOf s1.fs) 511 = 511 →
      ∃ t : State, exec i s = .next t ∧ t.th.a.pc = (s1.th.bank lev).tvec ∧ t.th.a.icount = s1.th.a.icount + 1 ∧
        (t.th.bank lev).epc = s1.unit.next ∧ (t.th.bank lev).ecause = code ∧ t.th.level = min lev 3 ∧ t.th.ie = false ∧
        t.rf = s1.rf ∧ t.mem = s1.mem)

/-- R232, R305 to R308, R313: a cause taken by Enter saves the address of the raising word in EPC, its code in ECAUSE and Table 16.2's
words in EINFO, sets the status and goes to the vector, at the level of Table 16.4; nothing else changes but the trace (R396) and, in a deterministic launch, the stream
elements read ahead of a unit, which are read anew (R298). Inside a
chunk the chunk is squashed instead, to raise it again in the direct fallback (R310).
A failed entry of a thread of no function kills that thread alone, by the model's reading (log entry 43). -/
def Obligations.TrapEntrySavesAndGoes : Prop :=
  (∀ (t : Thread) (lev : Nat) (ecause epc e0 e1 e2 e3 : Word), 1 ≤ lev → lev ≤ 3 →
    Spec.Entered t (t.enter lev ecause epc e0 e1 e2 e3) lev ecause epc (e0, e1, e2, e3)) ∧
  (∀ (s : State) (t : Trap), s.isDirect = true → s.th.fallback = none → t.unstage = none → t.held = false → t.table = none →
    t.cause ≠ .debug → takesUpcall s.th t = false →
    let lev := if t.orig ≠ 0 ∨ t.cause = .segmentBound then (if s.th.level = 3 then 3 else 2) else max 1 s.th.level
    let code : Word := BitVec.ofNat 64 t.cause.code
    s.raiseUnit t = (s.setTh (s.th.forget.enter lev code s.unit.addr t.einfo0 t.info1 t.info2 (s.unit.einfo3 t))).traceRec s.fs 2 s.unit.addr code) ∧
  (∀ (s : State) (gs type : Nat) (pc aux : Word), s.traceHold.getD (dieOf gs) 511 = 511 → s.traceRec gs type pc aux = s) ∧
  (∀ (s : State) (t : Trap), s.isDirect = false → s.th.cur.isSome = true → t.unstage = none →
    s.raiseUnit t = s.squash s.fs (s.th.chunks.length - 1) false true)

/-- R233: `eret` goes to EPC of its level and restores PL from PP and IE from PIE of that level, its status otherwise as it was; R234:
`wfi` completes with an interrupt pending to the level or a higher one or an element in p15, and waits otherwise; R232: `brk` raises
DEBUG with its number. -/
def Sys2Proof.Spec.ReturnsAndWaits : Prop :=
  (∀ s s1 : State, s.Opens .eret s1 → 1 ≤ s1.th.level → s1.th.level ≤ 3 →
    let lev := s1.th.level
    let st := s1.arch.status
    ∃ st' : Word, Spec.Completes .eret s ((Spec.jump s1 (s1.th.bank lev).epc).setArch { s1.arch with status := st' }) ∧
      bits st' 18 17 = bits st (20 + 3 * (lev - 1)) (19 + 3 * (lev - 1)) ∧ st'.getLsbD 16 = st.getLsbD (21 + 3 * (lev - 1)) ∧
      ∀ k, k ≠ 16 → k ≠ 17 → k ≠ 18 → st'.getLsbD k = st.getLsbD k) ∧
  (∀ s s1 : State, s.Opens .wfi s1 → s1.unit.pre = none →
    ((∃ i ∈ s1.th.pend, s1.th.level ≤ i.level) ∨ s1.th.p15 ≠ [] → Spec.Completes .wfi s s1) ∧
    ((∀ i ∈ s1.th.pend, i.level < s1.th.level) → s1.th.p15 = [] →
      Spec.Waits .wfi s .wfi)) ∧
  (∀ (n : BitVec 7) (s s1 : State), s.Opens (.brk n) s1 → Spec.Raises (.brk n) s s1 { cause := .debug, brkn := n.toNat }) ∧
  (∀ (s : State) (n : Nat), (∀ p, s.partOf s.fs = some p → ¬p ∈ s.dbgen) → s.isDirect = true → s.th.fallback = none →
    s.raiseUnit { cause := .debug, brkn := n } =
      (s.setTh (s.th.forget.enter (max 1 s.th.level) 17 s.unit.addr (BitVec.ofNat 64 (n * 2 ^ 28)) 0 0
        (s.unit.einfo3 { cause := .debug }))).traceRec s.fs 2 s.unit.addr 17)

/-- Requests returns and waits: what enters a handler by a word of its own, and what returns from one or waits. The model's own choice
here: what is taken between a request and its answer (log entry 24). -/
def Obligations.RequestsReturnsAndWaits : Prop :=
  Spec.RequestsEnterAHandler ∧ Spec.ReturnsAndWaits

/-! Events of the order, of chunks and of engines (R213 to R260). -/

/-- Only one thread differs, and this is what it became: no register, byte of memory, signature, message or other thread changes. -/
def Sys2Proof.Spec.OnlyThread (s t : State) (gs : Nat) (th : Thread) : Prop :=
  t.thread gs = th ∧ (∀ g, g ≠ gs → t.thread g = s.thread g) ∧ ∃ ts, t = { s with threads := ts }

/-- No tracer holds the die of the slot (R396). -/
def Sys2Proof.Spec.Untraced (s : State) (gs : Nat) : Prop := s.traceHold.getD (dieOf gs) 511 = 511

/-- Table 10.1, R238, R253, R312, R40: a due interrupt is taken with EPC at the next unit, or first ends the chunk and waits for its
grant, and a slot that is to run one unit for the debugger still has it to run (R398); a timer at its last count raises a TIMER
interrupt, also while its cluster is being stopped (R326); a chunk ends at its limit and 20,000 cycles after its first unit; eight
squashes start the direct fallback; each changes its own thread and nothing else.
Which of several pending interrupts is taken first is a free value (log entry 19). -/
def Obligations.ChunkEndEvents : Prop :=
  (∀ (gs : Nat) (s : State), s.mayIssue gs = true → (s.thread gs).hold = none → (s.thread gs).refused = [] →
    (s.thread gs).enabled ≠ [] →
    let th := s.thread gs
    (th.dir = true → th.chunks ≠ [] → exec (.interruptTaken gs) s = .next s) ∧
    (th.dir = true → th.chunks = [] → Spec.Untraced s gs → ∃ (t : State) (i : Intr), exec (.interruptTaken gs) s = .next t ∧ i ∈ th.enabled ∧
      t.thread gs = { ({ th with pend := th.pend.erase i } : Thread).forget.enter i.level (putBit (BitVec.ofNat 64 i.code) 63 true)
        th.a.pc 0 0 0 0 with stepping := th.stepping } ∧
      (∀ g, g ≠ gs → t.thread g = s.thread g) ∧ t.rf = s.rf ∧ t.mem = s.mem) ∧
    (∀ c, th.dir = false → th.fallback = none → th.cur = some c → 0 < c.len → s.exactCount gs = false →
      ∃ t, exec (.interruptTaken gs) s = .next t ∧
        Spec.OnlyThread s t gs { th with chunks := th.chunks.dropLast ++ [{ c with ended := true }] })) ∧
  (∀ (gs : Nat) (s : State), (s.thread gs).live = true → s.answers gs = true → (s.thread gs).timer = 1 →
    ∃ t, exec (.timerExpiry gs) s = .next t ∧
      Spec.OnlyThread s t gs { s.thread gs with timer := 0, pend := (s.thread gs).pend ++ [⟨1, 15⟩] }) ∧
  (∀ (gs : Nat) (s : State) (c : Chunk) (i : Instr), (s.thread gs).cur = some c → s.runs gs = true → 0 < c.len →
    (i = .chunkEndChunkmax gs ∧ c.max ≤ c.len) ∨
      (i = .chunkCutCycles gs ∧ s.exactCount gs = false ∧ c.start + 20000 ≤ s.cycle) →
    ∃ t, exec i s = .next t ∧
      Spec.OnlyThread s t gs { s.thread gs with chunks := (s.thread gs).chunks.dropLast ++ [{ c with ended := true }] }) ∧
  (∀ (gs : Nat) (s : State), (s.thread gs).live = true → s.runs gs = true → 8 ≤ (s.thread gs).sq → (s.thread gs).fallback = none →
    (s.thread gs).dir = false → (s.thread gs).chunks = [] →
    ∃ t, exec (.directFallback gs) s = .next t ∧
      Spec.OnlyThread s t gs { s.thread gs with fallback := some ⟨0, (s.thread gs).chunkmax, s.policyOf gs⟩ })

/-- R247 to R252, R349: an ended oldest chunk whose operations are performed requests its commit; from the cycle after its arrival on, a
request that meets no granted signature on its way, that the log lets through and before which no other request stands is granted, and
its effects are performed at its place; a replayed request that the log does not expect stops its partition; with the grant's arrival,
once the host has answered for the lines it held, CHSEQ rises and SQ is cleared, but not under the fallback of a chunk squashed eight times, which reads 8 (R253); a
signature squashes exactly the chunks it meets, from the first on, in every other slot, and of its own slot those that used a translation
line it holds (R346).
Which signatures without a common item test as intersecting is a free value (log entry 63), and a request held for a reason of its own
lets others pass (log entry 83). -/
def Obligations.CommitEvents : Prop :=
  (∀ (gs : Nat) (s : State) (c : Chunk) (rest : List Chunk), (s.thread gs).live = true → s.runs gs = true →
    (s.thread gs).chunks = c :: rest → c.ended = true → c.requested = none →
    (rest ≠ [] ∨ ((s.thread gs).loads = [] ∧ (s.thread gs).stores = [] ∧ (s.thread gs).pushes = [])) →
    ∃ t, exec (.commitRequest gs) s = .next t ∧
      Spec.OnlyThread s t gs { s.thread gs with chunks := { c with requested := some s.cycle } :: rest }) ∧
  (∀ (gs n : Nat) (s : State) (c : Chunk) (rest : List Chunk), (s.thread gs).chunks = c :: rest → c.requested = some n →
    c.granted = false → s.runs gs = true →
    (s.cycle ≤ n ∨ s.sigMeets gs c = true → exec (.commitGrant gs) s = .next s) ∧
    (n < s.cycle → s.sigMeets gs c = false →
      (∀ e, s.gate gs kindChunk c.len = .diverge e → exec (.commitGrant gs) s = .next (s.divergence gs kindChunk c.len e)) ∧
      (s.gate gs kindChunk c.len = .wait ∨ (s.gate gs kindChunk c.len = .go ∧ s.earlierRequest (s.chunkReq gs n c) = true) →
        exec (.commitGrant gs) s = .next s) ∧
      (s.gate gs kindChunk c.len = .go → s.earlierRequest (s.chunkReq gs n c) = false →
        ((s.thread gs).det = true ∨ (s.thread gs).ord = true → s.keyTurn gs = true) → s.poolRoom gs (spawnsOf c.deferred) = true →
        let s1 := (s.noteGrant gs kindChunk c.len (s.levelOf gs kindChunk (c.reads ++ c.writes))).performAll (some gs) (c.log.map (fun e => e.eff))
        let s2 := c.deferred.foldl (fun (z : State) d => z.runDeferred gs d) s1
        ∃ t, exec (.commitGrant gs) s = .next t ∧ (t.thread gs).chunks = { c with granted := true } :: rest ∧
          (t.thread gs).a = (s2.thread gs).a ∧ (t.thread gs).chseq = (s2.thread gs).chseq ∧
          (∀ g, g ≠ gs → t.thread g = s2.thread g) ∧ t.rf = s2.rf ∧ t.mem = s2.mem ∧ t.gregs = s2.gregs))) ∧
  (∀ (gs : Nat) (s : State) (c : Chunk) (rest : List Chunk), (s.thread gs).chunks = c :: rest → c.granted = true →
    (s.thread gs).ord = false → Spec.Untraced s gs →
    ((∃ l ∈ c.writes, l ∈ s.hostInval) → exec (.grantArrival gs) s = .next s) ∧
    ((∀ l ∈ c.writes, l ∉ s.hostInval) →
      ∃ t, exec (.grantArrival gs) s = .next t ∧ (∀ g, g ≠ gs → t.thread g = s.thread g) ∧ t.rf = s.rf ∧ t.mem = s.mem ∧
        t.thread gs = { s.thread gs with
          chunks := rest, chseq := (s.thread gs).chseq + 1, sq := if (s.thread gs).fallback ≠ none ∧ (s.thread gs).sq = 8 then 8 else 0 })) ∧
  (∀ (s : State) (src : Nat) (items : List Nat) (rest : List (Nat × List Nat)), s.sigs = (src, items) :: rest →
    (∀ d, s.traceHold.getD d 511 = 511) →
    ∃ t, exec .sig s = .next t ∧ t.sigs = rest ∧ t.mem = s.mem ∧
      ∀ gs, (t.thread gs).chunks =
        if slotCount ≤ gs then (s.thread gs).chunks
        else match (s.thread gs).chunks.findIdx? (fun c =>
            if gs + 1 = src then !c.granted && items.any (fun x => x ∈ c.trans) else c.meets items) with
          | none => (s.thread gs).chunks
          | some i => (s.thread gs).chunks.take i)

/-- A singleton of a slot that arrived in a cycle is placed: it waits, asking the host for the lines it holds, where another request stands
before it or a remote store or the host has a line of it; else it is gone from what the thread has outstanding and its writes are
performed where their pages are then. -/
def Sys2Proof.Spec.Placed (s : State) (gs cyc : Nat) (effs : List Eff) (upd : Thread → Thread) (t : State) : Prop :=
  let r := s.reaim gs effs
  let u := upd (r.2.thread gs)
  let s1 := r.2.setThread gs { u with ent := if u.det then u.ent + 1 else u.ent, aims := if u.drained then [] else u.aims }
  if s.earlierRequest (s.singleReq gs cyc r.1) = true ∨ s.remoteHolds (heldItems r.1) = true ∨ s.hostHolds (itemsOf r.1) = true then
    t = s.backInvalidate (itemsOf r.1)
  else t = ((s1.noteGrant gs kindSingle 1 (s1.levelOf gs kindSingle (itemsOf r.1))).performAll (some gs) r.1).sawShared gs

/-- R26, R27, R119, R138, R212 to R215, R255, R257, R261, R274, R298, R346, R349: the oldest counted load writes its data to its registers
and LC falls, in direct mode once every element has been read, each at its own place; the next singleton of the oldest counted store is
performed where no other request stands before it and no remote store or host copy holds a line of it, at the address its page has then,
and SC falls with its last; a page whose translation faults meanwhile keeps its address (log entry 93); an element ahead of a read stream's
position arrives without moving it; a store on its way to a scratchpad is written; a copy's next piece is performed, its grant counted
over the lines of its destination; a finished copy reports to its thread, its fault held in the issue order of the copies; a released
copy may run. -/
def Obligations.EngineEvents : Prop :=
  (∀ (gs d : Nat) (v : Word) (src : Option Src) (s : State) (rest : List (List Dest)), s.answers gs = true →
    (s.thread gs).loads = [.x d v src] :: rest → (s.thread gs).unread = 0 →
    ∃ t, exec (.loadDataReturn gs) s = .next t ∧ t.rf = (s.setXOf gs d v).rf ∧ t.mem = s.mem ∧
      t.thread gs = { s.thread gs with loads := rest } ∧ ∀ g, g ≠ gs → t.thread g = s.thread g) ∧
  (∀ (gs : Nat) (ds : List Dest) (s : State) (rest : List (List Dest)), s.answers gs = true → (s.thread gs).loads = ds :: rest →
    ((s.thread gs).unread = 0 →
      ∃ t, exec (.loadDataReturn gs) s = .next t ∧ (t.thread gs).loads = rest ∧ (t.thread gs).stores = (s.thread gs).stores ∧ t.mem = s.mem) ∧
    (0 < (s.thread gs).unread → ((s.thread gs).det = true ∧ s.keyTurn gs = false) ∨ (∃ d ∈ ds, s.destPending d = true) →
      exec (.loadDataReturn gs) s = .next s) ∧
    (0 < (s.thread gs).unread → ((s.thread gs).det = true → s.keyTurn gs = true) → (∀ d ∈ ds, s.destPending d = false) →
      ∃ t, exec (.loadDataReturn gs) s = .next t ∧ (∃ ts, t = ({ s with threads := ts } : State).sawShared gs) ∧
        (∀ g, g ≠ gs → t.thread g = s.thread g) ∧ t.thread gs = { s.thread gs with
          loads := ds.map (s.rereadDest (s.thread gs).unread) :: rest, unread := (s.thread gs).unread - 1
          ent := if (s.thread gs).det then (s.thread gs).ent + 1 else (s.thread gs).ent })) ∧
  (∀ (gs : Nat) (effs : List Eff) (more : List (List Eff)) (rest : List (List (List Eff))) (s : State), s.runs gs = true →
    (s.thread gs).stores = (effs :: more) :: rest → s.gate gs kindSingle 1 = .go → ((s.thread gs).det = true → s.keyTurn gs = true) →
    ∃ t, exec (.storeGloballyPerformed gs) s = .next t ∧ Spec.Placed s gs ((s.thread gs).arrivals.headD s.cycle) effs
      (fun u => { u with
        stores := if more = [] then rest else more :: rest, arrivals := if more = [] then u.arrivals.drop 1 else u.arrivals }) t) ∧
  (∀ (gs : Nat) (effs : List Eff) (s : State), (s.thread gs).aims = [] → s.reaim gs effs = (effs, s)) ∧
  (∀ (gs pa : Nat) (bs : List Byte) (s : State) (a : Aim), (s.thread gs).aims.find? (fun a => a.frame == pa / 4096) = some a →
    pa % 4096 + bs.length ≤ 4096 →
    let x := ({ s with fs := gs } : State).translate (s.thread gs).vf (s.thread gs).asid a.level a.page .write
    ((∃ e, x = .error e) ∨ (∃ y, x = .ok y ∧ y.addr / 4096 = a.frame) → (s.reaim gs [.write pa bs]).1 = [.write pa bs]) ∧
    (∀ y, x = .ok y → y.addr / 4096 ≠ a.frame →
      ∃ w : State, w.fs = gs ∧ (s.reaim gs [.write pa bs]).1 = [w.effFor (y.addr / 4096 * 4096 + pa % 4096) bs])) ∧
  (∀ (gs : Nat) (rest : List (List (List Eff))) (s : State), s.runs gs = true → (s.thread gs).stores = [] :: rest →
    ∃ t, exec (.storeGloballyPerformed gs) s = .next t ∧
      Spec.OnlyThread s t gs { s.thread gs with stores := rest, arrivals := (s.thread gs).arrivals.drop 1 }) ∧
  (∀ (gs : Nat) (effs : List Eff) (more : List (List Eff)) (s : State), s.runs gs = true →
    (s.thread gs).stores = [] → (s.thread gs).pushes = effs :: more → s.gate gs kindSingle 1 = .go →
    ((s.thread gs).det = true → s.keyTurn gs = true) →
    ∃ t, exec (.storeGloballyPerformed gs) s = .next t ∧ Spec.Placed s gs s.cycle effs (fun u => { u with pushes := more }) t) ∧
  (∀ (gs port : Nat) (s : State) (b : Stream) (e : Ahead), (s.thread gs).live = true → s.runs gs = true →
    (s.thread gs).directMode = false → (s.thread gs).a.stream port = some b →
    ((s.thread gs).det = true ∨ s.prefetch gs b = none → exec (.streamPrefetchArrival gs port) s = .next s) ∧
    ((s.thread gs).det = false → s.prefetch gs b = some e →
      ∃ t, exec (.streamPrefetchArrival gs port) s = .next t ∧ (t.thread gs).a.stream port = some { b with ahead := b.ahead ++ [e] } ∧
        t.rf = s.rf ∧ t.mem = ((s.walkLines (s.thread gs).vf e.trans).countFetch (s.thread gs).vf e.line).mem ∧ (∀ g, g ≠ gs → t.thread g = s.thread g))) ∧
  (∀ (s : State) (pa : Nat) (bs : List Byte), s.remotes.find? (fun r => s.remoteDue r.1) = some (pa, bs) →
    let s1 := { s with remotes := s.remotes.erase (pa, bs) }.setBytes pa bs
    exec .remoteStoreMessage s = .next ((s1.clearPoison pa bs.length).touched none pa bs.length)) ∧
  (∀ (eid : Nat) (s : State) (c : Copy), s.copies.find? (fun c => c.id == eid) = some c → s.pieceDue c = true →
    s.gate c.gs kindEngine (((c.dst.toNat + c.done) % 128 + c.pieceLen + 127) / 128) = .go →
    exec (.engineChunkGrant eid) s = .next (s.copyPiece c)) ∧
  (∀ (eid key : Nat) (s : State) (c : MatCmd) (rest : List MatCmd), s.copies.find? (fun c => c.id == eid) = none →
    s.matq.find? (fun p => (p.2.head?.map (·.id)) == some eid) = some (key, c :: rest) → s.matPieceDue (key / 256) c = true →
    s.clusterRuns (key / 256) = true → s.gate c.gs kindEngine (c.pieceLines (key / 256)) = .go →
    exec (.engineChunkGrant eid) s = .next (s.matPiece (key / 256) key)) ∧
  (∀ (cid : Nat) (s : State) (c : Copy), s.copies.find? (fun c => c.id == cid) = some c → c.record = 0 → c.recorded = true →
    s.copyReady c = true → s.runs c.gs = true → (s.thread c.gs).frozen = false → (s.thread c.gs).uid = c.uid →
    ∃ t, exec (.copyComplete cid) s = .next t ∧ (∀ d ∈ t.copies, d.id ≠ c.id) ∧ t.mem = s.mem ∧ t.rf = s.rf ∧
      (t.thread c.gs).copies = retireDone ((s.thread c.gs).copies.map (fun p => if p.1 = c.id then (c.id, true) else p)) ∧
      (c.fault = none → (t.thread c.gs).heldFaults = (s.thread c.gs).heldFaults) ∧
      (∀ f, c.fault = some f → ∃ pre post, (s.thread c.gs).heldFaults = pre ++ post ∧
        (t.thread c.gs).heldFaults = pre ++ (c.num, c.heldTrap f) :: post ∧
        (∀ e ∈ pre, e.1 ≤ c.num) ∧ (∀ e ∈ post.head?, c.num < e.1))) ∧
  (∀ (cl : Nat) (s : State), s.clusterRuns cl = true →
    ∃ t, exec (.combiningRelease cl) s = .next t ∧ t.mem = s.mem ∧ t.threads = s.threads ∧
      (∀ d ∈ t.copies, clusterOf d.gs = cl → d.combining = false) ∧ t.copies.length = s.copies.length)

/-! Events of messages, homes, sleeps, coherence, the matrix unit and the reduction network. -/

/-- No message about a line is on its way but requests: the home works on none (R247). -/
def Sys2Proof.Spec.AtRest (s : State) (line : Nat) : Prop := ∀ m ∈ s.coh, m.line = line → m.kind = .reads ∨ m.kind = .readm

/-- R266 to R272, Table 11.4: a read asks the line's home for it with READS and a commit or write with READM; what each message does to the
states of its line and which message follows it; none changes a byte of memory or a register. A line that enters an L2 may evict another
of its set, and the home acknowledges a write-back. That READS gives E where no die holds the line is the model's choice (log entry 89). -/
def Obligations.CoherenceMessages : Prop :=
  (∀ (die line : Nat) (part : Option Nat) (s : State), cached line = true → s.reservedLine line = false → s.dieState line die = .i →
    (∀ m ∈ s.coh, m.line ≠ line) → (s.cohAsk die line part).coh = s.coh ++ [⟨.reads, die, line⟩]) ∧
  (∀ (gs line : Nat) (s : State), cached line = true → s.reservedLine line = false → s.dieState line (dieOf gs) ≠ .m →
    (∀ m ∈ s.coh, m.line ≠ line) → (s.cohWrite gs line).coh = s.coh ++ [⟨.readm, dieOf gs, line⟩]) ∧
  (∀ (die line : Nat) (s : State), (⟨.reads, die, line⟩ : CohMsg) ∈ s.coh → Spec.AtRest s line →
    let c := s.coh.erase ⟨.reads, die, line⟩
    (s.dieState line die ≠ .i → exec (.reads die line) s = .next { s with coh := c }) ∧
    (∀ o, s.dieState line die = .i → s.cohOwner line = some o →
      exec (.reads die line) s = .next { s with coh := c ++ [⟨.fwd o, die, line⟩] }) ∧
    (s.dieState line die = .i → s.cohOwner line = none → exec (.reads die line) s = .next { s with
      coh := c ++ [⟨.data (if ∀ x ∈ s.dirOf line, x = .i then .e else .s), die, line⟩] })) ∧
  (∀ (die line : Nat) (s : State), (⟨.readm, die, line⟩ : CohMsg) ∈ s.coh → Spec.AtRest s line →
    let c := s.coh.erase ⟨.readm, die, line⟩
    let others := (List.range 4).filter (fun k => k != die && s.dieState line k != .i)
    (s.dieState line die = .m → exec (.readm die line) s = .next { s with coh := c }) ∧
    (s.dieState line die ≠ .m → exec (.readm die line) s = .next { s with
      coh := c ++ (if others = [] then [⟨.data .m, die, line⟩] else ⟨.getm, die, line⟩ :: others.map (fun k => ⟨.inv, k, line⟩)) })) ∧
  (∀ (owner die line : Nat) (s : State), owner < 4 → (s.dirOf line).length = 4 → (⟨.fwd owner, die, line⟩ : CohMsg) ∈ s.coh →
    ∃ t, exec (.fwd owner die line) s = .next t ∧ t.coh = s.coh.erase ⟨.fwd owner, die, line⟩ ++ [⟨.data .s, die, line⟩] ∧
      t.dieState line owner = (match s.dieState line owner with | .m => .o | .e => .s | x => x) ∧
      (∀ k, k ≠ owner → t.dieState line k = s.dieState line k) ∧ t.mem = s.mem ∧ t.rf = s.rf) ∧
  (∀ (die line : Nat) (st : Moesi) (s : State), die < 4 → (s.dirOf line).length = 4 → (⟨.data st, die, line⟩ : CohMsg) ∈ s.coh →
    (∀ st', (⟨.data st', die, line⟩ : CohMsg) ∈ s.coh → st' = st) →
    ∃ t, exec (.data die line) s = .next t ∧ t.dieState line die = st ∧ (∀ k, k ≠ die → t.dieState line k = s.dieState line k) ∧
      ((s.l2Mates die line).length < 16 → t.coh = s.coh.erase ⟨.data st, die, line⟩) ∧ t.mem = s.mem ∧ t.rf = s.rf) ∧
  (∀ (die line : Nat) (s : State), die < 4 → (s.dirOf line).length = 4 → (⟨.inv, die, line⟩ : CohMsg) ∈ s.coh →
    ∃ t, exec (.inv die line) s = .next t ∧ t.coh = s.coh.erase ⟨.inv, die, line⟩ ++ [⟨.ack, die, line⟩] ∧ t.dieState line die = .i ∧
      (∀ k, k ≠ die → t.dieState line k = s.dieState line k) ∧ t.mem = s.mem ∧ t.rf = s.rf) ∧
  (∀ (die line d : Nat) (s : State), (⟨.ack, die, line⟩ : CohMsg) ∈ s.coh →
    let c := s.coh.erase ⟨.ack, die, line⟩
    let pending : Prop := ∃ m ∈ c, m.line = line ∧ (m.kind = .inv ∨ m.kind = .ack ∨ m.kind = .wback)
    (pending → exec (.ack die line) s = .next { s with coh := c }) ∧
    (¬pending → (∀ m ∈ c, m.line = line → m.kind ≠ .getm) → exec (.ack die line) s = .next { s with coh := c }) ∧
    (¬pending → (⟨.getm, d, line⟩ : CohMsg) ∈ c → (∀ d', (⟨.getm, d', line⟩ : CohMsg) ∈ c → d' = d) →
      exec (.ack die line) s = .next { s with coh := c.erase ⟨.getm, d, line⟩ ++ [⟨.data .m, d, line⟩] })) ∧
  (∀ (die line : Nat) (s : State), (⟨.wback, die, line⟩ : CohMsg) ∈ s.coh → (s.dirOf line).length = 4 → cohHome line < 4 →
    ∃ t, exec (.wback die line) s = .next t ∧
      t.dieState line (cohHome line) = (if ∀ k ∈ List.range 4, k ≠ cohHome line → s.dieState line k = .i then .m else .o) ∧
      (∀ k, k ≠ cohHome line → t.dieState line k = s.dieState line k) ∧ t.mem = s.mem ∧ t.rf = s.rf ∧
      (isHost (128 * line) = false → (s.l2Mates (cohHome line) line).length < 16 →
        t.coh = s.coh.erase ⟨.wback, die, line⟩ ++ [⟨.ack, die, line⟩])) ∧
  (∀ (die line : Nat) (s : State), die < 4 → (s.dirOf line).length = 4 →
    let answer : CohMsg := ⟨if s.dieState line die = .m ∨ s.dieState line die = .o then .wback else .ack, die, line⟩
    let after (c : List CohMsg) : Prop := ∃ t, exec (.binv die line) s = .next t ∧ t.dieState line die = .i ∧
      (∀ k, k ≠ die → t.dieState line k = s.dieState line k) ∧ t.coh = c ∧ t.mem = s.mem ∧ t.rf = s.rf
    ((⟨.binv, die, line⟩ : CohMsg) ∈ s.coh → after (s.coh.erase ⟨.binv, die, line⟩ ++ [answer])) ∧
    (cached line = true → Spec.AtRest s line → die ≠ cohHome line → s.dieState line die ≠ .i →
      after (s.coh ++ ((List.range 4).filter (fun k => k != die && k != cohHome line && s.dieState line k != .i)).map
        (fun k => ⟨.binv, k, line⟩) ++ [answer])))

/-- R217, R218, R219, R220, R322, R326, R327: a message by channel goes to the slot and port that the channel is bound to; a message first of
its sender to its target enters the queue of a slot or port that has room, behind what the port's ring holds, else the ring, waits at a
ring a remote store is on its way to (R274), meets a full reply where there is no room or its thread is off its slot for a handover, and is
refused where nothing takes it; one to a stopped cluster parks, up to 16,384; an element leaves the ring for the queue when there is room; a full reply holds the message at its sender until space appears, and the
sender issues nothing until the resent message is accepted; a refusal returns the target and the payload to the sender. -/
def Obligations.MessageEvents : Prop :=
  (∀ (mid gs port : Nat) (m : Msg) (s : State), s.msgOf mid = some m → (m.state = .flying ∨ m.state = .resent) → s.msgFirst m = true → s.parkedMsg m = false →
    s.msgPort m = some (gs, port) →
    let full := s.setMsg m.id (if m.state = .resent then .held else .full)
    (s.ringHeld gs port = true → exec (.messageArrival mid) s = .next s) ∧
    (s.ringHeld gs port = false → (∀ k c, s.chanOf gs port = some (k, c) → c.count = 0) → (s.thread gs).queueRoom port = true →
      ∃ t, exec (.messageArrival mid) s = .next t ∧ t.thread gs = (s.thread gs).enqueue port m.payload ∧ t.chans = s.chans ∧
        (∀ x ∈ t.msgs, x.id ≠ m.id) ∧ (∀ g, g ≠ gs → t.thread g = s.thread g) ∧ t.rf = s.rf ∧ t.mem = s.mem) ∧
    (s.chanOf gs port = none → (s.thread gs).queueRoom port = false → exec (.messageArrival mid) s = .next full) ∧
    (∀ k c, s.ringHeld gs port = false → s.chanOf gs port = some (k, c) → (s.thread gs).queueRoom port = false ∨ 0 < c.count →
      (c.rlog ≠ 0 → c.count < 2 ^ c.rlog →
        let w := ({ s with chans := mput s.chans k { c with count := c.count + 1 } } : State).performAll none
          [.write (spadAddr (coreOf c.gs) (c.roff + 8 * ((c.head + c.count) % 2 ^ c.rlog))) (leBytes 8 m.payload.toNat)]
        exec (.messageArrival mid) s = .next { w with msgs := w.msgs.filter (fun x => x.id != m.id) }) ∧
      (c.rlog = 0 ∨ 2 ^ c.rlog ≤ c.count → exec (.messageArrival mid) s = .next full))) ∧
  (∀ (gs port k : Nat) (c : Chan) (s : State), s.chanOf gs port = some (k, c) →
    (0 < c.count → (s.thread gs).queueRoom port = true → s.ringHeld gs port = false →
      s.refillOne gs port = ({ s with
        chans := mput s.chans k { c with head := (c.head + 1) % 2 ^ c.rlog, count := c.count - 1 } } : State).setThread gs
          ((s.thread gs).enqueue port (s.dwordAt (spadAddr (coreOf c.gs) (c.roff + 8 * (c.head % 2 ^ c.rlog)))))) ∧
    (c.count = 0 ∨ (s.thread gs).queueRoom port = false → s.refillOne gs port = s)) ∧
  (∀ (gc n : Nat) (m : Msg) (c : Chan) (s : State), tgKind m.word = 1 → s.targetPlace m.vf m.lid (coreOf m.gs) m.word = some (gc, n) →
    mget s.chans (65536 * gc + m.chan) = some c → c.gs < noSlot → s.partOf c.gs = s.msgPart m → s.msgPort m = some (c.gs, c.port)) ∧
  (∀ (mid : Nat) (m : Msg) (s : State), s.msgOf mid = some m → (m.state = .flying ∨ m.state = .resent) → s.msgFirst m = true →
    let full := s.setMsg m.id (if m.state = .resent then .held else .full)
    (s.parkedMsg m = true → exec (.messageArrival mid) s = .next (if 16384 ≤ s.parkedBefore m then full else s)) ∧
    (s.parkedMsg m = false → s.absentFor m = true → exec (.messageArrival mid) s = .next full)) ∧
  (∀ (mid : Nat) (m : Msg) (s : State), s.msgOf mid = some m → (m.state = .flying ∨ m.state = .resent) → s.msgFirst m = true → s.parkedMsg m = false →
    s.msgPort m = none → s.absentFor m = false →
    exec (.messageArrival mid) s = .next (s.setMsg m.id .refused)) ∧
  (∀ (t : Thread) (v : Word), (t.enqueue 15 v).p15 = t.p15 ++ [v]) ∧
  (∀ (mid : Nat) (m : Msg) (s : State), s.msgOf mid = some m → m.state = .full → s.answers m.gs = true →
    exec (.fullReply mid) s = .next (s.setMsg mid .held)) ∧
  (∀ (gs : Nat) (s : State), ∃ t, exec (.messageResend gs) s = .next t ∧ t.mem = s.mem ∧ t.threads = s.threads ∧
    t.msgs.length = s.msgs.length ∧
    (∀ m ∈ s.msgs, (m.gs ≠ gs ∨ m.state ≠ .held) → m ∈ t.msgs) ∧
    (∀ m ∈ s.msgs, m.gs = gs → m.state = .held → s.runs gs = true → s.parkedMsg m = false → s.wouldTake m = true →
      { m with state := .resent } ∈ t.msgs)) ∧
  (∀ (gs : Nat) (m : Msg) (s : State), m ∈ s.msgs → m.uid = (s.thread gs).uid → (m.state = .held ∨ m.state = .resent) →
    s.mayIssue gs = false) ∧
  (∀ (mid : Nat) (m : Msg) (s : State), s.msgOf mid = some m → m.state = .refused → s.answers m.gs = true →
    ((s.thread m.gs).live = true → (s.thread m.gs).uid = m.uid → (s.thread m.gs).stopping = false →
      ∃ t, exec (.messageRefusal mid) s = .next t ∧ (∀ x ∈ t.msgs, x.id ≠ mid) ∧ t.mem = s.mem ∧ t.rf = s.rf ∧
        t.thread m.gs = { s.thread m.gs with refused := (s.thread m.gs).refused ++ [(m.word, m.payload)] } ∧
        (∀ g, g ≠ m.gs → t.thread g = s.thread g)) ∧
    ((s.thread m.gs).uid ≠ m.uid → m.vf = none →
      exec (.messageRefusal mid) s = .next { s with msgs := s.msgs.filter (fun x => x.id != mid) }))

/-- R128 to R133, R144, R147, R149, R260, R267, R274, R342: the home serves the request at the head of a free word's queue, once no remote
store is on its way to the word, and no die keeps a copy of its line but the home of a locked one (R277); it acknowledges releases and performs edge atomics,
behind the requests that stand before them (R250), whose response ends the wait; an acknowledged edge write has reached the memory of a peer that a route leads to (R405), and the part's view of host memory has held it since its commit;
an acknowledged or refused edge write is no longer on its way; a sleep whose timeout has passed gets its result.
A peer's own answer is a free value (log entry 72), and what a peer's memory holds the model's own (37). -/
def Obligations.HomeAndSleepEvents : Prop :=
  (∀ (pa p n gs : Nat) (rest : List Nat) (b : Bool) (s : State), mgetD s.homes pa ⟨[], false⟩ = ⟨gs :: rest, b⟩ →
    (s.thread gs).hold = some (.qresWait p n) →
    let due : Prop := s.holderOf pa = false ∧ s.remotePending pa n = false ∧ ((s.thread gs).det = true → s.keyTurn gs = true)
    (¬due → exec (.qresHead pa) s = .next s) ∧
    (due → b = true ∨ s.poisoned (pa / 8) = false →
      ∃ t, (cached (lineOf pa) = true → ∀ k, k ≠ cohHome (lineOf pa) ∨ mget s.locks (lineOf pa) = none → t.dieState (lineOf pa) k = .i) ∧
        exec (.qresHead pa) s = .next t ∧ mgetD t.homes pa ⟨[], false⟩ = ⟨rest, false⟩ ∧ t.mem = s.mem ∧ t.rf = s.rf ∧
        t.thread gs = { s.thread gs with
          hold := some (if b then .qresReply 0 true else .qresReply (BitVec.ofNat 64 (s.natAt pa n)) false)
          resv := some ⟨pa, n, b, s.natAt pa n⟩ } ∧
        (∀ g, g ≠ gs → t.thread g = s.thread g)) ∧
    (due → b = false → s.poisoned (pa / 8) = true →
      ∃ t, exec (.qresHead pa) s = .next t ∧ t.thread gs = { s.thread gs with hold := some .qresPoison } ∧ t.mem = s.mem)) ∧
  (∀ (gs p : Nat) (s : State), (s.thread gs).hold = some (.qrelWait p) →
    ∃ t, exec (.qrelAck gs) s = .next t ∧ Spec.OnlyThread s t gs { s.thread gs with hold := some .qrelDone }) ∧
  (∀ (gs pa n op v : Nat) (ret : Bool) (s : State), (s.thread gs).hold = some (.edgeWait pa n op v ret) → s.remotePending pa n = false →
    let old := s.natAt pa n
    let bs := leBytes n (atomicOp op n old v)
    let answer (z : State) (a : EdgeAnswer) : State := z.setThread gs { z.thread gs with hold := some (.edgeDone a ret) }
    (isPeer pa = true → s.peerUp (peerDev pa) = false → exec (.edgeAtomicAtHome gs) s = .next s) ∧
    (isPeer pa = true → s.peerUp (peerDev pa) = true → exec (.edgeAtomicAtHome gs) s = .next (match peerFault s.fresh pa with
      | some .dataPoison => { answer s .poison with fresh := s.fresh + 1 }
      | some c => { answer s (.fault c) with fresh := s.fresh + 1 }
      | none => { answer (s.setBytes pa bs) (.old old) with fresh := s.fresh + 1 })) ∧
    (isPeer pa = false → s.poisoned (pa / 8) = true → exec (.edgeAtomicAtHome gs) s = .next (answer s .poison)) ∧
    (isPeer pa = false → s.poisoned (pa / 8) = false → s.gate gs kindSingle 1 = .go →
      ∀ w, s.requestWait (s.singleReq gs s.cycle [.write pa bs]) = some w → exec (.edgeAtomicAtHome gs) s = .next w) ∧
    (isPeer pa = false → s.poisoned (pa / 8) = false → s.gate gs kindSingle 1 = .go →
      s.requestWait (s.singleReq gs s.cycle [.write pa bs]) = none →
      let s1 := s.noteGrant gs kindSingle 1 (s.levelOf gs kindSingle (linesOf pa n))
      exec (.edgeAtomicAtHome gs) s = .next (answer
        (if isHost pa then s1.performAll none [.edge pa bs] else s1.performAll (some gs) [.write pa bs]) (.old old)))) ∧
  (∀ (gs : Nat) (v : EdgeAnswer) (ret : Bool) (s : State), (s.thread gs).hold = some (.edgeDone v ret) →
    ∃ t, exec (.edgeAtomicResponse gs) s = .next t ∧
      Spec.OnlyThread s t gs { s.thread gs with hold := some (.edgeReply v), edges := (s.thread gs).edges - 1 }) ∧
  (∀ (eid : Nat) (e : EdgeWrite) (s : State), s.edges.find? (fun x => x.id == eid) = some e → e.copy = none →
    let s1 := if isPeer (64 * e.piece) then e.bytes.foldl (fun (z : State) p => z.setByte p.1 p.2) s else s
    (isPeer (64 * e.piece) = true → s.peerUp (peerDev (64 * e.piece)) = false → exec (.edgeWriteAck eid) s = .next s) ∧
    ((isPeer (64 * e.piece) = true → s.peerUp (peerDev (64 * e.piece)) = true) → ∃ t, exec (.edgeWriteAck eid) s = .next t ∧ (∀ x ∈ t.edges, x.id ≠ e.id) ∧ t.mem = s1.mem ∧ t.peer = s1.peer ∧
      ((s1.thread e.gs).uid = e.uid → t.thread e.gs = { s1.thread e.gs with edges := (s1.thread e.gs).edges - 1 }))) ∧
  (∀ (eid : Nat) (e : EdgeWrite) (s : State), s.edges.find? (fun x => x.id == eid) = some e →
    (isPeer (64 * e.piece) = false ∨ s.peerUp (peerDev (64 * e.piece)) = false → exec (.edgeWriteRefused eid) s = .next s) ∧
    (isPeer (64 * e.piece) = true → s.peerUp (peerDev (64 * e.piece)) = true → e.vf = none → bits s.hring 4 0 = 0 →
      ∃ t, exec (.edgeWriteRefused eid) s = .next t ∧ (∀ x ∈ t.edges, x.id ≠ e.id) ∧ t.mem = s.mem ∧ t.peer = s.peer)) ∧
  (∀ (gs d : Nat) (w : Bool) (i : Instr) (s : State), (i = .monwTimeout gs ∧ w = false) ∨ (i = .wsleepTimeout gs ∧ w = true) →
    (s.thread gs).hold = some (.sleep w (some d)) → s.runs gs = true → (s.thread gs).det = false → d ≤ s.cycle →
    ∃ t, exec i s = .next t ∧ Spec.OnlyThread s t gs { s.thread gs with
      hold := some (.sleepDone (Spec.sleepResult (s.thread gs).intPending true (w && (s.thread gs).ready)
        (if w then 0 else (s.thread gs).hits))) })

/-- The value of a node of a reduction tree of a depth: its own contribution, then its children's in ascending order of CIX (R77, R222). -/
inductive Sys2Proof.Spec.NodeValue (s : State) : Nat → Node → Nat × List Nat → Prop
  | node (d : Nat) (n : Node) (fmt op : Nat) (own : List Nat) (kid : Nat → Node) (val : Nat → Nat × List Nat) :
    s.childrenOk n = true → n.contrib = some (fmt, op, own) → (∀ c, c < n.nch → s.childNode n (c + 1) = some (kid c)) →
    (∀ c, c < n.nch → Spec.NodeValue s d (kid c) (val c)) →
    Spec.NodeValue s (d + 1) n (fmt, (List.range n.nch).foldl (fun a c => treeJoin fmt op a (val c)) own)

/-- The root of a tree whose round is to be delivered. -/
def Sys2Proof.Spec.Root (s : State) (vf tree : Nat) (n : Node) : Prop :=
  s.nodes.find? (fun n => n.vf == vf && n.tree == tree && n.root && (s.thread n.gs).uid == n.uid) = some n

/-- R77, R189 to R192, R205, R221, R222, R362: the head of a sub-queue that the locks admit starts, and the round robin moves past it (log
entry 74); in each round a running command receives as many of its steps as its partition's weight, 8 for the hypervisor, and may read
blocks of its operands, each once, as memory holds it then (log entry 75); a running head that has received all of them and
whose chunks are committed completes: its tile rows take their values, it leaves the queue, and MC of its thread falls; a root whose
round has every contribution, its own and in ascending order its children's, delivers the doublewords of the total to its p15 while they
find room, and with the last the round is over; a round waits for a contribution that is missing, and a tree with a repeated CIX, or with
one above NCH, never completes one.
A round whose contributions differ in format has free values (log entry 46). -/
def Obligations.MatrixAndReductionEvents : Prop :=
  (∀ (cl sq : Nat) (c : MatCmd) (rest : List MatCmd) (s : State), sq / 256 = cl → s.clusterRuns cl = true →
    mgetD s.matq sq [] = c :: rest → c.running = false → s.mayStart cl c = true → s.headBefore cl sq = false →
    ∃ t, exec (.matrixCommandAccept cl sq) s = .next t ∧
      t = { s with matq := mput s.matq sq ({ c with running := true, left := c.stepCount, waits := s.barrierSet cl sq } :: rest), wrr := mput s.wrr cl (sq + 1) }) ∧
  (∀ (cl sq : Nat) (c : MatCmd) (rest : List MatCmd) (s : State), sq / 256 = cl → s.clusterRuns cl = true →
    mgetD s.matq sq [] = c :: rest → s.completable cl sq = true → (s.thread c.gs).uid = c.uid →
    ∃ t, exec (.matrixCommandComplete cl sq) s = .next t ∧ mgetD t.matq sq [] = rest ∧ t.mem = s.mem ∧ t.rf = s.rf ∧
      t.tiles = (s.writeTiles cl c).tiles ∧
      t.thread c.gs = { s.thread c.gs with mats := retireDone ((s.thread c.gs).mats.map (fun p => if p.1 = c.id then (c.id, true) else p)) } ∧
      (∀ g, g ≠ c.gs → t.thread g = s.thread g)) ∧
  (∀ (cl sq : Nat) (c : MatCmd) (rest : List MatCmd) (s : State), sq / 256 = cl → mgetD s.matq sq [] = c :: rest → c.running = true →
    ∃ h, (mgetD (s.matRound cl).matq sq []).head? = some { c with left := c.left - s.subqWeight sq, held := h } ∧
      (c.out.isSome = true ∨ c.lid.isSome = true → h = c.held) ∧ (∀ k v, mget c.held k = some v → mget h k = some v) ∧
      (∀ k v, mget c.held k = none → mget h k = some v → k ∈ c.blocks ∧ v = (List.range 128).map (fun b =>
        (s.byteAt (spadAddr (8 * cl + k / 2048) (k % 2048 * 128) + b), s.poisoned ((spadAddr (8 * cl + k / 2048) (k % 2048 * 128) + b) / 8))))) ∧
  (∀ (key : Nat) (s : State), (key % 32 = 0 → s.subqWeight key = 8) ∧
    (∀ p, key % 32 ≠ 0 → mget s.parts (key % 32 - 1) = some p → s.subqWeight key = max 1 p.mw)) ∧
  (∀ (vf tree : Nat) (ws : List Word) (n : Node) (s : State), Spec.Root s vf tree n →
    (n.out = some ws ∨ (n.out = none ∧ ∃ v, Spec.NodeValue s (s.nodes.length + 1) n v ∧ ws = totalWords v.1 v.2)) →
    let r := s.deliverWords n.gs ws
    (∃ t, exec (.reductionRoundDeliver vf tree) s = .next t ∧ t.threads = r.1.threads ∧ t.chans = r.1.chans ∧ t.mem = r.1.mem ∧ t.rf = r.1.rf ∧
      (r.2 = [] → ∀ m ∈ t.nodes, m.tree = tree → m.vf = vf → m.uid ∈ s.subtree (s.nodes.length + 1) n → m.contrib = none ∧ m.out = none) ∧
      (r.2 ≠ [] → t.nodes = r.1.nodes.map (fun m => if m.uid = n.uid ∧ m.tree = tree then { m with out := some r.2 } else m)))) ∧
  (∀ (gs : Nat) (w : Word) (ws : List Word) (s : State), s.deliverWords gs [] = (s, []) ∧
    (s.arrive gs 15 w = none → s.deliverWords gs (w :: ws) = (s, w :: ws)) ∧
    (s.chanOf gs 15 = none → (s.thread gs).queueRoom 15 = true → s.deliverWords gs (w :: ws) =
      (s.setThread gs { s.thread gs with p15 := (s.thread gs).p15 ++ [w] }).deliverWords gs ws) ∧
    (s.chanOf gs 15 = none → (s.thread gs).queueRoom 15 = false → s.arrive gs 15 w = none)) ∧
  (∀ (vf tree : Nat) (n : Node) (s : State), Spec.Root s vf tree n → n.out = none →
    (n.contrib = none ∨ s.childrenOk n = false ∨ (∃ c, c < n.nch ∧ s.childNode n (c + 1) = none) ∨
      (∃ c m, c < n.nch ∧ s.childNode n (c + 1) = some m ∧ (m.contrib = none ∨ s.childrenOk m = false))) →
    exec (.reductionRoundDeliver vf tree) s = .next s) ∧
  (∀ (n m m' : Node) (s : State), m ∈ s.childNodes n → s.nodeStands m = true → (n.nch < m.cix ∨
      (m' ∈ s.childNodes n ∧ s.nodeStands m' = true ∧ m ≠ m' ∧ m.cix = m'.cix)) → s.childrenOk n = false)

/-- R224, R284 to R304, R323: what each step of the scheduler does to the queues, the launches and the slots.
The model's own choices here: where the scheduler places what it starts (log entry 44), what a child and a task start with (41),
when a queue gives up its slot (59), when the placement map is read (47), what poison of a word of the scheduler's does (89). -/
def Obligations.SchedulerEvents : Prop :=
  -- a notified queue becomes pending, and is mapped where a slot is free and its ASID is the function's
  (∀ (vf q : Nat) (v : VFunc) (s : State), mget s.vfs vf = some v → q < 64 →
    let k := qKey vf q
    let asid := s.natAt (v.pa (v.vcba + 128 + 2 * q)) 2
    (s.mapped k = true → k ∈ s.qpend → exec (.queueNotify vf q) s = .next s) ∧
    (s.mapped k = true → ¬k ∈ s.qpend → exec (.queueNotify vf q) s = .next { s with qpend := s.qpend ++ [k] }) ∧
    (s.mapped k = false → ¬k ∈ s.qpend → s.qFree v vf = true → v.abase ≤ asid → asid < v.abase + v.acnt →
      exec (.queueNotify vf q) s = .next { s with qpend := s.qpend ++ [k], qmap := s.qmap ++ [⟨vf, q, asid⟩], qlast := k })) ∧
  -- a record whose waits are met becomes a launch and HEAD rises; an empty queue releases its slot
  (∀ (vf q asid : Nat) (m : QSlot) (v : VFunc) (r : List Word) (s : State),
    s.qmap.find? (fun m => m.vf == vf && m.q == q) = some m → mget s.vfs vf = some v → s.migrating vf = false →
    (∀ x ∈ s.qmap, qKey x.vf x.q ≠ qKey vf q → (s.headOfQueue false x).1.startable = false) →
    (∀ st f, (s.headOfQueue false m).1 = .record asid r st f → ∃ (t : State) (l : Launch),
      exec (.launchStart vf q) s = .next (t.fillPool (2 ^ lrPlog r) s.fresh) ∧
      mget t.launches s.fresh = some l ∧ l.record = r ∧ l.vf = vf ∧ l.queue = q ∧ l.asid = asid ∧ l.part = v.part ∧ l.begun = 0 ∧
      l.exited = 0 ∧ l.start = none ∧ l.slots = [] ∧ l.children = [] ∧ l.tasks = [] ∧ (l.ending = st ∨ (st = 0 ∧ l.ending = 1)) ∧
      let s1 := (s.headOfQueue true m).2
      let s2 := match f with | some e => s1.postTable e | none => s1
      t.mem = ({ s2 with qserve := qKey vf q, fresh := s.fresh + 1 }.raiseHead v q).mem) ∧
    ((s.headOfQueue false m).1 = .blocked none → exec (.launchStart vf q) s = .next (s.headOfQueue false m).2) ∧
    ((s.headOfQueue false m).1 = .empty false → s.qpend = [qKey vf q] →
      exec (.launchStart vf q) s = .next { s with qmap := s.qmap.filter (fun m => qKey m.vf m.q != qKey vf q), qpend := [] })) ∧
  -- the tasks an ordered launch starts with enter its pool while that has entries for them
  (∀ (n lid : Nat) (l : Launch) (s : State), mget s.launches lid = some l →
    (lrOrd l.record = false ∨ l.ending ≠ 0 ∨ l.initial ≤ l.first ∨ 2 ^ lrPlog l.record ≤ l.tasks.length → s.fillPool n lid = s) ∧
    (lrOrd l.record = true → l.ending = 0 → l.first < l.initial → l.tasks.length < 2 ^ lrPlog l.record →
      s.fillPool (n + 1) lid = (s.poolTask lid { l with first := l.first + 1 }
        { num := l.first, ts := 0, entry := lrEntry l.record, arg := 0, x3 := lrArg l.record, pool := none }).fillPool n lid)) ∧
  -- the next core group starts where it fits; a launch that cannot go on keeps its place
  (∀ (lid : Nat) (l : Launch) (s : State), mget s.launches lid = some l → s.launchOpen l = true →
    s.outranked lid l = false → lrDet l.record = false →
    (∀ t, startNext lid (lrBlocks l.record) 0 [] s = .ok (true, t) → exec (.coreGroupStart lid) s = .next t ∧
      ∃ l', mget t.launches lid = some l' ∧ l'.begun = l.begun + 1 ∧ l'.record = l.record) ∧
    (∀ t, startNext lid (lrBlocks l.record) 0 [] s = .ok (false, t) → exec (.coreGroupStart lid) s = .next t)) ∧
  (∀ (lid : Nat) (l : Launch) (s : State), mget s.launches lid = some l → s.launchOpen l = false ∨ s.outranked lid l = true →
    exec (.coreGroupStart lid) s = .next s) ∧
  -- the oldest child starts in a slot of its launch with its entry, registers and path
  (∀ (lid gs b : Nat) (l : Launch) (c : Child) (rest : List Child) (s : State), mget s.launches lid = some l → l.children = c :: rest →
    s.childSlot lid l c gs = true → s.runs gs = true → s.migrating l.vf = false →
    s.freeWindows (coreOf gs) (lrWin l.record) 1 [] = [b] →
    ∃ t, exec (.childStart lid gs) s = .next t ∧ (t.thread gs).live = true ∧ (t.thread gs).a.pc = c.entry ∧ (t.thread gs).path = c.path ∧
      (t.thread gs).parent = some c.puid ∧ (t.thread gs).gid = c.gid ∧ (t.thread gs).lid = some lid ∧ (t.thread gs).winBase = b ∧
      (t.thread gs).winLim = lrWin l.record ∧ (t.thread gs).asid = l.asid ∧ (t.thread gs).vf = some l.vf ∧
      mget t.launches lid = some { l with children := rest } ∧ t.mem = s.mem ∧ (∀ g, g ≠ gs → t.thread g = s.thread g)) ∧
  -- a slot of an ordered launch, still its function's and its partition's, takes the pending task of the lowest key
  (∀ (lid gs x g b : Nat) (l l1 : Launch) (k : Task) (v : VFunc) (s : State), mget s.launches lid = some l →
    l.slots.find? (fun x => x.1 == gs) = some (x, g) → mget s.vfs l.vf = some v → s.mustYield lid l gs = false → l.ending = 0 →
    lrOrd l.record = true → s.slotFree gs = true → s.runs gs = true → s.migrating l.vf = false → l.takeTask = some (k, l1) →
    s.freeWindows (coreOf gs) (lrWin l.record) 1 [] = [b] →
    (s.boundTo gs ≠ some l.vf ∨ s.partOf gs ≠ some l.part → exec (.taskStart lid gs) s = .next s) ∧
    (s.boundTo gs = some l.vf → s.partOf gs = some l.part →
    let s1 := match k.pool with | some e => s.readPool l e | none => s
    ∃ t : State, exec (.taskStart lid gs) s = .next (t.fillPool (2 ^ lrPlog l.record) lid) ∧ (t.thread gs).live = true ∧ (t.thread gs).a.pc = k.entry ∧ (t.thread gs).ts = k.ts ∧
      (t.thread gs).order = k.num ∧ (t.thread gs).lid = some lid ∧ (t.thread gs).winBase = b ∧ t.mem = s1.mem ∧
      mget t.launches lid = some { l1 with start := some (l1.start.getD s.cycle) } ∧ (∀ g, g ≠ gs → t.thread g = s1.thread g))) ∧
  -- a wait that does not hold at its key place consumes an index, and one entry of a sleep's timeout
  (∀ (gs lid : Nat) (l : Launch) (s : State), (s.thread gs).lid = some lid → mget s.launches lid = some l →
    (s.thread gs).live = true → (s.thread gs).det = true → s.runs gs = true → s.keyTurn gs = true →
    s.waitFails (s.thread gs) gs = true → s.launchBusy lid = false → s.launchStuck lid l = false →
    ∃ t, exec (.passedOverEntry gs) s = .next t ∧ (t.thread gs).ent = (s.thread gs).ent + 1 ∧ (t.thread gs).a = (s.thread gs).a ∧
      (∀ w d, (s.thread gs).hold = some (.sleep w (some d)) → (t.thread gs).hold = some (.sleep w (some (d - 1)))) ∧
      ((∀ w d, (s.thread gs).hold ≠ some (.sleep w (some d))) → (t.thread gs).hold = (s.thread gs).hold) ∧
      t.mem = s.mem ∧ t.rf = s.rf ∧ (∀ g, g ≠ gs → t.thread g = s.thread g)) ∧
  -- a launch that is done leaves its record and its event, once nothing holds its writes, and is gone; poison of its event counter is reported
  (∀ (lid : Nat) (l : Launch) (s : State), mget s.launches lid = some l → s.launchDone lid l = true →
    (∀ w, (s.completionWait l (lrCrec l.record) 32).orElse (fun _ => s.completionWait l (lrCev l.record) 8) = some w →
      exec (.launchComplete lid) s = .next w) ∧
    (s.completionWait l (lrCrec l.record) 32 = none → s.completionWait l (lrCev l.record) 8 = none →
      ∃ t, exec (.launchComplete lid) s = .next t ∧ mget t.launches lid = none ∧ t.mem = ((s.writeRecord l).raiseCev l).mem ∧
        (lrCrec l.record = 0 → lrCev l.record = 0 → t.mem = s.mem))) ∧
  (∀ (l : Launch) (s s1 : State) (pa : Nat), lrCev l.record ≠ 0 → s.engineXlat (some l.vf) l.asid 1 (lrCev l.record) .rmw = .ok (pa, s1) →
    s1.poisoned (pa / 8) = true → s.raiseCev l = s1.queueError l.vf l.queue Cause.dataPoison.code (lrCev l.record)) ∧
  -- a drain marks the started launches of its queue, and nothing else
  (∀ (vf q : Nat) (s : State), exec (.drainRequest vf q) s = .next { s with launches := s.launches.map (fun p =>
    if p.2.vf = vf ∧ p.2.queue = q % 64 ∧ p.2.ending = 0 ∧ (p.2.start.isSome = true ∨ p.2.begun ≠ 0) then (p.1, { p.2 with ending := 4 })
    else p) })

/-- R282, R283, R401 to R411: errors are merged, reported, marked as poison, in the tile store too, retried once or contained; a lost port
leaves the routes, and a part that no route leads to is reached no more, as every part with a bad identifier; resets leave the reset state,
with host and peer memory as they were, and STATE 0, with every field of the hand-off block zero, until bring-up ends; a function-level
reset kills every thread of the function, off its slot too, and is complete once none is left; HENTRY starts the hypervisor's first thread
once; a die throttles and stops throttling, a turn of the wheel being idle as a whole.
The model's own choices here: which corrected errors are merged (log entry 34), the names of the tile store's bytes and of a reset's end
(36), where an error of kind 2 takes place (55), what a reset keeps (56), the spread of idle turns (57), when bring-up ends (67), the routes
(91). -/
def Obligations.PackageEvents : Prop :=
  (∀ (kind pa gs addr : Nat) (i : Instr) (s : State), (i = .errorDetected 1 pa gs ∧ kind = 1 ∧ addr = pa) ∨
      (i = .errorDetected 6 pa gs ∧ kind = 6 ∧ addr = 0) ∨ (i = .linkFlitError ∧ kind = 6 ∧ addr = 0) →
    (∀ m ∈ s.merged, ¬(m.kind = kind ∧ (kind = 6 ∨ m.addr / 8192 = addr / 8192))) →
    exec i s = .next { s with merged := s.merged ++ [⟨kind, addr, s.cycle, 1⟩] }) ∧
  (∀ (pa gs : Nat) (s : State),
    exec (.errorDetected 2 pa gs) s = .next (if s.dieState (lineOf pa) (dieOf gs) = .e ∨ s.dieState (lineOf pa) (dieOf gs) = .s then
      s.postHyper 10 (s.ownerOf pa) 0 0 [BitVec.ofNat 64 (2 ^ 32 + 2 ^ 8 + 2), BitVec.ofNat 64 pa, 0] else s)) ∧
  (∀ (pa gs : Nat) (s : State),
    (pa < 2 ^ 61 → isPackage pa = false → isHost pa = false → exec (.errorDetected 3 pa gs) s = .next s) ∧
    (pa < 2 ^ 61 → isPackage pa = true ∨ isHost pa = true → exec (.errorDetected 3 pa gs) s =
      .next ((s.setPoison (pa / 8) true).postHyper 10 (s.ownerOf pa) 0 0 [BitVec.ofNat 64 (2 ^ 32 + 2 ^ 8 + 3), BitVec.ofNat 64 pa, 0]))) ∧
  (∀ (pc k gs : Nat) (s : State), pc < clusterCount → k < 2097152 →
    exec (.errorDetected 3 (2 ^ 61 + (2097152 * pc + k)) gs) s = .next (({ s with
      tilePoison := mput s.tilePoison (2097152 * pc + k) () } : State).postHyper 10 ((s.rowOwner pc (k / 2048)).getD 31) 0 0
        [BitVec.ofNat 64 (2 ^ 32 + 2 ^ 8 + 3), BitVec.ofNat 64 (2 ^ 61 + (2097152 * pc + k)), 0])) ∧
  (∀ (pa gs : Nat) (s : State), (s.thread gs).live = true →
    exec (.errorDetected 5 pa gs) s = .next (s.contain (s.thread gs).vf (s.thread gs).asid 1 (some gs)).1 ∧
    ((s.thread gs).retried = true ∨ (∀ c, (s.thread gs).chunks.getLast? = some c → c.granted = true ∨ c.policy % 2 = 0) →
      exec (.errorDetected 4 pa gs) s = .next (s.contain (s.thread gs).vf (s.thread gs).asid 2 (some gs)).1) ∧
    (∀ c, (s.thread gs).retried = false → (s.thread gs).chunks.getLast? = some c → c.granted = false → c.policy % 2 = 1 →
      let body : List Word := [BitVec.ofNat 64 (2 ^ 32 + 2 * 2 ^ 8 + 4), 0, 0]
      let s1 := s.squash gs ((s.thread gs).chunks.length - 1) true false
      let s2 := (s1.setThread gs { s1.thread gs with retried := true }).postHyper 10 ((s.partOf gs).getD 31) ((s.thread gs).vf.getD 0) gs body
      exec (.errorDetected 4 pa gs) s = .next (match (s.thread gs).vf with
        | some v => s2.postKernel v 10 (s.kernelPlace gs) body
        | none => s2))) ∧
  (∀ (port : Nat) (s : State),
    (36 ≤ port ∨ port ∈ s.portsDown → exec (.heathwayPortFailure port) s = .next s) ∧
    (port < 36 → ¬port ∈ s.portsDown →
      exec (.heathwayPortFailure port) s = .next ({ s with portsDown := port :: s.portsDown } : State).loseLinks)) ∧
  (∀ s : State, ((∀ p ∈ s.vfs, p.2.mstate ≠ 4 ∨ p.2.linkLost = true ∨ s.peerUp (s.otherPart p.1).1 = true) → s.loseLinks = s) ∧
    (∀ vf v, (∀ p ∈ s.vfs, (s.mig p.1).asked = []) → mget s.vfs vf = some v → v.mstate = 4 → v.linkLost = false →
      s.peerUp (s.otherPart vf).1 = false →
      ∃ w, mget s.loseLinks.vfs vf = some w ∧ w.linkLost = true)) ∧
  (∀ (dev : Nat) (s : State), badIdentifier = true ∨ (∀ p, p < 36 → p ∈ s.portsDown) → s.peerUp dev = false) ∧
  (∀ (i : Instr) (s : State), i = .packageReset ∨ i = .functionLevelReset 0 ∨ i = .thermalReset →
    ∃ t : State, exec i s = .next t ∧ t.threads = State.reset.threads ∧ t.rf = State.reset.rf ∧ t.parts = State.reset.parts ∧
      t.vfs = State.reset.vfs ∧ t.launches = State.reset.launches ∧ t.peer = s.peer ∧
      (∀ a, isHost a = true → t.byteAt a = s.byteAt a) ∧ (∀ a, isPackage a = true → t.byteAt a = 0) ∧
      t.ho = { State.reset.ho with state := 0 } ∧
      t.agenda = s.agenda.filter Act.outside ++ [if i = .thermalReset then .handOff 2 2 else .handOff 1 0]) ∧
  (∀ (st f i : Nat) (s : State), s.ho.state = 0 →
    s.act (.handOff st f) = .next { s with ho := { s.ho with state := st, fail := f } } ∧ s.handoffWord i = 0) ∧
  (∀ s : State, s.ho.state ≠ 0 →
    s.handoffWord 5 = BitVec.ofNat 64 (s.ho.fail ||| badIdentifier.toNat ||| 4 * Config.stackFailed.toNat)) ∧
  (∀ (n : Nat) (s : State), n ≠ 0 → ∃ t, exec (.functionLevelReset n) s = .next t ∧
    (∀ gs, (s.thread gs).live = true → (s.thread gs).vf = some (n - 1) → (t.thread gs).live = true → (t.thread gs).stopping = true) ∧
    (∀ a ∈ t.away, a.vf = n - 1 → a.t.live = false) ∧ (n ∈ t.flrs ∨ Out.resetDone n ∈ t.outbox) ∧
    ∀ p ∈ t.launches, p.2.vf = n - 1 → p.2.queue < 64 → p.2.ending = 0 → p.2.start = none ∧ p.2.begun = 0) ∧
  (∀ (v : BitVec 64) (s : State), (s.ho.state ≠ 1 → exec (.hentry v) s = .next s) ∧
    (s.ho.state = 1 → v.toNat % 4 = 0 → ∃ t : State, exec (.hentry v) s = .next t ∧ t.ho = { s.ho with hentry := v, state := 3 } ∧
      (t.thread fetchSlot).live = true ∧ (t.thread fetchSlot).a.pc = v ∧ (t.thread fetchSlot).level = 2 ∧
      (t.thread fetchSlot).dir = true ∧ (t.thread fetchSlot).ie = false ∧ (t.thread fetchSlot).winBase = 0 ∧
      (t.thread fetchSlot).winLim = 64 ∧ t.getXOf fetchSlot 3 = s.ho.harg ∧ t.mem = s.mem ∧
      (∀ g, g ≠ fetchSlot → t.thread g = s.thread g))) ∧
  (∀ (die cause frac : Nat) (s : State), die < 4 → 1 ≤ cause → cause ≤ 2 → frac ≤ 63 →
    (mget s.throttle die = some (cause, frac) → exec (.throttleStart die cause frac) s = .next s) ∧
    (mget s.throttle die ≠ some (cause, frac) →
      ∃ t, exec (.throttleStart die cause frac) s = .next t ∧ mget t.throttle die = some (cause, frac) ∧ t.rf = s.rf)) ∧
  (∀ s : State, s.cycle % 64 ≠ 0 → s.drawIdle = s) ∧
  (∀ (die : Nat) (s : State), (mget s.throttle die).isSome = true →
    ∃ t, exec (.throttleEnd die) s = .next t ∧ mget t.throttle die = none ∧ t.rf = s.rf)

/-- R258, R318, R348, R349, R351 to R354, R384, R411: the host's reads and writes of package memory and its snoops, an access to a page that a
migration has given up, and what a region's access counter at its
threshold does: a report, or a move of the region that its completion ends.
The model's own choices here: the place of the hand-off block (log entry 5), the copy of a moved region within one step (50), which groups
of leaves map a region (51), the offset a host error names (52), where CXL.mem reaches (53), what an access counter counts (54), which lines
the host holds (86). -/
def Obligations.HostLinkEvents : Prop :=
  (∀ (pa : Nat) (s : State), isHbm pa = true → s.segmentOf (pa / 64 * 64) = none →
    exec (.cxlMemRead pa) s = .next { s with
      hostLines := mput s.hostLines (lineOf (pa / 64 * 64)) ()
      outbox := s.outbox ++ [.hostData (pa / 64 * 64)
        (if (dwordsOf (pa / 64 * 64) 64).any s.poisoned then none else some (s.bytesAt (pa / 64 * 64) 64))] }) ∧
  (∀ (pa : Nat) (s : State), bar0 ≤ pa → pa < bar0 + 4096 →
    exec (.cxlMemRead pa) s = .next { s with outbox := s.outbox ++ [.hostData (pa / 64 * 64)
      (some ((List.range 8).flatMap (fun i => leBytes 8 (s.handoffWord ((pa - bar0) / 64 * 8 + i)).toNat)))] }) ∧
  (∀ (pa vf : Nat) (v : VFunc) (s : State), isHbm pa = true → s.segmentOf (pa / 64 * 64) = some (vf, v) → s.moves = [] → v.mstate = 3 →
    let ipa := pa / 64 * 64 - v.sbase
    ipa / 65536 ∈ (s.mig vf).given →
    let s1 := (s.countRegion vf v false (ipa / 65536)).hostError vf v (pa / 64 * 64)
    exec (.cxlMemRead pa) s = .next { s1 with outbox := s1.outbox ++ [.hostData (pa / 64 * 64) none] }) ∧
  -- a completion notice goes to the thread it is for, wherever its slot is
  (∀ (uid gs : Nat) (w : Word) (t : Thread) (s s1 : State), s.threads.find? (fun p => p.2.live && p.2.uid == uid) = some (gs, t) →
    gs < slotCount → (s.arrive gs 15 w = some s1 → s.sendNotice (uid, w) = s1) ∧
      (s.arrive gs 15 w = none → s.sendNotice (uid, w) = { s with notices := s.notices ++ [(uid, w)] })) ∧
  -- a committed write of lines that the host may hold goes back to the host, and is not complete until it has answered
  (∀ (items : List Nat) (s : State),
    let ls := items.filter (fun l => (mget s.hostLines l).isSome)
    (s.backInvalidate items).hostInval = s.hostInval ++ ls ∧ (s.backInvalidate items).outbox = s.outbox ++ ls.map Out.backInval ∧
    (∀ l ∈ ls, mget (s.backInvalidate items).hostLines l = none) ∧
    s.act .hostResponse = .next { s with hostInval := s.hostInval.drop 1 }) ∧
  (∀ (pa : Nat) (bytes : List Byte) (s : State), isHbm pa = true → bytes ≠ [] → pa % 64 + bytes.length ≤ 64 → s.segmentOf pa = none →
    exec (.cxlMemWrite pa bytes) s = .next ({ s with hostLines := mdel s.hostLines (lineOf pa) }.performAll none [.write pa bytes])) ∧
  (∀ (pa : Nat) (bytes : List Byte) (s : State), isHost pa = true → pa % 64 + bytes.length ≤ 64 →
    (bytes ≠ [] → exec (.cxlCacheSnoop pa bytes) s = .next (s.performAll none [.edge pa bytes])) ∧
    (bytes = [] → ∃ t, exec (.cxlCacheSnoop pa bytes) s = .next t ∧ t.mem = s.mem ∧ t.rf = s.rf ∧
      ∀ die, t.dieState (lineOf pa) die = (if (s.cohDrain (lineOf pa)).dieState (lineOf pa) die = .i then .i else .s))) ∧
  (∀ (vf region : Nat) (host : Bool) (v : VFunc) (s : State), mget s.vfs vf = some v →
    let e := s.dwordAt (v.pa ((if host then v.hct else v.dct) + 8 * region))
    let ptea := 8 * bits e 48 0
    let leaves := (List.range 16).map (fun i => s.dwordAt (v.pa ptea + 8 * i))
    (bits e 51 50 = 0 ∨ bits e 51 50 = 3 → exec (.accessCounterThreshold vf host region) s = .next s) ∧
    (bits e 51 50 = 1 → exec (.accessCounterThreshold vf host region) s = .next (s.report vf v 3 (65536 * region) 0 ptea)) ∧
    (∀ f s1, bits e 51 50 = 2 → ptea ≠ 0 → ptea % 128 = 0 → (v.window ptea).isSome = true → groupMaps (regionIpa host region) leaves = true →
      s.moves.length < 16 → State.takeFrame vf v host (65536 * region) ptea 511 s = (some f, s1) →
      ∃ t : State, exec (.accessCounterThreshold vf host region) s = .next t ∧
        t.moves = s1.moves ++ [⟨vf, host, region, f, ptea, leaves, []⟩] ∧
        t.mem = (s1.writeLeaves v ptea (leaves.map (fun w => putBit (putBit w 0 false) 53 true))).mem)) ∧
  (∀ (vf : Nat) (m : Move) (v : VFunc) (s : State), s.moves.find? (fun m => m.vf == vf) = some m → mget s.vfs vf = some v →
    ∃ t, exec (.regionMoveComplete vf) s = .next t ∧ t.moves = s.moves.erase m ∧ t.rf = s.rf ∧
      t.notices = s.notices ++ m.waiters.map (fun w => (w.1, BitVec.ofNat 64 (0xFE * 2 ^ 56 + w.2 * 2 ^ 32))))

/-- The device identifier that an action of the debug port names (R398). -/
def Sys2Proof.Spec.debugDev : Instr → Option Nat
  | .dbgen x _ => some x.dev
  | .bpset x _ _ => some x.dev
  | .halt x => some x.dev
  | .step x => some x.dev
  | .debugRead x => some x.dev
  | .debugWrite x _ => some x.dev
  | .debugResume x => some x.dev
  | _ => none

/-- R372, R373, R392 to R399, R408, R409: what the debug port takes where its action names this part's identifier, and what the counters, the
sampler, the trace units and the registers of the hand-off block take; a pulse while a sample is still being written raises SDROP.
How long a sample is being written is a free value (log entry 92); the place of the hand-off block (5), the counts of events tied to no
step (16), passing a breakpoint (25), a sample written in one step (32) and rings of a size out of range (33) are the model's own choices. -/
def Obligations.DebugAndObservationEvents : Prop :=
  (∀ (dev : Nat) (i : Instr) (s : State), dev ≠ Config.devid % 2 ^ 20 → Spec.debugDev i = some dev → exec i s = .next s) ∧
  (∀ (dev part : Nat) (on : Bool) (s : State), dev = Config.devid % 2 ^ 20 → ∃ d, exec (.dbgen ⟨dev, part⟩ on) s = .next { s with dbgen := d } ∧
    (part ∈ d ↔ on = true) ∧ ∀ p, p ≠ part → (p ∈ d ↔ p ∈ s.dbgen)) ∧
  (∀ (dev gc i : Nat) (bp : Option (Nat × Nat)) (s : State), dev = Config.devid % 2 ^ 20 → i < 4 →
    ∃ m, exec (.bpset ⟨dev, gc⟩ i bp) s = .next { s with bps := m } ∧
    mget m (4 * gc + i) = bp ∧ ∀ k, k ≠ 4 * gc + i → mget m k = mget s.bps k) ∧
  (∀ (dev gs : Nat) (s : State), dev = Config.devid % 2 ^ 20 → (s.thread gs).live = true → (s.thread gs).halted = false →
    ((s.thread gs).frozen = true → exec (.halt ⟨dev, [gs]⟩) s = .next (s.setThread gs { s.thread gs with halted := true })) ∧
    ((s.thread gs).frozen = false → (s.thread gs).stopFor ≠ none →
      exec (.halt ⟨dev, [gs]⟩) s = .next (s.setThread gs { s.thread gs with haltNext := true })) ∧
    ((s.thread gs).frozen = false → (s.thread gs).stopFor = none →
      let s1 := s.setThread gs { s.thread gs with stopFor := some .halt }
      (s.runs gs = false ∨ s1.atPoint gs = none → exec (.halt ⟨dev, [gs]⟩) s = .next s1) ∧
      (∀ s2, s.runs gs = true → s1.atPoint gs = some s2 →
        exec (.halt ⟨dev, [gs]⟩) s = .next (s2.setThread gs { s2.thread gs with halted := true, stopFor := none })))) ∧
  (∀ (dev gs : Nat) (s : State), dev = Config.devid % 2 ^ 20 → (s.thread gs).live = true → (s.thread gs).halted = true →
    exec (.step ⟨dev, gs⟩) s = .next (s.setThread gs { s.thread gs with stepping := true }) ∧
    exec (.debugRead ⟨dev, gs⟩) s = .next { s with outbox := s.outbox ++ [.debugData gs (s.threadRecord gs)] } ∧
    exec (.debugResume ⟨dev, [gs]⟩) s = .next (s.setThread gs { s.thread gs with
      halted := false, haltNext := false, stepping := false
      stopFor := if (s.thread gs).stopFor = some .halt then none else (s.thread gs).stopFor }) ∧
    (∀ r : List Word, recSize r = (s.thread gs).winLim → r.length = recLength (s.thread gs).winLim (recGrant r) →
      exec (.debugWrite ⟨dev, gs⟩ r) s =
        .next (s.placeRecord gs (s.recordThread (s.thread gs) (s.thread gs).vf (s.thread gs).winBase r) r)) ∧
    (∀ r : List Word, recSize r ≠ (s.thread gs).winLim → exec (.debugWrite ⟨dev, gs⟩ r) s = .next s)) ∧
  (∀ s : State, (s.pulseDue = false → exec .samplingPulse s = .next s) ∧
    (s.pulseDue = true → s.cycle < s.sampling → exec .samplingPulse s = .next (({ s with pulsed := some s.cycle } : State).performAll none
      [.write (s.ctb + 0x598) (leBytes 8 ((s.dwordAt (s.ctb + 0x598)).toNat + 1))])) ∧
    (s.pulseDue = true → s.sampling ≤ s.cycle →
      let l := bits (s.dwordAt (s.ctb + 0x588)) 4 0
      ∃ t, exec .samplingPulse s = .next t ∧ t.pulsed = some s.cycle ∧ t.rf = s.rf ∧
        (l < 16 ∨ 30 < l → t.sserial = s.sserial ∧ t.mem = s.mem) ∧ (16 ≤ l → l ≤ 30 → t.sserial = s.sserial + 1))) ∧
  (∀ (blk i base : Nat) (v : BitVec 64) (s : State), s.obsBase blk = some base → i < 16 →
    ∃ t, exec (.counterConfig blk i v) s = .next t ∧ t.rf = s.rf ∧
      ∃ c, mget t.counters (16 * blk + i) = some c ∧ c.cfg = v ∧ c.value = 0 ∧ c.frozen = false ∧ c.ovf = false ∧ c.inval = cfgInvalid blk v) ∧
  (∀ (blk base : Nat) (v : BitVec 64) (s : State), s.obsBase blk = some base →
    exec (.snap blk v) s = .next (s.performAll none
      [.write (base + 0x80) ((List.range 16).flatMap (fun i => leBytes 8 (mgetD s.counters (16 * blk + i) Counter.zero).word.toNat)),
        .write (base + 0x108) (leBytes 8 v.toNat)]) ∧
    exec (.traceConfig blk) s = .next (s.performAll none [.write (base + 0x120) (leBytes 24 0)]) ∧
    exec (.trptr blk v) s = .next (s.performAll none [.write (base + 0x130) (leBytes 8 v.toNat)])) ∧
  (∀ (vf die : Nat) (v : VFunc) (s : State), mget s.vfs vf = some v → die < 4 →
    let h := s.traceHold.getD die 511
    (h = 511 → s.hyperClaims die = false → ∃ t, exec (.tclaim vf die true) s = .next t ∧ t.traceHold = s.traceHold.set die vf ∧ t.rf = s.rf) ∧
    (h ≠ 511 → ∃ t, exec (.tclaim vf die true) s = .next t ∧ t.traceHold = s.traceHold ∧ t.rf = s.rf) ∧
    (h = vf → ∃ t, exec (.tclaim vf die false) s = .next t ∧ t.traceHold = s.traceHold.set die 511 ∧ t.rf = s.rf) ∧
    (h ≠ vf → exec (.tclaim vf die false) s = .next s)) ∧
  (∀ (pa : Nat) (v : BitVec 64) (s : State),
    (pa = bar0 + 56 → exec (.registerWrite pa v) s = .next { s with ho := { s.ho with harg := v } }) ∧
    (pa = bar0 + 64 → 1000 ≤ v.toNat % 4096 → v.toNat % 4096 ≤ 2800 →
      exec (.registerWrite pa v) s = .next { s with ho := { s.ho with pwrcap := v.toNat % 4096 } }) ∧
    (pa < bar0 → pa % 8 = 0 → isMapped pa = true → isHost pa = false →
      exec (.registerWrite pa v) s = .next (s.performAll none [.write pa (leBytes 8 v.toNat)])))

/-- The mailbox commands, with their operation codes (Table 20.1, R359). -/
def Sys2Proof.Spec.mbCode (i : Instr) : Option (Nat × MbCmd) :=
  match i with
  | .mbPset c => some (1, c)
  | .vset c => some (2, c)
  | .hset c => some (3, c)
  | .mbPlog c => some (4, c)
  | .contain c => some (5, c)
  | .drain c => some (6, c)
  | .trace c => some (7, c)
  | .bstop c => some (0x10, c)
  | .brest c => some (0x11, c)
  | .hover c => some (0x12, c)
  | _ => none

/-- The mailbox has taken the command of a doorbell. -/
def Sys2Proof.Spec.taken (s : State) : State := { s with mb := { s.mb with busy := true } }

/-- R320, R321, R323, R326, R358 to R373: with a command in progress a command changes nothing; one whose code or zero fields are wrong
answers with STATUS 1, one that stands in another's way with 2, one of what is in use or held with 3, and none of them changes anything else;
each that is admitted does what its row says, and its result is written at once or when its wait ends.
What a bale's body holds (log entry 7), the numbers of stopped clusters (14), the sums of shares of a cluster (26) and the slots a VSET binds
(31) are the model's own. -/
def Obligations.MailboxCommands : Prop :=
  (∀ (i : Instr) (op : Nat) (c : MbCmd) (s : State), Spec.mbCode i = some (op, c) →
    (s.mb.run ≠ none → exec i s = .next s) ∧
    (s.mb.run = none → (bits c.target 7 0 ≠ op ∨ bits c.target 47 32 ≠ 0 ∨ bits c.target 15 8 ≠ 0) →
      exec i s = .next ((Spec.taken s).mbResult (bits c.target 63 48) 1 0 0))) ∧
  (∀ (i : Instr) (op : Nat) (c : MbCmd) (s : State), Spec.mbCode i = some (op, c) → s.mb.run = none → mbFormed c = true → mbOp c = op →
    let s0 := Spec.taken s
    let seq := bits c.target 63 48
    let tgt := bits c.target 31 16
    let a0 := c.args.getD 0 0
    let a1 := c.args.getD 1 0
    let a2 := c.args.getD 2 0
    -- PSET
    (∀ d, i = .mbPset c → tgt < 20 → a0.toNat % 128 = 0 → s0.mbDwords a0.toNat 16 = .ok d → d.all (· == 0) = true →
      s0.inUse tgt ⟨d, 0, 0, 0, 0, false⟩ = false →
      (∀ p ∈ s.parts, p.1 ≠ tgt → (⟨d, 0, 0, 0, 0, false⟩ : Part).conflicts p.2 = false) →
      overfull ⟨d, 0, 0, 0, 0, false⟩ ((s.parts.filter (fun x => x.1 != tgt)).map (·.2)) = false →
      ∃ t, exec i s = .next t ∧ mget t.parts tgt = none ∧ ∀ p, p ≠ tgt → mget t.parts p = mget s.parts p) ∧
    (∀ d, i = .mbPset c → tgt < 20 → a0.toNat % 128 = 0 → s0.mbDwords a0.toNat 16 = .ok d → d.all (· == 0) = false → partValid d = true →
      (∀ p ∈ s.parts, p.1 ≠ tgt → (⟨d, 0, 0, 0, 0, false⟩ : Part).conflicts p.2 = false) →
      overfull ⟨d, 0, 0, 0, 0, false⟩ ((s.parts.filter (fun x => x.1 != tgt)).map (·.2)) = false →
      ((s.parts.filter (fun x => x.1 != tgt)).map (·.2)).foldl (fun acc q => acc ||| dw q.desc 11) (dw d 11) ≠ BitVec.allOnes 64 →
      s0.inUse tgt ⟨d, 0, 0, 0, 0, false⟩ = false →
      ∃ (t : State) (p : Part), exec i s = .next t ∧ mget t.parts tgt = some p ∧ p.desc = d ∧
        ∀ k, k ≠ tgt → mget t.parts k = mget s.parts k) ∧
    (∀ d, i = .mbPset c → tgt < 20 → a0.toNat % 128 = 0 → s0.mbDwords a0.toNat 16 = .ok d → d.all (· == 0) = true ∨ partValid d = true →
      ((∃ p ∈ s.parts, p.1 ≠ tgt ∧ (⟨d, 0, 0, 0, 0, false⟩ : Part).conflicts p.2 = true) → exec i s = .next (s0.mbResult seq 2 0 0)) ∧
      ((∀ p ∈ s.parts, p.1 ≠ tgt → (⟨d, 0, 0, 0, 0, false⟩ : Part).conflicts p.2 = false) →
        overfull ⟨d, 0, 0, 0, 0, false⟩ ((s.parts.filter (fun x => x.1 != tgt)).map (·.2)) = false →
        (d.all (· == 0) = true ∨
          ((s.parts.filter (fun x => x.1 != tgt)).map (·.2)).foldl (fun acc q => acc ||| dw q.desc 11) (dw d 11) ≠ BitVec.allOnes 64) →
        s0.inUse tgt ⟨d, 0, 0, 0, 0, false⟩ = true → exec i s = .next (s0.mbResult seq 3 0 0))) ∧
    -- VSET, a deletion
    (∀ d, i = .vset c → tgt < 256 → a0.toNat % 64 = 0 → s0.mbDwords a0.toNat 24 = .ok d → d.all (· == 0) = true →
      s0.fnBusy tgt = false → s0.migHolds tgt = false →
      ∃ t, exec i s = .next t ∧ mget t.vfs tgt = none ∧ (∀ v, v ≠ tgt → mget t.vfs v = mget s.vfs v) ∧ (∀ m ∈ t.qmap, m.vf ≠ tgt) ∧
        t.rf = s.rf) ∧
    (∀ d, i = .vset c → tgt < 256 → a0.toNat % 64 = 0 → s0.mbDwords a0.toNat 24 = .ok d → d.all (· == 0) = true →
      s0.fnBusy tgt = true ∨ s0.migHolds tgt = true → exec i s = .next (s0.mbResult seq 3 0 0)) ∧
    -- VSET, a creation or a replacement: refused where it stands in the way of another function or a thread, else carried out
    (∀ d p, i = .vset c → tgt < 256 → a0.toNat % 64 = 0 → s0.mbDwords a0.toNat 24 = .ok d → d.all (· == 0) = false → fnValid d = true →
      mget s.parts (bits (dw d 0) 4 0) = some p →
      let v : VFunc := ⟨d, [], false, 1, 0, false⟩
      s0.readable (dw d 2).toNat (2 * v.ncl) = true →
      let cmap := (List.range v.ncl).map (fun k => s0.natAt ((dw d 2).toNat + 2 * k) 2)
      let others := (s.vfs.filter (fun x => x.1 != tgt)).map (·.2)
      let clear : Prop := cmap.Nodup ∧ (∀ k ∈ cmap, p.ownsCluster k = true) ∧ p.holds v.sbase v.sbound = true ∧
        (∀ w ∈ others, rangesMeet v.sbase v.sbound w.sbase w.sbound = false ∧ rangesMeet v.abase v.acnt w.abase w.acnt = false) ∧
        v.qsl + (others.map VFunc.qsl).foldl (· + ·) 0 ≤ 1024
      let held : Prop := ∃ x ∈ s.threads, x.2.live = true ∧ p.ownsSlot x.1 = true ∧ clusterOf x.1 ∈ cmap ∧ ∃ f, x.2.vf = some f ∧ f ≠ tgt
      (¬clear → exec i s = .next (s0.mbResult seq 2 0 0)) ∧
      (clear → held → exec i s = .next (s0.mbResult seq 3 0 0)) ∧
      (clear → ¬held → ∃ (t : State) (w : VFunc), exec i s = .next t ∧ mget t.vfs tgt = some w ∧ w.desc = d ∧ w.cmap = cmap ∧
        (∀ k, k ≠ tgt → mget t.vfs k = mget s.vfs k) ∧ (∀ k ∈ cmap, ¬k ∈ t.freed) ∧
        (∀ gs, clusterOf gs ∈ cmap → bit p.slots (slotOf gs) = true →
          (∀ b ∈ s.binds, coreOf gs ∈ b.cores → bit b.slots (slotOf gs) = true → ∀ f, b.vf = some f → f ≠ tgt → s.fnBusy f = false) →
          t.boundTo gs = some tgt))) ∧
    -- HSET
    (i = .hset c → tgt = 0 → bits a0 63 57 = 0 → bits a0 11 5 = 0 → 6 ≤ bits a0 4 0 → bits a0 4 0 ≤ 16 → bits a1 63 18 = 0 →
      bits a1 17 9 < clusterCount → bits a2 63 52 = 0 → bits a2 11 1 = 0 →
      ∃ t, exec i s = .next t ∧ t.hring = a0 ∧ t.hslot = a1 ∧ t.hserial = 1 ∧ t.hctx = a2 ∧ t.mb.run = none) ∧
    -- PLOG
    (∀ p, i = .mbPlog c → mget s.parts tgt = some p → a0.toNat % 8 = 0 → bits a2 63 3 = 0 → bits a2 2 1 ≠ 3 →
      ∃ (t : State) (q : Part), exec i s = .next t ∧ mget t.parts tgt = some q ∧ q.logBase = a0.toNat ∧ q.logLen = a1.toNat ∧ q.policy = bits a2 2 0 ∧
        q.desc = p.desc ∧ (q.logPos = if a0.toNat = p.logBase then p.logPos else 0) ∧ t.rf = s.rf) ∧
    -- CONTAIN and DRAIN
    (i = .contain c → (mget s.vfs tgt).isSome = true → bits a0 63 14 = 0 →
      let r := s0.contain (some tgt) a0.toNat 4 none
      exec i s = .next (r.1.mbResult seq 0 r.2 0)) ∧
    (i = .drain c → (mget s.vfs tgt).isSome = true → a0.toNat < 64 →
      exec i s = .next ((s0.drainQueue tgt a0.toNat).mbResult seq 0 0 0)) ∧
    -- TRACE of a unit that no guest holds, and of one that a guest holds: revoked, claimed in vain, or left
    (i = .trace c → tgt < 4 → bits a0 63 2 = 0 → 256 ≤ s.traceHold.getD tgt 511 →
      ∃ t, exec i s = .next t ∧ t.traceHold = s.traceHold.set tgt (if a0.getLsbD 0 then 256 else 511) ∧ t.rf = s.rf) ∧
    (i = .trace c → tgt < 4 → bits a0 63 2 = 0 → s.traceHold.getD tgt 511 < 256 →
      let h := s.traceHold.getD tgt 511
      (a0.getLsbD 1 = true → ∃ t, exec i s = .next t ∧
        t.traceHold = s.traceHold.set tgt (if a0.getLsbD 0 then 256 else 511) ∧ t.rf = s.rf) ∧
      (a0.getLsbD 1 = false → a0.getLsbD 0 = true → s0.claimedNow tgt = false → exec i s = .next (s0.mbResult seq 3 h 0)) ∧
      (a0.getLsbD 1 = false → a0.getLsbD 0 = false → exec i s = .next (s0.mbResult seq 0 h 0))) ∧
    -- BSTOP
    (∀ part, i = .bstop c → tgt < clusterCount → s0.wholeOwner tgt = some part → s0.clusterRuns tgt = true → ¬tgt ∈ s.freed →
      (List.range baleBlocks).all (fun k => s0.bufferBlock (a0.toNat + 4096 * k)) = true →
      ∃ t, exec i s = .next t ∧ t.rf = s.rf ∧ t.mem = s.mem ∧ t.clusterRuns tgt = false ∧
        (∃ b, mget t.stops s.nextStop = some b ∧ b.pc = tgt ∧ b.phase = .stopping ∧ b.buf = a0.toNat) ∧
        (∃ r, t.mb.run = some r ∧ r.wait = .bstop tgt)) ∧
    (i = .bstop c → clusterCount ≤ tgt ∨ s0.wholeOwner tgt = none ∨ s0.clusterRuns tgt = false ∨ tgt ∈ s.freed →
      exec i s = .next (s0.mbResult seq 5 0 5)) ∧
    -- BREST of a bale of this part
    (∀ h n b, i = .brest c → s0.checkBale a0.toNat = .ok h → tgt < clusterCount → tgt ∈ s.freed → s0.wholeOwner tgt = some h.part →
      h.dev = Config.devid % 2 ^ 20 → s0.stopOf h = some (n, b) →
      ∃ t, exec i s = .next t ∧ t.rf = s.rf ∧ t.mem = s.mem ∧ mget t.stops n = some { b with
        phase := .into tgt, buf := a0.toNat, altered := s0.bodyAltered n a0.toNat } ∧ ¬tgt ∈ t.freed ∧
        (∃ r, t.mb.run = some r ∧ r.wait = .brest tgt)) ∧
    (∀ h, i = .brest c → s0.checkBale a0.toNat = .ok h → tgt < clusterCount → tgt ∈ s.freed → s0.wholeOwner tgt = some h.part →
      (h.dev = Config.devid % 2 ^ 20 → s0.stopOf h = none → exec i s = .next (s0.mbResult seq 5 0 5)) ∧
      (h.dev ≠ Config.devid % 2 ^ 20 → ∃ t b, exec i s = .next t ∧ t.rf = s.rf ∧ t.mem = s.mem ∧ mget t.stops s.nextStop = some b ∧
        b.phase = .into tgt ∧ b.buf = a0.toNat ∧ b.foreign = true ∧ ¬tgt ∈ t.freed)) ∧
    (∀ e, i = .brest c → s0.checkBale a0.toNat = .error e → exec i s = .next (s0.mbResult seq e.1 e.2.1 e.2.2)) ∧
    -- HOVER
    (∀ p vo vi, i = .hover c → mget s.parts tgt = some p → mget s.vfs (bits a1 7 0) = some vo → mget s.vfs (bits a1 15 8) = some vi →
      bits a1 63 16 = 0 → bits a1 7 0 ≠ bits a1 15 8 → a2.toNat % 8 = 0 → (c.args.getD 3 0).toNat % 8 = 0 → isMapped a2.toNat = true →
      (c.args.getD 3 0 = 0 ∨ isMapped (c.args.getD 3 0).toNat = true) → vo.part = tgt → vi.part = tgt → a0 &&& ~~~p.slots = 0 →
      s0.hoverSlots p a0 (bits a1 7 0) vi ≠ [] →
      ∃ t h, exec i s = .next t ∧ t.hover = some h ∧ h.slots = s0.hoverSlots p a0 (bits a1 7 0) vi ∧ h.out = bits a1 7 0 ∧ h.inc = bits a1 15 8 ∧
        (∃ r, t.mb.run = some r ∧ r.wait = .hover) ∧
        (∀ gs ∈ h.slots, (s.thread gs).live = true → (t.thread gs).stopFor = some .hover) ∧ t.rf = s.rf ∧ t.mem = s.mem)) ∧
  (∀ (r : MbRun) (p : Nat) (v : Option Nat) (f : List (Nat × Nat)) (s : State), s.mb.run = some r → r.wait = .scrub p v f →
    exec .scrubComplete s = .next (s.mbResult r.seq 0 r.d1 r.d3)) ∧
  (∀ (seq st d1 d3 : Nat) (s : State), ∃ t, t = s.mbResult seq st d1 d3 ∧ t.rf = s.rf ∧ t.parts = s.parts ∧ t.vfs = s.vfs ∧ t.mb.run = none)

/-- R321, R322, R326, R330, R331: a stopped cluster freezes once its grants have arrived, its state standing apart; its bale stands in
its buffer and the cluster is free; a restored cluster has its state back and the stop is over; a slot is handed over at its point, and
a returned thread goes on with exactly the lanes it had.
The model's own choices here: what stands in a bale's body and what a restore brings (log entry 7), the numbers of stopped clusters
(14), the save area (15), the skid counts (17), when a slot is handed over (30). -/
def Obligations.BaleAndHandoverEvents : Prop :=
  (∀ (cl n : Nat) (b : BaleStop) (s : State), s.stopAt cl .stopping = some (n, b) → cl < clusterCount →
    ((∃ p ∈ s.threads, clusterOf p.1 = cl ∧ ∃ c ∈ p.2.chunks, c.granted = true) ∨ (∃ q ∈ s.sigs, sigFrom cl q = true) → exec (.baleFreeze cl) s = .next s) ∧
    ((∀ p ∈ s.threads, clusterOf p.1 = cl → ∀ c ∈ p.2.chunks, c.granted = false) → (∀ q ∈ s.sigs, sigFrom cl q = false) →
      ∃ (t : State) (b1 : BaleStop), exec (.baleFreeze cl) s = .next t ∧ mget t.stops n = some b1 ∧ b1.phase = .frozen ∧ b1.cseq = s.pkgSeq ∧
        b1.cyc = s.cycle ∧ b1.pc = b.pc ∧ b1.buf = b.buf ∧ (∀ p ∈ t.threads, clusterOf p.1 ≠ cl))) ∧
  (∀ (cl n : Nat) (b : BaleStop) (s : State), s.stopAt cl .frozen = some (n, b) →
    (∀ v, b.mig = some v → exec (.baleStreamOutEnd cl) s = .next { s with stops := mput s.stops n { b with phase := .out } }) ∧
    (b.mig = none → ∃ (t : State) (b1 : BaleStop), exec (.baleStreamOutEnd cl) s = .next t ∧ t.freed = cl :: s.freed ∧ mget t.stops n = some b1 ∧
      b1.phase = .out ∧ t.rf = s.rf)) ∧
  (∀ (cl n : Nat) (b : BaleStop) (s : State), s.stops.find? (fun x => x.2.phase == .into cl) = some (n, b) →
    ∃ t, exec (.baleStreamInEnd cl) s = .next t ∧ mget t.stops n = none) ∧
  (∀ (gs : Nat) (h : Hover) (r : MbRun) (vo vi : VFunc) (s : State), s.hover = some h → s.mb.run = some r → mget s.vfs h.out = some vo →
    mget s.vfs h.inc = some vi → gs ∈ h.slots → s.runs gs = true →
    (s.handable h gs = none → exec (.slotHandover gs) s = .next s) ∧
    (∀ s1 s2, s.handable h gs = some s1 → (s1.saveSlot h vo gs).fillSlot h vi gs = some s2 →
      let s3 := s2.bindSlots [coreOf gs] (BitVec.ofNat 64 (2 ^ slotOf gs)) (some h.inc)
      (h.slots.erase gs ≠ [] → exec (.slotHandover gs) s =
        .next { s3 with hover := some { h with slots := h.slots.erase gs, count := h.count + 1 } }) ∧
      (h.slots.erase gs = [] → exec (.slotHandover gs) s = .next ({ s3 with hover := none }.mbResult r.seq 0 (h.count + 1) 0)))) ∧
  (∀ (gs n : Nat) (s : State), (s.thread gs).hold = some (.lanes n) → (s.thread gs).live = true → s.runs gs = true → n ≤ s.lanesFree gs →
    ∃ t, exec (.handoverResume gs) s = .next t ∧
      Spec.OnlyThread s t gs { s.thread gs with hold := none, a := { (s.thread gs).a with grant := n } })

/-- R375 to R380, Tables 22.1 to 22.3: which requests the migration block of a function admits in which state, and the state, the status
code and the window that each leaves; no register changes.
The model's own choices here: CRC-32C (log entry 27), the layout of the QUEUE and OWN sections (28), what the STAT codes stand for and when
the link is lost (36), a stream without them (61), pulls held before PRECOPY (62), the routes (91). -/
def Obligations.MigrationRequests : Prop :=
  (∀ (vf : Nat) (v : VFunc) (s : State), mget s.vfs vf = some v →
    (s.mpeer vf = true → v.mstate = 0 → ∃ t, exec (.precopy vf) s = .next t ∧ mget t.vfs vf = some { v with mstate := 1 } ∧
      (t.mig vf).heldAccesses = (s.mig vf).heldAccesses ∧
      (t.mig vf).steps = 1 ∧ (t.mig vf).stat = 0 ∧ t.rf = s.rf) ∧
    (s.mpeer vf = false ∨ v.mstate ≠ 0 → ∃ t, exec (.precopy vf) s = .next t ∧ mget t.vfs vf = some v ∧ (t.mig vf).stat = 2 ∧ t.rf = s.rf) ∧
    (s.mpeer vf = true → v.mstate = 0 ∨ v.mstate = 1 → (s.dwordAt (s.migBase vf)).getLsbD 8 = true →
      ∃ (t : State) (w : VFunc), exec (.stopping vf) s = .next t ∧ mget t.vfs vf = some w ∧ w.mstate = 2 ∧ w.desc = v.desc ∧ t.rf = s.rf ∧
        ∀ gs, (s.thread gs).live = true → (s.thread gs).vf = some vf → (t.thread gs).stopFor = some .migrate) ∧
    (s.mpeer vf = false ∨ (v.mstate ≠ 0 ∧ v.mstate ≠ 1) →
      ∃ t, exec (.stopping vf) s = .next t ∧ mget t.vfs vf = some v ∧ (t.mig vf).stat = 2 ∧ t.rf = s.rf) ∧
    (s.mpeer vf = true → bits (s.dwordAt (s.migBase vf)) 2 0 = 3 → v.mstate = 1 ∨ (v.mstate = 4 ∧ (s.mig vf).ended = false) →
      ∃ t, exec (.abort vf) s = .next t ∧ mget t.vfs vf = some { v with mstate := 0 } ∧ (t.mig vf).steps = 0 ∧ t.rf = s.rf) ∧
    (s.mpeer vf = true → bits (s.dwordAt (s.migBase vf)) 2 0 = 3 → v.mstate = 3 → (s.mig vf).started = false →
      (∀ x ∈ s.stops, x.2.mig ≠ some vf) →
      ∃ t, exec (.abort vf) s = .next t ∧ mget t.vfs vf = some { v with mstate := 0 } ∧ (t.mig vf).steps = 0 ∧ (t.mig vf).heldPulls = []) ∧
    (s.mpeer vf = false ∨ bits (s.dwordAt (s.migBase vf)) 2 0 ≠ 3 ∨ v.mstate = 0 ∨ v.mstate = 2 ∨ 4 < v.mstate ∨
        (v.mstate = 3 ∧ (s.mig vf).started = true) ∨ (v.mstate = 4 ∧ (s.mig vf).ended = true) →
      ∃ t, exec (.abort vf) s = .next t ∧ mget t.vfs vf = some v ∧ (t.mig vf).stat = 2 ∧ t.rf = s.rf) ∧
    (s.mpeer vf = true → v.mstate = 0 → s.fnBusy vf = false → (s.absentPages v).length = v.pages →
      ∃ t, exec (.resuming vf) s = .next t ∧ mget t.vfs vf = some { v with mstate := 4, linkLost := !s.peerUp (s.otherPart vf).1 } ∧ (t.mig vf).steps = 0 ∧
        (t.mig vf).heldAccesses = (s.mig vf).heldAccesses ∧ (t.mig vf).pullall = (s.dwordAt (s.migBase vf + 0x10)).getLsbD 0 ∧
        (t.mig vf).ended = false ∧ t.rf = s.rf) ∧
    (s.mpeer vf = false ∨ v.mstate ≠ 0 → ∃ t, exec (.resuming vf) s = .next t ∧ mget t.vfs vf = some v ∧ (t.mig vf).stat = 2 ∧ t.rf = s.rf) ∧
    (v.mstate ≠ 2 ∨ s.migQuiet vf = false → exec (.migrationStopped vf) s = .next s) ∧
    (v.mstate = 2 → s.migQuiet vf = true → (s.mig vf).form = 1 → (∀ x ∈ s.stops, x.2.mig ≠ some vf) →
      ∃ t, exec (.migrationStopped vf) s = .next t ∧ mget t.vfs vf = some { v with mstate := 3 } ∧ (t.mig vf).ending = true ∧
        (t.mig vf).heldPulls = [] ∧ t.rf = s.rf) ∧
    (v.mstate ≠ 4 → s.dwordAt (s.migBase vf + 0x100) = BitVec.ofNat 64 (s.mig vf).steps →
      ∃ t, exec (.mackRelease vf) s = .next t ∧ (t.mig vf).mack = (s.mig vf).steps ∧ t.rf = s.rf) ∧
    (s.dwordAt (s.migBase vf + 0x100) ≠ BitVec.ofNat 64 (s.mig vf).steps → exec (.mackRelease vf) s = .next s) ∧
    (v.mstate = 4 → (s.mig vf).ended = false → s.dwordAt (s.migBase vf + 0x100) = BitVec.ofNat 64 ((s.mig vf).steps + 1) →
      (∀ code, s.checkStep vf v = .error code →
        ∃ t, exec (.mackSubmit vf) s = .next t ∧ (t.mig vf).stat = code ∧ (t.mig vf).steps = (s.mig vf).steps ∧
          (t.mig vf).stream = (s.mig vf).stream ∧ t.rf = s.rf) ∧
      (∀ x, s.checkStep vf v = .ok x → x.fin = false →
        ∃ t, exec (.mackSubmit vf) s = .next t ∧ (t.mig vf).steps = (s.mig vf).steps + 1 ∧ (t.mig vf).stream = x.stream ∧ t.rf = s.rf)))

/-- R259, R341, R342, R375, R382, R383, R386, R389: pages that are pulled, given up and brought, the messages of the two parts of a
migration and of their peers, and accesses that arrive from peers; event records written before their page has come stand in it (R388).
The model's own choices here: records written before their page has come (log entry 35), when the link is lost (36), what a peer holds (37),
pulls held (62). -/
def Obligations.MigrationTraffic : Prop :=
  (∀ (vf page : Nat) (s : State), mget s.vfs vf = none →
    exec (.pull vf page) s = .next { s with outbox := s.outbox ++ [.pullFail (s.otherPart vf).1 (s.otherPart vf).2 page] }) ∧
  (∀ (vf page : Nat) (v : VFunc) (s : State), mget s.vfs vf = some v →
    (v.mstate = 3 → page < v.pages → ¬page ∈ (s.mig vf).given →
      let pa := v.sbase + 65536 * page
      ∃ (t : State) (recs : List (List Word)) (pre post : List Out), exec (.pull vf page) s = .next t ∧
        (t.mig vf).given = (s.mig vf).given ++ [page] ∧
        t.outbox = s.outbox ++ pre ++ [.pullData (s.otherPart vf).1 (s.otherPart vf).2 page (s.bytesAt pa 65536)
          ((List.range 8192).filter (fun i => s.poisoned (pa / 8 + i))) recs] ++ post ∧
        (∀ o ∈ pre ++ post, ∃ l, o = .backInval l) ∧ t.rf = s.rf) ∧
    (v.mstate = 3 → page ∈ (s.mig vf).given → exec (.pull vf page) s = .next s) ∧
    (v.mstate = 4 → exec (.pull vf page) s = .next s) ∧
    (v.mstate ≤ 2 → ∃ t, exec (.pull vf page) s = .next t ∧ page ∈ (t.mig vf).heldPulls ∧ t.outbox = s.outbox ∧ t.mem = s.mem)) ∧
  (∀ (vf page : Nat) (bytes : List Byte) (pois : List Nat) (recs : List (List (BitVec 64))) (v : VFunc) (s : State),
    mget s.vfs vf = some v → v.mstate = 4 → page < v.pages → s.present v (65536 * page) = false →
    (bytes.length ≠ 65536 → exec (.pullData vf page bytes pois recs) s = .next (s.failPull vf page) ∧
      ((s.failPull vf page).mig vf).stat = 4 ∧ ¬page ∈ ((s.failPull vf page).mig vf).asked) ∧
    (bytes.length = 65536 → recs = [] →
      let pa := v.sbase + 65536 * page
      let pb := v.presenceByte (65536 * page)
      let s1 := s.performAll none [.write pa bytes]
      let late := (s.mig vf).late
      let s2 := (late.filter (fun x => x.1 / 65536 == page)).foldl (fun (z : State) x => z.performAll none [.write (v.pa x.1) x.2])
        ((pois.filter (· < 8192)).foldl (fun (z : State) i => z.setPoison (pa / 8 + i) true) s1)
      let s3 := s2.performAll none [.write pb [s2.byteAt pb ||| BitVec.ofNat 8 (2 ^ (page % 8))]]
      let s4 := (s3.modMig vf (fun m => { m with asked := m.asked.filter (fun p => p != page), late := m.late.filter (fun x => !(x.1 / 65536 == page)) })).showMig vf
      exec (.pullData vf page bytes pois recs) s = .next (((s4.retryHeld vf).pumpPulls vf).settleDone vf))) ∧
  (∀ (vf : Nat) (s : State), ∃ t, exec (.pullall vf) s = .next t ∧
    (t.mig vf).pullall = (s.dwordAt (s.migBase vf + 0x10)).getLsbD 0 ∧ t.mem = s.mem ∧ t.rf = s.rf) ∧
  (∀ (vf : Nat) (v : VFunc) (s : State), mget s.vfs vf = some v →
    (v.mstate = 3 → (s.mig vf).started = false → ∃ t, exec (.started vf) s = .next t ∧ (t.mig vf).started = true ∧
      (∀ x ∈ t.launches, x.2.vf ≠ vf) ∧ (∀ q ∈ t.qmap, q.vf ≠ vf) ∧ ∃ post,
      t.outbox = s.outbox ++ (s.mig vf).peers.map (fun p => Out.remap p.dev (BitVec.ofNat 64 (Config.devid % 2 ^ 20 + vf * 2 ^ 20))
        (BitVec.ofNat 64 ((s.otherPart vf).1 + (s.otherPart vf).2 * 2 ^ 20))) ++ post ∧ ∀ o ∈ post, ∃ l, o = .backInval l) ∧
    (v.mstate = 3 → (s.mig vf).started = true → ∃ t, exec (.done vf) s = .next t ∧ (t.mig vf).finished = true ∧
      mget t.vfs vf = some v ∧ t.rf = s.rf) ∧
    (v.mstate ≠ 3 → exec (.started vf) s = .next s ∧ exec (.done vf) s = .next s)) ∧
  (∀ (src dst : BitVec 64) (s : State), ∃ t, exec (.remap src dst) s = .next t ∧ (bits src 19 0, bits src 27 20) ∈ t.remaps ∧
    (∀ k ∈ s.remaps, k ∈ t.remaps) ∧ t.rf = s.rf) ∧
  (∀ (vf dev : Nat) (v : VFunc) (s : State), mget s.vfs vf = some v →
    (v.mstate = 3 → (s.mig vf).started = true → (∃ p ∈ (s.mig vf).peers, p.dev = dev ∧ p.acked = false) →
      ∃ t, exec (.remapack vf dev) s = .next t ∧ (∀ p ∈ (t.mig vf).peers, p.dev = dev → p.acked = true) ∧
        (∃ post, t.outbox = s.outbox ++ [.fwdend (s.otherPart vf).1 (s.otherPart vf).2 dev] ++ post ∧ ∀ o ∈ post, ∃ l, o = .backInval l) ∧
        t.rf = s.rf) ∧
    (v.mstate = 4 → ¬dev ∈ (s.mig vf).fwdended → (s.mig vf).heldAccesses = [] →
      ∃ t, exec (.fwdend vf dev) s = .next t ∧ (t.mig vf).fwdended = (s.mig vf).fwdended ++ [dev] ∧ t.rf = s.rf)) ∧
  (∀ (a : PeerAccess) (s : State), mget s.vfs a.vf = none →
    exec (.peerAccessArrival a) s = .next { s with outbox := s.outbox ++ [.peerFault a.dev 7] }) ∧
  (∀ (a : PeerAccess) (v : VFunc) (pa : Nat) (s : State), mget s.vfs a.vf = some v → v.mstate = 0 →
    (s.mig a.vf).heldAccesses = [] → a.fwd = true →
    (a.kind = .read → (∃ z, ({ s with fs := noSlot } : State).stageTwo a.vf v a.ipa .read 0 = .ok (pa, z)) → (∀ d ∈ dwordsOf pa a.size, s.poisoned d = false) →
      exec (.peerAccessArrival a) s = .next { s with outbox := s.outbox ++ [.peerData a.dev (s.bytesAt pa a.size)] }) ∧
    (a.kind = .write → (∃ z, ({ s with fs := noSlot } : State).stageTwo a.vf v a.ipa .write 0 = .ok (pa, z)) →
      let s1 := s.performAll none [partEff pa a.data]
      exec (.peerAccessArrival a) s = .next { s1 with outbox := s1.outbox ++ [.peerData a.dev []] }))
/-! The step, decoding, reset and what every step keeps. -/

/-- The slot in focus fetches the words `w0` and `w1` of the unit at its program counter, in state `s1`. -/
def Sys2Proof.Spec.Fetches (s : State) (w0 w1 : BitVec 32) (s1 : State) : Prop :=
  fetchUnit s.th.a.pc { s with unit := UnitCtx.at_ s.th.a.pc } = .ok ((w0, w1), s1)

/-- The state in which the slot `gs` of the step's agenda issues: its core has had its turn. -/
def Sys2Proof.Spec.issuing (s : State) (gs : Nat) (rest : List Act) : State :=
  { ({ s with agenda := rest } : State).spendTurn (coreOf gs) with fs := gs, unit := UnitCtx.idle }

/-- The step issues slot `gs`: the wheel gives it its core's turn, and nothing stands before its unit: no interrupt, no message and no
breakpoint. -/
structure Sys2Proof.Spec.Issues (s : State) (gs : Nat) (rest : List Act) : Prop where
  agenda : s.agenda = .issue gs :: rest
  gives : ({ s with agenda := rest } : State).wheelGives gs = true
  may : (Spec.issuing s gs rest).mayIssue gs = true
  due : (Spec.issuing s gs rest).dueNow gs = .none
  hit : (Spec.issuing s gs rest).breakHit gs = none

/-- What the step makes of the state its slot's unit has come to: that state, or, where the unit has changed nothing, being held still, the
state before it, since the slot was not ready and its core's turn is still to come. -/
def Sys2Proof.Spec.Turned (s : State) (gs : Nat) (rest : List Act) (t : State) : State :=
  let z := ({ s with agenda := rest } : State).spendTurn (coreOf gs)
  if (t.thread gs).a.pc = (z.thread gs).a.pc ∧ { t with fs := z.fs, unit := z.unit } = z then { s with agenda := rest } else t

/-- A step runs the decoded instruction (R81, R82, R106). Where the two words of a unit each have L = 1 and the word at the program
counter decodes to `i`, the step is `exec i`, with the next unit's address four bytes on, where it changes anything; a pair, L = 0 in both words with the C-class
word first and no word of major 0x30, runs both its words as one unit, with the next address eight bytes on; any other shape traps with
ILLEGAL_PAIR and a word with no instruction with ILLEGAL_INSTRUCTION, and runs nothing.
The slot and the unit at hand are fields of the model's own (log entry 1), the agenda names the step (2), and what a fetch may
return besides memory is a free value (9). -/
def Sys2Proof.Spec.StepOfADecodedUnit : Prop :=
  ∀ (s s1 : State) (gs : Nat) (rest : List Act) (w0 w1 : BitVec 32),
    Spec.Issues s gs rest → Spec.Fetches (Spec.issuing s gs rest) w0 w1 s1 →
    let pc := (s.thread gs).a.pc
    let u := UnitCtx.at_ pc
    let w := if bit pc 2 then w1 else w0
    (w0.getLsbD 0 = true → w1.getLsbD 0 = true → ∀ i, decode w = .ok i →
      ∃ t, exec i { s1 with unit := { u with word := w, next := addr57 (pc + 4) } } = .next t ∧ step s = .next (Spec.Turned s gs rest t)) ∧
    (w0.getLsbD 0 = true → w1.getLsbD 0 = true → (∀ i, decode w ≠ .ok i) →
      step s = .next (Spec.Turned s gs rest ({ s1 with unit := { u with word := w, next := addr57 (pc + 4) } }.refuseUnit
        (.trap { cause := .illegalInstruction })))) ∧
    (w0.extractLsb' 0 2 = 0#2 → w1.extractLsb' 0 2 = 2#2 → w0.extractLsb' 2 6 ≠ 0x30#6 → bit pc 2 = false →
      ∀ c a, decode w0 = .ok c → decode w1 = .ok a →
      step s = .next (Spec.Turned s gs rest
        (({ s1 with unit := { u with word := w0, other := w1, next := addr57 (pc + 8) } } : State).runUnit [c, a] (pairBody exec c a)))) ∧
    (¬(w0.getLsbD 0 = true ∧ w1.getLsbD 0 = true) →
      ¬(w0.extractLsb' 0 2 = 0#2 ∧ w1.extractLsb' 0 2 = 2#2 ∧ w0.extractLsb' 2 6 ≠ 0x30#6 ∧ bit pc 2 = false) →
      step s = .next (Spec.Turned s gs rest ({ s1 with unit := { u with addr := pc &&& ~~~7, word := w0, other := w1 } }.refuseUnit
        (.trap { cause := .illegalPair, whole := true }))))

/-- The words of a unit are those that memory holds, each with its least significant byte first: with translation off and the page
reachable, the eight bytes at the unit's address (R8, R81, R153). -/
def Sys2Proof.Spec.FetchReadsTheUnit : Prop :=
  ∀ (s s1 s2 : State) (pa : Nat), s.th.a.pc.toNat % 4 = 0 → pa % 8 = 0 →
    let s0 := { s with unit := UnitCtx.at_ s.th.a.pc }
    xlatAt s0.th.level (s.th.a.pc &&& ~~~7) .fetch s0 = .ok (pa, s1) →
    reachCheck pa .fetch .load (s.th.a.pc &&& ~~~7) s1 = .ok ((), s2) →
    s2.remotePending pa 8 = false → s2.poisoned (pa / 8) = false →
    let s3 := (s2.countFetch s2.th.vf (lineOf pa)).cohAsk (dieOf s2.fs) (lineOf pa) (s2.partOf s2.fs)
    mget s3.icache (icKey (coreOf s3.fs) (lineOf pa)) = none → mget s3.th.fetched (lineOf pa) = none →
    ∃ t, Spec.Fetches s (BitVec.ofNat 32 (leNat (s3.bytesAt pa 4))) (BitVec.ofNat 32 (leNat (s3.bytesAt (pa + 4) 4))) t

/-- Step runs the decoded instruction: the step of a decoded unit, and the words a fetch returns. -/
def Obligations.StepRunsTheDecodedInstruction : Prop :=
  Spec.StepOfADecodedUnit ∧ Spec.FetchReadsTheUnit

/-- R293, R294: in each cycle a core's wheel asks the slots of the owner of slot *w* = CYCLE mod 64 from *w* on, and lets the first ready
one issue, once; a slot out of its turn does not issue, a slot that is not ready leaves its core's turn, no event runs a word of the
instruction set, and a cycle passes only when every core with a thread has had its turn.
The agenda, which names the slot and asks for the cycle, is the model's own (log entry 2). -/
def Obligations.WheelGivesEachCoreOneTurn : Prop :=
  (∀ (gc : Nat) (s : State) (x : Nat), x ∈ s.wheelOrder gc ↔ ∃ i, i < 64 ∧ x = 64 * gc + (s.cycle + i) % 64 ∧ (s.thread x).live = true ∧
    s.partOf x = s.partOf (64 * gc + s.cycle % 64)) ∧
  (∀ (gc i j : Nat) (s : State), i < j → j < 64 → 64 * gc + (s.cycle + i) % 64 ∈ s.wheelOrder gc →
    64 * gc + (s.cycle + j) % 64 ∈ s.wheelOrder gc →
    (s.wheelOrder gc).idxOf (64 * gc + (s.cycle + i) % 64) < (s.wheelOrder gc).idxOf (64 * gc + (s.cycle + j) % 64)) ∧
  (∀ (gs : Nat) (rest : List Act) (s : State), s.agenda = .issue gs :: rest →
    let s0 : State := { s with agenda := rest }
    let gc := coreOf gs
    let s1 : State := { s0 with turn := s.turn.erase gc }
    (¬gc ∈ s.turn ∨ ¬gs ∈ s.wheelOrder gc → step s = .next s0) ∧
    (∀ x ∈ s.wheelOrder gc, (s.wheelOrder gc).idxOf x < (s.wheelOrder gc).idxOf gs → (s1.tryIssue x).isSome = true → step s = .next s0) ∧
    (gc ∈ s.turn → gs ∈ s.wheelOrder gc →
      (∀ x ∈ s.wheelOrder gc, (s.wheelOrder gc).idxOf x < (s.wheelOrder gc).idxOf gs → s1.tryIssue x = none) →
      (∀ t, s1.tryIssue gs = some t → step s = .next t) ∧ (s1.tryIssue gs = none → step s = .next s0))) ∧
  (∀ (gs : Nat) (s t : State), issueSlot s gs = .next t →
    s.tryIssue gs = if (t.thread gs).a.pc = (s.thread gs).a.pc ∧ { t with fs := s.fs, unit := s.unit } = s then none else some t) ∧
  (∀ (gs : Nat) (s : State), ({ s with fs := gs, unit := UnitCtx.idle } : State).mayIssue gs = false → s.tryIssue gs = none) ∧
  (∀ (i : Instr) (rest : List Act) (s : State), s.agenda = .event i :: rest →
    (i.encodable = true → step s = .next { s with agenda := rest }) ∧ (i.encodable = false → step s = exec i { s with agenda := rest })) ∧
  (∀ (rest : List Act) (s : State), s.agenda = .tick :: rest →
    (∀ gc more, s.turn = gc :: more →
      let s1 : State := { s with turn := more }
      ((∀ x ∈ s.wheelOrder gc, s1.tryIssue x = none) → step s = .next s1) ∧
      (∀ x t, x ∈ s.wheelOrder gc → (∀ y ∈ s.wheelOrder gc, (s.wheelOrder gc).idxOf y < (s.wheelOrder gc).idxOf x → s1.tryIssue y = none) →
        s1.tryIssue x = some t → step s = .next t)) ∧
    (s.turn = [] → ∃ t, step s = .next t ∧ t.issued = [] ∧ t.cycle = s.cycle + 1))

/-- One word of each family, written out from the encodings of the spec with every field at a value of its own, decodes to its
instruction (R80, R84 and the encoding tables). -/
def Obligations.WordsDecodeAsEncoded : Prop :=
  decode 0xFEC28905#32 = .ok (.ld 0xFE#8 3#2 5#7 9#7) ∧
  decode 0x0183070D#32 = .ok (.st 0x01#8 2#2 6#7 7#7) ∧
  decode 0x02451419#32 = .ok (.ldm 0x02#8 1#2 10#7 20#7) ∧
  decode 0x0E458C29#32 = .ok (.amo 3#2 9#4 11#7 12#7) ∧
  decode 0x20C20531#32 = .ok (.cas 1#1 3#7 4#7 5#7) ∧
  decode 0xFFFFEA3D#32 = .ok (.br 0xFFFFE#20 1#1 2#3) ∧
  decode 0xFFC08249#32 = .ok (.jalr 0x3FF#10 1#7 2#7) ∧
  decode 0x5A030051#32 = .ok (.sopen 0#1 1#1 0#1 3#2 8#5 6#7) ∧
  decode 0x00123465#32 = .ok (.wait 1#4 2#4 3#4 4#4) ∧
  decode 0x04038369#32 = .ok (.mona 0x010#10 7#7 3#2) ∧
  decode 0xFE846689#32 = .ok (.vld 0x3F#6 1#1 2#3 8#7 3#2 6#5) ∧
  decode 0x024400A1#32 = .ok (.msend 9#7 8#7) ∧
  decode 0x00C205AD#32 = .ok (.tspawn 3#7 4#7 5#7) ∧
  decode 0x354000C1#32 = .ok (.trap 0x55#7) ∧
  decode 0x800000C1#32 = .ok .eret ∧
  decode 0x400007C5#32 = .ok (.csrr 0x100#10 7#7) ∧
  decode 0xE142090F#32 = .ok (.leaS3 5#7 4#7 9#7) ∧
  decode 0xFFC08213#32 = .ok (.addi 0x3FF#10 1#7 2#7) ∧
  decode 0x00412E2B#32 = .ok (.pset 1#7 2#7 5#4 6#3) ∧
  decode 0x00410343#32 = .ok (.faddD 1#7 2#7 3#7) ∧
  decode 0x1C820523#32 = .ok (.fcvt 1#3 6#3 2#3 4#7 5#7) ∧
  decode 0xE2844347#32 = .ok (.vadd 3#2 1#1 5#3 1#5 2#5 3#5) ∧
  decode 0x948C875B#32 = .ok (.vcmp 2#2 5#3 1#3 3#5 4#5 7#3) ∧
  decode 0x29D0A66F#32 = .ok (.vcvt 1#3 2#3 3#3 1#1 4#4 5#5 6#5) ∧
  decode 0x0004098F#32 = .ok (.vclaim 8#7 9#7) ∧
  decode 0xC04103A3#32 = .ok (.mma 6#3 1#7 2#7 3#7) ∧
  decode 0xC00082B7#32 = .ok (.mdrain 6#3 1#7 2#7)

/-- Decoding inverts encoding: whatever well-formed instruction is encoded, with either value of the L bit, decodes to itself with
every field. -/
def Obligations.DecodeInvertsEncode : Prop :=
  ∀ (i : Instr) (l : BitVec 1) (w : BitVec 32), i.wellFormed = true → encode i l = some w → decode w = .ok i

/-- Encoding inverts decoding: a word that decodes is the one encoding of its instruction with the word's own L bit, so that no bit of a
word is passed over; a word of major 0x30 is encoded as the lone word it must be (R81, R83). -/
def Obligations.EncodeInvertsDecode : Prop :=
  ∀ (i : Instr) (w : BitVec 32), decode w = .ok i → i.wellFormed = true ∧
    (w.getLsbD 0 = true → encode i 1#1 = some w) ∧
    (w.getLsbD 0 = false → w.extractLsb' 1 7 ≠ 0x60#7 → encode i 0#1 = some w)

/-- Every instruction and every event has its effect or takes its exception: no step of the machine ends in a fault or a refusal.
An event whose conditions do not hold answers the state unchanged, by the model's own choice (log entry 2). -/
def Obligations.StepAlwaysAnswers : Prop :=
  (∀ (i : Instr) (s : State), ∃ t, exec i s = .next t) ∧ ∀ s : State, StepsOn s

/-- R408: after a package reset CYCLE and the package commit sequence are 0, no partition and no function exists, no slot holds a
thread, and every byte of memory reads zero, with no poison and no outstanding work.
That host and peer memory read zero too is the model's own choice (log entry 4). -/
def Obligations.ResetLeavesAnEmptyPackage : Prop :=
  let s := State.reset
  s.cycle = 0 ∧ s.pkgSeq = 0 ∧ s.parts = [] ∧ s.vfs = [] ∧ (∀ gs, (s.thread gs).live = false) ∧
  (∀ pa, s.byteAt pa = 0 ∧ s.poisoned (pa / 8) = false) ∧
  s.sigs = [] ∧ s.remotes = [] ∧ s.edges = [] ∧ s.msgs = [] ∧ s.copies = [] ∧ s.launches = [] ∧ s.matq = [] ∧ s.gregs = [] ∧
  s.Canonical

/-- Every step keeps memory in its canonical form: rising addresses, and no byte listed that reads as zero anyway, so that equal
memories are equal data. -/
def Obligations.MemoryStaysCanonical : Prop :=
  ∀ (s t : State), s.Canonical → step s = .next t → t.Canonical

end
end

