-- ==== Sys2Proof/Laws/Decode.lean ====
section
/-!
SUPPORT. Fields of a word built by appending fields, for the round trips between words and instructions (R80 to R91).
-/

namespace Sys2Proof

/-- A field that stands in the high part of an appended word. -/
theorem extractLsb'_append_high {m n st len : Nat} (x : BitVec m) (y : BitVec n) (h : n ≤ st) :
    (x ++ y).extractLsb' st len = x.extractLsb' (st - n) len := by
  simp [BitVec.extractLsb'_append_eq_of_le, h]

/-- A field that stands in the low part of an appended word. -/
theorem extractLsb'_append_low {m n st len : Nat} (x : BitVec m) (y : BitVec n) (h : st + len ≤ n) :
    (x ++ y).extractLsb' st len = y.extractLsb' st len := by
  simp [BitVec.extractLsb'_append_eq_of_add_le, h]

/-- The L bit of a word built from its fields. -/
theorem extractLsb'_L {m : Nat} (x : BitVec m) (l : BitVec 1) : (x ++ l).extractLsb' 0 1 = l := by
  rw [extractLsb'_append_low x l (by omega)]; simp

/-- The major opcode and class of a word built from its fields. -/
theorem extractLsb'_key {m : Nat} (x : BitVec m) (k : BitVec 7) (l : BitVec 1) : (x ++ k ++ l).extractLsb' 1 7 = k := by
  rw [extractLsb'_append_high _ l (by omega), extractLsb'_append_low x k (by omega)]; simp

end Sys2Proof
end

