-- ==== Sys2Proof/Laws/Exec.lean ====
section
/-!
SUPPORT. What `exec` calls for each constructor, so that no proof unfolds the dispatch.
-/

namespace Sys2Proof.Machine

theorem exec_ld (o : BitVec 8) (sz : BitVec 2) (a : BitVec 7) (d : BitVec 7) (s : State) : exec (.ld o sz a d) s = execLd o sz a d s := rfl
theorem exec_ldz (o : BitVec 8) (sz : BitVec 2) (a : BitVec 7) (d : BitVec 7) (s : State) : exec (.ldz o sz a d) s = execLdz o sz a d s := rfl
theorem exec_st (o : BitVec 8) (sz : BitVec 2) (a : BitVec 7) (d : BitVec 7) (s : State) : exec (.st o sz a d) s = execSt o sz a d s := rfl
theorem exec_ldx (x : BitVec 1) (sz : BitVec 2) (b : BitVec 7) (a : BitVec 7) (d : BitVec 7) (s : State) : exec (.ldx x sz b a d) s = execLdx x sz b a d s := rfl
theorem exec_stx (x : BitVec 1) (sz : BitVec 2) (b : BitVec 7) (a : BitVec 7) (d : BitVec 7) (s : State) : exec (.stx x sz b a d) s = execStx x sz b a d s := rfl
theorem exec_ldm (o : BitVec 8) (n : BitVec 2) (a : BitVec 7) (d : BitVec 7) (s : State) : exec (.ldm o n a d) s = execLdm o n a d s := rfl
theorem exec_stm (o : BitVec 8) (n : BitVec 2) (a : BitVec 7) (d : BitVec 7) (s : State) : exec (.stm o n a d) s = execStm o n a d s := rfl
theorem exec_ldk (o : BitVec 17) (d : BitVec 7) (s : State) : exec (.ldk o d) s = execLdk o d s := rfl
theorem exec_pf (o : BitVec 8) (sz : BitVec 2) (a : BitVec 7) (h : BitVec 7) (s : State) : exec (.pf o sz a h) s = execPf o sz a h s := rfl
theorem exec_amo (sz : BitVec 2) (c : BitVec 4) (a : BitVec 7) (d : BitVec 7) (s : State) : exec (.amo sz c a d) s = execAmo sz c a d s := rfl
theorem exec_amoE (sz : BitVec 2) (c : BitVec 4) (a : BitVec 7) (d : BitVec 7) (s : State) : exec (.amoE sz c a d) s = execAmoE sz c a d s := rfl
theorem exec_amof (sz : BitVec 2) (c : BitVec 4) (a : BitVec 7) (d : BitVec 7) (s : State) : exec (.amof sz c a d) s = execAmof sz c a d s := rfl
theorem exec_amofE (sz : BitVec 2) (c : BitVec 4) (a : BitVec 7) (d : BitVec 7) (s : State) : exec (.amofE sz c a d) s = execAmofE sz c a d s := rfl
theorem exec_cas (sz : BitVec 1) (b : BitVec 7) (a : BitVec 7) (d : BitVec 7) (s : State) : exec (.cas sz b a d) s = execCas sz b a d s := rfl
theorem exec_qres (sz : BitVec 1) (a : BitVec 7) (d : BitVec 7) (s : State) : exec (.qres sz a d) s = execQres sz a d s := rfl
theorem exec_qrel (sz : BitVec 1) (a : BitVec 7) (d : BitVec 7) (s : State) : exec (.qrel sz a d) s = execQrel sz a d s := rfl
theorem exec_br (o : BitVec 20) (n : BitVec 1) (k : BitVec 3) (s : State) : exec (.br o n k) s = execBr o n k s := rfl
theorem exec_jmp (o : BitVec 17) (s : State) : exec (.jmp o) s = execJmp o s := rfl
theorem exec_brEnd (o : BitVec 17) (n : BitVec 1) (p : BitVec 4) (s : State) : exec (.brEnd o n p) s = execBrEnd o n p s := rfl
theorem exec_jal (o : BitVec 17) (d : BitVec 7) (s : State) : exec (.jal o d) s = execJal o d s := rfl
theorem exec_jalr (im : BitVec 10) (a : BitVec 7) (d : BitVec 7) (s : State) : exec (.jalr im a d) s = execJalr im a d s := rfl
theorem exec_loop (o : BitVec 17) (d : BitVec 7) (s : State) : exec (.loop o d) s = execLoop o d s := rfl
theorem exec_sopen (r : BitVec 1) (w : BitVec 1) (t : BitVec 1) (sz : BitVec 2) (p : BitVec 5) (a : BitVec 7) (s : State) : exec (.sopen r w t sz p a) s = execSopen r w t sz p a s := rfl
theorem exec_sclose (p : BitVec 5) (s : State) : exec (.sclose p) s = execSclose p s := rfl
theorem exec_sseek (p : BitVec 5) (a : BitVec 7) (s : State) : exec (.sseek p a) s = execSseek p a s := rfl
theorem exec_spos (p : BitVec 5) (d : BitVec 7) (s : State) : exec (.spos p d) s = execSpos p d s := rfl
theorem exec_fence (s : State) : exec (.fence) s = execFence s := rfl
theorem exec_fenceE (s : State) : exec (.fenceE) s = execFenceE s := rfl
theorem exec_wait (m : BitVec 4) (c : BitVec 4) (sz : BitVec 4) (w : BitVec 4) (s : State) : exec (.wait m c sz w) s = execWait m c sz w s := rfl
theorem exec_mona (im : BitVec 10) (a : BitVec 7) (n : BitVec 2) (s : State) : exec (.mona im a n) s = execMona im a n s := rfl
theorem exec_monw (a : BitVec 7) (d : BitVec 7) (s : State) : exec (.monw a d) s = execMonw a d s := rfl
theorem exec_watch (im : BitVec 10) (a : BitVec 7) (s : State) : exec (.watch im a) s = execWatch im a s := rfl
theorem exec_wsleep (a : BitVec 7) (d : BitVec 7) (s : State) : exec (.wsleep a d) s = execWsleep a d s := rfl
theorem exec_cut (s : State) : exec (.cut) s = execCut s := rfl
theorem exec_direct (s : State) : exec (.direct) s = execDirect s := rfl
theorem exec_resume (s : State) : exec (.resume) s = execResume s := rfl
theorem exec_lock (a : BitVec 7) (k : BitVec 3) (s : State) : exec (.lock a k) s = execLock a k s := rfl
theorem exec_unlock (a : BitVec 7) (s : State) : exec (.unlock a) s = execUnlock a s := rfl
theorem exec_clean (b : BitVec 7) (a : BitVec 7) (s : State) : exec (.clean b a) s = execClean b a s := rfl
theorem exec_inval (b : BitVec 7) (a : BitVec 7) (s : State) : exec (.inval b a) s = execInval b a s := rfl
theorem exec_iflush (b : BitVec 7) (a : BitVec 7) (s : State) : exec (.iflush b a) s = execIflush b a s := rfl
theorem exec_isync (s : State) : exec (.isync) s = execIsync s := rfl
theorem exec_vld (o : BitVec 6) (v : BitVec 1) (m : BitVec 3) (a : BitVec 7) (sz : BitVec 2) (d : BitVec 5) (s : State) : exec (.vld o v m a sz d) s = execVld o v m a sz d s := rfl
theorem exec_vst (o : BitVec 6) (v : BitVec 1) (m : BitVec 3) (a : BitVec 7) (sz : BitVec 2) (d : BitVec 5) (s : State) : exec (.vst o v m a sz d) s = execVst o v m a sz d s := rfl
theorem exec_vlds (m : BitVec 3) (b : BitVec 7) (a : BitVec 7) (sz : BitVec 1) (d : BitVec 5) (s : State) : exec (.vlds m b a sz d) s = execVlds m b a sz d s := rfl
theorem exec_vsts (m : BitVec 3) (b : BitVec 7) (a : BitVec 7) (sz : BitVec 1) (d : BitVec 5) (s : State) : exec (.vsts m b a sz d) s = execVsts m b a sz d s := rfl
theorem exec_vgat (m : BitVec 3) (c : BitVec 1) (im : BitVec 5) (a : BitVec 7) (sz : BitVec 1) (d : BitVec 5) (s : State) : exec (.vgat m c im a sz d) s = execVgat m c im a sz d s := rfl
theorem exec_vsct (m : BitVec 3) (c : BitVec 1) (im : BitVec 5) (a : BitVec 7) (sz : BitVec 1) (d : BitVec 5) (s : State) : exec (.vsct m c im a sz d) s = execVsct m c im a sz d s := rfl
theorem exec_cpy (b : BitVec 7) (a : BitVec 7) (d : BitVec 7) (s : State) : exec (.cpy b a d) s = execCpy b a d s := rfl
theorem exec_cpyw (b : BitVec 7) (a : BitVec 7) (d : BitVec 7) (s : State) : exec (.cpyw b a d) s = execCpyw b a d s := rfl
theorem exec_msend (b : BitVec 7) (a : BitVec 7) (s : State) : exec (.msend b a) s = execMsend b a s := rfl
theorem exec_chbind (p : BitVec 5) (a : BitVec 7) (s : State) : exec (.chbind p a) s = execChbind p a s := rfl
theorem exec_chunbind (p : BitVec 5) (s : State) : exec (.chunbind p) s = execChunbind p s := rfl
theorem exec_redcfg (b : BitVec 7) (a : BitVec 7) (s : State) : exec (.redcfg b a) s = execRedcfg b a s := rfl
theorem exec_redc (c : BitVec 4) (o : BitVec 2) (a : BitVec 7) (d : BitVec 5) (s : State) : exec (.redc c o a d) s = execRedc c o a d s := rfl
theorem exec_tspawn (b : BitVec 7) (a : BitVec 7) (d : BitVec 7) (s : State) : exec (.tspawn b a d) s = execTspawn b a d s := rfl
theorem exec_tkey (a : BitVec 7) (d : BitVec 7) (s : State) : exec (.tkey a d) s = execTkey a d s := rfl
theorem exec_fork (b : BitVec 7) (a : BitVec 7) (d : BitVec 7) (s : State) : exec (.fork b a d) s = execFork b a d s := rfl
theorem exec_join (s : State) : exec (.join) s = execJoin s := rfl
theorem exec_rqput (b : BitVec 7) (a : BitVec 7) (s : State) : exec (.rqput b a) s = execRqput b a s := rfl
theorem exec_rqtake (b : BitVec 7) (d : BitVec 7) (s : State) : exec (.rqtake b d) s = execRqtake b d s := rfl
theorem exec_tmset (a : BitVec 7) (s : State) : exec (.tmset a) s = execTmset a s := rfl
theorem exec_sstart (a : BitVec 7) (d : BitVec 7) (s : State) : exec (.sstart a d) s = execSstart a d s := rfl
theorem exec_sstop (a : BitVec 7) (s : State) : exec (.sstop a) s = execSstop a s := rfl
theorem exec_exit (s : State) : exec (.exit) s = execExit s := rfl
theorem exec_trap (n : BitVec 7) (s : State) : exec (.trap n) s = execTrap n s := rfl
theorem exec_wfi (s : State) : exec (.wfi) s = execWfi s := rfl
theorem exec_brk (n : BitVec 7) (s : State) : exec (.brk n) s = execBrk n s := rfl
theorem exec_eret (s : State) : exec (.eret) s = execEret s := rfl
theorem exec_hcall (n : BitVec 7) (s : State) : exec (.hcall n) s = execHcall n s := rfl
theorem exec_csrr (c : BitVec 10) (d : BitVec 7) (s : State) : exec (.csrr c d) s = execCsrr c d s := rfl
theorem exec_csrw (c : BitVec 10) (a : BitVec 7) (s : State) : exec (.csrw c a) s = execCsrw c a s := rfl
theorem exec_rdc (c : BitVec 10) (d : BitVec 7) (s : State) : exec (.rdc c d) s = execRdc c d s := rfl
theorem exec_hint (h : BitVec 24) (k : BitVec 1) (s : State) : exec (.hint h k) s = execHint h k s := rfl
theorem exec_add (b : BitVec 7) (a : BitVec 7) (d : BitVec 7) (s : State) : exec (.add b a d) s = execAdd b a d s := rfl
theorem exec_sub (b : BitVec 7) (a : BitVec 7) (d : BitVec 7) (s : State) : exec (.sub b a d) s = execSub b a d s := rfl
theorem exec_and (b : BitVec 7) (a : BitVec 7) (d : BitVec 7) (s : State) : exec (.and b a d) s = execAnd b a d s := rfl
theorem exec_or (b : BitVec 7) (a : BitVec 7) (d : BitVec 7) (s : State) : exec (.or b a d) s = execOr b a d s := rfl
theorem exec_xor (b : BitVec 7) (a : BitVec 7) (d : BitVec 7) (s : State) : exec (.xor b a d) s = execXor b a d s := rfl
theorem exec_andn (b : BitVec 7) (a : BitVec 7) (d : BitVec 7) (s : State) : exec (.andn b a d) s = execAndn b a d s := rfl
theorem exec_sll (b : BitVec 7) (a : BitVec 7) (d : BitVec 7) (s : State) : exec (.sll b a d) s = execSll b a d s := rfl
theorem exec_srl (b : BitVec 7) (a : BitVec 7) (d : BitVec 7) (s : State) : exec (.srl b a d) s = execSrl b a d s := rfl
theorem exec_sra (b : BitVec 7) (a : BitVec 7) (d : BitVec 7) (s : State) : exec (.sra b a d) s = execSra b a d s := rfl
theorem exec_rol (b : BitVec 7) (a : BitVec 7) (d : BitVec 7) (s : State) : exec (.rol b a d) s = execRol b a d s := rfl
theorem exec_min (b : BitVec 7) (a : BitVec 7) (d : BitVec 7) (s : State) : exec (.min b a d) s = execMin b a d s := rfl
theorem exec_max (b : BitVec 7) (a : BitVec 7) (d : BitVec 7) (s : State) : exec (.max b a d) s = execMax b a d s := rfl
theorem exec_minu (b : BitVec 7) (a : BitVec 7) (d : BitVec 7) (s : State) : exec (.minu b a d) s = execMinu b a d s := rfl
theorem exec_maxu (b : BitVec 7) (a : BitVec 7) (d : BitVec 7) (s : State) : exec (.maxu b a d) s = execMaxu b a d s := rfl
theorem exec_mulh (b : BitVec 7) (a : BitVec 7) (d : BitVec 7) (s : State) : exec (.mulh b a d) s = execMulh b a d s := rfl
theorem exec_mulhu (b : BitVec 7) (a : BitVec 7) (d : BitVec 7) (s : State) : exec (.mulhu b a d) s = execMulhu b a d s := rfl
theorem exec_mul (b : BitVec 7) (a : BitVec 7) (d : BitVec 7) (s : State) : exec (.mul b a d) s = execMul b a d s := rfl
theorem exec_div (b : BitVec 7) (a : BitVec 7) (d : BitVec 7) (s : State) : exec (.div b a d) s = execDiv b a d s := rfl
theorem exec_divu (b : BitVec 7) (a : BitVec 7) (d : BitVec 7) (s : State) : exec (.divu b a d) s = execDivu b a d s := rfl
theorem exec_rem (b : BitVec 7) (a : BitVec 7) (d : BitVec 7) (s : State) : exec (.rem b a d) s = execRem b a d s := rfl
theorem exec_remu (b : BitVec 7) (a : BitVec 7) (d : BitVec 7) (s : State) : exec (.remu b a d) s = execRemu b a d s := rfl
theorem exec_leaS1 (b : BitVec 7) (a : BitVec 7) (d : BitVec 7) (s : State) : exec (.leaS1 b a d) s = execLeaS1 b a d s := rfl
theorem exec_leaS2 (b : BitVec 7) (a : BitVec 7) (d : BitVec 7) (s : State) : exec (.leaS2 b a d) s = execLeaS2 b a d s := rfl
theorem exec_leaS3 (b : BitVec 7) (a : BitVec 7) (d : BitVec 7) (s : State) : exec (.leaS3 b a d) s = execLeaS3 b a d s := rfl
theorem exec_addi (im : BitVec 10) (a : BitVec 7) (d : BitVec 7) (s : State) : exec (.addi im a d) s = execAddi im a d s := rfl
theorem exec_andi (im : BitVec 8) (a : BitVec 7) (d : BitVec 7) (s : State) : exec (.andi im a d) s = execAndi im a d s := rfl
theorem exec_ori (im : BitVec 8) (a : BitVec 7) (d : BitVec 7) (s : State) : exec (.ori im a d) s = execOri im a d s := rfl
theorem exec_xori (im : BitVec 8) (a : BitVec 7) (d : BitVec 7) (s : State) : exec (.xori im a d) s = execXori im a d s := rfl
theorem exec_slli (n : BitVec 6) (a : BitVec 7) (d : BitVec 7) (s : State) : exec (.slli n a d) s = execSlli n a d s := rfl
theorem exec_srli (n : BitVec 6) (a : BitVec 7) (d : BitVec 7) (s : State) : exec (.srli n a d) s = execSrli n a d s := rfl
theorem exec_srai (n : BitVec 6) (a : BitVec 7) (d : BitVec 7) (s : State) : exec (.srai n a d) s = execSrai n a d s := rfl
theorem exec_lih (v : BitVec 16) (d : BitVec 7) (s : State) : exec (.lih v d) s = execLih v d s := rfl
theorem exec_lihM (v : BitVec 16) (d : BitVec 7) (s : State) : exec (.lihM v d) s = execLihM v d s := rfl
theorem exec_clz (a : BitVec 7) (d : BitVec 7) (s : State) : exec (.clz a d) s = execClz a d s := rfl
theorem exec_ctz (a : BitVec 7) (d : BitVec 7) (s : State) : exec (.ctz a d) s = execCtz a d s := rfl
theorem exec_pop (a : BitVec 7) (d : BitVec 7) (s : State) : exec (.pop a d) s = execPop a d s := rfl
theorem exec_brev (a : BitVec 7) (d : BitVec 7) (s : State) : exec (.brev a d) s = execBrev a d s := rfl
theorem exec_bext (b : BitVec 7) (a : BitVec 7) (d : BitVec 7) (s : State) : exec (.bext b a d) s = execBext b a d s := rfl
theorem exec_bins (b : BitVec 7) (a : BitVec 7) (d : BitVec 7) (s : State) : exec (.bins b a d) s = execBins b a d s := rfl
theorem exec_fcvt (r : BitVec 3) (t : BitVec 3) (sz : BitVec 3) (a : BitVec 7) (d : BitVec 7) (s : State) : exec (.fcvt r t sz a d) s = execFcvt r t sz a d s := rfl
theorem exec_sel (k : BitVec 3) (b : BitVec 7) (a : BitVec 7) (d : BitVec 7) (s : State) : exec (.sel k b a d) s = execSel k b a d s := rfl
theorem exec_pset (b : BitVec 7) (a : BitVec 7) (c : BitVec 4) (k : BitVec 3) (s : State) : exec (.pset b a c k) s = execPset b a c k s := rfl
theorem exec_fcmpHf (b : BitVec 7) (a : BitVec 7) (c : BitVec 4) (k : BitVec 3) (s : State) : exec (.fcmpHf b a c k) s = execFcmpHf b a c k s := rfl
theorem exec_fcmpBf (b : BitVec 7) (a : BitVec 7) (c : BitVec 4) (k : BitVec 3) (s : State) : exec (.fcmpBf b a c k) s = execFcmpBf b a c k s := rfl
theorem exec_fcmpS (b : BitVec 7) (a : BitVec 7) (c : BitVec 4) (k : BitVec 3) (s : State) : exec (.fcmpS b a c k) s = execFcmpS b a c k s := rfl
theorem exec_fcmpD (b : BitVec 7) (a : BitVec 7) (c : BitVec 4) (k : BitVec 3) (s : State) : exec (.fcmpD b a c k) s = execFcmpD b a c k s := rfl
theorem exec_pseti (im : BitVec 10) (a : BitVec 7) (c : BitVec 4) (k : BitVec 3) (s : State) : exec (.pseti im a c k) s = execPseti im a c k s := rfl
theorem exec_plog (o : BitVec 2) (b : BitVec 3) (a : BitVec 3) (k : BitVec 3) (s : State) : exec (.plog o b a k) s = execPlog o b a k s := rfl
theorem exec_pmovK (a : BitVec 7) (k : BitVec 3) (s : State) : exec (.pmovK a k) s = execPmovK a k s := rfl
theorem exec_pmovX (a : BitVec 3) (d : BitVec 7) (s : State) : exec (.pmovX a d) s = execPmovX a d s := rfl
theorem exec_faddHf (b : BitVec 7) (a : BitVec 7) (d : BitVec 7) (s : State) : exec (.faddHf b a d) s = execFaddHf b a d s := rfl
theorem exec_fsubHf (b : BitVec 7) (a : BitVec 7) (d : BitVec 7) (s : State) : exec (.fsubHf b a d) s = execFsubHf b a d s := rfl
theorem exec_fmulHf (b : BitVec 7) (a : BitVec 7) (d : BitVec 7) (s : State) : exec (.fmulHf b a d) s = execFmulHf b a d s := rfl
theorem exec_ffmaHf (b : BitVec 7) (a : BitVec 7) (d : BitVec 7) (s : State) : exec (.ffmaHf b a d) s = execFfmaHf b a d s := rfl
theorem exec_fdivHf (b : BitVec 7) (a : BitVec 7) (d : BitVec 7) (s : State) : exec (.fdivHf b a d) s = execFdivHf b a d s := rfl
theorem exec_fminHf (b : BitVec 7) (a : BitVec 7) (d : BitVec 7) (s : State) : exec (.fminHf b a d) s = execFminHf b a d s := rfl
theorem exec_fmaxHf (b : BitVec 7) (a : BitVec 7) (d : BitVec 7) (s : State) : exec (.fmaxHf b a d) s = execFmaxHf b a d s := rfl
theorem exec_fsqrtHf (a : BitVec 7) (d : BitVec 7) (s : State) : exec (.fsqrtHf a d) s = execFsqrtHf a d s := rfl
theorem exec_fclassHf (a : BitVec 7) (d : BitVec 7) (s : State) : exec (.fclassHf a d) s = execFclassHf a d s := rfl
theorem exec_faddBf (b : BitVec 7) (a : BitVec 7) (d : BitVec 7) (s : State) : exec (.faddBf b a d) s = execFaddBf b a d s := rfl
theorem exec_fsubBf (b : BitVec 7) (a : BitVec 7) (d : BitVec 7) (s : State) : exec (.fsubBf b a d) s = execFsubBf b a d s := rfl
theorem exec_fmulBf (b : BitVec 7) (a : BitVec 7) (d : BitVec 7) (s : State) : exec (.fmulBf b a d) s = execFmulBf b a d s := rfl
theorem exec_ffmaBf (b : BitVec 7) (a : BitVec 7) (d : BitVec 7) (s : State) : exec (.ffmaBf b a d) s = execFfmaBf b a d s := rfl
theorem exec_fdivBf (b : BitVec 7) (a : BitVec 7) (d : BitVec 7) (s : State) : exec (.fdivBf b a d) s = execFdivBf b a d s := rfl
theorem exec_fminBf (b : BitVec 7) (a : BitVec 7) (d : BitVec 7) (s : State) : exec (.fminBf b a d) s = execFminBf b a d s := rfl
theorem exec_fmaxBf (b : BitVec 7) (a : BitVec 7) (d : BitVec 7) (s : State) : exec (.fmaxBf b a d) s = execFmaxBf b a d s := rfl
theorem exec_fsqrtBf (a : BitVec 7) (d : BitVec 7) (s : State) : exec (.fsqrtBf a d) s = execFsqrtBf a d s := rfl
theorem exec_fclassBf (a : BitVec 7) (d : BitVec 7) (s : State) : exec (.fclassBf a d) s = execFclassBf a d s := rfl
theorem exec_faddS (b : BitVec 7) (a : BitVec 7) (d : BitVec 7) (s : State) : exec (.faddS b a d) s = execFaddS b a d s := rfl
theorem exec_fsubS (b : BitVec 7) (a : BitVec 7) (d : BitVec 7) (s : State) : exec (.fsubS b a d) s = execFsubS b a d s := rfl
theorem exec_fmulS (b : BitVec 7) (a : BitVec 7) (d : BitVec 7) (s : State) : exec (.fmulS b a d) s = execFmulS b a d s := rfl
theorem exec_ffmaS (b : BitVec 7) (a : BitVec 7) (d : BitVec 7) (s : State) : exec (.ffmaS b a d) s = execFfmaS b a d s := rfl
theorem exec_fdivS (b : BitVec 7) (a : BitVec 7) (d : BitVec 7) (s : State) : exec (.fdivS b a d) s = execFdivS b a d s := rfl
theorem exec_fminS (b : BitVec 7) (a : BitVec 7) (d : BitVec 7) (s : State) : exec (.fminS b a d) s = execFminS b a d s := rfl
theorem exec_fmaxS (b : BitVec 7) (a : BitVec 7) (d : BitVec 7) (s : State) : exec (.fmaxS b a d) s = execFmaxS b a d s := rfl
theorem exec_fsqrtS (a : BitVec 7) (d : BitVec 7) (s : State) : exec (.fsqrtS a d) s = execFsqrtS a d s := rfl
theorem exec_fclassS (a : BitVec 7) (d : BitVec 7) (s : State) : exec (.fclassS a d) s = execFclassS a d s := rfl
theorem exec_faddD (b : BitVec 7) (a : BitVec 7) (d : BitVec 7) (s : State) : exec (.faddD b a d) s = execFaddD b a d s := rfl
theorem exec_fsubD (b : BitVec 7) (a : BitVec 7) (d : BitVec 7) (s : State) : exec (.fsubD b a d) s = execFsubD b a d s := rfl
theorem exec_fmulD (b : BitVec 7) (a : BitVec 7) (d : BitVec 7) (s : State) : exec (.fmulD b a d) s = execFmulD b a d s := rfl
theorem exec_ffmaD (b : BitVec 7) (a : BitVec 7) (d : BitVec 7) (s : State) : exec (.ffmaD b a d) s = execFfmaD b a d s := rfl
theorem exec_fdivD (b : BitVec 7) (a : BitVec 7) (d : BitVec 7) (s : State) : exec (.fdivD b a d) s = execFdivD b a d s := rfl
theorem exec_fminD (b : BitVec 7) (a : BitVec 7) (d : BitVec 7) (s : State) : exec (.fminD b a d) s = execFminD b a d s := rfl
theorem exec_fmaxD (b : BitVec 7) (a : BitVec 7) (d : BitVec 7) (s : State) : exec (.fmaxD b a d) s = execFmaxD b a d s := rfl
theorem exec_fsqrtD (a : BitVec 7) (d : BitVec 7) (s : State) : exec (.fsqrtD a d) s = execFsqrtD a d s := rfl
theorem exec_fclassD (a : BitVec 7) (d : BitVec 7) (s : State) : exec (.fclassD a d) s = execFclassD a d s := rfl
theorem exec_vadd (sz : BitVec 2) (v : BitVec 1) (m : BitVec 3) (b : BitVec 5) (a : BitVec 5) (d : BitVec 5) (s : State) : exec (.vadd sz v m b a d) s = execVadd sz v m b a d s := rfl
theorem exec_vsub (sz : BitVec 2) (v : BitVec 1) (m : BitVec 3) (b : BitVec 5) (a : BitVec 5) (d : BitVec 5) (s : State) : exec (.vsub sz v m b a d) s = execVsub sz v m b a d s := rfl
theorem exec_vmul (sz : BitVec 2) (v : BitVec 1) (m : BitVec 3) (b : BitVec 5) (a : BitVec 5) (d : BitVec 5) (s : State) : exec (.vmul sz v m b a d) s = execVmul sz v m b a d s := rfl
theorem exec_vmulh (sz : BitVec 2) (v : BitVec 1) (m : BitVec 3) (b : BitVec 5) (a : BitVec 5) (d : BitVec 5) (s : State) : exec (.vmulh sz v m b a d) s = execVmulh sz v m b a d s := rfl
theorem exec_vand (sz : BitVec 2) (v : BitVec 1) (m : BitVec 3) (b : BitVec 5) (a : BitVec 5) (d : BitVec 5) (s : State) : exec (.vand sz v m b a d) s = execVand sz v m b a d s := rfl
theorem exec_vor (sz : BitVec 2) (v : BitVec 1) (m : BitVec 3) (b : BitVec 5) (a : BitVec 5) (d : BitVec 5) (s : State) : exec (.vor sz v m b a d) s = execVor sz v m b a d s := rfl
theorem exec_vxor (sz : BitVec 2) (v : BitVec 1) (m : BitVec 3) (b : BitVec 5) (a : BitVec 5) (d : BitVec 5) (s : State) : exec (.vxor sz v m b a d) s = execVxor sz v m b a d s := rfl
theorem exec_vsll (sz : BitVec 2) (v : BitVec 1) (m : BitVec 3) (b : BitVec 5) (a : BitVec 5) (d : BitVec 5) (s : State) : exec (.vsll sz v m b a d) s = execVsll sz v m b a d s := rfl
theorem exec_vsrl (sz : BitVec 2) (v : BitVec 1) (m : BitVec 3) (b : BitVec 5) (a : BitVec 5) (d : BitVec 5) (s : State) : exec (.vsrl sz v m b a d) s = execVsrl sz v m b a d s := rfl
theorem exec_vsra (sz : BitVec 2) (v : BitVec 1) (m : BitVec 3) (b : BitVec 5) (a : BitVec 5) (d : BitVec 5) (s : State) : exec (.vsra sz v m b a d) s = execVsra sz v m b a d s := rfl
theorem exec_vmin (sz : BitVec 2) (v : BitVec 1) (m : BitVec 3) (b : BitVec 5) (a : BitVec 5) (d : BitVec 5) (s : State) : exec (.vmin sz v m b a d) s = execVmin sz v m b a d s := rfl
theorem exec_vmax (sz : BitVec 2) (v : BitVec 1) (m : BitVec 3) (b : BitVec 5) (a : BitVec 5) (d : BitVec 5) (s : State) : exec (.vmax sz v m b a d) s = execVmax sz v m b a d s := rfl
theorem exec_vminu (sz : BitVec 2) (v : BitVec 1) (m : BitVec 3) (b : BitVec 5) (a : BitVec 5) (d : BitVec 5) (s : State) : exec (.vminu sz v m b a d) s = execVminu sz v m b a d s := rfl
theorem exec_vmaxu (sz : BitVec 2) (v : BitVec 1) (m : BitVec 3) (b : BitVec 5) (a : BitVec 5) (d : BitVec 5) (s : State) : exec (.vmaxu sz v m b a d) s = execVmaxu sz v m b a d s := rfl
theorem exec_vaddX (sz : BitVec 2) (m : BitVec 3) (b : BitVec 7) (a : BitVec 5) (d : BitVec 5) (s : State) : exec (.vaddX sz m b a d) s = execVaddX sz m b a d s := rfl
theorem exec_vsllX (sz : BitVec 2) (m : BitVec 3) (b : BitVec 7) (a : BitVec 5) (d : BitVec 5) (s : State) : exec (.vsllX sz m b a d) s = execVsllX sz m b a d s := rfl
theorem exec_vsrlX (sz : BitVec 2) (m : BitVec 3) (b : BitVec 7) (a : BitVec 5) (d : BitVec 5) (s : State) : exec (.vsrlX sz m b a d) s = execVsrlX sz m b a d s := rfl
theorem exec_vsraX (sz : BitVec 2) (m : BitVec 3) (b : BitVec 7) (a : BitVec 5) (d : BitVec 5) (s : State) : exec (.vsraX sz m b a d) s = execVsraX sz m b a d s := rfl
theorem exec_vfadd (sz : BitVec 2) (v : BitVec 1) (m : BitVec 3) (b : BitVec 5) (a : BitVec 5) (d : BitVec 5) (s : State) : exec (.vfadd sz v m b a d) s = execVfadd sz v m b a d s := rfl
theorem exec_vfsub (sz : BitVec 2) (v : BitVec 1) (m : BitVec 3) (b : BitVec 5) (a : BitVec 5) (d : BitVec 5) (s : State) : exec (.vfsub sz v m b a d) s = execVfsub sz v m b a d s := rfl
theorem exec_vfmul (sz : BitVec 2) (v : BitVec 1) (m : BitVec 3) (b : BitVec 5) (a : BitVec 5) (d : BitVec 5) (s : State) : exec (.vfmul sz v m b a d) s = execVfmul sz v m b a d s := rfl
theorem exec_vffma (sz : BitVec 2) (v : BitVec 1) (m : BitVec 3) (b : BitVec 5) (a : BitVec 5) (d : BitVec 5) (s : State) : exec (.vffma sz v m b a d) s = execVffma sz v m b a d s := rfl
theorem exec_vfmin (sz : BitVec 2) (v : BitVec 1) (m : BitVec 3) (b : BitVec 5) (a : BitVec 5) (d : BitVec 5) (s : State) : exec (.vfmin sz v m b a d) s = execVfmin sz v m b a d s := rfl
theorem exec_vfmax (sz : BitVec 2) (v : BitVec 1) (m : BitVec 3) (b : BitVec 5) (a : BitVec 5) (d : BitVec 5) (s : State) : exec (.vfmax sz v m b a d) s = execVfmax sz v m b a d s := rfl
theorem exec_vfdiv (sz : BitVec 2) (v : BitVec 1) (m : BitVec 3) (b : BitVec 5) (a : BitVec 5) (d : BitVec 5) (s : State) : exec (.vfdiv sz v m b a d) s = execVfdiv sz v m b a d s := rfl
theorem exec_vfsqrt (sz : BitVec 2) (v : BitVec 1) (m : BitVec 3) (a : BitVec 5) (d : BitVec 5) (s : State) : exec (.vfsqrt sz v m a d) s = execVfsqrt sz v m a d s := rfl
theorem exec_vfaddX (sz : BitVec 2) (m : BitVec 3) (b : BitVec 7) (a : BitVec 5) (d : BitVec 5) (s : State) : exec (.vfaddX sz m b a d) s = execVfaddX sz m b a d s := rfl
theorem exec_vfmulX (sz : BitVec 2) (m : BitVec 3) (b : BitVec 7) (a : BitVec 5) (d : BitVec 5) (s : State) : exec (.vfmulX sz m b a d) s = execVfmulX sz m b a d s := rfl
theorem exec_vffmaX (sz : BitVec 2) (m : BitVec 3) (b : BitVec 7) (a : BitVec 5) (d : BitVec 5) (s : State) : exec (.vffmaX sz m b a d) s = execVffmaX sz m b a d s := rfl
theorem exec_vcmp (sz : BitVec 2) (c : BitVec 3) (m : BitVec 3) (b : BitVec 5) (a : BitVec 5) (k : BitVec 3) (s : State) : exec (.vcmp sz c m b a k) s = execVcmp sz c m b a k s := rfl
theorem exec_vfcmp (sz : BitVec 2) (c : BitVec 3) (m : BitVec 3) (b : BitVec 5) (a : BitVec 5) (k : BitVec 3) (s : State) : exec (.vfcmp sz c m b a k) s = execVfcmp sz c m b a k s := rfl
theorem exec_vsel (sz : BitVec 2) (m : BitVec 3) (b : BitVec 5) (a : BitVec 5) (d : BitVec 5) (s : State) : exec (.vsel sz m b a d) s = execVsel sz m b a d s := rfl
theorem exec_vperm (sz : BitVec 2) (m : BitVec 3) (b : BitVec 5) (a : BitVec 5) (d : BitVec 5) (s : State) : exec (.vperm sz m b a d) s = execVperm sz m b a d s := rfl
theorem exec_vcomp (sz : BitVec 2) (m : BitVec 3) (a : BitVec 5) (d : BitVec 5) (s : State) : exec (.vcomp sz m a d) s = execVcomp sz m a d s := rfl
theorem exec_vbcast (sz : BitVec 2) (m : BitVec 3) (b : BitVec 7) (d : BitVec 5) (s : State) : exec (.vbcast sz m b d) s = execVbcast sz m b d s := rfl
theorem exec_vslide (sz : BitVec 2) (m : BitVec 3) (b : BitVec 7) (a : BitVec 5) (d : BitVec 5) (s : State) : exec (.vslide sz m b a d) s = execVslide sz m b a d s := rfl
theorem exec_vext (sz : BitVec 2) (b : BitVec 7) (a : BitVec 5) (d : BitVec 7) (s : State) : exec (.vext sz b a d) s = execVext sz b a d s := rfl
theorem exec_vcvt (r : BitVec 3) (t : BitVec 3) (m : BitVec 3) (v : BitVec 1) (sz : BitVec 4) (a : BitVec 5) (d : BitVec 5) (s : State) : exec (.vcvt r t m v sz a d) s = execVcvt r t m v sz a d s := rfl
theorem exec_vcvtNarrow (r : BitVec 3) (t : BitVec 3) (m : BitVec 3) (v : BitVec 1) (sz : BitVec 4) (a : BitVec 5) (d : BitVec 5) (s : State) : exec (.vcvtNarrow r t m v sz a d) s = execVcvtNarrow r t m v sz a d s := rfl
theorem exec_vcvtSr (t : BitVec 4) (sz : BitVec 2) (m : BitVec 3) (b : BitVec 5) (a : BitVec 5) (d : BitVec 5) (s : State) : exec (.vcvtSr t sz m b a d) s = execVcvtSr t sz m b a d s := rfl
theorem exec_vred (sz : BitVec 2) (o : BitVec 3) (m : BitVec 3) (a : BitVec 5) (d : BitVec 5) (s : State) : exec (.vred sz o m a d) s = execVred sz o m a d s := rfl
theorem exec_vscan (sz : BitVec 2) (o : BitVec 3) (m : BitVec 3) (a : BitVec 5) (d : BitVec 5) (s : State) : exec (.vscan sz o m a d) s = execVscan sz o m a d s := rfl
theorem exec_vexp2 (sz : BitVec 2) (m : BitVec 3) (a : BitVec 5) (d : BitVec 5) (s : State) : exec (.vexp2 sz m a d) s = execVexp2 sz m a d s := rfl
theorem exec_vlog2 (sz : BitVec 2) (m : BitVec 3) (a : BitVec 5) (d : BitVec 5) (s : State) : exec (.vlog2 sz m a d) s = execVlog2 sz m a d s := rfl
theorem exec_vrcp (sz : BitVec 2) (m : BitVec 3) (a : BitVec 5) (d : BitVec 5) (s : State) : exec (.vrcp sz m a d) s = execVrcp sz m a d s := rfl
theorem exec_vrsqrt (sz : BitVec 2) (m : BitVec 3) (a : BitVec 5) (d : BitVec 5) (s : State) : exec (.vrsqrt sz m a d) s = execVrsqrt sz m a d s := rfl
theorem exec_vsin (sz : BitVec 2) (m : BitVec 3) (a : BitVec 5) (d : BitVec 5) (s : State) : exec (.vsin sz m a d) s = execVsin sz m a d s := rfl
theorem exec_vcos (sz : BitVec 2) (m : BitVec 3) (a : BitVec 5) (d : BitVec 5) (s : State) : exec (.vcos sz m a d) s = execVcos sz m a d s := rfl
theorem exec_vrng (m : BitVec 3) (b : BitVec 7) (a : BitVec 5) (d : BitVec 5) (s : State) : exec (.vrng m b a d) s = execVrng m b a d s := rfl
theorem exec_vclaim (a : BitVec 7) (d : BitVec 7) (s : State) : exec (.vclaim a d) s = execVclaim a d s := rfl
theorem exec_vrenew (a : BitVec 7) (d : BitVec 7) (s : State) : exec (.vrenew a d) s = execVrenew a d s := rfl
theorem exec_vrel (s : State) : exec (.vrel) s = execVrel s := rfl
theorem exec_vlen (sz : BitVec 2) (d : BitVec 7) (s : State) : exec (.vlen sz d) s = execVlen sz d s := rfl
theorem exec_mma (f : BitVec 3) (b : BitVec 7) (a : BitVec 7) (d : BitVec 7) (s : State) : exec (.mma f b a d) s = execMma f b a d s := rfl
theorem exec_mmaNarrow (f : BitVec 3) (b : BitVec 7) (a : BitVec 7) (d : BitVec 7) (s : State) : exec (.mmaNarrow f b a d) s = execMmaNarrow f b a d s := rfl
theorem exec_mmode (a : BitVec 7) (s : State) : exec (.mmode a) s = execMmode a s := rfl
theorem exec_mscale (b : BitVec 7) (a : BitVec 7) (s : State) : exec (.mscale b a) s = execMscale b a s := rfl
theorem exec_mbar (s : State) : exec (.mbar) s = execMbar s := rfl
theorem exec_mld (b : BitVec 7) (a : BitVec 7) (d : BitVec 7) (s : State) : exec (.mld b a d) s = execMld b a d s := rfl
theorem exec_mst (b : BitVec 7) (a : BitVec 7) (d : BitVec 7) (s : State) : exec (.mst b a d) s = execMst b a d s := rfl
theorem exec_mrd (b : BitVec 7) (a : BitVec 7) (d : BitVec 7) (s : State) : exec (.mrd b a d) s = execMrd b a d s := rfl
theorem exec_mzero (d : BitVec 7) (s : State) : exec (.mzero d) s = execMzero d s := rfl
theorem exec_mdrain (f : BitVec 3) (a : BitVec 7) (d : BitVec 7) (s : State) : exec (.mdrain f a d) s = execMdrain f a d s := rfl
theorem exec_mtrans (a : BitVec 7) (d : BitVec 7) (s : State) : exec (.mtrans a d) s = execMtrans a d s := rfl
theorem exec_mcpy (a : BitVec 7) (d : BitVec 7) (s : State) : exec (.mcpy a d) s = execMcpy a d s := rfl
theorem exec_interruptTaken (gs : Nat) (s : State) : exec (.interruptTaken gs) s = execInterruptTaken gs s := rfl
theorem exec_timerExpiry (gs : Nat) (s : State) : exec (.timerExpiry gs) s = execTimerExpiry gs s := rfl
theorem exec_chunkEndChunkmax (gs : Nat) (s : State) : exec (.chunkEndChunkmax gs) s = execChunkEndChunkmax gs s := rfl
theorem exec_chunkCutCycles (gs : Nat) (s : State) : exec (.chunkCutCycles gs) s = execChunkCutCycles gs s := rfl
theorem exec_commitRequest (gs : Nat) (s : State) : exec (.commitRequest gs) s = execCommitRequest gs s := rfl
theorem exec_commitGrant (gs : Nat) (s : State) : exec (.commitGrant gs) s = execCommitGrant gs s := rfl
theorem exec_grantArrival (gs : Nat) (s : State) : exec (.grantArrival gs) s = execGrantArrival gs s := rfl
theorem exec_sig (s : State) : exec (.sig) s = execSig s := rfl
theorem exec_directFallback (gs : Nat) (s : State) : exec (.directFallback gs) s = execDirectFallback gs s := rfl
theorem exec_engineChunkGrant (eid : Nat) (s : State) : exec (.engineChunkGrant eid) s = execEngineChunkGrant eid s := rfl
theorem exec_copyComplete (cid : Nat) (s : State) : exec (.copyComplete cid) s = execCopyComplete cid s := rfl
theorem exec_combiningRelease (cl : Nat) (s : State) : exec (.combiningRelease cl) s = execCombiningRelease cl s := rfl
theorem exec_reads (die : Nat) (line : Nat) (s : State) : exec (.reads die line) s = execReads die line s := rfl
theorem exec_readm (die : Nat) (line : Nat) (s : State) : exec (.readm die line) s = execReadm die line s := rfl
theorem exec_fwd (owner : Nat) (die : Nat) (line : Nat) (s : State) : exec (.fwd owner die line) s = execFwd owner die line s := rfl
theorem exec_data (die : Nat) (line : Nat) (s : State) : exec (.data die line) s = execData die line s := rfl
theorem exec_wback (die : Nat) (line : Nat) (s : State) : exec (.wback die line) s = execWback die line s := rfl
theorem exec_ack (die : Nat) (line : Nat) (s : State) : exec (.ack die line) s = execAck die line s := rfl
theorem exec_inv (die : Nat) (line : Nat) (s : State) : exec (.inv die line) s = execInv die line s := rfl
theorem exec_binv (die : Nat) (line : Nat) (s : State) : exec (.binv die line) s = execBinv die line s := rfl
theorem exec_remoteStoreMessage (s : State) : exec (.remoteStoreMessage) s = execRemoteStoreMessage s := rfl
theorem exec_loadDataReturn (gs : Nat) (s : State) : exec (.loadDataReturn gs) s = execLoadDataReturn gs s := rfl
theorem exec_storeGloballyPerformed (gs : Nat) (s : State) : exec (.storeGloballyPerformed gs) s = execStoreGloballyPerformed gs s := rfl
theorem exec_streamPrefetchArrival (gs : Nat) (port : Nat) (s : State) : exec (.streamPrefetchArrival gs port) s = execStreamPrefetchArrival gs port s := rfl
theorem exec_messageArrival (mid : Nat) (s : State) : exec (.messageArrival mid) s = execMessageArrival mid s := rfl
theorem exec_fullReply (mid : Nat) (s : State) : exec (.fullReply mid) s = execFullReply mid s := rfl
theorem exec_messageResend (gs : Nat) (s : State) : exec (.messageResend gs) s = execMessageResend gs s := rfl
theorem exec_messageRefusal (mid : Nat) (s : State) : exec (.messageRefusal mid) s = execMessageRefusal mid s := rfl
theorem exec_qresHead (pa : Nat) (s : State) : exec (.qresHead pa) s = execQresHead pa s := rfl
theorem exec_qrelAck (gs : Nat) (s : State) : exec (.qrelAck gs) s = execQrelAck gs s := rfl
theorem exec_edgeAtomicAtHome (gs : Nat) (s : State) : exec (.edgeAtomicAtHome gs) s = execEdgeAtomicAtHome gs s := rfl
theorem exec_edgeAtomicResponse (gs : Nat) (s : State) : exec (.edgeAtomicResponse gs) s = execEdgeAtomicResponse gs s := rfl
theorem exec_edgeWriteAck (eid : Nat) (s : State) : exec (.edgeWriteAck eid) s = execEdgeWriteAck eid s := rfl
theorem exec_edgeWriteRefused (eid : Nat) (s : State) : exec (.edgeWriteRefused eid) s = execEdgeWriteRefused eid s := rfl
theorem exec_monwTimeout (gs : Nat) (s : State) : exec (.monwTimeout gs) s = execMonwTimeout gs s := rfl
theorem exec_wsleepTimeout (gs : Nat) (s : State) : exec (.wsleepTimeout gs) s = execWsleepTimeout gs s := rfl
theorem exec_matrixCommandAccept (cl : Nat) (sq : Nat) (s : State) : exec (.matrixCommandAccept cl sq) s = execMatrixCommandAccept cl sq s := rfl
theorem exec_matrixCommandComplete (cl : Nat) (sq : Nat) (s : State) : exec (.matrixCommandComplete cl sq) s = execMatrixCommandComplete cl sq s := rfl
theorem exec_reductionRoundDeliver (vf : Nat) (tree : Nat) (s : State) : exec (.reductionRoundDeliver vf tree) s = execReductionRoundDeliver vf tree s := rfl
theorem exec_childStart (lid : Nat) (gs : Nat) (s : State) : exec (.childStart lid gs) s = execChildStart lid gs s := rfl
theorem exec_taskStart (lid : Nat) (gs : Nat) (s : State) : exec (.taskStart lid gs) s = execTaskStart lid gs s := rfl
theorem exec_passedOverEntry (gs : Nat) (s : State) : exec (.passedOverEntry gs) s = execPassedOverEntry gs s := rfl
theorem exec_queueNotify (vf : Nat) (q : Nat) (s : State) : exec (.queueNotify vf q) s = execQueueNotify vf q s := rfl
theorem exec_launchStart (vf : Nat) (q : Nat) (s : State) : exec (.launchStart vf q) s = execLaunchStart vf q s := rfl
theorem exec_coreGroupStart (lid : Nat) (s : State) : exec (.coreGroupStart lid) s = execCoreGroupStart lid s := rfl
theorem exec_launchComplete (lid : Nat) (s : State) : exec (.launchComplete lid) s = execLaunchComplete lid s := rfl
theorem exec_errorDetected (kind : Nat) (pa : Nat) (gs : Nat) (s : State) : exec (.errorDetected kind pa gs) s = execErrorDetected kind pa gs s := rfl
theorem exec_linkFlitError (s : State) : exec (.linkFlitError) s = execLinkFlitError s := rfl
theorem exec_heathwayPortFailure (port : Nat) (s : State) : exec (.heathwayPortFailure port) s = execHeathwayPortFailure port s := rfl
theorem exec_accessCounterThreshold (vf : Nat) (host : Bool) (region : Nat) (s : State) : exec (.accessCounterThreshold vf host region) s = execAccessCounterThreshold vf host region s := rfl
theorem exec_regionMoveComplete (vf : Nat) (s : State) : exec (.regionMoveComplete vf) s = execRegionMoveComplete vf s := rfl
theorem exec_cxlMemRead (pa : Nat) (s : State) : exec (.cxlMemRead pa) s = execCxlMemRead pa s := rfl
theorem exec_cxlMemWrite (pa : Nat) (bytes : List Byte) (s : State) : exec (.cxlMemWrite pa bytes) s = execCxlMemWrite pa bytes s := rfl
theorem exec_cxlCacheSnoop (pa : Nat) (bytes : List Byte) (s : State) : exec (.cxlCacheSnoop pa bytes) s = execCxlCacheSnoop pa bytes s := rfl
theorem exec_packageReset (s : State) : exec (.packageReset) s = execPackageReset s := rfl
theorem exec_hentry (v : BitVec 64) (s : State) : exec (.hentry v) s = execHentry v s := rfl
theorem exec_functionLevelReset (n : Nat) (s : State) : exec (.functionLevelReset n) s = execFunctionLevelReset n s := rfl
theorem exec_throttleStart (die : Nat) (cause : Nat) (frac : Nat) (s : State) : exec (.throttleStart die cause frac) s = execThrottleStart die cause frac s := rfl
theorem exec_throttleEnd (die : Nat) (s : State) : exec (.throttleEnd die) s = execThrottleEnd die s := rfl
theorem exec_thermalReset (s : State) : exec (.thermalReset) s = execThermalReset s := rfl
theorem exec_dbgen (part : ForDev Nat) (on : Bool) (s : State) : exec (.dbgen part on) s = execDbgen part on s := rfl
theorem exec_bpset (gc : ForDev Nat) (im : Nat) (bp : Option (Nat × Nat)) (s : State) : exec (.bpset gc im bp) s = execBpset gc im bp s := rfl
theorem exec_halt (slots : ForDev (List Nat)) (s : State) : exec (.halt slots) s = execHalt slots s := rfl
theorem exec_step (gs : ForDev Nat) (s : State) : exec (.step gs) s = execStep gs s := rfl
theorem exec_debugResume (slots : ForDev (List Nat)) (s : State) : exec (.debugResume slots) s = execDebugResume slots s := rfl
theorem exec_debugRead (gs : ForDev Nat) (s : State) : exec (.debugRead gs) s = execDebugRead gs s := rfl
theorem exec_debugWrite (gs : ForDev Nat) (record : List (BitVec 64)) (s : State) : exec (.debugWrite gs record) s = execDebugWrite gs record s := rfl
theorem exec_samplingPulse (s : State) : exec (.samplingPulse) s = execSamplingPulse s := rfl
theorem exec_counterConfig (blk : Nat) (im : Nat) (v : BitVec 64) (s : State) : exec (.counterConfig blk im v) s = execCounterConfig blk im v s := rfl
theorem exec_snap (blk : Nat) (v : BitVec 64) (s : State) : exec (.snap blk v) s = execSnap blk v s := rfl
theorem exec_traceConfig (blk : Nat) (s : State) : exec (.traceConfig blk) s = execTraceConfig blk s := rfl
theorem exec_trptr (blk : Nat) (v : BitVec 64) (s : State) : exec (.trptr blk v) s = execTrptr blk v s := rfl
theorem exec_tclaim (vf : Nat) (die : Nat) (claim : Bool) (s : State) : exec (.tclaim vf die claim) s = execTclaim vf die claim s := rfl
theorem exec_drainRequest (vf : Nat) (q : Nat) (s : State) : exec (.drainRequest vf q) s = execDrainRequest vf q s := rfl
theorem exec_registerWrite (pa : Nat) (v : BitVec 64) (s : State) : exec (.registerWrite pa v) s = execRegisterWrite pa v s := rfl
theorem exec_vset (c : MbCmd) (s : State) : exec (.vset c) s = execVset c s := rfl
theorem exec_hset (c : MbCmd) (s : State) : exec (.hset c) s = execHset c s := rfl
theorem exec_contain (c : MbCmd) (s : State) : exec (.contain c) s = execContain c s := rfl
theorem exec_drain (c : MbCmd) (s : State) : exec (.drain c) s = execDrain c s := rfl
theorem exec_trace (c : MbCmd) (s : State) : exec (.trace c) s = execTrace c s := rfl
theorem exec_bstop (c : MbCmd) (s : State) : exec (.bstop c) s = execBstop c s := rfl
theorem exec_baleFreeze (cl : Nat) (s : State) : exec (.baleFreeze cl) s = execBaleFreeze cl s := rfl
theorem exec_baleStreamOutEnd (cl : Nat) (s : State) : exec (.baleStreamOutEnd cl) s = execBaleStreamOutEnd cl s := rfl
theorem exec_brest (c : MbCmd) (s : State) : exec (.brest c) s = execBrest c s := rfl
theorem exec_hover (c : MbCmd) (s : State) : exec (.hover c) s = execHover c s := rfl
theorem exec_slotHandover (gs : Nat) (s : State) : exec (.slotHandover gs) s = execSlotHandover gs s := rfl
theorem exec_handoverResume (gs : Nat) (s : State) : exec (.handoverResume gs) s = execHandoverResume gs s := rfl
theorem exec_scrubComplete (s : State) : exec (.scrubComplete) s = execScrubComplete s := rfl
theorem exec_precopy (vf : Nat) (s : State) : exec (.precopy vf) s = execPrecopy vf s := rfl
theorem exec_stopping (vf : Nat) (s : State) : exec (.stopping vf) s = execStopping vf s := rfl
theorem exec_abort (vf : Nat) (s : State) : exec (.abort vf) s = execAbort vf s := rfl
theorem exec_resuming (vf : Nat) (s : State) : exec (.resuming vf) s = execResuming vf s := rfl
theorem exec_migrationStopped (vf : Nat) (s : State) : exec (.migrationStopped vf) s = execMigrationStopped vf s := rfl
theorem exec_mackRelease (vf : Nat) (s : State) : exec (.mackRelease vf) s = execMackRelease vf s := rfl
theorem exec_mackSubmit (vf : Nat) (s : State) : exec (.mackSubmit vf) s = execMackSubmit vf s := rfl
theorem exec_pullall (vf : Nat) (s : State) : exec (.pullall vf) s = execPullall vf s := rfl
theorem exec_pull (vf : Nat) (page : Nat) (s : State) : exec (.pull vf page) s = execPull vf page s := rfl
theorem exec_pullData (vf : Nat) (page : Nat) (bytes : List Byte) (pois : List Nat) (recs : List (List (BitVec 64))) (s : State) : exec (.pullData vf page bytes pois recs) s = execPullData vf page bytes pois recs s := rfl
theorem exec_started (vf : Nat) (s : State) : exec (.started vf) s = execStarted vf s := rfl
theorem exec_done (vf : Nat) (s : State) : exec (.done vf) s = execDone vf s := rfl
theorem exec_remap (src : BitVec 64) (dst : BitVec 64) (s : State) : exec (.remap src dst) s = execRemap src dst s := rfl
theorem exec_remapack (vf : Nat) (dev : Nat) (s : State) : exec (.remapack vf dev) s = execRemapack vf dev s := rfl
theorem exec_fwdend (vf : Nat) (dev : Nat) (s : State) : exec (.fwdend vf dev) s = execFwdend vf dev s := rfl
theorem exec_peerAccessArrival (a : PeerAccess) (s : State) : exec (.peerAccessArrival a) s = execPeerAccessArrival a s := rfl
theorem exec_baleStreamInEnd (cl : Nat) (s : State) : exec (.baleStreamInEnd cl) s = execBaleStreamInEnd cl s := rfl
theorem exec_mbPset (c : MbCmd) (s : State) : exec (.mbPset c) s = execMbPset c s := rfl
theorem exec_mbPlog (c : MbCmd) (s : State) : exec (.mbPlog c) s = execMbPlog c s := rfl

end Sys2Proof.Machine
end

