-- ==== Sys2Proof/Laws/State.lean ====
section
/-!
SUPPORT. What each update of the state leaves of each field, by `rfl`, so that no proof unfolds a record update.
-/

namespace Sys2Proof.Machine

/-! `setThread` changes threads alone. -/

@[simp] theorem State.setThread_fs (s : State) (gs : Nat) (t : Thread) : (s.setThread gs t).fs = s.fs := rfl
@[simp] theorem State.setThread_unit (s : State) (gs : Nat) (t : Thread) : (s.setThread gs t).unit = s.unit := rfl
@[simp] theorem State.setThread_agenda (s : State) (gs : Nat) (t : Thread) : (s.setThread gs t).agenda = s.agenda := rfl
@[simp] theorem State.setThread_turn (s : State) (gs : Nat) (t : Thread) : (s.setThread gs t).turn = s.turn := rfl
@[simp] theorem State.setThread_prefer (s : State) (gs : Nat) (t : Thread) : (s.setThread gs t).prefer = s.prefer := rfl
@[simp] theorem State.setThread_fresh (s : State) (gs : Nat) (t : Thread) : (s.setThread gs t).fresh = s.fresh := rfl
@[simp] theorem State.setThread_cycle (s : State) (gs : Nat) (t : Thread) : (s.setThread gs t).cycle = s.cycle := rfl
@[simp] theorem State.setThread_mem (s : State) (gs : Nat) (t : Thread) : (s.setThread gs t).mem = s.mem := rfl
@[simp] theorem State.setThread_poison (s : State) (gs : Nat) (t : Thread) : (s.setThread gs t).poison = s.poison := rfl
@[simp] theorem State.setThread_peer (s : State) (gs : Nat) (t : Thread) : (s.setThread gs t).peer = s.peer := rfl
@[simp] theorem State.setThread_rf (s : State) (gs : Nat) (t : Thread) : (s.setThread gs t).rf = s.rf := rfl
@[simp] theorem State.setThread_gregs (s : State) (gs : Nat) (t : Thread) : (s.setThread gs t).gregs = s.gregs := rfl
@[simp] theorem State.setThread_gregHist (s : State) (gs : Nat) (t : Thread) : (s.setThread gs t).gregHist = s.gregHist := rfl
@[simp] theorem State.setThread_globals (s : State) (gs : Nat) (t : Thread) : (s.setThread gs t).globals = s.globals := rfl
@[simp] theorem State.setThread_parts (s : State) (gs : Nat) (t : Thread) : (s.setThread gs t).parts = s.parts := rfl
@[simp] theorem State.setThread_vfs (s : State) (gs : Nat) (t : Thread) : (s.setThread gs t).vfs = s.vfs := rfl
@[simp] theorem State.setThread_hctx (s : State) (gs : Nat) (t : Thread) : (s.setThread gs t).hctx = s.hctx := rfl
@[simp] theorem State.setThread_hring (s : State) (gs : Nat) (t : Thread) : (s.setThread gs t).hring = s.hring := rfl
@[simp] theorem State.setThread_hslot (s : State) (gs : Nat) (t : Thread) : (s.setThread gs t).hslot = s.hslot := rfl
@[simp] theorem State.setThread_hserial (s : State) (gs : Nat) (t : Thread) : (s.setThread gs t).hserial = s.hserial := rfl
@[simp] theorem State.setThread_ctb (s : State) (gs : Nat) (t : Thread) : (s.setThread gs t).ctb = s.ctb := rfl
@[simp] theorem State.setThread_pkgSeq (s : State) (gs : Nat) (t : Thread) : (s.setThread gs t).pkgSeq = s.pkgSeq := rfl
@[simp] theorem State.setThread_sigs (s : State) (gs : Nat) (t : Thread) : (s.setThread gs t).sigs = s.sigs := rfl
@[simp] theorem State.setThread_remotes (s : State) (gs : Nat) (t : Thread) : (s.setThread gs t).remotes = s.remotes := rfl
@[simp] theorem State.setThread_edges (s : State) (gs : Nat) (t : Thread) : (s.setThread gs t).edges = s.edges := rfl
@[simp] theorem State.setThread_msgs (s : State) (gs : Nat) (t : Thread) : (s.setThread gs t).msgs = s.msgs := rfl
@[simp] theorem State.setThread_chans (s : State) (gs : Nat) (t : Thread) : (s.setThread gs t).chans = s.chans := rfl
@[simp] theorem State.setThread_copies (s : State) (gs : Nat) (t : Thread) : (s.setThread gs t).copies = s.copies := rfl
@[simp] theorem State.setThread_nodes (s : State) (gs : Nat) (t : Thread) : (s.setThread gs t).nodes = s.nodes := rfl
@[simp] theorem State.setThread_tiles (s : State) (gs : Nat) (t : Thread) : (s.setThread gs t).tiles = s.tiles := rfl
@[simp] theorem State.setThread_tilePoison (s : State) (gs : Nat) (t : Thread) : (s.setThread gs t).tilePoison = s.tilePoison := rfl
@[simp] theorem State.setThread_matq (s : State) (gs : Nat) (t : Thread) : (s.setThread gs t).matq = s.matq := rfl
@[simp] theorem State.setThread_wrr (s : State) (gs : Nat) (t : Thread) : (s.setThread gs t).wrr = s.wrr := rfl
@[simp] theorem State.setThread_watches (s : State) (gs : Nat) (t : Thread) : (s.setThread gs t).watches = s.watches := rfl
@[simp] theorem State.setThread_locks (s : State) (gs : Nat) (t : Thread) : (s.setThread gs t).locks = s.locks := rfl
@[simp] theorem State.setThread_homes (s : State) (gs : Nat) (t : Thread) : (s.setThread gs t).homes = s.homes := rfl
@[simp] theorem State.setThread_dirs (s : State) (gs : Nat) (t : Thread) : (s.setThread gs t).dirs = s.dirs := rfl
@[simp] theorem State.setThread_coh (s : State) (gs : Nat) (t : Thread) : (s.setThread gs t).coh = s.coh := rfl
@[simp] theorem State.setThread_l1 (s : State) (gs : Nat) (t : Thread) : (s.setThread gs t).l1 = s.l1 := rfl
@[simp] theorem State.setThread_hostPart (s : State) (gs : Nat) (t : Thread) : (s.setThread gs t).hostPart = s.hostPart := rfl
@[simp] theorem State.setThread_hostLines (s : State) (gs : Nat) (t : Thread) : (s.setThread gs t).hostLines = s.hostLines := rfl
@[simp] theorem State.setThread_hostInval (s : State) (gs : Nat) (t : Thread) : (s.setThread gs t).hostInval = s.hostInval := rfl
@[simp] theorem State.setThread_icache (s : State) (gs : Nat) (t : Thread) : (s.setThread gs t).icache = s.icache := rfl
@[simp] theorem State.setThread_rqs (s : State) (gs : Nat) (t : Thread) : (s.setThread gs t).rqs = s.rqs := rfl
@[simp] theorem State.setThread_launches (s : State) (gs : Nat) (t : Thread) : (s.setThread gs t).launches = s.launches := rfl
@[simp] theorem State.setThread_orphans (s : State) (gs : Nat) (t : Thread) : (s.setThread gs t).orphans = s.orphans := rfl
@[simp] theorem State.setThread_qmap (s : State) (gs : Nat) (t : Thread) : (s.setThread gs t).qmap = s.qmap := rfl
@[simp] theorem State.setThread_qpend (s : State) (gs : Nat) (t : Thread) : (s.setThread gs t).qpend = s.qpend := rfl
@[simp] theorem State.setThread_qlast (s : State) (gs : Nat) (t : Thread) : (s.setThread gs t).qlast = s.qlast := rfl
@[simp] theorem State.setThread_qserve (s : State) (gs : Nat) (t : Thread) : (s.setThread gs t).qserve = s.qserve := rfl
@[simp] theorem State.setThread_mbase (s : State) (gs : Nat) (t : Thread) : (s.setThread gs t).mbase = s.mbase := rfl
@[simp] theorem State.setThread_mb (s : State) (gs : Nat) (t : Thread) : (s.setThread gs t).mb = s.mb := rfl
@[simp] theorem State.setThread_tags (s : State) (gs : Nat) (t : Thread) : (s.setThread gs t).tags = s.tags := rfl
@[simp] theorem State.setThread_binds (s : State) (gs : Nat) (t : Thread) : (s.setThread gs t).binds = s.binds := rfl
@[simp] theorem State.setThread_hover (s : State) (gs : Nat) (t : Thread) : (s.setThread gs t).hover = s.hover := rfl
@[simp] theorem State.setThread_away (s : State) (gs : Nat) (t : Thread) : (s.setThread gs t).away = s.away := rfl
@[simp] theorem State.setThread_stops (s : State) (gs : Nat) (t : Thread) : (s.setThread gs t).stops = s.stops := rfl
@[simp] theorem State.setThread_nextStop (s : State) (gs : Nat) (t : Thread) : (s.setThread gs t).nextStop = s.nextStop := rfl
@[simp] theorem State.setThread_freed (s : State) (gs : Nat) (t : Thread) : (s.setThread gs t).freed = s.freed := rfl
@[simp] theorem State.setThread_traceHold (s : State) (gs : Nat) (t : Thread) : (s.setThread gs t).traceHold = s.traceHold := rfl
@[simp] theorem State.setThread_traceAt (s : State) (gs : Nat) (t : Thread) : (s.setThread gs t).traceAt = s.traceAt := rfl
@[simp] theorem State.setThread_counters (s : State) (gs : Nat) (t : Thread) : (s.setThread gs t).counters = s.counters := rfl
@[simp] theorem State.setThread_sserial (s : State) (gs : Nat) (t : Thread) : (s.setThread gs t).sserial = s.sserial := rfl
@[simp] theorem State.setThread_pulsed (s : State) (gs : Nat) (t : Thread) : (s.setThread gs t).pulsed = s.pulsed := rfl
@[simp] theorem State.setThread_issued (s : State) (gs : Nat) (t : Thread) : (s.setThread gs t).issued = s.issued := rfl
@[simp] theorem State.setThread_dbgen (s : State) (gs : Nat) (t : Thread) : (s.setThread gs t).dbgen = s.dbgen := rfl
@[simp] theorem State.setThread_bps (s : State) (gs : Nat) (t : Thread) : (s.setThread gs t).bps = s.bps := rfl
@[simp] theorem State.setThread_merged (s : State) (gs : Nat) (t : Thread) : (s.setThread gs t).merged = s.merged := rfl
@[simp] theorem State.setThread_ho (s : State) (gs : Nat) (t : Thread) : (s.setThread gs t).ho = s.ho := rfl
@[simp] theorem State.setThread_portsDown (s : State) (gs : Nat) (t : Thread) : (s.setThread gs t).portsDown = s.portsDown := rfl
@[simp] theorem State.setThread_throttle (s : State) (gs : Nat) (t : Thread) : (s.setThread gs t).throttle = s.throttle := rfl
@[simp] theorem State.setThread_moves (s : State) (gs : Nat) (t : Thread) : (s.setThread gs t).moves = s.moves := rfl
@[simp] theorem State.setThread_notices (s : State) (gs : Nat) (t : Thread) : (s.setThread gs t).notices = s.notices := rfl
@[simp] theorem State.setThread_migs (s : State) (gs : Nat) (t : Thread) : (s.setThread gs t).migs = s.migs := rfl
@[simp] theorem State.setThread_remaps (s : State) (gs : Nat) (t : Thread) : (s.setThread gs t).remaps = s.remaps := rfl
@[simp] theorem State.setThread_outbox (s : State) (gs : Nat) (t : Thread) : (s.setThread gs t).outbox = s.outbox := rfl
@[simp] theorem State.setThread_pairs (s : State) (gs : Nat) (t : Thread) : (s.setThread gs t).pairs = s.pairs := rfl
@[simp] theorem State.setThread_traced (s : State) (gs : Nat) (t : Thread) : (s.setThread gs t).traced = s.traced := rfl
@[simp] theorem State.setThread_idling (s : State) (gs : Nat) (t : Thread) : (s.setThread gs t).idling = s.idling := rfl
@[simp] theorem State.setThread_sampling (s : State) (gs : Nat) (t : Thread) : (s.setThread gs t).sampling = s.sampling := rfl
@[simp] theorem State.setThread_flrs (s : State) (gs : Nat) (t : Thread) : (s.setThread gs t).flrs = s.flrs := rfl

/-! `setTh` changes threads alone. -/

@[simp] theorem State.setTh_fs (s : State) (t : Thread) : (s.setTh t).fs = s.fs := rfl
@[simp] theorem State.setTh_unit (s : State) (t : Thread) : (s.setTh t).unit = s.unit := rfl
@[simp] theorem State.setTh_agenda (s : State) (t : Thread) : (s.setTh t).agenda = s.agenda := rfl
@[simp] theorem State.setTh_turn (s : State) (t : Thread) : (s.setTh t).turn = s.turn := rfl
@[simp] theorem State.setTh_prefer (s : State) (t : Thread) : (s.setTh t).prefer = s.prefer := rfl
@[simp] theorem State.setTh_fresh (s : State) (t : Thread) : (s.setTh t).fresh = s.fresh := rfl
@[simp] theorem State.setTh_cycle (s : State) (t : Thread) : (s.setTh t).cycle = s.cycle := rfl
@[simp] theorem State.setTh_mem (s : State) (t : Thread) : (s.setTh t).mem = s.mem := rfl
@[simp] theorem State.setTh_poison (s : State) (t : Thread) : (s.setTh t).poison = s.poison := rfl
@[simp] theorem State.setTh_peer (s : State) (t : Thread) : (s.setTh t).peer = s.peer := rfl
@[simp] theorem State.setTh_rf (s : State) (t : Thread) : (s.setTh t).rf = s.rf := rfl
@[simp] theorem State.setTh_gregs (s : State) (t : Thread) : (s.setTh t).gregs = s.gregs := rfl
@[simp] theorem State.setTh_gregHist (s : State) (t : Thread) : (s.setTh t).gregHist = s.gregHist := rfl
@[simp] theorem State.setTh_globals (s : State) (t : Thread) : (s.setTh t).globals = s.globals := rfl
@[simp] theorem State.setTh_parts (s : State) (t : Thread) : (s.setTh t).parts = s.parts := rfl
@[simp] theorem State.setTh_vfs (s : State) (t : Thread) : (s.setTh t).vfs = s.vfs := rfl
@[simp] theorem State.setTh_hctx (s : State) (t : Thread) : (s.setTh t).hctx = s.hctx := rfl
@[simp] theorem State.setTh_hring (s : State) (t : Thread) : (s.setTh t).hring = s.hring := rfl
@[simp] theorem State.setTh_hslot (s : State) (t : Thread) : (s.setTh t).hslot = s.hslot := rfl
@[simp] theorem State.setTh_hserial (s : State) (t : Thread) : (s.setTh t).hserial = s.hserial := rfl
@[simp] theorem State.setTh_ctb (s : State) (t : Thread) : (s.setTh t).ctb = s.ctb := rfl
@[simp] theorem State.setTh_pkgSeq (s : State) (t : Thread) : (s.setTh t).pkgSeq = s.pkgSeq := rfl
@[simp] theorem State.setTh_sigs (s : State) (t : Thread) : (s.setTh t).sigs = s.sigs := rfl
@[simp] theorem State.setTh_remotes (s : State) (t : Thread) : (s.setTh t).remotes = s.remotes := rfl
@[simp] theorem State.setTh_edges (s : State) (t : Thread) : (s.setTh t).edges = s.edges := rfl
@[simp] theorem State.setTh_msgs (s : State) (t : Thread) : (s.setTh t).msgs = s.msgs := rfl
@[simp] theorem State.setTh_chans (s : State) (t : Thread) : (s.setTh t).chans = s.chans := rfl
@[simp] theorem State.setTh_copies (s : State) (t : Thread) : (s.setTh t).copies = s.copies := rfl
@[simp] theorem State.setTh_nodes (s : State) (t : Thread) : (s.setTh t).nodes = s.nodes := rfl
@[simp] theorem State.setTh_tiles (s : State) (t : Thread) : (s.setTh t).tiles = s.tiles := rfl
@[simp] theorem State.setTh_tilePoison (s : State) (t : Thread) : (s.setTh t).tilePoison = s.tilePoison := rfl
@[simp] theorem State.setTh_matq (s : State) (t : Thread) : (s.setTh t).matq = s.matq := rfl
@[simp] theorem State.setTh_wrr (s : State) (t : Thread) : (s.setTh t).wrr = s.wrr := rfl
@[simp] theorem State.setTh_watches (s : State) (t : Thread) : (s.setTh t).watches = s.watches := rfl
@[simp] theorem State.setTh_locks (s : State) (t : Thread) : (s.setTh t).locks = s.locks := rfl
@[simp] theorem State.setTh_homes (s : State) (t : Thread) : (s.setTh t).homes = s.homes := rfl
@[simp] theorem State.setTh_dirs (s : State) (t : Thread) : (s.setTh t).dirs = s.dirs := rfl
@[simp] theorem State.setTh_coh (s : State) (t : Thread) : (s.setTh t).coh = s.coh := rfl
@[simp] theorem State.setTh_l1 (s : State) (t : Thread) : (s.setTh t).l1 = s.l1 := rfl
@[simp] theorem State.setTh_hostPart (s : State) (t : Thread) : (s.setTh t).hostPart = s.hostPart := rfl
@[simp] theorem State.setTh_hostLines (s : State) (t : Thread) : (s.setTh t).hostLines = s.hostLines := rfl
@[simp] theorem State.setTh_hostInval (s : State) (t : Thread) : (s.setTh t).hostInval = s.hostInval := rfl
@[simp] theorem State.setTh_icache (s : State) (t : Thread) : (s.setTh t).icache = s.icache := rfl
@[simp] theorem State.setTh_rqs (s : State) (t : Thread) : (s.setTh t).rqs = s.rqs := rfl
@[simp] theorem State.setTh_launches (s : State) (t : Thread) : (s.setTh t).launches = s.launches := rfl
@[simp] theorem State.setTh_orphans (s : State) (t : Thread) : (s.setTh t).orphans = s.orphans := rfl
@[simp] theorem State.setTh_qmap (s : State) (t : Thread) : (s.setTh t).qmap = s.qmap := rfl
@[simp] theorem State.setTh_qpend (s : State) (t : Thread) : (s.setTh t).qpend = s.qpend := rfl
@[simp] theorem State.setTh_qlast (s : State) (t : Thread) : (s.setTh t).qlast = s.qlast := rfl
@[simp] theorem State.setTh_qserve (s : State) (t : Thread) : (s.setTh t).qserve = s.qserve := rfl
@[simp] theorem State.setTh_mbase (s : State) (t : Thread) : (s.setTh t).mbase = s.mbase := rfl
@[simp] theorem State.setTh_mb (s : State) (t : Thread) : (s.setTh t).mb = s.mb := rfl
@[simp] theorem State.setTh_tags (s : State) (t : Thread) : (s.setTh t).tags = s.tags := rfl
@[simp] theorem State.setTh_binds (s : State) (t : Thread) : (s.setTh t).binds = s.binds := rfl
@[simp] theorem State.setTh_hover (s : State) (t : Thread) : (s.setTh t).hover = s.hover := rfl
@[simp] theorem State.setTh_away (s : State) (t : Thread) : (s.setTh t).away = s.away := rfl
@[simp] theorem State.setTh_stops (s : State) (t : Thread) : (s.setTh t).stops = s.stops := rfl
@[simp] theorem State.setTh_nextStop (s : State) (t : Thread) : (s.setTh t).nextStop = s.nextStop := rfl
@[simp] theorem State.setTh_freed (s : State) (t : Thread) : (s.setTh t).freed = s.freed := rfl
@[simp] theorem State.setTh_traceHold (s : State) (t : Thread) : (s.setTh t).traceHold = s.traceHold := rfl
@[simp] theorem State.setTh_traceAt (s : State) (t : Thread) : (s.setTh t).traceAt = s.traceAt := rfl
@[simp] theorem State.setTh_counters (s : State) (t : Thread) : (s.setTh t).counters = s.counters := rfl
@[simp] theorem State.setTh_sserial (s : State) (t : Thread) : (s.setTh t).sserial = s.sserial := rfl
@[simp] theorem State.setTh_pulsed (s : State) (t : Thread) : (s.setTh t).pulsed = s.pulsed := rfl
@[simp] theorem State.setTh_issued (s : State) (t : Thread) : (s.setTh t).issued = s.issued := rfl
@[simp] theorem State.setTh_dbgen (s : State) (t : Thread) : (s.setTh t).dbgen = s.dbgen := rfl
@[simp] theorem State.setTh_bps (s : State) (t : Thread) : (s.setTh t).bps = s.bps := rfl
@[simp] theorem State.setTh_merged (s : State) (t : Thread) : (s.setTh t).merged = s.merged := rfl
@[simp] theorem State.setTh_ho (s : State) (t : Thread) : (s.setTh t).ho = s.ho := rfl
@[simp] theorem State.setTh_portsDown (s : State) (t : Thread) : (s.setTh t).portsDown = s.portsDown := rfl
@[simp] theorem State.setTh_throttle (s : State) (t : Thread) : (s.setTh t).throttle = s.throttle := rfl
@[simp] theorem State.setTh_moves (s : State) (t : Thread) : (s.setTh t).moves = s.moves := rfl
@[simp] theorem State.setTh_notices (s : State) (t : Thread) : (s.setTh t).notices = s.notices := rfl
@[simp] theorem State.setTh_migs (s : State) (t : Thread) : (s.setTh t).migs = s.migs := rfl
@[simp] theorem State.setTh_remaps (s : State) (t : Thread) : (s.setTh t).remaps = s.remaps := rfl
@[simp] theorem State.setTh_outbox (s : State) (t : Thread) : (s.setTh t).outbox = s.outbox := rfl
@[simp] theorem State.setTh_pairs (s : State) (t : Thread) : (s.setTh t).pairs = s.pairs := rfl
@[simp] theorem State.setTh_traced (s : State) (t : Thread) : (s.setTh t).traced = s.traced := rfl
@[simp] theorem State.setTh_idling (s : State) (t : Thread) : (s.setTh t).idling = s.idling := rfl
@[simp] theorem State.setTh_sampling (s : State) (t : Thread) : (s.setTh t).sampling = s.sampling := rfl
@[simp] theorem State.setTh_flrs (s : State) (t : Thread) : (s.setTh t).flrs = s.flrs := rfl

/-! `setArch` changes threads alone. -/

@[simp] theorem State.setArch_fs (s : State) (a : Arch) : (s.setArch a).fs = s.fs := rfl
@[simp] theorem State.setArch_unit (s : State) (a : Arch) : (s.setArch a).unit = s.unit := rfl
@[simp] theorem State.setArch_agenda (s : State) (a : Arch) : (s.setArch a).agenda = s.agenda := rfl
@[simp] theorem State.setArch_turn (s : State) (a : Arch) : (s.setArch a).turn = s.turn := rfl
@[simp] theorem State.setArch_prefer (s : State) (a : Arch) : (s.setArch a).prefer = s.prefer := rfl
@[simp] theorem State.setArch_fresh (s : State) (a : Arch) : (s.setArch a).fresh = s.fresh := rfl
@[simp] theorem State.setArch_cycle (s : State) (a : Arch) : (s.setArch a).cycle = s.cycle := rfl
@[simp] theorem State.setArch_mem (s : State) (a : Arch) : (s.setArch a).mem = s.mem := rfl
@[simp] theorem State.setArch_poison (s : State) (a : Arch) : (s.setArch a).poison = s.poison := rfl
@[simp] theorem State.setArch_peer (s : State) (a : Arch) : (s.setArch a).peer = s.peer := rfl
@[simp] theorem State.setArch_rf (s : State) (a : Arch) : (s.setArch a).rf = s.rf := rfl
@[simp] theorem State.setArch_gregs (s : State) (a : Arch) : (s.setArch a).gregs = s.gregs := rfl
@[simp] theorem State.setArch_gregHist (s : State) (a : Arch) : (s.setArch a).gregHist = s.gregHist := rfl
@[simp] theorem State.setArch_globals (s : State) (a : Arch) : (s.setArch a).globals = s.globals := rfl
@[simp] theorem State.setArch_parts (s : State) (a : Arch) : (s.setArch a).parts = s.parts := rfl
@[simp] theorem State.setArch_vfs (s : State) (a : Arch) : (s.setArch a).vfs = s.vfs := rfl
@[simp] theorem State.setArch_hctx (s : State) (a : Arch) : (s.setArch a).hctx = s.hctx := rfl
@[simp] theorem State.setArch_hring (s : State) (a : Arch) : (s.setArch a).hring = s.hring := rfl
@[simp] theorem State.setArch_hslot (s : State) (a : Arch) : (s.setArch a).hslot = s.hslot := rfl
@[simp] theorem State.setArch_hserial (s : State) (a : Arch) : (s.setArch a).hserial = s.hserial := rfl
@[simp] theorem State.setArch_ctb (s : State) (a : Arch) : (s.setArch a).ctb = s.ctb := rfl
@[simp] theorem State.setArch_pkgSeq (s : State) (a : Arch) : (s.setArch a).pkgSeq = s.pkgSeq := rfl
@[simp] theorem State.setArch_sigs (s : State) (a : Arch) : (s.setArch a).sigs = s.sigs := rfl
@[simp] theorem State.setArch_remotes (s : State) (a : Arch) : (s.setArch a).remotes = s.remotes := rfl
@[simp] theorem State.setArch_edges (s : State) (a : Arch) : (s.setArch a).edges = s.edges := rfl
@[simp] theorem State.setArch_msgs (s : State) (a : Arch) : (s.setArch a).msgs = s.msgs := rfl
@[simp] theorem State.setArch_chans (s : State) (a : Arch) : (s.setArch a).chans = s.chans := rfl
@[simp] theorem State.setArch_copies (s : State) (a : Arch) : (s.setArch a).copies = s.copies := rfl
@[simp] theorem State.setArch_nodes (s : State) (a : Arch) : (s.setArch a).nodes = s.nodes := rfl
@[simp] theorem State.setArch_tiles (s : State) (a : Arch) : (s.setArch a).tiles = s.tiles := rfl
@[simp] theorem State.setArch_tilePoison (s : State) (a : Arch) : (s.setArch a).tilePoison = s.tilePoison := rfl
@[simp] theorem State.setArch_matq (s : State) (a : Arch) : (s.setArch a).matq = s.matq := rfl
@[simp] theorem State.setArch_wrr (s : State) (a : Arch) : (s.setArch a).wrr = s.wrr := rfl
@[simp] theorem State.setArch_watches (s : State) (a : Arch) : (s.setArch a).watches = s.watches := rfl
@[simp] theorem State.setArch_locks (s : State) (a : Arch) : (s.setArch a).locks = s.locks := rfl
@[simp] theorem State.setArch_homes (s : State) (a : Arch) : (s.setArch a).homes = s.homes := rfl
@[simp] theorem State.setArch_dirs (s : State) (a : Arch) : (s.setArch a).dirs = s.dirs := rfl
@[simp] theorem State.setArch_coh (s : State) (a : Arch) : (s.setArch a).coh = s.coh := rfl
@[simp] theorem State.setArch_l1 (s : State) (a : Arch) : (s.setArch a).l1 = s.l1 := rfl
@[simp] theorem State.setArch_hostPart (s : State) (a : Arch) : (s.setArch a).hostPart = s.hostPart := rfl
@[simp] theorem State.setArch_hostLines (s : State) (a : Arch) : (s.setArch a).hostLines = s.hostLines := rfl
@[simp] theorem State.setArch_hostInval (s : State) (a : Arch) : (s.setArch a).hostInval = s.hostInval := rfl
@[simp] theorem State.setArch_icache (s : State) (a : Arch) : (s.setArch a).icache = s.icache := rfl
@[simp] theorem State.setArch_rqs (s : State) (a : Arch) : (s.setArch a).rqs = s.rqs := rfl
@[simp] theorem State.setArch_launches (s : State) (a : Arch) : (s.setArch a).launches = s.launches := rfl
@[simp] theorem State.setArch_orphans (s : State) (a : Arch) : (s.setArch a).orphans = s.orphans := rfl
@[simp] theorem State.setArch_qmap (s : State) (a : Arch) : (s.setArch a).qmap = s.qmap := rfl
@[simp] theorem State.setArch_qpend (s : State) (a : Arch) : (s.setArch a).qpend = s.qpend := rfl
@[simp] theorem State.setArch_qlast (s : State) (a : Arch) : (s.setArch a).qlast = s.qlast := rfl
@[simp] theorem State.setArch_qserve (s : State) (a : Arch) : (s.setArch a).qserve = s.qserve := rfl
@[simp] theorem State.setArch_mbase (s : State) (a : Arch) : (s.setArch a).mbase = s.mbase := rfl
@[simp] theorem State.setArch_mb (s : State) (a : Arch) : (s.setArch a).mb = s.mb := rfl
@[simp] theorem State.setArch_tags (s : State) (a : Arch) : (s.setArch a).tags = s.tags := rfl
@[simp] theorem State.setArch_binds (s : State) (a : Arch) : (s.setArch a).binds = s.binds := rfl
@[simp] theorem State.setArch_hover (s : State) (a : Arch) : (s.setArch a).hover = s.hover := rfl
@[simp] theorem State.setArch_away (s : State) (a : Arch) : (s.setArch a).away = s.away := rfl
@[simp] theorem State.setArch_stops (s : State) (a : Arch) : (s.setArch a).stops = s.stops := rfl
@[simp] theorem State.setArch_nextStop (s : State) (a : Arch) : (s.setArch a).nextStop = s.nextStop := rfl
@[simp] theorem State.setArch_freed (s : State) (a : Arch) : (s.setArch a).freed = s.freed := rfl
@[simp] theorem State.setArch_traceHold (s : State) (a : Arch) : (s.setArch a).traceHold = s.traceHold := rfl
@[simp] theorem State.setArch_traceAt (s : State) (a : Arch) : (s.setArch a).traceAt = s.traceAt := rfl
@[simp] theorem State.setArch_counters (s : State) (a : Arch) : (s.setArch a).counters = s.counters := rfl
@[simp] theorem State.setArch_sserial (s : State) (a : Arch) : (s.setArch a).sserial = s.sserial := rfl
@[simp] theorem State.setArch_pulsed (s : State) (a : Arch) : (s.setArch a).pulsed = s.pulsed := rfl
@[simp] theorem State.setArch_issued (s : State) (a : Arch) : (s.setArch a).issued = s.issued := rfl
@[simp] theorem State.setArch_dbgen (s : State) (a : Arch) : (s.setArch a).dbgen = s.dbgen := rfl
@[simp] theorem State.setArch_bps (s : State) (a : Arch) : (s.setArch a).bps = s.bps := rfl
@[simp] theorem State.setArch_merged (s : State) (a : Arch) : (s.setArch a).merged = s.merged := rfl
@[simp] theorem State.setArch_ho (s : State) (a : Arch) : (s.setArch a).ho = s.ho := rfl
@[simp] theorem State.setArch_portsDown (s : State) (a : Arch) : (s.setArch a).portsDown = s.portsDown := rfl
@[simp] theorem State.setArch_throttle (s : State) (a : Arch) : (s.setArch a).throttle = s.throttle := rfl
@[simp] theorem State.setArch_moves (s : State) (a : Arch) : (s.setArch a).moves = s.moves := rfl
@[simp] theorem State.setArch_notices (s : State) (a : Arch) : (s.setArch a).notices = s.notices := rfl
@[simp] theorem State.setArch_migs (s : State) (a : Arch) : (s.setArch a).migs = s.migs := rfl
@[simp] theorem State.setArch_remaps (s : State) (a : Arch) : (s.setArch a).remaps = s.remaps := rfl
@[simp] theorem State.setArch_outbox (s : State) (a : Arch) : (s.setArch a).outbox = s.outbox := rfl
@[simp] theorem State.setArch_pairs (s : State) (a : Arch) : (s.setArch a).pairs = s.pairs := rfl
@[simp] theorem State.setArch_traced (s : State) (a : Arch) : (s.setArch a).traced = s.traced := rfl
@[simp] theorem State.setArch_idling (s : State) (a : Arch) : (s.setArch a).idling = s.idling := rfl
@[simp] theorem State.setArch_sampling (s : State) (a : Arch) : (s.setArch a).sampling = s.sampling := rfl
@[simp] theorem State.setArch_flrs (s : State) (a : Arch) : (s.setArch a).flrs = s.flrs := rfl

/-! `setXOf` changes rf alone. -/

@[simp] theorem State.setXOf_fs (s : State) (gs f : Nat) (v : Word) : (s.setXOf gs f v).fs = s.fs := by unfold State.setXOf; split <;> rfl
@[simp] theorem State.setXOf_unit (s : State) (gs f : Nat) (v : Word) : (s.setXOf gs f v).unit = s.unit := by unfold State.setXOf; split <;> rfl
@[simp] theorem State.setXOf_agenda (s : State) (gs f : Nat) (v : Word) : (s.setXOf gs f v).agenda = s.agenda := by unfold State.setXOf; split <;> rfl
@[simp] theorem State.setXOf_turn (s : State) (gs f : Nat) (v : Word) : (s.setXOf gs f v).turn = s.turn := by unfold State.setXOf; split <;> rfl
@[simp] theorem State.setXOf_prefer (s : State) (gs f : Nat) (v : Word) : (s.setXOf gs f v).prefer = s.prefer := by unfold State.setXOf; split <;> rfl
@[simp] theorem State.setXOf_fresh (s : State) (gs f : Nat) (v : Word) : (s.setXOf gs f v).fresh = s.fresh := by unfold State.setXOf; split <;> rfl
@[simp] theorem State.setXOf_cycle (s : State) (gs f : Nat) (v : Word) : (s.setXOf gs f v).cycle = s.cycle := by unfold State.setXOf; split <;> rfl
@[simp] theorem State.setXOf_mem (s : State) (gs f : Nat) (v : Word) : (s.setXOf gs f v).mem = s.mem := by unfold State.setXOf; split <;> rfl
@[simp] theorem State.setXOf_poison (s : State) (gs f : Nat) (v : Word) : (s.setXOf gs f v).poison = s.poison := by unfold State.setXOf; split <;> rfl
@[simp] theorem State.setXOf_peer (s : State) (gs f : Nat) (v : Word) : (s.setXOf gs f v).peer = s.peer := by unfold State.setXOf; split <;> rfl
@[simp] theorem State.setXOf_gregs (s : State) (gs f : Nat) (v : Word) : (s.setXOf gs f v).gregs = s.gregs := by unfold State.setXOf; split <;> rfl
@[simp] theorem State.setXOf_gregHist (s : State) (gs f : Nat) (v : Word) : (s.setXOf gs f v).gregHist = s.gregHist := by unfold State.setXOf; split <;> rfl
@[simp] theorem State.setXOf_threads (s : State) (gs f : Nat) (v : Word) : (s.setXOf gs f v).threads = s.threads := by unfold State.setXOf; split <;> rfl
@[simp] theorem State.setXOf_globals (s : State) (gs f : Nat) (v : Word) : (s.setXOf gs f v).globals = s.globals := by unfold State.setXOf; split <;> rfl
@[simp] theorem State.setXOf_parts (s : State) (gs f : Nat) (v : Word) : (s.setXOf gs f v).parts = s.parts := by unfold State.setXOf; split <;> rfl
@[simp] theorem State.setXOf_vfs (s : State) (gs f : Nat) (v : Word) : (s.setXOf gs f v).vfs = s.vfs := by unfold State.setXOf; split <;> rfl
@[simp] theorem State.setXOf_hctx (s : State) (gs f : Nat) (v : Word) : (s.setXOf gs f v).hctx = s.hctx := by unfold State.setXOf; split <;> rfl
@[simp] theorem State.setXOf_hring (s : State) (gs f : Nat) (v : Word) : (s.setXOf gs f v).hring = s.hring := by unfold State.setXOf; split <;> rfl
@[simp] theorem State.setXOf_hslot (s : State) (gs f : Nat) (v : Word) : (s.setXOf gs f v).hslot = s.hslot := by unfold State.setXOf; split <;> rfl
@[simp] theorem State.setXOf_hserial (s : State) (gs f : Nat) (v : Word) : (s.setXOf gs f v).hserial = s.hserial := by unfold State.setXOf; split <;> rfl
@[simp] theorem State.setXOf_ctb (s : State) (gs f : Nat) (v : Word) : (s.setXOf gs f v).ctb = s.ctb := by unfold State.setXOf; split <;> rfl
@[simp] theorem State.setXOf_pkgSeq (s : State) (gs f : Nat) (v : Word) : (s.setXOf gs f v).pkgSeq = s.pkgSeq := by unfold State.setXOf; split <;> rfl
@[simp] theorem State.setXOf_sigs (s : State) (gs f : Nat) (v : Word) : (s.setXOf gs f v).sigs = s.sigs := by unfold State.setXOf; split <;> rfl
@[simp] theorem State.setXOf_remotes (s : State) (gs f : Nat) (v : Word) : (s.setXOf gs f v).remotes = s.remotes := by unfold State.setXOf; split <;> rfl
@[simp] theorem State.setXOf_edges (s : State) (gs f : Nat) (v : Word) : (s.setXOf gs f v).edges = s.edges := by unfold State.setXOf; split <;> rfl
@[simp] theorem State.setXOf_msgs (s : State) (gs f : Nat) (v : Word) : (s.setXOf gs f v).msgs = s.msgs := by unfold State.setXOf; split <;> rfl
@[simp] theorem State.setXOf_chans (s : State) (gs f : Nat) (v : Word) : (s.setXOf gs f v).chans = s.chans := by unfold State.setXOf; split <;> rfl
@[simp] theorem State.setXOf_copies (s : State) (gs f : Nat) (v : Word) : (s.setXOf gs f v).copies = s.copies := by unfold State.setXOf; split <;> rfl
@[simp] theorem State.setXOf_nodes (s : State) (gs f : Nat) (v : Word) : (s.setXOf gs f v).nodes = s.nodes := by unfold State.setXOf; split <;> rfl
@[simp] theorem State.setXOf_tiles (s : State) (gs f : Nat) (v : Word) : (s.setXOf gs f v).tiles = s.tiles := by unfold State.setXOf; split <;> rfl
@[simp] theorem State.setXOf_tilePoison (s : State) (gs f : Nat) (v : Word) : (s.setXOf gs f v).tilePoison = s.tilePoison := by unfold State.setXOf; split <;> rfl
@[simp] theorem State.setXOf_matq (s : State) (gs f : Nat) (v : Word) : (s.setXOf gs f v).matq = s.matq := by unfold State.setXOf; split <;> rfl
@[simp] theorem State.setXOf_wrr (s : State) (gs f : Nat) (v : Word) : (s.setXOf gs f v).wrr = s.wrr := by unfold State.setXOf; split <;> rfl
@[simp] theorem State.setXOf_watches (s : State) (gs f : Nat) (v : Word) : (s.setXOf gs f v).watches = s.watches := by unfold State.setXOf; split <;> rfl
@[simp] theorem State.setXOf_locks (s : State) (gs f : Nat) (v : Word) : (s.setXOf gs f v).locks = s.locks := by unfold State.setXOf; split <;> rfl
@[simp] theorem State.setXOf_homes (s : State) (gs f : Nat) (v : Word) : (s.setXOf gs f v).homes = s.homes := by unfold State.setXOf; split <;> rfl
@[simp] theorem State.setXOf_dirs (s : State) (gs f : Nat) (v : Word) : (s.setXOf gs f v).dirs = s.dirs := by unfold State.setXOf; split <;> rfl
@[simp] theorem State.setXOf_coh (s : State) (gs f : Nat) (v : Word) : (s.setXOf gs f v).coh = s.coh := by unfold State.setXOf; split <;> rfl
@[simp] theorem State.setXOf_l1 (s : State) (gs f : Nat) (v : Word) : (s.setXOf gs f v).l1 = s.l1 := by unfold State.setXOf; split <;> rfl
@[simp] theorem State.setXOf_hostPart (s : State) (gs f : Nat) (v : Word) : (s.setXOf gs f v).hostPart = s.hostPart := by unfold State.setXOf; split <;> rfl
@[simp] theorem State.setXOf_hostLines (s : State) (gs f : Nat) (v : Word) : (s.setXOf gs f v).hostLines = s.hostLines := by unfold State.setXOf; split <;> rfl
@[simp] theorem State.setXOf_hostInval (s : State) (gs f : Nat) (v : Word) : (s.setXOf gs f v).hostInval = s.hostInval := by unfold State.setXOf; split <;> rfl
@[simp] theorem State.setXOf_icache (s : State) (gs f : Nat) (v : Word) : (s.setXOf gs f v).icache = s.icache := by unfold State.setXOf; split <;> rfl
@[simp] theorem State.setXOf_rqs (s : State) (gs f : Nat) (v : Word) : (s.setXOf gs f v).rqs = s.rqs := by unfold State.setXOf; split <;> rfl
@[simp] theorem State.setXOf_launches (s : State) (gs f : Nat) (v : Word) : (s.setXOf gs f v).launches = s.launches := by unfold State.setXOf; split <;> rfl
@[simp] theorem State.setXOf_orphans (s : State) (gs f : Nat) (v : Word) : (s.setXOf gs f v).orphans = s.orphans := by unfold State.setXOf; split <;> rfl
@[simp] theorem State.setXOf_qmap (s : State) (gs f : Nat) (v : Word) : (s.setXOf gs f v).qmap = s.qmap := by unfold State.setXOf; split <;> rfl
@[simp] theorem State.setXOf_qpend (s : State) (gs f : Nat) (v : Word) : (s.setXOf gs f v).qpend = s.qpend := by unfold State.setXOf; split <;> rfl
@[simp] theorem State.setXOf_qlast (s : State) (gs f : Nat) (v : Word) : (s.setXOf gs f v).qlast = s.qlast := by unfold State.setXOf; split <;> rfl
@[simp] theorem State.setXOf_qserve (s : State) (gs f : Nat) (v : Word) : (s.setXOf gs f v).qserve = s.qserve := by unfold State.setXOf; split <;> rfl
@[simp] theorem State.setXOf_mbase (s : State) (gs f : Nat) (v : Word) : (s.setXOf gs f v).mbase = s.mbase := by unfold State.setXOf; split <;> rfl
@[simp] theorem State.setXOf_mb (s : State) (gs f : Nat) (v : Word) : (s.setXOf gs f v).mb = s.mb := by unfold State.setXOf; split <;> rfl
@[simp] theorem State.setXOf_tags (s : State) (gs f : Nat) (v : Word) : (s.setXOf gs f v).tags = s.tags := by unfold State.setXOf; split <;> rfl
@[simp] theorem State.setXOf_binds (s : State) (gs f : Nat) (v : Word) : (s.setXOf gs f v).binds = s.binds := by unfold State.setXOf; split <;> rfl
@[simp] theorem State.setXOf_hover (s : State) (gs f : Nat) (v : Word) : (s.setXOf gs f v).hover = s.hover := by unfold State.setXOf; split <;> rfl
@[simp] theorem State.setXOf_away (s : State) (gs f : Nat) (v : Word) : (s.setXOf gs f v).away = s.away := by unfold State.setXOf; split <;> rfl
@[simp] theorem State.setXOf_stops (s : State) (gs f : Nat) (v : Word) : (s.setXOf gs f v).stops = s.stops := by unfold State.setXOf; split <;> rfl
@[simp] theorem State.setXOf_nextStop (s : State) (gs f : Nat) (v : Word) : (s.setXOf gs f v).nextStop = s.nextStop := by unfold State.setXOf; split <;> rfl
@[simp] theorem State.setXOf_freed (s : State) (gs f : Nat) (v : Word) : (s.setXOf gs f v).freed = s.freed := by unfold State.setXOf; split <;> rfl
@[simp] theorem State.setXOf_traceHold (s : State) (gs f : Nat) (v : Word) : (s.setXOf gs f v).traceHold = s.traceHold := by unfold State.setXOf; split <;> rfl
@[simp] theorem State.setXOf_traceAt (s : State) (gs f : Nat) (v : Word) : (s.setXOf gs f v).traceAt = s.traceAt := by unfold State.setXOf; split <;> rfl
@[simp] theorem State.setXOf_counters (s : State) (gs f : Nat) (v : Word) : (s.setXOf gs f v).counters = s.counters := by unfold State.setXOf; split <;> rfl
@[simp] theorem State.setXOf_sserial (s : State) (gs f : Nat) (v : Word) : (s.setXOf gs f v).sserial = s.sserial := by unfold State.setXOf; split <;> rfl
@[simp] theorem State.setXOf_pulsed (s : State) (gs f : Nat) (v : Word) : (s.setXOf gs f v).pulsed = s.pulsed := by unfold State.setXOf; split <;> rfl
@[simp] theorem State.setXOf_issued (s : State) (gs f : Nat) (v : Word) : (s.setXOf gs f v).issued = s.issued := by unfold State.setXOf; split <;> rfl
@[simp] theorem State.setXOf_dbgen (s : State) (gs f : Nat) (v : Word) : (s.setXOf gs f v).dbgen = s.dbgen := by unfold State.setXOf; split <;> rfl
@[simp] theorem State.setXOf_bps (s : State) (gs f : Nat) (v : Word) : (s.setXOf gs f v).bps = s.bps := by unfold State.setXOf; split <;> rfl
@[simp] theorem State.setXOf_merged (s : State) (gs f : Nat) (v : Word) : (s.setXOf gs f v).merged = s.merged := by unfold State.setXOf; split <;> rfl
@[simp] theorem State.setXOf_ho (s : State) (gs f : Nat) (v : Word) : (s.setXOf gs f v).ho = s.ho := by unfold State.setXOf; split <;> rfl
@[simp] theorem State.setXOf_portsDown (s : State) (gs f : Nat) (v : Word) : (s.setXOf gs f v).portsDown = s.portsDown := by unfold State.setXOf; split <;> rfl
@[simp] theorem State.setXOf_throttle (s : State) (gs f : Nat) (v : Word) : (s.setXOf gs f v).throttle = s.throttle := by unfold State.setXOf; split <;> rfl
@[simp] theorem State.setXOf_moves (s : State) (gs f : Nat) (v : Word) : (s.setXOf gs f v).moves = s.moves := by unfold State.setXOf; split <;> rfl
@[simp] theorem State.setXOf_notices (s : State) (gs f : Nat) (v : Word) : (s.setXOf gs f v).notices = s.notices := by unfold State.setXOf; split <;> rfl
@[simp] theorem State.setXOf_migs (s : State) (gs f : Nat) (v : Word) : (s.setXOf gs f v).migs = s.migs := by unfold State.setXOf; split <;> rfl
@[simp] theorem State.setXOf_remaps (s : State) (gs f : Nat) (v : Word) : (s.setXOf gs f v).remaps = s.remaps := by unfold State.setXOf; split <;> rfl
@[simp] theorem State.setXOf_outbox (s : State) (gs f : Nat) (v : Word) : (s.setXOf gs f v).outbox = s.outbox := by unfold State.setXOf; split <;> rfl
@[simp] theorem State.setXOf_pairs (s : State) (gs f : Nat) (v : Word) : (s.setXOf gs f v).pairs = s.pairs := by unfold State.setXOf; split <;> rfl
@[simp] theorem State.setXOf_traced (s : State) (gs f : Nat) (v : Word) : (s.setXOf gs f v).traced = s.traced := by unfold State.setXOf; split <;> rfl
@[simp] theorem State.setXOf_idling (s : State) (gs f : Nat) (v : Word) : (s.setXOf gs f v).idling = s.idling := by unfold State.setXOf; split <;> rfl
@[simp] theorem State.setXOf_sampling (s : State) (gs f : Nat) (v : Word) : (s.setXOf gs f v).sampling = s.sampling := by unfold State.setXOf; split <;> rfl
@[simp] theorem State.setXOf_flrs (s : State) (gs f : Nat) (v : Word) : (s.setXOf gs f v).flrs = s.flrs := by unfold State.setXOf; split <;> rfl

/-! `setX` changes rf alone. -/

@[simp] theorem State.setX_fs (s : State) (f : Nat) (v : Word) : (s.setX f v).fs = s.fs := State.setXOf_fs s s.fs f v
@[simp] theorem State.setX_unit (s : State) (f : Nat) (v : Word) : (s.setX f v).unit = s.unit := State.setXOf_unit s s.fs f v
@[simp] theorem State.setX_agenda (s : State) (f : Nat) (v : Word) : (s.setX f v).agenda = s.agenda := State.setXOf_agenda s s.fs f v
@[simp] theorem State.setX_turn (s : State) (f : Nat) (v : Word) : (s.setX f v).turn = s.turn := State.setXOf_turn s s.fs f v
@[simp] theorem State.setX_prefer (s : State) (f : Nat) (v : Word) : (s.setX f v).prefer = s.prefer := State.setXOf_prefer s s.fs f v
@[simp] theorem State.setX_fresh (s : State) (f : Nat) (v : Word) : (s.setX f v).fresh = s.fresh := State.setXOf_fresh s s.fs f v
@[simp] theorem State.setX_cycle (s : State) (f : Nat) (v : Word) : (s.setX f v).cycle = s.cycle := State.setXOf_cycle s s.fs f v
@[simp] theorem State.setX_mem (s : State) (f : Nat) (v : Word) : (s.setX f v).mem = s.mem := State.setXOf_mem s s.fs f v
@[simp] theorem State.setX_poison (s : State) (f : Nat) (v : Word) : (s.setX f v).poison = s.poison := State.setXOf_poison s s.fs f v
@[simp] theorem State.setX_peer (s : State) (f : Nat) (v : Word) : (s.setX f v).peer = s.peer := State.setXOf_peer s s.fs f v
@[simp] theorem State.setX_gregs (s : State) (f : Nat) (v : Word) : (s.setX f v).gregs = s.gregs := State.setXOf_gregs s s.fs f v
@[simp] theorem State.setX_gregHist (s : State) (f : Nat) (v : Word) : (s.setX f v).gregHist = s.gregHist := State.setXOf_gregHist s s.fs f v
@[simp] theorem State.setX_threads (s : State) (f : Nat) (v : Word) : (s.setX f v).threads = s.threads := State.setXOf_threads s s.fs f v
@[simp] theorem State.setX_globals (s : State) (f : Nat) (v : Word) : (s.setX f v).globals = s.globals := State.setXOf_globals s s.fs f v
@[simp] theorem State.setX_parts (s : State) (f : Nat) (v : Word) : (s.setX f v).parts = s.parts := State.setXOf_parts s s.fs f v
@[simp] theorem State.setX_vfs (s : State) (f : Nat) (v : Word) : (s.setX f v).vfs = s.vfs := State.setXOf_vfs s s.fs f v
@[simp] theorem State.setX_hctx (s : State) (f : Nat) (v : Word) : (s.setX f v).hctx = s.hctx := State.setXOf_hctx s s.fs f v
@[simp] theorem State.setX_hring (s : State) (f : Nat) (v : Word) : (s.setX f v).hring = s.hring := State.setXOf_hring s s.fs f v
@[simp] theorem State.setX_hslot (s : State) (f : Nat) (v : Word) : (s.setX f v).hslot = s.hslot := State.setXOf_hslot s s.fs f v
@[simp] theorem State.setX_hserial (s : State) (f : Nat) (v : Word) : (s.setX f v).hserial = s.hserial := State.setXOf_hserial s s.fs f v
@[simp] theorem State.setX_ctb (s : State) (f : Nat) (v : Word) : (s.setX f v).ctb = s.ctb := State.setXOf_ctb s s.fs f v
@[simp] theorem State.setX_pkgSeq (s : State) (f : Nat) (v : Word) : (s.setX f v).pkgSeq = s.pkgSeq := State.setXOf_pkgSeq s s.fs f v
@[simp] theorem State.setX_sigs (s : State) (f : Nat) (v : Word) : (s.setX f v).sigs = s.sigs := State.setXOf_sigs s s.fs f v
@[simp] theorem State.setX_remotes (s : State) (f : Nat) (v : Word) : (s.setX f v).remotes = s.remotes := State.setXOf_remotes s s.fs f v
@[simp] theorem State.setX_edges (s : State) (f : Nat) (v : Word) : (s.setX f v).edges = s.edges := State.setXOf_edges s s.fs f v
@[simp] theorem State.setX_msgs (s : State) (f : Nat) (v : Word) : (s.setX f v).msgs = s.msgs := State.setXOf_msgs s s.fs f v
@[simp] theorem State.setX_chans (s : State) (f : Nat) (v : Word) : (s.setX f v).chans = s.chans := State.setXOf_chans s s.fs f v
@[simp] theorem State.setX_copies (s : State) (f : Nat) (v : Word) : (s.setX f v).copies = s.copies := State.setXOf_copies s s.fs f v
@[simp] theorem State.setX_nodes (s : State) (f : Nat) (v : Word) : (s.setX f v).nodes = s.nodes := State.setXOf_nodes s s.fs f v
@[simp] theorem State.setX_tiles (s : State) (f : Nat) (v : Word) : (s.setX f v).tiles = s.tiles := State.setXOf_tiles s s.fs f v
@[simp] theorem State.setX_tilePoison (s : State) (f : Nat) (v : Word) : (s.setX f v).tilePoison = s.tilePoison := State.setXOf_tilePoison s s.fs f v
@[simp] theorem State.setX_matq (s : State) (f : Nat) (v : Word) : (s.setX f v).matq = s.matq := State.setXOf_matq s s.fs f v
@[simp] theorem State.setX_wrr (s : State) (f : Nat) (v : Word) : (s.setX f v).wrr = s.wrr := State.setXOf_wrr s s.fs f v
@[simp] theorem State.setX_watches (s : State) (f : Nat) (v : Word) : (s.setX f v).watches = s.watches := State.setXOf_watches s s.fs f v
@[simp] theorem State.setX_locks (s : State) (f : Nat) (v : Word) : (s.setX f v).locks = s.locks := State.setXOf_locks s s.fs f v
@[simp] theorem State.setX_homes (s : State) (f : Nat) (v : Word) : (s.setX f v).homes = s.homes := State.setXOf_homes s s.fs f v
@[simp] theorem State.setX_dirs (s : State) (f : Nat) (v : Word) : (s.setX f v).dirs = s.dirs := State.setXOf_dirs s s.fs f v
@[simp] theorem State.setX_coh (s : State) (f : Nat) (v : Word) : (s.setX f v).coh = s.coh := State.setXOf_coh s s.fs f v
@[simp] theorem State.setX_l1 (s : State) (f : Nat) (v : Word) : (s.setX f v).l1 = s.l1 := State.setXOf_l1 s s.fs f v
@[simp] theorem State.setX_hostPart (s : State) (f : Nat) (v : Word) : (s.setX f v).hostPart = s.hostPart := State.setXOf_hostPart s s.fs f v
@[simp] theorem State.setX_hostLines (s : State) (f : Nat) (v : Word) : (s.setX f v).hostLines = s.hostLines := State.setXOf_hostLines s s.fs f v
@[simp] theorem State.setX_hostInval (s : State) (f : Nat) (v : Word) : (s.setX f v).hostInval = s.hostInval := State.setXOf_hostInval s s.fs f v
@[simp] theorem State.setX_icache (s : State) (f : Nat) (v : Word) : (s.setX f v).icache = s.icache := State.setXOf_icache s s.fs f v
@[simp] theorem State.setX_rqs (s : State) (f : Nat) (v : Word) : (s.setX f v).rqs = s.rqs := State.setXOf_rqs s s.fs f v
@[simp] theorem State.setX_launches (s : State) (f : Nat) (v : Word) : (s.setX f v).launches = s.launches := State.setXOf_launches s s.fs f v
@[simp] theorem State.setX_orphans (s : State) (f : Nat) (v : Word) : (s.setX f v).orphans = s.orphans := State.setXOf_orphans s s.fs f v
@[simp] theorem State.setX_qmap (s : State) (f : Nat) (v : Word) : (s.setX f v).qmap = s.qmap := State.setXOf_qmap s s.fs f v
@[simp] theorem State.setX_qpend (s : State) (f : Nat) (v : Word) : (s.setX f v).qpend = s.qpend := State.setXOf_qpend s s.fs f v
@[simp] theorem State.setX_qlast (s : State) (f : Nat) (v : Word) : (s.setX f v).qlast = s.qlast := State.setXOf_qlast s s.fs f v
@[simp] theorem State.setX_qserve (s : State) (f : Nat) (v : Word) : (s.setX f v).qserve = s.qserve := State.setXOf_qserve s s.fs f v
@[simp] theorem State.setX_mbase (s : State) (f : Nat) (v : Word) : (s.setX f v).mbase = s.mbase := State.setXOf_mbase s s.fs f v
@[simp] theorem State.setX_mb (s : State) (f : Nat) (v : Word) : (s.setX f v).mb = s.mb := State.setXOf_mb s s.fs f v
@[simp] theorem State.setX_tags (s : State) (f : Nat) (v : Word) : (s.setX f v).tags = s.tags := State.setXOf_tags s s.fs f v
@[simp] theorem State.setX_binds (s : State) (f : Nat) (v : Word) : (s.setX f v).binds = s.binds := State.setXOf_binds s s.fs f v
@[simp] theorem State.setX_hover (s : State) (f : Nat) (v : Word) : (s.setX f v).hover = s.hover := State.setXOf_hover s s.fs f v
@[simp] theorem State.setX_away (s : State) (f : Nat) (v : Word) : (s.setX f v).away = s.away := State.setXOf_away s s.fs f v
@[simp] theorem State.setX_stops (s : State) (f : Nat) (v : Word) : (s.setX f v).stops = s.stops := State.setXOf_stops s s.fs f v
@[simp] theorem State.setX_nextStop (s : State) (f : Nat) (v : Word) : (s.setX f v).nextStop = s.nextStop := State.setXOf_nextStop s s.fs f v
@[simp] theorem State.setX_freed (s : State) (f : Nat) (v : Word) : (s.setX f v).freed = s.freed := State.setXOf_freed s s.fs f v
@[simp] theorem State.setX_traceHold (s : State) (f : Nat) (v : Word) : (s.setX f v).traceHold = s.traceHold := State.setXOf_traceHold s s.fs f v
@[simp] theorem State.setX_traceAt (s : State) (f : Nat) (v : Word) : (s.setX f v).traceAt = s.traceAt := State.setXOf_traceAt s s.fs f v
@[simp] theorem State.setX_counters (s : State) (f : Nat) (v : Word) : (s.setX f v).counters = s.counters := State.setXOf_counters s s.fs f v
@[simp] theorem State.setX_sserial (s : State) (f : Nat) (v : Word) : (s.setX f v).sserial = s.sserial := State.setXOf_sserial s s.fs f v
@[simp] theorem State.setX_pulsed (s : State) (f : Nat) (v : Word) : (s.setX f v).pulsed = s.pulsed := State.setXOf_pulsed s s.fs f v
@[simp] theorem State.setX_issued (s : State) (f : Nat) (v : Word) : (s.setX f v).issued = s.issued := State.setXOf_issued s s.fs f v
@[simp] theorem State.setX_dbgen (s : State) (f : Nat) (v : Word) : (s.setX f v).dbgen = s.dbgen := State.setXOf_dbgen s s.fs f v
@[simp] theorem State.setX_bps (s : State) (f : Nat) (v : Word) : (s.setX f v).bps = s.bps := State.setXOf_bps s s.fs f v
@[simp] theorem State.setX_merged (s : State) (f : Nat) (v : Word) : (s.setX f v).merged = s.merged := State.setXOf_merged s s.fs f v
@[simp] theorem State.setX_ho (s : State) (f : Nat) (v : Word) : (s.setX f v).ho = s.ho := State.setXOf_ho s s.fs f v
@[simp] theorem State.setX_portsDown (s : State) (f : Nat) (v : Word) : (s.setX f v).portsDown = s.portsDown := State.setXOf_portsDown s s.fs f v
@[simp] theorem State.setX_throttle (s : State) (f : Nat) (v : Word) : (s.setX f v).throttle = s.throttle := State.setXOf_throttle s s.fs f v
@[simp] theorem State.setX_moves (s : State) (f : Nat) (v : Word) : (s.setX f v).moves = s.moves := State.setXOf_moves s s.fs f v
@[simp] theorem State.setX_notices (s : State) (f : Nat) (v : Word) : (s.setX f v).notices = s.notices := State.setXOf_notices s s.fs f v
@[simp] theorem State.setX_migs (s : State) (f : Nat) (v : Word) : (s.setX f v).migs = s.migs := State.setXOf_migs s s.fs f v
@[simp] theorem State.setX_remaps (s : State) (f : Nat) (v : Word) : (s.setX f v).remaps = s.remaps := State.setXOf_remaps s s.fs f v
@[simp] theorem State.setX_outbox (s : State) (f : Nat) (v : Word) : (s.setX f v).outbox = s.outbox := State.setXOf_outbox s s.fs f v
@[simp] theorem State.setX_pairs (s : State) (f : Nat) (v : Word) : (s.setX f v).pairs = s.pairs := State.setXOf_pairs s s.fs f v
@[simp] theorem State.setX_traced (s : State) (f : Nat) (v : Word) : (s.setX f v).traced = s.traced := State.setXOf_traced s s.fs f v
@[simp] theorem State.setX_idling (s : State) (f : Nat) (v : Word) : (s.setX f v).idling = s.idling := State.setXOf_idling s s.fs f v
@[simp] theorem State.setX_sampling (s : State) (f : Nat) (v : Word) : (s.setX f v).sampling = s.sampling := State.setXOf_sampling s s.fs f v
@[simp] theorem State.setX_flrs (s : State) (f : Nat) (v : Word) : (s.setX f v).flrs = s.flrs := State.setXOf_flrs s s.fs f v

/-! `setByte` changes mem and peer alone. -/

@[simp] theorem State.setByte_fs (s : State) (pa : Nat) (b : Byte) : (s.setByte pa b).fs = s.fs := by unfold State.setByte; split <;> rfl
@[simp] theorem State.setByte_unit (s : State) (pa : Nat) (b : Byte) : (s.setByte pa b).unit = s.unit := by unfold State.setByte; split <;> rfl
@[simp] theorem State.setByte_agenda (s : State) (pa : Nat) (b : Byte) : (s.setByte pa b).agenda = s.agenda := by unfold State.setByte; split <;> rfl
@[simp] theorem State.setByte_turn (s : State) (pa : Nat) (b : Byte) : (s.setByte pa b).turn = s.turn := by unfold State.setByte; split <;> rfl
@[simp] theorem State.setByte_prefer (s : State) (pa : Nat) (b : Byte) : (s.setByte pa b).prefer = s.prefer := by unfold State.setByte; split <;> rfl
@[simp] theorem State.setByte_fresh (s : State) (pa : Nat) (b : Byte) : (s.setByte pa b).fresh = s.fresh := by unfold State.setByte; split <;> rfl
@[simp] theorem State.setByte_cycle (s : State) (pa : Nat) (b : Byte) : (s.setByte pa b).cycle = s.cycle := by unfold State.setByte; split <;> rfl
@[simp] theorem State.setByte_poison (s : State) (pa : Nat) (b : Byte) : (s.setByte pa b).poison = s.poison := by unfold State.setByte; split <;> rfl
@[simp] theorem State.setByte_rf (s : State) (pa : Nat) (b : Byte) : (s.setByte pa b).rf = s.rf := by unfold State.setByte; split <;> rfl
@[simp] theorem State.setByte_gregs (s : State) (pa : Nat) (b : Byte) : (s.setByte pa b).gregs = s.gregs := by unfold State.setByte; split <;> rfl
@[simp] theorem State.setByte_gregHist (s : State) (pa : Nat) (b : Byte) : (s.setByte pa b).gregHist = s.gregHist := by unfold State.setByte; split <;> rfl
@[simp] theorem State.setByte_threads (s : State) (pa : Nat) (b : Byte) : (s.setByte pa b).threads = s.threads := by unfold State.setByte; split <;> rfl
@[simp] theorem State.setByte_globals (s : State) (pa : Nat) (b : Byte) : (s.setByte pa b).globals = s.globals := by unfold State.setByte; split <;> rfl
@[simp] theorem State.setByte_parts (s : State) (pa : Nat) (b : Byte) : (s.setByte pa b).parts = s.parts := by unfold State.setByte; split <;> rfl
@[simp] theorem State.setByte_vfs (s : State) (pa : Nat) (b : Byte) : (s.setByte pa b).vfs = s.vfs := by unfold State.setByte; split <;> rfl
@[simp] theorem State.setByte_hctx (s : State) (pa : Nat) (b : Byte) : (s.setByte pa b).hctx = s.hctx := by unfold State.setByte; split <;> rfl
@[simp] theorem State.setByte_hring (s : State) (pa : Nat) (b : Byte) : (s.setByte pa b).hring = s.hring := by unfold State.setByte; split <;> rfl
@[simp] theorem State.setByte_hslot (s : State) (pa : Nat) (b : Byte) : (s.setByte pa b).hslot = s.hslot := by unfold State.setByte; split <;> rfl
@[simp] theorem State.setByte_hserial (s : State) (pa : Nat) (b : Byte) : (s.setByte pa b).hserial = s.hserial := by unfold State.setByte; split <;> rfl
@[simp] theorem State.setByte_ctb (s : State) (pa : Nat) (b : Byte) : (s.setByte pa b).ctb = s.ctb := by unfold State.setByte; split <;> rfl
@[simp] theorem State.setByte_pkgSeq (s : State) (pa : Nat) (b : Byte) : (s.setByte pa b).pkgSeq = s.pkgSeq := by unfold State.setByte; split <;> rfl
@[simp] theorem State.setByte_sigs (s : State) (pa : Nat) (b : Byte) : (s.setByte pa b).sigs = s.sigs := by unfold State.setByte; split <;> rfl
@[simp] theorem State.setByte_remotes (s : State) (pa : Nat) (b : Byte) : (s.setByte pa b).remotes = s.remotes := by unfold State.setByte; split <;> rfl
@[simp] theorem State.setByte_edges (s : State) (pa : Nat) (b : Byte) : (s.setByte pa b).edges = s.edges := by unfold State.setByte; split <;> rfl
@[simp] theorem State.setByte_msgs (s : State) (pa : Nat) (b : Byte) : (s.setByte pa b).msgs = s.msgs := by unfold State.setByte; split <;> rfl
@[simp] theorem State.setByte_chans (s : State) (pa : Nat) (b : Byte) : (s.setByte pa b).chans = s.chans := by unfold State.setByte; split <;> rfl
@[simp] theorem State.setByte_copies (s : State) (pa : Nat) (b : Byte) : (s.setByte pa b).copies = s.copies := by unfold State.setByte; split <;> rfl
@[simp] theorem State.setByte_nodes (s : State) (pa : Nat) (b : Byte) : (s.setByte pa b).nodes = s.nodes := by unfold State.setByte; split <;> rfl
@[simp] theorem State.setByte_tiles (s : State) (pa : Nat) (b : Byte) : (s.setByte pa b).tiles = s.tiles := by unfold State.setByte; split <;> rfl
@[simp] theorem State.setByte_tilePoison (s : State) (pa : Nat) (b : Byte) : (s.setByte pa b).tilePoison = s.tilePoison := by unfold State.setByte; split <;> rfl
@[simp] theorem State.setByte_matq (s : State) (pa : Nat) (b : Byte) : (s.setByte pa b).matq = s.matq := by unfold State.setByte; split <;> rfl
@[simp] theorem State.setByte_wrr (s : State) (pa : Nat) (b : Byte) : (s.setByte pa b).wrr = s.wrr := by unfold State.setByte; split <;> rfl
@[simp] theorem State.setByte_watches (s : State) (pa : Nat) (b : Byte) : (s.setByte pa b).watches = s.watches := by unfold State.setByte; split <;> rfl
@[simp] theorem State.setByte_locks (s : State) (pa : Nat) (b : Byte) : (s.setByte pa b).locks = s.locks := by unfold State.setByte; split <;> rfl
@[simp] theorem State.setByte_homes (s : State) (pa : Nat) (b : Byte) : (s.setByte pa b).homes = s.homes := by unfold State.setByte; split <;> rfl
@[simp] theorem State.setByte_dirs (s : State) (pa : Nat) (b : Byte) : (s.setByte pa b).dirs = s.dirs := by unfold State.setByte; split <;> rfl
@[simp] theorem State.setByte_coh (s : State) (pa : Nat) (b : Byte) : (s.setByte pa b).coh = s.coh := by unfold State.setByte; split <;> rfl
@[simp] theorem State.setByte_l1 (s : State) (pa : Nat) (b : Byte) : (s.setByte pa b).l1 = s.l1 := by unfold State.setByte; split <;> rfl
@[simp] theorem State.setByte_hostPart (s : State) (pa : Nat) (b : Byte) : (s.setByte pa b).hostPart = s.hostPart := by unfold State.setByte; split <;> rfl
@[simp] theorem State.setByte_hostLines (s : State) (pa : Nat) (b : Byte) : (s.setByte pa b).hostLines = s.hostLines := by unfold State.setByte; split <;> rfl
@[simp] theorem State.setByte_hostInval (s : State) (pa : Nat) (b : Byte) : (s.setByte pa b).hostInval = s.hostInval := by unfold State.setByte; split <;> rfl
@[simp] theorem State.setByte_icache (s : State) (pa : Nat) (b : Byte) : (s.setByte pa b).icache = s.icache := by unfold State.setByte; split <;> rfl
@[simp] theorem State.setByte_rqs (s : State) (pa : Nat) (b : Byte) : (s.setByte pa b).rqs = s.rqs := by unfold State.setByte; split <;> rfl
@[simp] theorem State.setByte_launches (s : State) (pa : Nat) (b : Byte) : (s.setByte pa b).launches = s.launches := by unfold State.setByte; split <;> rfl
@[simp] theorem State.setByte_orphans (s : State) (pa : Nat) (b : Byte) : (s.setByte pa b).orphans = s.orphans := by unfold State.setByte; split <;> rfl
@[simp] theorem State.setByte_qmap (s : State) (pa : Nat) (b : Byte) : (s.setByte pa b).qmap = s.qmap := by unfold State.setByte; split <;> rfl
@[simp] theorem State.setByte_qpend (s : State) (pa : Nat) (b : Byte) : (s.setByte pa b).qpend = s.qpend := by unfold State.setByte; split <;> rfl
@[simp] theorem State.setByte_qlast (s : State) (pa : Nat) (b : Byte) : (s.setByte pa b).qlast = s.qlast := by unfold State.setByte; split <;> rfl
@[simp] theorem State.setByte_qserve (s : State) (pa : Nat) (b : Byte) : (s.setByte pa b).qserve = s.qserve := by unfold State.setByte; split <;> rfl
@[simp] theorem State.setByte_mbase (s : State) (pa : Nat) (b : Byte) : (s.setByte pa b).mbase = s.mbase := by unfold State.setByte; split <;> rfl
@[simp] theorem State.setByte_mb (s : State) (pa : Nat) (b : Byte) : (s.setByte pa b).mb = s.mb := by unfold State.setByte; split <;> rfl
@[simp] theorem State.setByte_tags (s : State) (pa : Nat) (b : Byte) : (s.setByte pa b).tags = s.tags := by unfold State.setByte; split <;> rfl
@[simp] theorem State.setByte_binds (s : State) (pa : Nat) (b : Byte) : (s.setByte pa b).binds = s.binds := by unfold State.setByte; split <;> rfl
@[simp] theorem State.setByte_hover (s : State) (pa : Nat) (b : Byte) : (s.setByte pa b).hover = s.hover := by unfold State.setByte; split <;> rfl
@[simp] theorem State.setByte_away (s : State) (pa : Nat) (b : Byte) : (s.setByte pa b).away = s.away := by unfold State.setByte; split <;> rfl
@[simp] theorem State.setByte_stops (s : State) (pa : Nat) (b : Byte) : (s.setByte pa b).stops = s.stops := by unfold State.setByte; split <;> rfl
@[simp] theorem State.setByte_nextStop (s : State) (pa : Nat) (b : Byte) : (s.setByte pa b).nextStop = s.nextStop := by unfold State.setByte; split <;> rfl
@[simp] theorem State.setByte_freed (s : State) (pa : Nat) (b : Byte) : (s.setByte pa b).freed = s.freed := by unfold State.setByte; split <;> rfl
@[simp] theorem State.setByte_traceHold (s : State) (pa : Nat) (b : Byte) : (s.setByte pa b).traceHold = s.traceHold := by unfold State.setByte; split <;> rfl
@[simp] theorem State.setByte_traceAt (s : State) (pa : Nat) (b : Byte) : (s.setByte pa b).traceAt = s.traceAt := by unfold State.setByte; split <;> rfl
@[simp] theorem State.setByte_counters (s : State) (pa : Nat) (b : Byte) : (s.setByte pa b).counters = s.counters := by unfold State.setByte; split <;> rfl
@[simp] theorem State.setByte_sserial (s : State) (pa : Nat) (b : Byte) : (s.setByte pa b).sserial = s.sserial := by unfold State.setByte; split <;> rfl
@[simp] theorem State.setByte_pulsed (s : State) (pa : Nat) (b : Byte) : (s.setByte pa b).pulsed = s.pulsed := by unfold State.setByte; split <;> rfl
@[simp] theorem State.setByte_issued (s : State) (pa : Nat) (b : Byte) : (s.setByte pa b).issued = s.issued := by unfold State.setByte; split <;> rfl
@[simp] theorem State.setByte_dbgen (s : State) (pa : Nat) (b : Byte) : (s.setByte pa b).dbgen = s.dbgen := by unfold State.setByte; split <;> rfl
@[simp] theorem State.setByte_bps (s : State) (pa : Nat) (b : Byte) : (s.setByte pa b).bps = s.bps := by unfold State.setByte; split <;> rfl
@[simp] theorem State.setByte_merged (s : State) (pa : Nat) (b : Byte) : (s.setByte pa b).merged = s.merged := by unfold State.setByte; split <;> rfl
@[simp] theorem State.setByte_ho (s : State) (pa : Nat) (b : Byte) : (s.setByte pa b).ho = s.ho := by unfold State.setByte; split <;> rfl
@[simp] theorem State.setByte_portsDown (s : State) (pa : Nat) (b : Byte) : (s.setByte pa b).portsDown = s.portsDown := by unfold State.setByte; split <;> rfl
@[simp] theorem State.setByte_throttle (s : State) (pa : Nat) (b : Byte) : (s.setByte pa b).throttle = s.throttle := by unfold State.setByte; split <;> rfl
@[simp] theorem State.setByte_moves (s : State) (pa : Nat) (b : Byte) : (s.setByte pa b).moves = s.moves := by unfold State.setByte; split <;> rfl
@[simp] theorem State.setByte_notices (s : State) (pa : Nat) (b : Byte) : (s.setByte pa b).notices = s.notices := by unfold State.setByte; split <;> rfl
@[simp] theorem State.setByte_migs (s : State) (pa : Nat) (b : Byte) : (s.setByte pa b).migs = s.migs := by unfold State.setByte; split <;> rfl
@[simp] theorem State.setByte_remaps (s : State) (pa : Nat) (b : Byte) : (s.setByte pa b).remaps = s.remaps := by unfold State.setByte; split <;> rfl
@[simp] theorem State.setByte_outbox (s : State) (pa : Nat) (b : Byte) : (s.setByte pa b).outbox = s.outbox := by unfold State.setByte; split <;> rfl
@[simp] theorem State.setByte_pairs (s : State) (pa : Nat) (b : Byte) : (s.setByte pa b).pairs = s.pairs := by unfold State.setByte; split <;> rfl
@[simp] theorem State.setByte_traced (s : State) (pa : Nat) (b : Byte) : (s.setByte pa b).traced = s.traced := by unfold State.setByte; split <;> rfl
@[simp] theorem State.setByte_idling (s : State) (pa : Nat) (b : Byte) : (s.setByte pa b).idling = s.idling := by unfold State.setByte; split <;> rfl
@[simp] theorem State.setByte_sampling (s : State) (pa : Nat) (b : Byte) : (s.setByte pa b).sampling = s.sampling := by unfold State.setByte; split <;> rfl
@[simp] theorem State.setByte_flrs (s : State) (pa : Nat) (b : Byte) : (s.setByte pa b).flrs = s.flrs := by unfold State.setByte; split <;> rfl

/-! `setPoison` changes poison alone. -/

@[simp] theorem State.setPoison_fs (s : State) (d : Nat) (p : Bool) : (s.setPoison d p).fs = s.fs := rfl
@[simp] theorem State.setPoison_unit (s : State) (d : Nat) (p : Bool) : (s.setPoison d p).unit = s.unit := rfl
@[simp] theorem State.setPoison_agenda (s : State) (d : Nat) (p : Bool) : (s.setPoison d p).agenda = s.agenda := rfl
@[simp] theorem State.setPoison_turn (s : State) (d : Nat) (p : Bool) : (s.setPoison d p).turn = s.turn := rfl
@[simp] theorem State.setPoison_prefer (s : State) (d : Nat) (p : Bool) : (s.setPoison d p).prefer = s.prefer := rfl
@[simp] theorem State.setPoison_fresh (s : State) (d : Nat) (p : Bool) : (s.setPoison d p).fresh = s.fresh := rfl
@[simp] theorem State.setPoison_cycle (s : State) (d : Nat) (p : Bool) : (s.setPoison d p).cycle = s.cycle := rfl
@[simp] theorem State.setPoison_mem (s : State) (d : Nat) (p : Bool) : (s.setPoison d p).mem = s.mem := rfl
@[simp] theorem State.setPoison_peer (s : State) (d : Nat) (p : Bool) : (s.setPoison d p).peer = s.peer := rfl
@[simp] theorem State.setPoison_rf (s : State) (d : Nat) (p : Bool) : (s.setPoison d p).rf = s.rf := rfl
@[simp] theorem State.setPoison_gregs (s : State) (d : Nat) (p : Bool) : (s.setPoison d p).gregs = s.gregs := rfl
@[simp] theorem State.setPoison_gregHist (s : State) (d : Nat) (p : Bool) : (s.setPoison d p).gregHist = s.gregHist := rfl
@[simp] theorem State.setPoison_threads (s : State) (d : Nat) (p : Bool) : (s.setPoison d p).threads = s.threads := rfl
@[simp] theorem State.setPoison_globals (s : State) (d : Nat) (p : Bool) : (s.setPoison d p).globals = s.globals := rfl
@[simp] theorem State.setPoison_parts (s : State) (d : Nat) (p : Bool) : (s.setPoison d p).parts = s.parts := rfl
@[simp] theorem State.setPoison_vfs (s : State) (d : Nat) (p : Bool) : (s.setPoison d p).vfs = s.vfs := rfl
@[simp] theorem State.setPoison_hctx (s : State) (d : Nat) (p : Bool) : (s.setPoison d p).hctx = s.hctx := rfl
@[simp] theorem State.setPoison_hring (s : State) (d : Nat) (p : Bool) : (s.setPoison d p).hring = s.hring := rfl
@[simp] theorem State.setPoison_hslot (s : State) (d : Nat) (p : Bool) : (s.setPoison d p).hslot = s.hslot := rfl
@[simp] theorem State.setPoison_hserial (s : State) (d : Nat) (p : Bool) : (s.setPoison d p).hserial = s.hserial := rfl
@[simp] theorem State.setPoison_ctb (s : State) (d : Nat) (p : Bool) : (s.setPoison d p).ctb = s.ctb := rfl
@[simp] theorem State.setPoison_pkgSeq (s : State) (d : Nat) (p : Bool) : (s.setPoison d p).pkgSeq = s.pkgSeq := rfl
@[simp] theorem State.setPoison_sigs (s : State) (d : Nat) (p : Bool) : (s.setPoison d p).sigs = s.sigs := rfl
@[simp] theorem State.setPoison_remotes (s : State) (d : Nat) (p : Bool) : (s.setPoison d p).remotes = s.remotes := rfl
@[simp] theorem State.setPoison_edges (s : State) (d : Nat) (p : Bool) : (s.setPoison d p).edges = s.edges := rfl
@[simp] theorem State.setPoison_msgs (s : State) (d : Nat) (p : Bool) : (s.setPoison d p).msgs = s.msgs := rfl
@[simp] theorem State.setPoison_chans (s : State) (d : Nat) (p : Bool) : (s.setPoison d p).chans = s.chans := rfl
@[simp] theorem State.setPoison_copies (s : State) (d : Nat) (p : Bool) : (s.setPoison d p).copies = s.copies := rfl
@[simp] theorem State.setPoison_nodes (s : State) (d : Nat) (p : Bool) : (s.setPoison d p).nodes = s.nodes := rfl
@[simp] theorem State.setPoison_tiles (s : State) (d : Nat) (p : Bool) : (s.setPoison d p).tiles = s.tiles := rfl
@[simp] theorem State.setPoison_tilePoison (s : State) (d : Nat) (p : Bool) : (s.setPoison d p).tilePoison = s.tilePoison := rfl
@[simp] theorem State.setPoison_matq (s : State) (d : Nat) (p : Bool) : (s.setPoison d p).matq = s.matq := rfl
@[simp] theorem State.setPoison_wrr (s : State) (d : Nat) (p : Bool) : (s.setPoison d p).wrr = s.wrr := rfl
@[simp] theorem State.setPoison_watches (s : State) (d : Nat) (p : Bool) : (s.setPoison d p).watches = s.watches := rfl
@[simp] theorem State.setPoison_locks (s : State) (d : Nat) (p : Bool) : (s.setPoison d p).locks = s.locks := rfl
@[simp] theorem State.setPoison_homes (s : State) (d : Nat) (p : Bool) : (s.setPoison d p).homes = s.homes := rfl
@[simp] theorem State.setPoison_dirs (s : State) (d : Nat) (p : Bool) : (s.setPoison d p).dirs = s.dirs := rfl
@[simp] theorem State.setPoison_coh (s : State) (d : Nat) (p : Bool) : (s.setPoison d p).coh = s.coh := rfl
@[simp] theorem State.setPoison_l1 (s : State) (d : Nat) (p : Bool) : (s.setPoison d p).l1 = s.l1 := rfl
@[simp] theorem State.setPoison_hostPart (s : State) (d : Nat) (p : Bool) : (s.setPoison d p).hostPart = s.hostPart := rfl
@[simp] theorem State.setPoison_hostLines (s : State) (d : Nat) (p : Bool) : (s.setPoison d p).hostLines = s.hostLines := rfl
@[simp] theorem State.setPoison_hostInval (s : State) (d : Nat) (p : Bool) : (s.setPoison d p).hostInval = s.hostInval := rfl
@[simp] theorem State.setPoison_icache (s : State) (d : Nat) (p : Bool) : (s.setPoison d p).icache = s.icache := rfl
@[simp] theorem State.setPoison_rqs (s : State) (d : Nat) (p : Bool) : (s.setPoison d p).rqs = s.rqs := rfl
@[simp] theorem State.setPoison_launches (s : State) (d : Nat) (p : Bool) : (s.setPoison d p).launches = s.launches := rfl
@[simp] theorem State.setPoison_orphans (s : State) (d : Nat) (p : Bool) : (s.setPoison d p).orphans = s.orphans := rfl
@[simp] theorem State.setPoison_qmap (s : State) (d : Nat) (p : Bool) : (s.setPoison d p).qmap = s.qmap := rfl
@[simp] theorem State.setPoison_qpend (s : State) (d : Nat) (p : Bool) : (s.setPoison d p).qpend = s.qpend := rfl
@[simp] theorem State.setPoison_qlast (s : State) (d : Nat) (p : Bool) : (s.setPoison d p).qlast = s.qlast := rfl
@[simp] theorem State.setPoison_qserve (s : State) (d : Nat) (p : Bool) : (s.setPoison d p).qserve = s.qserve := rfl
@[simp] theorem State.setPoison_mbase (s : State) (d : Nat) (p : Bool) : (s.setPoison d p).mbase = s.mbase := rfl
@[simp] theorem State.setPoison_mb (s : State) (d : Nat) (p : Bool) : (s.setPoison d p).mb = s.mb := rfl
@[simp] theorem State.setPoison_tags (s : State) (d : Nat) (p : Bool) : (s.setPoison d p).tags = s.tags := rfl
@[simp] theorem State.setPoison_binds (s : State) (d : Nat) (p : Bool) : (s.setPoison d p).binds = s.binds := rfl
@[simp] theorem State.setPoison_hover (s : State) (d : Nat) (p : Bool) : (s.setPoison d p).hover = s.hover := rfl
@[simp] theorem State.setPoison_away (s : State) (d : Nat) (p : Bool) : (s.setPoison d p).away = s.away := rfl
@[simp] theorem State.setPoison_stops (s : State) (d : Nat) (p : Bool) : (s.setPoison d p).stops = s.stops := rfl
@[simp] theorem State.setPoison_nextStop (s : State) (d : Nat) (p : Bool) : (s.setPoison d p).nextStop = s.nextStop := rfl
@[simp] theorem State.setPoison_freed (s : State) (d : Nat) (p : Bool) : (s.setPoison d p).freed = s.freed := rfl
@[simp] theorem State.setPoison_traceHold (s : State) (d : Nat) (p : Bool) : (s.setPoison d p).traceHold = s.traceHold := rfl
@[simp] theorem State.setPoison_traceAt (s : State) (d : Nat) (p : Bool) : (s.setPoison d p).traceAt = s.traceAt := rfl
@[simp] theorem State.setPoison_counters (s : State) (d : Nat) (p : Bool) : (s.setPoison d p).counters = s.counters := rfl
@[simp] theorem State.setPoison_sserial (s : State) (d : Nat) (p : Bool) : (s.setPoison d p).sserial = s.sserial := rfl
@[simp] theorem State.setPoison_pulsed (s : State) (d : Nat) (p : Bool) : (s.setPoison d p).pulsed = s.pulsed := rfl
@[simp] theorem State.setPoison_issued (s : State) (d : Nat) (p : Bool) : (s.setPoison d p).issued = s.issued := rfl
@[simp] theorem State.setPoison_dbgen (s : State) (d : Nat) (p : Bool) : (s.setPoison d p).dbgen = s.dbgen := rfl
@[simp] theorem State.setPoison_bps (s : State) (d : Nat) (p : Bool) : (s.setPoison d p).bps = s.bps := rfl
@[simp] theorem State.setPoison_merged (s : State) (d : Nat) (p : Bool) : (s.setPoison d p).merged = s.merged := rfl
@[simp] theorem State.setPoison_ho (s : State) (d : Nat) (p : Bool) : (s.setPoison d p).ho = s.ho := rfl
@[simp] theorem State.setPoison_portsDown (s : State) (d : Nat) (p : Bool) : (s.setPoison d p).portsDown = s.portsDown := rfl
@[simp] theorem State.setPoison_throttle (s : State) (d : Nat) (p : Bool) : (s.setPoison d p).throttle = s.throttle := rfl
@[simp] theorem State.setPoison_moves (s : State) (d : Nat) (p : Bool) : (s.setPoison d p).moves = s.moves := rfl
@[simp] theorem State.setPoison_notices (s : State) (d : Nat) (p : Bool) : (s.setPoison d p).notices = s.notices := rfl
@[simp] theorem State.setPoison_migs (s : State) (d : Nat) (p : Bool) : (s.setPoison d p).migs = s.migs := rfl
@[simp] theorem State.setPoison_remaps (s : State) (d : Nat) (p : Bool) : (s.setPoison d p).remaps = s.remaps := rfl
@[simp] theorem State.setPoison_outbox (s : State) (d : Nat) (p : Bool) : (s.setPoison d p).outbox = s.outbox := rfl
@[simp] theorem State.setPoison_pairs (s : State) (d : Nat) (p : Bool) : (s.setPoison d p).pairs = s.pairs := rfl
@[simp] theorem State.setPoison_traced (s : State) (d : Nat) (p : Bool) : (s.setPoison d p).traced = s.traced := rfl
@[simp] theorem State.setPoison_idling (s : State) (d : Nat) (p : Bool) : (s.setPoison d p).idling = s.idling := rfl
@[simp] theorem State.setPoison_sampling (s : State) (d : Nat) (p : Bool) : (s.setPoison d p).sampling = s.sampling := rfl
@[simp] theorem State.setPoison_flrs (s : State) (d : Nat) (p : Bool) : (s.setPoison d p).flrs = s.flrs := rfl

/-! `ring` changes agenda alone. -/

@[simp] theorem State.ring_fs (s : State) (a : Act) : (s.ring a).fs = s.fs := rfl
@[simp] theorem State.ring_unit (s : State) (a : Act) : (s.ring a).unit = s.unit := rfl
@[simp] theorem State.ring_turn (s : State) (a : Act) : (s.ring a).turn = s.turn := rfl
@[simp] theorem State.ring_prefer (s : State) (a : Act) : (s.ring a).prefer = s.prefer := rfl
@[simp] theorem State.ring_fresh (s : State) (a : Act) : (s.ring a).fresh = s.fresh := rfl
@[simp] theorem State.ring_cycle (s : State) (a : Act) : (s.ring a).cycle = s.cycle := rfl
@[simp] theorem State.ring_mem (s : State) (a : Act) : (s.ring a).mem = s.mem := rfl
@[simp] theorem State.ring_poison (s : State) (a : Act) : (s.ring a).poison = s.poison := rfl
@[simp] theorem State.ring_peer (s : State) (a : Act) : (s.ring a).peer = s.peer := rfl
@[simp] theorem State.ring_rf (s : State) (a : Act) : (s.ring a).rf = s.rf := rfl
@[simp] theorem State.ring_gregs (s : State) (a : Act) : (s.ring a).gregs = s.gregs := rfl
@[simp] theorem State.ring_gregHist (s : State) (a : Act) : (s.ring a).gregHist = s.gregHist := rfl
@[simp] theorem State.ring_threads (s : State) (a : Act) : (s.ring a).threads = s.threads := rfl
@[simp] theorem State.ring_globals (s : State) (a : Act) : (s.ring a).globals = s.globals := rfl
@[simp] theorem State.ring_parts (s : State) (a : Act) : (s.ring a).parts = s.parts := rfl
@[simp] theorem State.ring_vfs (s : State) (a : Act) : (s.ring a).vfs = s.vfs := rfl
@[simp] theorem State.ring_hctx (s : State) (a : Act) : (s.ring a).hctx = s.hctx := rfl
@[simp] theorem State.ring_hring (s : State) (a : Act) : (s.ring a).hring = s.hring := rfl
@[simp] theorem State.ring_hslot (s : State) (a : Act) : (s.ring a).hslot = s.hslot := rfl
@[simp] theorem State.ring_hserial (s : State) (a : Act) : (s.ring a).hserial = s.hserial := rfl
@[simp] theorem State.ring_ctb (s : State) (a : Act) : (s.ring a).ctb = s.ctb := rfl
@[simp] theorem State.ring_pkgSeq (s : State) (a : Act) : (s.ring a).pkgSeq = s.pkgSeq := rfl
@[simp] theorem State.ring_sigs (s : State) (a : Act) : (s.ring a).sigs = s.sigs := rfl
@[simp] theorem State.ring_remotes (s : State) (a : Act) : (s.ring a).remotes = s.remotes := rfl
@[simp] theorem State.ring_edges (s : State) (a : Act) : (s.ring a).edges = s.edges := rfl
@[simp] theorem State.ring_msgs (s : State) (a : Act) : (s.ring a).msgs = s.msgs := rfl
@[simp] theorem State.ring_chans (s : State) (a : Act) : (s.ring a).chans = s.chans := rfl
@[simp] theorem State.ring_copies (s : State) (a : Act) : (s.ring a).copies = s.copies := rfl
@[simp] theorem State.ring_nodes (s : State) (a : Act) : (s.ring a).nodes = s.nodes := rfl
@[simp] theorem State.ring_tiles (s : State) (a : Act) : (s.ring a).tiles = s.tiles := rfl
@[simp] theorem State.ring_tilePoison (s : State) (a : Act) : (s.ring a).tilePoison = s.tilePoison := rfl
@[simp] theorem State.ring_matq (s : State) (a : Act) : (s.ring a).matq = s.matq := rfl
@[simp] theorem State.ring_wrr (s : State) (a : Act) : (s.ring a).wrr = s.wrr := rfl
@[simp] theorem State.ring_watches (s : State) (a : Act) : (s.ring a).watches = s.watches := rfl
@[simp] theorem State.ring_locks (s : State) (a : Act) : (s.ring a).locks = s.locks := rfl
@[simp] theorem State.ring_homes (s : State) (a : Act) : (s.ring a).homes = s.homes := rfl
@[simp] theorem State.ring_dirs (s : State) (a : Act) : (s.ring a).dirs = s.dirs := rfl
@[simp] theorem State.ring_coh (s : State) (a : Act) : (s.ring a).coh = s.coh := rfl
@[simp] theorem State.ring_l1 (s : State) (a : Act) : (s.ring a).l1 = s.l1 := rfl
@[simp] theorem State.ring_hostPart (s : State) (a : Act) : (s.ring a).hostPart = s.hostPart := rfl
@[simp] theorem State.ring_hostLines (s : State) (a : Act) : (s.ring a).hostLines = s.hostLines := rfl
@[simp] theorem State.ring_hostInval (s : State) (a : Act) : (s.ring a).hostInval = s.hostInval := rfl
@[simp] theorem State.ring_icache (s : State) (a : Act) : (s.ring a).icache = s.icache := rfl
@[simp] theorem State.ring_rqs (s : State) (a : Act) : (s.ring a).rqs = s.rqs := rfl
@[simp] theorem State.ring_launches (s : State) (a : Act) : (s.ring a).launches = s.launches := rfl
@[simp] theorem State.ring_orphans (s : State) (a : Act) : (s.ring a).orphans = s.orphans := rfl
@[simp] theorem State.ring_qmap (s : State) (a : Act) : (s.ring a).qmap = s.qmap := rfl
@[simp] theorem State.ring_qpend (s : State) (a : Act) : (s.ring a).qpend = s.qpend := rfl
@[simp] theorem State.ring_qlast (s : State) (a : Act) : (s.ring a).qlast = s.qlast := rfl
@[simp] theorem State.ring_qserve (s : State) (a : Act) : (s.ring a).qserve = s.qserve := rfl
@[simp] theorem State.ring_mbase (s : State) (a : Act) : (s.ring a).mbase = s.mbase := rfl
@[simp] theorem State.ring_mb (s : State) (a : Act) : (s.ring a).mb = s.mb := rfl
@[simp] theorem State.ring_tags (s : State) (a : Act) : (s.ring a).tags = s.tags := rfl
@[simp] theorem State.ring_binds (s : State) (a : Act) : (s.ring a).binds = s.binds := rfl
@[simp] theorem State.ring_hover (s : State) (a : Act) : (s.ring a).hover = s.hover := rfl
@[simp] theorem State.ring_away (s : State) (a : Act) : (s.ring a).away = s.away := rfl
@[simp] theorem State.ring_stops (s : State) (a : Act) : (s.ring a).stops = s.stops := rfl
@[simp] theorem State.ring_nextStop (s : State) (a : Act) : (s.ring a).nextStop = s.nextStop := rfl
@[simp] theorem State.ring_freed (s : State) (a : Act) : (s.ring a).freed = s.freed := rfl
@[simp] theorem State.ring_traceHold (s : State) (a : Act) : (s.ring a).traceHold = s.traceHold := rfl
@[simp] theorem State.ring_traceAt (s : State) (a : Act) : (s.ring a).traceAt = s.traceAt := rfl
@[simp] theorem State.ring_counters (s : State) (a : Act) : (s.ring a).counters = s.counters := rfl
@[simp] theorem State.ring_sserial (s : State) (a : Act) : (s.ring a).sserial = s.sserial := rfl
@[simp] theorem State.ring_pulsed (s : State) (a : Act) : (s.ring a).pulsed = s.pulsed := rfl
@[simp] theorem State.ring_issued (s : State) (a : Act) : (s.ring a).issued = s.issued := rfl
@[simp] theorem State.ring_dbgen (s : State) (a : Act) : (s.ring a).dbgen = s.dbgen := rfl
@[simp] theorem State.ring_bps (s : State) (a : Act) : (s.ring a).bps = s.bps := rfl
@[simp] theorem State.ring_merged (s : State) (a : Act) : (s.ring a).merged = s.merged := rfl
@[simp] theorem State.ring_ho (s : State) (a : Act) : (s.ring a).ho = s.ho := rfl
@[simp] theorem State.ring_portsDown (s : State) (a : Act) : (s.ring a).portsDown = s.portsDown := rfl
@[simp] theorem State.ring_throttle (s : State) (a : Act) : (s.ring a).throttle = s.throttle := rfl
@[simp] theorem State.ring_moves (s : State) (a : Act) : (s.ring a).moves = s.moves := rfl
@[simp] theorem State.ring_notices (s : State) (a : Act) : (s.ring a).notices = s.notices := rfl
@[simp] theorem State.ring_migs (s : State) (a : Act) : (s.ring a).migs = s.migs := rfl
@[simp] theorem State.ring_remaps (s : State) (a : Act) : (s.ring a).remaps = s.remaps := rfl
@[simp] theorem State.ring_outbox (s : State) (a : Act) : (s.ring a).outbox = s.outbox := rfl
@[simp] theorem State.ring_pairs (s : State) (a : Act) : (s.ring a).pairs = s.pairs := rfl
@[simp] theorem State.ring_traced (s : State) (a : Act) : (s.ring a).traced = s.traced := rfl
@[simp] theorem State.ring_idling (s : State) (a : Act) : (s.ring a).idling = s.idling := rfl
@[simp] theorem State.ring_sampling (s : State) (a : Act) : (s.ring a).sampling = s.sampling := rfl
@[simp] theorem State.ring_flrs (s : State) (a : Act) : (s.ring a).flrs = s.flrs := rfl

/-! `count` changes counters alone. -/

@[simp] theorem State.count_fs (s : State) (gs ev n : Nat) : (s.count gs ev n).fs = s.fs := rfl
@[simp] theorem State.count_unit (s : State) (gs ev n : Nat) : (s.count gs ev n).unit = s.unit := rfl
@[simp] theorem State.count_agenda (s : State) (gs ev n : Nat) : (s.count gs ev n).agenda = s.agenda := rfl
@[simp] theorem State.count_turn (s : State) (gs ev n : Nat) : (s.count gs ev n).turn = s.turn := rfl
@[simp] theorem State.count_prefer (s : State) (gs ev n : Nat) : (s.count gs ev n).prefer = s.prefer := rfl
@[simp] theorem State.count_fresh (s : State) (gs ev n : Nat) : (s.count gs ev n).fresh = s.fresh := rfl
@[simp] theorem State.count_cycle (s : State) (gs ev n : Nat) : (s.count gs ev n).cycle = s.cycle := rfl
@[simp] theorem State.count_mem (s : State) (gs ev n : Nat) : (s.count gs ev n).mem = s.mem := rfl
@[simp] theorem State.count_poison (s : State) (gs ev n : Nat) : (s.count gs ev n).poison = s.poison := rfl
@[simp] theorem State.count_peer (s : State) (gs ev n : Nat) : (s.count gs ev n).peer = s.peer := rfl
@[simp] theorem State.count_rf (s : State) (gs ev n : Nat) : (s.count gs ev n).rf = s.rf := rfl
@[simp] theorem State.count_gregs (s : State) (gs ev n : Nat) : (s.count gs ev n).gregs = s.gregs := rfl
@[simp] theorem State.count_gregHist (s : State) (gs ev n : Nat) : (s.count gs ev n).gregHist = s.gregHist := rfl
@[simp] theorem State.count_threads (s : State) (gs ev n : Nat) : (s.count gs ev n).threads = s.threads := rfl
@[simp] theorem State.count_globals (s : State) (gs ev n : Nat) : (s.count gs ev n).globals = s.globals := rfl
@[simp] theorem State.count_parts (s : State) (gs ev n : Nat) : (s.count gs ev n).parts = s.parts := rfl
@[simp] theorem State.count_vfs (s : State) (gs ev n : Nat) : (s.count gs ev n).vfs = s.vfs := rfl
@[simp] theorem State.count_hctx (s : State) (gs ev n : Nat) : (s.count gs ev n).hctx = s.hctx := rfl
@[simp] theorem State.count_hring (s : State) (gs ev n : Nat) : (s.count gs ev n).hring = s.hring := rfl
@[simp] theorem State.count_hslot (s : State) (gs ev n : Nat) : (s.count gs ev n).hslot = s.hslot := rfl
@[simp] theorem State.count_hserial (s : State) (gs ev n : Nat) : (s.count gs ev n).hserial = s.hserial := rfl
@[simp] theorem State.count_ctb (s : State) (gs ev n : Nat) : (s.count gs ev n).ctb = s.ctb := rfl
@[simp] theorem State.count_pkgSeq (s : State) (gs ev n : Nat) : (s.count gs ev n).pkgSeq = s.pkgSeq := rfl
@[simp] theorem State.count_sigs (s : State) (gs ev n : Nat) : (s.count gs ev n).sigs = s.sigs := rfl
@[simp] theorem State.count_remotes (s : State) (gs ev n : Nat) : (s.count gs ev n).remotes = s.remotes := rfl
@[simp] theorem State.count_edges (s : State) (gs ev n : Nat) : (s.count gs ev n).edges = s.edges := rfl
@[simp] theorem State.count_msgs (s : State) (gs ev n : Nat) : (s.count gs ev n).msgs = s.msgs := rfl
@[simp] theorem State.count_chans (s : State) (gs ev n : Nat) : (s.count gs ev n).chans = s.chans := rfl
@[simp] theorem State.count_copies (s : State) (gs ev n : Nat) : (s.count gs ev n).copies = s.copies := rfl
@[simp] theorem State.count_nodes (s : State) (gs ev n : Nat) : (s.count gs ev n).nodes = s.nodes := rfl
@[simp] theorem State.count_tiles (s : State) (gs ev n : Nat) : (s.count gs ev n).tiles = s.tiles := rfl
@[simp] theorem State.count_tilePoison (s : State) (gs ev n : Nat) : (s.count gs ev n).tilePoison = s.tilePoison := rfl
@[simp] theorem State.count_matq (s : State) (gs ev n : Nat) : (s.count gs ev n).matq = s.matq := rfl
@[simp] theorem State.count_wrr (s : State) (gs ev n : Nat) : (s.count gs ev n).wrr = s.wrr := rfl
@[simp] theorem State.count_watches (s : State) (gs ev n : Nat) : (s.count gs ev n).watches = s.watches := rfl
@[simp] theorem State.count_locks (s : State) (gs ev n : Nat) : (s.count gs ev n).locks = s.locks := rfl
@[simp] theorem State.count_homes (s : State) (gs ev n : Nat) : (s.count gs ev n).homes = s.homes := rfl
@[simp] theorem State.count_dirs (s : State) (gs ev n : Nat) : (s.count gs ev n).dirs = s.dirs := rfl
@[simp] theorem State.count_coh (s : State) (gs ev n : Nat) : (s.count gs ev n).coh = s.coh := rfl
@[simp] theorem State.count_l1 (s : State) (gs ev n : Nat) : (s.count gs ev n).l1 = s.l1 := rfl
@[simp] theorem State.count_hostPart (s : State) (gs ev n : Nat) : (s.count gs ev n).hostPart = s.hostPart := rfl
@[simp] theorem State.count_hostLines (s : State) (gs ev n : Nat) : (s.count gs ev n).hostLines = s.hostLines := rfl
@[simp] theorem State.count_hostInval (s : State) (gs ev n : Nat) : (s.count gs ev n).hostInval = s.hostInval := rfl
@[simp] theorem State.count_icache (s : State) (gs ev n : Nat) : (s.count gs ev n).icache = s.icache := rfl
@[simp] theorem State.count_rqs (s : State) (gs ev n : Nat) : (s.count gs ev n).rqs = s.rqs := rfl
@[simp] theorem State.count_launches (s : State) (gs ev n : Nat) : (s.count gs ev n).launches = s.launches := rfl
@[simp] theorem State.count_orphans (s : State) (gs ev n : Nat) : (s.count gs ev n).orphans = s.orphans := rfl
@[simp] theorem State.count_qmap (s : State) (gs ev n : Nat) : (s.count gs ev n).qmap = s.qmap := rfl
@[simp] theorem State.count_qpend (s : State) (gs ev n : Nat) : (s.count gs ev n).qpend = s.qpend := rfl
@[simp] theorem State.count_qlast (s : State) (gs ev n : Nat) : (s.count gs ev n).qlast = s.qlast := rfl
@[simp] theorem State.count_qserve (s : State) (gs ev n : Nat) : (s.count gs ev n).qserve = s.qserve := rfl
@[simp] theorem State.count_mbase (s : State) (gs ev n : Nat) : (s.count gs ev n).mbase = s.mbase := rfl
@[simp] theorem State.count_mb (s : State) (gs ev n : Nat) : (s.count gs ev n).mb = s.mb := rfl
@[simp] theorem State.count_tags (s : State) (gs ev n : Nat) : (s.count gs ev n).tags = s.tags := rfl
@[simp] theorem State.count_binds (s : State) (gs ev n : Nat) : (s.count gs ev n).binds = s.binds := rfl
@[simp] theorem State.count_hover (s : State) (gs ev n : Nat) : (s.count gs ev n).hover = s.hover := rfl
@[simp] theorem State.count_away (s : State) (gs ev n : Nat) : (s.count gs ev n).away = s.away := rfl
@[simp] theorem State.count_stops (s : State) (gs ev n : Nat) : (s.count gs ev n).stops = s.stops := rfl
@[simp] theorem State.count_nextStop (s : State) (gs ev n : Nat) : (s.count gs ev n).nextStop = s.nextStop := rfl
@[simp] theorem State.count_freed (s : State) (gs ev n : Nat) : (s.count gs ev n).freed = s.freed := rfl
@[simp] theorem State.count_traceHold (s : State) (gs ev n : Nat) : (s.count gs ev n).traceHold = s.traceHold := rfl
@[simp] theorem State.count_traceAt (s : State) (gs ev n : Nat) : (s.count gs ev n).traceAt = s.traceAt := rfl
@[simp] theorem State.count_sserial (s : State) (gs ev n : Nat) : (s.count gs ev n).sserial = s.sserial := rfl
@[simp] theorem State.count_pulsed (s : State) (gs ev n : Nat) : (s.count gs ev n).pulsed = s.pulsed := rfl
@[simp] theorem State.count_issued (s : State) (gs ev n : Nat) : (s.count gs ev n).issued = s.issued := rfl
@[simp] theorem State.count_dbgen (s : State) (gs ev n : Nat) : (s.count gs ev n).dbgen = s.dbgen := rfl
@[simp] theorem State.count_bps (s : State) (gs ev n : Nat) : (s.count gs ev n).bps = s.bps := rfl
@[simp] theorem State.count_merged (s : State) (gs ev n : Nat) : (s.count gs ev n).merged = s.merged := rfl
@[simp] theorem State.count_ho (s : State) (gs ev n : Nat) : (s.count gs ev n).ho = s.ho := rfl
@[simp] theorem State.count_portsDown (s : State) (gs ev n : Nat) : (s.count gs ev n).portsDown = s.portsDown := rfl
@[simp] theorem State.count_throttle (s : State) (gs ev n : Nat) : (s.count gs ev n).throttle = s.throttle := rfl
@[simp] theorem State.count_moves (s : State) (gs ev n : Nat) : (s.count gs ev n).moves = s.moves := rfl
@[simp] theorem State.count_notices (s : State) (gs ev n : Nat) : (s.count gs ev n).notices = s.notices := rfl
@[simp] theorem State.count_migs (s : State) (gs ev n : Nat) : (s.count gs ev n).migs = s.migs := rfl
@[simp] theorem State.count_remaps (s : State) (gs ev n : Nat) : (s.count gs ev n).remaps = s.remaps := rfl
@[simp] theorem State.count_outbox (s : State) (gs ev n : Nat) : (s.count gs ev n).outbox = s.outbox := rfl
@[simp] theorem State.count_pairs (s : State) (gs ev n : Nat) : (s.count gs ev n).pairs = s.pairs := rfl
@[simp] theorem State.count_traced (s : State) (gs ev n : Nat) : (s.count gs ev n).traced = s.traced := rfl
@[simp] theorem State.count_idling (s : State) (gs ev n : Nat) : (s.count gs ev n).idling = s.idling := rfl
@[simp] theorem State.count_sampling (s : State) (gs ev n : Nat) : (s.count gs ev n).sampling = s.sampling := rfl
@[simp] theorem State.count_flrs (s : State) (gs ev n : Nat) : (s.count gs ev n).flrs = s.flrs := rfl

/-! Reading what was written. -/

theorem State.thread_setThread_self (s : State) (gs : Nat) (t : Thread) : (s.setThread gs t).thread gs = t := by
  simp [State.thread, State.setThread, mgetD, mget_mput_self]

theorem State.thread_setThread_ne (s : State) {gs h : Nat} (t : Thread) (ne : h ≠ gs) :
    (s.setThread gs t).thread h = s.thread h := by
  simp [State.thread, State.setThread, mgetD, mget_mput_ne _ _ ne]

@[simp] theorem State.th_setTh (s : State) (t : Thread) : (s.setTh t).th = t := State.thread_setThread_self s s.fs t

@[simp] theorem State.th_setArch (s : State) (a : Arch) : (s.setArch a).th = { s.th with a := a } := State.th_setTh ..

@[simp] theorem State.arch_setArch (s : State) (a : Arch) : (s.setArch a).arch = a := by simp [State.arch]

theorem State.thread_congr {s t : State} (h : t.threads = s.threads) (gs : Nat) : t.thread gs = s.thread gs := by
  simp [State.thread, h]

theorem State.th_congr {s t : State} (h : t.threads = s.threads) (f : t.fs = s.fs) : t.th = s.th := by
  simp [State.th, f, State.thread_congr h]

@[simp] theorem State.thread_setXOf (s : State) (gs f : Nat) (v : Word) (h : Nat) : (s.setXOf gs f v).thread h = s.thread h :=
  State.thread_congr (by simp) h

@[simp] theorem State.th_setX (s : State) (f : Nat) (v : Word) : (s.setX f v).th = s.th := State.th_congr (by simp) (by simp)

@[simp] theorem State.arch_setX (s : State) (f : Nat) (v : Word) : (s.setX f v).arch = s.arch := by simp [State.arch]

/-! Registers (R12, R14). -/

@[simp] theorem State.getX_zero (s : State) : s.getX 0 = 0 := by simp [State.getX, State.getXOf]

theorem State.getX_setX_self (s : State) {f : Nat} (v : Word) (h : f ≠ 0) : (s.setX f v).getX f = v := by
  simp only [State.getX, State.getXOf, State.setX, State.thread_setXOf]
  simp [State.setXOf, h, mgetD, mget_mput_self]

theorem State.getX_setX_ne (s : State) {f g : Nat} (v : Word) (h : g ≠ f) : (s.setX f v).getX g = s.getX g := by
  simp only [State.getX, State.getXOf, State.setX, State.thread_setXOf]
  by_cases h0 : f = 0
  · simp [State.setXOf, h0]
  · simp only [State.setXOf, h0, if_false]
    split
    · rfl
    · rw [mgetD, mgetD, mget_mput_ne _ _ (by simp only [State.rfIndex]; omega)]

theorem State.setX_zero (s : State) (v : Word) : s.setX 0 v = s := by simp [State.setX, State.setXOf]

@[simp] theorem State.getXOf_congr_setTh (s : State) (t : Thread) (f : Nat) (h : t.winBase = s.th.winBase) :
    (s.setTh t).getX f = s.getX f := by
  simp only [State.getX, State.getXOf, State.setTh_fs, State.setTh_rf]
  have : ((s.setTh t).thread s.fs).winBase = (s.thread s.fs).winBase := by
    rw [State.setTh, State.thread_setThread_self]; exact h
  rw [this]

/-! Memory: a byte written reads back, every other byte stays, and the canonical form is kept (R8). -/

theorem State.byteAt_setByte_self (s : State) (pa : Nat) (b : Byte) : (s.setByte pa b).byteAt pa = b := by
  unfold State.byteAt State.setByte; split <;> simp [mgetD_mset_self]

theorem State.byteAt_setByte_ne (s : State) {pa q : Nat} (b : Byte) (h : q ≠ pa) : (s.setByte pa b).byteAt q = s.byteAt q := by
  unfold State.byteAt State.setByte
  split <;> split <;> simp [mgetD_mset_ne _ _ _ h]

theorem State.byteAt_congr {s t : State} (h : t.mem = s.mem) (g : t.peer = s.peer) (q : Nat) : t.byteAt q = s.byteAt q := by
  simp [State.byteAt, h, g]

theorem State.byteAt_setBytes_out (bs : List Byte) : ∀ (s : State) (pa q : Nat), (q < pa ∨ pa + bs.length ≤ q) →
    (s.setBytes pa bs).byteAt q = s.byteAt q := by
  induction bs with
  | nil => intro s pa q _; rfl
  | cons b bs ih =>
    intro s pa q h
    simp only [List.length_cons] at h
    rw [State.setBytes, ih _ _ _ (by omega), State.byteAt_setByte_ne _ _ (by omega)]

theorem State.byteAt_setBytes_in (bs : List Byte) : ∀ (s : State) (pa i : Nat) (h : i < bs.length),
    (s.setBytes pa bs).byteAt (pa + i) = bs[i] := by
  induction bs with
  | nil => intro s pa i h; simp at h
  | cons b bs ih =>
    intro s pa i h
    cases i with
    | zero =>
      have e := State.byteAt_setBytes_out bs (s.setByte pa b) (pa + 1) pa (by omega)
      rw [State.byteAt_setByte_self] at e
      simpa [State.setBytes] using e
    | succ i =>
      have := ih (s.setByte pa b) (pa + 1) i (by simpa using h)
      rw [State.setBytes, show pa + (i + 1) = pa + 1 + i by omega, this]; rfl

theorem State.mwf_setByte (s : State) (pa : Nat) (b : Byte) (h : mwf 0 s.mem = true ∧ mwf 0 s.peer = true) :
    mwf 0 (s.setByte pa b).mem = true ∧ mwf 0 (s.setByte pa b).peer = true := by
  unfold State.setByte; split
  · exact ⟨h.1, mwf_mset _ _ _ _ h.2⟩
  · exact ⟨mwf_mset _ _ _ _ h.1, h.2⟩

theorem State.mwf_setBytes (bs : List Byte) : ∀ (s : State) (pa : Nat), mwf 0 s.mem = true ∧ mwf 0 s.peer = true →
    mwf 0 (s.setBytes pa bs).mem = true ∧ mwf 0 (s.setBytes pa bs).peer = true := by
  induction bs with
  | nil => intro s pa h; exact h
  | cons b bs ih => intro s pa h; exact ih _ _ (State.mwf_setByte s pa b h)

/-- A filtered map in canonical form stands in canonical form. -/
theorem mwf_filter [DecidableEq α] (d : α) (m : Map α) (f : Nat × α → Bool) (h : mwf d m = true) :
    mwf d (m.filter f) = true := by
  simp only [mwf, Bool.and_eq_true, List.all_eq_true, decide_eq_true_eq] at h ⊢
  refine ⟨?_, fun p hp => h.2 p (List.mem_filter.mp hp).1⟩
  have go : ∀ m : Map α, msorted m = true → msorted (m.filter f) = true := by
    intro m
    induction m with
    | nil => intro _; rfl
    | cons p rest ih =>
      intro hs
      obtain ⟨h1, h2⟩ := msorted_cons.mp hs
      simp only [List.filter_cons]
      split
      · exact msorted_cons.mpr ⟨fun q hq => h1 q (List.mem_filter.mp hq).1, ih h2⟩
      · exact ih h2
  exact go m h.1

@[simp] theorem State.setBytes_threads (bs : List Byte) : ∀ (s : State) (pa : Nat), (s.setBytes pa bs).threads = s.threads := by
  induction bs with
  | nil => intro s pa; rfl
  | cons b bs ih => intro s pa; rw [State.setBytes, ih]; simp

/-- The later of two writes to one key stands. -/
@[simp] theorem mput_mput (m : Map α) (k : Nat) (v w : α) : mput (mput m k v) k w = mput m k w := by
  induction m with
  | nil => simp [mput]
  | cons p rest ih =>
    obtain ⟨k', v'⟩ := p
    simp only [mput]
    split
    · simp [mput]
    · split
      · simp [mput]
      · rename_i h1 h2; simp [mput, h1, h2, ih]

@[simp] theorem State.setThread_setThread (s : State) (gs : Nat) (t u : Thread) :
    (s.setThread gs t).setThread gs u = s.setThread gs u := by simp [State.setThread]

@[simp] theorem State.setTh_setTh (s : State) (t u : Thread) : (s.setTh t).setTh u = s.setTh u := by
  simp [State.setTh, State.setThread]

end Sys2Proof.Machine
end

