-- ==== Sys2Proof/Laws/Issue.lean ====
section
/-!
SUPPORT. The issue of a unit: when a word opens, what a word that has opened answers, what a completed unit leaves of the state, and the
operand forms (R14, R35, R92, R119, R120, R238).
-/

namespace Sys2Proof.Machine

/-! When a word opens. -/

theorem State.readsDue_of_loads {s : State} (h : s.th.loads = []) (is : List Instr) : s.readsDue is = false := by
  simp [State.readsDue, Thread.dueRegs, h]

theorem State.readsDue_of_det {s : State} (h : s.th.det = false) (is : List Instr) : s.readsDue is = false := by
  simp [State.readsDue, h]

theorem State.Ready.lone {s : State} (h : s.Ready) : s.LoneUnit := by
  rcases h with h | ⟨c, h⟩ <;> exact h.toLoneUnit

theorem State.Ready.readsDue {s : State} (h : s.Ready) (is : List Instr) : s.readsDue is = false := by
  rcases h with h | ⟨c, h⟩
  · exact State.readsDue_of_loads h.loads is
  · exact State.readsDue_of_det h.det is

/-- No chunk ends before a unit that is ready. -/
theorem State.Ready.endsBefore {s : State} (h : s.Ready) : s.endsBefore false false 1 = s := by
  rcases h with h | ⟨c, h⟩
  · simp [State.endsBefore, h.dir]
  · have := h.room
    simp only [State.endsBefore, h.dir, h.fallback, h.cur, h.uncut]
    simp; omega

/-- Where no chunk ends, nothing is taken at its end (R241). -/
theorem State.dueAtEnd_self (s : State) : s.dueAtEnd s = false := by
  unfold State.dueAtEnd
  cases s.th.cur <;> cases s.th.fallback <;> simp

theorem State.Ready.begins {s : State} (h : s.Ready) : s.beginUnit false = .ok s := by
  rcases h with h | ⟨c, h⟩
  · have ht := h.turn
    unfold State.InTurn at ht
    simp only [State.beginUnit, Thread.directMode, h.dir, h.chunks, h.loads]
    cases hd : s.th.det <;> cases ho : s.th.ord <;> simp_all
  · simp [State.beginUnit, Thread.directMode, h.dir, h.fallback, h.stepping, h.cur]

/-- A word of a chunk or of direct mode opens where its checks pass. -/
theorem State.Ready.opens {s : State} (h : s.Ready) {i : Instr} (ho : s.standsOutside [i] = false) (hc : isCsrw i = false)
    (hk : s.unitChecks [i] = none) : s.Opens i s :=
  ⟨h.lone.role, by rw [ho, hc, h.endsBefore]; exact s.dueAtEnd_self, by rw [ho, hc, h.endsBefore]; exact h.begins, hk, h.readsDue _⟩

@[simp] theorem State.th_stepOut (s : State) : s.stepOut.th = s.th := rfl

/-- A word outside every chunk opens where its checks pass. -/
theorem State.AtBoundary.opens {s : State} (h : s.AtBoundary) {i : Instr} (ho : s.standsOutside [i] = true)
    (hk : s.stepOut.unitChecks [i] = none) : s.Opens i s.stepOut := by
  have e (b : Bool) : s.endsBefore true b 1 = s := by
    have hc : s.th.cur = none := by simp [Thread.cur, h.chunks]
    simp only [State.endsBefore, h.fallback, hc]; split <;> rfl
  refine ⟨h.role, by rw [ho, e]; exact s.dueAtEnd_self, ?_, hk, State.readsDue_of_loads (by simpa using h.loads) _⟩
  rw [ho, e]
  have ht := h.turn
  unfold State.InTurn at ht
  simp only [State.beginUnit, h.chunks, Thread.quiet, Thread.drained, h.loads, h.stores, h.pushes, State.stepOut]
  cases hd : s.th.det <;> cases ho : s.th.ord <;> simp_all

/-- What a word that has opened answers when its own effect completes. -/
theorem State.Opens.runs {s s1 u : State} {i : Instr} (h : s.Opens i s1) {body : M Unit} (hb : body s1 = .ok ((), u)) :
    issue i body s = .next (u.done i) := by
  simp [issue, h.role, State.runUnit, h.undue, h.begins, h.checks, h.due, hb, State.done]

/-- What a word that has opened answers when its own effect raises a trap. -/
theorem State.Opens.traps {s s1 : State} {i : Instr} (h : s.Opens i s1) {body : M Unit} {t : Trap} (hb : body s1 = .error (.trap t)) :
    issue i body s = .next (s1.raiseUnit t) := by
  simp [issue, h.role, State.runUnit, h.undue, h.begins, h.checks, h.due, hb, State.stopUnit]

/-! Checks (Table 3.11). -/

theorem State.unitChecks_lone {s : State} {i : Instr} (h3 : stepCheck s i 3 = none) (h4 : stepCheck s i 4 = none)
    (h5 : stepCheck s i 5 = none) (h6 : stepCheck s i 6 = none) : s.unitChecks [i] = none := by
  simp [State.unitChecks, h3, h4, h5, h6]

/-! Operand forms (R14). -/

theorem srcA_reg {s : State} {f : BitVec 7} (h : f.toNat < 112) : srcA f s = .ok (s.getX f.toNat, s) := by
  simp only [srcA, bind, StateT.bind, get, getThe, MonadStateOf.get, StateT.get, pure, Except.pure, Except.bind, h, if_true,
    StateT.pure]

theorem dstA_reg {s : State} {f : BitVec 7} {v : Word} (h : f.toNat < 112) : dstA f v s = .ok ((), s.setX f.toNat v) := by
  simp only [dstA, bind, StateT.bind, get, getThe, MonadStateOf.get, StateT.get, pure, Except.pure, Except.bind, h, if_true,
    set, StateT.set]

theorem readX_lone {s : State} (h : s.unit.pre = none) (f : Nat) : readX f s = .ok (s.getX f, s) := by
  simp [readX, bind, StateT.bind, get, getThe, MonadStateOf.get, StateT.get, pure, Except.pure, Except.bind, h, StateT.pure]

theorem srcC_lone {s : State} (h : s.unit.pre = none) (f : BitVec 7) : srcC f s = .ok (s.getX f.toNat, s) := readX_lone h _

theorem dstC_run (s : State) (f : BitVec 7) (v : Word) : dstC f v s = .ok ((), s.setX f.toNat v) := rfl

/-- A lone word reads the state it stands in (R33). -/
theorem State.before_lone {s : State} (h : s.unit.pre = none) : s.before = s := by simp [State.before, h]

theorem readArch_lone {s : State} (h : s.unit.pre = none) : readArch s = .ok (s.arch, s) := by
  simp [readArch, bind, StateT.bind, get, getThe, MonadStateOf.get, StateT.get, pure, Except.pure, Except.bind, State.before_lone h,
    StateT.pure]

theorem readK_lone {s : State} (h : s.unit.pre = none) (n : Nat) : readK n s = .ok (s.arch.kreg n, s) := by
  simp only [readK, bind, StateT.bind, readArch_lone h, Except.bind]; rfl

theorem modArch_run (f : Arch → Arch) (s : State) : modArch f s = .ok ((), s.setArch (f s.arch)) := rfl

theorem modTh_run (f : Thread → Thread) (s : State) : modTh f s = .ok ((), s.setTh (f s.th)) := rfl

/-- Sequencing in the meanings: the second part acts on what the first leaves. -/
theorem M.bind_ok {α β : Type} {m : M α} {f : α → M β} {s s1 : State} {a : α} (h : m s = .ok (a, s1)) : (m >>= f) s = f a s1 := by
  simp [bind, StateT.bind, h, Except.bind]

/-- A stop ends the sequence. -/
theorem M.bind_error {α β : Type} {m : M α} {f : α → M β} {s : State} {e : Stop} (h : m s = .error e) : (m >>= f) s = .error e := by
  simp [bind, StateT.bind, h, Except.bind]

/-! What a completed unit leaves (R35, R238). -/

theorem State.finishUnit_shape (s : State) (n : Nat) (b : Bool) :
    ∃ ts, s.finishUnit n b = { s with threads := ts } := by
  unfold State.finishUnit
  dsimp only
  (repeat' split) <;> exact ⟨_, rfl⟩

theorem State.observe_shape {s : State} (h : s.unit.target = none) (is : List Instr) :
    ∃ l cs, s.observe is = { s with issued := l, counters := cs } := by
  unfold State.observe
  dsimp only
  simp only [h]
  split <;> exact ⟨_, _, rfl⟩

/-- A unit that transfers no control changes, when it completes, its thread and what the observers keep. -/
theorem State.done_shape {s : State} (h : s.unit.target = none) (i : Instr) :
    ∃ ts l cs, s.done i = { s with threads := ts, issued := l, counters := cs } := by
  obtain ⟨ts, e⟩ := s.finishUnit_shape 1 (endsAfter i)
  obtain ⟨l, cs, e'⟩ := (s.finishUnit 1 (endsAfter i)).observe_shape (by rw [e]; exact h) [i]
  exact ⟨ts, l, cs, by rw [State.done, e', e]⟩

theorem State.done_fs {s : State} (h : s.unit.target = none) (i : Instr) : (s.done i).fs = s.fs := by
  obtain ⟨_, _, _, e⟩ := State.done_shape h i; rw [e]
theorem State.done_unit {s : State} (h : s.unit.target = none) (i : Instr) : (s.done i).unit = s.unit := by
  obtain ⟨_, _, _, e⟩ := State.done_shape h i; rw [e]
theorem State.done_agenda {s : State} (h : s.unit.target = none) (i : Instr) : (s.done i).agenda = s.agenda := by
  obtain ⟨_, _, _, e⟩ := State.done_shape h i; rw [e]
theorem State.done_turn {s : State} (h : s.unit.target = none) (i : Instr) : (s.done i).turn = s.turn := by
  obtain ⟨_, _, _, e⟩ := State.done_shape h i; rw [e]
theorem State.done_prefer {s : State} (h : s.unit.target = none) (i : Instr) : (s.done i).prefer = s.prefer := by
  obtain ⟨_, _, _, e⟩ := State.done_shape h i; rw [e]
theorem State.done_fresh {s : State} (h : s.unit.target = none) (i : Instr) : (s.done i).fresh = s.fresh := by
  obtain ⟨_, _, _, e⟩ := State.done_shape h i; rw [e]
theorem State.done_cycle {s : State} (h : s.unit.target = none) (i : Instr) : (s.done i).cycle = s.cycle := by
  obtain ⟨_, _, _, e⟩ := State.done_shape h i; rw [e]
theorem State.done_mem {s : State} (h : s.unit.target = none) (i : Instr) : (s.done i).mem = s.mem := by
  obtain ⟨_, _, _, e⟩ := State.done_shape h i; rw [e]
theorem State.done_poison {s : State} (h : s.unit.target = none) (i : Instr) : (s.done i).poison = s.poison := by
  obtain ⟨_, _, _, e⟩ := State.done_shape h i; rw [e]
theorem State.done_peer {s : State} (h : s.unit.target = none) (i : Instr) : (s.done i).peer = s.peer := by
  obtain ⟨_, _, _, e⟩ := State.done_shape h i; rw [e]
theorem State.done_rf {s : State} (h : s.unit.target = none) (i : Instr) : (s.done i).rf = s.rf := by
  obtain ⟨_, _, _, e⟩ := State.done_shape h i; rw [e]
theorem State.done_gregs {s : State} (h : s.unit.target = none) (i : Instr) : (s.done i).gregs = s.gregs := by
  obtain ⟨_, _, _, e⟩ := State.done_shape h i; rw [e]
theorem State.done_gregHist {s : State} (h : s.unit.target = none) (i : Instr) : (s.done i).gregHist = s.gregHist := by
  obtain ⟨_, _, _, e⟩ := State.done_shape h i; rw [e]
theorem State.done_globals {s : State} (h : s.unit.target = none) (i : Instr) : (s.done i).globals = s.globals := by
  obtain ⟨_, _, _, e⟩ := State.done_shape h i; rw [e]
theorem State.done_parts {s : State} (h : s.unit.target = none) (i : Instr) : (s.done i).parts = s.parts := by
  obtain ⟨_, _, _, e⟩ := State.done_shape h i; rw [e]
theorem State.done_vfs {s : State} (h : s.unit.target = none) (i : Instr) : (s.done i).vfs = s.vfs := by
  obtain ⟨_, _, _, e⟩ := State.done_shape h i; rw [e]
theorem State.done_hctx {s : State} (h : s.unit.target = none) (i : Instr) : (s.done i).hctx = s.hctx := by
  obtain ⟨_, _, _, e⟩ := State.done_shape h i; rw [e]
theorem State.done_hring {s : State} (h : s.unit.target = none) (i : Instr) : (s.done i).hring = s.hring := by
  obtain ⟨_, _, _, e⟩ := State.done_shape h i; rw [e]
theorem State.done_hslot {s : State} (h : s.unit.target = none) (i : Instr) : (s.done i).hslot = s.hslot := by
  obtain ⟨_, _, _, e⟩ := State.done_shape h i; rw [e]
theorem State.done_hserial {s : State} (h : s.unit.target = none) (i : Instr) : (s.done i).hserial = s.hserial := by
  obtain ⟨_, _, _, e⟩ := State.done_shape h i; rw [e]
theorem State.done_ctb {s : State} (h : s.unit.target = none) (i : Instr) : (s.done i).ctb = s.ctb := by
  obtain ⟨_, _, _, e⟩ := State.done_shape h i; rw [e]
theorem State.done_pkgSeq {s : State} (h : s.unit.target = none) (i : Instr) : (s.done i).pkgSeq = s.pkgSeq := by
  obtain ⟨_, _, _, e⟩ := State.done_shape h i; rw [e]
theorem State.done_sigs {s : State} (h : s.unit.target = none) (i : Instr) : (s.done i).sigs = s.sigs := by
  obtain ⟨_, _, _, e⟩ := State.done_shape h i; rw [e]
theorem State.done_remotes {s : State} (h : s.unit.target = none) (i : Instr) : (s.done i).remotes = s.remotes := by
  obtain ⟨_, _, _, e⟩ := State.done_shape h i; rw [e]
theorem State.done_edges {s : State} (h : s.unit.target = none) (i : Instr) : (s.done i).edges = s.edges := by
  obtain ⟨_, _, _, e⟩ := State.done_shape h i; rw [e]
theorem State.done_msgs {s : State} (h : s.unit.target = none) (i : Instr) : (s.done i).msgs = s.msgs := by
  obtain ⟨_, _, _, e⟩ := State.done_shape h i; rw [e]
theorem State.done_chans {s : State} (h : s.unit.target = none) (i : Instr) : (s.done i).chans = s.chans := by
  obtain ⟨_, _, _, e⟩ := State.done_shape h i; rw [e]
theorem State.done_copies {s : State} (h : s.unit.target = none) (i : Instr) : (s.done i).copies = s.copies := by
  obtain ⟨_, _, _, e⟩ := State.done_shape h i; rw [e]
theorem State.done_nodes {s : State} (h : s.unit.target = none) (i : Instr) : (s.done i).nodes = s.nodes := by
  obtain ⟨_, _, _, e⟩ := State.done_shape h i; rw [e]
theorem State.done_tiles {s : State} (h : s.unit.target = none) (i : Instr) : (s.done i).tiles = s.tiles := by
  obtain ⟨_, _, _, e⟩ := State.done_shape h i; rw [e]
theorem State.done_tilePoison {s : State} (h : s.unit.target = none) (i : Instr) : (s.done i).tilePoison = s.tilePoison := by
  obtain ⟨_, _, _, e⟩ := State.done_shape h i; rw [e]
theorem State.done_matq {s : State} (h : s.unit.target = none) (i : Instr) : (s.done i).matq = s.matq := by
  obtain ⟨_, _, _, e⟩ := State.done_shape h i; rw [e]
theorem State.done_wrr {s : State} (h : s.unit.target = none) (i : Instr) : (s.done i).wrr = s.wrr := by
  obtain ⟨_, _, _, e⟩ := State.done_shape h i; rw [e]
theorem State.done_watches {s : State} (h : s.unit.target = none) (i : Instr) : (s.done i).watches = s.watches := by
  obtain ⟨_, _, _, e⟩ := State.done_shape h i; rw [e]
theorem State.done_locks {s : State} (h : s.unit.target = none) (i : Instr) : (s.done i).locks = s.locks := by
  obtain ⟨_, _, _, e⟩ := State.done_shape h i; rw [e]
theorem State.done_homes {s : State} (h : s.unit.target = none) (i : Instr) : (s.done i).homes = s.homes := by
  obtain ⟨_, _, _, e⟩ := State.done_shape h i; rw [e]
theorem State.done_dirs {s : State} (h : s.unit.target = none) (i : Instr) : (s.done i).dirs = s.dirs := by
  obtain ⟨_, _, _, e⟩ := State.done_shape h i; rw [e]
theorem State.done_coh {s : State} (h : s.unit.target = none) (i : Instr) : (s.done i).coh = s.coh := by
  obtain ⟨_, _, _, e⟩ := State.done_shape h i; rw [e]
theorem State.done_l1 {s : State} (h : s.unit.target = none) (i : Instr) : (s.done i).l1 = s.l1 := by
  obtain ⟨_, _, _, e⟩ := State.done_shape h i; rw [e]
theorem State.done_hostPart {s : State} (h : s.unit.target = none) (i : Instr) : (s.done i).hostPart = s.hostPart := by
  obtain ⟨_, _, _, e⟩ := State.done_shape h i; rw [e]
theorem State.done_hostLines {s : State} (h : s.unit.target = none) (i : Instr) : (s.done i).hostLines = s.hostLines := by
  obtain ⟨_, _, _, e⟩ := State.done_shape h i; rw [e]
theorem State.done_hostInval {s : State} (h : s.unit.target = none) (i : Instr) : (s.done i).hostInval = s.hostInval := by
  obtain ⟨_, _, _, e⟩ := State.done_shape h i; rw [e]
theorem State.done_icache {s : State} (h : s.unit.target = none) (i : Instr) : (s.done i).icache = s.icache := by
  obtain ⟨_, _, _, e⟩ := State.done_shape h i; rw [e]
theorem State.done_rqs {s : State} (h : s.unit.target = none) (i : Instr) : (s.done i).rqs = s.rqs := by
  obtain ⟨_, _, _, e⟩ := State.done_shape h i; rw [e]
theorem State.done_launches {s : State} (h : s.unit.target = none) (i : Instr) : (s.done i).launches = s.launches := by
  obtain ⟨_, _, _, e⟩ := State.done_shape h i; rw [e]
theorem State.done_orphans {s : State} (h : s.unit.target = none) (i : Instr) : (s.done i).orphans = s.orphans := by
  obtain ⟨_, _, _, e⟩ := State.done_shape h i; rw [e]
theorem State.done_qmap {s : State} (h : s.unit.target = none) (i : Instr) : (s.done i).qmap = s.qmap := by
  obtain ⟨_, _, _, e⟩ := State.done_shape h i; rw [e]
theorem State.done_qpend {s : State} (h : s.unit.target = none) (i : Instr) : (s.done i).qpend = s.qpend := by
  obtain ⟨_, _, _, e⟩ := State.done_shape h i; rw [e]
theorem State.done_qlast {s : State} (h : s.unit.target = none) (i : Instr) : (s.done i).qlast = s.qlast := by
  obtain ⟨_, _, _, e⟩ := State.done_shape h i; rw [e]
theorem State.done_qserve {s : State} (h : s.unit.target = none) (i : Instr) : (s.done i).qserve = s.qserve := by
  obtain ⟨_, _, _, e⟩ := State.done_shape h i; rw [e]
theorem State.done_mbase {s : State} (h : s.unit.target = none) (i : Instr) : (s.done i).mbase = s.mbase := by
  obtain ⟨_, _, _, e⟩ := State.done_shape h i; rw [e]
theorem State.done_mb {s : State} (h : s.unit.target = none) (i : Instr) : (s.done i).mb = s.mb := by
  obtain ⟨_, _, _, e⟩ := State.done_shape h i; rw [e]
theorem State.done_tags {s : State} (h : s.unit.target = none) (i : Instr) : (s.done i).tags = s.tags := by
  obtain ⟨_, _, _, e⟩ := State.done_shape h i; rw [e]
theorem State.done_binds {s : State} (h : s.unit.target = none) (i : Instr) : (s.done i).binds = s.binds := by
  obtain ⟨_, _, _, e⟩ := State.done_shape h i; rw [e]
theorem State.done_hover {s : State} (h : s.unit.target = none) (i : Instr) : (s.done i).hover = s.hover := by
  obtain ⟨_, _, _, e⟩ := State.done_shape h i; rw [e]
theorem State.done_away {s : State} (h : s.unit.target = none) (i : Instr) : (s.done i).away = s.away := by
  obtain ⟨_, _, _, e⟩ := State.done_shape h i; rw [e]
theorem State.done_stops {s : State} (h : s.unit.target = none) (i : Instr) : (s.done i).stops = s.stops := by
  obtain ⟨_, _, _, e⟩ := State.done_shape h i; rw [e]
theorem State.done_nextStop {s : State} (h : s.unit.target = none) (i : Instr) : (s.done i).nextStop = s.nextStop := by
  obtain ⟨_, _, _, e⟩ := State.done_shape h i; rw [e]
theorem State.done_freed {s : State} (h : s.unit.target = none) (i : Instr) : (s.done i).freed = s.freed := by
  obtain ⟨_, _, _, e⟩ := State.done_shape h i; rw [e]
theorem State.done_traceHold {s : State} (h : s.unit.target = none) (i : Instr) : (s.done i).traceHold = s.traceHold := by
  obtain ⟨_, _, _, e⟩ := State.done_shape h i; rw [e]
theorem State.done_traceAt {s : State} (h : s.unit.target = none) (i : Instr) : (s.done i).traceAt = s.traceAt := by
  obtain ⟨_, _, _, e⟩ := State.done_shape h i; rw [e]
theorem State.done_sserial {s : State} (h : s.unit.target = none) (i : Instr) : (s.done i).sserial = s.sserial := by
  obtain ⟨_, _, _, e⟩ := State.done_shape h i; rw [e]
theorem State.done_pulsed {s : State} (h : s.unit.target = none) (i : Instr) : (s.done i).pulsed = s.pulsed := by
  obtain ⟨_, _, _, e⟩ := State.done_shape h i; rw [e]
theorem State.done_dbgen {s : State} (h : s.unit.target = none) (i : Instr) : (s.done i).dbgen = s.dbgen := by
  obtain ⟨_, _, _, e⟩ := State.done_shape h i; rw [e]
theorem State.done_bps {s : State} (h : s.unit.target = none) (i : Instr) : (s.done i).bps = s.bps := by
  obtain ⟨_, _, _, e⟩ := State.done_shape h i; rw [e]
theorem State.done_merged {s : State} (h : s.unit.target = none) (i : Instr) : (s.done i).merged = s.merged := by
  obtain ⟨_, _, _, e⟩ := State.done_shape h i; rw [e]
theorem State.done_ho {s : State} (h : s.unit.target = none) (i : Instr) : (s.done i).ho = s.ho := by
  obtain ⟨_, _, _, e⟩ := State.done_shape h i; rw [e]
theorem State.done_portsDown {s : State} (h : s.unit.target = none) (i : Instr) : (s.done i).portsDown = s.portsDown := by
  obtain ⟨_, _, _, e⟩ := State.done_shape h i; rw [e]
theorem State.done_throttle {s : State} (h : s.unit.target = none) (i : Instr) : (s.done i).throttle = s.throttle := by
  obtain ⟨_, _, _, e⟩ := State.done_shape h i; rw [e]
theorem State.done_moves {s : State} (h : s.unit.target = none) (i : Instr) : (s.done i).moves = s.moves := by
  obtain ⟨_, _, _, e⟩ := State.done_shape h i; rw [e]
theorem State.done_notices {s : State} (h : s.unit.target = none) (i : Instr) : (s.done i).notices = s.notices := by
  obtain ⟨_, _, _, e⟩ := State.done_shape h i; rw [e]
theorem State.done_migs {s : State} (h : s.unit.target = none) (i : Instr) : (s.done i).migs = s.migs := by
  obtain ⟨_, _, _, e⟩ := State.done_shape h i; rw [e]
theorem State.done_remaps {s : State} (h : s.unit.target = none) (i : Instr) : (s.done i).remaps = s.remaps := by
  obtain ⟨_, _, _, e⟩ := State.done_shape h i; rw [e]
theorem State.done_outbox {s : State} (h : s.unit.target = none) (i : Instr) : (s.done i).outbox = s.outbox := by
  obtain ⟨_, _, _, e⟩ := State.done_shape h i; rw [e]
theorem State.done_pairs {s : State} (h : s.unit.target = none) (i : Instr) : (s.done i).pairs = s.pairs := by
  obtain ⟨_, _, _, e⟩ := State.done_shape h i; rw [e]
theorem State.done_traced {s : State} (h : s.unit.target = none) (i : Instr) : (s.done i).traced = s.traced := by
  obtain ⟨_, _, _, e⟩ := State.done_shape h i; rw [e]
theorem State.done_idling {s : State} (h : s.unit.target = none) (i : Instr) : (s.done i).idling = s.idling := by
  obtain ⟨_, _, _, e⟩ := State.done_shape h i; rw [e]
theorem State.done_sampling {s : State} (h : s.unit.target = none) (i : Instr) : (s.done i).sampling = s.sampling := by
  obtain ⟨_, _, _, e⟩ := State.done_shape h i; rw [e]
theorem State.done_flrs {s : State} (h : s.unit.target = none) (i : Instr) : (s.done i).flrs = s.flrs := by
  obtain ⟨_, _, _, e⟩ := State.done_shape h i; rw [e]

theorem State.observe_threads {s : State} (h : s.unit.target = none) (is : List Instr) : (s.observe is).threads = s.threads := by
  obtain ⟨_, _, e⟩ := State.observe_shape h is; rw [e]

theorem State.finishUnit_unit (s : State) (n : Nat) (b : Bool) : (s.finishUnit n b).unit = s.unit := by
  obtain ⟨_, e⟩ := s.finishUnit_shape n b; rw [e]

theorem State.done_th {s : State} (h : s.unit.target = none) (i : Instr) : (s.done i).th = (s.finishUnit 1 (endsAfter i)).th := by
  refine State.th_congr (State.observe_threads (by rwa [State.finishUnit_unit]) _) ?_
  rw [State.done_fs h]
  obtain ⟨_, e⟩ := s.finishUnit_shape 1 (endsAfter i); rw [e]

theorem State.done_thread_ne {s : State} (h : s.unit.target = none) (i : Instr) {gs : Nat} (ne : gs ≠ s.fs) :
    (s.done i).thread gs = s.thread gs := by
  have e : ∀ t : Thread, (s.setTh t).thread gs = s.thread gs := fun t => State.thread_setThread_ne s t ne
  rw [State.done, State.thread_congr (State.observe_threads (by rwa [State.finishUnit_unit]) _)]
  unfold State.finishUnit; dsimp only
  (repeat' split) <;> first | rfl | exact e _

/-- Fields of the thread that the end of a chunk leaves. -/
theorem Thread.endChunk_shape (t : Thread) : ∃ c, t.endChunk = { t with chunks := c } := by
  unfold Thread.endChunk Thread.modLast
  (repeat' split) <;> exact ⟨_, rfl⟩

theorem Thread.modLast_shape (t : Thread) (f : Chunk → Chunk) : ∃ c, t.modLast f = { t with chunks := c } := by
  unfold Thread.modLast; split <;> exact ⟨_, rfl⟩

/-- What the completion of a unit of n words leaves of its thread, outside the direct fallback. -/
theorem State.finishUnit_th {s : State} (h : s.th.live = true) (e : s.unit.entered = false) (p : s.unit.park = none)
    (f : s.unit.outside = true ∨ s.th.fallback = none) (n : Nat) (b : Bool) :
    ∃ cs ent, (s.finishUnit n b).th =
      { s.th with
        a := { s.th.a with pc := s.unit.target.getD s.unit.next, icount := s.th.a.icount + BitVec.ofNat 64 n }
        entry := false, hold := none, evald := none, stepping := false
        dbgCause := if s.th.stepping || s.th.dbgCause.isSome then none else s.th.dbgCause
        chunks := cs, ent := ent } := by
  have e1 : ∀ t : Thread, (s.setTh t).th = t := State.th_setTh s
  unfold State.finishUnit
  simp only [h, e, p]
  cases ho : s.unit.outside
  · have hf : s.th.fallback = none := by simpa [ho] using f
    simp only [hf]
    simp only [Bool.not_true, Bool.false_eq_true, if_false]
    rw [e1]
    split
    · split
      · obtain ⟨c, hc⟩ := Thread.endChunk_shape (Thread.modLast _ fun c => { c with len := c.len + n })
        rw [hc]
        obtain ⟨c', hc'⟩ := Thread.modLast_shape _ (fun c => { c with len := c.len + n })
        rw [hc']
        exact ⟨_, _, rfl⟩
      · obtain ⟨c', hc'⟩ := Thread.modLast_shape _ (fun c => { c with len := c.len + n })
        rw [hc']
        exact ⟨_, _, rfl⟩
    · obtain ⟨c', hc'⟩ := Thread.modLast_shape _ (fun c => { c with len := c.len + n })
      rw [hc']
      exact ⟨_, _, rfl⟩
  · simp only [Bool.not_true, Bool.false_eq_true, if_false, if_true]
    have e3 : ∀ t : Thread, (if t.det = true then { t with ent := t.ent + 1 } else t) =
        { t with ent := if t.det = true then t.ent + 1 else t.ent } := fun t => by split <;> rfl
    rw [e3]
    rw [e1]; exact ⟨_, _, rfl⟩

end Sys2Proof.Machine
end

