-- ==== Sys2Proof/Laws/Issues.lean ====
section
/-!
SUPPORT. Every word with an encoding is issued as a unit: what `exec` answers for it is `issue` of its effect.
-/

namespace Sys2Proof.Machine

/-- The meaning of the word is the issue of some effect, one for all states. -/
def Issues (i : Instr) : Prop := ∃ body, ∀ s, exec i s = issue i body s
theorem issues_ld (o : BitVec 8) (sz : BitVec 2) (a : BitVec 7) (d : BitVec 7) : Issues (.ld o sz a d) := ⟨_, fun _ => rfl⟩
theorem issues_ldz (o : BitVec 8) (sz : BitVec 2) (a : BitVec 7) (d : BitVec 7) : Issues (.ldz o sz a d) := ⟨_, fun _ => rfl⟩
theorem issues_st (o : BitVec 8) (sz : BitVec 2) (a : BitVec 7) (d : BitVec 7) : Issues (.st o sz a d) := ⟨_, fun _ => rfl⟩
theorem issues_ldx (x : BitVec 1) (sz : BitVec 2) (b : BitVec 7) (a : BitVec 7) (d : BitVec 7) : Issues (.ldx x sz b a d) := ⟨_, fun _ => rfl⟩
theorem issues_stx (x : BitVec 1) (sz : BitVec 2) (b : BitVec 7) (a : BitVec 7) (d : BitVec 7) : Issues (.stx x sz b a d) := ⟨_, fun _ => rfl⟩
theorem issues_ldm (o : BitVec 8) (n : BitVec 2) (a : BitVec 7) (d : BitVec 7) : Issues (.ldm o n a d) := ⟨_, fun _ => rfl⟩
theorem issues_stm (o : BitVec 8) (n : BitVec 2) (a : BitVec 7) (d : BitVec 7) : Issues (.stm o n a d) := ⟨_, fun _ => rfl⟩
theorem issues_ldk (o : BitVec 17) (d : BitVec 7) : Issues (.ldk o d) := ⟨_, fun _ => rfl⟩
theorem issues_pf (o : BitVec 8) (sz : BitVec 2) (a : BitVec 7) (h : BitVec 7) : Issues (.pf o sz a h) := ⟨_, fun _ => rfl⟩
theorem issues_amo (sz : BitVec 2) (c : BitVec 4) (a : BitVec 7) (d : BitVec 7) : Issues (.amo sz c a d) := ⟨_, fun _ => rfl⟩
theorem issues_amoE (sz : BitVec 2) (c : BitVec 4) (a : BitVec 7) (d : BitVec 7) : Issues (.amoE sz c a d) := ⟨_, fun _ => rfl⟩
theorem issues_amof (sz : BitVec 2) (c : BitVec 4) (a : BitVec 7) (d : BitVec 7) : Issues (.amof sz c a d) := ⟨_, fun _ => rfl⟩
theorem issues_amofE (sz : BitVec 2) (c : BitVec 4) (a : BitVec 7) (d : BitVec 7) : Issues (.amofE sz c a d) := ⟨_, fun _ => rfl⟩
theorem issues_cas (sz : BitVec 1) (b : BitVec 7) (a : BitVec 7) (d : BitVec 7) : Issues (.cas sz b a d) := ⟨_, fun _ => rfl⟩
theorem issues_qres (sz : BitVec 1) (a : BitVec 7) (d : BitVec 7) : Issues (.qres sz a d) := ⟨_, fun _ => rfl⟩
theorem issues_qrel (sz : BitVec 1) (a : BitVec 7) (d : BitVec 7) : Issues (.qrel sz a d) := ⟨_, fun _ => rfl⟩
theorem issues_br (o : BitVec 20) (n : BitVec 1) (k : BitVec 3) : Issues (.br o n k) := ⟨_, fun _ => rfl⟩
theorem issues_jmp (o : BitVec 17) : Issues (.jmp o) := ⟨_, fun _ => rfl⟩
theorem issues_brEnd (o : BitVec 17) (n : BitVec 1) (p : BitVec 4) : Issues (.brEnd o n p) := ⟨_, fun _ => rfl⟩
theorem issues_jal (o : BitVec 17) (d : BitVec 7) : Issues (.jal o d) := ⟨_, fun _ => rfl⟩
theorem issues_jalr (i : BitVec 10) (a : BitVec 7) (d : BitVec 7) : Issues (.jalr i a d) := ⟨_, fun _ => rfl⟩
theorem issues_loop (o : BitVec 17) (d : BitVec 7) : Issues (.loop o d) := ⟨_, fun _ => rfl⟩
theorem issues_sopen (r : BitVec 1) (w : BitVec 1) (t : BitVec 1) (sz : BitVec 2) (p : BitVec 5) (a : BitVec 7) : Issues (.sopen r w t sz p a) := ⟨_, fun _ => rfl⟩
theorem issues_sclose (p : BitVec 5) : Issues (.sclose p) := ⟨_, fun _ => rfl⟩
theorem issues_sseek (p : BitVec 5) (a : BitVec 7) : Issues (.sseek p a) := ⟨_, fun _ => rfl⟩
theorem issues_spos (p : BitVec 5) (d : BitVec 7) : Issues (.spos p d) := ⟨_, fun _ => rfl⟩
theorem issues_fence : Issues (.fence) := ⟨_, fun _ => rfl⟩
theorem issues_fenceE : Issues (.fenceE) := ⟨_, fun _ => rfl⟩
theorem issues_wait (m : BitVec 4) (c : BitVec 4) (sz : BitVec 4) (w : BitVec 4) : Issues (.wait m c sz w) := ⟨_, fun _ => rfl⟩
theorem issues_mona (i : BitVec 10) (a : BitVec 7) (n : BitVec 2) : Issues (.mona i a n) := ⟨_, fun _ => rfl⟩
theorem issues_monw (a : BitVec 7) (d : BitVec 7) : Issues (.monw a d) := ⟨_, fun _ => rfl⟩
theorem issues_watch (i : BitVec 10) (a : BitVec 7) : Issues (.watch i a) := ⟨_, fun _ => rfl⟩
theorem issues_wsleep (a : BitVec 7) (d : BitVec 7) : Issues (.wsleep a d) := ⟨_, fun _ => rfl⟩
theorem issues_cut : Issues (.cut) := ⟨_, fun _ => rfl⟩
theorem issues_direct : Issues (.direct) := ⟨_, fun _ => rfl⟩
theorem issues_resume : Issues (.resume) := ⟨_, fun _ => rfl⟩
theorem issues_lock (a : BitVec 7) (k : BitVec 3) : Issues (.lock a k) := ⟨_, fun _ => rfl⟩
theorem issues_unlock (a : BitVec 7) : Issues (.unlock a) := ⟨_, fun _ => rfl⟩
theorem issues_clean (b : BitVec 7) (a : BitVec 7) : Issues (.clean b a) := ⟨_, fun _ => rfl⟩
theorem issues_inval (b : BitVec 7) (a : BitVec 7) : Issues (.inval b a) := ⟨_, fun _ => rfl⟩
theorem issues_iflush (b : BitVec 7) (a : BitVec 7) : Issues (.iflush b a) := ⟨_, fun _ => rfl⟩
theorem issues_isync : Issues (.isync) := ⟨_, fun _ => rfl⟩
theorem issues_vld (o : BitVec 6) (v : BitVec 1) (m : BitVec 3) (a : BitVec 7) (sz : BitVec 2) (d : BitVec 5) : Issues (.vld o v m a sz d) := ⟨_, fun _ => rfl⟩
theorem issues_vst (o : BitVec 6) (v : BitVec 1) (m : BitVec 3) (a : BitVec 7) (sz : BitVec 2) (d : BitVec 5) : Issues (.vst o v m a sz d) := ⟨_, fun _ => rfl⟩
theorem issues_vlds (m : BitVec 3) (b : BitVec 7) (a : BitVec 7) (sz : BitVec 1) (d : BitVec 5) : Issues (.vlds m b a sz d) := ⟨_, fun _ => rfl⟩
theorem issues_vsts (m : BitVec 3) (b : BitVec 7) (a : BitVec 7) (sz : BitVec 1) (d : BitVec 5) : Issues (.vsts m b a sz d) := ⟨_, fun _ => rfl⟩
theorem issues_vgat (m : BitVec 3) (c : BitVec 1) (i : BitVec 5) (a : BitVec 7) (sz : BitVec 1) (d : BitVec 5) : Issues (.vgat m c i a sz d) := ⟨_, fun _ => rfl⟩
theorem issues_vsct (m : BitVec 3) (c : BitVec 1) (i : BitVec 5) (a : BitVec 7) (sz : BitVec 1) (d : BitVec 5) : Issues (.vsct m c i a sz d) := ⟨_, fun _ => rfl⟩
theorem issues_cpy (b : BitVec 7) (a : BitVec 7) (d : BitVec 7) : Issues (.cpy b a d) := ⟨_, fun _ => rfl⟩
theorem issues_cpyw (b : BitVec 7) (a : BitVec 7) (d : BitVec 7) : Issues (.cpyw b a d) := ⟨_, fun _ => rfl⟩
theorem issues_msend (b : BitVec 7) (a : BitVec 7) : Issues (.msend b a) := ⟨_, fun _ => rfl⟩
theorem issues_chbind (p : BitVec 5) (a : BitVec 7) : Issues (.chbind p a) := ⟨_, fun _ => rfl⟩
theorem issues_chunbind (p : BitVec 5) : Issues (.chunbind p) := ⟨_, fun _ => rfl⟩
theorem issues_redcfg (b : BitVec 7) (a : BitVec 7) : Issues (.redcfg b a) := ⟨_, fun _ => rfl⟩
theorem issues_redc (c : BitVec 4) (o : BitVec 2) (a : BitVec 7) (d : BitVec 5) : Issues (.redc c o a d) := ⟨_, fun _ => rfl⟩
theorem issues_tspawn (b : BitVec 7) (a : BitVec 7) (d : BitVec 7) : Issues (.tspawn b a d) := ⟨_, fun _ => rfl⟩
theorem issues_tkey (a : BitVec 7) (d : BitVec 7) : Issues (.tkey a d) := ⟨_, fun _ => rfl⟩
theorem issues_fork (b : BitVec 7) (a : BitVec 7) (d : BitVec 7) : Issues (.fork b a d) := ⟨_, fun _ => rfl⟩
theorem issues_join : Issues (.join) := ⟨_, fun _ => rfl⟩
theorem issues_rqput (b : BitVec 7) (a : BitVec 7) : Issues (.rqput b a) := ⟨_, fun _ => rfl⟩
theorem issues_rqtake (b : BitVec 7) (d : BitVec 7) : Issues (.rqtake b d) := ⟨_, fun _ => rfl⟩
theorem issues_tmset (a : BitVec 7) : Issues (.tmset a) := ⟨_, fun _ => rfl⟩
theorem issues_sstart (a : BitVec 7) (d : BitVec 7) : Issues (.sstart a d) := ⟨_, fun _ => rfl⟩
theorem issues_sstop (a : BitVec 7) : Issues (.sstop a) := ⟨_, fun _ => rfl⟩
theorem issues_exit : Issues (.exit) := ⟨_, fun _ => rfl⟩
theorem issues_trap (n : BitVec 7) : Issues (.trap n) := ⟨_, fun _ => rfl⟩
theorem issues_wfi : Issues (.wfi) := ⟨_, fun _ => rfl⟩
theorem issues_brk (n : BitVec 7) : Issues (.brk n) := ⟨_, fun _ => rfl⟩
theorem issues_eret : Issues (.eret) := ⟨_, fun _ => rfl⟩
theorem issues_hcall (n : BitVec 7) : Issues (.hcall n) := ⟨_, fun _ => rfl⟩
theorem issues_csrr (c : BitVec 10) (d : BitVec 7) : Issues (.csrr c d) := ⟨_, fun _ => rfl⟩
theorem issues_csrw (c : BitVec 10) (a : BitVec 7) : Issues (.csrw c a) := ⟨_, fun _ => rfl⟩
theorem issues_rdc (c : BitVec 10) (d : BitVec 7) : Issues (.rdc c d) := ⟨_, fun _ => rfl⟩
theorem issues_hint (h : BitVec 24) (k : BitVec 1) : Issues (.hint h k) := ⟨_, fun _ => rfl⟩
theorem issues_add (b : BitVec 7) (a : BitVec 7) (d : BitVec 7) : Issues (.add b a d) := ⟨_, fun _ => rfl⟩
theorem issues_sub (b : BitVec 7) (a : BitVec 7) (d : BitVec 7) : Issues (.sub b a d) := ⟨_, fun _ => rfl⟩
theorem issues_and (b : BitVec 7) (a : BitVec 7) (d : BitVec 7) : Issues (.and b a d) := ⟨_, fun _ => rfl⟩
theorem issues_or (b : BitVec 7) (a : BitVec 7) (d : BitVec 7) : Issues (.or b a d) := ⟨_, fun _ => rfl⟩
theorem issues_xor (b : BitVec 7) (a : BitVec 7) (d : BitVec 7) : Issues (.xor b a d) := ⟨_, fun _ => rfl⟩
theorem issues_andn (b : BitVec 7) (a : BitVec 7) (d : BitVec 7) : Issues (.andn b a d) := ⟨_, fun _ => rfl⟩
theorem issues_sll (b : BitVec 7) (a : BitVec 7) (d : BitVec 7) : Issues (.sll b a d) := ⟨_, fun _ => rfl⟩
theorem issues_srl (b : BitVec 7) (a : BitVec 7) (d : BitVec 7) : Issues (.srl b a d) := ⟨_, fun _ => rfl⟩
theorem issues_sra (b : BitVec 7) (a : BitVec 7) (d : BitVec 7) : Issues (.sra b a d) := ⟨_, fun _ => rfl⟩
theorem issues_rol (b : BitVec 7) (a : BitVec 7) (d : BitVec 7) : Issues (.rol b a d) := ⟨_, fun _ => rfl⟩
theorem issues_min (b : BitVec 7) (a : BitVec 7) (d : BitVec 7) : Issues (.min b a d) := ⟨_, fun _ => rfl⟩
theorem issues_max (b : BitVec 7) (a : BitVec 7) (d : BitVec 7) : Issues (.max b a d) := ⟨_, fun _ => rfl⟩
theorem issues_minu (b : BitVec 7) (a : BitVec 7) (d : BitVec 7) : Issues (.minu b a d) := ⟨_, fun _ => rfl⟩
theorem issues_maxu (b : BitVec 7) (a : BitVec 7) (d : BitVec 7) : Issues (.maxu b a d) := ⟨_, fun _ => rfl⟩
theorem issues_mulh (b : BitVec 7) (a : BitVec 7) (d : BitVec 7) : Issues (.mulh b a d) := ⟨_, fun _ => rfl⟩
theorem issues_mulhu (b : BitVec 7) (a : BitVec 7) (d : BitVec 7) : Issues (.mulhu b a d) := ⟨_, fun _ => rfl⟩
theorem issues_mul (b : BitVec 7) (a : BitVec 7) (d : BitVec 7) : Issues (.mul b a d) := ⟨_, fun _ => rfl⟩
theorem issues_div (b : BitVec 7) (a : BitVec 7) (d : BitVec 7) : Issues (.div b a d) := ⟨_, fun _ => rfl⟩
theorem issues_divu (b : BitVec 7) (a : BitVec 7) (d : BitVec 7) : Issues (.divu b a d) := ⟨_, fun _ => rfl⟩
theorem issues_rem (b : BitVec 7) (a : BitVec 7) (d : BitVec 7) : Issues (.rem b a d) := ⟨_, fun _ => rfl⟩
theorem issues_remu (b : BitVec 7) (a : BitVec 7) (d : BitVec 7) : Issues (.remu b a d) := ⟨_, fun _ => rfl⟩
theorem issues_leaS1 (b : BitVec 7) (a : BitVec 7) (d : BitVec 7) : Issues (.leaS1 b a d) := ⟨_, fun _ => rfl⟩
theorem issues_leaS2 (b : BitVec 7) (a : BitVec 7) (d : BitVec 7) : Issues (.leaS2 b a d) := ⟨_, fun _ => rfl⟩
theorem issues_leaS3 (b : BitVec 7) (a : BitVec 7) (d : BitVec 7) : Issues (.leaS3 b a d) := ⟨_, fun _ => rfl⟩
theorem issues_addi (i : BitVec 10) (a : BitVec 7) (d : BitVec 7) : Issues (.addi i a d) := ⟨_, fun _ => rfl⟩
theorem issues_andi (i : BitVec 8) (a : BitVec 7) (d : BitVec 7) : Issues (.andi i a d) := ⟨_, fun _ => rfl⟩
theorem issues_ori (i : BitVec 8) (a : BitVec 7) (d : BitVec 7) : Issues (.ori i a d) := ⟨_, fun _ => rfl⟩
theorem issues_xori (i : BitVec 8) (a : BitVec 7) (d : BitVec 7) : Issues (.xori i a d) := ⟨_, fun _ => rfl⟩
theorem issues_slli (n : BitVec 6) (a : BitVec 7) (d : BitVec 7) : Issues (.slli n a d) := ⟨_, fun _ => rfl⟩
theorem issues_srli (n : BitVec 6) (a : BitVec 7) (d : BitVec 7) : Issues (.srli n a d) := ⟨_, fun _ => rfl⟩
theorem issues_srai (n : BitVec 6) (a : BitVec 7) (d : BitVec 7) : Issues (.srai n a d) := ⟨_, fun _ => rfl⟩
theorem issues_lih (v : BitVec 16) (d : BitVec 7) : Issues (.lih v d) := ⟨_, fun _ => rfl⟩
theorem issues_lihM (v : BitVec 16) (d : BitVec 7) : Issues (.lihM v d) := ⟨_, fun _ => rfl⟩
theorem issues_clz (a : BitVec 7) (d : BitVec 7) : Issues (.clz a d) := ⟨_, fun _ => rfl⟩
theorem issues_ctz (a : BitVec 7) (d : BitVec 7) : Issues (.ctz a d) := ⟨_, fun _ => rfl⟩
theorem issues_pop (a : BitVec 7) (d : BitVec 7) : Issues (.pop a d) := ⟨_, fun _ => rfl⟩
theorem issues_brev (a : BitVec 7) (d : BitVec 7) : Issues (.brev a d) := ⟨_, fun _ => rfl⟩
theorem issues_bext (b : BitVec 7) (a : BitVec 7) (d : BitVec 7) : Issues (.bext b a d) := ⟨_, fun _ => rfl⟩
theorem issues_bins (b : BitVec 7) (a : BitVec 7) (d : BitVec 7) : Issues (.bins b a d) := ⟨_, fun _ => rfl⟩
theorem issues_fcvt (r : BitVec 3) (t : BitVec 3) (sz : BitVec 3) (a : BitVec 7) (d : BitVec 7) : Issues (.fcvt r t sz a d) := ⟨_, fun _ => rfl⟩
theorem issues_sel (k : BitVec 3) (b : BitVec 7) (a : BitVec 7) (d : BitVec 7) : Issues (.sel k b a d) := ⟨_, fun _ => rfl⟩
theorem issues_pset (b : BitVec 7) (a : BitVec 7) (c : BitVec 4) (k : BitVec 3) : Issues (.pset b a c k) := ⟨_, fun _ => rfl⟩
theorem issues_fcmpHf (b : BitVec 7) (a : BitVec 7) (c : BitVec 4) (k : BitVec 3) : Issues (.fcmpHf b a c k) := ⟨_, fun _ => rfl⟩
theorem issues_fcmpBf (b : BitVec 7) (a : BitVec 7) (c : BitVec 4) (k : BitVec 3) : Issues (.fcmpBf b a c k) := ⟨_, fun _ => rfl⟩
theorem issues_fcmpS (b : BitVec 7) (a : BitVec 7) (c : BitVec 4) (k : BitVec 3) : Issues (.fcmpS b a c k) := ⟨_, fun _ => rfl⟩
theorem issues_fcmpD (b : BitVec 7) (a : BitVec 7) (c : BitVec 4) (k : BitVec 3) : Issues (.fcmpD b a c k) := ⟨_, fun _ => rfl⟩
theorem issues_pseti (i : BitVec 10) (a : BitVec 7) (c : BitVec 4) (k : BitVec 3) : Issues (.pseti i a c k) := ⟨_, fun _ => rfl⟩
theorem issues_plog (o : BitVec 2) (b : BitVec 3) (a : BitVec 3) (k : BitVec 3) : Issues (.plog o b a k) := ⟨_, fun _ => rfl⟩
theorem issues_pmovK (a : BitVec 7) (k : BitVec 3) : Issues (.pmovK a k) := ⟨_, fun _ => rfl⟩
theorem issues_pmovX (a : BitVec 3) (d : BitVec 7) : Issues (.pmovX a d) := ⟨_, fun _ => rfl⟩
theorem issues_faddHf (b : BitVec 7) (a : BitVec 7) (d : BitVec 7) : Issues (.faddHf b a d) := ⟨_, fun _ => rfl⟩
theorem issues_fsubHf (b : BitVec 7) (a : BitVec 7) (d : BitVec 7) : Issues (.fsubHf b a d) := ⟨_, fun _ => rfl⟩
theorem issues_fmulHf (b : BitVec 7) (a : BitVec 7) (d : BitVec 7) : Issues (.fmulHf b a d) := ⟨_, fun _ => rfl⟩
theorem issues_ffmaHf (b : BitVec 7) (a : BitVec 7) (d : BitVec 7) : Issues (.ffmaHf b a d) := ⟨_, fun _ => rfl⟩
theorem issues_fdivHf (b : BitVec 7) (a : BitVec 7) (d : BitVec 7) : Issues (.fdivHf b a d) := ⟨_, fun _ => rfl⟩
theorem issues_fminHf (b : BitVec 7) (a : BitVec 7) (d : BitVec 7) : Issues (.fminHf b a d) := ⟨_, fun _ => rfl⟩
theorem issues_fmaxHf (b : BitVec 7) (a : BitVec 7) (d : BitVec 7) : Issues (.fmaxHf b a d) := ⟨_, fun _ => rfl⟩
theorem issues_fsqrtHf (a : BitVec 7) (d : BitVec 7) : Issues (.fsqrtHf a d) := ⟨_, fun _ => rfl⟩
theorem issues_fclassHf (a : BitVec 7) (d : BitVec 7) : Issues (.fclassHf a d) := ⟨_, fun _ => rfl⟩
theorem issues_faddBf (b : BitVec 7) (a : BitVec 7) (d : BitVec 7) : Issues (.faddBf b a d) := ⟨_, fun _ => rfl⟩
theorem issues_fsubBf (b : BitVec 7) (a : BitVec 7) (d : BitVec 7) : Issues (.fsubBf b a d) := ⟨_, fun _ => rfl⟩
theorem issues_fmulBf (b : BitVec 7) (a : BitVec 7) (d : BitVec 7) : Issues (.fmulBf b a d) := ⟨_, fun _ => rfl⟩
theorem issues_ffmaBf (b : BitVec 7) (a : BitVec 7) (d : BitVec 7) : Issues (.ffmaBf b a d) := ⟨_, fun _ => rfl⟩
theorem issues_fdivBf (b : BitVec 7) (a : BitVec 7) (d : BitVec 7) : Issues (.fdivBf b a d) := ⟨_, fun _ => rfl⟩
theorem issues_fminBf (b : BitVec 7) (a : BitVec 7) (d : BitVec 7) : Issues (.fminBf b a d) := ⟨_, fun _ => rfl⟩
theorem issues_fmaxBf (b : BitVec 7) (a : BitVec 7) (d : BitVec 7) : Issues (.fmaxBf b a d) := ⟨_, fun _ => rfl⟩
theorem issues_fsqrtBf (a : BitVec 7) (d : BitVec 7) : Issues (.fsqrtBf a d) := ⟨_, fun _ => rfl⟩
theorem issues_fclassBf (a : BitVec 7) (d : BitVec 7) : Issues (.fclassBf a d) := ⟨_, fun _ => rfl⟩
theorem issues_faddS (b : BitVec 7) (a : BitVec 7) (d : BitVec 7) : Issues (.faddS b a d) := ⟨_, fun _ => rfl⟩
theorem issues_fsubS (b : BitVec 7) (a : BitVec 7) (d : BitVec 7) : Issues (.fsubS b a d) := ⟨_, fun _ => rfl⟩
theorem issues_fmulS (b : BitVec 7) (a : BitVec 7) (d : BitVec 7) : Issues (.fmulS b a d) := ⟨_, fun _ => rfl⟩
theorem issues_ffmaS (b : BitVec 7) (a : BitVec 7) (d : BitVec 7) : Issues (.ffmaS b a d) := ⟨_, fun _ => rfl⟩
theorem issues_fdivS (b : BitVec 7) (a : BitVec 7) (d : BitVec 7) : Issues (.fdivS b a d) := ⟨_, fun _ => rfl⟩
theorem issues_fminS (b : BitVec 7) (a : BitVec 7) (d : BitVec 7) : Issues (.fminS b a d) := ⟨_, fun _ => rfl⟩
theorem issues_fmaxS (b : BitVec 7) (a : BitVec 7) (d : BitVec 7) : Issues (.fmaxS b a d) := ⟨_, fun _ => rfl⟩
theorem issues_fsqrtS (a : BitVec 7) (d : BitVec 7) : Issues (.fsqrtS a d) := ⟨_, fun _ => rfl⟩
theorem issues_fclassS (a : BitVec 7) (d : BitVec 7) : Issues (.fclassS a d) := ⟨_, fun _ => rfl⟩
theorem issues_faddD (b : BitVec 7) (a : BitVec 7) (d : BitVec 7) : Issues (.faddD b a d) := ⟨_, fun _ => rfl⟩
theorem issues_fsubD (b : BitVec 7) (a : BitVec 7) (d : BitVec 7) : Issues (.fsubD b a d) := ⟨_, fun _ => rfl⟩
theorem issues_fmulD (b : BitVec 7) (a : BitVec 7) (d : BitVec 7) : Issues (.fmulD b a d) := ⟨_, fun _ => rfl⟩
theorem issues_ffmaD (b : BitVec 7) (a : BitVec 7) (d : BitVec 7) : Issues (.ffmaD b a d) := ⟨_, fun _ => rfl⟩
theorem issues_fdivD (b : BitVec 7) (a : BitVec 7) (d : BitVec 7) : Issues (.fdivD b a d) := ⟨_, fun _ => rfl⟩
theorem issues_fminD (b : BitVec 7) (a : BitVec 7) (d : BitVec 7) : Issues (.fminD b a d) := ⟨_, fun _ => rfl⟩
theorem issues_fmaxD (b : BitVec 7) (a : BitVec 7) (d : BitVec 7) : Issues (.fmaxD b a d) := ⟨_, fun _ => rfl⟩
theorem issues_fsqrtD (a : BitVec 7) (d : BitVec 7) : Issues (.fsqrtD a d) := ⟨_, fun _ => rfl⟩
theorem issues_fclassD (a : BitVec 7) (d : BitVec 7) : Issues (.fclassD a d) := ⟨_, fun _ => rfl⟩
theorem issues_vadd (sz : BitVec 2) (v : BitVec 1) (m : BitVec 3) (b : BitVec 5) (a : BitVec 5) (d : BitVec 5) : Issues (.vadd sz v m b a d) := ⟨_, fun _ => rfl⟩
theorem issues_vsub (sz : BitVec 2) (v : BitVec 1) (m : BitVec 3) (b : BitVec 5) (a : BitVec 5) (d : BitVec 5) : Issues (.vsub sz v m b a d) := ⟨_, fun _ => rfl⟩
theorem issues_vmul (sz : BitVec 2) (v : BitVec 1) (m : BitVec 3) (b : BitVec 5) (a : BitVec 5) (d : BitVec 5) : Issues (.vmul sz v m b a d) := ⟨_, fun _ => rfl⟩
theorem issues_vmulh (sz : BitVec 2) (v : BitVec 1) (m : BitVec 3) (b : BitVec 5) (a : BitVec 5) (d : BitVec 5) : Issues (.vmulh sz v m b a d) := ⟨_, fun _ => rfl⟩
theorem issues_vand (sz : BitVec 2) (v : BitVec 1) (m : BitVec 3) (b : BitVec 5) (a : BitVec 5) (d : BitVec 5) : Issues (.vand sz v m b a d) := ⟨_, fun _ => rfl⟩
theorem issues_vor (sz : BitVec 2) (v : BitVec 1) (m : BitVec 3) (b : BitVec 5) (a : BitVec 5) (d : BitVec 5) : Issues (.vor sz v m b a d) := ⟨_, fun _ => rfl⟩
theorem issues_vxor (sz : BitVec 2) (v : BitVec 1) (m : BitVec 3) (b : BitVec 5) (a : BitVec 5) (d : BitVec 5) : Issues (.vxor sz v m b a d) := ⟨_, fun _ => rfl⟩
theorem issues_vsll (sz : BitVec 2) (v : BitVec 1) (m : BitVec 3) (b : BitVec 5) (a : BitVec 5) (d : BitVec 5) : Issues (.vsll sz v m b a d) := ⟨_, fun _ => rfl⟩
theorem issues_vsrl (sz : BitVec 2) (v : BitVec 1) (m : BitVec 3) (b : BitVec 5) (a : BitVec 5) (d : BitVec 5) : Issues (.vsrl sz v m b a d) := ⟨_, fun _ => rfl⟩
theorem issues_vsra (sz : BitVec 2) (v : BitVec 1) (m : BitVec 3) (b : BitVec 5) (a : BitVec 5) (d : BitVec 5) : Issues (.vsra sz v m b a d) := ⟨_, fun _ => rfl⟩
theorem issues_vmin (sz : BitVec 2) (v : BitVec 1) (m : BitVec 3) (b : BitVec 5) (a : BitVec 5) (d : BitVec 5) : Issues (.vmin sz v m b a d) := ⟨_, fun _ => rfl⟩
theorem issues_vmax (sz : BitVec 2) (v : BitVec 1) (m : BitVec 3) (b : BitVec 5) (a : BitVec 5) (d : BitVec 5) : Issues (.vmax sz v m b a d) := ⟨_, fun _ => rfl⟩
theorem issues_vminu (sz : BitVec 2) (v : BitVec 1) (m : BitVec 3) (b : BitVec 5) (a : BitVec 5) (d : BitVec 5) : Issues (.vminu sz v m b a d) := ⟨_, fun _ => rfl⟩
theorem issues_vmaxu (sz : BitVec 2) (v : BitVec 1) (m : BitVec 3) (b : BitVec 5) (a : BitVec 5) (d : BitVec 5) : Issues (.vmaxu sz v m b a d) := ⟨_, fun _ => rfl⟩
theorem issues_vaddX (sz : BitVec 2) (m : BitVec 3) (b : BitVec 7) (a : BitVec 5) (d : BitVec 5) : Issues (.vaddX sz m b a d) := ⟨_, fun _ => rfl⟩
theorem issues_vsllX (sz : BitVec 2) (m : BitVec 3) (b : BitVec 7) (a : BitVec 5) (d : BitVec 5) : Issues (.vsllX sz m b a d) := ⟨_, fun _ => rfl⟩
theorem issues_vsrlX (sz : BitVec 2) (m : BitVec 3) (b : BitVec 7) (a : BitVec 5) (d : BitVec 5) : Issues (.vsrlX sz m b a d) := ⟨_, fun _ => rfl⟩
theorem issues_vsraX (sz : BitVec 2) (m : BitVec 3) (b : BitVec 7) (a : BitVec 5) (d : BitVec 5) : Issues (.vsraX sz m b a d) := ⟨_, fun _ => rfl⟩
theorem issues_vfadd (sz : BitVec 2) (v : BitVec 1) (m : BitVec 3) (b : BitVec 5) (a : BitVec 5) (d : BitVec 5) : Issues (.vfadd sz v m b a d) := ⟨_, fun _ => rfl⟩
theorem issues_vfsub (sz : BitVec 2) (v : BitVec 1) (m : BitVec 3) (b : BitVec 5) (a : BitVec 5) (d : BitVec 5) : Issues (.vfsub sz v m b a d) := ⟨_, fun _ => rfl⟩
theorem issues_vfmul (sz : BitVec 2) (v : BitVec 1) (m : BitVec 3) (b : BitVec 5) (a : BitVec 5) (d : BitVec 5) : Issues (.vfmul sz v m b a d) := ⟨_, fun _ => rfl⟩
theorem issues_vffma (sz : BitVec 2) (v : BitVec 1) (m : BitVec 3) (b : BitVec 5) (a : BitVec 5) (d : BitVec 5) : Issues (.vffma sz v m b a d) := ⟨_, fun _ => rfl⟩
theorem issues_vfmin (sz : BitVec 2) (v : BitVec 1) (m : BitVec 3) (b : BitVec 5) (a : BitVec 5) (d : BitVec 5) : Issues (.vfmin sz v m b a d) := ⟨_, fun _ => rfl⟩
theorem issues_vfmax (sz : BitVec 2) (v : BitVec 1) (m : BitVec 3) (b : BitVec 5) (a : BitVec 5) (d : BitVec 5) : Issues (.vfmax sz v m b a d) := ⟨_, fun _ => rfl⟩
theorem issues_vfdiv (sz : BitVec 2) (v : BitVec 1) (m : BitVec 3) (b : BitVec 5) (a : BitVec 5) (d : BitVec 5) : Issues (.vfdiv sz v m b a d) := ⟨_, fun _ => rfl⟩
theorem issues_vfsqrt (sz : BitVec 2) (v : BitVec 1) (m : BitVec 3) (a : BitVec 5) (d : BitVec 5) : Issues (.vfsqrt sz v m a d) := ⟨_, fun _ => rfl⟩
theorem issues_vfaddX (sz : BitVec 2) (m : BitVec 3) (b : BitVec 7) (a : BitVec 5) (d : BitVec 5) : Issues (.vfaddX sz m b a d) := ⟨_, fun _ => rfl⟩
theorem issues_vfmulX (sz : BitVec 2) (m : BitVec 3) (b : BitVec 7) (a : BitVec 5) (d : BitVec 5) : Issues (.vfmulX sz m b a d) := ⟨_, fun _ => rfl⟩
theorem issues_vffmaX (sz : BitVec 2) (m : BitVec 3) (b : BitVec 7) (a : BitVec 5) (d : BitVec 5) : Issues (.vffmaX sz m b a d) := ⟨_, fun _ => rfl⟩
theorem issues_vcmp (sz : BitVec 2) (c : BitVec 3) (m : BitVec 3) (b : BitVec 5) (a : BitVec 5) (k : BitVec 3) : Issues (.vcmp sz c m b a k) := ⟨_, fun _ => rfl⟩
theorem issues_vfcmp (sz : BitVec 2) (c : BitVec 3) (m : BitVec 3) (b : BitVec 5) (a : BitVec 5) (k : BitVec 3) : Issues (.vfcmp sz c m b a k) := ⟨_, fun _ => rfl⟩
theorem issues_vsel (sz : BitVec 2) (m : BitVec 3) (b : BitVec 5) (a : BitVec 5) (d : BitVec 5) : Issues (.vsel sz m b a d) := ⟨_, fun _ => rfl⟩
theorem issues_vperm (sz : BitVec 2) (m : BitVec 3) (b : BitVec 5) (a : BitVec 5) (d : BitVec 5) : Issues (.vperm sz m b a d) := ⟨_, fun _ => rfl⟩
theorem issues_vcomp (sz : BitVec 2) (m : BitVec 3) (a : BitVec 5) (d : BitVec 5) : Issues (.vcomp sz m a d) := ⟨_, fun _ => rfl⟩
theorem issues_vbcast (sz : BitVec 2) (m : BitVec 3) (b : BitVec 7) (d : BitVec 5) : Issues (.vbcast sz m b d) := ⟨_, fun _ => rfl⟩
theorem issues_vslide (sz : BitVec 2) (m : BitVec 3) (b : BitVec 7) (a : BitVec 5) (d : BitVec 5) : Issues (.vslide sz m b a d) := ⟨_, fun _ => rfl⟩
theorem issues_vext (sz : BitVec 2) (b : BitVec 7) (a : BitVec 5) (d : BitVec 7) : Issues (.vext sz b a d) := ⟨_, fun _ => rfl⟩
theorem issues_vcvt (r : BitVec 3) (t : BitVec 3) (m : BitVec 3) (v : BitVec 1) (sz : BitVec 4) (a : BitVec 5) (d : BitVec 5) : Issues (.vcvt r t m v sz a d) := ⟨_, fun _ => rfl⟩
theorem issues_vcvtNarrow (r : BitVec 3) (t : BitVec 3) (m : BitVec 3) (v : BitVec 1) (sz : BitVec 4) (a : BitVec 5) (d : BitVec 5) : Issues (.vcvtNarrow r t m v sz a d) := ⟨_, fun _ => rfl⟩
theorem issues_vcvtSr (t : BitVec 4) (sz : BitVec 2) (m : BitVec 3) (b : BitVec 5) (a : BitVec 5) (d : BitVec 5) : Issues (.vcvtSr t sz m b a d) := ⟨_, fun _ => rfl⟩
theorem issues_vred (sz : BitVec 2) (o : BitVec 3) (m : BitVec 3) (a : BitVec 5) (d : BitVec 5) : Issues (.vred sz o m a d) := ⟨_, fun _ => rfl⟩
theorem issues_vscan (sz : BitVec 2) (o : BitVec 3) (m : BitVec 3) (a : BitVec 5) (d : BitVec 5) : Issues (.vscan sz o m a d) := ⟨_, fun _ => rfl⟩
theorem issues_vexp2 (sz : BitVec 2) (m : BitVec 3) (a : BitVec 5) (d : BitVec 5) : Issues (.vexp2 sz m a d) := ⟨_, fun _ => rfl⟩
theorem issues_vlog2 (sz : BitVec 2) (m : BitVec 3) (a : BitVec 5) (d : BitVec 5) : Issues (.vlog2 sz m a d) := ⟨_, fun _ => rfl⟩
theorem issues_vrcp (sz : BitVec 2) (m : BitVec 3) (a : BitVec 5) (d : BitVec 5) : Issues (.vrcp sz m a d) := ⟨_, fun _ => rfl⟩
theorem issues_vrsqrt (sz : BitVec 2) (m : BitVec 3) (a : BitVec 5) (d : BitVec 5) : Issues (.vrsqrt sz m a d) := ⟨_, fun _ => rfl⟩
theorem issues_vsin (sz : BitVec 2) (m : BitVec 3) (a : BitVec 5) (d : BitVec 5) : Issues (.vsin sz m a d) := ⟨_, fun _ => rfl⟩
theorem issues_vcos (sz : BitVec 2) (m : BitVec 3) (a : BitVec 5) (d : BitVec 5) : Issues (.vcos sz m a d) := ⟨_, fun _ => rfl⟩
theorem issues_vrng (m : BitVec 3) (b : BitVec 7) (a : BitVec 5) (d : BitVec 5) : Issues (.vrng m b a d) := ⟨_, fun _ => rfl⟩
theorem issues_vclaim (a : BitVec 7) (d : BitVec 7) : Issues (.vclaim a d) := ⟨_, fun _ => rfl⟩
theorem issues_vrenew (a : BitVec 7) (d : BitVec 7) : Issues (.vrenew a d) := ⟨_, fun _ => rfl⟩
theorem issues_vrel : Issues (.vrel) := ⟨_, fun _ => rfl⟩
theorem issues_vlen (sz : BitVec 2) (d : BitVec 7) : Issues (.vlen sz d) := ⟨_, fun _ => rfl⟩
theorem issues_mma (f : BitVec 3) (b : BitVec 7) (a : BitVec 7) (d : BitVec 7) : Issues (.mma f b a d) := ⟨_, fun _ => rfl⟩
theorem issues_mmaNarrow (f : BitVec 3) (b : BitVec 7) (a : BitVec 7) (d : BitVec 7) : Issues (.mmaNarrow f b a d) := ⟨_, fun _ => rfl⟩
theorem issues_mmode (a : BitVec 7) : Issues (.mmode a) := ⟨_, fun _ => rfl⟩
theorem issues_mscale (b : BitVec 7) (a : BitVec 7) : Issues (.mscale b a) := ⟨_, fun _ => rfl⟩
theorem issues_mbar : Issues (.mbar) := ⟨_, fun _ => rfl⟩
theorem issues_mld (b : BitVec 7) (a : BitVec 7) (d : BitVec 7) : Issues (.mld b a d) := ⟨_, fun _ => rfl⟩
theorem issues_mst (b : BitVec 7) (a : BitVec 7) (d : BitVec 7) : Issues (.mst b a d) := ⟨_, fun _ => rfl⟩
theorem issues_mrd (b : BitVec 7) (a : BitVec 7) (d : BitVec 7) : Issues (.mrd b a d) := ⟨_, fun _ => rfl⟩
theorem issues_mzero (d : BitVec 7) : Issues (.mzero d) := ⟨_, fun _ => rfl⟩
theorem issues_mdrain (f : BitVec 3) (a : BitVec 7) (d : BitVec 7) : Issues (.mdrain f a d) := ⟨_, fun _ => rfl⟩
theorem issues_mtrans (a : BitVec 7) (d : BitVec 7) : Issues (.mtrans a d) := ⟨_, fun _ => rfl⟩
theorem issues_mcpy (a : BitVec 7) (d : BitVec 7) : Issues (.mcpy a d) := ⟨_, fun _ => rfl⟩
theorem exec_issues (i : Instr) (h : (encode i 1).isSome = true) : Issues i := by
  cases i
  case ld => apply issues_ld
  case ldz => apply issues_ldz
  case st => apply issues_st
  case ldx => apply issues_ldx
  case stx => apply issues_stx
  case ldm => apply issues_ldm
  case stm => apply issues_stm
  case ldk => apply issues_ldk
  case pf => apply issues_pf
  case amo => apply issues_amo
  case amoE => apply issues_amoE
  case amof => apply issues_amof
  case amofE => apply issues_amofE
  case cas => apply issues_cas
  case qres => apply issues_qres
  case qrel => apply issues_qrel
  case br => apply issues_br
  case jmp => apply issues_jmp
  case brEnd => apply issues_brEnd
  case jal => apply issues_jal
  case jalr => apply issues_jalr
  case loop => apply issues_loop
  case sopen => apply issues_sopen
  case sclose => apply issues_sclose
  case sseek => apply issues_sseek
  case spos => apply issues_spos
  case fence => apply issues_fence
  case fenceE => apply issues_fenceE
  case wait => apply issues_wait
  case mona => apply issues_mona
  case monw => apply issues_monw
  case watch => apply issues_watch
  case wsleep => apply issues_wsleep
  case cut => apply issues_cut
  case direct => apply issues_direct
  case resume => apply issues_resume
  case lock => apply issues_lock
  case unlock => apply issues_unlock
  case clean => apply issues_clean
  case inval => apply issues_inval
  case iflush => apply issues_iflush
  case isync => apply issues_isync
  case vld => apply issues_vld
  case vst => apply issues_vst
  case vlds => apply issues_vlds
  case vsts => apply issues_vsts
  case vgat => apply issues_vgat
  case vsct => apply issues_vsct
  case cpy => apply issues_cpy
  case cpyw => apply issues_cpyw
  case msend => apply issues_msend
  case chbind => apply issues_chbind
  case chunbind => apply issues_chunbind
  case redcfg => apply issues_redcfg
  case redc => apply issues_redc
  case tspawn => apply issues_tspawn
  case tkey => apply issues_tkey
  case fork => apply issues_fork
  case join => apply issues_join
  case rqput => apply issues_rqput
  case rqtake => apply issues_rqtake
  case tmset => apply issues_tmset
  case sstart => apply issues_sstart
  case sstop => apply issues_sstop
  case exit => apply issues_exit
  case trap => apply issues_trap
  case wfi => apply issues_wfi
  case brk => apply issues_brk
  case eret => apply issues_eret
  case hcall => apply issues_hcall
  case csrr => apply issues_csrr
  case csrw => apply issues_csrw
  case rdc => apply issues_rdc
  case hint => apply issues_hint
  case add => apply issues_add
  case sub => apply issues_sub
  case and => apply issues_and
  case or => apply issues_or
  case xor => apply issues_xor
  case andn => apply issues_andn
  case sll => apply issues_sll
  case srl => apply issues_srl
  case sra => apply issues_sra
  case rol => apply issues_rol
  case min => apply issues_min
  case max => apply issues_max
  case minu => apply issues_minu
  case maxu => apply issues_maxu
  case mulh => apply issues_mulh
  case mulhu => apply issues_mulhu
  case mul => apply issues_mul
  case div => apply issues_div
  case divu => apply issues_divu
  case rem => apply issues_rem
  case remu => apply issues_remu
  case leaS1 => apply issues_leaS1
  case leaS2 => apply issues_leaS2
  case leaS3 => apply issues_leaS3
  case addi => apply issues_addi
  case andi => apply issues_andi
  case ori => apply issues_ori
  case xori => apply issues_xori
  case slli => apply issues_slli
  case srli => apply issues_srli
  case srai => apply issues_srai
  case lih => apply issues_lih
  case lihM => apply issues_lihM
  case clz => apply issues_clz
  case ctz => apply issues_ctz
  case pop => apply issues_pop
  case brev => apply issues_brev
  case bext => apply issues_bext
  case bins => apply issues_bins
  case fcvt => apply issues_fcvt
  case sel => apply issues_sel
  case pset => apply issues_pset
  case fcmpHf => apply issues_fcmpHf
  case fcmpBf => apply issues_fcmpBf
  case fcmpS => apply issues_fcmpS
  case fcmpD => apply issues_fcmpD
  case pseti => apply issues_pseti
  case plog => apply issues_plog
  case pmovK => apply issues_pmovK
  case pmovX => apply issues_pmovX
  case faddHf => apply issues_faddHf
  case fsubHf => apply issues_fsubHf
  case fmulHf => apply issues_fmulHf
  case ffmaHf => apply issues_ffmaHf
  case fdivHf => apply issues_fdivHf
  case fminHf => apply issues_fminHf
  case fmaxHf => apply issues_fmaxHf
  case fsqrtHf => apply issues_fsqrtHf
  case fclassHf => apply issues_fclassHf
  case faddBf => apply issues_faddBf
  case fsubBf => apply issues_fsubBf
  case fmulBf => apply issues_fmulBf
  case ffmaBf => apply issues_ffmaBf
  case fdivBf => apply issues_fdivBf
  case fminBf => apply issues_fminBf
  case fmaxBf => apply issues_fmaxBf
  case fsqrtBf => apply issues_fsqrtBf
  case fclassBf => apply issues_fclassBf
  case faddS => apply issues_faddS
  case fsubS => apply issues_fsubS
  case fmulS => apply issues_fmulS
  case ffmaS => apply issues_ffmaS
  case fdivS => apply issues_fdivS
  case fminS => apply issues_fminS
  case fmaxS => apply issues_fmaxS
  case fsqrtS => apply issues_fsqrtS
  case fclassS => apply issues_fclassS
  case faddD => apply issues_faddD
  case fsubD => apply issues_fsubD
  case fmulD => apply issues_fmulD
  case ffmaD => apply issues_ffmaD
  case fdivD => apply issues_fdivD
  case fminD => apply issues_fminD
  case fmaxD => apply issues_fmaxD
  case fsqrtD => apply issues_fsqrtD
  case fclassD => apply issues_fclassD
  case vadd => apply issues_vadd
  case vsub => apply issues_vsub
  case vmul => apply issues_vmul
  case vmulh => apply issues_vmulh
  case vand => apply issues_vand
  case vor => apply issues_vor
  case vxor => apply issues_vxor
  case vsll => apply issues_vsll
  case vsrl => apply issues_vsrl
  case vsra => apply issues_vsra
  case vmin => apply issues_vmin
  case vmax => apply issues_vmax
  case vminu => apply issues_vminu
  case vmaxu => apply issues_vmaxu
  case vaddX => apply issues_vaddX
  case vsllX => apply issues_vsllX
  case vsrlX => apply issues_vsrlX
  case vsraX => apply issues_vsraX
  case vfadd => apply issues_vfadd
  case vfsub => apply issues_vfsub
  case vfmul => apply issues_vfmul
  case vffma => apply issues_vffma
  case vfmin => apply issues_vfmin
  case vfmax => apply issues_vfmax
  case vfdiv => apply issues_vfdiv
  case vfsqrt => apply issues_vfsqrt
  case vfaddX => apply issues_vfaddX
  case vfmulX => apply issues_vfmulX
  case vffmaX => apply issues_vffmaX
  case vcmp => apply issues_vcmp
  case vfcmp => apply issues_vfcmp
  case vsel => apply issues_vsel
  case vperm => apply issues_vperm
  case vcomp => apply issues_vcomp
  case vbcast => apply issues_vbcast
  case vslide => apply issues_vslide
  case vext => apply issues_vext
  case vcvt => apply issues_vcvt
  case vcvtNarrow => apply issues_vcvtNarrow
  case vcvtSr => apply issues_vcvtSr
  case vred => apply issues_vred
  case vscan => apply issues_vscan
  case vexp2 => apply issues_vexp2
  case vlog2 => apply issues_vlog2
  case vrcp => apply issues_vrcp
  case vrsqrt => apply issues_vrsqrt
  case vsin => apply issues_vsin
  case vcos => apply issues_vcos
  case vrng => apply issues_vrng
  case vclaim => apply issues_vclaim
  case vrenew => apply issues_vrenew
  case vrel => apply issues_vrel
  case vlen => apply issues_vlen
  case mma => apply issues_mma
  case mmaNarrow => apply issues_mmaNarrow
  case mmode => apply issues_mmode
  case mscale => apply issues_mscale
  case mbar => apply issues_mbar
  case mld => apply issues_mld
  case mst => apply issues_mst
  case mrd => apply issues_mrd
  case mzero => apply issues_mzero
  case mdrain => apply issues_mdrain
  case mtrans => apply issues_mtrans
  case mcpy => apply issues_mcpy
  case interruptTaken => exact Bool.noConfusion h
  case timerExpiry => exact Bool.noConfusion h
  case chunkEndChunkmax => exact Bool.noConfusion h
  case chunkCutCycles => exact Bool.noConfusion h
  case commitRequest => exact Bool.noConfusion h
  case commitGrant => exact Bool.noConfusion h
  case grantArrival => exact Bool.noConfusion h
  case sig => exact Bool.noConfusion h
  case directFallback => exact Bool.noConfusion h
  case engineChunkGrant => exact Bool.noConfusion h
  case copyComplete => exact Bool.noConfusion h
  case combiningRelease => exact Bool.noConfusion h
  case reads => exact Bool.noConfusion h
  case readm => exact Bool.noConfusion h
  case fwd => exact Bool.noConfusion h
  case data => exact Bool.noConfusion h
  case wback => exact Bool.noConfusion h
  case ack => exact Bool.noConfusion h
  case inv => exact Bool.noConfusion h
  case binv => exact Bool.noConfusion h
  case remoteStoreMessage => exact Bool.noConfusion h
  case loadDataReturn => exact Bool.noConfusion h
  case storeGloballyPerformed => exact Bool.noConfusion h
  case streamPrefetchArrival => exact Bool.noConfusion h
  case messageArrival => exact Bool.noConfusion h
  case fullReply => exact Bool.noConfusion h
  case messageResend => exact Bool.noConfusion h
  case messageRefusal => exact Bool.noConfusion h
  case qresHead => exact Bool.noConfusion h
  case qrelAck => exact Bool.noConfusion h
  case edgeAtomicAtHome => exact Bool.noConfusion h
  case edgeAtomicResponse => exact Bool.noConfusion h
  case edgeWriteAck => exact Bool.noConfusion h
  case edgeWriteRefused => exact Bool.noConfusion h
  case monwTimeout => exact Bool.noConfusion h
  case wsleepTimeout => exact Bool.noConfusion h
  case matrixCommandAccept => exact Bool.noConfusion h
  case matrixCommandComplete => exact Bool.noConfusion h
  case reductionRoundDeliver => exact Bool.noConfusion h
  case childStart => exact Bool.noConfusion h
  case taskStart => exact Bool.noConfusion h
  case passedOverEntry => exact Bool.noConfusion h
  case queueNotify => exact Bool.noConfusion h
  case launchStart => exact Bool.noConfusion h
  case coreGroupStart => exact Bool.noConfusion h
  case launchComplete => exact Bool.noConfusion h
  case errorDetected => exact Bool.noConfusion h
  case linkFlitError => exact Bool.noConfusion h
  case heathwayPortFailure => exact Bool.noConfusion h
  case accessCounterThreshold => exact Bool.noConfusion h
  case regionMoveComplete => exact Bool.noConfusion h
  case cxlMemRead => exact Bool.noConfusion h
  case cxlMemWrite => exact Bool.noConfusion h
  case cxlCacheSnoop => exact Bool.noConfusion h
  case packageReset => exact Bool.noConfusion h
  case hentry => exact Bool.noConfusion h
  case functionLevelReset => exact Bool.noConfusion h
  case throttleStart => exact Bool.noConfusion h
  case throttleEnd => exact Bool.noConfusion h
  case thermalReset => exact Bool.noConfusion h
  case dbgen => exact Bool.noConfusion h
  case bpset => exact Bool.noConfusion h
  case halt => exact Bool.noConfusion h
  case step => exact Bool.noConfusion h
  case debugResume => exact Bool.noConfusion h
  case debugRead => exact Bool.noConfusion h
  case debugWrite => exact Bool.noConfusion h
  case samplingPulse => exact Bool.noConfusion h
  case counterConfig => exact Bool.noConfusion h
  case snap => exact Bool.noConfusion h
  case traceConfig => exact Bool.noConfusion h
  case trptr => exact Bool.noConfusion h
  case tclaim => exact Bool.noConfusion h
  case drainRequest => exact Bool.noConfusion h
  case registerWrite => exact Bool.noConfusion h
  case vset => exact Bool.noConfusion h
  case hset => exact Bool.noConfusion h
  case contain => exact Bool.noConfusion h
  case drain => exact Bool.noConfusion h
  case trace => exact Bool.noConfusion h
  case bstop => exact Bool.noConfusion h
  case baleFreeze => exact Bool.noConfusion h
  case baleStreamOutEnd => exact Bool.noConfusion h
  case brest => exact Bool.noConfusion h
  case hover => exact Bool.noConfusion h
  case slotHandover => exact Bool.noConfusion h
  case handoverResume => exact Bool.noConfusion h
  case scrubComplete => exact Bool.noConfusion h
  case precopy => exact Bool.noConfusion h
  case stopping => exact Bool.noConfusion h
  case abort => exact Bool.noConfusion h
  case resuming => exact Bool.noConfusion h
  case migrationStopped => exact Bool.noConfusion h
  case mackRelease => exact Bool.noConfusion h
  case mackSubmit => exact Bool.noConfusion h
  case pullall => exact Bool.noConfusion h
  case pull => exact Bool.noConfusion h
  case pullData => exact Bool.noConfusion h
  case started => exact Bool.noConfusion h
  case done => exact Bool.noConfusion h
  case remap => exact Bool.noConfusion h
  case remapack => exact Bool.noConfusion h
  case fwdend => exact Bool.noConfusion h
  case peerAccessArrival => exact Bool.noConfusion h
  case baleStreamInEnd => exact Bool.noConfusion h
  case mbPset => exact Bool.noConfusion h
  case mbPlog => exact Bool.noConfusion h
end Sys2Proof.Machine
end

