-- ==== Sys2Proof/Laws/Perform.lean ====
section
/-!
SUPPORT. Performing effects: which fields of the state it can change, and that memory keeps its canonical form (R236, R247, R408).
-/

namespace Sys2Proof.Machine

/-- What performing effects can lead to: memory, poison, peer memory, the threads (monitors, watch bits, edge writes on their way),
shared registers, trace records not yet written, stores and edge writes on their way, copies in caches and what is on its way about them, cached translations,
signatures, and what the write sets going; memory stays canonical. -/
structure State.Wrote (s t : State) : Prop where
  same : t = { s with
    mem := t.mem, poison := t.poison, peer := t.peer, threads := t.threads, gregs := t.gregs, gregHist := t.gregHist
    remotes := t.remotes, dirs := t.dirs, coh := t.coh, l1 := t.l1, hostPart := t.hostPart, hostLines := t.hostLines
    hostInval := t.hostInval, globals := t.globals, outbox := t.outbox
    edges := t.edges, fresh := t.fresh, sigs := t.sigs, stops := t.stops, mb := t.mb, agenda := t.agenda
    watches := t.watches, traced := t.traced }
  canon : s.Canonical → t.Canonical

theorem State.Wrote.refl (s : State) : s.Wrote s := ⟨rfl, id⟩

theorem State.Wrote.trans {s t u : State} (h : s.Wrote t) (g : t.Wrote u) : s.Wrote u :=
  ⟨by rw [g.same, h.same], fun c => g.canon (h.canon c)⟩

theorem State.Wrote.foldl {β : Type} {f : State → β → State} (hf : ∀ (s : State) (b : β), s.Wrote (f s b)) (l : List β) :
    ∀ s : State, s.Wrote (l.foldl f s) := by
  induction l with
  | nil => exact fun s => State.Wrote.refl s
  | cons b l ih => exact fun s => (hf s b).trans (ih _)

/-- A change of the listed fields that leaves memory alone. -/
theorem State.Wrote.of_same {s t : State} (h : t = { s with
    poison := t.poison, threads := t.threads, gregs := t.gregs, gregHist := t.gregHist
    remotes := t.remotes, dirs := t.dirs, coh := t.coh, l1 := t.l1, hostPart := t.hostPart, hostLines := t.hostLines
    hostInval := t.hostInval, globals := t.globals, outbox := t.outbox
    edges := t.edges, fresh := t.fresh, sigs := t.sigs, stops := t.stops, mb := t.mb, agenda := t.agenda
    watches := t.watches, traced := t.traced }) : s.Wrote t := by
  have hm : t.mem = s.mem := by rw [h]
  have hp : t.peer = s.peer := by rw [h]
  refine ⟨?_, fun c => ?_⟩
  · rw [hm, hp]; exact h
  · unfold State.Canonical; rw [hm, hp]; exact c

theorem State.wrote_setByte (s : State) (pa : Nat) (b : Byte) : s.Wrote (s.setByte pa b) :=
  ⟨by unfold State.setByte; split <;> rfl, State.mwf_setByte s pa b⟩

theorem State.wrote_setBytes (bs : List Byte) : ∀ (s : State) (pa : Nat), s.Wrote (s.setBytes pa bs) := by
  induction bs with
  | nil => exact fun s _ => State.Wrote.refl s
  | cons b bs ih => exact fun s pa => (s.wrote_setByte pa b).trans (ih _ _)

theorem State.wrote_setPoison (s : State) (d : Nat) (p : Bool) : s.Wrote (s.setPoison d p) := .of_same rfl
theorem State.wrote_setThread (s : State) (gs : Nat) (t : Thread) : s.Wrote (s.setThread gs t) := .of_same rfl
theorem State.wrote_ring (s : State) (a : Act) : s.Wrote (s.ring a) := .of_same rfl
theorem State.wrote_mapThreads (s : State) (f : Nat → Thread → Thread) : s.Wrote (s.mapThreads f) := .of_same rfl

theorem State.wrote_clearPoison (s : State) (pa n : Nat) : s.Wrote (s.clearPoison pa n) :=
  .foldl (fun s _ => by split; exacts [s.wrote_setPoison _ _, .refl s]) _ s

theorem State.wrote_wakeWatch (src : Option Nat) (s : State) (d : Nat) : s.Wrote (s.wakeWatch src d) := by
  unfold State.wakeWatch
  split
  · exact .refl s
  · split
    · exact .refl s
    · exact .of_same rfl

/-- A conditional change is one of the two. -/
theorem State.Wrote.ite {s t u : State} {c : Prop} [Decidable c] (h : s.Wrote t) (g : s.Wrote u) : s.Wrote (if c then t else u) := by
  split; exacts [h, g]

theorem State.wrote_obsBells (s : State) (blk base pa n : Nat) : s.Wrote (s.obsBells blk base pa n) := by
  unfold State.obsBells
  dsimp only
  refine .ite (.refl s) ?_
  have h1 := State.Wrote.foldl (f := fun (s : State) i =>
    if reaches pa n (base + 8 * i) then s.ring (.config blk i (s.dwordAt (base + 8 * i))) else s)
    (fun s _ => .ite (s.wrote_ring _) (.refl s)) (List.range 16) s
  have h2 (t : State) (h : s.Wrote t) : s.Wrote (if reaches pa n (base + 0x110) then t.zeroTrace base (reaches pa n (base + 0x130)) else t) :=
    .ite (h.trans (State.wrote_setBytes _ _ _)) h
  exact h2 _ (.ite (h1.trans (State.wrote_ring _ _)) h1)

theorem State.wrote_ctlBells (s : State) (vf base pa n : Nat) : s.Wrote (s.ctlBells vf base pa n) := by
  unfold State.ctlBells
  dsimp only
  refine .ite (.refl s) ?_
  refine .ite (.trans ?_ (State.wrote_ring _ _)) ?_
  all_goals
    refine .ite (.trans ?_ (State.wrote_ring _ _)) ?_
    all_goals exact .ite (s.wrote_ring _) (.refl s)

theorem State.wrote_migBells (s : State) (vf : Nat) (v : VFunc) (pa n : Nat) : s.Wrote (s.migBells vf v pa n) := by
  unfold State.migBells
  dsimp only
  refine .ite (.refl s) ?_
  have h0 : s.Wrote ((dwordsOf pa n).foldl (fun (t : State) d =>
      if s.migBase vf ≤ 8 * d ∧ 8 * d < s.migBase vf + 0x10000 then
        t.setBytes (8 * d) (leBytes 8 (t.migWord vf v (8 * d - s.migBase vf) (t.dwordAt (8 * d))).toNat)
      else t) s) := .foldl (fun s _ => .ite (State.wrote_setBytes _ s _) (.refl s)) _ s
  have h2 (s1 : State) (h : s.Wrote s1) : s.Wrote (if reaches pa n (s.migBase vf) then
        match bits (s1.dwordAt (s.migBase vf)) 2 0 with
        | 1 => s1.ring (.precopy vf)
        | 2 => s1.ring (.stopping vf)
        | 4 => s1.ring (.resuming vf)
        | _ => s1.ring (.abort vf)
      else s1) := by
    refine .ite ?_ h
    split <;> exact h.trans (State.wrote_ring _ _)
  have h3 := h2 _ h0
  refine .ite (.trans ?_ (State.wrote_ring _ _)) ?_
  all_goals exact .ite (h3.trans (State.wrote_ring _ _)) h3

theorem State.wrote_bareBells (s : State) (pa n : Nat) : s.Wrote (s.bareBells pa n) :=
  .ite (s.wrote_migBells _ _ _ _) (.refl s)

theorem State.wrote_bells (s : State) (pa n : Nat) : s.Wrote (s.bells pa n) := by
  unfold State.bells
  dsimp only
  have h1 : s.Wrote (if reaches pa n (s.ctb + 0x80) then { s with mb := { s.mb with bell := true } } else s) :=
    .ite (.of_same rfl) (.refl s)
  have h2 (t : State) (h : s.Wrote t) : s.Wrote ((t.obsBells 256 (t.ctb + 0x400) pa n).bareBells pa n) :=
    (h.trans (State.wrote_obsBells _ _ _ _ _)).trans (State.wrote_bareBells _ _ _)
  refine (h2 _ h1).trans ?_
  exact .foldl (fun s _ => ((s.wrote_ctlBells _ _ _ _).trans (State.wrote_obsBells _ _ _ _ _)).trans (State.wrote_migBells _ _ _ _ _)) _ _

theorem State.wrote_dropGlobals (s : State) (ls : List Nat) : s.Wrote (s.dropGlobals ls) := .ite (.refl s) (.of_same rfl)

/-- What follows a write of memory. -/
theorem State.wrote_touched (s : State) (src : Option Nat) (pa n : Nat) : s.Wrote (s.touched src pa n) := by
  unfold State.touched
  dsimp only
  refine .trans ?_ (State.wrote_bells _ _ _)
  have h := (s.wrote_dropGlobals (linesOf pa n)).trans (State.wrote_mapThreads _ (fun _ t => t.hitLines (linesOf pa n)))
  exact .ite (h.trans (.foldl (fun s _ => s.wrote_wakeWatch _ _) _ _)) h

/-- A write of memory with what follows it. -/
theorem State.wrote_store (src : Option Nat) (s : State) (pa : Nat) (bs : List Byte) : s.Wrote (State.store src s pa bs) :=
  ((State.wrote_setBytes bs s pa).trans (State.wrote_clearPoison _ _ _)).trans (State.wrote_touched _ _ _ _)

theorem State.wrote_perform (src : Option Nat) (s : State) (e : Eff) : s.Wrote (State.perform src s e) := by
  cases e with
  | write pa bs => exact State.wrote_store src s pa bs
  | greg k v => exact .of_same rfl
  | remote pa bs => exact .of_same rfl
  | edge a bs => exact .ite (.refl s) (State.wrote_store src s a bs)

/-! Copies in caches, and the messages about them (R266 to R272). -/

theorem State.wrote_setDir (s : State) (line : Nat) (d : List Moesi) : s.Wrote (s.setDir line d) := .of_same rfl
theorem State.wrote_setDie (s : State) (line die : Nat) (x : Moesi) : s.Wrote (s.setDie line die x) := .of_same rfl
theorem State.wrote_cohSend (s : State) (k : CohKind) (die line : Nat) : s.Wrote (s.cohSend k die line) := .of_same rfl
theorem State.wrote_cohTake (s : State) (k : CohKind) (die line : Nat) : s.Wrote (s.cohTake k die line) := .of_same rfl
theorem State.wrote_l1Drop (s : State) (die line : Nat) : s.Wrote (s.l1Drop die line) := .ite (.refl s) (.of_same rfl)
theorem State.wrote_l1Add (s : State) (gc line : Nat) : s.Wrote (s.l1Add gc line) := .ite (.refl s) (.of_same rfl)

theorem State.wrote_hostPart (s : State) (m : Map (Option Nat)) : s.Wrote { s with hostPart := m } := .of_same rfl

theorem State.wrote_evict (s : State) (die line : Nat) : s.Wrote (s.evict die line) := by
  unfold State.evict
  dsimp only
  have h := (s.wrote_setDie line die .i).trans (State.wrote_l1Drop _ die line)
  exact .ite (.refl s) (.ite (h.trans (State.wrote_cohSend _ _ _ _)) h)

theorem State.wrote_place (s : State) (die line : Nat) (x : Moesi) : s.Wrote (s.place die line x) := by
  unfold State.place
  dsimp only
  refine .ite (s.wrote_setDie _ _ _) ?_
  split
  · exact (s.wrote_setDie _ _ _).trans (State.wrote_evict _ _ _)
  · exact s.wrote_setDie _ _ _

theorem State.wrote_doReads (s : State) (die line : Nat) : s.Wrote (s.doReads die line) := by
  unfold State.doReads
  dsimp only
  refine .ite (.refl s) (.ite (s.wrote_cohTake _ _ _) ?_)
  split <;> exact (s.wrote_cohTake _ _ _).trans (State.wrote_cohSend _ _ _ _)

theorem State.wrote_doReadm (s : State) (die line : Nat) : s.Wrote (s.doReadm die line) := by
  unfold State.doReadm
  dsimp only
  have h := s.wrote_cohTake .readm die line
  refine .ite (.refl s) (.ite h (.ite (h.trans (State.wrote_cohSend _ _ _ _)) ?_))
  exact (h.trans (State.wrote_cohSend _ .getm die line)).trans (.foldl (fun s _ => s.wrote_cohSend _ _ _) _ _)

theorem State.wrote_doFwd (s : State) (owner die line : Nat) : s.Wrote (s.doFwd owner die line) :=
  .ite (((s.wrote_cohTake _ _ _).trans (State.wrote_cohSend _ _ _ _)).trans (State.wrote_setDie _ _ _ _)) (.refl s)

theorem State.wrote_doData (s : State) (die line : Nat) : s.Wrote (s.doData die line) := by
  unfold State.doData
  split
  · split
    · exact (s.wrote_cohTake _ _ _).trans (State.wrote_place _ _ _ _)
    · exact .refl s
  · exact .refl s

theorem State.wrote_cohSettle (s : State) (line : Nat) : s.Wrote (s.cohSettle line) := by
  unfold State.cohSettle
  refine .ite (.refl s) ?_
  split
  · exact (s.wrote_cohTake _ _ _).trans (State.wrote_cohSend _ _ _ _)
  · exact .refl s

theorem State.wrote_doInv (s : State) (die line : Nat) : s.Wrote (s.doInv die line) :=
  .ite ((((s.wrote_cohTake _ _ _).trans (State.wrote_setDie _ _ _ _)).trans (State.wrote_l1Drop _ _ _)).trans
    (State.wrote_cohSend _ _ _ _)) (.refl s)

theorem State.wrote_doAck (s : State) (die line : Nat) : s.Wrote (s.doAck die line) :=
  .ite ((s.wrote_cohTake _ _ _).trans (State.wrote_cohSettle _ _)) (.refl s)

theorem State.wrote_recallCopy (s : State) (die line : Nat) : s.Wrote (s.recallCopy die line) :=
  ((s.wrote_setDie _ _ _).trans (State.wrote_l1Drop _ _ _)).trans (State.wrote_cohSend _ _ _ _)

theorem State.wrote_doBinv (s : State) (die line : Nat) : s.Wrote (s.doBinv die line) :=
  .ite ((s.wrote_cohTake _ _ _).trans (State.wrote_recallCopy _ _ _)) (.ite (.refl s)
    ((State.Wrote.foldl (fun s _ => s.wrote_cohSend _ _ _) _ s).trans (State.wrote_recallCopy _ _ _)))

theorem State.wrote_hostMoves (s : State) (src dst line : Nat) : s.Wrote (s.hostMoves src dst line) :=
  .ite (s.wrote_hostPart _) (.refl s)

theorem State.wrote_doWback (s : State) (die line : Nat) : s.Wrote (s.doWback die line) :=
  .ite ((((s.wrote_cohTake _ _ _).trans (State.wrote_hostMoves _ _ _ _)).trans (State.wrote_place _ _ _ _)).trans
    (State.wrote_cohSend _ _ _ _)) (.refl s)

/-- One step of the messages about a line. -/
theorem State.wrote_cohNext {s t : State} {line : Nat} (h : s.cohNext line = some t) : s.Wrote t := by
  unfold State.cohNext at h
  split at h
  · injection h with h; subst h
    split
    exacts [s.wrote_doFwd _ _ _, s.wrote_doData _ _, s.wrote_doWback _ _, s.wrote_doAck _ _, s.wrote_doInv _ _, s.wrote_doBinv _ _,
      .refl s]
  · split at h
    · injection h with h; subst h
      exact .ite (s.wrote_doReads _ _) (s.wrote_doReadm _ _)
    · cases h

theorem State.wrote_cohSteps (n : Nat) : ∀ (s : State) (line : Nat), s.Wrote (s.cohSteps n line) := by
  induction n with
  | zero => exact fun s _ => .refl s
  | succ n ih =>
    intro s line
    unfold State.cohSteps
    split
    · exact (State.wrote_cohNext ‹_›).trans (ih _ _)
    · exact .refl s

/-- The messages about a line come to their end. -/
theorem State.wrote_cohDrain (s : State) (line : Nat) : s.Wrote (s.cohDrain line) := .ite (.refl s) (s.wrote_cohSteps _ _)

theorem State.wrote_cohAsk (s : State) (die line : Nat) (part : Option Nat) : s.Wrote (s.cohAsk die line part) := by
  unfold State.cohAsk
  dsimp only
  exact .ite (.refl s) (.trans (.ite (s.wrote_hostPart _) (.refl s)) (State.wrote_cohSend _ _ _ _))

theorem State.wrote_cohRecall (s : State) (k : CohKind) (line : Nat) : s.Wrote (s.cohRecall k line) :=
  ((s.wrote_cohDrain line).trans (.foldl (fun s _ => s.wrote_cohSend _ _ _) _ _)).trans (State.wrote_cohDrain _ _)

theorem State.wrote_cohKeep (s : State) (line : Nat) (x : Moesi) : s.Wrote (s.cohKeep line x) :=
  (s.wrote_setDir line _).trans (.foldl (fun s _ => s.wrote_l1Drop _ _) _ _)

theorem State.wrote_cohWrite (s : State) (gs line : Nat) : s.Wrote (s.cohWrite gs line) := by
  unfold State.cohWrite
  refine .ite (.refl s) ?_
  have h := (s.wrote_cohDrain line).trans (State.wrote_l1Drop _ (dieOf gs) line)
  refine .ite ((h.trans (State.wrote_cohRecall _ _ _)).trans (State.wrote_cohKeep _ _ _)) (.ite (h.trans (State.wrote_l1Add _ _ _)) ?_)
  have h2 (t : State) (g : s.Wrote t) : s.Wrote ((t.cohSend .readm (dieOf gs) line).l1Add (coreOf gs) line) :=
    (g.trans (State.wrote_cohSend _ _ _ _)).trans (State.wrote_l1Add _ _ _)
  exact h2 _ (.ite (h.trans (State.wrote_hostPart _ _)) h)

theorem State.wrote_cohDrop (s : State) (line : Nat) : s.Wrote (s.cohDrop line) :=
  .ite ((s.wrote_cohRecall _ _).trans (State.wrote_cohKeep _ _ _)) (.refl s)

theorem State.wrote_backInvalidate (s : State) (items : List Nat) : s.Wrote (s.backInvalidate items) := .ite (.refl s) (.of_same rfl)

theorem State.wrote_sendEdges (s : State) (gs : Nat) (copy : Option Nat) (m : Map Byte) : s.Wrote (s.sendEdges gs copy m) :=
  .foldl (fun _ _ => .of_same rfl) _ s

theorem State.wrote_signal (s : State) (src : Option Nat) (items : List Nat) : s.Wrote (s.signal src items) := by
  unfold State.signal State.heard
  refine .ite (.refl s) (.ite (.of_same rfl) (.of_same rfl))

theorem State.wrote_mbPoll (s : State) : s.Wrote s.mbPoll := .ite (.of_same rfl) (.refl s)

/-- Performing effects changes no other field, and memory stays canonical. -/
theorem State.wrote_performAll (s : State) (src : Option Nat) (effs : List Eff) : s.Wrote (s.performAll src effs) := by
  unfold State.performAll
  dsimp only
  have h1 : s.Wrote (effs.foldl (State.perform src) s) := .foldl (fun s e => State.wrote_perform src s e) _ s
  refine .trans (t := _) ?_ (State.wrote_mbPoll _)
  refine .trans (t := _) ((State.Wrote.trans ?_ (State.wrote_backInvalidate _ (itemsOf effs))).trans (State.wrote_signal _ src (itemsOf effs)))
    (.of_same rfl)
  cases src with
  | some g =>
    have h2 := h1.trans (State.Wrote.foldl (f := fun (s : State) l => s.cohWrite g l) (fun s _ => s.wrote_cohWrite _ _) (itemsOf effs) _)
    exact .ite h2 (h2.trans (State.wrote_sendEdges _ _ _ _))
  | none => exact h1.trans (State.Wrote.foldl (f := State.cohDrop) (fun s _ => s.wrote_cohDrop _) (itemsOf effs) _)

/-- A trace record waits for the end of its cycle. -/
theorem State.wrote_traceRec (s : State) (gs type : Nat) (pc aux : Word) : s.Wrote (s.traceRec gs type pc aux) :=
  .ite (.refl s) (.of_same rfl)

/-- A trace record changes what its writes change. -/
theorem State.wrote_writeTrace (s : State) (r : Traced) : s.Wrote (s.writeTrace r) := by
  unfold State.writeTrace
  split
  · exact .refl s
  · exact .ite (.refl s) (.ite ((State.wrote_performAll _ _ _).trans (State.wrote_performAll _ _ _)) (State.wrote_performAll _ _ _))

/-! Canonical memory. -/

/-- The memory of the package at reset is canonical. -/
theorem State.reset_canonical : State.reset.Canonical := ⟨rfl, rfl⟩

/-- A renamed map is canonical where the values it holds are. -/
theorem mwf_mren {α : Type} [DecidableEq α] (d : α) (f : Nat → Nat) (m : Map α) (hd : m.all (fun p => decide (p.2 ≠ d)) = true) :
    mwf d (mren f m) = true := by
  have hall : ∀ p ∈ m, p.2 ≠ d := by simpa [List.all_eq_true] using hd
  have put (acc : Map α) (k : Nat) (v : α) (hv : v ≠ d) (h : mwf d acc = true) : mwf d (mput acc k v) = true := by
    have := mwf_mset d acc k v h
    simpa [mset, hv] using this
  have go : ∀ (l acc : Map α), (∀ p ∈ l, p.2 ≠ d) → mwf d acc = true → mwf d (l.foldl (fun (acc : Map α) p => mput acc (f p.1) p.2) acc) = true := by
    intro l
    induction l with
    | nil => intro acc _ h; exact h
    | cons p l ih =>
      intro acc hl h
      exact ih _ (fun q hq => hl q (List.mem_cons_of_mem _ hq)) (put _ _ _ (hl p List.mem_cons_self) h)
  exact go m [] hall rfl

end Sys2Proof.Machine
end

