-- ==== Sys2Proof/Tests/Slice0.lean ====
section
/-!
SUPPORT. Tests of the model on small states, each about one step or one operation, and the witnesses of the statements: for each clause
a concrete state and operands that meet all its hypotheses together, where the clause's conclusion is checked too. Expected numbers are
the spec's own examples, or are worked out by hand from its rules.
-/

namespace Sys2Proof.Tests

open Machine

set_option Elab.async false

/-! Helpers. -/

/-- The state in which the lone word opens, when it does: what `State.Opens` asks, computed. -/
def opened (s : State) (i : Instr) : Except Stop State :=
  if s.unit.role = .lone then
    if s.dueAtEnd (s.endsBefore (s.standsOutside [i]) (isCsrw i) 1) then .error (.hold .retry) else
    match (s.endsBefore (s.standsOutside [i]) (isCsrw i) 1).beginUnit (s.standsOutside [i]) with
    | .ok s1 => if s1.unitChecks [i] = none ∧ s1.readsDue [i] = false then .ok s1 else .error (.hold .retry)
    | .error e => .error e
  else .error (.hold .retry)

theorem opened_opens {s s1 : State} {i : Instr} (h : opened s i = .ok s1) : s.Opens i s1 := by
  unfold opened at h
  split at h
  · rename_i hr
    split at h
    · cases h
    · rename_i hd
      split at h
      · rename_i s2 hb
        split at h
        · rename_i hc
          cases h
          exact ⟨hr, by simpa using hd, hb, hc.1, hc.2⟩
        · cases h
      · cases h
  · cases h

/-- A computation ends well with `true`: every step of it answers, and the last says so. -/
def holds (e : Except Stop Bool) : Bool := match e with | .ok b => b | .error _ => false

/-- The state an outcome answers. -/
def nextOf (o : Outcome) : Option State := match o with | .next s => some s | _ => none

/-- `exec i s` completes with `t` as its own effect (`Spec.Completes`). -/
def completes (i : Instr) (s t : State) : Bool := decide (nextOf (exec i s) = some (t.done i))

/-- `exec i s` raises `c` in the opened state (`Spec.Raises`). -/
def raises (i : Instr) (s s1 : State) (c : Trap) : Bool := decide (nextOf (exec i s) = some (s1.raiseUnit c))

/-- A slot of the hypervisor's first thread, untranslated and in direct mode, about to execute a lone word at address 0, with some of
its registers set. -/
def base : State :=
  let s := State.reset.withFetchWord 32 0
  let s1 := { s with fs := fetchSlot, agenda := [], unit := { UnitCtx.at_ 0 with next := 4 } }
  [(1, 5), (2, 7), (3, 0x1000), (4, 0xFFFFFFFFFFFFFFF9), (5, 2), (6, 0x1040), (7, 0xB4), (8, 0x4304)].foldl
    (fun (z : State) (p : Nat × Word) => z.setX p.1 p.2) s1

/-- The same with its thread changed. -/
def baseTh (f : Thread → Thread) : State := base.setTh (f base.th)

/-- The word opens, and what is asked of the opened state holds. -/
def at_ (s : State) (i : Instr) (f : State → Except Stop Bool) : Bool := holds (do let s1 ← opened s i; f s1)

/-- The word opens and completes with what `f` makes of the opened state. -/
def effect (s : State) (i : Instr) (f : State → State) : Bool := at_ s i (fun s1 => pure (completes i s (f s1)))

/-- The word opens and raises `c`. -/
def trapsWith (s : State) (i : Instr) (c : State → Trap) : Bool := at_ s i (fun s1 => pure (raises i s s1 (c s1)))

/-- The state an instruction or event answers meets `p`. -/
def after (i : Instr) (s : State) (p : State → Bool) : Bool := match nextOf (exec i s) with | some t => p t | none => false

/-- Result `v` goes to field `d`, from the state `s1`. -/
def writes (i : Instr) (s s1 : State) (d : BitVec 7) (v : Word) : Except Stop Bool := do
  let ((), t) ← dstA d v s1
  pure (completes i s t)


/-! Scalar operations (R95 to R105). -/

def aluOps : List AluOp := [.add, .sub, .and, .or, .xor, .andn, .sll, .srl, .sra, .rol, .min, .max, .minu, .maxu, .mulh, .mulhu, .mul,
  .div, .divu, .rem, .remu, .leaS1, .leaS2, .leaS3, .bext]

/-- `op x9, x4, x5` of −7 and 2. -/
def aluCase (o : AluOp) : Bool := at_ base (o.instr 5#7 4#7 9#7) (fun s1 => do
  let (x, s2) ← srcA 4 s1
  let (y, s3) ← srcA 5 s2
  writes (o.instr 5#7 4#7 9#7) base s3 9 (Spec.alu o x y))

theorem witness_AluWritesTableResult : aluOps.all aluCase = true := by decide +kernel

/-- The results of the spec's own example: −7 divided by 2, signed and unsigned (R96). -/
theorem test_division : (Spec.alu .div (-7) 2, Spec.alu .rem (-7) 2, Spec.alu .divu (-7) 2) = (-3, -1, 0x7FFFFFFFFFFFFFFC) := by decide +kernel
theorem test_div : after (.div 5#7 4#7 9#7) base (fun t => t.getX 9 == -3) = true := by decide +kernel
theorem test_remu_zero : after (.remu 0#7 4#7 9#7) base (fun t => t.getX 9 == -7) = true := by decide +kernel
/-- The spec's examples of bit fields (R101): 0xB4 under 0x4304. -/
theorem test_bext : after (.bext 8#7 7#7 9#7) base (fun t => t.getX 9 == 0xFFFFFFFFFFFFFFFB) = true := by decide +kernel
theorem test_lea : after (.leaS3 5#7 4#7 9#7) base (fun t => t.getX 9 == 9) = true := by decide +kernel

def unOps : List UnOp := [.addi 0x3FF, .andi 0x80, .ori 0x80, .xori 0xFF, .slli 63, .srli 63, .srai 63, .clz, .ctz, .pop, .brev]

def unCase (o : UnOp) : Bool := at_ base (o.instr 4#7 9#7) (fun s1 => do
  let (x, s2) ← srcA 4 s1
  writes (o.instr 4#7 9#7) base s2 9 (o.eval x))

theorem witness_ImmediateAndUnary : unOps.all unCase = true := by decide +kernel
theorem test_addi_negative : after (.addi 0x3FF#10 1#7 9#7) base (fun t => t.getX 9 == 4) = true := by decide +kernel
theorem test_clz_of_zero : after (.clz 0#7 9#7) base (fun t => t.getX 9 == 64) = true := by decide +kernel

theorem witness_Lih : at_ base (.lih 0x8000#16 9#7) (fun s1 => writes (.lih 0x8000#16 9#7) base s1 9 (BitVec.ofInt 64 (-32768))) = true := by
  decide +kernel
theorem witness_LihM : at_ base (.lihM 0x4567#16 5#7) (fun s1 => do
    let (x, s2) ← srcA 5 s1
    writes (.lihM 0x4567#16 5#7) base s2 5 (BitVec.ofNat 64 (x.toNat % 2 ^ 48 * 2 ^ 16 + 0x4567))) = true := by decide +kernel
/-- The spec's example (R101): 0x2 under 0x0304 into all ones. -/
theorem witness_Bins :
    let b := (base.setX 8 0x0304).setX 9 (-1)
    at_ b (.bins 8#7 5#7 9#7) (fun s1 => do
      let (_, s2) ← srcA 5 s1
      let (_, s3) ← srcA 8 s2
      let (_, s4) ← srcA 9 s3
      writes (.bins 8#7 5#7 9#7) b s4 9 0xFFFFFFFFFFFFFF2F) = true := by decide +kernel

theorem witness_Pset : at_ base (.pset 5#7 4#7 2#4 3#3) (fun s1 => do
    let (_, s2) ← srcA 4 s1
    let (_, s3) ← srcA 5 s2
    pure (completes (.pset 5#7 4#7 2#4 3#3) base (s3.setArch (s3.arch.setK 3 (Spec.allBits true))))) = true := by decide +kernel
theorem witness_Pseti : at_ base (.pseti 0x3FF#10 4#7 4#4 3#3) (fun s1 => do
    let (_, s2) ← srcA 4 s1
    pure (completes (.pseti 0x3FF#10 4#7 4#4 3#3) base (s2.setArch (s2.arch.setK 3 (Spec.allBits true))))) = true := by decide +kernel
theorem witness_Plog : effect base (.plog 3#2 0#3 0#3 2#3) (fun s1 => s1.setArch (s1.arch.setK 2 0)) = true := by decide +kernel
theorem witness_PmovK : at_ base (.pmovK 4#7 2#3) (fun s1 => do
    let (x, s2) ← srcA 4 s1
    pure (completes (.pmovK 4#7 2#3) base (s2.setArch (s2.arch.setK 2 (BitVec.ofNat 2048 x.toNat))))) = true := by decide +kernel
theorem witness_PmovX : at_ base (.pmovX 0#3 9#7) (fun s1 => writes (.pmovX 0#3 9#7) base s1 9 (-1)) = true := by decide +kernel
theorem witness_Sel : at_ base (.sel 1#3 5#7 4#7 9#7) (fun s1 => do
    let (_, s2) ← srcA 4 s1
    let (y, s3) ← srcA 5 s2
    writes (.sel 1#3 5#7 4#7 9#7) base s3 9 y) = true := by decide +kernel

/-! Scalar floating point (R174 to R178, R68, R69). -/

/-- 1.0 and 0.0 in x10 and x11, in the format. -/
def fpBase (f : Spec.Fp4) : State :=
  (base.setX 10 (match f with | .hf => 0x3C00 | .bf => 0x3F80 | .s => 0x3F800000 | .d => 0x3FF0000000000000)).setX 11 0

def fpOps : List FpOp := [.fadd, .fsub, .fmul, .fdiv, .fmin, .fmax]

def fpCase (f : Spec.Fp4) (o : FpOp) : Bool := at_ (fpBase f) (Spec.fpWord o f 10 10 9) (fun s1 => do
  let (x, s2) ← srcA 10 s1
  let (y, s3) ← srcA 10 s2
  let r := o.eval f.fmt (Spec.rm s3) (Spec.low f x) (Spec.low f y)
  let w ← writes (Spec.fpWord o f 10 10 9) (fpBase f) (Spec.withFlags s3 r.2) 9 (BitVec.ofNat 64 r.1)
  pure (decide (Spec.trapping s3 r.2 = 0) && w))

theorem witness_FpHf : fpOps.all (fpCase .hf) = true := by decide +kernel
theorem witness_FpBf : fpOps.all (fpCase .bf) = true := by decide +kernel
theorem witness_FpS : fpOps.all (fpCase .s) = true := by decide +kernel
theorem witness_FpD : fpOps.all (fpCase .d) = true := by decide +kernel

def fmaCase (f : Spec.Fp4) : Bool := at_ (fpBase f) (Spec.fmaWord f 10 10 11) (fun s1 => do
  let (x, s2) ← srcA 10 s1
  let (y, s3) ← srcA 10 s2
  let (z, s4) ← srcA 11 s3
  let r := fFma f.fmt (Spec.rm s4) (Spec.low f x) (Spec.low f y) (Spec.low f z)
  let w ← writes (Spec.fmaWord f 10 10 11) (fpBase f) (Spec.withFlags s4 r.2) 11 (BitVec.ofNat 64 r.1)
  pure (decide (Spec.trapping s4 r.2 = 0) && w))

def sqrtCase (f : Spec.Fp4) : Bool := at_ (fpBase f) (Spec.sqrtWord f 10 9) (fun s1 => do
  let (x, s2) ← srcA 10 s1
  let r := fSqrt f.fmt (Spec.rm s2) (Spec.low f x)
  let w ← writes (Spec.sqrtWord f 10 9) (fpBase f) (Spec.withFlags s2 r.2) 9 (BitVec.ofNat 64 r.1)
  pure (decide (Spec.trapping s2 r.2 = 0) && w))

def classCase (f : Spec.Fp4) : Bool := at_ (fpBase f) (Spec.classWord f 10 9) (fun s1 => do
  let (x, s2) ← srcA 10 s1
  writes (Spec.classWord f 10 9) (fpBase f) s2 9 (BitVec.ofNat 64 (fClass f.fmt (Spec.low f x))))

def fcmpCase (f : Spec.Fp4) : Bool := at_ (fpBase f) (Spec.fcmpWord f 10 11 2 3) (fun s1 => do
  let (x, s2) ← srcA 11 s1
  let (y, s3) ← srcA 10 s2
  let r := fCond f.fmt 2 (Spec.low f x) (Spec.low f y)
  let t := Spec.withFlags s3 r.2
  pure (decide (Spec.trapping s3 r.2 = 0) && completes (Spec.fcmpWord f 10 11 2 3) (fpBase f) (t.setArch (t.arch.setK 3 (Spec.allBits r.1)))))

def fp4s : List Spec.Fp4 := [.hf, .bf, .s, .d]

theorem witness_Fma : fp4s.all fmaCase = true := by decide +kernel
theorem witness_Sqrt : fp4s.all sqrtCase = true := by decide +kernel
theorem witness_Class : fp4s.all classCase = true := by decide +kernel
theorem witness_Fcmp : fp4s.all fcmpCase = true := by decide +kernel

/-- The spec's examples (R178): −5.5 to `.i32` toward zero, inexact, and 65,520 to `.hf`, to infinity; and 1.0 to `.hf` with random bits. -/
theorem witness_Fcvt :
    let b := base.setX 10 0xC0B00000
    at_ b (.fcvt 1#3 0#3 4#3 10#7 9#7) (fun s1 => do
      let (_, s2) ← srcA 10 s1
      writes (.fcvt 1#3 0#3 4#3 10#7 9#7) b (Spec.withFlags s2 flNX) 9 0xFFFFFFFFFFFFFFFB) = true := by decide +kernel
theorem test_fcvt_overflow :
    after (.fcvt 0#3 2#3 4#3 10#7 9#7) (base.setX 10 0x477FF000) (fun t => t.getX 9 == 0x7C00 && t.arch.fflags == 5) = true := by
  decide +kernel
theorem witness_FcvtSr : at_ (fpBase .s) (.fcvt 5#3 2#3 4#3 10#7 1#7) (fun s1 => do
    let (_, s2) ← srcA 10 s1
    let (_, s3) ← srcA 1 s2
    writes (.fcvt 5#3 2#3 4#3 10#7 1#7) (fpBase .s) s3 1 0x3C00) = true := by decide +kernel

/-- Division of 1.0 by zero with DZ enabled traps with ARITH. -/
theorem witness_EnabledFlagTraps :
    let b := (fpBase .d).setArch { (fpBase .d).arch with fctl := 0x1F00 }
    at_ b (Spec.fpWord .fdiv .d 11 10 9) (fun s1 => do
      let (x, s2) ← srcA 10 s1
      let (y, s3) ← srcA 11 s2
      let r := FpOp.eval .fdiv fmtD (Spec.rm s3) (Spec.low .d x) (Spec.low .d y)
      pure (decide (Spec.trapping s3 r.2 ≠ 0) && raises (Spec.fpWord .fdiv .d 11 10 9) b s1 { cause := .arith, afl := r.2 })) = true := by
  decide +kernel
/-- The square root of −1.0, and a signalling compare of NaN, with NV enabled. -/
theorem witness_EnabledFlagTrapsSqrt :
    let b := ((fpBase .d).setArch { (fpBase .d).arch with fctl := 0x1F00 }).setX 10 0xBFF0000000000000
    at_ b (Spec.sqrtWord .d 10 9) (fun s1 => do
      let (x, s2) ← srcA 10 s1
      let r := fSqrt fmtD (Spec.rm s2) (Spec.low .d x)
      pure (decide (Spec.trapping s2 r.2 ≠ 0) && raises (Spec.sqrtWord .d 10 9) b s1 { cause := .arith, afl := r.2 })) = true := by
  decide +kernel
theorem witness_EnabledFlagTrapsFcmp :
    let b := ((fpBase .d).setArch { (fpBase .d).arch with fctl := 0x1F00 }).setX 10 0x7FF8000000000000
    at_ b (Spec.fcmpWord .d 10 11 2 3) (fun s1 => do
      let (x, s2) ← srcA 11 s1
      let (y, s3) ← srcA 10 s2
      let r := fCond fmtD 2 (Spec.low .d x) (Spec.low .d y)
      pure (decide (Spec.trapping s3 r.2 ≠ 0) && raises (Spec.fcmpWord .d 10 11 2 3) b s1 { cause := .arith, afl := r.2 })) = true := by
  decide +kernel

/-! Units and operand forms. -/

/-- A chunked slot with no chunk, its mode as a launch would leave it. -/
def chunkBase : State := baseTh (fun t => { t with a := { t.a with status := t.a.status &&& ~~~(0x1000 : Word) } })

/-- The same inside the chunk its first word has begun. -/
def inChunk : State := match chunkBase.beginUnit false with | .ok s => s | .error _ => chunkBase

theorem witness_CompletedUnitAdvances : base.th.live = true ∧ base.unit.entered = false ∧ base.unit.park = none ∧ base.unit.target = none ∧
    (base.done .cut).th.a.pc = 4 ∧ (base.done .cut).th.a.icount = base.th.a.icount + 1 := by decide +kernel
theorem witness_CompletedUnitInChunk : inChunk.unit.outside = false ∧ inChunk.th.fallback = none ∧ inChunk.th.live = true ∧
    (inChunk.th.cur.map (·.len)) = some 0 ∧ ((inChunk.done (.jmp 0#17)).th.cur.map (·.len)) = some 1 ∧
    ((inChunk.done .cut).th.chunks.map (·.ended)) = [true] := by decide +kernel
theorem base_lone : base.LoneUnit := ⟨by decide, by decide, by decide, by decide, by decide, by decide, by decide⟩
theorem witness_Ready : base.Ready :=
  .inl ⟨base_lone, by decide, by decide, by decide, fun h => absurd h (by decide)⟩
theorem witness_ReadyWord : base.Ready ∧ boundaryWord (.add 1#7 4#7 9#7) = false ∧ isCsrw (.add 1#7 4#7 9#7) = false ∧
    kernelOnly (.add 1#7 4#7 9#7) = false ∧ operandsOf (.add 1#7 4#7 9#7) = [.as 4, .as 1, .ad 9] ∧ base.inWindow 4 ∧ base.inWindow 1 ∧
    base.inWindow 9 :=
  ⟨witness_Ready, by decide, by decide, by decide, by decide, ⟨by decide, by decide⟩, ⟨by decide, by decide⟩, ⟨by decide, by decide⟩⟩
theorem witness_EmptySlot : chunkBase.LoneUnit ∧ chunkBase.th.dir = false ∧ chunkBase.th.stepping = false ∧
    chunkBase.th.fallback = none ∧ chunkBase.th.ord = false ∧ chunkBase.th.cur = none ∧ chunkBase.th.chunks.length < 2 ∧
    chunkBase.th.loads = [] ∧ chunkBase.th.stores = [] ∧ chunkBase.th.pushes = [] ∧ inChunk.th.chunks.length = 1 :=
  ⟨⟨by decide, by decide, by decide, by decide, by decide, by decide, by decide⟩, by decide, by decide, by decide, by decide, by decide,
    by decide, by decide, by decide, by decide, by decide⟩
theorem witness_ReadyInChunk : ∃ c, inChunk.InChunk c := by
  refine ⟨inChunk.th.cur.getD inChunk.newChunk, ⟨⟨by decide, by decide, by decide,
    by decide, by decide, by decide, by decide⟩, by decide, by decide, by decide, by decide, by decide, by decide, by decide⟩⟩
theorem witness_AtBoundary : base.AtBoundary ∧ isBoundary .fenceE = true ∧ base.stepOut.unitChecks [.fenceE] = none :=
  ⟨⟨base_lone, by decide, by decide, by decide, by decide, by decide, fun h => absurd h (by decide)⟩, by decide, by decide⟩
/-- The same with one instruction in the chunk. -/
def inChunk1 : State := { inChunk.done (.jmp 0#17) with unit := inChunk.unit }

theorem witness_BoundaryWaits : inChunk1.unit.role = .lone ∧ (encode .fenceE 1).isSome = true ∧ isBoundary .fenceE = true ∧
    (inChunk1.endsBefore true (isCsrw .fenceE) 1).th.chunks ≠ [] ∧
    nextOf (exec .fenceE inChunk1) = some ((inChunk1.endsBefore true (isCsrw .fenceE) 1).holdUnit .boundary) := by decide +kernel

/-- At user level: the mode of a guest's thread. -/
def userBase : State := baseTh (fun t => { t with a := { t.a with status := t.a.status &&& ~~~(0x60000 : Word) } })

/-- A word that begins and fails a check raises its cause. -/
def refusedWith (s : State) (i : Instr) (c : Trap) : Bool :=
  match (s.endsBefore (s.standsOutside [i]) (isCsrw i) 1).beginUnit (s.standsOutside [i]) with
  | .ok s1 => decide (s.unit.role = .lone) && (encode i 1).isSome && raises i s s1 c
  | .error _ => false

theorem witness_Privilege : refusedWith userBase .eret { cause := .privilege } = true := by decide +kernel
theorem witness_IllegalOperand : refusedWith base (.ld 0#8 3#2 120#7 9#7) { cause := .illegalOperand } = true := by decide +kernel
theorem witness_Port : refusedWith base (.add 112#7 1#7 9#7) { cause := .port, portc := some 0 } = true := by decide +kernel
theorem witness_Claim : refusedWith base (.vadd 2#2 0#1 0#3 1#5 2#5 3#5) { cause := .claim } = true := by decide +kernel

theorem witness_SourceForms :
    (match srcA 4 base with | .ok (x, s) => x == -7 && s == base | .error _ => false) = true ∧
    (match srcA 127 (baseTh (fun t => { t with p15 := [11, 12] })) with
      | .ok (x, s) => x == 11 && s.th.p15 == [12] | .error _ => false) = true ∧
    base.th.p15 = [] ∧ base.unit.popped = [] ∧ srcA 127 base = .error (.hold (.pop 15 8)) := by decide +kernel
theorem witness_DestinationForms :
    (match dstA 125 9 base with | .ok ((), s) => s.th.staged == [(13, [9])] | .error _ => false) = true ∧
    mgetD base.th.staged 13 [] = [] ∧ 0 + 1 < stageSize 13 ∧ 0 + 1 < stageSize 14 := by decide +kernel

/-- A read stream of two words at 0x1000 on p0, and a write stream on w0. -/
def streamBase : State :=
  let s := base.setBytes 0x1000 [1, 0, 0, 0, 2, 0, 0, 0]
  s.setArch { s.arch with ports :=
    [(0, .stream ⟨0x1000, [(2, 4)], 2, false, false, false, 0, false, []⟩), (16, .stream ⟨0x1040, [(4, 4)], 2, true, false, false, 0, false, []⟩)] }

def popsOf (b : Stream) (p : Nat × State → Bool) : Bool :=
  match popStream 0 b streamBase with | .ok x => p x | .error _ => false

theorem witness_StreamPops :
    let b : Stream := ⟨0x1000, [(2, 4)], 2, false, false, false, 0, false, []⟩
    holds (do
      let (pa, s1) ← checkAccess (b.elemAddr 0) 4 4 .read .load streamBase
      let (v, t) ← popStream 0 b streamBase
      pure (!s1.viewPoison s1.fs pa 4 && v == 1 && t.arch.stream 0 == some { b with pos := 1 } && decide (streamBase.th.stores = []))) = true ∧
    popsOf { b with pos := 2 } (fun x => x.1 == 0 && (x.2.arch.stream 0).map (·.endFlag) == some true) = true ∧
    popStream 0 { b with pos := 2, trap := true } streamBase =
      .error (.trap { cause := .streamEnd, portc := some 0, ev := true, info2 := 2 }) ∧
    popsOf { b with pos := 2, wrap := true } (fun x => x.1 == 1) = true := by decide +kernel
theorem test_stream_field : after (.add 0#7 112#7 9#7) streamBase (fun t => t.getX 9 == 1) = true := by decide +kernel

/-! Control transfers and control registers. -/

theorem witness_Br : effect base (.br 0xFFFFE#20 0#1 0#3) (fun s1 => Spec.jump s1 (Spec.target s1 (-2))) = true ∧
    effect base (.br 0xFFFFE#20 1#1 0#3) id = true := by decide +kernel
theorem test_br_backwards : after (.br 0xFFFFE#20 0#1 0#3) base (fun t => t.th.a.pc == -8) = true := by decide +kernel
theorem witness_Jmp : effect base (.jmp 2#17) (fun s1 => Spec.jump s1 (Spec.target s1 2)) = true := by decide +kernel
theorem witness_BrEnd : (streamBase.arch.stream 0).isSome = true ∧ effect streamBase (.brEnd 2#17 0#1 0#4) id = true ∧
    effect streamBase (.brEnd 2#17 1#1 8#4) (fun s1 => Spec.jump s1 (Spec.target s1 2)) = true := by decide +kernel
theorem witness_Jal : effect base (.jal 2#17 9#7) (fun s1 => Spec.jump (s1.setX 9 4) (Spec.target s1 2)) = true := by decide +kernel
theorem witness_Jalr : effect base (.jalr 1#10 3#7 9#7) (fun s1 => Spec.jump (s1.setX 9 4) 0x1004) = true := by decide +kernel
theorem witness_JalrMisaligned :
    trapsWith base (.jalr 0#10 1#7 9#7) (fun _ => { cause := .misaligned, av := true, acc := 2, info1 := 5 }) = true := by decide +kernel
theorem witness_Loop : effect base (.loop 2#17 1#7) (fun s1 => Spec.jump (s1.setX 1 4) (Spec.target s1 2)) = true ∧
    effect base (.loop 2#17 0#7) id = true ∧
    effect (base.setX 1 1) (.loop 2#17 1#7) (fun s1 => s1.setX 1 0) = true := by decide +kernel

def rdcCodes : List Nat := [0, 1, 2, 3, 4, 5, 8, 9, 10, 11, 12, 13, 14, 16, 17]
def csrrCodes : List Nat := [0x100, 0x101, 0x102, 0x103, 0x104, 0x108, 0x109, 0x10A, 0x10B, 0x110, 0x111, 0x112, 0x113, 0x114, 0x115]

def csrCase (i : Instr) (c : Nat) : Bool := at_ base i (fun s1 =>
  match Spec.csr s1 c with | some v => pure (completes i base (s1.setX 9 v)) | none => pure false)

theorem witness_Rdc : rdcCodes.all (fun c => csrCase (.rdc (BitVec.ofNat 10 c) 9#7) c) = true := by decide +kernel
theorem witness_Csrr : (rdcCodes ++ csrrCodes).all (fun c => csrCase (.csrr (BitVec.ofNat 10 c) 9#7) c) = true := by decide +kernel
/-- g3 in direct mode and in a chunk. -/
theorem witness_RdcShared : after (.rdc 0x43#10 9#7) { base with gregs := [(16 * coreOf fetchSlot + 3, 77)] } (fun t => t.getX 9 == 77) = true ∧
    inChunk.isDirect = false ∧ base.isDirect = true ∧
    at_ inChunk (.rdc 0x43#10 9#7) (fun s1 => do
      let ((), t) ← noteReads [gItem (16 * coreOf fetchSlot + 3)] s1
      pure (completes (.rdc 0x43#10 9#7) inChunk (t.setX 9 (s1.viewGreg s1.fs (16 * coreOf fetchSlot + 3))))) = true := by decide +kernel

/-- A write of x`a` to the control register `c` leaves what the tables say. -/
def csrwCase (c : Nat) (v : Word) : Bool :=
  let b := base.setX 9 v
  let i := Instr.csrw (BitVec.ofNat 10 c) 9#7
  at_ b i (fun s1 => match Spec.csrWritten s1 c v with | some t => pure (completes i b t) | none => pure false)

theorem witness_Csrw : csrwCase 0x010 0x1F24 = true ∧ csrwCase 0x011 (-1) = true ∧ csrwCase 0x100 (-1) = true ∧ csrwCase 0x101 0x1003 = true ∧
    csrwCase 0x102 (-1) = true ∧ csrwCase 0x103 (-1) = true ∧ csrwCase 0x104 (-1) = true ∧ csrwCase 0x110 99 = true ∧
    csrwCase 0x114 256 = true ∧ csrwCase 0x114 8192 = true := by decide +kernel
theorem witness_CsrwRefused :
    trapsWith (base.setX 9 5) (.csrw 0x010#10 9#7) (fun _ => { cause := .illegalOperand }) = true ∧
    trapsWith (base.setX 9 8193) (.csrw 0x114#10 9#7) (fun _ => { cause := .illegalOperand }) = true ∧
    trapsWith (base.setX 9 255) (.csrw 0x114#10 9#7) (fun _ => { cause := .illegalOperand }) = true := by decide +kernel
theorem witness_CsrwShared :
    at_ base (.csrw 0x43#10 1#7) (fun s1 => do
      let ((), t) ← uncounted .scalar [.greg (16 * coreOf s1.fs + 3) 5] s1
      pure (t.isDirect && after (.csrw 0x43#10 1#7) base (fun u => u.gregs == t.gregs && mgetD u.gregs (16 * coreOf s1.fs + 3) 0 == 5))) = true ∧
    at_ inChunk (.csrw 0x43#10 1#7) (fun s1 => do
      let ((), t) ← uncounted .scalar [.greg (16 * coreOf s1.fs + 3) 5] s1
      pure (!t.isDirect && completes (.csrw 0x43#10 1#7) inChunk t)) = true := by decide +kernel

/-- The base slot with its cluster in partition 2. -/
def partBase : State := { base with parts := [(2, ⟨[0, 0, 0, 0, 0, 0x8000000000000000, 0xFF], 0, 0x2000, 64, 3, false⟩)] }

theorem witness_CsrwPolicy : partBase.partOf fetchSlot = some 2 ∧
    at_ (partBase.setX 9 5) (.csrw 0x115#10 9#7) (fun s1 => do
      let t := { s1 with parts := [(2, ⟨[0, 0, 0, 0, 0, 0x8000000000000000, 0xFF], 5, 0x2000, 64, 0, false⟩)] }
      let u := { s1 with parts := [(2, ⟨[0, 0, 0, 0, 0, 0x8000000000000000, 0xFF], 5, 0x2000, 64, 3, false⟩)] }
      pure (completes (.csrw 0x115#10 9#7) (partBase.setX 9 5) t || completes (.csrw 0x115#10 9#7) (partBase.setX 9 5) u)) = true ∧
    trapsWith (partBase.setX 9 6) (.csrw 0x115#10 9#7) (fun _ => { cause := .illegalOperand }) = true ∧
    trapsWith (partBase.setX 9 7) (.csrw 0x115#10 9#7) (fun _ => { cause := .illegalOperand }) = true := by decide +kernel

/-! Loads, stores and atomics. -/

/-- The base state with 64 bytes 0x80, 0x81, … at 0x1000. -/
def memBase : State := base.setBytes 0x1000 ((List.range 64).map (fun i => BitVec.ofNat 8 (0x80 + i)))

/-- A load finds `v` and completes with its data queued. -/
def loadsInto (i : Instr) (sx : Bool) (va : State → Word) (n d v : Nat) : Bool := at_ memBase i (fun s1 => do
  let (pa, s0) ← checkAccess (va s1) n n .read .load s1
  let ((), s2) ← readLines (linesOf pa n) s0
  pure (decide (s1.th.stores = []) && s1.th.drained && !s0.loadPoison s0.fs .scalar pa n && decide (s2.th.loads.length < 63) &&
    s2.loadView s2.fs .scalar pa n == v &&
    after i memBase (fun t =>
      t.th.loads == s2.th.loads ++ [[.x d (Spec.extended sx (8 * n) v) (some ⟨pa, n, sx⟩)]] &&
      t.rf == s2.rf && t.mem == s2.mem && t.gregs == s2.gregs)))

theorem witness_Ld : loadsInto (.ld 0xFF#8 2#2 6#7 9#7) true (fun s => Spec.addr s 6 (-4)) 4 9 0xBFBEBDBC = true := by decide +kernel
theorem test_ld_sign : after (.ld 2#8 0#2 3#7 9#7) memBase (fun t => t.th.loads == [[.x 9 0xFFFFFFFFFFFFFF82 (some ⟨0x1002, 1, true⟩)]]) = true := by decide +kernel
theorem witness_Ldz : loadsInto (.ldz 1#8 1#2 3#7 9#7) false (fun s => Spec.addr s 3 2) 2 9 0x8382 = true := by decide +kernel
theorem test_ldz_bytes : after (.ldz 1#8 1#2 3#7 9#7) memBase (fun t => t.th.loads == [[.x 9 0x8382 (some ⟨0x1002, 2, false⟩)]]) = true := by decide +kernel
theorem witness_Ldx : loadsInto (.ldx 0#1 2#2 5#7 3#7 9#7) true (fun s => Spec.indexed s 3 5 2) 4 9 0x8B8A8988 = true := by decide +kernel
theorem witness_LdxBytes : loadsInto (.ldx 1#1 1#2 5#7 3#7 9#7) true (fun s => Spec.indexed s 3 5 0) 2 9 0x8382 = true := by decide +kernel
theorem witness_Ldk : loadsInto (.ldk 0x400#17 9#7) true (fun s => Spec.target s 0x400) 8 9 0x8786858483828180 = true := by decide +kernel

/-- A store completes with its write outstanding, in direct mode and in a chunk. -/
def storesTo (b : State) (i : Instr) (va : State → Word) (n : Nat) (v : State → Word) : Bool := at_ b i (fun s1 => do
  let (pa, s2) ← checkAccess (va s1) n n .write .store s1
  let e := s2.effFor pa (leBytes n (v s1).toNat)
  if s2.isDirect then pure (s1.th.drained && completes i b (Spec.counted s2 [[e]]))
  else
    let ((), s3) ← enterChunk .scalar [e] (if s2.isRemote pa then 1 else 0) s2
    pure (completes i b (Spec.counted s3 [])))

theorem witness_St : storesTo memBase (.st 1#8 2#2 3#7 4#7) (fun s => Spec.addr s 3 4) 4 (fun s => s.getX 4) = true := by decide +kernel
theorem witness_StInChunk : storesTo inChunk (.st 1#8 2#2 3#7 4#7) (fun s => Spec.addr s 3 4) 4 (fun s => s.getX 4) = true := by decide +kernel
theorem witness_Stx : storesTo memBase (.stx 0#1 3#2 5#7 3#7 4#7) (fun s => Spec.indexed s 3 5 3) 8 (fun s => s.getX 4) = true := by decide +kernel
theorem witness_ChunkHolds : inChunk.isDirect = false ∧ (inChunk.th.chunks.getLast?).isSome = true ∧
    (match enterChunk .scalar [.write 0x1000 [1]] 0 inChunk with
      | .ok ((), s) => s.mem == inChunk.mem && s.rf == inChunk.rf &&
        (s.th.chunks.map (fun c => (c.log.map (fun e => (e.eff, e.by_)), c.writes))) == [([(.write 0x1000 [1], .scalar)], [32])]
      | .error _ => false) = true := by decide +kernel

theorem witness_Ldm : at_ memBase (.ldm 1#8 2#2 3#7 9#7) (fun s1 => do
    let (pas, s2) ← checkDwords (Spec.addr s1 3 8) 3 .read .load s1
    let ((), s3) ← readLines (pas.flatMap (fun q => linesOf q 8)).dedup s2
    let ((), s4) ← countReads 1 s3
    let (vs, s5) ← pas.mapM (fun q => viewed .scalar q 8) s4
    pure (pas.all (fun p => !s2.loadPoison s2.fs .scalar p 8) && completes (.ldm 1#8 2#2 3#7 9#7) memBase (Spec.countedLoad s5
      ((pas.zip vs).zipIdx.map (fun q => Dest.x (9 + q.2) (BitVec.ofNat 64 q.1.2) (some ⟨q.1.1, 8, false⟩)))))) = true ∧
    after (.ldm 1#8 2#2 3#7 9#7) memBase (fun t => t.th.loads == [[.x 9 0x8F8E8D8C8B8A8988 (some ⟨0x1008, 8, false⟩),
      .x 10 0x9796959493929190 (some ⟨0x1010, 8, false⟩), .x 11 0x9F9E9D9C9B9A9998 (some ⟨0x1018, 8, false⟩)]] && t.rf == memBase.rf) = true := by
  decide +kernel

def stmCase (b : State) : Bool := at_ b (.stm 1#8 1#2 3#7 4#7) (fun s1 => do
  let (pas, s2) ← checkDwords (Spec.addr s1 3 8) 2 .write .store s1
  let es := (joinWrites (pas.zip [leBytes 8 (s2.getX 4).toNat, leBytes 8 (s2.getX 5).toNat])).map (fun q => s2.effFor q.1 q.2)
  if s2.isDirect then pure (completes (.stm 1#8 1#2 3#7 4#7) b (Spec.counted s2 [es]))
  else
    let ((), s3) ← enterChunk .scalar es (if es.any Eff.isRemote then 1 else 0) s2
    pure (completes (.stm 1#8 1#2 3#7 4#7) b (Spec.counted s3 [])))
theorem witness_Stm : stmCase memBase = true ∧ memBase.isDirect = true := by decide +kernel
theorem witness_StmInChunk : stmCase inChunk = true := by decide +kernel

theorem witness_LdMisaligned :
    trapsWith base (.ld 0#8 3#2 1#7 9#7) (fun _ => { cause := .misaligned, av := true, acc := 0, info1 := 5 }) = true := by decide +kernel
theorem witness_StMisaligned :
    trapsWith base (.st 0#8 3#2 1#7 9#7) (fun _ => { cause := .misaligned, av := true, acc := 1, info1 := 5 }) = true := by decide +kernel
/-- An address with bits 56:52 set does not translate (R334). -/
theorem witness_LdUntranslated :
    let b := base.setX 3 0x10000000000000
    at_ b (.ld 0#8 3#2 3#7 9#7) (fun s1 =>
      match s1.translate s1.th.vf s1.th.asid s1.th.level (Spec.addr s1 3 0) .read with
      | .error (.trap t) => pure (raises (.ld 0#8 3#2 3#7 9#7) b s1 t)
      | _ => pure false) = true := by decide +kernel
theorem witness_StUntranslated :
    let b := base.setX 3 0x10000000000000
    at_ b (.st 0#8 3#2 3#7 9#7) (fun s1 =>
      match s1.translate s1.th.vf s1.th.asid s1.th.level (Spec.addr s1 3 0) .write with
      | .error (.trap t) => pure (raises (.st 0#8 3#2 3#7 9#7) b s1 t)
      | _ => pure false) = true := by decide +kernel
theorem witness_LdPoison :
    let b := memBase.setPoison 0x200 true
    at_ b (.ld 0#8 3#2 3#7 9#7) (fun s1 => do
      let (pa, s2) ← checkAccess (Spec.addr s1 3 0) 8 8 .read .load s1
      pure (s2.loadPoison s2.fs .scalar pa 8 &&
        raises (.ld 0#8 3#2 3#7 9#7) b s1 { cause := .dataPoison, av := true, acc := 0, info1 := 0x1000 })) = true := by decide +kernel

/-- An ordinary atomic of 4 bytes at x3 on what stands there, with x4 or, for `cas`, x9 and x5. -/
def amoCase (c : BitVec 4) : Bool := at_ memBase (.amo 2#2 c 3#7 4#7) (fun s1 => do
  let (pa, s2) ← checkAccess (Spec.addr s1 3 0) 4 4 .rmw .atomic s1
  let ((), s3) ← readLines (linesOf pa 4) s2
  let found := s3.loadView s3.fs (.atomic false) pa 4
  let old := 0x83828180
  let ((), s4) ← uncounted (.atomic false) [s3.effFor pa (leBytes 4 (Spec.amo c.toNat 32 old (s1.getX 4).toNat))] s3
  pure (found == old && s1.th.drained && !s2.loadPoison s2.fs (.atomic false) pa 4 && completes (.amo 2#2 c 3#7 4#7) memBase (Spec.counted s4 [])))
theorem witness_Amo : ((List.range 10).map (BitVec.ofNat 4)).all amoCase = true := by decide +kernel
def amofCase (c : BitVec 4) : Bool := at_ memBase (.amof 3#2 c 3#7 4#7) (fun s1 => do
  let (pa, s2) ← checkAccess (Spec.addr s1 3 0) 8 8 .rmw .atomic s1
  let ((), s3) ← readLines (linesOf pa 8) s2
  let found := s3.loadView s3.fs (.atomic true) pa 8
  let old := 0x8786858483828180
  let ((), s4) ← uncounted (.atomic true) [s3.effFor pa (leBytes 8 (Spec.amo c.toNat 64 old (s1.getX 4).toNat))] s3
  pure (found == old && !s2.loadPoison s2.fs (.atomic true) pa 8 &&
    completes (.amof 3#2 c 3#7 4#7) memBase (Spec.countedLoad s4 [.x 4 (Spec.extended true 64 old) none])))
theorem witness_Amof : ((List.range 10).map (BitVec.ofNat 4)).all amofCase = true := by decide +kernel
theorem test_amo_max : (Spec.amo 5 32 0x80000000 1, Spec.amo 7 32 0x80000000 1, Spec.amo 0 32 0xFFFFFFFF 2) = (1, 0x80000000, 1) := by decide
def casCase (x9 : Word) : Bool :=
  let b := memBase.setX 9 x9
  at_ b (.cas 0#1 5#7 3#7 9#7) (fun s1 => do
    let (pa, s2) ← checkAccess (Spec.addr s1 3 0) 4 4 .rmw .atomic s1
    let ((), s3) ← readLines (linesOf pa 4) s2
    let found := s3.loadView s3.fs (.atomic true) pa 4
    let old := 0x83828180
    let ((), s4) ← (if old = (s1.getX 9).toNat % 2 ^ 32 then uncounted (.atomic true) [s3.effFor pa (leBytes 4 (s1.getX 5).toNat)] s3
      else countEntries 1 s3)
    pure (found == old && completes (.cas 0#1 5#7 3#7 9#7) b (Spec.countedLoad s4 [.x 9 (Spec.extended true 32 old) none])))
theorem witness_Cas : casCase 0x83828180 = true ∧ casCase 0 = true := by decide +kernel

/-- x3 names a host word, and the slot waits as `h` says. -/
def edgeBase (h : Option Hold) : State := (baseTh (fun t => { t with hold := h })).setX 3 0x8000000001000

theorem witness_EdgeSent : [Instr.amoE 2#2 0#4 3#7 4#7, .amofE 2#2 0#4 3#7 4#7].all (fun i => at_ (edgeBase none) i (fun s1 => do
    let (_, s2) ← checkAccess (Spec.addr s1 3 0) 4 4 .rmw .line s1
    pure (after i (edgeBase none) (fun t => t.th.edges == s2.th.edges + 1 && t.rf == s2.rf && t.mem == s2.mem)))) = true := by decide +kernel
theorem witness_EdgeAnswered :
    at_ (edgeBase (some (.edgeReply (.old 0x80000000)))) (.amofE 2#2 0#4 3#7 4#7) (fun s1 =>
      pure (completes (.amofE 2#2 0#4 3#7 4#7) (edgeBase (some (.edgeReply (.old 0x80000000)))) (s1.setX 4 0xFFFFFFFF80000000))) = true ∧
    effect (edgeBase (some (.edgeReply (.old 1)))) (.amoE 2#2 0#4 3#7 4#7) id = true ∧
    trapsWith (edgeBase (some (.edgeReply (.fault .pageProtection)))) (.amofE 2#2 0#4 3#7 4#7)
      (fun s1 => { cause := .pageProtection, av := true, acc := 3, orig := 1, info1 := Spec.addr s1 3 0 }) = true ∧
    trapsWith (edgeBase (some (.edgeReply .poison))) (.amofE 2#2 0#4 3#7 4#7)
      (fun s1 => { cause := .dataPoison, av := true, acc := 3, info1 := Spec.addr s1 3 0 }) = true := by decide +kernel

def resvBase (h : Option Hold) (r : Option Resv) : State :=
  let s := memBase.setTh { memBase.th with hold := h, resv := r }
  s

theorem witness_Qres :
    effect (resvBase (some (.qresReply 0x80000000 false)) none) (.qres 0#1 3#7 9#7) (fun s1 => s1.setX 9 0xFFFFFFFF80000000) = true ∧
    trapsWith (resvBase (some (.qresReply 1 true)) none) (.qres 0#1 3#7 9#7)
      (fun _ => { cause := .dataPoison, av := true, acc := 3, broken := true, info1 := 0x1000 }) = true ∧
    trapsWith (resvBase none (some ⟨0x1000, 4, false, 0⟩)) (.qres 0#1 3#7 9#7) (fun _ => { cause := .illegalOperand }) = true ∧
    at_ (resvBase none none) (.qres 0#1 3#7 9#7) (fun s1 => do
      let (pa, s2) ← resvAddr (Spec.addr s1 3 0) 4 .rmw s1
      pure (after (.qres 0#1 3#7 9#7) (resvBase none none) (fun t => t.rf == s2.rf && t.mem == s2.mem &&
        (mgetD t.homes pa ⟨[], false⟩).queue == (mgetD s2.homes pa ⟨[], false⟩).queue ++ [s2.fs]))) = true := by decide +kernel
theorem witness_Qrel :
    effect (resvBase (some .qrelDone) none) (.qrel 0#1 3#7 4#7) id = true ∧
    trapsWith (resvBase none (some ⟨0x1004, 4, false, 0⟩)) (.qrel 0#1 3#7 4#7) (fun _ => { cause := .illegalOperand }) = true ∧
    at_ (resvBase none (some ⟨0x1000, 4, false, 0⟩)) (.qrel 0#1 3#7 4#7) (fun s1 => do
      let (pa, s2) ← resvAddr (Spec.addr s1 3 0) 4 .write s1
      let ((), s3) ← performNow [.write pa (leBytes 4 (s1.getX 4).toNat)] s2
      pure (after (.qrel 0#1 3#7 4#7) (resvBase none (some ⟨0x1000, 4, false, 0⟩)) (fun t => decide (t.th.resv = none) &&
        !t.poisoned (pa / 8) && t.mem == s3.mem && t.rf == s3.rf))) = true := by decide +kernel

theorem witness_WordsWithoutEffect :
    effect base (.pf 0#8 2#2 3#7 1#7) (fun s1 => { s1 with coh := s1.coh ++ [⟨.readm, dieOf s1.fs, 32⟩] }) = true ∧
    effect base (.pf 0#8 2#2 3#7 0#7) (fun s1 => { s1 with coh := s1.coh ++ [⟨.reads, dieOf s1.fs, 32⟩] }) = true ∧ effect base (.hint 5#24 1#1) id = true ∧
    effect base .cut id = true ∧ effect base .isync (fun s1 => s1.setTh { s1.th with fetched := [] }) = true := by decide +kernel

/-! Streams, waits, monitors, chunk control, lines. -/

/-- A descriptor of one dimension of four words at x20: base, header, count and stride. -/
def sopenBase : State := [(20, 0x1000), (21, 0), (22, 0x0000000400000004)].foldl (fun (z : State) (p : Nat × Word) => z.setX p.1 p.2) base

theorem witness_Sopen :
    at_ sopenBase (.sopen 0#1 1#1 0#1 2#2 0#5 20#7) (fun s1 =>
      let b := Spec.descriptor s1 0 1 0 2 0 20
      pure (s1.engineFree && b.total == 4 &&
        completes (.sopen 0#1 1#1 0#1 2#2 0#5 20#7) sopenBase (s1.setArch { s1.arch with ports := mput s1.arch.ports 0 (.stream b) }))) = true ∧
    trapsWith (sopenBase.setX 21 4) (.sopen 0#1 1#1 0#1 2#2 0#5 20#7) (fun _ => { cause := .illegalOperand }) = true ∧
    trapsWith (sopenBase.setX 62 1) (.sopen 0#1 1#1 0#1 2#2 0#5 61#7) (fun _ => { cause := .illegalOperand }) = true := by decide +kernel
/-- With every engine of the core bound the next `sopen` raises PORT. -/
theorem witness_SopenNoEngine :
    let e : PortBind := .stream ⟨0x1000, [(2, 4)], 2, false, false, false, 0, false, []⟩
    let b := sopenBase.setArch { sopenBase.arch with ports := [(1, e), (2, e), (3, e), (4, e), (5, e), (6, e), (7, e), (8, e)] }
    b.engineFree = false ∧ trapsWith b (.sopen 0#1 1#1 0#1 2#2 0#5 20#7) (fun _ => { cause := .port, portc := some 0 }) = true := by decide +kernel
theorem witness_Sclose :
    effect base (.sclose 0#5) id = true ∧
    after (.sclose 0#5) streamBase (fun t => t.arch.ports == mdel streamBase.arch.ports 0 && t.rf == streamBase.rf && t.mem == streamBase.mem) = true := by
  decide +kernel
theorem witness_Sseek :
    let b : Stream := ⟨0x1000, [(2, 4)], 2, false, false, false, 0, false, []⟩
    effect (streamBase.setX 9 2) (.sseek 0#5 9#7) (fun s1 => s1.setArch { s1.arch with
      ports := mput s1.arch.ports 0 (.stream { b with pos := 2, endFlag := false, ahead := [] }) }) = true ∧
    trapsWith (streamBase.setX 9 3) (.sseek 0#5 9#7) (fun _ => { cause := .illegalOperand }) = true := by decide +kernel
theorem witness_Spos : effect streamBase (.spos 16#5 9#7) (fun s1 => s1.setX 9 0) = true := by decide +kernel

/-- One load and one store outstanding in direct mode. -/
def busyBase : State := baseTh (fun t => { t with loads := [[.x 9 1 none]], stores := [[[.write 0x1000 [1]]]] })

theorem witness_Wait :
    effect base (.wait 0#4 0#4 0#4 0#4) id = true ∧
    trapsWith (baseTh (fun t => { t with heldFaults := [(0, { cause := .pageAbsent, held := true })], copyn := 2 })) (.wait 15#4 0#4 15#4 15#4)
      (fun s1 => (s1.th.dueFault 0).getD { cause := .debug }) = true ∧
    ((baseTh (fun t => { t with heldFaults := [(0, { cause := .pageAbsent, held := true })], copyn := 2 })).th.dueFault 0).isSome = true := by decide +kernel
/-- The outstanding store keeps the `wait` from completing, in direct mode. -/
theorem witness_WaitHeld :
    let b := baseTh (fun t => { t with stores := [[[.write 0x1000 [1]]]] })
    b.th.dir = true ∧ at_ b (.wait 15#4 15#4 0#4 15#4) (fun s1 =>
      pure (s1.th.stores.length == 1 && decide (nextOf (exec (.wait 15#4 15#4 0#4 15#4) b) = some (b.holdUnit .retry)))) = true ∧
    effect b (.wait 15#4 15#4 1#4 15#4) id = true := by decide +kernel
theorem witness_Fence :
    effect base .fence id = true ∧ effect base .fenceE id = true ∧
    (let b := baseTh (fun t => { t with stores := [[[.write 0x1000 [1]]]] })
     at_ b .fence (fun _ => pure (decide (nextOf (exec .fence b) = some (b.holdUnit .retry)))) = true) ∧
    (let b := baseTh (fun t => { t with edges := 1 })
     at_ b .fenceE (fun s1 => pure (s1.th.edges == 1 && decide (nextOf (exec .fenceE b) = some (b.holdUnit .retry)))) = true) := by decide +kernel

theorem witness_Mona : at_ base (.mona 1#10 3#7 3#2) (fun s1 => do
    let (pa, s2) ← checkAccess (Spec.addr s1 3 1) 1 1 .read .atomic s1
    pure (completes (.mona 1#10 3#7 3#2) base (s2.setTh { s2.th with mons := mput s2.th.mons 3 (pa / 128, false) }))) = true := by decide +kernel
theorem witness_Monw :
    effect (baseTh (fun t => { t with mons := [(0, 32, true), (2, 33, false)] })) (.monw 0#7 9#7) (fun s1 =>
      (s1.setX 9 1).setTh { s1.th with mons := [(0, 32, false), (2, 33, false)] }) = true ∧
    effect base (.monw 0#7 9#7) (fun s1 => s1.setX 9 0) = true ∧
    (let b := baseTh (fun t => { t with mons := [(2, 33, false)] })
     at_ b (.monw 1#7 9#7) (fun s1 => pure (decide (nextOf (exec (.monw 1#7 9#7) b) = some (b.holdUnit (.sleep false (some (s1.cycle + 5)))))))
       = true) ∧
    effect (baseTh (fun t => { t with hold := some (.sleepDone 0x21), mons := [(0, 32, true)] })) (.monw 0#7 9#7) (fun s1 =>
      (s1.setX 9 0x21).setTh { s1.th with mons := [(0, 32, false)] }) = true := by decide +kernel
theorem witness_Wsleep :
    effect (baseTh (fun t => { t with ready := true })) (.wsleep 0#7 9#7) (fun s1 => (s1.setX 9 16).setTh { s1.th with ready := false }) = true ∧
    at_ base (.wsleep 0#7 9#7) (fun _ => pure (decide (nextOf (exec (.wsleep 0#7 9#7) base) = some (base.holdUnit (.sleep true none))))) = true := by
  decide +kernel

/-- x3 names the first doubleword of the core's own scratchpad. -/
def spadOf (b : State) : State := b.setX 3 (BitVec.ofNat 64 (spadAddr (coreOf fetchSlot) 0))

theorem witness_Watch :
    at_ (spadOf base) (.watch 0#10 3#7) (fun s1 => do
      let (pa, s2) ← checkAccess (Spec.addr s1 3 0) 8 8 .read .load s1
      pure (isSpad pa && spadCore pa == coreOf s2.fs && s2.isDirect &&
        completes (.watch 0#10 3#7) (spadOf base) { s2 with watches := mput s2.watches (pa / 8) s2.fs })) = true ∧
    after (.watch 0#10 3#7) (spadOf inChunk) (fun t => t.watches == [] &&
      (t.th.chunks.getLast?.map (·.deferred)) == some [.watch (spadAddr (coreOf fetchSlot) 0)]) = true ∧
    trapsWith base (.watch 0#10 3#7) (fun s1 => { cause := .pageProtection, av := true, acc := 0, info1 := Spec.addr s1 3 0 }) = true := by
  decide +kernel

theorem witness_DirectAndResume :
    effect base .resume (fun s1 => s1.setArch { s1.arch with status := putBit s1.arch.status 12 false }) = true ∧
    effect inChunk .direct (fun s1 => s1.setArch { s1.arch with status := putBit s1.arch.status 12 true }) = true := by decide +kernel
/-- The mode of a thread of an ordered launch traps on both. -/
theorem witness_DirectInOrdered :
    let b := baseTh (fun t => { t with a := { t.a with status := t.a.status ||| 0x2000 } })
    (b.th.det || b.th.ord) = true := by decide +kernel

/-- x4 names a line of HBM, and the line is locked as `q` says. -/
def lockBase (q : Option (Option Nat)) : State :=
  { base with locks := match q with | some p => [(32, p)] | none => [] }

def lockTo (b : State) (v : Bool) (keep : State → Bool) : Bool := at_ b (.lock 3#7 2#3) (fun s1 => do
  let (pa, s2) ← checkAccess (Spec.addr s1 3 0) 1 1 .read .atomic s1
  pure (isHbm pa && after (.lock 3#7 2#3) b (fun t => t.arch.kreg 2 == Spec.allBits v && t.mem == s2.mem && t.rf == s2.rf && keep t)))

theorem witness_Lock :
    lockTo (lockBase (some none)) true (fun t => t.locks == [(32, none)]) = true ∧
    lockTo (lockBase (some (some 3))) false (fun t => t.locks == [(32, some 3)]) = true ∧
    (base.lockRoom 32 none = true ∧ lockTo base true (fun t => t.locks == [(32, none)]) = true) ∧
    trapsWith (base.setX 3 0x8000000000000) (.lock 3#7 2#3) (fun s1 => { cause := .pageProtection, av := true, acc := 0, info1 := Spec.addr s1 3 0 })
      = true := by decide +kernel
/-- The slot's partition has no lock quota. -/
theorem witness_LockFull :
    let b := (partBase).setX 3 0x1000
    b.lockRoom 32 (b.partOf b.fs) = false ∧ lockTo b false (fun t => t.locks == []) = true := by decide +kernel
theorem witness_Unlock :
    after (.unlock 3#7) (lockBase (some none)) (fun t => t.locks == []) = true ∧
    after (.unlock 3#7) (lockBase (some (some 3))) (fun t => t.locks == [(32, some 3)]) = true := by decide +kernel

theorem witness_CacheRanges :
    (let b := base.setX 9 (2 ^ 30 + 1)
     trapsWith b (.clean 9#7 3#7) (fun _ => { cause := .illegalOperand }) && trapsWith b (.inval 9#7 3#7) (fun _ => { cause := .illegalOperand }) &&
      trapsWith b (.iflush 9#7 3#7) (fun _ => { cause := .illegalOperand })) = true ∧
    (let b := { base with dirs := [(32, [.m, .i, .i, .i])], icache := [(icKey (coreOf fetchSlot) 32, [])] }
     after (.clean 5#7 3#7) b (fun t => t.dieState 32 0 != .m && t.dieState 32 0 != .o && t.th.stores == [[]] && t.mem == b.mem) &&
      after (.inval 5#7 3#7) b (fun t => t.dieState 32 0 == .i && t.th.stores == [[]] && t.mem == b.mem) &&
      after (.iflush 5#7 3#7) b (fun t => mget t.icache (icKey (coreOf fetchSlot) 32) == none && t.mem == b.mem)) = true := by decide +kernel

/-! Vectors. -/

/-- Thirty-two lanes: v1 holds the words 1, 2, 3, …, v2 twice those, v4 −1 in each; k1 makes even elements active. -/
def vecBase : State :=
  let l := List.range 32
  base.setArch { base.arch with
    grant := 32
    k := [(1, BitVec.ofNat 2048 0x5555555555555555)]
    vregs := (l.flatMap (fun i => [(32 * i + 1, BitVec.ofNat 32 (i + 1)), (32 * i + 2, BitVec.ofNat 32 (2 * i + 2)), (32 * i + 4, 0xFFFFFFFF)])) }

def vOps : List VOp := [.vadd, .vsub, .vmul, .vmulh, .vand, .vor, .vxor, .vsll, .vsrl, .vsra, .vmin, .vmax, .vminu, .vmaxu]

/-- What a vector field takes is what the unit leaves. -/
def vwrites (i : Instr) (s s1 : State) (d : BitVec 5) (w : Nat) (vs : List (Option Nat)) (adv : Bool) : Except Stop Bool := do
  let ((), t) ← dstV d w vs adv s1
  pure (completes i s t)

def vintCase (o : VOp) : Bool := at_ vecBase (Spec.vintWord o 2 0 1 4 1 3) (fun s1 => do
  let act := Spec.active s1 1 2
  let (xs, s2) ← srcV 1 32 act false s1
  let (ys, s3) ← srcV 4 32 act false s2
  vwrites (Spec.vintWord o 2 0 1 4 1 3) vecBase s3 3 32 (Spec.onActive act (List.zipWith (o.eval 32) xs ys)) false)

theorem witness_VectorInteger : vOps.all vintCase = true := by decide +kernel
theorem test_vadd : after (.vadd 2#2 0#1 1#3 4#5 1#5 3#5) vecBase (fun t =>
    t.arch.vbits 3 0 32 == 0 && t.arch.vbits 3 32 32 == 0 && t.arch.vbits 3 64 32 == 2) = true := by decide +kernel

def vxCase (p : Instr × VOp) : Bool := at_ vecBase p.1 (fun s1 => do
  let act := Spec.active s1 1 2
  let (xs, s2) ← srcV 1 32 act false s1
  let (y, s3) ← srcA 5 s2
  vwrites p.1 vecBase s3 3 32 (Spec.onActive act (xs.map (fun x => p.2.eval 32 x (y.toNat % 2 ^ 32)))) false)
theorem witness_VectorIntegerScalar :
    [(Instr.vaddX 2 1 5 1 3, VOp.vadd), (.vsllX 2 1 5 1 3, .vsll), (.vsrlX 2 1 5 1 3, .vsrl), (.vsraX 2 1 5 1 3, .vsra)].all vxCase = true := by
  decide +kernel

theorem witness_VectorElements : (vecBase.arch.setVbits 3 (16 * 5) 16 0x12345).vbits 3 (16 * 5) 16 = 0x2345 := by decide +kernel

/-- As `vecBase` with eight elements: v1 holds 1.0, v2 0.5 in `.s`, v4 zeros. -/
def vfBase : State :=
  let l := List.range 32
  (base.setX 10 0x3F800000).setArch { base.arch with
    grant := 32, fctl := 0
    k := [(1, BitVec.ofNat 2048 0x0101)]
    vregs := (l.flatMap (fun i => [(32 * i + 1, 0x3F800000), (32 * i + 2, 0x3F000000)])) }

/-- Floating-point results go to v3 with their flags, none enabled. -/
def vfloat (i : Instr) (b s2 : State) (act : List Bool) (w : Nat) (rs : List (Nat × FFlags)) (adv : Bool) : Except Stop Bool := do
  let r ← vwrites i b (Spec.withFlags s2 (Spec.orFlags act rs)) 3 w (Spec.onActive act (rs.map (·.1))) adv
  pure (r && (act.zip rs).all (fun p => !p.1 || decide (Spec.trapping s2 p.2.2 = 0)))

def vfpCase (o : FpOp) : Bool := at_ vfBase (Spec.vfpWord o 2 0 1 2 1 3) (fun s1 => do
  let act := Spec.active s1 1 2
  let (xs, s2) ← srcV 1 32 act false s1
  let (ys, s3) ← srcV 2 32 act false s2
  vfloat (Spec.vfpWord o 2 0 1 2 1 3) vfBase s3 act 32 (List.zipWith (o.eval fmtS (Spec.rm s3)) xs ys) false)
theorem witness_VectorFloat : fpOps.all vfpCase = true := by decide +kernel
theorem test_vfadd : after (.vfadd 2#2 0#1 1#3 2#5 1#5 3#5) vfBase (fun t => t.arch.vbits 3 0 32 == 0x3FC00000 && t.arch.vbits 3 32 32 == 0) = true := by
  decide +kernel
def vfxCase (p : Instr × FpOp) : Bool := at_ vfBase p.1 (fun s1 => do
  let act := Spec.active s1 1 2
  let (xs, s2) ← srcV 1 32 act false s1
  let (y, s3) ← srcA 10 s2
  vfloat p.1 vfBase s3 act 32 (xs.map (fun x => p.2.eval fmtS (Spec.rm s3) x (y.toNat % 2 ^ 32))) false)
theorem witness_VectorFloatScalar : [(Instr.vfaddX 2 1 10 1 3, FpOp.fadd), (.vfmulX 2 1 10 1 3, .fmul)].all vfxCase = true := by decide +kernel
theorem witness_Vffma : at_ vfBase (.vffma 2#2 0#1 1#3 2#5 1#5 3#5) (fun s1 => do
    let act := Spec.active s1 1 2
    let (xs, s2) ← srcV 1 32 act false s1
    let (ys, s3) ← srcV 2 32 act false s2
    let (ds, s4) ← srcV 3 32 act false s3
    vfloat (.vffma 2#2 0#1 1#3 2#5 1#5 3#5) vfBase s4 act 32
      (((xs.zip ys).zip ds).map (fun p => fFma fmtS (Spec.rm s4) p.1.1 p.1.2 p.2)) false) = true := by decide +kernel
theorem witness_VffmaX : at_ vfBase (.vffmaX 2#2 1#3 10#7 1#5 3#5) (fun s1 => do
    let act := Spec.active s1 1 2
    let (xs, s2) ← srcV 1 32 act false s1
    let (y, s3) ← srcA 10 s2
    let (ds, s4) ← srcV 3 32 act false s3
    vfloat (.vffmaX 2#2 1#3 10#7 1#5 3#5) vfBase s4 act 32
      ((xs.zip ds).map (fun p => fFma fmtS (Spec.rm s4) p.1 (y.toNat % 2 ^ 32) p.2)) false) = true := by decide +kernel
theorem witness_Vfsqrt : at_ vfBase (.vfsqrt 2#2 0#1 1#3 1#5 3#5) (fun s1 => do
    let act := Spec.active s1 1 2
    let (xs, s2) ← srcV 1 32 act false s1
    vfloat (.vfsqrt 2#2 0#1 1#3 1#5 3#5) vfBase s2 act 32 (xs.map (fun x => fSqrt fmtS (Spec.rm s2) x)) false) = true := by decide +kernel
/-- 1.0 divided by 0 in elements 0 and 8, with DZ enabled: the trap names the first. -/
theorem witness_VectorFloatTraps :
    let b := vfBase.setArch { vfBase.arch with fctl := 0x1F00 }
    let i := Spec.vfpWord .fdiv 2 0 1 4 1 3
    at_ b i (fun s1 => do
      let act := Spec.active s1 1 2
      let (xs, s2) ← srcV 1 32 act false s1
      let (ys, s3) ← srcV 4 32 act false s2
      let rs := List.zipWith (FpOp.eval .fdiv fmtS (Spec.rm s3)) xs ys
      pure (((act.zip rs)[0]?).any (fun p => p.1 && decide (Spec.trapping s3 p.2.2 ≠ 0)) &&
        raises i b s1 { cause := .arith, afl := Spec.orFlags act rs, ev := true, info2 := 0 })) = true := by decide +kernel

theorem witness_Vcmp : at_ vecBase (.vcmp 2#2 2#3 1#3 2#5 1#5 3#3) (fun s1 => do
    let act := Spec.active s1 1 2
    let (xs, s2) ← srcV 1 32 act false s1
    let (ys, s3) ← srcV 2 32 act false s2
    pure (decide (act.length ≤ 2048) && xs.length == act.length && ys.length == act.length &&
      completes (.vcmp 2#2 2#3 1#3 2#5 1#5 3#3) vecBase (s3.setArch (s3.arch.setK 3 (Spec.predicate
        (List.zipWith (fun b r => b && r) act (List.zipWith (fun x y => intCond 2 32 x y) xs ys))))))) = true := by decide +kernel
theorem test_vcmp : after (.vcmp 2#2 2#3 1#3 2#5 1#5 3#3) vecBase (fun t => t.arch.kreg 3 == 0x55555555#2048) = true := by decide +kernel
theorem witness_Vfcmp : at_ vfBase (.vfcmp 2#2 2#3 1#3 1#5 2#5 3#3) (fun s1 => do
    let act := Spec.active s1 1 2
    let (xs, s2) ← srcV 2 32 act false s1
    let (ys, s3) ← srcV 1 32 act false s2
    let rs := List.zipWith (fun x y => fCond fmtS 2 x y) xs ys
    let t := Spec.withFlags s3 (Spec.orFlags act rs)
    pure ((act.zip rs).all (fun p => !p.1 || decide (Spec.trapping s3 p.2.2 = 0)) &&
      completes (.vfcmp 2#2 2#3 1#3 1#5 2#5 3#3) vfBase (t.setArch (t.arch.setK 3 (Spec.predicate
        (List.zipWith (fun b r => b && r.1) act rs)))))) = true := by decide +kernel
theorem witness_Vsel : at_ vecBase (.vsel 2#2 1#3 2#5 1#5 3#5) (fun s1 => do
    let act := Spec.active s1 1 2
    let all := act.map (fun _ => true)
    let (xs, s2) ← srcV 1 32 all false s1
    let (ys, s3) ← srcV 2 32 all false s2
    vwrites (.vsel 2#2 1#3 2#5 1#5 3#5) vecBase s3 3 32
      (Spec.onActive all ((act.zip (xs.zip ys)).map (fun p => if p.1 then p.2.1 else p.2.2))) false) = true := by decide +kernel
theorem witness_Vperm : at_ vecBase (.vperm 2#2 1#3 2#5 1#5 3#5) (fun s1 => do
    let act := Spec.active s1 1 2
    let (xs, s2) ← srcV 1 32 act false s1
    let (js, s3) ← srcV 2 32 act false s2
    vwrites (.vperm 2#2 1#3 2#5 1#5 3#5) vecBase s3 3 32 (Spec.onActive act (js.map (fun j => xs.getD j 0))) false) = true := by decide +kernel
theorem witness_Vcomp : at_ vecBase (.vcomp 2#2 1#3 1#5 3#5) (fun s1 => do
    let act := Spec.active s1 1 2
    let (xs, s2) ← srcV 1 32 act false s1
    let front := ((act.zip xs).filter (fun p => p.1)).map (fun p => p.2)
    vwrites (.vcomp 2#2 1#3 1#5 3#5) vecBase s2 3 32 ((front ++ List.replicate (act.length - front.length) 0).map some) false) = true := by
  decide +kernel
theorem test_vcomp : after (.vcomp 2#2 1#3 1#5 3#5) vecBase (fun t =>
    t.arch.vbits 3 0 32 == 1 && t.arch.vbits 3 32 32 == 3 && t.arch.vbits 3 (32 * 16) 32 == 0) = true := by decide +kernel
theorem witness_Vbcast : at_ vecBase (.vbcast 2#2 1#3 5#7 3#5) (fun s1 => do
    let (_, s2) ← srcA 5 s1
    vwrites (.vbcast 2#2 1#3 5#7 3#5) vecBase s2 3 32 ((Spec.active s1 1 2).map (fun b => if b then some 2 else none)) false) = true := by
  decide +kernel
theorem witness_Vslide : at_ vecBase (.vslide 2#2 1#3 4#7 1#5 3#5) (fun s1 => do
    let act := Spec.active s1 1 2
    let (xs, s2) ← srcV 1 32 act false s1
    let (n, s3) ← srcA 4 s2
    vwrites (.vslide 2#2 1#3 4#7 1#5 3#5) vecBase s3 3 32 (Spec.onActive act ((List.range act.length).map (fun j =>
      if n.toInt ≤ (j : Int) then xs.getD ((j : Int) - n.toInt).toNat 0 else 0))) false) = true := by decide +kernel
theorem witness_Vext : at_ vecBase (.vext 2#2 5#7 4#5 9#7) (fun s1 => do
    let (_, s2) ← srcV 4 32 (Spec.active s1 0 2) false s1
    let (_, s3) ← srcA 5 s2
    writes (.vext 2#2 5#7 4#5 9#7) vecBase s3 9 (-1)) = true := by decide +kernel

/-- `.s` to `.hf` of 1.0 under FCTL's rounding; `.s` to a narrow format; and `.s` to `.hf` with random bits. -/
def vcvtCase (i : Instr) (dst : Nat) : Bool := at_ vfBase i (fun s1 => do
  let act := Spec.active s1 1 2
  let (xs, s2) ← srcV 1 32 act false s1
  vfloat i vfBase s2 act (CFmt.ofVec dst).width (xs.map (fun x => convert (CFmt.ofVec dst) (CFmt.ofVec 6) (RMode.ofCode 0 0 0) false x)) false)
theorem witness_Vcvt : vcvtCase (.vcvt 0 4 1 0 6 1 3) 4 = true ∧ vcvtCase (.vcvtNarrow 0 0 1 0 6 1 3) 8 = true := by decide +kernel
theorem witness_VcvtSr : at_ vfBase (.vcvtSr 4#4 2#2 1#3 2#5 1#5 3#5) (fun s1 => do
    let act := Spec.active s1 1 2
    let (xs, s2) ← srcV 1 32 act false s1
    let (us, s3) ← srcV 2 16 (act.map (fun _ => true)) false s2
    vfloat (.vcvtSr 4#4 2#2 1#3 2#5 1#5 3#5) vfBase s3 act 16
      (List.zipWith (fun x u => convert (CFmt.ofVec 4) (CFmt.ofVec 6) (.sr u) (s3.arch.fctl.getLsbD 5) x) xs us) false) = true := by decide +kernel
def vredCase (b : State) (o : BitVec 3) : Bool := at_ b (.vred 2#2 o 1#3 1#5 3#5) (fun s1 => do
  let act := Spec.active s1 1 2
  let (xs, s2) ← srcV 1 32 act false s1
  let r := redTree o.toNat 2 (Spec.rm s2) (Spec.onActive act xs)
  let t := Spec.withFlags s2 (r.2.foldl (fun acc p => acc ||| p.2) 0)
  let w ← vwrites (.vred 2#2 o 1#3 1#5 3#5) b t 3 32 [some r.1] false
  pure (w && !act.isEmpty && r.2.all (fun p => decide (Spec.trapping s2 p.2 = 0))))
theorem witness_Vred : vredCase vecBase 0 = true ∧ vredCase vfBase 5 = true := by decide +kernel
/-- The even elements 1, 3, …, 31 of v1 add up to 256. -/
theorem test_vred : after (.vred 2#2 0#3 1#3 1#5 3#5) vecBase (fun t => t.arch.vbits 3 0 32 == 256) = true := by decide +kernel
def vscanCase (b : State) (o : BitVec 3) : Bool := at_ b (.vscan 2#2 o 1#3 1#5 3#5) (fun s1 => do
  let act := Spec.active s1 1 2
  let (xs, s2) ← srcV 1 32 act false s1
  let vs := Spec.onActive act xs
  let rs := vs.zipIdx.map (fun p => if p.1.isSome then some (redTree o.toNat 2 (Spec.rm s2) (vs.take (p.2 + 1))) else none)
  let fl := (rs.filterMap id).flatMap (fun r => r.2)
  vwrites (.vscan 2#2 o 1#3 1#5 3#5) b (Spec.withFlags s2 (fl.foldl (fun acc p => acc ||| p.2) 0)) 3 32 (rs.map (fun r => r.map (fun x => x.1))) false)
theorem witness_Vscan : vscanCase vecBase 0 = true ∧ vscanCase vfBase 5 = true := by decide +kernel
theorem witness_Vrng : at_ vecBase (.vrng 1#3 5#7 1#5 3#5) (fun s1 => do
    let act := Spec.active s1 1 3
    let (xs, s2) ← srcV 1 64 act false s1
    let (seed, s3) ← srcA 5 s2
    vwrites (.vrng 1#3 5#7 1#5 3#5) vecBase s3 3 64
      (Spec.onActive act (xs.map (fun x => (arxGen seed (BitVec.ofNat 64 x)).toNat))) false) = true := by decide +kernel

/-- The words of the special functions open, and their sources are read. -/
theorem witness_Special : [Instr.vexp2 2 1 1 3, .vlog2 2 1 1 3, .vrcp 2 1 1 3, .vrsqrt 2 1 1 3, .vsin 2 1 1 3, .vcos 2 1 1 3].all (fun i =>
    at_ vfBase i (fun s1 => do
      let (xs, _) ← srcV 1 32 (Spec.active s1 1 2) false s1
      pure (xs.length == 32))) = true := by decide +kernel

/-! Lanes. -/

/-- x9 asks for `n` lanes. -/
def claimBase (n : Word) (g : Nat) : State := (base.setX 9 n).setArch { base.arch with grant := g }

theorem witness_Vclaim :
    at_ (claimBase 100 0) (.vclaim 9#7 10#7) (fun s1 => do
      let (x, s2) ← srcA 9 s1
      let q := min x.toNat 512 / 32 * 32
      let g := min q (s2.lanesFree s2.fs / 32 * 32)
      let ((), s3) ← setGrant g (q - g) s2
      let w ← writes (.vclaim 9#7 10#7) (claimBase 100 0) s3 10 (BitVec.ofNat 64 g)
      pure (w && s2.th.det == false)) = true ∧
    trapsWith (claimBase 100 32) (.vclaim 9#7 10#7) (fun _ => { cause := .claim }) = true := by decide +kernel
theorem witness_Vrenew :
    at_ (claimBase 64 96) (.vrenew 9#7 10#7) (fun s1 => do
      let (x, s2) ← srcA 9 s1
      let q := min x.toNat 512 / 32 * 32
      let c := s2.arch.grant
      let waiting := (s2.laneMates s2.fs).any (fun p => p.1 != s2.fs && p.2.a.unmet != 0)
      let g := if waiting = true ∧ s2.fairShare s2.fs < c then min q (s2.fairShare s2.fs) else min q ((c + s2.lanesFree s2.fs) / 32 * 32)
      let ((), s3) ← setGrant g (q - g) s2
      let w ← writes (.vrenew 9#7 10#7) (claimBase 64 96) s3 10 (BitVec.ofNat 64 g)
      pure (w && c != 0)) = true := by decide +kernel
theorem witness_Vrel : after .vrel vecBase (fun t => t.arch.grant == 0 && t.arch.vregs == [] && t.arch.k == vecBase.arch.k && t.rf == vecBase.rf) = true := by
  decide +kernel
theorem witness_Vlen : at_ vecBase (.vlen 1#2 9#7) (fun s1 => writes (.vlen 1#2 9#7) vecBase s1 9 64) = true := by decide +kernel
theorem witness_SetGrant : (match setGrant 0 32 vecBase with
    | .ok ((), t) => t.arch.grant == 0 && t.arch.unmet == 32 && t.arch.laneWord 1 0 == 0 && t.rf == vecBase.rf
    | .error _ => false) = true ∧
    (match setGrant 32 0 vecBase with
    | .ok ((), t) => t.arch.laneWord 1 31 == 32 && t.arch.laneWord 1 32 == 0
    | .error _ => false) = true := by decide +kernel

/-! Vector loads and stores. -/

/-- Eight lanes' worth of memory at x3, k1 the even elements, and v5 the indices 0, 1, 2, …. -/
def vmBase : State :=
  let s := memBase.setArch { memBase.arch with
    grant := 32
    k := [(1, BitVec.ofNat 2048 0x5)]
    vregs := (List.range 8).map (fun i => (32 * i + 5, BitVec.ofNat 32 i)) }
  s

/-- The elements as an access of their chunk finds them. -/
def readElems (pas : List (Nat × Nat)) (esz : Nat) : M (List Nat) := do
  readLines (pas.flatMap (fun p => linesOf p.2 (2 ^ esz))).dedup
  countReads pas.length
  pas.mapM (fun p => viewed .vector p.2 (2 ^ esz))

def vloadCase (i : Instr) (esz : Nat) (addr : State → Nat → Word) : Bool := at_ vmBase i (fun s1 => do
  let (pas, s2) ← checkElems (Spec.elements (Spec.active s1 1 esz) (addr s1)) esz true s1
  let s5 ← readElems pas esz s2
  pure (completes i vmBase (Spec.countedLoad s5.2 [.elems 3 (8 * 2 ^ esz) ((pas.zip s5.1).map (fun p => (p.1.1, p.2))) (pas.map (fun p => p.2))])))
theorem witness_Vld : vloadCase (.vld 1#6 0#1 1#3 3#7 2#2 3#5) 2
    (fun s j => addr57 (Spec.addr s 3 4 + BitVec.ofNat 64 (4 * j))) = true := by decide +kernel
theorem test_vld : after (.vld 0#6 0#1 1#3 3#7 2#2 3#5) vmBase (fun t => t.th.loads == [[.elems 3 32 [(0, 0x83828180), (2, 0x8B8A8988)] [0x1000, 0x1008]]]) = true := by
  decide +kernel
theorem witness_Vlds : vloadCase (.vlds 1#3 5#7 3#7 0#1 3#5) 2
    (fun s j => addr57 (Spec.addr s 3 0 + BitVec.ofNat 64 j * s.getX 5)) = true := by decide +kernel
theorem witness_Vgat : at_ vmBase (.vgat 1#3 1#1 5#5 3#7 0#1 3#5) (fun s1 => do
    let act := Spec.active s1 1 2
    let (idx, s2) ← srcV 5 32 act false s1
    let addr (j : Nat) : Word := Spec.addr s2 3 (signedOf 32 (idx.getD j 0) * 4)
    let (pas, s3) ← checkElems (Spec.elements act addr) 2 true s2
    let s5 ← readElems pas 2 s3
    pure (idx.length == act.length && completes (.vgat 1#3 1#1 5#5 3#7 0#1 3#5) vmBase
      (Spec.countedLoad s5.2 [.elems 3 32 ((pas.zip s5.1).map (fun p => (p.1.1, p.2))) (pas.map (fun p => p.2))]))) = true := by decide +kernel
def vstoreCase (i : Instr) (esz : Nat) (addr : State → Nat → Word) : Bool := at_ vmBase i (fun s1 => do
  let (vs, s2) ← srcV 5 (8 * 2 ^ esz) (Spec.active s1 1 esz) false s1
  let (pas, s3) ← checkElems (Spec.elements (Spec.active s1 1 esz) (addr s1)) esz false s2
  let effs := pas.map (fun p => s3.effFor p.2 (leBytes (2 ^ esz) (vs.getD p.1 0)))
  let ((), s4) ← countSingles .vector (effs.map (fun e => [e])) ((effs.filter Eff.isRemote).flatMap Eff.items).dedup.length s3
  pure (completes i vmBase s4))
theorem witness_Vst : vstoreCase (.vst 1#6 0#1 1#3 3#7 2#2 5#5) 2 (fun s j => addr57 (Spec.addr s 3 4 + BitVec.ofNat 64 (4 * j))) = true := by
  decide +kernel
theorem witness_Vsts : vstoreCase (.vsts 1#3 5#7 3#7 0#1 5#5) 2 (fun s j => addr57 (Spec.addr s 3 0 + BitVec.ofNat 64 j * s.getX 5)) = true := by
  decide +kernel
theorem witness_Vsct : at_ vmBase (.vsct 1#3 1#1 5#5 3#7 0#1 5#5) (fun s1 => do
    let act := Spec.active s1 1 2
    let (idx, s2) ← srcV 5 32 act false s1
    let (vs, s3) ← srcV 5 32 act false s2
    let addr (j : Nat) : Word := Spec.addr s3 3 (signedOf 32 (idx.getD j 0) * 4)
    let (pas, s4) ← checkElems (Spec.elements act addr) 2 false s3
    let effs := pas.map (fun p => s4.effFor p.2 (leBytes 4 (vs.getD p.1 0)))
    let ((), s5) ← countSingles .vector (effs.map (fun e => [e])) ((effs.filter Eff.isRemote).flatMap Eff.items).dedup.length s4
    pure (idx.length == act.length && completes (.vsct 1#3 1#1 5#5 3#7 0#1 5#5) vmBase s5)) = true := by decide +kernel

/-! Matrix commands and tiles. -/

/-- Descriptors: x20 A at row 0, x21 B at row 100, x22 an accumulator at row 300, x23 rows from 400, x24 a scratchpad region, x25 a shape
of 4 rows of 64 bytes; all with pitch 1. -/
def matBase : State :=
  [(20, 0x0000100000000000), (21, 0x0000100000000064), (22, 0x000010000000012C), (23, 0x0000100000000190), (24, 0x4000100000000000),
   (25, 0x40040)].foldl (fun (z : State) (p : Nat × Word) => z.setX p.1 p.2) base

/-- A command of the slot. -/
def aCmd (op : MatOp) (xd : Word) (run : Bool) : MatCmd :=
  { id := 9, gs := fetchSlot, uid := base.th.uid, fn := none, op := op, xd := xd, xa := 0, xb := 0, regs := ⟨0, 0, 0⟩
    satf := false, running := run, pieces := 0, waits := [], lid := none, left := 0, out := none, held := [] }

/-- The command enters its sub-queue. -/
def matCase (i : Instr) : Bool := match Spec.matCommand i with
  | none => false
  | some (op, a, b, d) => at_ matBase i (fun s1 => do
    let ((xa, xb, xd), s2) ← Spec.sources a b d s1
    let ((), s3) ← matChecks op xd xa xb s2
    let regs := (if op = .mmode then { s2.th.mat with mode := xa } else if op = .mscale then { s2.th.mat with sa := xa, sb := xb } else s2.th.mat)
    pure (s3 == s2 && decide (0 < s2.subqSize s2.fs) && after i matBase (fun t =>
      (mgetD t.matq (s2.subq s2.fs) []).map (fun c => (c.op, c.xd, c.xa, c.xb, c.gs, c.uid, c.running, c.regs)) ==
        [(op, xd, xa, xb, s2.fs, s2.th.uid, false, regs)] && t.th.mats.length == 1 && t.th.mat == regs && t.rf == s2.rf && t.tiles == s2.tiles)))

theorem witness_MatrixCommands : [Instr.mma 1 21 20 22, .mmode 0, .mscale 21 20, .mbar, .mld 25 24 23, .mzero 22, .mdrain 1 22 23,
    .mtrans 20 23, .mcpy 20 22].all matCase = true := by decide +kernel
theorem witness_MmaNarrow :
    let b := matBase.setTh { matBase.th with mat := ⟨0, 0xC000000000000000, 0xC000000000000000⟩ }
    after (.mmaNarrow 0 21 20 22) b (fun t => t.th.mats.length == 1) = true := by decide +kernel
theorem witness_MatrixFull :
    let c : MatCmd := aCmd .mbar 0 false
    let b := { matBase with matq := [(matBase.subq fetchSlot, List.replicate 16 c)] }
    at_ b .mbar (fun s1 => pure (decide (s1.subqSize s1.fs ≤ (mgetD s1.matq (s1.subq s1.fs) []).length) &&
      decide (nextOf (exec .mbar b) = some ((b.endsBefore true false 1).holdUnit .matrix)))) = true := by decide +kernel
theorem witness_MatrixRefused :
    trapsWith (matBase.setX 20 2) (.mmode 20#7) (fun _ => { cause := .illegalOperand }) = true ∧
    trapsWith (matBase.setX 25 0x40041) (.mld 25#7 24#7 23#7) (fun _ => { cause := .illegalOperand }) = true ∧
    (match matChecks .mmode 0 1 0 matBase with | .error (.trap t) => t.cause == .illegalOperand | _ => false) = true ∧
    (match matChecks .mmode 0 0 0 matBase with | .ok ((), s) => s == matBase | _ => false) = true := by decide +kernel

/-- Two bytes of tile row 0 of the slot's cluster. -/
def tileBase : State := { matBase with tiles := [((1024 * (fetchSlot / 512)) * 2048, 0xAB), ((1024 * (fetchSlot / 512)) * 2048 + 7, 0x80)] }

theorem witness_Mrd :
    at_ tileBase (.mrd 0#7 20#7 9#7) (fun s1 => do
      let ((xa, xb, _), s2) ← Spec.sources (some 20) (some 0) none s1
      let src : Region := { desc := xa, rows := 1, bytes := 2048, tile := true, spad := false }
      let ((), s3) ← regionChecks [src] s2
      let ((), s4) ← rowsUnlocked src.tileRows s3
      let w ← writes (.mrd 0#7 20#7 9#7) tileBase s2 9 0x80000000000000AB
      pure (s3 == s2 && s4 == s2 && xb == 0 && w)) = true ∧
    trapsWith (tileBase.setX 9 2048) (.mrd 9#7 20#7 9#7) (fun _ => { cause := .illegalOperand }) = true ∧
    trapsWith (tileBase.setX 9 4) (.mrd 9#7 20#7 9#7) (fun _ => { cause := .illegalOperand }) = true := by decide +kernel
/-- A running command writes row 0. -/
theorem witness_MrdLocked :
    let c : MatCmd := aCmd .mzero 0x0000100000000000 true
    let b := { tileBase with matq := [(tileBase.subq fetchSlot, [c])] }
    let i := Instr.mrd 0#7 20#7 9#7
    b.rowLocked (clusterOf b.fs) 0 = true ∧
    at_ b i (fun _ => pure (decide (nextOf (exec i b) = some ((b.endsBefore (b.standsOutside [i]) false 1).holdUnit .rows)))) = true := by
  decide +kernel
theorem witness_Mst : at_ tileBase (.mst 25#7 20#7 24#7) (fun s1 => do
    let ((xa, xb, xd), s2) ← Spec.sources (some 20) (some 25) (some 24) s1
    let src : Region := { desc := xa, rows := bits xb 26 16, bytes := bits xb 11 0, tile := true, spad := false }
    let dst : Region := { desc := xd, rows := bits xb 26 16, bytes := bits xb 11 0, tile := false, spad := true, write := true }
    let ((), s3) ← regionChecks [src, dst] s2
    let ((), s4) ← rowsUnlocked src.tileRows s2
    let ((), t) ← countSingles .vector ((List.range (bits xb 26 16)).map (fun r =>
      [.write (spadAddr (8 * (s2.fs / 512) + tdCore xd) (tdOff xd + 16 * r * tdPitch xd))
        ((List.range (bits xb 11 0)).map (Spec.tileByte s2 (tdOff xa + r * tdPitch xa)))])) 0 s2
    pure (shapeOk xb && s3 == s2 && s4 == s2 && completes (.mst 25#7 20#7 24#7) tileBase t)) = true := by decide +kernel

/-! Copies, messages, channels, the reduction network. -/

theorem witness_Copies :
    after (.cpy 5#7 3#7 1#7) base (fun t => (t.copies.map (fun c => (c.dst, c.src, c.len, c.record))) == [(0x1000, 2, 5, 0)] &&
      t.th.copies.length == 1 && t.th.copyn == 1) = true ∧
    after (.cpyw 5#7 3#7 1#7) ((base.setX 2 0x100).setX 1 (2 ^ 32 - 1)) (fun t => (t.copies.map (fun c => (c.len, c.record, c.recorded))) ==
      [(2 ^ 32 - 1, 0x100, false)]) = true ∧
    trapsWith (base.setX 1 (2 ^ 32)) (.cpy 5#7 3#7 1#7) (fun _ => { cause := .illegalOperand }) = true ∧
    trapsWith base (.cpyw 5#7 3#7 1#7) (fun _ => { cause := .misaligned, av := true, acc := 1, info1 := 7 }) = true := by decide +kernel

/-- Kind 2 names a slot of the own core. -/
theorem witness_Msend :
    let b := base.setX 9 (0x8000000000000000 + 5)
    at_ b (.msend 1#7 9#7) (fun s1 => do
      let ((), s2) ← performNow [] s1
      pure (s1.targetOk s1.fs (s1.getX 9) && after (.msend 1#7 9#7) b (fun t =>
        (t.msgs.map (fun m => (m.payload, m.word, m.slot, m.chan))) == [(5, 0x8000000000000005, some (fetchSlot + 5), 0)] && t.mem == s2.mem))) = true ∧
    trapsWith (base.setX 9 0xC000000000000000) (.msend 1#7 9#7) (fun _ => { cause := .illegalOperand }) = true := by decide +kernel

/-- A channel word: channel 3, no ring; and with a ring of 16 bytes at 0. -/
theorem witness_Chbind :
    (let b := base.setX 9 3
     at_ b (.chbind 16#5 9#7) (fun s1 => pure (s1.ringOwned s1.fs 3 && completes (.chbind 16#5 9#7) b
      ({ s1 with chans := [(65536 * coreOf s1.fs + 3, { gs := s1.fs, port := 16, roff := 0, rlog := 0, head := 0, count := 0 })] }.setArch
        { s1.arch with ports := mput s1.arch.ports 16 (.channel 3) }))) = true) ∧
    (let b := (base.setX 9 3).setArch { base.arch with ports := [(16, .channel 4)] }
     trapsWith b (.chbind 16#5 9#7) (fun _ => { cause := .port, portc := some 16 }) = true) ∧
    trapsWith (base.setX 9 0) (.chbind 16#5 9#7) (fun _ => { cause := .illegalOperand }) = true ∧
    trapsWith (base.setX 9 0xD00003) (.chbind 16#5 9#7) (fun _ => { cause := .illegalOperand }) = true ∧
    (let b := { base.setX 9 3 with chans := [(65536 * coreOf fetchSlot + 3, { gs := 0, port := 15, roff := 0, rlog := 0, head := 0, count := 0 })] }
     trapsWith b (.chbind 16#5 9#7) (fun _ => { cause := .port, portc := some 16 }) = true) ∧
    (let b := { base.setX 9 0x100003 with parts := [(2, ⟨[0, 0, 0, 0, 0, 0x8000000000000000, 0, 0x100000000], 0, 0, 0, 0, false⟩)] }
     b.ringOwned b.fs 0x100003 = false ∧
      trapsWith b (.chbind 16#5 9#7) (fun _ => { cause := .pageProtection, orig := 2 }) = true) := by decide +kernel
theorem witness_Chunbind :
    effect base (.chunbind 16#5) id = true ∧
    (let b := ({ base with chans := [(65536 * coreOf fetchSlot + 3, { gs := fetchSlot, port := 16, roff := 0, rlog := 0, head := 0, count := 0 })] } : State).setArch
        { base.arch with ports := [(16, .channel 3)] }
     after (.chunbind 16#5) (b.setTh { b.th with wq := [(16, [1])] }) (fun t => t.arch.ports == [] && t.chans == [] && t.th.wq == [])) = true := by
  decide +kernel

/-- A root with no children. -/
theorem witness_Redcfg :
    after (.redcfg 0#7 9#7) (base.setX 9 0x10005) (fun t => (t.nodes.map (fun n => (n.uid, n.gs, n.tree, n.root, n.nch))) ==
      [(base.th.uid, fetchSlot, 5, true, 0)]) = true ∧
    trapsWith (base.setX 9 0x40) (.redcfg 0#7 9#7) (fun _ => { cause := .illegalOperand }) = true := by decide +kernel

def nodeBase (x : Word) : State :=
  { (vfBase.setX 9 x) with nodes := [⟨0, 5, fetchSlot, vfBase.th.uid, true, 0, 0, 0, none, none⟩] }

theorem witness_Redc :
    at_ (nodeBase 5) (.redc 2#4 0#2 9#7 1#5) (fun s1 => do
      let (vs, s2) ← srcV 1 32 (List.replicate 32 true) false s1
      pure ((s1.nodeOf s1.th.uid 5).isSome && completes (.redc 2#4 0#2 9#7 1#5) (nodeBase 5) { s2 with
        nodes := s2.nodes.map (fun m => { m with contrib := some (2, 0, vs) }) })) = true ∧
    trapsWith (nodeBase 64) (.redc 2#4 0#2 9#7 1#5) (fun _ => { cause := .illegalOperand }) = true ∧
    trapsWith (nodeBase 6) (.redc 2#4 0#2 9#7 1#5) (fun _ => { cause := .illegalOperand }) = true := by decide +kernel

/-! Tasks, forks, ready queues and slots. -/

/-- A thread of an ordered launch at timestamp 3, in direct mode. -/
def ordBase : State := (baseTh (fun t => { t with ts := 3, a := { t.a with status := t.a.status ||| 0x2000 } }))

theorem witness_Tspawn :
    ordBase.th.ord = true ∧ base.th.ord = false ∧
    trapsWith base (.tspawn 5#7 3#7 1#7) (fun _ => { cause := .illegalOperand }) = true ∧
    trapsWith ordBase (.tspawn 5#7 3#7 1#7) (fun _ => { cause := .illegalOperand }) = true ∧
    trapsWith (ordBase.setX 5 3) (.tspawn 5#7 1#7 1#7) (fun _ => { cause := .misaligned, av := true, acc := 2, info1 := 5 }) = true := by decide +kernel
/-- The same in a chunk, whose effects the task joins. -/
theorem witness_TspawnInChunk :
    let b := (inChunk.setTh { inChunk.th with ts := 3, a := { inChunk.th.a with status := inChunk.th.a.status ||| 0x2000 } }).setX 5 3
    b.isDirect = false ∧ effect b (.tspawn 5#7 3#7 1#7) (fun s1 => s1.setTh (s1.th.modLast (fun c =>
      { c with deferred := c.deferred ++ [.tspawn 0x1000 3 5 (s1.getX 3)] }))) = true := by decide +kernel
theorem witness_Fork :
    at_ base (.fork 5#7 3#7 9#7) (fun s1 =>
      let s2 := s1.setArch { s1.arch with forks := 1 }
      pure (completes (.fork 5#7 3#7 9#7) base ((s2.addChild s2.fs 0 0x1000 2 (s1.getX 3)).setX 9 0))) = true ∧
    effect inChunk (.fork 5#7 3#7 9#7) (fun s1 =>
      let s2 := s1.setArch { s1.arch with forks := 1 }
      (s2.setTh (s2.th.modLast (fun k => { k with deferred := k.deferred ++ [.fork 0 0x1000 2 (s1.getX 3)] }))).setX 9 0) = true ∧
    trapsWith (baseTh (fun t => { t with a := { t.a with forks := 255 } })) (.fork 5#7 3#7 9#7) (fun _ => { cause := .illegalOperand }) = true ∧
    effect (baseTh (fun t => { t with a := { t.a with forks := 254 } })) (.fork 5#7 3#7 9#7) (fun s1 =>
      let s2 := s1.setArch { s1.arch with forks := 255 }
      (s2.addChild s2.fs 254 0x1000 2 (s1.getX 3)).setX 9 254) = true ∧
    trapsWith (baseTh (fun t => { t with path := List.replicate 64 0 })) (.fork 5#7 3#7 9#7) (fun _ => { cause := .illegalOperand }) = true := by
  decide +kernel
theorem witness_Join :
    effect base .join (fun s1 => s1.setTh { s1.th with ent := max s1.th.ent s1.th.joined }) = true ∧
    (let b := { base with orphans := (base.addChild fetchSlot 0 0x1000 2 3).orphans }
     at_ b .join (fun s1 => pure (s1.childrenLeft s1.th.uid && decide (nextOf (exec .join b) = some ((b.endsBefore true false 1).holdUnit .join)))) = true) := by
  decide +kernel
theorem witness_Tkey :
    (let b := (baseTh (fun t => { t with path := [1, 2, 3, 4, 5, 6, 7, 8, 9] }))
     effect b (.tkey 0#7 9#7) (fun s1 => s1.setX 9 0x0907060504030201) && effect (b.setX 1 2) (.tkey 1#7 9#7) (fun s1 => s1.setX 9 9) &&
      effect (b.setX 1 1) (.tkey 1#7 9#7) (fun s1 => s1.setX 9 0x0807060504030201) &&
      effect (b.setX 1 8) (.tkey 1#7 9#7) (fun s1 => s1.setX 9 0) &&
      trapsWith (b.setX 1 9) (.tkey 1#7 9#7) (fun _ => { cause := .illegalOperand })) = true ∧
    effect ordBase (.tkey 0#7 9#7) (fun s1 => s1.setX 9 3) = true ∧
    trapsWith ordBase (.tkey 1#7 9#7) (fun _ => { cause := .illegalOperand }) = true := by decide +kernel
theorem witness_ReadyQueues :
    effect base (.rqput 5#7 3#7) (fun s1 => { s1 with rqs := [(s1.subq s1.fs, [(2, 0x1000)])] }) = true ∧
    trapsWith base (.rqput 5#7 0#7) (fun _ => { cause := .illegalOperand }) = true ∧
    trapsWith (base.setX 5 4) (.rqput 5#7 3#7) (fun _ => { cause := .illegalOperand }) = true ∧
    (let b := { base.setX 5 15 with rqs := [(base.subq fetchSlot, [(3, 7), (2, 8), (2, 9)])] }
     effect b (.rqtake 5#7 9#7) (fun s1 => { s1 with rqs := [(s1.subq s1.fs, [(3, 7), (2, 9)])] }.setX 9 8) && effect (b.setX 5 3) (.rqtake 5#7 9#7) (fun s1 => s1.setX 9 0) &&
      trapsWith (b.setX 5 16) (.rqtake 5#7 9#7) (fun _ => { cause := .illegalOperand })) = true := by decide +kernel

theorem witness_Tmset : effect base (.tmset 1#7) (fun s1 => s1.setTh { s1.th with timer := 5 }) = true := by decide +kernel

/-- A start record for slot 5 with a window of 16 registers at base 64, entry 0x2000, at x3. -/
def startBase (d0 d1 : Word) : State := base.setBytes 0x1000 (leBytes 8 d0.toNat ++ leBytes 8 d1.toNat ++ leBytes 8 77 ++ leBytes 8 88)

def startCase (d0 d1 : Word) (st : Nat) : Bool := at_ (startBase d0 d1) (.sstart 3#7 9#7) (fun s1 => do
  let (_, s2) ← memRead (addr57 (s1.getX 3)) 32 s1
  pure (completes (.sstart 3#7 9#7) (startBase d0 d1) (s2.setX 9 (BitVec.ofNat 64 st))))
theorem witness_Sstart :
    startCase 0x20000000 0x2000 4 = true ∧ startCase (16 * 2 ^ 20 + 64 * 2 ^ 8) 0x2000 2 = true ∧ startCase (16 * 2 ^ 20 + 5) 0x2000 3 = true ∧
    after (.sstart 3#7 9#7) (startBase (16 * 2 ^ 20 + 64 * 2 ^ 8 + 2 ^ 27 + 5) 0x2000) (fun t =>
      let u := t.thread (fetchSlot + 5)
      t.getX 9 == 0 && u.live && u.a.pc == 0x2000 && u.winBase == 64 && u.winLim == 16 && u.dir && !u.ue &&
        t.getXOf (fetchSlot + 5) 3 == 77 && t.getXOf (fetchSlot + 5) 2 == 88) = true := by decide +kernel
/-- Slot 5 lies in another owner's set. -/
theorem witness_SstartMasked :
    let b := { startBase (16 * 2 ^ 20 + 64 * 2 ^ 8 + 5) 0x2000 with parts := [(2, ⟨[0, 0, 0, 0, 0, 0x8000000000000000, 0x20], 0, 0, 0, 0, false⟩)] }
    (b.pmask b.fs).getLsbD 5 = false ∧ after (.sstart 3#7 9#7) b (fun t => t.getX 9 == 1) = true := by decide +kernel
theorem witness_Sstop :
    effect base (.sstop 1#7) id = true ∧
    trapsWith base (.sstop 0#7) (fun _ => { cause := .illegalOperand }) = true ∧
    trapsWith (base.setX 1 64) (.sstop 1#7) (fun _ => { cause := .illegalOperand }) = true ∧
    (let b := base.setThread (fetchSlot + 5) { base.th with uid := 50, winBase := 64, winLim := 16 }
     at_ b (.sstop 1#7) (fun s1 => pure ((s1.beginStop (fetchSlot + 5)).stopDone (fetchSlot + 5) &&
      completes (.sstop 1#7) b ((s1.beginStop (fetchSlot + 5)).endThread (fetchSlot + 5) false)))) = true := by decide +kernel
theorem witness_Exit :
    after .exit base (fun t => !t.th.live && t.mem == base.mem && t.rf == base.rf) = true ∧
    (let b := baseTh (fun t => { t with copies := [(1, false)] })
     at_ b .exit (fun _ => pure (decide (nextOf (exec .exit b) = some ((b.endsBefore true false 1).holdUnit .retry)))) = true) ∧
    trapsWith (baseTh (fun t => { t with heldFaults := [(0, { cause := .pageAbsent, held := true })] })) .exit (fun _ => { cause := .pageAbsent, held := true }) = true := by
  decide +kernel

/-! Levels, traps and interrupts. -/

theorem witness_Requests :
    after (.trap 5#7) (userBase.setTh { userBase.th with kern := { userBase.th.kern with tvec := 0x3000 } }) (fun t =>
      t.th.a.pc == 0x3000 && t.th.kern.epc == 4 && t.th.kern.ecause == 133 && t.th.level == 1 && !t.th.ie && t.th.a.icount == 1) = true ∧
    after (.hcall 5#7) (userBase.setTh { userBase.th with hyp := { userBase.th.hyp with tvec := 0x3000 }, a := { userBase.th.a with status := 0x21000 } }) (fun t =>
      t.th.a.pc == 0x3000 && t.th.hyp.epc == 4 && t.th.hyp.ecause == 133 && t.th.level == 2 && !t.th.ie) = true ∧
    userBase.th.level = 0 ∧ userBase.th.live = true ∧ userBase.unit.park = none ∧ userBase.th.det = false := by decide +kernel
theorem witness_TrapEntry :
    let t : Trap := { cause := .illegalOperand }
    base.isDirect = true ∧ base.th.fallback = none ∧ t.unstage = none ∧ t.held = false ∧ t.table = none ∧ takesUpcall base.th t = false ∧
    base.raiseUnit t = (base.setTh (base.th.enter 2 (BitVec.ofNat 64 t.cause.code) base.unit.addr t.einfo0 t.info1 t.info2
      (base.unit.einfo3 t))).traceRec base.fs 2 base.unit.addr (BitVec.ofNat 64 t.cause.code) ∧
    base.traceHold.getD (dieOf fetchSlot) 511 = 511 ∧
    inChunk1.isDirect = false ∧ inChunk1.th.cur.isSome = true ∧
    inChunk1.raiseUnit t = inChunk1.squash inChunk1.fs (inChunk1.th.chunks.length - 1) false true := by decide +kernel
/-- Hypervisor bank: PP and PIE as a trap from user level with IE set left them. -/
theorem witness_Eret :
    let b := baseTh (fun t => { t with hyp := { t.hyp with epc := 0x4000 }, a := { t.a with status := t.a.status ||| 0x1000000 } })
    after .eret b (fun t => t.th.a.pc == 0x4000 && t.th.level == 0 && t.th.ie) = true ∧ b.th.level = 2 := by decide +kernel
theorem witness_Wfi :
    effect (baseTh (fun t => { t with pend := [⟨2, 15⟩] })) .wfi id = true ∧ effect (baseTh (fun t => { t with p15 := [1] })) .wfi id = true ∧
    at_ base .wfi (fun _ => pure (decide (nextOf (exec .wfi base) = some ((base.endsBefore true false 1).holdUnit .wfi)))) = true := by decide +kernel
theorem witness_Brk :
    trapsWith base (.brk 3#7) (fun _ => { cause := .debug, brkn := 3 }) = true ∧
    base.raiseUnit { cause := .debug, brkn := 3 } = (base.setTh (base.th.enter 2 17 base.unit.addr (BitVec.ofNat 64 (3 * 2 ^ 28)) 0 0
        (base.unit.einfo3 { cause := .debug }))).traceRec base.fs 2 base.unit.addr 17 := by decide +kernel

/-! Waits of words outside every chunk. -/

/-- The word opens, has no effect, and its slot is held. -/
def waitsAt (b : State) (i : Instr) (h : Hold) : Bool :=
  at_ b i (fun _ => pure (decide (nextOf (exec i b) = some ((b.endsBefore true false 1).holdUnit h))))

theorem witness_Waits :
    waitsAt (baseTh (fun t => { t with copies := (List.range 63).map (fun i => (i, false)) })) (.cpy 5#7 3#7 1#7) .retry = true ∧
    waitsAt { (base.setX 9 0x10005) with nodes := [⟨0, 5, fetchSlot, base.th.uid, true, 0, 0, 0, some (2, 0, []), none⟩] } (.redcfg 0#7 9#7) (.tree 5) = true ∧
    waitsAt { nodeBase 5 with nodes := [⟨0, 5, fetchSlot, vfBase.th.uid, true, 0, 0, 0, none, some [7]⟩] } (.redc 2#4 0#2 9#7 1#5) (.tree 5) = true ∧
    waitsAt { base with rqs := [(base.subq fetchSlot, List.replicate 64 (1, 7))] } (.rqput 5#7 3#7) .turn = true ∧
    waitsAt { base with orphans := (base.addChild fetchSlot 0 0x1000 2 3).orphans } .exit .join = true := by decide +kernel

/-! Events: each takes place, and what it leaves. -/

/-- The slot's thread alone, with no unit at hand. -/
def evBase (f : Thread → Thread) : State := { baseTh f with unit := UnitCtx.idle, fs := 0 }

/-- The event answers the state with the thread changed and nothing else. -/
def onlyThread (i : Instr) (b : State) (th : Thread) : Bool := after i b (fun t => t == { b with threads := t.threads } &&
  t.thread fetchSlot == th && (t.threads.map (·.1)) == (b.threads.map (·.1)))

/-- One ended chunk with a write of 0x1000, or as `g` changes it. -/
def aChunk (g : Chunk → Chunk) : Chunk :=
  g { ckpt := base.arch, ckptX := base.windowOf fetchSlot, len := 3, max := 4096, start := 0, reads := [], writes := [32]
      log := [⟨.write 0x1000 [7], .scalar, 0, 0, 0, false⟩], entered := 1, scn := 0, lcn := 0, policy := 0, deferred := [], trans := [], pops := [], lanes := 0, engines := 0, rsb := 0, ended := true
      requested := none, granted := false }

/-- The slot in chunked mode with these chunks. -/
def chBase (cs : List Chunk) : State := evBase (fun t => { t with chunks := cs, a := { t.a with status := t.a.status &&& ~~~(0x1000 : Word) } })

theorem witness_InterruptTaken :
    (let b := evBase (fun t => { t with pend := [⟨2, 15⟩], a := { t.a with status := t.a.status ||| 0x10000 } })
     let th := b.thread fetchSlot
     b.mayIssue fetchSlot && th.enabled == [⟨2, 15⟩] && after (.interruptTaken fetchSlot) b (fun t =>
      t.thread fetchSlot == ({ th with pend := [] } : Thread).enter 2 (putBit 15 63 true) th.a.pc 0 0 0 0 && t.mem == b.mem)) = true ∧
    (let b := (chBase [aChunk (fun c => { c with ended := false })])
     let b1 := b.setThread fetchSlot { b.thread fetchSlot with pend := [⟨2, 15⟩], a := { (b.thread fetchSlot).a with status := (b.thread fetchSlot).a.status ||| 0x10000 } }
     let th := b1.thread fetchSlot
     b1.mayIssue fetchSlot && !th.enabled.isEmpty && b1.exactCount fetchSlot == false &&
      onlyThread (.interruptTaken fetchSlot) b1 { th with chunks := [aChunk id] }) = true := by decide +kernel
theorem witness_TimerExpiry :
    let b := evBase (fun t => { t with timer := 1 })
    onlyThread (.timerExpiry fetchSlot) b { b.thread fetchSlot with timer := 0, pend := [⟨1, 15⟩] } = true := by decide +kernel
theorem witness_ChunkEnds :
    (let b := chBase [aChunk (fun c => { c with ended := false, max := 3 })]
     onlyThread (.chunkEndChunkmax fetchSlot) b { b.thread fetchSlot with chunks := [aChunk (fun c => { c with max := 3 })] }) = true ∧
    (let b := { chBase [aChunk (fun c => { c with ended := false })] with cycle := 20000 }
     onlyThread (.chunkCutCycles fetchSlot) b { b.thread fetchSlot with chunks := [aChunk id] }) = true := by decide +kernel
theorem witness_DirectFallback :
    let b := (chBase []).setThread fetchSlot { (chBase []).thread fetchSlot with sq := 8 }
    onlyThread (.directFallback fetchSlot) b { b.thread fetchSlot with fallback := some ⟨0, 4096, 0⟩ } = true := by decide +kernel

theorem witness_CommitRequest :
    let b := chBase [aChunk id]
    after (.commitRequest fetchSlot) b (fun t => t.mem == b.mem &&
      t.thread fetchSlot == { b.thread fetchSlot with chunks := [aChunk (fun c => { c with requested := some b.cycle })] }) = true := by decide +kernel
theorem witness_CommitGrant :
    (let c := aChunk (fun c => { c with requested := some 1 })
     let b := { chBase [c] with cycle := 2 }
     let s1 := (b.noteGrant fetchSlot kindChunk c.len (b.levelOf fetchSlot kindChunk (c.reads ++ c.writes))).performAll (some fetchSlot)
       (c.log.map (fun e => e.eff))
     !b.sigMeets fetchSlot c && b.gate fetchSlot kindChunk c.len == .go && !b.earlierRequest (b.chunkReq fetchSlot 1 c) && b.poolRoom fetchSlot 0 &&
      after (.commitGrant fetchSlot) b (fun t => (t.thread fetchSlot).chunks == [{ c with granted := true }] && t.mem == s1.mem && t.rf == s1.rf &&
        t.byteAt 0x1000 == 7)) = true ∧
    (let c := aChunk (fun c => { c with requested := some 1 })
     let b := { chBase [c] with sigs := [(1, [32])], cycle := 2 }
     b.sigMeets fetchSlot c && decide (nextOf (exec (.commitGrant fetchSlot) b) = some b)) = true ∧
    (let c := aChunk (fun c => { c with requested := some 2 })
     let o := aChunk (fun c => { c with requested := some 1 })
     let b := { (chBase [c]).setThread (fetchSlot + 1) { (chBase [o]).thread fetchSlot with uid := 70 } with cycle := 3 }
     !b.sigMeets fetchSlot c && b.gate fetchSlot kindChunk c.len == .go && b.earlierRequest (b.chunkReq fetchSlot 2 c) &&
      decide (nextOf (exec (.commitGrant fetchSlot) b) = some b)) = true := by decide +kernel
/-- A request is not granted in the cycle in which it arrives; a grant's arrival waits for the host's answer. -/
theorem witness_GrantWaits :
    (let b := { chBase [aChunk (fun c => { c with requested := some 2 })] with cycle := 2 }
     decide (nextOf (exec (.commitGrant fetchSlot) b) = some b)) = true ∧
    (let b := { chBase [aChunk (fun c => { c with requested := some 1, granted := true })] with hostInval := [32] }
     decide (nextOf (exec (.grantArrival fetchSlot) b) = some b)) = true := by decide +kernel
theorem witness_GrantArrival :
    let b := chBase [aChunk (fun c => { c with requested := some 1, granted := true })]
    onlyThread (.grantArrival fetchSlot) b { b.thread fetchSlot with chunks := [], chseq := 1, sq := 0 } = true := by decide +kernel
theorem witness_Sig :
    let b := { chBase [aChunk (fun c => { c with writes := [7], granted := true }), aChunk id] with sigs := [(1, [32]), (2, [])] }
    after .sig b (fun t => t.sigs == [(2, [])] && t.mem == b.mem && (t.thread fetchSlot).chunks == [aChunk (fun c => { c with writes := [7], granted := true })]) = true := by
  decide +kernel

theorem witness_LoadDataReturn :
    let b := evBase (fun t => { t with loads := [[.x 9 77 none], [.x 10 1 none]] })
    b.answers fetchSlot = true ∧
    after (.loadDataReturn fetchSlot) b (fun t => t.rf == (b.setXOf fetchSlot 9 77).rf && t.mem == b.mem &&
      t.thread fetchSlot == { b.thread fetchSlot with loads := [[.x 10 1 none]] }) = true := by decide +kernel
theorem witness_StorePerformed :
    (let b := evBase (fun t => { t with stores := [[[.write 0x1000 [7]]]] })
     let s1 := b.setThread fetchSlot { b.thread fetchSlot with stores := [] }
     b.gate fetchSlot kindSingle 1 == .go && !b.earlierRequest (b.singleReq fetchSlot b.cycle [.write 0x1000 [7]]) && decide (nextOf (exec (.storeGloballyPerformed fetchSlot) b) =
      some ((s1.noteGrant fetchSlot kindSingle 1 (s1.levelOf fetchSlot kindSingle (itemsOf [.write 0x1000 [7]]))).performAll (some fetchSlot) [.write 0x1000 [7]]))) = true ∧
    (let b := evBase (fun t => { t with stores := [[]] })
     onlyThread (.storeGloballyPerformed fetchSlot) b { b.thread fetchSlot with stores := [] }) = true ∧
    (let b := evBase (fun t => { t with pushes := [[.write 0x1000 [7]]] })
     let s1 := b.setThread fetchSlot { b.thread fetchSlot with pushes := [] }
     decide (nextOf (exec (.storeGloballyPerformed fetchSlot) b) = some ((s1.noteGrant fetchSlot kindSingle 1
      (s1.levelOf fetchSlot kindSingle (itemsOf [.write 0x1000 [7]]))).performAll (some fetchSlot) [.write 0x1000 [7]]))) = true ∧
    (let b := (evBase (fun t => { t with stores := [[[.write 0x1000 [7]]]], arrivals := [5] })).setThread (fetchSlot + 1)
        { (evBase (fun t => { t with uid := 70, stores := [[[.write 0x1000 [9]]]], arrivals := [4] })).thread fetchSlot with uid := 70 }
     b.earlierRequest (b.singleReq fetchSlot 5 [.write 0x1000 [7]]) && decide (nextOf (exec (.storeGloballyPerformed fetchSlot) b) = some b)) = true := by decide +kernel
/-- A read stream of the slot in chunked mode. -/
theorem witness_StreamPrefetch :
    let st : Stream := ⟨0x1000, [(2, 4)], 2, false, false, false, 0, false, []⟩
    let b := ((chBase []).setThread fetchSlot { (chBase []).thread fetchSlot with a := { ((chBase []).thread fetchSlot).a with ports := [(0, .stream st)] } })
    (b.prefetch fetchSlot st).isSome = true ∧ (b.thread fetchSlot).directMode = false ∧
    after (.streamPrefetchArrival fetchSlot 0) b (fun t => ((t.thread fetchSlot).a.stream 0).map (fun x => (x.pos, x.ahead.length)) == some (0, 1) &&
      t.rf == b.rf && t.mem == b.mem) = true := by decide +kernel
theorem witness_RemoteStore :
    let pa := spadAddr 8 0
    let b := { evBase id with remotes := [(pa, [9])] }
    (b.remotes.find? (fun r => b.remoteDue r.1)).isSome = true ∧
    decide (nextOf (exec .remoteStoreMessage b) = some ((({ b with remotes := [] }.setBytes pa [9]).clearPoison pa 1).touched none pa 1)) = true := by
  decide +kernel

/-- A copy of eight bytes from 0x1000 to 0x1100. -/
def aCopy : Option Copy := (nextOf (exec (.cpy 3#7 9#7 10#7) ((base.setX 9 0x1100).setX 10 8))).bind (fun t => t.copies.head?)
def copyBase (g : Copy → Copy) : State :=
  match nextOf (exec (.cpy 3#7 9#7 10#7) ((base.setX 9 0x1100).setX 10 8)) with
  | some t => { t with copies := t.copies.map g, unit := UnitCtx.idle, fs := 0 }
  | none => base

theorem witness_EngineChunk :
    (copyBase (fun c => { c with combining := false })).copies.all (fun c =>
      let b := copyBase (fun c => { c with combining := false })
      b.pieceDue c && b.gate c.gs kindEngine (((c.dst.toNat + c.done) % 128 + c.pieceLen + 127) / 128) == .go &&
        decide (nextOf (exec (.engineChunkGrant c.id) b) = some (b.copyPiece c))) = true ∧
    (copyBase id).copies.length = 1 := by decide +kernel
theorem witness_CombiningRelease :
    let b := copyBase (fun c => { c with combining := true })
    b.clusterRuns (fetchSlot / 512) = true ∧ after (.combiningRelease (fetchSlot / 512)) b (fun t => t.mem == b.mem && t.threads == b.threads &&
      t.copies.all (fun c => !c.combining) && t.copies.length == 1) = true := by decide +kernel
theorem witness_CopyComplete :
    let b := copyBase (fun c => { c with done := 8, combining := false })
    b.copies.all (fun c => b.copyReady c && b.runs c.gs && (b.thread c.gs).uid == c.uid && c.record == 0 &&
      after (.copyComplete c.id) b (fun t => t.copies == [] && t.mem == b.mem && (t.thread c.gs).copies == [] && (t.thread c.gs).heldFaults == [])) = true := by
  decide +kernel
/-- A running `mtrans` to the scratchpad of core 0. -/
theorem witness_MatrixPiece :
    let c := { aCmd .mtrans 0x4000100000000000 true with id := 5, xa := 0x0000100000000000, out := some [[(7, false)]] }
    let b := { evBase id with matq := [(base.subq fetchSlot, [c])] }
    (b.matPieceDue (base.subq fetchSlot / 256) c && b.clusterRuns (base.subq fetchSlot / 256) &&
      b.gate c.gs kindEngine (c.pieceLines (base.subq fetchSlot / 256)) == .go &&
      decide (nextOf (exec (.engineChunkGrant 5) b) = some (b.matPiece (base.subq fetchSlot / 256) (base.subq fetchSlot)))) = true := by
  decide +kernel

/-! Coherence. -/

/-- Line 32 with these states at the four dies, and these messages on their way. -/
def cohBase (d : List Moesi) (m : List CohMsg) : State := { evBase id with dirs := [(32, d)], coh := m }

def cohAfter (i : Instr) (b : State) (d : List Moesi) (m : List CohMsg) : Bool := after i b (fun t =>
  (List.range 4).map (t.dieState 32) == d && t.coh == m && t.mem == b.mem && t.rf == b.rf)

theorem witness_Reads : cached 32 = true ∧
    cohAfter (.reads 1 32) (cohBase [.m, .i, .i, .i] [⟨.reads, 1, 32⟩]) [.m, .i, .i, .i] [⟨.fwd 0, 1, 32⟩] = true ∧
    cohAfter (.reads 1 32) (cohBase [.i, .i, .i, .i] [⟨.reads, 1, 32⟩]) [.i, .i, .i, .i] [⟨.data .e, 1, 32⟩] = true ∧
    cohAfter (.reads 1 32) (cohBase [.s, .i, .i, .i] [⟨.reads, 1, 32⟩]) [.s, .i, .i, .i] [⟨.data .s, 1, 32⟩] = true ∧
    cohAfter (.reads 1 32) (cohBase [.s, .e, .i, .i] [⟨.reads, 1, 32⟩]) [.s, .e, .i, .i] [] = true := by decide +kernel
theorem witness_Readm :
    cohAfter (.readm 1 32) (cohBase [.s, .i, .s, .i] [⟨.readm, 1, 32⟩]) [.s, .i, .s, .i] [⟨.getm, 1, 32⟩, ⟨.inv, 0, 32⟩, ⟨.inv, 2, 32⟩] = true ∧
    cohAfter (.readm 1 32) (cohBase [.i, .s, .i, .i] [⟨.readm, 1, 32⟩]) [.i, .s, .i, .i] [⟨.data .m, 1, 32⟩] = true ∧
    cohAfter (.readm 1 32) (cohBase [.i, .m, .i, .i] [⟨.readm, 1, 32⟩]) [.i, .m, .i, .i] [] = true := by decide +kernel
/-- A read and a commit ask the home. -/
theorem witness_CoherenceRequests :
    (let b := cohBase [.i, .i, .i, .i] []
     b.reservedLine 32 == false && (b.cohAsk 1 32 none).coh == [⟨.reads, 1, 32⟩] && (b.cohWrite fetchSlot 32).coh == [⟨.readm, 3, 32⟩]) = true := by decide +kernel
theorem witness_Fwd : cohAfter (.fwd 0 1 32) (cohBase [.m, .i, .i, .i] [⟨.fwd 0, 1, 32⟩]) [.o, .i, .i, .i] [⟨.data .s, 1, 32⟩] = true ∧
    cohAfter (.fwd 0 1 32) (cohBase [.e, .i, .i, .i] [⟨.fwd 0, 1, 32⟩]) [.s, .i, .i, .i] [⟨.data .s, 1, 32⟩] = true := by decide +kernel
theorem witness_Data : cohAfter (.data 1 32) (cohBase [.o, .i, .i, .i] [⟨.data .s, 1, 32⟩]) [.o, .s, .i, .i] [] = true := by decide +kernel
theorem witness_Inv : cohAfter (.inv 0 32) (cohBase [.s, .i, .i, .i] [⟨.inv, 0, 32⟩]) [.i, .i, .i, .i] [⟨.ack, 0, 32⟩] = true := by decide +kernel
theorem witness_Ack :
    cohAfter (.ack 0 32) (cohBase [.i, .i, .i, .i] [⟨.getm, 1, 32⟩, ⟨.ack, 0, 32⟩]) [.i, .i, .i, .i] [⟨.data .m, 1, 32⟩] = true ∧
    cohAfter (.ack 0 32) (cohBase [.i, .i, .i, .i] [⟨.getm, 1, 32⟩, ⟨.ack, 0, 32⟩, ⟨.inv, 2, 32⟩]) [.i, .i, .i, .i] [⟨.getm, 1, 32⟩, ⟨.inv, 2, 32⟩] = true ∧
    cohAfter (.ack 0 32) (cohBase [.i, .i, .i, .i] [⟨.ack, 0, 32⟩]) [.i, .i, .i, .i] [] = true := by decide +kernel
theorem witness_Wback : cohHome 32 = 0 ∧
    cohAfter (.wback 1 32) (cohBase [.i, .i, .i, .i] [⟨.wback, 1, 32⟩]) [.m, .i, .i, .i] [⟨.ack, 1, 32⟩] = true ∧
    cohAfter (.wback 1 32) (cohBase [.i, .i, .s, .i] [⟨.wback, 1, 32⟩]) [.o, .i, .s, .i] [⟨.ack, 1, 32⟩] = true := by decide +kernel
theorem witness_Binv : cohAfter (.binv 1 32) (cohBase [.i, .m, .i, .i] []) [.i, .i, .i, .i] [⟨.wback, 1, 32⟩] = true ∧
    cohAfter (.binv 1 32) (cohBase [.i, .s, .i, .i] []) [.i, .i, .i, .i] [⟨.ack, 1, 32⟩] = true := by decide +kernel

/-! Messages. -/

/-- A message with payload 9 to slot 5 of the slot's core, whose thread takes it. -/
def msgBase (st : MsgState) (g : Thread → Thread) : State :=
  let b := evBase id
  { (b.setThread (fetchSlot + 5) (g { base.th with uid := 60, winBase := 64, winLim := 16 })) with
    msgs := [⟨3, fetchSlot, base.th.uid, none, 0x8000000000000005, 9, coreOf fetchSlot, some (fetchSlot + 5), 0, none, st⟩] }

def theMsg (b : State) (p : Msg → Bool) : Bool := match b.msgOf 3 with | some m => p m | none => false

theorem witness_MessageArrival :
    theMsg (msgBase .flying id) (fun m => let b := msgBase .flying id
      m.state == .flying && b.msgFirst m && !b.parkedMsg m && b.msgPort m == some (fetchSlot + 5, 15) && b.chanOf (fetchSlot + 5) 15 == none &&
      (b.thread (fetchSlot + 5)).queueRoom 15 && after (.messageArrival 3) b (fun t => (t.thread (fetchSlot + 5)).p15 == [9] && t.msgs == [])) = true ∧
    (let b := msgBase .flying (fun t => { t with p15 := List.replicate 64 1 })
     !(b.thread (fetchSlot + 5)).queueRoom 15 && decide (nextOf (exec (.messageArrival 3) b) = some (b.setMsg 3 .full))) = true ∧
    (let b := msgBase .flying (fun t => { t with live := false })
     theMsg b (fun m => b.msgPort m == none && !b.absentFor m &&
      decide (nextOf (exec (.messageArrival 3) b) = some (b.setMsg 3 .refused)))) = true := by decide +kernel
theorem witness_FullReply :
    (let b := msgBase .full id
     b.answers fetchSlot && decide (nextOf (exec (.fullReply 3) b) = some (b.setMsg 3 .held))) = true ∧
    (let b := msgBase .held id
     theMsg b (fun m => b.wouldTake m && b.runs fetchSlot && !b.parkedMsg m &&
      after (.messageResend fetchSlot) b (fun t => t.msgs.map (·.state) == [.resent] && t.threads == b.threads))) = true := by decide +kernel
theorem witness_MessageRefusal :
    (let b := msgBase .refused id
     after (.messageRefusal 3) b (fun t => t.msgs == [] && (t.thread fetchSlot).refused == [(0x8000000000000005, 9)] && t.mem == b.mem)) = true ∧
    (let b := (msgBase .refused id).setThread fetchSlot { base.th with uid := 61 }
     b.answers fetchSlot && decide (nextOf (exec (.messageRefusal 3) b) = some { b with msgs := [] })) = true := by decide +kernel

/-! Homes and sleeps. -/

theorem witness_QresHead :
    (let b := { evBase (fun t => { t with hold := some (.qresWait 0x1000 4) }) with homes := [(0x1000, ⟨[fetchSlot], false⟩)] }
     !b.holderOf 0x1000 && after (.qresHead 0x1000) b (fun t => t.thread fetchSlot ==
      { b.thread fetchSlot with hold := some (.qresReply 0 false), resv := some ⟨0x1000, 4, false, 0⟩ } && mgetD t.homes 0x1000 ⟨[], false⟩ == ⟨[], false⟩)) = true := by decide +kernel
theorem witness_QresHeadPoison :
    let b := ({ evBase (fun t => { t with hold := some (.qresWait 0x1000 4) }) with homes := [(0x1000, ⟨[fetchSlot], false⟩)] } : State).setPoison 0x200 true
    b.poisoned (0x1000 / 8) = true ∧ after (.qresHead 0x1000) b (fun t => (t.thread fetchSlot).hold == some .qresPoison && t.mem == b.mem) = true := by
  decide +kernel
theorem witness_QresHeadHeld :
    let b := (({ evBase (fun t => { t with hold := some (.qresWait 0x1000 4) }) with homes := [(0x1000, ⟨[fetchSlot], false⟩)] } : State).setThread (fetchSlot + 5)
      { base.th with resv := some ⟨0x1000, 4, false, 0⟩ })
    b.holderOf 0x1000 = true ∧ nextOf (exec (.qresHead 0x1000) b) = some b := by decide +kernel
theorem witness_QrelAck :
    let b := evBase (fun t => { t with hold := some (.qrelWait 0x1000) })
    onlyThread (.qrelAck fetchSlot) b { b.thread fetchSlot with hold := some .qrelDone } = true := by decide +kernel
theorem witness_EdgeAtHome :
    (let pa := 0x8000000001000
     let b := evBase (fun t => { t with hold := some (.edgeWait pa 4 0 5 true), edges := 1 })
     !b.remotePending pa 4 && !b.poisoned (pa / 8) && b.gate fetchSlot kindSingle 1 == .go &&
      (let s1 := (b.noteGrant fetchSlot kindSingle 1 (b.levelOf fetchSlot kindSingle (linesOf pa 4))).performAll none [.edge pa [5, 0, 0, 0]]
       decide (nextOf (exec (.edgeAtomicAtHome fetchSlot) b) = some (s1.setThread fetchSlot { s1.thread fetchSlot with
        hold := some (.edgeDone (.old 0) true) })))) = true ∧
    (let pa := 0x8000000001000
     let b := (evBase (fun t => { t with hold := some (.edgeWait pa 4 0 5 true), edges := 1 })).setPoison (pa / 8) true
     b.poisoned (pa / 8) && onlyThread (.edgeAtomicAtHome fetchSlot) b { b.thread fetchSlot with hold := some (.edgeDone .poison true) }) = true ∧
    (let b := evBase (fun t => { t with hold := some (.edgeDone (.old 3) true), edges := 1 })
     onlyThread (.edgeAtomicResponse fetchSlot) b { b.thread fetchSlot with hold := some (.edgeReply (.old 3)), edges := 0 }) = true := by decide +kernel
theorem witness_EdgeWrites :
    (let b := { evBase (fun t => { t with edges := 1 }) with edges := [⟨4, fetchSlot, base.th.uid, none, 0x8000000001000 / 64, [(0x8000000001000, 9)], none⟩] }
     after (.edgeWriteAck 4) b (fun t => t.edges == [] && t.mem == b.mem && (t.thread fetchSlot).edges == 0)) = true ∧
    (let b := { evBase (fun t => { t with edges := 1 }) with edges := [⟨4, fetchSlot, base.th.uid, none, 0x8000000001000 / 64, [(0x8000000001000, 9)], none⟩] }
     decide (nextOf (exec (.edgeWriteRefused 4) b) = some b)) = true := by
  decide +kernel

/-- An edge write to a peer on its way, and an edge atomic there. Which ports carry a route is free, so that the route is a hypothesis. -/
def thePiece : EdgeWrite := ⟨4, fetchSlot, base.th.uid, none, 2 ^ 52 / 64, [(2 ^ 52, 9)], none⟩
def peerWrite : State := { evBase (fun t => { t with edges := 1 }) with edges := [thePiece] }
def peerAtomic : State := evBase (fun t => { t with hold := some (.edgeWait (2 ^ 52) 4 0 5 true), edges := 1 })

theorem thePiece_found : peerWrite.edges.find? (fun e => e.id == 4) = some thePiece ∧ isPeer (64 * thePiece.piece) = true ∧
    peerDev (64 * thePiece.piece) = 0 ∧ thePiece.copy = none ∧ thePiece.vf = none ∧ bits peerWrite.hring 4 0 = 0 := by decide +kernel

theorem witness_PeerWriteAck (h : peerWrite.peerUp 0 = true) :
    after (.edgeWriteAck 4) peerWrite (fun t => t.edges == [] && t.byteAt (2 ^ 52) == 9 && (t.thread fetchSlot).edges == 0) = true := by
  have e : exec (.edgeWriteAck 4) peerWrite = .next ((thePiece.bytes.foldl (fun (z : State) p => z.setByte p.1 p.2) peerWrite).edgeGone thePiece) := by
    simp [exec, execEdgeWriteAck, thePiece_found, h]
  simp only [after, nextOf, e]
  decide +kernel
theorem witness_PeerWriteRefused (h : peerWrite.peerUp 0 = true) :
    after (.edgeWriteRefused 4) peerWrite (fun t => t.edges == [] && t.mem == peerWrite.mem && t.peer == peerWrite.peer) = true := by
  have r : bits (peerWrite.edgeGone thePiece).hring 4 0 = 0 := by decide +kernel
  have e : exec (.edgeWriteRefused 4) peerWrite = .next (peerWrite.edgeGone thePiece) := by
    simp [exec, execEdgeWriteRefused, thePiece_found, h, State.postHyper, r]
  simp only [after, nextOf, e]
  decide +kernel
theorem witness_PeerDown (h : peerWrite.peerUp 0 = false) : nextOf (exec (.edgeWriteAck 4) peerWrite) = some peerWrite ∧
    nextOf (exec (.edgeWriteRefused 4) peerWrite) = some peerWrite := by
  simp [exec, execEdgeWriteAck, execEdgeWriteRefused, thePiece_found, h, nextOf]
theorem witness_PeerAtomic (h : peerAtomic.peerUp 0 = true) (f : peerFault peerAtomic.fresh (2 ^ 52) = none) :
    after (.edgeAtomicAtHome fetchSlot) peerAtomic (fun t => (t.thread fetchSlot).hold == some (.edgeDone (.old 0) true) &&
      t.natAt (2 ^ 52) 4 == 5 && t.mem == peerAtomic.mem) = true := by
  have k : (peerAtomic.thread fetchSlot).hold = some (.edgeWait (2 ^ 52) 4 0 5 true) ∧ peerAtomic.remotePending (2 ^ 52) 4 = false ∧
      isPeer (2 ^ 52) = true ∧ peerDev (2 ^ 52) = 0 := by decide +kernel
  simp only [after, nextOf, exec, execEdgeAtomicAtHome, k, f, h]
  decide +kernel
theorem witness_PeerAtomicDown (h : peerAtomic.peerUp 0 = false) : nextOf (exec (.edgeAtomicAtHome fetchSlot) peerAtomic) = some peerAtomic := by
  have k : (peerAtomic.thread fetchSlot).hold = some (.edgeWait (2 ^ 52) 4 0 5 true) ∧ peerAtomic.remotePending (2 ^ 52) 4 = false ∧
      isPeer (2 ^ 52) = true ∧ peerDev (2 ^ 52) = 0 := by decide +kernel
  simp only [exec, execEdgeAtomicAtHome, k, h]
  rfl
theorem witness_Timeouts :
    (let b := evBase (fun t => { t with hold := some (.sleep false (some 0)) })
     onlyThread (.monwTimeout fetchSlot) b { b.thread fetchSlot with hold := some (.sleepDone 32) }) = true ∧
    (let b := evBase (fun t => { t with hold := some (.sleep true (some 0)), ready := true })
     onlyThread (.wsleepTimeout fetchSlot) b { b.thread fetchSlot with hold := some (.sleepDone 48) }) = true := by decide +kernel

/-! The matrix unit and the reduction network. -/

theorem witness_MatrixAccept :
    let sq := base.subq fetchSlot
    let c := aCmd .mzero 0x0000100000000000 false
    let b := { evBase id with matq := [(sq, [c])] }
    sq / 256 = fetchSlot / 512 ∧ b.mayStart (sq / 256) c = true ∧ b.headBefore (sq / 256) sq = false ∧ b.clusterRuns (sq / 256) = true ∧
    nextOf (exec (.matrixCommandAccept (sq / 256) sq) b) = some { b with
      matq := [(sq, [{ c with running := true, left := c.stepCount, waits := b.barrierSet (sq / 256) sq }])], wrr := mput b.wrr (sq / 256) (sq + 1) } := by decide +kernel
theorem witness_MatrixComplete :
    let sq := base.subq fetchSlot
    let c := aCmd .mbar 0 true
    let b := { evBase (fun t => { t with mats := [(9, false)] }) with matq := [(sq, [c])] }
    b.completable (sq / 256) sq = true ∧ after (.matrixCommandComplete (sq / 256) sq) b (fun t => (t.thread fetchSlot).mats == [] &&
      mgetD t.matq sq [] == [] && t.mem == b.mem && t.tiles == (b.writeTiles (sq / 256) c).tiles) = true := by decide +kernel
theorem witness_Reduction :
    (let b := { evBase id with nodes := [⟨0, 5, fetchSlot, base.th.uid, true, 0, 0, 0, some (3, 0, [7]), none⟩] }
     totalWords 3 [7] == [7] && (b.thread fetchSlot).queueRoom 15 && b.chanOf fetchSlot 15 == none &&
      after (.reductionRoundDeliver 0 5) b (fun t => (t.thread fetchSlot).p15 == [7] && t.nodes.all (fun m => m.contrib == none && m.out == none))) = true ∧
    (let b := { evBase id with nodes := [⟨0, 5, fetchSlot, base.th.uid, true, 0, 0, 0, none, none⟩] }
     decide (nextOf (exec (.reductionRoundDeliver 0 5) b) = some b)) = true := by decide +kernel

/-! The scheduler. -/

/-- Partition 2 has the slot's cluster whole, and every HBM region; its function 1 has a segment of 1 MiB at 0x100000, all of it present, a
queue table at 0x1000, a control block at 0x2000, counter tables at 0x3000 and a context table at 0x4000 whose ASID 0 maps the first
GiB of addresses to the same intermediate addresses. -/
def thePart : Part := ⟨[0, 0, 0, 0, 0, 0x8000000000000000, -1, 0xFFFFFFFF80000200, 0x800, -1, -1, 1], 0, 0, 0, 0, false⟩
def theFn : VFunc :=
  { desc := [0x400010002, 0x400000000, 0, 0x100000, 0x100000, 0x50000, 0, 0, 0, 0x4000, 0x1000, 0x2000, 0x3000, 0x3000]
    cmap := [383], agg := false, serial := 1, mstate := 0, linkLost := false }
def fnBase : State :=
  let s := { evBase (fun t => { t with live := false }) with
    parts := [(2, thePart)], vfs := [(1, theFn)], binds := [⟨[coreOf fetchSlot], -1, some 1⟩] }
  ([(0x50000, [0xFF, 0xFF]), (0x104000, leBytes 8 0x5001), (0x105000, leBytes 8 0x6001), (0x106000, leBytes 8 0x7001),
    (0x107000, leBytes 8 0x3F), (0x101000, leBytes 8 0x8000 ++ leBytes 8 0x801 ++ leBytes 8 0 ++ leBytes 8 1),
    (0x108000, leBytes 8 0x9000 ++ leBytes 8 77 ++ leBytes 8 0 ++ leBytes 8 0x0108)] : List (Nat × List Byte)).foldl
    (fun (z : State) p => z.setBytes p.1 p.2) s

theorem witness_QueueNotify :
    (let b := fnBase
     b.qFree theFn 1 && decide (nextOf (exec (.queueNotify 1 0) b) = some { b with qpend := [64], qmap := [⟨1, 0, 0⟩], qlast := 64 })) = true ∧
    (let b := { fnBase with qmap := [⟨1, 0, 0⟩] }
     b.mapped 64 && decide (nextOf (exec (.queueNotify 1 0) b) = some { b with qpend := [64] })) = true ∧
    (let b := { fnBase with qmap := [⟨1, 0, 0⟩], qpend := [64] }
     decide (nextOf (exec (.queueNotify 1 0) b) = some b)) = true := by decide +kernel

/-- The queue holds a slot. -/
def qBase : State := { fnBase with qmap := [⟨1, 0, 0⟩], qpend := [64] }

theorem witness_LaunchStart :
    (match (qBase.headOfQueue false ⟨1, 0, 0⟩).1 with
      | .record asid r st none => asid == 0 && st == 0 && after (.launchStart 1 0) qBase (fun t => match mget t.launches qBase.fresh with
        | some l => l.record == r && l.vf == 1 && l.queue == 0 && l.asid == 0 && l.part == 2 && l.begun == 0 && l.ending == 0 &&
            t.byteAt 0x101010 == 1
        | none => false)
      | _ => false) = true := by decide +kernel
theorem witness_LaunchEmpty :
    let b := qBase.setBytes 0x101010 [1]
    (b.headOfQueue false ⟨1, 0, 0⟩).1 = .empty false ∧ nextOf (exec (.launchStart 1 0) b) = some { b with qmap := [], qpend := [] } := by decide +kernel
/-- The record waits for the counter at 0xA000 to reach 1. -/
theorem witness_LaunchBlocked :
    let b := qBase.setBytes 0x108020 (leBytes 8 0xA000 ++ leBytes 8 1)
    (b.headOfQueue false ⟨1, 0, 0⟩).1 = .blocked none ∧
      nextOf (exec (.launchStart 1 0) b) = some (b.headOfQueue false ⟨1, 0, 0⟩).2 := by decide +kernel

/-- A launch of one thread with a window of eight registers, as its start left it. -/
def theLaunch : Launch :=
  { vf := 1, queue := 0, part := 2, asid := 0, record := [0x9000, 77, 0, 0x0108, 0, 0, 0, 0, 0, 0, 0, 0, 0, 0, 0, 0], begun := 0, blocks := [], start := none
    exited := 0, dies := [], turns := 0, areas := [], slots := [], places := [], children := [], tasks := [], first := 0, created := 1
    idle := ([], []), ending := 0 }
def launchBase (g : Launch → Launch) : State := { fnBase with launches := [(9, g theLaunch)], fresh := 100 }

theorem witness_CoreGroupStart :
    (let b := launchBase id
     !b.outranked 9 theLaunch && b.launchOpen theLaunch && match startNext 9 (lrBlocks theLaunch.record) 0 [] b with
     | .ok (true, t) => decide (nextOf (exec (.coreGroupStart 9) b) = some t) && (mget t.launches 9).any (fun l => l.begun == 1) &&
        t.threads.any (fun p => p.2.live && p.2.a.pc == 0x9000 && p.2.winLim == 8 && p.2.lid == some 9)
     | _ => false) = true := by decide +kernel
theorem witness_CoreGroupWaits :
    let b := { launchBase id with stops := [(0, ⟨383, 2, 0, .frozen, 0, 0, [], 0, false, none, false, false⟩)] }
    (!b.outranked 9 theLaunch && b.launchOpen theLaunch && match startNext 9 (lrBlocks theLaunch.record) 0 [] b with
     | .ok (false, t) => decide (nextOf (exec (.coreGroupStart 9) b) = some t)
     | _ => false) = true ∧
    (let c := launchBase (fun l => { l with begun := 1 })
     (mget c.launches 9).any c.launchOpen = false ∧ nextOf (exec (.coreGroupStart 9) c) = some c) := by decide +kernel

theorem witness_ChildStart :
    let c : Child := ⟨fetchSlot, 40, 0x9100, 5, 6, [0], [0, 0, 0, 0], 0⟩
    let b := launchBase (fun l => { l with begun := 1, slots := [(fetchSlot, 0)], children := [c] })
    (mget b.launches 9).any (fun l => b.childSlot 9 l c fetchSlot && b.freeWindows (coreOf fetchSlot) (lrWin l.record) 1 [] == [0]) = true ∧
    after (.childStart 9 fetchSlot) b (fun t =>
      let u := t.thread fetchSlot
      u.live && u.a.pc == 0x9100 && u.path == [0] && u.parent == some 40 && u.lid == some 9 && u.winLim == 8 && t.getXOf fetchSlot 3 == 6 &&
        t.getXOf fetchSlot 4 == 5 && (mget t.launches 9).any (fun l => l.children == [])) = true := by decide +kernel
theorem witness_TaskStart :
    let b := launchBase (fun l => { l with begun := 1, slots := [(fetchSlot, 0)], record := l.record.set 3 0x40108 })
    (mget b.launches 9).any (fun l => l.takeTask.isSome && !b.mustYield 9 l fetchSlot && lrOrd l.record && b.slotFree fetchSlot) = true ∧
    after (.taskStart 9 fetchSlot) b (fun t =>
      let u := t.thread fetchSlot
      u.live && u.a.pc == 0x9000 && u.ts == 0 && u.order == 0 && t.getXOf fetchSlot 3 == 77 && (mget t.launches 9).any (fun l => l.first == 1)) = true := by
  decide +kernel
/-- A sleeping thread of a deterministic launch, whose sleep does not end at its place. -/
theorem witness_PassedOver :
    let b0 := launchBase (fun l => { l with begun := 1, slots := [(fetchSlot, 0)], record := l.record.set 3 0x20108 })
    let b := b0.setThread fetchSlot { base.th with
      vf := some 1, lid := some 9, hold := some (.sleep false (some 5)), evald := some 0, a := { base.th.a with status := 0x4000 } }
    (mget b.launches 9).any (fun l => b.keyTurn fetchSlot && b.waitFails (b.thread fetchSlot) fetchSlot && !b.launchBusy 9 && !b.launchStuck 9 l) = true ∧
    after (.passedOverEntry fetchSlot) b (fun t => (t.thread fetchSlot).ent == 1 && (t.thread fetchSlot).hold == some (.sleep false (some 4)) &&
      (t.thread fetchSlot).a == (b.thread fetchSlot).a) = true := by decide +kernel
theorem witness_LaunchComplete :
    let b := launchBase (fun l => { l with begun := 1, start := some 0, exited := 1 })
    (mget b.launches 9).any (fun l => b.launchDone 9 l && lrCrec l.record == 0 && lrCev l.record == 0) = true ∧
    after (.launchComplete 9) b (fun t => t.launches == [] && t.mem == b.mem) = true ∧
    (let r := launchBase (fun l => { l with begun := 1, start := some 3, exited := 1, record := l.record.set 13 0xA000 })
     after (.launchComplete 9) r (fun t => t.launches == [] && t.dwordAt 0x10A000 == 0x8000000000000000 && t.dwordAt 0x10A008 == 3 &&
      t.dwordAt 0x10A018 == 1)) = true := by decide +kernel
theorem witness_Drain :
    nextOf (exec (.drainRequest 1 0) (launchBase (fun l => { l with begun := 1 }))) =
      some (launchBase (fun l => { l with begun := 1, ending := 4 })) := by decide +kernel

/-! Errors, resets, the start of the hypervisor and throttling. -/

theorem witness_Errors :
    nextOf (exec (.errorDetected 1 0x1000 0) base) = some { base with merged := base.merged ++ [⟨1, 0x1000, base.cycle, 1⟩] } ∧
    nextOf (exec .linkFlitError base) = some { base with merged := base.merged ++ [⟨6, 0, base.cycle, 1⟩] } ∧
    nextOf (exec (.errorDetected 2 0x1000 0) base) = some base ∧ base.dieState (lineOf 0x1000) (dieOf 0) = .i ∧
    (let b := base.setDie (lineOf 0x1000) 0 .e
     b.dieState (lineOf 0x1000) (dieOf 0) = .e ∧
     nextOf (exec (.errorDetected 2 0x1000 0) b) = some (b.postHyper 10 (b.ownerOf 0x1000) 0 0 [0x100000102, 0x1000, 0])) ∧
    isPackage (2 ^ 56) = false ∧ isHost (2 ^ 56) = false ∧ nextOf (exec (.errorDetected 3 (2 ^ 56) 0) base) = some base ∧
    isHost (2 ^ 51) = true ∧ after (.errorDetected 3 (2 ^ 51) 0) base (fun t => t.poisoned (2 ^ 48)) = true ∧
    after (.errorDetected 3 (2 ^ 61 + (2097152 * 383 + 5)) 0) base (fun t => mget t.tilePoison (2097152 * 383 + 5) == some ()) = true ∧
    isPackage 0x1000 = true ∧
    after (.errorDetected 3 0x1000 0) base (fun t => t.poisoned 0x200) = true ∧
    base.th.live = true ∧ after (.errorDetected 5 0 fetchSlot) base (fun t => !t.th.live) = true ∧
    base.policyOf fetchSlot % 2 = 0 ∧ after (.errorDetected 4 0 fetchSlot) base (fun t => !t.th.live) = true := by decide +kernel
theorem witness_PortFailure : nextOf (exec (.heathwayPortFailure 35) base) = some { base with portsDown := [35] } := by decide +kernel
theorem witness_Resets :
    after .packageReset base (fun t => t.threads == [] && t.ho == { State.reset.ho with state := 0 } && t.byteAt 0 == 0 &&
      t.agenda == [.handOff 1 0]) = true ∧
    after (.functionLevelReset 0) base (fun t => t.threads == []) = true ∧
    after .thermalReset base (fun t => t.ho.state == 0 && t.agenda == [.handOff 2 2]) = true ∧
    after (.functionLevelReset 2) (launchBase (fun l => { l with begun := 1 })) (fun t => t.launches.all (fun p => p.2.ending == 4)) = true ∧
    after (.functionLevelReset 2) (launchBase id) (fun t => t.launches == (launchBase id).launches) = true ∧
    (let b := { base with ho := { base.ho with state := 0 } }
     b.handoffWord 7 = 0 ∧ b.handoffWord 8 = 0 ∧
     (match b.act (.handOff 2 2) with | .next t => t.ho.state == 2 && t.ho.hentry == base.ho.hentry | _ => false) = true) := by decide +kernel
theorem witness_Hentry :
    State.reset.ho.state = 1 ∧ after (.hentry 0x4000) State.reset (fun t => t.ho.state == 3 && (t.thread fetchSlot).live &&
      (t.thread fetchSlot).a.pc == 0x4000 && (t.thread fetchSlot).level == 2 && (t.thread fetchSlot).dir && !(t.thread fetchSlot).ie) = true ∧
    (let b := { base with ho := { base.ho with state := 3 } }
     nextOf (exec (.hentry 0x4000) b) = some b) := by decide +kernel
theorem witness_Throttle :
    after (.throttleStart 2 1 63) base (fun t => mget t.throttle 2 == some (1, 63)) = true ∧
    (let b := { base with throttle := [(2, (1, 63))] }
     (mget b.throttle 2).isSome = true ∧ after (.throttleEnd 2) b (fun t => t.throttle == []) = true) := by decide +kernel

/-! The host's accesses. -/

theorem witness_HostReads :
    (let b := base.setBytes 0x1008 [7]
     isHbm 0x1008 && (b.segmentOf 0x1000).isNone && !(dwordsOf 0x1000 64).any b.poisoned &&
      after (.cxlMemRead 0x1008) b (fun t => t.outbox == b.outbox ++ [.hostData 0x1000 (some (b.bytesAt 0x1000 64))])) = true ∧
    (let b := base.setPoison 0x201 true
     after (.cxlMemRead 0x1000) b (fun t => t.outbox == b.outbox ++ [.hostData 0x1000 none])) = true ∧
    after (.cxlMemRead (bar0 + 4095)) base (fun t => t.outbox == [.hostData (bar0 + 4032) (some (List.replicate 64 0))]) = true ∧
    after (.cxlMemRead bar0) base (fun t => match t.outbox with
      | [.hostData _ (some bs)] => bs.take 8 == leBytes 8 (base.handoffWord 0).toNat
      | _ => false) = true ∧
    (let b := { base with hostLines := [(32, ()), (33, ())] }
     (b.backInvalidate [33, 40]).outbox = [.backInval 33] ∧ (b.backInvalidate [33, 40]).hostLines = [(32, ())] ∧
     nextOf ((b.backInvalidate [33]).act .hostResponse) = some { b.backInvalidate [33] with hostInval := [] }) := by decide +kernel
theorem witness_HostWrites :
    isHbm 0x103F = true ∧ (base.segmentOf 0x103F).isNone = true ∧ 0x103F % 64 + 1 = 64 ∧
    after (.cxlMemWrite 0x103F [9]) base (fun t => t.byteAt 0x103F == 9 && t.byteAt 0x103E == 0) = true ∧
    isHost (2 ^ 51) = true ∧ after (.cxlCacheSnoop (2 ^ 51) [9]) base (fun t => t.byteAt (2 ^ 51) == 9) = true ∧
    after (.cxlCacheSnoop (2 ^ 51) []) base (fun t => t.mem == base.mem) = true ∧
    (let b := { base with dirs := [(2 ^ 44, [.i, .m, .i, .i])] }
     b.dieState (lineOf (2 ^ 51)) 1 = .m ∧ after (.cxlCacheSnoop (2 ^ 51) []) b (fun t => mget t.dirs (2 ^ 44) == some [.i, .s, .i, .i])) := by decide +kernel
/-- The DCT's entry of region 3 asks for nothing, a report, or a move. -/
theorem witness_Threshold :
    (let b := fnBase
     (mget b.vfs 1).isSome = true ∧ bits (b.dwordAt (theFn.pa (theFn.dct + 24))) 51 50 = 0 ∧
     nextOf (exec (.accessCounterThreshold 1 false 3) b) = some b) ∧
    (let b := fnBase.setBytes 0x103018 (leBytes 8 0x4000000001000)
     bits (b.dwordAt (theFn.pa (theFn.dct + 24))) 51 50 = 1 ∧
     nextOf (exec (.accessCounterThreshold 1 false 3) b) = some (b.report 1 theFn 3 (65536 * 3) 0 (8 * 0x1000))) := by decide +kernel

/-- The same with a region asking for a move to the host, whose ring holds one frame. -/
def moveBase : State :=
  let d := theFn.desc ++ [0, 0, 0, 0xC000, 0]
  let v := { theFn with desc := (d.set 6 0x8000000000000).set 7 0x100000 }
  (([(0x103018, leBytes 8 (0x8000000000000 + 0x6000 / 8)), (0x10C000, leBytes 8 0 ++ leBytes 8 1 ++ leBytes 8 0x20000),
    (0x106000, (List.range 16).flatMap (fun i => leBytes 8 (0x30037 + 4096 * i)))] : List (Nat × List Byte)).foldl
      (fun (z : State) p => z.setBytes p.1 p.2) { fnBase with vfs := [(1, v)] }).setBytes 0x130000 [1, 2, 3]

theorem witness_RegionMove :
    (match mget moveBase.vfs 1 with
     | some v =>
       let leaves := (List.range 16).map (fun i => moveBase.dwordAt (v.pa 0x6000 + 8 * i))
       (v.window 0x6000).isSome && groupMaps (regionIpa false 3) leaves && moveBase.moves.length == 0 &&
       (match State.takeFrame 1 v false (65536 * 3) 0x6000 511 moveBase with
        | (some f, s1) => f == 0x20000 && after (.accessCounterThreshold 1 false 3) moveBase (fun t =>
            t.moves == [⟨1, false, 3, f, 0x6000, leaves, []⟩] && t.byteAt 0x106000 == 0x36 && t.byteAt 0x106006 == 0x20 && s1.dwordAt 0x10C000 == 1)
        | _ => false)
     | none => false) = true := by decide +kernel
theorem witness_RegionMoveComplete :
    (match nextOf (exec (.accessCounterThreshold 1 false 3) moveBase) with
     | some b => (b.moves.find? (fun m => m.vf == 1)).isSome && (mget b.vfs 1).isSome
     | none => false) = true := by decide +kernel

/-! The debug port and observation. -/

/-- This part's device identifier, as the debug port's actions name it. -/
abbrev dev : Nat := Config.devid % 2 ^ 20

theorem witness_DebugRouting :
    after (.dbgen ⟨dev, 2⟩ true) base (fun t => t.dbgen == [2]) = true ∧ after (.dbgen ⟨dev, 2⟩ false) { base with dbgen := [1, 2] } (fun t => t.dbgen == [1]) = true ∧
    after (.bpset ⟨dev, 7⟩ 3 (some (0x1000, 2))) base (fun t => mget t.bps 31 == some (0x1000, 2)) = true ∧
    after (.bpset ⟨dev, 7⟩ 3 none) { base with bps := [(31, (0x1000, 2))] } (fun t => t.bps == []) = true := by
  simp only [after, nextOf, exec, execDbgen, execBpset, forPart_own]
  decide +kernel
theorem witness_Halt :
    (let b := evBase id
     let s1 := b.setThread fetchSlot { b.thread fetchSlot with stopFor := some .halt }
     b.runs fetchSlot && (s1.atPoint fetchSlot).isSome && after (.halt ⟨dev, [fetchSlot]⟩) b (fun t => (t.thread fetchSlot).halted &&
       (t.thread fetchSlot).stopFor == none)) = true ∧
    (let b := chBase [aChunk (fun c => { c with ended := false })]
     let s1 := b.setThread fetchSlot { b.thread fetchSlot with stopFor := some .halt }
     (s1.atPoint fetchSlot).isNone && decide (nextOf (exec (.halt ⟨dev, [fetchSlot]⟩) b) = some s1)) = true ∧
    (let b := evBase (fun t => { t with frozen := true })
     onlyThread (.halt ⟨dev, [fetchSlot]⟩) b { b.thread fetchSlot with halted := true }) = true ∧
    (let b := evBase (fun t => { t with stopFor := some .hover })
     onlyThread (.halt ⟨dev, [fetchSlot]⟩) b { b.thread fetchSlot with haltNext := true }) = true := by
  simp only [onlyThread, after, nextOf, exec, execHalt, forPart_own]
  decide +kernel
theorem witness_Halted :
    let b := evBase (fun t => { t with halted := true })
    let th := b.thread fetchSlot
    th.live = true ∧ th.stopFor = none ∧ onlyThread (.step ⟨dev, fetchSlot⟩) b { th with stepping := true } = true ∧
    onlyThread (.debugResume ⟨dev, [fetchSlot]⟩) b { th with halted := false, haltNext := false, stepping := false } = true ∧
    after (.debugRead ⟨dev, fetchSlot⟩) b (fun t => t.outbox == [.debugData fetchSlot (b.threadRecord fetchSlot)]) = true ∧
    (let r := (b.threadRecord fetchSlot).set 1 0x5000
     recSize r = th.winLim ∧ r.length = recLength th.winLim (recGrant r) ∧
     after (.debugWrite ⟨dev, fetchSlot⟩ r) b (fun t => (t.thread fetchSlot).a.pc == 0x5000 && (t.thread fetchSlot).halted) = true ∧
     nextOf (exec (.debugWrite ⟨dev, fetchSlot⟩ (r.set 0 0)) b) = some b) := by
  simp only [onlyThread, after, nextOf, exec, execStep, execDebugResume, execDebugRead, execDebugWrite, forPart_own]
  decide +kernel
theorem witness_OtherPart : nextOf (exec (.dbgen ⟨dev + 1, 2⟩ true) base) = some base ∧ nextOf (exec (.halt ⟨dev + 1, [fetchSlot]⟩) base) = some base := by
  have h : ¬dev + 1 = dev := by omega
  simp only [nextOf, exec, execDbgen, execHalt, forPart, if_neg h, and_self]
theorem witness_Pulse :
    nextOf (exec .samplingPulse base) = some base ∧
    (let b := ({ evBase id with cycle := 20000 } : State).setBytes 0xBFFFFFF580 (leBytes 8 10000 ++ leBytes 8 0x400010)
     b.ctb = 0xBFFFFFF000 ∧ b.pulseDue = true ∧ bits (b.dwordAt (b.ctb + 0x588)) 4 0 = 16 ∧
     after .samplingPulse b (fun t => t.pulsed == some 20000 && t.sserial == 1 && t.dwordAt 0x400000 == 40 && t.dwordAt 0xBFFFFFF590 == 40) = true) ∧
    (let b := ({ evBase id with cycle := 20000 } : State).setBytes 0xBFFFFFF580 (leBytes 8 10000)
     b.pulseDue = true ∧ after .samplingPulse b (fun t => t.pulsed == some 20000 && t.sserial == 0 && t.mem == b.mem) = true) := by decide +kernel
theorem witness_Counters :
    base.obsBase 256 = some 0xBFFFFFF400 ∧
    after (.counterConfig 256 15 (0x8000000000000001 : Word)) base (fun t => (mget t.counters (16 * 256 + 15)).any (fun c =>
      c.cfg == 0x8000000000000001 && c.value == 0 && !c.inval)) = true ∧
    after (.counterConfig 256 0 (0x8000000000000101 : Word)) base (fun t => (mget t.counters (16 * 256)).any (fun c => c.inval)) = true ∧
    after (.snap 256 5) base (fun t => t.dwordAt 0xBFFFFFF508 == 5) = true ∧
    after (.traceConfig 256) (base.setBytes 0xBFFFFFF520 [1]) (fun t => t.byteAt 0xBFFFFFF520 == 0) = true ∧
    after (.trptr 256 9) base (fun t => t.dwordAt 0xBFFFFFF530 == 9) = true := by decide +kernel
theorem witness_Tclaim :
    fnBase.traceHold.getD 3 511 = 511 ∧ fnBase.hyperClaims 3 = false ∧
    after (.tclaim 1 3 true) fnBase (fun t => t.traceHold.getD 3 511 == 1) = true ∧
    (let b := { fnBase with traceHold := [511, 511, 511, 2] }
     after (.tclaim 1 3 true) b (fun t => t.traceHold == b.traceHold) && decide (nextOf (exec (.tclaim 1 3 false) b) = some b)) = true ∧
    (let b := { fnBase with traceHold := [511, 511, 511, 1] }
     after (.tclaim 1 3 false) b (fun t => t.traceHold.getD 3 0 == 511)) = true := by decide +kernel
theorem witness_RegisterWrite :
    nextOf (exec (.registerWrite (bar0 + 56) 5) base) = some { base with ho := { base.ho with harg := 5 } } ∧
    nextOf (exec (.registerWrite (bar0 + 64) 0xAF0) base) = some { base with ho := { base.ho with pwrcap := 2800 } } ∧
    isMapped 0x2000 = true ∧ after (.registerWrite 0x2000 0x77) base (fun t => t.dwordAt 0x2000 == 0x77) = true := by decide +kernel

/-! Mailbox commands. -/

def mbc (seq tgt op : Nat) (args : List Word) : MbCmd := ⟨BitVec.ofNat 64 (seq * 2 ^ 48 + tgt * 2 ^ 16 + op), args⟩

theorem witness_MailboxRefusals :
    (let b := { base with mb := { base.mb with run := some ⟨1, .hover, 0, 0⟩ } }
     nextOf (exec (.drain (mbc 7 0 6 [])) b) = some b) ∧
    base.mb.run = none ∧
    nextOf (exec (.drain (mbc 7 0 5 [])) base) = some ((Spec.taken base).mbResult 7 1 0 0) := by decide +kernel
/-- A cluster, two slots of each core, two banks, one region and one colour for partition 5. -/
def partDesc : List Nat := [1, 0, 0, 0, 0, 0, 3, 0x300000000, 0, 0, 0, 2, 0, 0, 0, 0]
def psetBase : State := { evBase (fun t => { t with live := false }) with parts := [(2, thePart)] }
def zeroPart : Part := ⟨List.replicate 16 0, 0, 0, 0, 0, false⟩
theorem witness_PsetDelete :
    (match psetBase.mbDwords 0x8000 16 with | .ok d => d == List.replicate 16 0 | .error _ => false) = true ∧
    psetBase.inUse 2 zeroPart = false ∧ overfull zeroPart [] = false ∧
    after (.mbPset (mbc 7 2 1 [0x8000])) psetBase (fun t => t.parts == []) = true := by decide +kernel
theorem witness_PsetCreate :
    (let b := psetBase.setBytes 0x8000 (partDesc.flatMap (leBytes 8))
     match b.mbDwords 0x8000 16 with
     | .ok d => partValid d && !(⟨d, 0, 0, 0, 0, false⟩ : Part).conflicts thePart &&
        !overfull ⟨d, 0, 0, 0, 0, false⟩ [thePart] && !b.inUse 5 ⟨d, 0, 0, 0, 0, false⟩ && decide (dw thePart.desc 11 ||| dw d 11 ≠ BitVec.allOnes 64) &&
        after (.mbPset (mbc 7 5 1 [0x8000])) b (fun t => (mget t.parts 5).any (fun p => p.desc == d) && mget t.parts 2 == some thePart)
     | .error _ => false) = true := by decide +kernel
theorem witness_VsetDelete :
    (match fnBase.mbDwords 0x8000 24 with | .ok d => d.all (· == 0) | .error _ => false) = true ∧ fnBase.fnBusy 1 = false ∧ fnBase.migHolds 1 = false ∧
    after (.vset (mbc 7 1 2 [0x8000])) { fnBase with qmap := [⟨1, 0, 0⟩] } (fun t => t.vfs == [] && t.qmap == []) = true := by decide +kernel
theorem witness_Hset :
    after (.hset (mbc 7 0 3 [0x1010, 0x2FE01, 0x5001])) psetBase (fun t => t.hring == 0x1010 && t.hslot == 0x2FE01 && t.hserial == 1 &&
      t.hctx == 0x5001 && t.mb.run == none) = true ∧ bits (0x2FE01 : Word) 17 9 < clusterCount := by decide +kernel
theorem witness_MbPlog :
    after (.mbPlog (mbc 7 2 4 [0x9000, 100, 5])) psetBase (fun t => (mget t.parts 2).any (fun q => q.logBase == 0x9000 && q.logLen == 100 &&
      q.policy == 5 && q.desc == thePart.desc)) = true := by decide +kernel
theorem witness_ContainDrainTrace :
    (let b := launchBase (fun l => { l with begun := 1 })
     nextOf (exec (.contain (mbc 7 1 5 [0x3FFF])) b) = some (((Spec.taken b).contain (some 1) 0x3FFF 4 none).1.mbResult 7 0
       ((Spec.taken b).contain (some 1) 0x3FFF 4 none).2 0)) ∧
    after (.drain (mbc 7 1 6 [0])) (launchBase (fun l => { l with begun := 1 })) (fun t => t.launches.all (fun p => p.2.ending == 4)) = true ∧
    (let b := { fnBase with traceHold := [511, 511, 511, 256] }
     after (.trace (mbc 7 3 7 [0])) b (fun t => t.traceHold.getD 3 0 == 511) && after (.trace (mbc 7 3 7 [1])) b (fun t => t.traceHold.getD 3 0 == 256)) = true := by
  decide +kernel
theorem witness_Bstop :
    psetBase.wholeOwner 383 = some 2 ∧ psetBase.clusterRuns 383 = true ∧ psetBase.freed = [] ∧
    (List.range baleBlocks).all (fun k => psetBase.bufferBlock (2 ^ 51 + 4096 * k)) = true ∧
    after (.bstop (mbc 7 383 0x10 [0x8000000000000])) psetBase (fun t => !t.clusterRuns 383 && t.mem == psetBase.mem &&
      (mget t.stops 0).any (fun b => b.pc == 383 && b.phase == .stopping) && t.mb.run == some ⟨7, .bstop 383, 0, 0⟩) = true := by decide +kernel
/-- Two functions on the slot's cluster; function 1 holds every slot of the core. -/
def hoverBase : State := { fnBase with vfs := [(1, theFn), (3, theFn)] }
theorem witness_Hover :
    (Spec.taken hoverBase).hoverSlots thePart 5 1 theFn = [fetchSlot, fetchSlot + 2] ∧ theFn.part = 2 ∧ (5 : Word) &&& ~~~thePart.slots = 0 ∧
    (let b := hoverBase.setThread fetchSlot { base.th with vf := some 1 }
     after (.hover (mbc 7 2 0x12 [5, 0x301, 0x400000, 0])) b (fun t => t.hover == some ⟨2, 1, 3, 0x400000, 0, [fetchSlot, fetchSlot + 2], 0⟩ &&
       (t.thread fetchSlot).stopFor == some .hover && t.mb.run == some ⟨7, .hover, 0, 0⟩ && t.mem == b.mem)) = true := by decide +kernel
theorem witness_ScrubComplete :
    let b := { base with mb := { base.mb with run := some ⟨9, .scrub 2 none [], 8, 1⟩ } }
    nextOf (exec .scrubComplete b) = some (b.mbResult 9 0 8 1) := by decide +kernel

/-! Bales and handovers. -/

def stopBase (ph : StopPhase) (g : Option Nat) : State := { psetBase with stops := [(0, ⟨383, 2, 2 ^ 51, ph, 0, 0, [], 0, false, g, false, false⟩)], nextStop := 1 }
theorem witness_BaleFreeze :
    (let b := (stopBase .stopping none).setThread fetchSlot base.th
     (b.stopAt 383 .stopping).isSome && after (.baleFreeze 383) b (fun t => (mget t.stops 0).any (fun x => x.phase == .frozen && x.pc == 383) &&
      t.threads.all (fun p => clusterOf p.1 != 383))) = true ∧
    (let b := (stopBase .stopping none).setThread fetchSlot { base.th with chunks := [aChunk (fun c => { c with granted := true })] }
     nextOf (exec (.baleFreeze 383) b) = some b) ∧
    (let b := { stopBase .stopping none with sigs := [(fetchSlot + 1, [5])] }
     b.sigs.any (sigFrom 383) = true ∧ nextOf (exec (.baleFreeze 383) b) = some b) := by decide +kernel
theorem witness_BaleStreamOut :
    ((stopBase .frozen (some 1)).stopAt 383 .frozen).isSome = true ∧ ((stopBase .frozen none).stopAt 383 .frozen).isSome = true ∧
    after (.baleStreamOutEnd 383) (stopBase .frozen (some 1)) (fun t => (mget t.stops 0).any (fun x => x.phase == .out)) = true := by decide +kernel
theorem witness_BaleStreamIn :
    let b := stopBase (.into 383) none
    (b.stops.find? (fun x => x.2.phase == .into 383)).isSome = true ∧ after (.baleStreamInEnd 383) b (fun t => t.stops == []) = true := by decide +kernel
/-- A slot without a thread is handed over at once; the second is the last. -/
theorem witness_SlotHandover :
    let h : Hover := ⟨2, 1, 3, 0x400000, 0, [fetchSlot, fetchSlot + 2], 0⟩
    let b := { hoverBase with hover := some h, mb := { base.mb with run := some ⟨7, .hover, 0, 0⟩ } }
    b.runs fetchSlot = true ∧ b.handable h fetchSlot = some b ∧ ((b.saveSlot h theFn fetchSlot).fillSlot h theFn fetchSlot).isSome = true ∧
    after (.slotHandover fetchSlot) b (fun t => t.boundTo fetchSlot == some 3 && t.boundTo (fetchSlot + 2) == some 1 &&
      (t.hover).any (fun h => h.slots == [fetchSlot + 2] && h.count == 1)) = true ∧
    after (.slotHandover fetchSlot) { b with hover := some { h with slots := [fetchSlot], count := 1 } } (fun t => t.hover == none && t.mb.run == none &&
      t.dwordAt (t.ctb + 0x108) == 2) = true := by decide +kernel
theorem witness_SlotHandoverWaits :
    let h : Hover := ⟨2, 1, 3, 0x400000, 0, [fetchSlot], 0⟩
    let b := ({ hoverBase with hover := some h, mb := { base.mb with run := some ⟨7, .hover, 0, 0⟩ } }.setThread fetchSlot
      { base.th with vf := some 1, mats := [(9, false)] })
    b.handable h fetchSlot = none ∧ nextOf (exec (.slotHandover fetchSlot) b) = some b := by decide +kernel
theorem witness_HandoverResume :
    let b := evBase (fun t => { t with hold := some (.lanes 4) })
    4 ≤ b.lanesFree fetchSlot ∧ onlyThread (.handoverResume fetchSlot) b { b.thread fetchSlot with hold := none, a := { (b.thread fetchSlot).a with grant := 4 } } = true := by
  decide +kernel

/-! Migration. -/

/-- The function of the scheduler's tests with STATE `st`, its migration record and MPEER valid: part 77, function 6. The REQ dword is
`req`. -/
def migFn (st : Nat) : VFunc := { theFn with mstate := st }
def migBase (st req : Nat) (g : Mig → Mig) : State :=
  ({ fnBase with vfs := [(1, migFn st)], migs := [(1, g Mig.idle)] } : State).setBytes 0xBE00020000 (leBytes 8 req ++ leBytes 8 (1 + 6 * 2 + 77 * 512))

theorem witness_Precopy :
    (migBase 0 1 id).mpeer 1 = true ∧ mget (migBase 0 1 id).vfs 1 = some (migFn 0) ∧
    after (.precopy 1) (migBase 2 1 id) (fun t => mget t.vfs 1 == some (migFn 2) && (t.mig 1).stat == 2) = true ∧
    fnBase.mpeer 1 = false ∧ after (.precopy 1) fnBase (fun t => (t.mig 1).stat == 2) = true := by decide +kernel
theorem witness_Stopping :
    (let b := (migBase 0 0x102 id).setThread fetchSlot { base.th with vf := some 1 }
     (b.dwordAt (b.migBase 1)).getLsbD 8 && b.mpeer 1 && (mget b.vfs 1).any (fun v => v.mstate == 0)) = true ∧
    after (.stopping 1) (migBase 4 2 id) (fun t => (t.mig 1).stat == 2 && mget t.vfs 1 == some (migFn 4)) = true := by decide +kernel
theorem witness_Abort :
    bits ((migBase 1 3 id).dwordAt ((migBase 1 3 id).migBase 1)) 2 0 = 3 ∧
    after (.abort 1) (migBase 1 3 (fun m => { m with steps := 4 })) (fun t => mget t.vfs 1 == some (migFn 0) && (t.mig 1).steps == 0) = true ∧
    after (.abort 1) (migBase 4 3 id) (fun t => mget t.vfs 1 == some (migFn 0)) = true ∧
    after (.abort 1) (migBase 4 3 (fun m => { m with ended := true })) (fun t => mget t.vfs 1 == some (migFn 4) && (t.mig 1).stat == 2) = true ∧
    after (.abort 1) (migBase 2 3 id) (fun t => mget t.vfs 1 == some (migFn 2) && (t.mig 1).stat == 2) = true ∧
    (migBase 3 3 id).stops = [] ∧
    after (.abort 1) (migBase 3 3 id) (fun t => mget t.vfs 1 == some (migFn 0) && (t.mig 1).steps == 0 && (t.mig 1).heldPulls == []) = true ∧
    after (.abort 1) (migBase 3 3 (fun m => { m with started := true })) (fun t => mget t.vfs 1 == some (migFn 3) && (t.mig 1).stat == 2) = true := by decide +kernel
theorem witness_Resuming :
    (let b := (migBase 0 4 id).setBytes 0x50000 [0, 0]
     !b.fnBusy 1 && (b.absentPages (migFn 0)).length == 16 && (migFn 0).pages == 16 &&
      after (.resuming 1) b (fun t => (mget t.vfs 1).any (fun v => v.mstate == 4) && (t.mig 1).steps == 0)) = true ∧
    after (.resuming 1) (migBase 4 4 id) (fun t => (t.mig 1).stat == 2) = true := by decide +kernel
theorem witness_MigrationStopped :
    (migBase 2 2 (fun m => { m with form := 1 })).migQuiet 1 = true ∧ (migBase 2 2 id).stops = [] ∧
    nextOf (exec (.migrationStopped 1) (migBase 1 2 id)) = some (migBase 1 2 id) ∧
    (let b := (migBase 2 2 id).setThread fetchSlot { base.th with vf := some 1 }
     b.migQuiet 1 = false ∧ nextOf (exec (.migrationStopped 1) b) = some b) := by decide +kernel
/-- MACK stands at byte 0x100 of the block. -/
theorem witness_Mack :
    (let b := (migBase 1 1 (fun m => { m with steps := 3 })).setBytes 0xBE00020100 [3]
     b.dwordAt (b.migBase 1 + 0x100) == 3 && after (.mackRelease 1) b (fun t => (t.mig 1).mack == 3)) = true ∧
    (let b := (migBase 1 1 (fun m => { m with steps := 3 })).setBytes 0xBE00020100 [2]
     nextOf (exec (.mackRelease 1) b) = some b) ∧
    (let b := (migBase 4 4 id).setBytes 0xBE00020100 [1]
     match b.checkStep 1 (migFn 4) with
     | .error code => after (.mackSubmit 1) b (fun t => (t.mig 1).stat == code && (t.mig 1).steps == 0 && (t.mig 1).stream == [])
     | .ok _ => false) = true := by decide +kernel
/-- A first step whose payload is the start of a section. -/
def aStep : List Byte :=
  let pay : List Byte := leBytes 8 (2 * 2 ^ 56 + 500)
  let head (hcrc : Nat) : List Byte := [2 ^ 48 + 2 ^ 40 + 1, 8, 0, 6 * 2 ^ 20 + 77, hcrc * 2 ^ 32 + crc32c pay, 0, 0, 0].flatMap (leBytes 8)
  head (crc32c (head 0)) ++ pay
theorem witness_MackSubmit :
    let b := ((migBase 4 4 id).setBytes 0xBE00020100 [1]).setBytes 0xBE00030000 aStep
    (match b.checkStep 1 (migFn 4) with
     | .ok x => !x.fin && after (.mackSubmit 1) b (fun t => (t.mig 1).steps == 1 && (t.mig 1).stream == [0x2000000000001F4] && x.stream == (t.mig 1).stream)
     | .error _ => false) = true := by decide +kernel

theorem witness_Pull :
    nextOf (exec (.pull 1 5) base) = some { base with outbox := base.outbox ++ [.pullFail 0 0 5] } ∧ mget base.vfs 1 = none ∧
    after (.pull 1 15) (migBase 1 1 id) (fun t => (t.mig 1).heldPulls == [15] && t.outbox == []) = true ∧
    nextOf (exec (.pull 1 5) (migBase 4 4 id)) = some (migBase 4 4 id) ∧
    (let b := migBase 3 2 (fun m => { m with given := [5] })
     nextOf (exec (.pull 1 5) b) = some b) := by decide +kernel
theorem witness_PullData :
    (migBase 4 4 id).present (migFn 4) (65536 * 15) = true ∧
    (let b := (migBase 4 4 id).setBytes 0x50000 [0, 0]
     !b.present (migFn 4) (65536 * 15) && decide (nextOf (exec (.pullData 1 15 [] [] []) b) = some (b.failPull 1 15)) && ((b.failPull 1 15).mig 1).stat == 4) = true := by decide +kernel
theorem witness_Pullall :
    after (.pullall 1) ((migBase 4 4 id).setBytes 0xBE00020010 [1]) (fun t => (t.mig 1).pullall) = true := by decide +kernel
theorem witness_StartedDone :
    after (.started 1) (migBase 3 2 (fun m => { m with peers := [⟨5, false⟩, ⟨6, true⟩] })) (fun t => (t.mig 1).started && t.outbox.length == 2) = true ∧
    after (.done 1) (migBase 3 2 (fun m => { m with started := true })) (fun t => (t.mig 1).finished && mget t.vfs 1 == some (migFn 3)) = true ∧
    nextOf (exec (.started 1) (migBase 2 2 id)) = some (migBase 2 2 id) ∧ nextOf (exec (.done 1) (migBase 2 2 id)) = some (migBase 2 2 id) := by decide +kernel
theorem witness_Remaps :
    after (.remap 0xFFFFFFFFFFFFFFF 0x1) base (fun t => t.remaps == [(0xFFFFF, 0xFF)]) = true ∧
    after (.remapack 1 5) (migBase 3 2 (fun m => { m with started := true, peers := [⟨5, false⟩] })) (fun t =>
      (t.mig 1).peers == [⟨5, true⟩] && t.outbox == [.fwdend 77 6 5]) = true ∧
    after (.fwdend 1 5) (migBase 4 4 id) (fun t => (t.mig 1).fwdended == [5]) = true := by decide +kernel
def aAccess (k : PeerKind) (data : List Byte) : PeerAccess :=
  { dev := 9, vf := 1, ipa := 0x1010, size := 8, kind := k, op := 0, data := data, fwd := true }
theorem witness_PeerAccess :
    nextOf (exec (.peerAccessArrival (aAccess .read [])) base) = some { base with outbox := [.peerFault 9 7] } ∧ base.outbox = [] ∧
    (let b := migBase 0 0 id
     (dwordsOf 0x101010 8).all (fun d => !b.poisoned d) &&
      (match ({ b with fs := noSlot } : State).stageTwo 1 (migFn 0) 0x1010 .read 0 with | .ok (pa, _) => pa == 0x101010 | _ => false) &&
      (match ({ b with fs := noSlot } : State).stageTwo 1 (migFn 0) 0x1010 .write 0 with | .ok (pa, _) => pa == 0x101010 | _ => false) &&
      after (.peerAccessArrival (aAccess .read [])) b (fun t => t.outbox == [.peerData 9 (b.bytesAt 0x101010 8)]) &&
      after (.peerAccessArrival (aAccess .write [1, 2, 3, 4, 5, 6, 7, 8])) b (fun t => t.outbox == [.peerData 9 []] &&
        t.bytesAt 0x101010 8 == [1, 2, 3, 4, 5, 6, 7, 8])) = true := by decide +kernel

/-! Decoding: one word for every instruction, its fields at values of their own, from the encodings of `spec/opcode_table.json`. -/

def decodesAll (l : List (BitVec 32 × Instr)) : Bool := l.all (fun p => decide (decode p.1 = .ok p.2) && p.2.wellFormed &&
  (encode p.2 (p.1.extractLsb' 0 1) == some p.1))

theorem test_decode_words1 : decodesAll [
  (0xD560F804, .ld 0xD5#8 0x1#2 0x41#7 0x78#7), (0xFA735D09, .ldz 0xFA#8 0x1#2 0x66#7 0x5D#7), (0x9FA5C20C, .st 0x9F#8 0x2#2 0x4B#7 0x42#7),
  (0xFC33F411, .ldx 0x1#1 0x3#2 0x70#7 0x67#7 0x74#7), (0xB5665914, .stx 0x1#1 0x1#2 0x55#7 0x4C#7 0x59#7),
  (0x8E7D7119, .ldm 0x8E#8 0x1#2 0x7A#7 0x71#7), (0xB3AFD61C, .stm 0xB3#8 0x2#2 0x5F#7 0x56#7), (0x81EC6321, .ldk 0x103D8#17 0x63#7),
  (0xFD748224, .pf 0xFD#8 0x1#2 0x69#7 0x2#7), (0x0E674529, .amo 0x3#2 0x9#4 0x4E#7 0x45#7), (0x1DF9EA28, .amoE 0x3#2 0x7#4 0x73#7 0x6A#7),
  (0x0A2C4F2D, .amof 0x2#2 0x8#4 0x58#7 0x4F#7), (0x187EF42C, .amofE 0x2#2 0x1#4 0x7D#7 0x74#7), (0x30715931, .cas 0x1#1 0x41#7 0x62#7 0x59#7),
  (0x20334734, .qres 0x1#1 0x66#7 0x47#7), (0x2025EC39, .qrel 0x1#1 0x4B#7 0x6C#7), (0x8052593C, .br 0x80525#20 0x1#1 0x1#3),
  (0x82A50041, .jmp 0x1054A#17), (0x82B7EB40, .brEnd 0x1056F#17 0x1#1 0xB#4), (0x82CA5F45, .jal 0x10594#17 0x5F#7),
  (0xEE626548, .jalr 0x3B9#10 0x44#7 0x65#7), (0x82EF694D, .loop 0x105DE#17 0x69#7), (0xD46B0050, .sopen 0x1#1 0x1#1 0x0#1 0x2#2 0x11#5 0x56#7),
  (0x06000055, .sclose 0x18#5), (0x076C0058, .sseek 0x1D#5 0x58#7), (0x04807D5D, .spos 0x12#5 0x7D#7), (0x00000060, .fence), (0x00400061, .fenceE),
  (0x001CD464, .wait 0x1#4 0xC#4 0xD#4 0x4#4), (0xC1A88269, .mona 0x306#10 0x51#7 0x2#2), (0x0035F66C, .monw 0x6B#7 0x76#7),
  (0xD42D8071, .watch 0x350#10 0x5B#7)] = true := by decide +kernel
theorem test_decode_words2 : decodesAll [
  (0x003AC074, .wsleep 0x75#7 0x40#7), (0x00000079, .cut), (0x00400078, .direct), (0x00800079, .resume), (0x0024847C, .lock 0x49#7 0x4#3),
  (0x2037007D, .unlock 0x6E#7), (0x14EF0080, .clean 0x53#7 0x5E#7), (0x3E218081, .inval 0x78#7 0x43#7), (0x17740084, .iflush 0x5D#7 0x68#7),
  (0x20000085, .isync), (0x9EE57A88, .vld 0x27#6 0x1#1 0x3#3 0x4A#7 0x3#2 0x1A#5), (0xB277BF8D, .vst 0x2C#6 0x1#1 0x1#3 0x6F#7 0x1#2 0x1F#5),
  (0x3F2ED190, .vlds 0x1#3 0x7C#7 0x5D#7 0x1#1 0x11#5), (0xD8617691, .vsts 0x6#3 0x61#7 0x42#7 0x1#1 0x16#5),
  (0x6DEF5E94, .vgat 0x3#3 0x1#1 0x17#5 0x5E#7 0x1#1 0x1E#5), (0x2F21F395, .vsct 0x1#3 0x1#1 0x1C#5 0x43#7 0x1#1 0x13#5),
  (0x11687198, .cpy 0x45#7 0x50#7 0x71#7), (0x1ABAD69D, .cpyw 0x6A#7 0x75#7 0x56#7), (0x13ED00A0, .msend 0x4F#7 0x5A#7),
  (0x053F80A5, .chbind 0x14#5 0x7F#7), (0x864000A4, .chunbind 0x19#5), (0x1FA480A9, .redcfg 0x7E#7 0x49#7),
  (0x27A796A8, .redc 0x7#4 0x2#2 0x4F#7 0x16#5), (0x1229F4AD, .tspawn 0x48#7 0x53#7 0x74#7), (0x2036F8AC, .tkey 0x6D#7 0x78#7),
  (0x14AEFEB1, .fork 0x52#7 0x5D#7 0x7E#7), (0x200000B0, .join), (0x173380B5, .rqput 0x5C#7 0x67#7), (0x30404CB4, .rqtake 0x41#7 0x4C#7),
  (0x003300B9, .tmset 0x66#7), (0x0025D6BC, .sstart 0x4B#7 0x56#7), (0x007800BD, .sstop 0x70#7)] = true := by decide +kernel
theorem test_decode_words3 : decodesAll [
  (0x000000C1, .exit), (0x3E8000C1, .trap 0x7A#7), (0x400000C1, .wfi), (0x710000C1, .brk 0x44#7), (0x800000C1, .eret), (0xB38000C1, .hcall 0x4E#7),
  (0xBCC07EC4, .csrr 0x2F3#10 0x7E#7), (0xC63180C9, .csrw 0x318#10 0x63#7), (0xCF4048CC, .rdc 0x33D#10 0x48#7), (0x800D62FF, .hint 0x800D62#24 0x1#1),
  (0x11E97306, .add 0x47#7 0x52#7 0x73#7), (0x3B3BD807, .sub 0x6C#7 0x77#7 0x58#7), (0x546E7D06, .and 0x51#7 0x5C#7 0x7D#7),
  (0x7DA0E207, .or 0x76#7 0x41#7 0x62#7), (0x96F34706, .xor 0x5B#7 0x66#7 0x47#7), (0xB025EC07, .andn 0x40#7 0x4B#7 0x6C#7),
  (0xD9785106, .sll 0x65#7 0x70#7 0x51#7), (0xF2AAF607, .srl 0x4A#7 0x55#7 0x76#7), (0x1BFD5B0A, .sra 0x6F#7 0x7A#7 0x5B#7),
  (0x352FC00B, .rol 0x54#7 0x5F#7 0x40#7), (0x5E62650A, .min 0x79#7 0x44#7 0x65#7), (0x77B4CA0B, .max 0x5E#7 0x69#7 0x4A#7),
  (0x90E76F0A, .minu 0x43#7 0x4E#7 0x6F#7), (0xBA39D40B, .maxu 0x68#7 0x73#7 0x54#7), (0xD36C790A, .mulh 0x4D#7 0x58#7 0x79#7),
  (0xFCBEDE0B, .mulhu 0x72#7 0x7D#7 0x5E#7), (0x15F1430E, .mul 0x57#7 0x62#7 0x43#7), (0x3F23E80F, .div 0x7C#7 0x47#7 0x68#7),
  (0x58764D0E, .divu 0x61#7 0x6C#7 0x4D#7), (0x71A8F20F, .rem 0x46#7 0x51#7 0x72#7), (0x9AFB570E, .remu 0x6B#7 0x76#7 0x57#7),
  (0xB42DFC0F, .leaS1 0x50#7 0x5B#7 0x7C#7)] = true := by decide +kernel
theorem test_decode_words4 : decodesAll [
  (0xDD60610E, .leaS2 0x75#7 0x40#7 0x61#7), (0xF6B2C60F, .leaS3 0x5A#7 0x65#7 0x46#7), (0xBFE56B12, .addi 0x2FF#10 0x4A#7 0x6B#7),
  (0x2937D017, .andi 0xA4#8 0x6F#7 0x50#7), (0x726A7516, .ori 0xC9#8 0x54#7 0x75#7), (0xBBBCDA17, .xori 0xEE#8 0x79#7 0x5A#7),
  (0xCCEF7F16, .slli 0x33#6 0x5E#7 0x7F#7), (0xDE21E417, .srli 0x38#6 0x43#7 0x64#7), (0xEF744916, .srai 0x3D#6 0x68#7 0x49#7),
  (0x49014D1B, .lih 0x9202#16 0x4D#7), (0xC913F21A, .lihM 0x9227#16 0x72#7), (0x0026571F, .clz 0x4C#7 0x57#7), (0x2038FC1E, .ctz 0x71#7 0x7C#7),
  (0x402B611F, .pop 0x56#7 0x61#7), (0x603DC61E, .brev 0x7B#7 0x46#7), (0x9835CC1F, .bext 0x60#7 0x6B#7 0x4C#7),
  (0xB168711E, .bins 0x45#7 0x50#7 0x71#7), (0x5CE6DA23, .fcvt 0x5#3 0x6#3 0x3#3 0x4D#7 0x5A#7), (0xF6BDF226, .sel 0x7#3 0x5A#7 0x7B#7 0x72#7),
  (0x1D3FAF2B, .pset 0x74#7 0x7F#7 0x5#4 0x7#3), (0x3672342A, .fcmpHf 0x59#7 0x64#7 0x6#4 0x4#3), (0x5FA4A92B, .fcmpBf 0x7E#7 0x49#7 0x5#4 0x1#3),
  (0x78F7262A, .fcmpS 0x63#7 0x6E#7 0x4#4 0x6#3), (0x92299B2B, .fcmpD 0x48#7 0x53#7 0x3#4 0x3#3), (0x8B7C212E, .pseti 0x22D#10 0x78#7 0x4#4 0x1#3),
  (0x41430533, .plog 0x2#2 0x5#3 0x6#3 0x5#3), (0x803B8232, .pmovK 0x77#7 0x2#3), (0xA0026733, .pmovX 0x4#3 0x67#7),
  (0x10666D36, .faddHf 0x41#7 0x4C#7 0x6D#7), (0x39B8D237, .fsubHf 0x66#7 0x71#7 0x52#7), (0x52EB7736, .fmulHf 0x4B#7 0x56#7 0x77#7),
  (0x7C3DDC37, .ffmaHf 0x70#7 0x7B#7 0x5C#7)] = true := by decide +kernel
theorem test_decode_words5 : decodesAll [
  (0x95704136, .fdivHf 0x55#7 0x60#7 0x41#7), (0xBEA2E637, .fminHf 0x7A#7 0x45#7 0x66#7), (0xD7F54B36, .fmaxHf 0x5F#7 0x6A#7 0x4B#7),
  (0xE0224F37, .fsqrtHf 0x44#7 0x4F#7), (0xE074F436, .fclassHf 0x69#7 0x74#7), (0x13ACFA3B, .faddBf 0x4E#7 0x59#7 0x7A#7),
  (0x3CFF5F3A, .fsubBf 0x73#7 0x7E#7 0x5F#7), (0x5631C43B, .fmulBf 0x58#7 0x63#7 0x44#7), (0x7F64693A, .ffmaBf 0x7D#7 0x48#7 0x69#7),
  (0x98B6CE3B, .fdivBf 0x62#7 0x6D#7 0x4E#7), (0xB1E9733A, .fminBf 0x47#7 0x52#7 0x73#7), (0xDB3BD83B, .fmaxBf 0x6C#7 0x77#7 0x58#7),
  (0xE028DC3A, .fsqrtBf 0x51#7 0x5C#7), (0xE07B413B, .fclassBf 0x76#7 0x41#7), (0x16F3473E, .faddS 0x5B#7 0x66#7 0x47#7),
  (0x3025EC3F, .fsubS 0x40#7 0x4B#7 0x6C#7), (0x5978513E, .fmulS 0x65#7 0x70#7 0x51#7), (0x72AAF63F, .ffmaS 0x4A#7 0x55#7 0x76#7),
  (0x9BFD5B3E, .fdivS 0x6F#7 0x7A#7 0x5B#7), (0xB52FC03F, .fminS 0x54#7 0x5F#7 0x40#7), (0xDE62653E, .fmaxS 0x79#7 0x44#7 0x65#7),
  (0xE02F693F, .fsqrtS 0x5E#7 0x69#7), (0xE061CE3E, .fclassS 0x43#7 0x4E#7), (0x1A39D443, .faddD 0x68#7 0x73#7 0x54#7),
  (0x336C7942, .fsubD 0x4D#7 0x58#7 0x79#7), (0x5CBEDE43, .fmulD 0x72#7 0x7D#7 0x5E#7), (0x75F14342, .ffmaD 0x57#7 0x62#7 0x43#7),
  (0x9F23E843, .fdivD 0x7C#7 0x47#7 0x68#7), (0xB8764D42, .fminD 0x61#7 0x6C#7 0x4D#7), (0xD1A8F243, .fmaxD 0x46#7 0x51#7 0x72#7),
  (0xE035F642, .fsqrtD 0x6B#7 0x76#7), (0xE0685B43, .fclassD 0x50#7 0x5B#7)] = true := by decide +kernel
theorem test_decode_words6 : decodesAll [
  (0x60E2B846, .vadd 0x1#2 0x1#1 0x1#3 0x18#5 0x15#5 0x18#5), (0xA7775D47, .vsub 0x2#2 0x1#1 0x6#3 0x1D#5 0x1A#5 0x1D#5),
  (0xE9CBF246, .vmul 0x3#2 0x1#1 0x3#3 0x12#5 0x1F#5 0x12#5), (0x6CDE9747, .vmulh 0x1#2 0x1#1 0x1#3 0x17#5 0x14#5 0x17#5),
  (0x72F33C46, .vand 0x1#2 0x1#1 0x5#3 0x1C#5 0x19#5 0x1C#5), (0xB547D147, .vor 0x2#2 0x1#1 0x2#3 0x11#5 0x1E#5 0x11#5),
  (0xFBDA7646, .vxor 0x3#2 0x1#1 0x7#3 0x16#5 0x13#5 0x16#5), (0x7E6F1B47, .vsll 0x1#2 0x1#1 0x4#3 0x1B#5 0x18#5 0x1B#5),
  (0x60C3B04A, .vsrl 0x1#2 0x1#1 0x1#3 0x10#5 0x1D#5 0x10#5), (0xA756554B, .vsra 0x2#2 0x1#1 0x6#3 0x15#5 0x12#5 0x15#5),
  (0xE9EAFA4A, .vmin 0x3#2 0x1#1 0x3#3 0x1A#5 0x17#5 0x1A#5), (0x6CFF9F4B, .vmax 0x1#2 0x1#1 0x1#3 0x1F#5 0x1C#5 0x1F#5),
  (0x72D2344A, .vminu 0x1#2 0x1#1 0x5#3 0x14#5 0x11#5 0x14#5), (0xB566D94B, .vmaxu 0x2#2 0x1#1 0x2#3 0x19#5 0x16#5 0x19#5),
  (0xCD9FDB4E, .vaddX 0x3#2 0x6#3 0x67#7 0x1E#5 0x1B#5), (0x5732704F, .vsllX 0x1#2 0x3#3 0x4C#7 0x13#5 0x10#5),
  (0x63C7154E, .vsrlX 0x1#2 0x1#3 0x71#7 0x18#5 0x15#5), (0xBB5BBA4F, .vsraX 0x2#2 0x5#3 0x56#7 0x1D#5 0x1A#5),
  (0xE1CBF252, .vfadd 0x3#2 0x1#1 0x3#3 0x12#5 0x1F#5 0x12#5), (0x64DE9753, .vfsub 0x1#2 0x1#1 0x1#3 0x17#5 0x14#5 0x17#5),
  (0x6AF33C52, .vfmul 0x1#2 0x1#1 0x5#3 0x1C#5 0x19#5 0x1C#5), (0xAD47D153, .vffma 0x2#2 0x1#1 0x2#3 0x11#5 0x1E#5 0x11#5),
  (0xF3DA7652, .vfmin 0x3#2 0x1#1 0x7#3 0x16#5 0x13#5 0x16#5), (0x766F1B53, .vfmax 0x1#2 0x1#1 0x4#3 0x1B#5 0x18#5 0x1B#5),
  (0x78C3B052, .vfdiv 0x1#2 0x1#1 0x1#3 0x10#5 0x1D#5 0x10#5), (0xBF02B253, .vfsqrt 0x2#2 0x1#1 0x6#3 0x15#5 0x12#5),
  (0xC58F5756, .vfaddX 0x3#2 0x2#3 0x63#7 0x1A#5 0x17#5), (0x5F23FC57, .vfmulX 0x1#2 0x7#3 0x48#7 0x1F#5 0x1C#5),
  (0x69B69156, .vffmaX 0x1#2 0x4#3 0x6D#7 0x14#5 0x11#5), (0x9566C15B, .vcmp 0x2#2 0x5#3 0x2#3 0x19#5 0x16#5 0x1#3),
  (0xDBFB665E, .vfcmp 0x3#2 0x6#3 0x7#3 0x1E#5 0x1B#5 0x6#3), (0x41F27063, .vsel 0x1#2 0x3#3 0x1C#5 0x13#5 0x10#5)] = true := by decide +kernel
theorem test_decode_words7 : decodesAll [
  (0x44C71562, .vperm 0x1#2 0x1#3 0x11#5 0x18#5 0x15#5), (0x8A82DD63, .vcomp 0x2#2 0x5#3 0x16#5 0x1D#5),
  (0xC52C1266, .vbcast 0x3#2 0x2#3 0x4B#7 0x12#5), (0x5FC2F467, .vslide 0x1#2 0x7#3 0x70#7 0x17#5 0x14#5),
  (0x3D0ACC6A, .vext 0x1#2 0x74#7 0x15#5 0x4C#7), (0x85723A6F, .vcvt 0x4#3 0x1#3 0x2#3 0x1#1 0xC#4 0x11#5 0x1A#5),
  (0xF3EEDF72, .vcvtNarrow 0x7#3 0x4#3 0x7#3 0x1#1 0xB#4 0x16#5 0x1F#5), (0xCE6F1B77, .vcvtSr 0xC#4 0x3#2 0x4#3 0x1B#5 0x18#5 0x1B#5),
  (0x44821D7E, .vred 0x1#2 0x1#3 0x1#3 0x10#5 0x1D#5), (0x9702B283, .vscan 0x2#2 0x5#3 0x6#3 0x15#5 0x12#5),
  (0x81027A86, .vexp2 0x2#2 0x2#3 0x13#5 0x1A#5), (0x87831F87, .vlog2 0x2#2 0x7#3 0x18#5 0x1F#5), (0x8A03B486, .vrcp 0x2#2 0x4#3 0x1D#5 0x14#5),
  (0x8C825987, .vrsqrt 0x2#2 0x1#3 0x12#5 0x19#5), (0x9302FE86, .vsin 0x2#2 0x6#3 0x17#5 0x1E#5), (0x95839387, .vcos 0x2#2 0x3#3 0x1C#5 0x13#5),
  (0x0BC2388A, .vrng 0x5#3 0x70#7 0x11#5 0x18#5), (0x0025558F, .vclaim 0x4A#7 0x55#7), (0x0037FA92, .vrenew 0x6F#7 0x7A#7), (0x00000097, .vrel),
  (0x2000449A, .vlen 0x1#2 0x44#7), (0xDA6541A3, .mma 0x6#3 0x69#7 0x4A#7 0x41#7), (0x53B7E6A6, .mmaNarrow 0x2#3 0x4E#7 0x6F#7 0x66#7),
  (0x003400AB, .mmode 0x68#7), (0x336C00AA, .mscale 0x4D#7 0x58#7), (0x400000AB, .mbar), (0x15F143AE, .mld 0x57#7 0x62#7 0x43#7),
  (0x3F23E8AF, .mst 0x7C#7 0x47#7 0x68#7), (0x18764DB2, .mrd 0x61#7 0x6C#7 0x4D#7), (0x200046B3, .mzero 0x46#7),
  (0xA03B57B6, .mdrain 0x5#3 0x76#7 0x57#7), (0x00285BBB, .mtrans 0x50#7 0x5B#7)] = true := by decide +kernel
theorem test_decode_words8 : decodesAll [
  (0x203AC0BA, .mcpy 0x75#7 0x40#7)] = true := by decide +kernel


/-! Terms that the checks of `Instr.wellFormed` refuse, one for each check, and words that the decoder refuses. -/

theorem test_ill_formed : ([.pf 0 0 1 3, .amo 1 0 1 1, .amo 2 10 1 1, .amoE 1 0 1 1, .amoE 3 10 1 1, .amof 0 0 1 1, .amof 2 11 1 1, .amofE 1 0 1 1,
    .amofE 2 15 1 1, .sopen 1 0 0 3 15 1, .sopen 0 1 1 3 1 1, .redc 8 0 1 1, .redc 7 3 1 1, .fcvt 6 0 1 1 1, .fcvt 0 7 1 1 1, .fcvt 0 1 7 1 1,
    .pset 1 1 6 1, .pseti 1 1 6 1, .fcmpHf 1 1 7 1, .fcmpBf 1 1 7 1, .fcmpS 1 1 7 1, .fcmpD 1 1 7 1, .vcmp 2 6 0 1 1 1, .vfcmp 2 7 0 1 1 1,
    .vcvt 5 0 0 0 1 1 1, .vcvt 6 0 0 0 1 1 1, .vcvt 0 0 0 0 13 1 1, .vcvtNarrow 5 0 0 0 1 1 1, .vcvtNarrow 6 0 0 0 1 1 1,
    .vcvtNarrow 0 5 0 0 1 1 1, .vcvtNarrow 0 0 0 0 13 1 1, .vcvtSr 13 0 0 1 1 1, .vexp2 3 0 1 1, .vlog2 3 0 1 1, .vrcp 3 0 1 1,
    .vrsqrt 3 0 1 1, .vsin 3 0 1 1, .vcos 3 0 1 1, .mma 7 1 1 1, .mmaNarrow 3 1 1 1, .mdrain 7 1 1] : List Instr).all (fun i => !i.wellFormed) = true := by
  decide +kernel
/-- Major 0x00, a reserved major of each class, `pf` with H = 3, `amo` with F = 12 and with SZ = 1, `pset` with 7, `fcvt` with RM = 6,
`exit`, `eret` and `join` with a bit of a reserved field set. -/
theorem test_decode_refuses : ([0x00000001, 0x00000003, 0x000000D1, 0x0000007B, 0x01410325, 0x0F008129, 0x04408129, 0x0040B92B, 0x62408123,
    0x000001C1, 0x800001C1, 0x200001B1] : List (BitVec 32)).all (fun w => match decode w with | .ok _ => false | .error _ => true) = true := by
  decide +kernel

/-! The step. -/

/-- The hypervisor's first thread about to issue the unit `w0`, `w1` at address `pc`, 0 or 4. -/
def stepBase (w0 w1 : Nat) (pc : Word) : State :=
  let b := { base with fs := 0, unit := UnitCtx.idle, agenda := [.issue fetchSlot] }
  (b.setBytes 0 (leBytes 4 w0 ++ leBytes 4 w1)).setThread fetchSlot { base.th with a := { base.th.a with pc := pc } }

/-- What the statement about a step asks of the slot, and the unit it fetches. -/
def issues (b : State) : Bool :=
  let z := Spec.issuing b fetchSlot []
  ({ b with agenda := [] } : State).wheelGives fetchSlot && z.mayIssue fetchSlot && decide (z.dueNow fetchSlot = .none) && z.breakHit fetchSlot == none
def fetched (b : State) (f : BitVec 32 → BitVec 32 → State → Bool) : Bool :=
  let z := Spec.issuing b fetchSlot []
  match fetchUnit z.th.a.pc { z with unit := UnitCtx.at_ z.th.a.pc } with
  | .ok ((w0, w1), s1) => f w0 w1 s1
  | .error _ => false
def stepIs (b t : State) : Bool := decide (nextOf (step b) = some t)
def stepAfter (b : State) (p : State → Bool) : Bool := match step b with | .next t => p t | _ => false

/-- `add x1, x2, x9` (f3 = 0 of major 0x01, A class) alone, as the first and as the second word of a unit. -/
theorem witness_StepLone :
    (let b := stepBase 0x00410907 0x00410907 0
     issues b && fetched b (fun w0 w1 s1 => w0 == 0x00410907 && w1 == w0 &&
       decide (nextOf (step b) = nextOf (exec (.add 1 2 9) { s1 with unit := { UnitCtx.at_ 0 with word := w0, next := 4 } }))) &&
       stepAfter b (fun t => t.getXOf fetchSlot 9 == 12 && (t.thread fetchSlot).a.pc == 4)) = true ∧
    (let b := stepBase 0x00410907 0x00410907 4
     issues b && fetched b (fun _ _ _ => true) && stepAfter b (fun t => t.getXOf fetchSlot 9 == 12 && (t.thread fetchSlot).a.pc == 8)) = true := by
  decide +kernel
/-- A pair of `hint` (major 0x3F) and that `add`; the same with its words exchanged; a word of major 0x00. -/
theorem witness_StepOthers :
    (let b := stepBase 0x000000FC 0x00410906 0
     issues b && fetched b (fun w0 w1 _ => w0 == 0xFC && w1 == 0x00410906) &&
       stepAfter b (fun t => t.getXOf fetchSlot 9 == 12 && (t.thread fetchSlot).a.pc == 8)) = true ∧
    (let b := stepBase 0x00410906 0x000000FC 0
     issues b && fetched b (fun _ _ s1 => stepIs b ({ s1 with unit := { UnitCtx.at_ 0 with word := 0x00410906, other := 0xFC } }.refuseUnit
       (.trap { cause := .illegalPair, whole := true })))) = true ∧
    (let b := stepBase 0x00000001 0x000000FD 0
     issues b && fetched b (fun _ _ s1 => stepIs b ({ s1 with unit := { UnitCtx.at_ 0 with word := 1, next := 4 } }.refuseUnit
       (.trap { cause := .illegalInstruction })))) = true := by decide +kernel
/-- The bytes at the program counter, the least significant of each word first. -/
theorem witness_Fetch :
    let b := { stepBase 0x04030201 0x08070605 0 with fs := fetchSlot }
    let s0 := { b with unit := UnitCtx.at_ 0 }
    (match xlatAt s0.th.level 0 .fetch s0 with
     | .ok (pa, s1) => pa == 0 && (match reachCheck pa .fetch .load 0 s1 with
       | .ok ((), s2) => !s2.remotePending 0 8 && !s2.poisoned 0 &&
          (let s3 := (s2.countFetch s2.th.vf 0).cohAsk (dieOf s2.fs) 0 (s2.partOf s2.fs)
           mget s3.icache (icKey (coreOf s3.fs) 0) == none && mget s3.th.fetched 0 == none)
       | .error _ => false)
     | .error _ => false) = true ∧
    b.bytesAt 0 8 = [1, 2, 3, 4, 5, 6, 7, 8] := by decide +kernel

/-- Two slots of a core: at CYCLE 64 the wheel asks the first before the second, which the agenda names in vain; a halted slot lets the next
one issue; a core that has had its turn has none left; and a cycle passes once every turn is spent. -/
theorem witness_Wheel :
    let a := stepBase 0x00410907 0x00410907 0
    let second (b : State) : State := b.setThread (fetchSlot + 1) (b.thread fetchSlot)
    let b : State := { second a with cycle := 64, agenda := [.issue (fetchSlot + 1)] }
    let h : State := b.setThread fetchSlot { b.thread fetchSlot with halted := true }
    b.wheelOrder (coreOf fetchSlot) = [fetchSlot, fetchSlot + 1] ∧ coreOf fetchSlot ∈ b.turn ∧
    (({ b with agenda := [], turn := b.turn.erase (coreOf fetchSlot) } : State).tryIssue fetchSlot).isSome = true ∧
    stepIs b { b with agenda := [] } = true ∧
    stepIs { b with turn := [] } { b with turn := [], agenda := [] } = true ∧
    (({ h with agenda := [], turn := h.turn.erase (coreOf fetchSlot) } : State).tryIssue fetchSlot).isNone = true ∧
    stepAfter h (fun t => (t.thread (fetchSlot + 1)).a.pc == 4 && (t.thread fetchSlot).a.pc == 0) = true ∧
    stepAfter { b with agenda := [.tick], turn := [coreOf fetchSlot] } (fun t => (t.thread fetchSlot).a.pc == 4 && t.cycle == 64) = true ∧
    stepAfter { b with agenda := [.tick], turn := [7] } (fun t => t.turn == [] && t.cycle == 64) = true ∧
    stepAfter { b with agenda := [.tick], turn := [] } (fun t => t.cycle == 65 && t.issued == []) = true := by decide +kernel

/-! Reset, and the forms that every step keeps. -/

/-- `State.Canonical`, computed. -/
def canonical (s : State) : Bool := mwf 0 s.mem && mwf 0 s.peer

theorem witness_Reset : State.reset.Canonical := ⟨by decide +kernel, by decide +kernel⟩
theorem witness_StepKeepsCanonical :
    (let b := stepBase 0x00410907 0x00410907 0
     canonical b && stepAfter b (fun t => canonical t)) = true := by decide +kernel
/-- The form is no tautology. -/
theorem witness_NotCanonical : canonical { State.reset with mem := [(5, 0)] } = false := by decide +kernel
/-- Entering the machine at `State.reset` with a word placed runs that word. -/
theorem test_withFetchWord : stepAfter (State.reset.withFetchWord 32 0x00410907) (fun t => (t.thread fetchSlot).a.pc == 4) = true := by decide +kernel


/-! Further clauses: float traps, queues and staging, waits of loads, faults of every access, and what awaits an answer. -/

/-- The fused multiply-add of infinity and zero, and a conversion of NaN to an integer, with NV enabled. -/
theorem witness_EnabledFlagTrapsRest :
    let b := ((fpBase .d).setArch { (fpBase .d).arch with fctl := 0x1F00 }).setX 10 0x7FF0000000000000
    at_ (b.setX 9 0) (Spec.fmaWord .d 9 10 9) (fun s1 => do
      let (x, s2) ← srcA 10 s1
      let (y, s3) ← srcA 9 s2
      let (z, s4) ← srcA 9 s3
      let r := fFma fmtD (Spec.rm s4) (Spec.low .d x) (Spec.low .d y) (Spec.low .d z)
      pure (decide (Spec.trapping s4 r.2 ≠ 0) && raises (Spec.fmaWord .d 9 10 9) (b.setX 9 0) s1 { cause := .arith, afl := r.2 })) = true ∧
    at_ b (.fcvt 1#3 1#3 5#3 10#7 9#7) (fun s1 => do
      let (x, s2) ← srcA 10 s1
      let src := CFmt.ofScalar 5
      let o := convert (CFmt.ofScalar 1) src (RMode.ofCode 1 (s2.arch.fctl.toNat % 8) 0) (s2.arch.fctl.getLsbD 5) (x.toNat % 2 ^ src.width)
      pure (decide (Spec.trapping s2 o.2 ≠ 0) && raises (.fcvt 1#3 1#3 5#3 10#7 9#7) b s1 { cause := .arith, afl := o.2 })) = true := by
  decide +kernel

/-- A pop of p15, whose channel's ring gives what it held; and the last element of a command of each engine port. -/
theorem witness_PopRefills :
    let b : State := { base with
      chans := [(65536 * coreOf fetchSlot + 3, { gs := fetchSlot, port := 15, roff := 0, rlog := 1, head := 0, count := 1 })]
      tiles := [] }
    let b := (b.setArch { b.arch with ports := [(15, .channel 3)] }).setTh { b.th with p15 := [11, 12] }
    (match srcA 127 b with
      | .ok (v, t) => v == 11 && t.th.p15.take 1 == [12] && t.rf == b.rf && t.arch == b.arch
      | .error _ => false) = true := by decide +kernel
theorem witness_LastElementSends :
    let st (code : Nat) (q : List Word) : State := baseTh (fun t => { t with staged := [(code, q)] })
    let sent (code : Nat) (q : List Word) (v : Word) (m : M Unit) : Bool :=
      match m (baseTh (fun t => { t with staged := [] })), dstA (BitVec.ofNat 7 (112 + code)) v (st code q) with
      | .ok ((), t), .ok ((), u) => t == u
      | .error (.trap t), .error (.trap u) => { t with unstage := some code } == u
      | _, _ => false
    sent 13 [0x1000, 0x1040, 8] 0 (issueCopy 0x1000 0x1040 8 0 false) = true ∧
    sent 13 [0x1000, 0x1040, 0x100000000] 0 (issueCopy 0x1000 0x1040 0x100000000 0 false) = true ∧
    sent 14 [0x8000000000000005] 7 (issueMsg 0x8000000000000005 7) = true ∧
    dstA 124 0 base = .error (.trap { cause := .illegalInstruction }) := by decide +kernel

/-- With 63 loads outstanding another waits. -/
theorem witness_LoadsFull :
    let b := inChunk.setTh { inChunk.th with loads := List.replicate 63 [.x 20 1 none] }
    [Instr.ld 1#8 3#2 3#7 9#7, .vld 1#6 0#1 0#3 3#7 2#2 3#5].all (fun i =>
      let c := b.setArch { b.arch with grant := 32 }
      at_ c i (fun _ => pure (decide (nextOf (exec i c) = some ((c.endsBefore (c.standsOutside [i]) (isCsrw i) 1).holdUnit .retry))))) = true := by
  decide +kernel

/-- A word whose access the check refuses raises what the check raises. -/
def refusedAccess (b : State) (c : Cause) (i : Instr) : Bool := at_ b i (fun s1 => match Spec.access i s1 with
  | some (va, n, acc, r) => match checkAccess va n n acc r s1 with
    | .error (.trap f) => pure (f.cause == c && f.info1 == va && f.acc == acc.code && raises i b s1 f)
    | _ => pure false
  | none => pure false)
/-- The words of one scalar access at x10, or at the sum of x10 and zero. -/
def accessWords : List Instr := [.ld 0#8 2#2 10#7 9#7, .ldz 0#8 2#2 10#7 9#7, .ldx 1#1 2#2 0#7 10#7 9#7, .st 0#8 2#2 10#7 4#7,
  .stx 1#1 2#2 0#7 10#7 4#7, .amo 2#2 0#4 10#7 4#7, .amof 2#2 0#4 10#7 4#7, .cas 0#1 5#7 10#7 4#7, .amoE 2#2 0#4 10#7 4#7,
  .amofE 2#2 0#4 10#7 4#7, .qres 0#1 10#7 9#7, .qrel 0#1 10#7 4#7]
theorem witness_ScalarMisaligned : accessWords.all (refusedAccess (memBase.setX 10 0x1002) .misaligned) = true := by decide +kernel
theorem witness_ScalarUntranslated : accessWords.all (refusedAccess (memBase.setX 10 0x10000000001000) .segmentBound) = true := by decide +kernel
/-- Poison in what the word reads, and a reservation outside the package's memory. -/
theorem witness_ScalarPoison :
    let b := (memBase.setX 10 0x1000).setPoison 0x200 true
    ([Instr.ldz 0#8 2#2 10#7 9#7, .amo 2#2 0#4 10#7 4#7, .amof 2#2 0#4 10#7 4#7, .cas 0#1 5#7 10#7 4#7].all (fun i => at_ b i (fun s1 =>
      match Spec.access i s1, Spec.reading i with
      | some (va, n, acc, r), some k => do
        let (pa, s2) ← checkAccess va n n acc r s1
        pure (s2.loadPoison s2.fs k pa n && raises i b s1 (Spec.fault .dataPoison acc 0 va))
      | _, _ => pure false))) = true ∧
    trapsWith (memBase.setX 10 0x8000000001000) (.qres 0#1 10#7 9#7) (fun _ => Spec.fault .pageProtection .rmw 0 0x8000000001000) = true := by
  decide +kernel
/-- The second doubleword of a multiple access faults, or is poisoned. -/
theorem witness_MultipleFaults :
    (let b := memBase.setX 10 0x10000000001000
     [Instr.ldm 0#8 1#2 10#7 20#7, .stm 0#8 1#2 10#7 4#7].all (fun i => at_ b i (fun s1 =>
      match checkAccess (Spec.addr s1 10 0) 8 8 (if i = .ldm 0#8 1#2 10#7 20#7 then .read else .write)
          (if i = .ldm 0#8 1#2 10#7 20#7 then .load else .store) s1 with
      | .error (.trap f) => pure (raises i b s1 f)
      | _ => pure false)) = true) ∧
    trapsWith (memBase.setPoison 0x201 true) (.ldm 0#8 1#2 3#7 20#7) (fun _ => Spec.fault .dataPoison .read 0 0x1008) = true := by decide +kernel

/-- Element 2 of a vector access is the first that faults. -/
theorem witness_VectorFaults :
    let els := [(0, (0x1000 : Word)), (2, 0x1002)]
    let f : Trap := { Spec.fault .misaligned .read 0 0x1002 with ev := true, info2 := 2 }
    checkElems els 2 true vmBase = .error (.trap f) ∧
    (match checkElems [(0, 0x1000)] 2 true vmBase with | .ok _ => true | .error _ => false) = true ∧
    trapsWith (vmBase.setX 10 1) (.vlds 1#3 10#7 3#7 0#1 3#5) (fun _ => f) = true ∧
    trapsWith (vmBase.setX 10 1) (.vsts 1#3 10#7 3#7 0#1 5#5) (fun _ => { f with acc := 1 }) = true ∧
    trapsWith (vmBase.setX 10 0x1002) (.vgat 1#3 0#1 5#5 10#7 0#1 3#5) (fun _ => { f with info2 := 0 }) = true ∧
    trapsWith (vmBase.setPoison 0x201 true) (.vld 0#6 0#1 1#3 3#7 2#2 3#5) (fun _ => { f with cause := .dataPoison, info1 := 0x1008 }) = true := by
  decide +kernel

/-- The first element of a stream is misaligned, or poisoned; an arithmetic word pops it. -/
theorem witness_StreamFaults :
    let b : Stream := ⟨0x1002, [(2, 4)], 2, false, false, false, 0, false, []⟩
    let f : Trap := { Spec.fault .misaligned .read 0 0x1002 with portc := some 0, ev := true, info2 := 0 }
    let s := streamBase.setArch { streamBase.arch with ports := [(0, .stream b)] }
    popStream 0 b s = .error (.trap f) ∧ pushStream 0 b 7 s = .error (.trap { f with acc := 1 }) ∧
    trapsWith s (.add 0#7 112#7 9#7) (fun _ => f) = true ∧
    trapsWith (streamBase.setPoison 0x200 true) (.add 112#7 0#7 9#7)
      (fun _ => { f with cause := .dataPoison, info1 := 0x1000 }) = true := by decide +kernel

/-- A `cas` that misses, and words whose request is on its way. -/
theorem witness_CasMissed :
    let b := memBase.setX 9 0
    at_ b (.cas 0#1 5#7 3#7 9#7) (fun s1 => do
      let (pa, s2) ← checkAccess (Spec.addr s1 3 0) 4 4 .rmw .atomic s1
      let ((), s3) ← readLines (linesOf pa 4) s2
      let old := s3.loadView s3.fs (.atomic true) pa 4
      let ((), s4) ← casMissed pa 4 s3
      pure (decide (old ≠ 0) && completes (.cas 0#1 5#7 3#7 9#7) b (Spec.countedLoad s4 [.x 9 (Spec.extended true 32 old) none]))) = true := by
  decide +kernel
theorem witness_AnswerAwaited :
    let waits (h : Hold) (i : Instr) : Bool :=
      let b := (baseTh (fun t => { t with hold := some h })).setX 3 0x8000000001000
      h.awaits && at_ b i (fun _ => pure (decide (nextOf (exec i b) = some ((b.endsBefore true false 1).holdUnit h))))
    waits (.edgeWait 0x8000000001000 4 0 7 true) (.amofE 2#2 0#4 3#7 4#7) = true ∧
    waits (.edgeWait 0x8000000001000 4 0 7 false) (.amoE 2#2 0#4 3#7 4#7) = true ∧
    waits (.qresWait 0x1000 4) (.qres 0#1 3#7 9#7) = true ∧ waits (.qrelWait 0x1000) (.qrel 0#1 3#7 4#7) = true ∧
    trapsWith (resvBase (some .qresPoison) none) (.qres 0#1 3#7 9#7) (fun _ => Spec.fault .dataPoison .rmw 0 0x1000) = true := by decide +kernel

/-- In a chunk, too, an outstanding store keeps a `wait` and a `fence` from completing; one that completes puts the chunk's writes before
what follows. -/
theorem witness_WaitHeldInChunk :
    let b := inChunk.setTh { inChunk.th with stores := [[[.write 0x1000 [1]]]] }
    [Instr.wait 15#4 15#4 0#4 15#4, .fence].all (fun i => at_ b i (fun _ =>
      pure (decide (nextOf (exec i b) = some ((b.endsBefore (b.standsOutside [i]) (isCsrw i) 1).holdUnit .retry))))) = true := by
  decide +kernel
theorem witness_FencedWrites :
    let e : Entry := { eff := .write 0x1000 [1], by_ := .vector, num := 0, lc := 0, sc := 0, fixed := false }
    let b := inChunk.setTh (inChunk.th.modLast (fun c => { c with log := [e] }))
    effect b (.wait 15#4 15#4 0#4 15#4) (fun s1 => Spec.fixed s1 (fun _ => true)) = true ∧
    effect b .fence (fun s1 => Spec.fixed s1 (fun e => decide (e.num ≤ s1.enteredOf s1.fs))) = true := by decide +kernel

/-- An armed monitor, a timeout of the first issue and of a later one, in direct mode and in a deterministic launch. -/
theorem witness_MonwDeadlines :
    let b := baseTh (fun t => { t with mons := [(2, 33, false)] })
    let sleeps (b : State) (i : Instr) (dl : Option Nat) (watch : Bool) : Bool :=
      at_ b i (fun _ => pure (decide (nextOf (exec i b) = some ((b.endsBefore true false 1).holdUnit (.sleep watch dl)))))
    sleeps b (.monw 0#7 9#7) none false = true ∧
    sleeps (b.setTh { b.th with a := { b.th.a with status := b.th.a.status ||| 0x4000 }, hold := some (.sleep false (some 3)) }) (.monw 1#7 9#7) (some 3) false = true ∧
    effect (b.setTh { b.th with a := { b.th.a with status := b.th.a.status ||| 0x4000 }, hold := some (.sleep false (some 0)) }) (.monw 1#7 9#7) (fun s1 => s1.setX 9 0x20) = true ∧
    sleeps base (.wsleep 0#7 9#7) none true = true ∧
    effect (baseTh (fun t => { t with hold := some (.sleep true (some 0)) })) (.wsleep 1#7 9#7) (fun s1 => s1.setX 9 0x20) = true := by
  decide +kernel

/-- In a deterministic launch a claim gets all it asks for, and waits while another slot of the core holds the lanes. -/
theorem witness_DetClaims :
    let det (s : State) : State := s.setTh { s.th with a := { s.th.a with status := s.th.a.status ||| 0x4000 } }
    let b := det (claimBase 64 0)
    let sh := b.laneShare b.fs
    let other := { b.th with a := { b.th.a with grant := sh - 32 } }
    let busy : State := { b with threads := mput b.threads (b.fs + 1) other }
    at_ b (.vclaim 9#7 10#7) (fun s1 => do
      let ((), s3) ← setGrant 64 0 s1
      writes (.vclaim 9#7 10#7) b s3 10 64) = true ∧
    at_ busy (.vclaim 9#7 10#7) (fun _ => pure (decide (nextOf (exec (.vclaim 9#7 10#7) busy) =
      some ((busy.endsBefore (busy.standsOutside [.vclaim 9#7 10#7]) (isCsrw (.vclaim 9#7 10#7)) 1).holdUnit (.claim 64))))) = true := by decide +kernel


/-! Further clauses of the events. -/

/-- A message of function 1 to channel 3 of the core, bound to w0 of slot 5 with a ring of two elements that holds n. -/
def ringBase (n : Nat) (g : Thread → Thread) : State :=
  let b := msgBase .flying (fun t => g { t with vf := some 1 })
  { b.setThread fetchSlot { base.th with vf := some 1 } with
    parts := [(2, thePart)], vfs := [(1, theFn)]
    msgs := [⟨3, fetchSlot, base.th.uid, some 1, 0x40000000000C0000, 9, coreOf fetchSlot, none, 3, none, .flying⟩]
    chans := [(65536 * coreOf fetchSlot + 3, { gs := fetchSlot + 5, port := 16, roff := 0, rlog := 1, head := 0, count := n })] }

theorem witness_ChannelMessage :
    theMsg (ringBase 0 id) (fun m => let b := ringBase 0 id
      tgKind m.word == 1 && b.msgPort m == some (fetchSlot + 5, 16) && b.msgFirst m && !b.parkedMsg m && !b.ringHeld (fetchSlot + 5) 16 &&
      (b.thread (fetchSlot + 5)).queueRoom 16 &&
      after (.messageArrival 3) b (fun t => t.thread (fetchSlot + 5) == (b.thread (fetchSlot + 5)).enqueue 16 9 && t.chans == b.chans && t.msgs == [])) = true ∧
    (let b := ringBase 1 id
     after (.messageArrival 3) b (fun t => t.natAt (spadAddr (coreOf fetchSlot) 8) 8 == 9 && t.chans.map (fun p => p.2.count) == [2] && t.msgs == [])) = true ∧
    (let b := ringBase 2 id
     decide (nextOf (exec (.messageArrival 3) b) = some (b.setMsg 3 .full)) = true) ∧
    (let b := { ringBase 1 id with remotes := [(spadAddr (coreOf fetchSlot) 8, [1])] }
     b.ringHeld (fetchSlot + 5) 16 = true ∧ decide (nextOf (exec (.messageArrival 3) b) = some b) = true) ∧
    (let b := ringBase 1 id
     ((b.refillOne (fetchSlot + 5) 16).chans.map (fun p => (p.2.head, p.2.count))) == [(1, 0)] &&
       (b.refillOne (fetchSlot + 5) 16).thread (fetchSlot + 5) == (b.thread (fetchSlot + 5)).enqueue 16 0) = true ∧
    (let b := ringBase 0 id
     b.refillOne (fetchSlot + 5) 16 = b) := by decide +kernel

/-- A message to a stopped cluster parks; a sender whose message met a full reply issues nothing. -/
theorem witness_ParkedMessage :
    (let b := { msgBase .flying id with stops := [(0, ⟨383, 2, 0, .into 383, 0, 0, [], 0, false, none, false, false⟩)] }
     theMsg b (fun m => b.msgFirst m && b.parkedMsg m && decide (b.parkedBefore m < 16384) &&
       decide (nextOf (exec (.messageArrival 3) b) = some b))) = true ∧
    (msgBase .held id).mayIssue fetchSlot = false := by decide +kernel

/-- A remote store on its way to the word keeps a reservation waiting, and so does a request before an edge atomic at its home. -/
theorem witness_HomeWaits :
    (let w := spadAddr (coreOf fetchSlot) 0
     let b := { evBase (fun t => { t with hold := some (.qresWait w 4) }) with homes := [(w, ⟨[fetchSlot], false⟩)], remotes := [(w, [1])] }
     !b.holderOf w && b.remotePending w 4 && decide (nextOf (exec (.qresHead w) b) = some b)) = true ∧
    (let pa := 0x8000000001000
     let b := { evBase (fun t => { t with hold := some (.edgeWait pa 4 0 5 true), edges := 1 }) with hostInval := [lineOf pa] }
     let r := b.singleReq fetchSlot b.cycle [.write pa [5, 0, 0, 0]]
     !b.remotePending pa 4 && b.gate fetchSlot kindSingle 1 == .go &&
       match b.requestWait r with
       | some w => decide (nextOf (exec (.edgeAtomicAtHome fetchSlot) b) = some w)
       | none => false) = true := by decide +kernel
theorem witness_QresHeadBroken :
    let b := { evBase (fun t => { t with hold := some (.qresWait 0x1000 4) }) with homes := [(0x1000, ⟨[fetchSlot], true⟩)] }
    after (.qresHead 0x1000) b (fun t => (t.thread fetchSlot).hold == some (.qresReply 0 true) &&
      (t.thread fetchSlot).resv == some ⟨0x1000, 4, true, 0⟩) = true := by decide +kernel

/-- A root with one child, whose values 7 and 5 add; a total of two words; a child that is missing, and one that is above NCH. -/
def treeBase (cix : Nat) (c : Option (Nat × Nat × List Nat)) : State :=
  let b := evBase id
  { b.setThread (fetchSlot + 5) { base.th with uid := 60 } with
    nodes := [⟨0, 5, fetchSlot, base.th.uid, true, 0, 1, 0, some (3, 0, [7]), none⟩, ⟨0, 5, fetchSlot + 5, 60, false, cix, 0, fetchSlot, c, none⟩] }
theorem witness_ReductionOfTwo :
    (let b := treeBase 1 (some (3, 0, [5]))
     (b.nodes.all (fun n => b.childrenOk n)) && ((b.nodes.head?).bind (fun n => b.childNode n 1)).isSome && treeJoin 3 0 [7] (3, [5]) == [12] &&
      after (.reductionRoundDeliver 0 5) b (fun t => (t.thread fetchSlot).p15 == [12] && t.nodes.all (fun m => m.contrib == none && m.out == none))) = true ∧
    (let b := { evBase id with nodes := [⟨0, 5, fetchSlot, base.th.uid, true, 0, 0, 0, some (3, 0, [7, 8]), none⟩] }
     after (.reductionRoundDeliver 0 5) b (fun t => (t.thread fetchSlot).p15 == [7, 8])) = true ∧
    (let b := { evBase (fun t => { t with p15 := List.replicate 64 1 }) with nodes := [⟨0, 5, fetchSlot, base.th.uid, true, 0, 0, 0, some (3, 0, [7]), none⟩] }
     after (.reductionRoundDeliver 0 5) b (fun t => t.nodes.map (·.out) == [some [7]])) = true ∧
    (let b := treeBase 1 none
     decide (nextOf (exec (.reductionRoundDeliver 0 5) b) = some b)) = true ∧
    (let b := treeBase 2 (some (3, 0, [5]))
     (b.nodes.head?).any (fun n => !b.childrenOk n) && decide (nextOf (exec (.reductionRoundDeliver 0 5) b) = some b)) = true := by decide +kernel

/-- The pool of an ordered launch has an entry for a task; and the slot of one is another function's. -/
theorem witness_PoolRoom :
    (let b := launchBase (fun l => { l with record := l.record.set 3 0x40108 })
     (mget b.launches 9).any (fun l => lrOrd l.record && decide (l.first < l.initial) && decide (l.tasks.length < 2 ^ lrPlog l.record))) = true ∧
    (let b := { launchBase (fun l => { l with begun := 1, slots := [(fetchSlot, 0)], record := l.record.set 3 0x40108 }) with
       binds := [⟨[coreOf fetchSlot], -1, some 3⟩] }
     decide (b.boundTo fetchSlot ≠ some 1) && decide (nextOf (exec (.taskStart 9 fetchSlot) b) = some b)) = true := by decide +kernel


/-- A logic error is retried once where POLICY asks for it; a function-level reset kills the thread of its function. -/
theorem witness_RetryAndReset :
    (let c := aChunk (fun c => { c with policy := 1 })
     let b := chBase [c]
     (b.thread fetchSlot).retried == false && after (.errorDetected 4 0 fetchSlot) b (fun t => (t.thread fetchSlot).retried &&
       (t.thread fetchSlot).chunks == [] && (t.thread fetchSlot).live)) = true ∧
    (let b := (launchBase id).setThread fetchSlot { base.th with vf := some 1 }
     after (.functionLevelReset 2) b (fun t => !(t.thread fetchSlot).live && t.outbox == [.resetDone 2]) = true) ∧
    after (.functionLevelReset 3) (launchBase id) (fun t => t.outbox == [.resetDone 3]) = true ∧
    (let b := { base with throttle := [(2, (1, 63))] }
     nextOf (exec (.throttleStart 2 1 63) b) = some b) ∧
    (let b := { base with cycle := 65 }
     b.drawIdle = b) := by decide +kernel
/-- A function that resumes with every port down loses its link. -/
def downBase : State := { fnBase with vfs := [(1, { theFn with mstate := 4 })], portsDown := List.range 36 }
theorem downBase_peerUp (dev : Nat) : downBase.peerUp dev = false := by
  have h : downBase.portsDown = List.range 36 := rfl
  simp only [State.peerUp, h, Bool.and_eq_false_iff, List.any_eq_false]
  right
  intro p hp e
  simp at e hp
  omega
theorem witness_LinkLost : downBase.vfs.all (fun p => (downBase.mig p.1).asked == []) = true ∧ downBase.peerUp (downBase.otherPart 1).1 = false ∧
    (mget downBase.loseLinks.vfs 1).any (fun w => w.linkLost) = true := by
  simp only [State.loseLinks, downBase_peerUp]
  decide +kernel

/-- A page of a function in STOPPED that has been given up; and a completion notice, taken and kept. -/
theorem witness_GonePage :
    let pa := 0x100000 + 0x10000
    let b := { fnBase with vfs := [(1, { theFn with mstate := 3 })], migs := [(1, { fnBase.mig 1 with given := [1] })] }
    b.segmentOf pa = some (1, { theFn with mstate := 3 }) ∧ (b.mig 1).given = [1] ∧
    after (.cxlMemRead pa) b (fun t => t.outbox.getLast? == some (.hostData pa none)) = true := by decide +kernel
theorem witness_Notice :
    (let b := evBase id
     ((b.sendNotice (base.th.uid, 7)).thread fetchSlot).p15 == [7]) = true ∧
    (let b := evBase (fun t => { t with p15 := List.replicate 64 1 })
     (b.sendNotice (base.th.uid, 7)).notices = [(base.th.uid, 7)]) := by decide +kernel

/-- A pulse while the last sample is still being written. -/
theorem witness_PulseDropped :
    let b := ({ evBase id with cycle := 20000, sampling := 20001 } : State).setBytes 0xBFFFFFF580 (leBytes 8 10000 ++ leBytes 8 0x400010)
    b.pulseDue = true ∧ after .samplingPulse b (fun t => t.pulsed == some 20000 && t.sserial == 0 && t.dwordAt (b.ctb + 0x598) == 1) = true := by
  decide +kernel

/-- PSET refused where a region is another partition's, and where the partition is in use; VSET refused likewise, and carried out. -/
theorem witness_PsetRefused :
    (let b := psetBase.setBytes 0x8000 ((partDesc.set 0 0).set 5 0x8000000000000000 |>.flatMap (leBytes 8))
     match b.mbDwords 0x8000 16 with
     | .ok d => decide (d.all (· == 0) = true ∨ partValid d = true) && (⟨d, 0, 0, 0, 0, false⟩ : Part).conflicts thePart &&
        decide (nextOf (exec (.mbPset (mbc 7 5 1 [0x8000])) b) = some ((Spec.taken b).mbResult 7 2 0 0))
     | .error _ => false) = true ∧
    (let b := fnBase
     b.inUse 2 zeroPart && decide (nextOf (exec (.mbPset (mbc 7 2 1 [0x9000])) b) = some ((Spec.taken b).mbResult 7 3 0 0))) = true := by decide +kernel
theorem witness_VsetCreate :
    let b := fnBase.setBytes 0x8000 ((theFn.desc.map BitVec.toNat ++ [6, 0, 0, 0, 1, 0, 0, 0, 0, 0]).flatMap (leBytes 8))
    let w := b.setBytes 0 [0x7F, 1]
    (match w.mbDwords 0x8000 24 with
     | .ok d => fnValid d && (mget w.parts (bits (dw d 0) 4 0)).isSome &&
        after (.vset (mbc 7 1 2 [0x8000])) w (fun t => (mget t.vfs 1).any (fun v => v.desc == d && v.cmap == [383]) && t.boundTo fetchSlot == some 1)
     | .error _ => false) = true ∧
    nextOf (exec (.vset (mbc 7 1 2 [0x8000])) b) = some ((Spec.taken b).mbResult 7 2 0 0) := by decide +kernel
/-- A trace unit that function 1 holds, revoked and claimed in vain; a bale of a cluster that is not there. -/
theorem witness_TraceHeld :
    (let b := { fnBase with traceHold := [511, 511, 511, 1], cycle := 5 }
     after (.trace (mbc 7 3 7 [2])) b (fun t => t.traceHold.getD 3 0 == 511) &&
     after (.trace (mbc 7 3 7 [3])) b (fun t => t.traceHold.getD 3 0 == 256) &&
     !(Spec.taken b).claimedNow 3 && decide (nextOf (exec (.trace (mbc 7 3 7 [1])) b) = some ((Spec.taken b).mbResult 7 3 1 0)) &&
     decide (nextOf (exec (.trace (mbc 7 3 7 [0])) b) = some ((Spec.taken b).mbResult 7 0 1 0))) = true ∧
    nextOf (exec (.bstop (mbc 7 384 0x10 [0])) psetBase) = some ((Spec.taken psetBase).mbResult 7 5 0 5) := by decide +kernel


/-- A load of a direct slot that has an element left to read; and one whose bytes a remote store is on its way to. -/
theorem witness_UnreadLoad :
    (let d : Dest := .x 9 77 (some ⟨0x1000, 8, false⟩)
     let b := evBase (fun t => { t with loads := [[d]], unread := 1 })
     !b.destPending d && after (.loadDataReturn fetchSlot) b (fun t => t.thread fetchSlot ==
       { b.thread fetchSlot with loads := [[b.rereadDest 1 d]], unread := 0 } && t.mem == b.mem && t.rf == b.rf)) = true ∧
    (let w := spadAddr (coreOf fetchSlot) 0
     let d : Dest := .x 9 77 (some ⟨w, 8, false⟩)
     let b := { evBase (fun t => { t with loads := [[d]], unread := 1 }) with remotes := [(w, [1])] }
     b.destPending d && decide (nextOf (exec (.loadDataReturn fetchSlot) b) = some b)) = true := by decide +kernel
/-- A store whose page has moved goes where the page is now; no element is fetched ahead in a deterministic launch. -/
theorem witness_StoreAim :
    let b := (evBase id).setThread fetchSlot { base.th with aims := [⟨1, 0x5000, base.th.level⟩] }
    b.reaim fetchSlot [] = ([], b) ∧ (b.reaim fetchSlot [.write 0x1010 [7]]).1 = [.write 0x5010 [7]] ∧
      (b.reaim fetchSlot [.write 0x2010 [7]]).1 = [.write 0x2010 [7]] := by decide +kernel
theorem witness_NoPrefetch :
    let st : Stream := ⟨0x1000, [(2, 4)], 2, false, false, false, 0, false, []⟩
    let a := (chBase []).thread fetchSlot
    let b := (chBase []).setThread fetchSlot { a with a := { a.a with ports := [(0, .stream st)], status := a.a.status ||| 0x4000 } }
    (b.thread fetchSlot).det = true ∧ (b.thread fetchSlot).directMode = false ∧
      nextOf (exec (.streamPrefetchArrival fetchSlot 0) b) = some b := by decide +kernel
/-- The timer counts on while its cluster is being stopped. -/
theorem witness_TimerWhileStopping :
    let b := { evBase (fun t => { t with timer := 1 }) with stops := [(0, ⟨383, 2, 0, .stopping, 0, 0, [], 0, false, none, false, false⟩)] }
    b.runs fetchSlot = false ∧ b.answers fetchSlot = true ∧
      onlyThread (.timerExpiry fetchSlot) b { b.thread fetchSlot with timer := 0, pend := [⟨1, 15⟩] } = true := by decide +kernel
/-- An event runs no word of the instruction set. -/
theorem witness_EventsRunNoWord :
    let b := { stepBase 0x00410907 0x00410907 0 with agenda := [.event (.add 1 2 9)] }
    stepIs b { b with agenda := [] } = true := by decide +kernel
/-- An access of a peer that waits stays through the requests. -/
theorem witness_HeldAccesses :
    after (.abort 1) (migBase 3 3 (fun m => { m with heldPulls := [4] })) (fun t => (t.mig 1).heldPulls == []) = true ∧
    (let b := migBase 0 4 (fun m => { m with heldAccesses := [aAccess .read []] })
     let c := b.setBytes 0x50000 [0, 0]
     c.fnBusy 1 = false ∧ after (.resuming 1) c (fun t => (t.mig 1).heldAccesses == [aAccess .read []] && !(t.mig 1).pullall) = true) := by decide +kernel

end Sys2Proof.Tests
end

section
/-!
PROOFS. The integer results of the scalar instructions: what the model computes is what Tables 4.1 to 4.4 and Table 3.7 give
(R95 to R104).
-/

namespace Sys2Proof.Machine

/-! Fields of a word. -/

theorem bits_five_zero (b : Word) : bits b 5 0 = b.toNat % 64 := by simp [bits]

theorem bits_thirteen_eight (b : Word) : bits b 13 8 = b.toNat / 256 % 64 := by simp [bits]

theorem bit_eq_getLsbD (w : Word) (i : Nat) : bit w i = w.getLsbD i := by
  simp [bit, ← BitVec.testBit_toNat, Nat.testBit_eq_decide_div_mod_eq, beq_eq_decide]

/-- The signed reading of a word (R53). -/
theorem signedOf_toNat (x : Word) : signedOf 64 x.toNat = x.toInt := by
  rw [signedOf, Nat.mod_eq_of_lt x.isLt, BitVec.toInt_eq_toNat_cond]

/-- A field of w bits is negative where its top bit is set (R53). -/
theorem signedOf_of_lt {f w : Nat} (hw : 0 < w) (hf : f < 2 ^ w) :
    signedOf w f = if 2 ^ (w - 1) ≤ f then (f : Int) - 2 ^ w else f := by
  have hp : 2 ^ w = 2 * 2 ^ (w - 1) := by rw [← pow_succ', Nat.sub_add_cancel hw]
  rw [signedOf, Nat.mod_eq_of_lt hf]
  by_cases h : 2 ^ (w - 1) ≤ f
  · rw [if_neg (by omega), if_pos h]; push_cast; rfl
  · rw [if_pos (by omega), if_neg h]

/-! Shifts (R95, R98). -/

theorem shiftLeft_eq_mul (a : Word) (n : Nat) : a <<< n = BitVec.ofNat 64 (a.toNat * 2 ^ n) := by
  apply BitVec.eq_of_toNat_eq
  simp [Nat.shiftLeft_eq]

theorem ushiftRight_eq_div (a : Word) (n : Nat) : a >>> n = BitVec.ofNat 64 (a.toNat / 2 ^ n) := by
  rw [← Nat.shiftRight_eq_div_pow, ← BitVec.toNat_ushiftRight, BitVec.ofNat_toNat, BitVec.setWidth_eq]

theorem sshiftRight_eq_div (a : Word) (n : Nat) : a.sshiftRight n = BitVec.ofInt 64 (a.toInt / 2 ^ n) := by
  rw [← BitVec.ofInt_toInt (x := a.sshiftRight n), BitVec.toInt_sshiftRight, Int.shiftRight_eq_div_pow]
  push_cast; rfl

theorem rotateLeft_eq_or (a : Word) {n : Nat} (h : n < 64) : a.rotateLeft n = (a <<< n) ||| (a >>> (64 - n)) := by
  rw [BitVec.rotateLeft_def, Nat.mod_eq_of_lt h]

theorem shiftLeft_eq_wordMul (b : Word) (n : Nat) : b <<< n = b * BitVec.ofNat 64 (2 ^ n) := by
  rw [shiftLeft_eq_mul, BitVec.ofNat_mul, BitVec.ofNat_toNat, BitVec.setWidth_eq]

/-! Division never traps (R96, Table 4.2). -/

theorem sdiv_eq_ofInt (a b : Word) : a.sdiv b = BitVec.ofInt 64 (a.toInt.tdiv b.toInt) := by
  apply BitVec.eq_of_toInt_eq
  rw [BitVec.toInt_sdiv, BitVec.toInt_ofInt]

/-- The remainder is what the quotient toward zero leaves. -/
theorem srem_eq_sub_mul (a b : Word) : a.srem b = a - b * BitVec.ofInt 64 (a.toInt.tdiv b.toInt) := by
  have h := congrArg (BitVec.ofInt 64) ((BitVec.toInt_srem a b).trans (Int.tmod_def _ _))
  rw [BitVec.ofInt_toInt, sub_eq_add_neg, BitVec.ofInt_add, BitVec.ofInt_neg, BitVec.ofInt_mul, BitVec.ofInt_toInt,
    BitVec.ofInt_toInt] at h
  rw [h, BitVec.sub_eq_add_neg]

/-! Bit fields (R101). -/

theorem bextWord_eq_table (a b : Word) : bextWord a b = Spec.alu .bext a b := by
  have hf : a.toNat / 2 ^ (b.toNat % 64) % 2 ^ (b.toNat / 256 % 64 + 1) < 2 ^ (b.toNat / 256 % 64 + 1) :=
    Nat.mod_lt _ (Nat.two_pow_pos _)
  simp only [bextWord, Spec.alu, bits_five_zero, bits_thirteen_eight, bit_eq_getLsbD, signExt, zeroExt, Nat.mod_eq_of_lt hf,
    signedOf_of_lt (Nat.add_one_pos _) hf]
  cases b.getLsbD 14
  · simp
  · simp only [if_true, true_and]
    split
    · rfl
    · exact BitVec.ofInt_natCast 64 _

/-- `bins` replaces bits P to P + W − 1 and keeps the others. -/
theorem getLsbD_binsWord (x y z : Word) {k : Nat} (hk : k < 64) :
    (binsWord x y z).getLsbD k =
      if y.toNat % 64 ≤ k ∧ k < y.toNat % 64 + (y.toNat / 256 % 64 + 1) then x.getLsbD (k - y.toNat % 64) else z.getLsbD k := by
  generalize hp : y.toNat % 64 = p
  generalize hw : y.toNat / 256 % 64 + 1 = w
  have hm : (BitVec.ofNat 64 ((2 ^ w - 1) * 2 ^ p)).getLsbD k = decide (p ≤ k ∧ k < p + w) := by
    rw [BitVec.getLsbD_ofNat, Nat.testBit_mul_two_pow, Nat.testBit_two_pow_sub_one]
    simp only [hk, decide_true, Bool.true_and, ← Bool.decide_and]
    congr 1
    exact propext (and_congr_right fun h => by omega)
  simp only [binsWord, bits_five_zero, bits_thirteen_eight, hp, hw, BitVec.getLsbD_or, BitVec.getLsbD_and, BitVec.getLsbD_not,
    BitVec.getLsbD_shiftLeft, hm, hk]
  by_cases h : p ≤ k ∧ k < p + w
  · simp [h, h.1.not_gt]
  · simp [h]

/-! The three-register operations (Tables 4.1, 4.2 and 4.4). -/

theorem AluOp.eval_eq_table (o : AluOp) (a b : Word) : o.eval a b = Spec.alu o a b := by
  have hn : b.toNat % 64 < 64 := Nat.mod_lt _ (by decide)
  cases o <;> simp only [AluOp.eval, Spec.alu, bits_five_zero]
  case add => exact BitVec.add_def a b
  case sub => exact BitVec.sub_eq_add_neg a b
  case sll => exact shiftLeft_eq_mul a _
  case srl => exact ushiftRight_eq_div a _
  case sra => exact sshiftRight_eq_div a _
  case rol => exact rotateLeft_eq_or a hn
  case min | max =>
    simp only [BitVec.slt_eq_decide, decide_eq_true_eq]
    rcases lt_trichotomy a.toInt b.toInt with h | h | h
    · simp [h, h.le]
    · simp [BitVec.eq_of_toInt_eq h]
    · simp [h.not_gt, h.not_ge]
  case minu | maxu =>
    simp only [BitVec.ult_eq_decide, decide_eq_true_eq]
    rcases lt_trichotomy a.toNat b.toNat with h | h | h
    · simp [h, h.le]
    · simp [BitVec.eq_of_toNat_eq h]
    · simp [h.not_gt, h.not_ge]
  case mul => rw [BitVec.ofNat_mul]; simp
  case div => rw [divS, sdiv_eq_ofInt]; rfl
  case divu => rw [divU, BitVec.udiv_def]; rfl
  case rem => rw [remS, srem_eq_sub_mul]
  case remu => rw [remU, BitVec.umod_def]
  case leaS1 | leaS2 | leaS3 => rw [shiftLeft_eq_wordMul]; rfl
  case bext => exact bextWord_eq_table a b

end Sys2Proof.Machine
end

section
/-!
PROOFS. The operations with one register source, the constants and the integer conditions (R97 to R100, R102, Table 3.7).
-/

namespace Sys2Proof.Machine

/-! Bit counts and the reversal of a word (R100). -/

theorem clzWord_le (a : Word) : clzWord a ≤ 64 := by unfold clzWord; split <;> omega

theorem getLsbD_above_clzWord (a : Word) {i : Nat} (h : i < clzWord a) : a.getLsbD (63 - i) = false := by
  unfold clzWord at h
  split at h
  · next ha => simp [ha]
  · rw [← BitVec.testBit_toNat]
    exact Nat.testBit_lt_two_pow (Nat.lt_log2_self.trans_le (Nat.pow_le_pow_right two_pos (by omega)))

theorem getLsbD_clzWord (a : Word) (h : clzWord a < 64) : a.getLsbD (63 - clzWord a) = true := by
  have ha : a ≠ 0 := fun h0 => by simp [clzWord, h0] at h
  have h0 : a.toNat ≠ 0 := fun e => ha (BitVec.eq_of_toNat_eq e)
  have hl : a.toNat.log2 < 64 := (Nat.log2_lt h0).mpr a.isLt
  rw [clzWord, if_neg ha, Nat.sub_sub_self (by omega), ← BitVec.testBit_toNat, Nat.testBit_log2 h0]

/-- `ctz` answers the lowest bit that is set, or 64 where none is. -/
theorem ctzWord_cases (a : Word) :
    (ctzWord a = 64 ∧ ∀ i < 64, a.getLsbD i = false) ∨
      (ctzWord a < 64 ∧ a.getLsbD (ctzWord a) = true ∧ ∀ i < ctzWord a, a.getLsbD i = false) := by
  unfold ctzWord
  cases hf : (List.range 64).find? (fun i => a.getLsbD i) with
  | none => exact .inl ⟨rfl, by simpa using List.find?_range_eq_none.mp hf⟩
  | some i =>
    obtain ⟨hi, hm, hlow⟩ := List.find?_range_eq_some.mp hf
    exact .inr ⟨List.mem_range.mp hm, hi, by simpa using hlow⟩

theorem popWord_eq_countP (a : Word) : popWord a = (List.range 64).countP (fun i => a.getLsbD i) :=
  List.countP_eq_length_filter.symm

theorem popWord_le (a : Word) : popWord a ≤ 64 := by
  rw [popWord_eq_countP]; simpa using List.countP_le_length (l := List.range 64) (p := fun i => a.getLsbD i)

/-- The sum that `brevWord` forms of the lowest n bits of a word. -/
def brevSum (a : Word) (n : Nat) : Nat := (List.range n).foldl (fun acc i => acc + if a.getLsbD i then 2 ^ (63 - i) else 0) 0

theorem brevWord_eq_brevSum (a : Word) : brevWord a = BitVec.ofNat 64 (brevSum a 64) := rfl

theorem brevSum_succ (a : Word) (n : Nat) : brevSum a (n + 1) = brevSum a n + if a.getLsbD n then 2 ^ (63 - n) else 0 := by
  simp [brevSum, List.range_succ]

theorem two_pow_dvd_brevSum (a : Word) {n : Nat} (hn : n ≤ 64) : 2 ^ (64 - n) ∣ brevSum a n := by
  induction n with
  | zero => simp [brevSum]
  | succ n ih =>
    rw [brevSum_succ, show 64 - (n + 1) = 63 - n by omega]
    refine dvd_add ((Nat.pow_dvd_pow 2 (by omega)).trans (ih (by omega))) ?_
    split <;> simp

/-- The terms of the sum have no bit in common, so that it is their union. -/
theorem brevSum_succ_or (a : Word) {n : Nat} (hn : n < 64) :
    brevSum a (n + 1) = brevSum a n ||| if a.getLsbD n then 2 ^ (63 - n) else 0 := by
  obtain ⟨q, hq⟩ := two_pow_dvd_brevSum a hn.le
  have hlt : (if a.getLsbD n then 2 ^ (63 - n) else 0) < 2 ^ (64 - n) := by
    split
    · exact Nat.pow_lt_pow_right one_lt_two (by omega)
    · exact Nat.two_pow_pos _
  rw [brevSum_succ, hq, Nat.two_pow_add_eq_or_of_lt hlt]

theorem testBit_brevSum (a : Word) {n : Nat} (hn : n ≤ 64) {j : Nat} (hj : j < 64) :
    (brevSum a n).testBit j = (decide (63 - j < n) && a.getLsbD (63 - j)) := by
  induction n with
  | zero => simp [brevSum]
  | succ n ih =>
    have hbit : (if a.getLsbD n then 2 ^ (63 - n) else 0).testBit j = (decide (63 - j = n) && a.getLsbD n) := by
      have hnj : 63 - j = n ↔ 63 - n = j := by omega
      simp only [hnj]
      split <;> simp [Nat.testBit_two_pow, *]
    rw [brevSum_succ_or a hn, Nat.testBit_or, ih (by omega), hbit]
    rcases lt_trichotomy (63 - j) n with h | h | h
    · simp [h, h.ne, h.trans (Nat.lt_succ_self n)]
    · simp [h]
    · simp [h.not_gt, h.ne', show ¬ 63 - j < n + 1 by omega]

theorem getLsbD_brevWord (a : Word) {i : Nat} (hi : i < 64) : (brevWord a).getLsbD i = a.getLsbD (63 - i) := by
  rw [brevWord_eq_brevSum, BitVec.getLsbD_ofNat, testBit_brevSum a le_rfl hi]
  simp [hi, show 63 - i < 64 by omega]

/-! The operations with one register source (R97, R98, R100). -/

theorem UnOp.unary_eval (o : UnOp) (a : Word) : Spec.unary o a (o.eval a) := by
  cases o <;> simp only [Spec.unary, UnOp.eval]
  case addi i => rw [BitVec.ofInt_add, BitVec.ofInt_toInt]; rfl
  case andi i | ori i | xori i => rfl
  case slli n => exact shiftLeft_eq_mul a _
  case srli n => exact ushiftRight_eq_div a _
  case srai n => exact sshiftRight_eq_div a _
  case clz =>
    have h := clzWord_le a
    rw [BitVec.toNat_ofNat, Nat.mod_eq_of_lt (by omega)]
    exact ⟨h, fun i hi => getLsbD_above_clzWord a hi, getLsbD_clzWord a⟩
  case ctz =>
    have hle : ctzWord a ≤ 64 := by rcases ctzWord_cases a with ⟨h, -⟩ | ⟨h, -⟩ <;> omega
    rw [BitVec.toNat_ofNat, Nat.mod_eq_of_lt (by omega)]
    rcases ctzWord_cases a with ⟨h, hz⟩ | ⟨-, hset, hz⟩
    · exact ⟨hle, fun i hi => hz i (h ▸ hi), fun hlt => absurd h hlt.ne⟩
    · exact ⟨hle, hz, fun _ => hset⟩
  case pop =>
    have h := popWord_le a
    rw [BitVec.toNat_ofNat, Nat.mod_eq_of_lt (by omega), popWord_eq_countP]
  case brev => exact fun i hi => getLsbD_brevWord a hi

/-- `lih` with M shifts its constant in below (R99). -/
theorem shiftLeft_or_constant (x : Word) (v : BitVec 16) :
    (x <<< 16) ||| v.zeroExtend 64 = BitVec.ofNat 64 (x.toNat % 2 ^ 48 * 2 ^ 16 + v.toNat) := by
  have hx : x.toNat * 2 ^ 16 % 2 ^ 64 = 2 ^ 16 * (x.toNat % 2 ^ 48) := by omega
  have hv : v.toNat < 2 ^ 16 := v.isLt
  have hlt : x.toNat % 2 ^ 48 * 2 ^ 16 + v.toNat < 2 ^ 64 := by omega
  apply BitVec.eq_of_toNat_eq
  rw [BitVec.toNat_or, BitVec.toNat_shiftLeft, Nat.shiftLeft_eq, hx, BitVec.toNat_setWidth,
    Nat.mod_eq_of_lt (hv.trans (by decide)), ← Nat.two_pow_add_eq_or_of_lt hv, BitVec.toNat_ofNat, Nat.mod_eq_of_lt hlt,
    Nat.mul_comm]

/-! Conditions (Table 3.7). -/

theorem intCond_iff_cond (c : Nat) (x y : Word) : intCond c 64 x.toNat y.toNat = true ↔ Spec.cond c x y := by
  have hx : x.toNat % 2 ^ 64 = x.toNat := Nat.mod_eq_of_lt x.isLt
  have hy : y.toNat % 2 ^ 64 = y.toNat := Nat.mod_eq_of_lt y.isLt
  unfold intCond Spec.cond
  simp only [hx, hy, signedOf_toNat]
  rcases c with _ | _ | _ | _ | _ | c <;> simp [BitVec.toNat_inj]

/-- The operations of `plog`, bit by bit (R103). -/
theorem getLsbD_plogEval (o : BitVec 2) (x y : BitVec 2048) {j : Nat} (hj : j < 2048) :
    (plogEval o x y).getLsbD j =
      match o.toNat with
      | 0 => x.getLsbD j && y.getLsbD j
      | 1 => x.getLsbD j || y.getLsbD j
      | 2 => x.getLsbD j != y.getLsbD j
      | _ => x.getLsbD j && !y.getLsbD j := by
  unfold plogEval
  rcases o.toNat with _ | _ | _ | n <;> simp [hj]

end Sys2Proof.Machine
end

section
/-!
PROOFS. The scalar words and the control transfers: what the effect of each does from the state it opens in (R95 to R111).
-/

namespace Sys2Proof.Machine

/-! Results of an A-class word go through the write of its destination field. -/

/-- A word completes with a value once its effect is the write of that value to a field. -/
theorem State.Opens.writes {s s1 u : State} {i : Instr} {d : BitVec 7} {v : Word} {body : M Unit} (h : s.Opens i s1)
    (he : exec i s = issue i body s) (hb : body s1 = dstA d v u) : Spec.Writes i s u d v :=
  fun _ ht => he.trans (h.runs (hb.trans ht))

theorem exec_alu (o : AluOp) (b a d : BitVec 7) (s : State) :
    exec (o.instr b a d) s = issue (o.instr b a d) (aluOp o b a d) s := by cases o <;> rfl

theorem aluOp_run {o : AluOp} {b a d : BitVec 7} {s1 s2 s3 : State} {x y : Word} (ha : srcA a s1 = .ok (x, s2))
    (hb : srcA b s2 = .ok (y, s3)) : aluOp o b a d s1 = dstA d (Spec.alu o x y) s3 := by
  rw [aluOp, M.bind_ok ha, M.bind_ok hb, AluOp.eval_eq_table]

/-- Settles O1: the effect of a three-register operation is two reads and the write of the table's result. -/
theorem aluWritesTableResult : Obligations.AluWritesTableResult := by
  intro o b a d s s1 s2 s3 x y hopen ha hb
  exact hopen.writes (exec_alu o b a d s) (aluOp_run ha hb)

theorem exec_unary (o : UnOp) (a d : BitVec 7) (s : State) :
    exec (o.instr a d) s = issue (o.instr a d) (unOp o a d) s := by cases o <;> rfl

theorem unOp_run {o : UnOp} {a d : BitVec 7} {s1 s2 : State} {x : Word} (ha : srcA a s1 = .ok (x, s2)) :
    unOp o a d s1 = dstA d (o.eval x) s2 := by
  rw [unOp, M.bind_ok ha]

theorem immediateAndUnaryWriteResult : Spec.ImmediateAndUnaryWriteResult := by
  intro o a d s s1 s2 x hopen ha
  exact ⟨o.eval x, o.unary_eval x, hopen.writes (exec_unary o a d s) (unOp_run ha)⟩

theorem constantsAndBitInsert : Spec.ConstantsAndBitInsert := by
  refine ⟨?lih, ?lihM, ?bins⟩
  case lih =>
    intro v d s s1 hopen
    exact hopen.writes (exec_lih v d s) rfl
  case lihM =>
    intro v d s s1 s2 x hopen hd
    exact hopen.writes (exec_lihM v d s) (by rw [M.bind_ok hd, shiftLeft_or_constant])
  case bins =>
    intro b a d s s1 s2 s3 s4 x y z hopen ha hb hd
    exact ⟨binsWord x y z, fun k hk => getLsbD_binsWord x y z hk,
      hopen.writes (exec_bins b a d s) (by rw [M.bind_ok ha, M.bind_ok hb, M.bind_ok hd])⟩

/-- Settles O2, from the immediate and unary forms and from the constants and bit fields. -/
theorem immediatesAndConstantsWriteTheirResult : Obligations.ImmediatesAndConstantsWriteTheirResult :=
  ⟨immediateAndUnaryWriteResult, constantsAndBitInsert⟩

/-! Predicates (R102 to R105, R23). -/

/-- A one-bit result that is the condition of Table 3.7 fills the predicate. -/
theorem writeKBit_cond {c : Nat} {x y : Word} {r : Bool} (h : r = true ↔ Spec.cond c x y) (k : Nat) (s : State) :
    writeKBit k (intCond c 64 x.toNat y.toNat) s = .ok ((), s.setArch (s.arch.setK k (Spec.allBits r))) := by
  rw [show intCond c 64 x.toNat y.toNat = r from Bool.eq_iff_iff.mpr ((intCond_iff_cond c x y).trans h.symm)]
  rfl

/-- Settles O3, word by word: `pset`, `pseti`, `plog`, `pmov` to a predicate and from one, `sel`. -/
theorem predicateInstructions : Obligations.PredicateInstructions := by
  refine ⟨?pset, ?pseti, ?plog, ?pmovK, ?pmovX, ?sel⟩
  case pset =>
    intro b a c k s s1 s2 s3 x y r hopen ha hb hr
    exact (exec_pset b a c k s).trans (hopen.runs (by rw [M.bind_ok ha, M.bind_ok hb, writeKBit_cond hr]))
  case pseti =>
    intro i a c k s s1 s2 x r hopen ha hr
    exact (exec_pseti i a c k s).trans (hopen.runs (by rw [M.bind_ok ha]; exact writeKBit_cond hr _ _))
  case plog =>
    intro o b a k s s1 hopen hpre
    exact ⟨plogEval o (s1.arch.kreg a.toNat) (s1.arch.kreg b.toNat), fun j hj => getLsbD_plogEval o _ _ hj,
      (exec_plog o b a k s).trans
        (hopen.runs (by rw [M.bind_ok (readK_lone hpre _), M.bind_ok (readK_lone hpre _), modArch_run]))⟩
  case pmovK =>
    intro a k s s1 s2 x hopen ha
    have hx : x.zeroExtend 2048 = BitVec.ofNat 2048 x.toNat := (BitVec.ofNat_toNat 2048 x).symm
    exact (exec_pmovK a k s).trans (hopen.runs (by rw [M.bind_ok ha, hx, modArch_run]))
  case pmovX =>
    intro a d s s1 hopen hpre
    have hk (v : BitVec 2048) : v.extractLsb' 0 64 = BitVec.ofNat 64 v.toNat := rfl
    exact hopen.writes (exec_pmovX a d s) (by rw [M.bind_ok (readK_lone hpre _), hk])
  case sel =>
    intro k b a d s s1 s2 s3 x y hopen ha hb hpre
    exact hopen.writes (exec_sel k b a d s) (by rw [M.bind_ok ha, M.bind_ok hb, M.bind_ok (readK_lone hpre _)])

/-! Transfers (R106 to R111). -/

/-- A one-bit field read as a truth value. -/
theorem eq_one_eq_getLsbD (n : BitVec 1) : (n == 1) = n.getLsbD 0 := by
  revert n; decide

/-- An offset in words, in bytes. -/
theorem signExtend_mul_four {w : Nat} (o : BitVec w) : o.signExtend 64 * 4 = BitVec.ofInt 64 (4 * o.toInt) := by
  rw [BitVec.ofInt_mul, BitVec.mul_comm]; rfl

theorem wordTarget_run {w : Nat} (o : BitVec w) (s : State) : wordTarget o s = .ok (Spec.target s o.toInt, s) := by
  rw [Spec.target, ← signExtend_mul_four]; rfl

theorem jumpTo_run (t : Word) (s : State) : jumpTo t s = .ok ((), Spec.jump s t) := rfl

theorem nextAddress_run (s : State) : nextAddress s = .ok (s.unit.next, s) := rfl

theorem branchIf_run {w : Nat} (c : Bool) (o : BitVec w) (s : State) :
    branchIf c o s = .ok ((), if c then Spec.jump s (Spec.target s o.toInt) else s) := by
  rw [branchIf, M.bind_ok (wordTarget_run o s)]
  cases c <;> rfl

theorem br_completes {o : BitVec 20} {n : BitVec 1} {k : BitVec 3} {s s1 : State} (hopen : s.Opens (.br o n k) s1)
    (hpre : s1.unit.pre = none) :
    Spec.Completes (.br o n k) s
      (if (s1.arch.kreg k.toNat).getLsbD 0 != n.getLsbD 0 then Spec.jump s1 (Spec.target s1 o.toInt) else s1) :=
  (exec_br o n k s).trans (hopen.runs (by rw [M.bind_ok (readK_lone hpre _), branchIf_run, eq_one_eq_getLsbD]))

theorem brEnd_completes {o : BitVec 17} {n : BitVec 1} {p : BitVec 4} {s s1 : State} {b : Stream}
    (hopen : s.Opens (.brEnd o n p) s1) (hpre : s1.unit.pre = none) (hb : s1.arch.stream (endCode p.toNat) = some b) :
    Spec.Completes (.brEnd o n p) s (if b.endFlag != n.getLsbD 0 then Spec.jump s1 (Spec.target s1 o.toInt) else s1) :=
  (exec_brEnd o n p s).trans (hopen.runs (by
    rw [M.bind_ok (readArch_lone hpre), branchIf_run, eq_one_eq_getLsbD, hb]; rfl))

theorem jal_completes {o : BitVec 17} {d : BitVec 7} {s s1 : State} (hopen : s.Opens (.jal o d) s1) :
    Spec.Completes (.jal o d) s (Spec.jump (s1.setX d.toNat s1.unit.next) (Spec.target s1 o.toInt)) := by
  have htarget : Spec.target (s1.setX d.toNat s1.unit.next) o.toInt = Spec.target s1 o.toInt := by simp [Spec.target]
  exact (exec_jal o d s).trans (hopen.runs (by
    rw [M.bind_ok (nextAddress_run s1), M.bind_ok (dstC_run _ _ _), branchIf_run, htarget]; rfl))

section
variable {i : BitVec 10} {a d : BitVec 7} {s s1 : State} {t : Word} (hopen : s.Opens (.jalr i a d) s1) (hpre : s1.unit.pre = none)
  (ht : addr57 (s1.getX a.toNat + BitVec.ofInt 64 (4 * i.toInt)) = t)
include hopen hpre ht

theorem jalr_completes (hal : t.toNat % 4 = 0) :
    Spec.Completes (.jalr i a d) s (Spec.jump (s1.setX d.toNat s1.unit.next) t) :=
  (exec_jalr i a d s).trans (hopen.runs (by
    rw [M.bind_ok (srcC_lone hpre a), signExtend_mul_four, ht]
    simp only [hal, ne_eq, not_true_eq_false, if_false]
    rw [M.bind_ok (nextAddress_run s1), M.bind_ok (dstC_run _ _ _), jumpTo_run]))

theorem jalr_raises (hmis : t.toNat % 4 ≠ 0) :
    Spec.Raises (.jalr i a d) s s1 { cause := .misaligned, av := true, acc := 2, info1 := t } :=
  (exec_jalr i a d s).trans (hopen.traps (by
    rw [M.bind_ok (srcC_lone hpre a), signExtend_mul_four, ht]
    simp only [hmis, ne_eq, not_false_eq_true, if_true]
    rfl))

end

/-- The effect of `loop` on its counter: at 0 nothing, at 1 the last count, else one down and round again (R111). -/
theorem loop_completes {o : BitVec 17} {d : BitVec 7} {s s1 : State} {n : Word} (hopen : s.Opens (.loop o d) s1)
    (hpre : s1.unit.pre = none) (hn : s1.getX d.toNat = n) :
    Spec.Completes (.loop o d) s
      (if n = 0 then s1
       else if n = 1 then s1.setX d.toNat 0
       else Spec.jump (s1.setX d.toNat (n - 1)) (Spec.target s1 o.toInt)) := by
  have htarget (v : Word) : Spec.target (s1.setX d.toNat v) o.toInt = Spec.target s1 o.toInt := by simp [Spec.target]
  refine (exec_loop o d s).trans (hopen.runs ?_)
  rw [M.bind_ok (srcC_lone hpre d), hn]
  by_cases h0 : n = 0
  · rw [if_pos h0, if_pos h0]; rfl
  · rw [if_neg h0, if_neg h0, M.bind_ok (dstC_run _ _ _), branchIf_run, htarget]
    by_cases h1 : n = 1
    · simp [h1]
    · have hne : n - 1 ≠ 0 := sub_ne_zero.mpr h1
      rw [if_neg h1, if_pos (bne_iff_ne.mpr hne)]

/-- Settles O11, word by word: `br`, `jmp`, `br.end`, `jal`, `jalr`, `loop`. -/
theorem controlTransfers : Obligations.ControlTransfers := by
  refine ⟨?br, ?jmp, ?brEnd, ?jal, ?jalr, ?loop⟩
  case br => exact fun _ _ _ _ _ => br_completes
  case jmp => exact fun o s s1 hopen => (exec_jmp o s).trans (hopen.runs (branchIf_run true o s1))
  case brEnd => exact fun _ _ _ _ _ _ => brEnd_completes
  case jal => exact fun _ _ _ _ => jal_completes
  case jalr => exact fun _ _ _ _ _ hopen hpre => ⟨jalr_completes hopen hpre rfl, jalr_raises hopen hpre rfl⟩
  case loop => exact fun _ _ _ _ hopen hpre => loop_completes hopen hpre rfl

end Sys2Proof.Machine
end

section
/-!
PROOFS. Decoding and encoding are inverse to each other (R80 to R91). A word is taken apart into its fields, and put together again, by one
equivalence (`append_eq_extract`); the case splits follow the rows of the opcode table, in the order of their majors.
-/

namespace Sys2Proof

/-- A word made of two fields is the field that spans both exactly where each is its own part of it. -/
theorem append_eq_extract {k m n st : Nat} (x : BitVec m) (y : BitVec n) (w : BitVec k) :
    x ++ y = w.extractLsb' st (m + n) ↔ x = w.extractLsb' (st + n) m ∧ y = w.extractLsb' st n := by
  rw [← BitVec.extractLsb'_append_extractLsb'_eq_extractLsb' (x := w) (len₁ := n) (start₂ := st + n) rfl]
  constructor
  · intro h
    have hb (i : Nat) := congrArg (fun v => BitVec.getLsbD v i) h
    simp only [BitVec.getLsbD_append] at hb
    exact ⟨BitVec.eq_of_getLsbD_eq fun i _ => by simpa using hb (i + n),
      BitVec.eq_of_getLsbD_eq fun i hi => by simpa only [hi, if_true] using hb i⟩
  · rintro ⟨rfl, rfl⟩
    rfl

/-- The fields above the L bit, and the L bit. -/
theorem fields_of_append {m : Nat} {x : BitVec m} {l : BitVec 1} {w : BitVec (m + 1)} (h : x ++ l = w) :
    x = w.extractLsb' 1 m ∧ l = w.extractLsb' 0 1 := by
  rw [← BitVec.extractLsb'_eq_self (x := w)] at h
  simpa using (append_eq_extract _ _ _).mp h

theorem word_of_fields {m : Nat} {x : BitVec m} {l : BitVec 1} {w : BitVec (m + 1)} (h : x = w.extractLsb' 1 m)
    (hl : l = w.extractLsb' 0 1) : some (x ++ l) = some w := by
  rw [(append_eq_extract (st := 0) x l w).mpr ⟨by simpa using h, hl⟩, BitVec.extractLsb'_eq_self]

/-- A part of a field. -/
theorem part_of_field {k st len a b : Nat} {w : BitVec k} {v : BitVec len} (h : v = w.extractLsb' st len) (hb : a + b ≤ len := by decide) :
    w.extractLsb' (st + a) b = v.extractLsb' a b := by
  rw [h]
  apply BitVec.eq_of_getLsbD_eq
  intro i hi
  simp [hi, show a + i < len by omega, Nat.add_assoc]

/-- A field differs from a value that differs from it in a part. -/
theorem field_ne_of_part {k st len a b : Nat} {w : BitVec k} {v : BitVec b} (h : v = w.extractLsb' (st + a) b) (c : BitVec len)
    (hc : c.extractLsb' a b ≠ v) (hb : a + b ≤ len := by decide) : w.extractLsb' st len ≠ c :=
  fun hw => hc ((part_of_field hw.symm hb).symm.trans h.symm)

/-! The hint space, whose rows share the key but for its lowest bit (R91). -/

theorem decodeFields_of_hint_fields {h : BitVec 24} {k : BitVec 1} {w : BitVec 32} (hh : h = w.extractLsb' 8 24)
    (ho : 63#6 = w.extractLsb' 2 6) (hk : k = w.extractLsb' 1 1) : decodeFields w = .ok (.hint h k) := by
  have hkey : 63#6 ++ k = w.extractLsb' 1 7 := (append_eq_extract _ _ _).mpr ⟨ho, hk⟩
  have hd : decodeHint w = .hint h k := by rw [hh, hk]; rfl
  rw [decodeFields, ← hkey, ← hd]
  rcases BitVec.eq_zero_or_eq_one k with rfl | rfl <;> rfl

theorem encode_decodeHint {w : BitVec 32} (ho : w.extractLsb' 2 6 = 63#6) : encode (decodeHint w) (w.extractLsb' 0 1) = some w := by
  refine word_of_fields ?_ rfl
  simp only [append_eq_extract]
  simp only [Nat.reduceAdd]
  simp [ho]

/-! The rows of the map, major by major. Where two rows of a major are told apart by fields of different widths, the part that both hold
decides. -/

theorem decodeFields_of_encode {i : Instr} {l : BitVec 1} {w : BitVec 32} (h : encode i l = some w) : decodeFields w = .ok i := by
  cases i
  case hint =>
    injection h with h
    obtain ⟨h, -⟩ := fields_of_append h
    simp only [append_eq_extract] at h
    simp only [Nat.reduceAdd] at h
    exact decodeFields_of_hint_fields h.1.1 h.1.2 h.2
  all_goals injection h
  all_goals
    rename_i h
    obtain ⟨h, hl⟩ := fields_of_append h
    simp only [append_eq_extract] at h
    simp only [Nat.reduceAdd] at h
    obtain ⟨h, hk⟩ := h
    rw [decodeFields, ← hk]
  case ld => show decodeC01 w = _; simp [decodeC01, ← h]
  case add | sub | and | or | xor | andn | sll | srl => show decodeA01 w = _; simp [decodeA01, ← h]
  case ldz => show decodeC02 w = _; simp [decodeC02, ← h]
  case sra | rol | min | max | minu | maxu | mulh | mulhu => show decodeA02 w = _; simp [decodeA02, ← h]
  case st => show decodeC03 w = _; simp [decodeC03, ← h]
  case mul | div | divu | rem | remu | leaS1 | leaS2 | leaS3 => show decodeA03 w = _; simp [decodeA03, ← h]
  case ldx => show decodeC04 w = _; simp [decodeC04, ← h]
  case addi => show decodeA04 w = _; simp [decodeA04, ← h]
  case stx => show decodeC05 w = _; simp [decodeC05, ← h]
  case andi | ori | xori => show decodeA05 w = _; simp [decodeA05, ← h]
  case slli | srli | srai => show decodeA05 w = _; simp [decodeA05, ← h, part_of_field (a := 2) (b := 2) h.1.1.1]
  case ldm => show decodeC06 w = _; simp [decodeC06, ← h]
  case lih | lihM => show decodeA06 w = _; simp [decodeA06, ← h]
  case stm => show decodeC07 w = _; simp [decodeC07, ← h]
  case clz | ctz | pop | brev => show decodeA07 w = _; simp [decodeA07, ← h]
  case bext | bins => show decodeA07 w = _; simp [decodeA07, ← h, field_ne_of_part (st := 22) (len := 10) (a := 7) h.1.1.1]
  case ldk => show decodeC08 w = _; simp [decodeC08, ← h]
  case fcvt => show decodeA08 w = _; simp [decodeA08, ← h]
  case pf => show decodeC09 w = _; simp [decodeC09, ← h]
  case sel => show decodeA09 w = _; simp [decodeA09, ← h]
  case amo | amoE => show decodeC0A w = _; simp [decodeC0A, ← h]
  case pset | fcmpHf | fcmpBf | fcmpS | fcmpD => show decodeA0A w = _; simp [decodeA0A, ← h]
  case amof | amofE => show decodeC0B w = _; simp [decodeC0B, ← h]
  case pseti => show decodeA0B w = _; simp [decodeA0B, ← h]
  case cas => show decodeC0C w = _; simp [decodeC0C, ← h]
  case plog => show decodeA0C w = _; simp [decodeA0C, ← h]
  case pmovK => show decodeA0C w = _; simp [decodeA0C, ← h, part_of_field (a := 9) (b := 1) h.1.1.1]
  case pmovX => show decodeA0C w = _; simp [decodeA0C, ← h, part_of_field (a := 13) (b := 1) h.1.1, part_of_field (a := 4) (b := 10) h.1.1]
  case qres => show decodeC0D w = _; simp [decodeC0D, ← h]
  case faddHf | fsubHf | fmulHf | ffmaHf | fdivHf | fminHf | fmaxHf => show decodeA0D w = _; simp [decodeA0D, ← h]
  case fsqrtHf | fclassHf => show decodeA0D w = _; simp [decodeA0D, ← h, part_of_field (a := 7) (b := 3) h.1.1]
  case qrel => show decodeC0E w = _; simp [decodeC0E, ← h]
  case faddBf | fsubBf | fmulBf | ffmaBf | fdivBf | fminBf | fmaxBf => show decodeA0E w = _; simp [decodeA0E, ← h]
  case fsqrtBf | fclassBf => show decodeA0E w = _; simp [decodeA0E, ← h, part_of_field (a := 7) (b := 3) h.1.1]
  case br => show decodeC0F w = _; simp [decodeC0F, ← h]
  case faddS | fsubS | fmulS | ffmaS | fdivS | fminS | fmaxS => show decodeA0F w = _; simp [decodeA0F, ← h]
  case fsqrtS | fclassS => show decodeA0F w = _; simp [decodeA0F, ← h, part_of_field (a := 7) (b := 3) h.1.1]
  case jmp => show decodeC10 w = _; simp [decodeC10, ← h]
  case brEnd => show decodeC10 w = _; simp [decodeC10, ← h, field_ne_of_part (st := 8) (len := 7) (a := 6) h.1.1.1.2]
  case faddD | fsubD | fmulD | ffmaD | fdivD | fminD | fmaxD => show decodeA10 w = _; simp [decodeA10, ← h]
  case fsqrtD | fclassD => show decodeA10 w = _; simp [decodeA10, ← h, part_of_field (a := 7) (b := 3) h.1.1]
  case jal => show decodeC11 w = _; simp [decodeC11, ← h]
  case vadd | vsub | vmul | vmulh | vand | vor | vxor | vsll => show decodeA11 w = _; simp [decodeA11, ← h]
  case jalr => show decodeC12 w = _; simp [decodeC12, ← h]
  case vsrl | vsra | vmin | vmax | vminu | vmaxu => show decodeA12 w = _; simp [decodeA12, ← h]
  case loop => show decodeC13 w = _; simp [decodeC13, ← h]
  case vaddX | vsllX | vsrlX | vsraX => show decodeA13 w = _; simp [decodeA13, ← h]
  case sopen => show decodeC14 w = _; simp [decodeC14, ← h]
  case vfadd | vfsub | vfmul | vffma | vfmin | vfmax | vfdiv | vfsqrt => show decodeA14 w = _; simp [decodeA14, ← h]
  case sclose => show decodeC15 w = _; simp [decodeC15, ← h]
  case vfaddX | vfmulX | vffmaX => show decodeA15 w = _; simp [decodeA15, ← h]
  case sseek => show decodeC16 w = _; simp [decodeC16, ← h]
  case vcmp => show decodeA16 w = _; simp [decodeA16, ← h]
  case spos => show decodeC17 w = _; simp [decodeC17, ← h]
  case vfcmp => show decodeA17 w = _; simp [decodeA17, ← h]
  case fence | fenceE => show decodeC18 w = _; simp [decodeC18, ← h]
  case vsel | vperm | vcomp => show decodeA18 w = _; simp [decodeA18, ← h]
  case wait => show decodeC19 w = _; simp [decodeC19, ← h]
  case vbcast | vslide => show decodeA19 w = _; simp [decodeA19, ← h]
  case mona => show decodeC1A w = _; simp [decodeC1A, ← h]
  case vext => show decodeA1A w = _; simp [decodeA1A, ← h]
  case monw => show decodeC1B w = _; simp [decodeC1B, ← h]
  case vcvt => show decodeA1B w = _; simp [decodeA1B, ← h]
  case watch => show decodeC1C w = _; simp [decodeC1C, ← h]
  case vcvtNarrow => show decodeA1C w = _; simp [decodeA1C, ← h]
  case wsleep => show decodeC1D w = _; simp [decodeC1D, ← h]
  case vcvtSr => show decodeA1D w = _; simp [decodeA1D, ← h]
  case cut | direct | resume => show decodeC1E w = _; simp [decodeC1E, ← h]
  case lock | unlock => show decodeC1F w = _; simp [decodeC1F, ← h]
  case vred => show decodeA1F w = _; simp [decodeA1F, ← h]
  case clean | inval => show decodeC20 w = _; simp [decodeC20, ← h]
  case vscan => show decodeA20 w = _; simp [decodeA20, ← h]
  case iflush => show decodeC21 w = _; simp [decodeC21, ← h]
  case isync => show decodeC21 w = _; simp [decodeC21, ← h, part_of_field (a := 21) (b := 3) h]
  case vexp2 | vlog2 | vrcp | vrsqrt | vsin | vcos => show decodeA21 w = _; simp [decodeA21, ← h]
  case vld => show decodeC22 w = _; simp [decodeC22, ← h]
  case vrng => show decodeA22 w = _; simp [decodeA22, ← h]
  case vst => show decodeC23 w = _; simp [decodeC23, ← h]
  case vclaim => show decodeA23 w = _; simp [decodeA23, ← h]
  case vlds | vsts => show decodeC24 w = _; simp [decodeC24, ← h]
  case vrenew => show decodeA24 w = _; simp [decodeA24, ← h]
  case vgat | vsct => show decodeC25 w = _; simp [decodeC25, ← h]
  case vrel => show decodeA25 w = _; simp [decodeA25, ← h]
  case cpy => show decodeC26 w = _; simp [decodeC26, ← h]
  case vlen => show decodeA26 w = _; simp [decodeA26, ← h]
  case cpyw => show decodeC27 w = _; simp [decodeC27, ← h]
  case msend => show decodeC28 w = _; simp [decodeC28, ← h]
  case mma => show decodeA28 w = _; simp [decodeA28, ← h]
  case chbind | chunbind => show decodeC29 w = _; simp [decodeC29, ← h]
  case mmaNarrow => show decodeA29 w = _; simp [decodeA29, ← h]
  case redcfg => show decodeC2A w = _; simp [decodeC2A, ← h]
  case redc => show decodeC2A w = _; simp [decodeC2A, ← h, part_of_field (a := 1) (b := 3) h.1.1.1.1.1]
  case mmode => show decodeA2A w = _; simp [decodeA2A, ← h]
  case mscale => show decodeA2A w = _; simp [decodeA2A, ← h, field_ne_of_part (st := 22) (len := 10) (a := 7) h.1.1.1]
  case mbar => show decodeA2A w = _; simp [decodeA2A, ← h, part_of_field (a := 21) (b := 3) h, part_of_field (a := 14) (b := 10) h]
  case tspawn => show decodeC2B w = _; simp [decodeC2B, ← h]
  case tkey => show decodeC2B w = _; simp [decodeC2B, ← h, part_of_field (a := 7) (b := 3) h.1.1]
  case mld | mst => show decodeA2B w = _; simp [decodeA2B, ← h]
  case fork => show decodeC2C w = _; simp [decodeC2C, ← h]
  case join => show decodeC2C w = _; simp [decodeC2C, ← h, part_of_field (a := 21) (b := 3) h]
  case mrd => show decodeA2C w = _; simp [decodeA2C, ← h]
  case mzero => show decodeA2C w = _; simp [decodeA2C, ← h, part_of_field (a := 14) (b := 3) h.1]
  case rqput | rqtake => show decodeC2D w = _; simp [decodeC2D, ← h]
  case mdrain => show decodeA2D w = _; simp [decodeA2D, ← h]
  case tmset => show decodeC2E w = _; simp [decodeC2E, ← h]
  case mtrans | mcpy => show decodeA2E w = _; simp [decodeA2E, ← h]
  case sstart | sstop => show decodeC2F w = _; simp [decodeC2F, ← h]
  case exit => show decodeC30 w = _; simp [decodeC30, ← h, ← hl]
  case trap | brk | hcall => show decodeC30 w = _; simp [decodeC30, ← h, ← hl, field_ne_of_part (st := 8) (len := 24) (a := 21) h.1.1]
  case wfi | eret => show decodeC30 w = _; simp [decodeC30, ← h, ← hl, part_of_field (a := 21) (b := 3) h]
  case csrr => show decodeC31 w = _; simp [decodeC31, ← h]
  case csrw => show decodeC32 w = _; simp [decodeC32, ← h]
  case rdc => show decodeC33 w = _; simp [decodeC33, ← h]

theorem encode_of_decodeFields {i : Instr} {w : BitVec 32} (h : decodeFields w = .ok i) : encode i (w.extractLsb' 0 1) = some w := by
  unfold decodeFields at h
  split at h
  case h_98 => cases h
  all_goals
    rename_i hk
    replace hk := congrArg (BitVec.ofNat 7) hk
    rw [BitVec.ofNat_toNat, BitVec.setWidth_eq] at hk
  case h_96 | h_97 =>
    cases h
    exact encode_decodeHint ((part_of_field (a := 1) hk.symm).trans (by decide))
  case h_1 | h_3 | h_5 | h_7 | h_8 | h_9 | h_11 | h_13 | h_15 | h_17 | h_18 | h_22 | h_29 | h_33 | h_35 | h_37 | h_54 | h_56 | h_58 | h_66 |
      h_68 | h_78 | h_80 =>
    cases h
    refine word_of_fields ?_ rfl
    simp only [append_eq_extract]
    simp only [Nat.reduceAdd]
    simp only [hk, and_self]
  all_goals
    delta
      decodeC01 decodeA01 decodeC02 decodeA02 decodeC03 decodeA03 decodeC04 decodeA04 decodeC05 decodeA05 decodeC06 decodeA06 decodeC07
        decodeA07 decodeC08 decodeA08 decodeC09 decodeA09 decodeC0A decodeA0A decodeC0B decodeA0B decodeC0C decodeA0C decodeC0D decodeA0D
        decodeC0E decodeA0E decodeC0F decodeA0F decodeC10 decodeA10 decodeC11 decodeA11 decodeC12 decodeA12 decodeC13 decodeA13 decodeC14
        decodeA14 decodeC15 decodeA15 decodeC16 decodeA16 decodeC17 decodeA17 decodeC18 decodeA18 decodeC19 decodeA19 decodeC1A decodeA1A
        decodeC1B decodeA1B decodeC1C decodeA1C decodeC1D decodeA1D decodeC1E decodeC1F decodeA1F decodeC20 decodeA20 decodeC21 decodeA21
        decodeC22 decodeA22 decodeC23 decodeA23 decodeC24 decodeA24 decodeC25 decodeA25 decodeC26 decodeA26 decodeC27 decodeC28 decodeA28
        decodeC29 decodeA29 decodeC2A decodeA2A decodeC2B decodeA2B decodeC2C decodeA2C decodeC2D decodeA2D decodeC2E decodeA2E decodeC2F
        decodeC30 decodeC31 decodeC32 decodeC33 at h
    repeat' (rw [ite_eq_iff] at h; obtain ⟨hc, h⟩ | ⟨-, h⟩ := h)
    all_goals cases h
  all_goals
    refine word_of_fields ?_ ?_
    · simp only [append_eq_extract]
      simp only [Nat.reduceAdd]
      simp only [hc, hk, BitVec.ofNat_eq_ofNat, and_self]
    · simp only [hc, BitVec.ofNat_eq_ofNat]

theorem decode_eq_ok {w : BitVec 32} {i : Instr} : decode w = .ok i ↔ decodeFields w = .ok i ∧ i.wellFormed = true := by
  unfold decode
  cases decodeFields w with
  | error e => simp
  | ok j =>
    simp only [Except.ok.injEq]
    split
    · next hj =>
      refine ⟨fun h => ?_, fun h => h.1 ▸ rfl⟩
      cases h
      exact ⟨rfl, hj⟩
    · next hj => exact ⟨nofun, fun h => absurd h.2 (h.1 ▸ hj)⟩

/-- Settles O56: the fields of the encoded word are those of the instruction, and its function fields are assigned. -/
theorem decodeInvertsEncode : Obligations.DecodeInvertsEncode :=
  fun _ _ _ hw h => decode_eq_ok.mpr ⟨decodeFields_of_encode h, hw⟩

/-- Settles O57: every row that the decoder finds is encoded as the fields it was found by, with the word's own L bit. -/
theorem encodeInvertsDecode : Obligations.EncodeInvertsDecode := by
  intro i w h
  obtain ⟨hf, hw⟩ := decode_eq_ok.mp h
  have he (b : Bool) (hb : w.getLsbD 0 = b) : encode i (BitVec.ofBool b) = some w := by
    rw [← encode_of_decodeFields hf]
    congr 1
    apply BitVec.eq_of_getLsbD_eq
    intro j hj
    obtain rfl : j = 0 := by omega
    simp [← hb]
  exact ⟨hw, he true, fun h0 _ => he false h0⟩

end Sys2Proof
end

section
/-!
PROOFS. Words of every family, and the package after its reset (R80, R84, R408).
-/

namespace Sys2Proof.Machine

/-- Settles O55: each word is the encoding of its instruction, which the decoder inverts. -/
theorem wordsDecodeAsEncoded : Obligations.WordsDecodeAsEncoded := by
  unfold Obligations.WordsDecodeAsEncoded
  and_intros <;> exact decodeInvertsEncode _ 1#1 _ rfl rfl

theorem State.byteAt_reset (pa : Nat) : State.reset.byteAt pa = 0 := by
  simp [State.byteAt, State.reset, mgetD, mget]

theorem State.thread_reset (gs : Nat) : State.reset.thread gs = Thread.idle := rfl

/-- Settles O59: every field of the reset state is the empty one. -/
theorem resetLeavesAnEmptyPackage : Obligations.ResetLeavesAnEmptyPackage := by
  refine ⟨rfl, rfl, rfl, rfl, fun gs => ?live, fun pa => ⟨State.byteAt_reset pa, ?poison⟩, rfl, rfl, rfl, rfl, rfl, rfl, rfl, rfl,
    State.reset_canonical⟩
  case live => rw [State.thread_reset]; rfl
  case poison => rfl

end Sys2Proof.Machine
end

section
/-!
PROOFS. Every step answers a next state and keeps memory canonical (O58, O60): one lemma for each function of the model that leads from
state to state, in the order in which they use one another.
-/

namespace Sys2Proof.Machine

/-- Memory and peer memory in canonical form, as data. -/
def CanonMaps (m : List Host.Cell) (p : Map Byte) : Prop := mwf 0 m = true ∧ mwf 0 p = true

@[simp] theorem canon_ite {c : Prop} [Decidable c] {s t : State} (h : CanonMaps s.mem s.peer) (g : CanonMaps t.mem t.peer) :
    CanonMaps (if c then s else t).mem (if c then s else t).peer := by split <;> assumption

@[simp] theorem canon_foldl {β : Type} {f : State → β → State} {s : State}
    (hf : ∀ t b, CanonMaps t.mem t.peer → CanonMaps (f t b).mem (f t b).peer) (h : CanonMaps s.mem s.peer) (l : List β) :
    CanonMaps (l.foldl f s).mem (l.foldl f s).peer := by
  induction l generalizing s with
  | nil => exact h
  | cons b l ih => exact ih (hf s b h)

/-- A part of a unit's meaning keeps memory canonical where it comes to its end. -/
structure Keeps {α : Type} (m : M α) : Prop where
  step : ∀ s a t, CanonMaps s.mem s.peer → m s = .ok (a, t) → CanonMaps t.mem t.peer

theorem keeps_pure {α : Type} (a : α) : Keeps (pure a : M α) := by
  refine ⟨fun s b t h e => ?_⟩
  cases e
  exact h

theorem keeps_bind {α β : Type} {m : M α} {f : α → M β} (hm : Keeps m) (hf : ∀ a, Keeps (f a)) : Keeps (m >>= f) := by
  refine ⟨fun s b t h e => ?_⟩
  cases hms : m s with
  | error x => rw [M.bind_error hms] at e; cases e
  | ok p => rw [M.bind_ok hms] at e; exact (hf _).step _ _ _ (hm.step _ _ _ h hms) e

/-- What follows a read of the state may use that the state's memory is canonical. -/
theorem keeps_get_bind {β : Type} {f : State → M β} (hf : ∀ s, CanonMaps s.mem s.peer → Keeps (f s)) : Keeps (get >>= f) :=
  ⟨fun s b t h e => (hf s h).step s b t h e⟩

theorem keeps_modify {f : State → State} (hf : ∀ s, CanonMaps s.mem s.peer → CanonMaps (f s).mem (f s).peer) :
    Keeps (modify f : M Unit) := by
  refine ⟨fun s b t h e => ?_⟩
  cases e
  exact hf s h

theorem keeps_set {u : State} (hu : CanonMaps u.mem u.peer) : Keeps (set u : M Unit) := by
  refine ⟨fun s b t _ e => ?_⟩
  cases e
  exact hu

theorem keeps_error {α : Type} (x : Stop) : Keeps (fun _ => .error x : M α) := ⟨fun _ _ _ _ e => nomatch e⟩
theorem keeps_trap {α : Type} (t : Trap) : Keeps (M.trap t : M α) := keeps_error _
theorem keeps_cause {α : Type} (c : Cause) : Keeps (M.cause c : M α) := keeps_error _
theorem keeps_hold {α : Type} (c : Hold) : Keeps (M.hold c : M α) := keeps_error _

theorem keeps_lift {α : Type} (r : Except Stop α) : Keeps (M.lift r) := by
  refine ⟨fun s a t h e => ?_⟩
  cases r with
  | ok a => cases e; exact h
  | error x => cases e

theorem keeps_ite {α : Type} {c : Prop} [Decidable c] {m n : M α} (hm : Keeps m) (hn : Keeps n) : Keeps (if c then m else n) := by
  split <;> assumption

theorem keeps_require (b : Bool) (c : Cause) : Keeps (M.require b c) := keeps_ite (keeps_pure _) (keeps_cause _)
theorem keeps_until (b : Bool) : Keeps (M.until_ b) := keeps_ite (keeps_pure _) (keeps_hold _)
theorem keeps_untilTurn (b : Bool) : Keeps (M.untilTurn b) := keeps_ite (keeps_pure _) (keeps_hold _)
theorem keeps_park (k : Hold) : Keeps (M.park k) := keeps_modify fun _ h => h

theorem keeps_forM {β : Type} {f : β → M Unit} (hf : ∀ b, Keeps (f b)) : ∀ l : List β, Keeps (l.forM f)
  | [] => keeps_pure _
  | b :: l => keeps_bind (hf b) fun _ => keeps_forM hf l

theorem keeps_mapM {α β : Type} {f : β → M α} (hf : ∀ b, Keeps (f b)) : ∀ l : List β, Keeps (l.mapM f)
  | [] => by rw [List.mapM_nil]; exact keeps_pure _
  | b :: l => by
    rw [List.mapM_cons]
    exact keeps_bind (hf b) fun _ => keeps_bind (keeps_mapM hf l) fun _ => keeps_pure _

theorem keeps_foldlM {α β : Type} {f : α → β → M α} (hf : ∀ a b, Keeps (f a b)) : ∀ (l : List β) (a : α), Keeps (l.foldlM f a)
  | [], _ => by rw [List.foldlM_nil]; exact keeps_pure _
  | b :: l, a => by
    rw [List.foldlM_cons]
    exact keeps_bind (hf a b) fun _ => keeps_foldlM hf l _

theorem keeps_forIn {α β : Type} {f : β → α → M (ForInStep α)} (hf : ∀ b a, Keeps (f b a)) : ∀ (l : List β) (a : α), Keeps (forIn l a f)
  | [], _ => by rw [List.forIn_nil]; exact keeps_pure _
  | b :: l, a => by
    rw [List.forIn_cons]
    refine keeps_bind (hf b a) fun r => ?_
    cases r with
    | done a => exact keeps_pure _
    | yield a => exact keeps_forIn hf l a

/-- The outcome is a next state, with canonical memory where the state had it. -/
def Steps (s : State) (o : Outcome) : Prop := ∃ t, o = .next t ∧ (CanonMaps s.mem s.peer → CanonMaps t.mem t.peer)

theorem steps_next {s t : State} (h : CanonMaps s.mem s.peer → CanonMaps t.mem t.peer) : Steps s (.next t) := ⟨t, rfl, h⟩

theorem Keeps.elim {α : Type} {m : M α} {s t : State} {a : α} (hm : Keeps m) (h : CanonMaps s.mem s.peer) (e : m s = .ok (a, t)) :
    CanonMaps t.mem t.peer := hm.step s a t h e

/-- A state that a function may answer has canonical memory. -/
structure SomeCanon (o : Option State) : Prop where
  canon : ∀ t, o = some t → CanonMaps t.mem t.peer

theorem someCanon_none : SomeCanon none := ⟨fun _ e => nomatch e⟩
theorem someCanon_some {s : State} (h : CanonMaps s.mem s.peer) : SomeCanon (some s) := ⟨fun _ e => by cases e; exact h⟩
theorem SomeCanon.elim {o : Option State} {t : State} (ho : SomeCanon o) (e : o = some t) : CanonMaps t.mem t.peer := ho.canon t e
theorem someCanon_filter {o : Option State} (ho : SomeCanon o) (p : State → Bool) : SomeCanon (o.filter p) :=
  ⟨fun t e => ho.canon t (Option.filter_eq_some_iff.mp e).1⟩

/-- The state beside a value that a function may answer has canonical memory. -/
structure OkCanon {α : Type} (r : Except Stop (α × State)) : Prop where
  canon : ∀ a t, r = .ok (a, t) → CanonMaps t.mem t.peer

theorem okCanon_error {α : Type} (e : Stop) : OkCanon (.error e : Except Stop (α × State)) := ⟨fun _ _ h => nomatch h⟩
theorem okCanon_ok {α : Type} {a : α} {s : State} (h : CanonMaps s.mem s.peer) : OkCanon (.ok (a, s)) := ⟨fun _ _ e => by cases e; exact h⟩
theorem OkCanon.elim {α : Type} {r : Except Stop (α × State)} {a : α} {t : State} (hr : OkCanon r) (e : r = .ok (a, t)) :
    CanonMaps t.mem t.peer := hr.canon a t e

theorem steps_ite {s : State} {c : Prop} [Decidable c] {o p : Outcome} (h : Steps s o) (g : Steps s p) :
    Steps s (if c then o else p) := by split <;> assumption

/-- The state that a command of the mailbox may leave has canonical memory. -/
structure DoneCanon (r : Except (Nat × Nat × Nat) MbDone) : Prop where
  canon : ∀ d, r = .ok d → CanonMaps d.s.mem d.s.peer

theorem doneCanon_bind {α : Type} {x : Except (Nat × Nat × Nat) α} {f : α → Except (Nat × Nat × Nat) MbDone} (hf : ∀ a, DoneCanon (f a)) :
    DoneCanon (x >>= f) := by
  refine ⟨fun d e => ?_⟩
  cases x with
  | error y => cases e
  | ok a => exact (hf a).canon d e

theorem doneCanon_error (y : Nat × Nat × Nat) : DoneCanon (.error y) := ⟨fun _ e => nomatch e⟩
theorem doneCanon_fail (n : Nat) : DoneCanon (mbFail n) := doneCanon_error _
theorem doneCanon_pure {d : MbDone} (h : CanonMaps d.s.mem d.s.peer) : DoneCanon (pure d) := ⟨fun _ e => by cases e; exact h⟩

/-! The same for the predicate on states, which the kernel compares without evaluating them. -/

theorem canonical_foldl {β : Type} {f : State → β → State} (hf : ∀ t b, t.Canonical → (f t b).Canonical) {s : State} (h : s.Canonical)
    (l : List β) : (l.foldl f s).Canonical := canon_foldl hf h l

theorem canonical_ite {c : Prop} [Decidable c] {s t : State} (h : s.Canonical) (g : t.Canonical) :
    (if c then s else t).Canonical := canon_ite h g

@[simp] theorem canon_setThread {s : State} (h : CanonMaps s.mem s.peer) (x1 : Nat) (x2 : Thread) :
    CanonMaps (State.setThread s x1 x2).mem (State.setThread s x1 x2).peer := (State.wrote_setThread ..).canon h

theorem canon_dueNow {s t : State} {gs : Nat} (h : CanonMaps s.mem s.peer) (e : s.dueNow gs = .take t ∨ s.dueNow gs = .wait t) :
    CanonMaps t.mem t.peer := by
  unfold State.dueNow at e
  dsimp only at e
  repeat' split at e
  all_goals rcases e with e | e <;> first | cases e | skip
  all_goals first | exact h | simp [h]

@[simp] theorem canon_setTh {s : State} (h : CanonMaps s.mem s.peer) (x1 : Thread) :
    CanonMaps (State.setTh s x1).mem (State.setTh s x1).peer := by
  unfold State.setTh
  (repeat' split) <;> simp [h]

@[simp] theorem canon_clearHeld {s : State} (h : CanonMaps s.mem s.peer) (x1 : Trap) :
    CanonMaps (State.clearHeld s x1).mem (State.clearHeld s x1).peer := by
  unfold State.clearHeld
  (repeat' split) <;> simp [h]

@[simp] theorem canon_askPull {s : State} (h : CanonMaps s.mem s.peer) (x1 : Nat) (x2 : Nat) :
    CanonMaps (State.askPull s x1 x2).mem (State.askPull s x1 x2).peer := by
  unfold State.askPull
  (repeat' split) <;> simp [h]

@[simp] theorem canon_mapThreads {s : State} (h : CanonMaps s.mem s.peer) (x1 : Nat → Thread → Thread) :
    CanonMaps (State.mapThreads s x1).mem (State.mapThreads s x1).peer := (State.wrote_mapThreads ..).canon h

@[simp] theorem canon_dropGlobals {s : State} (h : CanonMaps s.mem s.peer) (x1 : List Nat) :
    CanonMaps (State.dropGlobals s x1).mem (State.dropGlobals s x1).peer := (State.wrote_dropGlobals ..).canon h

@[simp] theorem canon_setByte {s : State} (h : CanonMaps s.mem s.peer) (x1 : Nat) (x2 : Byte) :
    CanonMaps (State.setByte s x1 x2).mem (State.setByte s x1 x2).peer := (State.wrote_setByte ..).canon h

@[simp] theorem canon_setBytes {s : State} (h : CanonMaps s.mem s.peer) (x1 : Nat) (x2 : List Byte) :
    CanonMaps (State.setBytes s x1 x2).mem (State.setBytes s x1 x2).peer := (State.wrote_setBytes ..).canon h

@[simp] theorem canon_ring {s : State} (h : CanonMaps s.mem s.peer) (x1 : Act) :
    CanonMaps (State.ring s x1).mem (State.ring s x1).peer := (State.wrote_ring ..).canon h

@[simp] theorem canon_migBells {s : State} (h : CanonMaps s.mem s.peer) (x1 : Nat) (x2 : VFunc) (x3 : Nat) (x4 : Nat) :
    CanonMaps (State.migBells s x1 x2 x3 x4).mem (State.migBells s x1 x2 x3 x4).peer := (State.wrote_migBells ..).canon h

@[simp] theorem canon_bareBells {s : State} (h : CanonMaps s.mem s.peer) (x1 : Nat) (x2 : Nat) :
    CanonMaps (State.bareBells s x1 x2).mem (State.bareBells s x1 x2).peer := (State.wrote_bareBells ..).canon h

@[simp] theorem canon_zeroTrace {s : State} (h : CanonMaps s.mem s.peer) (x1 : Nat) (x2 : Bool) :
    CanonMaps (State.zeroTrace s x1 x2).mem (State.zeroTrace s x1 x2).peer := by
  unfold State.zeroTrace
  (repeat' split) <;> simp [h]

@[simp] theorem canon_obsBells {s : State} (h : CanonMaps s.mem s.peer) (x1 : Nat) (x2 : Nat) (x3 : Nat) (x4 : Nat) :
    CanonMaps (State.obsBells s x1 x2 x3 x4).mem (State.obsBells s x1 x2 x3 x4).peer := (State.wrote_obsBells ..).canon h

@[simp] theorem canon_ctlBells {s : State} (h : CanonMaps s.mem s.peer) (x1 : Nat) (x2 : Nat) (x3 : Nat) (x4 : Nat) :
    CanonMaps (State.ctlBells s x1 x2 x3 x4).mem (State.ctlBells s x1 x2 x3 x4).peer := (State.wrote_ctlBells ..).canon h

@[simp] theorem canon_bells {s : State} (h : CanonMaps s.mem s.peer) (x1 : Nat) (x2 : Nat) :
    CanonMaps (State.bells s x1 x2).mem (State.bells s x1 x2).peer := (State.wrote_bells ..).canon h

@[simp] theorem canon_wakeWatch {s : State} (h : CanonMaps s.mem s.peer) (x0 : Option Nat) (x2 : Nat) :
    CanonMaps (State.wakeWatch x0 s x2).mem (State.wakeWatch x0 s x2).peer := (State.wrote_wakeWatch ..).canon h

@[simp] theorem canon_touched {s : State} (h : CanonMaps s.mem s.peer) (x1 : Option Nat) (x2 : Nat) (x3 : Nat) :
    CanonMaps (State.touched s x1 x2 x3).mem (State.touched s x1 x2 x3).peer := (State.wrote_touched ..).canon h

@[simp] theorem canon_setPoison {s : State} (h : CanonMaps s.mem s.peer) (x1 : Nat) (x2 : Bool) :
    CanonMaps (State.setPoison s x1 x2).mem (State.setPoison s x1 x2).peer := (State.wrote_setPoison ..).canon h

@[simp] theorem canon_clearPoison {s : State} (h : CanonMaps s.mem s.peer) (x1 : Nat) (x2 : Nat) :
    CanonMaps (State.clearPoison s x1 x2).mem (State.clearPoison s x1 x2).peer := (State.wrote_clearPoison ..).canon h

@[simp] theorem canon_store {s : State} (h : CanonMaps s.mem s.peer) (x0 : Option Nat) (x2 : Nat) (x3 : List Byte) :
    CanonMaps (State.store x0 s x2 x3).mem (State.store x0 s x2 x3).peer := (State.wrote_store ..).canon h

@[simp] theorem canon_perform {s : State} (h : CanonMaps s.mem s.peer) (x0 : Option Nat) (x2 : Eff) :
    CanonMaps (State.perform x0 s x2).mem (State.perform x0 s x2).peer := (State.wrote_perform ..).canon h

@[simp] theorem canon_l1Drop {s : State} (h : CanonMaps s.mem s.peer) (x1 : Nat) (x2 : Nat) :
    CanonMaps (State.l1Drop s x1 x2).mem (State.l1Drop s x1 x2).peer := (State.wrote_l1Drop ..).canon h

@[simp] theorem canon_cohSend {s : State} (h : CanonMaps s.mem s.peer) (x1 : CohKind) (x2 : Nat) (x3 : Nat) :
    CanonMaps (State.cohSend s x1 x2 x3).mem (State.cohSend s x1 x2 x3).peer := (State.wrote_cohSend ..).canon h

@[simp] theorem canon_cohTake {s : State} (h : CanonMaps s.mem s.peer) (x1 : CohKind) (x2 : Nat) (x3 : Nat) :
    CanonMaps (State.cohTake s x1 x2 x3).mem (State.cohTake s x1 x2 x3).peer := (State.wrote_cohTake ..).canon h

@[simp] theorem canon_setDir {s : State} (h : CanonMaps s.mem s.peer) (x1 : Nat) (x2 : List Moesi) :
    CanonMaps (State.setDir s x1 x2).mem (State.setDir s x1 x2).peer := (State.wrote_setDir ..).canon h

@[simp] theorem canon_setDie {s : State} (h : CanonMaps s.mem s.peer) (x1 : Nat) (x2 : Nat) (x3 : Moesi) :
    CanonMaps (State.setDie s x1 x2 x3).mem (State.setDie s x1 x2 x3).peer := (State.wrote_setDie ..).canon h

@[simp] theorem canon_doFwd {s : State} (h : CanonMaps s.mem s.peer) (x1 : Nat) (x2 : Nat) (x3 : Nat) :
    CanonMaps (State.doFwd s x1 x2 x3).mem (State.doFwd s x1 x2 x3).peer := (State.wrote_doFwd ..).canon h

@[simp] theorem canon_evict {s : State} (h : CanonMaps s.mem s.peer) (x1 : Nat) (x2 : Nat) :
    CanonMaps (State.evict s x1 x2).mem (State.evict s x1 x2).peer := (State.wrote_evict ..).canon h

@[simp] theorem canon_place {s : State} (h : CanonMaps s.mem s.peer) (x1 : Nat) (x2 : Nat) (x3 : Moesi) :
    CanonMaps (State.place s x1 x2 x3).mem (State.place s x1 x2 x3).peer := (State.wrote_place ..).canon h

@[simp] theorem canon_doData {s : State} (h : CanonMaps s.mem s.peer) (x1 : Nat) (x2 : Nat) :
    CanonMaps (State.doData s x1 x2).mem (State.doData s x1 x2).peer := (State.wrote_doData ..).canon h

@[simp] theorem canon_hostMoves {s : State} (h : CanonMaps s.mem s.peer) (x1 : Nat) (x2 : Nat) (x3 : Nat) :
    CanonMaps (State.hostMoves s x1 x2 x3).mem (State.hostMoves s x1 x2 x3).peer := (State.wrote_hostMoves ..).canon h

@[simp] theorem canon_doWback {s : State} (h : CanonMaps s.mem s.peer) (x1 : Nat) (x2 : Nat) :
    CanonMaps (State.doWback s x1 x2).mem (State.doWback s x1 x2).peer := (State.wrote_doWback ..).canon h

@[simp] theorem canon_cohSettle {s : State} (h : CanonMaps s.mem s.peer) (x1 : Nat) :
    CanonMaps (State.cohSettle s x1).mem (State.cohSettle s x1).peer := (State.wrote_cohSettle ..).canon h

@[simp] theorem canon_doAck {s : State} (h : CanonMaps s.mem s.peer) (x1 : Nat) (x2 : Nat) :
    CanonMaps (State.doAck s x1 x2).mem (State.doAck s x1 x2).peer := (State.wrote_doAck ..).canon h

@[simp] theorem canon_doInv {s : State} (h : CanonMaps s.mem s.peer) (x1 : Nat) (x2 : Nat) :
    CanonMaps (State.doInv s x1 x2).mem (State.doInv s x1 x2).peer := (State.wrote_doInv ..).canon h

@[simp] theorem canon_recallCopy {s : State} (h : CanonMaps s.mem s.peer) (x1 : Nat) (x2 : Nat) :
    CanonMaps (State.recallCopy s x1 x2).mem (State.recallCopy s x1 x2).peer := (State.wrote_recallCopy ..).canon h

@[simp] theorem canon_doBinv {s : State} (h : CanonMaps s.mem s.peer) (x1 : Nat) (x2 : Nat) :
    CanonMaps (State.doBinv s x1 x2).mem (State.doBinv s x1 x2).peer := (State.wrote_doBinv ..).canon h

@[simp] theorem canon_doReads {s : State} (h : CanonMaps s.mem s.peer) (x1 : Nat) (x2 : Nat) :
    CanonMaps (State.doReads s x1 x2).mem (State.doReads s x1 x2).peer := (State.wrote_doReads ..).canon h

@[simp] theorem canon_doReadm {s : State} (h : CanonMaps s.mem s.peer) (x1 : Nat) (x2 : Nat) :
    CanonMaps (State.doReadm s x1 x2).mem (State.doReadm s x1 x2).peer := (State.wrote_doReadm ..).canon h

@[simp] theorem canon_cohSteps {s : State} (h : CanonMaps s.mem s.peer) (x0 : Nat) (x2 : Nat) :
    CanonMaps (State.cohSteps x0 s x2).mem (State.cohSteps x0 s x2).peer := (State.wrote_cohSteps ..).canon h

@[simp] theorem canon_cohDrain {s : State} (h : CanonMaps s.mem s.peer) (x1 : Nat) :
    CanonMaps (State.cohDrain s x1).mem (State.cohDrain s x1).peer := (State.wrote_cohDrain ..).canon h

@[simp] theorem canon_cohKeep {s : State} (h : CanonMaps s.mem s.peer) (x1 : Nat) (x2 : Moesi) :
    CanonMaps (State.cohKeep s x1 x2).mem (State.cohKeep s x1 x2).peer := (State.wrote_cohKeep ..).canon h

@[simp] theorem canon_cohRecall {s : State} (h : CanonMaps s.mem s.peer) (x1 : CohKind) (x2 : Nat) :
    CanonMaps (State.cohRecall s x1 x2).mem (State.cohRecall s x1 x2).peer := (State.wrote_cohRecall ..).canon h

@[simp] theorem canon_l1Add {s : State} (h : CanonMaps s.mem s.peer) (x1 : Nat) (x2 : Nat) :
    CanonMaps (State.l1Add s x1 x2).mem (State.l1Add s x1 x2).peer := (State.wrote_l1Add ..).canon h

@[simp] theorem canon_cohWrite {s : State} (h : CanonMaps s.mem s.peer) (x1 : Nat) (x2 : Nat) :
    CanonMaps (State.cohWrite s x1 x2).mem (State.cohWrite s x1 x2).peer := (State.wrote_cohWrite ..).canon h

@[simp] theorem canon_cohDrop {s : State} (h : CanonMaps s.mem s.peer) (x1 : Nat) :
    CanonMaps (State.cohDrop s x1).mem (State.cohDrop s x1).peer := (State.wrote_cohDrop ..).canon h

@[simp] theorem canon_sendEdges {s : State} (h : CanonMaps s.mem s.peer) (x1 : Nat) (x2 : Option Nat) (x3 : Map Byte) :
    CanonMaps (State.sendEdges s x1 x2 x3).mem (State.sendEdges s x1 x2 x3).peer := (State.wrote_sendEdges ..).canon h

@[simp] theorem canon_mbPoll {s : State} (h : CanonMaps s.mem s.peer)  :
    CanonMaps (State.mbPoll s).mem (State.mbPoll s).peer := (State.wrote_mbPoll ..).canon h

@[simp] theorem canon_heard {s : State} (h : CanonMaps s.mem s.peer) (x1 : List Nat) :
    CanonMaps (State.heard s x1).mem (State.heard s x1).peer := by
  unfold State.heard
  (repeat' split) <;> simp [h]

@[simp] theorem canon_signal {s : State} (h : CanonMaps s.mem s.peer) (x1 : Option Nat) (x2 : List Nat) :
    CanonMaps (State.signal s x1 x2).mem (State.signal s x1 x2).peer := (State.wrote_signal ..).canon h

@[simp] theorem canon_backInvalidate {s : State} (h : CanonMaps s.mem s.peer) (x1 : List Nat) :
    CanonMaps (State.backInvalidate s x1).mem (State.backInvalidate s x1).peer := (State.wrote_backInvalidate ..).canon h

@[simp] theorem canon_performAll {s : State} (h : CanonMaps s.mem s.peer) (x1 : Option Nat) (x2 : List Eff) :
    CanonMaps (State.performAll s x1 x2).mem (State.performAll s x1 x2).peer := (State.wrote_performAll ..).canon h

@[simp] theorem canon_writeEvent {s : State} (h : CanonMaps s.mem s.peer) (x1 : Nat) (x2 : VFunc) (x3 : Nat) (x4 : List Byte) :
    CanonMaps (State.writeEvent s x1 x2 x3 x4).mem (State.writeEvent s x1 x2 x3 x4).peer := by
  unfold State.writeEvent
  (repeat' split) <;> simp [h]

@[simp] theorem canon_raise {s : State} (h : CanonMaps s.mem s.peer) (x1 : Nat) (x2 : Nat) (x3 : Nat) :
    CanonMaps (State.raise s x1 x2 x3).mem (State.raise s x1 x2 x3).peer := by
  unfold State.raise
  dsimp only
  (repeat' split) <;> simp [h]

@[simp] theorem canon_postKernel {s : State} (h : CanonMaps s.mem s.peer) (x1 : Nat) (x2 : Nat) (x3 : Nat) (x4 : List Word) :
    CanonMaps (State.postKernel s x1 x2 x3 x4).mem (State.postKernel s x1 x2 x3 x4).peer := by
  unfold State.postKernel
  (repeat' split) <;> simp [h]

@[simp] theorem canon_postTable {s : State} (h : CanonMaps s.mem s.peer) (x1 : Trap) (x2 : optParam (Option Nat) none) :
    CanonMaps (State.postTable s x1 x2).mem (State.postTable s x1 x2).peer := by
  unfold State.postTable
  (repeat' split) <;> simp [h]

@[simp] theorem canon_debugStop {s : State} (h : CanonMaps s.mem s.peer) (x1 : Trap) :
    CanonMaps (State.debugStop s x1).mem (State.debugStop s x1).peer := by
  unfold State.debugStop
  (repeat' split) <;> simp [h]

theorem keeps_modChunk (x0 : Chunk → Chunk) : Keeps (modChunk x0) := by
  unfold modChunk
  repeat' first | assumption | with_reducible refine keeps_modify fun _ _ => ?_ | split

@[simp] theorem canon_cohAsk {s : State} (h : CanonMaps s.mem s.peer) (x1 : Nat) (x2 : Nat) (x3 : Option Nat) :
    CanonMaps (State.cohAsk s x1 x2 x3).mem (State.cohAsk s x1 x2 x3).peer := (State.wrote_cohAsk ..).canon h

@[simp] theorem canon_countRegion {s : State} (h : CanonMaps s.mem s.peer) (x1 : Nat) (x2 : VFunc) (x3 : Bool) (x4 : Nat) :
    CanonMaps (State.countRegion s x1 x2 x3 x4).mem (State.countRegion s x1 x2 x3 x4).peer := by
  unfold State.countRegion
  dsimp only
  (repeat' split) <;> simp [h]

@[simp] theorem canon_countFetch {s : State} (h : CanonMaps s.mem s.peer) (x1 : Option Nat) (x2 : Nat) :
    CanonMaps (State.countFetch s x1 x2).mem (State.countFetch s x1 x2).peer := by
  unfold State.countFetch
  (repeat' split) <;> simp [h]

@[simp] theorem canon_keep {s : State} (h : CanonMaps s.mem s.peer) (x1 : Option Global) :
    CanonMaps (State.keep s x1).mem (State.keep s x1).peer := by
  unfold State.keep
  (repeat' split) <;> simp [h]

@[simp] theorem canon_setAD {s : State} (h : CanonMaps s.mem s.peer) (x1 : Nat) (x2 : Acc) :
    CanonMaps (State.setAD s x1 x2).mem (State.setAD s x1 x2).peer := by
  unfold State.setAD
  repeat' first
    | assumption
    | with_reducible (first
        | apply canon_signal | apply canon_mapThreads | apply canon_setBytes)
    | split | dsimp only

@[simp] theorem canon_aim {s : State} (h : CanonMaps s.mem s.peer) (x1 : Word) (x2 : Nat) (x3 : Nat) :
    CanonMaps (State.aim s x1 x2 x3).mem (State.aim s x1 x2 x3).peer := by
  unfold State.aim
  (repeat' split) <;> simp [h]

theorem keeps_xlatAt (x0 : Nat) (x1 : Word) (x2 : Acc) : Keeps (xlatAt x0 x1 x2) := by
  unfold xlatAt
  repeat' first
    | assumption
    | with_reducible (first
        | exact keeps_modChunk .. | apply canon_cohAsk | apply canon_countFetch | apply canon_keep | apply canon_setAD | apply canon_aim)
    | refine canon_foldl (fun _ _ _ => ?_) ?_ _
    | with_reducible (first
        | refine keeps_get_bind fun _ _ => ?_ | refine keeps_bind ?_ fun _ => ?_ | refine keeps_modify fun _ _ => ?_ | exact keeps_pure _
        | exact keeps_lift _)
    | split

theorem keeps_reachCheck (x0 : Nat) (x1 : Acc) (x2 : Reach) (x3 : Word) : Keeps (reachCheck x0 x1 x2 x3) := by
  unfold reachCheck
  repeat' first
    | with_reducible (first
        | refine keeps_get_bind fun _ _ => ?_ | refine keeps_bind ?_ fun _ => ?_ | exact keeps_pure _ | exact keeps_until _
        | exact keeps_lift _)
    | split

theorem keeps_checkAccess (x0 : Word) (x1 : Nat) (x2 : Nat) (x3 : Acc) (x4 : Reach) : Keeps (checkAccess x0 x1 x2 x3 x4) := by
  unfold checkAccess
  repeat' first
    | with_reducible (first
        | exact keeps_xlatAt .. | exact keeps_reachCheck .. | refine keeps_get_bind fun _ _ => ?_ | refine keeps_bind ?_ fun _ => ?_
        | exact keeps_pure _ | exact keeps_trap _ | exact keeps_until _)
    | split

@[simp] theorem canon_sawShared {s : State} (h : CanonMaps s.mem s.peer) (x1 : Nat) :
    CanonMaps (State.sawShared s x1).mem (State.sawShared s x1).peer := by
  unfold State.sawShared
  (repeat' split) <;> simp [h]

@[simp] theorem canon_postHyper {s : State} (h : CanonMaps s.mem s.peer) (x1 : Nat) (x2 : Nat) (x3 : Nat) (x4 : Nat) (x5 : List Word) :
    CanonMaps (State.postHyper s x1 x2 x3 x4 x5).mem (State.postHyper s x1 x2 x3 x4 x5).peer := by
  unfold State.postHyper
  dsimp only
  (repeat' split) <;> simp [h]

@[simp] theorem canon_noteGrant {s : State} (h : CanonMaps s.mem s.peer) (x1 : Nat) (x2 : Nat) (x3 : Nat) (x4 : Nat) :
    CanonMaps (State.noteGrant s x1 x2 x3 x4).mem (State.noteGrant s x1 x2 x3 x4).peer := by
  unfold State.noteGrant
  dsimp only
  (repeat' split) <;> simp [h]

theorem keeps_modTh (x0 : Thread → Thread) : Keeps (modTh x0) := by
  unfold modTh
  repeat' first | assumption | with_reducible refine keeps_modify fun _ _ => ?_

theorem keeps_countEntries (x0 : Nat) : Keeps (countEntries x0) := by
  unfold countEntries
  repeat' first | with_reducible (first | exact keeps_modTh .. | refine keeps_get_bind fun _ _ => ?_ | exact keeps_pure _) | split

theorem keeps_performNow (x0 : List Eff) : Keeps (performNow x0) := by
  unfold performNow
  repeat' first
    | assumption
    | with_reducible (first
        | exact keeps_error _ | apply canon_sawShared | apply canon_performAll | apply canon_noteGrant | exact keeps_countEntries ..
        | refine keeps_get_bind fun _ _ => ?_ | refine keeps_bind ?_ fun _ => ?_ | refine keeps_modify fun _ _ => ?_ | exact keeps_hold _)
    | split

theorem keeps_upcallStore (x0 : Word) (x1 : List Byte) : Keeps (upcallStore x0 x1) := by
  unfold upcallStore
  repeat' first
    | with_reducible (first
        | exact keeps_checkAccess .. | exact keeps_performNow .. | refine keeps_get_bind fun _ _ => ?_ | refine keeps_bind ?_ fun _ => ?_
        | exact keeps_pure _ | exact keeps_until _ | refine keeps_forIn (fun _ _ => ?_) _ _)

@[simp] theorem canon_traceRec {s : State} (h : CanonMaps s.mem s.peer) (x1 : Nat) (x2 : Nat) (x3 : Word) (x4 : Word) :
    CanonMaps (State.traceRec s x1 x2 x3 x4).mem (State.traceRec s x1 x2 x3 x4).peer := (State.wrote_traceRec ..).canon h

@[simp] theorem canon_enterTrap {s : State} (h : CanonMaps s.mem s.peer) (x1 : Trap) (x2 : Nat) :
    CanonMaps (State.enterTrap s x1 x2).mem (State.enterTrap s x1 x2).peer := by
  unfold State.enterTrap
  repeat' first | assumption | with_reducible apply canon_traceRec

@[simp] theorem canon_setXOf {s : State} (h : CanonMaps s.mem s.peer) (x1 : Nat) (x2 : Nat) (x3 : Word) :
    CanonMaps (State.setXOf s x1 x2 x3).mem (State.setXOf s x1 x2 x3).peer := by
  unfold State.setXOf
  (repeat' split) <;> simp [h]

@[simp] theorem canon_setX {s : State} (h : CanonMaps s.mem s.peer) (x1 : Nat) (x2 : Word) :
    CanonMaps (State.setX s x1 x2).mem (State.setX s x1 x2).peer := by
  unfold State.setX
  (repeat' split) <;> simp [h]

@[simp] theorem canon_noteWaiter {s : State} (h : CanonMaps s.mem s.peer) (x1 : Word) :
    CanonMaps (State.noteWaiter s x1).mem (State.noteWaiter s x1).peer := by
  unfold State.noteWaiter
  (repeat' split) <;> simp [h]

@[simp] theorem canon_divergence {s : State} (h : CanonMaps s.mem s.peer) (x1 : Nat) (x2 : Nat) (x3 : Nat) (x4 : Word) :
    CanonMaps (State.divergence s x1 x2 x3 x4).mem (State.divergence s x1 x2 x3 x4).peer := by
  unfold State.divergence
  (repeat' split) <;> simp [h]

@[simp] theorem canon_takeTrap {s : State} (h : CanonMaps s.mem s.peer) (x1 : Trap) :
    CanonMaps (State.takeTrap s x1).mem (State.takeTrap s x1).peer := by
  unfold State.takeTrap
  repeat' first
    | assumption
    | with_reducible (first
        | apply canon_clearHeld | apply canon_postTable | apply canon_setTh | apply canon_debugStop)
    | refine Keeps.elim (keeps_upcallStore ..) ?_ (by assumption)
    | with_reducible (first
        | apply canon_enterTrap | apply canon_setX | apply canon_postKernel | apply canon_noteWaiter | apply canon_askPull
        | apply canon_backInvalidate | apply canon_divergence)
    | split | dsimp only

@[simp] theorem canon_takeDue {s : State} (h : CanonMaps s.mem s.peer) (x1 : Nat) :
    CanonMaps (State.takeDue s x1).mem (State.takeDue s x1).peer := by
  unfold State.takeDue
  repeat' first | assumption | with_reducible (first | apply canon_takeTrap | apply canon_setTh | apply canon_traceRec) | split

@[simp] theorem canon_endsBefore {s : State} (h : CanonMaps s.mem s.peer) (x1 : Bool) (x2 : Bool) (x3 : Nat) :
    CanonMaps (State.endsBefore s x1 x2 x3).mem (State.endsBefore s x1 x2 x3).peer := by
  unfold State.endsBefore
  dsimp only
  (repeat' split) <;> simp [h]

theorem canon_beginUnit {s t : State} (h : CanonMaps s.mem s.peer) {outside : Bool} (e : s.beginUnit outside = .ok t) :
    CanonMaps t.mem t.peer := by
  unfold State.beginUnit at e
  dsimp only at e
  repeat' split at e
  all_goals first | cases e | skip
  all_goals first | exact h | simp [h]

@[simp] theorem canon_setWindowOf {s : State} (h : CanonMaps s.mem s.peer) (x1 : Nat) (x2 : List Word) :
    CanonMaps (State.setWindowOf s x1 x2).mem (State.setWindowOf s x1 x2).peer := by
  unfold State.setWindowOf
  (repeat' split) <;> simp [h]

@[simp] theorem canon_countOf {s : State} (h : CanonMaps s.mem s.peer) (x1 : Option Nat) (x2 : Option Nat) (x3 : Nat) (x4 : Nat) :
    CanonMaps (State.countOf s x1 x2 x3 x4).mem (State.countOf s x1 x2 x3 x4).peer := by
  unfold State.countOf
  (repeat' split) <;> simp [h]

@[simp] theorem canon_count {s : State} (h : CanonMaps s.mem s.peer) (x1 : Nat) (x2 : Nat) (x3 : Nat) :
    CanonMaps (State.count s x1 x2 x3).mem (State.count s x1 x2 x3).peer := by
  unfold State.count
  (repeat' split) <;> simp [h]

@[simp] theorem canon_squash {s : State} (h : CanonMaps s.mem s.peer) (x1 : Nat) (x2 : Nat) (x3 : Bool) (x4 : Bool) :
    CanonMaps (State.squash s x1 x2 x3 x4).mem (State.squash s x1 x2 x3 x4).peer := by
  unfold State.squash
  repeat' first
    | assumption
    | with_reducible (first
        | apply canon_setThread | apply canon_setWindowOf | apply canon_count | apply canon_traceRec)
    | split

@[simp] theorem canon_deliver {s : State} (h : CanonMaps s.mem s.peer) (x1 : Trap) :
    CanonMaps (State.deliver s x1).mem (State.deliver s x1).peer := by
  unfold State.deliver
  repeat' first | assumption | with_reducible (first | apply canon_takeTrap | apply canon_squash) | split

@[simp] theorem canon_raiseUnit {s : State} (h : CanonMaps s.mem s.peer) (x1 : Trap) :
    CanonMaps (State.raiseUnit s x1).mem (State.raiseUnit s x1).peer := by
  unfold State.raiseUnit
  repeat' first | assumption | with_reducible apply canon_deliver | split

@[simp] theorem canon_refillOne {s : State} (h : CanonMaps s.mem s.peer) (x1 : Nat) (x2 : Nat) :
    CanonMaps (State.refillOne s x1 x2).mem (State.refillOne s x1 x2).peer := by
  unfold State.refillOne
  (repeat' split) <;> simp [h]

@[simp] theorem canon_refill {s : State} (h : CanonMaps s.mem s.peer) (x1 : Nat) (x2 : Nat) :
    CanonMaps (State.refill s x1 x2).mem (State.refill s x1 x2).peer := by
  unfold State.refill
  simp +contextual [h]

@[simp] theorem canon_holdUnit {s : State} (h : CanonMaps s.mem s.peer) (x1 : Hold) :
    CanonMaps (State.holdUnit s x1).mem (State.holdUnit s x1).peer := by
  unfold State.holdUnit
  repeat' first
    | assumption
    | with_reducible (first
        | apply canon_refill | apply canon_askPull | apply canon_backInvalidate | apply canon_sawShared)
    | split

theorem canon_stopUnit {s s1 : State} (h : CanonMaps s.mem s.peer) (h1 : CanonMaps s1.mem s1.peer)
    {run : State → Except Stop State} (hrun : ∀ z t, CanonMaps z.mem z.peer → run z = .ok t → CanonMaps t.mem t.peer) (e : Stop) :
    CanonMaps (s.stopUnit s1 run e).mem (s.stopUnit s1 run e).peer := by
  unfold State.stopUnit
  repeat' first
    | assumption
    | with_reducible (first
        | apply canon_raiseUnit | apply canon_holdUnit | apply canon_squash | apply canon_divergence)
    | (refine hrun _ _ ?_ (by assumption)) | split | dsimp only

@[simp] theorem canon_observe {s : State} (h : CanonMaps s.mem s.peer) (x1 : List Instr) :
    CanonMaps (State.observe s x1).mem (State.observe s x1).peer := by
  unfold State.observe
  repeat' first | assumption | with_reducible apply canon_traceRec | split

@[simp] theorem canon_finishUnit {s : State} (h : CanonMaps s.mem s.peer) (x1 : Nat) (x2 : Bool) :
    CanonMaps (State.finishUnit s x1 x2).mem (State.finishUnit s x1 x2).peer := by
  unfold State.finishUnit
  dsimp only
  (repeat' split) <;> simp [h]

@[simp] theorem canon_runUnit {s : State} (h : CanonMaps s.mem s.peer) (is : List Instr) {body : M Unit} (hb : Keeps body) :
    CanonMaps (s.runUnit is body).mem (s.runUnit is body).peer := by
  have h0 : ∀ o c n, CanonMaps (s.endsBefore o c n).mem (s.endsBefore o c n).peer := fun _ _ _ => canon_endsBefore h ..
  have hrun : ∀ z t, CanonMaps z.mem z.peer → (match body z with
      | .ok (_, s2) => Except.ok ((s2.finishUnit is.length (is.any endsAfter)).observe is)
      | .error e => .error e) = .ok t → CanonMaps t.mem t.peer := by
    intro z t hz e
    split at e
    · cases e
      exact canon_observe (canon_finishUnit (hb.elim hz ‹_›) ..) ..
    · cases e
  unfold State.runUnit
  dsimp only
  split
  · exact h0 ..
  · split
    · exact canon_stopUnit (h0 ..) (h0 ..) (fun z t hz e => by cases e; exact hz) _
    · next s1 hs1 =>
      have h1 := canon_beginUnit (h0 ..) hs1
      split
      · exact canon_raiseUnit h1 _
      · split
        · exact canon_stopUnit (h0 ..) h1 (fun z t hz e => by cases e; exact hz) _
        · split
          · exact hrun _ _ h1 ‹_›
          · exact canon_stopUnit (h0 ..) h1 hrun _

theorem steps_issue {s : State} {i : Instr} {body : M Unit} (hb : Keeps body) : Steps s (issue i body s) := by
  unfold issue
  split
  · exact steps_next fun h => canon_runUnit h _ hb
  · split
    · exact steps_next fun h => hb.elim h ‹_›
    · exact steps_next fun h => h

@[simp] theorem canon_raiseAt {s : State} (h : CanonMaps s.mem s.peer) (x1 : Trap) :
    CanonMaps (State.raiseAt s x1).mem (State.raiseAt s x1).peer := canon_runUnit h _ (keeps_trap _)

@[simp] theorem canon_takeBreak {s : State} (h : CanonMaps s.mem s.peer) (x1 : Nat) :
    CanonMaps (State.takeBreak s x1).mem (State.takeBreak s x1).peer := by
  unfold State.takeBreak
  (repeat' split) <;> simp [h]

@[simp] theorem canon_icRoom {s : State} (h : CanonMaps s.mem s.peer) (x1 : Nat) (x2 : Nat) :
    CanonMaps (State.icRoom s x1 x2).mem (State.icRoom s x1 x2).peer := by
  unfold State.icRoom
  dsimp only
  (repeat' split) <;> simp [h]

@[simp] theorem canon_fetchLine {s : State} (h : CanonMaps s.mem s.peer) (line : Nat) :
    CanonMaps (State.fetchLine s line).2.mem (State.fetchLine s line).2.peer := by
  unfold State.fetchLine
  dsimp only
  repeat' first | split | exact canon_icRoom h _ _

theorem keeps_fetchUnit (x0 : Word) : Keeps (fetchUnit x0) := by
  unfold fetchUnit
  repeat' first
    | assumption
    | with_reducible (first
        | exact keeps_xlatAt .. | exact keeps_reachCheck .. | apply canon_cohAsk | apply canon_countFetch | apply canon_fetchLine
        | refine keeps_get_bind fun _ _ => ?_ | refine keeps_bind ?_ fun _ => ?_ | refine keeps_modify fun _ _ => ?_
        | refine keeps_set ?_ | exact keeps_pure _ | exact keeps_until _ | exact keeps_lift _)
    | split

theorem canon_fetchNext {s t : State} (h : CanonMaps s.mem s.peer) (e : (∃ x, s.fetchNext = .stop t x) ∨ (∃ i, s.fetchNext = .lone t i) ∨
    (∃ c a, s.fetchNext = .pair t c a)) : CanonMaps t.mem t.peer := by
  have hk := keeps_fetchUnit s.th.a.pc
  unfold State.fetchNext at e
  dsimp only at e
  split at e
  · rcases e with ⟨_, e⟩ | ⟨_, e⟩ | ⟨_, _, e⟩ <;> cases e
    exact h
  · have h1 := hk.elim (s := { s with unit := UnitCtx.at_ s.th.a.pc }) h ‹_›
    repeat' split at e
    all_goals
      rcases e with ⟨_, e⟩ | ⟨_, e⟩ | ⟨_, _, e⟩ <;> cases e <;> exact h1

@[simp] theorem canon_withdraw {s : State} (h : CanonMaps s.mem s.peer) (x1 : Nat) :
    CanonMaps (State.withdraw s x1).mem (State.withdraw s x1).peer := by
  unfold State.withdraw
  (repeat' split) <;> simp [h]

@[simp] theorem canon_beginStop {s : State} (h : CanonMaps s.mem s.peer) (x1 : Nat) :
    CanonMaps (State.beginStop s x1).mem (State.beginStop s x1).peer := by
  unfold State.beginStop
  dsimp only
  (repeat' split) <;> simp [h]

@[simp] theorem canon_killThread {s : State} (h : CanonMaps s.mem s.peer) (x1 : Nat) :
    CanonMaps (State.killThread s x1).mem (State.killThread s x1).peer := by
  unfold State.killThread
  (repeat' split) <;> simp [h]

@[simp] theorem canon_freeArea {s : State} (h : CanonMaps s.mem s.peer) (x1 : Nat) (x2 : Nat) :
    CanonMaps (State.freeArea s x1 x2).mem (State.freeArea s x1 x2).peer := by
  unfold State.freeArea
  (repeat' split) <;> simp [h]

@[simp] theorem canon_endAway {s : State} (h : CanonMaps s.mem s.peer) (x1 : Away) :
    CanonMaps (State.endAway s x1).mem (State.endAway s x1).peer := by
  unfold State.endAway
  dsimp only
  (repeat' split) <;> simp [h]

@[simp] theorem canon_breakResv {s : State} (h : CanonMaps s.mem s.peer) (x1 : Nat) :
    CanonMaps (State.breakResv s x1).mem (State.breakResv s x1).peer := by
  unfold State.breakResv
  (repeat' split) <;> simp [h]

@[simp] theorem canon_releaseSlot {s : State} (h : CanonMaps s.mem s.peer) (x1 : Nat) :
    CanonMaps (State.releaseSlot s x1).mem (State.releaseSlot s x1).peer := by
  unfold State.releaseSlot
  (repeat' split) <;> simp [h]

@[simp] theorem canon_endThread {s : State} (h : CanonMaps s.mem s.peer) (x1 : Nat) (x2 : Bool) :
    CanonMaps (State.endThread s x1 x2).mem (State.endThread s x1 x2).peer := by
  unfold State.endThread
  dsimp only
  (repeat' split) <;> simp [h]

@[simp] theorem canon_settleStops {s : State} (h : CanonMaps s.mem s.peer)  :
    CanonMaps (State.settleStops s).mem (State.settleStops s).peer := by
  unfold State.settleStops
  repeat' first | assumption | with_reducible apply canon_endThread | refine canon_foldl (fun _ _ _ => ?_) ?_ _ | split

@[simp] theorem canon_contain {s : State} (h : CanonMaps s.mem s.peer) (vf : Option Nat) (asid reason : Nat) (gs : Option Nat) :
    CanonMaps (State.contain s vf asid reason gs).1.mem (State.contain s vf asid reason gs).1.peer := by
  unfold State.contain
  repeat' first
    | assumption
    | with_reducible (first
        | apply canon_killThread | apply canon_endAway | apply canon_beginStop | apply canon_postHyper | apply canon_postKernel
        | apply canon_settleStops)
    | refine canon_foldl (fun _ _ _ => ?_) ?_ _ | split

@[simp] theorem canon_refuseUnit {s : State} (h : CanonMaps s.mem s.peer) (x1 : Stop) :
    CanonMaps (State.refuseUnit s x1).mem (State.refuseUnit s x1).peer := by
  unfold State.refuseUnit
  (repeat' split) <;> simp [h]

theorem keeps_readX (x0 : Nat) : Keeps (readX x0) := by
  unfold readX
  repeat' first | with_reducible (first | refine keeps_get_bind fun _ _ => ?_ | exact keeps_pure _) | split

theorem keeps_srcC (x0 : BitVec 7) : Keeps (srcC x0) := by
  unfold srcC
  exact keeps_readX ..

theorem keeps_eaOff (x0 : BitVec 7) (x1 : BitVec 8) (x2 : Nat) : Keeps (eaOff x0 x1 x2) := by
  unfold eaOff
  repeat' first | with_reducible (first | exact keeps_srcC .. | refine keeps_bind ?_ fun _ => ?_ | exact keeps_pure _)

theorem keeps_directOrder  : Keeps (directOrder) := by
  unfold directOrder
  repeat' first | with_reducible (first | refine keeps_get_bind fun _ _ => ?_ | exact keeps_until _)

theorem keeps_poisonCheck (x0 : Access) (x1 : Nat) (x2 : Nat) (x3 : Acc) (x4 : Word) : Keeps (poisonCheck x0 x1 x2 x3 x4) := by
  unfold poisonCheck
  repeat' first | with_reducible (first | refine keeps_get_bind fun _ _ => ?_ | exact keeps_pure _ | exact keeps_trap _) | split

theorem keeps_noteReads (x0 : List Nat) : Keeps (noteReads x0) := by
  unfold noteReads
  exact keeps_modChunk ..

theorem keeps_readLines (x0 : List Nat) : Keeps (readLines x0) := by
  unfold readLines
  repeat' first
    | assumption
    | with_reducible (first
        | apply canon_cohAsk | apply canon_countFetch | apply canon_sawShared | exact keeps_noteReads ..)
    | refine canon_foldl (fun _ _ _ => ?_) ?_ _
    | with_reducible (first
        | refine keeps_bind ?_ fun _ => ?_ | refine keeps_modify fun _ _ => ?_)
    | split

theorem keeps_countReads (x0 : Nat) : Keeps (countReads x0) := by
  unfold countReads
  repeat' first | with_reducible (first | exact keeps_modTh .. | refine keeps_get_bind fun _ _ => ?_ | exact keeps_pure _) | split

@[simp] theorem canon_drawn {s : State} (h : CanonMaps s.mem s.peer) (x1 : Nat) (x2 : Access) (x3 : Nat) (x4 : Nat) :
    CanonMaps (State.drawn s x1 x2 x3 x4).mem (State.drawn s x1 x2 x3 x4).peer := by
  unfold State.drawn
  (repeat' split) <;> simp [h]

theorem keeps_viewed (x0 : Access) (x1 : Nat) (x2 : Nat) : Keeps (viewed x0 x1 x2) := by
  unfold viewed
  repeat' first
    | assumption
    | with_reducible (first
        | refine keeps_get_bind fun _ _ => ?_ | refine keeps_bind ?_ fun _ => ?_ | refine keeps_modify fun _ _ => ?_ | exact keeps_pure _)

theorem keeps_memRead (x0 : Word) (x1 : Nat) : Keeps (memRead x0 x1) := by
  unfold memRead
  repeat' first
    | with_reducible (first
        | exact keeps_directOrder .. | exact keeps_checkAccess .. | exact keeps_poisonCheck .. | exact keeps_readLines ..
        | exact keeps_countReads .. | exact keeps_viewed .. | refine keeps_bind ?_ fun _ => ?_ | exact keeps_pure _)

theorem keeps_countLoad (x0 : List Dest) : Keeps (countLoad x0) := by
  unfold countLoad
  repeat' first
    | with_reducible (first
        | exact keeps_modTh .. | exact keeps_modChunk .. | refine keeps_get_bind fun _ _ => ?_ | refine keeps_bind ?_ fun _ => ?_
        | exact keeps_until _)

theorem keeps_loadTo (x0 : Bool) (x1 : Word) (x2 : Nat) (x3 : BitVec 7) : Keeps (loadTo x0 x1 x2 x3) := by
  unfold loadTo
  repeat' first | with_reducible (first | exact keeps_memRead .. | exact keeps_countLoad .. | refine keeps_bind ?_ fun _ => ?_)

theorem steps_execLd {s : State} (x0 : BitVec 8) (x1 : BitVec 2) (x2 : BitVec 7) (x3 : BitVec 7) : Steps s (execLd x0 x1 x2 x3 s) := by
  unfold execLd
  refine steps_issue ?_
  repeat' first | with_reducible (first | exact keeps_eaOff .. | exact keeps_loadTo .. | refine keeps_bind ?_ fun _ => ?_)

theorem steps_execLdz {s : State} (x0 : BitVec 8) (x1 : BitVec 2) (x2 : BitVec 7) (x3 : BitVec 7) : Steps s (execLdz x0 x1 x2 x3 s) := by
  unfold execLdz
  refine steps_issue ?_
  repeat' first | with_reducible (first | exact keeps_eaOff .. | exact keeps_loadTo .. | refine keeps_bind ?_ fun _ => ?_)

theorem keeps_storeEff (x0 : Word) (x1 : Nat) (x2 : Nat) : Keeps (storeEff x0 x1 x2) := by
  unfold storeEff
  repeat' first
    | with_reducible (first
        | exact keeps_directOrder .. | exact keeps_checkAccess .. | refine keeps_get_bind fun _ _ => ?_
        | refine keeps_bind ?_ fun _ => ?_ | exact keeps_pure _)

theorem keeps_countIn (x0 : List (List Eff)) : Keeps (countIn x0) := by
  unfold countIn
  repeat' first
    | assumption
    | with_reducible (first
        | exact keeps_modChunk .. | refine keeps_bind ?_ fun _ => ?_ | refine keeps_modify fun _ _ => ?_)

theorem keeps_roomFor (x0 : Eff) : Keeps (roomFor x0) := by
  unfold roomFor
  repeat' first
    | with_reducible (first
        | exact keeps_error _ | refine keeps_get_bind fun _ _ => ?_ | exact keeps_pure _ | exact keeps_until _)
    | split | dsimp only

@[simp] theorem canon_lateLoads {s : State} (h : CanonMaps s.mem s.peer) (x1 : Nat) (x2 : Access) (x3 : Eff) :
    CanonMaps (State.lateLoads s x1 x2 x3).mem (State.lateLoads s x1 x2 x3).peer := by
  unfold State.lateLoads
  dsimp only
  (repeat' split) <;> simp [h]

@[simp] theorem canon_enter {s : State} (h : CanonMaps s.mem s.peer) (x1 : Access) (x2 : Nat) (x3 : Eff) :
    CanonMaps (State.enter s x1 x2 x3).mem (State.enter s x1 x2 x3).peer := by
  unfold State.enter
  (repeat' split) <;> simp [h]

theorem keeps_enterChunk (x0 : Access) (x1 : List Eff) (x2 : Nat) : Keeps (enterChunk x0 x1 x2) := by
  unfold enterChunk
  repeat' first
    | assumption
    | with_reducible (first
        | exact keeps_error _ | exact keeps_roomFor .. | apply canon_lateLoads | apply canon_enter | exact keeps_modChunk ..
        | refine keeps_get_bind fun _ _ => ?_ | refine keeps_bind ?_ fun _ => ?_ | refine keeps_modify fun _ _ => ?_ | exact keeps_pure _
        | exact keeps_hold _ | refine keeps_forIn (fun _ _ => ?_) _ _)
    | split

theorem keeps_countSingles (x0 : Access) (x1 : List (List Eff)) (x2 : Nat) : Keeps (countSingles x0 x1 x2) := by
  unfold countSingles
  repeat' first
    | with_reducible (first
        | exact keeps_countIn .. | exact keeps_enterChunk .. | refine keeps_get_bind fun _ _ => ?_ | refine keeps_bind ?_ fun _ => ?_
        | exact keeps_until _)
    | split

theorem keeps_countStore (x0 : List Eff) : Keeps (countStore x0) := by
  unfold countStore
  exact keeps_countSingles ..

theorem keeps_storeFrom (x0 : Word) (x1 : Nat) (x2 : Word) : Keeps (storeFrom x0 x1 x2) := by
  unfold storeFrom
  repeat' first | with_reducible (first | exact keeps_storeEff .. | exact keeps_countStore .. | refine keeps_bind ?_ fun _ => ?_)

theorem steps_execSt {s : State} (x0 : BitVec 8) (x1 : BitVec 2) (x2 : BitVec 7) (x3 : BitVec 7) : Steps s (execSt x0 x1 x2 x3 s) := by
  unfold execSt
  refine steps_issue ?_
  repeat' first
    | with_reducible (first
        | exact keeps_eaOff .. | exact keeps_srcC .. | exact keeps_storeFrom .. | refine keeps_bind ?_ fun _ => ?_)

theorem keeps_eaIndex (x0 : BitVec 7) (x1 : BitVec 7) (x2 : BitVec 1) (x3 : Nat) : Keeps (eaIndex x0 x1 x2 x3) := by
  unfold eaIndex
  repeat' first | with_reducible (first | exact keeps_srcC .. | refine keeps_bind ?_ fun _ => ?_ | exact keeps_pure _)

theorem steps_execLdx {s : State} (x0 : BitVec 1) (x1 : BitVec 2) (x2 : BitVec 7) (x3 : BitVec 7) (x4 : BitVec 7) : Steps s (execLdx x0 x1 x2 x3 x4 s) := by
  unfold execLdx
  refine steps_issue ?_
  repeat' first | with_reducible (first | exact keeps_eaIndex .. | exact keeps_loadTo .. | refine keeps_bind ?_ fun _ => ?_)

theorem steps_execStx {s : State} (x0 : BitVec 1) (x1 : BitVec 2) (x2 : BitVec 7) (x3 : BitVec 7) (x4 : BitVec 7) : Steps s (execStx x0 x1 x2 x3 x4 s) := by
  unfold execStx
  refine steps_issue ?_
  repeat' first
    | with_reducible (first
        | exact keeps_eaIndex .. | exact keeps_srcC .. | exact keeps_storeFrom .. | refine keeps_bind ?_ fun _ => ?_)

theorem keeps_checkDwords (x0 : Word) (x1 : Nat) (x2 : Acc) (x3 : Reach) : Keeps (checkDwords x0 x1 x2 x3) := by
  unfold checkDwords
  repeat' first | with_reducible (first | exact keeps_checkAccess .. | refine keeps_mapM (fun _ => ?_) _)

theorem steps_execLdm {s : State} (x0 : BitVec 8) (x1 : BitVec 2) (x2 : BitVec 7) (x3 : BitVec 7) : Steps s (execLdm x0 x1 x2 x3 s) := by
  unfold execLdm
  refine steps_issue ?_
  repeat' first
    | with_reducible (first
        | exact keeps_eaOff .. | exact keeps_directOrder .. | exact keeps_checkDwords .. | exact keeps_poisonCheck ..
        | exact keeps_readLines .. | exact keeps_countReads .. | exact keeps_viewed .. | exact keeps_countLoad ..
        | refine keeps_bind ?_ fun _ => ?_ | exact keeps_pure _ | refine keeps_mapM (fun _ => ?_) _
        | refine keeps_forIn (fun _ _ => ?_) _ _)

theorem steps_execStm {s : State} (x0 : BitVec 8) (x1 : BitVec 2) (x2 : BitVec 7) (x3 : BitVec 7) : Steps s (execStm x0 x1 x2 x3 s) := by
  unfold execStm
  refine steps_issue ?_
  repeat' first
    | with_reducible (first
        | exact keeps_eaOff .. | exact keeps_directOrder .. | exact keeps_checkDwords .. | exact keeps_readX ..
        | exact keeps_countStore .. | refine keeps_get_bind fun _ _ => ?_ | refine keeps_bind ?_ fun _ => ?_
        | refine keeps_mapM (fun _ => ?_) _)

theorem keeps_wordTarget {n : Nat} (x1 : BitVec n) : Keeps (wordTarget x1) := by
  unfold wordTarget
  repeat' first | with_reducible (first | refine keeps_get_bind fun _ _ => ?_ | exact keeps_pure _)

theorem steps_execLdk {s : State} (x0 : BitVec 17) (x1 : BitVec 7) : Steps s (execLdk x0 x1 s) := by
  unfold execLdk
  refine steps_issue ?_
  repeat' first | with_reducible (first | exact keeps_wordTarget .. | exact keeps_loadTo .. | refine keeps_bind ?_ fun _ => ?_)

@[simp] theorem canon_cohHint {s : State} (h : CanonMaps s.mem s.peer) (x1 : Nat) (x2 : Nat) (x3 : Nat) :
    CanonMaps (State.cohHint s x1 x2 x3).mem (State.cohHint s x1 x2 x3).peer := by
  unfold State.cohHint
  (repeat' split) <;> simp [h]

theorem steps_execPf {s : State} (x0 : BitVec 8) (x1 : BitVec 2) (x2 : BitVec 7) (x3 : BitVec 7) : Steps s (execPf x0 x1 x2 x3 s) := by
  unfold execPf
  refine steps_issue ?_
  repeat' first
    | assumption
    | with_reducible (first
        | exact keeps_eaOff .. | apply canon_cohHint | refine keeps_bind ?_ fun _ => ?_ | refine keeps_modify fun _ _ => ?_)
    | split

theorem keeps_atomicRead (x0 : Bool) (x1 : Word) (x2 : Nat) : Keeps (atomicRead x0 x1 x2) := by
  unfold atomicRead
  repeat' first
    | with_reducible (first
        | exact keeps_directOrder .. | exact keeps_checkAccess .. | exact keeps_poisonCheck .. | exact keeps_readLines ..
        | refine keeps_get_bind fun _ _ => ?_ | refine keeps_bind ?_ fun _ => ?_ | exact keeps_pure _)

theorem keeps_uncounted (x0 : Access) (x1 : List Eff) : Keeps (uncounted x0 x1) := by
  unfold uncounted
  repeat' first
    | with_reducible (first
        | exact keeps_modTh .. | exact keeps_directOrder .. | exact keeps_performNow .. | exact keeps_enterChunk ..
        | refine keeps_get_bind fun _ _ => ?_ | refine keeps_bind ?_ fun _ => ?_)
    | split

theorem keeps_atomicWrite (x0 : Bool) (x1 : Nat) (x2 : Nat) (x3 : Nat) : Keeps (atomicWrite x0 x1 x2 x3) := by
  unfold atomicWrite
  repeat' first | with_reducible (first | exact keeps_uncounted .. | refine keeps_get_bind fun _ _ => ?_)

theorem keeps_countDone  : Keeps (countDone) := by
  unfold countDone
  repeat' first
    | with_reducible (first
        | exact keeps_countIn .. | refine keeps_get_bind fun _ _ => ?_ | refine keeps_bind ?_ fun _ => ?_ | exact keeps_until _)

theorem steps_execAmo {s : State} (x0 : BitVec 2) (x1 : BitVec 4) (x2 : BitVec 7) (x3 : BitVec 7) : Steps s (execAmo x0 x1 x2 x3 s) := by
  unfold execAmo
  refine steps_issue ?_
  repeat' first
    | with_reducible (first
        | exact keeps_srcC .. | exact keeps_atomicRead .. | exact keeps_atomicWrite .. | exact keeps_countDone ..
        | refine keeps_bind ?_ fun _ => ?_)

theorem keeps_writeX (x0 : Nat) (x1 : Word) : Keeps (writeX x0 x1) := by
  unfold writeX
  repeat' first | assumption | with_reducible (first | apply canon_setX | refine keeps_modify fun _ _ => ?_)

theorem keeps_dstC (x0 : BitVec 7) (x1 : Word) : Keeps (dstC x0 x1) := by
  unfold dstC
  exact keeps_writeX ..

theorem keeps_M_outstanding (x0 : Option Hold) : Keeps (M.outstanding x0) := by
  unfold M.outstanding
  repeat' first | with_reducible (first | exact keeps_pure _ | exact keeps_hold _) | split

theorem keeps_edgeAtomic (x0 : Bool) (x1 : BitVec 2) (x2 : BitVec 4) (x3 : BitVec 7) (x4 : BitVec 7) : Keeps (edgeAtomic x0 x1 x2 x3 x4) := by
  unfold edgeAtomic
  repeat' first
    | with_reducible (first
        | exact keeps_dstC .. | exact keeps_srcC .. | exact keeps_M_outstanding .. | exact keeps_directOrder ..
        | exact keeps_checkAccess .. | exact keeps_modTh .. | refine keeps_get_bind fun _ _ => ?_ | refine keeps_bind ?_ fun _ => ?_
        | exact keeps_pure _ | exact keeps_trap _ | exact keeps_park _)
    | split

theorem steps_execAmof {s : State} (x0 : BitVec 2) (x1 : BitVec 4) (x2 : BitVec 7) (x3 : BitVec 7) : Steps s (execAmof x0 x1 x2 x3 s) := by
  unfold execAmof
  refine steps_issue ?_
  repeat' first
    | with_reducible (first
        | exact keeps_srcC .. | exact keeps_atomicRead .. | exact keeps_atomicWrite .. | exact keeps_countLoad ..
        | refine keeps_bind ?_ fun _ => ?_)

theorem keeps_casMissed (x0 : Nat) (x1 : Nat) : Keeps (casMissed x0 x1) := by
  unfold casMissed
  repeat' first
    | assumption
    | with_reducible (first
        | exact keeps_countEntries .. | refine keeps_bind ?_ fun _ => ?_ | refine keeps_modify fun _ _ => ?_)

theorem steps_execCas {s : State} (x0 : BitVec 1) (x1 : BitVec 7) (x2 : BitVec 7) (x3 : BitVec 7) : Steps s (execCas x0 x1 x2 x3 s) := by
  unfold execCas
  refine steps_issue ?_
  repeat' first
    | with_reducible (first
        | exact keeps_srcC .. | exact keeps_atomicRead .. | exact keeps_countLoad .. | exact keeps_atomicWrite ..
        | exact keeps_casMissed .. | refine keeps_bind ?_ fun _ => ?_)
    | split

theorem keeps_resvAddr (x0 : Word) (x1 : Nat) (x2 : Acc) : Keeps (resvAddr x0 x1 x2) := by
  unfold resvAddr
  repeat' first
    | with_reducible (first
        | exact keeps_checkAccess .. | refine keeps_bind ?_ fun _ => ?_ | exact keeps_pure _ | exact keeps_lift _)
    | split

theorem keeps_qresAnswer {x y : M Unit} {w : Word → M Unit} {tail : Option Hold → M Unit} (hw : ∀ v, Keeps (w v)) (hx : Keeps x) (hy : Keeps y)
    (ht : ∀ h, Keeps (tail h)) (o : Option Hold) : Keeps (match o with
      | some (.qresReply v false) => w v
      | some (.qresReply _ true) => x
      | some .qresPoison => y
      | h => tail h) := by
  cases o with
  | none => exact ht none
  | some h =>
    cases h
    case qresReply v b => cases b; exacts [hw v, hx]
    case qresPoison => exact hy
    all_goals exact ht _

theorem steps_execQres {s : State} (z : BitVec 1) (a d : BitVec 7) : Steps s (execQres z a d s) := by
  refine steps_issue (keeps_bind (keeps_srcC ..) fun p => keeps_get_bind fun t _ => keeps_qresAnswer (fun _ => keeps_dstC ..) (keeps_trap _) (keeps_trap _) (fun _ => ?_) _)
  refine keeps_bind (keeps_M_outstanding ..) fun _ => keeps_bind (keeps_require ..) fun _ => keeps_bind (keeps_resvAddr ..) fun pa => ?_
  exact keeps_bind (keeps_modify fun _ h => h) fun _ => keeps_park _

theorem steps_execQrel {s : State} (x0 : BitVec 1) (x1 : BitVec 7) (x2 : BitVec 7) : Steps s (execQrel x0 x1 x2 s) := by
  unfold execQrel
  refine steps_issue ?_
  repeat' first
    | assumption
    | with_reducible (first
        | exact keeps_srcC .. | exact keeps_M_outstanding .. | exact keeps_resvAddr .. | exact keeps_performNow .. | exact keeps_modTh ..
        | refine keeps_get_bind fun _ _ => ?_ | refine keeps_bind ?_ fun _ => ?_ | refine keeps_modify fun _ _ => ?_ | exact keeps_pure _
        | exact keeps_require _ _ | exact keeps_park _)
    | split

theorem keeps_readArch  : Keeps (readArch) := by
  unfold readArch
  repeat' first | with_reducible (first | refine keeps_get_bind fun _ _ => ?_ | exact keeps_pure _)

theorem keeps_readK (x0 : Nat) : Keeps (readK x0) := by
  unfold readK
  repeat' first | with_reducible (first | exact keeps_readArch .. | refine keeps_bind ?_ fun _ => ?_ | exact keeps_pure _)

theorem keeps_jumpTo (x0 : Word) : Keeps (jumpTo x0) := by
  unfold jumpTo
  repeat' first | assumption | with_reducible refine keeps_modify fun _ _ => ?_

theorem keeps_branchIf {n : Nat} (x1 : Bool) (x2 : BitVec n) : Keeps (branchIf x1 x2) := by
  unfold branchIf
  repeat' first
    | with_reducible (first
        | exact keeps_wordTarget .. | exact keeps_jumpTo .. | refine keeps_bind ?_ fun _ => ?_ | exact keeps_pure _)
    | split

theorem steps_execBr {s : State} (x0 : BitVec 20) (x1 : BitVec 1) (x2 : BitVec 3) : Steps s (execBr x0 x1 x2 s) := by
  unfold execBr
  refine steps_issue ?_
  repeat' first | with_reducible (first | exact keeps_readK .. | exact keeps_branchIf .. | refine keeps_bind ?_ fun _ => ?_)

theorem steps_execBrEnd {s : State} (x0 : BitVec 17) (x1 : BitVec 1) (x2 : BitVec 4) : Steps s (execBrEnd x0 x1 x2 s) := by
  unfold execBrEnd
  refine steps_issue ?_
  repeat' first | with_reducible (first | exact keeps_readArch .. | exact keeps_branchIf .. | refine keeps_bind ?_ fun _ => ?_)

theorem keeps_nextAddress  : Keeps (nextAddress) := by
  unfold nextAddress
  repeat' first | with_reducible (first | refine keeps_get_bind fun _ _ => ?_ | exact keeps_pure _)

theorem steps_execJal {s : State} (x0 : BitVec 17) (x1 : BitVec 7) : Steps s (execJal x0 x1 s) := by
  unfold execJal
  refine steps_issue ?_
  repeat' first
    | with_reducible (first
        | exact keeps_nextAddress .. | exact keeps_dstC .. | exact keeps_branchIf .. | refine keeps_bind ?_ fun _ => ?_)

theorem steps_execJalr {s : State} (x0 : BitVec 10) (x1 : BitVec 7) (x2 : BitVec 7) : Steps s (execJalr x0 x1 x2 s) := by
  unfold execJalr
  refine steps_issue ?_
  repeat' first
    | with_reducible (first
        | exact keeps_srcC .. | exact keeps_nextAddress .. | exact keeps_dstC .. | exact keeps_jumpTo ..
        | refine keeps_bind ?_ fun _ => ?_ | exact keeps_trap _)
    | split | dsimp only

theorem steps_execLoop {s : State} (x0 : BitVec 17) (x1 : BitVec 7) : Steps s (execLoop x0 x1 s) := by
  unfold execLoop
  refine steps_issue ?_
  repeat' first
    | with_reducible (first
        | exact keeps_srcC .. | exact keeps_dstC .. | exact keeps_branchIf .. | refine keeps_bind ?_ fun _ => ?_ | exact keeps_pure _)
    | split

@[simp] theorem canon_setArch {s : State} (h : CanonMaps s.mem s.peer) (x1 : Arch) :
    CanonMaps (State.setArch s x1).mem (State.setArch s x1).peer := by
  unfold State.setArch
  (repeat' split) <;> simp [h]

theorem keeps_modArch (x0 : Arch → Arch) : Keeps (modArch x0) := by
  unfold modArch
  repeat' first | assumption | with_reducible refine keeps_modify fun _ _ => ?_

theorem keeps_setStream (x0 : Nat) (x1 : Stream) : Keeps (setStream x0 x1) := by
  unfold setStream
  exact keeps_modArch ..

theorem steps_execSopen {s : State} (x0 : BitVec 1) (x1 : BitVec 1) (x2 : BitVec 1) (x3 : BitVec 2) (x4 : BitVec 5) (x5 : BitVec 7) : Steps s (execSopen x0 x1 x2 x3 x4 x5 s) := by
  unfold execSopen
  refine steps_issue ?_
  repeat' first
    | with_reducible (first
        | exact keeps_readX .. | exact keeps_setStream .. | refine keeps_get_bind fun _ _ => ?_ | refine keeps_bind ?_ fun _ => ?_
        | exact keeps_trap _ | exact keeps_require _ _ | refine keeps_mapM (fun _ => ?_) _)
    | split

theorem keeps_fixEntries (x0 : Entry → Bool) : Keeps (fixEntries x0) := by
  unfold fixEntries
  exact keeps_modChunk ..

theorem steps_execSclose {s : State} (x0 : BitVec 5) : Steps s (execSclose x0 s) := by
  unfold execSclose
  refine steps_issue ?_
  repeat' first
    | with_reducible (first
        | exact keeps_modArch .. | exact keeps_fixEntries .. | exact keeps_modChunk .. | refine keeps_get_bind fun _ _ => ?_
        | refine keeps_bind ?_ fun _ => ?_ | exact keeps_pure _)
    | split

theorem steps_execSseek {s : State} (x0 : BitVec 5) (x1 : BitVec 7) : Steps s (execSseek x0 x1 s) := by
  unfold execSseek
  refine steps_issue ?_
  repeat' first
    | with_reducible (first
        | exact keeps_srcC .. | exact keeps_setStream .. | refine keeps_get_bind fun _ _ => ?_ | refine keeps_bind ?_ fun _ => ?_
        | exact keeps_trap _ | exact keeps_require _ _)
    | split

theorem steps_execSpos {s : State} (x0 : BitVec 5) (x1 : BitVec 7) : Steps s (execSpos x0 x1 s) := by
  unfold execSpos
  refine steps_issue ?_
  repeat' first | with_reducible (first | exact keeps_readArch .. | exact keeps_dstC .. | refine keeps_bind ?_ fun _ => ?_)

theorem steps_execFence {s : State}  : Steps s (execFence s) := by
  unfold execFence
  repeat' first
    | refine steps_issue ?_
    | with_reducible (first
        | exact keeps_fixEntries .. | refine keeps_get_bind fun _ _ => ?_ | refine keeps_bind ?_ fun _ => ?_ | exact keeps_until _)

theorem steps_execFenceE {s : State}  : Steps s (execFenceE s) := by
  unfold execFenceE
  repeat' first | refine steps_issue ?_ | with_reducible (first | refine keeps_get_bind fun _ _ => ?_ | exact keeps_until _)

theorem steps_execWait {s : State} (x0 : BitVec 4) (x1 : BitVec 4) (x2 : BitVec 4) (x3 : BitVec 4) : Steps s (execWait x0 x1 x2 x3 s) := by
  unfold execWait
  refine steps_issue ?_
  repeat' first
    | with_reducible (first
        | exact keeps_fixEntries .. | refine keeps_get_bind fun _ _ => ?_ | refine keeps_bind ?_ fun _ => ?_ | exact keeps_trap _
        | exact keeps_until _)
    | split

theorem steps_execMona {s : State} (x0 : BitVec 10) (x1 : BitVec 7) (x2 : BitVec 2) : Steps s (execMona x0 x1 x2 s) := by
  unfold execMona
  refine steps_issue ?_
  repeat' first
    | with_reducible (first
        | exact keeps_srcC .. | exact keeps_checkAccess .. | exact keeps_modTh .. | refine keeps_bind ?_ fun _ => ?_)

theorem keeps_monwDone (x0 : BitVec 7) (x1 : Word) : Keeps (monwDone x0 x1) := by
  unfold monwDone
  repeat' first | with_reducible (first | exact keeps_dstC .. | exact keeps_modTh .. | refine keeps_bind ?_ fun _ => ?_)

theorem steps_execMonw {s : State} (x0 : BitVec 7) (x1 : BitVec 7) : Steps s (execMonw x0 x1 s) := by
  unfold execMonw
  refine steps_issue ?_
  repeat' first
    | with_reducible (first
        | exact keeps_srcC .. | exact keeps_monwDone .. | refine keeps_get_bind fun _ _ => ?_ | refine keeps_bind ?_ fun _ => ?_
        | exact keeps_hold _)
    | split | dsimp only

@[simp] theorem canon_setWatch {s : State} (h : CanonMaps s.mem s.peer) (x1 : Nat) (x2 : Nat) :
    CanonMaps (State.setWatch s x1 x2).mem (State.setWatch s x1 x2).peer := by
  unfold State.setWatch
  (repeat' split) <;> simp [h]

theorem steps_execWatch {s : State} (x0 : BitVec 10) (x1 : BitVec 7) : Steps s (execWatch x0 x1 s) := by
  unfold execWatch
  refine steps_issue ?_
  repeat' first
    | assumption
    | with_reducible (first
        | exact keeps_srcC .. | exact keeps_checkAccess .. | exact keeps_readLines .. | exact keeps_modChunk ..
        | refine keeps_get_bind fun _ _ => ?_ | refine keeps_bind ?_ fun _ => ?_ | refine keeps_set ?_ | exact keeps_lift _)
    | split

theorem keeps_wsleepDone (x0 : BitVec 7) (x1 : Word) : Keeps (wsleepDone x0 x1) := by
  unfold wsleepDone
  repeat' first
    | with_reducible (first
        | exact keeps_dstC .. | exact keeps_modTh .. | refine keeps_get_bind fun _ _ => ?_ | refine keeps_bind ?_ fun _ => ?_)

theorem steps_execWsleep {s : State} (x0 : BitVec 7) (x1 : BitVec 7) : Steps s (execWsleep x0 x1 s) := by
  unfold execWsleep
  refine steps_issue ?_
  repeat' first
    | with_reducible (first
        | exact keeps_srcC .. | exact keeps_wsleepDone .. | refine keeps_get_bind fun _ _ => ?_ | refine keeps_bind ?_ fun _ => ?_
        | exact keeps_hold _)
    | split | dsimp only

theorem steps_execCut {s : State}  : Steps s (execCut s) := by
  unfold execCut
  repeat' first | refine steps_issue ?_ | with_reducible exact keeps_pure _

theorem keeps_freeLaunch  : Keeps (freeLaunch) := by
  unfold freeLaunch
  repeat' first | with_reducible (first | refine keeps_get_bind fun _ _ => ?_ | exact keeps_require _ _)

theorem steps_execDirect {s : State}  : Steps s (execDirect s) := by
  unfold execDirect
  repeat' first
    | refine steps_issue ?_
    | with_reducible (first
        | exact keeps_freeLaunch .. | exact keeps_modArch .. | refine keeps_bind ?_ fun _ => ?_)

theorem steps_execResume {s : State}  : Steps s (execResume s) := by
  unfold execResume
  repeat' first
    | refine steps_issue ?_
    | with_reducible (first
        | exact keeps_freeLaunch .. | exact keeps_modArch .. | refine keeps_bind ?_ fun _ => ?_)

theorem keeps_lockAddr (x0 : BitVec 7) : Keeps (lockAddr x0) := by
  unfold lockAddr
  repeat' first
    | with_reducible (first
        | exact keeps_srcC .. | exact keeps_checkAccess .. | refine keeps_bind ?_ fun _ => ?_ | exact keeps_pure _ | exact keeps_lift _)
    | split

@[simp] theorem canon_lockLine {s : State} (h : CanonMaps s.mem s.peer) (line : Nat) (owner : Option Nat) :
    CanonMaps (State.lockLine s line owner).2.mem (State.lockLine s line owner).2.peer := by
  unfold State.lockLine
  repeat' first | assumption | with_reducible (first | apply canon_cohDrain | apply canon_cohAsk) | split

theorem keeps_writeKBit (x0 : Nat) (x1 : Bool) : Keeps (writeKBit x0 x1) := by
  unfold writeKBit
  exact keeps_modArch ..

theorem steps_execLock {s : State} (x0 : BitVec 7) (x1 : BitVec 3) : Steps s (execLock x0 x1 s) := by
  unfold execLock
  refine steps_issue ?_
  repeat' first
    | assumption
    | with_reducible (first
        | exact keeps_lockAddr .. | apply canon_lockLine | exact keeps_writeKBit .. | refine keeps_get_bind fun _ _ => ?_
        | refine keeps_bind ?_ fun _ => ?_ | refine keeps_set ?_)

theorem keeps_unlockAddr (x0 : BitVec 7) : Keeps (unlockAddr x0) := by
  unfold unlockAddr
  repeat' first
    | with_reducible (first
        | exact keeps_srcC .. | exact keeps_xlatAt .. | refine keeps_get_bind fun _ _ => ?_ | refine keeps_bind ?_ fun _ => ?_
        | exact keeps_pure _ | exact keeps_trap _ | exact keeps_lift _)
    | split | dsimp only

@[simp] theorem canon_unlockLine {s : State} (h : CanonMaps s.mem s.peer) (x1 : Nat) (x2 : Option Nat) :
    CanonMaps (State.unlockLine s x1 x2).mem (State.unlockLine s x1 x2).peer := by
  unfold State.unlockLine
  (repeat' split) <;> simp [h]

theorem steps_execUnlock {s : State} (x0 : BitVec 7) : Steps s (execUnlock x0 s) := by
  unfold execUnlock
  refine steps_issue ?_
  repeat' first
    | assumption
    | with_reducible (first
        | exact keeps_unlockAddr .. | apply canon_unlockLine | refine keeps_bind ?_ fun _ => ?_ | refine keeps_modify fun _ _ => ?_
        | exact keeps_pure _)
    | split

theorem keeps_rangeLines : ∀ (k : Nat) (va : Word) (n : Nat), Keeps (rangeLines k va n)
  | 0, _, _ => keeps_pure _
  | k + 1, va, n => by
    unfold rangeLines
    repeat' first
    | exact keeps_xlatAt .. | exact keeps_rangeLines ..
    | with_reducible (first
        | refine keeps_get_bind fun _ _ => ?_ | refine keeps_bind ?_ fun _ => ?_ | exact keeps_pure _ | exact keeps_trap _
        | exact keeps_lift _)
    | split

theorem keeps_rangeOf (x0 : BitVec 7) (x1 : BitVec 7) : Keeps (rangeOf x0 x1) := by
  unfold rangeOf
  repeat' first
    | with_reducible exact keeps_srcC .. | exact keeps_rangeLines ..
    | with_reducible (first
        | refine keeps_bind ?_ fun _ => ?_ | exact keeps_require _ _)

@[simp] theorem canon_cohClean {s : State} (h : CanonMaps s.mem s.peer) (x1 : Nat) :
    CanonMaps (State.cohClean s x1).mem (State.cohClean s x1).peer := by
  unfold State.cohClean
  repeat' first
    | assumption
    | with_reducible (first
        | apply canon_cohDrain | apply canon_setDir)
    | refine canon_foldl (fun _ _ _ => ?_) ?_ _

theorem steps_execClean {s : State} (x0 : BitVec 7) (x1 : BitVec 7) : Steps s (execClean x0 x1 s) := by
  unfold execClean
  refine steps_issue ?_
  repeat' first
    | assumption
    | with_reducible (first
        | exact keeps_rangeOf .. | apply canon_cohClean | exact keeps_countDone ..)
    | refine canon_foldl (fun _ _ _ => ?_) ?_ _
    | with_reducible (first
        | refine keeps_bind ?_ fun _ => ?_ | refine keeps_modify fun _ _ => ?_)

@[simp] theorem canon_cohInval {s : State} (h : CanonMaps s.mem s.peer) (x1 : Nat) :
    CanonMaps (State.cohInval s x1).mem (State.cohInval s x1).peer := by
  unfold State.cohInval
  (repeat' split) <;> simp [h]

theorem steps_execInval {s : State} (x0 : BitVec 7) (x1 : BitVec 7) : Steps s (execInval x0 x1 s) := by
  unfold execInval
  refine steps_issue ?_
  repeat' first
    | assumption
    | with_reducible (first
        | exact keeps_rangeOf .. | apply canon_cohInval | exact keeps_countDone ..)
    | refine canon_foldl (fun _ _ _ => ?_) ?_ _
    | with_reducible (first
        | refine keeps_bind ?_ fun _ => ?_ | refine keeps_modify fun _ _ => ?_)

@[simp] theorem canon_iflushLine {s : State} (h : CanonMaps s.mem s.peer) (x1 : Nat) :
    CanonMaps (State.iflushLine s x1).mem (State.iflushLine s x1).peer := by
  unfold State.iflushLine
  (repeat' split) <;> simp [h]

theorem steps_execIflush {s : State} (x0 : BitVec 7) (x1 : BitVec 7) : Steps s (execIflush x0 x1 s) := by
  unfold execIflush
  refine steps_issue ?_
  repeat' first
    | assumption
    | with_reducible (first
        | exact keeps_rangeOf .. | apply canon_iflushLine)
    | refine canon_foldl (fun _ _ _ => ?_) ?_ _
    | with_reducible (first
        | refine keeps_bind ?_ fun _ => ?_ | refine keeps_modify fun _ _ => ?_)

theorem steps_execIsync {s : State}  : Steps s (execIsync s) := by
  unfold execIsync
  repeat' first | refine steps_issue ?_ | with_reducible exact keeps_modTh ..

theorem keeps_activeOf (x0 : BitVec 3) (x1 : Nat) : Keeps (activeOf x0 x1) := by
  unfold activeOf
  repeat' first | with_reducible (first | exact keeps_readArch .. | refine keeps_bind ?_ fun _ => ?_ | exact keeps_pure _)

theorem keeps_unitAddrs (x0 : BitVec 7) (x1 : BitVec 6) (x2 : Nat) (x3 : Nat) : Keeps (unitAddrs x0 x1 x2 x3) := by
  unfold unitAddrs
  repeat' first | with_reducible (first | exact keeps_srcC .. | refine keeps_bind ?_ fun _ => ?_ | exact keeps_pure _)

theorem keeps_atIndex {α : Type} {m : M α} (hm : Keeps m) (j : Nat) : Keeps (atIndex j m) := by
  refine ⟨fun s a t h e => ?_⟩
  unfold atIndex at e
  split at e
  · cases e
  · exact hm.step s a t h e

theorem keeps_checkElems (x0 : List (Nat × Word)) (x1 : Nat) (x2 : Bool) : Keeps (checkElems x0 x1 x2) := by
  unfold checkElems
  repeat' first
    | with_reducible (first
        | exact keeps_directOrder .. | refine keeps_atIndex ?_ _ | exact keeps_checkAccess .. | exact keeps_poisonCheck ..
        | refine keeps_bind ?_ fun _ => ?_ | exact keeps_pure _ | refine keeps_mapM (fun _ => ?_) _)
    | split

theorem keeps_readElems (x0 : List (Nat × Nat)) (x1 : Nat) (x2 : Bool) : Keeps (readElems x0 x1 x2) := by
  unfold readElems
  repeat' first
    | with_reducible (first
        | exact keeps_viewed .. | exact keeps_countEntries .. | exact keeps_countReads .. | refine keeps_get_bind fun _ _ => ?_
        | refine keeps_bind ?_ fun _ => ?_ | exact keeps_pure _ | exact keeps_hold _ | refine keeps_mapM (fun _ => ?_) _)
    | split | dsimp only

theorem keeps_atElement {α : Type} {m : M α} (hm : Keeps m) (code : Nat) (b : Stream) : Keeps (atElement code b m) := by
  refine ⟨fun s a t h e => ?_⟩
  unfold atElement at e
  dsimp only at e
  split at e
  · cases e
  · cases e
  · next hs =>
    have h1 := hm.elim h hs
    cases e
    exact h1

theorem keeps_pushStream (x0 : Nat) (x1 : Stream) (x2 : Nat) : Keeps (pushStream x0 x1 x2) := by
  unfold pushStream
  repeat' first
    | with_reducible (first
        | exact keeps_setStream .. | refine keeps_atElement ?_ .. | exact keeps_storeEff .. | exact keeps_uncounted ..
        | refine keeps_bind ?_ fun _ => ?_ | exact keeps_trap _)
    | split | dsimp only

theorem keeps_pushW (x0 : Nat) (x1 : List Byte) : Keeps (pushW x0 x1) := by
  unfold pushW
  repeat' first
    | with_reducible (first
        | exact keeps_pushStream .. | refine keeps_get_bind fun _ _ => ?_ | refine keeps_bind ?_ fun _ => ?_ | exact keeps_pure _
        | exact keeps_trap _ | refine keeps_forIn (fun _ _ => ?_) _ _)
    | split

theorem keeps_dstV (x0 : BitVec 5) (x1 : Nat) (x2 : List (Option Nat)) (x3 : Bool) : Keeps (dstV x0 x1 x2 x3) := by
  unfold dstV
  repeat' first | with_reducible (first | exact keeps_modArch .. | exact keeps_pushW ..) | split

theorem keeps_vecLoad (x0 : List Bool) (x1 : List Word) (x2 : Nat) (x3 : BitVec 5) (x4 : Bool) : Keeps (vecLoad x0 x1 x2 x3 x4) := by
  unfold vecLoad
  repeat' first
    | with_reducible (first
        | exact keeps_checkElems .. | exact keeps_readLines .. | exact keeps_readElems .. | exact keeps_countLoad ..
        | exact keeps_dstV .. | refine keeps_bind ?_ fun _ => ?_)
    | split

theorem steps_execVld {s : State} (x0 : BitVec 6) (x1 : BitVec 1) (x2 : BitVec 3) (x3 : BitVec 7) (x4 : BitVec 2) (x5 : BitVec 5) : Steps s (execVld x0 x1 x2 x3 x4 x5 s) := by
  unfold execVld
  repeat' first
    | refine steps_issue ?_
    | with_reducible (first
        | exact keeps_activeOf .. | exact keeps_unitAddrs .. | exact keeps_vecLoad .. | refine keeps_bind ?_ fun _ => ?_)

theorem keeps_holdPop {α : Type} (x0 x1 : Nat) : Keeps (holdPop x0 x1 : M α) := by
  unfold holdPop
  repeat' first | with_reducible (first | refine keeps_get_bind fun _ _ => ?_ | exact keeps_hold _)

theorem keeps_notePopped (x0 : Nat) (x1 : Nat) : Keeps (notePopped x0 x1) := by
  unfold notePopped
  repeat' first | assumption | with_reducible refine keeps_modify fun _ _ => ?_

theorem keeps_popBytes (x0 : Nat) (x1 : Nat) : Keeps (popBytes x0 x1) := by
  unfold popBytes
  repeat' first
    | assumption
    | with_reducible (first
        | apply keeps_holdPop | exact keeps_modTh .. | exact keeps_modChunk .. | apply canon_refill | exact keeps_notePopped ..
        | refine keeps_get_bind fun _ _ => ?_ | refine keeps_bind ?_ fun _ => ?_ | refine keeps_modify fun _ _ => ?_ | exact keeps_pure _)
    | split | dsimp only

theorem keeps_readElement (x0 : Nat) (x1 : Stream) (x2 : Nat) (x3 : Nat) : Keeps (readElement x0 x1 x2 x3) := by
  unfold readElement
  repeat' first
    | assumption
    | with_reducible (first
        | exact keeps_error _ | exact keeps_readLines .. | exact keeps_countEntries .. | refine keeps_get_bind fun _ _ => ?_
        | refine keeps_bind ?_ fun _ => ?_ | refine keeps_modify fun _ _ => ?_ | exact keeps_pure _)
    | split

theorem keeps_popStream (x0 : Nat) (x1 : Stream) : Keeps (popStream x0 x1) := by
  unfold popStream
  repeat' first
    | with_reducible (first
        | exact keeps_setStream .. | refine keeps_atElement ?_ .. | exact keeps_directOrder .. | exact keeps_checkAccess ..
        | exact keeps_readElement .. | refine keeps_get_bind fun _ _ => ?_ | refine keeps_bind ?_ fun _ => ?_ | exact keeps_pure _
        | exact keeps_trap _)
    | split | dsimp only

theorem keeps_popW (x0 : Nat) (x1 : Nat) : Keeps (popW x0 x1) := by
  unfold popW
  repeat' first
    | with_reducible (first
        | exact keeps_popBytes .. | exact keeps_popStream .. | refine keeps_get_bind fun _ _ => ?_ | refine keeps_bind ?_ fun _ => ?_
        | exact keeps_pure _ | exact keeps_trap _ | refine keeps_forIn (fun _ _ => ?_) _ _)
    | split

theorem keeps_srcV (x0 : BitVec 5) (x1 : Nat) (x2 : List Bool) (x3 : Bool) : Keeps (srcV x0 x1 x2 x3) := by
  unfold srcV
  repeat' first
    | with_reducible (first
        | exact keeps_readArch .. | exact keeps_popW .. | refine keeps_bind ?_ fun _ => ?_ | exact keeps_pure _)
    | split

theorem keeps_vecStore (x0 : List Bool) (x1 : List Word) (x2 : Nat) (x3 : List Nat) : Keeps (vecStore x0 x1 x2 x3) := by
  unfold vecStore
  repeat' first
    | with_reducible (first
        | exact keeps_checkElems .. | exact keeps_countSingles .. | refine keeps_get_bind fun _ _ => ?_
        | refine keeps_bind ?_ fun _ => ?_)

theorem steps_execVst {s : State} (x0 : BitVec 6) (x1 : BitVec 1) (x2 : BitVec 3) (x3 : BitVec 7) (x4 : BitVec 2) (x5 : BitVec 5) : Steps s (execVst x0 x1 x2 x3 x4 x5 s) := by
  unfold execVst
  repeat' first
    | refine steps_issue ?_
    | with_reducible (first
        | exact keeps_activeOf .. | exact keeps_unitAddrs .. | exact keeps_srcV .. | exact keeps_vecStore ..
        | refine keeps_bind ?_ fun _ => ?_)

theorem keeps_stridedAddrs (x0 : BitVec 7) (x1 : BitVec 7) (x2 : Nat) : Keeps (stridedAddrs x0 x1 x2) := by
  unfold stridedAddrs
  repeat' first | with_reducible (first | exact keeps_srcC .. | refine keeps_bind ?_ fun _ => ?_ | exact keeps_pure _)

theorem steps_execVlds {s : State} (x0 : BitVec 3) (x1 : BitVec 7) (x2 : BitVec 7) (x3 : BitVec 1) (x4 : BitVec 5) : Steps s (execVlds x0 x1 x2 x3 x4 s) := by
  unfold execVlds
  refine steps_issue ?_
  repeat' first
    | with_reducible (first
        | exact keeps_activeOf .. | exact keeps_stridedAddrs .. | exact keeps_vecLoad .. | refine keeps_bind ?_ fun _ => ?_)

theorem steps_execVsts {s : State} (x0 : BitVec 3) (x1 : BitVec 7) (x2 : BitVec 7) (x3 : BitVec 1) (x4 : BitVec 5) : Steps s (execVsts x0 x1 x2 x3 x4 s) := by
  unfold execVsts
  refine steps_issue ?_
  repeat' first
    | with_reducible (first
        | exact keeps_activeOf .. | exact keeps_stridedAddrs .. | exact keeps_srcV .. | exact keeps_vecStore ..
        | refine keeps_bind ?_ fun _ => ?_)

theorem keeps_indexedAddrs (x0 : BitVec 7) (x1 : Nat) (x2 : Bool) (x3 : List Nat) : Keeps (indexedAddrs x0 x1 x2 x3) := by
  unfold indexedAddrs
  repeat' first | with_reducible (first | exact keeps_srcC .. | refine keeps_bind ?_ fun _ => ?_ | exact keeps_pure _)

theorem steps_execVgat {s : State} (x0 : BitVec 3) (x1 : BitVec 1) (x2 : BitVec 5) (x3 : BitVec 7) (x4 : BitVec 1) (x5 : BitVec 5) : Steps s (execVgat x0 x1 x2 x3 x4 x5 s) := by
  unfold execVgat
  repeat' first
    | refine steps_issue ?_
    | with_reducible (first
        | exact keeps_activeOf .. | exact keeps_srcV .. | exact keeps_indexedAddrs .. | exact keeps_vecLoad ..
        | refine keeps_bind ?_ fun _ => ?_)

theorem steps_execVsct {s : State} (x0 : BitVec 3) (x1 : BitVec 1) (x2 : BitVec 5) (x3 : BitVec 7) (x4 : BitVec 1) (x5 : BitVec 5) : Steps s (execVsct x0 x1 x2 x3 x4 x5 s) := by
  unfold execVsct
  repeat' first
    | refine steps_issue ?_
    | with_reducible (first
        | exact keeps_activeOf .. | exact keeps_srcV .. | exact keeps_indexedAddrs .. | exact keeps_vecStore ..
        | refine keeps_bind ?_ fun _ => ?_)

theorem keeps_issueCopy (x0 : Word) (x1 : Word) (x2 : Word) (x3 : Word) (x4 : Bool) : Keeps (issueCopy x0 x1 x2 x3 x4) := by
  unfold issueCopy
  repeat' first
    | assumption
    | with_reducible (first
        | exact keeps_modTh .. | refine keeps_get_bind fun _ _ => ?_ | refine keeps_bind ?_ fun _ => ?_
        | refine keeps_modify fun _ _ => ?_ | exact keeps_trap _ | exact keeps_require _ _ | exact keeps_until _)
    | split

theorem steps_execCpy {s : State} (x0 : BitVec 7) (x1 : BitVec 7) (x2 : BitVec 7) : Steps s (execCpy x0 x1 x2 s) := by
  unfold execCpy
  refine steps_issue ?_
  repeat' first | with_reducible (first | exact keeps_srcC .. | exact keeps_issueCopy .. | refine keeps_bind ?_ fun _ => ?_)

theorem steps_execCpyw {s : State} (x0 : BitVec 7) (x1 : BitVec 7) (x2 : BitVec 7) : Steps s (execCpyw x0 x1 x2 s) := by
  unfold execCpyw
  refine steps_issue ?_
  repeat' first
    | with_reducible (first
        | exact keeps_srcC .. | exact keeps_readX .. | exact keeps_issueCopy .. | refine keeps_bind ?_ fun _ => ?_)

theorem keeps_issueMsg (x0 : Word) (x1 : Word) : Keeps (issueMsg x0 x1) := by
  unfold issueMsg
  repeat' first
    | assumption
    | with_reducible (first
        | exact keeps_performNow .. | refine keeps_get_bind fun _ _ => ?_ | refine keeps_bind ?_ fun _ => ?_ | refine keeps_set ?_
        | exact keeps_require _ _)

theorem steps_execMsend {s : State} (x0 : BitVec 7) (x1 : BitVec 7) : Steps s (execMsend x0 x1 s) := by
  unfold execMsend
  refine steps_issue ?_
  repeat' first | with_reducible (first | exact keeps_srcC .. | exact keeps_issueMsg .. | refine keeps_bind ?_ fun _ => ?_)

theorem steps_execChbind {s : State} (x0 : BitVec 5) (x1 : BitVec 7) : Steps s (execChbind x0 x1 s) := by
  unfold execChbind
  refine steps_issue ?_
  repeat' first
    | assumption
    | with_reducible (first
        | exact keeps_srcC .. | exact keeps_modArch .. | refine keeps_get_bind fun _ _ => ?_ | refine keeps_bind ?_ fun _ => ?_
        | refine keeps_set ?_ | exact keeps_trap _ | exact keeps_require _ _)
    | split | dsimp only

theorem steps_execChunbind {s : State} (x0 : BitVec 5) : Steps s (execChunbind x0 s) := by
  unfold execChunbind
  refine steps_issue ?_
  repeat' first
    | assumption
    | with_reducible (first
        | exact keeps_modArch .. | exact keeps_modTh .. | refine keeps_get_bind fun _ _ => ?_ | refine keeps_bind ?_ fun _ => ?_
        | refine keeps_set ?_ | exact keeps_pure _)
    | split

theorem steps_execRedcfg {s : State} (x0 : BitVec 7) (x1 : BitVec 7) : Steps s (execRedcfg x0 x1 s) := by
  unfold execRedcfg
  refine steps_issue ?_
  repeat' first
    | assumption
    | with_reducible (first
        | exact keeps_srcC .. | refine keeps_get_bind fun _ _ => ?_ | refine keeps_bind ?_ fun _ => ?_ | refine keeps_set ?_
        | exact keeps_hold _ | exact keeps_require _ _)
    | split | dsimp only

theorem steps_execRedc {s : State} (x0 : BitVec 4) (x1 : BitVec 2) (x2 : BitVec 7) (x3 : BitVec 5) : Steps s (execRedc x0 x1 x2 x3 s) := by
  unfold execRedc
  refine steps_issue ?_
  repeat' first
    | assumption
    | with_reducible (first
        | exact keeps_srcC .. | exact keeps_srcV .. | refine keeps_get_bind fun _ _ => ?_ | refine keeps_bind ?_ fun _ => ?_
        | refine keeps_modify fun _ _ => ?_ | exact keeps_cause _ | exact keeps_hold _ | exact keeps_require _ _)
    | split

@[simp] theorem canon_walkLines {s : State} (h : CanonMaps s.mem s.peer) (x1 : Option Nat) (x2 : List Nat) :
    CanonMaps (State.walkLines s x1 x2).mem (State.walkLines s x1 x2).peer := by
  unfold State.walkLines
  simp +contextual [h]

theorem okCanon_engineXlat {s : State} (h : CanonMaps s.mem s.peer) (vf : Option Nat) (asid level : Nat) (va : Word) (acc : Acc) : OkCanon (State.engineXlat s vf asid level va acc) := by
  unfold State.engineXlat
  repeat' first
    | assumption | exact okCanon_error _ | refine okCanon_ok ?_
    | with_reducible (first
        | apply canon_keep | apply canon_walkLines | apply canon_setAD)
    | split

@[simp] theorem canon_writePool {s : State} (h : CanonMaps s.mem s.peer) (x1 : Launch) (x2 : Nat) :
    CanonMaps (State.writePool s x1 x2).mem (State.writePool s x1 x2).peer := by
  unfold State.writePool
  repeat' first
    | assumption | refine OkCanon.elim (okCanon_engineXlat ?_ ..) (by assumption)
    | with_reducible (first
        | apply canon_performAll | apply canon_postTable)
    | split | dsimp only

@[simp] theorem canon_poolTask {s : State} (h : CanonMaps s.mem s.peer) (x1 : Nat) (x2 : Launch) (x3 : Task) :
    CanonMaps (State.poolTask s x1 x2 x3).mem (State.poolTask s x1 x2 x3).peer := by
  unfold State.poolTask
  (repeat' split) <;> simp [h]

@[simp] theorem canon_addTask {s : State} (h : CanonMaps s.mem s.peer) (x1 : Nat) (x2 : Word) (x3 : Word) (x4 : Word) (x5 : Word) :
    CanonMaps (State.addTask s x1 x2 x3 x4 x5).mem (State.addTask s x1 x2 x3 x4 x5).peer := by
  unfold State.addTask
  (repeat' split) <;> simp [h]

@[simp] theorem canon_addChild {s : State} (h : CanonMaps s.mem s.peer) (x1 : Nat) (x2 : Nat) (x3 : Word) (x4 : Word) (x5 : Word) :
    CanonMaps (State.addChild s x1 x2 x3 x4 x5).mem (State.addChild s x1 x2 x3 x4 x5).peer := by
  unfold State.addChild
  dsimp only
  (repeat' split) <;> simp [h]

@[simp] theorem canon_runDeferred {s : State} (h : CanonMaps s.mem s.peer) (x1 : Nat) (x2 : Deferred) :
    CanonMaps (State.runDeferred s x1 x2).mem (State.runDeferred s x1 x2).peer := by
  unfold State.runDeferred
  (repeat' split) <;> simp [h]

theorem keeps_deferOr (x0 : Deferred) : Keeps (deferOr x0) := by
  unfold deferOr
  repeat' first
    | assumption
    | with_reducible (first
        | apply canon_runDeferred | exact keeps_modChunk .. | refine keeps_get_bind fun _ _ => ?_ | refine keeps_set ?_)
    | split

theorem steps_execTspawn {s : State} (x0 : BitVec 7) (x1 : BitVec 7) (x2 : BitVec 7) : Steps s (execTspawn x0 x1 x2 s) := by
  unfold execTspawn
  refine steps_issue ?_
  repeat' first
    | with_reducible (first
        | exact keeps_srcC .. | exact keeps_readX .. | exact keeps_deferOr .. | refine keeps_get_bind fun _ _ => ?_
        | refine keeps_bind ?_ fun _ => ?_ | exact keeps_trap _ | exact keeps_require _ _ | exact keeps_untilTurn _)
    | split

theorem steps_execTkey {s : State} (x0 : BitVec 7) (x1 : BitVec 7) : Steps s (execTkey x0 x1 s) := by
  unfold execTkey
  refine steps_issue ?_
  repeat' first
    | with_reducible (first
        | exact keeps_srcC .. | exact keeps_dstC .. | refine keeps_get_bind fun _ _ => ?_ | refine keeps_bind ?_ fun _ => ?_
        | exact keeps_require _ _)
    | split

theorem steps_execFork {s : State} (x0 : BitVec 7) (x1 : BitVec 7) (x2 : BitVec 7) : Steps s (execFork x0 x1 x2 s) := by
  unfold execFork
  refine steps_issue ?_
  repeat' first
    | with_reducible (first
        | exact keeps_srcC .. | exact keeps_readX .. | exact keeps_modArch .. | exact keeps_deferOr .. | exact keeps_dstC ..
        | refine keeps_get_bind fun _ _ => ?_ | refine keeps_bind ?_ fun _ => ?_ | exact keeps_require _ _)

theorem keeps_joinChildren  : Keeps (joinChildren) := by
  unfold joinChildren
  repeat' first | with_reducible (first | exact keeps_modTh .. | refine keeps_get_bind fun _ _ => ?_ | exact keeps_hold _) | split

theorem steps_execJoin {s : State}  : Steps s (execJoin s) := by
  unfold execJoin
  repeat' first | refine steps_issue ?_ | with_reducible exact keeps_joinChildren ..

theorem steps_execRqput {s : State} (x0 : BitVec 7) (x1 : BitVec 7) : Steps s (execRqput x0 x1 s) := by
  unfold execRqput
  refine steps_issue ?_
  repeat' first
    | assumption
    | with_reducible (first
        | exact keeps_srcC .. | refine keeps_get_bind fun _ _ => ?_ | refine keeps_bind ?_ fun _ => ?_ | refine keeps_set ?_
        | exact keeps_require _ _ | exact keeps_untilTurn _)

theorem steps_execRqtake {s : State} (x0 : BitVec 7) (x1 : BitVec 7) : Steps s (execRqtake x0 x1 s) := by
  unfold execRqtake
  refine steps_issue ?_
  repeat' first
    | assumption
    | with_reducible (first
        | exact keeps_srcC .. | exact keeps_dstC .. | refine keeps_get_bind fun _ _ => ?_ | refine keeps_bind ?_ fun _ => ?_
        | refine keeps_set ?_ | exact keeps_require _ _)
    | split | dsimp only

theorem steps_execTmset {s : State} (x0 : BitVec 7) : Steps s (execTmset x0 s) := by
  unfold execTmset
  refine steps_issue ?_
  repeat' first | with_reducible (first | exact keeps_srcC .. | exact keeps_modTh .. | refine keeps_bind ?_ fun _ => ?_)

@[simp] theorem canon_startThread {s : State} (h : CanonMaps s.mem s.peer) (x1 : Nat) (x2 : Thread) (x3 : List (Nat × Word)) :
    CanonMaps (State.startThread s x1 x2 x3).mem (State.startThread s x1 x2 x3).peer := by
  unfold State.startThread
  repeat' first
    | assumption
    | with_reducible (first
        | apply canon_setWindowOf | apply canon_setXOf)
    | refine canon_foldl (fun _ _ _ => ?_) ?_ _

theorem steps_execSstart {s : State} (x0 : BitVec 7) (x1 : BitVec 7) : Steps s (execSstart x0 x1 s) := by
  unfold execSstart
  refine steps_issue ?_
  repeat' first
    | assumption
    | with_reducible (first
        | exact keeps_srcC .. | exact keeps_memRead .. | exact keeps_dstC .. | apply canon_startThread
        | refine keeps_get_bind fun _ _ => ?_ | refine keeps_bind ?_ fun _ => ?_ | refine keeps_set ?_)
    | split | dsimp only

theorem steps_execSstop {s : State} (x0 : BitVec 7) : Steps s (execSstop x0 s) := by
  unfold execSstop
  refine steps_issue ?_
  repeat' first
    | assumption
    | with_reducible (first
        | exact keeps_srcC .. | apply canon_endThread | apply canon_beginStop | refine keeps_get_bind fun _ _ => ?_
        | refine keeps_bind ?_ fun _ => ?_ | refine keeps_set ?_ | exact keeps_pure _ | exact keeps_hold _ | exact keeps_require _ _
        | exact keeps_park _)
    | split | dsimp only

theorem keeps_performRest  : Keeps (performRest) := by
  unfold performRest
  repeat' first
    | with_reducible (first
        | exact keeps_performNow .. | refine keeps_get_bind fun _ _ => ?_ | refine keeps_bind ?_ fun _ => ?_ | exact keeps_pure _
        | refine keeps_forIn (fun _ _ => ?_) _ _)

theorem steps_execExit {s : State}  : Steps s (execExit s) := by
  unfold execExit
  repeat' first
    | assumption | refine steps_issue ?_
    | with_reducible (first
        | exact keeps_joinChildren .. | exact keeps_performRest .. | apply canon_endThread | refine keeps_get_bind fun _ _ => ?_
        | refine keeps_bind ?_ fun _ => ?_ | refine keeps_set ?_ | exact keeps_trap _ | exact keeps_until _)
    | split

theorem keeps_enterRequest (x0 : Nat) (x1 : Nat) : Keeps (enterRequest x0 x1) := by
  unfold enterRequest
  repeat' first | assumption | with_reducible (first | apply canon_traceRec | refine keeps_get_bind fun _ _ => ?_ | refine keeps_set ?_)

theorem steps_execWfi {s : State}  : Steps s (execWfi s) := by
  unfold execWfi
  repeat' first
    | refine steps_issue ?_
    | with_reducible (first
        | refine keeps_get_bind fun _ _ => ?_ | exact keeps_pure _ | exact keeps_hold _)
    | split

theorem steps_execBrk {s : State} (x0 : BitVec 7) : Steps s (execBrk x0 s) := by
  unfold execBrk
  refine steps_issue ?_
  exact keeps_trap _

theorem steps_execEret {s : State}  : Steps s (execEret s) := by
  unfold execEret
  repeat' first
    | refine steps_issue ?_
    | with_reducible (first
        | exact keeps_jumpTo .. | exact keeps_modArch .. | refine keeps_get_bind fun _ _ => ?_ | refine keeps_bind ?_ fun _ => ?_)

theorem keeps_readOpcnt  : Keeps (readOpcnt) := by
  unfold readOpcnt
  repeat' first | with_reducible (first | refine keeps_get_bind fun _ _ => ?_ | exact keeps_pure _)

@[simp] theorem canon_readShared {s : State} (h : CanonMaps s.mem s.peer) (gs k : Nat) :
    CanonMaps (State.readShared s gs k).2.mem (State.readShared s gs k).2.peer := by
  unfold State.readShared
  repeat' first | assumption | split | dsimp only

@[simp] theorem canon_seenShared {s : State} (h : CanonMaps s.mem s.peer) (x1 : Nat) (x2 : Nat) :
    CanonMaps (State.seenShared s x1 x2).mem (State.seenShared s x1 x2).peer := by
  unfold State.seenShared
  (repeat' split) <;> simp [h]

theorem keeps_readG (x0 : Nat) : Keeps (readG x0) := by
  unfold readG
  repeat' first
    | assumption
    | with_reducible (first
        | apply canon_readShared | exact keeps_noteReads .. | apply canon_seenShared | refine keeps_get_bind fun _ _ => ?_
        | refine keeps_bind ?_ fun _ => ?_ | refine keeps_modify fun _ _ => ?_ | refine keeps_set ?_ | exact keeps_pure _)
    | split

theorem keeps_csrRead (x0 : Nat) : Keeps (csrRead x0) := by
  unfold csrRead
  repeat' first
    | with_reducible (first
        | exact keeps_readArch .. | exact keeps_readOpcnt .. | exact keeps_readG .. | refine keeps_get_bind fun _ _ => ?_
        | refine keeps_bind ?_ fun _ => ?_ | exact keeps_pure _ | exact keeps_cause _)
    | split

theorem steps_execCsrr {s : State} (x0 : BitVec 10) (x1 : BitVec 7) : Steps s (execCsrr x0 x1 s) := by
  unfold execCsrr
  refine steps_issue ?_
  repeat' first | with_reducible (first | exact keeps_csrRead .. | exact keeps_dstC .. | refine keeps_bind ?_ fun _ => ?_)

theorem keeps_modBank (x0 : TrapRegs → TrapRegs) : Keeps (modBank x0) := by
  unfold modBank
  exact keeps_modTh ..

@[simp] theorem canon_setLog {s : State} (h : CanonMaps s.mem s.peer) (x1 : Nat) (x2 : Nat) (x3 : Nat) (x4 : Nat) :
    CanonMaps (State.setLog s x1 x2 x3 x4).mem (State.setLog s x1 x2 x3 x4).peer := by
  unfold State.setLog
  (repeat' split) <;> simp [h]

theorem keeps_writePolicy (x0 : Word) : Keeps (writePolicy x0) := by
  unfold writePolicy
  repeat' first
    | assumption
    | with_reducible (first
        | apply canon_setLog | refine keeps_bind ?_ fun _ => ?_ | refine keeps_modify fun _ _ => ?_ | exact keeps_require _ _)
    | split

theorem keeps_writeG (x0 : Nat) (x1 : Word) : Keeps (writeG x0 x1) := by
  unfold writeG
  repeat' first
    | assumption
    | with_reducible (first
        | exact keeps_uncounted .. | refine keeps_get_bind fun _ _ => ?_ | refine keeps_bind ?_ fun _ => ?_
        | refine keeps_modify fun _ _ => ?_ | exact keeps_pure _)
    | split

theorem keeps_csrWrite (x0 : Nat) (x1 : Word) : Keeps (csrWrite x0 x1) := by
  unfold csrWrite
  repeat' first
    | with_reducible (first
        | exact keeps_modArch .. | exact keeps_modBank .. | exact keeps_modTh .. | exact keeps_writePolicy .. | exact keeps_writeG ..
        | refine keeps_get_bind fun _ _ => ?_ | refine keeps_bind ?_ fun _ => ?_ | exact keeps_cause _ | exact keeps_require _ _)
    | split

theorem steps_execCsrw {s : State} (x0 : BitVec 10) (x1 : BitVec 7) : Steps s (execCsrw x0 x1 s) := by
  unfold execCsrw
  refine steps_issue ?_
  repeat' first | with_reducible (first | exact keeps_srcC .. | exact keeps_csrWrite .. | refine keeps_bind ?_ fun _ => ?_)

theorem steps_execRdc {s : State} (x0 : BitVec 10) (x1 : BitVec 7) : Steps s (execRdc x0 x1 s) := by
  unfold execRdc
  refine steps_issue ?_
  repeat' first | with_reducible (first | exact keeps_csrRead .. | exact keeps_dstC .. | refine keeps_bind ?_ fun _ => ?_)

theorem steps_execHint {s : State} (x0 : BitVec 24) (x1 : BitVec 1) : Steps s (execHint x0 x1 s) := by
  unfold execHint
  refine steps_issue ?_
  exact keeps_pure _

theorem keeps_popP15  : Keeps (popP15) := by
  unfold popP15
  repeat' first
    | assumption
    | with_reducible (first
        | exact keeps_modTh .. | exact keeps_modChunk .. | apply canon_refill | exact keeps_notePopped .. | apply keeps_holdPop
        | refine keeps_get_bind fun _ _ => ?_ | refine keeps_bind ?_ fun _ => ?_ | refine keeps_modify fun _ _ => ?_ | exact keeps_pure _)
    | split

theorem keeps_srcA (x0 : BitVec 7) : Keeps (srcA x0) := by
  unfold srcA
  repeat' first
    | with_reducible (first
        | exact keeps_popP15 .. | exact keeps_popStream .. | refine keeps_get_bind fun _ _ => ?_ | refine keeps_bind ?_ fun _ => ?_
        | exact keeps_pure _ | exact keeps_trap _)
    | split

theorem keeps_unstaging {α : Type} {m : M α} (hm : Keeps m) (code : Nat) : Keeps (unstaging code m) := by
  refine ⟨fun s a t h e => ?_⟩
  unfold unstaging at e
  split at e
  · cases e
  · exact hm.step s a t h e

theorem keeps_regionChecks (x0 : List Region) : Keeps (regionChecks x0) := by
  unfold regionChecks
  repeat' first
    | with_reducible (first
        | refine keeps_get_bind fun _ _ => ?_ | refine keeps_bind ?_ fun _ => ?_ | exact keeps_pure _ | exact keeps_trap _
        | exact keeps_require _ _)
    | split

theorem keeps_matChecks (x0 : MatOp) (x1 : Word) (x2 : Word) (x3 : Word) : Keeps (matChecks x0 x1 x2 x3) := by
  unfold matChecks
  repeat' first
    | with_reducible (first
        | exact keeps_regionChecks .. | refine keeps_get_bind fun _ _ => ?_ | refine keeps_bind ?_ fun _ => ?_ | exact keeps_require _ _)
    | split

theorem keeps_issueMat (x0 : MatOp) (x1 : Word) (x2 : Word) (x3 : Word) : Keeps (issueMat x0 x1 x2 x3) := by
  unfold issueMat
  repeat' first
    | assumption
    | with_reducible (first
        | exact keeps_matChecks .. | exact keeps_modTh .. | refine keeps_get_bind fun _ _ => ?_ | refine keeps_bind ?_ fun _ => ?_
        | refine keeps_modify fun _ _ => ?_ | exact keeps_hold _ | exact keeps_until _)
    | split | dsimp only

theorem keeps_pushEngine (x0 : Nat) (x1 : Word) : Keeps (pushEngine x0 x1) := by
  unfold pushEngine
  repeat' first
    | with_reducible (first
        | exact keeps_modTh .. | refine keeps_unstaging ?_ _ | exact keeps_issueMat .. | exact keeps_issueCopy ..
        | exact keeps_issueMsg .. | refine keeps_get_bind fun _ _ => ?_ | refine keeps_bind ?_ fun _ => ?_ | exact keeps_cause _)
    | split | dsimp only

theorem keeps_dstA (x0 : BitVec 7) (x1 : Word) : Keeps (dstA x0 x1) := by
  unfold dstA
  repeat' first
    | assumption
    | with_reducible (first
        | apply canon_setX | exact keeps_pushStream .. | exact keeps_pushEngine .. | refine keeps_get_bind fun _ _ => ?_
        | refine keeps_set ?_ | exact keeps_trap _)
    | split

theorem keeps_aluOp (x0 : AluOp) (x1 : BitVec 7) (x2 : BitVec 7) (x3 : BitVec 7) : Keeps (aluOp x0 x1 x2 x3) := by
  unfold aluOp
  repeat' first | with_reducible (first | exact keeps_srcA .. | exact keeps_dstA .. | refine keeps_bind ?_ fun _ => ?_)

theorem keeps_unOp (x0 : UnOp) (x1 : BitVec 7) (x2 : BitVec 7) : Keeps (unOp x0 x1 x2) := by
  unfold unOp
  repeat' first | with_reducible (first | exact keeps_srcA .. | exact keeps_dstA .. | refine keeps_bind ?_ fun _ => ?_)

theorem steps_execLihM {s : State} (x0 : BitVec 16) (x1 : BitVec 7) : Steps s (execLihM x0 x1 s) := by
  unfold execLihM
  refine steps_issue ?_
  repeat' first | with_reducible (first | exact keeps_srcA .. | exact keeps_dstA .. | refine keeps_bind ?_ fun _ => ?_)

theorem steps_execBins {s : State} (x0 : BitVec 7) (x1 : BitVec 7) (x2 : BitVec 7) : Steps s (execBins x0 x1 x2 s) := by
  unfold execBins
  refine steps_issue ?_
  repeat' first | with_reducible (first | exact keeps_srcA .. | exact keeps_dstA .. | refine keeps_bind ?_ fun _ => ?_)

theorem keeps_raiseFlags (x0 : FFlags) : Keeps (raiseFlags x0) := by
  unfold raiseFlags
  repeat' first | with_reducible (first | exact keeps_modArch .. | refine keeps_get_bind fun _ _ => ?_ | exact keeps_trap _) | split

theorem steps_execFcvt {s : State} (x0 : BitVec 3) (x1 : BitVec 3) (x2 : BitVec 3) (x3 : BitVec 7) (x4 : BitVec 7) : Steps s (execFcvt x0 x1 x2 x3 x4 s) := by
  unfold execFcvt
  refine steps_issue ?_
  repeat' first
    | with_reducible (first
        | exact keeps_srcA .. | exact keeps_raiseFlags .. | exact keeps_dstA .. | refine keeps_get_bind fun _ _ => ?_
        | refine keeps_bind ?_ fun _ => ?_ | exact keeps_pure _)
    | split

theorem steps_execSel {s : State} (x0 : BitVec 3) (x1 : BitVec 7) (x2 : BitVec 7) (x3 : BitVec 7) : Steps s (execSel x0 x1 x2 x3 s) := by
  unfold execSel
  refine steps_issue ?_
  repeat' first
    | with_reducible (first
        | exact keeps_srcA .. | exact keeps_readK .. | exact keeps_dstA .. | refine keeps_bind ?_ fun _ => ?_)

theorem steps_execPset {s : State} (x0 : BitVec 7) (x1 : BitVec 7) (x2 : BitVec 4) (x3 : BitVec 3) : Steps s (execPset x0 x1 x2 x3 s) := by
  unfold execPset
  refine steps_issue ?_
  repeat' first | with_reducible (first | exact keeps_srcA .. | exact keeps_writeKBit .. | refine keeps_bind ?_ fun _ => ?_)

theorem keeps_fcmpOp (x0 : Fmt) (x1 : BitVec 7) (x2 : BitVec 7) (x3 : BitVec 4) (x4 : BitVec 3) : Keeps (fcmpOp x0 x1 x2 x3 x4) := by
  unfold fcmpOp
  repeat' first
    | with_reducible (first
        | exact keeps_srcA .. | exact keeps_raiseFlags .. | exact keeps_writeKBit .. | refine keeps_bind ?_ fun _ => ?_)

theorem steps_execPseti {s : State} (x0 : BitVec 10) (x1 : BitVec 7) (x2 : BitVec 4) (x3 : BitVec 3) : Steps s (execPseti x0 x1 x2 x3 s) := by
  unfold execPseti
  refine steps_issue ?_
  repeat' first | with_reducible (first | exact keeps_srcA .. | exact keeps_writeKBit .. | refine keeps_bind ?_ fun _ => ?_)

theorem steps_execPlog {s : State} (x0 : BitVec 2) (x1 : BitVec 3) (x2 : BitVec 3) (x3 : BitVec 3) : Steps s (execPlog x0 x1 x2 x3 s) := by
  unfold execPlog
  refine steps_issue ?_
  repeat' first | with_reducible (first | exact keeps_readK .. | exact keeps_modArch .. | refine keeps_bind ?_ fun _ => ?_)

theorem steps_execPmovK {s : State} (x0 : BitVec 7) (x1 : BitVec 3) : Steps s (execPmovK x0 x1 s) := by
  unfold execPmovK
  refine steps_issue ?_
  repeat' first | with_reducible (first | exact keeps_srcA .. | exact keeps_modArch .. | refine keeps_bind ?_ fun _ => ?_)

theorem steps_execPmovX {s : State} (x0 : BitVec 3) (x1 : BitVec 7) : Steps s (execPmovX x0 x1 s) := by
  unfold execPmovX
  refine steps_issue ?_
  repeat' first | with_reducible (first | exact keeps_readK .. | exact keeps_dstA .. | refine keeps_bind ?_ fun _ => ?_)

theorem keeps_fpOp (x0 : FpOp) (x1 : Fmt) (x2 : BitVec 7) (x3 : BitVec 7) (x4 : BitVec 7) : Keeps (fpOp x0 x1 x2 x3 x4) := by
  unfold fpOp
  repeat' first
    | with_reducible (first
        | exact keeps_srcA .. | exact keeps_raiseFlags .. | exact keeps_dstA .. | refine keeps_get_bind fun _ _ => ?_
        | refine keeps_bind ?_ fun _ => ?_)

theorem keeps_fmaOp (x0 : Fmt) (x1 : BitVec 7) (x2 : BitVec 7) (x3 : BitVec 7) : Keeps (fmaOp x0 x1 x2 x3) := by
  unfold fmaOp
  repeat' first
    | with_reducible (first
        | exact keeps_srcA .. | exact keeps_raiseFlags .. | exact keeps_dstA .. | refine keeps_get_bind fun _ _ => ?_
        | refine keeps_bind ?_ fun _ => ?_)

theorem keeps_sqrtOp (x0 : Fmt) (x1 : BitVec 7) (x2 : BitVec 7) : Keeps (sqrtOp x0 x1 x2) := by
  unfold sqrtOp
  repeat' first
    | with_reducible (first
        | exact keeps_srcA .. | exact keeps_raiseFlags .. | exact keeps_dstA .. | refine keeps_get_bind fun _ _ => ?_
        | refine keeps_bind ?_ fun _ => ?_)

theorem keeps_classOp (x0 : Fmt) (x1 : BitVec 7) (x2 : BitVec 7) : Keeps (classOp x0 x1 x2) := by
  unfold classOp
  repeat' first | with_reducible (first | exact keeps_srcA .. | exact keeps_dstA .. | refine keeps_bind ?_ fun _ => ?_)

theorem keeps_vecInt (x0 : VOp) (x1 : Nat) (x2 : BitVec 3) (x3 : BitVec 5) (x4 : BitVec 5) (x5 : BitVec 5) (x6 : Bool) : Keeps (vecInt x0 x1 x2 x3 x4 x5 x6) := by
  unfold vecInt
  repeat' first
    | with_reducible (first
        | exact keeps_activeOf .. | exact keeps_srcV .. | exact keeps_dstV .. | refine keeps_bind ?_ fun _ => ?_)

theorem keeps_scalarOf (x0 : List Bool) (x1 : BitVec 7) : Keeps (scalarOf x0 x1) := by
  unfold scalarOf
  repeat' first | with_reducible (first | exact keeps_srcA .. | exact keeps_pure _) | split

theorem keeps_vecIntX (x0 : VOp) (x1 : Nat) (x2 : BitVec 3) (x3 : BitVec 7) (x4 : BitVec 5) (x5 : BitVec 5) : Keeps (vecIntX x0 x1 x2 x3 x4 x5) := by
  unfold vecIntX
  repeat' first
    | with_reducible (first
        | exact keeps_activeOf .. | exact keeps_srcV .. | exact keeps_scalarOf .. | exact keeps_dstV ..
        | refine keeps_bind ?_ fun _ => ?_)

theorem keeps_raiseVec (x0 : List (Nat × FFlags)) : Keeps (raiseVec x0) := by
  unfold raiseVec
  repeat' first | with_reducible (first | exact keeps_modArch .. | refine keeps_get_bind fun _ _ => ?_ | exact keeps_trap _) | split

theorem keeps_vecFlt (x0 : List Bool) (x1 : BitVec 5) (x2 : Nat) (x3 : List (Nat × FFlags)) (x4 : Bool) : Keeps (vecFlt x0 x1 x2 x3 x4) := by
  unfold vecFlt
  repeat' first | with_reducible (first | exact keeps_raiseVec .. | exact keeps_dstV .. | refine keeps_bind ?_ fun _ => ?_)

theorem keeps_vecFp (x0 : FpOp) (x1 : BitVec 2) (x2 : BitVec 3) (x3 : BitVec 5) (x4 : BitVec 5) (x5 : BitVec 5) (x6 : Bool) : Keeps (vecFp x0 x1 x2 x3 x4 x5 x6) := by
  unfold vecFp
  repeat' first
    | with_reducible (first
        | exact keeps_activeOf .. | exact keeps_srcV .. | exact keeps_vecFlt .. | refine keeps_get_bind fun _ _ => ?_
        | refine keeps_bind ?_ fun _ => ?_)

theorem keeps_vecFma (x0 : BitVec 2) (x1 : List Bool) (x2 : List Nat) (x3 : List Nat) (x4 : BitVec 5) : Keeps (vecFma x0 x1 x2 x3 x4) := by
  unfold vecFma
  repeat' first
    | with_reducible (first
        | exact keeps_srcV .. | exact keeps_vecFlt .. | refine keeps_get_bind fun _ _ => ?_ | refine keeps_bind ?_ fun _ => ?_)

theorem steps_execVffma {s : State} (x0 : BitVec 2) (x1 : BitVec 1) (x2 : BitVec 3) (x3 : BitVec 5) (x4 : BitVec 5) (x5 : BitVec 5) : Steps s (execVffma x0 x1 x2 x3 x4 x5 s) := by
  unfold execVffma
  refine steps_issue ?_
  repeat' first
    | with_reducible (first
        | exact keeps_activeOf .. | exact keeps_srcV .. | exact keeps_vecFma .. | refine keeps_bind ?_ fun _ => ?_)

theorem steps_execVfsqrt {s : State} (x0 : BitVec 2) (x1 : BitVec 1) (x2 : BitVec 3) (x3 : BitVec 5) (x4 : BitVec 5) : Steps s (execVfsqrt x0 x1 x2 x3 x4 s) := by
  unfold execVfsqrt
  refine steps_issue ?_
  repeat' first
    | with_reducible (first
        | exact keeps_activeOf .. | exact keeps_srcV .. | exact keeps_vecFlt .. | refine keeps_get_bind fun _ _ => ?_
        | refine keeps_bind ?_ fun _ => ?_)

theorem keeps_vecFpX (x0 : FpOp) (x1 : BitVec 2) (x2 : BitVec 3) (x3 : BitVec 7) (x4 : BitVec 5) (x5 : BitVec 5) : Keeps (vecFpX x0 x1 x2 x3 x4 x5) := by
  unfold vecFpX
  repeat' first
    | with_reducible (first
        | exact keeps_activeOf .. | exact keeps_srcV .. | exact keeps_scalarOf .. | exact keeps_vecFlt ..
        | refine keeps_get_bind fun _ _ => ?_ | refine keeps_bind ?_ fun _ => ?_)

theorem steps_execVffmaX {s : State} (x0 : BitVec 2) (x1 : BitVec 3) (x2 : BitVec 7) (x3 : BitVec 5) (x4 : BitVec 5) : Steps s (execVffmaX x0 x1 x2 x3 x4 s) := by
  unfold execVffmaX
  refine steps_issue ?_
  repeat' first
    | with_reducible (first
        | exact keeps_activeOf .. | exact keeps_srcV .. | exact keeps_scalarOf .. | exact keeps_vecFma ..
        | refine keeps_bind ?_ fun _ => ?_)

theorem steps_execVcmp {s : State} (x0 : BitVec 2) (x1 : BitVec 3) (x2 : BitVec 3) (x3 : BitVec 5) (x4 : BitVec 5) (x5 : BitVec 3) : Steps s (execVcmp x0 x1 x2 x3 x4 x5 s) := by
  unfold execVcmp
  refine steps_issue ?_
  repeat' first
    | with_reducible (first
        | exact keeps_activeOf .. | exact keeps_srcV .. | exact keeps_modArch .. | refine keeps_bind ?_ fun _ => ?_)

theorem steps_execVfcmp {s : State} (x0 : BitVec 2) (x1 : BitVec 3) (x2 : BitVec 3) (x3 : BitVec 5) (x4 : BitVec 5) (x5 : BitVec 3) : Steps s (execVfcmp x0 x1 x2 x3 x4 x5 s) := by
  unfold execVfcmp
  refine steps_issue ?_
  repeat' first
    | with_reducible (first
        | exact keeps_activeOf .. | exact keeps_srcV .. | exact keeps_raiseVec .. | exact keeps_modArch ..
        | refine keeps_bind ?_ fun _ => ?_)

theorem steps_execVsel {s : State} (x0 : BitVec 2) (x1 : BitVec 3) (x2 : BitVec 5) (x3 : BitVec 5) (x4 : BitVec 5) : Steps s (execVsel x0 x1 x2 x3 x4 s) := by
  unfold execVsel
  refine steps_issue ?_
  repeat' first
    | with_reducible (first
        | exact keeps_activeOf .. | exact keeps_srcV .. | exact keeps_dstV .. | refine keeps_bind ?_ fun _ => ?_)

theorem steps_execVperm {s : State} (x0 : BitVec 2) (x1 : BitVec 3) (x2 : BitVec 5) (x3 : BitVec 5) (x4 : BitVec 5) : Steps s (execVperm x0 x1 x2 x3 x4 s) := by
  unfold execVperm
  refine steps_issue ?_
  repeat' first
    | with_reducible (first
        | exact keeps_activeOf .. | exact keeps_srcV .. | exact keeps_dstV .. | refine keeps_bind ?_ fun _ => ?_)

theorem steps_execVcomp {s : State} (x0 : BitVec 2) (x1 : BitVec 3) (x2 : BitVec 5) (x3 : BitVec 5) : Steps s (execVcomp x0 x1 x2 x3 s) := by
  unfold execVcomp
  refine steps_issue ?_
  repeat' first
    | with_reducible (first
        | exact keeps_activeOf .. | exact keeps_srcV .. | exact keeps_dstV .. | refine keeps_bind ?_ fun _ => ?_)

theorem steps_execVbcast {s : State} (x0 : BitVec 2) (x1 : BitVec 3) (x2 : BitVec 7) (x3 : BitVec 5) : Steps s (execVbcast x0 x1 x2 x3 s) := by
  unfold execVbcast
  refine steps_issue ?_
  repeat' first
    | with_reducible (first
        | exact keeps_activeOf .. | exact keeps_scalarOf .. | exact keeps_dstV .. | refine keeps_bind ?_ fun _ => ?_)

theorem steps_execVslide {s : State} (x0 : BitVec 2) (x1 : BitVec 3) (x2 : BitVec 7) (x3 : BitVec 5) (x4 : BitVec 5) : Steps s (execVslide x0 x1 x2 x3 x4 s) := by
  unfold execVslide
  refine steps_issue ?_
  repeat' first
    | with_reducible (first
        | exact keeps_activeOf .. | exact keeps_srcV .. | exact keeps_scalarOf .. | exact keeps_dstV ..
        | refine keeps_bind ?_ fun _ => ?_)

theorem steps_execVext {s : State} (x0 : BitVec 2) (x1 : BitVec 7) (x2 : BitVec 5) (x3 : BitVec 7) : Steps s (execVext x0 x1 x2 x3 s) := by
  unfold execVext
  refine steps_issue ?_
  repeat' first
    | with_reducible (first
        | exact keeps_activeOf .. | exact keeps_srcV .. | exact keeps_srcA .. | exact keeps_dstA .. | refine keeps_bind ?_ fun _ => ?_)

theorem keeps_cvtActive (x0 : BitVec 3) (x1 : Nat) (x2 : Nat) : Keeps (cvtActive x0 x1 x2) := by
  unfold cvtActive
  exact keeps_activeOf ..

theorem keeps_vecCvt (x0 : BitVec 3) (x1 : BitVec 3) (x2 : Nat) (x3 : Nat) (x4 : BitVec 5) (x5 : BitVec 5) (x6 : Bool) : Keeps (vecCvt x0 x1 x2 x3 x4 x5 x6) := by
  unfold vecCvt
  repeat' first
    | with_reducible (first
        | exact keeps_cvtActive .. | exact keeps_srcV .. | exact keeps_vecFlt .. | refine keeps_get_bind fun _ _ => ?_
        | refine keeps_bind ?_ fun _ => ?_)

theorem steps_execVcvtSr {s : State} (x0 : BitVec 4) (x1 : BitVec 2) (x2 : BitVec 3) (x3 : BitVec 5) (x4 : BitVec 5) (x5 : BitVec 5) : Steps s (execVcvtSr x0 x1 x2 x3 x4 x5 s) := by
  unfold execVcvtSr
  refine steps_issue ?_
  repeat' first
    | with_reducible (first
        | exact keeps_cvtActive .. | exact keeps_srcV .. | exact keeps_vecFlt .. | refine keeps_get_bind fun _ _ => ?_
        | refine keeps_bind ?_ fun _ => ?_)

theorem steps_execVred {s : State} (x0 : BitVec 2) (x1 : BitVec 3) (x2 : BitVec 3) (x3 : BitVec 5) (x4 : BitVec 5) : Steps s (execVred x0 x1 x2 x3 x4 s) := by
  unfold execVred
  refine steps_issue ?_
  repeat' first
    | with_reducible (first
        | exact keeps_activeOf .. | exact keeps_srcV .. | exact keeps_raiseVec .. | exact keeps_dstV ..
        | refine keeps_get_bind fun _ _ => ?_ | refine keeps_bind ?_ fun _ => ?_ | exact keeps_pure _)
    | split

theorem steps_execVscan {s : State} (x0 : BitVec 2) (x1 : BitVec 3) (x2 : BitVec 3) (x3 : BitVec 5) (x4 : BitVec 5) : Steps s (execVscan x0 x1 x2 x3 x4 s) := by
  unfold execVscan
  refine steps_issue ?_
  repeat' first
    | with_reducible (first
        | exact keeps_activeOf .. | exact keeps_srcV .. | exact keeps_raiseVec .. | exact keeps_dstV ..
        | refine keeps_get_bind fun _ _ => ?_ | refine keeps_bind ?_ fun _ => ?_)

theorem keeps_vecSpecial (x0 : Nat) (x1 : BitVec 2) (x2 : BitVec 3) (x3 : BitVec 5) (x4 : BitVec 5) : Keeps (vecSpecial x0 x1 x2 x3 x4) := by
  unfold vecSpecial
  repeat' first
    | with_reducible (first
        | exact keeps_activeOf .. | exact keeps_srcV .. | exact keeps_vecFlt .. | refine keeps_bind ?_ fun _ => ?_)

theorem steps_execVrng {s : State} (x0 : BitVec 3) (x1 : BitVec 7) (x2 : BitVec 5) (x3 : BitVec 5) : Steps s (execVrng x0 x1 x2 x3 s) := by
  unfold execVrng
  refine steps_issue ?_
  repeat' first
    | with_reducible (first
        | exact keeps_activeOf .. | exact keeps_srcV .. | exact keeps_scalarOf .. | exact keeps_dstV ..
        | refine keeps_bind ?_ fun _ => ?_)

theorem keeps_untilLanes (s : State) (n : Nat) : Keeps (M.untilLanes s n) := keeps_ite (keeps_pure _) (keeps_hold _)

theorem keeps_setGrant (x0 : Nat) (x1 : Nat) : Keeps (setGrant x0 x1) := by
  unfold setGrant
  repeat' first
    | with_reducible (first
        | exact keeps_modArch .. | exact keeps_modChunk .. | refine keeps_get_bind fun _ _ => ?_ | refine keeps_bind ?_ fun _ => ?_)

theorem keeps_claimLanes (x0 : Nat) : Keeps (claimLanes x0) := by
  unfold claimLanes
  repeat' first
    | exact keeps_untilLanes _ _
    | with_reducible (first
        | exact keeps_setGrant .. | refine keeps_get_bind fun _ _ => ?_ | refine keeps_bind ?_ fun _ => ?_ | exact keeps_pure _
        | exact keeps_require _ _)
    | split

theorem steps_execVclaim {s : State} (x0 : BitVec 7) (x1 : BitVec 7) : Steps s (execVclaim x0 x1 s) := by
  unfold execVclaim
  refine steps_issue ?_
  repeat' first
    | with_reducible (first
        | exact keeps_srcA .. | exact keeps_claimLanes .. | exact keeps_dstA .. | refine keeps_get_bind fun _ _ => ?_
        | refine keeps_bind ?_ fun _ => ?_ | exact keeps_require _ _)

theorem steps_execVrenew {s : State} (x0 : BitVec 7) (x1 : BitVec 7) : Steps s (execVrenew x0 x1 s) := by
  unfold execVrenew
  refine steps_issue ?_
  repeat' first
    | with_reducible (first
        | exact keeps_srcA .. | exact keeps_dstA .. | exact keeps_claimLanes ..)
    | exact keeps_untilLanes _ _
    | with_reducible (first
        | exact keeps_setGrant .. | refine keeps_get_bind fun _ _ => ?_ | refine keeps_bind ?_ fun _ => ?_ | exact keeps_pure _
        | exact keeps_require _ _)
    | split | dsimp only

theorem steps_execVrel {s : State}  : Steps s (execVrel s) := by
  unfold execVrel
  repeat' first | refine steps_issue ?_ | with_reducible exact keeps_setGrant ..

theorem steps_execVlen {s : State} (x0 : BitVec 2) (x1 : BitVec 7) : Steps s (execVlen x0 x1 s) := by
  unfold execVlen
  refine steps_issue ?_
  repeat' first | with_reducible (first | exact keeps_dstA .. | refine keeps_get_bind fun _ _ => ?_)

theorem keeps_issueRegs (op : MatOp) {xd xa xb : M Word} (hd : Keeps xd) (ha : Keeps xa) (hb : Keeps xb) :
    Keeps (issueRegs op xd xa xb) :=
  keeps_bind ha fun _ => keeps_bind hb fun _ => keeps_bind hd fun _ => keeps_issueMat ..

theorem steps_execMma {s : State} (x0 : BitVec 3) (x1 : BitVec 7) (x2 : BitVec 7) (x3 : BitVec 7) : Steps s (execMma x0 x1 x2 x3 s) := by
  unfold execMma
  refine steps_issue ?_
  repeat' first | with_reducible (first | refine keeps_issueRegs _ ?_ ?_ ?_ | exact keeps_srcA ..)

theorem steps_execMmaNarrow {s : State} (x0 : BitVec 3) (x1 : BitVec 7) (x2 : BitVec 7) (x3 : BitVec 7) : Steps s (execMmaNarrow x0 x1 x2 x3 s) := by
  unfold execMmaNarrow
  refine steps_issue ?_
  repeat' first | with_reducible (first | refine keeps_issueRegs _ ?_ ?_ ?_ | exact keeps_srcA ..)

theorem keeps_noWord  : Keeps (noWord) := by
  unfold noWord
  exact keeps_pure _

theorem steps_execMmode {s : State} (x0 : BitVec 7) : Steps s (execMmode x0 s) := by
  unfold execMmode
  refine steps_issue ?_
  repeat' first | with_reducible (first | refine keeps_issueRegs _ ?_ ?_ ?_ | exact keeps_noWord .. | exact keeps_srcA ..)

theorem steps_execMscale {s : State} (x0 : BitVec 7) (x1 : BitVec 7) : Steps s (execMscale x0 x1 s) := by
  unfold execMscale
  refine steps_issue ?_
  repeat' first | with_reducible (first | refine keeps_issueRegs _ ?_ ?_ ?_ | exact keeps_noWord .. | exact keeps_srcA ..)

theorem steps_execMbar {s : State}  : Steps s (execMbar s) := by
  unfold execMbar
  repeat' first | refine steps_issue ?_ | with_reducible exact keeps_issueMat ..

theorem steps_execMld {s : State} (x0 : BitVec 7) (x1 : BitVec 7) (x2 : BitVec 7) : Steps s (execMld x0 x1 x2 s) := by
  unfold execMld
  refine steps_issue ?_
  repeat' first | with_reducible (first | refine keeps_issueRegs _ ?_ ?_ ?_ | exact keeps_srcA ..)

theorem keeps_rowsUnlocked (x0 : List Nat) : Keeps (rowsUnlocked x0) := by
  unfold rowsUnlocked
  repeat' first
    | with_reducible (first
        | refine keeps_get_bind fun _ _ => ?_ | exact keeps_pure _ | exact keeps_hold _)
    | split | dsimp only

theorem keeps_runMst (x0 : Word) (x1 : Word) (x2 : Word) : Keeps (runMst x0 x1 x2) := by
  unfold runMst
  repeat' first
    | with_reducible (first
        | exact keeps_regionChecks .. | exact keeps_rowsUnlocked .. | exact keeps_directOrder .. | exact keeps_countSingles ..
        | refine keeps_get_bind fun _ _ => ?_ | refine keeps_bind ?_ fun _ => ?_ | exact keeps_require _ _ | exact keeps_until _)

theorem steps_execMst {s : State} (x0 : BitVec 7) (x1 : BitVec 7) (x2 : BitVec 7) : Steps s (execMst x0 x1 x2 s) := by
  unfold execMst
  refine steps_issue ?_
  repeat' first | with_reducible (first | exact keeps_srcA .. | exact keeps_runMst .. | refine keeps_bind ?_ fun _ => ?_)

theorem keeps_runMrd (x0 : Word) (x1 : Word) : Keeps (runMrd x0 x1) := by
  unfold runMrd
  repeat' first
    | with_reducible (first
        | exact keeps_regionChecks .. | exact keeps_rowsUnlocked .. | refine keeps_get_bind fun _ _ => ?_
        | refine keeps_bind ?_ fun _ => ?_ | exact keeps_pure _ | exact keeps_require _ _)

theorem steps_execMrd {s : State} (x0 : BitVec 7) (x1 : BitVec 7) (x2 : BitVec 7) : Steps s (execMrd x0 x1 x2 s) := by
  unfold execMrd
  refine steps_issue ?_
  repeat' first
    | with_reducible (first
        | exact keeps_srcA .. | exact keeps_runMrd .. | exact keeps_dstA .. | refine keeps_bind ?_ fun _ => ?_)

theorem steps_execMzero {s : State} (x0 : BitVec 7) : Steps s (execMzero x0 s) := by
  unfold execMzero
  refine steps_issue ?_
  repeat' first | with_reducible (first | refine keeps_issueRegs _ ?_ ?_ ?_ | exact keeps_srcA .. | exact keeps_noWord ..)

theorem steps_execMdrain {s : State} (x0 : BitVec 3) (x1 : BitVec 7) (x2 : BitVec 7) : Steps s (execMdrain x0 x1 x2 s) := by
  unfold execMdrain
  refine steps_issue ?_
  repeat' first | with_reducible (first | refine keeps_issueRegs _ ?_ ?_ ?_ | exact keeps_srcA .. | exact keeps_noWord ..)

theorem steps_execMtrans {s : State} (x0 : BitVec 7) (x1 : BitVec 7) : Steps s (execMtrans x0 x1 s) := by
  unfold execMtrans
  refine steps_issue ?_
  repeat' first | with_reducible (first | refine keeps_issueRegs _ ?_ ?_ ?_ | exact keeps_srcA .. | exact keeps_noWord ..)

theorem steps_execMcpy {s : State} (x0 : BitVec 7) (x1 : BitVec 7) : Steps s (execMcpy x0 x1 s) := by
  unfold execMcpy
  refine steps_issue ?_
  repeat' first | with_reducible (first | refine keeps_issueRegs _ ?_ ?_ ?_ | exact keeps_srcA .. | exact keeps_noWord ..)

theorem steps_execInterruptTaken {s : State} (gs : Nat) : Steps s (execInterruptTaken gs s) := by
  unfold execInterruptTaken
  split
  · split
    · exact steps_next fun h => canon_takeDue (canon_dueNow h (.inl ‹_›)) ..
    · exact steps_next fun h => canon_dueNow h (.inr ‹_›)
    · exact steps_next id
  · exact steps_next id

@[simp] theorem canon_expire {s : State} (h : CanonMaps s.mem s.peer) (x1 : Nat) :
    CanonMaps (State.expire s x1).mem (State.expire s x1).peer := by
  unfold State.expire
  repeat' first | assumption | with_reducible apply canon_raise

theorem steps_execTimerExpiry {s : State} (x0 : Nat) : Steps s (execTimerExpiry x0 s) := by
  unfold execTimerExpiry
  repeat' first | assumption | refine steps_next fun _ => ?_ | with_reducible apply canon_expire | split

theorem steps_execChunkEndChunkmax {s : State} (x0 : Nat) : Steps s (execChunkEndChunkmax x0 s) := by
  unfold execChunkEndChunkmax
  repeat' first | assumption | refine steps_next fun _ => ?_ | split

theorem steps_execChunkCutCycles {s : State} (x0 : Nat) : Steps s (execChunkCutCycles x0 s) := by
  unfold execChunkCutCycles
  repeat' first | assumption | refine steps_next fun _ => ?_ | split

theorem steps_execCommitRequest {s : State} (x0 : Nat) : Steps s (execCommitRequest x0 s) := by
  unfold execCommitRequest
  repeat' first | assumption | refine steps_next fun _ => ?_ | split | dsimp only

@[simp] theorem canon_grant {s : State} (h : CanonMaps s.mem s.peer) (x1 : Nat) (x2 : Chunk) (x3 : List Chunk) :
    CanonMaps (State.grant s x1 x2 x3).mem (State.grant s x1 x2 x3).peer := by
  unfold State.grant
  repeat' first
    | assumption
    | with_reducible (first
        | apply canon_performAll | apply canon_noteGrant | apply canon_runDeferred | apply canon_count | apply canon_sawShared
        | apply canon_setThread)
    | refine canon_foldl (fun _ _ _ => ?_) ?_ _

theorem steps_execCommitGrant {s : State} (x0 : Nat) : Steps s (execCommitGrant x0 s) := by
  unfold execCommitGrant
  repeat' first
    | assumption | refine steps_next fun _ => ?_
    | with_reducible (first
        | apply canon_divergence | apply canon_grant)
    | split | dsimp only

theorem steps_execGrantArrival {s : State} (x0 : Nat) : Steps s (execGrantArrival x0 s) := by
  unfold execGrantArrival
  repeat' first
    | assumption | refine steps_next fun _ => ?_
    | with_reducible (first
        | apply canon_cohDrain | apply canon_traceRec | apply canon_setThread)
    | refine canon_foldl (fun _ _ _ => ?_) ?_ _ | split | dsimp only

@[simp] theorem canon_deliverSig {s : State} (h : CanonMaps s.mem s.peer) (x1 : Nat) (x2 : List Nat) :
    CanonMaps (State.deliverSig s x1 x2).mem (State.deliverSig s x1 x2).peer := by
  unfold State.deliverSig
  repeat' first | assumption | with_reducible apply canon_squash | refine canon_foldl (fun _ _ _ => ?_) ?_ _ | split

theorem steps_execSig {s : State}  : Steps s (execSig s) := by
  unfold execSig
  repeat' first | assumption | refine steps_next fun _ => ?_ | with_reducible apply canon_deliverSig | split

theorem steps_execDirectFallback {s : State} (x0 : Nat) : Steps s (execDirectFallback x0 s) := by
  unfold execDirectFallback
  repeat' first | assumption | refine steps_next fun _ => ?_ | split | dsimp only

@[simp] theorem canon_engineGrant {s : State} (h : CanonMaps s.mem s.peer) (gs lines : Nat) {f : State → State}
    (hf : CanonMaps (f s).mem (f s).peer) : CanonMaps (s.engineGrant gs lines f).mem (s.engineGrant gs lines f).peer := by
  unfold State.engineGrant
  split
  · exact hf
  · exact h
  · exact canon_divergence h ..

theorem okCanon_copyXlat {s : State} (h : CanonMaps s.mem s.peer) (c : Copy) (va : Word) (acc : Acc) : OkCanon (s.copyXlat c va acc) :=
  okCanon_engineXlat h ..

theorem canon_copyRead (c : Copy) : ∀ (n : Nat) (s : State) (va : Word) (k : Nat), CanonMaps s.mem s.peer →
    ∀ bs ls t, State.copyRead c n s va k = .ok (bs, ls, t) → CanonMaps t.mem t.peer
  | 0, s, va, k, h, bs, ls, t, e => by
    unfold State.copyRead at e
    cases e
    exact h
  | n + 1, s, va, k, h, bs, ls, t, e => by
    unfold State.copyRead at e
    split at e
    · cases e
      exact h
    · dsimp only at e
      split at e
      · cases e
      · next pa s1 hx =>
        have h1 := (okCanon_copyXlat h _ _ _).elim hx
        split at e
        · cases e
        · split at e
          · cases e
          · split at e
            · cases e
            · split at e
              · cases e
              · next hr =>
                cases e
                refine canon_copyRead c n _ _ _ (canon_foldl (fun _ _ ht => ?_) h1 _) _ _ _ hr
                exact canon_countFetch ht ..

@[simp] theorem canon_setCopy {s : State} (h : CanonMaps s.mem s.peer) (x1 : Copy) :
    CanonMaps (State.setCopy s x1).mem (State.setCopy s x1).peer := by
  unfold State.setCopy
  (repeat' split) <;> simp [h]

@[simp] theorem canon_copyPiece_stop {s : State} (h : CanonMaps s.mem s.peer) (x1 : Copy) (x2 : Stop) :
    CanonMaps (State.copyPiece.stop s x1 x2).mem (State.copyPiece.stop s x1 x2).peer := by
  unfold State.copyPiece.stop
  (repeat' split) <;> simp [h]

theorem someCanon_requestWait {s : State} (h : CanonMaps s.mem s.peer) (r : Req) : SomeCanon (State.requestWait s r) := by
  unfold State.requestWait
  repeat' first | assumption | exact someCanon_none | refine someCanon_some ?_ | with_reducible apply canon_backInvalidate | split

theorem someCanon_engineWait {s : State} (h : CanonMaps s.mem s.peer) (gs : Nat) (reads writes : List Nat) : SomeCanon (State.engineWait s gs reads writes) := someCanon_requestWait h _

@[simp] theorem canon_countCopied {s : State} (h : CanonMaps s.mem s.peer) (x1 : Copy) (x2 : Nat) :
    CanonMaps (State.countCopied s x1 x2).mem (State.countCopied s x1 x2).peer := by
  unfold State.countCopied
  (repeat' split) <;> simp [h]

@[simp] theorem canon_engineWrite {s : State} (h : CanonMaps s.mem s.peer) (x1 : Copy) (x2 : Nat) (x3 : List Nat) (x4 : Nat) (x5 : List Byte) :
    CanonMaps (State.engineWrite s x1 x2 x3 x4 x5).mem (State.engineWrite s x1 x2 x3 x4 x5).peer := by
  unfold State.engineWrite
  repeat' first
    | assumption
    | with_reducible (first
        | apply canon_noteGrant | apply canon_signal | apply canon_sendEdges | apply canon_performAll)
    | split

@[simp] theorem canon_copyPiece {s : State} (h : CanonMaps s.mem s.peer) (c : Copy) :
    CanonMaps (s.copyPiece c).mem (s.copyPiece c).peer := by
  unfold State.copyPiece
  dsimp only
  split
  · exact canon_copyPiece_stop h ..
  · next s1 hr =>
    have h1 := canon_copyRead _ _ _ _ _ h _ _ _ hr
    split
    · exact canon_copyPiece_stop h ..
    · next s2 hx =>
      have h2 := (okCanon_copyXlat h1 ..).elim hx
      split
      · exact (someCanon_engineWait h ..).elim (by assumption)
      · exact canon_countCopied (canon_setCopy (canon_engineWrite h2 ..) ..) ..

@[simp] theorem canon_seenBy {s : State} (h : CanonMaps s.mem s.peer) (x1 : Nat) (x2 : MatCmd) :
    CanonMaps (State.seenBy s x1 x2).mem (State.seenBy s x1 x2).peer := by
  unfold State.seenBy
  repeat' first | assumption | with_reducible apply canon_setBytes | refine canon_foldl (fun _ _ _ => ?_) ?_ _ | split

@[simp] theorem canon_matPiece {s : State} (h : CanonMaps s.mem s.peer) (x1 : Nat) (x2 : Nat) :
    CanonMaps (State.matPiece s x1 x2).mem (State.matPiece s x1 x2).peer := by
  unfold State.matPiece
  repeat' first
    | assumption | refine SomeCanon.elim (someCanon_engineWait ?_ ..) (by assumption)
    | with_reducible (first
        | apply canon_performAll | apply canon_noteGrant)
    | refine canon_foldl (fun _ _ _ => ?_) ?_ _ | split | dsimp only

theorem steps_execEngineChunkGrant {s : State} (x0 : Nat) : Steps s (execEngineChunkGrant x0 s) := by
  unfold execEngineChunkGrant
  repeat' first
    | assumption | refine steps_next fun _ => ?_
    | with_reducible (first
        | refine canon_engineGrant ?_ _ _ ?_ | apply canon_copyPiece | apply canon_matPiece)
    | split | dsimp only

@[simp] theorem canon_copyFinish {s : State} (h : CanonMaps s.mem s.peer) (x1 : Copy) :
    CanonMaps (State.copyFinish s x1).mem (State.copyFinish s x1).peer := by
  unfold State.copyFinish
  dsimp only
  (repeat' split) <;> simp [h]

@[simp] theorem canon_copyRecord {s : State} (h : CanonMaps s.mem s.peer) (x1 : Copy) :
    CanonMaps (s.copyRecord x1).mem (s.copyRecord x1).peer := by
  unfold State.copyRecord
  split
  · simp [h]
  · exact h
  · next hx =>
    have h1 := (okCanon_copyXlat h ..).elim hx
    split
    · exact (someCanon_engineWait h ..).elim ‹_›
    · simp [h1]

theorem steps_execCopyComplete {s : State} (x0 : Nat) : Steps s (execCopyComplete x0 s) := by
  unfold execCopyComplete
  repeat' first
    | assumption | refine steps_next fun _ => ?_
    | with_reducible (first
        | apply canon_copyFinish | apply canon_askPull | refine canon_engineGrant ?_ _ _ ?_ | apply canon_copyRecord)
    | split | dsimp only

theorem steps_execCombiningRelease {s : State} (x0 : Nat) : Steps s (execCombiningRelease x0 s) := by
  unfold execCombiningRelease
  repeat' first | assumption | refine steps_next fun _ => ?_

theorem steps_execReads {s : State} (x0 : Nat) (x1 : Nat) : Steps s (execReads x0 x1 s) := by
  unfold execReads
  repeat' first | assumption | refine steps_next fun _ => ?_ | with_reducible apply canon_doReads

theorem steps_execReadm {s : State} (x0 : Nat) (x1 : Nat) : Steps s (execReadm x0 x1 s) := by
  unfold execReadm
  repeat' first | assumption | refine steps_next fun _ => ?_ | with_reducible apply canon_doReadm

theorem steps_execFwd {s : State} (x0 : Nat) (x1 : Nat) (x2 : Nat) : Steps s (execFwd x0 x1 x2 s) := by
  unfold execFwd
  repeat' first | assumption | refine steps_next fun _ => ?_ | with_reducible apply canon_doFwd

theorem steps_execData {s : State} (x0 : Nat) (x1 : Nat) : Steps s (execData x0 x1 s) := by
  unfold execData
  repeat' first | assumption | refine steps_next fun _ => ?_ | with_reducible apply canon_doData

theorem steps_execWback {s : State} (x0 : Nat) (x1 : Nat) : Steps s (execWback x0 x1 s) := by
  unfold execWback
  repeat' first | assumption | refine steps_next fun _ => ?_ | with_reducible apply canon_doWback

theorem steps_execAck {s : State} (x0 : Nat) (x1 : Nat) : Steps s (execAck x0 x1 s) := by
  unfold execAck
  repeat' first | assumption | refine steps_next fun _ => ?_ | with_reducible apply canon_doAck

theorem steps_execInv {s : State} (x0 : Nat) (x1 : Nat) : Steps s (execInv x0 x1 s) := by
  unfold execInv
  repeat' first | assumption | refine steps_next fun _ => ?_ | with_reducible apply canon_doInv

theorem steps_execBinv {s : State} (x0 : Nat) (x1 : Nat) : Steps s (execBinv x0 x1 s) := by
  unfold execBinv
  repeat' first | assumption | refine steps_next fun _ => ?_ | with_reducible apply canon_doBinv

theorem steps_execRemoteStoreMessage {s : State}  : Steps s (execRemoteStoreMessage s) := by
  unfold execRemoteStoreMessage
  repeat' first | assumption | refine steps_next fun _ => ?_ | with_reducible apply canon_store | split

@[simp] theorem canon_writeDest {s : State} (h : CanonMaps s.mem s.peer) (x1 : Nat) (x2 : Dest) :
    CanonMaps (State.writeDest s x1 x2).mem (State.writeDest s x1 x2).peer := by
  unfold State.writeDest
  (repeat' split) <;> simp [h]

@[simp] theorem canon_loadLine {s : State} (h : CanonMaps s.mem s.peer) (x0 : Nat) (x2 : Nat) :
    CanonMaps (State.loadLine x0 s x2).mem (State.loadLine x0 s x2).peer := by
  unfold State.loadLine
  dsimp only
  (repeat' split) <;> simp [h]

@[simp] theorem canon_loadLines {s : State} (h : CanonMaps s.mem s.peer) (x1 : Nat) (x2 : List Dest) :
    CanonMaps (State.loadLines s x1 x2).mem (State.loadLines s x1 x2).peer := by
  unfold State.loadLines
  simp +contextual [h]

theorem steps_execLoadDataReturn {s : State} (x0 : Nat) : Steps s (execLoadDataReturn x0 s) := by
  unfold execLoadDataReturn
  repeat' first
    | assumption | refine steps_next fun _ => ?_
    | with_reducible (first
        | apply canon_sawShared | apply canon_setThread | apply canon_writeDest | apply canon_loadLines)
    | refine canon_foldl (fun _ _ _ => ?_) ?_ _ | split | dsimp only

@[simp] theorem canon_aimed {s : State} (h : CanonMaps s.mem s.peer) (gs pa : Nat) :
    CanonMaps (State.aimed s gs pa).2.mem (State.aimed s gs pa).2.peer := by
  unfold State.aimed
  repeat' first | assumption | with_reducible apply canon_setAD | split | dsimp only

theorem canon_foldl_snd {α β : Type} {f : α × State → β → α × State}
    (hf : ∀ r b, CanonMaps r.2.mem r.2.peer → CanonMaps (f r b).2.mem (f r b).2.peer) {r : α × State} (h : CanonMaps r.2.mem r.2.peer)
    (l : List β) : CanonMaps (l.foldl f r).2.mem (l.foldl f r).2.peer := by
  induction l generalizing r with
  | nil => exact h
  | cons b l ih => exact ih (hf r b h)

theorem canon_reaimEff {s : State} (h : CanonMaps s.mem s.peer) (gs : Nat) (e : Eff) :
    CanonMaps (State.reaimEff gs s e).2.mem (State.reaimEff gs s e).2.peer := by
  unfold State.reaimEff
  split
  · exact h
  all_goals
    refine canon_foldl_snd (fun r p hr => ?_) ?_ _
    · exact canon_aimed hr _ _
    · exact h

theorem canon_reaim {s : State} (h : CanonMaps s.mem s.peer) (gs : Nat) (effs : List Eff) :
    CanonMaps (State.reaim s gs effs).2.mem (State.reaim s gs effs).2.peer := by
  unfold State.reaim
  split
  · exact h
  · refine canon_foldl_snd (fun r p hr => ?_) ?_ _
    · exact canon_reaimEff hr _ _
    · exact h

@[simp] theorem canon_performSingle {s : State} (h : CanonMaps s.mem s.peer) (x1 : Nat) (x2 : List Eff) :
    CanonMaps (State.performSingle s x1 x2).mem (State.performSingle s x1 x2).peer := by
  unfold State.performSingle
  (repeat' split) <;> simp [h]

@[simp] theorem canon_placeSingle {s : State} (h : CanonMaps s.mem s.peer) (x1 : Nat) (x2 : Nat) (x3 : List Eff) (x4 : Thread → Thread) :
    CanonMaps (State.placeSingle s x1 x2 x3 x4).mem (State.placeSingle s x1 x2 x3 x4).peer := by
  unfold State.placeSingle
  repeat' first
    | assumption
    | with_reducible (first
        | apply canon_divergence | apply canon_reaim | apply canon_sawShared | apply canon_performSingle | apply canon_setThread
        | apply canon_backInvalidate)
    | split | dsimp only

theorem steps_execStoreGloballyPerformed {s : State} (x0 : Nat) : Steps s (execStoreGloballyPerformed x0 s) := by
  unfold execStoreGloballyPerformed
  repeat' first | assumption | refine steps_next fun _ => ?_ | with_reducible apply canon_placeSingle | split | dsimp only

theorem steps_execStreamPrefetchArrival {s : State} (x0 : Nat) (x1 : Nat) : Steps s (execStreamPrefetchArrival x0 x1 s) := by
  unfold execStreamPrefetchArrival
  repeat' first
    | assumption | refine steps_next fun _ => ?_
    | with_reducible (first
        | apply canon_cohAsk | apply canon_countFetch | apply canon_walkLines | apply canon_setThread)
    | split | dsimp only

@[simp] theorem canon_setMsg {s : State} (h : CanonMaps s.mem s.peer) (x1 : Nat) (x2 : MsgState) :
    CanonMaps (State.setMsg s x1 x2).mem (State.setMsg s x1 x2).peer := by
  unfold State.setMsg
  (repeat' split) <;> simp [h]

theorem someCanon_arrive {s : State} (h : CanonMaps s.mem s.peer) (gs port : Nat) (v : Word) : SomeCanon (State.arrive s gs port v) := by
  unfold State.arrive
  repeat' first | assumption | exact someCanon_none | refine someCanon_some ?_ | with_reducible apply canon_performAll | split | dsimp only

@[simp] theorem canon_msgArrive {s : State} (h : CanonMaps s.mem s.peer) (x1 : Msg) :
    CanonMaps (State.msgArrive s x1).mem (State.msgArrive s x1).peer := by
  unfold State.msgArrive
  repeat' first | assumption | refine SomeCanon.elim (someCanon_arrive ?_ ..) (by assumption) | split | dsimp only

theorem steps_execMessageArrival {s : State} (x0 : Nat) : Steps s (execMessageArrival x0 s) := by
  unfold execMessageArrival
  repeat' first | assumption | refine steps_next fun _ => ?_ | with_reducible apply canon_msgArrive | split

theorem steps_execFullReply {s : State} (x0 : Nat) : Steps s (execFullReply x0 s) := by
  unfold execFullReply
  repeat' first | assumption | refine steps_next fun _ => ?_ | split

theorem steps_execMessageResend {s : State} (x0 : Nat) : Steps s (execMessageResend x0 s) := by
  unfold execMessageResend
  repeat' first | assumption | refine steps_next fun _ => ?_

theorem steps_execMessageRefusal {s : State} (x0 : Nat) : Steps s (execMessageRefusal x0 s) := by
  unfold execMessageRefusal
  repeat' first | assumption | refine steps_next fun _ => ?_ | with_reducible apply canon_postKernel | split | dsimp only

theorem steps_execQresHead {s : State} (x0 : Nat) : Steps s (execQresHead x0 s) := by
  unfold execQresHead
  repeat' first
    | assumption | refine steps_next fun _ => ?_
    | with_reducible (first
        | apply canon_cohDrop | apply canon_setThread)
    | split | dsimp only

theorem steps_execQrelAck {s : State} (x0 : Nat) : Steps s (execQrelAck x0 s) := by
  unfold execQrelAck
  repeat' first | assumption | refine steps_next fun _ => ?_ | split | dsimp only

theorem steps_execEdgeAtomicAtHome {s : State} (x0 : Nat) : Steps s (execEdgeAtomicAtHome x0 s) := by
  unfold execEdgeAtomicAtHome
  repeat' first
    | assumption | refine steps_next fun _ => ?_
    | with_reducible (first
        | apply canon_setThread | apply canon_setBytes | apply canon_divergence)
    | refine SomeCanon.elim (someCanon_requestWait ?_ ..) (by assumption)
    | with_reducible (first
        | apply canon_noteGrant | apply canon_performAll)
    | split | dsimp only

theorem steps_execEdgeAtomicResponse {s : State} (x0 : Nat) : Steps s (execEdgeAtomicResponse x0 s) := by
  unfold execEdgeAtomicResponse
  repeat' first | assumption | refine steps_next fun _ => ?_ | split | dsimp only

@[simp] theorem canon_edgeGone {s : State} (h : CanonMaps s.mem s.peer) (x1 : EdgeWrite) :
    CanonMaps (State.edgeGone s x1).mem (State.edgeGone s x1).peer := by
  unfold State.edgeGone
  dsimp only
  (repeat' split) <;> simp [h]

theorem steps_execEdgeWriteAck {s : State} (x0 : Nat) : Steps s (execEdgeWriteAck x0 s) := by
  unfold execEdgeWriteAck
  repeat' first
    | assumption | refine steps_next fun _ => ?_
    | with_reducible (first
        | apply canon_setByte | apply canon_edgeGone)
    | refine canon_foldl (fun _ _ _ => ?_) ?_ _ | split

theorem steps_execEdgeWriteRefused {s : State} (x0 : Nat) : Steps s (execEdgeWriteRefused x0 s) := by
  unfold execEdgeWriteRefused
  repeat' first
    | assumption | refine steps_next fun _ => ?_
    | with_reducible (first
        | apply canon_edgeGone | apply canon_postHyper | apply canon_postKernel)
    | split

@[simp] theorem canon_sleepOut {s : State} (h : CanonMaps s.mem s.peer) (x1 : Nat) (x2 : Bool) :
    CanonMaps (State.sleepOut s x1 x2).mem (State.sleepOut s x1 x2).peer := by
  unfold State.sleepOut
  dsimp only
  (repeat' split) <;> simp [h]

theorem steps_execMonwTimeout {s : State} (x0 : Nat) : Steps s (execMonwTimeout x0 s) := by
  unfold execMonwTimeout
  repeat' first | assumption | refine steps_next fun _ => ?_ | with_reducible apply canon_sleepOut

theorem steps_execWsleepTimeout {s : State} (x0 : Nat) : Steps s (execWsleepTimeout x0 s) := by
  unfold execWsleepTimeout
  repeat' first | assumption | refine steps_next fun _ => ?_ | with_reducible apply canon_sleepOut

@[simp] theorem canon_acceptCmd {s : State} (h : CanonMaps s.mem s.peer) (x1 : Nat) (x2 : Nat) :
    CanonMaps (State.acceptCmd s x1 x2).mem (State.acceptCmd s x1 x2).peer := by
  unfold State.acceptCmd
  (repeat' split) <;> simp [h]

theorem steps_execMatrixCommandAccept {s : State} (x0 : Nat) (x1 : Nat) : Steps s (execMatrixCommandAccept x0 x1 s) := by
  unfold execMatrixCommandAccept
  repeat' first | assumption | refine steps_next fun _ => ?_ | with_reducible apply canon_acceptCmd | split

@[simp] theorem canon_setTileBytes {s : State} (h : CanonMaps s.mem s.peer) (x1 : Nat) (x2 : Nat) (x3 : List PByte) :
    CanonMaps (State.setTileBytes s x1 x2 x3).mem (State.setTileBytes s x1 x2 x3).peer := by
  unfold State.setTileBytes
  (repeat' split) <;> simp [h]

@[simp] theorem canon_writeTiles {s : State} (h : CanonMaps s.mem s.peer) (x1 : Nat) (x2 : MatCmd) :
    CanonMaps (State.writeTiles s x1 x2).mem (State.writeTiles s x1 x2).peer := by
  unfold State.writeTiles
  (repeat' split) <;> simp +contextual [h]

@[simp] theorem canon_completeCmd {s : State} (h : CanonMaps s.mem s.peer) (x1 : Nat) (x2 : Nat) :
    CanonMaps (State.completeCmd s x1 x2).mem (State.completeCmd s x1 x2).peer := by
  unfold State.completeCmd
  dsimp only
  (repeat' split) <;> simp [h]

theorem steps_execMatrixCommandComplete {s : State} (x0 : Nat) (x1 : Nat) : Steps s (execMatrixCommandComplete x0 x1 s) := by
  unfold execMatrixCommandComplete
  repeat' first | assumption | refine steps_next fun _ => ?_ | with_reducible apply canon_completeCmd | split

@[simp] theorem canon_deliverWords {s : State} (h : CanonMaps s.mem s.peer) (gs : Nat) (ws : List Word) :
    CanonMaps (s.deliverWords gs ws).1.mem (s.deliverWords gs ws).1.peer := by
  induction ws generalizing s with
  | nil => exact h
  | cons w ws ih =>
    unfold State.deliverWords
    split
    · exact ih ((someCanon_arrive h _ _ _).elim ‹_›)
    · exact h

theorem steps_execReductionRoundDeliver {s : State} (x0 : Nat) (x1 : Nat) : Steps s (execReductionRoundDeliver x0 x1 s) := by
  unfold execReductionRoundDeliver
  repeat' first | assumption | refine steps_next fun _ => ?_ | with_reducible apply canon_deliverWords | split | dsimp only

theorem steps_execChildStart {s : State} (x0 : Nat) (x1 : Nat) : Steps s (execChildStart x0 x1 s) := by
  unfold execChildStart
  repeat' first | assumption | refine steps_next fun _ => ?_ | with_reducible apply canon_startThread | split

@[simp] theorem canon_returnTask {s : State} (h : CanonMaps s.mem s.peer) (x1 : Nat) (x2 : Nat) :
    CanonMaps (State.returnTask s x1 x2).mem (State.returnTask s x1 x2).peer := by
  unfold State.returnTask
  dsimp only
  (repeat' split) <;> simp [h]

@[simp] theorem canon_readPool {s : State} (h : CanonMaps s.mem s.peer) (x1 : Launch) (x2 : Nat) :
    CanonMaps (State.readPool s x1 x2).mem (State.readPool s x1 x2).peer := by
  unfold State.readPool
  repeat' first
    | assumption | refine OkCanon.elim (okCanon_engineXlat ?_ ..) (by assumption)
    | with_reducible (first
        | apply canon_countFetch | apply canon_postTable)
    | split

@[simp] theorem canon_fillPool : ∀ (n : Nat) {s : State}, CanonMaps s.mem s.peer → ∀ lid : Nat,
    CanonMaps (State.fillPool n s lid).mem (State.fillPool n s lid).peer
  | 0, _, h, _ => h
  | n + 1, s, h, lid => by
    unfold State.fillPool
    split
    · split
      · exact canon_fillPool n (canon_poolTask h _ _ _) lid
      · exact h
    · exact h

theorem steps_execTaskStart {s : State} (x0 : Nat) (x1 : Nat) : Steps s (execTaskStart x0 x1 s) := by
  unfold execTaskStart
  repeat' first
    | assumption | refine steps_next fun _ => ?_
    | with_reducible (first
        | apply canon_returnTask | apply canon_readPool)
    | refine canon_fillPool _ ?_ _ | with_reducible apply canon_startThread | split | dsimp only

theorem steps_execPassedOverEntry {s : State} (x0 : Nat) : Steps s (execPassedOverEntry x0 s) := by
  unfold execPassedOverEntry
  repeat' first | assumption | refine steps_next fun _ => ?_ | split | dsimp only

@[simp] theorem canon_queueError {s : State} (h : CanonMaps s.mem s.peer) (x1 : Nat) (x2 : Nat) (x3 : Nat) (x4 : Word) :
    CanonMaps (State.queueError s x1 x2 x3 x4).mem (State.queueError s x1 x2 x3 x4).peer := by
  unfold State.queueError
  (repeat' split) <;> simp [h]

@[simp] theorem canon_mapQueue {s : State} (h : CanonMaps s.mem s.peer) (x1 : VFunc) (x2 : Nat) (x3 : Nat) :
    CanonMaps (State.mapQueue s x1 x2 x3).mem (State.mapQueue s x1 x2 x3).peer := by
  unfold State.mapQueue
  (repeat' split) <;> simp [h]

@[simp] theorem canon_mapPending : ∀ (n : Nat) {s : State}, CanonMaps s.mem s.peer →
    CanonMaps (State.mapPending n s).mem (State.mapPending n s).peer
  | 0, _, h => h
  | n + 1, s, h => by
    unfold State.mapPending
    split
    · split
      · exact canon_mapPending n (canon_mapQueue h _ _ _)
      · exact h
    · exact h

@[simp] theorem canon_notify {s : State} (h : CanonMaps s.mem s.peer) (x1 : Nat) (x2 : Nat) :
    CanonMaps (State.notify s x1 x2).mem (State.notify s x1 x2).peer := by
  unfold State.notify
  dsimp only
  (repeat' split) <;> simp [h]

theorem steps_execQueueNotify {s : State} (x0 : Nat) (x1 : Nat) : Steps s (execQueueNotify x0 x1 s) := by
  unfold execQueueNotify
  repeat' first | assumption | refine steps_next fun _ => ?_ | with_reducible apply canon_notify

theorem okCanon_schedXlat {s : State} (h : CanonMaps s.mem s.peer) (fetch : Bool) (vf asid : Nat) (va : Word) : OkCanon (State.schedXlat s fetch vf asid va) := by
  unfold State.schedXlat
  split
  · refine ⟨fun a t e => ?_⟩
    cases hx : s.engineXlat (some vf) asid 1 va .read with
    | error x => rw [hx] at e; cases e
    | ok p =>
      rw [hx] at e
      cases e
      exact canon_countFetch ((okCanon_engineXlat h _ _ _ _ _).elim hx) _ _
  · repeat' first | assumption | exact okCanon_error _ | refine okCanon_ok ?_ | split | dsimp only | (simp [*]; done)

theorem keeps_schedRead (x0 : Bool) (x1 x2 : Nat) (x3 : Word) : Keeps (schedRead x0 x1 x2 x3) := by
  refine ⟨fun s a t h e => ?_⟩
  unfold schedRead at e
  split at e
  · cases e
  · next hx =>
    have h1 := (okCanon_schedXlat h _ _ _ _).elim hx
    split at e
    · cases e
    · injection e with e
      injection e with _ e
      exact e ▸ h1

theorem keeps_readRecord (x0 : Bool) (x1 : QSlot) (x2 : Word) : Keeps (readRecord x0 x1 x2) := by
  unfold readRecord
  repeat' first | with_reducible (first | apply keeps_schedRead | refine keeps_mapM (fun _ => ?_) _)

theorem keeps_eventsMet (x0 : Bool) (x1 : QSlot) (x2 : List Word) : Keeps (eventsMet x0 x1 x2) := by
  unfold eventsMet
  repeat' first
    | with_reducible (first
        | apply keeps_schedRead | refine keeps_bind ?_ fun _ => ?_ | exact keeps_pure _ | refine keeps_foldlM (fun _ _ => ?_) _ _)
    | split

@[simp] theorem canon_headOfQueue {s : State} (h : CanonMaps s.mem s.peer) (fetch : Bool) (m : QSlot) :
    CanonMaps (s.headOfQueue fetch m).2.mem (s.headOfQueue fetch m).2.peer := by
  have h1 : ∀ va r t, readRecord fetch m va s = .ok (r, t) → CanonMaps t.mem t.peer := fun _ _ _ e => (keeps_readRecord ..).elim h e
  have h2 : ∀ r t b u, CanonMaps t.mem t.peer → eventsMet fetch m r t = .ok (b, u) → CanonMaps u.mem u.peer :=
    fun _ _ _ _ ht e => (keeps_eventsMet ..).elim ht e
  unfold State.headOfQueue
  dsimp only
  split
  · exact h
  repeat' first | with_reducible assumption | (refine h2 _ _ _ _ ?_ (by assumption)) | (refine h1 _ _ _ (by assumption)) | split

@[simp] theorem canon_releaseQueue {s : State} (h : CanonMaps s.mem s.peer) (x1 : Nat) :
    CanonMaps (State.releaseQueue s x1).mem (State.releaseQueue s x1).peer := by
  unfold State.releaseQueue
  (repeat' split) <;> simp [h]

@[simp] theorem canon_schedFault {s : State} (h : CanonMaps s.mem s.peer) (x1 : Nat) (x2 : Nat) (x3 : Trap) (x4 : Word) :
    CanonMaps (State.schedFault s x1 x2 x3 x4).mem (State.schedFault s x1 x2 x3 x4).peer := by
  unfold State.schedFault
  (repeat' split) <;> simp [h]

@[simp] theorem canon_noteOwn {s : State} (h : CanonMaps s.mem s.peer) (x1 : List Nat) :
    CanonMaps (State.noteOwn s x1).mem (State.noteOwn s x1).peer := by
  unfold State.noteOwn
  (repeat' split) <;> simp [h]

@[simp] theorem canon_writeOwn {s : State} (h : CanonMaps s.mem s.peer) (x1 : List Eff) :
    CanonMaps (State.writeOwn s x1).mem (State.writeOwn s x1).peer := by
  unfold State.writeOwn
  (repeat' split) <;> simp [h]

@[simp] theorem canon_raiseHead {s : State} (h : CanonMaps s.mem s.peer) (x1 : VFunc) (x2 : Nat) :
    CanonMaps (State.raiseHead s x1 x2).mem (State.raiseHead s x1 x2).peer := by
  unfold State.raiseHead
  (repeat' split) <;> simp [h]

theorem steps_execLaunchStart {s : State} (vf q : Nat) : Steps s (execLaunchStart vf q s) := by
  have hp (b : Bool) (m : QSlot) {r : Head} {t : State} (h : s.Canonical) (e : s.headOfQueue b m = (r, t)) : t.Canonical := by
    have h1 : (s.headOfQueue b m).2.Canonical := canon_headOfQueue h b m
    rw [e] at h1
    exact h1
  have hr (t : State) (v : VFunc) (q : Nat) (h : t.Canonical) : (t.raiseHead v q).Canonical := canon_raiseHead h v q
  have hf (t : State) (n lid : Nat) (h : t.Canonical) : (State.fillPool n t lid).Canonical := canon_fillPool n h lid
  have hs (t : State) (vf q : Nat) (r : Trap) (a : Word) (h : t.Canonical) : (t.schedFault vf q r a).Canonical := canon_schedFault h vf q r a
  have hk (t : State) (k : Nat) (h : t.Canonical) : (t.releaseQueue k).Canonical := canon_releaseQueue h k
  have he (t : State) (v q c : Nat) (w : Word) (h : t.Canonical) : (t.queueError v q c w).Canonical := canon_queueError h v q c w
  unfold execLaunchStart
  split
  · next m v _ _ =>
    extract_lets k
    refine steps_ite (steps_next id) ?_
    split
    · exact steps_next fun h => hk _ _ (canonical_ite (he _ _ _ _ _ h) h)
    · next hx => exact steps_next fun h => canon_askPull (hp false m h hx) ..
    · next hx => exact steps_next fun h => hp false m h hx
    · exact steps_ite (steps_next id) (steps_next fun h => hs _ _ _ _ _ (hr _ _ _ h))
    · next asid r st f _ hx => 
      refine steps_ite (steps_next id) ?_
      have h0 (h : s.Canonical) : (s.headOfQueue true m).2.Canonical := canon_headOfQueue h true m
      extract_lets l l1 src s1
      refine steps_next fun h => hf _ _ _ (hr _ _ _ ?_)
      have hsrc : src.Canonical := by
        have hm : ∀ g : Option Trap, State.Canonical (match g with | some t => (s.headOfQueue true m).2.postTable t | none => (s.headOfQueue true m).2) := by
          intro g
          cases g with
          | none => exact h0 h
          | some t => exact canon_postTable (h0 h) ..
        exact hm f
      exact hsrc
  · exact steps_next id

theorem keeps_blockRanges (x0 : Launch) (x1 : Nat) : Keeps (blockRanges x0 x1) := by
  unfold blockRanges
  repeat' first
    | with_reducible (first
        | apply keeps_schedRead | refine keeps_bind ?_ fun _ => ?_ | exact keeps_pure _ | refine keeps_mapM (fun _ => ?_) _)

theorem keeps_chooseDie (x0 : Launch) (x1 : Nat) : Keeps (chooseDie x0 x1) := by
  unfold chooseDie
  repeat' first
    | with_reducible (first
        | exact keeps_blockRanges .. | refine keeps_get_bind fun _ _ => ?_ | refine keeps_bind ?_ fun _ => ?_ | exact keeps_pure _)
    | split

theorem keeps_blockDie (x0 : Nat) (x1 : Launch) (x2 : Nat) : Keeps (blockDie x0 x1 x2) := by
  unfold blockDie
  repeat' first
    | assumption
    | with_reducible (first
        | exact keeps_chooseDie .. | refine keeps_bind ?_ fun _ => ?_ | refine keeps_modify fun _ _ => ?_ | exact keeps_pure _)
    | split

theorem keeps_chooseDies (x0 : Nat) (x1 : Nat) : Keeps (chooseDies x0 x1) := by
  unfold chooseDies
  repeat' first
    | with_reducible (first
        | exact keeps_blockDie .. | refine keeps_get_bind fun _ _ => ?_ | refine keeps_bind ?_ fun _ => ?_ | exact keeps_pure _
        | refine keeps_forM (fun _ => ?_) _)
    | split

@[simp] theorem canon_startGroup {s : State} (h : CanonMaps s.mem s.peer) (x1 : Nat) (x2 : Launch) (x3 : VFunc) (x4 : Nat) (x5 : Nat) (x6 : List Nat × List Nat × Nat) :
    CanonMaps (State.startGroup s x1 x2 x3 x4 x5 x6).mem (State.startGroup s x1 x2 x3 x4 x5 x6).peer := by
  unfold State.startGroup
  repeat' first | assumption | with_reducible apply canon_startThread | refine canon_foldl (fun _ _ _ => ?_) ?_ _ | split | dsimp only

theorem someCanon_startOn {s : State} (h : CanonMaps s.mem s.peer) (lid : Nat) (l : Launch) (v : VFunc) (g die : Nat) : SomeCanon (State.startOn s lid l v g die) := by
  refine ⟨fun t e => ?_⟩
  obtain ⟨p, _, rfl⟩ := Option.map_eq_some_iff.mp e
  exact canon_startGroup h ..

theorem keeps_startNext (lid : Nat) : ∀ (n b : Nat) (held : List Nat), Keeps (startNext lid n b held)
  | 0, _, _ => keeps_pure _
  | n + 1, b, held => by
    unfold startNext
    repeat' first
    | exact keeps_startNext .. | with_reducible apply keeps_blockDie | refine SomeCanon.elim (someCanon_startOn ?_ ..) (by assumption)
    | assumption
    | with_reducible (first
        | refine keeps_get_bind fun _ _ => ?_ | refine keeps_bind ?_ fun _ => ?_ | refine keeps_set ?_ | exact keeps_pure _)
    | split | dsimp only

theorem keeps_allGroups (lid blocks : Nat) : ∀ n : Nat, Keeps (allGroups lid blocks n)
  | 0 => keeps_pure _
  | n + 1 => by
    unfold allGroups
    refine keeps_bind (keeps_startNext ..) fun b => ?_
    split
    · exact keeps_allGroups lid blocks n
    · exact keeps_pure _

theorem keeps_startGroups (x0 : Nat) (x1 : Launch) : Keeps (startGroups x0 x1) := by
  unfold startGroups
  repeat' first
    | with_reducible exact keeps_chooseDies .. | exact keeps_allGroups .. | exact keeps_startNext ..
    | with_reducible refine keeps_bind ?_ fun _ => ?_ | split

@[simp] theorem canon_endLaunch {s : State} (h : CanonMaps s.mem s.peer) (x1 : Nat) (x2 : Nat) :
    CanonMaps (State.endLaunch s x1 x2).mem (State.endLaunch s x1 x2).peer := by
  unfold State.endLaunch
  (repeat' split) <;> simp [h]

theorem steps_execCoreGroupStart {s : State} (x0 : Nat) : Steps s (execCoreGroupStart x0 s) := by
  unfold execCoreGroupStart
  repeat' first
    | assumption | refine steps_next fun _ => ?_ | refine Keeps.elim (keeps_startGroups ..) ?_ (by assumption)
    | with_reducible (first
        | apply canon_endLaunch | apply canon_postTable | apply canon_askPull)
    | refine Keeps.elim (keeps_chooseDies ..) ?_ (by assumption) | split

theorem someCanon_completionWait {s : State} (h : CanonMaps s.mem s.peer) (l : Launch) (va : Word) (n : Nat) : SomeCanon (State.completionWait s l va n) := by
  unfold State.completionWait
  repeat' first
    | assumption | exact someCanon_none | refine someCanon_some ?_ | with_reducible apply canon_askPull
    | refine someCanon_requestWait ?_ .. | split

@[simp] theorem canon_raiseCev {s : State} (h : CanonMaps s.mem s.peer) (x1 : Launch) :
    CanonMaps (State.raiseCev s x1).mem (State.raiseCev s x1).peer := by
  unfold State.raiseCev
  repeat' first
    | assumption | refine OkCanon.elim (okCanon_engineXlat ?_ ..) (by assumption)
    | with_reducible (first
        | apply canon_schedFault | apply canon_queueError | apply canon_writeOwn | apply canon_countFetch)
    | split | dsimp only

@[simp] theorem canon_writeRecord {s : State} (h : CanonMaps s.mem s.peer) (x1 : Launch) :
    CanonMaps (State.writeRecord s x1).mem (State.writeRecord s x1).peer := by
  unfold State.writeRecord
  repeat' first
    | assumption | refine OkCanon.elim (okCanon_engineXlat ?_ ..) (by assumption)
    | with_reducible (first
        | apply canon_schedFault | apply canon_writeOwn)
    | split | dsimp only

theorem steps_execLaunchComplete {s : State} (lid : Nat) : Steps s (execLaunchComplete lid s) := by
  have hc (l : Launch) (t : State) (hs : s.Canonical)
      (e : (s.completionWait l (lrCrec l.record) 32).orElse (fun _ => s.completionWait l (lrCev l.record) 8) = some t) : t.Canonical := by
    cases hw : s.completionWait l (lrCrec l.record) 32 with
    | none => rw [hw] at e; exact (someCanon_completionWait hs ..).elim e
    | some w => rw [hw] at e; cases e; exact (someCanon_completionWait hs ..).elim hw
  unfold execLaunchComplete
  split
  · exact steps_next id
  · split
    · split
      · exact steps_next fun h => hc _ _ h (by assumption)
      · exact steps_next fun h => canon_raiseCev (canon_writeRecord h ..) ..
    · exact steps_next id

@[simp] theorem canon_corrected {s : State} (h : CanonMaps s.mem s.peer) (x1 : Nat) (x2 : Nat) :
    CanonMaps (State.corrected s x1 x2).mem (State.corrected s x1 x2).peer := by
  unfold State.corrected
  (repeat' split) <;> simp [h]

@[simp] theorem canon_markBad {s : State} (h : CanonMaps s.mem s.peer) (pa : Nat) :
    CanonMaps (s.markBad pa).mem (s.markBad pa).peer := by
  have hp (t : State) (k p v g : Nat) (b : List Word) (ht : t.Canonical) : (t.postHyper k p v g b).Canonical := canon_postHyper ht k p v g b
  show (s.markBad pa).Canonical
  unfold State.markBad
  refine canonical_ite (canonical_ite (hp _ _ _ _ _ _ h) h) (canonical_ite (hp _ _ _ _ _ _ (canon_setPoison h _ _)) h)

@[simp] theorem canon_logicError {s : State} (h : CanonMaps s.mem s.peer) (x1 : Nat) :
    CanonMaps (State.logicError s x1).mem (State.logicError s x1).peer := by
  unfold State.logicError
  repeat' first
    | assumption
    | with_reducible (first
        | apply canon_squash | apply canon_postHyper | apply canon_setThread | apply canon_postKernel | apply canon_contain)
    | refine canon_foldl (fun _ _ _ => ?_) ?_ _ | split | dsimp only | (simp [*]; done)

theorem steps_execErrorDetected {s : State} (x0 : Nat) (x1 : Nat) (x2 : Nat) : Steps s (execErrorDetected x0 x1 x2 s) := by
  unfold execErrorDetected
  repeat' first
    | assumption | refine steps_next fun _ => ?_
    | with_reducible (first
        | apply canon_corrected | apply canon_postHyper | apply canon_markBad | apply canon_logicError | apply canon_contain)
    | split

theorem steps_execLinkFlitError {s : State}  : Steps s (execLinkFlitError s) := by
  unfold execLinkFlitError
  repeat' first | assumption | refine steps_next fun _ => ?_ | with_reducible apply canon_corrected

@[simp] theorem canon_withFailed {s : State} (h : CanonMaps s.mem s.peer) (x1 : Nat) (x2 : Nat) :
    CanonMaps (State.withFailed s x1 x2).mem (State.withFailed s x1 x2).peer := by
  unfold State.withFailed
  (repeat' split) <;> simp [h]

@[simp] theorem canon_sansFailed {s : State} (h : CanonMaps s.mem s.peer)  :
    CanonMaps (State.sansFailed s).mem (State.sansFailed s).peer := by
  unfold State.sansFailed
  (repeat' split) <;> simp [h]

theorem canon_faultStep {s : State} (h : CanonMaps s.mem s.peer) (vf page : Nat) {e : State → Outcome} (he : ∀ t, Steps t (e t)) :
    CanonMaps (State.faultStep vf page s e).mem (State.faultStep vf page s e).peer := by
  have hn : ∀ t u, CanonMaps t.mem t.peer → e t = .next u → CanonMaps u.mem u.peer := by
    intro t u ht hu
    obtain ⟨v, hv, hc⟩ := he t
    rw [hu] at hv
    cases hv
    exact hc ht
  unfold State.faultStep
  split
  · split
    · split
      · exact canon_sansFailed (hn _ _ (canon_withFailed h ..) ‹_›)
      · exact h
    · exact h
  · exact h

@[simp] theorem canon_modMig {s : State} (h : CanonMaps s.mem s.peer) (x1 : Nat) (x2 : Mig → Mig) :
    CanonMaps (State.modMig s x1 x2).mem (State.modMig s x1 x2).peer := by
  unfold State.modMig
  (repeat' split) <;> simp [h]

@[simp] theorem canon_holdPeer {s : State} (h : CanonMaps s.mem s.peer) (x1 : PeerAccess) :
    CanonMaps (State.holdPeer s x1).mem (State.holdPeer s x1).peer := by
  unfold State.holdPeer
  (repeat' split) <;> simp [h]

@[simp] theorem canon_showMig {s : State} (h : CanonMaps s.mem s.peer) (x1 : Nat) :
    CanonMaps (State.showMig s x1).mem (State.showMig s x1).peer := by
  unfold State.showMig
  (repeat' split) <;> simp [h]

@[simp] theorem canon_servePeer {s : State} (h : CanonMaps s.mem s.peer) (x1 : PeerAccess) (x2 : VFunc) :
    CanonMaps (State.servePeer s x1 x2).mem (State.servePeer s x1 x2).peer := by
  unfold State.servePeer
  (repeat' split) <;> simp [h]

@[simp] theorem canon_peerArrival {s : State} (h : CanonMaps s.mem s.peer) (x1 : PeerAccess) :
    CanonMaps (State.peerArrival s x1).mem (State.peerArrival s x1).peer := by
  unfold State.peerArrival
  repeat' first | assumption | with_reducible (first | apply canon_showMig | apply canon_servePeer) | split | dsimp only

@[simp] theorem canon_statMig {s : State} (h : CanonMaps s.mem s.peer) (x1 : Nat) (x2 : Nat) :
    CanonMaps (State.statMig s x1 x2).mem (State.statMig s x1 x2).peer := by
  unfold State.statMig
  (repeat' split) <;> simp [h]

@[simp] theorem canon_failPull {s : State} (h : CanonMaps s.mem s.peer) (vf page : Nat) :
    CanonMaps (s.failPull vf page).mem (s.failPull vf page).peer := by
  show (s.failPull vf page).Canonical
  have hf (t : State) (e : State → Outcome) (he : ∀ t, Steps t (e t)) (h : t.Canonical) : (State.faultStep vf page t e).Canonical :=
    canon_faultStep h vf page he
  have hp (t : State) (a : PeerAccess) (h : t.Canonical) : (t.peerArrival a).Canonical := canon_peerArrival h a
  have hs (t : State) : ∀ l : List (State → Outcome), (∀ e ∈ l, ∀ u, Steps u (e u)) → t.Canonical → (l.foldl (State.faultStep vf page) t).Canonical := by
    intro l
    induction l generalizing t with
    | nil => exact fun _ h => h
    | cons e l ih => exact fun hl h => ih _ (fun e he => hl e (List.mem_cons_of_mem _ he)) (hf _ _ (hl e List.mem_cons_self) h)
  have hall (t : State) : ∀ e ∈ t.pullers, ∀ u, Steps u (e u) := by
    intro e he u
    unfold State.pullers at he
    simp only [List.mem_append, List.mem_flatMap, List.mem_map, List.mem_cons, List.not_mem_nil, or_false] at he
    rcases he with (⟨c, _, rfl | rfl⟩ | ⟨m, _, rfl⟩) | ⟨x, _, rfl | rfl⟩
    · exact steps_execEngineChunkGrant ..
    · exact steps_execCopyComplete ..
    · exact steps_execLaunchStart ..
    · exact steps_execCoreGroupStart ..
    · exact steps_execLaunchComplete ..
  unfold State.failPull
  extract_lets s1 s2 held s3
  have h2 : s2.Canonical := hs _ _ (hall _) h
  clear_value s2
  have h3 : s3.Canonical := canon_sansFailed (canonical_foldl (fun t a ht => hp _ _ ht) (canon_withFailed (canon_modMig h2 ..) ..) _)
  exact canon_statMig (canon_modMig h3 ..) ..

@[simp] theorem canon_loseLinks {s : State} (h : CanonMaps s.mem s.peer)  :
    CanonMaps (State.loseLinks s).mem (State.loseLinks s).peer := by
  unfold State.loseLinks
  repeat' first
    | assumption
    | with_reducible (first
        | apply canon_failPull | apply canon_statMig)
    | refine canon_foldl (fun _ _ _ => ?_) ?_ _

theorem steps_execHeathwayPortFailure {s : State} (x0 : Nat) : Steps s (execHeathwayPortFailure x0 s) := by
  unfold execHeathwayPortFailure
  repeat' first | assumption | refine steps_next fun _ => ?_ | with_reducible apply canon_loseLinks | split

@[simp] theorem canon_report {s : State} (h : CanonMaps s.mem s.peer) (x1 : Nat) (x2 : VFunc) (x3 : Nat) (x4 : Nat) (x5 : Nat) (x6 : Nat) :
    CanonMaps (State.report s x1 x2 x3 x4 x5 x6).mem (State.report s x1 x2 x3 x4 x5 x6).peer := by
  unfold State.report
  (repeat' split) <;> simp [h]

theorem canon_takeFrame (vf : Nat) (v : VFunc) (b : Bool) (old p : Nat) (n : Nat) : ∀ s : State, s.Canonical →
    (State.takeFrame vf v b old p n s).2.Canonical := by
  induction n with
  | zero => exact fun s h => h
  | succ n ih =>
    intro s h
    have hr (t : State) (vf : Nat) (v : VFunc) (a b c d : Nat) (h : t.Canonical) : (t.report vf v a b c d).Canonical := canon_report h vf v a b c d
    have hw (w : Option VFunc) (t : State) (h : t.Canonical) : (w.elim t (fun v => t.report vf v 4 old 0 p)).Canonical := by
      cases w with
      | none => exact h
      | some w => exact hr _ _ _ _ _ _ _ h
    have h1 (x : List Eff) : (s.performAll none x).Canonical := canon_performAll h _ _
    rw [State.takeFrame]
    by_cases hd : s.dwordAt (v.pa (if b then v.dfr else v.hfr)) = s.dwordAt (v.pa (if b then v.dfr else v.hfr) + 8)
    · rw [if_pos hd]; exact h
    · rw [if_neg hd]
      generalize (s.dwordAt (v.pa (if b then v.dfr else v.hfr))).toNat = head
      generalize v.pa (if b then v.dfr else v.hfr) = ring
      by_cases he : (s.dwordAt (ring + 16 + 8 * (head % 510))).toNat % 65536 = 0 ∧
          (s.dwordAt (ring + 16 + 8 * (head % 510))).toNat + 65536 ≤ if b then v.sbound else v.hbound
      · rw [if_pos he]; exact h1 _
      · rw [if_neg he]; exact ih _ (hw _ _ (h1 _))

@[simp] theorem canon_writeLeaves {s : State} (h : CanonMaps s.mem s.peer) (x1 : VFunc) (x2 : Nat) (x3 : List Word) :
    CanonMaps (State.writeLeaves s x1 x2 x3).mem (State.writeLeaves s x1 x2 x3).peer := by
  unfold State.writeLeaves
  (repeat' split) <;> simp [h]

theorem steps_execAccessCounterThreshold {s : State} (vf : Nat) (host : Bool) (region : Nat) : Steps s (execAccessCounterThreshold vf host region s) := by
  have hr (t : State) (vf : Nat) (v : VFunc) (a b c d : Nat) (h : t.Canonical) : (t.report vf v a b c d).Canonical := canon_report h vf v a b c d
  have hx (v : VFunc) (old p : Nat) := canon_takeFrame vf v host old p 511 s
  unfold execAccessCounterThreshold
  split
  · exact steps_next id
  · next v _ =>
    extract_lets e old ptea leaves
    split
    · exact steps_next fun h => hr _ _ _ _ _ _ _ h
    · split
      · exact steps_next id
      · split
        · exact steps_next fun h => hr _ _ _ _ _ _ _ h
        · split
          · exact steps_next fun h => hr _ _ _ _ _ _ _ h
          · split
            · next s1 hs =>
              refine steps_next fun h => ?_
              have h1 : s1.Canonical := by
                have := hx v old ptea h
                rw [hs] at this
                exact this
              cases mget s1.vfs vf with
              | none => exact h1
              | some w => exact hr _ _ _ _ _ _ _ h1
            · next f s1 hs =>
              refine steps_next fun h => ?_
              have h1 : s1.Canonical := by
                have := hx v old ptea h
                rw [hs] at this
                exact this
              exact canon_writeLeaves h1 ..

@[simp] theorem canon_copyRegion {s : State} (h : CanonMaps s.mem s.peer) (vf : Nat) (v : VFunc) (x y : Nat) :
    CanonMaps (s.copyRegion vf v x y).mem (s.copyRegion vf v x y).peer := by
  unfold State.copyRegion
  dsimp only
  refine canon_foldl (fun t i ht => ?_) h _
  refine canon_foldl (fun t i ht => canon_setPoison ht ..) ?_ _
  exact canon_performAll (canon_noteOwn (canon_walkLines ht ..) ..) ..

theorem steps_execRegionMoveComplete {s : State} (vf : Nat) : Steps s (execRegionMoveComplete vf s) := by
  have hr (t : State) (vf : Nat) (v : VFunc) (a b c d : Nat) (h : t.Canonical) : (t.report vf v a b c d).Canonical := canon_report h vf v a b c d
  have hw (t : State) (v : VFunc) (a : Nat) (ls : List Word) (h : t.Canonical) : (t.writeLeaves v a ls).Canonical := canon_writeLeaves h v a ls
  have hc (t : State) (vf : Nat) (v : VFunc) (a b : Nat) (h : t.Canonical) : (t.copyRegion vf v a b).Canonical := canon_copyRegion h vf v a b
  unfold execRegionMoveComplete
  split
  · extract_lets dst s1 s2 s3
    have h3 (h : s.Canonical) : s3.Canonical := hr _ _ _ _ _ _ _ (hw _ _ _ _ (hc _ _ _ _ _ h))
    exact steps_next fun h => h3 h
  · exact steps_next id

@[simp] theorem canon_hostError {s : State} (h : CanonMaps s.mem s.peer) (x1 : Nat) (x2 : VFunc) (x3 : Nat) :
    CanonMaps (State.hostError s x1 x2 x3).mem (State.hostError s x1 x2 x3).peer := by
  unfold State.hostError
  (repeat' split) <;> simp [h]

@[simp] theorem canon_hostTakes {s : State} (h : CanonMaps s.mem s.peer) (x1 : Nat) :
    CanonMaps (State.hostTakes s x1).mem (State.hostTakes s x1).peer := by
  unfold State.hostTakes
  (repeat' split) <;> simp [h]

theorem canon_cxlMem {s t : State} {pa : Nat} (h : s.Canonical) (e : s.cxlMem pa = .wait t ∨ (∃ vf v, s.cxlMem pa = .gone t vf v) ∨ s.cxlMem pa = .serve t) :
    t.Canonical := by
  have hc (vf : Nat) (v : VFunc) (b : Bool) (r : Nat) : (s.countRegion vf v b r).Canonical := canon_countRegion h vf v b r
  have ha (vf : Nat) (r : Nat) : (s.askPull vf r).Canonical := canon_askPull h vf r
  unfold State.cxlMem at e
  split at e
  · rcases e with e | ⟨_, _, e⟩ | e <;> cases e
    exact h
  · dsimp only at e
    repeat' split at e
    all_goals rcases e with e | ⟨_, _, e⟩ | e <;> cases e
    · exact h
    · exact hc ..
    · exact ha ..
    · exact hc ..

theorem steps_execCxlMemRead {s : State} (pa : Nat) : Steps s (execCxlMemRead pa s) := by
  have he (t : State) (vf : Nat) (v : VFunc) (a : Nat) (h : t.Canonical) : (t.hostError vf v a).Canonical := canon_hostError h vf v a
  have ho (t : State) (o : List Out) (l : Nat) (h : t.Canonical) : (State.hostTakes { t with outbox := o } l).Canonical :=
    canon_hostTakes (s := { t with outbox := o }) h l
  unfold execCxlMemRead
  refine steps_ite (steps_next id) (steps_ite (steps_next id) ?_)
  dsimp only
  split
  · next s1 hs => exact steps_next fun h => canon_cxlMem h (.inl hs)
  · next s1 vf v hs => 
    have h1 := fun h => canon_cxlMem h (.inr (.inl ⟨vf, v, hs⟩))
    have h2 := fun h => he s1 vf v (pa / 64 * 64) (h1 h)
    exact steps_next fun h => h2 h
  · next s1 hs => exact steps_next fun h => ho _ _ _ (canon_cxlMem h (.inr (.inr hs)))

@[simp] theorem canon_hostGives {s : State} (h : CanonMaps s.mem s.peer) (x1 : Nat) :
    CanonMaps (State.hostGives s x1).mem (State.hostGives s x1).peer := by
  unfold State.hostGives
  (repeat' split) <;> simp [h]

theorem steps_execCxlMemWrite {s : State} (pa : Nat) (bytes : List Byte) : Steps s (execCxlMemWrite pa bytes s) := by
  unfold execCxlMemWrite
  refine steps_ite (steps_next id) ?_
  split
  · next s1 hs => exact steps_next fun h => canon_cxlMem h (.inl hs)
  · next s1 vf v hs => exact steps_next fun h => canon_hostError (canon_cxlMem h (.inr (.inl ⟨vf, v, hs⟩))) ..
  · next s1 hs => exact steps_next fun h => canon_performAll (canon_hostGives (canon_cxlMem h (.inr (.inr hs))) ..) ..

theorem steps_execCxlCacheSnoop {s : State} (x0 : Nat) (x1 : List Byte) : Steps s (execCxlCacheSnoop x0 x1 s) := by
  unfold execCxlCacheSnoop
  repeat' first
    | assumption | refine steps_next fun _ => ?_
    | with_reducible (first
        | apply canon_cohDrain | apply canon_setDir | apply canon_performAll)
    | split

@[simp] theorem canon_packageReset {s : State} (h : CanonMaps s.mem s.peer) (x0 x1 : Nat) :
    CanonMaps (s.packageReset x0 x1).mem (s.packageReset x0 x1).peer := ⟨mwf_filter _ _ _ h.1, h.2⟩

theorem steps_execPackageReset {s : State}  : Steps s (execPackageReset s) := by
  unfold execPackageReset
  repeat' first | assumption | refine steps_next fun _ => ?_ | with_reducible apply canon_packageReset

theorem steps_execHentry {s : State} (v : Word) : Steps s (execHentry v s) := by
  have hs (t : State) (gs : Nat) (x : Thread) (r : List (Nat × Word)) (h : t.Canonical) : (t.startThread gs x r).Canonical := canon_startThread h gs x r
  unfold execHentry
  exact steps_ite (steps_next id) (steps_next fun h => hs _ _ _ _ h)

@[simp] theorem canon_drainQueue {s : State} (h : CanonMaps s.mem s.peer) (x1 : Nat) (x2 : Nat) :
    CanonMaps (State.drainQueue s x1 x2).mem (State.drainQueue s x1 x2).peer := by
  unfold State.drainQueue
  (repeat' split) <;> simp [h]

@[simp] theorem canon_settleResets {s : State} (h : CanonMaps s.mem s.peer)  :
    CanonMaps (State.settleResets s).mem (State.settleResets s).peer := by
  unfold State.settleResets
  (repeat' split) <;> simp [h]

theorem steps_execFunctionLevelReset {s : State} (n : Nat) : Steps s (execFunctionLevelReset n s) := by
  have hc (t : State) (v : Option Nat) (a r : Nat) (g : Option Nat) (h : t.Canonical) : (t.contain v a r g).1.Canonical := canon_contain h v a r g
  have hd (t : State) (v q : Nat) (h : t.Canonical) : (t.drainQueue v q).Canonical := canon_drainQueue h v q
  have hr (t : State) (f : List Nat) (h : t.Canonical) : (State.settleResets { t with flrs := f }).Canonical := canon_settleResets (s := { t with flrs := f }) h
  unfold execFunctionLevelReset
  refine steps_ite (steps_next fun h => canon_packageReset h ..) ?_
  extract_lets vf asids s1 s2
  exact steps_next fun h => hr _ _ (canonical_foldl (fun t q ht => hd _ _ _ ht) (canonical_foldl (fun t a ht => hc _ _ _ _ _ ht) h _) _)

theorem steps_execThrottleStart {s : State} (x0 : Nat) (x1 : Nat) (x2 : Nat) : Steps s (execThrottleStart x0 x1 x2 s) := by
  unfold execThrottleStart
  repeat' first | assumption | refine steps_next fun _ => ?_ | with_reducible apply canon_postHyper | split

theorem steps_execThrottleEnd {s : State} (x0 : Nat) : Steps s (execThrottleEnd x0 s) := by
  unfold execThrottleEnd
  repeat' first | assumption | refine steps_next fun _ => ?_ | with_reducible apply canon_postHyper | split

theorem steps_execThermalReset {s : State}  : Steps s (execThermalReset s) := by
  unfold execThermalReset
  repeat' first | assumption | refine steps_next fun _ => ?_ | with_reducible apply canon_packageReset

theorem steps_forPart {s : State} {α : Type} (x : ForDev α) {act : α → Outcome} (h : ∀ a, Steps s (act a)) : Steps s (forPart x s act) := by
  unfold forPart
  split
  · exact h _
  · exact steps_next id

theorem steps_execDbgen {s : State} (x0 : ForDev Nat) (x1 : Bool) : Steps s (execDbgen x0 x1 s) := by
  unfold execDbgen
  repeat' first | assumption | refine steps_next fun _ => ?_ | with_reducible refine steps_forPart _ fun _ => ?_

theorem steps_execBpset {s : State} (x0 : ForDev Nat) (x1 : Nat) (x2 : Option (Nat × Nat)) : Steps s (execBpset x0 x1 x2 s) := by
  unfold execBpset
  repeat' first | assumption | refine steps_next fun _ => ?_ | with_reducible refine steps_forPart _ fun _ => ?_ | split

theorem someCanon_atPoint {s : State} (h : CanonMaps s.mem s.peer) (gs : Nat) : SomeCanon (State.atPoint s gs) := by
  unfold State.atPoint
  repeat' first
    | assumption | exact someCanon_none | refine someCanon_some ?_
    | with_reducible (first
        | apply canon_squash | apply canon_setThread | apply canon_withdraw)
    | split | dsimp only

@[simp] theorem canon_settleHalt {s : State} (h : CanonMaps s.mem s.peer) (x1 : Nat) :
    CanonMaps (State.settleHalt s x1).mem (State.settleHalt s x1).peer := by
  unfold State.settleHalt
  repeat' first
    | assumption | refine SomeCanon.elim (someCanon_atPoint ?_ ..) (by assumption) | with_reducible apply canon_setThread | split

@[simp] theorem canon_haltSlot {s : State} (h : CanonMaps s.mem s.peer) (x1 : Nat) :
    CanonMaps (State.haltSlot s x1).mem (State.haltSlot s x1).peer := by
  unfold State.haltSlot
  repeat' first | assumption | with_reducible apply canon_settleHalt | split | dsimp only

theorem steps_execHalt {s : State} (x0 : ForDev (List Nat)) : Steps s (execHalt x0 s) := by
  unfold execHalt
  repeat' first
    | assumption | refine steps_next fun _ => ?_
    | with_reducible (first
        | refine steps_forPart _ fun _ => ?_ | apply canon_haltSlot)
    | refine canon_foldl (fun _ _ _ => ?_) ?_ _

theorem steps_execStep {s : State} (x0 : ForDev Nat) : Steps s (execStep x0 s) := by
  unfold execStep
  repeat' first | assumption | refine steps_next fun _ => ?_ | with_reducible refine steps_forPart _ fun _ => ?_ | split | dsimp only

theorem steps_execDebugResume {s : State} (x0 : ForDev (List Nat)) : Steps s (execDebugResume x0 s) := by
  unfold execDebugResume
  repeat' first
    | assumption | refine steps_next fun _ => ?_ | with_reducible refine steps_forPart _ fun _ => ?_
    | refine canon_foldl (fun _ _ _ => ?_) ?_ _ | split | dsimp only

theorem steps_execDebugRead {s : State} (x0 : ForDev Nat) : Steps s (execDebugRead x0 s) := by
  unfold execDebugRead
  repeat' first | assumption | refine steps_next fun _ => ?_ | with_reducible refine steps_forPart _ fun _ => ?_ | split

@[simp] theorem canon_placeRecord {s : State} (h : CanonMaps s.mem s.peer) (x1 : Nat) (x2 : Thread) (x3 : List Word) :
    CanonMaps (State.placeRecord s x1 x2 x3).mem (State.placeRecord s x1 x2 x3).peer := by
  unfold State.placeRecord
  repeat' first | assumption | with_reducible apply canon_setWindowOf

theorem steps_execDebugWrite {s : State} (x0 : ForDev Nat) (x1 : List Word) : Steps s (execDebugWrite x0 x1 s) := by
  unfold execDebugWrite
  repeat' first
    | assumption | refine steps_next fun _ => ?_
    | with_reducible (first
        | refine steps_forPart _ fun _ => ?_ | apply canon_placeRecord)
    | split | dsimp only

theorem steps_execSamplingPulse {s : State} : Steps s (execSamplingPulse s) := by
  have hp (t : State) (o : Option Nat) (l : List Eff) (h : t.Canonical) : (State.performAll t o l).Canonical := canon_performAll h o l
  unfold execSamplingPulse
  refine steps_ite ?_ (steps_next id)
  extract_lets base conf size buf s1 bs wp
  have h1 (h : s.Canonical) : s1.Canonical := h
  refine steps_ite (steps_next fun h => hp _ _ _ (h1 h)) (steps_ite (steps_next fun h => h1 h) ?_)
  exact steps_next fun h => hp _ _ _ (hp _ _ _ (h1 h))

theorem steps_execCounterConfig {s : State} (x0 : Nat) (x1 : Nat) (x2 : Word) : Steps s (execCounterConfig x0 x1 x2 s) := by
  unfold execCounterConfig
  repeat' first | assumption | refine steps_next fun _ => ?_ | with_reducible apply canon_performAll | split

theorem steps_execSnap {s : State} (x0 : Nat) (x1 : Word) : Steps s (execSnap x0 x1 s) := by
  unfold execSnap
  repeat' first | assumption | refine steps_next fun _ => ?_ | with_reducible apply canon_performAll | split

theorem steps_execTraceConfig {s : State} (x0 : Nat) : Steps s (execTraceConfig x0 s) := by
  unfold execTraceConfig
  repeat' first | assumption | refine steps_next fun _ => ?_ | with_reducible apply canon_performAll | split

theorem steps_execTrptr {s : State} (x0 : Nat) (x1 : Word) : Steps s (execTrptr x0 x1 s) := by
  unfold execTrptr
  repeat' first | assumption | refine steps_next fun _ => ?_ | with_reducible apply canon_performAll | split

@[simp] theorem canon_setHolder {s : State} (h : CanonMaps s.mem s.peer) (x1 : Nat) (x2 : Nat) (x3 : Nat) :
    CanonMaps (State.setHolder s x1 x2 x3).mem (State.setHolder s x1 x2 x3).peer := by
  unfold State.setHolder
  dsimp only
  (repeat' split) <;> simp [h]

@[simp] theorem canon_traceNotice {s : State} (h : CanonMaps s.mem s.peer) (x1 : Nat) (x2 : Nat) (x3 : Bool) :
    CanonMaps (State.traceNotice s x1 x2 x3).mem (State.traceNotice s x1 x2 x3).peer := by
  unfold State.traceNotice
  (repeat' split) <;> simp [h]

theorem steps_execTclaim {s : State} (x0 : Nat) (x1 : Nat) (x2 : Bool) : Steps s (execTclaim x0 x1 x2 s) := by
  unfold execTclaim
  repeat' first
    | assumption | refine steps_next fun _ => ?_
    | with_reducible (first
        | apply canon_setHolder | apply canon_traceNotice)
    | split | dsimp only

theorem steps_execDrainRequest {s : State} (x0 : Nat) (x1 : Nat) : Steps s (execDrainRequest x0 x1 s) := by
  unfold execDrainRequest
  repeat' first | assumption | refine steps_next fun _ => ?_

theorem steps_execRegisterWrite {s : State} (x0 : Nat) (x1 : Word) : Steps s (execRegisterWrite x0 x1 s) := by
  unfold execRegisterWrite
  repeat' first | assumption | refine steps_next fun _ => ?_ | with_reducible apply canon_performAll | split

@[simp] theorem canon_mbResult {s : State} (h : CanonMaps s.mem s.peer) (x1 : Nat) (x2 : Nat) (x3 : Nat) (x4 : Nat) :
    CanonMaps (State.mbResult s x1 x2 x3 x4).mem (State.mbResult s x1 x2 x3 x4).peer := by
  unfold State.mbResult
  (repeat' split) <;> simp [h]

theorem steps_mbDo {s : State} (op : Nat) (c : MbCmd) {f : State → Except (Nat × Nat × Nat) MbDone}
    (hf : ∀ t, CanonMaps t.mem t.peer → DoneCanon (f t)) : Steps s (s.mbDo op c f) := by
  unfold State.mbDo
  dsimp only
  split
  · exact steps_next id
  · split
    · exact steps_next fun h => canon_mbResult h ..
    · split
      · exact steps_next fun h => canon_mbResult h ..
      · next d hd =>
        have hs := fun h => (hf { s with mb := { s.mb with busy := true } } h).canon d hd
        split
        · exact steps_next fun h => hs h
        · exact steps_next fun h => canon_mbResult (hs h) ..

@[simp] theorem canon_deleteFn {s : State} (h : CanonMaps s.mem s.peer) (x1 : Nat) :
    CanonMaps (State.deleteFn s x1).mem (State.deleteFn s x1).peer := by
  unfold State.deleteFn
  (repeat' split) <;> simp [h]

@[simp] theorem canon_emptyQueues {s : State} (h : CanonMaps s.mem s.peer) (x1 : Nat) (x2 : Nat) (x3 : Word) :
    CanonMaps (State.emptyQueues s x1 x2 x3).mem (State.emptyQueues s x1 x2 x3).peer := by
  unfold State.emptyQueues
  (repeat' split) <;> simp [h]

@[simp] theorem canon_zeroEntries {s : State} (h : CanonMaps s.mem s.peer) (x1 : Nat) :
    CanonMaps (State.zeroEntries s x1).mem (State.zeroEntries s x1).peer := by
  unfold State.zeroEntries
  (repeat' split) <;> simp [h]

@[simp] theorem canon_zeroRows {s : State} (h : CanonMaps s.mem s.peer) (x1 : Nat) (x2 : Nat → Bool) :
    CanonMaps (State.zeroRows s x1 x2).mem (State.zeroRows s x1 x2).peer := by
  unfold State.zeroRows
  (repeat' split) <;> simp [h]

@[simp] theorem canon_dropCopies {s : State} (h : CanonMaps s.mem s.peer) (x1 : Nat → Bool) :
    CanonMaps (State.dropCopies s x1).mem (State.dropCopies s x1).peer := by
  unfold State.dropCopies
  simp +contextual [h]

@[simp] theorem canon_zeroMem {s : State} (h : CanonMaps s.mem s.peer) (f : Nat → Bool) :
    CanonMaps (s.zeroMem f).mem (s.zeroMem f).peer := by
  have h1 := canon_backInvalidate (canon_dropCopies h (fun l => f (128 * l)))
    ((s.hostLines.map (·.1)).filter (fun l => f (128 * l)))
  exact ⟨mwf_filter _ _ _ h1.1, h1.2⟩

@[simp] theorem canon_zeroBanks {s : State} (h : CanonMaps s.mem s.peer) (x1 : Nat) (x2 : Nat → Bool) :
    CanonMaps (State.zeroBanks s x1 x2).mem (State.zeroBanks s x1 x2).peer := by
  unfold State.zeroBanks
  (repeat' split) <;> simp [h]

@[simp] theorem canon_zeroShare {s : State} (h : CanonMaps s.mem s.peer) (x1 : Nat) (x2 : Nat) (x3 : Part) :
    CanonMaps (State.zeroShare s x1 x2 x3).mem (State.zeroShare s x1 x2 x3).peer := by
  unfold State.zeroShare
  repeat' first
    | assumption
    | with_reducible (first
        | apply canon_emptyQueues | apply canon_zeroEntries | apply canon_zeroRows | apply canon_zeroBanks)

@[simp] theorem canon_forgetAhead {s : State} (h : CanonMaps s.mem s.peer) (x1 : Option Nat) (x2 : Nat) :
    CanonMaps (State.forgetAhead s x1 x2).mem (State.forgetAhead s x1 x2).peer := by
  unfold State.forgetAhead
  dsimp only
  (repeat' split) <;> simp [h]

@[simp] theorem canon_squashXlat {s : State} (h : CanonMaps s.mem s.peer) (x1 : Option Nat) :
    CanonMaps (State.squashXlat s x1).mem (State.squashXlat s x1).peer := by
  unfold State.squashXlat
  repeat' first
    | assumption
    | with_reducible (first
        | apply canon_forgetAhead | apply canon_squash)
    | refine canon_foldl (fun _ _ _ => ?_) ?_ _ | split | dsimp only

theorem canon_setFn {s : State} (vf : Nat) (d : List Word) (cmap : List Nat) (p : Part) (h : s.Canonical) : (s.setFn vf d cmap p).s.Canonical := by
  have hz (t : State) (f : Nat → Bool) (h : t.Canonical) : (t.zeroMem f).Canonical := canon_zeroMem h f
  have hs (t : State) (a b : Nat) (p : Part) (h : t.Canonical) : (t.zeroShare a b p).Canonical := canon_zeroShare h a b p
  unfold State.setFn
  extract_lets old part v frames count moved s1 s2 tag tags cores nb kept rest s3
  have h1 : s1.Canonical := canonical_foldl (fun t b ht => hs _ _ _ _ ht) h _
  have h2 : s2.Canonical := canonical_ite h1 (hz _ _ h1)
  have h3 : s3.Canonical := h2
  exact canon_showMig (canon_squashXlat h3 _) _

theorem steps_execVset {s : State} (c : MbCmd) : Steps s (execVset c s) := by
  have hd (t : State) (vf : Nat) (h : t.Canonical) : ((t.deleteFn vf).showMig vf).Canonical := canon_showMig (canon_deleteFn h vf) vf
  refine steps_mbDo _ _ fun t h => ?_
  extract_lets vf a
  refine doneCanon_bind fun _ => doneCanon_bind fun d => ?_
  split
  · exact doneCanon_bind fun _ => doneCanon_pure (hd _ _ h)
  · refine doneCanon_bind fun _ => ?_
    split
    · exact doneCanon_fail _
    · repeat' first | (refine doneCanon_bind fun _ => ?_) | extract_lets
      exact doneCanon_pure (canon_setFn _ _ _ _ h)

theorem steps_execHset {s : State} (x0 : MbCmd) : Steps s (execHset x0 s) := by
  unfold execHset
  repeat' first
    | assumption
    | with_reducible (first
        | refine steps_mbDo _ _ fun _ _ => ?_ | refine doneCanon_bind fun _ => ?_ | refine doneCanon_pure ?_ | apply canon_squashXlat)
    | split

theorem steps_execContain {s : State} (x0 : MbCmd) : Steps s (execContain x0 s) := by
  unfold execContain
  repeat' first
    | assumption
    | with_reducible (first
        | refine steps_mbDo _ _ fun _ _ => ?_ | refine doneCanon_bind fun _ => ?_ | refine doneCanon_pure ?_ | apply canon_contain)

theorem steps_execDrain {s : State} (x0 : MbCmd) : Steps s (execDrain x0 s) := by
  unfold execDrain
  repeat' first
    | assumption
    | with_reducible (first
        | refine steps_mbDo _ _ fun _ _ => ?_ | refine doneCanon_bind fun _ => ?_ | refine doneCanon_pure ?_)

theorem steps_execTrace {s : State} (x0 : MbCmd) : Steps s (execTrace x0 s) := by
  unfold execTrace
  repeat' first
    | assumption
    | with_reducible (first
        | refine steps_mbDo _ _ fun _ _ => ?_ | refine doneCanon_bind fun _ => ?_ | refine doneCanon_pure ?_ | exact doneCanon_error _
        | apply canon_traceNotice | apply canon_setHolder)
    | split | dsimp only

@[simp] theorem canon_stopCluster {s : State} (h : CanonMaps s.mem s.peer) (x1 : Nat) (x2 : Nat) (x3 : Nat) (x4 : Option Nat) :
    CanonMaps (State.stopCluster s x1 x2 x3 x4).mem (State.stopCluster s x1 x2 x3 x4).peer := by
  unfold State.stopCluster
  (repeat' split) <;> simp [h]

theorem steps_execBstop {s : State} (x0 : MbCmd) : Steps s (execBstop x0 s) := by
  unfold execBstop
  repeat' first
    | assumption
    | with_reducible (first
        | refine steps_mbDo _ _ fun _ _ => ?_ | refine doneCanon_bind fun _ => ?_ | refine doneCanon_pure ?_ | exact doneCanon_error _)
    | split | dsimp only

@[simp] theorem canon_unspill {s : State} (h : CanonMaps s.mem s.peer) (x1 : Nat) :
    CanonMaps (State.unspill s x1).mem (State.unspill s x1).peer := by
  unfold State.unspill
  repeat' first | assumption | with_reducible apply canon_squash | refine canon_foldl (fun _ _ _ => ?_) ?_ _ | split

@[simp] theorem canon_renameCluster {s : State} (h : CanonMaps s.mem s.peer) (a b : Nat) :
    CanonMaps (s.renameCluster a b).mem (s.renameCluster a b).peer := by
  have hm := h.1
  unfold mwf at hm
  exact ⟨mwf_mren _ _ _ (Bool.and_eq_true_iff.mp hm).2, h.2⟩

theorem steps_execBaleFreeze {s : State} (x0 : Nat) : Steps s (execBaleFreeze x0 s) := by
  unfold execBaleFreeze
  repeat' first
    | assumption | refine steps_next fun _ => ?_
    | with_reducible (first
        | apply canon_unspill | apply canon_renameCluster)
    | split

@[simp] theorem canon_answerWait {s : State} (h : CanonMaps s.mem s.peer) (x1 : MbWait) (x2 : Nat) (x3 : Nat) :
    CanonMaps (State.answerWait s x1 x2 x3).mem (State.answerWait s x1 x2 x3).peer := by
  unfold State.answerWait
  (repeat' split) <;> simp [h]

theorem steps_execBaleStreamOutEnd {s : State} (x0 : Nat) : Steps s (execBaleStreamOutEnd x0 s) := by
  unfold execBaleStreamOutEnd
  repeat' first
    | assumption | refine steps_next fun _ => ?_
    | with_reducible (first
        | apply canon_answerWait | apply canon_performAll)
    | split

theorem steps_execBrest {s : State} (x0 : MbCmd) : Steps s (execBrest x0 s) := by
  unfold execBrest
  repeat' first
    | assumption
    | with_reducible (first
        | refine steps_mbDo _ _ fun _ _ => ?_ | refine doneCanon_bind fun _ => ?_ | refine doneCanon_pure ?_ | exact doneCanon_error _)
    | split

theorem steps_execHover {s : State} (x0 : MbCmd) : Steps s (execHover x0 s) := by
  unfold execHover
  repeat' first
    | assumption
    | with_reducible (first
        | refine steps_mbDo _ _ fun _ _ => ?_ | refine doneCanon_bind fun _ => ?_ | refine doneCanon_pure ?_ | exact doneCanon_fail _)
    | refine canon_foldl (fun _ _ _ => ?_) ?_ _ | split | dsimp only

theorem someCanon_handable {s : State} (h : CanonMaps s.mem s.peer) (x : Hover) (gs : Nat) : SomeCanon (State.handable s x gs) := by
  unfold State.handable
  repeat' first
    | assumption | exact someCanon_none | refine someCanon_some ?_ | refine someCanon_filter ?_ _ | refine someCanon_atPoint ?_ ..
    | split | dsimp only

@[simp] theorem canon_returnSlot {s : State} (h : CanonMaps s.mem s.peer) (x1 : Hover) (x2 : VFunc) (x3 : Nat) (x4 : Nat) (x5 : List Word) :
    CanonMaps (State.returnSlot s x1 x2 x3 x4 x5).mem (State.returnSlot s x1 x2 x3 x4 x5).peer := by
  unfold State.returnSlot
  dsimp only
  (repeat' split) <;> simp [h]

theorem someCanon_fillSlot {s : State} (h : CanonMaps s.mem s.peer) (x : Hover) (v : VFunc) (gs : Nat) : SomeCanon (State.fillSlot s x v gs) := by
  unfold State.fillSlot
  repeat' first | assumption | exact someCanon_none | refine someCanon_some ?_ | with_reducible apply canon_returnSlot | split

@[simp] theorem canon_leaveSlot {s : State} (h : CanonMaps s.mem s.peer) (x1 : Nat) (x2 : Nat) (x3 : Nat) :
    CanonMaps (State.leaveSlot s x1 x2 x3).mem (State.leaveSlot s x1 x2 x3).peer := by
  unfold State.leaveSlot
  (repeat' split) <;> simp [h]

@[simp] theorem canon_saveSlot {s : State} (h : CanonMaps s.mem s.peer) (x1 : Hover) (x2 : VFunc) (x3 : Nat) :
    CanonMaps (State.saveSlot s x1 x2 x3).mem (State.saveSlot s x1 x2 x3).peer := by
  unfold State.saveSlot
  (repeat' split) <;> simp [h]

@[simp] theorem canon_unbind {s : State} (h : CanonMaps s.mem s.peer) (x1 : List Nat) (x2 : Word) :
    CanonMaps (State.unbind s x1 x2).mem (State.unbind s x1 x2).peer := by
  unfold State.unbind
  (repeat' split) <;> simp [h]

@[simp] theorem canon_bindSlots {s : State} (h : CanonMaps s.mem s.peer) (x1 : List Nat) (x2 : Word) (x3 : Option Nat) :
    CanonMaps (State.bindSlots s x1 x2 x3).mem (State.bindSlots s x1 x2 x3).peer := by
  unfold State.bindSlots
  (repeat' split) <;> simp [h]

theorem steps_execSlotHandover {s : State} (gs : Nat) : Steps s (execSlotHandover gs s) := by
  have hf (h : Hover) (vo vi : VFunc) (t : State) (hs : s.Canonical) (e : (s.handable h gs).bind (fun s1 => (s1.saveSlot h vo gs).fillSlot h vi gs) = some t) :
      t.Canonical := by
    obtain ⟨s1, h1, h2⟩ := Option.bind_eq_some_iff.mp e
    exact (someCanon_fillSlot (canon_saveSlot ((someCanon_handable hs ..).elim h1) ..) ..).elim h2
  have hb (t : State) (a : List Nat) (b : Word) (v : Option Nat) (h : t.Canonical) : (t.bindSlots a b v).Canonical := canon_bindSlots h a b v
  have hm (t : State) (o : Option Hover) (a b c d : Nat) (h : t.Canonical) : (State.mbResult { t with hover := o } a b c d).Canonical := 
    canon_mbResult (s := { t with hover := o }) h a b c d
  unfold execSlotHandover
  split
  · split
    · split
      · exact steps_next id
      · split
        · extract_lets s3 left
          have h3 : s.Canonical → s3.Canonical := fun h => hb _ _ _ _ (hf _ _ _ _ h (by assumption))
          clear_value s3
          split
          · exact steps_next fun h => hm _ _ _ _ _ _ (h3 h)
          · exact steps_next fun h => h3 h
        · exact steps_next id
    · exact steps_next id
  · exact steps_next id

theorem steps_execHandoverResume {s : State} (x0 : Nat) : Steps s (execHandoverResume x0 s) := by
  unfold execHandoverResume
  repeat' first | assumption | refine steps_next fun _ => ?_ | split | dsimp only

theorem steps_execScrubComplete {s : State}  : Steps s (execScrubComplete s) := by
  unfold execScrubComplete
  repeat' first | assumption | refine steps_next fun _ => ?_ | with_reducible apply canon_mbResult | split

@[simp] theorem canon_readReq {s : State} (h : CanonMaps s.mem s.peer) (x1 : Nat) :
    CanonMaps (State.readReq s x1).mem (State.readReq s x1).peer := by
  unfold State.readReq
  (repeat' split) <;> simp [h]

@[simp] theorem canon_refuseReq {s : State} (h : CanonMaps s.mem s.peer) (x1 : Nat) :
    CanonMaps (State.refuseReq s x1).mem (State.refuseReq s x1).peer := by
  unfold State.refuseReq
  (repeat' split) <;> simp [h]

@[simp] theorem canon_setMState {s : State} (h : CanonMaps s.mem s.peer) (x1 : Nat) (x2 : Nat) :
    CanonMaps (State.setMState s x1 x2).mem (State.setMState s x1 x2).peer := by
  unfold State.setMState
  (repeat' split) <;> simp [h]

@[simp] theorem canon_takeForm {s : State} (h : CanonMaps s.mem s.peer) (x1 : Nat) :
    CanonMaps (State.takeForm s x1).mem (State.takeForm s x1).peer := by
  unfold State.takeForm
  (repeat' split) <;> simp [h]

@[simp] theorem canon_pumpMig {s : State} (h : CanonMaps s.mem s.peer) (x1 : Nat) :
    CanonMaps (State.pumpMig s x1).mem (State.pumpMig s x1).peer := by
  unfold State.pumpMig
  repeat' first | assumption | with_reducible (first | apply canon_showMig | apply canon_performAll) | split | dsimp only

theorem steps_execPrecopy {s : State} (x0 : Nat) : Steps s (execPrecopy x0 s) := by
  unfold execPrecopy
  repeat' first
    | assumption | refine steps_next fun _ => ?_
    | with_reducible (first
        | apply canon_refuseReq | apply canon_statMig | apply canon_setMState | apply canon_pumpMig | apply canon_showMig)
    | split

@[simp] theorem canon_endTrace {s : State} (h : CanonMaps s.mem s.peer) (x1 : Nat) :
    CanonMaps (State.endTrace s x1).mem (State.endTrace s x1).peer := by
  unfold State.endTrace
  repeat' first
    | assumption
    | with_reducible (first
        | apply canon_traceNotice | apply canon_setHolder)
    | refine canon_foldl (fun _ _ _ => ?_) ?_ _ | split

theorem steps_execStopping {s : State} (x0 : Nat) : Steps s (execStopping x0 s) := by
  unfold execStopping
  repeat' first
    | assumption | refine steps_next fun _ => ?_
    | with_reducible (first
        | apply canon_refuseReq | apply canon_statMig | apply canon_setMState | apply canon_pumpMig | apply canon_showMig
        | apply canon_endTrace)
    | refine canon_foldl (fun _ _ _ => ?_) ?_ _ | split

@[simp] theorem canon_releaseHeld {s : State} (h : CanonMaps s.mem s.peer) (x1 : Nat) :
    CanonMaps (State.releaseHeld s x1).mem (State.releaseHeld s x1).peer := by
  unfold State.releaseHeld
  (repeat' split) <;> simp [h]

@[simp] theorem canon_failHeldPulls {s : State} (h : CanonMaps s.mem s.peer) (x1 : Nat) :
    CanonMaps (State.failHeldPulls s x1).mem (State.failHeldPulls s x1).peer := by
  unfold State.failHeldPulls
  (repeat' split) <;> simp [h]

@[simp] theorem canon_restartThreads {s : State} (h : CanonMaps s.mem s.peer) (vf : Nat) :
    CanonMaps (s.restartThreads vf).mem (s.restartThreads vf).peer := by
  show (s.restartThreads vf).Canonical
  have hp (t : State) (i : Nat) (x : Thread) (r : List Word) (ht : t.Canonical) : (t.placeRecord i x r).Canonical := canon_placeRecord ht i x r
  exact canonical_foldl (fun t i ht => hp _ _ _ _ ht) h _

@[simp] theorem canon_checkChunks {s : State} (h : CanonMaps s.mem s.peer) (x1 : Bool) (x2 : List Nat) (x3 : Nat) :
    CanonMaps (State.checkChunks s x1 x2 x3).mem (State.checkChunks s x1 x2 x3).peer := by
  unfold State.checkChunks
  repeat' first | assumption | with_reducible apply canon_squash | split | dsimp only

@[simp] theorem canon_startClock {s : State} (h : CanonMaps s.mem s.peer) (x1 : Nat) (x2 : Nat) (x3 : Bool) (x4 : List Nat) :
    CanonMaps (State.startClock s x1 x2 x3 x4).mem (State.startClock s x1 x2 x3 x4).peer := by
  unfold State.startClock
  repeat' first | assumption | with_reducible apply canon_checkChunks | refine canon_foldl (fun _ _ _ => ?_) ?_ _

@[simp] theorem canon_unstop {s : State} (h : CanonMaps s.mem s.peer) (x1 : Nat) :
    CanonMaps (State.unstop s x1).mem (State.unstop s x1).peer := by
  unfold State.unstop
  repeat' first
    | assumption
    | with_reducible (first
        | apply canon_renameCluster | apply canon_startClock)
    | refine canon_foldl (fun _ _ _ => ?_) ?_ _

theorem steps_execAbort {s : State} (x0 : Nat) : Steps s (execAbort x0 s) := by
  unfold execAbort
  repeat' first
    | assumption | refine steps_next fun _ => ?_
    | with_reducible (first
        | apply canon_refuseReq | apply canon_statMig | apply canon_showMig | apply canon_setMState | apply canon_modMig
        | apply canon_releaseHeld | apply canon_failHeldPulls | apply canon_restartThreads | apply canon_unstop)
    | split | dsimp only

theorem steps_execResuming {s : State} (x0 : Nat) : Steps s (execResuming x0 s) := by
  unfold execResuming
  repeat' first
    | assumption | refine steps_next fun _ => ?_
    | with_reducible (first
        | apply canon_refuseReq | apply canon_showMig | apply canon_statMig)
    | split

@[simp] theorem canon_givePage {s : State} (h : CanonMaps s.mem s.peer) (x1 : Nat) (x2 : Nat) (x3 : VFunc) :
    CanonMaps (State.givePage s x1 x2 x3).mem (State.givePage s x1 x2 x3).peer := by
  unfold State.givePage
  repeat' first
    | assumption
    | with_reducible (first
        | apply canon_backInvalidate | apply canon_dropCopies | apply canon_showMig | apply canon_modMig)
    | split | dsimp only

theorem steps_execMigrationStopped {s : State} (x0 : Nat) : Steps s (execMigrationStopped x0 s) := by
  unfold execMigrationStopped
  repeat' first
    | assumption | refine steps_next fun _ => ?_
    | with_reducible (first
        | apply canon_setMState | apply canon_givePage | apply canon_pumpMig | apply canon_showMig)
    | refine canon_foldl (fun _ _ _ => ?_) ?_ _ | split

theorem steps_execMackRelease {s : State} (x0 : Nat) : Steps s (execMackRelease x0 s) := by
  unfold execMackRelease
  repeat' first | assumption | refine steps_next fun _ => ?_ | with_reducible apply canon_pumpMig | split

@[simp] theorem canon_settleDone {s : State} (h : CanonMaps s.mem s.peer) (x1 : Nat) :
    CanonMaps (State.settleDone s x1).mem (State.settleDone s x1).peer := by
  unfold State.settleDone
  repeat' first | assumption | with_reducible (first | apply canon_showMig | apply canon_setMState) | split | dsimp only

@[simp] theorem canon_pumpPulls {s : State} (h : CanonMaps s.mem s.peer) (x1 : Nat) :
    CanonMaps (State.pumpPulls s x1).mem (State.pumpPulls s x1).peer := by
  unfold State.pumpPulls
  (repeat' split) <;> simp +contextual [h]

@[simp] theorem canon_bankIn {s : State} (h : CanonMaps s.mem s.peer) (v : VFunc) (c : List Word) :
    CanonMaps (s.bankIn v c).mem (s.bankIn v c).peer := by
  have hp (t : State) (a : Nat) (b : List Byte) (d : Nat) (p : Bool) (ht : t.Canonical) : ((t.setBytes a b).setPoison d p).Canonical :=
    canon_setPoison (canon_setBytes ht a b) d p
  have hw (t : State) (w : Map Nat) (ht : t.Canonical) : State.Canonical { t with watches := w } := ht
  show (s.bankIn v c).Canonical
  exact canonical_foldl (fun t i ht => hw _ _ (hp _ _ _ _ _ ht)) h _

@[simp] theorem canon_rowIn {s : State} (h : CanonMaps s.mem s.peer) (x1 : VFunc) (x2 : List Word) :
    CanonMaps (State.rowIn s x1 x2).mem (State.rowIn s x1 x2).peer := by
  unfold State.rowIn
  (repeat' split) <;> simp [h]

@[simp] theorem canon_onlyCluster {s : State} (h : CanonMaps s.mem s.peer) (cl : Nat) :
    CanonMaps (s.onlyCluster cl).mem (s.onlyCluster cl).peer := ⟨mwf_filter _ _ _ h.1, rfl⟩

@[simp] theorem canon_pointAt {s : State} (h : CanonMaps s.mem s.peer) (d : State) (cl vf pc : Nat) :
    CanonMaps (s.pointAt d cl vf pc).mem (s.pointAt d cl vf pc).peer := by
  unfold State.pointAt
  repeat' first | assumption | split

@[simp] theorem canon_seat {s : State} (h : CanonMaps s.mem s.peer) (x1 : Nat) (x2 : Nat) (x3 : Nat) (x4 : Thread) :
    CanonMaps (State.seat s x1 x2 x3 x4).mem (State.seat s x1 x2 x3 x4).peer := by
  unfold State.seat
  (repeat' split) <;> simp [h]

@[simp] theorem canon_joinCluster {s : State} (h : CanonMaps s.mem s.peer) (d : State) (part : Nat) (fn : Nat → Nat) :
    CanonMaps (s.joinCluster d part fn).mem (s.joinCluster d part fn).peer := by
  unfold State.joinCluster
  repeat' first | assumption | with_reducible (first | apply canon_setBytes | apply canon_seat) | refine canon_foldl (fun _ _ _ => ?_) ?_ _

@[simp] theorem canon_foreignContent {s : State} (h : CanonMaps s.mem s.peer) (body : List Byte) (b : BaleStop) (pc : Nat) (bare : Bool) :
    CanonMaps (s.foreignContent body b pc bare).mem (s.foreignContent body b pc bare).peer := by
  unfold State.foreignContent
  extract_lets d d1 d2 fn s1 s2
  refine canon_joinCluster (canon_foldl (fun t f ht => canon_pointAt ht ..) (canon_foldl (fun t c ht => canon_bindSlots ht ..) h _) _) ..

@[simp] theorem canon_clearCluster {s : State} (h : CanonMaps s.mem s.peer) (x1 : Nat) :
    CanonMaps (State.clearCluster s x1).mem (State.clearCluster s x1).peer := by
  unfold State.clearCluster
  repeat' first | assumption | with_reducible (first | apply canon_zeroRows | apply canon_zeroBanks | apply canon_unbind)

@[simp] theorem canon_baleIn {s : State} (h : CanonMaps s.mem s.peer) (x1 : Nat) (x2 : VFunc) (x3 : List Word) :
    CanonMaps (State.baleIn s x1 x2 x3).mem (State.baleIn s x1 x2 x3).peer := by
  unfold State.baleIn
  repeat' first
    | assumption
    | with_reducible (first
        | apply canon_startClock | apply canon_foreignContent | apply canon_clearCluster)
    | split | dsimp only

@[simp] theorem canon_seatThreads {s : State} (h : CanonMaps s.mem s.peer) (x1 : Nat) (x2 : Intake) (x3 : VFunc) (x4 : Nat) (x5 : Nat) :
    CanonMaps (State.seatThreads s x1 x2 x3 x4 x5).mem (State.seatThreads s x1 x2 x3 x4 x5).peer := by
  unfold State.seatThreads
  simp +contextual [h]

@[simp] theorem canon_baleThreads {s : State} (h : CanonMaps s.mem s.peer) (x1 : Nat) (x2 : Intake) (x3 : VFunc) (x4 : Nat) (x5 : Nat) :
    CanonMaps (State.baleThreads s x1 x2 x3 x4 x5).mem (State.baleThreads s x1 x2 x3 x4 x5).peer := by
  unfold State.baleThreads
  repeat' first | assumption | refine canon_foldl (fun _ _ _ => ?_) ?_ _ | split | dsimp only

@[simp] theorem canon_cargoIn {s : State} (h : CanonMaps s.mem s.peer) (x1 : Nat) (x2 : VFunc) (x3 : Cargo) (x4 : Nat) (x5 : Nat) :
    CanonMaps (State.cargoIn s x1 x2 x3 x4 x5).mem (State.cargoIn s x1 x2 x3 x4 x5).peer := by
  unfold State.cargoIn
  (repeat' split) <;> simp [h]

@[simp] theorem canon_configIn {s : State} (h : CanonMaps s.mem s.peer) (x1 : Nat) (x2 : VFunc) (x3 : List Word) :
    CanonMaps (State.configIn s x1 x2 x3).mem (State.configIn s x1 x2 x3).peer := by
  unfold State.configIn
  dsimp only
  (repeat' split) <;> simp [h]

@[simp] theorem canon_copiesIn {s : State} (h : CanonMaps s.mem s.peer) (vf : Nat) (v : VFunc) (own : List OwnItem) (off : Nat) :
    CanonMaps (s.copiesIn vf v own off).mem (s.copiesIn vf v own off).peer := by
  unfold State.copiesIn
  refine canon_foldl (fun t i ht => ?_) h _
  split <;> exact ht

@[simp] theorem canon_ownIn {s : State} (h : CanonMaps s.mem s.peer) (x1 : VFunc) (x2 : OwnItem) :
    CanonMaps (State.ownIn s x1 x2).mem (State.ownIn s x1 x2).peer := by
  unfold State.ownIn
  dsimp only
  (repeat' split) <;> simp [h]

@[simp] theorem canon_countersIn {s : State} (h : CanonMaps s.mem s.peer) (x1 : Nat) (x2 : List Word) (x3 : List Word) :
    CanonMaps (State.countersIn s x1 x2 x3).mem (State.countersIn s x1 x2 x3).peer := by
  unfold State.countersIn
  repeat' first | assumption | with_reducible apply canon_postKernel | refine canon_foldl (fun _ _ _ => ?_) ?_ _ | split | dsimp only

@[simp] theorem canon_takeIn {s : State} (h : CanonMaps s.mem s.peer) (vf : Nat) (v : VFunc) (x : Intake) (secs : List (Nat × List Word)) :
    CanonMaps (s.takeIn vf v x secs).mem (s.takeIn vf v x secs).peer := by
  have hm (t : State) (o : List Out) (vf : Nat) (f : Mig → Mig) (ht : t.Canonical) : (State.modMig { t with outbox := o } vf f).Canonical :=
    canon_modMig (s := { t with outbox := o }) ht vf f
  show (s.takeIn vf v x secs).Canonical
  unfold State.takeIn
  extract_lets config off ids lid0 s0 s1 s2 s3 s4 s5 s6 peers o
  have h1 : s1.Canonical := canonical_foldl (fun t c ht => canon_bankIn ht ..) (s := s0) h _
  have h2 : s2.Canonical := canonical_foldl (fun t c ht => canon_rowIn ht ..) h1 _
  have h3 : s3.Canonical := canonical_foldl (fun t c ht => canon_baleIn ht ..) h2 _
  have h4 : s4.Canonical := canon_seatThreads (canon_baleThreads (canon_cargoIn h3 ..) ..) ..
  have h5 : s5.Canonical := canon_configIn (canon_copiesIn (canonical_foldl (fun t c ht => canon_ownIn ht ..) h4 _) ..) ..
  have h6 : s6.Canonical := canon_countersIn h5 ..
  exact hm _ _ _ _ h6

theorem steps_execMackSubmit {s : State} (x0 : Nat) : Steps s (execMackSubmit x0 s) := by
  unfold execMackSubmit
  repeat' first
    | assumption | refine steps_next fun _ => ?_
    | with_reducible (first
        | apply canon_statMig | apply canon_settleDone | apply canon_pumpPulls | apply canon_showMig | apply canon_takeIn)
    | split | dsimp only

theorem steps_execPullall {s : State} (x0 : Nat) : Steps s (execPullall x0 s) := by
  unfold execPullall
  repeat' first | assumption | refine steps_next fun _ => ?_ | with_reducible apply canon_pumpPulls

theorem steps_execPull {s : State} (x0 : Nat) (x1 : Nat) : Steps s (execPull x0 x1 s) := by
  unfold execPull
  repeat' first | assumption | refine steps_next fun _ => ?_ | with_reducible apply canon_givePage | split

@[simp] theorem canon_retryHeld {s : State} (h : CanonMaps s.mem s.peer) (x1 : Nat) :
    CanonMaps (State.retryHeld s x1).mem (State.retryHeld s x1).peer := by
  unfold State.retryHeld
  repeat' first | assumption | with_reducible apply canon_peerArrival | refine canon_foldl (fun _ _ _ => ?_) ?_ _ | split | dsimp only

theorem steps_execPullData {s : State} (x0 : Nat) (x1 : Nat) (x2 : List Byte) (x3 : List Nat) (x4 : List (List Word)) : Steps s (execPullData x0 x1 x2 x3 x4 s) := by
  unfold execPullData
  repeat' first
    | assumption | refine steps_next fun _ => ?_
    | with_reducible (first
        | apply canon_failPull | apply canon_performAll | apply canon_ownIn | apply canon_showMig | apply canon_modMig
        | apply canon_settleDone | apply canon_pumpPulls | apply canon_retryHeld)
    | refine canon_foldl (fun _ _ _ => ?_) ?_ _ | split

@[simp] theorem canon_dropFn {s : State} (h : CanonMaps s.mem s.peer) (x1 : Nat) :
    CanonMaps (State.dropFn s x1).mem (State.dropFn s x1).peer := by
  unfold State.dropFn
  (repeat' split) <;> simp [h]

theorem steps_execStarted {s : State} (x0 : Nat) : Steps s (execStarted x0 s) := by
  unfold execStarted
  repeat' first
    | assumption | refine steps_next fun _ => ?_
    | with_reducible (first
        | apply canon_dropFn | apply canon_showMig | apply canon_modMig)
    | split

theorem steps_execDone {s : State} (x0 : Nat) : Steps s (execDone x0 s) := by
  unfold execDone
  repeat' first | assumption | refine steps_next fun _ => ?_ | with_reducible apply canon_showMig | split

theorem steps_execRemap {s : State} (x0 : Word) (x1 : Word) : Steps s (execRemap x0 x1 s) := by
  unfold execRemap
  repeat' first | assumption | refine steps_next fun _ => ?_ | with_reducible apply canon_postHyper

theorem steps_execRemapack {s : State} (x0 : Nat) (x1 : Nat) : Steps s (execRemapack x0 x1 s) := by
  unfold execRemapack
  repeat' first | assumption | refine steps_next fun _ => ?_ | with_reducible apply canon_showMig | split

theorem steps_execFwdend {s : State} (x0 : Nat) (x1 : Nat) : Steps s (execFwdend x0 x1 s) := by
  unfold execFwdend
  repeat' first
    | assumption | refine steps_next fun _ => ?_
    | with_reducible (first
        | apply canon_settleDone | apply canon_retryHeld)
    | split

theorem steps_execPeerAccessArrival {s : State} (x0 : PeerAccess) : Steps s (execPeerAccessArrival x0 s) := by
  unfold execPeerAccessArrival
  repeat' first | assumption | refine steps_next fun _ => ?_ | with_reducible apply canon_peerArrival

theorem steps_execBaleStreamInEnd {s : State} (x0 : Nat) : Steps s (execBaleStreamInEnd x0 s) := by
  unfold execBaleStreamInEnd
  repeat' first
    | assumption | refine steps_next fun _ => ?_
    | with_reducible (first
        | apply canon_clearCluster | apply canon_foreignContent | apply canon_renameCluster | apply canon_startClock
        | apply canon_answerWait)
    | split

@[simp] theorem canon_dropColours {s : State} (h : CanonMaps s.mem s.peer) (x1 : Part) (x2 : Part) :
    CanonMaps (State.dropColours s x1 x2).mem (State.dropColours s x1 x2).peer := by
  unfold State.dropColours
  (repeat' split) <;> simp [h]

@[simp] theorem canon_leaveLocks {s : State} (h : CanonMaps s.mem s.peer) (x1 : Part) (x2 : Part) :
    CanonMaps (State.leaveLocks s x1 x2).mem (State.leaveLocks s x1 x2).peer := by
  unfold State.leaveLocks
  (repeat' split) <;> simp [h]

@[simp] theorem canon_scrubGain {s : State} (h : CanonMaps s.mem s.peer) (x1 : Nat) (x2 : Part) (x3 : Part) (x4 : Nat) :
    CanonMaps (State.scrubGain s x1 x2 x3 x4).mem (State.scrubGain s x1 x2 x3 x4).peer := by
  unfold State.scrubGain
  repeat' first
    | assumption
    | with_reducible (first
        | apply canon_zeroRows | apply canon_zeroBanks | apply canon_zeroEntries | apply canon_emptyQueues)
    | split | dsimp only

@[simp] theorem canon_replaceLines {s : State} (h : CanonMaps s.mem s.peer) (d : State) :
    CanonMaps (s.replaceLines d).mem (s.replaceLines d).peer := by
  unfold State.replaceLines
  repeat' first | assumption | with_reducible apply canon_dropCopies

@[simp] theorem canon_clearReady {s : State} (h : CanonMaps s.mem s.peer) (x1 : Nat) (x2 : List Nat) :
    CanonMaps (State.clearReady s x1 x2).mem (State.clearReady s x1 x2).peer := by
  unfold State.clearReady
  (repeat' split) <;> simp [h]

theorem canon_setPart {s : State} (pid : Nat) (d : List Word) (h : s.Canonical) : (s.setPart pid d).s.Canonical := by
  have hz (t : State) (f : Nat → Bool) (h : t.Canonical) : (t.zeroMem f).Canonical := canon_zeroMem h f
  have hg (t : State) (a : Nat) (q p : Part) (c : Nat) (h : t.Canonical) : (t.scrubGain a q p c).Canonical := canon_scrubGain h a q p c
  have hu (t : State) (a : List Nat) (w : Word) (h : t.Canonical) : (t.unbind a w).Canonical := canon_unbind h a w
  have hr (t u : State) (h : t.Canonical) : (t.replaceLines u).Canonical := canon_replaceLines h u
  have hl (t : State) (q p : Part) (h : t.Canonical) : ((t.leaveLocks q p).dropColours q p).Canonical := canon_dropColours (canon_leaveLocks h q p) q p
  have hc (t : State) (a : Nat) (b : List Nat) (h : t.Canonical) : (t.clearReady a b).Canonical := canon_clearReady h a b
  unfold State.setPart
  extract_lets old q p gained regions fresh lost both s1 s2 s3 s4 s5 s6 moved s6' s7 s8
  have h1 : s1.Canonical := hl _ _ _ h
  have h2 : s2.Canonical := canonical_foldl (fun t b ht => hg _ _ _ _ _ ht) h1 _
  have h3 : s3.Canonical := canonical_ite h2 (hz _ _ h2)
  have h4 : s4.Canonical := h3
  have h5 : s5.Canonical := hu _ _ _ (hu _ _ _ (hu _ _ _ h4))
  have h6 : s6.Canonical := h5
  have h7 : s7.Canonical := hr _ _ (canonical_ite h6 (hc _ _ _ h6))
  exact canonical_ite h7 h7

theorem steps_execMbPset {s : State} (c : MbCmd) : Steps s (execMbPset c s) := by
  refine steps_mbDo _ _ fun t h => ?_
  repeat' first | (refine doneCanon_bind fun _ => ?_) | extract_lets
  exact doneCanon_pure (canon_setPart _ _ h)

theorem steps_execMbPlog {s : State} (x0 : MbCmd) : Steps s (execMbPlog x0 s) := by
  unfold execMbPlog
  repeat' first
    | assumption
    | with_reducible (first
        | refine steps_mbDo _ _ fun _ _ => ?_ | refine doneCanon_bind fun _ => ?_ | refine doneCanon_pure ?_ | apply canon_setLog)

@[simp] theorem canon_spendTurn {s : State} (h : CanonMaps s.mem s.peer) (x1 : Nat) :
    CanonMaps (State.spendTurn s x1).mem (State.spendTurn s x1).peer := by
  unfold State.spendTurn
  (repeat' split) <;> simp [h]

@[simp] theorem canon_sendNotice {s : State} (h : CanonMaps s.mem s.peer) (n : Nat × Word) :
    CanonMaps (s.sendNotice n).mem (s.sendNotice n).peer := by
  unfold State.sendNotice
  dsimp only
  split
  · split
    · exact h
    · next gs t hf _ =>
      cases ha : s.arrive gs 15 n.2 with
      | none => exact h
      | some t => exact (someCanon_arrive h _ _ _).elim ha
  · split <;> exact h

@[simp] theorem canon_sendNotices {s : State} (h : CanonMaps s.mem s.peer)  :
    CanonMaps (State.sendNotices s).mem (State.sendNotices s).peer := by
  unfold State.sendNotices
  simp +contextual [h]

@[simp] theorem canon_settleRemaps {s : State} (h : CanonMaps s.mem s.peer)  :
    CanonMaps (State.settleRemaps s).mem (State.settleRemaps s).peer := by
  unfold State.settleRemaps
  (repeat' split) <;> simp [h]

@[simp] theorem canon_settleFreeze {s : State} (h : CanonMaps s.mem s.peer) (x1 : Nat) :
    CanonMaps (State.settleFreeze s x1).mem (State.settleFreeze s x1).peer := by
  unfold State.settleFreeze
  repeat' first
    | assumption | refine SomeCanon.elim (someCanon_atPoint ?_ ..) (by assumption) | with_reducible apply canon_setThread | split
    | dsimp only

@[simp] theorem canon_settleFreezes {s : State} (h : CanonMaps s.mem s.peer)  :
    CanonMaps (State.settleFreezes s).mem (State.settleFreezes s).peer := by
  unfold State.settleFreezes
  simp +contextual [h]

@[simp] theorem canon_settleHalts {s : State} (h : CanonMaps s.mem s.peer)  :
    CanonMaps (State.settleHalts s).mem (State.settleHalts s).peer := by
  unfold State.settleHalts
  simp +contextual [h]

@[simp] theorem canon_flushMerged {s : State} (h : CanonMaps s.mem s.peer)  :
    CanonMaps (State.flushMerged s).mem (State.flushMerged s).peer := by
  unfold State.flushMerged
  simp +contextual [h]

@[simp] theorem canon_countTimers {s : State} (h : CanonMaps s.mem s.peer)  :
    CanonMaps (State.countTimers s).mem (State.countTimers s).peer := by
  unfold State.countTimers
  repeat' first | assumption | with_reducible apply canon_expire | refine canon_foldl (fun _ _ _ => ?_) ?_ _ | split

@[simp] theorem canon_tick {s : State} (h : CanonMaps s.mem s.peer)  :
    CanonMaps (State.tick s).mem (State.tick s).peer := by
  unfold State.tick
  (repeat' split) <;> simp [h]

@[simp] theorem canon_writeTrace {s : State} (h : CanonMaps s.mem s.peer) (x1 : Traced) :
    CanonMaps (State.writeTrace s x1).mem (State.writeTrace s x1).peer := (State.wrote_writeTrace ..).canon h

@[simp] theorem canon_writeTraces {s : State} (h : CanonMaps s.mem s.peer)  :
    CanonMaps (State.writeTraces s).mem (State.writeTraces s).peer := by
  unfold State.writeTraces
  simp +contextual [h]

@[simp] theorem canon_drawIdle {s : State} (h : CanonMaps s.mem s.peer)  :
    CanonMaps (State.drawIdle s).mem (State.drawIdle s).peer := by
  unfold State.drawIdle
  (repeat' split) <;> simp [h]

@[simp] theorem canon_countFree {s : State} (h : CanonMaps s.mem s.peer) (x1 : Nat) :
    CanonMaps (State.countFree s x1).mem (State.countFree s x1).peer := by
  unfold State.countFree
  (repeat' split) <;> simp [h]

@[simp] theorem canon_countFrees {s : State} (h : CanonMaps s.mem s.peer)  :
    CanonMaps (State.countFrees s).mem (State.countFrees s).peer := by
  unfold State.countFrees
  simp +contextual [h]

@[simp] theorem canon_mbUnknown {s : State} (h : CanonMaps s.mem s.peer) (x1 : MbCmd) :
    CanonMaps (State.mbUnknown s x1).mem (State.mbUnknown s x1).peer := by
  unfold State.mbUnknown
  (repeat' split) <;> simp [h]

@[simp] theorem canon_countSteps {s : State} (h : CanonMaps s.mem s.peer) (x1 : MatCmd) (x2 : Option Nat) (x3 : Nat) :
    CanonMaps (State.countSteps s x1 x2 x3).mem (State.countSteps s x1 x2 x3).peer := by
  unfold State.countSteps
  (repeat' split) <;> simp [h]

@[simp] theorem canon_matRound {s : State} (h : CanonMaps s.mem s.peer) (x1 : Nat) :
    CanonMaps (State.matRound s x1).mem (State.matRound s x1).peer := by
  unfold State.matRound
  repeat' first | assumption | with_reducible apply canon_countSteps | refine canon_foldl (fun _ _ _ => ?_) ?_ _

@[simp] theorem canon_handOff {s : State} (h : CanonMaps s.mem s.peer) (x1 : Nat) (x2 : Nat) :
    CanonMaps (State.handOff s x1 x2).mem (State.handOff s x1 x2).peer := by
  unfold State.handOff
  (repeat' split) <;> simp [h]

@[simp] theorem canon_hostResponds {s : State} (h : CanonMaps s.mem s.peer)  :
    CanonMaps (State.hostResponds s).mem (State.hostResponds s).peer := by
  unfold State.hostResponds
  (repeat' split) <;> simp [h]

theorem keeps_pairBody {run : Instr → State → Outcome} (hr : ∀ i s, Steps s (run i s)) (c a : Instr) : Keeps (pairBody run c a) := by
  have hn (i : Instr) (s t : State) (h : s.Canonical) (e : run i s = .next t) : t.Canonical := by
    obtain ⟨u, hu, hc⟩ := hr i s
    rw [hu] at e
    cases e
    exact hc h
  refine ⟨fun s x t h e => ?_⟩
  unfold pairBody at e
  extract_lets sent pre asC asA back stopOf at e
  have hstop (r : Outcome) (b : Bool) (u : State) (hu : stopOf r b = .ok u) : r = .next u := by
    cases r with
    | next v =>
      simp only [stopOf] at hu
      split at hu
      · cases hu
      · cases hu
      · cases hu; rfl
    | fault _ => cases hu
    | refused _ => cases hu
  have hC (t : State) (h : t.Canonical) : (asC t).Canonical := h
  have hA (t : State) (h : t.Canonical) : (asA t).Canonical := h
  have hB (t : State) (p : Map Pre) (h : t.Canonical) : (back t p).Canonical := h
  clear_value asC asA back stopOf
  cases h1 : stopOf (run c (asC s)) false with
  | error x => rw [h1] at e; cases e
  | ok z1 =>
    rw [h1] at e
    have c1 := hn _ _ _ (hC _ h) (hstop _ _ _ h1)
    cases h2 : stopOf (run a (asA s)) true with
    | error x => simp only [h2, bind, Except.bind] at e; cases e
    | ok z2 =>
      have c2 := hn _ _ _ (hA _ h) (hstop _ _ _ h2)
      simp only [h2, bind, Except.bind] at e
      split at e
      · cases e
        exact hB _ _ c1
      · split at e
        · cases e
        · next h3 =>
          cases e
          exact hB _ _ (hn _ _ _ (hC _ c2) (hstop _ _ _ h3))
/-- Every instruction and every event has its effect or takes its exception, and keeps memory canonical. -/
theorem steps_exec {s : State} (i : Instr) : Steps s (exec i s) := by
  cases i with
  | ld => exact steps_execLd ..
  | ldz => exact steps_execLdz ..
  | st => exact steps_execSt ..
  | ldx => exact steps_execLdx ..
  | stx => exact steps_execStx ..
  | ldm => exact steps_execLdm ..
  | stm => exact steps_execStm ..
  | ldk => exact steps_execLdk ..
  | pf => exact steps_execPf ..
  | amo => exact steps_execAmo ..
  | amoE => exact steps_issue (keeps_edgeAtomic ..)
  | amof => exact steps_execAmof ..
  | amofE => exact steps_issue (keeps_edgeAtomic ..)
  | cas => exact steps_execCas ..
  | qres => exact steps_execQres ..
  | qrel => exact steps_execQrel ..
  | br => exact steps_execBr ..
  | jmp => exact steps_issue (keeps_branchIf ..)
  | brEnd => exact steps_execBrEnd ..
  | jal => exact steps_execJal ..
  | jalr => exact steps_execJalr ..
  | loop => exact steps_execLoop ..
  | sopen => exact steps_execSopen ..
  | sclose => exact steps_execSclose ..
  | sseek => exact steps_execSseek ..
  | spos => exact steps_execSpos ..
  | fence => exact steps_execFence ..
  | fenceE => exact steps_execFenceE ..
  | wait => exact steps_execWait ..
  | mona => exact steps_execMona ..
  | monw => exact steps_execMonw ..
  | watch => exact steps_execWatch ..
  | wsleep => exact steps_execWsleep ..
  | cut => exact steps_execCut ..
  | direct => exact steps_execDirect ..
  | resume => exact steps_execResume ..
  | lock => exact steps_execLock ..
  | unlock => exact steps_execUnlock ..
  | clean => exact steps_execClean ..
  | inval => exact steps_execInval ..
  | iflush => exact steps_execIflush ..
  | isync => exact steps_execIsync ..
  | vld => exact steps_execVld ..
  | vst => exact steps_execVst ..
  | vlds => exact steps_execVlds ..
  | vsts => exact steps_execVsts ..
  | vgat => exact steps_execVgat ..
  | vsct => exact steps_execVsct ..
  | cpy => exact steps_execCpy ..
  | cpyw => exact steps_execCpyw ..
  | msend => exact steps_execMsend ..
  | chbind => exact steps_execChbind ..
  | chunbind => exact steps_execChunbind ..
  | redcfg => exact steps_execRedcfg ..
  | redc => exact steps_execRedc ..
  | tspawn => exact steps_execTspawn ..
  | tkey => exact steps_execTkey ..
  | fork => exact steps_execFork ..
  | join => exact steps_execJoin ..
  | rqput => exact steps_execRqput ..
  | rqtake => exact steps_execRqtake ..
  | tmset => exact steps_execTmset ..
  | sstart => exact steps_execSstart ..
  | sstop => exact steps_execSstop ..
  | exit => exact steps_execExit ..
  | trap => exact steps_issue (keeps_enterRequest ..)
  | wfi => exact steps_execWfi ..
  | brk => exact steps_execBrk ..
  | eret => exact steps_execEret ..
  | hcall => exact steps_issue (keeps_enterRequest ..)
  | csrr => exact steps_execCsrr ..
  | csrw => exact steps_execCsrw ..
  | rdc => exact steps_execRdc ..
  | hint => exact steps_execHint ..
  | add => exact steps_issue (keeps_aluOp ..)
  | sub => exact steps_issue (keeps_aluOp ..)
  | and => exact steps_issue (keeps_aluOp ..)
  | or => exact steps_issue (keeps_aluOp ..)
  | xor => exact steps_issue (keeps_aluOp ..)
  | andn => exact steps_issue (keeps_aluOp ..)
  | sll => exact steps_issue (keeps_aluOp ..)
  | srl => exact steps_issue (keeps_aluOp ..)
  | sra => exact steps_issue (keeps_aluOp ..)
  | rol => exact steps_issue (keeps_aluOp ..)
  | min => exact steps_issue (keeps_aluOp ..)
  | max => exact steps_issue (keeps_aluOp ..)
  | minu => exact steps_issue (keeps_aluOp ..)
  | maxu => exact steps_issue (keeps_aluOp ..)
  | mulh => exact steps_issue (keeps_aluOp ..)
  | mulhu => exact steps_issue (keeps_aluOp ..)
  | mul => exact steps_issue (keeps_aluOp ..)
  | div => exact steps_issue (keeps_aluOp ..)
  | divu => exact steps_issue (keeps_aluOp ..)
  | rem => exact steps_issue (keeps_aluOp ..)
  | remu => exact steps_issue (keeps_aluOp ..)
  | leaS1 => exact steps_issue (keeps_aluOp ..)
  | leaS2 => exact steps_issue (keeps_aluOp ..)
  | leaS3 => exact steps_issue (keeps_aluOp ..)
  | addi => exact steps_issue (keeps_unOp ..)
  | andi => exact steps_issue (keeps_unOp ..)
  | ori => exact steps_issue (keeps_unOp ..)
  | xori => exact steps_issue (keeps_unOp ..)
  | slli => exact steps_issue (keeps_unOp ..)
  | srli => exact steps_issue (keeps_unOp ..)
  | srai => exact steps_issue (keeps_unOp ..)
  | lih => exact steps_issue (keeps_dstA ..)
  | lihM => exact steps_execLihM ..
  | clz => exact steps_issue (keeps_unOp ..)
  | ctz => exact steps_issue (keeps_unOp ..)
  | pop => exact steps_issue (keeps_unOp ..)
  | brev => exact steps_issue (keeps_unOp ..)
  | bext => exact steps_issue (keeps_aluOp ..)
  | bins => exact steps_execBins ..
  | fcvt => exact steps_execFcvt ..
  | sel => exact steps_execSel ..
  | pset => exact steps_execPset ..
  | fcmpHf => exact steps_issue (keeps_fcmpOp ..)
  | fcmpBf => exact steps_issue (keeps_fcmpOp ..)
  | fcmpS => exact steps_issue (keeps_fcmpOp ..)
  | fcmpD => exact steps_issue (keeps_fcmpOp ..)
  | pseti => exact steps_execPseti ..
  | plog => exact steps_execPlog ..
  | pmovK => exact steps_execPmovK ..
  | pmovX => exact steps_execPmovX ..
  | faddHf => exact steps_issue (keeps_fpOp ..)
  | fsubHf => exact steps_issue (keeps_fpOp ..)
  | fmulHf => exact steps_issue (keeps_fpOp ..)
  | ffmaHf => exact steps_issue (keeps_fmaOp ..)
  | fdivHf => exact steps_issue (keeps_fpOp ..)
  | fminHf => exact steps_issue (keeps_fpOp ..)
  | fmaxHf => exact steps_issue (keeps_fpOp ..)
  | fsqrtHf => exact steps_issue (keeps_sqrtOp ..)
  | fclassHf => exact steps_issue (keeps_classOp ..)
  | faddBf => exact steps_issue (keeps_fpOp ..)
  | fsubBf => exact steps_issue (keeps_fpOp ..)
  | fmulBf => exact steps_issue (keeps_fpOp ..)
  | ffmaBf => exact steps_issue (keeps_fmaOp ..)
  | fdivBf => exact steps_issue (keeps_fpOp ..)
  | fminBf => exact steps_issue (keeps_fpOp ..)
  | fmaxBf => exact steps_issue (keeps_fpOp ..)
  | fsqrtBf => exact steps_issue (keeps_sqrtOp ..)
  | fclassBf => exact steps_issue (keeps_classOp ..)
  | faddS => exact steps_issue (keeps_fpOp ..)
  | fsubS => exact steps_issue (keeps_fpOp ..)
  | fmulS => exact steps_issue (keeps_fpOp ..)
  | ffmaS => exact steps_issue (keeps_fmaOp ..)
  | fdivS => exact steps_issue (keeps_fpOp ..)
  | fminS => exact steps_issue (keeps_fpOp ..)
  | fmaxS => exact steps_issue (keeps_fpOp ..)
  | fsqrtS => exact steps_issue (keeps_sqrtOp ..)
  | fclassS => exact steps_issue (keeps_classOp ..)
  | faddD => exact steps_issue (keeps_fpOp ..)
  | fsubD => exact steps_issue (keeps_fpOp ..)
  | fmulD => exact steps_issue (keeps_fpOp ..)
  | ffmaD => exact steps_issue (keeps_fmaOp ..)
  | fdivD => exact steps_issue (keeps_fpOp ..)
  | fminD => exact steps_issue (keeps_fpOp ..)
  | fmaxD => exact steps_issue (keeps_fpOp ..)
  | fsqrtD => exact steps_issue (keeps_sqrtOp ..)
  | fclassD => exact steps_issue (keeps_classOp ..)
  | vadd => exact steps_issue (keeps_vecInt ..)
  | vsub => exact steps_issue (keeps_vecInt ..)
  | vmul => exact steps_issue (keeps_vecInt ..)
  | vmulh => exact steps_issue (keeps_vecInt ..)
  | vand => exact steps_issue (keeps_vecInt ..)
  | vor => exact steps_issue (keeps_vecInt ..)
  | vxor => exact steps_issue (keeps_vecInt ..)
  | vsll => exact steps_issue (keeps_vecInt ..)
  | vsrl => exact steps_issue (keeps_vecInt ..)
  | vsra => exact steps_issue (keeps_vecInt ..)
  | vmin => exact steps_issue (keeps_vecInt ..)
  | vmax => exact steps_issue (keeps_vecInt ..)
  | vminu => exact steps_issue (keeps_vecInt ..)
  | vmaxu => exact steps_issue (keeps_vecInt ..)
  | vaddX => exact steps_issue (keeps_vecIntX ..)
  | vsllX => exact steps_issue (keeps_vecIntX ..)
  | vsrlX => exact steps_issue (keeps_vecIntX ..)
  | vsraX => exact steps_issue (keeps_vecIntX ..)
  | vfadd => exact steps_issue (keeps_vecFp ..)
  | vfsub => exact steps_issue (keeps_vecFp ..)
  | vfmul => exact steps_issue (keeps_vecFp ..)
  | vffma => exact steps_execVffma ..
  | vfmin => exact steps_issue (keeps_vecFp ..)
  | vfmax => exact steps_issue (keeps_vecFp ..)
  | vfdiv => exact steps_issue (keeps_vecFp ..)
  | vfsqrt => exact steps_execVfsqrt ..
  | vfaddX => exact steps_issue (keeps_vecFpX ..)
  | vfmulX => exact steps_issue (keeps_vecFpX ..)
  | vffmaX => exact steps_execVffmaX ..
  | vcmp => exact steps_execVcmp ..
  | vfcmp => exact steps_execVfcmp ..
  | vsel => exact steps_execVsel ..
  | vperm => exact steps_execVperm ..
  | vcomp => exact steps_execVcomp ..
  | vbcast => exact steps_execVbcast ..
  | vslide => exact steps_execVslide ..
  | vext => exact steps_execVext ..
  | vcvt => exact steps_issue (keeps_vecCvt ..)
  | vcvtNarrow => exact steps_issue (keeps_vecCvt ..)
  | vcvtSr => exact steps_execVcvtSr ..
  | vred => exact steps_execVred ..
  | vscan => exact steps_execVscan ..
  | vexp2 => exact steps_issue (keeps_vecSpecial ..)
  | vlog2 => exact steps_issue (keeps_vecSpecial ..)
  | vrcp => exact steps_issue (keeps_vecSpecial ..)
  | vrsqrt => exact steps_issue (keeps_vecSpecial ..)
  | vsin => exact steps_issue (keeps_vecSpecial ..)
  | vcos => exact steps_issue (keeps_vecSpecial ..)
  | vrng => exact steps_execVrng ..
  | vclaim => exact steps_execVclaim ..
  | vrenew => exact steps_execVrenew ..
  | vrel => exact steps_execVrel ..
  | vlen => exact steps_execVlen ..
  | mma => exact steps_execMma ..
  | mmaNarrow => exact steps_execMmaNarrow ..
  | mmode => exact steps_execMmode ..
  | mscale => exact steps_execMscale ..
  | mbar => exact steps_execMbar ..
  | mld => exact steps_execMld ..
  | mst => exact steps_execMst ..
  | mrd => exact steps_execMrd ..
  | mzero => exact steps_execMzero ..
  | mdrain => exact steps_execMdrain ..
  | mtrans => exact steps_execMtrans ..
  | mcpy => exact steps_execMcpy ..
  | interruptTaken => exact steps_execInterruptTaken ..
  | timerExpiry => exact steps_execTimerExpiry ..
  | chunkEndChunkmax => exact steps_execChunkEndChunkmax ..
  | chunkCutCycles => exact steps_execChunkCutCycles ..
  | commitRequest => exact steps_execCommitRequest ..
  | commitGrant => exact steps_execCommitGrant ..
  | grantArrival => exact steps_execGrantArrival ..
  | sig => exact steps_execSig ..
  | directFallback => exact steps_execDirectFallback ..
  | engineChunkGrant => exact steps_execEngineChunkGrant ..
  | copyComplete => exact steps_execCopyComplete ..
  | combiningRelease => exact steps_execCombiningRelease ..
  | reads => exact steps_execReads ..
  | readm => exact steps_execReadm ..
  | fwd => exact steps_execFwd ..
  | data => exact steps_execData ..
  | wback => exact steps_execWback ..
  | ack => exact steps_execAck ..
  | inv => exact steps_execInv ..
  | binv => exact steps_execBinv ..
  | remoteStoreMessage => exact steps_execRemoteStoreMessage ..
  | loadDataReturn => exact steps_execLoadDataReturn ..
  | storeGloballyPerformed => exact steps_execStoreGloballyPerformed ..
  | streamPrefetchArrival => exact steps_execStreamPrefetchArrival ..
  | messageArrival => exact steps_execMessageArrival ..
  | fullReply => exact steps_execFullReply ..
  | messageResend => exact steps_execMessageResend ..
  | messageRefusal => exact steps_execMessageRefusal ..
  | qresHead => exact steps_execQresHead ..
  | qrelAck => exact steps_execQrelAck ..
  | edgeAtomicAtHome => exact steps_execEdgeAtomicAtHome ..
  | edgeAtomicResponse => exact steps_execEdgeAtomicResponse ..
  | edgeWriteAck => exact steps_execEdgeWriteAck ..
  | edgeWriteRefused => exact steps_execEdgeWriteRefused ..
  | monwTimeout => exact steps_execMonwTimeout ..
  | wsleepTimeout => exact steps_execWsleepTimeout ..
  | matrixCommandAccept => exact steps_execMatrixCommandAccept ..
  | matrixCommandComplete => exact steps_execMatrixCommandComplete ..
  | reductionRoundDeliver => exact steps_execReductionRoundDeliver ..
  | childStart => exact steps_execChildStart ..
  | taskStart => exact steps_execTaskStart ..
  | passedOverEntry => exact steps_execPassedOverEntry ..
  | queueNotify => exact steps_execQueueNotify ..
  | launchStart => exact steps_execLaunchStart ..
  | coreGroupStart => exact steps_execCoreGroupStart ..
  | launchComplete => exact steps_execLaunchComplete ..
  | errorDetected => exact steps_execErrorDetected ..
  | linkFlitError => exact steps_execLinkFlitError ..
  | heathwayPortFailure => exact steps_execHeathwayPortFailure ..
  | accessCounterThreshold => exact steps_execAccessCounterThreshold ..
  | regionMoveComplete => exact steps_execRegionMoveComplete ..
  | cxlMemRead => exact steps_execCxlMemRead ..
  | cxlMemWrite => exact steps_execCxlMemWrite ..
  | cxlCacheSnoop => exact steps_execCxlCacheSnoop ..
  | packageReset => exact steps_execPackageReset ..
  | hentry => exact steps_execHentry ..
  | functionLevelReset => exact steps_execFunctionLevelReset ..
  | throttleStart => exact steps_execThrottleStart ..
  | throttleEnd => exact steps_execThrottleEnd ..
  | thermalReset => exact steps_execThermalReset ..
  | dbgen => exact steps_execDbgen ..
  | bpset => exact steps_execBpset ..
  | halt => exact steps_execHalt ..
  | step => exact steps_execStep ..
  | debugResume => exact steps_execDebugResume ..
  | debugRead => exact steps_execDebugRead ..
  | debugWrite => exact steps_execDebugWrite ..
  | samplingPulse => exact steps_execSamplingPulse ..
  | counterConfig => exact steps_execCounterConfig ..
  | snap => exact steps_execSnap ..
  | traceConfig => exact steps_execTraceConfig ..
  | trptr => exact steps_execTrptr ..
  | tclaim => exact steps_execTclaim ..
  | drainRequest => exact steps_execDrainRequest ..
  | registerWrite => exact steps_execRegisterWrite ..
  | vset => exact steps_execVset ..
  | hset => exact steps_execHset ..
  | contain => exact steps_execContain ..
  | drain => exact steps_execDrain ..
  | trace => exact steps_execTrace ..
  | bstop => exact steps_execBstop ..
  | baleFreeze => exact steps_execBaleFreeze ..
  | baleStreamOutEnd => exact steps_execBaleStreamOutEnd ..
  | brest => exact steps_execBrest ..
  | hover => exact steps_execHover ..
  | slotHandover => exact steps_execSlotHandover ..
  | handoverResume => exact steps_execHandoverResume ..
  | scrubComplete => exact steps_execScrubComplete ..
  | precopy => exact steps_execPrecopy ..
  | stopping => exact steps_execStopping ..
  | abort => exact steps_execAbort ..
  | resuming => exact steps_execResuming ..
  | migrationStopped => exact steps_execMigrationStopped ..
  | mackRelease => exact steps_execMackRelease ..
  | mackSubmit => exact steps_execMackSubmit ..
  | pullall => exact steps_execPullall ..
  | pull => exact steps_execPull ..
  | pullData => exact steps_execPullData ..
  | started => exact steps_execStarted ..
  | done => exact steps_execDone ..
  | remap => exact steps_execRemap ..
  | remapack => exact steps_execRemapack ..
  | fwdend => exact steps_execFwdend ..
  | peerAccessArrival => exact steps_execPeerAccessArrival ..
  | baleStreamInEnd => exact steps_execBaleStreamInEnd ..
  | mbPset => exact steps_execMbPset ..
  | mbPlog => exact steps_execMbPlog ..

theorem steps_issueSlot {s : State} (gs : Nat) : Steps s (issueSlot s gs) := by
  have h0 (h : s.Canonical) : State.Canonical { s with fs := gs, unit := UnitCtx.idle } := h
  unfold issueSlot
  extract_lets s0
  replace h0 : s.Canonical → s0.Canonical := h0
  clear_value s0
  refine steps_ite (steps_next id) ?_
  split
  · next s1 hs => exact steps_next fun h => canon_takeDue (canon_dueNow (h0 h) (.inl hs)) ..
  · next s1 hs => exact steps_next fun h => canon_dueNow (h0 h) (.inr hs)
  · split
    · exact steps_next fun h => canon_takeBreak (h0 h) ..
    · split
      · next s1 e hs => exact steps_next fun h => canon_refuseUnit (canon_fetchNext (h0 h) (.inl ⟨e, hs⟩)) ..
      · next s1 i hs =>
        obtain ⟨t, ht, hc⟩ := steps_exec (s := s1) i
        exact ⟨t, ht, fun h => hc (canon_fetchNext (h0 h) (.inr (.inl ⟨i, hs⟩)))⟩
      · next s1 c a hs =>
        exact steps_next fun h => canon_runUnit (canon_fetchNext (h0 h) (.inr (.inr ⟨c, a, hs⟩))) _ (keeps_pairBody (fun _ _ => steps_exec _) c a)

/-- What an event leaves has canonical memory. -/
theorem Steps.canonical {s t : State} {o : Outcome} (ho : Steps s o) (h : s.Canonical) (e : o = .next t) : t.Canonical := by
  obtain ⟨u, hu, hc⟩ := ho
  rw [hu] at e
  cases e
  exact hc h

theorem someCanon_tryIssue {s : State} (h : s.Canonical) (gs : Nat) : SomeCanon (s.tryIssue gs) := by
  unfold State.tryIssue
  split
  · next hs =>
    split
    · exact someCanon_none
    · exact someCanon_some ((steps_issueSlot gs).canonical h hs)
  · exact someCanon_none

theorem canonical_spendTurn {s : State} (h : s.Canonical) (gc : Nat) : (s.spendTurn gc).Canonical := h

theorem canonical_wheelTurn {s : State} (h : s.Canonical) (gc : Nat) : (s.wheelTurn gc).Canonical := by
  unfold State.wheelTurn
  cases hf : (s.wheelOrder gc).findSome? (s.spendTurn gc).tryIssue with
  | none => exact canonical_spendTurn h gc
  | some t =>
    obtain ⟨_, gs, _, _, hs, _⟩ := List.findSome?_eq_some_iff.mp hf
    exact (someCanon_tryIssue (canonical_spendTurn h gc) gs).elim hs

theorem steps_issueTurn {s : State} (gs : Nat) : Steps s (s.issueTurn gs) := by
  unfold State.issueTurn
  refine steps_ite (steps_next fun h => ?_) (steps_next id)
  cases ht : (s.spendTurn (coreOf gs)).tryIssue gs with
  | none => exact h
  | some t => exact (someCanon_tryIssue (canonical_spendTurn h _) gs).elim ht

/-- What the agenda names takes place, and keeps memory canonical. -/
theorem steps_act {s : State} (a : Act) : Steps s (s.act a) := by
  cases a with
  | event i => exact steps_ite (steps_next id) (steps_exec i)
  | issue gs => exact steps_issueTurn gs
  | tick => exact steps_next id
  | command c =>
    unfold State.act
    dsimp only
    split
    · exact steps_execMbPset c
    · exact steps_execVset c
    · exact steps_execHset c
    · exact steps_execMbPlog c
    · exact steps_execContain c
    · exact steps_execDrain c
    · exact steps_execTrace c
    · exact steps_execBstop c
    · exact steps_execBrest c
    · exact steps_execHover c
    · exact steps_next fun h => canon_mbUnknown h c
  | notify vf q => exact steps_execQueueNotify ..
  | tclaim vf die claim => exact steps_execTclaim ..
  | drain vf q => exact steps_execDrainRequest ..
  | config blk i v => exact steps_execCounterConfig ..
  | snap blk v => exact steps_execSnap ..
  | precopy vf => exact steps_execPrecopy ..
  | stopping vf => exact steps_execStopping ..
  | abort vf => exact steps_execAbort ..
  | resuming vf => exact steps_execResuming ..
  | pullall vf => exact steps_execPullall ..
  | mackSubmit vf => exact steps_execMackSubmit ..
  | mackRelease vf => exact steps_execMackRelease ..
  | threshold vf host region => exact steps_execAccessCounterThreshold ..
  | matRound pc => exact steps_next fun h => canon_ite (canon_matRound h pc) h
  | evict die line => exact steps_next fun h => canon_evict h die line
  | handOff state fail => exact steps_next fun h => canon_handOff h state fail
  | hostResponse => exact steps_next fun h => canon_hostResponds h
  | peerAccess a => exact steps_execPeerAccessArrival a

theorem steps_cohEvent {s : State} (m : CohMsg) : Steps s (m.event s) := by
  obtain ⟨kind, die, line⟩ := m
  cases kind with
  | reads => exact steps_execReads ..
  | readm => exact steps_execReadm ..
  | binv => exact steps_execBinv ..
  | getm => exact steps_next id
  | fwd o => exact steps_execFwd ..
  | data x => exact steps_execData ..
  | wback => exact steps_execWback ..
  | ack => exact steps_execAck ..
  | inv => exact steps_execInv ..

theorem steps_slotEvents (gs : Nat) : ∀ e ∈ slotEvents gs, ∀ s, Steps s (e s) := by
  simp only [slotEvents, List.forall_mem_cons, List.not_mem_nil, false_implies, implies_true, and_true]
  exact ⟨fun _ => steps_execGrantArrival gs, fun _ => steps_execLoadDataReturn gs, fun _ => steps_execStoreGloballyPerformed gs,
    fun _ => steps_execChunkEndChunkmax gs, fun _ => steps_execChunkCutCycles gs, fun _ => steps_execDirectFallback gs,
    fun _ => steps_execCommitRequest gs, fun _ => steps_execCommitGrant gs, fun _ => steps_execEdgeAtomicAtHome gs,
    fun _ => steps_execEdgeAtomicResponse gs, fun _ => steps_execQrelAck gs, fun _ => steps_execMonwTimeout gs,
    fun _ => steps_execWsleepTimeout gs, fun _ => steps_execInterruptTaken gs, fun _ => steps_execMessageResend gs,
    fun _ => steps_execHandoverResume gs⟩

theorem steps_launchEvents (lid : Nat) (l : Launch) : ∀ e ∈ l.events lid, ∀ s, Steps s (e s) := by
  intro e he s
  simp only [Launch.events, List.mem_append, List.mem_map, List.mem_singleton] at he
  rcases he with ((rfl | ⟨x, _, rfl⟩) | ⟨x, _, rfl⟩) | rfl
  · exact steps_execCoreGroupStart lid
  · exact steps_execChildStart ..
  · exact steps_execTaskStart ..
  · exact steps_execLaunchComplete lid

/-- The events of a list step on. -/
def AllStep (l : List OwnEvent) : Prop := ∀ e ∈ l, ∀ s, Steps s (e s)

theorem allStep_nil : AllStep [] := fun _ he => nomatch he
theorem allStep_cons {e : OwnEvent} {l : List OwnEvent} (he : ∀ s, Steps s (e s)) (hl : AllStep l) : AllStep (e :: l) :=
  List.forall_mem_cons.mpr ⟨he, hl⟩
theorem allStep_append {l m : List OwnEvent} (hl : AllStep l) (hm : AllStep m) : AllStep (l ++ m) := List.forall_mem_append.mpr ⟨hl, hm⟩
theorem allStep_map {α : Type} {f : α → OwnEvent} (hf : ∀ a s, Steps s (f a s)) (l : List α) : AllStep (l.map f) := by
  intro e he
  obtain ⟨a, _, rfl⟩ := List.mem_map.mp he
  exact hf a
theorem allStep_flatMap {α : Type} {f : α → List OwnEvent} (hf : ∀ a, AllStep (f a)) (l : List α) : AllStep (l.flatMap f) := by
  intro e he
  obtain ⟨a, _, ha⟩ := List.mem_flatMap.mp he
  exact hf a e ha

theorem allStep_ownEvents (s : State) : AllStep s.ownEvents := by
  unfold State.ownEvents
  repeat' refine allStep_append ?_ ?_
  · exact allStep_cons (fun _ => steps_execSig) (allStep_cons (fun _ => steps_execRemoteStoreMessage)
      (allStep_cons (fun _ => steps_next fun h => canon_hostResponds h) allStep_nil))
  · exact allStep_map (fun m _ => steps_cohEvent _) _
  · refine allStep_flatMap (fun x => ?_) _
    split
    · exact steps_slotEvents _
    · exact allStep_nil
  · exact allStep_map (fun x _ => steps_execQresHead _) _
  · exact allStep_flatMap (fun c => allStep_cons (fun _ => steps_execCombiningRelease ..) (allStep_cons (fun _ => steps_execEngineChunkGrant _)
      (allStep_cons (fun _ => steps_execCopyComplete _) allStep_nil))) _
  · refine allStep_flatMap (fun x => allStep_append (allStep_append (allStep_cons (fun _ => steps_execMatrixCommandAccept ..) allStep_nil) ?_)
      (allStep_cons (fun _ => steps_next fun h => canon_ite (canon_matRound h _) h)
        (allStep_cons (fun _ => steps_execMatrixCommandComplete ..) allStep_nil))) _
    split
    · exact allStep_cons (fun _ => steps_execEngineChunkGrant _) allStep_nil
    · exact allStep_nil
  · exact allStep_flatMap (fun m => allStep_cons (fun _ => steps_execMessageArrival _) (allStep_cons (fun _ => steps_execFullReply _)
      (allStep_cons (fun _ => steps_execMessageRefusal _) allStep_nil))) _
  · exact allStep_map (fun e _ => steps_execEdgeWriteAck _) _
  · exact allStep_map (fun n _ => steps_execReductionRoundDeliver ..) _
  · exact allStep_flatMap (fun x => steps_launchEvents _ _) _
  · exact allStep_map (fun m _ => steps_execLaunchStart ..) _
  · exact allStep_map (fun m _ => steps_execRegionMoveComplete _) _
  · exact allStep_cons (fun _ => steps_execScrubComplete) allStep_nil
  · refine allStep_flatMap (fun x => allStep_append (allStep_cons (fun _ => steps_execBaleFreeze _)
      (allStep_cons (fun _ => steps_execBaleStreamOutEnd _) allStep_nil)) ?_) _
    split
    · exact allStep_cons (fun _ => steps_execBaleStreamInEnd _) allStep_nil
    · exact allStep_nil
  · split
    · exact allStep_map (fun gs _ => steps_execSlotHandover _) _
    · exact allStep_nil
  · exact allStep_map (fun x _ => steps_execMigrationStopped _) _
  · exact allStep_cons (fun _ => steps_execSamplingPulse) allStep_nil

theorem someCanon_firstEvent {s : State} (h : s.Canonical) {l : List OwnEvent} (hl : AllStep l) : SomeCanon (s.firstEvent l) := by
  induction l with
  | nil => exact someCanon_none
  | cons e l ih =>
    obtain ⟨he, hl⟩ := List.forall_mem_cons.mp hl
    unfold State.firstEvent
    split
    · next hs =>
      split
      · exact ih hl
      · exact someCanon_some ((he s).canonical h hs)
    · exact ih hl

theorem canonical_pulse {s : State} (h : s.Canonical) : s.pulse.Canonical := by
  unfold State.pulse
  split
  · next hs => exact steps_execSamplingPulse.canonical h hs
  · exact h

theorem canonical_passCycle {s : State} (h : s.Canonical) : s.passCycle.Canonical := by
  unfold State.passCycle
  extract_lets s1 s2 s3
  have h1 : s1.Canonical := canon_sendNotices (canon_settleResets (canon_settleRemaps (canon_settleFreezes (canon_settleHalts
    (canon_flushMerged (canon_tick (canonical_pulse (canon_writeTraces h))))))))
  clear_value s1
  have h2 : s2.Canonical := canonical_foldl (fun t vf ht => canon_retryHeld ht vf) h1 _
  clear_value s2
  have h3 : s3.Canonical := canon_drawIdle (canon_countFrees (canonical_foldl (fun t gs ht => canon_count ht gs 0x01 1) h2 _))
  exact h3

theorem canonical_nextStep {s : State} (h : s.Canonical) : s.nextStep.Canonical := by
  unfold State.nextStep
  split
  · exact canonical_wheelTurn h _
  · split
    · exact (someCanon_firstEvent h (allStep_ownEvents s)).elim (by assumption)
    · refine canonical_passCycle ?_
      cases hf : s.firstEvent (s.threads.map (fun x => execPassedOverEntry x.1)) with
      | none => exact h
      | some t => exact (someCanon_firstEvent h (allStep_map (fun x _ => steps_execPassedOverEntry _) _)).elim hf

/-- A step answers a next state, with canonical memory where the state had it. -/
theorem steps_step (s : State) : Steps s (step s) := by
  have h0 (l : List Act) (h : s.Canonical) : State.Canonical { s with agenda := l } := h
  unfold step
  split
  · split
    · exact steps_next fun h => canonical_wheelTurn h _
    · exact steps_next fun h => canonical_passCycle (h0 _ h)
  · next a rest _ _ =>
    obtain ⟨t, ht, hc⟩ := steps_act (s := { s with agenda := rest }) a
    exact ⟨t, ht, fun h => hc (h0 _ h)⟩
  · exact steps_next fun h => canonical_nextStep h

end Sys2Proof.Machine

namespace Sys2Proof
open Machine

/-- Settles O58: every arm of the dispatch steps on, and the agenda's acts with them. -/
theorem stepAlwaysAnswers : Obligations.StepAlwaysAnswers := by
  unfold Obligations.StepAlwaysAnswers
  have h {s : State} {o : Outcome} (ho : Steps s o) : ∃ t, o = .next t := by
    obtain ⟨t, ht, _⟩ := ho
    exact ⟨t, ht⟩
  exact ⟨fun i s => h (steps_exec i), fun s => h (steps_step s)⟩

/-- Settles O60: each function of the model that leads from state to state keeps memory canonical. -/
theorem memoryStaysCanonical : Obligations.MemoryStaysCanonical := by
  unfold Obligations.MemoryStaysCanonical
  exact fun s t h e => (steps_step s).canonical h e

end Sys2Proof
end

section
/-!
PROOFS. The step of a slot's unit (O53) and the wheel of a core (O54).
-/

namespace Sys2Proof.Machine

/-- The agenda's first act takes place. -/
theorem step_of_act {s : State} {a : Act} {rest : List Act} (h : s.agenda = a :: rest) (ha : a ≠ .tick) :
    step s = ({ s with agenda := rest } : State).act a := by
  unfold step
  rw [h]
  cases a <;> first | rfl | exact absurd rfl ha

/-- What a slot that issues leaves, as the wheel judges it. -/
theorem State.tryIssue_of_next {s t : State} {gs : Nat} (h : issueSlot s gs = .next t) :
    s.tryIssue gs = if (t.thread gs).a.pc = (s.thread gs).a.pc ∧ { t with fs := s.fs, unit := s.unit } = s then none else some t := by
  unfold State.tryIssue
  rw [h]
  simp only [Bool.and_eq_true, decide_eq_true_eq]

/-- The step of a slot that the wheel gives its turn. -/
theorem step_turned {s t : State} {gs : Nat} {rest : List Act} (h : Spec.Issues s gs rest)
    (hi : issueSlot (({ s with agenda := rest } : State).spendTurn (coreOf gs)) gs = .next t) :
    step s = .next (Spec.Turned s gs rest t) := by
  rw [step_of_act h.agenda (by simp)]
  show State.issueTurn _ gs = _
  unfold State.issueTurn
  rw [if_pos h.gives, State.tryIssue_of_next hi]
  unfold Spec.Turned
  dsimp only
  split <;> rfl

/-- Nothing stands before the unit: the slot issues what it fetches. -/
theorem issueSlot_fetched {s : State} {gs : Nat} {rest : List Act} (h : Spec.Issues s gs rest) :
    issueSlot (({ s with agenda := rest } : State).spendTurn (coreOf gs)) gs = match (Spec.issuing s gs rest).fetchNext with
      | .stop s1 e => .next (s1.refuseUnit e)
      | .lone s1 i => exec i s1
      | .pair s1 c a => .next (s1.runUnit [c, a] (pairBody exec c a)) := by
  unfold issueSlot
  rw [show ({ ({ s with agenda := rest } : State).spendTurn (coreOf gs) with fs := gs, unit := UnitCtx.idle } : State) =
    Spec.issuing s gs rest from rfl]
  dsimp only
  rw [h.may, h.due, h.hit]
  rfl

/-- A lone unit is the word at the program counter. -/
theorem shapeOf_lone {w0 w1 : BitVec 32} {b : Bool} (h0 : w0.getLsbD 0 = true) (h1 : w1.getLsbD 0 = true) :
    shapeOf w0 w1 b = .lone (if b then w1 else w0) := by
  unfold shapeOf
  rw [h0, h1]
  rfl

theorem extract_two_eq_zero (w : BitVec 32) : w.extractLsb' 0 2 = 0#2 ↔ w.getLsbD 0 = false ∧ w.getLsbD 1 = false := by
  rw [BitVec.eq_of_getLsbD_eq_iff]
  constructor
  · intro h
    exact ⟨by simpa using h 0 (by omega), by simpa using h 1 (by omega)⟩
  · rintro ⟨h0, h1⟩ i hi
    obtain rfl | rfl : i = 0 ∨ i = 1 := by omega
    · simpa using h0
    · simpa using h1

theorem extract_two_eq_two (w : BitVec 32) : w.extractLsb' 0 2 = 2#2 ↔ w.getLsbD 0 = false ∧ w.getLsbD 1 = true := by
  rw [BitVec.eq_of_getLsbD_eq_iff]
  constructor
  · intro h
    exact ⟨by simpa using h 0 (by omega), by simpa using h 1 (by omega)⟩
  · rintro ⟨h0, h1⟩ i hi
    obtain rfl | rfl : i = 0 ∨ i = 1 := by omega
    · simpa using h0
    · simpa using h1

/-- A pair is a C-class word and an A-class word with L = 0, entered at the first, which is no word of major 0x30 (R81, R82). -/
theorem shapeOf_pair {w0 w1 : BitVec 32} {b : Bool} (h0 : w0.extractLsb' 0 2 = 0#2) (h1 : w1.extractLsb' 0 2 = 2#2)
    (hm : w0.extractLsb' 2 6 ≠ 0x30#6) (hb : b = false) : shapeOf w0 w1 b = .pair w0 w1 := by
  obtain ⟨a0, a1⟩ := (extract_two_eq_zero w0).mp h0
  obtain ⟨b0, b1⟩ := (extract_two_eq_two w1).mp h1
  unfold shapeOf
  rw [a0, a1, b0, b1, hb]
  dsimp only
  rw [if_neg (by simp), if_pos (by simpa using hm)]

theorem shapeOf_bad {w0 w1 : BitVec 32} {b : Bool} (hl : ¬(w0.getLsbD 0 = true ∧ w1.getLsbD 0 = true))
    (hp : ¬(w0.extractLsb' 0 2 = 0#2 ∧ w1.extractLsb' 0 2 = 2#2 ∧ w0.extractLsb' 2 6 ≠ 0x30#6 ∧ b = false)) :
    shapeOf w0 w1 b = .bad := by
  rw [extract_two_eq_zero, extract_two_eq_two] at hp
  unfold shapeOf
  dsimp only
  rw [if_neg (by simpa using hl), if_neg]
  intro h
  simp only [Bool.and_eq_true, Bool.not_eq_true', bne_iff_ne, ne_eq] at h
  obtain ⟨⟨⟨⟨⟨h0, h1⟩, h2⟩, h3⟩, h4⟩, h5⟩ := h
  exact hp ⟨⟨h0, h2⟩, ⟨h1, h3⟩, h4, h5⟩

/-- What a slot whose two words have come makes of them. -/
theorem State.fetchNext_of {s s1 : State} {w0 w1 : BitVec 32} (h : Spec.Fetches s w0 w1 s1) :
    s.fetchNext = match shapeOf w0 w1 (bit s.th.a.pc 2) with
      | .bad => .stop { s1 with unit := { UnitCtx.at_ s.th.a.pc with addr := s.th.a.pc &&& ~~~7, word := w0, other := w1 } }
          (.trap { cause := .illegalPair, whole := true })
      | .lone w =>
        let s2 := { s1 with unit := { UnitCtx.at_ s.th.a.pc with word := w, next := addr57 (s.th.a.pc + 4) } }
        match decode w with
        | .ok i => .lone s2 i
        | .error _ => .stop s2 (.trap { cause := .illegalInstruction })
      | .pair c a =>
        let s2 := { s1 with unit := { UnitCtx.at_ s.th.a.pc with word := c, other := a, next := addr57 (s.th.a.pc + 8) } }
        match decode c, decode a with
        | .ok i, .ok j => .pair s2 i j
        | .error _, _ => .stop s2 (.trap { cause := .illegalInstruction })
        | .ok _, .error _ => .stop s2 (.trap { cause := .illegalInstruction, second := true }) := by
  unfold State.fetchNext
  dsimp only
  unfold Spec.Fetches at h
  rw [h] <;> rfl

theorem stepOfADecodedUnit : Spec.StepOfADecodedUnit := by
  intro s s1 gs rest w0 w1 hi hf pc u w
  have hpc : (Spec.issuing s gs rest).th.a.pc = pc := rfl
  have hn := State.fetchNext_of hf
  have hs := issueSlot_fetched hi
  rw [hpc] at hn
  refine ⟨fun h0 h1 i hd => ?_, fun h0 h1 hd => ?_, fun h0 h1 hm hb c a hc ha => ?_, fun hl hp => ?_⟩
  · rw [shapeOf_lone h0 h1] at hn
    dsimp only at hn
    rw [show (if bit pc 2 then w1 else w0) = w from rfl, hd] at hn
    rw [hn] at hs
    obtain ⟨t, ht, _⟩ := steps_exec (s := { s1 with unit := { u with word := w, next := addr57 (pc + 4) } }) i
    exact ⟨t, ht, step_turned hi (hs.trans ht)⟩
  · rw [shapeOf_lone h0 h1] at hn
    dsimp only at hn
    rw [show (if bit pc 2 then w1 else w0) = w from rfl] at hn
    cases hw : decode w with
    | ok i => exact absurd hw (hd i)
    | error e =>
      rw [hw] at hn
      rw [hn] at hs
      exact step_turned hi hs
  · rw [shapeOf_pair h0 h1 hm hb] at hn
    dsimp only at hn
    rw [hc, ha] at hn
    rw [hn] at hs
    exact step_turned hi hs
  · rw [shapeOf_bad hl hp] at hn
    rw [hn] at hs
    exact step_turned hi hs

/-- Giving up a line of an instruction cache changes that cache alone. -/
theorem State.icRoom_same (s : State) (gc line : Nat) : s.icRoom gc line = { s with icache := (s.icRoom gc line).icache } := by
  unfold State.icRoom
  split
  · rfl
  · dsimp only
    split
    · rfl
    · split <;> rfl

theorem mget_mdel_of_none {α : Type} {m : Map α} {k : Nat} (h : mget m k = none) (v : Nat) : mget (mdel m v) k = none := by
  by_cases hk : k = v
  · rw [hk, mget_mdel_self]
  · rw [mget_mdel_ne m hk, h]

theorem State.icRoom_none {s : State} {gc line k : Nat} (h : mget s.icache k = none) : mget (s.icRoom gc line).icache k = none := by
  unfold State.icRoom
  split
  · exact h
  · dsimp only
    split
    · exact h
    · split
      · exact mget_mdel_of_none h _
      · exact h

/-- A line that no cache of the core holds is fetched from memory (R153). -/
theorem State.fetchLine_memory {s : State} {line : Nat} (hc : mget s.icache (icKey (coreOf s.fs) line) = none)
    (ho : mget s.th.fetched line = none) : (s.fetchLine line).1 = s.memLine line := by
  have hk := State.icRoom_none (gc := coreOf s.fs) (line := line) hc
  have hs := s.icRoom_same (coreOf s.fs) line
  unfold State.fetchLine
  generalize s.icRoom (coreOf s.fs) line = t at hk hs
  have hth : t.th = s.th := by rw [hs]; rfl
  have hm : t.memLine line = s.memLine line := by rw [hs]; rfl
  dsimp only
  rw [hk, hth, ho]
  exact hm

theorem State.bytesAt_drop_take (s : State) (a d n k : Nat) (h : d + k ≤ n) : ((s.bytesAt a n).drop d).take k = s.bytesAt (a + d) k := by
  apply List.ext_getElem
  · simp [State.bytesAt]; omega
  · intro i h1 h2
    simp [State.bytesAt, Nat.add_assoc]

theorem fetchReadsTheUnit : Spec.FetchReadsTheUnit := by
  intro s s1 s2 pa hpc hpa s0 hx hr hrem hp s3 hic hold
  have hline : (s3.fetchLine (lineOf pa)).1 = s3.memLine (lineOf pa) := State.fetchLine_memory hic hold
  refine ⟨(s3.fetchLine (lineOf pa)).2, ?_⟩
  show fetchUnit s.th.a.pc s0 = _
  unfold fetchUnit
  dsimp only
  rw [if_neg (by simpa using hpc), M.bind_ok (show (get : M State) s0 = .ok (s0, s0) from rfl), M.bind_ok hx, M.bind_ok hr,
    M.bind_ok (show (get : M State) s2 = .ok (s2, s2) from rfl),
    M.bind_ok (show M.until_ (!s2.remotePending pa 8) s2 = .ok ((), s2) by rw [hrem]; rfl), hp, if_neg (by simp)]
  refine congrArg Except.ok (Prod.ext ?_ rfl)
  show (BitVec.ofNat 32 (leNat ((((s3.fetchLine (lineOf pa)).1.drop (pa % 128)).take 8).take 4)),
    BitVec.ofNat 32 (leNat ((((s3.fetchLine (lineOf pa)).1.drop (pa % 128)).take 8).drop 4))) = _
  have hat : 128 * lineOf pa + pa % 128 = pa := by unfold lineOf; omega
  rw [hline, State.memLine, State.bytesAt_drop_take _ _ _ _ _ (by omega), hat]
  have h4 := s3.bytesAt_drop_take pa 0 8 4 (by omega)
  have h8 := s3.bytesAt_drop_take pa 4 8 4 (by omega)
  rw [List.drop_zero, Nat.add_zero] at h4
  rw [h4, ← h8, List.take_of_length_le (by simp [State.bytesAt])]

/-! The count of cycles, which only a cycle's passing moves (R293). -/

theorem State.Wrote.cycle {s t : State} (h : s.Wrote t) : t.cycle = s.cycle := by rw [h.same]

theorem cycle_ite {c : Prop} [Decidable c] {s t : State} {n : Nat} (h : s.cycle = n) (g : t.cycle = n) :
    (if c then s else t).cycle = n := by split <;> assumption

theorem cycle_foldl {β : Type} {f : State → β → State} (hf : ∀ t b, (f t b).cycle = t.cycle) (l : List β) (s : State) :
    (l.foldl f s).cycle = s.cycle := by
  induction l generalizing s with
  | nil => rfl
  | cons b l ih => exact (ih _).trans (hf s b)

@[simp] theorem cycle_askPull (s : State) (x1 : Nat) (x2 : Nat) : (State.askPull s x1 x2).cycle = s.cycle := by
  unfold State.askPull
  dsimp only
  (repeat' split) <;> simp

@[simp] theorem cycle_performAll (s : State) (x1 : Option Nat) (x2 : List Eff) : (State.performAll s x1 x2).cycle = s.cycle := (State.wrote_performAll ..).cycle

@[simp] theorem cycle_raise (s : State) (x1 : Nat) (x2 : Nat) (x3 : Nat) : (State.raise s x1 x2 x3).cycle = s.cycle := by
  unfold State.raise
  dsimp only
  (repeat' split) <;> simp

@[simp] theorem cycle_postHyper (s : State) (x1 : Nat) (x2 : Nat) (x3 : Nat) (x4 : Nat) (x5 : List Word) : (State.postHyper s x1 x2 x3 x4 x5).cycle = s.cycle := by
  unfold State.postHyper
  dsimp only
  (repeat' split) <;> simp

@[simp] theorem cycle_traceRec (s : State) (x1 : Nat) (x2 : Nat) (x3 : Word) (x4 : Word) : (State.traceRec s x1 x2 x3 x4).cycle = s.cycle := (State.wrote_traceRec ..).cycle

@[simp] theorem cycle_setWindowOf (s : State) (x1 : Nat) (x2 : List Word) : (State.setWindowOf s x1 x2).cycle = s.cycle := by
  unfold State.setWindowOf
  repeat' first | rfl | (refine cycle_foldl (fun _ _ => ?_) _ _) | split | (simp; done) | dsimp only

@[simp] theorem cycle_countOf (s : State) (x1 : Option Nat) (x2 : Option Nat) (x3 : Nat) (x4 : Nat) : (State.countOf s x1 x2 x3 x4).cycle = s.cycle := by
  unfold State.countOf
  (repeat' split) <;> simp

@[simp] theorem cycle_squash (s : State) (x1 : Nat) (x2 : Nat) (x3 : Bool) (x4 : Bool) : (State.squash s x1 x2 x3 x4).cycle = s.cycle := by
  unfold State.squash
  dsimp only
  (repeat' split) <;> simp

@[simp] theorem cycle_withdraw (s : State) (x1 : Nat) : (State.withdraw s x1).cycle = s.cycle := by
  unfold State.withdraw
  (repeat' split) <;> simp

@[simp] theorem cycle_freeArea (s : State) (x1 : Nat) (x2 : Nat) : (State.freeArea s x1 x2).cycle = s.cycle := by
  unfold State.freeArea
  (repeat' split) <;> simp

@[simp] theorem cycle_breakResv (s : State) (x1 : Nat) : (State.breakResv s x1).cycle = s.cycle := by
  unfold State.breakResv
  (repeat' split) <;> simp

@[simp] theorem cycle_releaseSlot (s : State) (x1 : Nat) : (State.releaseSlot s x1).cycle = s.cycle := by
  unfold State.releaseSlot
  (repeat' split) <;> simp

@[simp] theorem cycle_endThread (s : State) (x1 : Nat) (x2 : Bool) : (State.endThread s x1 x2).cycle = s.cycle := by
  unfold State.endThread
  dsimp only
  (repeat' split) <;> simp

@[simp] theorem cycle_settleStops (s : State)  : (State.settleStops s).cycle = s.cycle := by
  unfold State.settleStops
  repeat' first | rfl | (refine cycle_foldl (fun _ _ => ?_) _ _) | split | (simp; done) | dsimp only

@[simp] theorem cycle_expire (s : State) (x1 : Nat) : (State.expire s x1).cycle = s.cycle := by
  unfold State.expire
  (repeat' split) <;> simp

theorem cycle_arrive {s t : State} {gs port : Nat} {v : Word} (h : s.arrive gs port v = some t) : t.cycle = s.cycle := by
  unfold State.arrive at h
  dsimp only at h
  repeat' split at h
  all_goals first | cases h | skip
  · rfl
  · simp

@[simp] theorem cycle_modMig (s : State) (x1 : Nat) (x2 : Mig → Mig) : (State.modMig s x1 x2).cycle = s.cycle := by
  unfold State.modMig
  (repeat' split) <;> simp

@[simp] theorem cycle_holdPeer (s : State) (x1 : PeerAccess) : (State.holdPeer s x1).cycle = s.cycle := by
  unfold State.holdPeer
  (repeat' split) <;> simp

@[simp] theorem cycle_showMig (s : State) (x1 : Nat) : (State.showMig s x1).cycle = s.cycle := by
  unfold State.showMig
  (repeat' split) <;> simp

@[simp] theorem cycle_servePeer (s : State) (x1 : PeerAccess) (x2 : VFunc) : (State.servePeer s x1 x2).cycle = s.cycle := by
  unfold State.servePeer
  (repeat' split) <;> simp

@[simp] theorem cycle_peerArrival (s : State) (x1 : PeerAccess) : (State.peerArrival s x1).cycle = s.cycle := by
  unfold State.peerArrival
  dsimp only
  (repeat' split) <;> simp

@[simp] theorem cycle_settleResets (s : State)  : (State.settleResets s).cycle = s.cycle := by
  unfold State.settleResets
  (repeat' split) <;> simp

theorem cycle_atPoint {s t : State} {gs : Nat} (h : s.atPoint gs = some t) : t.cycle = s.cycle := by
  unfold State.atPoint at h
  extract_lets x s1 t1 keep at h
  have h1 : s1.cycle = s.cycle := by
    exact cycle_ite (cycle_squash ..) rfl
  rcases ite_eq_iff.mp h with ⟨-, h⟩ | ⟨-, h⟩
  · injection h with h
    rw [← h]
    simp [h1]
  · cases h

@[simp] theorem cycle_settleHalt (s : State) (gs : Nat) : (s.settleHalt gs).cycle = s.cycle := by
  unfold State.settleHalt
  split
  · split
    · exact (State.setThread_cycle ..).trans (cycle_atPoint (by assumption))
    · rfl
  · rfl

@[simp] theorem cycle_pulse (s : State) : s.pulse.cycle = s.cycle := by
  have hn (x y : State) (h : Host.Outcome.next x = (.next y : Outcome)) : x = y := by cases h; rfl
  unfold State.pulse
  split
  · next t h =>
    unfold execSamplingPulse at h
    dsimp only at h
    repeat' split at h
    all_goals rw [← hn _ _ h]
    · simp
    · rw [cycle_performAll, cycle_performAll]
  · rfl

@[simp] theorem cycle_retryHeld (s : State) (x1 : Nat) : (State.retryHeld s x1).cycle = s.cycle := by
  unfold State.retryHeld
  repeat' first | rfl | (refine cycle_foldl (fun _ _ => ?_) _ _) | split | (simp; done) | dsimp only

@[simp] theorem cycle_sendNotice (s : State) (n : Nat × Word) : (s.sendNotice n).cycle = s.cycle := by
  unfold State.sendNotice
  dsimp only
  split
  · split
    · rfl
    · cases h : s.arrive _ 15 n.2 with
      | none => rfl
      | some t => exact cycle_arrive h
  · split <;> rfl

@[simp] theorem cycle_sendNotices (s : State)  : (State.sendNotices s).cycle = s.cycle := by
  unfold State.sendNotices
  repeat' first | rfl | (refine cycle_foldl (fun _ _ => ?_) _ _) | split | (simp; done) | dsimp only

@[simp] theorem cycle_settleRemaps (s : State)  : (State.settleRemaps s).cycle = s.cycle := by
  unfold State.settleRemaps
  dsimp only
  (repeat' split) <;> simp

@[simp] theorem cycle_settleFreeze (s : State) (gs : Nat) : (s.settleFreeze gs).cycle = s.cycle := by
  unfold State.settleFreeze
  split
  · split
    · dsimp only
      split
      · exact (State.setThread_cycle ..).trans (cycle_atPoint (by assumption))
      · rfl
    · rfl
  · rfl

@[simp] theorem cycle_settleFreezes (s : State)  : (State.settleFreezes s).cycle = s.cycle := by
  unfold State.settleFreezes
  repeat' first | rfl | (refine cycle_foldl (fun _ _ => ?_) _ _) | split | (simp; done) | dsimp only

@[simp] theorem cycle_settleHalts (s : State)  : (State.settleHalts s).cycle = s.cycle := by
  unfold State.settleHalts
  repeat' first | rfl | (refine cycle_foldl (fun _ _ => ?_) _ _) | split | (simp; done) | dsimp only

@[simp] theorem cycle_flushMerged (s : State)  : (State.flushMerged s).cycle = s.cycle := by
  unfold State.flushMerged
  repeat' first | rfl | (refine cycle_foldl (fun _ _ => ?_) _ _) | split | (simp; done) | dsimp only

@[simp] theorem cycle_countTimers (s : State)  : (State.countTimers s).cycle = s.cycle := by
  unfold State.countTimers
  repeat' first | rfl | (refine cycle_foldl (fun _ _ => ?_) _ _) | split | (simp; done) | dsimp only

@[simp] theorem cycle_writeTrace (s : State) (x1 : Traced) : (State.writeTrace s x1).cycle = s.cycle := (State.wrote_writeTrace ..).cycle

@[simp] theorem cycle_writeTraces (s : State)  : (State.writeTraces s).cycle = s.cycle := by
  unfold State.writeTraces
  repeat' first | rfl | (refine cycle_foldl (fun _ _ => ?_) _ _) | split | (simp; done) | dsimp only

@[simp] theorem cycle_countFree (s : State) (x1 : Nat) : (State.countFree s x1).cycle = s.cycle := by
  unfold State.countFree
  (repeat' split) <;> simp

@[simp] theorem cycle_countFrees (s : State)  : (State.countFrees s).cycle = s.cycle := by
  unfold State.countFrees
  repeat' first | rfl | (refine cycle_foldl (fun _ _ => ?_) _ _) | split | (simp; done) | dsimp only

@[simp] theorem cycle_drawIdle (s : State) : s.drawIdle.cycle = s.cycle := by
  unfold State.drawIdle
  split <;> rfl

theorem cycle_tick (s : State) : s.tick.cycle = s.cycle + 1 := by
  unfold State.tick
  show (State.settleStops _).cycle = _
  rw [cycle_settleStops, cycle_countTimers]

theorem cycle_passCycle (s : State) : s.passCycle.cycle = s.cycle + 1 := by
  unfold State.passCycle
  extract_lets s1 s2 s3
  have h1 : s1.cycle = s.cycle + 1 := by
    show (State.sendNotices _).cycle = _
    simp [cycle_tick]
  have h2 : s2.cycle = s1.cycle := cycle_foldl (fun t vf => cycle_retryHeld t vf) _ _
  have h3 : s3.cycle = s2.cycle :=
    (cycle_drawIdle _).trans ((cycle_countFrees _).trans (cycle_foldl (fun t gs => State.count_cycle t gs 0x01 1) _ s2))
  clear_value s1 s2 s3
  show s3.cycle = _
  rw [h3, h2, h1]

/-! The wheel's order (R293). -/

/-- The slot that a core's wheel asks as its `i`-th in this cycle. -/
def wheelSlot (s : State) (gc i : Nat) : Nat := 64 * gc + (s.cycle + i) % 64

theorem wheelOrder_eq (s : State) (gc : Nat) : s.wheelOrder gc = ((List.range 64).map (wheelSlot s gc)).filter
    (fun gs => (s.thread gs).live && s.partOf gs == s.partOf (64 * gc + s.cycle % 64)) := by
  unfold State.wheelOrder
  have h : (fun i => 64 * gc + (s.cycle % 64 + i) % 64) = wheelSlot s gc := by
    funext i
    rw [Nat.mod_add_mod]
    rfl
  dsimp only
  rw [h]

theorem mem_wheelOrder (s : State) (gc x : Nat) : x ∈ s.wheelOrder gc ↔ ∃ i, i < 64 ∧ x = wheelSlot s gc i ∧ (s.thread x).live = true ∧
    s.partOf x = s.partOf (64 * gc + s.cycle % 64) := by
  rw [wheelOrder_eq]
  simp only [List.mem_filter, List.mem_map, List.mem_range, Bool.and_eq_true, beq_iff_eq]
  constructor
  · rintro ⟨⟨i, hi, rfl⟩, hl, hp⟩
    exact ⟨i, hi, rfl, hl, hp⟩
  · rintro ⟨i, hi, rfl, hl, hp⟩
    exact ⟨⟨i, hi, rfl⟩, hl, hp⟩

theorem wheelSlot_injective {s : State} {gc i j : Nat} (hi : i < 64) (hj : j < 64) (h : wheelSlot s gc i = wheelSlot s gc j) : i = j := by
  unfold wheelSlot at h
  omega

/-- In a list in which an asymmetric relation holds between earlier and later, the lesser of two members stands first. -/
theorem idxOf_lt_of_pairwise {l : List Nat} {r : Nat → Nat → Prop} (hl : l.Pairwise r) (hr : ∀ a b, r a b → ¬r b a) {a b : Nat}
    (ha : a ∈ l) (hb : b ∈ l) (h : r a b) : l.idxOf a < l.idxOf b := by
  have hia := List.idxOf_lt_length_of_mem ha
  have hib := List.idxOf_lt_length_of_mem hb
  rcases Nat.lt_trichotomy (l.idxOf a) (l.idxOf b) with hlt | heq | hgt
  · exact hlt
  · rw [List.idxOf_inj ha |>.mp heq] at h
    exact absurd h (hr _ _ h)
  · have := List.pairwise_iff_getElem.mp hl _ _ hib hia hgt
    rw [List.getElem_idxOf, List.getElem_idxOf] at this
    exact absurd this (hr _ _ h)

theorem wheelOrder_idxOf_lt {s : State} {gc i j : Nat} (hij : i < j) (hj : j < 64) (hi : wheelSlot s gc i ∈ s.wheelOrder gc)
    (hk : wheelSlot s gc j ∈ s.wheelOrder gc) : (s.wheelOrder gc).idxOf (wheelSlot s gc i) < (s.wheelOrder gc).idxOf (wheelSlot s gc j) := by
  refine idxOf_lt_of_pairwise (r := fun x y => ∃ i j, i < j ∧ j < 64 ∧ x = wheelSlot s gc i ∧ y = wheelSlot s gc j) ?_ ?_ hi hk
    ⟨i, j, hij, hj, rfl, rfl⟩
  · rw [wheelOrder_eq]
    refine List.Pairwise.filter _ (List.pairwise_map.mpr ?_)
    refine List.Pairwise.imp_of_mem ?_ List.pairwise_lt_range
    intro a b _ hb hab
    exact ⟨a, b, hab, List.mem_range.mp hb, rfl, rfl⟩
  · rintro x y ⟨a, b, hab, hb, rfl, rfl⟩ ⟨c, d, hcd, hd, h1, h2⟩
    have e1 := wheelSlot_injective hb (by omega) h1
    have e2 := wheelSlot_injective (by omega) hd h2
    omega

/-- What stands before the first place of `a` in a list. -/
theorem mem_takeWhile_ne {l : List Nat} {a x : Nat} : x ∈ l.takeWhile (fun y => y != a) ↔ x ∈ l ∧ l.idxOf x < l.idxOf a := by
  induction l with
  | nil => simp
  | cons b l ih =>
    rw [List.takeWhile_cons]
    by_cases hba : b = a
    · subst hba
      simp
    · rw [if_pos (by simpa using hba), List.mem_cons, ih, List.mem_cons, List.idxOf_cons_ne _ hba]
      by_cases hxb : b = x
      · subst hxb
        simp
      · rw [List.idxOf_cons_ne _ hxb]
        simp [Ne.symm hxb]

theorem wheelGives_iff (s : State) (gs : Nat) : s.wheelGives gs = true ↔ coreOf gs ∈ s.turn ∧ gs ∈ s.wheelOrder (coreOf gs) ∧
    ∀ x ∈ s.wheelOrder (coreOf gs), (s.wheelOrder (coreOf gs)).idxOf x < (s.wheelOrder (coreOf gs)).idxOf gs →
      (s.spendTurn (coreOf gs)).tryIssue x = none := by
  unfold State.wheelGives
  simp only [Bool.and_eq_true, List.contains_iff_mem, List.all_eq_true, mem_takeWhile_ne, Option.isNone_iff_eq_none, and_imp, and_assoc]

theorem findSome?_first {α : Type} {f : Nat → Option α} {l : List Nat} {x : Nat} {t : α} (hx : x ∈ l) (ht : f x = some t)
    (h : ∀ y ∈ l, l.idxOf y < l.idxOf x → f y = none) : l.findSome? f = some t := by
  induction l with
  | nil => cases hx
  | cons b l ih =>
    rw [List.findSome?_cons]
    by_cases hb : b = x
    · rw [hb, ht]
    · have hbn : f b = none := h b List.mem_cons_self (by simp [List.idxOf_cons_ne _ hb])
      rw [hbn]
      refine ih (List.mem_of_ne_of_mem (Ne.symm hb) hx) fun y hy hlt => ?_
      by_cases hby : b = y
      · rw [← hby, hbn]
      · exact h y (List.mem_cons_of_mem _ hy) (by rw [List.idxOf_cons_ne _ hb, List.idxOf_cons_ne _ hby]; omega)

/-- A slot that may not issue is not ready. -/
theorem tryIssue_of_not_mayIssue {s : State} {gs : Nat} (h : ({ s with fs := gs, unit := UnitCtx.idle } : State).mayIssue gs = false) :
    s.tryIssue gs = none := by
  have hn : issueSlot s gs = .next s := by
    unfold issueSlot
    dsimp only
    rw [h]
    rfl
  rw [State.tryIssue_of_next hn, if_pos ⟨rfl, rfl⟩]

/-- A step of the agenda that names a slot. -/
theorem step_issue {s : State} {gs : Nat} {rest : List Act} (h : s.agenda = .issue gs :: rest) :
    step s = ({ s with agenda := rest } : State).issueTurn gs := step_of_act h (by simp)

theorem issueTurn_not_given {s : State} {gs : Nat} (h : ¬s.wheelGives gs = true) : s.issueTurn gs = .next s := if_neg h

theorem issueTurn_given {s : State} {gs : Nat} (h : s.wheelGives gs = true) :
    s.issueTurn gs = .next (((s.spendTurn (coreOf gs)).tryIssue gs).getD s) := if_pos h

theorem step_tick {s : State} {rest : List Act} (h : s.agenda = .tick :: rest) :
    step s = match s.turn with
      | gc :: _ => .next (s.wheelTurn gc)
      | [] => .next ({ s with agenda := rest } : State).passCycle := by
  unfold step
  rw [h] <;> rfl

/-- The wheel of the core whose turn is next. -/
theorem wheelTurn_of_turn {s : State} {gc : Nat} {more : List Nat} (h : s.turn = gc :: more) :
    s.wheelTurn gc = ((s.wheelOrder gc).findSome? ({ s with turn := more } : State).tryIssue).getD { s with turn := more } := by
  have hs : s.spendTurn gc = { s with turn := more } := by
    unfold State.spendTurn
    rw [h, List.erase_cons_head]
  unfold State.wheelTurn
  rw [hs]

end Sys2Proof.Machine

namespace Sys2Proof
open Machine

/-- Settles O53: the slot's step is the issue of what its unit's shape makes of the two words that memory holds. -/
theorem stepRunsTheDecodedInstruction : Obligations.StepRunsTheDecodedInstruction :=
  ⟨stepOfADecodedUnit, fetchReadsTheUnit⟩

/-- Settles O54, from the wheel's order, the condition under which it gives a slot its turn, and what a cycle's passing leaves. -/
theorem wheelGivesEachCoreOneTurn : Obligations.WheelGivesEachCoreOneTurn := by
  unfold Obligations.WheelGivesEachCoreOneTurn
  refine ⟨fun gc s x => mem_wheelOrder s gc x, fun gc i j s hij hj hi hk => wheelOrder_idxOf_lt hij hj hi hk, ?_,
    fun gs s t h => State.tryIssue_of_next h, fun gs s h => tryIssue_of_not_mayIssue h, ?_, ?_⟩
  · intro gs rest s h s0 gc s1
    refine ⟨fun hno => ?_, fun x hx hlt hr => ?_, fun hc hg hall => ?_⟩
    · refine (step_issue h).trans (issueTurn_not_given fun hw => ?_)
      obtain ⟨h1, h2, _⟩ := (wheelGives_iff _ _).mp hw
      exact hno.elim (fun g => g h1) (fun g => g h2)
    · refine (step_issue h).trans (issueTurn_not_given fun hw => ?_)
      obtain ⟨_, _, h3⟩ := (wheelGives_iff _ _).mp hw
      have hn : s1.tryIssue x = none := h3 x hx hlt
      rw [hn] at hr
      cases hr
    · have hs := (step_issue h).trans (issueTurn_given ((wheelGives_iff _ _).mpr ⟨hc, hg, hall⟩))
      refine ⟨fun t ht => ?_, fun hn => ?_⟩
      · exact hs.trans (congrArg (fun o : Option State => (.next (o.getD s0) : Outcome)) ht)
      · exact hs.trans (congrArg (fun o : Option State => (.next (o.getD s0) : Outcome)) hn)
  · intro i rest s h
    have hs := step_of_act h (by simp)
    exact ⟨fun hi => hs.trans (if_pos hi), fun hi => hs.trans (if_neg (by simp [hi]))⟩
  · intro rest s h
    refine ⟨fun gc more ht => ?_, fun ht => ?_⟩
    · have hs : step s = .next (((s.wheelOrder gc).findSome? ({ s with turn := more } : State).tryIssue).getD { s with turn := more }) := by
        rw [step_tick h, ht, ← wheelTurn_of_turn ht]
      refine ⟨fun hn => ?_, fun x t hx hall hxt => ?_⟩
      · rw [hs, List.findSome?_eq_none_iff.mpr hn]
        rfl
      · rw [hs, findSome?_first hx hxt hall]
        rfl
    · refine ⟨({ s with agenda := rest } : State).passCycle, ?_, rfl, cycle_passCycle _⟩
      rw [step_tick h, ht]

end Sys2Proof
end

section
/-!
PROOFS. Scalar floating point: results, flags and the ARITH trap (R68, R69, R174 to R178).
-/

namespace Sys2Proof.Machine

theorem bits_zero (w : Word) (hi : Nat) : bits w hi 0 = w.toNat % 2 ^ (hi + 1) := by simp [bits]

theorem fBits_eq_low (f : Spec.Fp4) (x : Word) : fBits f.fmt x.toNat = Spec.low f x := rfl

theorem Arch.rm_eq (s : State) : s.arch.rm = Spec.rm s := by
  unfold Arch.rm Spec.rm
  rw [bits_zero]
  rfl

/-- No raised flag is enabled: the flags become sticky. -/
theorem raiseFlags_run {s : State} {fl : FFlags} (h : Spec.trapping s fl = 0) : raiseFlags fl s = .ok ((), Spec.withFlags s fl) :=
  (M.bind_ok (s := s) (show (get : M State) s = .ok (s, s) from rfl)).trans (by
    rw [if_neg (show ¬ s.arch.enabled fl ≠ 0 from not_not.mpr h)]
    rfl)

/-- A raised flag is enabled: the unit traps with every flag it raised (R69). -/
theorem raiseFlags_trap {s : State} {fl : FFlags} (h : Spec.trapping s fl ≠ 0) :
    raiseFlags fl s = .error (.trap { cause := .arith, afl := fl }) :=
  (M.bind_ok (s := s) (show (get : M State) s = .ok (s, s) from rfl)).trans (by
    rw [if_pos (show s.arch.enabled fl ≠ 0 from h)]
    rfl)

theorem M.get_bind {β : Type} (f : State → M β) (s : State) : (get >>= f) s = f s s := rfl

theorem exec_fpWord (o : FpOp) (f : Spec.Fp4) (b a d : BitVec 7) (s : State) :
    exec (Spec.fpWord o f b a d) s = issue (Spec.fpWord o f b a d) (fpOp o f.fmt b a d) s := by cases o <;> cases f <;> rfl

theorem exec_fmaWord (f : Spec.Fp4) (b a d : BitVec 7) (s : State) :
    exec (Spec.fmaWord f b a d) s = issue (Spec.fmaWord f b a d) (fmaOp f.fmt b a d) s := by cases f <;> rfl

theorem exec_sqrtWord (f : Spec.Fp4) (a d : BitVec 7) (s : State) :
    exec (Spec.sqrtWord f a d) s = issue (Spec.sqrtWord f a d) (sqrtOp f.fmt a d) s := by cases f <;> rfl

theorem exec_classWord (f : Spec.Fp4) (a d : BitVec 7) (s : State) :
    exec (Spec.classWord f a d) s = issue (Spec.classWord f a d) (classOp f.fmt a d) s := by cases f <;> rfl

theorem exec_fcmpWord (f : Spec.Fp4) (b a : BitVec 7) (c : BitVec 4) (k : BitVec 3) (s : State) :
    exec (Spec.fcmpWord f b a c k) s = issue (Spec.fcmpWord f b a c k) (fcmpOp f.fmt b a c k) s := by cases f <;> rfl

/-! Each word reads its sources, raises its flags and writes its result. -/

section
variable {f : Spec.Fp4} {a b d : BitVec 7} {s1 s2 s3 s4 : State} {x y z : Word}

theorem fpOp_run {o : FpOp} (ha : srcA a s1 = .ok (x, s2)) (hb : srcA b s2 = .ok (y, s3)) :
    fpOp o f.fmt b a d s1 =
      (raiseFlags (o.eval f.fmt (Spec.rm s3) (Spec.low f x) (Spec.low f y)).2 >>= fun _ =>
        dstA d (BitVec.ofNat 64 (o.eval f.fmt (Spec.rm s3) (Spec.low f x) (Spec.low f y)).1)) s3 := by
  rw [fpOp, M.bind_ok ha, M.bind_ok hb, M.get_bind, Arch.rm_eq]
  rfl

theorem fmaOp_run (ha : srcA a s1 = .ok (x, s2)) (hb : srcA b s2 = .ok (y, s3)) (hd : srcA d s3 = .ok (z, s4)) :
    fmaOp f.fmt b a d s1 =
      (raiseFlags (fFma f.fmt (Spec.rm s4) (Spec.low f x) (Spec.low f y) (Spec.low f z)).2 >>= fun _ =>
        dstA d (BitVec.ofNat 64 (fFma f.fmt (Spec.rm s4) (Spec.low f x) (Spec.low f y) (Spec.low f z)).1)) s4 := by
  rw [fmaOp, M.bind_ok ha, M.bind_ok hb, M.bind_ok hd, M.get_bind, Arch.rm_eq]
  rfl

theorem sqrtOp_run (ha : srcA a s1 = .ok (x, s2)) :
    sqrtOp f.fmt a d s1 =
      (raiseFlags (fSqrt f.fmt (Spec.rm s2) (Spec.low f x)).2 >>= fun _ =>
        dstA d (BitVec.ofNat 64 (fSqrt f.fmt (Spec.rm s2) (Spec.low f x)).1)) s2 := by
  rw [sqrtOp, M.bind_ok ha, M.get_bind, Arch.rm_eq]
  rfl

theorem fcmpOp_run {c : BitVec 4} {k : BitVec 3} (ha : srcA a s1 = .ok (x, s2)) (hb : srcA b s2 = .ok (y, s3)) :
    fcmpOp f.fmt b a c k s1 =
      (raiseFlags (fCond f.fmt c.toNat (Spec.low f x) (Spec.low f y)).2 >>= fun _ =>
        writeKBit k.toNat (fCond f.fmt c.toNat (Spec.low f x) (Spec.low f y)).1) s3 := by
  rw [fcmpOp, M.bind_ok ha, M.bind_ok hb]
  rfl

end

/-- The body of `fcvt` (R178). -/
def cvtBody (r t sc : BitVec 3) (a d : BitVec 7) : M Unit := do
  let x ← srcA a
  let u ← if r.toNat = 5 then srcA d else pure 0
  let s ← get
  let src := CFmt.ofScalar sc.toNat
  let dst := CFmt.ofScalar t.toNat
  let o := convert dst src (RMode.ofCode r.toNat (bits s.arch.fctl 2 0) (bits u 15 0)) s.arch.satf (x.toNat % 2 ^ src.width)
  raiseFlags o.2
  dstA d (cvtResult dst o.1)

theorem exec_cvtBody (r t sc : BitVec 3) (a d : BitVec 7) (s : State) :
    exec (.fcvt r t sc a d) s = issue (.fcvt r t sc a d) (cvtBody r t sc a d) s := rfl

/-- The conversion that a word names, with the rounding it names (R178). -/
def cvtOf (r t sc : BitVec 3) (s : State) (x u : Word) : Nat × FFlags :=
  convert (CFmt.ofScalar t.toNat) (CFmt.ofScalar sc.toNat) (RMode.ofCode r.toNat (s.arch.fctl.toNat % 8) (u.toNat % 65536))
    (s.arch.fctl.getLsbD 5) (x.toNat % 2 ^ (CFmt.ofScalar sc.toNat).width)

theorem cvtBody_run {r t sc : BitVec 3} {a d : BitVec 7} {s1 s2 s3 : State} {x u : Word} (ha : srcA a s1 = .ok (x, s2))
    (hu : if r.toNat = 5 then srcA d s2 = .ok (u, s3) else s3 = s2 ∧ u = 0) :
    cvtBody r t sc a d s1 = (raiseFlags (cvtOf r t sc s3 x u).2 >>= fun _ =>
      dstA d (cvtResult (CFmt.ofScalar t.toNat) (cvtOf r t sc s3 x u).1)) s3 := by
  rw [cvtBody, M.bind_ok ha]
  by_cases hr : r.toNat = 5
  · rw [if_pos hr] at hu ⊢
    rw [M.bind_ok hu]
    beta_reduce
    rw [M.get_bind]
    simp only [bits_zero, Arch.satf, bit_eq_getLsbD]
    rfl
  · rw [if_neg hr] at hu ⊢
    obtain ⟨rfl, rfl⟩ := hu
    rw [pure_bind]
    beta_reduce
    rw [M.get_bind]
    simp only [bits_zero, Arch.satf, bit_eq_getLsbD]
    rfl

/-- A word whose flags are not enabled writes its result. -/
theorem State.Opens.writesFlagged {s s1 u : State} {i : Instr} {d : BitVec 7} {v : Word} {fl : FFlags} {body : M Unit}
    (h : s.Opens i s1) (he : exec i s = issue i body s) (hb : body s1 = (raiseFlags fl >>= fun _ => dstA d v) u)
    (ht : Spec.trapping u fl = 0) : Spec.Writes i s (Spec.withFlags u fl) d v :=
  h.writes he (by rw [hb, M.bind_ok (raiseFlags_run ht)])

/-- A word that raises an enabled flag traps in the state it began in. -/
theorem State.Opens.trapsFlagged {s s1 u : State} {i : Instr} {fl : FFlags} {body : M Unit} {rest : Unit → M Unit}
    (h : s.Opens i s1) (he : exec i s = issue i body s) (hb : body s1 = (raiseFlags fl >>= rest) u)
    (ht : Spec.trapping u fl ≠ 0) : exec i s = .next (s1.raiseUnit { cause := .arith, afl := fl }) :=
  he.trans (h.traps (by rw [hb, M.bind_error (raiseFlags_trap ht)]))

theorem scalarFloatArithmetic : Spec.ScalarFloatArithmetic := by
  refine ⟨?two, ?fma, ?sqrt⟩
  case two =>
    intro o f b a d s s1 s2 s3 x y ho ha hb r ht
    exact ho.writesFlagged (exec_fpWord ..) (fpOp_run ha hb) ht
  case fma =>
    intro f b a d s s1 s2 s3 s4 x y z ho ha hb hd r ht
    exact ho.writesFlagged (exec_fmaWord ..) (fmaOp_run ha hb hd) ht
  case sqrt =>
    intro f a d s s1 s2 x ho ha r ht
    exact ho.writesFlagged (exec_sqrtWord ..) (sqrtOp_run ha) ht

theorem enabledFlagTrapsArith : Spec.EnabledFlagTrapsArith := by
  refine ⟨?two, ?sqrt, ?cmp, ?fma, ?cvt⟩
  case two =>
    intro o f b a d s s1 s2 s3 x y ho ha hb r ht
    exact ho.trapsFlagged (exec_fpWord ..) (fpOp_run ha hb) ht
  case sqrt =>
    intro f a d s s1 s2 x ho ha r ht
    exact ho.trapsFlagged (exec_sqrtWord ..) (sqrtOp_run ha) ht
  case cmp =>
    intro f b a c k s s1 s2 s3 x y ho ha hb r ht
    exact ho.trapsFlagged (exec_fcmpWord ..) (fcmpOp_run ha hb) ht
  case fma =>
    intro f b a d s s1 s2 s3 s4 x y z ho ha hb hd r ht
    exact ho.trapsFlagged (exec_fmaWord ..) (fmaOp_run ha hb hd) ht
  case cvt =>
    intro r t sc a d s s1 s2 s3 x u ho ha hu src o ht
    exact ho.trapsFlagged (exec_cvtBody ..) (cvtBody_run ha hu) ht

end Sys2Proof.Machine

namespace Sys2Proof
open Machine

/-- Settles O4, word by word: `fcmp`, `fclass`, `fcvt`. -/
theorem scalarFloatCompareClassConvert : Obligations.ScalarFloatCompareClassConvert := by
  refine ⟨?cmp, ?cls, ?cvt⟩
  case cmp =>
    intro f b a c k s s1 s2 s3 x y ho ha hb r t ht
    exact (exec_fcmpWord ..).trans (ho.runs ((fcmpOp_run ha hb).trans (by rw [M.bind_ok (raiseFlags_run ht)]; rfl)))
  case cls =>
    intro f a d s s1 s2 x ho ha
    exact ho.writes (exec_classWord ..) (by rw [classOp, M.bind_ok ha, fBits_eq_low])
  case cvt =>
    intro r t sc a d s s1 s2 s3 x u ho ha hu src dst o ht
    exact ho.writesFlagged (exec_cvtBody ..) (cvtBody_run ha hu) ht

/-- Settles O5, from the results of the arithmetic words and from the trap of an enabled flag. -/
theorem scalarFloatArithmeticAndTraps : Obligations.ScalarFloatArithmeticAndTraps :=
  ⟨scalarFloatArithmetic, enabledFlagTrapsArith⟩

end Sys2Proof
end

section
/-!
PROOFS. The issue of a unit: what a completed unit moves and leaves, when a word opens, which check answers first
(R35, R92, R106, R119, R120, R238 to R243).
-/

namespace Sys2Proof.Machine

/-! What a completed unit leaves of its thread. -/

/-- The thread of a completed unit before its chunk or its fallback counts it. -/
def State.moved (s : State) (n : Nat) : Thread :=
  { s.th with
    a :=
      if s.unit.entered then { s.th.a with icount := s.th.a.icount + BitVec.ofNat 64 n }
      else { s.th.a with pc := s.unit.target.getD s.unit.next, icount := s.th.a.icount + BitVec.ofNat 64 n }
    entry := s.unit.entered, hold := none, evald := none, stepping := false
    dbgCause := if s.th.stepping || s.th.dbgCause.isSome then none else s.th.dbgCause }

theorem State.moved_a {s : State} (he : s.unit.entered = false) (n : Nat) :
    (s.moved n).a = { s.th.a with pc := s.unit.target.getD s.unit.next, icount := s.th.a.icount + BitVec.ofNat 64 n } :=
  if_neg (by simp [he])

/-- The executing chunk counts a unit of n instructions (R238). -/
def Thread.counted (t : Thread) (n : Nat) (after : Bool) : Thread :=
  let t3 := t.modLast (fun c => { c with len := c.len + n })
  match t3.cur with
  | some c => if after || decide (c.max ≤ c.len) then t3.endChunk else t3
  | none => t3

/-- What a thread keeps when the end of a fallback, the count of a chunk and the entry of a launch move on. -/
def Thread.sameProgress (t u : Thread) : Prop := u.a.pc = t.a.pc ∧ u.a.icount = t.a.icount ∧ u.hold = t.hold

theorem Thread.sameProgress_endFallback (t : Thread) : t.sameProgress t.endFallback := by
  unfold Thread.endFallback Thread.taskDirect
  split <;> exact ⟨rfl, rfl, rfl⟩

theorem Thread.counted_shape (t : Thread) (n : Nat) (after : Bool) : ∃ cs, t.counted n after = { t with chunks := cs } := by
  obtain ⟨cs, h⟩ := t.modLast_shape (fun c => { c with len := c.len + n })
  unfold Thread.counted
  simp only [h]
  split
  · split
    · obtain ⟨ds, h'⟩ := Thread.endChunk_shape { t with chunks := cs }
      exact ⟨ds, h'⟩
    · exact ⟨cs, rfl⟩
  · exact ⟨cs, rfl⟩

theorem Thread.sameProgress_counted (t : Thread) (n : Nat) (after : Bool) : t.sameProgress (t.counted n after) := by
  obtain ⟨cs, h⟩ := t.counted_shape n after
  rw [h]
  exact ⟨rfl, rfl, rfl⟩

/-- The thread that a completed unit leaves. -/
def State.finished (s : State) (n : Nat) (after : Bool) : Thread :=
  if s.unit.outside then (if (s.moved n).det then { s.moved n with ent := (s.moved n).ent + 1 } else s.moved n)
  else
    match (s.moved n).fallback with
    | some f =>
      if after || decide (f.max ≤ f.len + n) then (s.moved n).endFallback
      else { s.moved n with fallback := some { f with len := f.len + n } }
    | none => (s.moved n).counted n after

theorem State.finishUnit_eq (s : State) (n : Nat) (after : Bool) :
    s.finishUnit n after =
      if !s.th.live then s
      else match s.unit.park with
        | some h => s.setTh { s.th with hold := some h }
        | none => s.setTh (s.finished n after) := rfl

theorem State.th_finishUnit {s : State} (hl : s.th.live = true) (hp : s.unit.park = none) (n : Nat) (after : Bool) :
    (s.finishUnit n after).th = s.finished n after := by
  rw [State.finishUnit_eq, if_neg (by simp [hl]), hp, State.th_setTh]

theorem State.sameProgress_finished (s : State) (n : Nat) (after : Bool) : (s.moved n).sameProgress (s.finished n after) := by
  unfold State.finished
  split
  · split <;> exact ⟨rfl, rfl, rfl⟩
  · split
    · split
      · exact Thread.sameProgress_endFallback _
      · exact ⟨rfl, rfl, rfl⟩
    · exact Thread.sameProgress_counted ..

theorem Thread.getLast_of_cur {t : Thread} {c : Chunk} (h : t.cur = some c) : t.chunks.getLast? = some c ∧ c.ended = false := by
  unfold Thread.cur at h
  split at h
  · split at h
    · exact absurd h (by simp)
    · obtain rfl := Option.some.inj h
      exact ⟨‹_›, by simp_all⟩
  · exact absurd h (by simp)

theorem Thread.modLast_of_last {t : Thread} {c : Chunk} (h : t.chunks.getLast? = some c) (f : Chunk → Chunk) :
    t.modLast f = { t with chunks := t.chunks.dropLast ++ [f c] } := by
  unfold Thread.modLast
  rw [h]

theorem Thread.cur_append {t : Thread} {cs : List Chunk} {c : Chunk} (hc : t.chunks = cs ++ [c]) (he : c.ended = false) :
    t.cur = some c := by
  unfold Thread.cur
  simp [hc, he]

/-- A chunk that holds an instruction stays, ended. -/
theorem Thread.endChunk_append {t : Thread} {cs : List Chunk} {c : Chunk} (hc : t.chunks = cs ++ [c]) (he : c.ended = false)
    (hl : c.len ≠ 0) : t.endChunk = { t with chunks := cs ++ [{ c with ended := true }] } := by
  unfold Thread.endChunk
  simp only [Thread.cur_append hc he, if_neg hl, Thread.modLast_of_last (show t.chunks.getLast? = some c by simp [hc])]
  simp [hc]

/-- The executing chunk counts the unit and ends at a word that ends it, or at its limit (R238). -/
theorem Thread.counted_of_cur {t : Thread} {c : Chunk} (h : t.cur = some c) (after : Bool) :
    (t.counted 1 after).chunks =
      t.chunks.dropLast ++ [{ c with len := c.len + 1, ended := after || decide (c.max ≤ c.len + 1) }] := by
  obtain ⟨hl, he⟩ := Thread.getLast_of_cur h
  unfold Thread.counted
  simp only [Thread.modLast_of_last hl]
  rw [Thread.cur_append (c := { c with len := c.len + 1 }) rfl he]
  by_cases hend : after || decide (c.max ≤ c.len + 1)
  · simp only [hend, if_true]
    rw [Thread.endChunk_append (c := { c with len := c.len + 1 }) rfl he (Nat.succ_ne_zero _)]
  · simp only [hend]
    simp [he]

theorem completedUnitAdvances : Spec.CompletedUnitAdvances := by
  intro s i hl he hp t
  have ht : t = s.finished 1 (endsAfter i) := State.th_finishUnit hl hp 1 _
  obtain ⟨hpc, hic, hhold⟩ := s.sameProgress_finished 1 (endsAfter i)
  refine ⟨by rw [ht, hpc, State.moved_a he], by rw [ht, hic, State.moved_a he]; rfl, by rw [ht, hhold]; rfl, fun h => State.done_th h i, ?_⟩
  intro c ho hf hc
  have hfin : s.finished 1 (endsAfter i) = (s.moved 1).counted 1 (endsAfter i) := by
    unfold State.finished
    rw [if_neg (by simp [ho]), show (s.moved 1).fallback = none from hf]
  refine ⟨{ c with len := c.len + 1, ended := endsAfter i || decide (c.max ≤ c.len + 1) }, ?_, rfl, rfl, rfl, by simp⟩
  rw [ht, hfin]
  exact Thread.counted_of_cur (t := s.moved 1) hc _

theorem completedUnitKeepsTheRest : Spec.CompletedUnitKeepsTheRest := by
  intro s i htgt
  refine ⟨State.done_shape htgt i, fun gs ne => State.done_thread_ne htgt i ne, fun hl he hp hf => ?_⟩
  obtain ⟨cs, ent, h⟩ := State.finishUnit_th hl he hp hf 1 (endsAfter i)
  refine ⟨cs, ent, ?_⟩
  rw [State.done_th htgt, h, htgt]
  rfl

/-! When a word opens. -/

/-- A register field of the window is admitted, needs no privilege, misuses no port and asks for no lanes. -/
theorem stepCheck_of_window {s : State} {i : Instr} (hk : kernelOnly i = false)
    (hop : ∀ o ∈ operandsOf i, ∃ f, (o = .as f ∨ o = .ad f ∨ o = .aa f ∨ o = .cs f ∨ o = .cd f) ∧ s.inWindow f) :
    s.unitChecks [i] = none := by
  have hall : ∀ o ∈ operandsOf i, o.privileged s.th.level = false ∧ o.inadmissible s = false ∧ o.portError s = none ∧
      o.needsClaim = false := by
    intro o ho
    obtain ⟨f, hf, hw, hx⟩ := hop o ho
    rcases hf with rfl | rfl | rfl | rfl | rfl <;>
      simp [Opd.privileged, Opd.inadmissible, Opd.portError, Opd.needsClaim, hw, hx]
  have hport : (operandsOf i).findSome? (fun o => o.portError s) = none :=
    List.findSome?_eq_none_iff.mpr fun o ho => (hall o ho).2.2.1
  have hpriv : (operandsOf i).any (fun o => o.privileged s.th.level) = false :=
    List.any_eq_false.mpr fun o ho => by simp [(hall o ho).1]
  have hadm : (operandsOf i).any (fun o => o.inadmissible s) = false :=
    List.any_eq_false.mpr fun o ho => by simp [(hall o ho).2.1]
  have hclaim : (operandsOf i).any Opd.needsClaim = false :=
    List.any_eq_false.mpr fun o ho => by simp [(hall o ho).2.2.2]
  apply State.unitChecks_lone
  · simp [stepCheck, hk, hpriv]
  · simp [stepCheck, hadm]
  · simp [stepCheck, hport]
  · simp [stepCheck, hclaim]

theorem isBoundary_of_window {s : State} {i : Instr} (hb : boundaryWord i = false)
    (hop : ∀ o ∈ operandsOf i, ∃ f, (o = .as f ∨ o = .ad f ∨ o = .aa f ∨ o = .cs f ∨ o = .cd f) ∧ s.inWindow f) :
    isBoundary i = false := by
  have hpush : pushesEngine i = false := List.any_eq_false.mpr fun o ho => by
    obtain ⟨f, hf, -, hx⟩ := hop o ho
    rcases hf with rfl | rfl | rfl | rfl | rfl <;> simp
    omega
  simp [isBoundary, hb, hpush]

theorem popsQueue_of_window {s : State} {i : Instr}
    (hop : ∀ o ∈ operandsOf i, ∃ f, (o = .as f ∨ o = .ad f ∨ o = .aa f ∨ o = .cs f ∨ o = .cd f) ∧ s.inWindow f) :
    s.popsQueue i = false :=
  List.any_eq_false.mpr fun o ho => by
    obtain ⟨f, hf, -, hx⟩ := hop o ho
    rcases hf with rfl | rfl | rfl | rfl | rfl <;> simp
    omega

theorem readySlotOpensPlainWords : Spec.ReadySlotOpensPlainWords := by
  intro s i hs hb hc hk hop
  exact hs.opens (by simp [State.standsOutside, isBoundary_of_window hb hop, popsQueue_of_window hop]) hc (stepCheck_of_window hk hop)

theorem emptySlotBeginsAChunk : Spec.EmptySlotBeginsAChunk := by
  intro s hlone hdir hstep hfb hord hcur hlen hloads hstores hpushes
  refine ⟨s.newChunk, ?_, rfl, rfl, rfl, rfl, rfl, rfl, rfl, rfl⟩
  have hends : s.endsBefore false false 1 = s := by simp [State.endsBefore, hdir, hfb, hcur]
  rw [hends]
  simp [State.beginUnit, Thread.directMode, Thread.quiet, Thread.drained, hdir, hfb, hstep, hcur, hlen, hloads, hstores, hpushes, hord]

theorem standsOutside_of_boundary {s : State} {i : Instr} (hb : isBoundary i = true) : s.standsOutside [i] = true := by
  simp [State.standsOutside, hb]

/-- A lone word that is due at no chunk's end and may not begin is held (R18, R120). -/
theorem exec_of_begin_hold {s : State} {i : Instr} {h : Hold} (hi : (encode i 1).isSome) (hr : s.unit.role = .lone)
    (hd : s.dueAtEnd (s.endsBefore (s.standsOutside [i]) (isCsrw i) 1) = false)
    (hb : (s.endsBefore (s.standsOutside [i]) (isCsrw i) 1).beginUnit (s.standsOutside [i]) = .error (.hold h)) :
    exec i s = .next ((s.endsBefore (s.standsOutside [i]) (isCsrw i) 1).holdUnit h) := by
  obtain ⟨body, he⟩ := exec_issues i hi
  rw [he]
  simp [issue, hr, State.runUnit, hd, hb, State.stopUnit]

/-- A lone word at whose chunk's end something is due does not issue (R241). -/
theorem exec_of_dueAtEnd {s : State} {i : Instr} (hi : (encode i 1).isSome) (hr : s.unit.role = .lone)
    (hd : s.dueAtEnd (s.endsBefore (s.standsOutside [i]) (isCsrw i) 1) = true) :
    exec i s = .next (s.endsBefore (s.standsOutside [i]) (isCsrw i) 1) := by
  obtain ⟨body, he⟩ := exec_issues i hi
  rw [he]
  simp [issue, hr, State.runUnit, hd]

theorem beginUnit_outside_hold {s : State} (h : s.th.chunks ≠ [] ∨ s.th.loads ≠ [] ∨ s.th.drained = false ∨ ¬s.InTurn) :
    s.beginUnit true = .error (.hold .boundary) := by
  unfold State.beginUnit
  simp only [if_true]
  by_cases hq : s.th.chunks.isEmpty && s.th.quiet
  · have hturn : ¬s.InTurn := by
      simp only [Bool.and_eq_true, List.isEmpty_iff, Thread.quiet] at hq
      obtain ⟨hc, hl, hd⟩ := hq
      simpa [hc, hl, hd] using h
    have hord : (s.th.det || s.th.ord) && !s.keyTurn s.fs := by
      unfold State.InTurn at hturn
      simpa using hturn
    rw [if_pos hq, if_pos hord]
  · rw [if_neg hq]

theorem boundaryWordWaitsForItsPlace : Spec.BoundaryWordWaitsForItsPlace := by
  refine ⟨fun s i hs hb hc => hs.opens (standsOutside_of_boundary hb) hc, fun s i hi hr hb => ?_⟩
  have ho : s.standsOutside [i] = true := standsOutside_of_boundary hb
  have hhold := @exec_of_begin_hold s i .boundary hi hr
  have hdue := exec_of_dueAtEnd hi hr
  rw [ho] at hhold hdue
  exact ⟨fun hd h => hhold hd (beginUnit_outside_hold h), hdue⟩

/-! The first failing check (Table 3.11). -/

/-- A lone word that has begun and fails a check raises it. -/
theorem exec_of_failing_check {s s1 : State} {i : Instr} {t : Trap} (hi : (encode i 1).isSome) (hr : s.unit.role = .lone)
    (hd : s.dueAtEnd (s.endsBefore (s.standsOutside [i]) (isCsrw i) 1) = false)
    (hb : (s.endsBefore (s.standsOutside [i]) (isCsrw i) 1).beginUnit (s.standsOutside [i]) = .ok s1)
    (hc : s1.unitChecks [i] = some t) : exec i s = .next (s1.raiseUnit t) := by
  obtain ⟨body, he⟩ := exec_issues i hi
  rw [he]
  simp [issue, hr, State.runUnit, hd, hb, hc]

theorem unitChecks_of_steps {s : State} {i : Instr} :
    s.unitChecks [i] = (stepCheck s i 3 <|> (stepCheck s i 4 <|> (stepCheck s i 5 <|> stepCheck s i 6))) := by
  simp only [State.unitChecks, List.findSome?]
  cases stepCheck s i 3 <;> cases stepCheck s i 4 <;> cases stepCheck s i 5 <;> cases stepCheck s i 6 <;> rfl

theorem stepCheck_privilege (s : State) (i : Instr) : stepCheck s i 3 =
    if (kernelOnly i = true ∧ s.th.level = 0) ∨ ∃ o ∈ operandsOf i, o.privileged s.th.level = true then some { cause := .privilege }
    else none := by
  simp [stepCheck]

theorem stepCheck_operand (s : State) (i : Instr) : stepCheck s i 4 =
    if ∃ o ∈ operandsOf i, o.inadmissible s = true then some { cause := .illegalOperand } else none := by
  simp [stepCheck]

theorem stepCheck_port (s : State) (i : Instr) : stepCheck s i 5 =
    ((operandsOf i).findSome? (fun o => o.portError s)).map (fun p => { cause := .port, portc := some p }) := rfl

theorem stepCheck_claim (s : State) (i : Instr) : stepCheck s i 6 =
    if s.arch.grant = 0 ∧ ∃ o ∈ operandsOf i, o.needsClaim = true then some { cause := .claim } else none := by
  simp [stepCheck]

end Sys2Proof.Machine

namespace Sys2Proof
open Machine

/-- Settles O6, from the thread that a completed unit leaves. -/
theorem completedUnitMovesOn : Obligations.CompletedUnitMovesOn := ⟨completedUnitAdvances, completedUnitKeepsTheRest⟩

/-- Settles O7: plain words, the first word of a chunk, words outside every chunk. -/
theorem whenAWordOpens : Obligations.WhenAWordOpens :=
  ⟨readySlotOpensPlainWords, emptySlotBeginsAChunk, boundaryWordWaitsForItsPlace⟩

/-- Settles O8: the four steps of Table 3.11 in their order. -/
theorem firstFailingCheckRaisesItsCause : Obligations.FirstFailingCheckRaisesItsCause := by
  intro s s1 i hr hd hb hi privilege operand claim
  refine ⟨fun h => ?_, fun h3 h => ?_, fun h3 h4 p h => ?_, fun h3 h4 h5 h => ?_⟩ <;>
    refine exec_of_failing_check hi hr hd hb ?_ <;> rw [unitChecks_of_steps, stepCheck_privilege]
  · rw [if_pos h]
    rfl
  · rw [if_neg h3, stepCheck_operand, if_pos h]
    rfl
  · rw [if_neg h3, stepCheck_operand, if_neg h4, stepCheck_port, h]
    rfl
  · rw [if_neg h3, stepCheck_operand, if_neg h4, stepCheck_port, h5, stepCheck_claim, if_pos h]
    rfl

end Sys2Proof
end

section
/-!
PROOFS. Operand forms: registers, ports bound to streams, p15 and the engine ports (R14, R18, R19, R137, R210).
-/

namespace Sys2Proof.Machine

/-! Sources. -/

theorem srcA_of_stream {s : State} {f : BitVec 7} {b : Stream} (h1 : 112 ≤ f.toNat) (h2 : f.toNat ≤ 119)
    (hb : s.arch.stream (f.toNat - 112) = some b) :
    srcA f s = (do let v ← popStream (f.toNat - 112) b; pure (BitVec.ofNat 64 v)) s := by
  rw [srcA, M.get_bind, if_neg (by omega), if_neg (by omega), hb]

theorem dstA_of_stream {s : State} {f : BitVec 7} {v : Word} {b : Stream} (h1 : 120 ≤ f.toNat) (h2 : f.toNat ≤ 123)
    (hb : s.arch.stream (f.toNat - 112) = some b) : dstA f v s = pushStream (f.toNat - 112) b v.toNat s := by
  rw [dstA, M.get_bind, if_neg (by omega), if_pos (by omega), hb]

theorem dstA_of_engine {s : State} {f : BitVec 7} {v : Word} (h : 124 ≤ f.toNat) : dstA f v s = pushEngine (f.toNat - 112) v s := by
  rw [dstA, M.get_bind, if_neg (by omega), if_neg (by omega)]

/-- The p15 queue of a slot has gained elements behind its own, its registers and its checkpointed state stand. -/
def State.Refilled (s t : State) (gs : Nat) : Prop :=
  (∃ more, (t.thread gs).p15 = (s.thread gs).p15 ++ more) ∧ t.rf = s.rf ∧ t.fs = s.fs ∧ (t.thread gs).a = (s.thread gs).a

theorem State.Refilled.refl (s : State) (gs : Nat) : s.Refilled s gs := ⟨⟨[], by simp⟩, rfl, rfl, rfl⟩

theorem State.Refilled.trans {s t u : State} {gs : Nat} (h : s.Refilled t gs) (g : t.Refilled u gs) : s.Refilled u gs := by
  obtain ⟨⟨m, hp⟩, hr, hf, ha⟩ := h
  obtain ⟨⟨n, gp⟩, gr, gf, ga⟩ := g
  exact ⟨⟨m ++ n, by rw [gp, hp, List.append_assoc]⟩, gr.trans hr, gf.trans hf, ga.trans ha⟩

theorem State.refilled_refillOne (s : State) (gs : Nat) : s.Refilled (s.refillOne gs 15) gs := by
  unfold State.refillOne
  split
  · split
    · refine ⟨?_, rfl, rfl, ?_⟩ <;> rw [State.thread_setThread_self]
      · exact ⟨[_], rfl⟩
      · rfl
    · exact .refl s gs
  · exact .refl s gs

theorem State.refilled_foldl (gs : Nat) (l : List Nat) :
    ∀ s : State, s.Refilled (l.foldl (fun (s : State) _ => s.refillOne gs 15) s) gs := by
  induction l with
  | nil => exact fun s => .refl s gs
  | cons x xs ih => exact fun s => (s.refilled_refillOne gs).trans (ih _)

theorem State.refilled_refill (s : State) (gs : Nat) : s.Refilled (s.refill gs 15) gs := s.refilled_foldl gs _

/-- With no channel at the port there is no ring. -/
theorem State.refill_of_none {s : State} {gs port : Nat} (h : s.chanOf gs port = none) : s.refill gs port = s := by
  simp [State.refill, h]

/-- The executing chunk's own record leaves the rest of the thread. -/
theorem modChunk_run (f : Chunk → Chunk) (s : State) : ∃ cs, modChunk f s = .ok ((), s.setTh { s.th with chunks := cs }) ∨
    modChunk f s = .ok ((), s) := by
  by_cases hd : s.isDirect
  · exact ⟨[], .inr (by simp [modChunk, modify, modifyGet, MonadStateOf.modifyGet, StateT.modifyGet, pure, Except.pure, hd])⟩
  · obtain ⟨cs, h⟩ := s.th.modLast_shape f
    exact ⟨cs, .inl (by simp [modChunk, modify, modifyGet, MonadStateOf.modifyGet, StateT.modifyGet, pure, Except.pure, hd, h])⟩

theorem popP15_run {s : State} {v : Word} {rest : List Word} (h : s.th.p15 = v :: rest) :
    ∃ t more, popP15 s = .ok (v, t) ∧ t.th.p15 = rest ++ more ∧ (s.chanOf s.fs 15 = none → more = []) ∧ t.rf = s.rf ∧
      t.arch = s.arch := by
  have hpop : ∃ s1 : State, s1.th.p15 = rest ∧ s1.rf = s.rf ∧ s1.fs = s.fs ∧ s1.arch = s.arch ∧ s1.chans = s.chans ∧
      popP15 s = (do modify (fun s => s.refill s.fs 15); notePopped 15 8; pure v : M Word) s1 := by
    rw [popP15, M.get_bind, h]
    rcases modChunk_run (fun c => { c with pops := mput c.pops 15 (mgetD c.pops 15 [] ++ [v]) }) (s.setTh { s.th with p15 := rest })
      with ⟨cs, hc | hc⟩
    · refine ⟨_, ?_, ?_, ?_, ?_, ?_, (M.bind_ok (modTh_run ..)).trans (M.bind_ok hc)⟩ <;> simp [State.arch]
    · refine ⟨_, ?_, ?_, ?_, ?_, ?_, (M.bind_ok (modTh_run ..)).trans (M.bind_ok hc)⟩ <;> simp [State.arch]
  obtain ⟨s1, hp, hr, hf, ha, hc, hrun⟩ := hpop
  obtain ⟨⟨more, hm⟩, hrf, hfs, hth⟩ := s1.refilled_refill s1.fs
  refine ⟨_, more, hrun.trans rfl, ?_, ?_, hrf.trans hr, ?_⟩
  · show ((s1.refill s1.fs 15).thread (s1.refill s1.fs 15).fs).p15 = _
    rw [hfs, hm, ← hp]
    rfl
  · intro hnone
    have h1 : s1.chanOf s1.fs 15 = none := by
      rw [State.chanOf, hc, hf]
      exact hnone
    rw [State.refill_of_none h1] at hm
    simpa using hm
  · show ((s1.refill s1.fs 15).thread (s1.refill s1.fs 15).fs).a = _
    rw [hfs, hth]
    exact ha

theorem popP15_empty {s : State} (h : s.th.p15 = []) (hp : s.unit.popped = []) : popP15 s = .error (.hold (.pop 15 8)) := by
  rw [popP15, M.get_bind, h]
  simp only [holdPop]
  rw [M.get_bind, hp]
  rfl

theorem sourceFieldForms : Spec.SourceFieldForms := by
  refine ⟨fun s f h => srcA_reg h, State.getX_zero, fun s v rest h => popP15_run h, fun s h hp => popP15_empty h hp,
    fun s f b h1 h2 hb => srcA_of_stream h1 h2 hb, fun s f h => srcC_lone h f⟩

/-! Destinations. -/

theorem State.setX_shape (s : State) (f : Nat) (v : Word) : ∃ r, s.setX f v = { s with rf := r } := by
  unfold State.setX State.setXOf
  split
  · exact ⟨s.rf, rfl⟩
  · exact ⟨_, rfl⟩

/-- Element 0 of a p12 command, as Table 8.3 says it. -/
theorem commandWord_eq_some {v : Word} {op : MatOp} : commandWord v = some op ↔ Spec.isCommand v op := by
  have hlow : bits v 31 0 = v.toNat % 2 ^ 32 := bits_zero v 31
  unfold commandWord Spec.isCommand
  rw [hlow]
  by_cases h : bits v 63 32 ≠ 0 ∨ bits v 28 8 ≠ 0
  · rw [if_pos h]
    refine ⟨fun e => absurd e (by simp), fun ⟨h1, h2, _⟩ => ?_⟩
    rcases h with h | h
    · exact absurd h1 h
    · exact absurd h2 h
  · rw [if_neg h]
    push Not at h
    cases hd : decode (BitVec.ofNat 32 (v.toNat % 2 ^ 32 / 4 * 4 + 3)) <;> simp [h]

theorem commandWord_eq_none {v : Word} : (commandWord v).isNone = true ↔ ∀ op, ¬Spec.isCommand v op := by
  rw [Option.isNone_iff_eq_none, Option.eq_none_iff_forall_ne_some]
  exact forall_congr' fun op => not_congr commandWord_eq_some

/-- The command that the last element `v` of an engine port completes, the elements `q` standing before it (Table 8.3). -/
def pushedCommand (v : Word) (code : Nat) (q : List Word) : M Unit :=
  match code, q with
  | 12, [w, a, b] =>
    match commandWord w with
    | some op => issueMat op v a b
    | none => M.cause .illegalInstruction
  | 13, [d, sr, n] => issueCopy d sr n v (decide (v ≠ 0))
  | 14, [t] => issueMsg t v
  | _, _ => M.cause .illegalOperand

theorem pushEngine_eq (code : Nat) (v : Word) (s : State) :
    pushEngine code v s =
      (if code = 12 ∧ mgetD s.th.staged code [] = [] ∧ (commandWord v).isNone then M.cause .illegalInstruction
      else if (mgetD s.th.staged code []).length + 1 < stageSize code then
        modTh (fun t => { t with staged := mput t.staged code (mgetD s.th.staged code [] ++ [v]) })
      else do
        modTh (fun t => { t with staged := mdel t.staged code })
        unstaging code (pushedCommand v code (mgetD s.th.staged code []))) s := rfl

/-- The push of the last element empties the staging and issues the command. -/
theorem pushEngine_last {code : Nat} {v : Word} {s : State} {q : List Word} (hq : mgetD s.th.staged code [] = q)
    (hne : q ≠ []) (hlen : stageSize code ≤ q.length + 1) :
    pushEngine code v s = unstaging code (pushedCommand v code q) (s.setTh { s.th with staged := mdel s.th.staged code }) := by
  rw [pushEngine_eq, hq, if_neg (fun h => hne h.2.1), if_neg (Nat.not_lt.mpr hlen), M.bind_ok (modTh_run ..)]

theorem sends_of_pushEngine {code : Nat} {v : Word} {s : State} {m : M Unit} (hc : 12 ≤ code) (hc' : code ≤ 14)
    (hp : pushEngine code v s = unstaging code m (s.setTh { s.th with staged := mdel s.th.staged code })) :
    Spec.Sends code m v s := by
  have hf : (BitVec.ofNat 7 (112 + code)).toNat = 112 + code := by
    rw [BitVec.toNat_ofNat]
    omega
  have hd : dstA (BitVec.ofNat 7 (112 + code)) v s = unstaging code m (s.setTh { s.th with staged := mdel s.th.staged code }) := by
    rw [dstA_of_engine (by omega), hf, Nat.add_sub_cancel_left, hp]
  refine ⟨fun t h => ?_, fun t h => ?_, fun t h => ?_⟩ <;> rw [hd, unstaging, h]

theorem pushEngine_stages {f : BitVec 7} {v : Word} {s : State} (hf : f = 124 ∨ f = 125 ∨ f = 126) :
    let q := mgetD s.th.staged (f.toNat - 112) []
    (f = 124 → q = [] → (∀ op, ¬Spec.isCommand v op) → dstA f v s = .error (.trap { cause := .illegalInstruction })) ∧
    (q.length + 1 < (if f = 126 then 2 else 4) → (f = 124 → q = [] → ∃ op, Spec.isCommand v op) →
      dstA f v s = .ok ((), s.setTh { s.th with staged := mput s.th.staged (f.toNat - 112) (q ++ [v]) })) := by
  intro q
  have hge : 124 ≤ f.toNat := by rcases hf with rfl | rfl | rfl <;> decide
  refine ⟨fun h hq hno => ?_, fun hlen hyes => ?_⟩
  · rw [dstA_of_engine hge, pushEngine_eq, if_pos ⟨by rw [h]; rfl, hq, commandWord_eq_none.mpr hno⟩]
    rfl
  · have hno : ¬(f.toNat - 112 = 12 ∧ q = [] ∧ (commandWord v).isNone = true) := by
      rintro ⟨h12, hq, hnone⟩
      have h : f = 124 := by
        rcases hf with rfl | rfl | rfl
        · rfl
        · exact absurd h12 (by decide)
        · exact absurd h12 (by decide)
      obtain ⟨op, hop⟩ := hyes h hq
      exact commandWord_eq_none.mp hnone op hop
    have hsize : q.length + 1 < stageSize (f.toNat - 112) := by
      rcases hf with rfl | rfl | rfl <;> exact hlen
    rw [dstA_of_engine hge, pushEngine_eq, if_neg hno, if_pos hsize]
    rfl

theorem destinationFieldForms : Spec.DestinationFieldForms := by
  refine ⟨fun s f v h => dstA_reg h, State.setX_zero, fun s f v h => State.getX_setX_self s v h,
    fun s f g v h => State.getX_setX_ne s v h, State.setX_shape, fun s f v hf => pushEngine_stages hf, ?mat, ?copy, ?msg,
    fun s f v b h1 h2 hb => dstA_of_stream h1 h2 hb⟩
  case mat =>
    intro s v w a b op hq hop
    refine sends_of_pushEngine (by decide) (by decide) ((pushEngine_last hq (by simp) (by simp [stageSize])).trans ?_)
    simp only [pushedCommand, commandWord_eq_some.mpr hop]
  case copy =>
    intro s v a b n hq
    exact sends_of_pushEngine (by decide) (by decide) (pushEngine_last hq (by simp) (by simp [stageSize]))
  case msg =>
    intro s v w hq
    exact sends_of_pushEngine (by decide) (by decide) (pushEngine_last hq (by simp) (by simp [stageSize]))

end Sys2Proof.Machine

namespace Sys2Proof
open Machine

/-- Settles O9: the source forms and the destination forms of a register field. -/
theorem operandForms : Obligations.OperandForms := ⟨sourceFieldForms, destinationFieldForms⟩

end Sys2Proof
end

section
/-!
PROOFS. What the checks and the bookkeeping of a memory access leave alone, and the pops of a read stream (R33, R117, R118, R137, R138).
-/

namespace Sys2Proof.Machine

/-! Parts of a unit's meaning that lead to related states. -/

/-- Where a part of a unit's meaning comes to its end, its states are related. -/
structure Leads (R : State → State → Prop) {α : Type} (m : M α) : Prop where
  out : ∀ s a t, m s = .ok (a, t) → R s t

section
variable {R : State → State → Prop} {α β : Type}

theorem leads_pure (hr : ∀ s, R s s) (a : α) : Leads R (pure a : M α) := ⟨fun s _ _ e => by cases e; exact hr s⟩

theorem leads_bind (ht : ∀ s t u, R s t → R t u → R s u) {m : M α} {f : α → M β} (hm : Leads R m) (hf : ∀ a, Leads R (f a)) :
    Leads R (m >>= f) := by
  refine ⟨fun s b t e => ?_⟩
  cases hms : m s with
  | error x => rw [M.bind_error hms] at e; cases e
  | ok p => rw [M.bind_ok hms] at e; exact ht _ _ _ (hm.out _ _ _ hms) ((hf _).out _ _ _ e)

theorem leads_get_bind {f : State → M β} (hf : ∀ s, Leads R (f s)) : Leads R (get >>= f) := ⟨fun s b t e => (hf s).out s b t e⟩

theorem leads_modify {f : State → State} (hf : ∀ s, R s (f s)) : Leads R (modify f : M Unit) := ⟨fun s _ _ e => by cases e; exact hf s⟩

theorem leads_error (x : Stop) : Leads R (fun _ => .error x : M α) := ⟨fun _ _ _ e => nomatch e⟩

theorem leads_lift (hr : ∀ s, R s s) (r : Except Stop α) : Leads R (M.lift r) := by
  refine ⟨fun s a t e => ?_⟩
  cases r with
  | ok a => cases e; exact hr s
  | error x => cases e

theorem leads_ite {c : Prop} [Decidable c] {m n : M α} (hm : Leads R m) (hn : Leads R n) : Leads R (if c then m else n) := by
  split <;> assumption

theorem leads_until (hr : ∀ s, R s s) (b : Bool) : Leads R (M.until_ b) := leads_ite (leads_pure hr _) (leads_error _)

theorem leads_mapM (hr : ∀ s, R s s) (ht : ∀ s t u, R s t → R t u → R s u) {f : β → M α} (hf : ∀ b, Leads R (f b)) :
    ∀ l : List β, Leads R (l.mapM f)
  | [] => by rw [List.mapM_nil]; exact leads_pure hr _
  | b :: l => by
    rw [List.mapM_cons]
    exact leads_bind ht (hf b) fun _ => leads_bind ht (leads_mapM hr ht hf l) fun _ => leads_pure hr _

end

/-! Accesses. -/

/-- What an access can change of its own thread. -/
def Thread.Touched (t u : Thread) : Prop := u = { t with
    a := { t.a with ports := u.a.ports }
    chunks := u.chunks, ent := u.ent, unread := u.unread, aims := u.aims, mons := u.mons }

theorem Thread.Touched.trans {t u v : Thread} (h : t.Touched u) (g : u.Touched v) : t.Touched v := by
  unfold Thread.Touched at *
  rw [g, h]

/-- What the checks and the bookkeeping of an access can change: accessed bits and access counters in memory, what the caches ask for, cached
translations, signatures, and of its thread the chunk's record, entries and elements counted, and what a changed entry hits. -/
structure State.Touched (s t : State) : Prop where
  same : t = { s with
    threads := t.threads, mem := t.mem, peer := t.peer, gregHist := t.gregHist, globals := t.globals, sigs := t.sigs, stops := t.stops
    coh := t.coh, hostPart := t.hostPart, agenda := t.agenda, fresh := t.fresh }
  th : s.th.Touched t.th

theorem State.Touched.refl (s : State) : s.Touched s := ⟨rfl, rfl⟩

theorem State.Touched.trans {s t u : State} (h : s.Touched t) (g : t.Touched u) : s.Touched u :=
  ⟨by rw [g.same, h.same], h.th.trans g.th⟩

theorem State.Touched.ite {c : Prop} [Decidable c] {s t u : State} (h : s.Touched t) (g : s.Touched u) :
    s.Touched (if c then t else u) := by
  split <;> assumption

theorem State.Touched.foldl {β : Type} {f : State → β → State} (hf : ∀ s b, State.Touched s (f s b)) :
    ∀ (l : List β) (s : State), s.Touched (l.foldl f s)
  | [], s => .refl s
  | b :: l, s => (hf s b).trans (State.Touched.foldl hf l _)

theorem State.Touched.fs {s t : State} (h : s.Touched t) : t.fs = s.fs := by rw [h.same]
theorem State.Touched.unit {s t : State} (h : s.Touched t) : t.unit = s.unit := by rw [h.same]
theorem State.Touched.rf {s t : State} (h : s.Touched t) : t.rf = s.rf := by rw [h.same]
theorem State.Touched.gregs {s t : State} (h : s.Touched t) : t.gregs = s.gregs := by rw [h.same]
theorem State.Touched.loads {s t : State} (h : s.Touched t) : t.th.loads = s.th.loads := by rw [h.th]
theorem State.Touched.stores {s t : State} (h : s.Touched t) : t.th.stores = s.th.stores := by rw [h.th]
theorem State.Touched.hold {s t : State} (h : s.Touched t) : t.th.hold = s.th.hold := by rw [h.th]
theorem State.Touched.before {s t : State} (h : s.Touched t) (hp : s.unit.pre = none) : t.before = t :=
  State.before_lone (h.unit ▸ hp)

/-- States that differ in nothing but the fields a change of no thread may move. -/
theorem State.Touched.of_same {s t : State} (h : t = { s with
    threads := t.threads, mem := t.mem, peer := t.peer, gregHist := t.gregHist, globals := t.globals, sigs := t.sigs, stops := t.stops
    coh := t.coh, hostPart := t.hostPart, agenda := t.agenda, fresh := t.fresh }) (ht : t.threads = s.threads) : s.Touched t := by
  have hth : t.th = s.th := State.th_congr ht (by rw [h])
  exact ⟨h, by rw [hth]; rfl⟩

theorem State.touched_setTh {s : State} {u : Thread} (h : s.th.Touched u) :
    s.Touched (s.setTh u) := ⟨rfl, by rw [State.th_setTh]; exact h⟩

theorem State.touched_cohSend (s : State) (k : CohKind) (die line : Nat) : s.Touched (s.cohSend k die line) := .of_same rfl rfl

theorem State.touched_hostPart (s : State) (m : Map (Option Nat)) : s.Touched { s with hostPart := m } := .of_same rfl rfl

theorem State.touched_cohAsk (s : State) (die line : Nat) (p : Option Nat) : s.Touched (s.cohAsk die line p) := by
  unfold State.cohAsk
  split
  · exact .refl s
  · dsimp only
    split
    · exact (s.touched_hostPart _).trans (State.touched_cohSend ..)
    · exact State.touched_cohSend ..

theorem State.touched_setByte (s : State) (pa : Nat) (b : Byte) : s.Touched (s.setByte pa b) := by
  unfold State.setByte
  split <;> exact .of_same rfl rfl

theorem State.touched_setBytes (bs : List Byte) : ∀ (s : State) (pa : Nat), s.Touched (s.setBytes pa bs) := by
  induction bs with
  | nil => exact fun s _ => .refl s
  | cons b bs ih => exact fun s pa => (s.touched_setByte pa b).trans (ih _ _)

theorem State.touched_ring (s : State) (a : Act) : s.Touched (s.ring a) := .of_same rfl rfl

theorem State.touched_countRegion (s : State) (vf : Nat) (v : VFunc) (host : Bool) (region : Nat) :
    s.Touched (s.countRegion vf v host region) := by
  unfold State.countRegion
  exact .ite (.refl s) (.ite ((State.touched_setBytes ..).trans (State.touched_ring ..)) (State.touched_setBytes ..))

theorem State.touched_countFetch (s : State) (vf : Option Nat) (line : Nat) : s.Touched (s.countFetch vf line) := by
  unfold State.countFetch
  split
  · split
    · split
      · exact State.touched_countRegion ..
      · exact .refl s
    · exact .refl s
  · exact .refl s

theorem State.touched_keep (s : State) (g : Option Global) : s.Touched (s.keep g) := by
  unfold State.keep
  split
  · split
    · exact .refl s
    · exact .of_same rfl rfl
  · exact .refl s

theorem State.touched_heard (s : State) (items : List Nat) : s.Touched (s.heard items) := by
  unfold State.heard
  split
  · exact .refl s
  · exact .of_same rfl rfl

theorem State.touched_sigs (s : State) (l : List (Nat × List Nat)) : s.Touched { s with sigs := l } := .of_same rfl rfl

theorem State.touched_signal (s : State) (src : Option Nat) (items : List Nat) : s.Touched (s.signal src items) := by
  unfold State.signal
  split
  · exact .refl s
  · exact (s.touched_sigs _).trans (State.touched_heard ..)

theorem State.touched_sawShared (s : State) (gs : Nat) : s.Touched (s.sawShared gs) := by
  unfold State.sawShared
  split
  · exact .refl s
  · exact .of_same rfl rfl

theorem mget_map_snd {α : Type} (c : Nat → Prop) [DecidablePred c] (f : Nat → α → α) (m : Map α) (k : Nat) :
    mget (m.map (fun p => if c p.1 then (p.1, f p.1 p.2) else p)) k = (mget m k).map (fun v => if c k then f k v else v) := by
  induction m with
  | nil => rfl
  | cons p rest ih =>
    obtain ⟨j, v⟩ := p
    by_cases h : j = k
    · subst h
      by_cases hc : c j <;> simp [mget, hc]
    · by_cases hc : c j <;> simp [mget, h, hc, ih]

/-- A change of every thread changes each by itself, but for a slot that holds none. -/
theorem State.thread_mapThreads (s : State) (f : Nat → Thread → Thread) (gs : Nat) :
    (s.mapThreads f).thread gs = f gs (s.thread gs) ∨ (s.mapThreads f).thread gs = s.thread gs := by
  simp only [State.thread, State.mapThreads, mgetD, mget_map_snd (fun k => k < slotCount) f]
  cases mget s.threads gs with
  | none => exact .inr rfl
  | some t =>
    by_cases h : gs < slotCount
    · simp [h]
    · simp [h]

theorem State.touched_hitEntry (s : State) (line : Nat) : s.Touched (s.mapThreads (fun _ t => t.hitEntry line)) := by
  refine ⟨rfl, ?_⟩
  show s.th.Touched ((s.mapThreads _).thread s.fs)
  rcases s.thread_mapThreads (fun _ t => t.hitEntry line) s.fs with h | h <;> rw [h] <;> rfl

theorem State.touched_setAD (s : State) (pte : Nat) (acc : Acc) : s.Touched (s.setAD pte acc) := by
  unfold State.setAD
  dsimp only
  generalize (if acc = .write ∨ acc = .rmw then putBit (putBit (s.dwordAt pte) 7 true) 8 true
    else putBit (s.dwordAt pte) 7 true) = e
  split
  · exact .refl s
  · exact ((State.touched_setBytes ..).trans (State.touched_hitEntry ..)).trans (State.touched_signal ..)

theorem State.touched_aim (s : State) (va : Word) (pa level : Nat) : s.Touched (s.aim va pa level) := by
  unfold State.aim
  dsimp only
  split
  · exact State.touched_setTh rfl
  · exact .refl s

theorem State.touched_modLast (s : State) (f : Chunk → Chunk) : s.Touched (s.setTh (s.th.modLast f)) := by
  obtain ⟨cs, h⟩ := s.th.modLast_shape f
  rw [h]
  exact State.touched_setTh rfl

abbrev Touches {α : Type} (m : M α) : Prop := Leads State.Touched m

theorem touches_pure {α : Type} (a : α) : Touches (pure a : M α) := leads_pure .refl a
theorem touches_bind {α β : Type} {m : M α} {f : α → M β} (hm : Touches m) (hf : ∀ a, Touches (f a)) : Touches (m >>= f) :=
  leads_bind (fun _ _ _ => .trans) hm hf
theorem touches_until (b : Bool) : Touches (M.until_ b) := leads_until .refl b

theorem touches_modChunk (f : Chunk → Chunk) : Touches (modChunk f) := by
  refine leads_modify fun s => ?_
  split
  · exact .refl s
  · exact s.touched_modLast f

theorem touches_xlatAt (level : Nat) (va : Word) (acc : Acc) : Touches (xlatAt level va acc) := by
  refine leads_get_bind fun s => touches_bind (leads_lift .refl _) fun x => touches_bind (touches_modChunk _) fun _ => ?_
  refine touches_bind (leads_modify fun s => ?_) fun _ => ?_
  · exact (State.touched_keep ..).trans
      (.foldl (fun s l => (State.touched_countFetch ..).trans (State.touched_cohAsk ..)) _ _)
  · dsimp only
    split
    · refine touches_bind (leads_modify fun s => State.touched_setAD ..) fun _ => leads_ite ?_ (touches_pure _)
      exact touches_bind (leads_modify fun s => State.touched_aim ..) fun _ => touches_pure _
    · exact touches_pure _

theorem touches_reachCheck (pa : Nat) (acc : Acc) (r : Reach) (va : Word) : Touches (reachCheck pa acc r va) := by
  refine leads_get_bind fun s => ?_
  refine leads_ite (touches_bind (touches_until _) fun _ => ?_) (leads_ite (leads_lift .refl _) (leads_ite (leads_lift .refl _)
    (leads_ite (leads_lift .refl _) (touches_pure _))))
  split
  · exact leads_lift .refl _
  · exact touches_pure _

theorem touches_checkAccess (va : Word) (n align : Nat) (acc : Acc) (r : Reach) : Touches (checkAccess va n align acc r) := by
  refine leads_ite (leads_error _) (leads_get_bind fun s => touches_bind (touches_xlatAt ..) fun pa => ?_)
  exact touches_bind (touches_reachCheck ..) fun _ => leads_get_bind fun s => touches_bind (touches_until _) fun _ => touches_pure _

theorem touches_readLines (ls : List Nat) : Touches (readLines ls) := by
  refine touches_bind (leads_modify fun s => ?_) fun _ => touches_bind (leads_modify fun s => ?_) fun _ => touches_modChunk _
  · exact .foldl (fun s l => (State.touched_countFetch ..).trans (State.touched_cohAsk ..)) _ _
  · split
    · exact State.touched_sawShared ..
    · exact .refl s

theorem touches_countEntries (n : Nat) : Touches (countEntries n) := by
  refine leads_get_bind fun s => leads_ite (leads_modify fun t => ?_) (touches_pure _)
  exact State.touched_setTh rfl

theorem touches_directOrder : Touches directOrder := leads_get_bind fun s => touches_until _

end Sys2Proof.Machine
end

section
/-!
PROOFS. The pops of a read stream and the pushes of a write stream, and what happens at their ends (R33, R137 to R139).
-/

namespace Sys2Proof.Machine

/-! Equations of the parts of an access. -/

theorem directOrder_run {s : State} (h : Spec.Ordered s) : directOrder s = .ok ((), s) := by
  have hb : (!s.isDirect || s.before.th.drained) = true := by
    cases hd : s.isDirect
    · rfl
    · simpa using h hd
  rw [directOrder, M.get_bind, hb]
  rfl

theorem readLines_ok (ls : List Nat) (s : State) : ∃ t, readLines ls s = .ok ((), t) := ⟨_, rfl⟩

theorem countEntries_ok (n : Nat) (s : State) : ∃ t, countEntries n s = .ok ((), t) := by
  rw [countEntries, M.get_bind]
  split <;> exact ⟨_, rfl⟩

theorem setStream_run (code : Nat) (b : Stream) (s : State) :
    setStream code b s = .ok ((), s.setArch { s.arch with ports := mput s.arch.ports code (.stream b) }) := rfl

theorem Arch.stream_mput (a : Arch) (code : Nat) (b : Stream) :
    ({ a with ports := mput a.ports code (.stream b) } : Arch).stream code = some b := by
  simp [Arch.stream, mget_mput_self]

/-! One element of a stream. -/

/-- The element that a pop takes: the checks of its address and its value (R137, R138). -/
def streamElement (code : Nat) (b : Stream) : M Nat := do
  directOrder
  let pa ← checkAccess (b.elemAddr b.pos) (2 ^ b.sz) (2 ^ b.sz) .read .load
  let s ← get
  if s.before.viewPoison s.fs pa (2 ^ b.sz) then M.trap { cause := .dataPoison, av := true, acc := 0, info1 := b.elemAddr b.pos }
  else readElement code b pa (2 ^ b.sz)

/-- The element that a push stores (R137, R138). -/
def streamPush (code : Nat) (b : Stream) (v : Nat) : M Unit := do
  let e ← storeEff (b.elemAddr b.pos) (2 ^ b.sz) v
  uncounted (.push code) [e]

/-- The position at which a stream takes its next element: its own, or 0 where it wraps at its end (R137). -/
def Stream.Takes (b : Stream) (pos : Nat) : Prop :=
  (b.pos < b.total ∧ pos = b.pos) ∨ (b.pos = b.total ∧ b.wrap = true ∧ 0 < b.total ∧ pos = 0)

theorem Stream.Takes.ite {b : Stream} {pos : Nat} (h : b.Takes pos) :
    (if b.pos = b.total ∧ b.wrap ∧ 0 < b.total then { b with pos := 0 } else b) = { b with pos := pos } := by
  rcases h with ⟨hlt, rfl⟩ | ⟨he, hw, h0, rfl⟩
  · rw [if_neg (fun h => Nat.ne_of_lt hlt h.1)]
  · rw [if_pos ⟨he, hw, h0⟩]

theorem Stream.Takes.ne {b : Stream} {pos : Nat} (h : b.Takes pos) : pos ≠ b.total := by
  rcases h with ⟨hlt, rfl⟩ | ⟨-, -, h0, rfl⟩ <;> omega

/-- A pop below the end takes an element and advances (R137). -/
theorem popStream_takes {code pos : Nat} {b : Stream} (h : b.Takes pos) :
    popStream code b = (do
      let v ← atElement code b (streamElement code { b with pos := pos })
      setStream code { b with pos := pos + 1, ahead := b.ahead.drop 1 }
      pure v) := by
  unfold popStream
  simp only [h.ite, if_neg h.ne]
  rfl

theorem pushStream_takes {code pos v : Nat} {b : Stream} (h : b.Takes pos) :
    pushStream code b v = (do
      atElement code b (streamPush code { b with pos := pos } v)
      setStream code { b with pos := pos + 1 }) := by
  unfold pushStream
  simp only [h.ite, if_neg h.ne]
  rfl

theorem popStream_end {code : Nat} {b : Stream} (he : b.pos = b.total) (hw : b.wrap = false ∨ b.total = 0) :
    popStream code b =
      if b.trap then M.trap { cause := .streamEnd, portc := some code, ev := true, info2 := BitVec.ofNat 64 b.total }
      else (do
        setStream code { b with endFlag := true }
        pure 0) := by
  have hno : ¬(b.pos = b.total ∧ b.wrap = true ∧ 0 < b.total) := by
    rcases hw with h | h
    · simp [h]
    · omega
  unfold popStream
  simp only [if_neg hno, if_pos he]

/-- An element that has been read advances the stream and leaves the registers. -/
theorem popStream_ok {code pos v : Nat} {b : Stream} {s s1 : State} (h : b.Takes pos)
    (he : streamElement code { b with pos := pos } s = .ok (v, s1)) :
    ∃ t, popStream code b s = .ok (v, t) ∧ t.arch.stream code = some { b with pos := pos + 1, ahead := b.ahead.drop 1 } ∧
      t.rf = s1.rf := by
  have hat : ∃ s2 : State, atElement code b (streamElement code { b with pos := pos }) s = .ok (v, s2) ∧ s2.rf = s1.rf := by
    unfold atElement
    rw [he]
    exact ⟨_, rfl, rfl⟩
  obtain ⟨s2, hat, hrf⟩ := hat
  rw [popStream_takes h]
  refine ⟨_, (M.bind_ok hat).trans ((M.bind_ok (setStream_run ..)).trans rfl), ?_, by rw [State.setArch_rf, hrf]⟩
  rw [State.arch_setArch, Arch.stream_mput]

theorem streamElement_checked {code pa : Nat} {b : Stream} {s s1 : State} (ho : Spec.Ordered s)
    (hc : checkAccess (b.elemAddr b.pos) (2 ^ b.sz) (2 ^ b.sz) .read .load s = .ok (pa, s1))
    (hp : s1.before.viewPoison s1.fs pa (2 ^ b.sz) = false) : streamElement code b s = readElement code b pa (2 ^ b.sz) s1 := by
  rw [streamElement, M.bind_ok (directOrder_run ho), M.bind_ok hc, M.get_bind, if_neg (by simp [hp])]

theorem streamElement_fault {code : Nat} {b : Stream} {s : State} {e : Stop} (ho : Spec.Ordered s)
    (hc : checkAccess (b.elemAddr b.pos) (2 ^ b.sz) (2 ^ b.sz) .read .load s = .error e) : streamElement code b s = .error e := by
  rw [streamElement, M.bind_ok (directOrder_run ho), M.bind_error hc]

theorem streamElement_poison {code pa : Nat} {b : Stream} {s s1 : State} (ho : Spec.Ordered s)
    (hc : checkAccess (b.elemAddr b.pos) (2 ^ b.sz) (2 ^ b.sz) .read .load s = .ok (pa, s1))
    (hp : s1.before.viewPoison s1.fs pa (2 ^ b.sz) = true) :
    streamElement code b s = .error (.trap { cause := .dataPoison, av := true, acc := 0, info1 := b.elemAddr b.pos }) := by
  rw [streamElement, M.bind_ok (directOrder_run ho), M.bind_ok hc, M.get_bind, if_pos hp]
  rfl

/-- With nothing read ahead of it, the element is the one of memory before the unit (R33). -/
theorem readElement_memory {code pa n : Nat} {b : Stream} {s : State} (hb : b.ahead = []) (ht : s.unit.took = none) :
    ∃ t, readElement code b pa n s = .ok (s.before.viewNat s.fs pa n, t) ∧ t.rf = s.rf := by
  have ha : s.aheadOf b = [] := by
    unfold State.aheadOf
    simp [hb]
  obtain ⟨s1, h1⟩ := readLines_ok (linesOf pa n) s
  obtain ⟨s2, h2⟩ := countEntries_ok 1 s1
  have hrf : s2.rf = s.rf := ((touches_countEntries 1).out _ _ _ h2).rf.trans ((touches_readLines _).out _ _ _ h1).rf
  unfold readElement
  rw [M.get_bind, ha, ht]
  by_cases hs : s.singly
  · refine ⟨{ s2 with unit := { s2.unit with took := some (code, ⟨s.before.viewNat s.fs pa n, lineOf pa, []⟩) } },
      (M.bind_ok h1).trans ((M.bind_ok h2).trans ?_), hrf⟩
    rw [if_pos hs]
    rfl
  · refine ⟨s2, (M.bind_ok h1).trans ((M.bind_ok h2).trans ?_), hrf⟩
    rw [if_neg hs]
    rfl

/-- In a chunk the element fetched ahead is taken (R138). -/
theorem readElement_ahead {code pa n : Nat} {b : Stream} {s : State} {x : Ahead} {rest : List Ahead} (hb : b.ahead = x :: rest)
    (hdet : s.th.det = false) (hdir : s.isDirect = false) : ∃ t, readElement code b pa n s = .ok (x.v, t) := by
  have ha : s.aheadOf b = x :: rest := by
    unfold State.aheadOf
    simp [hdet, hdir, hb]
  obtain ⟨s1, h1⟩ := readLines_ok (linesOf pa n) s
  unfold readElement
  rw [M.get_bind, ha]
  exact ⟨s1, (M.bind_ok h1).trans rfl⟩

theorem State.Touched.det {s t : State} (h : s.Touched t) : t.th.det = s.th.det := by
  rw [h.th]
  rfl

theorem State.Touched.isDirect {s t : State} (h : s.Touched t) : t.isDirect = s.isDirect := by
  unfold State.isDirect
  rw [h.unit, h.th]
  rfl

end Sys2Proof.Machine

namespace Sys2Proof
open Machine

/-- Settles O10: an element of memory, an element fetched ahead, a trap at the end, the end flag. -/
theorem streamPops : Obligations.StreamPops := by
  refine ⟨?memory, ?ahead, ?trap, ?flag⟩
  case memory =>
    intro s s1 code pa pos b ho hb ht hpos hc hp
    obtain ⟨s2, hr, hrf⟩ := readElement_memory (code := code) (b := { b with pos := pos }) (pa := pa) (n := 2 ^ b.sz) hb ht
    obtain ⟨t, hpop, hstr, htrf⟩ := popStream_ok hpos ((streamElement_checked (code := code) (b := { b with pos := pos }) ho hc hp).trans hr)
    exact ⟨t, hpop, by rw [hstr, hb]; cases b; cases hb; rfl, htrf.trans hrf⟩
  case ahead =>
    intro s s1 code pa b x rest ho hb hdet hdir hlt hc hp
    have h1 := (touches_checkAccess ..).out _ _ _ hc
    obtain ⟨s2, hr⟩ := readElement_ahead (code := code) (b := b) (pa := pa) (n := 2 ^ b.sz) hb (h1.det.trans hdet)
      (h1.isDirect.trans hdir)
    obtain ⟨t, hpop, hstr, -⟩ := popStream_ok (.inl ⟨hlt, rfl⟩) ((streamElement_checked (code := code) (b := b) ho hc hp).trans hr)
    exact ⟨t, hpop, by rw [hstr, hb]; rfl⟩
  case trap =>
    intro s code b he hw ht
    rw [popStream_end he hw, if_pos ht]
    rfl
  case flag =>
    intro s code b he hw ht
    rw [popStream_end he hw, if_neg (by simp [ht])]
    exact ⟨_, rfl, by rw [State.arch_setArch, Arch.stream_mput], rfl⟩

end Sys2Proof
end

section
/-!
PROOFS. What performing effects leaves alone: which fields coherence messages and the bells of control blocks change, and what a thread keeps
(R236, R247, R266 to R272).
-/

namespace Sys2Proof.Machine

/-! The bells of control blocks and registers. -/

/-- What the bells of a write change: the words of the blocks they stand in, the agenda, and the mailbox's own bell. -/
structure State.Rung (s t : State) : Prop where
  same : t = { s with mem := t.mem, peer := t.peer, agenda := t.agenda, mb := t.mb }

theorem State.Rung.refl (s : State) : s.Rung s := ⟨rfl⟩

theorem State.Rung.trans {s t u : State} (h : s.Rung t) (g : t.Rung u) : s.Rung u := ⟨by rw [g.same, h.same]⟩

theorem State.Rung.of_same {s t : State} (h : t = { s with mem := t.mem, peer := t.peer, agenda := t.agenda, mb := t.mb }) : s.Rung t :=
  ⟨h⟩

theorem State.Rung.ite {s t u : State} {c : Prop} [Decidable c] (h : s.Rung t) (g : s.Rung u) : s.Rung (if c then t else u) := by
  split; exacts [h, g]

theorem State.Rung.foldl {β : Type} {f : State → β → State} (hf : ∀ (s : State) (b : β), s.Rung (f s b)) (l : List β) :
    ∀ s : State, s.Rung (l.foldl f s) := by
  induction l with
  | nil => exact fun s => .refl s
  | cons b l ih => exact fun s => (hf s b).trans (ih _)

theorem State.rung_setByte (s : State) (pa : Nat) (b : Byte) : s.Rung (s.setByte pa b) := by
  unfold State.setByte
  split <;> exact .of_same rfl

theorem State.rung_setBytes (bs : List Byte) : ∀ (s : State) (pa : Nat), s.Rung (s.setBytes pa bs) := by
  induction bs with
  | nil => exact fun s _ => .refl s
  | cons b bs ih => exact fun s pa => (s.rung_setByte pa b).trans (ih _ _)

theorem State.rung_ring (s : State) (a : Act) : s.Rung (s.ring a) := .of_same rfl

theorem State.rung_obsBells (s : State) (blk base pa n : Nat) : s.Rung (s.obsBells blk base pa n) := by
  unfold State.obsBells
  dsimp only
  refine .ite (.refl s) ?_
  have h1 := State.Rung.foldl (f := fun (s : State) i =>
    if reaches pa n (base + 8 * i) then s.ring (.config blk i (s.dwordAt (base + 8 * i))) else s)
    (fun s _ => .ite (s.rung_ring _) (.refl s)) (List.range 16) s
  have h2 (t : State) (h : s.Rung t) : s.Rung (if reaches pa n (base + 0x110) then t.zeroTrace base (reaches pa n (base + 0x130)) else t) :=
    .ite (h.trans (State.rung_setBytes _ _ _)) h
  exact h2 _ (.ite (h1.trans (State.rung_ring _ _)) h1)

theorem State.rung_ctlBells (s : State) (vf base pa n : Nat) : s.Rung (s.ctlBells vf base pa n) := by
  unfold State.ctlBells
  dsimp only
  refine .ite (.refl s) ?_
  refine .ite (.trans ?_ (State.rung_ring _ _)) ?_
  all_goals
    refine .ite (.trans ?_ (State.rung_ring _ _)) ?_
    all_goals exact .ite (s.rung_ring _) (.refl s)

theorem State.rung_migBells (s : State) (vf : Nat) (v : VFunc) (pa n : Nat) : s.Rung (s.migBells vf v pa n) := by
  unfold State.migBells
  dsimp only
  refine .ite (.refl s) ?_
  have h0 : s.Rung ((dwordsOf pa n).foldl (fun (t : State) d =>
      if s.migBase vf ≤ 8 * d ∧ 8 * d < s.migBase vf + 0x10000 then
        t.setBytes (8 * d) (leBytes 8 (t.migWord vf v (8 * d - s.migBase vf) (t.dwordAt (8 * d))).toNat)
      else t) s) := .foldl (fun s _ => .ite (State.rung_setBytes _ s _) (.refl s)) _ s
  have h2 (s1 : State) (h : s.Rung s1) : s.Rung (if reaches pa n (s.migBase vf) then
        match bits (s1.dwordAt (s.migBase vf)) 2 0 with
        | 1 => s1.ring (.precopy vf)
        | 2 => s1.ring (.stopping vf)
        | 4 => s1.ring (.resuming vf)
        | _ => s1.ring (.abort vf)
      else s1) := by
    refine .ite ?_ h
    split <;> exact h.trans (State.rung_ring _ _)
  have h3 := h2 _ h0
  refine .ite (.trans ?_ (State.rung_ring _ _)) ?_
  all_goals exact .ite (h3.trans (State.rung_ring _ _)) h3

theorem State.rung_bareBells (s : State) (pa n : Nat) : s.Rung (s.bareBells pa n) :=
  .ite (s.rung_migBells _ _ _ _) (.refl s)

theorem State.rung_bells (s : State) (pa n : Nat) : s.Rung (s.bells pa n) := by
  unfold State.bells
  dsimp only
  have h1 : s.Rung (if reaches pa n (s.ctb + 0x80) then { s with mb := { s.mb with bell := true } } else s) :=
    .ite (.of_same rfl) (.refl s)
  have h2 (t : State) (h : s.Rung t) : s.Rung ((t.obsBells 256 (t.ctb + 0x400) pa n).bareBells pa n) :=
    (h.trans (State.rung_obsBells _ _ _ _ _)).trans (State.rung_bareBells _ _ _)
  refine (h2 _ h1).trans ?_
  exact .foldl (fun s _ => ((s.rung_ctlBells _ _ _ _).trans (State.rung_obsBells _ _ _ _ _)).trans (State.rung_migBells _ _ _ _ _)) _ _

theorem State.Rung.threads {s t : State} (h : s.Rung t) : t.threads = s.threads := by rw [h.same]

/-! Copies in caches, and the messages about them (R266 to R272). -/

/-- What the coherence messages of a line change: the directories, the messages on their way and which caches hold the line. -/
structure State.Cohered (s t : State) : Prop where
  same : t = { s with dirs := t.dirs, coh := t.coh, l1 := t.l1, hostPart := t.hostPart }

theorem State.Cohered.refl (s : State) : s.Cohered s := ⟨rfl⟩

theorem State.Cohered.trans {s t u : State} (h : s.Cohered t) (g : t.Cohered u) : s.Cohered u := ⟨by rw [g.same, h.same]⟩

theorem State.Cohered.of_same {s t : State} (h : t = { s with dirs := t.dirs, coh := t.coh, l1 := t.l1, hostPart := t.hostPart }) :
    s.Cohered t := ⟨h⟩

theorem State.Cohered.ite {s t u : State} {c : Prop} [Decidable c] (h : s.Cohered t) (g : s.Cohered u) :
    s.Cohered (if c then t else u) := by
  split; exacts [h, g]

theorem State.Cohered.foldl {β : Type} {f : State → β → State} (hf : ∀ (s : State) (b : β), s.Cohered (f s b)) (l : List β) :
    ∀ s : State, s.Cohered (l.foldl f s) := by
  induction l with
  | nil => exact fun s => .refl s
  | cons b l ih => exact fun s => (hf s b).trans (ih _)

theorem State.cohered_setDir (s : State) (line : Nat) (d : List Moesi) : s.Cohered (s.setDir line d) := .of_same rfl
theorem State.cohered_setDie (s : State) (line die : Nat) (x : Moesi) : s.Cohered (s.setDie line die x) := .of_same rfl
theorem State.cohered_cohSend (s : State) (k : CohKind) (die line : Nat) : s.Cohered (s.cohSend k die line) := .of_same rfl
theorem State.cohered_cohTake (s : State) (k : CohKind) (die line : Nat) : s.Cohered (s.cohTake k die line) := .of_same rfl
theorem State.cohered_l1Drop (s : State) (die line : Nat) : s.Cohered (s.l1Drop die line) := .ite (.refl s) (.of_same rfl)
theorem State.cohered_l1Add (s : State) (gc line : Nat) : s.Cohered (s.l1Add gc line) := .ite (.refl s) (.of_same rfl)

theorem State.cohered_hostPart (s : State) (m : Map (Option Nat)) : s.Cohered { s with hostPart := m } := .of_same rfl

theorem State.cohered_evict (s : State) (die line : Nat) : s.Cohered (s.evict die line) := by
  unfold State.evict
  dsimp only
  have h := (s.cohered_setDie line die .i).trans (State.cohered_l1Drop _ die line)
  exact .ite (.refl s) (.ite (h.trans (State.cohered_cohSend _ _ _ _)) h)

theorem State.cohered_place (s : State) (die line : Nat) (x : Moesi) : s.Cohered (s.place die line x) := by
  unfold State.place
  dsimp only
  refine .ite (s.cohered_setDie _ _ _) ?_
  split
  · exact (s.cohered_setDie _ _ _).trans (State.cohered_evict _ _ _)
  · exact s.cohered_setDie _ _ _

theorem State.cohered_doReads (s : State) (die line : Nat) : s.Cohered (s.doReads die line) := by
  unfold State.doReads
  dsimp only
  refine .ite (.refl s) (.ite (s.cohered_cohTake _ _ _) ?_)
  split <;> exact (s.cohered_cohTake _ _ _).trans (State.cohered_cohSend _ _ _ _)

theorem State.cohered_doReadm (s : State) (die line : Nat) : s.Cohered (s.doReadm die line) := by
  unfold State.doReadm
  dsimp only
  have h := s.cohered_cohTake .readm die line
  refine .ite (.refl s) (.ite h (.ite (h.trans (State.cohered_cohSend _ _ _ _)) ?_))
  exact (h.trans (State.cohered_cohSend _ .getm die line)).trans (.foldl (fun s _ => s.cohered_cohSend _ _ _) _ _)

theorem State.cohered_doFwd (s : State) (owner die line : Nat) : s.Cohered (s.doFwd owner die line) :=
  .ite (((s.cohered_cohTake _ _ _).trans (State.cohered_cohSend _ _ _ _)).trans (State.cohered_setDie _ _ _ _)) (.refl s)

theorem State.cohered_doData (s : State) (die line : Nat) : s.Cohered (s.doData die line) := by
  unfold State.doData
  split
  · split
    · exact (s.cohered_cohTake _ _ _).trans (State.cohered_place _ _ _ _)
    · exact .refl s
  · exact .refl s

theorem State.cohered_cohSettle (s : State) (line : Nat) : s.Cohered (s.cohSettle line) := by
  unfold State.cohSettle
  refine .ite (.refl s) ?_
  split
  · exact (s.cohered_cohTake _ _ _).trans (State.cohered_cohSend _ _ _ _)
  · exact .refl s

theorem State.cohered_doInv (s : State) (die line : Nat) : s.Cohered (s.doInv die line) :=
  .ite ((((s.cohered_cohTake _ _ _).trans (State.cohered_setDie _ _ _ _)).trans (State.cohered_l1Drop _ _ _)).trans
    (State.cohered_cohSend _ _ _ _)) (.refl s)

theorem State.cohered_doAck (s : State) (die line : Nat) : s.Cohered (s.doAck die line) :=
  .ite ((s.cohered_cohTake _ _ _).trans (State.cohered_cohSettle _ _)) (.refl s)

theorem State.cohered_recallCopy (s : State) (die line : Nat) : s.Cohered (s.recallCopy die line) :=
  ((s.cohered_setDie _ _ _).trans (State.cohered_l1Drop _ _ _)).trans (State.cohered_cohSend _ _ _ _)

theorem State.cohered_doBinv (s : State) (die line : Nat) : s.Cohered (s.doBinv die line) :=
  .ite ((s.cohered_cohTake _ _ _).trans (State.cohered_recallCopy _ _ _)) (.ite (.refl s)
    ((State.Cohered.foldl (fun s _ => s.cohered_cohSend _ _ _) _ s).trans (State.cohered_recallCopy _ _ _)))

theorem State.cohered_hostMoves (s : State) (src dst line : Nat) : s.Cohered (s.hostMoves src dst line) :=
  .ite (s.cohered_hostPart _) (.refl s)

theorem State.cohered_doWback (s : State) (die line : Nat) : s.Cohered (s.doWback die line) :=
  .ite ((((s.cohered_cohTake _ _ _).trans (State.cohered_hostMoves _ _ _ _)).trans (State.cohered_place _ _ _ _)).trans
    (State.cohered_cohSend _ _ _ _)) (.refl s)

/-- One step of the messages about a line. -/
theorem State.cohered_cohNext {s t : State} {line : Nat} (h : s.cohNext line = some t) : s.Cohered t := by
  unfold State.cohNext at h
  split at h
  · injection h with h; subst h
    split
    exacts [s.cohered_doFwd _ _ _, s.cohered_doData _ _, s.cohered_doWback _ _, s.cohered_doAck _ _, s.cohered_doInv _ _, s.cohered_doBinv _ _,
      .refl s]
  · split at h
    · injection h with h; subst h
      exact .ite (s.cohered_doReads _ _) (s.cohered_doReadm _ _)
    · cases h

theorem State.cohered_cohSteps (n : Nat) : ∀ (s : State) (line : Nat), s.Cohered (s.cohSteps n line) := by
  induction n with
  | zero => exact fun s _ => .refl s
  | succ n ih =>
    intro s line
    unfold State.cohSteps
    split
    · exact (State.cohered_cohNext ‹_›).trans (ih _ _)
    · exact .refl s

/-- The messages about a line come to their end. -/
theorem State.cohered_cohDrain (s : State) (line : Nat) : s.Cohered (s.cohDrain line) := .ite (.refl s) (s.cohered_cohSteps _ _)

theorem State.cohered_cohAsk (s : State) (die line : Nat) (part : Option Nat) : s.Cohered (s.cohAsk die line part) := by
  unfold State.cohAsk
  dsimp only
  exact .ite (.refl s) (.trans (.ite (s.cohered_hostPart _) (.refl s)) (State.cohered_cohSend _ _ _ _))

theorem State.cohered_cohRecall (s : State) (k : CohKind) (line : Nat) : s.Cohered (s.cohRecall k line) :=
  ((s.cohered_cohDrain line).trans (.foldl (fun s _ => s.cohered_cohSend _ _ _) _ _)).trans (State.cohered_cohDrain _ _)

theorem State.cohered_cohKeep (s : State) (line : Nat) (x : Moesi) : s.Cohered (s.cohKeep line x) :=
  (s.cohered_setDir line _).trans (.foldl (fun s _ => s.cohered_l1Drop _ _) _ _)

theorem State.cohered_cohWrite (s : State) (gs line : Nat) : s.Cohered (s.cohWrite gs line) := by
  unfold State.cohWrite
  refine .ite (.refl s) ?_
  have h := (s.cohered_cohDrain line).trans (State.cohered_l1Drop _ (dieOf gs) line)
  refine .ite ((h.trans (State.cohered_cohRecall _ _ _)).trans (State.cohered_cohKeep _ _ _)) (.ite (h.trans (State.cohered_l1Add _ _ _)) ?_)
  have h2 (t : State) (g : s.Cohered t) : s.Cohered ((t.cohSend .readm (dieOf gs) line).l1Add (coreOf gs) line) :=
    (g.trans (State.cohered_cohSend _ _ _ _)).trans (State.cohered_l1Add _ _ _)
  exact h2 _ (.ite (h.trans (State.cohered_hostPart _ _)) h)

theorem State.cohered_cohDrop (s : State) (line : Nat) : s.Cohered (s.cohDrop line) :=
  .ite ((s.cohered_cohRecall _ _).trans (State.cohered_cohKeep _ _ _)) (.refl s)

theorem State.Cohered.threads {s t : State} (h : s.Cohered t) : t.threads = s.threads := by rw [h.same]

/-! What threads keep. -/

/-- What other threads' writes, deliveries and completions change of a thread that runs no word: its monitors, watch bit, pending interrupts,
elements read ahead and the count of its edge operations. -/
def Thread.Hit (t u : Thread) : Prop :=
  u = { t with a := { t.a with ports := u.a.ports }, mons := u.mons, ready := u.ready, edges := u.edges, pend := u.pend }

theorem Thread.Hit.refl (t : Thread) : t.Hit t := rfl

theorem Thread.Hit.trans {t u v : Thread} (h : t.Hit u) (g : u.Hit v) : t.Hit v := by
  unfold Thread.Hit at *
  rw [g, h]

/-- Every thread keeps all but what writes of others change. -/
structure State.Hits (s t : State) : Prop where
  thread : ∀ gs, (s.thread gs).Hit (t.thread gs)
  fs : t.fs = s.fs

theorem State.Hits.refl (s : State) : s.Hits s := ⟨fun _ => .refl _, rfl⟩

theorem State.Hits.trans {s t u : State} (h : s.Hits t) (g : t.Hits u) : s.Hits u :=
  ⟨fun gs => (h.thread gs).trans (g.thread gs), g.fs.trans h.fs⟩

theorem State.Hits.of_same {s t : State} (h : t.threads = s.threads) (hf : t.fs = s.fs) : s.Hits t :=
  ⟨fun gs => by rw [State.thread_congr h]; rfl, hf⟩

theorem State.Hits.ite {s t u : State} {c : Prop} [Decidable c] (h : s.Hits t) (g : s.Hits u) : s.Hits (if c then t else u) := by
  split; exacts [h, g]

theorem State.Hits.foldl {β : Type} {f : State → β → State} (hf : ∀ (s : State) (b : β), s.Hits (f s b)) (l : List β) :
    ∀ s : State, s.Hits (l.foldl f s) := by
  induction l with
  | nil => exact fun s => .refl s
  | cons b l ih => exact fun s => (hf s b).trans (ih _)

theorem State.Hits.th {s t : State} (h : s.Hits t) : s.th.Hit t.th := by
  have := h.thread s.fs
  rw [State.th, State.th, h.fs]
  exact this

theorem State.Rung.hits {s t : State} (h : s.Rung t) : s.Hits t := .of_same h.threads (by rw [h.same])

theorem State.Cohered.hits {s t : State} (h : s.Cohered t) : s.Hits t := .of_same h.threads (by rw [h.same])

theorem State.hits_setThread {s : State} {gs : Nat} {u : Thread} (h : (s.thread gs).Hit u) : s.Hits (s.setThread gs u) := by
  refine ⟨fun g => ?_, rfl⟩
  by_cases e : g = gs
  · rw [e, State.thread_setThread_self]
    exact h
  · rw [State.thread_setThread_ne _ _ e]
    rfl

theorem State.hits_mapThreads {s : State} {f : Nat → Thread → Thread} (h : ∀ (gs : Nat) (t : Thread), t.Hit (f gs t)) : s.Hits (s.mapThreads f) := by
  refine ⟨fun gs => ?_, rfl⟩
  rcases s.thread_mapThreads f gs with e | e <;> rw [e]
  · exact h _ _
  · rfl

theorem State.hits_clearPoison (s : State) (pa n : Nat) : s.Hits (s.clearPoison pa n) :=
  .foldl (fun s _ => by split; exacts [.of_same rfl rfl, .refl s]) _ s

theorem State.hits_wakeWatch (src : Option Nat) (s : State) (d : Nat) : s.Hits (s.wakeWatch src d) := by
  unfold State.wakeWatch
  split
  · exact .refl s
  · exact .ite (.refl s) (State.Hits.trans (t := { s with watches := mdel s.watches d }) (.of_same rfl rfl) (State.hits_setThread rfl))

theorem State.hits_dropGlobals (s : State) (ls : List Nat) : s.Hits (s.dropGlobals ls) := .ite (.refl s) (.of_same rfl rfl)

theorem State.hits_touched (s : State) (src : Option Nat) (pa n : Nat) : s.Hits (s.touched src pa n) := by
  unfold State.touched
  have h := (s.hits_dropGlobals (linesOf pa n)).trans
    (State.hits_mapThreads (f := fun _ t => t.hitLines (linesOf pa n)) fun _ _ => rfl)
  exact State.Hits.trans (.ite (h.trans (.foldl (fun s _ => s.hits_wakeWatch _ _) _ _)) h) (State.rung_bells _ _ _).hits

theorem State.hits_store (src : Option Nat) (s : State) (pa : Nat) (bs : List Byte) : s.Hits (State.store src s pa bs) :=
  ((State.rung_setBytes bs s pa).hits.trans (State.hits_clearPoison _ _ _)).trans (State.hits_touched _ _ _ _)

theorem State.hits_perform (src : Option Nat) (s : State) (e : Eff) : s.Hits (State.perform src s e) := by
  cases e with
  | write pa bs => exact State.hits_store src s pa bs
  | greg k v => exact .of_same rfl rfl
  | remote pa bs => exact .of_same rfl rfl
  | edge a bs => exact .ite (.refl s) (State.hits_store src s a bs)

theorem State.hits_backInvalidate (s : State) (items : List Nat) : s.Hits (s.backInvalidate items) := .ite (.refl s) (.of_same rfl rfl)

theorem State.hits_sendEdges (s : State) (gs : Nat) (copy : Option Nat) (m : Map Byte) : s.Hits (s.sendEdges gs copy m) := by
  unfold State.sendEdges
  refine .foldl (fun s pc => ?_) _ s
  exact State.Hits.trans
    (t := { s with
      edges := s.edges ++ [⟨s.fresh, gs, (s.thread gs).uid, (s.thread gs).vf, pc, m.filter (fun p => p.1 / 64 == pc), copy⟩]
      fresh := s.fresh + 1 }) (.of_same rfl rfl) (State.hits_setThread rfl)

theorem State.hits_signal (s : State) (src : Option Nat) (items : List Nat) : s.Hits (s.signal src items) := by
  unfold State.signal State.heard
  exact .ite (.refl s) (.ite (.of_same rfl rfl) (.of_same rfl rfl))

theorem State.hits_mbPoll (s : State) : s.Hits s.mbPoll := .ite (.of_same rfl rfl) (.refl s)

theorem State.hits_performAll (s : State) (src : Option Nat) (effs : List Eff) : s.Hits (s.performAll src effs) := by
  unfold State.performAll
  have h1 : s.Hits (effs.foldl (State.perform src) s) := .foldl (fun s e => State.hits_perform src s e) _ s
  refine State.Hits.trans ?_ (State.hits_mbPoll _)
  refine State.Hits.trans (State.Hits.trans ?_ (State.hits_backInvalidate _ (itemsOf effs))) (State.hits_signal _ src (itemsOf effs))
  cases src with
  | some g =>
    have h2 := h1.trans
      (State.Hits.foldl (f := fun (s : State) l => s.cohWrite g l) (fun s _ => (s.cohered_cohWrite _ _).hits) (itemsOf effs) _)
    exact .ite h2 (h2.trans (State.hits_sendEdges _ _ _ _))
  | none => exact h1.trans (State.Hits.foldl (f := State.cohDrop) (fun s _ => (s.cohered_cohDrop _).hits) (itemsOf effs) _)

theorem State.hits_sawShared (s : State) (gs : Nat) : s.Hits (s.sawShared gs) := .ite (.refl s) (.of_same rfl rfl)

theorem State.hits_raise (s : State) (gs level code : Nat) : s.Hits (s.raise gs level code) := by
  unfold State.raise
  exact .ite (State.hits_setThread rfl) (.refl s)

theorem State.hits_postHyper (s : State) (type part vf place : Nat) (body : List Word) : s.Hits (s.postHyper type part vf place body) := by
  unfold State.postHyper
  refine .ite (.refl s) ?_
  exact State.Hits.trans (State.Hits.trans (t := { s with hserial := s.hserial + 1 }) (.of_same rfl rfl) (State.hits_performAll ..))
    (State.hits_raise ..)

theorem State.hits_noteGrant (s : State) (gs kind len level : Nat) : s.Hits (s.noteGrant gs kind len level) := by
  unfold State.noteGrant
  have h1 : s.Hits (if level = 2 then { s with pkgSeq := s.pkgSeq + 1 } else s) := .ite (.of_same rfl rfl) (.refl s)
  extract_lets s1 pol
  have h2 (m : Map Part) (effs : List Eff) : s1.Hits ({ s1 with parts := m }.performAll none effs) :=
    State.Hits.trans (t := { s1 with parts := m }) (.of_same rfl rfl) (State.hits_performAll ..)
  split
  · refine .ite ?_ (.ite (h1.trans (.of_same rfl rfl)) h1)
    exact .ite ((h1.trans (h2 _ _)).trans (State.hits_postHyper ..)) (h1.trans (h2 _ _))
  · exact h1

end Sys2Proof.Machine
end

section
/-!
PROOFS. Control registers as they read and as they are written (R24, R25, R37 to R41, R67, R68, R112 to R114, R235).
-/

namespace Sys2Proof.Machine

/-! What taking a place in the order leaves alone. -/

theorem State.unit_performAll (s : State) (src : Option Nat) (effs : List Eff) : (s.performAll src effs).unit = s.unit := by
  rw [(s.wrote_performAll src effs).same]

theorem State.parts_performAll (s : State) (src : Option Nat) (effs : List Eff) : (s.performAll src effs).parts = s.parts := by
  rw [(s.wrote_performAll src effs).same]

/-- Events, notices and interrupts leave the unit and the partitions. -/
theorem State.postHyper_keeps (s : State) (type part vf place : Nat) (body : List Word) :
    (s.postHyper type part vf place body).unit = s.unit ∧ (s.postHyper type part vf place body).parts = s.parts := by
  unfold State.postHyper State.raise
  dsimp only
  split
  · exact ⟨rfl, rfl⟩
  · split <;> exact ⟨by simp [State.unit_performAll], by simp [State.parts_performAll]⟩

theorem State.unit_noteGrant (s : State) (gs kind len level : Nat) : (s.noteGrant gs kind len level).unit = s.unit := by
  have h1 : (if level = 2 then { s with pkgSeq := s.pkgSeq + 1 } else s : State).unit = s.unit := by split <;> rfl
  unfold State.noteGrant
  extract_lets s1 pol
  split
  · split
    · split
      · exact (State.postHyper_keeps ..).1.trans ((State.unit_performAll ..).trans h1)
      · exact (State.unit_performAll ..).trans h1
    · split <;> exact h1
  · exact h1

theorem State.unit_sawShared (s : State) (gs : Nat) : (s.sawShared gs).unit = s.unit := by
  unfold State.sawShared
  split <;> rfl

/-- The mode of the executing slot stands. -/
def State.SameMode (s t : State) : Prop := t.isDirect = s.isDirect ∧ t.fs = s.fs

theorem State.SameMode.refl (s : State) : s.SameMode s := ⟨rfl, rfl⟩
theorem State.SameMode.trans {s t u : State} (h : s.SameMode t) (g : t.SameMode u) : s.SameMode u :=
  ⟨g.1.trans h.1, g.2.trans h.2⟩

theorem State.Touched.sameMode {s t : State} (h : s.Touched t) : s.SameMode t := ⟨h.isDirect, h.fs⟩

theorem State.Hits.sameMode {s t : State} (h : s.Hits t) (hu : t.unit = s.unit) : s.SameMode t := by
  refine ⟨?_, h.fs⟩
  unfold State.isDirect
  rw [hu, h.th]
  rfl

theorem State.sameMode_of {s t : State} (hu : t.unit = s.unit) (hf : t.fs = s.fs) (h : t.th.directMode = s.th.directMode) :
    s.SameMode t := ⟨by unfold State.isDirect; rw [hu, h], hf⟩

/-- An effect takes its place in the order without a change of mode. -/
theorem leads_performNow (effs : List Eff) : Leads State.SameMode (performNow effs) := by
  refine leads_get_bind fun s => ?_
  split
  · exact leads_error _
  · exact leads_error _
  · refine leads_ite (leads_bind (fun _ _ _ => .trans) (leads_modify fun s => ?_) fun _ => ?_) (leads_error _)
    · refine State.Hits.sameMode
        (((State.hits_noteGrant ..).trans (State.hits_performAll ..)).trans (State.hits_sawShared ..)) ?_
      exact (State.unit_sawShared ..).trans ((State.unit_performAll ..).trans (State.unit_noteGrant ..))
    · exact ⟨fun s a t e => ((touches_countEntries 1).out s a t e).sameMode⟩

theorem State.sameMode_setTh {s : State} {u : Thread} (h : u.directMode = s.th.directMode) : s.SameMode (s.setTh u) :=
  State.sameMode_of rfl rfl (by rw [State.th_setTh, h])

theorem State.sameMode_fresh (s : State) (n : Nat) : s.SameMode { s with fresh := n } := ⟨rfl, rfl⟩

theorem State.sameMode_modLast (s : State) (f : Chunk → Chunk) : s.SameMode (s.setTh (s.th.modLast f)) :=
  (s.touched_modLast f).sameMode

theorem State.sameMode_enter (s : State) (k : Access) (base : Nat) (e : Eff) : s.SameMode (s.enter k base e) := by
  unfold State.enter
  split
  · exact .refl s
  · dsimp only
    refine State.SameMode.trans ?_ (State.sameMode_modLast ..)
    split
    · unfold State.drawn
      split
      · exact s.sameMode_fresh _
      · exact .refl s
    · exact .refl s

theorem State.sameMode_lateLoads (s : State) (n : Nat) (k : Access) (e : Eff) : s.SameMode (s.lateLoads n k e) := by
  unfold State.lateLoads
  dsimp only
  split
  · exact (s.sameMode_fresh _).trans (State.sameMode_setTh rfl)
  · exact .refl s

theorem leads_roomFor {R : State → State → Prop} (hr : ∀ s, R s s) (e : Eff) : Leads R (roomFor e) := by
  refine leads_get_bind fun s => ?_
  dsimp only
  exact leads_ite (leads_pure hr _) (leads_ite (leads_ite (leads_error _) (leads_until hr _)) (leads_ite (leads_error _) (leads_pure hr _)))

theorem leads_forIn {R : State → State → Prop} (hr : ∀ s, R s s) (ht : ∀ s t u, R s t → R t u → R s u) {α β : Type}
    {f : β → α → M (ForInStep α)} (hf : ∀ b a, Leads R (f b a)) : ∀ (l : List β) (a : α), Leads R (forIn l a f)
  | [], _ => by rw [List.forIn_nil]; exact leads_pure hr _
  | b :: l, a => by
    rw [List.forIn_cons]
    refine leads_bind ht (hf b a) fun r => ?_
    cases r with
    | done a => exact leads_pure hr _
    | yield a => exact leads_forIn hr ht hf l a

theorem leads_enterChunk (k : Access) (effs : List Eff) (n : Nat) : Leads State.SameMode (enterChunk k effs n) := by
  have ht : ∀ s t u : State, s.SameMode t → t.SameMode u → s.SameMode u := fun _ _ _ => .trans
  refine leads_get_bind fun s => leads_ite (leads_ite (leads_error _) (leads_error _)) (leads_bind ht ?_ fun _ => ?_)
  · refine leads_forIn .refl ht (fun e _ => leads_bind ht (leads_roomFor .refl e) fun _ => ?_) _ _
    exact leads_bind ht (leads_modify fun s => (s.sameMode_enter ..).trans (State.sameMode_lateLoads ..)) fun _ => leads_pure .refl _
  · exact ⟨fun s a t e => ((touches_modChunk _).out s a t e).sameMode⟩

/-- Effects that count in no counter change no mode. -/
theorem leads_uncounted (k : Access) (effs : List Eff) : Leads State.SameMode (uncounted k effs) := by
  refine leads_get_bind fun s => ?_
  have hrest : Leads State.SameMode (if s.isDirect then (do directOrder; performNow effs)
      else enterChunk k effs (if effs.any Eff.isRemote then 1 else 0)) := by
    refine leads_ite (leads_bind (fun _ _ _ => .trans) ?_ fun _ => leads_performNow _) (leads_enterChunk ..)
    exact ⟨fun s a t e => (touches_directOrder.out s a t e).sameMode⟩
  split
  · exact leads_modify fun s => State.sameMode_setTh rfl
  · exact hrest

/-! Reads. -/

/-- The numbers of the control registers that are not shared (Table 1.5). -/
def listedCsrs : List Nat :=
  [0, 1, 2, 3, 4, 5, 8, 9, 10, 11, 12, 13, 14, 0x10, 0x11, 0x100, 0x101, 0x102, 0x103, 0x104, 0x108, 0x109, 0x10A, 0x10B, 0x110, 0x111,
    0x112, 0x113, 0x114, 0x115]

theorem mem_listedCsrs {s : State} {c : Nat} {v : Word} (h : Spec.csr s c = some v) : c ∈ listedCsrs := by
  by_contra hc
  simp only [listedCsrs, List.mem_cons, List.not_mem_nil, or_false, not_or] at hc
  exact absurd h (by simp [Spec.csr, hc])

theorem csrRead_run {s : State} {c : Nat} {v : Word} (hp : s.unit.pre = none) (h : Spec.csr s c = some v) :
    csrRead c s = .ok (v, s) := by
  have hop : readOpcnt s = .ok (s.th.opcnt, s) := by
    rw [readOpcnt, M.get_bind, State.before_lone hp]
    rfl
  have hc := mem_listedCsrs h
  rw [csrRead, M.get_bind, M.bind_ok (readArch_lone hp)]
  simp only [listedCsrs, List.mem_cons, List.not_mem_nil, or_false] at hc
  rcases hc with rfl | rfl | rfl | rfl | rfl | rfl | rfl | rfl | rfl | rfl | rfl | rfl | rfl | rfl | rfl | rfl | rfl | rfl | rfl | rfl |
    rfl | rfl | rfl | rfl | rfl | rfl | rfl | rfl | rfl | rfl
  case inr.inr.inr.inr.inr.inr.inr.inr.inr.inr.inr.inr.inl =>
    rw [← Option.some.inj h]
    exact hop
  all_goals
    rw [← Option.some.inj h]
    rfl

theorem csrRead_shared {s : State} {n : Nat} (hp : s.unit.pre = none) (hn : n < 16) : csrRead (0x40 + n) s = readG n s := by
  rw [csrRead, M.get_bind, M.bind_ok (readArch_lone hp)]
  interval_cases n <;> rfl

theorem readG_chunk {s t : State} {n : Nat} (hd : s.isDirect = false) (h : noteReads [gItem (16 * coreOf s.fs + n)] s = .ok ((), t)) :
    readG n s = .ok (s.viewGreg s.fs (16 * coreOf s.fs + n), t.seenShared s.fs (16 * coreOf s.fs + n)) := by
  have hf : t.fs = s.fs := ((touches_modChunk _).out _ _ _ h).fs
  rw [readG, M.get_bind]
  simp only [hd]
  rw [if_neg Bool.false_ne_true, M.bind_ok h, ← hf]
  rfl

/-- The value that a direct-mode read picks is the latest or one before a write it misses (R25). -/
theorem pickShared_mem (ws : List GWrite) : ∀ (i : Nat) (v : Word) (n : Nat),
    (pickShared ws i v n).1 = v ∨ ∃ w ∈ ws, (pickShared ws i v n).1 = w.old := by
  induction ws with
  | nil => exact fun i v n => .inl rfl
  | cons w rest ih =>
    intro i v n
    unfold pickShared
    split
    · rcases ih i w.old (n + 1) with h | ⟨x, hx, h⟩
      · exact .inr ⟨w, by simp, h⟩
      · exact .inr ⟨x, by simp [hx], h⟩
    · exact .inl rfl

theorem State.readShared_frame (s : State) (gs k : Nat) :
    (s.readShared gs k).2.rf = s.rf ∧ (s.readShared gs k).2.gregs = s.gregs ∧ (s.readShared gs k).2.mem = s.mem := by
  unfold State.readShared
  dsimp only
  split <;> exact ⟨rfl, rfl, rfl⟩

theorem State.readShared_value (s : State) (gs k : Nat) :
    (s.readShared gs k).1 = mgetD s.gregs k 0 ∨
      ∃ w ∈ mgetD s.gregHist k [], (s.readShared gs k).1 = w.old ∧ s.cycle < w.at_ + 4 ∧ gs ∉ w.seen := by
  have hv : (s.readShared gs k).1 = (pickShared (s.openWrites gs k) s.fresh (mgetD s.gregs k 0) 0).1 := by
    unfold State.readShared
    dsimp only
    split <;> rfl
  rw [hv]
  rcases pickShared_mem (s.openWrites gs k) s.fresh (mgetD s.gregs k 0) 0 with h | ⟨w, hw, h⟩
  · exact .inl h
  · have hopen := List.mem_takeWhile_imp hw
    simp only [Bool.and_eq_true, decide_eq_true_eq, Bool.not_eq_true'] at hopen
    exact .inr ⟨w, (List.takeWhile_sublist _).subset hw, h, hopen.1, by simpa using hopen.2⟩

theorem readG_direct {s : State} {n : Nat} (hd : s.isDirect = true) :
    readG n s = .ok ((s.readShared s.fs (16 * coreOf s.fs + n)).1, (s.readShared s.fs (16 * coreOf s.fs + n)).2) := by
  rw [readG, M.get_bind]
  simp only [hd]
  rw [if_pos trivial]
  rfl

/-- `rdc` and `csrr` write what they read. -/
theorem csr_completes {i : Instr} {c : BitVec 10} {d : BitVec 7} {s s1 t : State} {v : Word} (hi : i = .rdc c d ∨ i = .csrr c d)
    (ho : s.Opens i s1) (hr : csrRead c.toNat s1 = .ok (v, t)) : Spec.Completes i s (t.setX d.toNat v) := by
  rcases hi with rfl | rfl
  · exact (exec_rdc ..).trans (ho.runs ((M.bind_ok hr).trans (dstC_run ..)))
  · exact (exec_csrr ..).trans (ho.runs ((M.bind_ok hr).trans (dstC_run ..)))

theorem controlRegisterReads : Spec.ControlRegisterReads := by
  refine ⟨fun c d s s1 v ho hp h => csr_completes (.inl rfl) ho (csrRead_run hp h),
    fun c d s s1 v ho hp h => csr_completes (.inr rfl) ho (csrRead_run hp h), ?_⟩
  intro i c d s s1 n hi ho hp hn hc k
  have hr : csrRead c.toNat s1 = readG n s1 := by rw [hc, csrRead_shared hp hn]
  refine ⟨fun hd => ?_, fun hd => ?_⟩
  · obtain ⟨t, ht⟩ : ∃ t, noteReads [gItem k] s1 = .ok ((), t) := ⟨_, rfl⟩
    exact ⟨t, ht, csr_completes hi ho (hr.trans (readG_chunk hd ht))⟩
  · obtain ⟨h1, h2, h3⟩ := s1.readShared_frame s1.fs k
    exact ⟨_, _, csr_completes hi ho (hr.trans (readG_direct hd)), h1, h2, h3, s1.readShared_value s1.fs k⟩

/-! Writes. -/

/-- The bits of a field, at their place. -/
theorem field_eq_and (v : Word) (lo n : Nat) :
    BitVec.ofNat 64 (v.toNat / 2 ^ lo % 2 ^ n * 2 ^ lo) = v &&& BitVec.ofNat 64 ((2 ^ n - 1) * 2 ^ lo) := by
  apply BitVec.eq_of_getLsbD_eq
  intro i hi
  simp only [BitVec.getLsbD_and, BitVec.getLsbD_ofNat, Nat.testBit_mul_two_pow, Nat.testBit_mod_two_pow, Nat.testBit_div_two_pow,
    Nat.testBit_two_pow_sub_one, hi, decide_true, Bool.true_and]
  by_cases h : lo ≤ i
  · rw [Nat.sub_add_cancel h]
    simp [h, BitVec.getLsbD, Bool.and_comm]
  · simp [h]

theorem and_add_and_of_disjoint (v : Word) {m n : Word} (h : m &&& n = 0) : (v &&& m) + (v &&& n) = v &&& (m ||| n) := by
  rw [BitVec.add_eq_or_of_and_eq_zero]
  · apply BitVec.eq_of_getLsbD_eq
    intro i _
    simp only [BitVec.getLsbD_or, BitVec.getLsbD_and, Bool.and_or_distrib_left]
  · apply BitVec.eq_of_getLsbD_eq
    intro i _
    have hi : m.getLsbD i = true → n.getLsbD i = false := by
      have := congrArg (fun w => w.getLsbD i) h
      simpa using this
    simp only [BitVec.getLsbD_and, BitVec.getLsbD_zero]
    cases hm : m.getLsbD i <;> simp [hm, hi]

theorem fctlWrite_eq_and (v : Word) : fctlWrite v = v &&& 0x1F27 := by
  have h0 : bits v 2 0 = v.toNat / 2 ^ 0 % 2 ^ 3 * 2 ^ 0 := by simp [bits]
  have h5 : bits v 5 5 * 32 = v.toNat / 2 ^ 5 % 2 ^ 1 * 2 ^ 5 := by simp [bits]
  have h8 : bits v 12 8 * 256 = v.toNat / 2 ^ 8 % 2 ^ 5 * 2 ^ 8 := by simp [bits]
  rw [fctlWrite, h0, h5, h8, BitVec.ofNat_add, BitVec.ofNat_add, field_eq_and, field_eq_and, field_eq_and,
    and_add_and_of_disjoint _ (by decide), and_add_and_of_disjoint _ (by decide)]
  rfl

theorem statusMask_eq (level : Nat) : statusMask level =
    if level = 0 then 0 else if level = 1 then 0x398000 else if level = 2 then 0x1F98000 else 0xFF98000 := by
  rcases level with _ | _ | _ | n
  · rfl
  · rfl
  · rfl
  · simp [statusMask]

theorem csrWrite_run {s t : State} {c : Nat} {v : Word} (h : Spec.csrWritten s c v = some t) : csrWrite c v s = .ok ((), t) := by
  unfold Spec.csrWritten at h
  extract_lets th bank word at h
  split at h
  case h_1 =>
    split at h
    · obtain rfl := Option.some.inj h
      rename_i hv
      rw [csrWrite, M.get_bind]
      show (M.require (fctlOk v) .illegalOperand >>= fun _ => modArch (fun a => { a with fctl := fctlWrite v })) s = _
      rw [fctlOk, bits_zero, decide_eq_true (show v.toNat % 2 ^ (2 + 1) ≤ 4 from hv), fctlWrite_eq_and]
      rfl
    · exact absurd h (by simp)
  case h_3 =>
    obtain rfl := Option.some.inj h
    rw [csrWrite, M.get_bind]
    show modArch (fun a => { a with status := (a.status &&& ~~~(statusMask s.th.level)) ||| (v &&& statusMask s.th.level) }) s = _
    rw [statusMask_eq]
    rfl
  case h_9 =>
    split at h
    · obtain rfl := Option.some.inj h
      rename_i hv
      rw [csrWrite, M.get_bind]
      show (M.require (!s.th.det && decide (256 ≤ v.toNat ∧ v.toNat ≤ 8192)) .illegalOperand >>= fun _ =>
        modTh (fun t => { t with chunkmax := v.toNat })) s = _
      rw [show s.th.det = false from hv.1, decide_eq_true hv.2]
      rfl
    · exact absurd h (by simp)
  case h_10 => exact absurd h (by simp)
  all_goals
    obtain rfl := Option.some.inj h
    rfl

/-- FCTL.RM and CHUNKMAX outside their ranges are refused (R38, R67). -/
theorem csrWrite_refused {s : State} {c : Nat} {v : Word} (hc : c = 0x10 ∨ c = 0x114) (h : Spec.csrWritten s c v = none) :
    csrWrite c v s = .error (.trap { cause := .illegalOperand }) := by
  rcases hc with rfl | rfl
  · have hv : ¬v.toNat % 2 ^ (2 + 1) ≤ 4 := fun hv => by
      rw [Spec.csrWritten, if_pos (show v.toNat % 8 ≤ 4 from hv)] at h
      exact absurd h (by simp)
    rw [csrWrite, M.get_bind]
    show (M.require (fctlOk v) .illegalOperand >>= fun _ => modArch (fun a => { a with fctl := fctlWrite v })) s = _
    rw [fctlOk, bits_zero, decide_eq_false hv]
    rfl
  · have hv : (!s.th.det && decide (256 ≤ v.toNat ∧ v.toNat ≤ 8192)) = false := by
      by_contra hne
      have hok : s.th.det = false ∧ 256 ≤ v.toNat ∧ v.toNat ≤ 8192 := by simpa using hne
      rw [Spec.csrWritten, if_pos hok] at h
      exact absurd h (by simp)
    rw [csrWrite, M.get_bind]
    show (M.require (!s.th.det && decide (256 ≤ v.toNat ∧ v.toNat ≤ 8192)) .illegalOperand >>= fun _ =>
      modTh (fun t => { t with chunkmax := v.toNat })) s = _
    rw [hv]
    rfl

theorem csrWrite_shared {s : State} {n : Nat} {v : Word} (hn : n < 16) : csrWrite (0x40 + n) v s = writeG n v s := by
  rw [csrWrite, M.get_bind]
  interval_cases n <;> rfl

/-- A shared register's write takes its place; outside a chunk it is remembered (R25). -/
theorem writeG_run {s t : State} {n : Nat} {v : Word} (h : uncounted .scalar [.greg (16 * coreOf s.fs + n) v] s = .ok ((), t)) :
    (t.isDirect = false → writeG n v s = .ok ((), t)) ∧ (t.isDirect = true → ∃ g, writeG n v s = .ok ((), { t with gregHist := g })) := by
  obtain ⟨hd, -⟩ := (leads_uncounted _ _).out _ _ _ h
  rw [hd, writeG, M.get_bind]
  rw [M.bind_ok h]
  constructor <;> intro hs <;> rw [hs]
  · rfl
  · exact ⟨_, rfl⟩

theorem csrw_completes {c : BitVec 10} {a : BitVec 7} {s s1 t : State} (ho : s.Opens (.csrw c a) s1) (hp : s1.unit.pre = none)
    (hw : csrWrite c.toNat (s1.getX a.toNat) s1 = .ok ((), t)) : Spec.Completes (.csrw c a) s t :=
  (exec_csrw ..).trans (ho.runs ((M.bind_ok (srcC_lone hp a)).trans hw))

theorem csrw_raises {c : BitVec 10} {a : BitVec 7} {s s1 : State} {t : Trap} (ho : s.Opens (.csrw c a) s1) (hp : s1.unit.pre = none)
    (hw : csrWrite c.toNat (s1.getX a.toNat) s1 = .error (.trap t)) : Spec.Raises (.csrw c a) s s1 t :=
  (exec_csrw ..).trans (ho.traps ((M.bind_ok (srcC_lone hp a)).trans hw))

/-! POLICY (R235, R260 to R263). -/

theorem bits_policy (v : Word) : bits v 2 1 = v.toNat % 8 / 2 := by
  simp only [bits]
  omega

theorem writePolicy_refused {s : State} {v : Word} (h : v.toNat % 8 / 2 = 3) :
    writePolicy v s = .error (.trap { cause := .illegalOperand }) := by
  rw [writePolicy, bits_policy, h]
  rfl

theorem writePolicy_run {s : State} {v : Word} {pid : Nat} {p : Part} (hpid : s.partOf s.fs = some pid) (hp : mget s.parts pid = some p)
    (h : v.toNat % 8 / 2 ≠ 3) : writePolicy v s = .ok ((), s.setLog pid p.logBase p.logLen (v.toNat % 8)) := by
  have hrec : s.partRec s.fs = some p := by rw [State.partRec, hpid]; exact hp
  have hb : (bits v 2 1 != 3) = true := by rw [bits_policy]; simpa using h
  rw [writePolicy, hb, M.require, if_pos rfl, pure_bind]
  show Except.ok ((), match s.partOf s.fs, s.partRec s.fs with
    | some pid, some p => s.setLog pid p.logBase p.logLen (bits v 2 0)
    | _, _ => s) = _
  rw [hpid, hrec, bits_zero]
  rfl

/-- A partition under a written POLICY, its log region unchanged. -/
def Part.withPolicy (p : Part) (policy : Nat) : Part := { p with policy := policy, stopped := p.stopped && decide (policy / 2 = 2) }

theorem State.setLog_own {s : State} {pid : Nat} {p : Part} (hp : mget s.parts pid = some p) (policy : Nat) :
    s.setLog pid p.logBase p.logLen policy =
      if (p.withPolicy policy).logFull && !p.logFull then
        { s with parts := mput s.parts pid (p.withPolicy policy) }.postHyper 11 pid 0 0 []
      else { s with parts := mput s.parts pid (p.withPolicy policy) } := by
  unfold State.setLog Part.withPolicy
  simp [hp]

/-- A written POLICY keeps the log region and the descriptor. -/
theorem State.setLog_policy {s : State} {pid : Nat} {p : Part} (hp : mget s.parts pid = some p) (policy : Nat) :
    ∃ q : Part, q.policy = policy ∧ q.logBase = p.logBase ∧ q.logLen = p.logLen ∧ q.desc = p.desc ∧
      mget (s.setLog pid p.logBase p.logLen policy).parts pid = some q ∧
      (policy / 2 ≠ 1 → s.setLog pid p.logBase p.logLen policy = { s with parts := mput s.parts pid q }) := by
  rw [State.setLog_own hp]
  refine ⟨p.withPolicy policy, rfl, rfl, rfl, rfl, ?_, fun hpol => if_neg (by simp [Part.logFull, Part.withPolicy, hpol])⟩
  have hget (s : State) : mget (mput s.parts pid (p.withPolicy policy)) pid = some (p.withPolicy policy) := mget_mput_self ..
  split
  · rw [(State.postHyper_keeps ..).2]
    exact hget s
  · exact hget s

theorem controlRegisterWrites : Spec.ControlRegisterWrites := by
  refine ⟨fun c a s s1 t ho hp h => csrw_completes ho hp (csrWrite_run h),
    fun c a s s1 ho hp hc h => csrw_raises ho hp (csrWrite_refused hc h), ?shared, ?policy⟩
  case shared =>
    intro c a s s1 t n ho hp hn hc h
    obtain ⟨hchunk, hdirect⟩ := writeG_run h
    have hw : csrWrite c.toNat (s1.getX a.toNat) s1 = writeG n (s1.getX a.toNat) s1 := by rw [hc, csrWrite_shared hn]
    refine ⟨fun hd => csrw_completes ho hp (hw.trans (hchunk hd)), fun hd => ?_⟩
    obtain ⟨g, hg⟩ := hdirect hd
    exact ⟨g, csrw_completes ho hp (hw.trans hg)⟩
  case policy =>
    intro c a s s1 pid p ho hp hc hpid hpart v
    have hw : csrWrite c.toNat (s1.getX a.toNat) s1 = writePolicy (s1.getX a.toNat) s1 := by rw [hc]; rfl
    refine ⟨fun h => csrw_raises ho hp (hw.trans (writePolicy_refused h)), fun h => ?_⟩
    obtain ⟨q, h1, h2, h3, h4, h5, h6⟩ := State.setLog_policy hpart v
    exact ⟨q, _, h1, h2, h3, h4, h5, h6, csrw_completes ho hp (hw.trans (writePolicy_run hpid hpart h))⟩

end Sys2Proof.Machine

namespace Sys2Proof
open Machine

/-- Settles O12: what each control register reads as, and what a write of it leaves. -/
theorem controlRegisterAccess : Obligations.ControlRegisterAccess := ⟨controlRegisterReads, controlRegisterWrites⟩

end Sys2Proof
end

section
/-!
PROOFS. Scalar and multiple loads and stores: addresses, the parts of a load, counters, and the chunk that holds the stores
(R26, R27, R116 to R124, R163, R240).
-/

namespace Sys2Proof.Machine

/-- What a word that has opened answers when its own effect is held. -/
theorem State.Opens.holds {s s1 : State} {i : Instr} (h : s.Opens i s1) {body : M Unit} {w : Hold} (hb : body s1 = .error (.hold w)) :
    issue i body s = .next ((s.endsBefore (s.standsOutside [i]) (isCsrw i) 1).holdUnit w) := by
  simp [issue, h.role, State.runUnit, h.undue, h.begins, h.checks, h.due, hb, State.stopUnit]

/-! Addresses (R116). -/

theorem signExtend_shiftLeft {w : Nat} (o : BitVec w) (n : Nat) : o.signExtend 64 <<< n = BitVec.ofInt 64 (o.toInt * 2 ^ n) := by
  rw [shiftLeft_eq_wordMul, BitVec.ofInt_mul, ← BitVec.ofInt_natCast]
  push_cast
  rfl

theorem eaOff_run {s : State} (hp : s.unit.pre = none) (a : BitVec 7) (o : BitVec 8) (z : Nat) :
    eaOff a o z s = .ok (Spec.addr s a (o.toInt * 2 ^ z), s) := by
  rw [eaOff, M.bind_ok (srcC_lone hp a), signExtend_shiftLeft]
  rfl

theorem eaIndex_run {s : State} (hp : s.unit.pre = none) (a b : BitVec 7) (x : BitVec 1) (z : Nat) :
    eaIndex a b x z s = .ok (Spec.indexed s a b (if x = 1 then 0 else z), s) := by
  rw [eaIndex, M.bind_ok (srcC_lone hp a), M.bind_ok (srcC_lone hp b), shiftLeft_eq_mul]
  rfl

theorem extendBytes_eq (sx : Bool) (n v : Nat) : extendBytes sx n v = Spec.extended sx (8 * n) v := by
  cases sx <;> rfl

/-! The views of a thread. -/

/-- What an access of a slot's chunk sees depends on its chunks, its mode, the free values and memory alone. -/
theorem State.loadView_congr {s t : State} {gs : Nat} (hc : (t.thread gs).chunks = (s.thread gs).chunks)
    (hd : (t.thread gs).det = (s.thread gs).det) (hm : (t.thread gs).directMode = (s.thread gs).directMode) (hf : t.fresh = s.fresh)
    (hmem : t.mem = s.mem) (hpeer : t.peer = s.peer) (k : Access) (pa n : Nat) : t.loadView gs k pa n = s.loadView gs k pa n := by
  have hb : ∀ q, t.byteAt q = s.byteAt q := State.byteAt_congr hmem hpeer
  simp only [State.loadView, State.viewThrough, State.viewByte, hb, State.seenWrites, State.passed, State.enteredOf, Thread.ownWrites,
    hc, hd, hm, hf]

theorem State.loadView_setTh (s : State) {u : Thread} (hc : u.chunks = s.th.chunks) (hd : u.det = s.th.det)
    (hm : u.directMode = s.th.directMode) (k : Access) (pa n : Nat) : (s.setTh u).loadView s.fs k pa n = s.loadView s.fs k pa n := by
  have hth : (s.setTh u).thread s.fs = u := s.th_setTh u
  apply State.loadView_congr
  · rw [hth]
    exact hc
  · rw [hth]
    exact hd
  · rw [hth]
    exact hm
  all_goals rfl

/-- An access that may pass no write that touches it passes none. -/
theorem passCount_eq_zero {base : Nat} {k : Access} {pa n : Nat} : ∀ {l : List Entry} (seed : Nat),
    (∀ e ∈ l, e.touches pa n = true → e.free k = false) → passCount base k pa n l seed = 0
  | [], _, _ => rfl
  | e :: rest, seed, h => by
    have hrest := passCount_eq_zero (l := rest) (base := base) seed fun x hx => h x (by simp [hx])
    unfold passCount
    split
    · rw [h e (by simp) ‹_›]
      simp
    · rw [hrest]

theorem State.loadView_of_passed {s : State} {gs : Nat} {k : Access} {pa n : Nat} (h : s.passed gs (s.enteredOf gs) k pa n = 0) :
    s.loadView gs k pa n = s.viewNat gs pa n := by
  rw [State.loadView, State.seenWrites, h, List.drop_zero]
  rfl

theorem loadView_in_order (s : State) (gs pa n : Nat)
    (h : ∀ c, (s.thread gs).chunks.getLast? = some c → ∀ e ∈ c.log, e.touches pa n = true →
      e.by_ = .scalar ∨ (∃ b, e.by_ = .atomic b) ∨ e.fixed = true) : s.loadView gs .scalar pa n = s.viewNat gs pa n := by
  apply State.loadView_of_passed
  unfold State.passed
  dsimp only
  split
  · rfl
  · split
    · rename_i c hc
      split
      · rfl
      · refine passCount_eq_zero _ fun e he ht => ?_
        rcases h c hc e (List.mem_reverse.mp he) ht with hb | ⟨b, hb⟩ | hb <;> simp [Entry.free, hb, Access.inOrder]
    · rfl

theorem loadView_direct (s : State) (gs pa n : Nat) (k : Access) (h : (s.thread gs).det = true ∨ (s.thread gs).directMode = true) :
    s.loadView gs k pa n = s.viewNat gs pa n := by
  apply State.loadView_of_passed
  unfold State.passed
  rw [if_pos (by simpa using h)]

/-! The parts of a load. -/

theorem viewed_lone {s : State} (hp : s.unit.pre = none) (k : Access) (pa n : Nat) :
    ∃ f, viewed k pa n s = .ok (s.loadView s.fs k pa n, { s with fresh := f }) := by
  refine ⟨(s.before.drawn s.fs k pa n).fresh, ?_⟩
  rw [viewed, M.get_bind]
  show Except.ok (s.before.loadView s.fs k pa n, ({ s with fresh := (s.before.drawn s.fs k pa n).fresh } : State)) = _
  rw [State.before_lone hp]

theorem countReads_run (n : Nat) (s : State) : countReads n s = .ok ((),
    if s.th.directMode && !s.unit.outside && decide (0 < n) then
      s.setTh { s.th with ent := if s.th.det then s.th.ent + 1 else s.th.ent, unread := n - 1 }
    else s) := by
  rw [countReads, M.get_bind]
  split <;> rfl

theorem poisonCheck_pass {s : State} {k : Access} {pa n : Nat} {acc : Acc} {va : Word} (hp : s.unit.pre = none)
    (h : s.loadPoison s.fs k pa n = false) : poisonCheck k pa n acc va s = .ok ((), s) := by
  rw [poisonCheck, M.get_bind, State.before_lone hp, h]
  rfl

theorem State.isDirect_setTh (s : State) {u : Thread} (h : u.directMode = s.th.directMode) : (s.setTh u).isDirect = s.isDirect :=
  (State.sameMode_setTh h).1

theorem countLoad_run {s : State} (ds : List Dest) (h : s.th.loads.length < 63) : countLoad ds s = .ok ((), Spec.countedLoad s ds) := by
  rw [countLoad, M.get_bind, decide_eq_true h, M.until_, if_pos rfl, pure_bind, M.bind_ok (modTh_run ..)]
  show Except.ok ((), if (s.setTh { s.th with loads := s.th.loads ++ [ds] }).isDirect then _ else _) = _
  have hd : (s.setTh { s.th with loads := s.th.loads ++ [ds] }).isDirect = s.isDirect := by
    apply State.isDirect_setTh
    rfl
  rw [hd]
  rfl

theorem countLoad_hold {s : State} (ds : List Dest) (h : 63 ≤ s.th.loads.length) : countLoad ds s = .error (.hold .retry) := by
  rw [countLoad, M.get_bind, decide_eq_false (by omega)]
  rfl

theorem countIn_run (s : State) (singles : List (List Eff)) : countIn singles s = .ok ((), Spec.counted s singles) := by
  rw [countIn]
  show Except.ok ((), if (s.setTh { s.th with stores := s.th.stores ++ [singles], arrivals := s.th.arrivals ++ [s.cycle] }).isDirect
    then _ else _) = _
  have hd : (s.setTh { s.th with stores := s.th.stores ++ [singles], arrivals := s.th.arrivals ++ [s.cycle] }).isDirect = s.isDirect := by
    apply State.isDirect_setTh
    rfl
  rw [hd]
  rfl

theorem Spec.countedLoad_frame (s : State) (ds : List Dest) :
    (Spec.countedLoad s ds).th.loads = s.th.loads ++ [ds] ∧ (Spec.countedLoad s ds).th.stores = s.th.stores ∧
    (Spec.countedLoad s ds).arch = s.arch ∧ ∃ ts, Spec.countedLoad s ds = { s with threads := ts } := by
  unfold Spec.countedLoad
  dsimp only
  split
  · exact ⟨by rw [State.th_setTh], by rw [State.th_setTh], by simp [State.arch], _, rfl⟩
  · obtain ⟨cs, h⟩ := (s.setTh { s.th with loads := s.th.loads ++ [ds] }).th.modLast_shape (fun c => { c with lcn := c.lcn + 1 })
    rw [h]
    exact ⟨by simp, by simp, by simp [State.arch], _, rfl⟩

/-- No byte of memory changes. -/
def State.SameBytes (s t : State) : Prop := t.mem = s.mem ∧ t.peer = s.peer

theorem State.SameBytes.refl (s : State) : s.SameBytes s := ⟨rfl, rfl⟩
theorem State.SameBytes.trans {s t u : State} (h : s.SameBytes t) (g : t.SameBytes u) : s.SameBytes u :=
  ⟨g.1.trans h.1, g.2.trans h.2⟩

theorem State.Cohered.sameBytes {s t : State} (h : s.Cohered t) : s.SameBytes t := by
  rw [h.same]
  exact ⟨rfl, rfl⟩

/-- The die asks for lines of no host page without an access counter (R271, R351). -/
theorem State.sameBytes_askLines (l : List Nat) (hl : ∀ x ∈ l, isHost (128 * x) = false) (s : State) :
    s.SameBytes (l.foldl (fun (s : State) l => (s.countFetch s.th.vf l).cohAsk (dieOf s.fs) l (s.partOf s.fs)) s) := by
  induction l generalizing s with
  | nil => exact .refl s
  | cons x l ih =>
    have hx : s.countFetch s.th.vf x = s := by simp [State.countFetch, hl x (by simp)]
    rw [List.foldl_cons, hx]
    exact (s.cohered_cohAsk _ _ _).sameBytes.trans (ih (fun y hy => hl y (by simp [hy])) _)

/-- Lines that no host page holds are read without a change of memory. -/
theorem leads_readLines_bytes {ls : List Nat} (hh : ∀ l ∈ ls, isHost (128 * l) = false) : Leads State.SameBytes (readLines ls) := by
  have ht : ∀ s t u : State, s.SameBytes t → t.SameBytes u → s.SameBytes u := fun _ _ _ => .trans
  refine leads_bind ht (leads_modify fun s => ?_) fun _ => leads_bind ht (leads_modify fun s => ?_) fun _ => leads_modify fun s => ?_
  · exact State.sameBytes_askLines _ (fun x hx => hh x (List.mem_of_mem_filter hx)) s
  · unfold State.sawShared
    split
    · split <;> exact ⟨rfl, rfl⟩
    · exact .refl s
  · split
    · exact .refl s
    · exact ⟨rfl, rfl⟩

/-! Scalar loads (R121 to R124). -/

/-- A scalar load whose address is checked and whose lines are read. -/
theorem memRead_run {s s2 : State} {va : Word} {n pa : Nat} (hp : s.unit.pre = none) (h : Spec.Readable s va n pa s2) :
    ∃ t, memRead va n s = .ok ((pa, s2.loadView s2.fs .scalar pa n), t) ∧ s2.Touched t ∧ t.mem = s2.mem ∧ t.peer = s2.peer ∧
      t.arch = s2.arch := by
  obtain ⟨ho, s1, hc, hpois, hr⟩ := h
  have h1 := (touches_checkAccess ..).out _ _ _ hc
  have hp1 : s1.unit.pre = none := h1.unit ▸ hp
  have h2 := (touches_readLines _).out _ _ _ hr
  have hp2 : s2.unit.pre = none := h2.unit ▸ hp1
  obtain ⟨s3, hs3, h3⟩ : ∃ s3, countReads 1 s2 = .ok ((), s3) ∧ (s3 = s2 ∨ ∃ e u, s3 = s2.setTh { s2.th with ent := e, unread := u }) := by
    rw [countReads_run]
    split
    · exact ⟨_, rfl, .inr ⟨_, _, rfl⟩⟩
    · exact ⟨_, rfl, .inl rfl⟩
  have hview : s3.loadView s3.fs .scalar pa n = s2.loadView s2.fs .scalar pa n ∧ s2.Touched s3 ∧ s3.mem = s2.mem ∧ s3.peer = s2.peer ∧
      s3.arch = s2.arch ∧ s3.unit.pre = none := by
    rcases h3 with rfl | ⟨e, u, rfl⟩
    · exact ⟨rfl, .refl _, rfl, rfl, rfl, hp2⟩
    · refine ⟨?_, State.touched_setTh rfl, rfl, rfl, ?_, hp2⟩
      · apply State.loadView_setTh <;> rfl
      · rw [State.arch, State.th_setTh]
        rfl
  obtain ⟨hval, ht3, hm3, hpr3, ha3, hp3⟩ := hview
  obtain ⟨f, hv⟩ := viewed_lone hp3 .scalar pa n
  refine ⟨{ s3 with fresh := f }, ?_, ht3.trans (.of_same rfl rfl), hm3, hpr3, ha3⟩
  rw [memRead, M.bind_ok (directOrder_run ho), M.bind_ok hc, M.bind_ok (poisonCheck_pass hp1 hpois), M.bind_ok hr, M.bind_ok hs3,
    M.bind_ok hv, hval]
  rfl

/-- `ld`, `ldz`, `ldx` and `ldk`, once their address is known. -/
theorem loads_of_addr {i : Instr} {s s1 : State} {sx : Bool} {va : Word} {n : Nat} {d : BitVec 7} {m : M Word} (ho : s.Opens i s1)
    (hp : s1.unit.pre = none) (he : exec i s = issue i (m >>= fun p => loadTo sx p n d) s) (hm : m s1 = .ok (va, s1)) :
    Spec.Loads i s s1 sx va n d.toNat := by
  intro pa s2 h
  obtain ⟨t, hr, ht, hmem, hpeer, harch⟩ := memRead_run hp h
  have hrun (r : Except Stop (Unit × State)) (hl : countLoad [.x d.toNat (extendBytes sx n (s2.loadView s2.fs .scalar pa n)) (some ⟨pa, n, sx⟩)] t = r) :
      (m >>= fun p => loadTo sx p n d) s1 = r := by
    rw [M.bind_ok hm, loadTo, M.bind_ok hr]
    exact hl
  obtain ⟨hord, sc, hc, hpois, hlines⟩ := h
  have h12 := ((touches_checkAccess ..).out _ _ _ hc).trans ((touches_readLines _).out _ _ _ hlines)
  have h1t := h12.trans ht
  refine ⟨fun hfull => he.trans (ho.holds (hrun _ (countLoad_hold _ (by rw [ht.loads]; exact hfull)))), fun hroom => ?_⟩
  have hd := countLoad_run [.x d.toNat (extendBytes sx n (s2.loadView s2.fs .scalar pa n)) (some ⟨pa, n, sx⟩)]
    (s := t) (by rw [ht.loads]; exact hroom)
  obtain ⟨hloads, hstores, ha, ts, hshape⟩ := Spec.countedLoad_frame t
    [.x d.toNat (extendBytes sx n (s2.loadView s2.fs .scalar pa n)) (some ⟨pa, n, sx⟩)]
  refine ⟨_, he.trans (ho.runs (hrun _ hd)), ?_, ?_, ?_, ha.trans harch, ?_, ?_, ?_, ?_⟩
  · rw [hloads, ht.loads, extendBytes_eq]
  · rw [hstores, h1t.stores]
  · rw [hshape]
    exact h1t.rf
  · rw [hshape]
    exact h1t.gregs
  · rw [hshape]
    exact h1t.unit
  · rw [hshape]
    exact hmem
  · intro s3 hc3 hhost q
    obtain rfl : sc = s3 := by
      rw [hc] at hc3
      injection hc3 with h
      injection h
    obtain ⟨hm2, hp2⟩ := (leads_readLines_bytes hhost).out _ _ _ hlines
    rw [hshape]
    exact State.byteAt_congr (hmem.trans hm2) (hpeer.trans hp2) q

/-! A word whose unit still holds the state before a pair. -/

/-- A completed unit changes no counted load. -/
theorem State.loads_finishUnit (s : State) (n : Nat) (after : Bool) : (s.finishUnit n after).th.loads = s.th.loads := by
  rw [State.finishUnit_eq]
  split
  · rfl
  · split
    · rw [State.th_setTh]
    · rw [State.th_setTh]
      unfold State.finished
      split
      · split <;> rfl
      · split
        · split
          · unfold Thread.endFallback Thread.taskDirect
            split <;> rfl
          · rfl
        · obtain ⟨cs, h⟩ := (s.moved n).counted_shape n after
          rw [h]
          rfl

theorem State.loads_done {s : State} (h : s.unit.target = none) (i : Instr) : (s.done i).th.loads = s.th.loads := by
  rw [State.done_th h, State.loads_finishUnit]

/-- The hypervisor's first thread, untranslated and in direct mode, about to execute a lone word at address 0, with a byte at 0x1000; its unit
context also records a state before it, whose memory is empty. -/
def staleUnit : State :=
  let s : State := { State.reset.withFetchWord 32 0 with fs := fetchSlot, agenda := [], unit := { UnitCtx.at_ 0 with next := 4 } }
  let s1 := s.setBytes 0x1000 [0x80]
  { s1 with unit := { s1.unit with pre := some { s1.preOf with mem := [] } } }

/-- The load of 0x1000 opens and its lines can be read, but it queues the value of the recorded memory, not of the present one. -/
def staleLoads : Bool :=
  match checkAccess (Spec.target staleUnit 0x400) 8 8 .read .load staleUnit with
  | .ok (pa, s1) =>
    !s1.loadPoison s1.fs .scalar pa 8 &&
    match readLines (linesOf pa 8) s1 with
    | .ok (_, s2) =>
      decide (s2.th.loads.length < 63) &&
      match exec (.ldk 0x400#17 9#7) staleUnit with
      | .next t => t.th.loads != s2.th.loads ++ [[.x 9 (Spec.extended true 64 (s2.loadView s2.fs .scalar pa 8)) (some ⟨pa, 8, true⟩)]]
      | _ => false
    | .error _ => false
  | .error _ => false

theorem staleLoads_eq_true : staleLoads = true := by decide +kernel

theorem staleUnit_opens : staleUnit.Opens (.ldk 0x400#17 9#7) staleUnit where
  role := rfl
  undue := by decide +kernel
  begins := by decide +kernel
  checks := by decide +kernel
  due := by decide +kernel

end Sys2Proof.Machine

namespace Sys2Proof
open Machine

/-- The clauses of O13 whose words read no state before their unit: all but that of `ldk` (R118, R121, R122). -/
theorem scalarLoads_of_lone :
    (∀ (o : BitVec 8) (z : BitVec 2) (a d : BitVec 7) (s s1 : State), s.Opens (.ld o z a d) s1 → s1.unit.pre = none →
      Spec.Loads (.ld o z a d) s s1 true (Spec.addr s1 a (o.toInt * 2 ^ z.toNat)) (2 ^ z.toNat) d.toNat) ∧
    (∀ (o : BitVec 8) (z : BitVec 2) (a d : BitVec 7) (s s1 : State), s.Opens (.ldz o z a d) s1 → s1.unit.pre = none →
      Spec.Loads (.ldz o z a d) s s1 false (Spec.addr s1 a (o.toInt * 2 ^ z.toNat)) (2 ^ z.toNat) d.toNat) ∧
    (∀ (x : BitVec 1) (z : BitVec 2) (b a d : BitVec 7) (s s1 : State), s.Opens (.ldx x z b a d) s1 → s1.unit.pre = none →
      Spec.Loads (.ldx x z b a d) s s1 true (Spec.indexed s1 a b (if x = 1 then 0 else z.toNat)) (2 ^ z.toNat) d.toNat) ∧
    (∀ (o : BitVec 17) (d : BitVec 7) (s s1 : State), s.Opens (.ldk o d) s1 → s1.unit.pre = none →
      Spec.Loads (.ldk o d) s s1 true (Spec.target s1 o.toInt) 8 d.toNat) :=
  ⟨fun o z a d s s1 ho hp => loads_of_addr ho hp (exec_ld ..) (eaOff_run hp ..),
    fun o z a d s s1 ho hp => loads_of_addr ho hp (exec_ldz ..) (eaOff_run hp ..),
    fun x z b a d s s1 ho hp => loads_of_addr ho hp (exec_ldx ..) (eaIndex_run hp ..),
    fun o d s s1 ho hp => loads_of_addr ho hp (exec_ldk ..) (wordTarget_run ..)⟩

/-- Refutes O13: its clause for `ldk`, unlike those of the other loads, admits a lone word whose unit context records a state before it;
the word reads that state's memory, the clause the present one's. -/
theorem not_scalarLoads : ¬ Obligations.ScalarLoads := by
  intro h
  obtain ⟨-, -, -, hldk, -, -⟩ := h
  have hcase := staleLoads_eq_true
  unfold staleLoads at hcase
  split at hcase
  case h_2 => exact Bool.noConfusion hcase
  rename_i pa s1 hc
  rw [Bool.and_eq_true, Bool.not_eq_true'] at hcase
  obtain ⟨hpois, hcase⟩ := hcase
  split at hcase
  case h_2 => exact Bool.noConfusion hcase
  rename_i s2 hr
  rw [Bool.and_eq_true, decide_eq_true_eq] at hcase
  obtain ⟨hroom, hcase⟩ := hcase
  have hord : Spec.Ordered staleUnit := by
    intro _
    decide +kernel
  obtain ⟨t, hrun, hloads, -, -, -, -, hunit, -⟩ :=
    (hldk 0x400#17 9#7 staleUnit staleUnit staleUnit_opens pa s2 ⟨hord, s1, hc, hpois, hr⟩).2 hroom
  rw [hrun] at hcase
  have htgt : t.unit.target = none := by rw [hunit]; rfl
  simp only [State.loads_done htgt] at hcase
  exact absurd hloads (by simpa using hcase)

end Sys2Proof
end

section
/-!
PROOFS. Stores, the chunk that holds them, and multiple loads and stores (R26, R118, R119, R121 to R123, R163, R240).
-/

namespace Sys2Proof.Machine

/-! Effects that enter a chunk. -/

theorem mem_addItems {l xs : List Nat} {x : Nat} : x ∈ addItems l xs ↔ x ∈ l ∨ x ∈ xs := by
  unfold addItems
  simp only [List.mem_append, List.mem_dedup, List.mem_filter, Bool.not_eq_true', decide_eq_false_iff_not]
  by_cases h : x ∈ l <;> simp [h]

/-- The writes that an access passes are free of it where they touch its bytes (R163). -/
theorem passCount_free {base : Nat} {k : Access} {pa n : Nat} : ∀ {l : List Entry} (seed : Nat),
    passCount base k pa n l seed ≤ l.length ∧
    ∀ e ∈ l.take (passCount base k pa n l seed), e.touches pa n = true → e.free k = true
  | [], _ => by simp [passCount]
  | e :: rest, seed => by
    unfold passCount
    by_cases ht : e.touches pa n = true
    · rw [if_pos ht]
      by_cases hf : decide (e.num ≤ base) && e.free k && Config.passes seed
      · rw [if_pos hf]
        obtain ⟨hlen, hfree⟩ := passCount_free (base := base) (k := k) (pa := pa) (n := n) (l := rest) (seed + 1)
        refine ⟨by simp [hlen], ?_⟩
        intro x hx
        rcases List.mem_cons.mp (by simpa using hx) with rfl | hx
        · intro _
          simp only [Bool.and_eq_true] at hf
          exact hf.1.2
        · exact hfree x hx
      · rw [if_neg hf]
        simp
    · rw [if_neg ht]
      obtain ⟨hlen, hfree⟩ := passCount_free (base := base) (k := k) (pa := pa) (n := n) (l := rest) seed
      split
      · simp
      · rename_i m hm
        rw [hm] at hlen hfree
        refine ⟨by simp [hlen], ?_⟩
        intro x hx
        rcases List.mem_cons.mp (by simpa using hx) with rfl | hx
        · exact fun h => absurd h ht
        · exact hfree x hx

/-- The place an effect takes in a chunk's log: the entries behind it are free of it (R118, R163). -/
def State.placeOf (s : State) (k : Access) (e : Eff) (c : Chunk) : Nat :=
  c.log.length - match e.span with
    | some (pa, n) => s.passed s.fs c.entered k pa n
    | none => 0

theorem State.passed_of_last {s : State} {gs base : Nat} {c : Chunk} (hc : (s.thread gs).chunks.getLast? = some c) (k : Access)
    (pa n : Nat) : ∃ p, s.passed gs base k pa n = p ∧ ((s.thread gs).det = true → p = 0) ∧
      (p = 0 ∨ p = passCount base k pa n c.log.reverse s.fresh) := by
  refine ⟨_, rfl, fun hd => ?_, ?_⟩
  · unfold State.passed
    simp [hd]
  · unfold State.passed
    simp only [hc]
    split
    · exact .inl rfl
    · split
      · exact .inl rfl
      · exact .inr rfl

theorem State.placeOf_free {s : State} {k : Access} {e : Eff} {c : Chunk} (hc : s.th.chunks.getLast? = some c) {pa m : Nat}
    (he : e.span = some (pa, m)) {y : Entry} (hy : y ∈ c.log.drop (s.placeOf k e c)) (ht : y.touches pa m = true) :
    y.fixed = false ∧ k.inOrder y.by_ = false := by
  obtain ⟨p, hp, -, hcount⟩ := State.passed_of_last (s := s) (gs := s.fs) (base := c.entered) hc k pa m
  have hplace : s.placeOf k e c = c.log.length - p := by
    unfold State.placeOf
    rw [he]
    exact congrArg _ hp
  rw [hplace] at hy
  rcases hcount with rfl | rfl
  · simp at hy
  · obtain ⟨hlen, hfree⟩ := passCount_free (base := c.entered) (k := k) (pa := pa) (n := m) (l := c.log.reverse) s.fresh
    have hmem : y ∈ c.log.reverse.take (passCount c.entered k pa m c.log.reverse s.fresh) := by
      rw [List.take_reverse, List.mem_reverse]
      exact hy
    have := hfree y hmem ht
    unfold Entry.free at this
    simpa using this

theorem State.placeOf_det {s : State} {k : Access} {e : Eff} {c : Chunk} (hc : s.th.chunks.getLast? = some c) (hd : s.th.det = true) :
    c.log.drop (s.placeOf k e c) = [] := by
  have hplace : s.placeOf k e c = c.log.length := by
    unfold State.placeOf
    split
    · rename_i pa n _
      obtain ⟨p, hp, hdet, -⟩ := State.passed_of_last (s := s) (gs := s.fs) (base := c.entered) hc k pa n
      rw [hp, hdet hd]
      rfl
    · rfl
  rw [hplace]
  simp

/-- The chunk with an effect entered. -/
def Chunk.entering (c : Chunk) (k : Access) (e : Eff) (at_ : Nat) : Chunk :=
  { c with
    log := c.log.take at_ ++ ⟨e, k, c.entered + 1, c.scn + 1, c.lcn + 1, false⟩ :: c.log.drop at_, entered := c.entered + 1
    writes := addItems c.writes e.items }

theorem State.drawn_shape (s : State) (gs : Nat) (k : Access) (pa n : Nat) : ∃ f, s.drawn gs k pa n = { s with fresh := f } := by
  unfold State.drawn
  split
  · exact ⟨_, rfl⟩
  · exact ⟨s.fresh, rfl⟩

theorem State.enter_last {s : State} {k : Access} {e : Eff} {c : Chunk} (hc : s.th.chunks.getLast? = some c) :
    ∃ f, s.enter k c.entered e =
      { s.setTh { s.th with chunks := s.th.chunks.dropLast ++ [c.entering k e (s.placeOf k e c)] } with fresh := f } := by
  have hdrawn (f : Nat) (g : Chunk → Chunk) : ({ s with fresh := f } : State).setTh (({ s with fresh := f } : State).th.modLast g) =
      { s.setTh { s.th with chunks := s.th.chunks.dropLast ++ [g c] } with fresh := f } := by
    rw [show ({ s with fresh := f } : State).th = s.th from rfl, Thread.modLast_of_last hc]
    rfl
  unfold State.enter State.placeOf
  simp only [hc]
  cases e.span with
  | none => exact ⟨s.fresh, hdrawn s.fresh _⟩
  | some p =>
    obtain ⟨f, hf⟩ := s.drawn_shape s.fs k p.1 p.2
    refine ⟨f, ?_⟩
    dsimp only
    rw [hf]
    exact hdrawn f _

/-- A counted load keeps its value unless a later store of its chunk may reach it, and in a deterministic launch always. -/
theorem State.lateLoads_shape (s : State) (n : Nat) (k : Access) (e : Eff) :
    ∃ ls f, (s.lateLoads n k e = s ∧ ls = s.th.loads ∨ s.lateLoads n k e = { s.setTh { s.th with loads := ls } with fresh := f }) ∧
      (s.th.det = true → ls = s.th.loads) ∧ ((∀ ds ∈ s.th.loads, ∀ d ∈ ds, d.open_ k e = false) → ls = s.th.loads) := by
  unfold State.lateLoads
  dsimp only
  split
  · rename_i h
    simp only [Bool.and_eq_true, Bool.not_eq_true', List.any_eq_true] at h
    obtain ⟨hdet, ds, hds, d, hd, hop⟩ := h
    refine ⟨_, _, .inr rfl, fun hx => ?_, fun hall => ?_⟩
    · rw [hx] at hdet
      exact Bool.noConfusion hdet
    · exact absurd hop (by simp [hall ds (List.mem_of_mem_take hds) d hd])
  · exact ⟨s.th.loads, s.fresh, .inl ⟨rfl, rfl⟩, fun _ => rfl, fun _ => rfl⟩

theorem roomFor_keeps {e : Eff} {s t : State} (h : roomFor e s = .ok ((), t)) : t = s :=
  (leads_roomFor (R := fun s t => t = s) (fun _ => rfl) e).out _ _ _ h

/-- The remote-store buffer's count of a chunk (R240). -/
def Chunk.withRsb (c : Chunk) (n : Nat) : Chunk := { c with rsb := c.rsb + n }

theorem modChunk_last {s : State} {f : Chunk → Chunk} {cs : List Chunk} {c : Chunk} (hd : s.isDirect = false) (hc : s.th.chunks = cs ++ [c]) :
    modChunk f s = .ok ((), s.setTh { s.th with chunks := cs ++ [f c] }) := by
  have hl : s.th.chunks.getLast? = some c := by simp [hc]
  show Except.ok ((), if s.isDirect then s else s.setTh (s.th.modLast f)) = _
  rw [hd, Thread.modLast_of_last hl, hc]
  simp

/-- An effect enters the chunk of a lone word: where there is room, at its place (R118, R163, R240). -/
theorem enterChunk_single {s s3 : State} {k : Access} {e : Eff} {n : Nat} (hp : s.unit.pre = none)
    (h : enterChunk k [e] n s = .ok ((), s3)) :
    ∃ t, t = (s.enter k (s.enteredOf s.fs) e).lateLoads s.th.loads.length k e ∧
      modChunk (fun c => c.withRsb n) t = .ok ((), s3) := by
  unfold enterChunk at h
  rw [M.get_bind] at h
  split at h
  · split at h <;> cases h
  · rw [State.before_lone hp] at h
    simp only [List.forIn_cons, List.forIn_nil] at h
    cases hr : roomFor e s with
    | error x => 
      rw [M.bind_error] at h
      · cases h
      · rw [M.bind_error]
        rw [M.bind_error hr]
    | ok p =>
      obtain ⟨⟨⟩, u⟩ := p
      obtain rfl := roomFor_keeps hr
      refine ⟨_, rfl, ?_⟩
      rw [← h, M.bind_ok (s1 := (u.enter k (u.enteredOf u.fs) e).lateLoads u.th.loads.length k e) (a := ⟨⟩)]
      · rfl
      · rw [bind_assoc, M.bind_ok hr]
        rfl

/-- A state with other chunks and counted loads of the executing thread, and another draw counter. -/
def State.entered (s : State) (cs : List Chunk) (ls : List (List Dest)) (f : Nat) : State :=
  { s.setTh { s.th with chunks := cs, loads := ls } with fresh := f }

theorem State.th_entered (s : State) (cs : List Chunk) (ls : List (List Dest)) (f : Nat) :
    (s.entered cs ls f).th = { s.th with chunks := cs, loads := ls } := State.th_setTh s _

theorem State.isDirect_entered (s : State) (cs : List Chunk) (ls : List (List Dest)) (f : Nat) : (s.entered cs ls f).isDirect = s.isDirect := by
  unfold State.isDirect
  rw [State.th_entered]
  rfl

theorem State.setTh_entered (s : State) (cs : List Chunk) (ls : List (List Dest)) (f : Nat) (u : Thread) :
    (s.entered cs ls f).setTh u = { s.setTh u with fresh := f } := by
  show { (s.setTh _).setTh u with fresh := f } = _
  rw [State.setTh_setTh]

theorem chunkHoldsItsStores : Spec.ChunkHoldsItsStores := by
  intro s s3 k e n c hd hp hc h
  obtain ⟨t, ht, hm⟩ := enterChunk_single hp h
  have hent : s.enteredOf s.fs = c.entered := by
    show ((s.th.chunks.getLast?.map (·.entered)).getD 0) = _
    rw [hc]
    rfl
  obtain ⟨f, hf⟩ := State.enter_last (k := k) (e := e) hc
  let c' := c.entering k e (s.placeOf k e c)
  let cs := s.th.chunks.dropLast ++ [c']
  rw [hent, hf, show { s.setTh { s.th with chunks := cs } with fresh := f } = s.entered cs s.th.loads f from rfl] at ht
  obtain ⟨ls, f2, hshape, hdet, hopen⟩ := (s.entered cs s.th.loads f).lateLoads_shape s.th.loads.length k e
  rw [← ht] at hshape
  rw [State.th_entered] at hshape hdet hopen
  have hfinal : ∃ f, t = s.entered cs ls f := by
    rcases hshape with ⟨h, hls⟩ | h
    · exact ⟨f, by rw [h, hls]⟩
    · exact ⟨f2, by rw [h, State.setTh_entered]; rfl⟩
  obtain ⟨f3, rfl⟩ := hfinal
  rw [modChunk_last (cs := s.th.chunks.dropLast) (c := c') ((State.isDirect_entered ..).trans hd) (by rw [State.th_entered]),
    State.setTh_entered, State.th_entered] at hm
  injection hm with hm
  injection hm with _ hm
  exact ⟨c'.withRsb n, _, ls, f3, s.placeOf k e c, _, hm.symm, rfl, rfl, rfl, rfl,
    fun pa m he y hy ht => State.placeOf_free hc he hy ht, fun h => ⟨State.placeOf_det hc h, hdet h⟩, hopen, fun l => mem_addItems, rfl, rfl⟩

/-! Scalar stores. -/

theorem State.isRemote_effFor (s : State) (pa : Nat) (bs : List Byte) : (s.effFor pa bs).isRemote = s.isRemote pa := by
  unfold State.effFor
  split
  · rename_i h
    rw [h]
    rfl
  · rename_i h
    rw [Bool.eq_false_iff.mpr h]
    split <;> rfl

theorem storeEff_run {s s2 : State} {va : Word} {n pa : Nat} (h : Spec.Writable s va n pa s2) (v : Nat) :
    storeEff va n v s = .ok (s2.effFor pa (leBytes n v), s2) := by
  rw [storeEff, M.bind_ok (directOrder_run h.1), M.bind_ok h.2]
  rfl

theorem until_run {b : Bool} (h : b = true) (s : State) : M.until_ b s = .ok ((), s) := by
  rw [h]
  rfl

/-- Singletons of an operation outside a chunk wait in SC (R26, R119). -/
theorem countSingles_direct {s : State} {k : Access} {singles : List (List Eff)} {n : Nat} (hroom : s.th.stores.length < 63)
    (hd : s.isDirect = true) : countSingles k singles n s = .ok ((), Spec.counted s singles) := by
  rw [countSingles, M.get_bind, M.bind_ok (until_run (decide_eq_true hroom) s), if_pos hd, countIn_run]

/-- Singletons of an operation inside a chunk enter it (R118). -/
theorem countSingles_chunk {s s3 : State} {k : Access} {singles : List (List Eff)} {n : Nat} (hroom : s.th.stores.length < 63)
    (hd : s.isDirect = false) (h : enterChunk k singles.flatten n s = .ok ((), s3)) :
    countSingles k singles n s = .ok ((), Spec.counted s3 []) := by
  rw [countSingles, M.get_bind, M.bind_ok (until_run (decide_eq_true hroom) s), if_neg (by rw [hd]; exact Bool.false_ne_true), M.bind_ok h,
    countIn_run]

theorem stores_of_addr {i : Instr} {s s1 : State} {va : Word} {n : Nat} {d : BitVec 7} {m : M Word} (ho : s.Opens i s1)
    (hp : s1.unit.pre = none) (he : exec i s = issue i (m >>= fun p => srcC d >>= fun v => storeFrom p n v) s)
    (hm : m s1 = .ok (va, s1)) : Spec.Stores i s s1 va n (s1.getX d.toNat) := by
  intro pa s2 h hroom
  have hrun {t : State} (hc : countStore [s2.effFor pa (leBytes n (s1.getX d.toNat).toNat)] s2 = .ok ((), t)) : Spec.Completes i s t :=
    he.trans (ho.runs (by rw [M.bind_ok hm, M.bind_ok (srcC_lone hp d), storeFrom, M.bind_ok (storeEff_run h _), hc]))
  refine ⟨fun hd => hrun (countSingles_direct hroom hd), fun hd s3 h3 => hrun (countSingles_chunk hroom hd ?_)⟩
  simpa [State.isRemote_effFor] using h3

theorem scalarStores : Spec.ScalarStores :=
  ⟨fun o z a d s s1 ho hp => stores_of_addr ho hp (exec_st ..) (eaOff_run hp ..),
    fun x z b a d s s1 ho hp => stores_of_addr ho hp (exec_stx ..) (eaIndex_run hp ..)⟩

/-! Multiple loads and stores (R123). -/

theorem mapM_run {α β : Type} {f : β → M α} {g : β → α} {s : State} (hf : ∀ b, f b s = .ok (g b, s)) :
    ∀ l : List β, l.mapM f s = .ok (l.map g, s)
  | [] => rfl
  | b :: l => by rw [List.mapM_cons, M.bind_ok (hf b), M.bind_ok (mapM_run hf l), List.map_cons]; rfl

theorem poisonCheck_all {s : State} {k : Access} {n : Nat} {acc : Acc} {va : Nat → Word} (hp : s.unit.pre = none) :
    ∀ l : List (Nat × Nat), (∀ q ∈ l, s.loadPoison s.fs k q.1 n = false) →
      (forIn l PUnit.unit fun q _ => do
        poisonCheck k q.1 n acc (va q.2)
        pure (ForInStep.yield PUnit.unit) : M PUnit) s = .ok ((), s)
  | [], _ => rfl
  | q :: l, h => by
    rw [List.forIn_cons, bind_assoc, M.bind_ok (poisonCheck_pass hp (h q List.mem_cons_self))]
    exact poisonCheck_all hp l fun x hx => h x (List.mem_cons_of_mem _ hx)

theorem multipleLoad {o : BitVec 8} {n : BitVec 2} {a d : BitVec 7} {s s1 s2 s3 s4 s5 : State} {pas vs : List Nat}
    (ho : s.Opens (.ldm o n a d) s1) (hp : s1.unit.pre = none) (hord : Spec.Ordered s1)
    (hc : checkDwords (Spec.addr s1 a (o.toInt * 8)) (n.toNat + 1) .read .load s1 = .ok (pas, s2))
    (hpois : ∀ p ∈ pas, s2.loadPoison s2.fs .scalar p 8 = false)
    (hlines : readLines (pas.flatMap (fun q => linesOf q 8)).dedup s2 = .ok ((), s3)) (hcount : countReads 1 s3 = .ok ((), s4))
    (hview : pas.mapM (fun q => viewed .scalar q 8) s4 = .ok (vs, s5)) (hroom : s5.th.loads.length < 63) :
    Spec.Completes (.ldm o n a d) s (Spec.countedLoad s5 ((pas.zip vs).zipIdx.map (fun q =>
      Dest.x (d.toNat + q.2) (BitVec.ofNat 64 q.1.2) (some ⟨q.1.1, 8, false⟩)))) := by
  have h2 : s2.unit.pre = none := by
    rw [((leads_mapM .refl (fun _ _ _ => .trans) (fun _ => touches_checkAccess ..) _).out _ _ _ hc).unit, hp]
  refine (exec_ldm ..).trans (ho.runs ?_)
  rw [M.bind_ok (eaOff_run hp a o 3), M.bind_ok (directOrder_run hord), show Spec.addr s1 a (o.toInt * 2 ^ 3) = Spec.addr s1 a (o.toInt * 8) from rfl,
    M.bind_ok hc, M.bind_ok (poisonCheck_all (va := fun j => ea _ (BitVec.ofNat 64 (8 * j))) h2 pas.zipIdx fun q hq => hpois _ (List.fst_mem_of_mem_zipIdx hq)), M.bind_ok hlines, M.bind_ok hcount,
    M.bind_ok hview, countLoad_run _ hroom]

/-- Issuing n element reads counts an instruction of a deterministic launch in direct mode, and the reads still to come of direct mode (R119). -/
theorem countReads_effect {s s1 : State} {n : Nat} (h : countReads n s = .ok ((), s1)) :
    s1.rf = s.rf ∧ s1.mem = s.mem ∧ s1.arch = s.arch ∧ s1.th.loads = s.th.loads ∧
    s1.th.ent = (if s.singly = true ∧ 0 < n then s.th.ent + 1 else s.th.ent) ∧
    (s.th.directMode = true → s.unit.outside = false → 0 < n → s1.th.unread = n - 1) := by
  rw [countReads_run] at h
  injection h with h
  injection h with _ h
  subst h
  by_cases hg : (s.th.directMode && !s.unit.outside && decide (0 < n)) = true
  · rw [if_pos hg]
    simp only [Bool.and_eq_true, Bool.not_eq_true', decide_eq_true_eq] at hg
    obtain ⟨⟨hd, hout⟩, hn⟩ := hg
    simp [State.arch, State.singly, hd, hout, hn]
  · rw [if_neg hg]
    simp only [Bool.and_eq_true, Bool.not_eq_true', decide_eq_true_eq, not_and] at hg
    refine ⟨rfl, rfl, rfl, rfl, ?_, fun hd hout hn => absurd hn (hg ⟨hd, hout⟩)⟩
    rw [if_neg]
    rintro ⟨hs, hn⟩
    simp only [State.singly, Bool.and_eq_true, Bool.not_eq_true'] at hs
    exact hg ⟨hs.1.2, hs.2⟩ hn

theorem readX_all {s : State} (hp : s.unit.pre = none) (d : Nat) (l : List Nat) :
    l.mapM (fun i => readX (d + i)) s = .ok (l.map fun i => s.getX (d + i), s) := mapM_run (fun i => readX_lone hp (d + i)) l

theorem multipleStore {o : BitVec 8} {n : BitVec 2} {a d : BitVec 7} {s s1 s2 t : State} {pas : List Nat}
    (ho : s.Opens (.stm o n a d) s1) (hp : s1.unit.pre = none) (hord : Spec.Ordered s1)
    (hc : checkDwords (Spec.addr s1 a (o.toInt * 8)) (n.toNat + 1) .write .store s1 = .ok (pas, s2)) (h2 : s2.unit.pre = none)
    (hcount : countStore ((joinWrites (pas.zip ((List.range (n.toNat + 1)).map (fun i => leBytes 8 (s2.getX (d.toNat + i)).toNat)))).map
      (fun q => s2.effFor q.1 q.2)) s2 = .ok ((), t)) : Spec.Completes (.stm o n a d) s t := by
  refine (exec_stm ..).trans (ho.runs ?_)
  rw [M.bind_ok (eaOff_run hp a o 3), M.bind_ok (directOrder_run hord), show Spec.addr s1 a (o.toInt * 2 ^ 3) = Spec.addr s1 a (o.toInt * 8) from rfl,
    M.bind_ok hc, M.bind_ok (readX_all h2 d.toNat _), M.get_bind, List.map_map]
  exact hcount

end Sys2Proof.Machine

namespace Sys2Proof
open Machine

/-- Settles O14: the scalar stores count their checked bytes, and an effect enters a chunk at its place in the chunk's log. -/
theorem storesAndTheChunkThatHoldsThem : Obligations.StoresAndTheChunkThatHoldsThem := ⟨scalarStores, chunkHoldsItsStores⟩

/-- Settles O15. -/
theorem multipleLoadsAndStores : Obligations.MultipleLoadsAndStores := by
  refine ⟨fun o n a d s s1 s2 s3 s4 s5 pas vs ho hp hord hc hpois hlines hcount hview hroom =>
      multipleLoad ho hp hord hc hpois hlines hcount hview hroom,
    fun s k pa n hp => viewed_lone hp k pa n, fun s s1 n h => ?_, ?_⟩
  · exact countReads_effect h
  · intro o n a d s s1 s2 pas ho hp hord hc h2 hroom
    refine ⟨fun hd => multipleStore ho hp hord hc h2 (countSingles_direct hroom hd), fun hd s3 h3 =>
      multipleStore ho hp hord hc h2 (countSingles_chunk hroom hd ?_)⟩
    simpa using h3

end Sys2Proof
end

section
/-!
PROOFS. Accesses that fault: the check of R117, scalar, multiple and vector words, elements of streams (R20, R117, R123, R128 to R130, R139, R162).
-/

namespace Sys2Proof.Machine

/-! What a translation raises (R338, R343). -/

/-- A trap of a translation carries the address, its access code and one of the causes of R343. -/
def Trap.Translates (t : Trap) (acc : Acc) (va : Word) : Prop :=
  t.av = true ∧ t.acc = acc.code ∧ t.info1 = va ∧ t.cause ∈ [Cause.pageAbsent, .pageProtection, .segmentBound, .dataPoison]

/-- Every trap that a computation can end in is one of a translation. -/
structure Translates (acc : Acc) (va : Word) {β : Type} (r : Except Stop β) : Prop where
  out : ∀ t, r = .error (.trap t) → t.Translates acc va

section
variable {acc : Acc} {va : Word} {β γ : Type}

theorem translates_ok (b : β) : Translates acc va (.ok b) := ⟨fun _ h => nomatch h⟩
theorem translates_hold (h : Hold) : Translates acc va (.error (.hold h) : Except Stop β) := ⟨fun _ h => nomatch h⟩

theorem translates_fault {c : Cause} (orig : Nat) (h : c ∈ [Cause.pageAbsent, .pageProtection, .segmentBound, .dataPoison]) :
    Translates acc va (.error (xFault c acc orig va) : Except Stop β) :=
  ⟨fun t ht => by cases ht; exact ⟨rfl, rfl, rfl, h⟩⟩

theorem translates_absent (orig : Nat) : Translates acc va (.error (xFault .pageAbsent acc orig va) : Except Stop β) :=
  translates_fault _ (by simp)
theorem translates_protection (orig : Nat) : Translates acc va (.error (xFault .pageProtection acc orig va) : Except Stop β) :=
  translates_fault _ (by simp)
theorem translates_segment (orig : Nat) : Translates acc va (.error (xFault .segmentBound acc orig va) : Except Stop β) :=
  translates_fault _ (by simp)
theorem translates_poison (orig : Nat) : Translates acc va (.error (xFault .dataPoison acc orig va) : Except Stop β) :=
  translates_fault _ (by simp)

theorem translates_malformed (ctx : Option (Nat × VFunc)) (level ipa : Nat) :
    Translates acc va (.error (malformed ctx acc va level ipa) : Except Stop β) :=
  ⟨fun t ht => by cases ht; exact ⟨rfl, rfl, rfl, List.mem_cons_self⟩⟩

theorem translates_bind {r : Except Stop β} {f : β → Except Stop γ} (hr : Translates acc va r) (hf : ∀ b, Translates acc va (f b)) :
    Translates acc va (r >>= f) := by
  cases r with
  | error e => exact ⟨fun t ht => hr.out t (by cases ht; rfl)⟩
  | ok b => exact hf b

theorem translates_ite {c : Prop} [Decidable c] {r r' : Except Stop β} (h : Translates acc va r) (h' : Translates acc va r') :
    Translates acc va (if c then r else r') := by split <;> assumption

end

theorem translates_physical (s : State) (va : Word) (acc : Acc) : Translates acc va (s.physical va acc) :=
  translates_ite (translates_segment _) (translates_ite (translates_ok _) (translates_segment _))

theorem translates_stageTwo (s : State) (vid : Nat) (v : VFunc) (ipa : Nat) (acc : Acc) (va : Word) :
    Translates acc va (s.stageTwo vid v ipa acc va) := by
  unfold State.stageTwo
  split
  · exact translates_segment _
  · exact translates_ite (translates_hold _) (translates_ite (translates_ite (translates_hold _) (translates_absent _))
      (translates_ite (translates_segment _) (translates_ite (translates_protection _)
        (translates_ite (translates_ok _) (translates_segment _)))))

theorem translates_tableRead (s : State) (ctx : Option (Nat × VFunc)) (ipa : Nat) (acc : Acc) (va : Word) :
    Translates acc va (s.tableRead ctx ipa acc va) := by
  have hread (p : Nat × List Nat) : Translates acc va
      (if s.poisoned (p.1 / 8) then .error (xFault .dataPoison acc 0 va) else .ok (p.1, lineOf p.1 :: p.2) : Except Stop (Nat × List Nat)) :=
    translates_ite (translates_poison _) (translates_ok _)
  cases ctx with
  | none =>
    unfold State.tableRead
    dsimp only
    split
    · exact hread _
    · exact translates_segment _
  | some c => exact translates_bind (translates_stageTwo ..) hread

/-- One step of a walk, and what it does with a pointer to the next table (R335, R338). -/
def State.walkStep (s : State) (ctx : Option (Nat × VFunc)) (va : Word) (acc : Acc) (level table : Nat) (lines : List Nat)
    (next : Word → List Nat → Except Stop (Leaf × List Nat)) : Except Stop (Leaf × List Nat) := do
  let eipa := table + 8 * bits va (20 + 9 * level) (12 + 9 * level)
  let (epa, ls) ← s.tableRead ctx eipa acc va
  let e := s.dwordAt epa
  let e := if level ≤ 1 then s.spanEntry epa e else e
  if !bit e 0 then .error (xFault .pageAbsent acc 0 va)
  else if bit e 1 then
    if badLeaf level e then .error (malformed ctx acc va level eipa)
    else if bit e 53 then .error (xFault .pageAbsent acc 0 va)
    else .ok (⟨level, e, epa⟩, lines ++ ls)
  else if level = 0 ∨ badPointer e then .error (malformed ctx acc va level eipa)
  else next e (lines ++ ls)

theorem State.walk_zero (s : State) (ctx : Option (Nat × VFunc)) (va : Word) (acc : Acc) (table : Nat) (lines : List Nat) :
    s.walk ctx va acc 0 table lines = s.walkStep ctx va acc 0 table lines fun _ _ => .error (.hold .retry) := by
  unfold State.walkStep
  simp only [true_or, if_true]
  rfl

theorem State.walk_succ (s : State) (ctx : Option (Nat × VFunc)) (va : Word) (acc : Acc) (l table : Nat) (lines : List Nat) :
    s.walk ctx va acc (l + 1) table lines =
      s.walkStep ctx va acc (l + 1) table lines fun e ls => s.walk ctx va acc l (bits e 51 12 * 4096) ls := by
  unfold State.walkStep
  simp only [Nat.add_one_ne_zero, false_or]
  rfl

theorem translates_walkStep {s : State} {ctx : Option (Nat × VFunc)} {va : Word} {acc : Acc} {level table : Nat} {lines : List Nat}
    {next : Word → List Nat → Except Stop (Leaf × List Nat)} (h : ∀ e ls, Translates acc va (next e ls)) :
    Translates acc va (s.walkStep ctx va acc level table lines next) :=
  translates_bind (translates_tableRead ..) fun _ => translates_ite (translates_absent _)
    (translates_ite (translates_ite (translates_malformed ..) (translates_ite (translates_absent _) (translates_ok _)))
      (translates_ite (translates_malformed ..) (h _ _)))

theorem translates_walk (s : State) (ctx : Option (Nat × VFunc)) (va : Word) (acc : Acc) (level : Nat) :
    ∀ (table : Nat) (lines : List Nat), Translates acc va (s.walk ctx va acc level table lines) := by
  induction level with
  | zero =>
    intro table lines
    rw [State.walk_zero]
    exact translates_walkStep fun _ _ => translates_hold _
  | succ l ih =>
    intro table lines
    rw [State.walk_succ]
    exact translates_walkStep fun _ _ => ih _ _

theorem translates_leafFor {s : State} {vid : Nat} {va : Word} {acc : Acc} {own : Except Stop (Leaf × List Nat)} (h : Translates acc va own) :
    Translates acc va (s.leafFor vid va own) := by
  unfold State.leafFor
  split
  · exact h
  · exact translates_ite (translates_ok _) h

theorem translates_peerTarget (s : State) (vid : Nat) (v : VFunc) (l : Leaf) (va : Word) (acc : Acc) (lines : List Nat) :
    Translates acc va (s.peerTarget vid v l va acc lines) :=
  translates_ite (translates_protection _) (translates_ite (translates_segment _) (translates_ok _))

theorem translates_translate (s : State) (fn : Option Nat) (asid level : Nat) (va : Word) (acc : Acc) :
    Translates acc va (s.translate fn asid level va acc) := by
  unfold State.translate
  refine translates_ite (translates_physical ..) (translates_ite (translates_ite (translates_physical ..) ?_) ?_)
  · exact translates_bind (translates_walk ..) fun _ => translates_ite (translates_protection _)
      (translates_ite (translates_ok _) (translates_segment _))
  · split
    · refine translates_bind (translates_tableRead ..) fun _ => translates_ite (translates_absent _) ?_
      refine translates_bind (translates_leafFor (translates_walk ..)) fun _ => translates_ite (translates_protection _) ?_
      exact translates_ite (translates_peerTarget ..) (translates_bind (translates_stageTwo ..) fun _ => translates_ok _)
    · exact translates_absent _

/-! The check of R117. -/

theorem isPeer_of_isSpad {pa : Nat} (h : isSpad pa = true) : isPeer pa = false := by
  unfold isSpad isSpadRange isParked spadBase at h
  unfold isPeer
  simp only [Bool.or_eq_true, Bool.and_eq_true, decide_eq_true_eq] at h
  rw [decide_eq_false_iff_not]
  omega

theorem isPeer_of_isRemote {s : State} {pa : Nat} (h : s.isRemote pa = true) : isPeer pa = false :=
  isPeer_of_isSpad (Bool.and_eq_true _ _ ▸ h).1

/-- A fault of an access that is no fetch is what `Spec.fault` writes. -/
theorem xFault_eq {acc : Acc} (h : acc ≠ .fetch) (c : Cause) (orig : Nat) (va : Word) : xFault c acc orig va = .trap (Spec.fault c acc orig va) := by
  cases acc
  case fetch => exact absurd rfl h
  all_goals rfl

theorem xlatAt_fault {level : Nat} {va : Word} {acc : Acc} {s : State} {e : Stop} (hp : s.unit.pre = none)
    (h : s.translate s.th.vf s.th.asid level va acc = .error e) : xlatAt level va acc s = .error e := by
  rw [xlatAt, M.get_bind, M.bind_error]
  rw [State.before_lone hp, h]
  rfl

theorem checkAccess_misaligned {va : Word} {n align : Nat} {acc : Acc} {r : Reach} (h : va.toNat % align ≠ 0) (s : State) :
    checkAccess va n align acc r s = .error (.trap (Spec.fault .misaligned acc 0 va)) := by
  rw [checkAccess, if_pos h]
  rfl

theorem checkAccess_untranslated {va : Word} {n align : Nat} {acc : Acc} {r : Reach} {s : State} {e : Stop} (h : va.toNat % align = 0)
    (hx : xlatAt s.th.level va acc s = .error e) : checkAccess va n align acc r s = .error e := by
  rw [checkAccess, if_neg (by simpa using h), M.get_bind, M.bind_error hx]

theorem checkAccess_unreached {va : Word} {n align pa : Nat} {acc : Acc} {r : Reach} {s s2 : State} {e : Stop} (h : va.toNat % align = 0)
    (hx : xlatAt s.th.level va acc s = .ok (pa, s2)) (hr : reachCheck pa acc r va s2 = .error e) :
    checkAccess va n align acc r s = .error e := by
  rw [checkAccess, if_neg (by simpa using h), M.get_bind, M.bind_ok hx, M.bind_error hr]

theorem reachCheck_remote {pa : Nat} {acc : Acc} {r : Reach} {va : Word} {s : State} (ha : acc ≠ .fetch) (h : s.isRemote pa = true)
    (hr : r ≠ .store) : reachCheck pa acc r va s = .error (.trap (Spec.fault .pageProtection acc 2 va)) := by
  rw [reachCheck, M.get_bind, if_neg (by simp [isPeer_of_isRemote h]), if_neg (by simp [ha]), if_pos (by simp [h, hr]), xFault_eq ha]
  rfl

theorem reachCheck_peerAtomic {pa : Nat} {acc : Acc} {va : Word} {s : State} (ha : acc ≠ .fetch) (h : isPeer pa = true) :
    reachCheck pa acc .atomic va s = .error (.trap (Spec.fault .pageProtection acc 0 va)) := by
  have hrem : s.isRemote pa = false := Bool.eq_false_iff.mpr fun h' => by simp [isPeer_of_isRemote h'] at h
  rw [reachCheck, M.get_bind, if_neg (by simp), if_neg (by simp [ha]), if_neg (by simp [hrem]), if_pos (by simp [h]), xFault_eq ha]
  rfl

theorem reachCheck_peerFault {pa : Nat} {va : Word} {s : State} {c : Cause} (hp : s.unit.pre = none) (h : isPeer pa = true)
    (hup : s.peerUp (peerDev pa) = true) (hf : peerFault s.fresh pa = some c) :
    reachCheck pa .read .load va s = .error (.trap (Spec.fault c .read (if c = .dataPoison then 0 else 1) va)) := by
  have hfresh : s.freshThen = s.fresh := by
    unfold State.freshThen
    rw [hp]
    rfl
  rw [reachCheck, M.get_bind, if_pos (by simp [h]), M.bind_ok (until_run hup s), hfresh, hf]
  rfl

theorem accessCheck : Spec.AccessCheck := by
  intro va n acc r s hp ha
  refine ⟨fun h => checkAccess_misaligned h s, fun t h ht => ?_, fun pa s2 h hx => ⟨fun hrem hr => ?_, ?_, ?_⟩⟩
  · exact ⟨checkAccess_untranslated h (xlatAt_fault hp ht), (translates_translate ..).out t ht⟩
  · have hfs : s2.fs = s.fs := ((touches_xlatAt ..).out _ _ _ hx).fs
    exact checkAccess_unreached h hx (reachCheck_remote ha (by rw [State.isRemote, hfs]; exact hrem) hr)
  · rintro hpeer rfl
    exact checkAccess_unreached h hx (reachCheck_peerAtomic ha hpeer)
  · rintro c hpeer rfl rfl hup hf
    exact checkAccess_unreached h hx (reachCheck_peerFault (((touches_xlatAt ..).out _ _ _ hx).unit ▸ hp) hpeer hup hf)

/-! Scalar words. -/

theorem poisonCheck_fails {s : State} {k : Access} {pa n : Nat} {acc : Acc} {va : Word} (hp : s.unit.pre = none)
    (h : s.loadPoison s.fs k pa n = true) : poisonCheck k pa n acc va s = .error (.trap (Spec.fault .dataPoison acc 0 va)) := by
  rw [poisonCheck, M.get_bind, State.before_lone hp, h]
  rfl

theorem checkAccess_pre {va : Word} {n align pa : Nat} {acc : Acc} {r : Reach} {s s2 : State} (hp : s.unit.pre = none)
    (h : checkAccess va n align acc r s = .ok (pa, s2)) : s2.unit.pre = none := by
  rw [((touches_checkAccess ..).out _ _ _ h).unit, hp]

/-- What a body does about an access: it ends as the check of the access does, and where its kind of read finds poison, with DATA_POISON. -/
structure Checks (body : M Unit) (s : State) (va : Word) (n : Nat) (acc : Acc) (r : Reach) (k : Option Access) : Prop where
  fault : ∀ e, checkAccess va n n acc r s = .error e → body s = .error e
  poison : ∀ pa s2 k', k = some k' → checkAccess va n n acc r s = .ok (pa, s2) → s2.loadPoison s2.fs k' pa n = true →
    body s = .error (.trap (Spec.fault .dataPoison acc 0 va))

section
variable {s : State} {va : Word} {n : Nat} {acc : Acc} {r : Reach} {k : Option Access}

theorem checks_after {α : Type} {m : M α} {f : α → M Unit} {a : α} (hm : m s = .ok (a, s)) (h : Checks (f a) s va n acc r k) :
    Checks (m >>= f) s va n acc r k :=
  ⟨fun e he => by rw [M.bind_ok hm, h.fault e he], fun pa s2 k' hk hc hv => by rw [M.bind_ok hm, h.poison pa s2 k' hk hc hv]⟩

/-- A word that checks an access and then its data for poison. -/
theorem checks_reading {k' : Access} {f : Nat → M Unit} (hp : s.unit.pre = none) :
    Checks (checkAccess va n n acc r >>= fun pa => poisonCheck k' pa n acc va >>= fun _ => f pa) s va n acc r (some k') :=
  ⟨fun e he => M.bind_error he, fun pa s2 k hk hc hv => by
    cases hk
    rw [M.bind_ok hc, M.bind_error (poisonCheck_fails (checkAccess_pre hp hc) hv)]⟩

/-- A word that checks an access and reads nothing at its issue. -/
theorem checks_only {f : Nat → M Unit} : Checks (checkAccess va n n acc r >>= f) s va n acc r none :=
  ⟨fun _ he => M.bind_error he, fun _ _ _ hk => nomatch hk⟩

end

theorem checks_loadTo {s : State} {sx : Bool} {va : Word} {n : Nat} {d : BitVec 7} (hp : s.unit.pre = none) (ho : Spec.Ordered s) :
    Checks (loadTo sx va n d) s va n .read .load (some .scalar) := by
  unfold loadTo memRead
  simp only [bind_assoc]
  exact checks_after (directOrder_run ho) (checks_reading hp)

theorem checks_storeFrom {s : State} {va v : Word} {n : Nat} (ho : Spec.Ordered s) : Checks (storeFrom va n v) s va n .write .store none := by
  unfold storeFrom storeEff
  simp only [bind_assoc]
  exact checks_after (directOrder_run ho) checks_only

theorem checks_atomicRead {s : State} {load : Bool} {va : Word} {n : Nat} {f : Nat × Nat → M Unit} (hp : s.unit.pre = none)
    (ho : Spec.Ordered s) : Checks (atomicRead load va n >>= f) s va n .rmw .atomic (some (.atomic load)) := by
  unfold atomicRead
  simp only [bind_assoc]
  exact checks_after (directOrder_run ho) (checks_reading hp)

/-! Words that send a request (R128, R130): what they do at the issue that sends it. -/

/-- An edge atomic's request (R128). -/
def edgeRequest (ret : Bool) (z : BitVec 2) (c : BitVec 4) (a d : BitVec 7) : M Unit := do
  let p ← srcC a
  let v ← srcC d
  directOrder
  let pa ← checkAccess (ea p 0) (2 ^ z.toNat) (2 ^ z.toNat) .rmw .line
  modTh (fun t => { t with edges := t.edges + 1 })
  M.park (.edgeWait pa (2 ^ z.toNat) c.toNat v.toNat ret)

/-- The request of `qres` at an address (R130). -/
def qresRequest (va : Word) (n : Nat) : M Unit := do
  let s ← get
  M.require s.th.resv.isNone .illegalOperand
  let pa ← resvAddr va n .rmw
  modify (fun s =>
    let h := mgetD s.homes pa ⟨[], false⟩
    { s with homes := mput s.homes pa { h with queue := h.queue ++ [s.fs] } })
  M.park (.qresWait pa n)

/-- The thread holds the reservation of n bytes at an address (R131). -/
def State.holdsResv (s : State) (pa n : Nat) : Bool := match s.th.resv with | some r => r.pa == pa && r.size == n | none => false

/-- The request of `qrel` at an address (R130, R131). -/
def qrelRequest (va : Word) (n : Nat) (v : Word) : M Unit := do
  let s ← get
  let pa ← resvAddr va n .write
  M.require (s.holdsResv pa n) .illegalOperand
  performNow [.write pa (leBytes n v.toNat)]
  modify (fun s => if (s.th.resv.map (·.broken)).getD false then s.setPoison (pa / 8) false else s)
  modTh (fun t => { t with resv := none })
  M.park (.qrelWait pa)

/-- A unit that has sent no request yet is in no state of a request or its answer. -/
theorem unsent_elim {s : State} (h : Spec.Unsent s) {w : Hold} (hw : s.th.hold = some w) (ha : w.answering = true) {P : Prop} : P :=
  Bool.noConfusion ((h w hw).symm.trans ha)

theorem edgeAtomic_unsent {s : State} (h : Spec.Unsent s) (ret : Bool) (z : BitVec 2) (c : BitVec 4) (a d : BitVec 7) :
    edgeAtomic ret z c a d s = edgeRequest ret z c a d s := by
  unfold edgeAtomic
  rw [M.get_bind]
  cases hh : s.th.hold with
  | none => rfl
  | some w => cases w <;> first | rfl | exact unsent_elim h hh rfl

theorem execQres_unsent {s s1 : State} (h : Spec.Unsent s1) (hp : s1.unit.pre = none) (z : BitVec 1) (a d : BitVec 7) :
    ∃ body, exec (.qres z a d) s = issue (.qres z a d) body s ∧ body s1 = qresRequest (Spec.addr s1 a 0) (4 + 4 * z.toNat) s1 := by
  refine ⟨_, exec_qres .., ?_⟩
  rw [M.bind_ok (srcC_lone hp a), M.get_bind]
  cases hh : s1.th.hold with
  | none => rfl
  | some w => cases w <;> first | rfl | exact unsent_elim h hh rfl

theorem execQrel_unsent {s s1 : State} (h : Spec.Unsent s1) (hp : s1.unit.pre = none) (z : BitVec 1) (a d : BitVec 7) :
    ∃ body, exec (.qrel z a d) s = issue (.qrel z a d) body s ∧
      body s1 = qrelRequest (Spec.addr s1 a 0) (4 + 4 * z.toNat) (s1.getX d.toNat) s1 := by
  refine ⟨_, exec_qrel .., ?_⟩
  rw [M.bind_ok (srcC_lone hp a), M.bind_ok (srcC_lone hp d), M.get_bind]
  cases hh : s1.th.hold with
  | none => rfl
  | some w => cases w <;> first | rfl | exact unsent_elim h hh rfl

theorem resvAddr_fault {s : State} {va : Word} {n : Nat} {acc : Acc} {e : Stop} (h : checkAccess va n n acc .atomic s = .error e) :
    resvAddr va n acc s = .error e := M.bind_error h

theorem resvAddr_outside {s s2 : State} {va : Word} {n pa : Nat} {acc : Acc} (ha : acc ≠ .fetch)
    (h : checkAccess va n n acc .atomic s = .ok (pa, s2)) (hp : isPackage pa = false) :
    resvAddr va n acc s = .error (.trap (Spec.fault .pageProtection acc 0 va)) := by
  rw [resvAddr, M.bind_ok h, if_neg (by simp [hp]), xFault_eq ha]
  rfl

theorem qresRequest_error {s : State} {va : Word} {n : Nat} {e : Stop} (hr : s.th.resv = none) (h : resvAddr va n .rmw s = .error e) :
    qresRequest va n s = .error e := by
  rw [qresRequest, M.get_bind, hr]
  exact (M.bind_ok rfl).trans (M.bind_error h)

theorem qrelRequest_error {s : State} {va v : Word} {n : Nat} {e : Stop} (h : resvAddr va n .write s = .error e) :
    qrelRequest va n v s = .error e := (M.get_bind _ s).trans (M.bind_error h)

theorem checks_edge {s : State} (ret : Bool) {z : BitVec 2} {c : BitVec 4} {a d : BitVec 7} (hp : s.unit.pre = none) (ho : Spec.Ordered s)
    (hu : Spec.Unsent s) : Checks (edgeAtomic ret z c a d) s (Spec.addr s a 0) (2 ^ z.toNat) .rmw .line none := by
  have h : Checks (edgeRequest ret z c a d) s (Spec.addr s a 0) (2 ^ z.toNat) .rmw .line none :=
    checks_after (srcC_lone hp _) (checks_after (srcC_lone hp _) (checks_after (directOrder_run ho) checks_only))
  exact ⟨fun e he => (edgeAtomic_unsent hu ..).trans (h.fault e he), fun _ _ _ hk => nomatch hk⟩

/-- The body that a scalar memory word runs, with what it does about its access. -/
theorem checks_of_access {i : Instr} {s s1 : State} {va : Word} {n : Nat} {acc : Acc} {r : Reach} (ha : Spec.access i s1 = some (va, n, acc, r))
    (hp : s1.unit.pre = none) (ho : Spec.Ordered s1) (hu : Spec.Unsent s1) :
    ∃ body, exec i s = issue i body s ∧ Checks body s1 va n acc r (Spec.reading i) := by
  unfold Spec.access at ha
  split at ha
  · cases ha
    exact ⟨_, exec_ld .., checks_after (eaOff_run hp ..) (checks_loadTo hp ho)⟩
  · cases ha
    exact ⟨_, exec_ldz .., checks_after (eaOff_run hp ..) (checks_loadTo hp ho)⟩
  · cases ha
    exact ⟨_, exec_ldx .., checks_after (eaIndex_run hp ..) (checks_loadTo hp ho)⟩
  · cases ha
    exact ⟨_, exec_ldk .., checks_after (wordTarget_run ..) (checks_loadTo hp ho)⟩
  · cases ha
    exact ⟨_, exec_st .., checks_after (eaOff_run hp ..) (checks_after (srcC_lone hp _) (checks_storeFrom ho))⟩
  · cases ha
    exact ⟨_, exec_stx .., checks_after (eaIndex_run hp ..) (checks_after (srcC_lone hp _) (checks_storeFrom ho))⟩
  · cases ha
    exact ⟨_, exec_amo .., checks_after (srcC_lone hp _) (checks_after (srcC_lone hp _) (checks_atomicRead hp ho))⟩
  · cases ha
    exact ⟨_, exec_amof .., checks_after (srcC_lone hp _) (checks_after (srcC_lone hp _) (checks_atomicRead hp ho))⟩
  · cases ha
    exact ⟨_, exec_cas .., checks_after (srcC_lone hp _) (checks_after (srcC_lone hp _) (checks_after (srcC_lone hp _) (checks_atomicRead hp ho)))⟩
  · cases ha
    exact ⟨_, exec_amoE .., checks_edge false hp ho hu⟩
  · cases ha
    exact ⟨_, exec_amofE .., checks_edge true hp ho hu⟩
  · obtain ⟨body, he, hb⟩ := execQres_unsent (s := s) hu hp _ _ _
    split at ha
    · cases ha
      exact ⟨body, he, fun e h => hb.trans (qresRequest_error ‹_› (resvAddr_fault h)), fun _ _ _ hk => nomatch hk⟩
    · cases ha
  · obtain ⟨body, he, hb⟩ := execQrel_unsent (s := s) hu hp _ _ _
    cases ha
    exact ⟨body, he, fun e h => hb.trans (qrelRequest_error (resvAddr_fault h)), fun _ _ _ hk => nomatch hk⟩
  · cases ha

/-- A reservation's word outside the package's memory (R130). -/
theorem reservation_outside {i : Instr} {s s1 s2 : State} {va : Word} {n pa : Nat} {acc : Acc} {r : Reach}
    (ha : Spec.access i s1 = some (va, n, acc, r)) (hp : s1.unit.pre = none) (hu : Spec.Unsent s1)
    (hi : ∃ z a d, i = .qres z a d ∨ i = .qrel z a d) (hc : checkAccess va n n acc r s1 = .ok (pa, s2)) (hpk : isPackage pa = false) :
    ∃ body, exec i s = issue i body s ∧ body s1 = .error (.trap (Spec.fault .pageProtection acc 0 va)) := by
  obtain ⟨z, a, d, rfl | rfl⟩ := hi
  · obtain ⟨body, he, hb⟩ := execQres_unsent (s := s) hu hp z a d
    change (if s1.th.resv = none then _ else _) = _ at ha
    split at ha
    · cases ha
      exact ⟨body, he, hb.trans (qresRequest_error ‹_› (resvAddr_outside (by simp) hc hpk))⟩
    · cases ha
  · obtain ⟨body, he, hb⟩ := execQrel_unsent (s := s) hu hp z a d
    cases ha
    exact ⟨body, he, hb.trans (qrelRequest_error (resvAddr_outside (by simp) hc hpk))⟩

/-! Multiple words (R123). -/

/-- The first element that fails ends the computation over a list. -/
theorem mapM_fails {α β : Type} {f : β → M α} {s s2 : State} {l rest : List β} {b : β} {xs : List α} {e : Stop}
    (h : l.mapM f s = .ok (xs, s2)) (he : f b s2 = .error e) : (l ++ b :: rest).mapM f s = .error e := by
  rw [List.mapM_append, M.bind_ok h, List.mapM_cons, M.bind_error]
  exact M.bind_error he

theorem checkDwords_fails {va : Word} {n k : Nat} {acc : Acc} {r : Reach} {s s2 : State} {pas : List Nat} {e : Stop} (hk : k < n)
    (h : checkDwords va k acc r s = .ok (pas, s2))
    (he : checkAccess (ea va (BitVec.ofNat 64 (8 * k))) 8 8 acc r s2 = .error e) : checkDwords va n acc r s = .error e := by
  obtain ⟨m, rfl⟩ := Nat.exists_eq_add_of_lt hk
  unfold checkDwords
  rw [Nat.add_assoc, List.range_add, List.range_succ_eq_map, List.map_cons]
  exact mapM_fails h he

/-- The first doubleword that carries poison raises DATA_POISON. -/
theorem poisonCheck_first {s : State} {k : Access} {n : Nat} {acc : Acc} {va : Nat → Word} (hp : s.unit.pre = none) :
    ∀ {l : List (Nat × Nat)} {j : Nat} {q : Nat × Nat}, l[j]? = some q → s.loadPoison s.fs k q.1 n = true →
      (∀ x ∈ l.take j, s.loadPoison s.fs k x.1 n = false) →
      (forIn l PUnit.unit fun q _ => do
        poisonCheck k q.1 n acc (va q.2)
        pure (ForInStep.yield PUnit.unit) : M PUnit) s = .error (.trap (Spec.fault .dataPoison acc 0 (va q.2)))
  | [], _, _, h, _, _ => nomatch h
  | x :: l, 0, q, h, hq, _ => by
    obtain rfl : x = q := by simpa using h
    rw [List.forIn_cons, bind_assoc, M.bind_error (poisonCheck_fails hp hq)]
  | x :: l, j + 1, q, h, hq, hfree => by
    rw [List.forIn_cons, bind_assoc, M.bind_ok (poisonCheck_pass hp (hfree x (by simp)))]
    exact poisonCheck_first hp (by simpa using h) hq fun y hy => hfree y (by simp [hy])

/-- The body of `ldm` or `stm` begins with the checks of its doublewords. -/
theorem exec_multiple {i : Instr} {acc : Acc} {r : Reach} {o : BitVec 8} {n : BitVec 2} {a d : BitVec 7} {s s1 : State}
    (hi : (i, acc, r) = (.ldm o n a d, .read, .load) ∨ (i, acc, r) = (.stm o n a d, .write, .store)) (hp : s1.unit.pre = none)
    (ho : Spec.Ordered s1) :
    ∃ body f, exec i s = issue i body s ∧ body s1 = (checkDwords (Spec.addr s1 a (o.toInt * 8)) (n.toNat + 1) acc r >>= f) s1 := by
  rcases hi with h | h <;> cases h
  · exact ⟨_, _, exec_ldm .., by rw [M.bind_ok (eaOff_run hp a o 3), M.bind_ok (directOrder_run ho)]; rfl⟩
  · exact ⟨_, _, exec_stm .., by rw [M.bind_ok (eaOff_run hp a o 3), M.bind_ok (directOrder_run ho)]; rfl⟩

theorem multiple_unchecked {i : Instr} {acc : Acc} {r : Reach} {o : BitVec 8} {n : BitVec 2} {a d : BitVec 7} {s s1 s2 : State} {pas : List Nat}
    {k : Nat} {f : Trap} (hi : (i, acc, r) = (.ldm o n a d, .read, .load) ∨ (i, acc, r) = (.stm o n a d, .write, .store))
    (hop : s.Opens i s1) (hp : s1.unit.pre = none) (ho : Spec.Ordered s1) (hk : k ≤ n.toNat)
    (h : checkDwords (Spec.addr s1 a (o.toInt * 8)) k acc r s1 = .ok (pas, s2))
    (he : checkAccess (addr57 (Spec.addr s1 a (o.toInt * 8) + BitVec.ofNat 64 (8 * k))) 8 8 acc r s2 = .error (.trap f)) :
    Spec.Raises i s s1 f := by
  obtain ⟨body, g, hb, hrun⟩ := exec_multiple (s := s) hi hp ho
  exact hb.trans (hop.traps (hrun.trans (M.bind_error (checkDwords_fails (Nat.lt_succ_of_le hk) h he))))

theorem multiple_poisoned {o : BitVec 8} {n : BitVec 2} {a d : BitVec 7} {s s1 s2 : State} {pas : List Nat} {k pa : Nat}
    (hop : s.Opens (.ldm o n a d) s1) (hp : s1.unit.pre = none) (ho : Spec.Ordered s1)
    (h : checkDwords (Spec.addr s1 a (o.toInt * 8)) (n.toNat + 1) .read .load s1 = .ok (pas, s2)) (hk : pas[k]? = some pa)
    (hv : s2.loadPoison s2.fs .scalar pa 8 = true) (hfree : ∀ q ∈ pas.take k, s2.loadPoison s2.fs .scalar q 8 = false) :
    Spec.Raises (.ldm o n a d) s s1 (Spec.fault .dataPoison .read 0 (addr57 (Spec.addr s1 a (o.toInt * 8) + BitVec.ofNat 64 (8 * k)))) := by
  have h2 : s2.unit.pre = none := by
    rw [((leads_mapM .refl (fun _ _ _ => .trans) (fun _ => touches_checkAccess ..) _).out _ _ _ h).unit, hp]
  refine (exec_ldm ..).trans (hop.traps ?_)
  rw [M.bind_ok (eaOff_run hp a o 3), M.bind_ok (directOrder_run ho), show Spec.addr s1 a (o.toInt * 2 ^ 3) = Spec.addr s1 a (o.toInt * 8) from rfl,
    M.bind_ok h, M.bind_error (poisonCheck_first (va := fun j => ea _ (BitVec.ofNat 64 (8 * j))) (l := pas.zipIdx) (j := k) (q := (pa, k)) h2 ?_ hv ?_)]
  · rfl
  · rw [List.getElem?_zipIdx, hk]
    simp
  · intro x hx
    obtain ⟨j, hj, rfl⟩ := List.mem_take_iff_getElem.mp hx
    refine hfree _ (List.mem_take_iff_getElem.mpr ⟨j, by simpa using hj, ?_⟩)
    simp

theorem scalarAccessFaults : Spec.ScalarAccessFaults := by
  refine ⟨fun i s s1 va n acc r ha hop hp ho hu => ?_, fun i acc r o n a d s s1 s2 pas hi hop hp ho => ?_⟩
  · obtain ⟨body, he, hc⟩ := checks_of_access (s := s) ha hp ho hu
    refine ⟨fun f h => he.trans (hop.traps (hc.fault _ h)), fun pa s2 k hk h hv => he.trans (hop.traps (hc.poison _ _ _ hk h hv)),
      fun pa s2 hi h hpk => ?_⟩
    obtain ⟨body', he', hb'⟩ := reservation_outside (s := s) ha hp hu hi h hpk
    exact he'.trans (hop.traps hb')
  · refine ⟨fun k f hk h he => multiple_unchecked hi hop hp ho hk h he, fun k pa hacc h hk hv hfree => ?_⟩
    rcases hi with hi | hi
    · cases hi
      exact multiple_poisoned hop hp ho h hk hv hfree
    · cases hi
      cases hacc

/-! Vector words (R162). -/

/-- The access of one element of a vector word. -/
def elementAccess (esz : Nat) (load : Bool) (p : Nat × Word) : M (Nat × Nat) := do
  let pa ← checkAccess p.2 (2 ^ esz) (2 ^ esz) (if load then .read else .write) (if load then .load else .store)
  if load then poisonCheck .vector pa (2 ^ esz) .read p.2 else pure ()
  pure (p.1, pa)

theorem checkElems_eq (els : List (Nat × Word)) (esz : Nat) (load : Bool) :
    checkElems els esz load = directOrder >>= fun _ => els.mapM fun p => atIndex p.1 (elementAccess esz load p) := rfl

theorem atIndex_trap {α : Type} {j : Nat} {m : M α} {s : State} {t : Trap} (h : m s = .error (.trap t)) :
    atIndex j m s = .error (.trap { t with ev := true, info2 := BitVec.ofNat 64 j }) := by
  unfold atIndex
  rw [h]

theorem M.bind_ok_inv {α β : Type} {m : M α} {f : α → M β} {s t : State} {b : β} (h : (m >>= f) s = .ok (b, t)) :
    ∃ a u, m s = .ok (a, u) ∧ f a u = .ok (b, t) := by
  cases hm : m s with
  | error e => rw [M.bind_error hm] at h; cases h
  | ok p => exact ⟨p.1, p.2, rfl, by rw [M.bind_ok hm] at h; exact h⟩

theorem checkElems_fails {els rest : List (Nat × Word)} {p : Nat × Word} {esz : Nat} {load : Bool} {s s1 : State} {pas : List (Nat × Nat)}
    {t : Trap} (h : checkElems els esz load s = .ok (pas, s1)) (he : elementAccess esz load p s1 = .error (.trap t)) :
    checkElems (els ++ p :: rest) esz load s = .error (.trap { t with ev := true, info2 := BitVec.ofNat 64 p.1 }) := by
  rw [checkElems_eq] at h ⊢
  obtain ⟨⟨⟩, u, hord, h⟩ := M.bind_ok_inv h
  rw [M.bind_ok hord]
  exact mapM_fails h (atIndex_trap he)

theorem firstElementFault (els rest : List (Nat × Word)) (j : Nat) (va : Word) (esz : Nat) (load : Bool) (s s1 : State)
    (pas : List (Nat × Nat)) (h : checkElems els esz load s = .ok (pas, s1)) :
    let acc : Acc := if load then .read else .write
    let r : Reach := if load then .load else .store
    (∀ f, checkAccess va (2 ^ esz) (2 ^ esz) acc r s1 = .error (.trap f) →
      checkElems (els ++ (j, va) :: rest) esz load s = .error (.trap { f with ev := true, info2 := BitVec.ofNat 64 j })) ∧
    (∀ pa s2, load = true → s1.unit.pre = none → checkAccess va (2 ^ esz) (2 ^ esz) acc r s1 = .ok (pa, s2) →
      s2.loadPoison s2.fs .vector pa (2 ^ esz) = true →
      checkElems (els ++ (j, va) :: rest) esz load s =
        .error (.trap { Spec.fault .dataPoison acc 0 va with ev := true, info2 := BitVec.ofNat 64 j })) := by
  refine ⟨fun f hf => checkElems_fails (p := (j, va)) h (M.bind_error hf), ?_⟩
  rintro pa s2 rfl hp hc hv
  refine checkElems_fails (p := (j, va)) h ?_
  rw [elementAccess, M.bind_ok hc]
  exact M.bind_error (poisonCheck_fails (checkAccess_pre hp hc) hv)

/-- The active elements of a list of addresses by index. -/
theorem activeAddrs_range (act : List Bool) (addr : Nat → Word) :
    activeAddrs act ((List.range act.length).map addr) = Spec.elements act addr := by
  have hzip : (act.zip ((List.range act.length).map addr)).zipIdx = act.zipIdx.map fun p => ((p.1, addr p.2), p.2) :=
    List.ext_getElem (by simp) fun j _ _ => by simp
  rw [activeAddrs, Spec.elements, hzip, List.filterMap_map, ← List.filterMap_eq_filter, List.map_filterMap]
  refine congrArg (List.filterMap · _) (funext fun p => ?_)
  cases hp : p.1 <;> simp [hp, Option.guard]

theorem activeOf_run {s : State} (hp : s.unit.pre = none) (m : BitVec 3) (esz : Nat) :
    activeOf m esz s = .ok (Spec.active s m esz, s) := by
  rw [activeOf, M.bind_ok (readArch_lone hp)]
  rfl

theorem unitAddrs_run {s : State} (hp : s.unit.pre = none) (a : BitVec 7) (o : BitVec 6) (esz n : Nat) :
    unitAddrs a o esz n s =
      .ok ((List.range n).map (fun j => addr57 (Spec.addr s a (o.toInt * 2 ^ esz) + BitVec.ofNat 64 (2 ^ esz * j))), s) := by
  rw [unitAddrs, M.bind_ok (srcC_lone hp a), Spec.addr, ← signExtend_shiftLeft]
  rfl

theorem stridedAddrs_run {s : State} (hp : s.unit.pre = none) (a b : BitVec 7) (n : Nat) :
    stridedAddrs a b n s =
      .ok ((List.range n).map (fun j => addr57 (Spec.addr s a 0 + BitVec.ofNat 64 j * s.getX b.toNat)), s) := by
  rw [stridedAddrs, M.bind_ok (srcC_lone hp a), M.bind_ok (srcC_lone hp b)]
  rfl

theorem indexedAddrs_run {s : State} (hp : s.unit.pre = none) (a : BitVec 7) (esz : Nat) (c : BitVec 1) {idx : List Nat} {n : Nat}
    (hn : idx.length = n) :
    indexedAddrs a esz (c == 1) idx s = .ok ((List.range n).map (fun j =>
      Spec.addr s a (signedOf (8 * 2 ^ esz) (idx.getD j 0) * (if c = 1 then 2 ^ esz else 1))), s) := by
  have hoff (v : Nat) : (if (c == 1) = true then signExt v (8 * 2 ^ esz) <<< esz else signExt v (8 * 2 ^ esz)) =
      BitVec.ofInt 64 (signedOf (8 * 2 ^ esz) v * (if c = 1 then 2 ^ esz else 1)) := by
    by_cases hc : c = 1
    · rw [if_pos (by simp [hc]), if_pos hc, shiftLeft_eq_wordMul, signExt, BitVec.ofInt_mul, ← BitVec.ofInt_natCast]
      push_cast
      rfl
    · rw [if_neg (by simpa using hc), if_neg hc, Int.mul_one]
      rfl
  rw [indexedAddrs, M.bind_ok (srcC_lone hp a)]
  simp only [hoff]
  refine congrArg (fun l => Except.ok (l, s)) (List.ext_getElem (by simp [hn]) fun j h1 h2 => ?_)
  simp at h1
  simp [h1, Spec.addr, ea]

theorem vecLoad_fault {act : List Bool} {addr : Nat → Word} {esz : Nat} {d : BitVec 5} {adv : Bool} {s : State} {e : Stop}
    (h : checkElems (Spec.elements act addr) esz true s = .error e) :
    vecLoad act ((List.range act.length).map addr) esz d adv s = .error e := by
  rw [vecLoad, activeAddrs_range, M.bind_error h]

theorem vecStore_fault {act : List Bool} {addr : Nat → Word} {esz : Nat} {vals : List Nat} {s : State} {e : Stop}
    (h : checkElems (Spec.elements act addr) esz false s = .error e) :
    vecStore act ((List.range act.length).map addr) esz vals s = .error e := by
  rw [vecStore, activeAddrs_range, M.bind_error h]

/-- The vector accesses whose addresses follow from a base and a stride (R161). -/
theorem vectorFault {i : Instr} {m : BitVec 3} {a : BitVec 7} {d : BitVec 5} {adv load : Bool} {esz : Nat} {addr : Nat → Word}
    {s s1 s2 : State} {vs : List Nat} {f : Trap}
    (hi : (∃ o v z, i = (if load then .vld o v m a z d else .vst o v m a z d) ∧ esz = z.toNat ∧ adv = (v == 1) ∧
        addr = fun j => addr57 (Spec.addr s1 a (o.toInt * 2 ^ z.toNat) + BitVec.ofNat 64 (2 ^ z.toNat * j))) ∨
      (∃ b z, i = (if load then .vlds m b a z d else .vsts m b a z d) ∧ esz = 2 + z.toNat ∧ adv = false ∧
        addr = fun j => addr57 (Spec.addr s1 a 0 + BitVec.ofNat 64 j * s1.getX b.toNat)))
    (ho : s.Opens i s1) (hp : s1.unit.pre = none)
    (hsrc : if load then s2 = s1 else srcV d (8 * 2 ^ esz) (Spec.active s1 m esz) adv s1 = .ok (vs, s2))
    (h : checkElems (Spec.elements (Spec.active s1 m esz) addr) esz load s2 = .error (.trap f)) : Spec.Raises i s s1 f := by
  cases load
  · rcases hi with ⟨o, v, z, rfl, rfl, rfl, rfl⟩ | ⟨b, z, rfl, rfl, rfl, rfl⟩
    · exact (exec_vst ..).trans (ho.traps (by
        rw [M.bind_ok (activeOf_run hp ..), M.bind_ok (unitAddrs_run hp ..), M.bind_ok hsrc]; exact vecStore_fault h))
    · exact (exec_vsts ..).trans (ho.traps (by
        rw [M.bind_ok (activeOf_run hp ..), M.bind_ok (stridedAddrs_run hp ..), M.bind_ok hsrc]; exact vecStore_fault h))
  · obtain rfl : s2 = s1 := hsrc
    rcases hi with ⟨o, v, z, rfl, rfl, rfl, rfl⟩ | ⟨b, z, rfl, rfl, rfl, rfl⟩
    · exact (exec_vld ..).trans (ho.traps (by
        rw [M.bind_ok (activeOf_run hp ..), M.bind_ok (unitAddrs_run hp ..)]; exact vecLoad_fault h))
    · exact (exec_vlds ..).trans (ho.traps (by
        rw [M.bind_ok (activeOf_run hp ..), M.bind_ok (stridedAddrs_run hp ..)]; exact vecLoad_fault h))

theorem vectorAccessFaults : Spec.VectorAccessFaults := by
  refine ⟨firstElementFault, fun i m a d adv load esz addr s s1 s2 vs f hi ho hp hsrc h => vectorFault hi ho hp hsrc h, ?_⟩
  rintro i m c x a z d load s s1 s2 s3 idx vs f rfl ho hp
  intro esz act hidx hlen hsrc hp3 addr h
  cases load
  · exact (exec_vsct ..).trans (ho.traps (by
      rw [M.bind_ok (activeOf_run hp ..), M.bind_ok hidx, M.bind_ok hsrc, M.bind_ok (indexedAddrs_run hp3 _ _ _ hlen)]
      exact vecStore_fault h))
  · obtain rfl : s3 = s2 := hsrc
    exact (exec_vgat ..).trans (ho.traps (by
      rw [M.bind_ok (activeOf_run hp ..), M.bind_ok hidx, M.bind_ok (indexedAddrs_run hp3 _ _ _ hlen)]
      exact vecLoad_fault h))

/-! Elements of streams (R139). -/

theorem atElement_trap {α : Type} {code : Nat} {b : Stream} {m : M α} {s : State} {t : Trap} (h : m s = .error (.trap t)) :
    atElement code b m s = .error (.trap { t with
      portc := some code, ev := true
      info2 := BitVec.ofNat 64 (((mget s.unit.walked code).getD (b.pos, 0)).1 + ((mget s.unit.walked code).getD (b.pos, 0)).2) }) := by
  unfold atElement
  rw [h]
  rfl

theorem streamAccessFaults : Spec.StreamAccessFaults := by
  refine ⟨fun s code pos v b ho hpos => ⟨fun f h => ?_, fun pa s1 hc hv => ?_, fun f h => ?_⟩,
    fun o b a d s s1 s2 s3 x y f hop => ⟨fun ha => ?_, fun ha hb => ?_, fun ha hb hd => ?_⟩⟩
  · rw [popStream_takes hpos]
    exact M.bind_error (atElement_trap (streamElement_fault (b := { b with pos := pos }) ho h))
  · rw [popStream_takes hpos]
    exact M.bind_error (atElement_trap (streamElement_poison (b := { b with pos := pos }) ho hc hv))
  · rw [pushStream_takes hpos]
    refine M.bind_error (atElement_trap (M.bind_error ?_))
    rw [storeEff, M.bind_ok (directOrder_run ho)]
    exact M.bind_error h
  · exact (exec_alu ..).trans (hop.traps (M.bind_error ha))
  · exact (exec_alu ..).trans (hop.traps (by rw [aluOp, M.bind_ok ha, M.bind_error hb]))
  · exact (exec_alu ..).trans (hop.traps (by rw [aluOp, M.bind_ok ha, M.bind_ok hb, AluOp.eval_eq_table, hd]))

end Sys2Proof.Machine

namespace Sys2Proof
open Machine

/-- Settles O16: the check of R117 in its order, and each kind of word ends as its check does. -/
theorem loadsAndStoresFault : Obligations.LoadsAndStoresFault := ⟨accessCheck, scalarAccessFaults, vectorAccessFaults, streamAccessFaults⟩

end Sys2Proof
end

section
/-!
PROOFS. Atomics, edge atomics and queued reservations (R118, R126 to R133).
-/

namespace Sys2Proof.Machine

/-! Table 5.2. -/

theorem signedOf_injective {w a b : Nat} (ha : a < 2 ^ w) (hb : b < 2 ^ w) (h : signedOf w a = signedOf w b) : a = b := by
  unfold signedOf at h
  rw [Nat.mod_eq_of_lt ha, Nat.mod_eq_of_lt hb] at h
  dsimp only at h
  generalize 2 ^ w = m at *
  split at h <;> split at h <;> omega

/-- The model's operation of an atomic on n bytes is that of Table 5.2. -/
theorem atomicOp_eq {n : Nat} (hn : n = 4 ∨ n = 8) (c old v : Nat) : atomicOp c n old v = Spec.amo c (8 * n) old v := by
  have ho : old % 2 ^ (8 * n) < 2 ^ (8 * n) := Nat.mod_lt _ (Nat.two_pow_pos _)
  have hv : v % 2 ^ (8 * n) < 2 ^ (8 * n) := Nat.mod_lt _ (Nat.two_pow_pos _)
  have hfmt : (if n = 4 then fmtS else fmtD) = if 8 * n = 32 then fmtS else fmtD := by rcases hn with rfl | rfl <;> rfl
  -- the larger of two signed words, whichever way round the comparison is written
  have hmax : (if signedOf (8 * n) (old % 2 ^ (8 * n)) ≤ signedOf (8 * n) (v % 2 ^ (8 * n)) then v % 2 ^ (8 * n) else old % 2 ^ (8 * n)) =
      if signedOf (8 * n) (v % 2 ^ (8 * n)) ≤ signedOf (8 * n) (old % 2 ^ (8 * n)) then old % 2 ^ (8 * n) else v % 2 ^ (8 * n) := by
    rcases lt_trichotomy (signedOf (8 * n) (old % 2 ^ (8 * n))) (signedOf (8 * n) (v % 2 ^ (8 * n))) with h | h | h
    · rw [if_pos h.le, if_neg (not_le.mpr h)]
    · rw [if_pos h.le, if_pos h.ge, signedOf_injective ho hv h]
    · rw [if_neg (not_le.mpr h), if_pos h.le]
  match c with
  | 0 => exact (Nat.add_mod ..).symm
  | 1 => rfl
  | 2 => rfl
  | 3 => rfl
  | 4 => rfl
  | 5 => exact hmax
  | 6 => exact Nat.min_def ..
  | 7 => exact (Nat.max_comm ..).trans (Nat.max_def ..)
  | 8 => rfl
  | _ + 9 => exact congrArg (fun f => (fAdd f .rn (old % 2 ^ (8 * n)) (v % 2 ^ (8 * n))).1) hfmt

/-! Ordinary atomics (R126, R127). -/

theorem atomicRead_run {s s2 : State} {load : Bool} {va : Word} {n pa old : Nat} (hp : s.unit.pre = none)
    (h : Spec.Atomically s load va n pa old s2) : atomicRead load va n s = .ok ((pa, old), s2) ∧ s2.unit.pre = none := by
  obtain ⟨ho, s1, hc, hv, hl, rfl⟩ := h
  have h1 := checkAccess_pre hp hc
  have h2 : s2.unit.pre = none := by rw [((touches_readLines _).out _ _ _ hl).unit, h1]
  rw [atomicRead, M.bind_ok (directOrder_run ho), M.bind_ok hc, M.bind_ok (poisonCheck_pass h1 hv), M.bind_ok hl, M.get_bind,
    State.before_lone h2]
  exact ⟨rfl, h2⟩

theorem atomicWrite_run {s t : State} {load : Bool} {pa n v w : Nat} (hv : v = w)
    (h : uncounted (.atomic load) [s.effFor pa (leBytes n w)] s = .ok ((), t)) : atomicWrite load pa n v s = .ok ((), t) := by
  rw [atomicWrite, M.get_bind, hv, h]

theorem countDone_run {s : State} (h : s.th.stores.length < 63) : countDone s = .ok ((), Spec.counted s []) := by
  rw [countDone, M.get_bind, M.bind_ok (until_run (decide_eq_true h) s), countIn_run]

theorem two_pow_size {z : BitVec 2} (h : 2 ≤ z.toNat) : 2 ^ z.toNat = 4 ∨ 2 ^ z.toNat = 8 := by
  have : z.toNat < 4 := z.isLt
  generalize z.toNat = n at *
  interval_cases n <;> simp

theorem ea_eq_addr (s : State) (a : BitVec 7) : ea (s.getX a.toNat) 0 = Spec.addr s a 0 := rfl

theorem signExt_eq (v n : Nat) : signExt v n = Spec.extended true n v := rfl

theorem ordinaryAtomics : Spec.OrdinaryAtomics := by
  refine ⟨fun z c a d s s1 s2 s3 pa old ho hp hz hr hw hroom => ?_, fun z c a d s s1 s2 s3 pa old ho hp hz hr hw hroom => ?_,
    fun z b a d s s1 s2 s3 pa old ho hp => ?_⟩
  · refine (exec_amo ..).trans (ho.runs ?_)
    rw [M.bind_ok (srcC_lone hp a), M.bind_ok (srcC_lone hp d), ea_eq_addr, M.bind_ok (atomicRead_run hp hr).1]
    rw [M.bind_ok (atomicWrite_run (atomicOp_eq (two_pow_size hz) ..) hw), countDone_run hroom]
  · refine (exec_amof ..).trans (ho.runs ?_)
    rw [M.bind_ok (srcC_lone hp a), M.bind_ok (srcC_lone hp d), ea_eq_addr, M.bind_ok (atomicRead_run hp hr).1]
    rw [M.bind_ok (atomicWrite_run (atomicOp_eq (two_pow_size hz) ..) hw), countLoad_run _ hroom, signExt_eq]
  · intro n hr hhit hmiss hroom
    refine (exec_cas ..).trans (ho.runs ?_)
    rw [M.bind_ok (srcC_lone hp a), M.bind_ok (srcC_lone hp d), M.bind_ok (srcC_lone hp b), ea_eq_addr, M.bind_ok (atomicRead_run hp hr).1]
    by_cases h : old = (s1.getX d.toNat).toNat % 2 ^ (8 * n)
    · rw [if_pos h, M.bind_ok (atomicWrite_run rfl (hhit h))]
      exact countLoad_run _ hroom
    · rw [if_neg h, M.bind_ok (hmiss h)]
      exact countLoad_run _ hroom

/-! Requests and their answers (R128, R130). -/

theorem standsOutside_sends {s : State} {i : Instr} (hb : isBoundary i = true) (hc : isCsrw i = false) (h : Hold) :
    Spec.Held i s h = Spec.Waits i s h := by
  unfold Spec.Held Spec.Waits
  rw [standsOutside_of_boundary hb, hc]

/-- The two words of an edge atomic, which run the same body. -/
def edgeInstr (ret : Bool) (z : BitVec 2) (c : BitVec 4) (a d : BitVec 7) : Instr := if ret then .amofE z c a d else .amoE z c a d

theorem exec_edgeInstr (ret : Bool) (z : BitVec 2) (c : BitVec 4) (a d : BitVec 7) (s : State) :
    exec (edgeInstr ret z c a d) s = issue (edgeInstr ret z c a d) (edgeAtomic ret z c a d) s := by
  cases ret <;> rfl

theorem isBoundary_edgeInstr (ret : Bool) (z : BitVec 2) (c : BitVec 4) (a d : BitVec 7) :
    isBoundary (edgeInstr ret z c a d) = true ∧ isCsrw (edgeInstr ret z c a d) = false := by
  cases ret <;> exact ⟨rfl, rfl⟩

theorem edgeRequest_run {ret : Bool} {z : BitVec 2} {c : BitVec 4} {a d : BitVec 7} {s s2 : State} {pa : Nat} (hp : s.unit.pre = none)
    (ho : Spec.Ordered s) (hc : checkAccess (Spec.addr s a 0) (2 ^ z.toNat) (2 ^ z.toNat) .rmw .line s = .ok (pa, s2)) :
    ∃ t, edgeRequest ret z c a d s = .ok ((), t) ∧
      t.unit.park = some (.edgeWait pa (2 ^ z.toNat) c.toNat (s.getX d.toNat).toNat ret) ∧ t.th.edges = s2.th.edges + 1 ∧ t.rf = s2.rf ∧
      t.mem = s2.mem := by
  let u := s2.setTh { s2.th with edges := s2.th.edges + 1 }
  refine ⟨{ u with unit := { u.unit with park := some (.edgeWait pa (2 ^ z.toNat) c.toNat (s.getX d.toNat).toNat ret) } }, ?_, rfl,
    congrArg Thread.edges (State.th_setTh s2 _), rfl, rfl⟩
  rw [edgeRequest, M.bind_ok (srcC_lone hp a), M.bind_ok (srcC_lone hp d), M.bind_ok (directOrder_run ho), ea_eq_addr, M.bind_ok hc]
  rfl

theorem edgeAtomics : Spec.EdgeAtomics := by
  intro i ret z c a d s s1 hi ho hp
  obtain rfl : i = edgeInstr ret z c a d := hi
  obtain ⟨hb, hcs⟩ := isBoundary_edgeInstr ret z c a d
  refine ⟨fun pa s2 hu hord hc => ?_, fun h hh ha => ?_, fun old hh => ?_, fun hh => ?_, fun f hh => ?_⟩
  · obtain ⟨t, hrun, ht⟩ := edgeRequest_run (ret := ret) (c := c) hp hord hc
    exact ⟨t, (exec_edgeInstr ..).trans (ho.runs ((edgeAtomic_unsent hu ..).trans hrun)), ht⟩
  · rw [← standsOutside_sends hb hcs]
    refine (exec_edgeInstr ..).trans (ho.holds ?_)
    rw [edgeAtomic, M.get_bind, hh]
    cases h <;> first | exact Bool.noConfusion ha | rfl
  · refine (exec_edgeInstr ..).trans (ho.runs ?_)
    rw [edgeAtomic, M.get_bind, hh]
    cases ret <;> rfl
  · refine (exec_edgeInstr ..).trans (ho.traps ?_)
    rw [edgeAtomic, M.get_bind, hh]
    exact (M.bind_ok (srcC_lone hp a)).trans rfl
  · refine (exec_edgeInstr ..).trans (ho.traps ?_)
    rw [edgeAtomic, M.get_bind, hh]
    exact (M.bind_ok (srcC_lone hp a)).trans rfl

/-! Reservations (R130, R131, R133). -/

theorem qresRequest_held {s : State} {va : Word} {n : Nat} (h : s.th.resv ≠ none) :
    qresRequest va n s = .error (.trap { cause := .illegalOperand }) := by
  obtain ⟨r, hr⟩ := Option.ne_none_iff_exists'.mp h
  rw [qresRequest, M.get_bind, hr]
  rfl

theorem qresRequest_run {s s2 : State} {va : Word} {n pa : Nat} (hr : s.th.resv = none) (h : resvAddr va n .rmw s = .ok (pa, s2)) :
    ∃ t, qresRequest va n s = .ok ((), t) ∧ t.unit.park = some (.qresWait pa n) ∧ t.rf = s2.rf ∧ t.mem = s2.mem ∧
      (mgetD t.homes pa ⟨[], false⟩).queue = (mgetD s2.homes pa ⟨[], false⟩).queue ++ [s2.fs] := by
  let u : State := { s2 with homes := mput s2.homes pa { mgetD s2.homes pa ⟨[], false⟩ with
    queue := (mgetD s2.homes pa ⟨[], false⟩).queue ++ [s2.fs] } }
  refine ⟨{ u with unit := { u.unit with park := some (.qresWait pa n) } }, ?_, rfl, rfl, rfl, ?_⟩
  · rw [qresRequest, M.get_bind, hr]
    exact (M.bind_ok rfl).trans ((M.bind_ok h).trans rfl)
  · simp [u, mgetD, mget_mput_self]

theorem leads_performNow_resv (effs : List Eff) : Leads (fun s t => t.th.resv = s.th.resv) (performNow effs) := by
  refine leads_get_bind fun s => ?_
  split
  · exact leads_error _
  · exact leads_error _
  · refine leads_ite (leads_bind (fun _ _ _ h g => g.trans h) (leads_modify fun s => ?_) fun _ => ?_) (leads_error _)
    · rw [(((State.hits_noteGrant ..).trans (State.hits_performAll ..)).trans (State.hits_sawShared ..)).th]
    · exact ⟨fun s a t e => by rw [((touches_countEntries 1).out s a t e).th]⟩

theorem leads_resvAddr_resv (va : Word) (n : Nat) (acc : Acc) : Leads (fun s t => t.th.resv = s.th.resv) (resvAddr va n acc) :=
  leads_bind (fun _ _ _ h g => g.trans h) ⟨fun s a t e => by rw [((touches_checkAccess ..).out s a t e).th]⟩
    fun _ => leads_ite (leads_pure (R := fun s t => t.th.resv = s.th.resv) (fun _ => rfl) _)
      (leads_lift (R := fun s t => t.th.resv = s.th.resv) (fun _ => rfl) _)

theorem State.holdsResv_iff {s : State} {pa n : Nat} : s.holdsResv pa n = true ↔ ∃ b v, s.th.resv = some ⟨pa, n, b, v⟩ := by
  unfold State.holdsResv
  cases hs : s.th.resv with
  | none => simp
  | some r =>
    simp only [Bool.and_eq_true, beq_iff_eq, Option.some.injEq]
    constructor
    · rintro ⟨rfl, rfl⟩
      exact ⟨r.broken, r.value, rfl⟩
    · rintro ⟨b, v, rfl⟩
      exact ⟨rfl, rfl⟩

theorem qrelRequest_unheld {s s2 : State} {va v : Word} {n pa : Nat} (h : resvAddr va n .write s = .ok (pa, s2))
    (hr : ¬∃ b v, s.th.resv = some ⟨pa, n, b, v⟩) : qrelRequest va n v s = .error (.trap { cause := .illegalOperand }) := by
  rw [qrelRequest, M.get_bind, M.bind_ok h, Bool.eq_false_iff.mpr (mt State.holdsResv_iff.mp hr)]
  rfl

/-- The state in which the release of a reservation is on its way. -/
def State.givenUp (s : State) (pa : Nat) : State :=
  let w := s.setTh { s.th with resv := none }
  { w with unit := { w.unit with park := some (.qrelWait pa) } }

/-- The same, with the poison that a broken reservation left cleared. -/
def State.released (s : State) (pa : Nat) (broken : Bool) : State := (if broken then s.setPoison (pa / 8) false else s).givenUp pa

theorem qrelRequest_run {s s2 s3 : State} {va v : Word} {n pa value : Nat} {b : Bool} (h : resvAddr va n .write s = .ok (pa, s2))
    (hr : s.th.resv = some ⟨pa, n, b, value⟩) (hw : performNow [.write pa (leBytes n v.toNat)] s2 = .ok ((), s3)) :
    qrelRequest va n v s = .ok ((), s3.released pa b) := by
  have hresv : s3.th.resv = some ⟨pa, n, b, value⟩ :=
    ((leads_performNow_resv _).out _ _ _ hw).trans (((leads_resvAddr_resv ..).out _ _ _ h).trans hr)
  rw [qrelRequest, M.get_bind, M.bind_ok h, State.holdsResv_iff.mpr ⟨b, value, hr⟩]
  refine (M.bind_ok rfl).trans ((M.bind_ok hw).trans ?_)
  show Except.ok ((), (if (s3.th.resv.map (·.broken)).getD false then s3.setPoison (pa / 8) false else s3).givenUp pa) = _
  rw [hresv]
  rfl

theorem State.released_frame (s : State) (pa : Nat) (b : Bool) :
    (s.released pa b).unit.park = some (.qrelWait pa) ∧ (s.released pa b).th.resv = none ∧
      (b = true → (s.released pa b).poisoned (pa / 8) = false) ∧ (b = false → (s.released pa b).poison = s.poison) ∧
      (s.released pa b).mem = s.mem ∧ (s.released pa b).rf = s.rf := by
  refine ⟨rfl, congrArg Thread.resv (State.th_setTh _ _), ?_, ?_, ?_, ?_⟩
  · rintro rfl
    show (mget (mdel s.poison (pa / 8)) (pa / 8)).isSome = false
    rw [mget_mdel_self]
    rfl
  · rintro rfl
    rfl
  · cases b <;> rfl
  · cases b <;> rfl

theorem held_of_awaits {s s1 : State} {i : Instr} {body : M Unit} {h : Hold} (ho : s.Opens i s1) (he : exec i s = issue i body s)
    (hb : isBoundary i = true) (hc : isCsrw i = false) (hrun : body s1 = .error (.hold h)) : Spec.Waits i s h := by
  rw [← standsOutside_sends hb hc]
  exact he.trans (ho.holds hrun)

end Sys2Proof.Machine

namespace Sys2Proof
open Machine

/-- Settles O17: the ordinary atomics in one place, the edge atomics by the state of their request. -/
theorem atomicOperations : Obligations.AtomicOperations := ⟨ordinaryAtomics, edgeAtomics⟩

/-- Settles O18, by the state of the unit's request. -/
theorem queuedReservations : Obligations.QueuedReservations := by
  refine ⟨fun z a d s s1 ho hp => ⟨fun v hh => ?_, fun v hh => ?_, fun hh => ?_, fun h hh ha => ?_, fun hu hr => ?_, fun pa s2 hu hr hc => ?_⟩,
    fun z a d s s1 ho hp => ⟨fun hh => ?_, fun h hh ha => ?_, fun pa s2 hu hc => ⟨fun hr => ?_, fun b v s3 hr hw => ?_⟩⟩⟩
  · exact (exec_qres ..).trans (ho.runs (by rw [M.bind_ok (srcC_lone hp a), M.get_bind, hh]; rfl))
  · exact (exec_qres ..).trans (ho.traps (by rw [M.bind_ok (srcC_lone hp a), M.get_bind, hh]; rfl))
  · exact (exec_qres ..).trans (ho.traps (by rw [M.bind_ok (srcC_lone hp a), M.get_bind, hh]; rfl))
  · refine held_of_awaits ho (exec_qres ..) rfl rfl ?_
    rw [M.bind_ok (srcC_lone hp a), M.get_bind, hh]
    cases h <;> first | exact Bool.noConfusion ha | rfl
  · obtain ⟨body, he, hb⟩ := execQres_unsent (s := s) hu hp z a d
    exact he.trans (ho.traps (hb.trans (qresRequest_held hr)))
  · obtain ⟨body, he, hb⟩ := execQres_unsent (s := s) hu hp z a d
    obtain ⟨t, hrun, ht⟩ := qresRequest_run hr hc
    exact ⟨t, he.trans (ho.runs (hb.trans hrun)), ht⟩
  · exact (exec_qrel ..).trans (ho.runs (by rw [M.bind_ok (srcC_lone hp a), M.bind_ok (srcC_lone hp d), M.get_bind, hh]; rfl))
  · refine held_of_awaits ho (exec_qrel ..) rfl rfl ?_
    rw [M.bind_ok (srcC_lone hp a), M.bind_ok (srcC_lone hp d), M.get_bind, hh]
    cases h <;> first | exact Bool.noConfusion ha | rfl
  · obtain ⟨body, he, hb⟩ := execQrel_unsent (s := s) hu hp z a d
    exact he.trans (ho.traps (hb.trans (qrelRequest_unheld hc hr)))
  · obtain ⟨body, he, hb⟩ := execQrel_unsent (s := s) hu hp z a d
    exact ⟨s3.released pa b, he.trans (ho.runs (hb.trans (qrelRequest_run hc hr hw))), State.released_frame ..⟩

end Sys2Proof
end

section
/-!
PROOFS. Stream bindings, waits and fences, monitors and watch bits (R134, R135, R140 to R149, R163, R214).
-/

namespace Sys2Proof.Machine

theorem require_run {b : Bool} (h : b = true) (c : Cause) (s : State) : M.require b c s = .ok ((), s) := by
  rw [h]
  rfl

theorem require_fails {b : Bool} (h : b = false) (c : Cause) (s : State) : M.require b c s = .error (.trap { cause := c }) := by
  rw [h]
  rfl

/-! Streams (R134, R135, R141). -/

/-- A header of a descriptor has no reserved bits set and its registers lie in the window (R134, Table 5.3). -/
def State.headerOk (s : State) (a : BitVec 7) : Prop :=
  (s.getX (a.toNat + 1)).toNat / 4 = 0 ∧ a.toNat + 2 + ((s.getX (a.toNat + 1)).toNat % 4 + 1) ≤ s.th.winLim

theorem bits_two_zero (w : Word) : bits w 1 0 = w.toNat % 4 := bits_zero w 1

theorem bits_top (w : Word) {lo : Nat} (h : lo ≤ 63) : bits w 63 lo = w.toNat / 2 ^ lo := by
  refine Nat.mod_eq_of_lt (Nat.div_lt_of_lt_mul ?_)
  rw [← Nat.pow_add, show lo + (63 - lo + 1) = 64 by omega]
  exact w.isLt

theorem dimOf_eq (w : Word) : dimOf w = (w.toNat % 2 ^ 32, signedOf 32 (w.toNat / 2 ^ 32)) := by
  rw [dimOf, bits_top w (by decide), bits_zero]

/-- `sopen` after the check of its header: the stream's length, and an engine for it (R134, R135). -/
def bindStream (p : BitVec 5) (b : Stream) (s : State) : M Unit := do
  M.require (decide (b.total < 2 ^ 48)) .illegalOperand
  if (s.arch.stream p.toNat).isNone && !s.engineFree then M.trap { cause := .port, portc := some p.toNat }
  else setStream p.toNat b

theorem execSopen_run {s s1 : State} (hp : s1.unit.pre = none) (r w t : BitVec 1) (z : BitVec 2) (p : BitVec 5) (a : BitVec 7) :
    ∃ body, exec (.sopen r w t z p a) s = issue (.sopen r w t z p a) body s ∧
      (s1.headerOk a → body s1 = bindStream p (Spec.descriptor s1 r w t z p a) s1 s1) ∧
      (¬s1.headerOk a → body s1 = .error (.trap { cause := .illegalOperand })) := by
  have hok : (bits (s1.getX (a.toNat + 1)) 63 2 == 0 && decide (a.toNat + 2 + (bits (s1.getX (a.toNat + 1)) 1 0 + 1) ≤ s1.th.winLim)) = true ↔
      s1.headerOk a := by
    rw [bits_two_zero, bits_top _ (by decide)]
    simp [State.headerOk]
  refine ⟨_, exec_sopen .., fun h => ?_, fun h => ?_⟩
  · rw [M.bind_ok (readX_lone hp _), M.bind_ok (readX_lone hp _), M.get_bind, M.bind_ok (require_run (hok.mpr h) _ _),
      M.bind_ok (readX_all hp (a.toNat + 2) _), bits_two_zero]
    have hb : ({
        base := s1.getX a.toNat
        dims := ((List.range ((s1.getX (a.toNat + 1)).toNat % 4 + 1)).map fun i => s1.getX (a.toNat + 2 + i)).map dimOf
        sz := z.toNat
        write := (decide (8 ≤ p.toNat) && decide (p.toNat ≤ 11)) || (decide (16 ≤ p.toNat) && r == 1)
        trap := t == 1, wrap := w == 1, pos := 0, endFlag := false, ahead := [] } : Stream) = Spec.descriptor s1 r w t z p a := by
      rw [Spec.descriptor, List.map_map]
      simp only [Bool.decide_and, Function.comp_def, dimOf_eq]
    rw [hb]
    rfl
  · rw [M.bind_ok (readX_lone hp _), M.bind_ok (readX_lone hp _), M.get_bind,
      M.bind_error (require_fails (Bool.eq_false_iff.mpr (mt hok.mp h)) _ _)]

theorem descriptor_dims_length (s : State) (r w t : BitVec 1) (z : BitVec 2) (p : BitVec 5) (a : BitVec 7) :
    (Spec.descriptor s r w t z p a).dims.length = (s.getX (a.toNat + 1)).toNat % 4 + 1 := by
  simp [Spec.descriptor]

theorem sopenCases (r w t : BitVec 1) (z : BitVec 2) (p : BitVec 5) (a : BitVec 7) (s s1 : State) (ho : s.Opens (.sopen r w t z p a) s1)
    (hp : s1.unit.pre = none) :
    let b := Spec.descriptor s1 r w t z p a
    let hdr := s1.getX (a.toNat + 1)
    let ok := hdr.toNat / 4 = 0 ∧ a.toNat + 2 + b.dims.length ≤ s1.th.winLim ∧ b.total < 2 ^ 48
    (ok → ((s1.arch.stream p.toNat).isSome ∨ s1.engineFree = true) →
      Spec.Completes (.sopen r w t z p a) s (s1.setArch { s1.arch with ports := mput s1.arch.ports p.toNat (.stream b) })) ∧
    (ok → s1.arch.stream p.toNat = none → s1.engineFree = false →
      Spec.Raises (.sopen r w t z p a) s s1 { cause := .port, portc := some p.toNat }) ∧
    (¬ok → Spec.Raises (.sopen r w t z p a) s s1 { cause := .illegalOperand }) := by
  obtain ⟨body, he, hgood, hbad⟩ := execSopen_run (s := s) hp r w t z p a
  intro b hdr ok
  have hok : ok ↔ s1.headerOk a ∧ b.total < 2 ^ 48 := by
    show (_ ∧ _ ∧ _) ↔ _
    rw [descriptor_dims_length, State.headerOk, and_assoc]
  have hbind (h : ok) : body s1 = (if (s1.arch.stream p.toNat).isNone && !s1.engineFree then M.trap { cause := .port, portc := some p.toNat }
      else setStream p.toNat b) s1 :=
    (hgood (hok.mp h).1).trans (M.bind_ok (require_run (decide_eq_true (hok.mp h).2) _ _))
  refine ⟨fun h hfree => he.trans (ho.runs ((hbind h).trans ?_)), fun h hnone hfull => he.trans (ho.traps ((hbind h).trans ?_)),
    fun h => he.trans (ho.traps ?_)⟩
  · rw [if_neg]
    · exact setStream_run ..
    · rcases hfree with hsome | hfree
      · simp [Option.isNone_iff_eq_none, Option.isSome_iff_ne_none.mp hsome]
      · simp [hfree]
  · rw [if_pos (by simp [hnone, hfull])]
    rfl
  · by_cases hh : s1.headerOk a
    · exact (hgood hh).trans (M.bind_error (require_fails (decide_eq_false fun h' => h (hok.mpr ⟨hh, h'⟩)) _ _))
    · exact hbad hh

/-- What a chunk records changes nothing of the registers and of memory. -/
theorem modChunk_frame (f : Chunk → Chunk) (s : State) :
    ∃ t, modChunk f s = .ok ((), t) ∧ t.arch = s.arch ∧ t.rf = s.rf ∧ t.mem = s.mem := by
  obtain ⟨cs, h | h⟩ := modChunk_run f s
  · exact ⟨_, h, by simp [State.arch], rfl, rfl⟩
  · exact ⟨_, h, rfl, rfl, rfl⟩

theorem scloseCases (p : BitVec 5) (s s1 : State) (ho : s.Opens (.sclose p) s1) :
    ((s1.arch.stream p.toNat) = none → Spec.Completes (.sclose p) s s1) ∧
    ((s1.arch.stream p.toNat).isSome → ∃ t, Spec.Completes (.sclose p) s t ∧ t.arch.ports = mdel s1.arch.ports p.toNat ∧
      t.rf = s1.rf ∧ t.mem = s1.mem ∧ t.arch.vregs = s1.arch.vregs ∧ t.arch.k = s1.arch.k) := by
  refine ⟨fun h => (exec_sclose ..).trans (ho.runs ?_), fun h => ?_⟩
  · rw [M.get_bind, if_neg (by simp [h])]
    rfl
  · let s2 := s1.setArch { s1.arch with ports := mdel s1.arch.ports p.toNat }
    obtain ⟨s3, h3, ha3, hr3, hm3⟩ := modChunk_frame (fun c => { c with log := c.log.map (fun e =>
      if e.by_ == .push p.toNat && decide (e.num ≤ s1.before.enteredOf s1.fs) then { e with fixed := true } else e) }) s2
    obtain ⟨s4, h4, ha4, hr4, hm4⟩ := modChunk_frame (fun c => { c with engines := c.engines + 1 }) s3
    have ha : s4.arch = { s1.arch with ports := mdel s1.arch.ports p.toNat } := ha4.trans (ha3.trans (State.arch_setArch ..))
    refine ⟨s4, (exec_sclose ..).trans (ho.runs ?_), by rw [ha], hr4.trans hr3, hm4.trans hm3, by rw [ha], by rw [ha]⟩
    rw [M.get_bind, if_pos h]
    exact (M.bind_ok (modArch_run _ _)).trans ((M.bind_ok h3).trans h4)

theorem sseekCases (p : BitVec 5) (a : BitVec 7) (s s1 : State) (b : Stream) (ho : s.Opens (.sseek p a) s1) (hp : s1.unit.pre = none)
    (hb : s1.arch.stream p.toNat = some b) :
    let v := (s1.getX a.toNat).toNat
    let ok := v ≤ b.total ∧ ¬(v = b.total ∧ b.wrap = true ∧ 0 < b.total)
    (ok → Spec.Completes (.sseek p a) s (s1.setArch { s1.arch with
      ports := mput s1.arch.ports p.toNat (.stream { b with pos := v, endFlag := false, ahead := [] }) })) ∧
    (¬ok → Spec.Raises (.sseek p a) s s1 { cause := .illegalOperand }) := by
  intro v ok
  have hok : (decide (v ≤ b.total) && !(decide (v = b.total) && b.wrap && decide (0 < b.total))) = true ↔ ok := by
    simp only [ok, Bool.and_eq_true, Bool.not_eq_true', ← Bool.not_eq_true, decide_eq_true_eq, and_assoc]
  refine ⟨fun h => (exec_sseek ..).trans (ho.runs ?_), fun h => (exec_sseek ..).trans (ho.traps ?_)⟩
  · rw [M.bind_ok (srcC_lone hp a), M.get_bind, hb]
    exact (M.bind_ok (require_run (hok.mpr h) _ _)).trans (setStream_run ..)
  · rw [M.bind_ok (srcC_lone hp a), M.get_bind, hb]
    exact M.bind_error (require_fails (Bool.eq_false_iff.mpr (mt hok.mp h)) _ _)

/-! Waits and fences (R142 to R144, R163, R214). -/

theorem fixEntries_run (p : Entry → Bool) (s : State) : fixEntries p s = .ok ((), Spec.fixed s p) := rfl

theorem until_holds {b : Bool} (h : b = false) (s : State) : M.until_ b s = .error (.hold .retry) := by
  rw [h]
  rfl

theorem meetsWait_iff {imm : BitVec 4} {n : Nat} : meetsWait imm n = true ↔ Spec.waits imm n := by
  simp [meetsWait, Spec.waits, BitVec.toNat_eq]

theorem Entry.waited_iff (e : Entry) (lc sc : Nat) (w z : BitVec 4) : e.waited lc sc w z = true ↔ match e.by_ with
    | .push _ => False
    | .atomic true => w.toNat ≠ 15 ∧ e.lc + w.toNat ≤ lc
    | _ => z.toNat ≠ 15 ∧ e.sc + z.toNat ≤ sc := by
  unfold Entry.waited
  split <;> simp [BitVec.toNat_eq, *]

theorem waitCases (m c z w : BitVec 4) (s s1 : State) (ho : s.Opens (.wait m c z w) s1) (hp : s1.unit.pre = none) :
    let met := Spec.waits w s1.th.loads.length ∧ Spec.waits z s1.th.stores.length ∧ Spec.waits c s1.th.copies.length ∧
      Spec.waits m s1.th.mats.length
    (met → s1.th.dueFault c = none → ∃ p, Spec.Completes (.wait m c z w) s (Spec.fixed s1 p) ∧
      ∀ k, s1.th.cur = some k → ∀ e, (p e = true ↔ match e.by_ with
        | .push _ => False
        | .atomic true => w.toNat ≠ 15 ∧ e.lc + w.toNat ≤ k.lcn
        | _ => z.toNat ≠ 15 ∧ e.sc + z.toNat ≤ k.scn)) ∧
    (met → ∀ f, s1.th.dueFault c = some f → Spec.Raises (.wait m c z w) s s1 f) ∧
    (¬met → Spec.Held (.wait m c z w) s .retry) := by
  intro met
  have hmet : (meetsWait w s1.th.loads.length && meetsWait z s1.th.stores.length && meetsWait c s1.th.copies.length &&
      meetsWait m s1.th.mats.length) = true ↔ met := by
    simp only [met, Bool.and_eq_true, meetsWait_iff, and_assoc]
  refine ⟨fun h hf => ?_, fun h f hf => ?_, fun h => ?_⟩
  · refine ⟨fun e => e.waited ((s1.th.cur.map (·.lcn)).getD 0) ((s1.th.cur.map (·.scn)).getD 0) w z,
      (exec_wait ..).trans (ho.runs ?_), fun k hk e => ?_⟩
    · rw [M.get_bind, State.before_lone hp, M.bind_ok (until_run (hmet.mpr h) _), hf]
      exact fixEntries_run ..
    · rw [hk]
      exact e.waited_iff ..
  · refine (exec_wait ..).trans (ho.traps ?_)
    rw [M.get_bind, State.before_lone hp, M.bind_ok (until_run (hmet.mpr h) _), hf]
    rfl
  · refine (exec_wait ..).trans (ho.holds ?_)
    rw [M.get_bind, State.before_lone hp, M.bind_error (until_holds (Bool.eq_false_iff.mpr (mt hmet.mp h)) _)]

theorem Thread.quiet_iff (t : Thread) : t.quiet = true ↔ t.loads = [] ∧ t.drained = true := by
  simp [Thread.quiet]

theorem fenceCases (s s1 : State) (ho : s.Opens .fence s1) (hp : s1.unit.pre = none) :
    (s1.th.loads = [] ∧ s1.th.drained = true →
      Spec.Completes .fence s (Spec.fixed s1 (fun e => decide (e.num ≤ s1.enteredOf s1.fs)))) ∧
    (¬(s1.th.loads = [] ∧ s1.th.drained = true) → Spec.Held .fence s .retry) := by
  rw [← Thread.quiet_iff]
  refine ⟨fun h => (exec_fence ..).trans (ho.runs ?_), fun h => (exec_fence ..).trans (ho.holds ?_)⟩
  · rw [M.get_bind, State.before_lone hp, M.bind_ok (until_run h _), fixEntries_run]
  · rw [M.get_bind, State.before_lone hp, M.bind_error (until_holds (Bool.eq_false_iff.mpr h) _)]

theorem fenceECases (s s1 : State) (ho : s.Opens .fenceE s1) (hp : s1.unit.pre = none) :
    (s1.th.loads = [] ∧ s1.th.drained = true ∧ s1.th.edges = 0 → Spec.Completes .fenceE s s1) ∧
    (¬(s1.th.loads = [] ∧ s1.th.drained = true ∧ s1.th.edges = 0) → Spec.Held .fenceE s .retry) := by
  have hq : (s1.th.quiet && decide (s1.th.edges = 0)) = true ↔ s1.th.loads = [] ∧ s1.th.drained = true ∧ s1.th.edges = 0 := by
    rw [Bool.and_eq_true, Thread.quiet_iff, decide_eq_true_eq, and_assoc]
  rw [← hq]
  refine ⟨fun h => (exec_fenceE ..).trans (ho.runs ?_), fun h => (exec_fenceE ..).trans (ho.holds ?_)⟩
  · rw [M.get_bind, State.before_lone hp, until_run h]
  · rw [M.get_bind, State.before_lone hp, until_holds (Bool.eq_false_iff.mpr h)]

end Sys2Proof.Machine

namespace Sys2Proof
open Machine

/-- Settles O19, word by word. -/
theorem streamBindings : Obligations.StreamBindings := by
  refine ⟨sopenCases, scloseCases, sseekCases, fun p d s s1 b ho hp hb => (exec_spos ..).trans (ho.runs ?_)⟩
  rw [M.bind_ok (readArch_lone hp), dstC_run, hb]
  rfl

/-- Settles O20, word by word. -/
theorem waitsAndFences : Obligations.WaitsAndFences := ⟨waitCases, fenceCases, fenceECases⟩

end Sys2Proof
end

section
/-!
PROOFS. Monitors and watch bits, direct mode, words without an effect of their own (R91, R125, R145 to R150, R153).
-/

namespace Sys2Proof.Machine

theorem signExtend_eq_ofInt {w : Nat} (o : BitVec w) : o.signExtend 64 = BitVec.ofInt 64 o.toInt := rfl

theorem bit_eq_testBit (r : Word) (i : Nat) : bit r i = r.toNat.testBit i := by
  rw [bit, Nat.testBit_eq_decide_div_mod_eq]
  rfl

/-! Sleeps (R145, R147, R149). -/

theorem sleepWord_eq (int tmo wt : Bool) (hits : Nat) : sleepWord int tmo wt hits = Spec.sleepResult int tmo wt hits := by
  unfold sleepWord Spec.sleepResult
  congr 1
  omega

/-- A word that reports the ready bit already gains nothing from it again (R149). -/
theorem sleepResult_or_ready (int tmo wt : Bool) :
    Spec.sleepResult int tmo wt 0 ||| Spec.sleepResult false false wt 0 = Spec.sleepResult int tmo wt 0 := by
  cases int <;> cases tmo <;> cases wt <;> rfl

theorem sleepDeadline_eq {s : State} {x : Word} {first : Bool} {dl : Option Nat} (h : Spec.Deadline s x first dl) :
    sleepDeadline s x = (dl, first) := by
  unfold sleepDeadline
  rcases h with ⟨rfl, hno, rfl⟩ | ⟨rfl, w, hw⟩
  · split
    · rename_i w d hh
      exact absurd hh (hno w d)
    · by_cases hx : x = 0
      · simp [hx]
      · cases hd : s.th.det <;> simp [hx, hd]
  · rw [hw]

theorem sleepOver_eq {s : State} {dl : Option Nat} {tmo : Bool} (h : tmo = true ↔ Spec.over s dl) : sleepOver s dl = tmo := by
  rw [Bool.eq_iff_iff, h, Spec.over]
  cases dl with
  | none => simp [sleepOver]
  | some n => cases hd : s.th.det <;> simp [sleepOver, hd]

/-- The state a `monw` leaves with a result (R147). -/
def State.monwDone (s : State) (d : BitVec 7) (r : Word) : State :=
  (s.setX d.toNat r).setTh { s.th with mons := s.th.mons.map (fun m => (m.1, m.2.1, m.2.2 && !r.toNat.testBit m.1)) }

theorem monwDone_run (s : State) (d : BitVec 7) (r : Word) : monwDone d r s = .ok ((), s.monwDone d r) := by
  rw [monwDone, M.bind_ok (dstC_run ..), modTh_run]
  simp only [bit_eq_testBit, State.th_setX]
  rfl

theorem monwIssue {s1 : State} {a d : BitVec 7} {dl : Option Nat} {first tmo : Bool} (hp : s1.unit.pre = none)
    (hnot : ∀ r, s1.th.hold ≠ some (.sleepDone r)) (hdl : Spec.Deadline s1 (s1.getX a.toNat) first dl) (htmo : tmo = true ↔ Spec.over s1 dl)
    (s : State) :
    ∃ body, exec (.monw a d) s = issue (.monw a d) body s ∧ body s1 =
      (if s1.th.hits ≠ 0 ∨ tmo ∨ s1.th.intPending then monwDone d (sleepWord s1.th.intPending tmo false s1.th.hits)
        else if first ∧ s1.th.mons = [] ∧ s1.getX a.toNat = 0 then monwDone d 0 else M.hold (.sleep false dl)) s1 := by
  refine ⟨_, exec_monw .., ?_⟩
  rw [M.bind_ok (srcC_lone hp a), M.get_bind]
  simp only [sleepDeadline_eq hdl, sleepOver_eq htmo, State.before_lone hp]

theorem wsleepIssue {s1 : State} {a d : BitVec 7} {dl : Option Nat} {first tmo : Bool} (hp : s1.unit.pre = none)
    (hnot : ∀ r, s1.th.hold ≠ some (.sleepDone r)) (hdl : Spec.Deadline s1 (s1.getX a.toNat) first dl) (htmo : tmo = true ↔ Spec.over s1 dl)
    (s : State) :
    ∃ body, exec (.wsleep a d) s = issue (.wsleep a d) body s ∧ body s1 =
      (if s1.th.ready ∨ tmo ∨ s1.th.intPending then wsleepDone d (sleepWord s1.th.intPending tmo s1.th.ready 0)
        else M.hold (.sleep true dl)) s1 := by
  refine ⟨_, exec_wsleep .., ?_⟩
  rw [M.bind_ok (srcC_lone hp a), M.get_bind]
  simp only [sleepDeadline_eq hdl, sleepOver_eq htmo, State.before_lone hp]

theorem wsleepDone_run {s : State} (hp : s.unit.pre = none) (d : BitVec 7) (r : Word) : wsleepDone d r s =
    .ok ((), (s.setX d.toNat (r ||| Spec.sleepResult false false s.th.ready 0)).setTh { s.th with ready := false }) := by
  rw [wsleepDone, M.get_bind, State.before_lone hp, sleepWord_eq, M.bind_ok (dstC_run ..), modTh_run]
  simp only [State.th_setX]

theorem monwCases (a d : BitVec 7) (s s1 : State) (dl : Option Nat) (first tmo : Bool) (ho : s.Opens (.monw a d) s1) (hp : s1.unit.pre = none)
    (hnot : ∀ r, s1.th.hold ≠ some (.sleepDone r)) (hdl : Spec.Deadline s1 (s1.getX a.toNat) first dl) (htmo : tmo = true ↔ Spec.over s1 dl) :
    let finish := s1.monwDone d
    let none_ := first = true ∧ s1.th.mons = [] ∧ s1.getX a.toNat = 0
    (s1.th.hits ≠ 0 ∨ s1.th.intPending = true ∨ tmo = true →
      Spec.Completes (.monw a d) s (finish (Spec.sleepResult s1.th.intPending tmo false s1.th.hits))) ∧
    (s1.th.hits = 0 → s1.th.intPending = false → tmo = false →
      (none_ → Spec.Completes (.monw a d) s (finish 0)) ∧ (¬none_ → Spec.Waits (.monw a d) s (.sleep false dl))) := by
  obtain ⟨body, he, hb⟩ := monwIssue (d := d) hp hnot hdl htmo s
  refine ⟨fun h => he.trans (ho.runs (hb.trans ?_)), fun h0 h1 h2 => ?_⟩
  · rw [if_pos (h.imp_right Or.symm), monwDone_run, sleepWord_eq]
  · rw [if_neg (by simp [h0, h1, h2])] at hb
    refine ⟨fun h => he.trans (ho.runs (hb.trans ?_)), fun h => held_of_awaits ho he rfl rfl (hb.trans ?_)⟩
    · rw [if_pos h, monwDone_run]
    · rw [if_neg h]
      rfl

theorem wsleepCases (a d : BitVec 7) (s s1 : State) (dl : Option Nat) (first tmo : Bool) (ho : s.Opens (.wsleep a d) s1)
    (hp : s1.unit.pre = none) (hnot : ∀ r, s1.th.hold ≠ some (.sleepDone r)) (hdl : Spec.Deadline s1 (s1.getX a.toNat) first dl)
    (htmo : tmo = true ↔ Spec.over s1 dl) :
    (s1.th.ready = true ∨ s1.th.intPending = true ∨ tmo = true → Spec.Completes (.wsleep a d) s
      ((s1.setX d.toNat (Spec.sleepResult s1.th.intPending tmo s1.th.ready 0)).setTh { s1.th with ready := false })) ∧
    (s1.th.ready = false → s1.th.intPending = false → tmo = false → Spec.Waits (.wsleep a d) s (.sleep true dl)) := by
  obtain ⟨body, he, hb⟩ := wsleepIssue (d := d) hp hnot hdl htmo s
  refine ⟨fun h => he.trans (ho.runs (hb.trans ?_)), fun h0 h1 h2 => held_of_awaits ho he rfl rfl (hb.trans ?_)⟩
  · rw [if_pos (h.imp_right Or.symm), wsleepDone_run hp, sleepWord_eq, sleepResult_or_ready]
  · rw [if_neg (by simp [h0, h1, h2])]
    rfl

/-! Watch bits (R148). -/

/-- The last chunk's deferred effects stay as they are. -/
def State.SameDeferred (s t : State) : Prop :=
  t.watches = s.watches ∧ ∀ c, s.th.chunks.getLast? = some c → ∃ c', t.th.chunks.getLast? = some c' ∧ c'.deferred = c.deferred

theorem State.SameDeferred.of_threads {s t : State} (hw : t.watches = s.watches) (h : t.threads = s.threads) (hf : t.fs = s.fs) :
    s.SameDeferred t := ⟨hw, fun c hc => ⟨c, by rw [State.th, State.thread, h, hf]; exact hc, rfl⟩⟩

theorem State.SameDeferred.trans {s t u : State} (h : s.SameDeferred t) (g : t.SameDeferred u) : s.SameDeferred u := by
  refine ⟨g.1.trans h.1, fun c hc => ?_⟩
  obtain ⟨c', hc', hd⟩ := h.2 c hc
  obtain ⟨c2, hc2, hd2⟩ := g.2 c' hc'
  exact ⟨c2, hc2, hd2.trans hd⟩

theorem State.rung_countFetch (s : State) (vf : Option Nat) (line : Nat) : s.Rung (s.countFetch vf line) := by
  have hregion (f : Nat) (v : VFunc) (host : Bool) (region : Nat) : s.Rung (s.countRegion f v host region) :=
    .ite (.refl s) (.ite ((s.rung_setBytes _ _).trans (State.rung_ring _ _)) (s.rung_setBytes _ _))
  unfold State.countFetch
  split
  · split
    · split
      · exact hregion ..
      · exact .refl s
    · exact .refl s
  · exact .refl s

theorem State.sameDeferred_askLine (s : State) (vf : Option Nat) (die line : Nat) (p : Option Nat) :
    s.SameDeferred ((s.countFetch vf line).cohAsk die line p) := by
  have h := s.rung_countFetch vf line
  have g := (s.countFetch vf line).cohered_cohAsk die line p
  exact .of_threads (by rw [g.same, h.same]) (by rw [g.same, h.same]) (by rw [g.same, h.same])

/-- Reading a line leaves the effects that its chunk has deferred. -/
theorem leads_readLines_deferred (ls : List Nat) : Leads State.SameDeferred (readLines ls) := by
  have ht : ∀ s t u : State, s.SameDeferred t → t.SameDeferred u → s.SameDeferred u := fun _ _ _ => .trans
  refine leads_bind ht (leads_modify fun s => ?_) fun _ => leads_bind ht (leads_modify fun s => ?_) fun _ => leads_modify fun s => ?_
  · generalize ls.filter (fun l => !isPeer (128 * l)) = own
    induction own generalizing s with
    | nil => exact .of_threads rfl rfl rfl
    | cons l own ih => exact (s.sameDeferred_askLine _ _ _ _).trans (ih _)
  · unfold State.sawShared
    split
    · split <;> exact .of_threads rfl rfl rfl
    · exact .of_threads rfl rfl rfl
  · split
    · exact .of_threads rfl rfl rfl
    · refine ⟨rfl, fun c hc => ?_⟩
      rw [Thread.modLast_of_last hc, State.th_setTh]
      exact ⟨_, List.getLast?_concat .., rfl⟩

theorem watchCases (i : BitVec 10) (a : BitVec 7) (s s1 s2 : State) (pa : Nat) (ho : s.Opens (.watch i a) s1) (hp : s1.unit.pre = none)
    (hc : checkAccess (Spec.addr s1 a i.toInt) 8 8 .read .line s1 = .ok (pa, s2)) :
    let own := isSpad pa = true ∧ spadCore pa = coreOf s2.fs
    (own → s2.isDirect = true → Spec.Completes (.watch i a) s { s2 with watches := mput s2.watches (pa / 8) s2.fs }) ∧
    (own → s2.isDirect = false → ∃ t, Spec.Completes (.watch i a) s t ∧ t.watches = s2.watches ∧ t.rf = s2.rf ∧
      ∀ c, s2.th.chunks.getLast? = some c → ∃ c', t.th.chunks.getLast? = some c' ∧ c'.deferred = c.deferred ++ [.watch pa]) ∧
    (¬own → ∃ t, Spec.Raises (.watch i a) s s1 t ∧ t.cause = .pageProtection ∧ t.info1 = Spec.addr s1 a i.toInt) := by
  intro own
  have hown : (isSpad pa && decide (spadCore pa = coreOf s2.fs)) = true ↔ own := by simp [own]
  have hbody : ∃ body, exec (.watch i a) s = issue (.watch i a) body s ∧ body s1 =
      (if isSpad pa && decide (spadCore pa = coreOf s2.fs) then
        if s2.isDirect then set (s2.setWatch s2.fs pa)
        else do
          readLines [lineOf pa]
          modChunk (fun c => { c with deferred := c.deferred ++ [.watch pa] })
      else M.lift (.error (xFault .pageProtection .read (if isSpad pa then 2 else 0) (Spec.addr s1 a i.toInt))) : M Unit) s2 := by
    refine ⟨_, exec_watch .., ?_⟩
    rw [M.bind_ok (srcC_lone hp a), signExtend_eq_ofInt, show ea (s1.getX a.toNat) (BitVec.ofInt 64 i.toInt) = Spec.addr s1 a i.toInt from rfl, M.bind_ok hc, M.get_bind]
  obtain ⟨body, he, hb⟩ := hbody
  refine ⟨fun h hd => he.trans (ho.runs (hb.trans ?_)), fun h hd => ?_, fun h => ?_⟩
  · rw [if_pos (hown.mpr h), if_pos hd]
    rfl
  · rw [if_pos (hown.mpr h), if_neg (by simp [hd])] at hb
    obtain ⟨s3, h3⟩ := readLines_ok [lineOf pa] s2
    obtain ⟨hw, hdef⟩ := (leads_readLines_deferred _).out _ _ _ h3
    have htouch := (touches_readLines _).out _ _ _ h3
    refine ⟨s3.setTh (s3.th.modLast fun c => { c with deferred := c.deferred ++ [.watch pa] }), he.trans (ho.runs (hb.trans ?_)), hw,
      htouch.rf, fun c hc => ?_⟩
    · rw [M.bind_ok h3]
      show Except.ok ((), if s3.isDirect then s3 else _) = _
      rw [htouch.isDirect, hd]
      rfl
    · obtain ⟨c', hc', hd'⟩ := hdef c hc
      rw [Thread.modLast_of_last hc', State.th_setTh]
      exact ⟨_, List.getLast?_concat .., by rw [hd']⟩
  · refine ⟨Spec.fault .pageProtection .read (if isSpad pa then 2 else 0) (Spec.addr s1 a i.toInt), he.trans (ho.traps (hb.trans ?_)), rfl, rfl⟩
    rw [if_neg (mt hown.mp h), xFault_eq (by simp)]
    rfl

end Sys2Proof.Machine

namespace Sys2Proof
open Machine

/-- Settles O21: each word by the state of its sleep, its monitor or its doubleword. -/
theorem monitorsAndWatchBits : Obligations.MonitorsAndWatchBits := by
  refine ⟨fun i a n s s1 s2 pa ho hp hc => (exec_mona ..).trans (ho.runs ?_), monwCases,
    fun a d s s1 r ho hp hh => (exec_monw ..).trans (ho.runs ?_), wsleepCases, fun a d s s1 r ho hp hh => (exec_wsleep ..).trans (ho.runs ?_),
    watchCases⟩
  · rw [M.bind_ok (srcC_lone hp a), signExtend_eq_ofInt, show ea (s1.getX a.toNat) (BitVec.ofInt 64 i.toInt) = Spec.addr s1 a i.toInt from rfl,
      M.bind_ok hc, modTh_run]
    rfl
  · rw [M.bind_ok (srcC_lone hp a), M.get_bind, hh]
    exact monwDone_run ..
  · rw [M.bind_ok (srcC_lone hp a), M.get_bind, hh]
    exact wsleepDone_run hp ..

end Sys2Proof
end

section
/-!
PROOFS. Direct mode, and the words without an effect of their own (R91, R125, R150, R153).
-/

namespace Sys2Proof.Machine

/-! Direct mode (R150). -/

theorem freeLaunch_run {s : State} (hd : s.th.det = false) (ho : s.th.ord = false) : freeLaunch s = .ok ((), s) := by
  rw [freeLaunch, M.get_bind]
  exact require_run (by rw [hd, ho]; rfl) _ _

theorem freeLaunch_fails {s : State} (h : s.th.det = true ∨ s.th.ord = true) :
    freeLaunch s = .error (.trap { cause := .illegalOperand }) := by
  rw [freeLaunch, M.get_bind]
  exact require_fails (by rcases h with h | h <;> simp [h]) _ _

theorem directAndResume : Spec.DirectAndResume := by
  refine ⟨fun s s1 ho => ⟨fun hd hord => (exec_direct ..).trans (ho.runs ?_), fun h => (exec_direct ..).trans (ho.traps ?_)⟩,
    fun s s1 ho => ⟨fun hd hord => (exec_resume ..).trans (ho.runs ?_), fun h => (exec_resume ..).trans (ho.traps ?_)⟩⟩
  · rw [M.bind_ok (freeLaunch_run hd hord), modArch_run]
  · rw [M.bind_error (freeLaunch_fails h)]
  · rw [M.bind_ok (freeLaunch_run hd hord), modArch_run]
  · rw [M.bind_error (freeLaunch_fails h)]

/-! Prefetch hints (R125). -/

/-- What a prefetch hint can change: the requests for lines, whose part asked for a host line, what the L1 holds. -/
def State.Hinted (s t : State) : Prop := t = { s with coh := t.coh, hostPart := t.hostPart, l1 := t.l1 }

theorem State.Hinted.refl (s : State) : s.Hinted s := rfl

theorem State.Hinted.trans {s t u : State} (h : s.Hinted t) (g : t.Hinted u) : s.Hinted u := by
  unfold State.Hinted at *
  rw [g, h]

theorem State.hinted_cohAsk (s : State) (die line : Nat) (p : Option Nat) : s.Hinted (s.cohAsk die line p) := by
  unfold State.cohAsk
  split
  · rfl
  · dsimp only
    split <;> rfl

theorem State.hinted_l1Add (s : State) (gc line : Nat) : s.Hinted (s.l1Add gc line) := by
  unfold State.l1Add
  split <;> rfl

theorem State.hinted_cohHint (s : State) (gs line h : Nat) : s.Hinted (s.cohHint gs line h) := by
  unfold State.cohHint
  split
  · rfl
  · dsimp only
    have hask : s.Hinted (if h = 1 && s.dieState line (dieOf gs) != .m && !s.coh.any (fun m => m.line == line && m.die == dieOf gs) then
        s.cohSend .readm (dieOf gs) line else s.cohAsk (dieOf gs) line (s.partOf gs)) := by
      split
      · rfl
      · exact State.hinted_cohAsk ..
    split
    · exact hask.trans (State.hinted_l1Add ..)
    · exact hask

/-- The request that a hint sends for a line that the die does not hold and that nothing is on its way for. -/
theorem State.cohHint_absent {s : State} {gs line h : Nat} (hc : cached line = true) (hr : s.reservedLine line = false)
    (hi : s.dieState line (dieOf gs) = .i) (hm : ∀ m ∈ s.coh, m.line ≠ line) :
    (s.cohHint gs line h).coh = s.coh ++ [⟨if h = 1 then .readm else .reads, dieOf gs, line⟩] := by
  have hany (p : CohMsg → Bool) : s.coh.any (fun m => m.line == line && p m) = false := by
    rw [List.any_eq_false]
    intro m hm'
    simp [hm m hm']
  have hask : (s.cohAsk (dieOf gs) line (s.partOf gs)).coh = s.coh ++ [⟨.reads, dieOf gs, line⟩] := by
    unfold State.cohAsk
    simp only [Bool.and_assoc, hany]
    rw [if_neg (by simp [hc, hr, hi])]
    split <;> rfl
  unfold State.cohHint
  rw [if_neg (by simp [hc, hr])]
  dsimp only
  rw [if_neg (by simp [hi]), hany, hi]
  by_cases h1 : h = 1
  · rw [if_pos (by simp [h1]), if_pos h1]
    rfl
  · rw [if_neg (by simp [h1]), if_neg h1, hask]

/-- The state that `pf` leaves at its address (R125). -/
def State.hinted (s : State) (va : Word) (h : Nat) : State :=
  match s.before.translate s.th.vf s.th.asid s.th.level va .read with
  | .ok x => if isPeer x.addr || s.isRemote x.addr then s else s.cohHint s.fs (lineOf x.addr) h
  | .error _ => s

theorem State.hinted_hinted (s : State) (va : Word) (h : Nat) : s.Hinted (s.hinted va h) := by
  unfold State.hinted
  split
  · split
    · exact .refl s
    · exact State.hinted_cohHint ..
  · exact .refl s

theorem State.hinted_ok {s : State} {va : Word} {h : Nat} {x : XOk} (hp : s.unit.pre = none)
    (hx : s.translate s.th.vf s.th.asid s.th.level va .read = .ok x) (hpeer : isPeer x.addr = false) (hrem : s.isRemote x.addr = false) :
    s.hinted va h = s.cohHint s.fs (lineOf x.addr) h := by
  unfold State.hinted
  rw [State.before_lone hp, hx]
  simp [hpeer, hrem]

theorem wordsWithoutEffect : Spec.WordsWithoutEffect := by
  refine ⟨fun o z a h s s1 ho hp => ?_, fun h k s s1 ho => (exec_hint ..).trans (ho.runs rfl), fun s s1 ho => (exec_cut ..).trans (ho.runs rfl),
    fun s s1 ho => (exec_isync ..).trans (ho.runs rfl)⟩
  have hh := s1.hinted_hinted (Spec.addr s1 a (o.toInt * 2 ^ z.toNat)) h.toNat
  have hrun : Spec.Completes (.pf o z a h) s (s1.hinted (Spec.addr s1 a (o.toInt * 2 ^ z.toNat)) h.toNat) :=
    (exec_pf ..).trans (ho.runs (by rw [M.bind_ok (eaOff_run hp a o z.toNat)]; rfl))
  refine ⟨(s1.hinted (Spec.addr s1 a (o.toInt * 2 ^ z.toNat)) h.toNat).coh, _, _, hh ▸ hrun, fun x hx => ?_⟩
  intro l hpeer hrem hc hr hi hm
  rw [State.hinted_ok hp hx hpeer hrem, State.cohHint_absent hc hr hi hm]
  simp [l, BitVec.toNat_eq]

end Sys2Proof.Machine

namespace Sys2Proof
open Machine

/-- Settles O22. -/
theorem directModeAndHints : Obligations.DirectModeAndHints := ⟨directAndResume, wordsWithoutEffect⟩

end Sys2Proof
end

section
/-!
PROOFS. Line locks and cache ranges (R151 to R153).
-/

namespace Sys2Proof.Machine

/-! What the messages about other lines do to a line: its copies stay as they are or are evicted (R266, R268, R271). -/

/-- Every die's copy of a line stays as it is, or is gone. -/
def State.Spares (l : Nat) (s t : State) : Prop := ∀ die, t.dieState l die = s.dieState l die ∨ t.dieState l die = .i

section
variable {l : Nat}

theorem State.Spares.refl (s : State) : State.Spares l s s := fun _ => .inl rfl

theorem State.Spares.trans {s t u : State} (h : State.Spares l s t) (g : State.Spares l t u) : State.Spares l s u := fun die => by
  rcases g die with hg | hg
  · rw [hg]
    exact h die
  · exact .inr hg

theorem State.Spares.of_dirs {s t : State} (h : t.dirs = s.dirs) : State.Spares l s t := fun die => .inl (by
  unfold State.dieState State.dirOf
  rw [h])

theorem State.Spares.ite {s t u : State} {c : Prop} [Decidable c] (h : State.Spares l s t) (g : State.Spares l s u) :
    State.Spares l s (if c then t else u) := by
  split; exacts [h, g]

theorem State.Spares.foldl {β : Type} {f : State → β → State} (hf : ∀ (s : State) (b : β), State.Spares l s (f s b)) (bs : List β) :
    ∀ s : State, State.Spares l s (bs.foldl f s) := by
  induction bs with
  | nil => exact fun s => .refl s
  | cons b bs ih => exact fun s => (hf s b).trans (ih _)

theorem State.dirOf_setDir_self (s : State) (line : Nat) (d : List Moesi) : (s.setDir line d).dirOf line = d := mgetD_mset_self ..

theorem State.dirOf_setDir_ne (s : State) {line : Nat} (h : line ≠ l) (d : List Moesi) : (s.setDir line d).dirOf l = s.dirOf l :=
  mgetD_mset_ne _ _ _ (Ne.symm h)

theorem State.spares_setDir (s : State) {line : Nat} (h : line ≠ l) (d : List Moesi) : State.Spares l s (s.setDir line d) := fun die => .inl (by
  unfold State.dieState
  rw [s.dirOf_setDir_ne h])

theorem State.spares_setDie (s : State) {line : Nat} (h : line ≠ l) (die : Nat) (x : Moesi) : State.Spares l s (s.setDie line die x) :=
  s.spares_setDir h _

/-- A copy that is given up is gone, whatever its line. -/
theorem State.spares_setDie_i (s : State) (line die : Nat) : State.Spares l s (s.setDie line die .i) := by
  by_cases h : line = l
  · subst h
    intro k
    unfold State.setDie State.dieState
    rw [State.dirOf_setDir_self]
    by_cases hk : die = k
    · subst hk
      by_cases hlen : die < (s.dirOf line).length
      · exact .inr (by simp [List.getD_eq_getElem?_getD, hlen])
      · exact .inl (by rw [List.set_eq_of_length_le (by omega)])
    · exact .inl (by simp [List.getD_eq_getElem?_getD, hk])
  · exact s.spares_setDie h die .i

theorem State.spares_l1Drop (s : State) (die line : Nat) : State.Spares l s (s.l1Drop die line) := .ite (.refl s) (.of_dirs rfl)
theorem State.spares_cohSend (s : State) (k : CohKind) (die line : Nat) : State.Spares l s (s.cohSend k die line) := .of_dirs rfl
theorem State.spares_cohTake (s : State) (k : CohKind) (die line : Nat) : State.Spares l s (s.cohTake k die line) := .of_dirs rfl

theorem State.spares_evict (s : State) (die line : Nat) : State.Spares l s (s.evict die line) := by
  unfold State.evict
  dsimp only
  have h := (s.spares_setDie_i (l := l) line die).trans (State.spares_l1Drop _ die line)
  exact .ite (.refl s) (.ite (h.trans (State.spares_cohSend _ _ _ _)) h)

variable {line : Nat} (h : line ≠ l)
include h

theorem State.spares_place (s : State) (die : Nat) (x : Moesi) : State.Spares l s (s.place die line x) := by
  unfold State.place
  dsimp only
  refine .ite (s.spares_setDie h _ _) ?_
  split
  · exact (s.spares_setDie h _ _).trans (State.spares_evict _ _ _)
  · exact s.spares_setDie h _ _

theorem State.spares_doReads (s : State) (die : Nat) : State.Spares l s (s.doReads die line) := by
  unfold State.doReads
  dsimp only
  refine .ite (.refl s) (.ite (s.spares_cohTake _ _ _) ?_)
  split <;> exact .of_dirs rfl

theorem State.spares_doReadm (s : State) (die : Nat) : State.Spares l s (s.doReadm die line) := by
  unfold State.doReadm
  dsimp only
  refine .ite (.refl s) (.ite (.of_dirs rfl) (.ite (.of_dirs rfl) ?_))
  exact State.Spares.trans (t := (s.cohTake .readm die line).cohSend .getm die line) (.of_dirs rfl)
    (.foldl (fun s _ => s.spares_cohSend _ _ _) _ _)

theorem State.spares_doFwd (s : State) (owner die : Nat) : State.Spares l s (s.doFwd owner die line) :=
  .ite (((s.spares_cohTake _ _ _).trans (State.spares_cohSend _ _ _ _)).trans (State.spares_setDie _ h _ _)) (.refl s)

theorem State.spares_doData (s : State) (die : Nat) : State.Spares l s (s.doData die line) := by
  unfold State.doData
  split
  · split
    · exact (s.spares_cohTake _ _ _).trans (State.spares_place h _ _ _)
    · exact .refl s
  · exact .refl s

omit h in
theorem State.spares_cohSettle (s : State) : State.Spares l s (s.cohSettle line) := by
  unfold State.cohSettle
  refine .ite (.refl s) ?_
  split <;> exact .of_dirs rfl

theorem State.spares_doInv (s : State) (die : Nat) : State.Spares l s (s.doInv die line) :=
  .ite ((((s.spares_cohTake _ _ _).trans (State.spares_setDie _ h _ _)).trans (State.spares_l1Drop _ _ _)).trans
    (State.spares_cohSend _ _ _ _)) (.refl s)

omit h in
theorem State.spares_doAck (s : State) (die : Nat) : State.Spares l s (s.doAck die line) :=
  .ite ((s.spares_cohTake _ _ _).trans (State.spares_cohSettle _)) (.refl s)

theorem State.spares_recallCopy (s : State) (die : Nat) : State.Spares l s (s.recallCopy die line) :=
  ((s.spares_setDie h _ _).trans (State.spares_l1Drop _ _ _)).trans (State.spares_cohSend _ _ _ _)

theorem State.spares_doBinv (s : State) (die : Nat) : State.Spares l s (s.doBinv die line) :=
  .ite ((s.spares_cohTake _ _ _).trans (State.spares_recallCopy h _ _)) (.ite (.refl s)
    ((State.Spares.foldl (fun s _ => s.spares_cohSend _ _ _) _ s).trans (State.spares_recallCopy h _ _)))

omit h in
theorem State.spares_hostMoves (s : State) (src dst : Nat) : State.Spares l s (s.hostMoves src dst line) := .ite (.of_dirs rfl) (.refl s)

theorem State.spares_doWback (s : State) (die : Nat) : State.Spares l s (s.doWback die line) :=
  .ite ((((s.spares_cohTake _ _ _).trans (State.spares_hostMoves _ _ _)).trans (State.spares_place h _ _ _)).trans
    (State.spares_cohSend _ _ _ _)) (.refl s)

theorem State.spares_cohNext {s t : State} (hn : s.cohNext line = some t) : State.Spares l s t := by
  unfold State.cohNext at hn
  split at hn
  · injection hn with hn; subst hn
    split
    exacts [s.spares_doFwd h _ _, s.spares_doData h _, s.spares_doWback h _, s.spares_doAck _, s.spares_doInv h _, s.spares_doBinv h _, .refl s]
  · split at hn
    · injection hn with hn; subst hn
      exact .ite (s.spares_doReads h _) (s.spares_doReadm h _)
    · cases hn

theorem State.spares_cohSteps (n : Nat) : ∀ s : State, State.Spares l s (s.cohSteps n line) := by
  induction n with
  | zero => exact fun s => .refl s
  | succ n ih =>
    intro s
    unfold State.cohSteps
    split
    · exact (State.spares_cohNext h ‹_›).trans (ih _)
    · exact .refl s

theorem State.spares_cohDrain (s : State) : State.Spares l s (s.cohDrain line) := .ite (.refl s) (s.spares_cohSteps h _)

theorem State.spares_cohRecall (s : State) (k : CohKind) : State.Spares l s (s.cohRecall k line) :=
  ((s.spares_cohDrain h).trans (.foldl (fun s _ => s.spares_cohSend _ _ _) _ _)).trans (State.spares_cohDrain h _)

theorem State.spares_cohKeep (s : State) (x : Moesi) : State.Spares l s (s.cohKeep line x) :=
  (s.spares_setDir h _).trans (.foldl (fun s _ => s.spares_l1Drop _ _) _ _)

theorem State.spares_cohInval (s : State) : State.Spares l s (s.cohInval line) := (s.spares_cohRecall h _).trans (State.spares_cohKeep h _ _)

theorem State.spares_cohClean (s : State) : State.Spares l s (s.cohClean line) :=
  (((s.spares_cohDrain h).trans (.foldl (fun s _ => (s.spares_setDie h _ _).trans (State.spares_cohSend _ _ _ _)) _ _)).trans
    (State.spares_cohDrain h _)).trans (State.spares_setDir _ h _)

end

/-! Cleaned and invalidated lines (R152). -/

/-- No die holds dirty data of a line. -/
def State.Clean (s : State) (l : Nat) : Prop := ∀ die, s.dieState l die ≠ .m ∧ s.dieState l die ≠ .o

theorem State.Spares.clean {l : Nat} {s t : State} (h : State.Spares l s t) (hc : s.Clean l) : t.Clean l := fun die => by
  rcases h die with hd | hd
  · rw [hd]
    exact hc die
  · rw [hd]
    exact ⟨by simp, by simp⟩

theorem State.clean_cohClean (s : State) (l : Nat) : (s.cohClean l).Clean l := fun die => by
  unfold State.cohClean State.dieState
  dsimp only
  rw [State.dirOf_setDir_self, List.getD_eq_getElem?_getD, List.getElem?_map]
  generalize (State.dirOf _ l)[die]? = o
  rcases o with - | (_ | _ | _ | _ | _) <;> exact ⟨by simp, by simp⟩

/-- What one line's operation achieves for it and the others leave alone holds of every line of the range. -/
theorem foldl_each {f : State → Nat → State} {P : State → Nat → Prop} (hself : ∀ s l, P (f s l) l)
    (hkeep : ∀ s l x, l ≠ x → P s x → P (f s l) x) : ∀ (ls : List Nat) (s : State) (x : Nat), x ∈ ls ∨ P s x → P (ls.foldl f s) x
  | [], _, _, h => h.resolve_left (by simp)
  | l :: ls, s, x, h => by
    rw [List.foldl_cons]
    refine foldl_each hself hkeep ls _ x ?_
    by_cases hx : l = x
    · subst hx
      exact .inr (hself s l)
    · rcases h with h | h
      · exact .inl ((List.mem_cons.mp h).resolve_left (Ne.symm hx))
      · exact .inr (hkeep s l x hx h)

theorem State.l1Drops_dirs (line : Nat) (ks : List Nat) : ∀ s : State, (ks.foldl (fun (s : State) k => s.l1Drop k line) s).dirs = s.dirs := by
  induction ks with
  | nil => exact fun _ => rfl
  | cons k ks ih =>
    intro s
    rw [List.foldl_cons, ih]
    unfold State.l1Drop
    split <;> rfl

/-- A line that is not locked has no copy once it is invalidated. -/
theorem State.dieState_cohInval {s : State} {l : Nat} (h : mget s.locks l = none) (die : Nat) : (s.cohInval l).dieState l die = .i := by
  unfold State.cohInval State.cohKeep State.dieState State.dirOf
  dsimp only
  rw [State.l1Drops_dirs, show (s.cohRecall .binv l).locks = s.locks by rw [(s.cohered_cohRecall _ _).same], h]
  simp only [Option.isSome_none, Bool.false_and, Bool.false_eq_true, if_false]
  unfold State.setDir
  rw [mgetD_mset_self, show ([.i, .i, .i, .i] : List Moesi) = List.replicate 4 .i from rfl, List.set_replicate_self]
  rw [List.getD_eq_getElem?_getD, List.getElem?_replicate]
  split <;> rfl

theorem State.cohered_cohClean (s : State) (line : Nat) : s.Cohered (s.cohClean line) :=
  (((s.cohered_cohDrain line).trans (.foldl (fun s _ => (s.cohered_setDie _ _ _).trans (State.cohered_cohSend _ _ _ _)) _ _)).trans
    (State.cohered_cohDrain _ line)).trans (State.cohered_setDir _ line _)

theorem State.cohered_cohInval (s : State) (line : Nat) : s.Cohered (s.cohInval line) :=
  (s.cohered_cohRecall _ _).trans (State.cohered_cohKeep _ _ _)

theorem State.clean_all (ls : List Nat) (s : State) {l : Nat} (h : l ∈ ls) : (ls.foldl State.cohClean s).Clean l :=
  foldl_each State.clean_cohClean (fun s _ _ hne hc => (s.spares_cohClean hne).clean hc) ls s l (.inl h)

theorem State.invalid_all (ls : List Nat) (s : State) {l : Nat} (h : l ∈ ls) :
    mget (ls.foldl State.cohInval s).locks l = none → ∀ die, (ls.foldl State.cohInval s).dieState l die = .i := by
  refine foldl_each (P := fun s l => mget s.locks l = none → ∀ die, s.dieState l die = .i) (fun s l hl => ?_) (fun s k x hne hx hl die => ?_)
    ls s l (.inl h)
  · exact s.dieState_cohInval (by rwa [(s.cohered_cohInval l).same] at hl)
  · have hs := hx (by rwa [(s.cohered_cohInval k).same] at hl) die
    exact (s.spares_cohInval hne die).elim (·.trans hs) id

/-! The words over ranges (R152, R153). -/

theorem rangeOf_long {a b : BitVec 7} {s : State} (hp : s.unit.pre = none) (h : 2 ^ 30 < (s.getX b.toNat).toNat) :
    rangeOf a b s = .error (.trap { cause := .illegalOperand }) := by
  rw [rangeOf, M.bind_ok (srcC_lone hp a), M.bind_ok (srcC_lone hp b), M.bind_error (require_fails (decide_eq_false (by omega)) _ _)]

theorem Spec.counted_frame (s : State) (singles : List (List Eff)) :
    (Spec.counted s singles).th.stores = s.th.stores ++ [singles] ∧ (Spec.counted s singles).arch = s.arch ∧
    ∃ ts, Spec.counted s singles = { s with threads := ts } := by
  unfold Spec.counted
  dsimp only
  split
  · exact ⟨by rw [State.th_setTh], by simp [State.arch], _, rfl⟩
  · obtain ⟨cs, h⟩ := (s.setTh { s.th with stores := s.th.stores ++ [singles], arrivals := s.th.arrivals ++ [s.cycle] }).th.modLast_shape
      (fun c => { c with scn := c.scn + 1 })
    rw [h]
    exact ⟨by simp, by simp [State.arch], _, rfl⟩

/-- `clean` and `inval` act on the lines of their range and count in SC. -/
theorem cacheRange {i : Instr} {a b : BitVec 7} {f : State → Nat → State} {s s1 s2 : State} {ls : List Nat} (ho : s.Opens i s1)
    (hp : s1.unit.pre = none) (he : exec i s = issue i (rangeOf a b >>= fun ls => modify (fun s => ls.foldl f s) >>= fun _ => countDone) s)
    (hf : ∀ (s : State) (l : Nat), s.Cohered (f s l)) :
    (2 ^ 30 < (s1.getX b.toNat).toNat → Spec.Raises i s s1 { cause := .illegalOperand }) ∧
    (rangeOf a b s1 = .ok (ls, s2) → s2.th.stores.length < 63 →
      ∃ t, Spec.Completes i s t ∧ t.th.stores = s2.th.stores ++ [[]] ∧ t.mem = s2.mem ∧ t.rf = s2.rf ∧ t.arch = s2.arch ∧
        t.dirs = (ls.foldl f s2).dirs) := by
  refine ⟨fun h => he.trans (ho.traps (M.bind_error (rangeOf_long hp h))), fun h hroom => ?_⟩
  have hc := State.Cohered.foldl hf ls s2
  have hth : (ls.foldl f s2).th = s2.th := by rw [hc.same]; rfl
  obtain ⟨hstores, ha, ts, hshape⟩ := Spec.counted_frame (ls.foldl f s2) []
  refine ⟨_, he.trans (ho.runs ((M.bind_ok h).trans ((M.bind_ok rfl).trans (countDone_run (by rw [hth]; exact hroom))))), ?_, ?_, ?_, ?_, ?_⟩
  · rw [hstores, hth]
  · rw [hshape]
    show (ls.foldl f s2).mem = _
    rw [hc.same]
  · rw [hshape]
    show (ls.foldl f s2).rf = _
    rw [hc.same]
  · rw [ha, State.arch, hth, State.arch]
  · rw [hshape]

theorem State.dieState_congr {s t : State} (h : t.dirs = s.dirs) (l die : Nat) : t.dieState l die = s.dieState l die := by
  unfold State.dieState State.dirOf
  rw [h]

/-! Instruction lines (R153). -/

theorem State.iflushLine_keeps (s : State) (l : Nat) :
    (s.iflushLine l).fs = s.fs ∧ (s.iflushLine l).mem = s.mem ∧ (s.iflushLine l).rf = s.rf := by
  unfold State.iflushLine
  split <;> exact ⟨rfl, rfl, rfl⟩

theorem State.icache_iflushLine (s : State) (l : Nat) :
    mget (s.iflushLine l).icache (icKey (coreOf s.fs) l) = none := by
  unfold State.iflushLine
  split
  · assumption
  · exact mget_mdel_self ..

theorem State.icache_iflushLine_none {s : State} {k : Nat} (h : mget s.icache k = none) (l : Nat) :
    mget (s.iflushLine l).icache k = none := by
  unfold State.iflushLine
  split
  · exact h
  · exact mget_mdel_of_none h _

theorem State.iflush_all (ls : List Nat) : ∀ s : State, (ls.foldl State.iflushLine s).fs = s.fs ∧ (ls.foldl State.iflushLine s).mem = s.mem ∧
    (ls.foldl State.iflushLine s).rf = s.rf := by
  induction ls with
  | nil => exact fun _ => ⟨rfl, rfl, rfl⟩
  | cons l ls ih =>
    intro s
    obtain ⟨hf, hm, hr⟩ := s.iflushLine_keeps l
    obtain ⟨hf', hm', hr'⟩ := ih (s.iflushLine l)
    exact ⟨hf'.trans hf, hm'.trans hm, hr'.trans hr⟩

theorem State.iflushed_all (ls : List Nat) (s : State) {l : Nat} (h : l ∈ ls) :
    mget (ls.foldl State.iflushLine s).icache (icKey (coreOf s.fs) l) = none := by
  have hall := foldl_each (P := fun t l => mget t.icache (icKey (coreOf t.fs) l) = none) (fun t l => by
    rw [(t.iflushLine_keeps l).1]; exact t.icache_iflushLine l) (fun t k x _ hx => by
    rw [(t.iflushLine_keeps k).1]; exact State.icache_iflushLine_none hx k) ls s l (.inl h)
  rwa [(State.iflush_all ls s).1] at hall

theorem cacheRanges : Spec.CacheRanges := by
  refine ⟨fun b a s s1 s2 ls ho hp => ?_, fun b a s s1 s2 ls ho hp => ?_, fun b a s s1 s2 ls ho hp => ?_⟩
  · obtain ⟨hlong, hrun⟩ := cacheRange (ls := ls) (s2 := s2) ho hp (exec_clean ..) State.cohered_cohClean
    refine ⟨hlong, fun h hroom => ?_⟩
    obtain ⟨t, ht, hst, hm, hr, ha, hdirs⟩ := hrun h hroom
    refine ⟨t, ht, hst, hm, hr, ha, fun l hl die _ => ?_⟩
    rw [State.dieState_congr hdirs]
    exact State.clean_all ls s2 hl die
  · obtain ⟨hlong, hrun⟩ := cacheRange (ls := ls) (s2 := s2) ho hp (exec_inval ..) State.cohered_cohInval
    refine ⟨hlong, fun h hroom => ?_⟩
    obtain ⟨t, ht, hst, hm, hr, ha, hdirs⟩ := hrun h hroom
    refine ⟨t, ht, hst, hm, hr, ha, fun l hl hlock die _ => ?_⟩
    rw [State.dieState_congr hdirs]
    exact State.invalid_all ls s2 hl (by rw [(State.Cohered.foldl State.cohered_cohInval ls s2).same]; exact hlock) die
  · refine ⟨fun h => (exec_iflush ..).trans (ho.traps (M.bind_error (rangeOf_long hp h))), fun h => ?_⟩
    obtain ⟨-, hm, hr⟩ := State.iflush_all ls s2
    exact ⟨ls.foldl State.iflushLine s2, (exec_iflush ..).trans (ho.runs ((M.bind_ok h).trans rfl)), hm, hr,
      fun l hl => State.iflushed_all ls s2 hl⟩

/-! Line locks (R151, R277). -/

theorem lockAddr_hbm {a : BitVec 7} {s s2 : State} {pa : Nat} (hp : s.unit.pre = none)
    (hc : checkAccess (Spec.addr s a 0) 1 1 .read .atomic s = .ok (pa, s2)) (h : isHbm pa = true) : lockAddr a s = .ok (pa / 128, s2) := by
  rw [lockAddr, M.bind_ok (srcC_lone hp a), ea_eq_addr, M.bind_ok hc, if_pos h]
  rfl

theorem lockAddr_outside {a : BitVec 7} {s s2 : State} {pa : Nat} (hp : s.unit.pre = none)
    (hc : checkAccess (Spec.addr s a 0) 1 1 .read .atomic s = .ok (pa, s2)) (h : isHbm pa = false) :
    lockAddr a s = .error (.trap (Spec.fault .pageProtection .read 0 (Spec.addr s a 0))) := by
  rw [lockAddr, M.bind_ok (srcC_lone hp a), ea_eq_addr, M.bind_ok hc, if_neg (by simp [h]), xFault_eq (by simp)]
  rfl

theorem lock_completes {a : BitVec 7} {k : BitVec 3} {s s1 s2 t : State} {l : Nat} {b : Bool} (ho : s.Opens (.lock a k) s1)
    (ha : lockAddr a s1 = .ok (l, s2)) (h : s2.lockLine l (s2.partOf s2.fs) = (b, t)) :
    Spec.Completes (.lock a k) s (t.setArch (t.arch.setK k.toNat (Spec.allBits b))) := by
  refine (exec_lock ..).trans (ho.runs ?_)
  rw [M.bind_ok ha, M.get_bind, h]
  rfl

theorem State.lockLine_own {s : State} {l : Nat} {p : Option Nat} (h : mget s.locks l = some p) : s.lockLine l p = (true, s) := by
  unfold State.lockLine
  rw [h]
  simp

theorem State.lockLine_other {s : State} {l : Nat} {p q : Option Nat} (h : mget s.locks l = some q) (hq : q ≠ p) :
    s.lockLine l p = (false, s) := by
  unfold State.lockLine
  rw [h]
  simp [hq]

theorem State.lockLine_room {s : State} {l : Nat} {p : Option Nat} (h : mget s.locks l = none) (hr : s.lockRoom l p = true) :
    ∃ t, s.lockLine l p = (true, t) ∧ t.locks = mput s.locks l p ∧ t.mem = s.mem ∧ t.rf = s.rf := by
  have hc := (s.cohered_cohAsk (cohHome l) l p).trans (State.cohered_cohDrain _ l)
  refine ⟨{ (s.cohAsk (cohHome l) l p).cohDrain l with locks := mput ((s.cohAsk (cohHome l) l p).cohDrain l).locks l p }, ?_, ?_, ?_, ?_⟩
  · unfold State.lockLine
    rw [h]
    simp [hr]
  all_goals
    dsimp only
    rw [hc.same]

theorem State.lockLine_full {s : State} {l : Nat} {p : Option Nat} (h : mget s.locks l = none) (hr : s.lockRoom l p = false) :
    s.lockLine l p = (false, s) := by
  unfold State.lockLine
  rw [h]
  simp [hr]

theorem unlockAddr_run {a : BitVec 7} {s s2 : State} {pa : Nat} (hp : s.unit.pre = none)
    (hx : ∃ x, s.translate s.th.vf s.th.asid s.th.level (Spec.addr s a 0) .read = .ok x)
    (h : xlatAt s.th.level (Spec.addr s a 0) .read s = .ok (pa, s2)) : unlockAddr a s = .ok (some (pa / 128), s2) := by
  obtain ⟨x, hx⟩ := hx
  rw [unlockAddr, M.bind_ok (srcC_lone hp a), M.get_bind, State.before_lone hp, ea_eq_addr]
  dsimp only
  rw [hx]
  exact M.bind_ok h

theorem unlockAddr_fails {a : BitVec 7} {s : State} {t : Trap} (hp : s.unit.pre = none)
    (hx : s.translate s.th.vf s.th.asid s.th.level (Spec.addr s a 0) .read = .error (.trap t)) (hc : t.cause ≠ .pageProtection) :
    unlockAddr a s = .error (.trap t) := by
  rw [unlockAddr, M.bind_ok (srcC_lone hp a), M.get_bind, State.before_lone hp, ea_eq_addr]
  dsimp only
  rw [hx]
  exact (congrFun (if_neg hc) s).trans rfl

theorem lineLocks : Spec.LineLocks := by
  refine ⟨fun a k s s1 s2 pa ho hp hc => ?_, fun a s s1 s2 pa ho hp hx hc => ?_, fun a s s1 t ho hp hx hne => ?_⟩
  · have ha := lockAddr_hbm hp hc
    refine ⟨fun h hl => lock_completes ho (ha h) (State.lockLine_own hl), fun h q hl hq => lock_completes ho (ha h) (State.lockLine_other hl hq),
      fun h hl hr => ?_, fun h hl hr => lock_completes ho (ha h) (State.lockLine_full hl hr), fun h => ?_⟩
    · obtain ⟨t, hrun, ht⟩ := State.lockLine_room hl hr
      exact ⟨t, lock_completes ho (ha h) hrun, ht⟩
    · exact ⟨_, (exec_lock ..).trans (ho.traps (M.bind_error (lockAddr_outside hp hc h))), rfl⟩
  · have hrun : Spec.Completes (.unlock a) s (s2.unlockLine (pa / 128) (s2.partOf s2.fs)) :=
      (exec_unlock ..).trans (ho.runs ((M.bind_ok (unlockAddr_run hp hx hc)).trans rfl))
    refine ⟨fun h => ⟨_, hrun, ?_⟩, fun h => ?_⟩
    · unfold State.unlockLine
      rw [if_pos h]
      exact ⟨mget_mdel_self .., rfl, rfl⟩
    · rw [State.unlockLine, if_neg h] at hrun
      exact hrun
  · exact (exec_unlock ..).trans (ho.traps (M.bind_error (unlockAddr_fails hp hx hne)))

end Sys2Proof.Machine

namespace Sys2Proof
open Machine

/-- Settles O23: the lock table of the line, and what each range's operation leaves of its lines' copies. -/
theorem lineLocksAndCacheRanges : Obligations.LineLocksAndCacheRanges := ⟨lineLocks, cacheRanges⟩

end Sys2Proof
end

section
/-!
PROOFS. Vector integer operations (R53, R155, R164, R165).
-/

namespace Sys2Proof.Machine

/-! Results element by element. -/

theorem onActive_eq {α : Type} (act : List Bool) (rs : List α) : onActive act rs = Spec.onActive act rs := by
  rw [onActive, Spec.onActive, List.zip_eq_zipWith, List.map_zipWith]

theorem map_zip_eq {α β γ : Type} (f : α → β → γ) (xs : List α) (ys : List β) :
    (xs.zip ys).map (fun p => f p.1 p.2) = List.zipWith f xs ys := by
  rw [List.zip_eq_zipWith, List.map_zipWith]

theorem scalarOf_run {act : List Bool} {b : BitVec 7} {s t : State} {y : Word} (h : Spec.scalar act b s y t) :
    scalarOf act b s = .ok (y, t) := by
  unfold Spec.scalar at h
  unfold scalarOf
  by_cases ha : act = []
  · rw [if_pos ha] at h
    obtain ⟨rfl, rfl⟩ := h
    rw [if_pos (by simp [ha])]
    rfl
  · rw [if_neg ha] at h
    rw [if_neg (by simpa using ha), h]

theorem exec_vintWord (o : VOp) (z : BitVec 2) (v : BitVec 1) (m : BitVec 3) (b a d : BitVec 5) (s : State) :
    exec (Spec.vintWord o z v m b a d) s = issue (Spec.vintWord o z v m b a d) (vecInt o z.toNat m b a d (v == 1)) s := by
  cases o <;> rfl

theorem exec_vintX {i : Instr} {o : VOp} {z : BitVec 2} {m : BitVec 3} {b : BitVec 7} {a d : BitVec 5} (s : State)
    (h : (i, o) = (.vaddX z m b a d, .vadd) ∨ (i, o) = (.vsllX z m b a d, .vsll) ∨ (i, o) = (.vsrlX z m b a d, .vsrl) ∨
      (i, o) = (.vsraX z m b a d, .vsra)) : exec i s = issue i (vecIntX o z.toNat m b a d) s := by
  rcases h with h | h | h | h <;> cases h <;> rfl

theorem vectorIntegerOperations : Spec.VectorIntegerOperations := by
  refine ⟨fun o z v m b a d s s1 s2 s3 xs ys ho hp => ?_, fun i o z m b a d s s1 s2 s3 xs y hi ho hp => ?_⟩
  · intro act w hx hy t ht
    refine (exec_vintWord ..).trans (ho.runs ?_)
    rw [vecInt, M.bind_ok (activeOf_run hp ..), ebits, M.bind_ok hx, M.bind_ok hy, map_zip_eq, onActive_eq]
    exact ht
  · intro act w hx hy t ht
    refine (exec_vintX s hi).trans (ho.runs ?_)
    rw [vecIntX, M.bind_ok (activeOf_run hp ..), ebits, M.bind_ok hx, M.bind_ok (scalarOf_run hy), onActive_eq]
    exact ht

/-! The results of Table 6.4 as arithmetic on w-bit words (R53, R164). -/

section
variable {w a : Nat}

theorem toNat_of_lt (ha : a < 2 ^ w) : (BitVec.ofNat w a).toNat = a := by
  rw [BitVec.toNat_ofNat, Nat.mod_eq_of_lt ha]

theorem toInt_eq_signedOf (ha : a < 2 ^ w) : (BitVec.ofNat w a).toInt = signedOf w a := by
  rw [BitVec.toInt_eq_toNat_cond, toNat_of_lt ha, signedOf, Nat.mod_eq_of_lt ha]

theorem wrapBits_eq (w : Nat) (v : Int) : wrapBits w v = (BitVec.ofInt w v).toNat := by
  rw [BitVec.toNat_ofInt, wrapBits]

end

theorem vectorIntegerResults : Spec.VectorIntegerResults := by
  intro w a b hw ha hb x y
  have hx : x.toNat = a := toNat_of_lt ha
  have hy : y.toNat = b := toNat_of_lt hb
  have hxi : x.toInt = signedOf w a := toInt_eq_signedOf ha
  have hyi : y.toInt = signedOf w b := toInt_eq_signedOf hb
  have hbm : b % 2 ^ w = b := Nat.mod_eq_of_lt hb
  simp only [VOp.eval]
  refine ⟨?_, ?_, ?_, ?_, ?_, ?_, ?_, ?_, ?_, ?_, ?_, ?_, ?_, ?_⟩
  · rw [BitVec.toNat_add, hx, hy]
  · rw [BitVec.toNat_sub, hx, hy, hbm, Nat.add_comm (2 ^ w - b), Nat.add_sub_assoc hb.le]
  · rw [BitVec.toNat_mul, hx, hy]
  · rw [wrapBits_eq, hxi, hyi]
  · rw [BitVec.toNat_and, hx, hy]
  · rw [BitVec.toNat_or, hx, hy]
  · rw [BitVec.toNat_xor, hx, hy]
  · rw [BitVec.toNat_shiftLeft, hx, Nat.shiftLeft_eq]
  · rw [BitVec.toNat_ushiftRight, hx, Nat.shiftRight_eq_div_pow]
  · rw [wrapBits_eq, BitVec.sshiftRight, hxi, Int.shiftRight_eq_div_pow]
    norm_cast
  · rw [apply_ite BitVec.toNat, hx, hy, BitVec.sle_eq_decide, hxi, hyi]
    simp only [decide_eq_true_eq]
  · rw [apply_ite BitVec.toNat, hx, hy, BitVec.sle_eq_decide, hxi, hyi]
    simp only [decide_eq_true_eq]
  · rw [apply_ite BitVec.toNat, hx, hy, BitVec.ule_eq_decide, hx, hy, Nat.min_def]
    simp only [decide_eq_true_eq]
  · rw [apply_ite BitVec.toNat, hx, hy, BitVec.ule_eq_decide, hx, hy, Nat.max_def]
    simp only [decide_eq_true_eq]

end Sys2Proof.Machine

namespace Sys2Proof
open Machine

/-- Settles O24: the words' elements, and each operation of Table 6.4 as arithmetic on w-bit words. -/
theorem vectorIntegerInstructions : Obligations.VectorIntegerInstructions := ⟨vectorIntegerOperations, vectorIntegerResults⟩

end Sys2Proof
end

section
/-!
PROOFS. Vector floating-point operations: results, flags and the ARITH trap of the lowest element (R68, R69, R164, R165).
-/

namespace Sys2Proof.Machine

/-! The flags of a vector word (R68, R69). -/

/-- The flags of the active elements by index. -/
def activeFlags {α : Type} (act : List Bool) (rs : List (α × FFlags)) : List (Nat × FFlags) :=
  (onActive act rs).zipIdx.filterMap (fun p => p.1.map (fun (r : α × FFlags) => (p.2, r.2)))

theorem mem_activeFlags {α : Type} {act : List Bool} {rs : List (α × FFlags)} {j : Nat} {fl : FFlags} :
    (j, fl) ∈ activeFlags act rs ↔ ∃ r, (act.zip rs)[j]? = some (true, r) ∧ r.2 = fl := by
  unfold activeFlags onActive
  simp only [List.mem_filterMap, List.mem_zipIdx_iff_getElem?, List.getElem?_map, Option.map_eq_some_iff, Prod.exists, Prod.mk.injEq]
  constructor
  · rintro ⟨o, k, ⟨b, x, f, hz, ho⟩, y, g, hy, rfl, rfl⟩
    cases b
    · rw [← ho] at hy
      simp at hy
    · rw [← ho] at hy
      simp only [if_true, Option.some.injEq, Prod.mk.injEq] at hy
      obtain ⟨rfl, rfl⟩ := hy
      exact ⟨x, f, hz, rfl⟩
  · rintro ⟨x, f, hz, rfl⟩
    exact ⟨some (x, f), j, ⟨true, x, f, hz, rfl⟩, x, f, rfl, rfl, rfl⟩

theorem zipIdx_filterMap_flags {α : Type} (l : List (Option (α × FFlags))) : ∀ n : Nat,
    ((l.zipIdx n).filterMap (fun p => p.1.map (fun (r : α × FFlags) => (p.2, r.2)))).map (·.2) = l.filterMap (Option.map (·.2)) := by
  induction l with
  | nil => exact fun _ => rfl
  | cons o l ih =>
    intro n
    rw [List.zipIdx_cons, List.filterMap_cons, List.filterMap_cons]
    cases o with
    | none => exact ih (n + 1)
    | some r => exact congrArg (r.2 :: ·) (ih (n + 1))

theorem activeFlags_or {α : Type} (act : List Bool) (rs : List (α × FFlags)) :
    (activeFlags act rs).foldl (fun acc p => acc ||| p.2) 0 = Spec.orFlags act rs := by
  have hmap : (activeFlags act rs).map (·.2) = ((act.zip rs).filter (fun p => p.1)).map (fun p => p.2.2) := by
    rw [activeFlags, zipIdx_filterMap_flags, onActive, List.filterMap_map, ← List.filterMap_eq_filter, List.map_filterMap]
    refine congrArg (List.filterMap · _) (funext fun p => ?_)
    cases hp : p.1 <;> simp [hp, Option.guard]
  rw [Spec.orFlags, ← List.foldl_map (f := fun p : Nat × FFlags => p.2) (g := fun acc fl => acc ||| fl), hmap, List.foldl_map]

theorem Arch.enabled_eq (s : State) (fl : FFlags) : s.arch.enabled fl = Spec.trapping s fl := rfl

theorem raiseVec_run {s : State} {fls : List (Nat × FFlags)} (h : ∀ p ∈ fls, Spec.trapping s p.2 = 0) :
    raiseVec fls s = .ok ((), Spec.withFlags s (fls.foldl (fun acc p => acc ||| p.2) 0)) := by
  have hnone : fls.filter (fun p => s.arch.enabled p.2 != 0) = [] := by
    rw [List.filter_eq_nil_iff]
    intro p hp
    simpa [Arch.enabled_eq] using h p hp
  rw [raiseVec, M.get_bind, hnone]
  rfl

/-- The lowest element that raised an enabled flag raises ARITH with every flag raised. -/
theorem raiseVec_trap {s : State} {fls : List (Nat × FFlags)} {j : Nat} {fl : FFlags} (hm : (j, fl) ∈ fls) (ht : Spec.trapping s fl ≠ 0)
    (hlow : ∀ p ∈ fls, Spec.trapping s p.2 ≠ 0 → j ≤ p.1) :
    raiseVec fls s = .error (.trap { cause := .arith, afl := fls.foldl (fun acc p => acc ||| p.2) 0, ev := true, info2 := BitVec.ofNat 64 j }) := by
  have hmin : ((fls.filter (fun p => s.arch.enabled p.2 != 0)).map (·.1)).min? = some j := by
    rw [List.min?_eq_some_iff]
    refine ⟨List.mem_map.mpr ⟨(j, fl), List.mem_filter.mpr ⟨hm, by simpa [Arch.enabled_eq] using ht⟩, rfl⟩, fun k hk => ?_⟩
    obtain ⟨p, hp, rfl⟩ := List.mem_map.mp hk
    obtain ⟨hp, hen⟩ := List.mem_filter.mp hp
    exact hlow p hp (by simpa [Arch.enabled_eq] using hen)
  rw [raiseVec, M.get_bind, hmin]
  rfl

theorem raiseActive_run {α : Type} {s : State} {act : List Bool} {rs : List (α × FFlags)}
    (h : ∀ p ∈ act.zip rs, p.1 = true → Spec.trapping s p.2.2 = 0) :
    raiseVec (activeFlags act rs) s = .ok ((), Spec.withFlags s (Spec.orFlags act rs)) := by
  rw [raiseVec_run, activeFlags_or]
  intro p hp
  obtain ⟨r, hr, hfl⟩ := mem_activeFlags.mp (show (p.1, p.2) ∈ _ from hp)
  rw [← hfl]
  exact h (true, r) (List.mem_of_getElem? hr) rfl

/-- A word whose body ends in the write of floating-point results (R68, R69). -/
theorem vfloat_of_vecFlt {i : Instr} {s s1 s2 : State} {body : M Unit} {act : List Bool} {d : BitVec 5} {w : Nat} {rs : List (Nat × FFlags)}
    {adv : Bool} (ho : s.Opens i s1) (he : exec i s = issue i body s) (hb : body s1 = vecFlt act d w rs adv s2) :
    Spec.VFloat i s s1 s2 act d w rs adv := by
  refine ⟨fun h t ht => he.trans (ho.runs (hb.trans ?_)), fun j r hj htr hlow => he.trans (ho.traps (hb.trans ?_))⟩
  · rw [vecFlt]
    refine (M.bind_ok (raiseActive_run h)).trans ?_
    rw [onActive_eq]
    exact ht
  · have hrun := raiseVec_trap (s := s2) (mem_activeFlags.mpr ⟨r, hj, rfl⟩) htr fun p hp hen => by
      obtain ⟨q, hq, hfl⟩ := mem_activeFlags.mp (show (p.1, p.2) ∈ _ from hp)
      by_contra hlt
      exact hen (by rw [← hfl]; exact hlow p.1 (by omega) q hq)
    rw [vecFlt]
    refine (M.bind_error hrun).trans ?_
    rw [activeFlags_or]

theorem fszLog_eq (z : BitVec 2) : fszLog z = Spec.floatLog z := by
  have h : z.toNat < 4 := z.isLt
  unfold fszLog Spec.floatLog
  generalize z.toNat = n at *
  interval_cases n <;> rfl

theorem exec_vfpWord (o : FpOp) (z : BitVec 2) (v : BitVec 1) (m : BitVec 3) (b a d : BitVec 5) (s : State) :
    exec (Spec.vfpWord o z v m b a d) s = issue (Spec.vfpWord o z v m b a d) (vecFp o z m b a d (v == 1)) s := by
  cases o <;> rfl

theorem exec_vfpX {i : Instr} {o : FpOp} {z : BitVec 2} {m : BitVec 3} {b : BitVec 7} {a d : BitVec 5} (s : State)
    (h : (i, o) = (.vfaddX z m b a d, .fadd) ∨ (i, o) = (.vfmulX z m b a d, .fmul)) : exec i s = issue i (vecFpX o z m b a d) s := by
  rcases h with h | h <;> cases h <;> rfl

/-- Products and sums of the elements of three vector fields, the third read last. -/
theorem vecFma_run {z : BitVec 2} {act : List Bool} {xs ys ds : List Nat} {d : BitVec 5} {s t : State}
    (hd : srcV d (8 * 2 ^ Spec.floatLog z) act false s = .ok (ds, t)) :
    vecFma z act xs ys d s = vecFlt act d (8 * 2 ^ Spec.floatLog z)
      (((xs.zip ys).zip ds).map (fun p => fFma (Fmt.ofSz z.toNat) (Spec.rm t) p.1.1 p.1.2 p.2)) false t := by
  rw [vecFma, fszLog_eq, ebits, M.bind_ok hd, M.get_bind, Arch.rm_eq]

/-- A scalar second operand is the same for every element. -/
theorem zip_const (xs ds : List Nat) (y : Nat) (f : Nat → Nat → Nat → Nat × FFlags) :
    ((xs.zip (xs.map fun _ => y)).zip ds).map (fun p => f p.1.1 p.1.2 p.2) = (xs.zip ds).map (fun p => f p.1 y p.2) := by
  induction xs generalizing ds with
  | nil => rfl
  | cons x xs ih =>
    cases ds with
    | nil => rfl
    | cons e ds => exact congrArg (f x y e :: ·) (ih ds)

end Sys2Proof.Machine

namespace Sys2Proof
open Machine

/-- Settles O25: each word reads its sources and ends in the write of its results with their flags. -/
theorem vectorFloatOperations : Obligations.VectorFloatOperations := by
  refine ⟨fun o z v m b a d s s1 s2 s3 xs ys ho hp => ?_, fun i o z m b a d s s1 s2 s3 xs y hi ho hp => ?_,
    fun z v m b a d s s1 s2 s3 s4 xs ys ds ho hp => ?_, fun z m b a d s s1 s2 s3 s4 xs ds y ho hp => ?_,
    fun z v m a d s s1 s2 xs ho hp => ?_⟩
  · intro act w hx hy
    refine vfloat_of_vecFlt ho (exec_vfpWord ..) ?_
    rw [vecFp, fszLog_eq, M.bind_ok (activeOf_run hp ..), ebits, M.bind_ok hx, M.bind_ok hy, M.get_bind, map_zip_eq, Arch.rm_eq]
  · intro f act w hx hy
    refine vfloat_of_vecFlt ho (exec_vfpX s hi) ?_
    rw [vecFpX, fszLog_eq, M.bind_ok (activeOf_run hp ..), ebits, M.bind_ok hx, M.bind_ok (scalarOf_run hy), M.get_bind, Arch.rm_eq]
    rfl
  · intro act w hx hy hd
    refine vfloat_of_vecFlt ho (exec_vffma ..) ?_
    rw [fszLog_eq, M.bind_ok (activeOf_run hp ..), ebits, M.bind_ok hx, M.bind_ok hy]
    exact vecFma_run hd
  · intro f act w hx hy hd
    refine vfloat_of_vecFlt ho (exec_vffmaX ..) ?_
    rw [fszLog_eq, M.bind_ok (activeOf_run hp ..), ebits, M.bind_ok hx, M.bind_ok (scalarOf_run hy)]
    refine (vecFma_run hd).trans ?_
    rw [zip_const]
    rfl
  · intro act w hx
    refine vfloat_of_vecFlt ho (exec_vfsqrt ..) ?_
    rw [fszLog_eq, M.bind_ok (activeOf_run hp ..), ebits, M.bind_ok hx, M.get_bind, Arch.rm_eq]

end Sys2Proof
end

section
/-!
PROOFS. Vector compares and element movement, conversions, reductions, scans, special functions, the generator (R155, R166 to R173).
-/

namespace Sys2Proof.Machine

/-! Predicates (R23, R166). -/

theorem kOfBits_sum (bs : List Bool) : ∀ (k n : Nat),
    (bs.zipIdx k).foldl (fun n p => if p.1 then n + 2 ^ p.2 else n) n = n + 2 ^ k * (bs.map Bool.toNat).foldr (fun b n => b + 2 * n) 0 := by
  induction bs with
  | nil => simp
  | cons b bs ih =>
    intro k n
    rw [List.zipIdx_cons, List.foldl_cons, ih, List.map_cons, List.foldr_cons, Nat.pow_succ]
    cases b
    · simp [Nat.mul_add, Nat.mul_assoc]
    · simp only [if_true, Bool.toNat_true, Nat.mul_add, Nat.mul_one, Nat.mul_assoc, Nat.add_assoc]

theorem kOfBits_eq (bs : List Bool) : kOfBits bs = Spec.predicate bs := by
  rw [kOfBits, Spec.predicate, kOfBits_sum, Nat.pow_zero, Nat.one_mul, Nat.zero_add]

theorem map_and_zip {α β : Type} (f : α → β → Bool) (act : List Bool) (xs : List α) (ys : List β) :
    (act.zip (xs.zip ys)).map (fun p => p.1 && f p.2.1 p.2.2) = List.zipWith (fun b r => b && r) act (List.zipWith f xs ys) := by
  rw [List.zip_eq_zipWith, List.zip_eq_zipWith, List.map_zipWith, List.zipWith_zipWith_right, List.zipWith_zipWith_right]

/-! Element movement (R167). -/

theorem activeElements_eq {α : Type} (act : List Bool) (xs : List α) :
    (onActive act xs).filterMap id = ((act.zip xs).filter (fun p => p.1)).map (fun p => p.2) := by
  rw [onActive, List.filterMap_map, ← List.filterMap_eq_filter, List.map_filterMap]
  refine congrArg (List.filterMap · _) (funext fun p => ?_)
  cases hp : p.1 <;> simp [hp, Option.guard]

theorem onActive_const {α : Type} (act : List Bool) (y : α) :
    onActive act (act.map fun _ => y) = act.map (fun b => if b then some y else none) := by
  rw [onActive_eq, Spec.onActive, List.zipWith_map_right, List.zipWith_self]

/-- A list of indices as integers. -/
theorem list_cast (l : List Nat) : (do let a ← l; pure (Nat.cast a) : List Int) = List.map (Nat.cast : Nat → Int) l := by
  rw [bind_pure_comp, List.map_eq_map]

/-! Conversions and reductions (R168, R170). -/

theorem cfmtLog_eq (c : Nat) : cfmtLog c = Spec.codeLog c := by
  unfold cfmtLog Spec.codeLog
  split <;> simp_all

theorem redLog_eq (z : BitVec 2) (o : BitVec 3) : redLog z o = if o.toNat < 5 then z.toNat else Spec.floatLog z := by
  rw [redLog, fszLog_eq]

end Sys2Proof.Machine

namespace Sys2Proof
open Machine

/-- Settles O26, word by word. -/
theorem vectorComparesAndMoves : Obligations.VectorComparesAndMoves := by
  refine ⟨fun z c m b a k s s1 s2 s3 xs ys ho hp => ?_, fun z c m b a k s s1 s2 s3 xs ys ho hp => ?_,
    fun z m b a d s s1 s2 s3 xs ys ho hp => ?_, fun z m b a d s s1 s2 s3 xs js ho hp => ?_, fun z m a d s s1 s2 xs ho hp => ?_,
    fun z m b d s s1 s2 y ho hp => ?_, fun z m b a d s s1 s2 s3 xs n ho hp => ?_, fun z b a d s s1 s2 s3 xs j ho hp => ?_⟩
  · intro act w hx hy _ _ _
    refine (exec_vcmp ..).trans (ho.runs ?_)
    rw [M.bind_ok (activeOf_run hp ..), ebits, M.bind_ok hx, M.bind_ok hy, map_and_zip, kOfBits_eq, modArch_run]
  · intro act w hx hy _ _ _ rs hfl t
    refine (exec_vfcmp ..).trans (ho.runs ?_)
    rw [fszLog_eq, M.bind_ok (activeOf_run hp ..), ebits, M.bind_ok hx, M.bind_ok hy, map_zip_eq]
    refine (M.bind_ok (raiseActive_run hfl)).trans ?_
    rw [map_zip_eq (fun b (r : Bool × FFlags) => b && r.1), kOfBits_eq, modArch_run]
  · intro act all w hx hy t ht
    refine (exec_vsel ..).trans (ho.runs ?_)
    rw [M.bind_ok (activeOf_run hp ..), ebits, M.bind_ok hx, M.bind_ok hy, onActive_eq]
    exact ht
  · intro act w hx hy t ht
    refine (exec_vperm ..).trans (ho.runs ?_)
    rw [M.bind_ok (activeOf_run hp ..), ebits, M.bind_ok hx, M.bind_ok hy, onActive_eq]
    exact ht
  · intro act w hx front t ht
    refine (exec_vcomp ..).trans (ho.runs ?_)
    rw [M.bind_ok (activeOf_run hp ..), ebits, M.bind_ok hx, activeElements_eq]
    refine Eq.trans ?_ ht
    split <;> simp [front, act, w]
  · intro act hy w t ht
    refine (exec_vbcast ..).trans (ho.runs ?_)
    rw [M.bind_ok (activeOf_run hp ..), ebits, M.bind_ok (scalarOf_run hy), onActive_const]
    exact ht
  · intro act w hx hy t ht
    refine (exec_vslide ..).trans (ho.runs ?_)
    rw [M.bind_ok (activeOf_run hp ..), ebits, M.bind_ok hx, M.bind_ok (scalarOf_run hy), onActive_eq]
    refine Eq.trans ?_ ht
    have hif (j : Nat) : (if 0 ≤ Int.ofNat j - n.toInt then xs.getD (Int.ofNat j - n.toInt).toNat 0 else 0) =
        if n.toInt ≤ (j : Int) then xs.getD ((j : Int) - n.toInt).toNat 0 else 0 := if_congr Int.sub_nonneg rfl rfl
    simp only [hif, act, w, list_cast, List.map_map, Function.comp_def]
  · intro act w hx hy
    refine ho.writes (exec_vext ..) ?_
    rw [M.bind_ok (activeOf_run hp ..), ebits, M.bind_ok hx, M.bind_ok hy]
    rfl

/-- Settles O27, word by word. -/
theorem vectorConversionsReductionsFunctions : Obligations.VectorConversionsReductionsFunctions := by
  refine ⟨fun i r t m v c a d dst s s1 s2 xs hi ho hp => ?_, fun t c m b a d s s1 s2 s3 xs us ho hp => ?_,
    fun z o m a d s s1 s2 xs ho hp => ?_, fun z o m a d s s1 s2 xs ho hp => ?_, fun i fn z m a d s s1 s2 xs hi ho hp => ?_,
    fun m b a d s s1 s2 s3 xs seed ho hp => ?_⟩
  · intro act sf df hx mode
    have he : exec i s = issue i (vecCvt r m dst c.toNat a d (v == 1)) s := by rcases hi with hi | hi <;> cases hi <;> rfl
    refine vfloat_of_vecFlt ho he ?_
    rw [vecCvt, cvtActive, cfmtLog_eq, cfmtLog_eq, M.bind_ok (activeOf_run hp ..)]
    dsimp only
    rw [M.bind_ok hx, M.get_bind, bits_zero, Arch.satf, bit_eq_getLsbD]
    rfl
  · intro act sf df hx hu
    refine vfloat_of_vecFlt ho (exec_vcvtSr ..) ?_
    rw [cvtActive, cfmtLog_eq, cfmtLog_eq, M.bind_ok (activeOf_run hp ..)]
    rw [M.bind_ok hx, M.bind_ok hu, M.get_bind, map_zip_eq (fun x u => convert _ _ (.sr u) _ x), Arch.satf, bit_eq_getLsbD]
  · intro esz act hx r hfl t
    have hrun : ∃ body, exec (.vred z o m a d) s = issue (.vred z o m a d) body s ∧
        body s1 = (if act = [] then pure () else dstV d (8 * 2 ^ esz) [some r.1] false : M Unit) t := by
      refine ⟨_, exec_vred .., ?_⟩
      rw [redLog_eq, M.bind_ok (activeOf_run hp ..), ebits, M.bind_ok hx, M.get_bind, onActive_eq, Arch.rm_eq]
      exact M.bind_ok (raiseVec_run hfl)
    obtain ⟨body, he, hb⟩ := hrun
    refine ⟨fun h => he.trans (ho.runs (hb.trans ?_)), fun h u hu => he.trans (ho.runs (hb.trans ?_))⟩
    · rw [if_pos h]
      rfl
    · rw [if_neg h, hu]
  · intro esz act hx vs node rs fl hfl u hu
    refine (exec_vscan ..).trans (ho.runs ?_)
    rw [redLog_eq, M.bind_ok (activeOf_run hp ..), ebits, M.bind_ok hx, M.get_bind, onActive_eq, Arch.rm_eq]
    exact (M.bind_ok (raiseVec_run hfl)).trans hu
  · intro act w hx
    have he : exec i s = issue i (vecSpecial fn z m a d) s := by
      simp only [List.mem_cons, List.not_mem_nil, or_false] at hi
      rcases hi with hi | hi | hi | hi | hi | hi <;> cases hi <;> rfl
    refine vfloat_of_vecFlt ho he ?_
    rw [vecSpecial, fszLog_eq, M.bind_ok (activeOf_run hp ..), ebits, M.bind_ok hx]
  · intro act hx hseed t ht
    refine (exec_vrng ..).trans (ho.runs ?_)
    rw [M.bind_ok (activeOf_run hp ..), M.bind_ok hx, M.bind_ok (scalarOf_run hseed), onActive_eq]
    exact ht

end Sys2Proof
end

section
/-!
PROOFS. Vector registers bit by bit, and lane claims (R154, R156 to R159).
-/

namespace Sys2Proof.Machine

/-! The bits of a v register (R154). -/

/-- Bit p of a v register. -/
def Arch.regBit (a : Arch) (r p : Nat) : Bool := (a.laneWord r (p / 32)).getLsbD (p % 32)

theorem testBit_leNat (l : List Byte) : ∀ i : Nat, (leNat l).testBit i = ((l[i / 8]?).getD 0).getLsbD (i % 8) := by
  induction l with
  | nil => intro i; simp [leNat]
  | cons b l ih =>
    intro i
    have hb : b.toNat < 2 ^ 8 := b.isLt
    rw [leNat, Nat.add_comm, show 256 = 2 ^ 8 from rfl, Nat.testBit_two_pow_mul_add _ hb]
    by_cases hi : i < 8
    · rw [if_pos hi, Nat.div_eq_of_lt hi, Nat.mod_eq_of_lt hi]
      rfl
    · rw [if_neg hi, ih, show i / 8 = (i - 8) / 8 + 1 by omega, show (i - 8) % 8 = i % 8 by omega]
      rfl

theorem Arch.getLsbD_vbyte (a : Arch) (r b : Nat) {k : Nat} (hk : k < 8) : (a.vbyte r b).getLsbD k = a.regBit r (8 * b + k) := by
  rw [Arch.vbyte, BitVec.getLsbD_extractLsb', Arch.regBit, show (8 * b + k) / 32 = b / 4 by omega,
    show (8 * b + k) % 32 = 8 * (b % 4) + k by omega]
  simp [hk]

theorem Arch.testBit_vbits (a : Arch) (r lo w i : Nat) : (a.vbits r lo w).testBit i = (decide (i < w) && a.regBit r (lo + i)) := by
  unfold Arch.vbits
  dsimp only
  rw [Nat.testBit_mod_two_pow, Nat.testBit_div_two_pow, testBit_leNat]
  by_cases hi : i < w
  · have hlt : (i + lo % 8) / 8 < (lo + w - 1) / 8 + 1 - lo / 8 := by omega
    rw [List.getElem?_map, List.getElem?_range hlt, Option.map_some, Option.getD_some, Arch.getLsbD_vbyte _ _ _ (Nat.mod_lt _ (by decide)),
      show 8 * (lo / 8 + (i + lo % 8) / 8) + (i + lo % 8) % 8 = lo + i by omega]
  · simp [hi]

theorem Arch.laneWord_setLane (a : Arch) {r q : Nat} (hr : r < 32) (hq : q < 32) (l m : Nat) (x : BitVec 32) :
    (a.setLane r l x).laneWord q m = if q = r ∧ m = l then x else a.laneWord q m := by
  unfold Arch.setLane Arch.laneWord mgetD
  dsimp only
  by_cases h : q = r ∧ m = l
  · obtain ⟨rfl, rfl⟩ := h
    rw [mget_mput_self, if_pos ⟨rfl, rfl⟩, Option.getD_some]
  · rw [mget_mput_ne _ _ (by omega), if_neg h]

theorem getLsbD_putLaneBits (x : BitVec 32) {lo w : Nat} (v : Nat) {i : Nat} (hi : i < 32) :
    (putLaneBits x lo w v).getLsbD i = if lo ≤ i ∧ i < lo + w then v.testBit (i - lo) else x.getLsbD i := by
  unfold putLaneBits
  simp only [BitVec.getLsbD_or, BitVec.getLsbD_and, BitVec.getLsbD_not, BitVec.getLsbD_ofNat, Nat.testBit_mul_two_pow,
    Nat.testBit_two_pow_sub_one, Nat.testBit_mod_two_pow, hi, decide_true, Bool.true_and]
  by_cases h1 : lo ≤ i
  · by_cases h2 : i - lo < w
    · simp [h1, h2, show i < lo + w by omega]
    · simp [h1, h2, show ¬ i < lo + w by omega]
  · simp [h1]

theorem Arch.regBit_setLane (a : Arch) {r q : Nat} (hr : r < 32) (hq : q < 32) (l lo w v p : Nat) :
    (a.setLane r l (putLaneBits (a.laneWord r l) lo w v)).regBit q p =
      if q = r ∧ p / 32 = l ∧ lo ≤ p % 32 ∧ p % 32 < lo + w then v.testBit (p % 32 - lo) else a.regBit q p := by
  unfold Arch.regBit
  rw [Arch.laneWord_setLane _ hr hq]
  by_cases h : q = r ∧ p / 32 = l
  · obtain ⟨rfl, rfl⟩ := h
    rw [if_pos ⟨rfl, rfl⟩, getLsbD_putLaneBits _ _ (Nat.mod_lt _ (by decide))]
    simp
  · rw [if_neg h, if_neg (fun h' => h ⟨h'.1, h'.2.1⟩)]

/-- An element written to a v register takes its bits, and no other bit changes. -/
theorem Arch.regBit_setVbits (a : Arch) {r q : Nat} (hr : r < 32) (hq : q < 32) {lo w : Nat} (v p : Nat)
    (hw : lo % 32 + w ≤ 32 ∨ (lo % 32 = 0 ∧ w = 64)) :
    (a.setVbits r lo w v).regBit q p = if q = r ∧ lo ≤ p ∧ p < lo + w then v.testBit (p - lo) else a.regBit q p := by
  unfold Arch.setVbits
  rcases hw with hw | ⟨hlo, rfl⟩
  · rw [if_pos ⟨by omega, hw⟩, Arch.regBit_setLane _ hr hq]
    refine if_ctx_congr (by omega) (fun h => ?_) fun _ => rfl
    rw [show p % 32 - lo % 32 = p - lo by omega]
  · rw [if_neg (by omega)]
    dsimp only
    rw [Arch.regBit_setLane _ hr hq, Arch.regBit_setLane _ hr hq, hlo]
    by_cases hq' : q = r
    · by_cases hhi : p / 32 = lo / 32 + 1
      · rw [if_pos (by omega), if_pos (by omega), Nat.testBit_div_two_pow, show p % 32 - 0 + (32 - 0) = p - lo by omega]
      · rw [if_neg (by omega)]
        refine if_ctx_congr (by omega) (fun h => ?_) fun _ => rfl
        rw [show p % 32 - 0 = p - lo by omega]
    · rw [if_neg (by tauto), if_neg (by tauto), if_neg (by tauto)]

theorem Arch.setVbits_frame (a : Arch) (r lo w v : Nat) : (a.setVbits r lo w v).k = a.k ∧ (a.setVbits r lo w v).ports = a.ports := by
  unfold Arch.setVbits
  split <;> exact ⟨rfl, rfl⟩

theorem vectorElementsReadBack : Spec.VectorElementsReadBack := by
  intro x w r q j k v hw hr hq
  have hr : r < 32 := by omega
  have hq : q < 32 := by omega
  have hfit : w * j % 32 + w ≤ 32 ∨ (w * j % 32 = 0 ∧ w = 64) := by
    rcases hw with rfl | rfl | rfl | rfl <;> omega
  have hapart (i : Nat) (hi : i < w) (hne : k ≠ j) : ¬(w * j ≤ w * k + i ∧ w * k + i < w * j + w) := by
    rcases hw with rfl | rfl | rfl | rfl <;> omega
  refine ⟨?_, fun hne => ?_, fun hne => ?_, (x.setVbits_frame ..).1, (x.setVbits_frame ..).2⟩
  · refine Nat.eq_of_testBit_eq fun i => ?_
    rw [Arch.testBit_vbits, Arch.regBit_setVbits _ hr hr v _ hfit, Nat.testBit_mod_two_pow]
    by_cases hi : i < w
    · rw [if_pos ⟨rfl, by omega, by omega⟩, Nat.add_sub_cancel_left]
    · simp [hi]
  · refine Nat.eq_of_testBit_eq fun i => ?_
    rw [Arch.testBit_vbits, Arch.testBit_vbits, Arch.regBit_setVbits _ hr hr v _ hfit]
    by_cases hi : i < w
    · rw [if_neg fun h => hapart i hi hne h.2]
    · simp [hi]
  · refine Nat.eq_of_testBit_eq fun i => ?_
    rw [Arch.testBit_vbits, Arch.testBit_vbits, Arch.regBit_setVbits _ hr hq v _ hfit, if_neg fun h => hne h.1]

/-! Lane claims (R156 to R159). -/

theorem mget_filter_key {α : Type} (p : Nat → Bool) (m : Map α) (k : Nat) :
    mget (m.filter (fun x => p x.1)) k = if p k then mget m k else none := by
  induction m with
  | nil => simp [mget]
  | cons x m ih =>
    obtain ⟨j, v⟩ := x
    rw [List.filter_cons]
    by_cases hj : j = k
    · subst hj
      cases hp : p j <;> simp [mget, hp, ih]
    · cases hp : p j <;> simp [mget, hj, ih]

/-- The registers and the grant after a change of grant (R156, R157). -/
def Arch.granted (a : Arch) (g unmet : Nat) : Arch :=
  { a with grant := g, unmet := unmet, vregs := a.vregs.filter (fun p => decide (p.1 / 32 < min g a.grant)) }

theorem setGrant_run (g u : Nat) (s : State) : ∃ t, setGrant g u s = .ok ((), t) ∧ t.arch = s.arch.granted g u ∧ t.rf = s.rf ∧ t.mem = s.mem := by
  obtain ⟨t, ht, ha, hr, hm⟩ := modChunk_frame (fun k => { k with lanes := k.lanes + (s.arch.grant - g) }) (s.setArch (s.arch.granted g u))
  refine ⟨t, ?_, ha.trans (State.arch_setArch ..), hr, hm⟩
  rw [setGrant, M.get_bind, M.bind_ok (modArch_run _ _)]
  exact ht

theorem Arch.laneWord_granted (a : Arch) (g u : Nat) {r : Nat} (hr : r < 32) (lane : Nat) :
    (a.granted g u).laneWord r lane = if lane < min g a.grant then a.laneWord r lane else 0 := by
  unfold Arch.granted Arch.laneWord mgetD
  dsimp only
  rw [mget_filter_key (fun k => decide (k / 32 < min g a.grant)), show (32 * lane + r) / 32 = lane by omega]
  by_cases h : lane < min g a.grant
  · rw [if_pos (decide_eq_true h), if_pos h]
  · rw [if_neg (by simpa using h), if_neg h]
    rfl

theorem claimLanes_free {s t : State} {q : Nat} (hd : s.th.det = false)
    (h : setGrant (min q (s.lanesFree s.fs / 32 * 32)) (q - min q (s.lanesFree s.fs / 32 * 32)) s = .ok ((), t)) :
    claimLanes q s = .ok (min q (s.lanesFree s.fs / 32 * 32), t) := by
  rw [claimLanes, M.get_bind, hd]
  exact (M.bind_ok h).trans rfl

theorem claimLanes_det {s : State} {q : Nat} (hd : s.th.det = true) :
    claimLanes q s = (M.require (decide (q ≤ s.laneShare s.fs)) .claim >>= fun _ => M.untilLanes s q >>= fun _ => setGrant q 0 >>= fun _ => pure q) s := by
  rw [claimLanes, M.get_bind, hd]
  rfl

theorem untilLanes_run {s : State} {n : Nat} (h : n ≤ s.lanesFree s.fs) : M.untilLanes s n s = .ok ((), s) := by
  rw [M.untilLanes, if_pos h]
  rfl

theorem untilLanes_holds {s : State} {n : Nat} (h : s.lanesFree s.fs < n) : M.untilLanes s n s = .error (.hold (.claim n)) := by
  rw [M.untilLanes, if_neg (by omega)]
  rfl

/-- A word that claims q lanes and writes what it was granted. -/
theorem claims_of_claimLanes {i : Instr} {d : BitVec 7} {s s1 s2 : State} {q : Nat} {body : M Unit} (ho : s.Opens i s1)
    (he : exec i s = issue i body s) (hb : body s1 = (claimLanes q >>= fun g => dstA d (BitVec.ofNat 64 g)) s2) : Spec.Claims i d s s1 s2 q := by
  refine ⟨fun hd s3 h => ho.writes he (hb.trans (M.bind_ok (claimLanes_free hd h))), fun hd => ⟨fun h => ?_, fun h hfull => ?_,
    fun h hfree s3 hg => ho.writes he (hb.trans (M.bind_ok ?_))⟩⟩
  · refine he.trans (ho.traps (hb.trans (M.bind_error ?_)))
    rw [claimLanes_det hd, M.bind_error (require_fails (decide_eq_false (by omega)) _ _)]
  · refine he.trans (ho.holds (hb.trans (M.bind_error ?_)))
    rw [claimLanes_det hd, M.bind_ok (require_run (decide_eq_true h) _ _), M.bind_error (untilLanes_holds hfull)]
  · rw [claimLanes_det hd, M.bind_ok (require_run (decide_eq_true h) _ _), M.bind_ok (untilLanes_run hfree), M.bind_ok hg]
    rfl

/-- The grant that `vrenew` leaves a thread that has one, outside a deterministic launch (R157). -/
def State.renewed (s : State) (q : Nat) : Nat :=
  if (s.laneMates s.fs).any (fun p => p.1 != s.fs && p.2.a.unmet != 0) = true ∧ s.fairShare s.fs < s.arch.grant then min q (s.fairShare s.fs)
  else min q ((s.arch.grant + s.lanesFree s.fs) / 32 * 32)

theorem renewClaims {a d : BitVec 7} {s s1 s2 s3 : State} {x : Word} (ho : s.Opens (.vrenew a d) s1) (ha : srcA a s1 = .ok (x, s2)) :
    let q := min x.toNat 512 / 32 * 32
    let c := s2.arch.grant
    (c = 0 → Spec.Claims (.vrenew a d) d s s1 s2 q) ∧
    (c ≠ 0 → s2.th.det = false → setGrant (s2.renewed q) (q - s2.renewed q) s2 = .ok ((), s3) →
      Spec.Writes (.vrenew a d) s s3 d (BitVec.ofNat 64 (s2.renewed q))) ∧
    (c ≠ 0 → s2.th.det = true →
      (s2.laneShare s2.fs < q → Spec.Raises (.vrenew a d) s s1 { cause := .claim }) ∧
      (q ≤ s2.laneShare s2.fs → c + s2.lanesFree s2.fs < q → Spec.Held (.vrenew a d) s (.claim (q - c))) ∧
      (q ≤ s2.laneShare s2.fs → q ≤ c + s2.lanesFree s2.fs → setGrant q 0 s2 = .ok ((), s3) →
        Spec.Writes (.vrenew a d) s s3 d (BitVec.ofNat 64 q))) := by
  intro q c
  have hbody : ∃ body, exec (.vrenew a d) s = issue (.vrenew a d) body s ∧
      (c = 0 → body s1 = (claimLanes q >>= fun g => dstA d (BitVec.ofNat 64 g)) s2) ∧
      (c ≠ 0 → s2.th.det = true → body s1 = (M.require (decide (q ≤ s2.laneShare s2.fs)) .claim >>= fun _ =>
        M.untilLanes s2 (q - c) >>= fun _ => setGrant q 0 >>= fun _ => dstA d (BitVec.ofNat 64 q)) s2) ∧
      (c ≠ 0 → s2.th.det = false → body s1 =
        (setGrant (s2.renewed q) (q - s2.renewed q) >>= fun _ => dstA d (BitVec.ofNat 64 (s2.renewed q))) s2) := by
    refine ⟨_, exec_vrenew .., fun hc => ?_, fun hc hd => ?_, fun hc hd => ?_⟩
    · rw [M.bind_ok ha, M.get_bind, if_pos hc]
      rfl
    · rw [M.bind_ok ha, M.get_bind, if_neg hc, hd]
      rfl
    · rw [M.bind_ok ha, M.get_bind, if_neg hc, hd]
      rfl
  obtain ⟨body, he, hzero, hdet, hfree⟩ := hbody
  refine ⟨fun hc => claims_of_claimLanes ho he (hzero hc), fun hc hd hg => ho.writes he ((hfree hc hd).trans (M.bind_ok hg)), fun hc hd =>
    ⟨fun h => he.trans (ho.traps ((hdet hc hd).trans ?_)), fun h hfull => he.trans (ho.holds ((hdet hc hd).trans ?_)),
      fun h hroom hg => ho.writes he ((hdet hc hd).trans ?_)⟩⟩
  · rw [M.bind_error (require_fails (decide_eq_false (by omega)) _ _)]
  · rw [M.bind_ok (require_run (decide_eq_true h) _ _), M.bind_error (untilLanes_holds (by omega))]
  · rw [M.bind_ok (require_run (decide_eq_true h) _ _), M.bind_ok (untilLanes_run (by omega)), M.bind_ok hg]

theorem laneClaims : Spec.LaneClaims := by
  refine ⟨fun a d s s1 s2 x ho ha => ⟨fun h => ?_, fun h => ?_⟩, fun a d s s1 s2 s3 x ho ha => ?_, fun s s1 ho => ?_, fun z d s s1 ho => ?_,
    fun s t g u h => ?_, fun s g u => ?_⟩
  · refine (exec_vclaim ..).trans (ho.traps ?_)
    rw [M.bind_ok ha, M.get_bind, M.bind_error (require_fails (decide_eq_false h) _ _)]
  · refine claims_of_claimLanes ho (exec_vclaim ..) ?_
    rw [M.bind_ok ha, M.get_bind, M.bind_ok (require_run (decide_eq_true h) _ _)]
    rfl
  · exact renewClaims ho ha
  · obtain ⟨t, ht, harch, hr, hm⟩ := setGrant_run 0 0 s1
    refine ⟨t, (exec_vrel ..).trans (ho.runs ht), by rw [harch]; rfl, by rw [harch]; rfl, ?_, by rw [harch]; rfl, hr, hm⟩
    rw [harch]
    simp [Arch.granted]
  · refine ho.writes (exec_vlen ..) ?_
    rw [M.get_bind]
    rfl
  · obtain ⟨t', ht, harch, hr, hm⟩ := setGrant_run g u s
    rw [h] at ht
    injection ht with ht
    injection ht with _ ht
    subst ht
    rw [harch]
    refine ⟨rfl, rfl, hr, hm, fun r lane hr hl => ?_, fun r lane hr hl => ?_, fun h0 r lane hr => ?_⟩
    · rw [Arch.laneWord_granted _ _ _ hr, if_pos hl]
    · rw [Arch.laneWord_granted _ _ _ hr, if_neg (by omega)]
    · rw [Arch.laneWord_granted _ _ _ hr, if_neg (by omega)]
  · obtain ⟨t, ht, -⟩ := setGrant_run g u s
    exact ⟨t, ht⟩

end Sys2Proof.Machine

namespace Sys2Proof
open Machine

/-- Settles O28: the bits of a register, and the claims. -/
theorem vectorRegistersAndClaims : Obligations.VectorRegistersAndClaims := ⟨vectorElementsReadBack, laneClaims⟩

end Sys2Proof
end

section
/-!
PROOFS. Vector loads and stores: the element accesses as counted operations (R160 to R163).
-/

namespace Sys2Proof.Machine

/-- What a vector load does once the checks of its elements have passed. -/
def elementsLoad (act : List Bool) (esz : Nat) (d : BitVec 5) (adv : Bool) (pas : List (Nat × Nat)) : M Unit := do
  readLines (pas.flatMap (fun p => linesOf p.2 (2 ^ esz))).dedup
  let xs ← readElems pas esz (decide (28 ≤ d.toNat))
  let vs := (pas.zip xs).map (fun p => (p.1.1, p.2))
  if d.toNat < 28 then countLoad [.elems d.toNat (8 * 2 ^ esz) vs (pas.map (·.2))]
  else
    dstV d (8 * 2 ^ esz) (act.zipIdx.map (fun p => if p.1 then mget vs p.2 else none)) adv
    countLoad []

theorem vecLoad_run {act : List Bool} {addr : Nat → Word} {esz : Nat} {d : BitVec 5} {adv : Bool} {s t : State} {pas : List (Nat × Nat)}
    (h : checkElems (Spec.elements act addr) esz true s = .ok (pas, t)) :
    vecLoad act ((List.range act.length).map addr) esz d adv s = elementsLoad act esz d adv pas t := by
  rw [vecLoad, activeAddrs_range, M.bind_ok h]
  rfl

theorem readElems_together {pas : List (Nat × Nat)} {esz : Nat} {port : Bool} {s s4 s5 : State} {xs : List Nat}
    (hs : ¬(port = true ∧ s.th.directMode = true ∧ s.unit.outside = false))
    (hc : (if port then countEntries pas.length else countReads pas.length) s = .ok ((), s4))
    (hv : pas.mapM (fun p => viewed .vector p.2 (2 ^ esz)) s4 = .ok (xs, s5)) : readElems pas esz port s = .ok (xs, s5) := by
  rw [readElems, M.get_bind, if_neg (by simpa [and_assoc] using hs)]
  cases port
  · exact (M.bind_ok hc).trans hv
  · exact (M.bind_ok hc).trans hv

theorem readElems_singly {pas : List (Nat × Nat)} {esz : Nat} {s : State} (hd : s.th.directMode = true) (ho : s.unit.outside = false) :
    readElems pas esz true s = (match pas[s.gathered.length]? with
      | none => pure s.gathered
      | some p => do
        let x ← viewed .vector p.2 (2 ^ esz)
        if s.gathered.length + 1 < pas.length then M.hold (.gather (s.gathered ++ [x]))
        else
          countEntries 1
          pure (s.gathered ++ [x]) : M (List Nat)) s := by
  rw [readElems, M.get_bind, if_pos (by simp [hd, ho])] <;> rfl

theorem elementsLoad_register {act : List Bool} {esz : Nat} {d : BitVec 5} {adv : Bool} {pas : List (Nat × Nat)} {s s3 s5 : State}
    {xs : List Nat} (hr : readLines (pas.flatMap (fun p => linesOf p.2 (2 ^ esz))).dedup s = .ok ((), s3))
    (hx : readElems pas esz (decide (28 ≤ d.toNat)) s3 = .ok (xs, s5)) (hd : d.toNat < 28) (hroom : s5.th.loads.length < 63) :
    elementsLoad act esz d adv pas s = .ok ((), Spec.countedLoad s5
      [.elems d.toNat (8 * 2 ^ esz) ((pas.zip xs).map (fun q => (q.1.1, q.2))) (pas.map (fun p => p.2))]) := by
  rw [elementsLoad, M.bind_ok hr, M.bind_ok hx]
  simp only [if_pos hd]
  exact countLoad_run _ hroom

theorem elementsLoad_port {act : List Bool} {esz : Nat} {d : BitVec 5} {adv : Bool} {pas : List (Nat × Nat)} {s s3 s5 v : State}
    {xs : List Nat} (hr : readLines (pas.flatMap (fun p => linesOf p.2 (2 ^ esz))).dedup s = .ok ((), s3))
    (hx : readElems pas esz (decide (28 ≤ d.toNat)) s3 = .ok (xs, s5)) (hd : 28 ≤ d.toNat)
    (hv : dstV d (8 * 2 ^ esz) (act.zipIdx.map (fun p => if p.1 then mget ((pas.zip xs).map (fun q => (q.1.1, q.2))) p.2 else none)) adv s5 =
      .ok ((), v)) (hroom : v.th.loads.length < 63) :
    elementsLoad act esz d adv pas s = .ok ((), Spec.countedLoad v []) := by
  rw [elementsLoad, M.bind_ok hr, M.bind_ok hx]
  simp only [if_neg (Nat.not_lt.mpr hd)]
  rw [M.bind_ok hv]
  exact countLoad_run _ hroom

theorem elementsLoad_holds {act : List Bool} {esz : Nat} {d : BitVec 5} {adv : Bool} {pas : List (Nat × Nat)} {s s3 : State}
    {e : Stop} (hr : readLines (pas.flatMap (fun p => linesOf p.2 (2 ^ esz))).dedup s = .ok ((), s3))
    (hx : readElems pas esz (decide (28 ≤ d.toNat)) s3 = .error e) : elementsLoad act esz d adv pas s = .error e := by
  rw [elementsLoad, M.bind_ok hr, M.bind_error hx]

/-- A word whose unit comes to the loads of its checked elements does with them what R119 and R160 to R163 say. -/
theorem loadsElements_of {i : Instr} {s s1 s2 : State} {act : List Bool} {esz : Nat} {d : BitVec 5} {adv : Bool} {pas : List (Nat × Nat)}
    {body : M Unit} (ho : s.Opens i s1) (hi : exec i s = issue i body s) (hb : body s1 = elementsLoad act esz d adv pas s2) :
    Spec.LoadsElements i s s2 act esz d adv pas := by
  intro s3 hr singly pushes
  refine ⟨fun hs s4 s5 xs hc hv => ?_, fun hs xs hg => ?_⟩
  · have hx : readElems pas esz (decide (28 ≤ d.toNat)) s3 = .ok (xs, s5) := by
      refine readElems_together (fun h => hs ⟨of_decide_eq_true h.1, h.2.1, h.2.2⟩) ?_ hv
      by_cases hd : d.toNat < 28
      · simpa [hd, Nat.not_le.mpr hd] using hc
      · simpa [hd, Nat.not_lt.mp hd] using hc
    exact ⟨fun hd hroom => hi.trans (ho.runs (hb.trans (elementsLoad_register hr hx hd hroom))),
      fun hd v hv hroom => hi.trans (ho.runs (hb.trans (elementsLoad_port hr hx hd hv hroom)))⟩
  · obtain ⟨hd, hdir, hout⟩ := hs
    have hread := (congrArg (readElems pas esz · s3) (decide_eq_true hd)).trans (readElems_singly hdir hout)
    rw [hg] at hread
    refine ⟨fun hpas hxs v hv hroom => ?_, fun p x s4 s5 hp hx => ⟨fun hl => ?_, fun hl hc v hv hroom => ?_⟩⟩
    · subst hpas hxs
      exact hi.trans (ho.runs (hb.trans (elementsLoad_port hr hread hd hv hroom)))
    · refine hi.trans (ho.holds (hb.trans (elementsLoad_holds hr (hread.trans ?_))))
      simp only [hp]
      rw [M.bind_ok hx, if_pos hl]
      rfl
    · refine hi.trans (ho.runs (hb.trans (elementsLoad_port hr (hread.trans ?_) hd hv hroom)))
      simp only [hp]
      rw [M.bind_ok hx, if_neg (by omega), M.bind_ok hc]
      rfl

theorem vecStore_run {act : List Bool} {addr : Nat → Word} {esz : Nat} {vals : List Nat} {s s2 s3 : State} {pas : List (Nat × Nat)}
    (h : checkElems (Spec.elements act addr) esz false s = .ok (pas, s2))
    (hc : let effs := pas.map (fun p => s2.effFor p.2 (leBytes (2 ^ esz) (vals.getD p.1 0)))
      countSingles .vector (effs.map (fun e => [e])) ((effs.filter Eff.isRemote).flatMap Eff.items).dedup.length s2 = .ok ((), s3)) :
    vecStore act ((List.range act.length).map addr) esz vals s = .ok ((), s3) := by
  rw [vecStore, activeAddrs_range, M.bind_ok h, M.get_bind]
  exact hc

end Sys2Proof.Machine

namespace Sys2Proof
open Machine

/-- Settles O29: each word's addresses are the elements' of R161, and its checked elements are loaded or stored by one lemma for all of them. -/
theorem vectorLoadsAndStores : Obligations.VectorLoadsAndStores := by
  refine ⟨fun i m a d adv esz addr s s1 s2 pas ho hp hi h => ?_, fun m c x a z d s s1 s2 s3 idx pas ho hp => ?_,
    fun i m a d adv esz addr s s1 s2 s3 s4 vs pas ho hp hi hsrc h => ?_, fun m c x a z d s s1 s2 s3 s4 s5 idx vs pas ho hp => ?_⟩
  · rcases hi with ⟨o, v, z, rfl, rfl, rfl, rfl⟩ | ⟨b, z, rfl, rfl, rfl, rfl⟩
    · exact loadsElements_of ho (exec_vld ..) (by rw [M.bind_ok (activeOf_run hp ..), M.bind_ok (unitAddrs_run hp ..)]; exact vecLoad_run h)
    · exact loadsElements_of ho (exec_vlds ..) (by
        rw [M.bind_ok (activeOf_run hp ..), M.bind_ok (stridedAddrs_run hp ..)]; exact vecLoad_run h)
  · intro esz act hidx hp2 hlen addr h
    exact loadsElements_of ho (exec_vgat ..) (by
      rw [M.bind_ok (activeOf_run hp ..), M.bind_ok hidx, M.bind_ok (indexedAddrs_run hp2 _ _ _ hlen)]; exact vecLoad_run h)
  · intro effs hc
    rcases hi with ⟨o, v, z, rfl, rfl, rfl, rfl⟩ | ⟨b, z, rfl, rfl, rfl, rfl⟩
    · exact (exec_vst ..).trans (ho.runs (by
        rw [M.bind_ok (activeOf_run hp ..), M.bind_ok (unitAddrs_run hp ..), M.bind_ok hsrc]; exact vecStore_run h hc))
    · exact (exec_vsts ..).trans (ho.runs (by
        rw [M.bind_ok (activeOf_run hp ..), M.bind_ok (stridedAddrs_run hp ..), M.bind_ok hsrc]; exact vecStore_run h hc))
  · intro esz act hidx hsrc hp3 hlen addr h effs hc
    exact (exec_vsct ..).trans (ho.runs (by
      rw [M.bind_ok (activeOf_run hp ..), M.bind_ok hidx, M.bind_ok hsrc, M.bind_ok (indexedAddrs_run hp3 _ _ _ hlen)]
      exact vecStore_run h hc))

end Sys2Proof
end

section
/-!
PROOFS. Matrix and tile instructions: the checks and the issue of the commands, and the two words that the thread executes itself
(R179 to R207).
-/

namespace Sys2Proof.Machine

/-! Checks of commands (R180, R183, R196, R198). -/

/-- A part of a unit that only checks: it passes and changes nothing, or traps with one of the two causes of R183. -/
def OnlyChecks (m : M Unit) (s : State) : Prop :=
  (∃ t, m s = .error (.trap t) ∧ (t.cause = .illegalOperand ∨ t.cause = .pageProtection)) ∨ m s = .ok ((), s)

theorem onlyChecks_require (b : Bool) (s : State) : OnlyChecks (M.require b .illegalOperand) s := by
  cases b
  · exact .inl ⟨_, rfl, .inl rfl⟩
  · exact .inr rfl

theorem onlyChecks_bind {m : M Unit} {f : Unit → M Unit} {s : State} (hm : OnlyChecks m s) (hf : OnlyChecks (f ()) s) :
    OnlyChecks (m >>= f) s := by
  unfold OnlyChecks
  rcases hm with ⟨t, h, hc⟩ | h
  · exact .inl ⟨t, M.bind_error h, hc⟩
  · rw [M.bind_ok h]
    exact hf

theorem onlyChecks_get {f : State → M Unit} {s : State} (h : OnlyChecks (f s) s) : OnlyChecks (get >>= f) s := h

theorem onlyChecks_regionChecks (rs : List Region) (s : State) : OnlyChecks (regionChecks rs) s := by
  refine onlyChecks_get (onlyChecks_bind (onlyChecks_require ..) (onlyChecks_bind (onlyChecks_require ..)
    (onlyChecks_bind (onlyChecks_require ..) ?_)))
  by_cases h : rs.all (s.before.regionOwned s.fs) = true
  · exact .inr (by rw [if_pos h]; rfl)
  · exact .inl ⟨_, by rw [if_neg h]; rfl, .inr rfl⟩

theorem onlyChecks_matChecks (op : MatOp) (xd xa xb : Word) (s : State) : OnlyChecks (matChecks op xd xa xb) s := by
  have hrest (rs : List Region) : OnlyChecks (M.require (overlapOk op rs) .illegalOperand >>= fun _ => regionChecks rs) s :=
    onlyChecks_bind (onlyChecks_require ..) (onlyChecks_regionChecks ..)
  refine onlyChecks_get ?_
  cases op with
  | mma c => exact onlyChecks_bind (onlyChecks_require ..) (onlyChecks_bind (onlyChecks_require ..) (hrest _))
  | mmode | mscale | mld | mzero | mdrain => exact onlyChecks_bind (onlyChecks_require ..) (hrest _)
  | mbar | mtrans | mcpy => exact hrest _

theorem matrixOperandChecks : Spec.MatrixOperandChecks := by
  refine ⟨fun s => rfl, fun s xa => ?_, fun s xd xa xb h => ?_, fun s op xd xa xb => onlyChecks_matChecks ..⟩
  · have hle : decide (xa.toNat ≤ 1) = true ↔ xa = 0 ∨ xa = 1 := by
      rw [decide_eq_true_iff]
      constructor
      · intro h
        rcases Nat.le_one_iff_eq_zero_or_eq_one.mp h with h | h
        · exact .inl (BitVec.eq_of_toNat_eq h)
        · exact .inr (BitVec.eq_of_toNat_eq h)
      · rintro (rfl | rfl) <;> decide
    have hcond : (decide (xa.toNat ≤ 1) && (xa != 1 || s.aggGrant s.fs)) = true ↔ xa = 0 ∨ (xa = 1 ∧ s.aggGrant s.fs = true) := by
      rw [Bool.and_eq_true, hle, Bool.or_eq_true, bne_iff_ne]
      constructor
      · rintro ⟨rfl | rfl, h⟩
        · exact .inl rfl
        · exact .inr ⟨rfl, h.resolve_left (fun h => h rfl)⟩
      · rintro (rfl | ⟨rfl, h⟩)
        · exact ⟨.inl rfl, .inl (by decide)⟩
        · exact ⟨.inr rfl, .inr h⟩
    show (M.require (decide (xa.toNat ≤ 1) && (xa != 1 || s.aggGrant s.fs)) .illegalOperand >>= fun _ => _) s = _
    by_cases h : xa = 0 ∨ (xa = 1 ∧ s.aggGrant s.fs = true)
    · rw [M.bind_ok (require_run (hcond.mpr h) ..), if_pos h]
      rfl
    · rw [M.bind_error (require_fails (Bool.eq_false_iff.mpr (mt hcond.mp h)) ..), if_neg h]
  · have hs : shapeOk xb = false := by
      rw [Bool.eq_false_iff]
      intro hok
      simp only [shapeOk, shapeRows, shapeBytes, Bool.and_eq_true, beq_iff_eq, decide_eq_true_eq] at hok
      obtain ⟨⟨⟨⟨⟨⟨hhigh, hmid⟩, hr1⟩, hr⟩, hb16⟩, hb1⟩, hb⟩ := hok
      exact h ⟨of_decide_eq_true hr1, of_decide_eq_true hr, of_decide_eq_true hb16, of_decide_eq_true hb1, of_decide_eq_true hb, hhigh, hmid⟩
    rw [matChecks, M.get_bind]
    exact M.bind_error (require_fails hs ..)

/-! The sources of a matrix word, and the state that its command enters (R92, R186). -/

/-- One source of a matrix word. -/
def sourceOf (f : Option (BitVec 7)) : M Word := match f with | some f => srcA f | none => noWord

theorem sources_eq (a b d : Option (BitVec 7)) :
    Spec.sources a b d = sourceOf a >>= fun xa => sourceOf b >>= fun xb => sourceOf d >>= fun xd => pure (xa, xb, xd) := by
  rfl

/-- The sources are read one after the other. -/
theorem sources_split {a b d : Option (BitVec 7)} {xa xb xd : Word} {s s2 : State} (h : Spec.sources a b d s = .ok ((xa, xb, xd), s2)) :
    ∃ u v, sourceOf a s = .ok (xa, u) ∧ sourceOf b u = .ok (xb, v) ∧ sourceOf d v = .ok (xd, s2) := by
  rw [sources_eq] at h
  obtain ⟨ya, u, ha, h⟩ := M.bind_ok_inv h
  obtain ⟨yb, v, hb, h⟩ := M.bind_ok_inv h
  obtain ⟨yd, w, hd, h⟩ := M.bind_ok_inv h
  obtain ⟨hx, rfl⟩ := Prod.mk.inj (Except.ok.inj (h : Except.ok ((ya, yb, yd), w) = Except.ok ((xa, xb, xd), s2)))
  obtain ⟨rfl, hbd⟩ := Prod.mk.inj hx
  obtain ⟨rfl, rfl⟩ := Prod.mk.inj hbd
  exact ⟨u, v, ha, hb, hd⟩

theorem issueRegs_sources {op : MatOp} {a b d : Option (BitVec 7)} {xa xb xd : Word} {s s2 : State}
    (h : Spec.sources a b d s = .ok ((xa, xb, xd), s2)) :
    issueRegs op (sourceOf d) (sourceOf a) (sourceOf b) s = issueMat op xd xa xb s2 := by
  obtain ⟨u, v, ha, hb, hd⟩ := sources_split h
  rw [issueRegs, M.bind_ok ha, M.bind_ok hb, M.bind_ok hd]

theorem exec_matCommand {i : Instr} {op : MatOp} {a b d : Option (BitVec 7)} {s s1 s2 : State} {xa xb xd : Word}
    (hi : Spec.matCommand i = some (op, a, b, d)) (h : Spec.sources a b d s1 = .ok ((xa, xb, xd), s2)) :
    ∃ body, exec i s = issue i body s ∧ body s1 = issueMat op xd xa xb s2 := by
  cases i with
  | mma => cases hi; exact ⟨_, exec_mma .., issueRegs_sources h⟩
  | mmaNarrow => cases hi; exact ⟨_, exec_mmaNarrow .., issueRegs_sources h⟩
  | mmode => cases hi; exact ⟨_, exec_mmode .., issueRegs_sources h⟩
  | mscale => cases hi; exact ⟨_, exec_mscale .., issueRegs_sources h⟩
  | mbar =>
    cases hi
    obtain ⟨hx, rfl⟩ := Prod.mk.inj (Except.ok.inj (h : Except.ok ((0, 0, 0), s1) = Except.ok ((xa, xb, xd), s2)))
    obtain ⟨rfl, hbd⟩ := Prod.mk.inj hx
    obtain ⟨rfl, rfl⟩ := Prod.mk.inj hbd
    exact ⟨_, exec_mbar .., rfl⟩
  | mld => cases hi; exact ⟨_, exec_mld .., issueRegs_sources h⟩
  | mzero => cases hi; exact ⟨_, exec_mzero .., issueRegs_sources h⟩
  | mdrain => cases hi; exact ⟨_, exec_mdrain .., issueRegs_sources h⟩
  | mtrans => cases hi; exact ⟨_, exec_mtrans .., issueRegs_sources h⟩
  | mcpy => cases hi; exact ⟨_, exec_mcpy .., issueRegs_sources h⟩
  | _ => exact nomatch hi

theorem isBoundary_matCommand {i : Instr} {c : MatOp × Option (BitVec 7) × Option (BitVec 7) × Option (BitVec 7)}
    (hi : Spec.matCommand i = some c) : isBoundary i = true ∧ isCsrw i = false := by
  cases i with
  | mma | mmaNarrow | mmode | mscale | mbar | mld | mzero | mdrain | mtrans | mcpy => exact ⟨rfl, rfl⟩
  | _ => exact nomatch hi

/-! Commands enter their sub-queue (R186, R188). -/

/-- The matrix state that a command leaves at its core (R180). -/
def matRegsOf (op : MatOp) (xa xb : Word) (r : MatRegs) : MatRegs :=
  if op = .mmode then { r with mode := xa } else if op = .mscale then { r with sa := xa, sb := xb } else r

/-- The record of a command as it enters its sub-queue. -/
def commandOf (op : MatOp) (xd xa xb : Word) (s : State) : MatCmd :=
  { id := s.fresh, gs := s.fs, uid := s.th.uid, fn := s.th.vf, op := op, xd := xd, xa := xa, xb := xb, regs := matRegsOf op xa xb s.th.mat,
    satf := bit s.arch.fctl 5, running := false, left := 0, pieces := 0, out := none, held := [], waits := [],
    lid := if s.th.det then s.th.lid else none }

theorem issueMat_run {op : MatOp} {xd xa xb : Word} {s : State} (hc : matChecks op xd xa xb s = .ok ((), s))
    (hq : (mgetD s.matq (s.subq s.fs) []).length < s.subqSize s.fs) (hm : s.th.mats.length < 63) :
    issueMat op xd xa xb s = .ok ((),
      ({ s with
          matq := mput s.matq (s.subq s.fs) (mgetD s.matq (s.subq s.fs) [] ++ [commandOf op xd xa xb s]), fresh := s.fresh + 1 }).setTh
        { s.th with mats := s.th.mats ++ [(s.fresh, false)], mat := matRegsOf op xa xb s.th.mat }) := by
  rw [issueMat, M.bind_ok hc, M.get_bind]
  simp only [if_pos hq]
  rw [M.bind_ok (until_run (decide_eq_true hm) s)]
  cases op <;> rfl

theorem issueMat_full {op : MatOp} {xd xa xb : Word} {s : State} (hc : matChecks op xd xa xb s = .ok ((), s))
    (hq : s.subqSize s.fs ≤ (mgetD s.matq (s.subq s.fs) []).length) : issueMat op xd xa xb s = .error (.hold .matrix) := by
  rw [issueMat, M.bind_ok hc, M.get_bind]
  simp only [if_neg (Nat.not_lt.mpr hq)]
  rfl

theorem matrixCommandsEnterTheQueue : Spec.MatrixCommandsEnterTheQueue := by
  intro i op a b d s s1 s2 xa xb xd hi ho hsrc q
  obtain ⟨body, hx, hb⟩ := exec_matCommand (s := s) hi hsrc
  obtain ⟨hbd, hcs⟩ := isBoundary_matCommand hi
  refine ⟨fun hc hq hm => ?_, fun hc hq => ?_, fun t ht => hx.trans (ho.traps (hb.trans (by rw [issueMat, M.bind_error ht])))⟩
  · exact ⟨_, commandOf op xd xa xb s2, hx.trans (ho.runs (hb.trans (issueMat_run hc hq hm))), rfl, rfl, rfl, rfl, rfl, rfl, rfl, rfl, bit_eq_getLsbD .., rfl,
      State.th_setTh _ _, rfl, rfl, rfl, rfl⟩
  · rw [← standsOutside_of_boundary (s := s) hbd, ← hcs]
    exact hx.trans (ho.holds (hb.trans (issueMat_full hc hq)))

end Sys2Proof.Machine

namespace Sys2Proof
open Machine

/-- Settles O30: the checks change nothing, and a command that passes them is entered by one lemma for all of them. -/
theorem matrixCommandsAreSent : Obligations.MatrixCommandsAreSent := ⟨matrixOperandChecks, matrixCommandsEnterTheQueue⟩

end Sys2Proof
end

section
/-!
PROOFS. Tile rows read and stored by the thread itself: `mrd` and `mst` (R198 to R200, R206).
-/

namespace Sys2Proof.Machine

/-! A read of sources leaves the unit's state before it as it was. -/

/-- The state before the unit is the same. -/
def State.SamePre (s t : State) : Prop := t.unit.pre = s.unit.pre

theorem State.SamePre.refl (s : State) : s.SamePre s := rfl
theorem State.SamePre.trans (s t u : State) (h : s.SamePre t) (g : t.SamePre u) : s.SamePre u := Eq.trans g h

theorem State.SamePre.of_unit {s t : State} (h : t.unit = s.unit) : s.SamePre t := congrArg UnitCtx.pre h

theorem Touches.samePre {α : Type} {m : M α} (h : Touches m) : Leads State.SamePre m := ⟨fun s a t e => .of_unit (h.out s a t e).unit⟩

theorem State.unit_refill (s : State) (gs port : Nat) : (s.refill gs port).unit = s.unit := by
  unfold State.refill
  refine List.foldlRecOn (motive := fun t : State => t.unit = s.unit) _ _ rfl fun t ht n _ => ?_
  refine Eq.trans ?_ ht
  unfold State.refillOne
  split
  · split <;> rfl
  · rfl

theorem leads_atElement {α : Type} {code : Nat} {b : Stream} {m : M α} (hm : Leads State.SamePre m) :
    Leads State.SamePre (atElement code b m) := by
  refine ⟨fun s x t e => ?_⟩
  unfold atElement at e
  cases h : m s with
  | error y => rw [h] at e; cases y <;> cases e
  | ok p =>
    rw [h] at e
    cases e
    have hp := hm.out _ _ _ h
    exact hp

theorem samePre_modify {f : State → State} (h : ∀ s, (f s).unit.pre = s.unit.pre) : Leads State.SamePre (modify f : M Unit) := leads_modify h

theorem leads_readElement (code : Nat) (b : Stream) (pa n : Nat) : Leads State.SamePre (readElement code b pa n) := by
  refine leads_get_bind fun s => ?_
  dsimp only
  split
  · exact leads_bind .trans (touches_readLines _).samePre fun _ => leads_pure .refl _
  · exact leads_error _
  · refine leads_bind .trans (touches_readLines _).samePre fun _ => leads_bind .trans (touches_countEntries _).samePre fun _ => ?_
    exact leads_ite (leads_bind .trans (samePre_modify fun _ => rfl) fun _ => leads_pure .refl _)
      (leads_bind .trans (leads_pure .refl _) fun _ => leads_pure .refl _)

theorem leads_popStream (code : Nat) (b : Stream) : Leads State.SamePre (popStream code b) := by
  have hset (c : Stream) : Leads State.SamePre (setStream code c) := samePre_modify fun _ => rfl
  refine leads_ite (leads_ite (leads_error _) (leads_bind .trans (hset _) fun _ => leads_pure .refl _)) ?_
  refine leads_bind .trans (leads_atElement ?_) fun _ => leads_bind .trans (hset _) fun _ => leads_pure .refl _
  refine leads_bind .trans touches_directOrder.samePre fun _ => leads_bind .trans (touches_checkAccess ..).samePre fun _ => ?_
  exact leads_get_bind fun s => leads_ite (leads_error _) (leads_readElement ..)

theorem leads_popP15 : Leads State.SamePre popP15 := by
  refine leads_get_bind fun s => ?_
  split
  · refine leads_bind .trans (samePre_modify fun _ => rfl) fun _ => leads_bind .trans (touches_modChunk _).samePre fun _ => ?_
    refine leads_bind .trans (samePre_modify fun s => congrArg UnitCtx.pre (s.unit_refill ..)) fun _ => ?_
    exact leads_bind .trans (samePre_modify fun _ => rfl) fun _ => leads_pure .refl _
  · exact leads_get_bind fun s => leads_error _

theorem leads_srcA (f : BitVec 7) : Leads State.SamePre (srcA f) := by
  refine leads_get_bind fun s => leads_ite (leads_pure .refl _) (leads_ite leads_popP15 ?_)
  split
  · exact leads_bind .trans (leads_popStream ..) fun _ => leads_pure .refl _
  · exact leads_error _

theorem leads_sources (a b d : Option (BitVec 7)) : Leads State.SamePre (Spec.sources a b d) := by
  have hone (f : Option (BitVec 7)) : Leads State.SamePre (sourceOf f) := by
    cases f
    · exact leads_pure .refl _
    · exact leads_srcA _
  rw [sources_eq]
  exact leads_bind .trans (hone a) fun _ => leads_bind .trans (hone b) fun _ => leads_bind .trans (hone d) fun _ => leads_pure .refl _

/-! Counted stores leave tiles and registers, and count once. -/

/-- The tiles, the registers and the counted stores are the same. -/
def State.SameStores (s t : State) : Prop := t.tiles = s.tiles ∧ t.rf = s.rf ∧ t.th.stores = s.th.stores

theorem State.SameStores.refl (s : State) : s.SameStores s := ⟨rfl, rfl, rfl⟩
theorem State.SameStores.trans (s t u : State) (h : s.SameStores t) (g : t.SameStores u) : s.SameStores u :=
  ⟨g.1.trans h.1, g.2.1.trans h.2.1, g.2.2.trans h.2.2⟩

theorem State.sameStores_setTh {s : State} {u : Thread} (h : u.stores = s.th.stores) : s.SameStores (s.setTh u) :=
  ⟨rfl, rfl, by rw [State.th_setTh]; exact h⟩

theorem State.sameStores_modLast (s : State) (f : Chunk → Chunk) : s.SameStores (s.setTh (s.th.modLast f)) := by
  obtain ⟨cs, h⟩ := s.th.modLast_shape f
  exact State.sameStores_setTh (by rw [h])

theorem State.sameStores_fresh (s : State) (n : Nat) : s.SameStores { s with fresh := n } := ⟨rfl, rfl, rfl⟩

theorem State.sameStores_enter (s : State) (k : Access) (base : Nat) (e : Eff) : s.SameStores (s.enter k base e) := by
  unfold State.enter
  split
  · exact .refl s
  · dsimp only
    refine State.SameStores.trans _ _ _ ?_ (State.sameStores_modLast ..)
    split
    · obtain ⟨f, hf⟩ := s.drawn_shape s.fs k _ _
      rw [hf]
      exact s.sameStores_fresh f
    · exact .refl s

theorem State.sameStores_lateLoads (s : State) (n : Nat) (k : Access) (e : Eff) : s.SameStores (s.lateLoads n k e) := by
  obtain ⟨ls, f, h, -, -⟩ := s.lateLoads_shape n k e
  rcases h with ⟨h, -⟩ | h
  · rw [h]; exact .refl s
  · rw [h]
    have hls : s.SameStores (s.setTh { s.th with loads := ls }) := State.sameStores_setTh rfl
    exact hls

theorem leads_enterChunk_stores (k : Access) (effs : List Eff) (n : Nat) : Leads State.SameStores (enterChunk k effs n) := by
  refine leads_get_bind fun s => leads_ite (leads_ite (leads_error _) (leads_error _)) (leads_bind .trans ?_ fun _ => ?_)
  · refine leads_forIn .refl .trans (fun e _ => leads_bind .trans (leads_roomFor .refl e) fun _ => ?_) _ _
    refine leads_bind .trans (leads_modify fun s => ?_) fun _ => leads_pure .refl _
    exact State.SameStores.trans _ _ _ (s.sameStores_enter ..) (State.sameStores_lateLoads ..)
  · refine leads_modify fun s => ?_
    split
    · exact .refl s
    · exact s.sameStores_modLast _

theorem countSingles_counts {s t : State} {k : Access} {singles : List (List Eff)} {n : Nat}
    (h : countSingles k singles n s = .ok ((), t)) :
    t.tiles = s.tiles ∧ t.rf = s.rf ∧ t.th.stores.length = s.th.stores.length + 1 := by
  have hcounted (u : State) (l : List (List Eff)) : (Spec.counted u l).tiles = u.tiles ∧ (Spec.counted u l).rf = u.rf ∧
      (Spec.counted u l).th.stores.length = u.th.stores.length + 1 := by
    obtain ⟨hs, -, ts, hu⟩ := Spec.counted_frame u l
    exact ⟨by rw [hu], by rw [hu], by rw [hs]; simp⟩
  rw [countSingles, M.get_bind] at h
  obtain ⟨⟨⟩, u, hu, h⟩ := M.bind_ok_inv h
  obtain rfl : u = s := (leads_until (R := fun s t => t = s) (fun _ => rfl) _).out _ _ _ hu
  by_cases hd : u.isDirect = true
  · rw [if_pos hd, countIn_run] at h
    cases h
    exact hcounted ..
  · rw [if_neg hd] at h
    obtain ⟨⟨⟩, v, hv, h⟩ := M.bind_ok_inv h
    obtain ⟨ht, hr, hs⟩ := (leads_enterChunk_stores ..).out _ _ _ hv
    rw [countIn_run] at h
    cases h
    obtain ⟨ht', hr', hs'⟩ := hcounted v []
    exact ⟨ht'.trans ht, hr'.trans hr, by rw [hs', hs]⟩

/-! The rows that `mrd` and `mst` read. -/

theorem map_range_slice {α : Type} (f : Nat → α) {n k m : Nat} (h : k + m ≤ n) :
    (((List.range n).map f).drop k).take m = (List.range m).map (fun j => f (k + j)) :=
  List.ext_getElem (by simp; omega) fun j _ _ => by simp

theorem regionChecks_fieldsOk {rs : List Region} {s t : State} (h : regionChecks rs s = .ok ((), t)) : ∀ r ∈ rs, r.fieldsOk = true := by
  have hall : rs.all (fun r => r.fieldsOk && r.extentOk) = true := by
    by_contra hn
    rw [regionChecks, M.get_bind, M.bind_error (require_fails (Bool.eq_false_iff.mpr hn) ..)] at h
    cases h
  intro r hr
  exact (Bool.and_eq_true_iff.mp (List.all_eq_true.mp hall r hr)).1

/-- A region that may only be in the tile store is there, once its fields are checked (Table 7.2). -/
theorem Region.tdLoc_of_fieldsOk {r : Region} (h : r.fieldsOk = true) (hs : r.spad = false) (hu : r.unit = false) : tdLoc r.desc = 0 := by
  unfold Region.fieldsOk at h
  dsimp only at h
  split at h
  · assumption
  · rw [hs] at h; cases h
  · rw [hu] at h; cases h
  · cases h

theorem regionRow_tile (s : State) (r : Region) (h : tdLoc r.desc = 0) (i : Nat) :
    s.regionRow (clusterOf s.fs) r i = (List.range r.bytes).map (fun k =>
      (Spec.tileByte s (tdOff r.desc + i * tdPitch r.desc) k,
        (mget s.tilePoison (tileKey (clusterOf s.fs) (tdOff r.desc + i * tdPitch r.desc) k)).isSome)) := by
  rw [State.regionRow, if_pos h]
  rfl

theorem rowsUnlocked_locked {rows : List Nat} {row : Nat} {s : State} (hr : row ∈ rows) (hl : s.rowLocked (clusterOf s.fs) row = true) :
    rowsUnlocked rows s = .error (.hold .rows) := by
  rw [rowsUnlocked, M.get_bind, if_pos (List.any_eq_true.mpr ⟨row, hr, hl⟩)]
  rfl

theorem clean_any {n : Nat} {v : Nat → Byte} {p : Nat → Bool} (h : ∀ k < n, p k = false) :
    (((List.range n).map (fun k => (v k, p k))).any (·.2)) = false := by
  simpa using h

theorem runMrd_run {xa xb : Word} {s : State} (hp : s.unit.pre = none) (h8 : xb.toNat % 8 = 0) (hle : xb.toNat ≤ 2040)
    (hc : regionChecks [{ desc := xa, rows := 1, bytes := 2048, tile := true, spad := false }] s = .ok ((), s))
    (hu : rowsUnlocked ({ desc := xa, rows := 1, bytes := 2048, tile := true, spad := false } : Region).tileRows s = .ok ((), s))
    (hq : ∀ k < 8, mget s.tilePoison (tileKey (clusterOf s.fs) (tdOff xa) (xb.toNat + k)) = none) :
    runMrd xa xb s = .ok (BitVec.ofNat 64 (leNat ((List.range 8).map (fun k => Spec.tileByte s (tdOff xa) (xb.toNat + k)))), s) := by
  have hloc : tdLoc xa = 0 := Region.tdLoc_of_fieldsOk (regionChecks_fieldsOk hc _ (List.mem_singleton.mpr rfl)) rfl rfl
  have hrow : ((s.regionRow (clusterOf s.fs) { desc := xa, rows := 1, bytes := 2048, tile := true, spad := false } 0).drop xb.toNat).take 8 =
      (List.range 8).map (fun k => (Spec.tileByte s (tdOff xa) (xb.toNat + k),
        (mget s.tilePoison (tileKey (clusterOf s.fs) (tdOff xa) (xb.toNat + k))).isSome)) := by
    rw [regionRow_tile s _ hloc, map_range_slice _ (by show xb.toNat + 8 ≤ 2048; omega)]
    simp only [Nat.zero_mul, Nat.add_zero]
  rw [runMrd, M.bind_ok (require_run (by simp [h8, hle]) ..), M.bind_ok hc, M.bind_ok hu, M.get_bind]
  beta_reduce
  rw [State.before_lone hp, hrow, clean_any (fun k hk => by rw [hq k hk]; rfl), M.bind_ok (require_run (b := !false) rfl ..), List.map_map]
  rfl

theorem runMst_run {xa xb xd : Word} {s t : State} (hp : s.unit.pre = none) (hs : shapeOk xb = true) (ho : Spec.Ordered s)
    (hc : regionChecks [{ desc := xa, rows := bits xb 26 16, bytes := bits xb 11 0, tile := true, spad := false },
      { desc := xd, rows := bits xb 26 16, bytes := bits xb 11 0, tile := false, spad := true, write := true }] s = .ok ((), s))
    (hu : rowsUnlocked ({ desc := xa, rows := bits xb 26 16, bytes := bits xb 11 0, tile := true, spad := false } : Region).tileRows s =
      .ok ((), s))
    (hr : s.regionPending (clusterOf s.fs)
      { desc := xd, rows := bits xb 26 16, bytes := bits xb 11 0, tile := false, spad := true, write := true } = false)
    (hq : ∀ r < bits xb 26 16, ∀ k < bits xb 11 0,
      mget s.tilePoison (tileKey (clusterOf s.fs) (tdOff xa + r * tdPitch xa) k) = none)
    (hcount : countSingles .vector ((List.range (bits xb 26 16)).map (fun r =>
      [.write (spadAddr (8 * (s.fs / 512) + tdCore xd) (tdOff xd + 16 * r * tdPitch xd))
        ((List.range (bits xb 11 0)).map (Spec.tileByte s (tdOff xa + r * tdPitch xa)))])) 0 s = .ok ((), t)) :
    runMst xd xa xb s = .ok ((), t) := by
  have hloc : tdLoc xa = 0 :=
    Region.tdLoc_of_fieldsOk (regionChecks_fieldsOk hc _ (List.mem_cons_self ..)) rfl rfl
  have hrows : (List.range (bits xb 26 16)).map (s.regionRow (clusterOf s.fs)
        { desc := xa, rows := bits xb 26 16, bytes := bits xb 11 0, tile := true, spad := false }) =
      (List.range (bits xb 26 16)).map (fun i => (List.range (bits xb 11 0)).map (fun k =>
        (Spec.tileByte s (tdOff xa + i * tdPitch xa) k,
          (mget s.tilePoison (tileKey (clusterOf s.fs) (tdOff xa + i * tdPitch xa) k)).isSome))) :=
    List.map_congr_left fun i _ => regionRow_tile s _ hloc i
  have hclean : ((List.range (bits xb 26 16)).map (fun i => (List.range (bits xb 11 0)).map (fun k =>
        (Spec.tileByte s (tdOff xa + i * tdPitch xa) k,
          (mget s.tilePoison (tileKey (clusterOf s.fs) (tdOff xa + i * tdPitch xa) k)).isSome)))).any (fun r => r.any (·.2)) = false := by
    simp only [List.any_eq_false, List.mem_map, List.mem_range]
    rintro _ ⟨i, hi, rfl⟩
    rw [clean_any (fun k hk => by rw [hq i hi k hk]; rfl)]
    exact Bool.false_ne_true
  rw [runMst, M.bind_ok (require_run hs ..)]
  simp only [shapeRows, shapeBytes]
  rw [M.bind_ok hc, M.bind_ok hu, M.bind_ok (directOrder_run ho), M.get_bind]
  beta_reduce
  simp only [State.before_lone hp, hrows, hclean, hr]
  rw [M.bind_ok (require_run (b := !false) rfl ..), M.bind_ok (until_run (b := !false) rfl s), ← hcount]
  refine congrArg (countSingles .vector · 0 s) (List.ext_getElem (by simp) fun j _ _ => ?_)
  simp [Function.comp_def, Region.spadOff, clusterOf]

end Sys2Proof.Machine

namespace Sys2Proof
open Machine

/-- Settles O31: the rows are read by `regionRow_tile`, and the store counts once by `countSingles_counts`. -/
theorem tileReadsAndStores : Obligations.TileReadsAndStores := by
  refine ⟨fun b a d s s1 s2 xa xb xd ho hp hsrc => ?_, fun b a d s s1 s2 t xa xb xd ho hp hsrc => ?_⟩
  · have hp2 : s2.unit.pre = none := Eq.trans ((leads_sources ..).out _ _ _ hsrc) hp
    obtain ⟨u, v, ha, hb, hd⟩ := sources_split hsrc
    obtain ⟨-, rfl⟩ := Prod.mk.inj (Except.ok.inj (hd : Except.ok ((0 : Word), v) = Except.ok (xd, s2)))
    have hbody : (do let xa ← srcA a; let xb ← srcA b; let v ← runMrd xa xb; dstA d v : M Unit) s1 =
        (runMrd xa xb >>= fun v => dstA d v) v := (M.bind_ok ha).trans (M.bind_ok hb)
    intro src
    refine ⟨fun hn => ?_, fun h8 hle hc => ⟨fun hu hq => ?_, fun hl => ?_⟩⟩
    · refine (exec_mrd ..).trans (ho.traps (hbody.trans (M.bind_error ?_)))
      exact M.bind_error (require_fails (by simpa using hn) ..)
    · exact ho.writes (exec_mrd ..) (hbody.trans (M.bind_ok (runMrd_run hp2 h8 hle hc hu hq)))
    · refine (exec_mrd ..).trans (ho.holds (hbody.trans (M.bind_error ?_)))
      rw [runMrd, M.bind_ok (require_run (by simp [h8, hle]) ..), M.bind_ok hc]
      exact M.bind_error (rowsUnlocked_locked (row := tdOff xa) (by simp [Region.tileRows, Region.tdLoc_of_fieldsOk (r := src)
        (regionChecks_fieldsOk hc _ (List.mem_singleton.mpr rfl)) rfl rfl, src]) hl)
  · have hp2 : s2.unit.pre = none := Eq.trans ((leads_sources ..).out _ _ _ hsrc) hp
    obtain ⟨u, v, ha, hb, hd⟩ := sources_split hsrc
    intro src dst row place hr hs hc hu hq hord hcount
    refine ⟨(exec_mst ..).trans (ho.runs ?_), countSingles_counts hcount⟩
    refine (M.bind_ok ha).trans ((M.bind_ok hb).trans ((M.bind_ok hd).trans ?_))
    exact runMst_run hp2 hs hord hc hu hr hq hcount

end Sys2Proof
end

section
/-!
PROOFS. Copies, messages, channel bindings and nodes of the reduction network (R211 to R222).
-/

namespace Sys2Proof.Machine

/-! Copies (R211). -/

/-- The record of a copy that its word gives to the engine. -/
def copyOf (s : State) (dst src len rec_ : Word) (wide : Bool) : Copy :=
  { id := s.fresh, gs := s.fs, uid := s.th.uid, num := s.th.copyn, level := s.th.level, vf := s.th.vf, asid := s.th.asid,
    dst := dst, src := src, len := len.toNat, record := rec_, wide := wide, combining := true, done := 0, fault := none,
    recorded := rec_ == 0 }

theorem isCopy_copyOf (s : State) (dst src len rec_ : Word) (wide : Bool) :
    Spec.IsCopy (copyOf s dst src len rec_ wide) s dst src len rec_ wide :=
  ⟨rfl, rfl, rfl, rfl, rfl, rfl, rfl, rfl, rfl, rfl, rfl, rfl, rfl, rfl, rfl, beq_iff_eq⟩

theorem copies_of {i : Instr} {s s1 : State} {dst src len rec_ : Word} {wide : Bool} {body : M Unit} (ho : s.Opens i s1)
    (hb : isBoundary i = true) (hc : isCsrw i = false) (hi : exec i s = issue i body s)
    (hrun : body s1 = issueCopy dst src len rec_ wide s1) : Spec.Copies i s s1 dst src len rec_ wide := by
  refine ⟨fun hl => hi.trans (ho.traps (hrun.trans ?_)), fun hl hr => hi.trans (ho.traps (hrun.trans ?_)), fun hl hr hn => ?_,
    fun hl hr hn => ⟨copyOf s1 dst src len rec_ wide, isCopy_copyOf .., hi.trans (ho.runs (hrun.trans ?_))⟩⟩
  · exact M.bind_error (require_fails (decide_eq_false (Nat.not_lt.mpr hl)) ..)
  · rw [issueCopy, M.bind_ok (require_run (decide_eq_true hl) ..), if_pos hr]
    rfl
  · rw [← standsOutside_sends hb hc]
    refine hi.trans (ho.holds (hrun.trans ?_))
    rw [issueCopy, M.bind_ok (require_run (decide_eq_true hl) ..), if_neg (not_not_intro hr)]
    beta_reduce
    rw [M.get_bind]
    exact M.bind_error (until_holds (decide_eq_false (Nat.not_lt.mpr hn)) _)
  · rw [issueCopy, M.bind_ok (require_run (decide_eq_true hl) ..), if_neg (not_not_intro hr)]
    beta_reduce
    rw [M.get_bind]
    exact M.bind_ok (until_run (decide_eq_true hn) s1)

theorem copiesEnterTheEngine : Spec.CopiesEnterTheEngine :=
  ⟨fun b a d s s1 ho hp => copies_of ho rfl rfl (exec_cpy ..) (by
      rw [M.bind_ok (srcC_lone hp a), M.bind_ok (srcC_lone hp b), M.bind_ok (srcC_lone hp d)]),
    fun b a d s s1 ho hp => copies_of ho rfl rfl (exec_cpyw ..) (by
      rw [M.bind_ok (srcC_lone hp a), M.bind_ok (srcC_lone hp b), M.bind_ok (srcC_lone hp d), M.bind_ok (readX_lone hp _)])⟩

/-! Messages (R216, R217). -/

/-- The message that `msend` leaves in flight. -/
def messageOf (s : State) (w v : Word) : Msg :=
  let p := (s.targetPlace s.th.vf s.th.detLaunch (coreOf s.fs) w).getD (noSlot, 0)
  { id := s.fresh, gs := s.fs, uid := s.th.uid, vf := s.th.vf, word := w, payload := v, core := p.1,
    slot := if tgKind w = 1 then none else some (64 * p.1 + p.2), chan := tgChan w, lid := s.th.detLaunch, state := .flying }

theorem issueMsg_run {w v : Word} {s s2 : State} (hok : s.targetOk s.fs w = true) (hn : performNow [] s = .ok ((), s2)) :
    issueMsg w v s = .ok ((), { s2 with msgs := s2.msgs ++ [messageOf s2 w v], fresh := s2.fresh + 1 }) := by
  rw [issueMsg, M.get_bind, M.bind_ok (require_run hok ..), M.bind_ok hn]
  rfl

theorem messagesAreSent : Spec.MessagesAreSent := by
  intro b a s s1 ho hp w
  refine ⟨fun hno => ?_, fun hok s2 hn => ?_⟩
  · refine (exec_msend ..).trans (ho.traps ?_)
    rw [M.bind_ok (srcC_lone hp a), M.bind_ok (srcC_lone hp b), issueMsg, M.get_bind]
    exact M.bind_error (require_fails hno ..)
  · refine ⟨messageOf s2 w (s1.getX b.toNat), rfl, rfl, rfl, rfl, rfl, rfl, fun hk => if_pos hk, fun hk => ⟨_, if_neg hk⟩,
      (exec_msend ..).trans (ho.runs ?_)⟩
    rw [M.bind_ok (srcC_lone hp a), M.bind_ok (srcC_lone hp b)]
    exact issueMsg_run hok hn

end Sys2Proof.Machine

namespace Sys2Proof
open Machine

/-- Settles O32: one lemma for the two copy words, and one for an admitted target. -/
theorem copiesAndMessagesAreSent : Obligations.CopiesAndMessagesAreSent := ⟨copiesEnterTheEngine, messagesAreSent⟩

end Sys2Proof
end

section
/-!
PROOFS. Channel bindings and nodes of the reduction network (R219 to R222).
-/

namespace Sys2Proof.Machine

/-! Channels (R219). -/

theorem chanWordOk_iff (w : Word) : chanWordOk w = true ↔ bits w 63 42 = 0 ∧ bits w 19 16 = 0 ∧ bits w 15 0 ≠ 0 ∧ bits w 23 20 ≤ 12 ∧
    bits w 41 24 % 8 = 0 ∧ (bits w 23 20 = 0 ∨ bits w 41 24 + 8 * 2 ^ bits w 23 20 ≤ 262144) := by
  simp only [chanWordOk, Bool.and_eq_true, Bool.or_eq_true, beq_iff_eq, bne_iff_ne, decide_eq_true_iff, and_assoc]

/-- What `chbind` does with its channel word. -/
def bindChannel (p : BitVec 5) (w : Word) : M Unit := do
  let s ← get
  if (mget s.arch.ports p.toNat).isSome then M.trap { cause := .port, portc := some p.toNat } else pure ()
  M.require (chanWordOk w) .illegalOperand
  let k := 65536 * coreOf s.fs + bits w 15 0
  if (mget s.chans k).isSome then M.trap { cause := .port, portc := some p.toNat } else pure ()
  if !s.ringOwned s.fs w then M.trap { cause := .pageProtection, orig := 2 } else pure ()
  let c : Chan := { gs := s.fs, port := p.toNat, roff := bits w 41 24, rlog := bits w 23 20, head := 0, count := 0 }
  set { s with chans := mput s.chans k c }
  modArch (fun t => { t with ports := mput t.ports p.toNat (.channel (bits w 15 0)) })

theorem exec_chbind_word {p : BitVec 5} {a : BitVec 7} {s s1 : State} (hp : s1.unit.pre = none) :
    ∃ body, exec (.chbind p a) s = issue (.chbind p a) body s ∧ body s1 = bindChannel p (s1.getX a.toNat) s1 :=
  ⟨_, exec_chbind .., M.bind_ok (srcC_lone hp a)⟩

theorem bindChannel_bound {p : BitVec 5} {w : Word} {s : State} (h : mget s.arch.ports p.toNat ≠ none) :
    bindChannel p w s = .error (.trap { cause := .port, portc := some p.toNat }) := by
  rw [bindChannel, M.get_bind, if_pos (Option.isSome_iff_ne_none.mpr h)]
  rfl

/-- At an unbound port the channel word is checked first. -/
theorem bindChannel_unbound {p : BitVec 5} {w : Word} {s : State} (h : mget s.arch.ports p.toNat = none) :
    bindChannel p w s = (do
      M.require (chanWordOk w) .illegalOperand
      let k := 65536 * coreOf s.fs + bits w 15 0
      if (mget s.chans k).isSome then M.trap { cause := .port, portc := some p.toNat } else pure ()
      if !s.ringOwned s.fs w then M.trap { cause := .pageProtection, orig := 2 } else pure ()
      let c : Chan := { gs := s.fs, port := p.toNat, roff := bits w 41 24, rlog := bits w 23 20, head := 0, count := 0 }
      set { s with chans := mput s.chans k c }
      modArch (fun t => { t with ports := mput t.ports p.toNat (.channel (bits w 15 0)) }) : M Unit) s := by
  rw [bindChannel, M.get_bind, if_neg (by simp [h])]

theorem Arch.onChannel_iff (a : Arch) (code : Nat) : a.onChannel code = true ↔ ∃ n, mget a.ports code = some (.channel n) := by
  unfold Arch.onChannel
  split
  · rename_i n h
    exact ⟨fun _ => ⟨n, h⟩, fun _ => rfl⟩
  · rename_i hno
    exact ⟨fun h => Bool.noConfusion h, fun ⟨n, h⟩ => (hno n h).elim⟩

/-- A thread whose port is bound no more: a w port has lost its queue, p15 keeps its own (R219). -/
def Thread.unbound (t : Thread) (p : Nat) : Thread :=
  { t with a := { t.a with ports := mdel t.a.ports p }, wq := if p = 15 then t.wq else mdel t.wq p }

/-- What `chunbind` does. -/
def unbindChannel (p : BitVec 5) : M Unit := do
  let s ← get
  if s.arch.onChannel p.toNat then
    set { s with chans := s.chans.filter (fun c => !(c.2.gs == s.fs && c.2.port == p.toNat)) }
    modArch (fun t => { t with ports := mdel t.ports p.toNat })
    modTh (fun t => if p.toNat = 15 then t else { t with wq := mdel t.wq p.toNat })
  else pure ()

theorem unbindChannel_run {p : BitVec 5} {s : State} {n : Nat} (h : mget s.arch.ports p.toNat = some (.channel n)) :
    unbindChannel p s = .ok ((), { s with chans := s.chans.filter (fun c => !(c.2.gs == s.fs && c.2.port == p.toNat)) }.setTh
      (s.th.unbound p.toNat)) := by
  rw [unbindChannel, M.get_bind, if_pos ((Arch.onChannel_iff ..).mpr ⟨n, h⟩)]
  let u : State := { s with chans := s.chans.filter (fun c => !(c.2.gs == s.fs && c.2.port == p.toNat)) }
  let f (t : Thread) : Thread := if p.toNat = 15 then t else { t with wq := mdel t.wq p.toNat }
  have hth : (u.setArch { s.arch with ports := mdel s.arch.ports p.toNat }).th = { s.th with a := { s.arch with ports := mdel s.arch.ports p.toNat } } :=
    State.th_setArch ..
  show Except.ok ((), (u.setArch { s.arch with ports := mdel s.arch.ports p.toNat }).setTh (f (u.setArch { s.arch with ports := mdel s.arch.ports p.toNat }).th)) = _
  rw [hth, State.setArch, State.setTh_setTh]
  refine congrArg (fun t => Except.ok ((), u.setTh t)) ?_
  unfold f Thread.unbound
  split <;> rfl

theorem channelBindings : Spec.ChannelBindings := by
  refine ⟨fun p a s s1 ho hp => ?_, fun p s s1 ho hp => ⟨fun hno => ?_, fun n hn => ?_⟩⟩
  · obtain ⟨body, hx, hb⟩ := exec_chbind_word (p := p) (a := a) (s := s) hp
    intro w k port admitted unbound
    have hfree (hk : mget s1.chans k = none) : ¬(mget s1.chans k).isSome = true := by rw [hk]; exact Bool.false_ne_true
    refine ⟨fun h => hx.trans (ho.traps (hb.trans (bindChannel_bound h))), fun h hn => ?_, fun h hn hk => ?_, fun h hn hk hr => ?_,
      fun h hn hk hr => ?_⟩
    · refine hx.trans (ho.traps (hb.trans ((bindChannel_unbound h).trans ?_)))
      exact M.bind_error (require_fails (Bool.eq_false_iff.mpr (mt (chanWordOk_iff w).mp hn)) ..)
    · refine hx.trans (ho.traps (hb.trans ((bindChannel_unbound h).trans ?_)))
      rw [M.bind_ok (require_run ((chanWordOk_iff w).mpr hn) ..)]
      dsimp only
      rw [if_pos (Option.isSome_iff_ne_none.mpr hk)]
      rfl
    · refine hx.trans (ho.traps (hb.trans ((bindChannel_unbound h).trans ?_)))
      rw [M.bind_ok (require_run ((chanWordOk_iff w).mpr hn) ..)]
      dsimp only
      rw [if_neg (hfree hk), if_pos (by rw [hr]; rfl)]
      rfl
    · refine hx.trans (ho.runs (hb.trans ((bindChannel_unbound h).trans ?_)))
      rw [M.bind_ok (require_run ((chanWordOk_iff w).mpr hn) ..)]
      dsimp only
      rw [if_neg (hfree hk), if_neg (by rw [hr]; exact Bool.false_ne_true)]
      rfl
  · refine (exec_chunbind ..).trans (ho.runs (?_ : unbindChannel p s1 = _))
    rw [unbindChannel, M.get_bind, if_neg (fun h => ((Arch.onChannel_iff ..).mp h).elim hno)]
    rfl
  · refine ⟨_, (exec_chunbind ..).trans (ho.runs (unbindChannel_run hn)), ?_, rfl, rfl, fun c hc => ?_, fun h15 => ?_, fun h15 => ?_⟩
    · rw [State.arch, State.th_setTh]
      exact mget_mdel_self ..
    · have hkeep := (List.mem_filter.mp hc).2
      rintro ⟨hg, hport⟩
      simp [hg, hport] at hkeep
    · rw [State.th_setTh]
      rfl
    · rw [State.th_setTh, Thread.unbound, if_neg h15]
      exact mget_mdel_self ..

/-! Nodes of the reduction network (R221, R222). -/

/-- The node word and the parent of `redcfg` are admitted (R221). -/
def State.nodeOk (s : State) (w p : Word) : Prop :=
  bits w 63 17 = 0 ∧ bits w 7 6 = 0 ∧
    (if w.getLsbD 16 then bits w 15 12 = 0 ∧ p = 0 else bits w 15 12 ≠ 0 ∧ tgKind p = 0 ∧ s.targetOk s.fs p = true)

theorem nodeOk_iff (s : State) (w p : Word) : s.nodeOk w p ↔ (bits w 63 17 == 0 && bits w 7 6 == 0) = true ∧
    (if bit w 16 then bits w 15 12 == 0 && p == 0 else bits w 15 12 != 0 && tgKind p == 0 && s.targetOk s.fs p) = true := by
  rw [State.nodeOk, bit_eq_getLsbD]
  cases w.getLsbD 16 <;> simp [and_assoc]

/-- The node that `redcfg` makes. -/
def State.newNode (s : State) (w p : Word) : Node :=
  let place := (s.targetPlace s.th.vf s.th.detLaunch (coreOf s.fs) p).getD (0, 0)
  { vf := treeSpace s.th.vf, tree := bits w 5 0, gs := s.fs, uid := s.th.uid, root := bit w 16, cix := bits w 15 12, nch := bits w 11 8,
    parent := if bit w 16 then 0 else 64 * place.1 + place.2, contrib := none, out := none }

/-- A node's round has not delivered yet. -/
def Node.busy (n : Node) : Prop := n.contrib.isSome ∨ n.out.isSome

theorem Node.busy_iff (n : Node) : n.busy ↔ n.contrib ≠ none ∨ n.out ≠ none := by
  simp [Node.busy, Option.isSome_iff_ne_none]

/-- What `redcfg` does with its node word and its parent word. -/
def configureNode (w p : Word) : M Unit := do
  let s ← get
  let root := bit w 16
  let cix := bits w 15 12
  M.require (bits w 63 17 == 0 && bits w 7 6 == 0) .illegalOperand
  M.require (if root then cix == 0 && p == 0 else cix != 0 && tgKind p == 0 && s.targetOk s.fs p) .illegalOperand
  let tree := bits w 5 0
  match s.nodeOf s.th.uid tree with
  | some n => if n.contrib.isSome ∨ n.out.isSome then M.hold (.tree tree) else pure ()
  | none => pure ()
  let place := (s.targetPlace s.th.vf s.th.detLaunch (coreOf s.fs) p).getD (0, 0)
  let parent := if root then 0 else 64 * place.1 + place.2
  let n : Node :=
    { vf := treeSpace s.th.vf, tree := tree, gs := s.fs, uid := s.th.uid, root := root, cix := cix, nch := bits w 11 8,
      parent := parent, contrib := none, out := none }
  set { s with nodes := s.nodes.filter (fun (m : Node) => !(m.uid == n.uid && m.tree == tree)) ++ [n] }

theorem exec_redcfg_words {b a : BitVec 7} {s s1 : State} (hp : s1.unit.pre = none) :
    ∃ body, exec (.redcfg b a) s = issue (.redcfg b a) body s ∧ body s1 = configureNode (s1.getX a.toNat) (s1.getX b.toNat) s1 :=
  ⟨_, exec_redcfg .., (M.bind_ok (srcC_lone hp a)).trans (M.bind_ok (srcC_lone hp b))⟩

theorem configureNode_rejects {w p : Word} {s : State} (h : ¬s.nodeOk w p) :
    configureNode w p s = .error (.trap { cause := .illegalOperand }) := by
  rw [configureNode, M.get_bind]
  by_cases h1 : (bits w 63 17 == 0 && bits w 7 6 == 0) = true
  · exact (M.bind_ok (require_run h1 ..)).trans (M.bind_error (require_fails
      (Bool.eq_false_iff.mpr fun h2 => h ((nodeOk_iff ..).mpr ⟨h1, h2⟩)) ..))
  · exact M.bind_error (require_fails (Bool.eq_false_iff.mpr h1) ..)

theorem configureNode_waits {w p : Word} {s : State} {m : Node} (h : s.nodeOk w p) (hm : s.nodeOf s.th.uid (bits w 5 0) = some m)
    (hb : m.busy) : configureNode w p s = .error (.hold (.tree (bits w 5 0))) := by
  obtain ⟨h1, h2⟩ := (nodeOk_iff ..).mp h
  rw [configureNode, M.get_bind]
  refine (M.bind_ok (require_run h1 ..)).trans ((M.bind_ok (require_run h2 ..)).trans ?_)
  rw [hm]
  dsimp only
  rw [if_pos (show _ ∨ _ from hb)]
  rfl

theorem configureNode_run {w p : Word} {s : State} (h : s.nodeOk w p) (hm : ∀ m, s.nodeOf s.th.uid (bits w 5 0) = some m → ¬m.busy) :
    configureNode w p s = .ok ((), { s with
      nodes := s.nodes.filter (fun m => !(m.uid == s.th.uid && m.tree == bits w 5 0)) ++ [s.newNode w p] }) := by
  obtain ⟨h1, h2⟩ := (nodeOk_iff ..).mp h
  rw [configureNode, M.get_bind]
  refine (M.bind_ok (require_run h1 ..)).trans ((M.bind_ok (require_run h2 ..)).trans ?_)
  cases hn : s.nodeOf s.th.uid (bits w 5 0) with
  | none => rfl
  | some m =>
    dsimp only
    rw [if_neg (show ¬(_ ∨ _) from hm m hn)]
    rfl

/-- What `redc` does with the number of its tree. -/
def contribute (c : BitVec 4) (o : BitVec 2) (d : BitVec 5) (x : Word) : M Unit := do
  M.require (decide (x.toNat < 64)) .illegalOperand
  let s ← get
  match s.nodeOf s.th.uid x.toNat with
  | none => M.cause .illegalOperand
  | some n =>
    if n.contrib.isSome ∨ n.out.isSome then M.hold (.tree x.toNat)
    else do
      let esz := cfmtLog c.toNat
      let vs ← srcV d (8 * 2 ^ esz) (List.replicate (vlOf s.before.arch.grant esz) true) false
      modify (fun s => { s with
        nodes := s.nodes.map (fun (m : Node) =>
          if m.uid = n.uid ∧ m.tree = n.tree then { m with contrib := some (c.toNat, o.toNat, vs) } else m) })

theorem exec_redc_word {c : BitVec 4} {o : BitVec 2} {a : BitVec 7} {d : BitVec 5} {s s1 : State} (hp : s1.unit.pre = none) :
    ∃ body, exec (.redc c o a d) s = issue (.redc c o a d) body s ∧ body s1 = contribute c o d (s1.getX a.toNat) s1 :=
  ⟨_, exec_redc .., (M.bind_ok (srcC_lone hp a)).trans rfl⟩

theorem contribute_outside {c : BitVec 4} {o : BitVec 2} {d : BitVec 5} {x : Word} {s : State} (h : 64 ≤ x.toNat) :
    contribute c o d x s = .error (.trap { cause := .illegalOperand }) :=
  M.bind_error (require_fails (decide_eq_false (Nat.not_lt.mpr h)) ..)

theorem contribute_none {c : BitVec 4} {o : BitVec 2} {d : BitVec 5} {x : Word} {s : State} (hx : x.toNat < 64)
    (h : s.nodeOf s.th.uid x.toNat = none) : contribute c o d x s = .error (.trap { cause := .illegalOperand }) := by
  rw [contribute, M.bind_ok (require_run (decide_eq_true hx) ..), M.get_bind, h]
  rfl

theorem contribute_waits {c : BitVec 4} {o : BitVec 2} {d : BitVec 5} {x : Word} {s : State} {n : Node} (hx : x.toNat < 64)
    (h : s.nodeOf s.th.uid x.toNat = some n) (hb : n.busy) : contribute c o d x s = .error (.hold (.tree x.toNat)) := by
  rw [contribute, M.bind_ok (require_run (decide_eq_true hx) ..), M.get_bind, h]
  dsimp only
  rw [if_pos (show _ ∨ _ from hb)]
  rfl

theorem contribute_run {c : BitVec 4} {o : BitVec 2} {d : BitVec 5} {x : Word} {s s2 : State} {n : Node} {vs : List Nat}
    (hp : s.unit.pre = none) (hx : x.toNat < 64) (h : s.nodeOf s.th.uid x.toNat = some n) (hb : ¬n.busy)
    (hsrc : srcV d (8 * 2 ^ cfmtLog c.toNat) (List.replicate (vlOf s.arch.grant (cfmtLog c.toNat)) true) false s = .ok (vs, s2)) :
    contribute c o d x s = .ok ((), { s2 with
      nodes := s2.nodes.map (fun m => if m.uid = n.uid ∧ m.tree = n.tree then { m with contrib := some (c.toNat, o.toNat, vs) } else m) }) := by
  rw [contribute, M.bind_ok (require_run (decide_eq_true hx) ..), M.get_bind, h]
  dsimp only
  rw [if_neg (show ¬(_ ∨ _) from hb), State.before_lone hp, M.bind_ok hsrc]
  rfl

theorem reductionNodes : Spec.ReductionNodes := by
  refine ⟨fun b a s s1 ho hp => ?_, fun c o a d s s1 ho hp => ?_⟩
  · obtain ⟨body, hx, hb⟩ := exec_redcfg_words (b := b) (a := a) (s := s) hp
    intro w p admitted
    refine ⟨fun h => hx.trans (ho.traps (hb.trans (configureNode_rejects h))), fun h ⟨m, hm, hbusy⟩ => ?_, fun h hfree => ?_⟩
    · rw [← standsOutside_sends rfl rfl]
      exact hx.trans (ho.holds (hb.trans (configureNode_waits h hm (m.busy_iff.mpr hbusy))))
    · refine ⟨s1.newNode w p, rfl, rfl, rfl, bit_eq_getLsbD .., rfl, rfl, rfl, rfl, _, fun m hm => ?_,
        hx.trans (ho.runs (hb.trans (configureNode_run h fun m hm hbusy => ?_)))⟩
      · obtain ⟨hin, hkeep⟩ := List.mem_filter.mp hm
        refine ⟨hin, fun ⟨hu, ht⟩ => ?_⟩
        rw [hu, ht] at hkeep
        simp [State.newNode, w] at hkeep
      · obtain ⟨hc, hout⟩ := hfree m hm
        exact (m.busy_iff.mp hbusy).elim (fun g => g hc) (fun g => g hout)
  · obtain ⟨body, hx, hb⟩ := exec_redc_word (c := c) (o := o) (a := a) (d := d) (s := s) hp
    intro x esz
    refine ⟨fun h => hx.trans (ho.traps (hb.trans (contribute_outside h))), fun h hn => hx.trans (ho.traps (hb.trans (contribute_none h hn))),
      fun n h hn hbusy => ?_, fun n h hn hc hout vs s2 hsrc => ?_⟩
    · rw [← standsOutside_sends rfl rfl]
      exact hx.trans (ho.holds (hb.trans (contribute_waits h hn (n.busy_iff.mpr hbusy))))
    · refine hx.trans (ho.runs (hb.trans (contribute_run hp h hn (fun hbusy => ?_) hsrc)))
      exact (n.busy_iff.mp hbusy).elim (fun g => g hc) (fun g => g hout)

end Sys2Proof.Machine

namespace Sys2Proof
open Machine

/-- Settles O33: the channel and node words are checked in the model's order, each check by one lemma. -/
theorem channelAndReductionBindings : Obligations.ChannelAndReductionBindings := ⟨channelBindings, reductionNodes⟩

end Sys2Proof
end

section
/-!
PROOFS. Tasks, forks and ready queues (R223 to R227).
-/

namespace Sys2Proof.Machine

/-! Effects that take place at issue, or with their chunk (R208, R223, R224). -/

theorem deferOr_direct {d : Deferred} {s : State} (h : s.isDirect = true) : deferOr d s = .ok ((), s.runDeferred s.fs d) := by
  rw [deferOr, M.get_bind, if_pos h]
  rfl

theorem deferOr_chunk {d : Deferred} {s : State} (h : s.isDirect = false) :
    deferOr d s = .ok ((), s.setTh (s.th.modLast (fun c => { c with deferred := c.deferred ++ [d] }))) := by
  rw [deferOr, M.get_bind, if_neg (by rw [h]; exact Bool.false_ne_true)]
  show Except.ok ((), if s.isDirect then s else _) = _
  rw [h]
  rfl

theorem untilTurn_run {b : Bool} (h : b = true) (s : State) : M.untilTurn b s = .ok ((), s) := by
  rw [h]
  rfl

theorem untilTurn_holds {b : Bool} (h : b = false) (s : State) : M.untilTurn b s = .error (.hold .turn) := by
  rw [h]
  rfl

/-- What `tspawn` does with its four registers. -/
def spawnTask (entry ts arg x3 : Word) : M Unit := do
  let s ← get
  M.require (s.th.ord && decide (s.th.ts.toNat ≤ ts.toNat)) .illegalOperand
  if entry.toNat % 4 ≠ 0 then M.trap { cause := .misaligned, av := true, acc := 2, info1 := addr57 entry } else pure ()
  M.untilTurn (!s.isDirect || s.poolRoom s.fs 1)
  deferOr (.tspawn (addr57 entry) ts arg x3)

theorem exec_tspawn_words {b a d : BitVec 7} {s s1 : State} (hp : s1.unit.pre = none) :
    ∃ body, exec (.tspawn b a d) s = issue (.tspawn b a d) body s ∧
      body s1 = spawnTask (s1.getX a.toNat) (s1.getX b.toNat) (s1.getX d.toNat) (s1.getX 3) s1 :=
  ⟨_, exec_tspawn .., (M.bind_ok (srcC_lone hp a)).trans ((M.bind_ok (srcC_lone hp b)).trans ((M.bind_ok (srcC_lone hp d)).trans
    (M.bind_ok (readX_lone hp 3))))⟩

/-- With its checks passed, `tspawn` waits for room and defers its task. -/
theorem spawnTask_admitted {entry ts arg x3 : Word} {s : State} (ho : s.th.ord = true) (ht : s.th.ts.toNat ≤ ts.toNat)
    (he : entry.toNat % 4 = 0) : spawnTask entry ts arg x3 s =
      (M.untilTurn (!s.isDirect || s.poolRoom s.fs 1) >>= fun _ => deferOr (.tspawn (addr57 entry) ts arg x3)) s := by
  rw [spawnTask, M.get_bind, M.bind_ok (require_run (by simp [ho, ht]) ..), if_neg (not_not_intro he)]

theorem tspawns (b a d : BitVec 7) (s s1 : State) (hopen : s.Opens (.tspawn b a d) s1) (hp : s1.unit.pre = none) :
    let entry := s1.getX a.toNat
    let ts := s1.getX b.toNat
    let x3 := s1.getX 3
    (s1.th.ord = false ∨ ts.toNat < s1.th.ts.toNat → Spec.Raises (.tspawn b a d) s s1 { cause := .illegalOperand }) ∧
    (s1.th.ord = true → s1.th.ts.toNat ≤ ts.toNat → entry.toNat % 4 ≠ 0 →
      Spec.Raises (.tspawn b a d) s s1 { cause := .misaligned, av := true, acc := 2, info1 := addr57 entry }) ∧
    (s1.th.ord = true → s1.th.ts.toNat ≤ ts.toNat → entry.toNat % 4 = 0 →
      (s1.isDirect = true → s1.poolRoom s1.fs 1 = false → exec (.tspawn b a d) s =
        .next ((s.endsBefore (s.standsOutside [.tspawn b a d]) false 1).holdUnit .turn)) ∧
      (s1.isDirect = true → s1.poolRoom s1.fs 1 = true →
        Spec.Completes (.tspawn b a d) s (s1.addTask s1.fs (addr57 entry) ts (s1.getX d.toNat) x3)) ∧
      (s1.isDirect = false → Spec.Completes (.tspawn b a d) s (s1.setTh (s1.th.modLast (fun c =>
        { c with deferred := c.deferred ++ [.tspawn (addr57 entry) ts (s1.getX d.toNat) x3] }))))) := by
  obtain ⟨body, hx, hb⟩ := exec_tspawn_words (b := b) (a := a) (d := d) (s := s) hp
  intro entry ts x3
  refine ⟨fun h => hx.trans (hopen.traps (hb.trans ?_)), fun ho ht he => hx.trans (hopen.traps (hb.trans ?_)), fun ho ht he => ?_⟩
  · rw [spawnTask, M.get_bind]
    refine M.bind_error (require_fails ?_ ..)
    rcases h with h | h
    · rw [h, Bool.false_and]
    · rw [decide_eq_false (Nat.not_le.mpr h), Bool.and_false]
  · rw [spawnTask, M.get_bind, M.bind_ok (require_run (by rw [ho, decide_eq_true ht]; rfl) ..), if_pos he]
    rfl
  · have hrun := hb.trans (spawnTask_admitted (arg := s1.getX d.toNat) (x3 := x3) ho ht he)
    refine ⟨fun hd hr => hx.trans (hopen.holds (hrun.trans ?_)), fun hd hr => hx.trans (hopen.runs (hrun.trans ?_)),
      fun hd => hx.trans (hopen.runs (hrun.trans ?_))⟩
    · exact M.bind_error (untilTurn_holds (by rw [hd, hr]; rfl) _)
    · exact (M.bind_ok (untilTurn_run (by rw [hd, hr]; rfl) s1)).trans (deferOr_direct hd)
    · exact (M.bind_ok (untilTurn_run (by rw [hd]; rfl) s1)).trans (deferOr_chunk hd)

/-- What `fork` does with its registers. -/
def forkChild (entry arg x3 : Word) (d : BitVec 7) : M Unit := do
  let s ← get
  let c := s.arch.forks
  M.require (decide (c < 255) && !s.th.ord && decide (s.th.path.length < 64)) .illegalOperand
  modArch (fun t => { t with forks := c + 1 })
  deferOr (.fork c (addr57 entry) arg x3)
  dstC d (BitVec.ofNat 64 c)

theorem exec_fork_words {b a d : BitVec 7} {s s1 : State} (hp : s1.unit.pre = none) :
    ∃ body, exec (.fork b a d) s = issue (.fork b a d) body s ∧
      body s1 = forkChild (s1.getX a.toNat) (s1.getX b.toNat) (s1.getX 3) d s1 :=
  ⟨_, exec_fork .., (M.bind_ok (srcC_lone hp a)).trans ((M.bind_ok (srcC_lone hp b)).trans (M.bind_ok (readX_lone hp 3)))⟩

theorem forkChild_rejects {entry arg x3 : Word} {d : BitVec 7} {s : State}
    (h : 255 ≤ s.arch.forks ∨ s.th.ord = true ∨ 64 ≤ s.th.path.length) :
    forkChild entry arg x3 d s = .error (.trap { cause := .illegalOperand }) := by
  rw [forkChild, M.get_bind]
  refine M.bind_error (require_fails ?_ ..)
  rcases h with h | h | h
  · rw [decide_eq_false (Nat.not_lt.mpr h)]
    rfl
  · rw [h]
    simp
  · rw [decide_eq_false (Nat.not_lt.mpr h), Bool.and_false]

theorem forkChild_admitted {entry arg x3 : Word} {d : BitVec 7} {s : State} (hc : s.arch.forks < 255) (ho : s.th.ord = false)
    (hl : s.th.path.length < 64) : forkChild entry arg x3 d s =
      (deferOr (.fork s.arch.forks (addr57 entry) arg x3) >>= fun _ => dstC d (BitVec.ofNat 64 s.arch.forks))
        (s.setArch { s.arch with forks := s.arch.forks + 1 }) := by
  rw [forkChild, M.get_bind, M.bind_ok (require_run (by rw [decide_eq_true hc, ho, decide_eq_true hl]; rfl) ..)]
  rfl

theorem forks (b a d : BitVec 7) (s s1 : State) (ho : s.Opens (.fork b a d) s1) (hp : s1.unit.pre = none) :
    let c := s1.arch.forks
    let entry := addr57 (s1.getX a.toNat)
    let arg := s1.getX b.toNat
    let s2 := s1.setArch { s1.arch with forks := c + 1 }
    (255 ≤ c ∨ s1.th.ord = true ∨ 64 ≤ s1.th.path.length → Spec.Raises (.fork b a d) s s1 { cause := .illegalOperand }) ∧
    (c < 255 → s1.th.ord = false → s1.th.path.length < 64 →
      (s1.isDirect = true → Spec.Completes (.fork b a d) s
        ((s2.addChild s2.fs c entry arg (s1.getX 3)).setX d.toNat (BitVec.ofNat 64 c))) ∧
      (s1.isDirect = false → Spec.Completes (.fork b a d) s
        ((s2.setTh (s2.th.modLast (fun k => { k with deferred := k.deferred ++ [.fork c entry arg (s1.getX 3)] }))).setX d.toNat
          (BitVec.ofNat 64 c)))) := by
  obtain ⟨body, hx, hb⟩ := exec_fork_words (b := b) (a := a) (d := d) (s := s) hp
  intro c entry arg s2
  have hd2 : s2.isDirect = s1.isDirect := by
    apply State.isDirect_setTh
    rfl
  refine ⟨fun h => hx.trans (ho.traps (hb.trans (forkChild_rejects h))), fun hc hord hl => ?_⟩
  have hrun := hb.trans (forkChild_admitted (d := d) hc hord hl)
  exact ⟨fun hd => hx.trans (ho.runs (hrun.trans (M.bind_ok (deferOr_direct (hd2.trans hd))))),
    fun hd => hx.trans (ho.runs (hrun.trans (M.bind_ok (deferOr_chunk (hd2.trans hd)))))⟩

/-! Children and paths (R225, R226). -/

theorem joins (s s1 : State) (ho : s.Opens .join s1) :
    (s1.childrenLeft s1.th.uid = true → Spec.Waits .join s .join) ∧
    (s1.childrenLeft s1.th.uid = false → Spec.Completes .join s (s1.setTh { s1.th with ent := max s1.th.ent s1.th.joined })) := by
  refine ⟨fun h => ?_, fun h => (exec_join ..).trans (ho.runs ?_)⟩
  · rw [← standsOutside_sends rfl rfl]
    refine (exec_join ..).trans (ho.holds ?_)
    rw [joinChildren, M.get_bind, if_pos h]
    rfl
  · rw [joinChildren, M.get_bind, if_neg (by rw [h]; exact Bool.false_ne_true)]
    rfl

theorem pathWord_eq (p : List Nat) :
    pathWord p = BitVec.ofNat 64 (p.length * 2 ^ 56 + ((List.range 7).map (fun j => p.getD j 0 * 2 ^ (8 * j))).sum) := by
  rw [pathWord, List.sum_eq_foldl]

theorem pathPart_eq (p : List Nat) (w : Nat) :
    pathPart p w = BitVec.ofNat 64 ((List.range 8).map (fun j => p.getD (8 * (w - 1) + j) 0 * 2 ^ (8 * j))).sum := by
  rw [pathPart, List.sum_eq_foldl]

/-- What `tkey` does with its index. -/
def taskKey (x : Word) (d : BitVec 7) : M Unit := do
  let s ← get
  if s.th.ord then
    M.require (x == 0) .illegalOperand
    dstC d s.th.ts
  else
    M.require (decide (x.toNat ≤ 8)) .illegalOperand
    dstC d (if x = 0 then pathWord s.th.path else pathPart s.th.path x.toNat)

theorem taskKey_ordered {x : Word} {d : BitVec 7} {s : State} (h : s.th.ord = true) :
    taskKey x d s = (M.require (x == 0) .illegalOperand >>= fun _ => dstC d s.th.ts) s := by
  rw [taskKey, M.get_bind, if_pos h]

theorem taskKey_path {x : Word} {d : BitVec 7} {s : State} (h : s.th.ord = false) :
    taskKey x d s = (M.require (decide (x.toNat ≤ 8)) .illegalOperand >>= fun _ =>
      dstC d (if x = 0 then pathWord s.th.path else pathPart s.th.path x.toNat)) s := by
  rw [taskKey, M.get_bind, if_neg (by rw [h]; exact Bool.false_ne_true)]

theorem tkeys (a d : BitVec 7) (s s1 : State) (ho : s.Opens (.tkey a d) s1) (hp : s1.unit.pre = none) :
    let x := (s1.getX a.toNat).toNat
    let level (k : Nat) : Nat := s1.th.path.getD k 0
    let word (k : Nat) : Nat := ((List.range 8).map (fun j => level (k + j) * 2 ^ (8 * j))).sum
    (s1.th.ord = true → x ≠ 0 → Spec.Raises (.tkey a d) s s1 { cause := .illegalOperand }) ∧
    (s1.th.ord = true → x = 0 → Spec.Completes (.tkey a d) s (s1.setX d.toNat s1.th.ts)) ∧
    (s1.th.ord = false → 8 < x → Spec.Raises (.tkey a d) s s1 { cause := .illegalOperand }) ∧
    (s1.th.ord = false → x = 0 → Spec.Completes (.tkey a d) s (s1.setX d.toNat
      (BitVec.ofNat 64 (s1.th.path.length * 2 ^ 56 + ((List.range 7).map (fun j => level j * 2 ^ (8 * j))).sum)))) ∧
    (s1.th.ord = false → 1 ≤ x → x ≤ 8 → Spec.Completes (.tkey a d) s (s1.setX d.toNat (BitVec.ofNat 64 (word (8 * (x - 1)))))) := by
  intro x level word
  have hzero : s1.getX a.toNat = 0 ↔ x = 0 := ⟨fun h => by rw [show x = (s1.getX a.toNat).toNat from rfl, h]; rfl, fun h => BitVec.eq_of_toNat_eq h⟩
  have hrun : (srcC a >>= fun x => taskKey x d) s1 = taskKey (s1.getX a.toNat) d s1 := M.bind_ok (srcC_lone hp a)
  refine ⟨fun h hx => (exec_tkey ..).trans (ho.traps (hrun.trans ((taskKey_ordered h).trans ?_))),
    fun h hx => (exec_tkey ..).trans (ho.runs (hrun.trans ((taskKey_ordered h).trans ?_))),
    fun h hx => (exec_tkey ..).trans (ho.traps (hrun.trans ((taskKey_path h).trans ?_))),
    fun h hx => (exec_tkey ..).trans (ho.runs (hrun.trans ((taskKey_path h).trans ?_))),
    fun h hx hx8 => (exec_tkey ..).trans (ho.runs (hrun.trans ((taskKey_path h).trans ?_)))⟩
  · exact M.bind_error (require_fails (beq_eq_false_iff_ne.mpr (mt hzero.mp hx)) ..)
  · exact M.bind_ok (require_run (beq_iff_eq.mpr (hzero.mpr hx)) ..)
  · exact M.bind_error (require_fails (decide_eq_false (Nat.not_le.mpr hx)) ..)
  · refine (M.bind_ok (require_run (decide_eq_true (by omega)) ..)).trans ?_
    rw [if_pos (hzero.mpr hx), pathWord_eq]
    rfl
  · refine (M.bind_ok (require_run (decide_eq_true hx8) ..)).trans ?_
    rw [if_neg (mt hzero.mp (by omega)), pathPart_eq]
    rfl

theorem tasksAndForks : Spec.TasksAndForks := ⟨tspawns, forks, joins, tkeys⟩

/-! Ready queues (R227). -/

/-- What `rqput` does with its record and priority. -/
def putReady (r p : Word) : M Unit := do
  M.require (r != 0 && decide (p.toNat ≤ 3)) .illegalOperand
  let s ← get
  let q := mgetD s.rqs (s.subq s.fs) []
  M.untilTurn (decide (q.length < 64))
  set { s with rqs := mput s.rqs (s.subq s.fs) (q ++ [(p.toNat, r)]) }

theorem putReady_admitted {r p : Word} {s : State} (hr : r ≠ 0) (hp : p.toNat ≤ 3) : putReady r p s =
    (M.untilTurn (decide ((mgetD s.rqs (s.subq s.fs) []).length < 64)) >>= fun _ =>
      set { s with rqs := mput s.rqs (s.subq s.fs) (mgetD s.rqs (s.subq s.fs) [] ++ [(p.toNat, r)]) }) s := by
  rw [putReady, M.bind_ok (require_run (by rw [decide_eq_true hp, Bool.and_true]; exact bne_iff_ne.mpr hr) ..), M.get_bind]

/-- The entry that `rqtake` finds at one priority. -/
def pickAt (q : List (Nat × Word)) (m : Word) (p : Nat) : Option (Nat × Word) :=
  if m.getLsbD p then q.find? (fun e => e.1 == p) else none

theorem rqPick_eq (q : List (Nat × Word)) (m : Word) : rqPick q m.toNat = (List.range 4).findSome? (pickAt q m) := by
  refine congrArg (List.findSome? · _) (funext fun p => ?_)
  rw [pickAt, ← BitVec.testBit_toNat, Nat.testBit_eq_decide_div_mod_eq]
  simp only [decide_eq_true_eq]

theorem pickAt_none {q : List (Nat × Word)} {m : Word} {p : Nat} (h : ∀ e ∈ q, e.1 = p → m.getLsbD p = false) : pickAt q m p = none := by
  rw [pickAt]
  split
  · rename_i hm
    refine List.find?_eq_none.mpr fun e he hep => ?_
    rw [h e he (beq_iff_eq.mp hep)] at hm
    cases hm
  · rfl

/-- The first entry of the queue that the mask names at priority p, with none at a priority before it (R227). -/
theorem rqPick_eq_some {q pre post : List (Nat × Word)} {m : Word} {p : Nat} {r : Word} (hp : p < 4) (hm : m.getLsbD p = true)
    (hq : q = pre ++ (p, r) :: post) (hpre : ∀ e ∈ pre, e.1 ≠ p) (hlow : ∀ e ∈ q, e.1 < p → m.getLsbD e.1 = false) :
    rqPick q m.toNat = some (p, r) := by
  have hfind : pickAt q m p = some (p, r) := by
    rw [pickAt, if_pos hm, hq, List.find?_append, List.find?_eq_none.mpr (fun e he => by simpa using hpre e he), Option.none_or]
    exact List.find?_cons_of_pos (p := fun e : Nat × Word => e.1 == p) (beq_self_eq_true p)
  have hsplit : List.range 4 = List.range p ++ p :: List.range' (p + 1) (3 - p) := by interval_cases p <;> rfl
  rw [rqPick_eq, hsplit, List.findSome?_append, List.findSome?_cons_of_isSome (by rw [hfind]; rfl), hfind,
    List.findSome?_eq_none_iff.mpr fun k hk => pickAt_none fun e he hek => hek ▸ hlow e he (hek ▸ List.mem_range.mp hk), Option.none_or]

theorem rqPick_eq_none {q : List (Nat × Word)} {m : Word} (h : ∀ e ∈ q, e.1 < 4 → m.getLsbD e.1 = false) : rqPick q m.toNat = none := by
  rw [rqPick_eq]
  exact List.findSome?_eq_none_iff.mpr fun k hk => pickAt_none fun e he hek => hek ▸ h e he (hek ▸ List.mem_range.mp hk)

theorem erase_first {q pre post : List (Nat × Word)} {p : Nat} {r : Word} (hq : q = pre ++ (p, r) :: post) (hpre : ∀ e ∈ pre, e.1 ≠ p) :
    q.erase (p, r) = pre ++ post := by
  rw [hq, List.erase_append_right _ (fun h => hpre _ h rfl), List.erase_cons_head]

/-- What `rqtake` does with its mask. -/
def takeReady (m : Word) (d : BitVec 7) : M Unit := do
  M.require (decide (m.toNat < 16)) .illegalOperand
  let s ← get
  let q := mgetD s.rqs (s.subq s.fs) []
  match rqPick q m.toNat with
  | some e =>
    set { s with rqs := mput s.rqs (s.subq s.fs) (q.erase e) }
    dstC d e.2
  | none => dstC d 0

theorem readyQueues : Spec.ReadyQueues := by
  refine ⟨fun b a s s1 ho hp => ?_, fun b d s s1 ho hp => ?_⟩
  · intro r p q
    have hrun : (do let r ← srcC a; let p ← srcC b; putReady r p : M Unit) s1 = putReady r (s1.getX b.toNat) s1 :=
      (M.bind_ok (srcC_lone hp a)).trans (M.bind_ok (srcC_lone hp b))
    refine ⟨fun h => (exec_rqput ..).trans (ho.traps (hrun.trans ?_)), fun hr h3 hq => ?_,
      fun hr h3 hq => (exec_rqput ..).trans (ho.runs (hrun.trans ((putReady_admitted hr h3).trans ?_)))⟩
    · refine M.bind_error (require_fails ?_ ..)
      rcases h with h | h
      · rw [h]
        rfl
      · rw [decide_eq_false (Nat.not_le.mpr h), Bool.and_false]
    · rw [← standsOutside_sends rfl rfl]
      refine (exec_rqput ..).trans (ho.holds (hrun.trans ((putReady_admitted hr h3).trans ?_)))
      exact M.bind_error (untilTurn_holds (decide_eq_false (Nat.not_lt.mpr hq)) _)
    · exact M.bind_ok (untilTurn_run (decide_eq_true hq) s1)
  · intro m q
    have hrun : (do let m ← srcC b; takeReady m d : M Unit) s1 = takeReady m d s1 := M.bind_ok (srcC_lone hp b)
    refine ⟨fun h => (exec_rqtake ..).trans (ho.traps (hrun.trans (M.bind_error (require_fails (decide_eq_false (Nat.not_lt.mpr h)) ..)))),
      fun h hno => (exec_rqtake ..).trans (ho.runs (hrun.trans ?_)),
      fun pre post p r h hp4 hm hq hpre hlow => (exec_rqtake ..).trans (ho.runs (hrun.trans ?_))⟩
    · rw [takeReady, M.bind_ok (require_run (decide_eq_true h) ..), M.get_bind, rqPick_eq_none hno]
      rfl
    · rw [takeReady, M.bind_ok (require_run (decide_eq_true h) ..), M.get_bind, rqPick_eq_some hp4 hm hq hpre hlow]
      dsimp only
      rw [show (mgetD s1.rqs (s1.subq s1.fs) []).erase (p, r) = pre ++ post from erase_first hq hpre]
      rfl

end Sys2Proof.Machine

namespace Sys2Proof
open Machine

/-- Settles O34: each word's registers are read once, and what it does with them is said case by case. -/
theorem tasksForksAndReadyQueues : Obligations.TasksForksAndReadyQueues := ⟨tasksAndForks, readyQueues⟩

end Sys2Proof
end

section
/-!
PROOFS. Slots: what starts, stops and ends a thread (R228 to R231).
-/

namespace Sys2Proof.Machine

/-! What the observers see of a unit, and what the end of a thread leaves. -/

theorem State.traceRec_keeps (s : State) (gs ty : Nat) (pc aux : Word) : ∃ tr, s.traceRec gs ty pc aux = { s with traced := tr } := by
  unfold State.traceRec
  dsimp only
  split
  · exact ⟨s.traced, rfl⟩
  · exact ⟨_, rfl⟩

theorem State.count_keeps (s : State) (gs ev n : Nat) : ∃ cs, s.count gs ev n = { s with counters := cs } := ⟨_, rfl⟩

/-- Observing a unit changes the counts and the trace only. -/
theorem State.observe_keeps (s : State) (is : List Instr) :
    ∃ l cs tr, s.observe is = { s with issued := l, counters := cs, traced := tr } := by
  let s1 : State := { s with issued := s.fs :: s.issued }
  obtain ⟨c1, h1⟩ := s1.count_keeps s.fs 0x02 1
  obtain ⟨c2, h2⟩ := (s1.count s.fs 0x02 1).count_keeps s.fs 0x03 is.length
  rw [h1] at h2
  have hobs : s.observe is = if s.unit.park.isSome then s1 else (match s.unit.target with
      | some t => ((s1.count s.fs 0x02 1).count s.fs 0x03 is.length).traceRec s.fs (if is.any isEret then 3 else 1) s.unit.addr t
      | none => (s1.count s.fs 0x02 1).count s.fs 0x03 is.length) := rfl
  rw [hobs, h1, h2]
  split
  · exact ⟨s1.issued, s.counters, s.traced, rfl⟩
  · split
    · rename_i t _
      obtain ⟨tr, h⟩ := ({ s1 with counters := c2 } : State).traceRec_keeps s.fs (if is.any isEret then 3 else 1) s.unit.addr t
      exact ⟨s1.issued, c2, tr, h⟩
    · exact ⟨s1.issued, c2, s.traced, rfl⟩

theorem State.releaseSlot_shape (s : State) (gs : Nat) : ∃ hs, s.releaseSlot gs =
    { s with homes := hs, watches := s.watches.filter (fun p => p.2 != gs), chans := s.chans.filter (fun p => p.2.gs != gs) } := by
  unfold State.releaseSlot State.breakResv
  split <;> exact ⟨_, rfl⟩

theorem State.freeArea_shape (s : State) (lid grp : Nat) : ∃ ls, s.freeArea lid grp = { s with launches := ls } := by
  unfold State.freeArea
  split
  · exact ⟨_, rfl⟩
  · split
    · exact ⟨_, rfl⟩
    · exact ⟨_, rfl⟩

/-- The end of a thread frees its slot, its channels and its watch bits, and changes no byte of memory and no register. -/
structure State.EndsThread (s t : State) (gs : Nat) : Prop where
  fs : t.fs = s.fs
  mem : t.mem = s.mem
  rf : t.rf = s.rf
  live : (t.thread gs).live = false
  chans : ∀ c ∈ t.chans, c.2.gs ≠ gs
  watches : ∀ w ∈ t.watches, w.2 ≠ gs

/-- The slot of a thread that has ended, idle again. -/
def State.emptied (s : State) (gs : Nat) (exited : Bool) : State :=
  let t := s.thread gs
  let s1 := s.releaseSlot gs
  ({ s1 with
    nodes := s1.nodes.filter (fun n => n.uid != t.uid || n.contrib.isSome || n.out.isSome)
    threads := s1.threads.map (fun (p : Nat × Thread) => (p.1, p.2.childEnds t exited))
    away := s1.away.map (fun (a : Away) => { a with t := a.t.childEnds t exited }) } : State).setThread gs
    { Thread.idle with uid := t.uid, mats := t.mats, lid := if t.mats.isEmpty then none else t.lid }

theorem State.emptied_ends (s : State) (gs : Nat) (exited : Bool) : s.EndsThread (s.emptied gs exited) gs := by
  obtain ⟨hs, hrel⟩ := s.releaseSlot_shape gs
  unfold State.emptied
  dsimp only
  rw [hrel]
  refine ⟨rfl, rfl, rfl, by rw [State.thread_setThread_self]; rfl, fun c h => ?_, fun w h => ?_⟩
  · simpa using (List.mem_filter.mp h).2
  · simpa using (List.mem_filter.mp h).2

theorem State.endThread_shape (s : State) (gs : Nat) (exited : Bool) :
    ∃ ls, s.endThread gs exited = { s.emptied gs exited with launches := ls } := by
  have hend : s.endThread gs exited = (match (s.thread gs).lid with
    | none => s.emptied gs exited
    | some lid =>
      match mget (s.emptied gs exited).launches lid with
      | none => s.emptied gs exited
      | some l =>
        { s.emptied gs exited with launches := mput (s.emptied gs exited).launches lid { l with exited := l.exited + exited.toNat } }.freeArea
          lid (groupOf l.record (s.thread gs).gid)) := rfl
  rw [hend]
  split
  · exact ⟨(s.emptied gs exited).launches, rfl⟩
  · split
    · exact ⟨(s.emptied gs exited).launches, rfl⟩
    · exact State.freeArea_shape ..

theorem State.endThread_ends (s : State) (gs : Nat) (exited : Bool) : s.EndsThread (s.endThread gs exited) gs := by
  obtain ⟨ls, h⟩ := s.endThread_shape gs exited
  obtain ⟨hfs, hmem, hrf, hlive, hchans, hwatches⟩ := s.emptied_ends gs exited
  rw [h]
  exact ⟨hfs, hmem, hrf, hlive, hchans, hwatches⟩

/-! Starting a thread (R229). -/

theorem startStatus_dir (dir ue det ord : Bool) : bit (startStatus dir ue det ord) 12 = dir := by
  revert dir ue det ord
  decide

theorem startStatus_ue (dir ue det ord : Bool) : bit (startStatus dir ue det ord) 15 = ue := by
  revert dir ue det ord
  decide

theorem State.setXOf_shape (s : State) (gs f : Nat) (v : Word) : ∃ rf, s.setXOf gs f v = { s with rf := rf } := by
  unfold State.setXOf
  split
  · exact ⟨_, rfl⟩
  · exact ⟨_, rfl⟩

theorem State.setWindowOf_shape (s : State) (gs : Nat) (xs : List Word) : ∃ rf, s.setWindowOf gs xs = { s with rf := rf } := by
  refine List.foldlRecOn (motive := fun t : State => ∃ rf, t = { s with rf := rf }) _ _ ⟨_, rfl⟩ fun t ⟨rf, ht⟩ p _ => ?_
  obtain ⟨rf', h⟩ := t.setXOf_shape gs p.2 p.1
  exact ⟨rf', by rw [h, ht]⟩

theorem getXOf_setXOf_self (s : State) (gs : Nat) {f : Nat} (v : Word) (h : f ≠ 0) : (s.setXOf gs f v).getXOf gs f = v := by
  simp only [State.getXOf, State.thread_setXOf]
  simp [State.setXOf, h, mgetD, mget_mput_self]

theorem getXOf_setXOf_ne (s : State) (gs : Nat) {f g : Nat} (v : Word) (h : g ≠ f) : (s.setXOf gs f v).getXOf gs g = s.getXOf gs g := by
  have hidx : State.rfIndex gs (s.thread gs).winBase g ≠ State.rfIndex gs (s.thread gs).winBase f := by
    unfold State.rfIndex
    omega
  simp only [State.getXOf, State.thread_setXOf]
  unfold State.setXOf
  split
  · rfl
  · split
    · rfl
    · simp only [mgetD, mget_mput_ne _ _ hidx]

/-- What stands in the slot that a start record names, once it is started. -/
theorem startThread_starts (s : State) (gs : Nat) (t : Thread) (a b : Word) :
    (∃ n f, (s.startThread gs t [(3, a), (2, b)]).thread gs = { t with uid := n, stopFor := f }) ∧
      (s.startThread gs t [(3, a), (2, b)]).getXOf gs 3 = a ∧ (s.startThread gs t [(3, a), (2, b)]).getXOf gs 2 = b ∧
      (s.startThread gs t [(3, a), (2, b)]).mem = s.mem ∧
      ∀ g, g ≠ gs → (s.startThread gs t [(3, a), (2, b)]).thread g = s.thread g := by
  let leaving := (match t.vf.bind (mget s.vfs) with | some v => v.mstate == 2 | none => false)
  let t1 : Thread := { t with uid := s.fresh, stopFor := if leaving then some .migrate else t.stopFor }
  let s1 := { s with fresh := s.fresh + 1 }.setThread gs t1
  obtain ⟨rf, hrf⟩ := s1.setWindowOf_shape gs (List.replicate t.winLim 0)
  have hstart : s.startThread gs t [(3, a), (2, b)] = ({ s1 with rf := rf }.setXOf gs 3 a).setXOf gs 2 b := by
    rw [← hrf]
    rfl
  have hth (g : Nat) : (s.startThread gs t [(3, a), (2, b)]).thread g = s1.thread g := by
    rw [hstart, State.thread_setXOf, State.thread_setXOf]
    rfl
  refine ⟨⟨_, _, (hth gs).trans (State.thread_setThread_self ..)⟩, ?_, ?_, ?_, fun g hg => (hth g).trans (State.thread_setThread_ne _ _ hg)⟩
  · rw [hstart, getXOf_setXOf_ne _ _ _ (by decide), getXOf_setXOf_self _ _ _ (by decide)]
  · rw [hstart, getXOf_setXOf_self _ _ _ (by decide)]
  · rw [hstart, State.setXOf_mem, State.setXOf_mem]
    rfl

theorem boundary_opens_quiet {i : Instr} {s s1 : State} (ho : s.Opens i s1) (hb : isBoundary i = true) : s1.th.quiet = true := by
  have hbegin := ho.begins
  rw [standsOutside_of_boundary hb, State.beginUnit, if_pos rfl] at hbegin
  generalize s.endsBefore true (isCsrw i) 1 = u at hbegin
  split at hbegin
  · rename_i hq
    split at hbegin
    · cases hbegin
    · cases hbegin
      exact (Bool.and_eq_true_iff.mp hq).2
  · cases hbegin

/-- What `sstart` does with the record it has read. -/
def startSlot (v : Nat) (d : BitVec 7) : M Unit := do
  let dwn := fun (i : Nat) => BitVec.ofNat 64 (v / 2 ^ (64 * i))
  let s ← get
  let st := s.startStatusOf (dwn 0) (dwn 1)
  if st = 0 then
    let t := Thread.fresh s.th.vf s.th.asid (bits (dwn 0) 18 8) (bits (dwn 0) 26 20) (addr57 (dwn 1))
      (startStatus (bit (dwn 0) 27) (bit (dwn 0) 28) false false)
    set (s.startThread (64 * coreOf s.fs + bits (dwn 0) 5 0) t [(3, dwn 2), (2, dwn 3)])
  else pure ()
  dstC d (BitVec.ofNat 64 st)

theorem startStatusOf_eq (s : State) (d0 d1 : Word) : s.startStatusOf d0 d1 =
    if startRecordOk d0 d1 = false then 4 else if (s.pmask s.fs).getLsbD (bits d0 5 0) = false then 1
      else if s.slotFree (64 * coreOf s.fs + bits d0 5 0) = false then 2
      else if s.windowFree (coreOf s.fs) (bits d0 18 8) (bits d0 26 20) = false then 3 else 0 := by
  simp only [State.startStatusOf, bit_eq_getLsbD, Bool.not_eq_true']

/-- The thread that a start record describes (Table 8.8). -/
def Thread.ofRecord (vf : Option Nat) (asid : Nat) (d0 d1 : Word) : Thread :=
  Thread.fresh vf asid (bits d0 18 8) (bits d0 26 20) (addr57 d1) (startStatus (bit d0 27) (bit d0 28) false false)

/-- The state in which the slot of a start record has started. -/
def State.started (s : State) (v : Nat) : State :=
  s.startThread (64 * coreOf s.fs + bits (BitVec.ofNat 64 v) 5 0)
    (Thread.ofRecord s.th.vf s.th.asid (BitVec.ofNat 64 v) (BitVec.ofNat 64 (v / 2 ^ 64)))
    [(3, BitVec.ofNat 64 (v / 2 ^ 128)), (2, BitVec.ofNat 64 (v / 2 ^ 192))]

theorem startSlot_run (v : Nat) (d : BitVec 7) (s : State) : startSlot v d s =
    .ok ((), (if s.startStatusOf (BitVec.ofNat 64 v) (BitVec.ofNat 64 (v / 2 ^ 64)) = 0 then s.started v else s).setX d.toNat
      (BitVec.ofNat 64 (s.startStatusOf (BitVec.ofNat 64 v) (BitVec.ofNat 64 (v / 2 ^ 64))))) := by
  rw [startSlot, M.get_bind]
  simp only [Nat.mul_zero, Nat.pow_zero, Nat.div_one, Nat.mul_one]
  split
  · rfl
  · rfl

theorem slotStarts (a d : BitVec 7) (s s1 s2 : State) (pa v : Nat) (ho : s.Opens (.sstart a d) s1) (hp : s1.unit.pre = none)
    (hr : memRead (addr57 (s1.getX a.toNat)) 32 s1 = .ok ((pa, v), s2)) :
    let d0 : Word := BitVec.ofNat 64 v
    let d1 : Word := BitVec.ofNat 64 (v / 2 ^ 64)
    let gs := 64 * coreOf s2.fs + bits d0 5 0
    let st := if startRecordOk d0 d1 = false then 4 else if (s2.pmask s2.fs).getLsbD (bits d0 5 0) = false then 1
      else if s2.slotFree gs = false then 2 else if s2.windowFree (coreOf s2.fs) (bits d0 18 8) (bits d0 26 20) = false then 3 else 0
    (st ≠ 0 → Spec.Completes (.sstart a d) s (s2.setX d.toNat (BitVec.ofNat 64 st))) ∧
    (st = 0 → ∃ t : State, Spec.Completes (.sstart a d) s (t.setX d.toNat 0) ∧ t.mem = s2.mem ∧
      (t.thread gs).live = true ∧ (t.thread gs).a.pc = addr57 d1 ∧ (t.thread gs).vf = s2.th.vf ∧ (t.thread gs).asid = s2.th.asid ∧
      (t.thread gs).winBase = bits d0 18 8 ∧ (t.thread gs).winLim = bits d0 26 20 ∧
      (t.thread gs).dir = d0.getLsbD 27 ∧ (t.thread gs).ue = d0.getLsbD 28 ∧
      t.getXOf gs 3 = BitVec.ofNat 64 (v / 2 ^ 128) ∧ t.getXOf gs 2 = BitVec.ofNat 64 (v / 2 ^ 192) ∧
      (∀ g, g ≠ gs → t.thread g = s2.thread g)) := by
  intro d0 d1 gs st
  have hst : s2.startStatusOf d0 d1 = st := startStatusOf_eq ..
  have hrun : exec (.sstart a d) s = .next (((if st = 0 then s2.started v else s2).setX d.toNat (BitVec.ofNat 64 st)).done (.sstart a d)) := by
    refine (exec_sstart ..).trans (ho.runs ((M.bind_ok (srcC_lone hp a)).trans ((M.bind_ok hr).trans ?_)))
    rw [← hst]
    exact startSlot_run v d s2
  refine ⟨fun h => ?_, fun h => ?_⟩
  · rw [if_neg h] at hrun
    exact hrun
  · rw [if_pos h, h] at hrun
    obtain ⟨⟨n, f, hth⟩, h3, h2, hmem, hother⟩ := startThread_starts s2 gs (Thread.ofRecord s2.th.vf s2.th.asid d0 d1)
      (BitVec.ofNat 64 (v / 2 ^ 128)) (BitVec.ofNat 64 (v / 2 ^ 192))
    have hth' : (s2.started v).thread gs = { Thread.ofRecord s2.th.vf s2.th.asid d0 d1 with uid := n, stopFor := f } := hth
    refine ⟨s2.started v, hrun, hmem, ?_, ?_, ?_, ?_, ?_, ?_, ?_, ?_, h3, h2, hother⟩ <;> rw [hth']
    · rfl
    · rfl
    · rfl
    · rfl
    · rfl
    · rfl
    · exact (startStatus_dir ..).trans (bit_eq_getLsbD ..)
    · exact (startStatus_ue ..).trans (bit_eq_getLsbD ..)

/-- What `sstop` does with its slot number where its unit has begun no stop. -/
def stopSlot (x : Word) : M Unit := do
  let s ← get
  let gs := 64 * coreOf s.fs + x.toNat % 64
  M.require (decide (x.toNat < 64) && bit (s.pmask s.fs) x.toNat && gs != s.fs) .illegalOperand
  if (s.thread gs).live then
    let s1 := s.beginStop gs
    if s1.stopDone gs then set (s1.endThread gs false)
    else
      set s1
      M.park (.sstop (s.thread gs).uid)
  else pure ()

theorem exec_sstop_word {a : BitVec 7} {s s1 : State} (hp : s1.unit.pre = none) (hh : ∀ u, s1.th.hold ≠ some (.sstop u)) :
    ∃ body, exec (.sstop a) s = issue (.sstop a) body s ∧ body s1 = stopSlot (s1.getX a.toNat) s1 := by
  refine ⟨_, exec_sstop .., (M.bind_ok (srcC_lone hp a)).trans ?_⟩
  rw [M.get_bind]
  cases h : s1.th.hold with
  | none => rfl
  | some w => cases w <;> first | rfl | exact absurd h (hh _)

theorem slotStops (a : BitVec 7) (s s1 : State) (ho : s.Opens (.sstop a) s1) (hp : s1.unit.pre = none)
    (hh : ∀ u, s1.th.hold ≠ some (.sstop u)) :
    let x := s1.getX a.toNat
    let gs := 64 * coreOf s1.fs + x.toNat
    (64 ≤ x.toNat ∨ (s1.pmask s1.fs).getLsbD x.toNat = false ∨ gs = s1.fs → Spec.Raises (.sstop a) s s1 { cause := .illegalOperand }) ∧
    (x.toNat < 64 → (s1.pmask s1.fs).getLsbD x.toNat = true → gs ≠ s1.fs →
      ((s1.thread gs).live = false → Spec.Completes (.sstop a) s s1) ∧
      ((s1.thread gs).live = true → (s1.beginStop gs).stopDone gs = true →
        ∃ t, Spec.Completes (.sstop a) s t ∧ t = (s1.beginStop gs).endThread gs false ∧ (t.thread gs).live = false ∧ t.mem = s1.mem)) := by
  obtain ⟨body, hx, hb⟩ := exec_sstop_word (a := a) (s := s) hp hh
  intro x gs
  have hcheck : (decide (x.toNat < 64) && bit (s1.pmask s1.fs) x.toNat && (64 * coreOf s1.fs + x.toNat % 64) != s1.fs) = true ↔
      x.toNat < 64 ∧ (s1.pmask s1.fs).getLsbD x.toNat = true ∧ gs ≠ s1.fs := by
    rw [Bool.and_eq_true, Bool.and_eq_true, decide_eq_true_iff, bit_eq_getLsbD, bne_iff_ne, and_assoc]
    exact and_congr_right fun h => by rw [Nat.mod_eq_of_lt h]
  refine ⟨fun h => hx.trans (ho.traps (hb.trans ?_)), fun h64 hm hne => ?_⟩
  · rw [stopSlot, M.get_bind]
    refine M.bind_error (require_fails (Bool.eq_false_iff.mpr fun hok => ?_) ..)
    obtain ⟨h64, hm, hne⟩ := hcheck.mp hok
    rcases h with h | h | h
    · omega
    · rw [hm] at h
      cases h
    · exact hne h
  · have hrun : stopSlot x s1 = (if (s1.thread gs).live then
          (if (s1.beginStop gs).stopDone gs then set ((s1.beginStop gs).endThread gs false)
          else do
            set (s1.beginStop gs)
            M.park (.sstop (s1.thread gs).uid))
        else pure () : M Unit) s1 := by
      rw [stopSlot, M.get_bind]
      refine (M.bind_ok (require_run (hcheck.mpr ⟨h64, hm, hne⟩) ..)).trans ?_
      dsimp only
      rw [Nat.mod_eq_of_lt h64]
    have hmem : (s1.beginStop gs).mem = s1.mem := by
      unfold State.beginStop
      dsimp only
      split <;> rfl
    refine ⟨fun hl => hx.trans (ho.runs (hb.trans (hrun.trans ?_))), fun hl hd =>
      ⟨_, hx.trans (ho.runs (hb.trans (hrun.trans ?_))), rfl, (State.endThread_ends ..).live, (State.endThread_ends ..).mem.trans hmem⟩⟩
    · rw [hl]
      rfl
    · rw [hl, hd]
      rfl

/-! `exit` (R231). -/

/-- What `exit` does once its children have ended. -/
def exitThread : M Unit := do
  let s ← get
  M.until_ (s.before.th.quiet && s.before.th.copies.isEmpty)
  match s.th.heldFaults with
  | f :: _ => M.trap f.2
  | [] =>
    performRest
    let s ← get
    set (s.endThread s.fs true)

/-- A thread whose children have ended: the entry index of a deterministic launch joins theirs (R298). -/
def State.joined (s : State) : State := s.setTh { s.th with ent := max s.th.ent s.th.joined }

theorem joinChildren_run {s : State} (h : s.childrenLeft s.th.uid = false) : joinChildren s = .ok ((), s.joined) := by
  rw [joinChildren, M.get_bind, if_neg (by rw [h]; exact Bool.false_ne_true)]
  rfl

theorem joinChildren_holds {s : State} (h : s.childrenLeft s.th.uid = true) : joinChildren s = .error (.hold .join) := by
  rw [joinChildren, M.get_bind, if_pos h]
  rfl

theorem performRest_none {s : State} (h : s.th.drained = true) : performRest s = .ok ((), s) := by
  obtain ⟨hs, hp⟩ := Bool.and_eq_true_iff.mp h
  rw [performRest, M.get_bind, List.isEmpty_iff.mp hs, List.isEmpty_iff.mp hp]
  rfl

/-- A thread of a slot that is not live moves no further when its unit completes. -/
theorem State.done_ended {s t : State} {gs : Nat} (h : s.EndsThread t gs) (hg : t.fs = gs) (i : Instr) : s.EndsThread (t.done i) gs := by
  have hfin : t.finishUnit 1 (endsAfter i) = t := by
    have hl : t.th.live = false := by
      rw [State.th, hg]
      exact h.live
    rw [State.finishUnit]
    dsimp only
    rw [if_pos (by rw [hl]; rfl)]
  obtain ⟨l, cs, tr, hobs⟩ := t.observe_keeps [i]
  rw [State.done, hfin, hobs]
  exact ⟨h.fs, h.mem, h.rf, h.live, h.chans, h.watches⟩

theorem exits (s s1 : State) (ho : s.Opens .exit s1) (hp : s1.unit.pre = none) :
    (s1.childrenLeft s1.th.uid = true → Spec.Waits .exit s .join) ∧
    (s1.childrenLeft s1.th.uid = false → s1.th.copies ≠ [] → Spec.Waits .exit s .retry) ∧
    (∀ n f rest, s1.childrenLeft s1.th.uid = false → s1.th.copies = [] → s1.th.heldFaults = (n, f) :: rest → Spec.Raises .exit s s1 f) ∧
    (s1.childrenLeft s1.th.uid = false → s1.th.copies = [] → s1.th.heldFaults = [] →
      ∃ t, exec .exit s = .next t ∧ t.th.live = false ∧ t.mem = s1.mem ∧ t.rf = s1.rf ∧
        (∀ c ∈ t.chans, c.2.gs ≠ s1.fs) ∧ (∀ w ∈ t.watches, w.2 ≠ s1.fs)) := by
  have hquiet := boundary_opens_quiet ho rfl
  have hth : s1.joined.th = { s1.th with ent := max s1.th.ent s1.th.joined } := State.th_setTh ..
  have hbefore : s1.joined.before = s1.joined := State.before_lone hp
  have hrun (hc : s1.childrenLeft s1.th.uid = false) : (joinChildren >>= fun _ => exitThread) s1 = exitThread s1.joined :=
    M.bind_ok (joinChildren_run hc)
  have hready (hcopies : s1.th.copies = []) : (s1.joined.before.th.quiet && s1.joined.before.th.copies.isEmpty) = true := by
    rw [hbefore, hth, hcopies]
    exact Bool.and_eq_true_iff.mpr ⟨hquiet, rfl⟩
  refine ⟨fun hc => ?_, fun hc hcopies => ?_, fun n f rest hc hcopies hf => (exec_exit ..).trans (ho.traps ((hrun hc).trans ?_)),
    fun hc hcopies hf => ?_⟩
  · rw [← standsOutside_sends rfl rfl]
    exact (exec_exit ..).trans (ho.holds (M.bind_error (joinChildren_holds hc)))
  · rw [← standsOutside_sends rfl rfl]
    refine (exec_exit ..).trans (ho.holds ((hrun hc).trans ?_))
    rw [exitThread, M.get_bind]
    refine M.bind_error (until_holds ?_ _)
    rw [hbefore, hth]
    simpa using fun _ => hcopies
  · rw [exitThread, M.get_bind, M.bind_ok (until_run (hready hcopies) _), hth]
    dsimp only
    rw [hf]
    rfl
  · have hend : exitThread s1.joined = .ok ((), s1.joined.endThread s1.fs true) := by
      rw [exitThread, M.get_bind, M.bind_ok (until_run (hready hcopies) _)]
      have hnone : s1.joined.th.heldFaults = [] := by
        rw [hth]
        exact hf
      rw [hnone]
      refine (M.bind_ok (performRest_none ?_)).trans rfl
      rw [hth]
      exact (Bool.and_eq_true_iff.mp hquiet).2
    have hends := State.done_ended (s1.joined.endThread_ends s1.fs true) (State.endThread_ends ..).fs .exit
    refine ⟨_, (exec_exit ..).trans (ho.runs ((hrun hc).trans hend)), ?_, hends.mem, hends.rf, hends.chans, hends.watches⟩
    rw [State.th, hends.fs]
    exact hends.live

end Sys2Proof.Machine

namespace Sys2Proof
open Machine

/-- Settles O35: a started slot holds the thread of its record, and a stopped or ended one holds none. -/
theorem slotsStartAndStop : Obligations.SlotsStartAndStop :=
  ⟨fun a s s1 ho hp => (exec_tmset ..).trans (ho.runs (M.bind_ok (srcC_lone hp a))), slotStarts, slotStops, exits⟩

end Sys2Proof
end

section
/-!
PROOFS. Entry to a handler and the return from one: the fields of STATUS, what a taken cause saves, and where the unit goes on (R232 to R234,
R305 to R313).
-/

namespace Sys2Proof.Machine

/-! Fields of a word, bit by bit. -/

theorem testBit_bits (w : Word) (hi lo k : Nat) : (bits w hi lo).testBit k = (decide (k < hi - lo + 1) && w.getLsbD (lo + k)) := by
  rw [bits, Nat.testBit_mod_two_pow, Nat.testBit_div_two_pow, Nat.add_comm k lo, BitVec.testBit_toNat]

theorem getLsbD_putBits (w : Word) {hi lo : Nat} (h : hi ≤ 63) (hl : lo ≤ hi) (v k : Nat) :
    (putBits w hi lo v).getLsbD k = if lo ≤ k ∧ k ≤ hi then v.testBit (k - lo) else w.getLsbD k := by
  have hmask : (BitVec.ofNat 64 ((2 ^ (hi - lo + 1) - 1) * 2 ^ lo)).getLsbD k = decide (lo ≤ k ∧ k ≤ hi) := by
    rw [BitVec.getLsbD_ofNat, Nat.testBit_mul_two_pow, Nat.testBit_two_pow_sub_one]
    by_cases h1 : lo ≤ k <;> by_cases h2 : k ≤ hi <;> simp [h1, h2] <;> omega
  unfold putBits
  dsimp only
  rw [BitVec.getLsbD_or, BitVec.getLsbD_and, BitVec.getLsbD_and, BitVec.getLsbD_not, hmask]
  by_cases hk : lo ≤ k ∧ k ≤ hi
  · rw [if_pos hk, BitVec.getLsbD_ofNat, Nat.testBit_mul_two_pow]
    simp [hk, show k < 64 by omega]
  · rw [if_neg hk]
    by_cases h64 : k < 64
    · simp [hk, h64]
    · simp [hk, h64, BitVec.getLsbD_of_ge w k (by omega)]

theorem getLsbD_putBit (w : Word) {i : Nat} (h : i ≤ 63) (b : Bool) (k : Nat) :
    (putBit w i b).getLsbD k = if k = i then b else w.getLsbD k := by
  rw [putBit, getLsbD_putBits w h (le_refl i)]
  by_cases hk : k = i
  · subst hk
    cases b <;> simp
  · rw [if_neg (by omega), if_neg hk]

theorem bits_eq_of_testBit {w : Word} {hi lo v : Nat} (hv : v < 2 ^ (hi - lo + 1)) (h : ∀ k, k < hi - lo + 1 → w.getLsbD (lo + k) = v.testBit k) :
    bits w hi lo = v := by
  refine Nat.eq_of_testBit_eq fun k => ?_
  rw [testBit_bits]
  by_cases hk : k < hi - lo + 1
  · simp [hk, h k hk]
  · have hbig : v < 2 ^ k := lt_of_lt_of_le hv (Nat.pow_le_pow_right (by decide) (by omega))
    simp [hk, Nat.testBit_lt_two_pow hbig]

theorem bits_lt (w : Word) (hi lo : Nat) : bits w hi lo < 2 ^ (hi - lo + 1) := Nat.mod_lt _ (Nat.two_pow_pos _)

/-! STATUS on entry and on return (Table 1.6, R232, R233). -/

/-- The lowest bit of PP of a level. -/
def ppOf (lev : Nat) : Nat := 19 + 3 * (lev - 1)

theorem getLsbD_enterStatus (st : Word) {lev : Nat} (h1 : 1 ≤ lev) (h3 : lev ≤ 3) (k : Nat) :
    (enterStatus st lev).getLsbD k =
      if 17 ≤ k ∧ k ≤ 18 then lev.testBit (k - 17) else if k = 16 then false
      else if k = ppOf lev + 2 then st.getLsbD 16
      else if ppOf lev ≤ k ∧ k ≤ ppOf lev + 1 then (bits st 18 17).testBit (k - ppOf lev) else st.getLsbD k := by
  have hform : enterStatus st lev = putBits (putBit (putBit (putBits st (ppOf lev + 1) (ppOf lev) (bits st 18 17)) (ppOf lev + 2) (bit st 16))
      16 false) 18 17 lev := by
    interval_cases lev <;> rfl
  have hpp : ppOf lev ≤ 25 := by unfold ppOf; omega
  rw [hform, getLsbD_putBits _ (by decide) (by decide), getLsbD_putBit _ (by decide), getLsbD_putBit _ (by omega),
    getLsbD_putBits _ (by omega) (by omega), bit_eq_getLsbD]

theorem getLsbD_eretStatus (st : Word) {lev : Nat} (h1 : 1 ≤ lev) (h3 : lev ≤ 3) (k : Nat) :
    (eretStatus st lev).getLsbD k =
      if k = 16 then st.getLsbD (ppOf lev + 2)
      else if 17 ≤ k ∧ k ≤ 18 then (bits st (ppOf lev + 1) (ppOf lev)).testBit (k - 17) else st.getLsbD k := by
  have hform : eretStatus st lev = putBit (putBits st 18 17 (bits st (ppOf lev + 1) (ppOf lev))) 16 (bit st (ppOf lev + 2)) := by
    interval_cases lev <;> rfl
  rw [hform, getLsbD_putBit _ (by decide), getLsbD_putBits _ (by decide) (by decide), bit_eq_getLsbD]

theorem level_enter (t : Thread) {lev : Nat} (h1 : 1 ≤ lev) (h3 : lev ≤ 3) : bits (enterStatus t.a.status lev) 18 17 = lev := by
  refine bits_eq_of_testBit (by show lev < 4; omega) fun k hk => ?_
  rw [getLsbD_enterStatus _ h1 h3, if_pos (by omega), Nat.add_sub_cancel_left]

theorem Thread.bank_setBank_self (t : Thread) (lev : Nat) (b : TrapRegs) : (t.setBank lev b).bank lev = b := by
  unfold Thread.setBank Thread.bank
  split
  · rfl
  · split <;> rfl

theorem Thread.bank_setBank_ne (t : Thread) {lev l : Nat} (b : TrapRegs) (h1 : 1 ≤ lev) (h : 1 ≤ l) (hl : l ≤ 3) (hlev : lev ≤ 3) (hne : l ≠ lev) :
    (t.setBank lev b).bank l = t.bank l := by
  interval_cases lev <;> interval_cases l <;> first | rfl | exact absurd rfl hne

theorem Thread.a_setBank (t : Thread) (lev : Nat) (b : TrapRegs) : (t.setBank lev b).a = t.a := by
  unfold Thread.setBank
  split
  · rfl
  · split <;> rfl

/-- What Enter leaves of a thread but its banks. -/
theorem Thread.a_enter (t : Thread) (lev : Nat) (c e e0 e1 e2 e3 : Word) :
    (t.enter lev c e e0 e1 e2 e3).a = { t.a with status := enterStatus t.a.status lev, pc := (t.bank lev).tvec } := by
  simp only [Thread.enter, Thread.a_setBank]

theorem Thread.bank_enter (t : Thread) (lev l : Nat) (c e e0 e1 e2 e3 : Word) : (t.enter lev c e e0 e1 e2 e3).bank l =
    (t.setBank lev { t.bank lev with epc := e, ecause := c, einfo0 := e0, einfo1 := e1, einfo2 := e2, einfo3 := e3 }).bank l := rfl

theorem entered_enter (t : Thread) (lev : Nat) (c e e0 e1 e2 e3 : Word) (h1 : 1 ≤ lev) (h3 : lev ≤ 3) :
    Spec.Entered t (t.enter lev c e e0 e1 e2 e3) lev c e (e0, e1, e2, e3) where
  bank := (t.bank_enter ..).trans (t.bank_setBank_self ..)
  pc := by rw [Thread.a_enter]
  level := by
    rw [Thread.level, Thread.a_enter]
    exact level_enter t h1 h3
  ie := by
    rw [Thread.ie, Thread.a_enter, bit_eq_getLsbD]
    show (enterStatus t.a.status lev).getLsbD 16 = false
    rw [getLsbD_enterStatus _ h1 h3]
    rfl
  others l hl hl3 hne := (t.bank_enter ..).trans (t.bank_setBank_ne _ h1 hl hl3 h3 hne)
  savedLevel := by
    rw [Thread.a_enter]
    have hw : 20 + 3 * (lev - 1) - (19 + 3 * (lev - 1)) + 1 = 2 := by omega
    refine bits_eq_of_testBit (by rw [hw]; exact bits_lt ..) fun k hk => ?_
    show (enterStatus t.a.status lev).getLsbD (19 + 3 * (lev - 1) + k) = _
    rw [hw] at hk
    rw [getLsbD_enterStatus _ h1 h3, if_neg (by omega), if_neg (by omega), if_neg (by unfold ppOf; omega),
      if_pos (by unfold ppOf; omega), show 19 + 3 * (lev - 1) + k - ppOf lev = k from Nat.add_sub_cancel_left ..]
    rfl
  savedIe := by
    rw [Thread.a_enter]
    show (enterStatus t.a.status lev).getLsbD (21 + 3 * (lev - 1)) = t.ie
    rw [getLsbD_enterStatus _ h1 h3, if_neg (by omega), if_neg (by omega), if_pos (by unfold ppOf; omega), Thread.ie, bit_eq_getLsbD]
  status k h16 h17 h18 hpp := by
    rw [Thread.a_enter]
    show (enterStatus t.a.status lev).getLsbD k = _
    rw [getLsbD_enterStatus _ h1 h3, if_neg (by omega), if_neg h16, if_neg (by unfold ppOf; omega), if_neg (by unfold ppOf; omega)]
  arch := by rw [Thread.a_enter]

/-! Causes that are taken (R310, R313). -/

theorem Thread.forget_shape (t : Thread) : ∃ ps, t.forget = { t with a := { t.a with ports := ps } } := by
  unfold Thread.forget
  split
  · exact ⟨_, rfl⟩
  · exact ⟨t.a.ports, rfl⟩

theorem Thread.level_forget (t : Thread) : t.forget.level = t.level := by
  obtain ⟨ps, h⟩ := t.forget_shape
  rw [h]
  rfl

theorem takesUpcall_forget (th : Thread) (t : Trap) : takesUpcall th.forget t = takesUpcall th t := by
  obtain ⟨ps, h⟩ := th.forget_shape
  rw [h]
  rfl

/-- A cause of the direct mode that goes to no debug port and no upcall is taken by Enter (R313). -/
theorem raiseUnit_enters {s : State} {t : Trap} (hd : s.isDirect = true) (hf : s.th.fallback = none) (hu : t.unstage = none)
    (hh : t.held = false) (ht : t.table = none) (hr : s.debugRouted t = false) (hup : takesUpcall s.th t = false) :
    s.raiseUnit t = (s.setTh (s.th.forget.enter (trapLevel t s.th.level) (BitVec.ofNat 64 t.cause.code) s.unit.addr t.einfo0 t.info1 t.info2
      (s.unit.einfo3 t))).traceRec s.fs 2 s.unit.addr (BitVec.ofNat 64 t.cause.code) := by
  have hdel : s.raiseUnit t = s.takeTrap t := by
    unfold State.raiseUnit
    rw [hu]
    dsimp only
    rw [State.deliver, hd, hf]
    rfl
  have hpost : (s.postTable t (some s.fs)).clearHeld t = s := by
    unfold State.postTable State.clearHeld
    rw [ht, hh]
    rfl
  have hroute : (s.setTh s.th.forget).debugRouted t = false := hr
  rw [hdel, State.takeTrap, hpost]
  dsimp only
  rw [hroute, State.th_setTh, takesUpcall_forget, hup, Thread.level_forget]
  show (s.setTh s.th.forget).enterTrap t _ = _
  rw [State.enterTrap, State.th_setTh, State.setTh_setTh]
  rfl

theorem traceRec_untraced {s : State} {gs : Nat} (h : s.traceHold.getD (dieOf gs) 511 = 511) (type : Nat) (pc aux : Word) :
    s.traceRec gs type pc aux = s := by
  unfold State.traceRec
  dsimp only
  rw [h, if_pos (.inl rfl)]

theorem raiseUnit_squashes {s : State} {t : Trap} (hd : s.isDirect = false) (hc : s.th.cur.isSome = true) (hu : t.unstage = none) :
    s.raiseUnit t = s.squash s.fs (s.th.chunks.length - 1) false true := by
  unfold State.raiseUnit
  rw [hu]
  dsimp only
  rw [State.deliver, hd, if_neg]
  rw [Option.isNone_eq_false_iff.mpr hc]
  exact Bool.false_ne_true

/-! Requests (R232, R307). -/

theorem level_lt (t : Thread) : t.level < 4 := bits_lt ..

theorem einfo0_request (n : Nat) : Trap.einfo0 { cause := .request n } = 0 := by
  simp [Trap.einfo0]

/-- The thread that has entered a handler by request. -/
def State.requested (s : State) (lev n : Nat) : Thread :=
  s.th.enter (max lev s.th.level) (BitVec.ofNat 64 (128 + n)) s.unit.next 0 0 0 (s.unit.einfo3 { cause := .request n })

theorem enterRequest_run (lev n : Nat) (s : State) : enterRequest lev n s = .ok ((),
    ({ s.setTh (s.requested lev n) with unit := { s.unit with entered := true } } : State).traceRec s.fs 2 s.unit.addr
      (BitVec.ofNat 64 (128 + n))) := by
  rw [enterRequest, M.get_bind]
  dsimp only
  rw [einfo0_request]
  rfl

/-- A live thread outside every chunk that has entered a handler: its unit counts one, and the program counter stays at the vector. -/
theorem th_finishUnit_entered {s : State} (hl : s.th.live = true) (hp : s.unit.park = none) (he : s.unit.entered = true)
    (ho : s.unit.outside = true) (hd : s.th.det = false) (n : Nat) (after : Bool) :
    ∃ b, (s.finishUnit n after).th =
      { s.th with a := { s.th.a with icount := s.th.a.icount + BitVec.ofNat 64 n }, entry := true, hold := none, evald := none,
                  stepping := false, dbgCause := b } := by
  refine ⟨if s.th.stepping || s.th.dbgCause.isSome then none else s.th.dbgCause, ?_⟩
  have hmoved : (s.moved n).det = false := by
    rw [State.moved, if_pos he]
    exact hd
  rw [State.th_finishUnit hl hp, State.finished, if_pos ho, hmoved, State.moved, if_pos he, he]
  rfl

theorem boundary_opens_outside {i : Instr} {s s1 : State} (ho : s.Opens i s1) (hb : isBoundary i = true) : s1.unit.outside = true := by
  have hbegin := ho.begins
  rw [standsOutside_of_boundary hb, State.beginUnit, if_pos rfl] at hbegin
  generalize s.endsBefore true (isCsrw i) 1 = u at hbegin
  split at hbegin
  · split at hbegin
    · cases hbegin
    · cases hbegin
      rfl
  · cases hbegin

theorem live_enter (t : Thread) (lev : Nat) (c e e0 e1 e2 e3 : Word) : (t.enter lev c e e0 e1 e2 e3).live = t.live := by
  unfold Thread.enter Thread.setBank
  dsimp only
  split
  · rfl
  · split <;> rfl

theorem done_keeps (s : State) (i : Instr) : (s.done i).th = (s.finishUnit 1 (endsAfter i)).th ∧ (s.done i).rf = s.rf ∧ (s.done i).mem = s.mem := by
  obtain ⟨ts, hfin⟩ := s.finishUnit_shape 1 (endsAfter i)
  obtain ⟨l, cs, tr, hobs⟩ := (s.finishUnit 1 (endsAfter i)).observe_keeps [i]
  rw [State.done, hobs]
  refine ⟨rfl, ?_, ?_⟩ <;> rw [hfin]

theorem requestsEnterAHandler : Spec.RequestsEnterAHandler := by
  intro n i low s s1 hi ho lev code u
  have hrun : Spec.Completes i s (State.traceRec { s1.setTh u with unit := { s1.unit with entered := true } } s1.fs 2 s1.unit.addr code) := by
    rcases hi with ⟨rfl, rfl⟩ | ⟨rfl, rfl⟩
    · exact (exec_trap ..).trans (ho.runs (enterRequest_run ..))
    · exact (exec_hcall ..).trans (ho.runs (enterRequest_run ..))
  have hb : isBoundary i = true := by rcases hi with ⟨rfl, -⟩ | ⟨rfl, -⟩ <;> rfl
  have hlow : 1 ≤ low ∧ low ≤ 2 := by rcases hi with ⟨-, rfl⟩ | ⟨-, rfl⟩ <;> decide
  have hlev : 1 ≤ lev ∧ lev ≤ 3 := by
    have := level_lt s1.th
    omega
  refine ⟨hrun, fun hl hp hd hh => ?_⟩
  let e : State := { s1.setTh u with unit := { s1.unit with entered := true } }
  have heth : e.th = u := State.th_setTh s1 u
  have hent : Spec.Entered s1.th u lev code s1.unit.next (0, 0, 0, s1.unit.einfo3 { cause := .request n.toNat }) :=
    entered_enter _ _ _ _ _ _ _ _ hlev.1 hlev.2
  have hdet : u.det = false := by
    rw [Thread.det, bit_eq_getLsbD, hent.status 14 (by decide) (by decide) (by decide) (by omega), ← bit_eq_getLsbD]
    exact hd
  obtain ⟨b, hfin⟩ := th_finishUnit_entered (s := e) (by rw [heth]; exact (live_enter ..).trans hl) hp rfl (show s1.unit.outside = true from boundary_opens_outside ho hb)
    (by rw [heth]; exact hdet) 1 (endsAfter i)
  rw [heth] at hfin
  obtain ⟨hth, hrf, hmem⟩ := done_keeps e i
  rw [hfin] at hth
  have htrace : State.traceRec e s1.fs 2 s1.unit.addr code = e := traceRec_untraced (s := e) hh ..
  refine ⟨e.done i, ?_, ?_, ?_, ?_, ?_, ?_, ?_, hrf, hmem⟩
  · rw [← htrace]
    exact hrun
  all_goals rw [hth]
  · exact hent.pc
  · show u.a.icount + 1 = _
    rw [hent.arch]
  · show (u.bank lev).epc = _
    rw [hent.bank]
  · show (u.bank lev).ecause = _
    rw [hent.bank]
  · rw [Nat.min_eq_left hlev.2]
    exact hent.level
  · exact hent.ie

/-! Returns and waits (R233, R234). -/

theorem returnsAndWaits : Spec.ReturnsAndWaits := by
  refine ⟨fun s s1 ho h1 h3 => ?_, fun s s1 ho hp => ⟨fun h => (exec_wfi ..).trans (ho.runs ?_), fun hi hq => ?_⟩,
    fun n s s1 ho => (exec_brk ..).trans (ho.traps rfl), fun s n hdb hd hf => ?_⟩
  · intro lev st
    refine ⟨eretStatus st lev, (exec_eret ..).trans (ho.runs rfl), ?_, ?_, fun k h16 h17 h18 => ?_⟩
    · rw [show 20 + 3 * (lev - 1) = ppOf lev + 1 by unfold ppOf; omega, show 19 + 3 * (lev - 1) = ppOf lev from rfl]
      refine bits_eq_of_testBit (lt_of_lt_of_eq (bits_lt ..) (by rw [Nat.add_sub_cancel_left])) fun k hk => ?_
      rw [getLsbD_eretStatus _ h1 h3, if_neg (by omega), if_pos (by omega), Nat.add_sub_cancel_left]
    · rw [getLsbD_eretStatus _ h1 h3, if_pos rfl]
      refine congrArg st.getLsbD ?_
      unfold ppOf
      omega
    · rw [getLsbD_eretStatus _ h1 h3, if_neg h16, if_neg (by omega)]
  · rw [M.get_bind, State.before_lone hp, if_pos]
    · rfl
    · rw [Thread.intPending]
      simpa using h
  · rw [← standsOutside_sends rfl rfl]
    refine (exec_wfi ..).trans (ho.holds ?_)
    rw [M.get_bind, State.before_lone hp, if_neg]
    · rfl
    · rw [Thread.intPending, hq]
      simpa using hi
  · have hroute : s.debugRouted { cause := .debug, brkn := n } = false := by
      unfold State.debugRouted
      cases hpart : s.partOf s.fs with
      | none => rfl
      | some p => simpa using hdb p hpart
    rw [raiseUnit_enters hd hf rfl rfl rfl hroute rfl]
    have heinfo : Trap.einfo0 { cause := .debug, brkn := n } = BitVec.ofNat 64 (n * 2 ^ 28) := by simp [Trap.einfo0]
    rw [heinfo]
    rfl

end Sys2Proof.Machine

namespace Sys2Proof
open Machine

/-- Settles O36: Enter field by field (`entered_enter`), and the path of a cause to it (`raiseUnit_enters`). -/
theorem trapEntrySavesAndGoes : Obligations.TrapEntrySavesAndGoes := by
  refine ⟨fun t lev c e e0 e1 e2 e3 h1 h3 => entered_enter t lev c e e0 e1 e2 e3 h1 h3, fun s t hd hf hu hh ht hc hup => ?_,
    fun s gs type pc aux h => traceRec_untraced h type pc aux, fun s t hd hc hu => raiseUnit_squashes hd hc hu⟩
  exact raiseUnit_enters hd hf hu hh ht (by rw [State.debugRouted, beq_eq_false_iff_ne.mpr hc, Bool.false_and]) hup

/-- Settles O37: a request enters as `enterRequest_run` says, and `eret` restores what Enter saved. -/
theorem requestsReturnsAndWaits : Obligations.RequestsReturnsAndWaits := ⟨requestsEnterAHandler, returnsAndWaits⟩

end Sys2Proof
end

section
/-!
PROOFS. Events at the end of a chunk: interrupts, the timer, the limits of a chunk, and the direct fallback (Table 10.1, R238, R253, R312).
-/

namespace Sys2Proof.Machine

/-! Events that change one thread. -/

theorem onlyThread_setThread (s : State) (gs : Nat) (th : Thread) : Spec.OnlyThread s (s.setThread gs th) gs th :=
  ⟨State.thread_setThread_self .., fun _ hg => State.thread_setThread_ne _ _ hg, _, rfl⟩

theorem onlyThread_trans {s t : State} {gs : Nat} {th : Thread} (h : Spec.OnlyThread s t gs th) (u : Thread) :
    Spec.OnlyThread s (t.setThread gs u) gs u := by
  obtain ⟨-, hne, ts, rfl⟩ := h
  exact ⟨State.thread_setThread_self .., fun g hg => (State.thread_setThread_ne _ _ hg).trans (hne g hg), _, rfl⟩

/-- The executing chunk of a thread that holds an instruction, ended. -/
theorem Thread.endChunk_of_cur {t : Thread} {c : Chunk} (hc : t.cur = some c) (hl : 0 < c.len) :
    t.endChunk = { t with chunks := t.chunks.dropLast ++ [{ c with ended := true }] } := by
  obtain ⟨hlast, he⟩ := Thread.getLast_of_cur hc
  have happ : t.chunks = t.chunks.dropLast ++ [c] := (List.dropLast_append_getLast? c hlast).symm
  exact Thread.endChunk_append happ he (Nat.ne_of_gt hl)

/-! Interrupts (R312). -/

theorem due_of_enabled {t : Thread} (hh : t.hold = none) (hr : t.refused = []) (he : t.enabled ≠ []) :
    t.messageDue = false ∧ t.intrDue = true := by
  refine ⟨by rw [Thread.messageDue, hr]; rfl, ?_⟩
  rw [Thread.intrDue, hh]
  simpa using he

theorem execInterruptTaken_due {gs : Nat} {s : State} (hi : s.mayIssue gs = true) (hd : (s.thread gs).messageDue = false ∧ (s.thread gs).intrDue = true) :
    exec (.interruptTaken gs) s = (match s.dueNow gs with
      | .take s1 => .next (s1.takeDue gs)
      | .wait s1 => .next s1
      | .none => .next s) := by
  rw [exec_interruptTaken, execInterruptTaken, if_pos ⟨hi, hd.2, by rw [hd.1]; rfl⟩] <;> rfl

theorem dueNow_dir {gs : Nat} {s : State} (hd : (s.thread gs).messageDue = false ∧ (s.thread gs).intrDue = true)
    (hdir : (s.thread gs).dir = true) : s.dueNow gs = if (s.thread gs).chunks.isEmpty then .take s else .wait s := by
  unfold State.dueNow
  dsimp only
  rw [hd.1, hd.2, hdir]
  rfl

theorem dueNow_chunk {gs : Nat} {s : State} {c : Chunk} (hd : (s.thread gs).messageDue = false ∧ (s.thread gs).intrDue = true)
    (hdir : (s.thread gs).dir = false) (hf : (s.thread gs).fallback = none) (hc : (s.thread gs).cur = some c) (hl : 0 < c.len)
    (hx : s.exactCount gs = false) : s.dueNow gs = .wait (s.setThread gs
      { s.thread gs with chunks := (s.thread gs).chunks.dropLast ++ [{ c with ended := true }] }) := by
  have hshape : s.dueNow gs = if ((s.setThread gs (s.thread gs).endChunk).thread gs).chunks.isEmpty = true
      then .take (s.setThread gs (s.thread gs).endChunk) else .wait (s.setThread gs (s.thread gs).endChunk) := by
    unfold State.dueNow
    dsimp only
    rw [hd.1, hd.2, hdir, hf, hc, hx]
    rfl
  have hne : ((s.thread gs).chunks.dropLast ++ [{ c with ended := true }]).isEmpty = false := by simp
  rw [hshape, State.thread_setThread_self, Thread.endChunk_of_cur hc hl]
  dsimp only
  rw [hne]
  rfl

/-- A pick from a list that is not empty: its head where it has one element, any of them else. -/
theorem pick_of_ne_nil {l : List Intr} (h : l ≠ []) (n : Nat) : ∃ i ∈ l, (if (l.map some).length ≤ 1 then (l.map some).head?
    else (l.map some)[n % (l.map some).length]?) = some (some i) := by
  have hpos : 0 < l.length := List.length_pos_iff.mpr h
  split
  · exact ⟨l[0], List.getElem_mem hpos, by rw [List.head?_eq_getElem?]; simp [hpos]⟩
  · have hlt : n % l.length < l.length := Nat.mod_lt _ hpos
    exact ⟨l[n % l.length], List.getElem_mem hlt, by simp [hlt]⟩

/-- One of the enabled interrupts is the one taken. -/
theorem takeDue_enabled {gs : Nat} {s : State} (hr : (s.thread gs).refused = []) (hh : (s.thread gs).hold = none)
    (he : (s.thread gs).enabled ≠ []) : ∃ i ∈ (s.thread gs).enabled, ∃ f, s.takeDue gs =
      (let s1 := (({ s with fs := gs, unit := UnitCtx.at_ (s.thread gs).a.pc, fresh := f } : State).setTh
          ({ s.thread gs with pend := (s.thread gs).pend.erase i, hold := none }.takeInterrupt i)).traceRec gs 2 (s.thread gs).a.pc
          (putBit (BitVec.ofNat 64 i.code) 63 true)
       s1.setTh { s1.th with stepping := (s.thread gs).stepping }) := by
  obtain ⟨hm, hi⟩ := due_of_enabled hh hr he
  have hdues : (s.thread gs).duesOf = (s.thread gs).enabled.map some := by
    rw [Thread.duesOf, hm, hi]
    rfl
  have hpick : ∃ i ∈ (s.thread gs).enabled, (if (s.thread gs).duesOf.length ≤ 1 then (s.thread gs).duesOf.head?
      else (s.thread gs).duesOf[Config.dueFirst s.fresh % (s.thread gs).duesOf.length]?) = some (some i) := by
    rw [hdues]
    exact pick_of_ne_nil he _
  obtain ⟨i, hmem, hpick⟩ := hpick
  refine ⟨i, hmem, if (s.thread gs).duesOf.length ≤ 1 then s.fresh else s.fresh + 1, ?_⟩
  unfold State.takeDue
  dsimp only
  rw [hpick, hr]

theorem interruptTaken_direct {gs : Nat} {s : State} (hi : s.mayIssue gs = true) (hh : (s.thread gs).hold = none)
    (hr : (s.thread gs).refused = []) (he : (s.thread gs).enabled ≠ []) (hdir : (s.thread gs).dir = true) (hc : (s.thread gs).chunks = [])
    (hu : Spec.Untraced s gs) :
    ∃ (t : State) (i : Intr), exec (.interruptTaken gs) s = .next t ∧ i ∈ (s.thread gs).enabled ∧
      t.thread gs = { ({ s.thread gs with pend := (s.thread gs).pend.erase i } : Thread).forget.enter i.level
        (putBit (BitVec.ofNat 64 i.code) 63 true) (s.thread gs).a.pc 0 0 0 0 with stepping := (s.thread gs).stepping } ∧
      (∀ g, g ≠ gs → t.thread g = s.thread g) ∧ t.rf = s.rf ∧ t.mem = s.mem := by
  obtain ⟨i, hmem, f, htake⟩ := takeDue_enabled hr hh he
  let u : Thread := ({ s.thread gs with pend := (s.thread gs).pend.erase i, hold := none } : Thread).takeInterrupt i
  let s0 : State := { s with fs := gs, unit := UnitCtx.at_ (s.thread gs).a.pc, fresh := f }
  have htrace : (s0.setTh u).traceRec gs 2 (s.thread gs).a.pc (putBit (BitVec.ofNat 64 i.code) 63 true) = s0.setTh u :=
    traceRec_untraced (s := s0.setTh u) hu ..
  have hfinal : s.takeDue gs = s0.setTh { u with stepping := (s.thread gs).stepping } := by
    rw [htake]
    show ((s0.setTh u).traceRec _ _ _ _).setTh { ((s0.setTh u).traceRec _ _ _ _).th with stepping := _ } = _
    rw [htrace, State.th_setTh, State.setTh_setTh]
  have hex : exec (.interruptTaken gs) s = .next (s0.setTh { u with stepping := (s.thread gs).stepping }) := by
    rw [execInterruptTaken_due hi (due_of_enabled hh hr he), dueNow_dir (due_of_enabled hh hr he) hdir, hc, ← hfinal]
    rfl
  have hhold : ({ s.thread gs with pend := (s.thread gs).pend.erase i, hold := none } : Thread) =
      { s.thread gs with pend := (s.thread gs).pend.erase i } := by
    rw [← hh]
  refine ⟨_, i, hex, hmem, ?_, fun g hg => State.thread_setThread_ne s0 _ hg, rfl, rfl⟩
  rw [← hhold]
  exact State.thread_setThread_self s0 gs _

end Sys2Proof.Machine

namespace Sys2Proof
open Machine

/-- Settles O38: each event is one change of its own thread. -/
theorem chunkEndEvents : Obligations.ChunkEndEvents := by
  refine ⟨fun gs s hi hh hr he => ⟨fun hdir hc => ?_, fun hdir hc hu => interruptTaken_direct hi hh hr he hdir hc hu,
    fun c hdir hf hc hl hx => ?_⟩, fun gs s hl ha ht => ?_, fun gs s c i hc hr hl h => ?_, fun gs s hl hr hsq hf hdir hc => ?_⟩
  · rw [execInterruptTaken_due hi (due_of_enabled hh hr he), dueNow_dir (due_of_enabled hh hr he) hdir,
      if_neg (by simpa using hc)]
  · refine ⟨_, ?_, onlyThread_setThread ..⟩
    rw [execInterruptTaken_due hi (due_of_enabled hh hr he), dueNow_chunk (due_of_enabled hh hr he) hdir hf hc hl hx]
  · refine ⟨_, (exec_timerExpiry ..).trans (if_pos ⟨hl, ha, ht⟩), ?_⟩
    have hth := onlyThread_setThread s gs { s.thread gs with timer := 0 }
    rw [State.expire, State.raise, hth.1]
    dsimp only
    rw [if_pos hl]
    exact onlyThread_trans hth _
  · refine ⟨s.setThread gs (s.thread gs).endChunk, ?_, ?_⟩
    · rcases h with ⟨rfl, h⟩ | ⟨rfl, hx, h⟩
      · rw [exec_chunkEndChunkmax, execChunkEndChunkmax, hc]
        exact if_pos ⟨h, hr⟩
      · rw [exec_chunkCutCycles, execChunkCutCycles, hc, hx, hr]
        exact if_pos (by simp [h])
    · rw [Thread.endChunk_of_cur hc hl]
      exact onlyThread_setThread ..
  · exact ⟨_, (exec_directFallback ..).trans (if_pos ⟨hl, hr, hsq, hf, by rw [hdir]; rfl, hc⟩), onlyThread_setThread ..⟩

end Sys2Proof
end

section
/-!
PROOFS. Commits: requests, grants, their arrival, and the signatures that squash (R247 to R253, R346, R349).
-/

namespace Sys2Proof.Machine

/-! Grants (R247 to R250). -/

theorem execCommitGrant_request {gs n : Nat} {s : State} {c : Chunk} {rest : List Chunk} (hc : (s.thread gs).chunks = c :: rest)
    (hn : c.requested = some n) : exec (.commitGrant gs) s =
      if c.granted ∨ s.sigMeets gs c ∨ !s.runs gs ∨ s.cycle ≤ n then .next s
      else
        match s.gate gs kindChunk c.len with
        | .diverge e => .next (s.divergence gs kindChunk c.len e)
        | _ => if s.decidable gs c && !s.earlierRequest (s.chunkReq gs n c) then .next (s.grant gs c rest) else .next s := by
  rw [exec_commitGrant, execCommitGrant, hc]
  dsimp only
  rw [hn] <;> rfl

theorem State.sawShared_shape (s : State) (gs : Nat) : ∃ g, s.sawShared gs = { s with gregHist := g } := by
  unfold State.sawShared
  split
  · exact ⟨s.gregHist, rfl⟩
  · exact ⟨_, rfl⟩

/-- What a grant leaves beside the effects of its chunk (R247). -/
theorem grant_frame (s : State) (gs : Nat) (c : Chunk) (rest : List Chunk) :
    let s1 := (s.noteGrant gs kindChunk c.len (s.levelOf gs kindChunk (c.reads ++ c.writes))).performAll (some gs) (c.log.map (fun e => e.eff))
    let s2 := c.deferred.foldl (fun (z : State) d => z.runDeferred gs d) s1
    ((s.grant gs c rest).thread gs).chunks = { c with granted := true } :: rest ∧
      ((s.grant gs c rest).thread gs).a = (s2.thread gs).a ∧ ((s.grant gs c rest).thread gs).chseq = (s2.thread gs).chseq ∧
      (∀ g, g ≠ gs → (s.grant gs c rest).thread g = s2.thread g) ∧ (s.grant gs c rest).rf = s2.rf ∧ (s.grant gs c rest).mem = s2.mem ∧
      (s.grant gs c rest).gregs = s2.gregs := by
  intro s1 s2
  let t := s2.thread gs
  let u := s2.setThread gs { t with
    chunks := { c with granted := true } :: rest, ent := if t.det then t.ent + 1 else t.ent, retried := false }
  obtain ⟨h, hs⟩ := u.sawShared_shape gs
  have hgrant : s.grant gs c rest = (u.sawShared gs).count gs 0x10 1 := rfl
  have hth (g : Nat) : (s.grant gs c rest).thread g = u.thread g := by
    rw [hgrant, hs]
    rfl
  have hself : (s.grant gs c rest).thread gs = _ := (hth gs).trans (State.thread_setThread_self ..)
  refine ⟨by rw [hself], by rw [hself], by rw [hself], fun g hg => (hth g).trans (State.thread_setThread_ne _ _ hg), ?_, ?_, ?_⟩ <;>
    · rw [hgrant, hs]
      rfl

theorem decidable_go {gs : Nat} {s : State} {c : Chunk} (hr : s.runs gs = true) (hg : s.gate gs kindChunk c.len = .go)
    (ht : (s.thread gs).det = true ∨ (s.thread gs).ord = true → s.keyTurn gs = true) (hp : s.poolRoom gs (spawnsOf c.deferred) = true) :
    s.decidable gs c = true := by
  have hkey : (!((s.thread gs).det || (s.thread gs).ord) || s.keyTurn gs) = true := by
    by_cases h : (s.thread gs).det = true ∨ (s.thread gs).ord = true
    · rw [ht h, Bool.or_true]
    · rw [not_or] at h
      simp [h.1, h.2]
  rw [State.decidable, hr, hkey, hg, hp]
  rfl

theorem commitGrants (gs n : Nat) (s : State) (c : Chunk) (rest : List Chunk) (hc : (s.thread gs).chunks = c :: rest)
    (hn : c.requested = some n) (hgr : c.granted = false) (hr : s.runs gs = true) :
    (s.cycle ≤ n ∨ s.sigMeets gs c = true → exec (.commitGrant gs) s = .next s) ∧
    (n < s.cycle → s.sigMeets gs c = false →
      (∀ e, s.gate gs kindChunk c.len = .diverge e → exec (.commitGrant gs) s = .next (s.divergence gs kindChunk c.len e)) ∧
      (s.gate gs kindChunk c.len = .wait ∨ (s.gate gs kindChunk c.len = .go ∧ s.earlierRequest (s.chunkReq gs n c) = true) →
        exec (.commitGrant gs) s = .next s) ∧
      (s.gate gs kindChunk c.len = .go → s.earlierRequest (s.chunkReq gs n c) = false →
        ((s.thread gs).det = true ∨ (s.thread gs).ord = true → s.keyTurn gs = true) → s.poolRoom gs (spawnsOf c.deferred) = true →
        let s1 := (s.noteGrant gs kindChunk c.len (s.levelOf gs kindChunk (c.reads ++ c.writes))).performAll (some gs) (c.log.map (fun e => e.eff))
        let s2 := c.deferred.foldl (fun (z : State) d => z.runDeferred gs d) s1
        ∃ t, exec (.commitGrant gs) s = .next t ∧ (t.thread gs).chunks = { c with granted := true } :: rest ∧
          (t.thread gs).a = (s2.thread gs).a ∧ (t.thread gs).chseq = (s2.thread gs).chseq ∧
          (∀ g, g ≠ gs → t.thread g = s2.thread g) ∧ t.rf = s2.rf ∧ t.mem = s2.mem ∧ t.gregs = s2.gregs)) := by
  have hx := execCommitGrant_request hc hn
  refine ⟨fun h => ?_, fun hcy hsig => ?_⟩
  · rw [hx, if_pos]
    exact h.elim (fun h => .inr (.inr (.inr h))) (fun h => .inr (.inl h))
  · have hopen : ¬(c.granted = true ∨ s.sigMeets gs c = true ∨ (!s.runs gs) = true ∨ s.cycle ≤ n) := by
      rw [hgr, hsig, hr]
      simpa using hcy
    rw [if_neg hopen] at hx
    refine ⟨fun e he => ?_, fun h => ?_, fun hg he hkey hp => ?_⟩
    · rw [hx, he]
    · rcases h with hg | ⟨hg, he⟩
      · have hd : s.decidable gs c = false := by
          rw [State.decidable, hg]
          simp
        rw [hx, hg, hd]
        rfl
      · rw [hx, hg, he, Bool.not_true, Bool.and_false]
        rfl
    · refine ⟨s.grant gs c rest, ?_, grant_frame s gs c rest⟩
      rw [hx, hg, he, decidable_go hr hg hkey hp]
      rfl

/-! The arrival of a grant (R247, R253, R349). -/

theorem grantArrivals (gs : Nat) (s : State) (c : Chunk) (rest : List Chunk) (hc : (s.thread gs).chunks = c :: rest) (hgr : c.granted = true)
    (hord : (s.thread gs).ord = false) (hu : Spec.Untraced s gs) :
    ((∃ l ∈ c.writes, l ∈ s.hostInval) → exec (.grantArrival gs) s = .next s) ∧
    ((∀ l ∈ c.writes, l ∉ s.hostInval) →
      ∃ t, exec (.grantArrival gs) s = .next t ∧ (∀ g, g ≠ gs → t.thread g = s.thread g) ∧ t.rf = s.rf ∧ t.mem = s.mem ∧
        t.thread gs = { s.thread gs with
          chunks := rest, chseq := (s.thread gs).chseq + 1, sq := if (s.thread gs).fallback ≠ none ∧ (s.thread gs).sq = 8 then 8 else 0 }) := by
  have hany : (!c.writes.any (fun l => s.hostInval.contains l)) = true ↔ ∀ l ∈ c.writes, l ∉ s.hostInval := by
    simp
  let u : Thread := { s.thread gs with
    chunks := rest, chseq := (s.thread gs).chseq + 1
    sq := if (s.thread gs).fallback.isSome && (s.thread gs).sq == 8 then 8 else 0 }
  have htask : u.taskDirect = u := by
    rw [Thread.taskDirect, if_neg (by rw [show u.ord = false from hord]; exact Bool.false_ne_true)]
  let s1 := c.writes.foldl State.cohDrain s
  have hcoh : s.Cohered s1 := State.Cohered.foldl State.cohered_cohDrain _ _
  have htrace : (s1.setThread gs u).traceRec gs 4 (s.thread gs).a.pc ((s.thread gs).chseq + 1) = s1.setThread gs u := by
    apply traceRec_untraced
    show s1.traceHold.getD (dieOf gs) 511 = 511
    rw [hcoh.same]
    exact hu
  have hx : exec (.grantArrival gs) s = if c.granted ∧ !c.writes.any (fun l => s.hostInval.contains l) then
      .next ((s1.setThread gs u.taskDirect).traceRec gs 4 (s.thread gs).a.pc ((s.thread gs).chseq + 1)) else .next s := by
    rw [exec_grantArrival, execGrantArrival, hc] <;> rfl
  rw [htask, htrace] at hx
  refine ⟨fun ⟨l, hl, hin⟩ => ?_, fun h => ⟨s1.setThread gs u, ?_, fun g hg => ?_, ?_, ?_, ?_⟩⟩
  · rw [hx, if_neg]
    exact fun hok => hany.mp hok.2 l hl hin
  · rw [hx, if_pos ⟨hgr, hany.mpr h⟩]
  · rw [State.thread_setThread_ne _ _ hg]
    exact State.thread_congr hcoh.threads g
  · show s1.rf = s.rf
    rw [hcoh.same]
  · show s1.mem = s.mem
    rw [hcoh.same]
  · rw [State.thread_setThread_self]
    simp [u, Option.isSome_iff_ne_none]

/-! Signatures (R252, R346). -/

/-- The chunks that a signature leaves of a slot's. -/
def leftBy (src : Nat) (items : List Nat) (gs : Nat) (cs : List Chunk) : List Chunk :=
  if slotCount ≤ gs then cs
  else match cs.findIdx? (fun c => if gs + 1 = src then !c.granted && items.any (fun x => x ∈ c.trans) else c.meets items) with
    | none => cs
    | some i => cs.take i

theorem findIdx?_take_eq_none {p : Chunk → Bool} {cs : List Chunk} {i : Nat} (h : cs.findIdx? p = some i) : (cs.take i).findIdx? p = none := by
  rw [List.findIdx?_eq_none_iff]
  intro c hc
  obtain ⟨j, hj, rfl⟩ := List.mem_take_iff_getElem.mp hc
  obtain ⟨_, _, hbefore⟩ := List.findIdx?_eq_some_iff_getElem.mp h
  exact Bool.eq_false_iff.mpr (hbefore j (lt_of_lt_of_le hj (Nat.min_le_left ..)))

theorem leftBy_leftBy (src : Nat) (items : List Nat) (gs : Nat) (cs : List Chunk) :
    leftBy src items gs (leftBy src items gs cs) = leftBy src items gs cs := by
  unfold leftBy
  split
  · rfl
  · cases h : cs.findIdx? (fun c => if gs + 1 = src then !c.granted && items.any (fun x => x ∈ c.trans) else c.meets items) with
    | none => simp only [h]
    | some i => simp only [findIdx?_take_eq_none h]

/-- What one slot's squash leaves: the chunks of its own thread shorter, every other thread and memory as they were. -/
structure State.SquashedAt (s t : State) (gs : Nat) (cs : List Chunk) : Prop where
  chunks : (t.thread gs).chunks = cs
  others : ∀ g, g ≠ gs → t.thread g = s.thread g
  mem : t.mem = s.mem
  sigs : t.sigs = s.sigs

theorem squash_squashes {s : State} {gs i : Nat} (hi : i < (s.thread gs).chunks.length) (count fall : Bool) :
    s.SquashedAt (s.squash gs i count fall) gs ((s.thread gs).chunks.take i) := by
  let c := (s.thread gs).chunks[i]
  let u := (s.thread gs).squashed c i count fall
  obtain ⟨rf, hrf⟩ := s.setWindowOf_shape gs c.ckptX
  have hshape : ∃ cs tr, s.squash gs i count fall = { ({ s with rf := rf } : State).setThread gs u with counters := cs, traced := tr } := by
    let x := ({ s with rf := rf } : State).setThread gs u
    have hcount : ∃ cs, (if (x.thread gs).fallback.isSome then (x.count gs 0x11 1).count gs 0x12 1 else x.count gs 0x11 1) =
        { x with counters := cs } := by
      split <;> exact ⟨_, rfl⟩
    obtain ⟨cs, hcount⟩ := hcount
    obtain ⟨tr, htrace⟩ := ({ x with counters := cs } : State).traceRec_keeps gs 5 (s.thread gs).a.pc (BitVec.ofNat 64 (x.thread gs).sq)
    refine ⟨cs, tr, ?_⟩
    rw [← htrace, ← hcount]
    unfold State.squash
    rw [List.getElem?_eq_getElem hi]
    dsimp only
    rw [hrf]
  obtain ⟨cs, tr, h⟩ := hshape
  rw [h]
  exact ⟨congrArg Thread.chunks (State.thread_setThread_self _ gs u), fun g hg => State.thread_setThread_ne _ u hg, rfl, rfl⟩

/-- One slot's part of the delivery of a signature. -/
def State.deliverTo (src : Nat) (items : List Nat) (s : State) (gs : Nat) : State :=
  if slotCount ≤ gs then s
  else
    match (if gs + 1 = src then (s.thread gs).firstStale items else (s.thread gs).firstMet items) with
    | none => s
    | some i => s.squash gs i true false

theorem deliverTo_squashes (src : Nat) (items : List Nat) (s : State) (gs : Nat) :
    s.SquashedAt (s.deliverTo src items gs) gs (leftBy src items gs (s.thread gs).chunks) := by
  have hfirst : (if gs + 1 = src then (s.thread gs).firstStale items else (s.thread gs).firstMet items) =
      (s.thread gs).chunks.findIdx? (fun c => if gs + 1 = src then !c.granted && items.any (fun x => x ∈ c.trans) else c.meets items) := by
    split <;> rfl
  unfold State.deliverTo leftBy
  rw [hfirst]
  split
  · exact ⟨rfl, fun _ _ => rfl, rfl, rfl⟩
  · cases h : (s.thread gs).chunks.findIdx? _ with
    | none => exact ⟨rfl, fun _ _ => rfl, rfl, rfl⟩
    | some i => exact squash_squashes (List.findIdx?_eq_some_iff_getElem.mp h).1 true false

/-- A signature is delivered to the slots of a list, each of which it may meet several times without further effect. -/
theorem deliver_chunks (src : Nat) (items : List Nat) (gs : Nat) : ∀ (l : List Nat) (s : State),
    ((l.foldl (State.deliverTo src items) s).thread gs).chunks =
      (if gs ∈ l then leftBy src items gs (s.thread gs).chunks else (s.thread gs).chunks) ∧
    (l.foldl (State.deliverTo src items) s).mem = s.mem ∧ (l.foldl (State.deliverTo src items) s).sigs = s.sigs
  | [], s => ⟨rfl, rfl, rfl⟩
  | g :: l, s => by
    obtain ⟨hchunks, hmem, hsigs⟩ := deliver_chunks src items gs l (s.deliverTo src items g)
    have hd := deliverTo_squashes src items s g
    refine ⟨?_, hmem.trans hd.mem, hsigs.trans hd.sigs⟩
    rw [List.foldl_cons, hchunks]
    by_cases hg : gs = g
    · subst hg
      rw [hd.chunks, leftBy_leftBy]
      simp
    · rw [hd.others gs hg]
      simp [hg]

theorem mget_eq_none {α : Type} {k : Nat} : ∀ {m : Map α}, k ∉ m.map (·.1) → mget m k = none
  | [], _ => rfl
  | (j, v) :: m, h => by
    rw [List.map_cons, List.mem_cons, not_or] at h
    rw [mget, if_neg (Ne.symm h.1)]
    exact mget_eq_none h.2

theorem signature (s : State) (src : Nat) (items : List Nat) (rest : List (Nat × List Nat)) (hs : s.sigs = (src, items) :: rest) :
    ∃ t, exec .sig s = .next t ∧ t.sigs = rest ∧ t.mem = s.mem ∧
      ∀ gs, (t.thread gs).chunks = leftBy src items gs (s.thread gs).chunks := by
  let s0 : State := { s with sigs := rest }
  have hx : exec .sig s = .next ((s.threads.map (·.1)).foldl (State.deliverTo src items) s0) := by
    rw [exec_sig, execSig, hs] <;> rfl
  refine ⟨_, hx, (deliver_chunks src items 0 _ s0).2.2, (deliver_chunks src items 0 _ s0).2.1, fun gs => ?_⟩
  rw [(deliver_chunks src items gs _ s0).1]
  split
  · rfl
  · rename_i hno
    have hidle : (s0.thread gs).chunks = [] := by
      rw [State.thread, mgetD, mget_eq_none hno]
      rfl
    have hidle' : (s.thread gs).chunks = [] := hidle
    rw [hidle, hidle']
    unfold leftBy
    split <;> rfl

end Sys2Proof.Machine

namespace Sys2Proof
open Machine

/-- Settles O39: requests and grants branch by branch, and a signature by the chunks it leaves of each slot (`deliver_chunks`). -/
theorem commitEvents : Obligations.CommitEvents := by
  refine ⟨fun gs s c rest hl hr hc he hn hq => ?_, commitGrants, grantArrivals, fun s src items rest hs _ => signature s src items rest hs⟩
  refine ⟨_, ?_, onlyThread_setThread ..⟩
  rw [exec_commitRequest, execCommitRequest, hc]
  exact if_pos ⟨hl, hr, he, hn, hq.imp id fun ⟨h1, h2, h3⟩ => by simp [Thread.quiet, Thread.drained, h1, h2, h3]⟩

end Sys2Proof
end

section
/-!
PROOFS. Events of the engines: load data, stores at their place, elements read ahead, stores on their way, copies (R26, R27, R119, R138,
R212 to R215, R255, R257, R274, R346).
-/

namespace Sys2Proof.Machine

/-! Load data (R27). -/

theorem State.cohered_loadLine (gs : Nat) (s : State) (l : Nat) : s.Cohered (State.loadLine gs s l) := by
  unfold State.loadLine
  exact .ite (.refl s) (.ite (s.cohered_cohDrain l) ((s.cohered_cohDrain l).trans (State.cohered_l1Add ..)))

theorem State.cohered_loadLines (s : State) (gs : Nat) (ds : List Dest) : s.Cohered (s.loadLines gs ds) :=
  .foldl (fun s l => State.cohered_loadLine gs s l) _ s

/-- What the data of loads writes: registers of its slot's window, and the vector registers of its thread. -/
structure State.LoadsData (s t : State) (gs : Nat) : Prop where
  mem : t.mem = s.mem
  loads : (t.thread gs).loads = (s.thread gs).loads
  stores : (t.thread gs).stores = (s.thread gs).stores

theorem State.loadsData_writeDest (s : State) (gs : Nat) (d : Dest) : s.LoadsData (s.writeDest gs d) gs := by
  cases d with
  | x f v src => exact ⟨s.setXOf_mem .., by rw [State.writeDest, State.thread_setXOf], by rw [State.writeDest, State.thread_setXOf]⟩
  | elems r w vs pas =>
    unfold State.writeDest
    exact ⟨rfl, by rw [State.thread_setThread_self], by rw [State.thread_setThread_self]⟩

theorem State.loadsData_foldl (gs : Nat) : ∀ (ds : List Dest) (s : State), s.LoadsData (ds.foldl (fun (s : State) d => s.writeDest gs d) s) gs
  | [], _ => ⟨rfl, rfl, rfl⟩
  | d :: ds, s => by
    obtain ⟨hm, hl, hs⟩ := State.loadsData_foldl gs ds (s.writeDest gs d)
    obtain ⟨hm', hl', hs'⟩ := s.loadsData_writeDest gs d
    exact ⟨hm.trans hm', hl.trans hl', hs.trans hs'⟩

theorem execLoadDataReturn_loads {gs : Nat} {s : State} {ds : List Dest} {rest : List (List Dest)} (ha : s.answers gs = true)
    (hl : (s.thread gs).loads = ds :: rest) : exec (.loadDataReturn gs) s =
      if 0 < (s.thread gs).unread then
        if (!(s.thread gs).det || s.keyTurn gs) ∧ !ds.any s.destPending then
          .next ((s.setThread gs { s.thread gs with
            loads := ds.map (s.rereadDest (s.thread gs).unread) :: rest, unread := (s.thread gs).unread - 1
            ent := if (s.thread gs).det then (s.thread gs).ent + 1 else (s.thread gs).ent }).sawShared gs)
        else .next s
      else
        let s1 := ds.foldl (fun (s : State) d => s.writeDest gs d) (s.loadLines gs ds)
        .next (s1.setThread gs { s1.thread gs with loads := rest }) := by
  rw [exec_loadDataReturn, execLoadDataReturn, if_pos ha, hl] <;> rfl

theorem loadReturns_scalar (gs d : Nat) (v : Word) (src : Option Src) (s : State) (rest : List (List Dest)) (ha : s.answers gs = true)
    (hl : (s.thread gs).loads = [.x d v src] :: rest) (hu : (s.thread gs).unread = 0) :
    ∃ t, exec (.loadDataReturn gs) s = .next t ∧ t.rf = (s.setXOf gs d v).rf ∧ t.mem = s.mem ∧
      t.thread gs = { s.thread gs with loads := rest } ∧ ∀ g, g ≠ gs → t.thread g = s.thread g := by
  let s0 := s.loadLines gs [.x d v src]
  have hcoh : s.Cohered s0 := s.cohered_loadLines gs _
  have hth (g : Nat) : (s0.setXOf gs d v).thread g = s.thread g := by
    rw [State.thread_setXOf]
    exact State.thread_congr hcoh.threads g
  refine ⟨(s0.setXOf gs d v).setThread gs { (s0.setXOf gs d v).thread gs with loads := rest }, ?_, ?_, ?_, ?_, fun g hg => ?_⟩
  · rw [execLoadDataReturn_loads ha hl, if_neg (by omega)]
    rfl
  · show (s0.setXOf gs d v).rf = _
    unfold State.setXOf
    rw [State.thread_congr hcoh.threads gs, hcoh.same]
    split <;> rfl
  · exact (s0.setXOf_mem ..).trans (by rw [hcoh.same])
  · rw [State.thread_setThread_self, hth]
  · rw [State.thread_setThread_ne _ _ hg, hth]

theorem loadReturns (gs : Nat) (ds : List Dest) (s : State) (rest : List (List Dest)) (ha : s.answers gs = true)
    (hl : (s.thread gs).loads = ds :: rest) :
    ((s.thread gs).unread = 0 →
      ∃ t, exec (.loadDataReturn gs) s = .next t ∧ (t.thread gs).loads = rest ∧ (t.thread gs).stores = (s.thread gs).stores ∧ t.mem = s.mem) ∧
    (0 < (s.thread gs).unread → ((s.thread gs).det = true ∧ s.keyTurn gs = false) ∨ (∃ d ∈ ds, s.destPending d = true) →
      exec (.loadDataReturn gs) s = .next s) ∧
    (0 < (s.thread gs).unread → ((s.thread gs).det = true → s.keyTurn gs = true) → (∀ d ∈ ds, s.destPending d = false) →
      ∃ t, exec (.loadDataReturn gs) s = .next t ∧ (∃ ts, t = ({ s with threads := ts } : State).sawShared gs) ∧
        (∀ g, g ≠ gs → t.thread g = s.thread g) ∧ t.thread gs = { s.thread gs with
          loads := ds.map (s.rereadDest (s.thread gs).unread) :: rest, unread := (s.thread gs).unread - 1
          ent := if (s.thread gs).det then (s.thread gs).ent + 1 else (s.thread gs).ent }) := by
  have hx := execLoadDataReturn_loads ha hl
  refine ⟨fun hu => ?_, fun hu h => ?_, fun hu hkey hd => ?_⟩
  · rw [if_neg (by omega)] at hx
    have hcoh := s.cohered_loadLines gs ds
    obtain ⟨hmem, hloads, hstores⟩ := State.loadsData_foldl gs ds (s.loadLines gs ds)
    refine ⟨_, hx, congrArg Thread.loads (State.thread_setThread_self ..),
      (congrArg Thread.stores (State.thread_setThread_self ..)).trans ?_, hmem.trans (by rw [hcoh.same])⟩
    exact hstores.trans (by rw [State.thread_congr hcoh.threads])
  · rw [hx, if_pos hu, if_neg]
    rintro ⟨hturn, hfree⟩
    rcases h with ⟨hdet, hk⟩ | ⟨d, hin, hp⟩
    · rw [hdet, hk] at hturn
      cases hturn
    · rw [List.any_eq_true.mpr ⟨d, hin, hp⟩] at hfree
      cases hfree
  · have hturn : (!(s.thread gs).det || s.keyTurn gs) = true := by
      cases hdet : (s.thread gs).det
      · rfl
      · rw [hkey hdet]
        rfl
    have hfree : (!ds.any s.destPending) = true := by
      rw [Bool.not_eq_true', List.any_eq_false]
      exact fun d hin => by rw [hd d hin]; exact Bool.false_ne_true
    rw [if_pos hu, if_pos ⟨hturn, hfree⟩] at hx
    let u : Thread := { s.thread gs with
      loads := ds.map (s.rereadDest (s.thread gs).unread) :: rest, unread := (s.thread gs).unread - 1
      ent := if (s.thread gs).det then (s.thread gs).ent + 1 else (s.thread gs).ent }
    obtain ⟨h, hsaw⟩ := (s.setThread gs u).sawShared_shape gs
    refine ⟨_, hx, ⟨_, rfl⟩, fun g hg => ?_, ?_⟩
    · rw [hsaw]
      exact State.thread_setThread_ne s u hg
    · rw [hsaw]
      exact State.thread_setThread_self s gs u

/-! Stores at their place (R119, R250, R274, R349). -/

theorem mayPlace_iff (s : State) (gs cyc : Nat) (effs : List Eff) : s.mayPlace gs cyc effs = true ↔
    ¬(s.earlierRequest (s.singleReq gs cyc effs) = true ∨ s.remoteHolds (heldItems effs) = true ∨ s.hostHolds (itemsOf effs) = true) := by
  simp [State.mayPlace, not_or, and_assoc]

theorem placeSingle_places {s : State} {gs cyc : Nat} {effs : List Eff} {upd : Thread → Thread} (hr : s.runs gs = true)
    (hg : s.gate gs kindSingle 1 = .go) (hkey : (s.thread gs).det = true → s.keyTurn gs = true) :
    Spec.Placed s gs cyc effs upd (s.placeSingle gs cyc effs upd) := by
  have hdec : s.singleDecidable gs = true := by
    rw [State.singleDecidable, hr, hg]
    cases hdet : (s.thread gs).det
    · rfl
    · rw [hkey hdet]
      rfl
  have hshape : s.placeSingle gs cyc effs upd =
      (let r := s.reaim gs effs
       if !s.singleDecidable gs then s
       else if s.mayPlace gs cyc r.1 then
        let t := upd (r.2.thread gs)
        ((r.2.setThread gs { t with
          ent := if t.det then t.ent + 1 else t.ent, aims := if t.drained then [] else t.aims }).performSingle gs r.1).sawShared gs
       else s.backInvalidate (itemsOf r.1)) := by
    unfold State.placeSingle
    rw [hg]
  rw [hshape, hdec]
  unfold Spec.Placed
  intro r u s1
  by_cases h : s.mayPlace gs cyc r.1 = true
  · rw [if_neg ((mayPlace_iff ..).mp h)]
    exact if_pos h
  · rw [if_pos (by rwa [mayPlace_iff, not_not] at h)]
    exact if_neg h

theorem execStore_next {gs : Nat} {s : State} {effs : List Eff} {more : List (List Eff)} {rest : List (List (List Eff))}
    (hr : s.runs gs = true) (hs : (s.thread gs).stores = (effs :: more) :: rest) : exec (.storeGloballyPerformed gs) s =
      .next (s.placeSingle gs ((s.thread gs).arrivals.headD s.cycle) effs (fun t => { t with
        stores := if more = [] then rest else more :: rest, arrivals := if more = [] then t.arrivals.drop 1 else t.arrivals })) := by
  rw [exec_storeGloballyPerformed, execStoreGloballyPerformed, hr, hs] <;> rfl

theorem execStore_last {gs : Nat} {s : State} {rest : List (List (List Eff))} (hr : s.runs gs = true) (hs : (s.thread gs).stores = [] :: rest) :
    exec (.storeGloballyPerformed gs) s =
      .next (s.setThread gs { s.thread gs with stores := rest, arrivals := (s.thread gs).arrivals.drop 1 }) := by
  rw [exec_storeGloballyPerformed, execStoreGloballyPerformed, hr, hs] <;> rfl

theorem execStore_push {gs : Nat} {s : State} {effs : List Eff} {more : List (List Eff)} (hr : s.runs gs = true)
    (hs : (s.thread gs).stores = []) (hp : (s.thread gs).pushes = effs :: more) :
    exec (.storeGloballyPerformed gs) s = .next (s.placeSingle gs s.cycle effs (fun t => { t with pushes := more })) := by
  rw [exec_storeGloballyPerformed, execStoreGloballyPerformed, hr, hs, hp] <;> rfl

/-! Where a page is now (R346). -/

theorem reaim_write {s : State} {gs pa : Nat} {bs : List Byte} {a : Aim} (ha : (s.thread gs).aims.find? (fun a => a.frame == pa / 4096) = some a)
    (hl : pa % 4096 + bs.length ≤ 4096) : (s.reaim gs [.write pa bs]).1 =
      [if (s.aimed gs pa).1 = pa then .write pa bs else ({ (s.aimed gs pa).2 with fs := gs } : State).effFor (s.aimed gs pa).1 bs] := by
  have hne : (s.thread gs).aims ≠ [] := by
    intro h
    rw [h] at ha
    cases ha
  have hsplit : splitPage pa bs = [(pa, bs)] := if_pos (by omega)
  rw [State.reaim, if_neg hne]
  simp only [List.foldl_cons, List.foldl_nil, State.reaimEff, hsplit, List.nil_append]

theorem reaims (gs pa : Nat) (bs : List Byte) (s : State) (a : Aim)
    (ha : (s.thread gs).aims.find? (fun a => a.frame == pa / 4096) = some a) (hl : pa % 4096 + bs.length ≤ 4096) :
    let x := ({ s with fs := gs } : State).translate (s.thread gs).vf (s.thread gs).asid a.level a.page .write
    ((∃ e, x = .error e) ∨ (∃ y, x = .ok y ∧ y.addr / 4096 = a.frame) → (s.reaim gs [.write pa bs]).1 = [.write pa bs]) ∧
    (∀ y, x = .ok y → y.addr / 4096 ≠ a.frame →
      ∃ w : State, w.fs = gs ∧ (s.reaim gs [.write pa bs]).1 = [w.effFor (y.addr / 4096 * 4096 + pa % 4096) bs]) := by
  intro x
  have hframe : a.frame = pa / 4096 := beq_iff_eq.mp (List.find?_some (p := fun a : Aim => a.frame == pa / 4096) ha)
  have haim : s.aimed gs pa = (match x with
      | .error _ => (pa, s)
      | .ok y =>
        if y.addr / 4096 = a.frame then (pa, s)
        else (y.addr / 4096 * 4096 + pa % 4096, match y.pte with | some p => s.setAD p .write | none => s)) := by
    rw [State.aimed, ha] <;> rfl
  refine ⟨fun h => ?_, fun y hy hne => ?_⟩
  · have hstay : s.aimed gs pa = (pa, s) := by
      rcases h with ⟨e, he⟩ | ⟨y, hy, hf⟩
      · rw [haim, he]
      · rw [haim, hy]
        exact if_pos hf
    rw [reaim_write ha hl]
    exact congrArg (fun e => [e]) (if_pos (by rw [hstay]))
  · have hmove : (s.aimed gs pa).1 = y.addr / 4096 * 4096 + pa % 4096 := by
      rw [haim, hy]
      dsimp only
      rw [if_neg hne]
    refine ⟨{ (s.aimed gs pa).2 with fs := gs }, rfl, ?_⟩
    rw [reaim_write ha hl, if_neg (by rw [hmove]; omega), hmove]

/-! Elements read ahead of a stream (R138). -/

theorem State.rung_walkLines (s : State) (vf : Option Nat) (ls : List Nat) : s.Rung (s.walkLines vf ls) :=
  .foldl (fun s l => s.rung_countFetch vf l) _ s

theorem prefetches (gs port : Nat) (s : State) (b : Stream) (e : Ahead) (hl : (s.thread gs).live = true) (hr : s.runs gs = true)
    (hd : (s.thread gs).directMode = false) (hb : (s.thread gs).a.stream port = some b) :
    ((s.thread gs).det = true ∨ s.prefetch gs b = none → exec (.streamPrefetchArrival gs port) s = .next s) ∧
    ((s.thread gs).det = false → s.prefetch gs b = some e →
      ∃ t, exec (.streamPrefetchArrival gs port) s = .next t ∧ (t.thread gs).a.stream port = some { b with ahead := b.ahead ++ [e] } ∧
        t.rf = s.rf ∧ t.mem = ((s.walkLines (s.thread gs).vf e.trans).countFetch (s.thread gs).vf e.line).mem ∧
        (∀ g, g ≠ gs → t.thread g = s.thread g)) := by
  have hx (hdet : (s.thread gs).det = false) : exec (.streamPrefetchArrival gs port) s = (match s.prefetch gs b with
      | some e =>
        let s1 := ((s.walkLines (s.thread gs).vf e.trans).countFetch (s.thread gs).vf e.line).cohAsk (dieOf gs) e.line (s.partOf gs)
        .next (s1.setThread gs { s1.thread gs with
          a := { (s.thread gs).a with ports := mput (s.thread gs).a.ports port (.stream { b with ahead := b.ahead ++ [e] }) } })
      | none => .next s) := by
    rw [exec_streamPrefetchArrival, execStreamPrefetchArrival, if_pos ⟨hl, hr, by rw [hd]; rfl, by rw [hdet]; rfl⟩, hb] <;> rfl
  refine ⟨fun h => ?_, fun hdet he => ?_⟩
  · cases hdet : (s.thread gs).det with
    | true =>
      rw [exec_streamPrefetchArrival, execStreamPrefetchArrival, if_neg]
      rintro ⟨-, -, -, h⟩
      rw [hdet] at h
      cases h
    | false =>
      rw [hx hdet, h.resolve_left (by rw [hdet]; exact Bool.false_ne_true)]
  · let u := (s.walkLines (s.thread gs).vf e.trans).countFetch (s.thread gs).vf e.line
    have hrung : s.Rung u := (s.rung_walkLines ..).trans (State.rung_countFetch ..)
    have hcoh : u.Cohered (u.cohAsk (dieOf gs) e.line (s.partOf gs)) := u.cohered_cohAsk ..
    rw [he] at hx
    refine ⟨_, hx hdet, ?_, ?_, ?_, fun g hg => ?_⟩
    · rw [State.thread_setThread_self, Arch.stream]
      dsimp only
      rw [mget_mput_self]
    · show (u.cohAsk (dieOf gs) e.line (s.partOf gs)).rf = _
      rw [hcoh.same, hrung.same]
    · show (u.cohAsk (dieOf gs) e.line (s.partOf gs)).mem = u.mem
      rw [hcoh.same]
    · rw [State.thread_setThread_ne _ _ hg]
      exact State.thread_congr (hcoh.threads.trans hrung.threads) g

/-! Copies (R212 to R215, R257, R261). -/

theorem engineGrant_go {s : State} {gs lines : Nat} (f : State → State) (h : s.gate gs kindEngine lines = .go) :
    s.engineGrant gs lines f = f s := by
  rw [State.engineGrant, h]

theorem holdFault_splits (f : Nat × Trap) : ∀ l : List (Nat × Trap), ∃ pre post, l = pre ++ post ∧ holdFault f l = pre ++ f :: post ∧
    (∀ e ∈ pre, e.1 ≤ f.1) ∧ (∀ e ∈ post.head?, f.1 < e.1)
  | [] => ⟨[], [], rfl, rfl, by simp, by simp⟩
  | g :: l => by
    by_cases h : f.1 < g.1
    · exact ⟨[], g :: l, rfl, if_pos h, by simp, by simpa using h⟩
    · obtain ⟨pre, post, hl, hf, hpre, hpost⟩ := holdFault_splits f l
      refine ⟨g :: pre, post, by rw [hl]; rfl, (if_neg h).trans (by rw [hf]; rfl), fun e he => ?_, hpost⟩
      rcases List.mem_cons.mp he with rfl | he
      · exact Nat.not_lt.mp h
      · exact hpre e he

theorem copyCompletes (cid : Nat) (s : State) (c : Copy) (hf : s.copies.find? (fun c => c.id == cid) = some c) (h0 : c.record = 0)
    (hrec : c.recorded = true) (hready : s.copyReady c = true) (hr : s.runs c.gs = true) (hz : (s.thread c.gs).frozen = false)
    (hu : (s.thread c.gs).uid = c.uid) :
    ∃ t, exec (.copyComplete cid) s = .next t ∧ (∀ d ∈ t.copies, d.id ≠ c.id) ∧ t.mem = s.mem ∧ t.rf = s.rf ∧
      (t.thread c.gs).copies = retireDone ((s.thread c.gs).copies.map (fun p => if p.1 = c.id then (c.id, true) else p)) ∧
      (c.fault = none → (t.thread c.gs).heldFaults = (s.thread c.gs).heldFaults) ∧
      (∀ f, c.fault = some f → ∃ pre post, (s.thread c.gs).heldFaults = pre ++ post ∧
        (t.thread c.gs).heldFaults = pre ++ (c.num, c.heldTrap f) :: post ∧
        (∀ e ∈ pre, e.1 ≤ c.num) ∧ (∀ e ∈ post.head?, c.num < e.1)) := by
  have hx : exec (.copyComplete cid) s = .next (s.copyFinish c) := by
    rw [exec_copyComplete, execCopyComplete, hf]
    dsimp only
    rw [if_pos ⟨hready, hr, by rw [hz]; rfl⟩, if_pos hrec]
  let s1 : State := { s with copies := s.copies.filter (fun d => d.id != c.id) }
  let t1 : Thread := { s.thread c.gs with
    copies := retireDone ((s.thread c.gs).copies.map (fun p => if p.1 = c.id then (c.id, true) else p)) }
  have hfin : s.copyFinish c = s1.setThread c.gs (match c.fault with
      | some f => { t1 with heldFaults := holdFault (c.num, c.heldTrap f) t1.heldFaults }
      | none => t1) := by
    have hshape : s.copyFinish c = if (s.thread c.gs).uid = c.uid then s1.setThread c.gs (match (if c.record = 0 then c.fault else none) with
        | some f => { t1 with heldFaults := holdFault (c.num, c.heldTrap f) t1.heldFaults }
        | none => t1) else s1 := rfl
    rw [hshape, if_pos hu, if_pos h0]
  rw [hfin] at hx
  refine ⟨_, hx, fun d hd => ?_, rfl, rfl, ?_, fun hn => ?_, fun f hn => ?_⟩
  · simpa using (List.mem_filter.mp hd).2
  · rw [State.thread_setThread_self]
    split <;> rfl
  · rw [State.thread_setThread_self, hn]
  · obtain ⟨pre, post, hl, hh, hpre, hpost⟩ := holdFault_splits (c.num, c.heldTrap f) (s.thread c.gs).heldFaults
    refine ⟨pre, post, hl, ?_, hpre, hpost⟩
    rw [State.thread_setThread_self, hn]
    exact hh

end Sys2Proof.Machine

namespace Sys2Proof
open Machine

/-- Settles O40: each engine event by the one lemma that says what it does in the state that its clause describes. -/
theorem engineEvents : Obligations.EngineEvents := by
  refine ⟨loadReturns_scalar, loadReturns, fun gs effs more rest s hr hs hg hkey => ⟨_, execStore_next hr hs, placeSingle_places hr hg hkey⟩,
    fun gs effs s h => if_pos h, reaims, fun gs rest s hr hs => ⟨_, execStore_last hr hs, onlyThread_setThread ..⟩,
    fun gs effs more s hr hs hp hg hkey => ⟨_, execStore_push hr hs hp, placeSingle_places hr hg hkey⟩, prefetches,
    fun s pa bs h => ?_, fun eid s c hf hd hg => ?_, fun eid key s c rest hf hq hd hr hg => ?_, copyCompletes, fun cl s hr => ?_⟩
  · rw [exec_remoteStoreMessage, execRemoteStoreMessage, h]
    rfl
  · rw [exec_engineChunkGrant, execEngineChunkGrant, hf]
    dsimp only
    rw [if_pos hd]
    exact congrArg Host.Outcome.next (engineGrant_go _ hg)
  · have hpc : key / 32 / 8 = key / 256 := Nat.div_div_eq_div_mul ..
    rw [exec_engineChunkGrant, execEngineChunkGrant, hf, hq]
    dsimp only
    rw [hpc, if_pos ⟨hd, hr⟩, engineGrant_go _ hg]
  · refine ⟨_, exec_combiningRelease .., rfl, rfl, fun d hd hcl => ?_, by simp⟩
    obtain ⟨c, -, rfl⟩ := List.mem_map.mp hd
    split
    · rfl
    · rename_i hno
      rw [if_neg hno] at hcl
      exact absurd ⟨hcl, hr⟩ hno

end Sys2Proof
end

section
/-!
PROOFS. The coherence messages of Table 11.4 (R266 to R272).
-/

namespace Sys2Proof.Machine

/-! The states of a line on the dies. -/

theorem State.dirOf_congr {s t : State} (h : t.dirs = s.dirs) (l : Nat) : t.dirOf l = s.dirOf l := by
  unfold State.dirOf
  rw [h]

theorem State.dieState_setDie_self {s : State} {line die : Nat} (hd : die < 4) (hl : (s.dirOf line).length = 4) (x : Moesi) :
    (s.setDie line die x).dieState line die = x := by
  have hi : die < (s.dirOf line).length := by omega
  unfold State.dieState State.setDie
  rw [State.dirOf_setDir_self, List.getD_eq_getElem _ _ (by rwa [List.length_set]), List.getElem_set_self]

theorem State.dieState_setDie_ne (s : State) (line : Nat) {die k : Nat} (h : k ≠ die) (x : Moesi) :
    (s.setDie line die x).dieState line k = s.dieState line k := by
  unfold State.dieState State.setDie
  rw [State.dirOf_setDir_self, List.getD_eq_getElem?_getD, List.getD_eq_getElem?_getD, List.getElem?_set_ne (Ne.symm h)]

theorem State.dieState_setDie_other (s : State) {line l : Nat} (h : line ≠ l) (die k : Nat) (x : Moesi) :
    (s.setDie line die x).dieState l k = s.dieState l k := by
  unfold State.dieState State.setDie
  rw [State.dirOf_setDir_ne _ h]

theorem State.dirs_l1Drop (s : State) (die line : Nat) : (s.l1Drop die line).dirs = s.dirs := by
  unfold State.l1Drop
  split <;> rfl

theorem State.coh_l1Drop (s : State) (die line : Nat) : (s.l1Drop die line).coh = s.coh := by
  unfold State.l1Drop
  split <;> rfl

theorem State.dirs_hostMoves (s : State) (src dst line : Nat) : (s.hostMoves src dst line).dirs = s.dirs := by
  unfold State.hostMoves
  split <;> rfl

/-- What lies in an L2's set that may be evicted is another line. -/
theorem State.ne_of_mem_l2Mates {s : State} {die line l : Nat} (h : l ∈ s.l2Mates die line) : l ≠ line := by
  unfold State.l2Mates at h
  dsimp only at h
  split at h
  · cases h
  · have h := (List.mem_filter.mp h).2
    simp only [Bool.and_eq_true, bne_iff_ne, ne_eq] at h
    exact h.1

theorem State.dieState_cohSend (s : State) (m : CohKind) (die l line k : Nat) :
    (s.cohSend m die l).dieState line k = s.dieState line k := rfl

theorem State.dieState_evict (s : State) {v line : Nat} (h : v ≠ line) (die k : Nat) :
    (s.evict die v).dieState line k = s.dieState line k := by
  have hd : ((s.setDie v die .i).l1Drop die v).dieState line k = s.dieState line k :=
    (State.dieState_congr (State.dirs_l1Drop ..) line k).trans (s.dieState_setDie_other h die k .i)
  unfold State.evict
  dsimp only
  split
  · rfl
  · split
    · exact (State.dieState_congr rfl line k).trans hd
    · exact hd

/-- A line that enters an L2 gets its state there; whatever the L2 evicts for it is another line. -/
theorem State.dieState_place (s : State) (die line : Nat) (x : Moesi) (k : Nat) :
    (s.place die line x).dieState line k = (s.setDie line die x).dieState line k := by
  unfold State.place
  dsimp only
  split
  · rfl
  · split
    next v hv =>
      have hm := List.mem_of_getElem? hv
      exact State.dieState_evict _ (State.ne_of_mem_l2Mates (List.mem_of_mem_filter hm)) die k
    · rfl

theorem State.place_room {s : State} {die line : Nat} (h : (s.l2Mates die line).length < 16) (x : Moesi) :
    s.place die line x = s.setDie line die x := if_pos h

/-! Messages. -/

theorem State.cohHas_of_mem {s : State} {k : CohKind} {die line : Nat} (h : (⟨k, die, line⟩ : CohMsg) ∈ s.coh) :
    s.cohHas k die line = true := List.contains_iff_mem.mpr h

theorem State.cohBusy_of_atRest {s : State} {line : Nat} (h : Spec.AtRest s line) : s.cohBusy line = false := by
  refine List.any_eq_false.mpr fun m hm hb => ?_
  rw [Bool.and_eq_true, beq_iff_eq] at hb
  obtain ⟨hl, hb⟩ := hb
  rcases h m hm hl with hk | hk <;> rw [hk] at hb <;> exact absurd hb (by decide)

/-- A message sent to each of several dies. -/
theorem State.foldl_cohSend (k : CohKind) (line : Nat) (ds : List Nat) : ∀ s : State,
    ds.foldl (fun (s : State) d => s.cohSend k d line) s = { s with coh := s.coh ++ ds.map (fun d => ⟨k, d, line⟩) } := by
  induction ds with
  | nil => intro s; rw [List.foldl_nil, List.map_nil, List.append_nil]
  | cons d ds ih =>
    intro s
    rw [List.foldl_cons, ih, List.map_cons, State.cohSend, List.append_assoc, List.singleton_append]

theorem State.cohDrain_quiet {s : State} {line : Nat} (h : ∀ m ∈ s.coh, m.line ≠ line) : s.cohDrain line = s := by
  refine if_pos (List.length_eq_zero_iff.mpr (List.filter_eq_nil_iff.mpr fun m hm hb => h m hm (beq_iff_eq.mp hb)))

/-! Requests. -/

theorem State.cohAsk_asks {s : State} {die line : Nat} (part : Option Nat) (hc : cached line = true) (hr : s.reservedLine line = false)
    (hi : s.dieState line die = .i) (hq : ∀ m ∈ s.coh, m.line ≠ line) :
    (s.cohAsk die line part).coh = s.coh ++ [⟨.reads, die, line⟩] := by
  have hany : s.coh.any (fun m => m.line == line && m.die == die && !m.kind.isRecall) = false :=
    List.any_eq_false.mpr fun m hm hb => by
      rw [Bool.and_eq_true, Bool.and_eq_true, beq_iff_eq] at hb
      exact hq m hm hb.1.1
  unfold State.cohAsk
  rw [hc, hr, hi, hany]
  dsimp only
  rw [if_neg (by decide)]
  unfold State.cohSend
  dsimp only
  split <;> rfl

theorem State.coh_l1Add (s : State) (gc line : Nat) : (s.l1Add gc line).coh = s.coh := by
  unfold State.l1Add
  split <;> rfl

theorem State.reservedLine_congr {s t : State} (h : s.Cohered t) (line : Nat) : t.reservedLine line = s.reservedLine line := by
  rw [h.same]
  rfl

theorem State.cohWrite_asks {s : State} {gs line : Nat} (hc : cached line = true) (hr : s.reservedLine line = false)
    (hm : s.dieState line (dieOf gs) ≠ .m) (hq : ∀ m ∈ s.coh, m.line ≠ line) :
    (s.cohWrite gs line).coh = s.coh ++ [⟨.readm, dieOf gs, line⟩] := by
  have hd : (s.l1Drop (dieOf gs) line).dieState line (dieOf gs) = s.dieState line (dieOf gs) :=
    State.dieState_congr (State.dirs_l1Drop ..) ..
  unfold State.cohWrite
  rw [hc, State.cohDrain_quiet hq]
  dsimp only
  rw [if_neg (by decide), State.reservedLine_congr (s.cohered_l1Drop ..), hr, if_neg (by decide), hd,
    if_neg (fun h => hm (beq_iff_eq.mp h)), State.coh_l1Add]
  unfold State.cohSend
  dsimp only
  split <;> exact congrArg (· ++ _) (State.coh_l1Drop ..)

/-! READS and READM at the home. -/

theorem exec_reads_rest {s : State} {die line : Nat} (h : (⟨.reads, die, line⟩ : CohMsg) ∈ s.coh) (hr : Spec.AtRest s line) :
    exec (.reads die line) s = .next (if s.dieState line die != .i then s.cohTake .reads die line else
      match s.cohOwner line with
      | some o => (s.cohTake .reads die line).cohSend (.fwd o) die line
      | none => (s.cohTake .reads die line).cohSend (.data (if (s.dirOf line).all (· == .i) then .e else .s)) die line) := by
  rw [exec_reads, execReads, State.doReads, State.cohHas_of_mem h, State.cohBusy_of_atRest hr] <;> rfl

theorem exec_readm_rest {s : State} {die line : Nat} (h : (⟨.readm, die, line⟩ : CohMsg) ∈ s.coh) (hr : Spec.AtRest s line) :
    exec (.readm die line) s = .next (if s.dieState line die == .m then s.cohTake .readm die line else
      if (List.range 4).filter (fun k => k != die && s.dieState line k != .i) = [] then
        (s.cohTake .readm die line).cohSend (.data .m) die line
      else ((List.range 4).filter (fun k => k != die && s.dieState line k != .i)).foldl (fun (s : State) k => s.cohSend .inv k line)
        ((s.cohTake .readm die line).cohSend .getm die line)) := by
  rw [exec_readm, execReadm, State.doReadm, State.cohHas_of_mem h, State.cohBusy_of_atRest hr] <;> rfl

theorem reads_atHome {s : State} {die line : Nat} (h : (⟨.reads, die, line⟩ : CohMsg) ∈ s.coh) (hr : Spec.AtRest s line) :
    let c := s.coh.erase ⟨.reads, die, line⟩
    (s.dieState line die ≠ .i → exec (.reads die line) s = .next { s with coh := c }) ∧
    (∀ o, s.dieState line die = .i → s.cohOwner line = some o →
      exec (.reads die line) s = .next { s with coh := c ++ [⟨.fwd o, die, line⟩] }) ∧
    (s.dieState line die = .i → s.cohOwner line = none → exec (.reads die line) s = .next { s with
      coh := c ++ [⟨.data (if ∀ x ∈ s.dirOf line, x = .i then .e else .s), die, line⟩] }) := by
  refine ⟨fun hd => ?_, fun o hd ho => ?_, fun hd ho => ?_⟩ <;> rw [exec_reads_rest h hr]
  · rw [if_pos (bne_iff_ne.mpr hd)]
    rfl
  · rw [hd, if_neg (by decide), ho] <;> rfl
  · have hall : (s.dirOf line).all (· == .i) = true ↔ ∀ x ∈ s.dirOf line, x = Moesi.i := by
      simp only [List.all_eq_true, beq_iff_eq]
    rw [hd, if_neg (by decide), ho]
    simp only [hall]
    rfl

theorem readm_atHome {s : State} {die line : Nat} (h : (⟨.readm, die, line⟩ : CohMsg) ∈ s.coh) (hr : Spec.AtRest s line) :
    let c := s.coh.erase ⟨.readm, die, line⟩
    let others := (List.range 4).filter (fun k => k != die && s.dieState line k != .i)
    (s.dieState line die = .m → exec (.readm die line) s = .next { s with coh := c }) ∧
    (s.dieState line die ≠ .m → exec (.readm die line) s = .next { s with
      coh := c ++ (if others = [] then [⟨.data .m, die, line⟩] else ⟨.getm, die, line⟩ :: others.map (fun k => ⟨.inv, k, line⟩)) }) := by
  refine ⟨fun hd => ?_, fun hd => ?_⟩ <;> rw [exec_readm_rest h hr]
  · rw [hd, if_pos (by decide)]
    rfl
  · rw [if_neg (fun hb => hd (beq_iff_eq.mp hb))]
    split
    · rfl
    · rw [State.foldl_cohSend]
      dsimp only [State.cohSend, State.cohTake]
      rw [List.append_assoc, List.singleton_append]

/-! FWD, DATA, INV and ACK. -/

theorem fwd_atOwner {s : State} {owner die line : Nat} (ho : owner < 4) (hl : (s.dirOf line).length = 4)
    (h : (⟨.fwd owner, die, line⟩ : CohMsg) ∈ s.coh) :
    ∃ t, exec (.fwd owner die line) s = .next t ∧ t.coh = s.coh.erase ⟨.fwd owner, die, line⟩ ++ [⟨.data .s, die, line⟩] ∧
      t.dieState line owner = (match s.dieState line owner with | .m => .o | .e => .s | x => x) ∧
      (∀ k, k ≠ owner → t.dieState line k = s.dieState line k) ∧ t.mem = s.mem ∧ t.rf = s.rf := by
  let s1 := (s.cohTake (.fwd owner) die line).cohSend (.data .s) die line
  have h1 : (s1.dirOf line).length = 4 := (congrArg List.length (State.dirOf_congr rfl line)).trans hl
  have hr : exec (.fwd owner die line) s =
      .next (s1.setDie line owner (match s.dieState line owner with | .m => .o | .e => .s | x => x)) := by
    rw [exec_fwd, execFwd, State.doFwd, State.cohHas_of_mem h] <;> rfl
  exact ⟨_, hr, rfl, State.dieState_setDie_self ho h1 _, fun k hk => State.dieState_setDie_ne s1 line hk _, rfl, rfl⟩

/-- DATA reaches the requester: its die takes the line in the state that the message names. -/
theorem exec_data_of_mem {s : State} {die line : Nat} {st : Moesi} (h : (⟨.data st, die, line⟩ : CohMsg) ∈ s.coh)
    (hu : ∀ st', (⟨.data st', die, line⟩ : CohMsg) ∈ s.coh → st' = st) :
    exec (.data die line) s = .next ((s.cohTake (.data st) die line).place die line st) := by
  rw [exec_data, execData, State.doData]
  cases hf : s.coh.find? (fun m => m.die == die && m.line == line && (match m.kind with | .data _ => true | _ => false)) with
  | none =>
    have := List.find?_eq_none.mp hf _ h
    simp at this
  | some m =>
    obtain ⟨k, d, l⟩ := m
    have hm := List.mem_of_find?_eq_some hf
    have hp := List.find?_some (p := fun m : CohMsg => m.die == die && m.line == line &&
      (match m.kind with | .data _ => true | _ => false)) hf
    rw [Bool.and_eq_true, Bool.and_eq_true, beq_iff_eq, beq_iff_eq] at hp
    obtain ⟨⟨rfl, rfl⟩, hk⟩ := hp
    cases k with
    | data st' => rw [hu st' hm] <;> rfl
    | reads | readm | getm | fwd | wback | ack | inv | binv => exact Bool.noConfusion hk

theorem data_atRequester {s : State} {die line : Nat} {st : Moesi} (hd : die < 4) (hl : (s.dirOf line).length = 4)
    (h : (⟨.data st, die, line⟩ : CohMsg) ∈ s.coh) (hu : ∀ st', (⟨.data st', die, line⟩ : CohMsg) ∈ s.coh → st' = st) :
    ∃ t, exec (.data die line) s = .next t ∧ t.dieState line die = st ∧ (∀ k, k ≠ die → t.dieState line k = s.dieState line k) ∧
      ((s.l2Mates die line).length < 16 → t.coh = s.coh.erase ⟨.data st, die, line⟩) ∧ t.mem = s.mem ∧ t.rf = s.rf := by
  let s1 := s.cohTake (.data st) die line
  have h1 : (s1.dirOf line).length = 4 := hl
  have hc : s.Cohered (s1.place die line st) := (s.cohered_cohTake ..).trans (State.cohered_place ..)
  refine ⟨_, exec_data_of_mem h hu, ?_, fun k hk => ?_, fun hroom => ?_, ?_, ?_⟩
  · rw [State.dieState_place, State.dieState_setDie_self hd h1]
  · rw [State.dieState_place, State.dieState_setDie_ne _ _ hk] <;> rfl
  · rw [State.place_room (show (s1.l2Mates die line).length < 16 from hroom)]
    rfl
  · rw [hc.same]
  · rw [hc.same]

/-- What a die that drops its copy of a line leaves: its own state of the line, no other. -/
theorem State.dropped_dieState {s : State} {die line : Nat} (hd : die < 4) (hl : (s.dirOf line).length = 4) (k : CohKind) :
    (((s.setDie line die .i).l1Drop die line).cohSend k die line).dieState line die = .i ∧
    (∀ j, j ≠ die → (((s.setDie line die .i).l1Drop die line).cohSend k die line).dieState line j = s.dieState line j) ∧
    (((s.setDie line die .i).l1Drop die line).cohSend k die line).coh = s.coh ++ [⟨k, die, line⟩] := by
  have hc : ∀ j, (((s.setDie line die .i).l1Drop die line).cohSend k die line).dieState line j =
      (s.setDie line die .i).dieState line j := fun j =>
    (State.dieState_congr rfl line j).trans (State.dieState_congr (State.dirs_l1Drop ..) line j)
  exact ⟨(hc die).trans (State.dieState_setDie_self hd hl _), fun j hj => (hc j).trans (State.dieState_setDie_ne _ _ hj _),
    congrArg (· ++ _) (State.coh_l1Drop ..)⟩

theorem inv_atSharer {s : State} {die line : Nat} (hd : die < 4) (hl : (s.dirOf line).length = 4)
    (h : (⟨.inv, die, line⟩ : CohMsg) ∈ s.coh) :
    ∃ t, exec (.inv die line) s = .next t ∧ t.coh = s.coh.erase ⟨.inv, die, line⟩ ++ [⟨.ack, die, line⟩] ∧ t.dieState line die = .i ∧
      (∀ k, k ≠ die → t.dieState line k = s.dieState line k) ∧ t.mem = s.mem ∧ t.rf = s.rf := by
  have hr : exec (.inv die line) s = .next (s.doInv die line) := (exec_inv ..).trans rfl
  have he : s.doInv die line = (((s.cohTake .inv die line).setDie line die .i).l1Drop die line).cohSend .ack die line :=
    if_pos (State.cohHas_of_mem h)
  have hc := s.cohered_doInv die line
  obtain ⟨hi, hk, hq⟩ := State.dropped_dieState (s := s.cohTake .inv die line) hd hl .ack
  exact ⟨_, hr, by rw [he, hq] <;> rfl, by rw [he, hi], fun k hn => by rw [he, hk k hn] <;> rfl, by rw [hc.same], by rw [hc.same]⟩

theorem exec_ack_settles {s : State} {die line : Nat} (h : (⟨.ack, die, line⟩ : CohMsg) ∈ s.coh) :
    exec (.ack die line) s = .next ((s.cohTake .ack die line).cohSettle line) := by
  rw [exec_ack, execAck, State.doAck, State.cohHas_of_mem h] <;> rfl

/-- An acknowledgement that a READM waits for is still to come. -/
theorem State.cohPending_iff (s : State) (line : Nat) :
    s.coh.any (fun m => m.line == line && (m.kind == .inv || m.kind == .ack || m.kind == .wback)) = true ↔
      ∃ m ∈ s.coh, m.line = line ∧ (m.kind = .inv ∨ m.kind = .ack ∨ m.kind = .wback) := by
  simp only [List.any_eq_true, Bool.and_eq_true, Bool.or_eq_true, beq_iff_eq, or_assoc]

theorem State.cohSettle_pending {s : State} {line : Nat}
    (h : ∃ m ∈ s.coh, m.line = line ∧ (m.kind = .inv ∨ m.kind = .ack ∨ m.kind = .wback)) : s.cohSettle line = s :=
  if_pos ((s.cohPending_iff line).mpr h)

theorem State.cohSettle_none {s : State} {line : Nat}
    (h : ¬∃ m ∈ s.coh, m.line = line ∧ (m.kind = .inv ∨ m.kind = .ack ∨ m.kind = .wback))
    (hg : ∀ m ∈ s.coh, m.line = line → m.kind ≠ .getm) : s.cohSettle line = s := by
  have hf : s.coh.find? (fun m => m.line == line && m.kind == .getm) = none := List.find?_eq_none.mpr fun m hm hb => by
    rw [Bool.and_eq_true, beq_iff_eq, beq_iff_eq] at hb
    exact hg m hm hb.1 hb.2
  unfold State.cohSettle
  rw [if_neg (mt (s.cohPending_iff line).mp h), hf]

theorem State.cohSettle_gives {s : State} {line d : Nat}
    (h : ¬∃ m ∈ s.coh, m.line = line ∧ (m.kind = .inv ∨ m.kind = .ack ∨ m.kind = .wback))
    (hg : (⟨.getm, d, line⟩ : CohMsg) ∈ s.coh) (hu : ∀ d', (⟨.getm, d', line⟩ : CohMsg) ∈ s.coh → d' = d) :
    s.cohSettle line = (s.cohTake .getm d line).cohSend (.data .m) d line := by
  unfold State.cohSettle
  rw [if_neg (mt (s.cohPending_iff line).mp h)]
  cases hf : s.coh.find? (fun m => m.line == line && m.kind == .getm) with
  | none =>
    have := List.find?_eq_none.mp hf _ hg
    simp at this
  | some m =>
    obtain ⟨k, d', l⟩ := m
    have hp := List.find?_some (p := fun m : CohMsg => m.line == line && m.kind == .getm) hf
    rw [Bool.and_eq_true, beq_iff_eq, beq_iff_eq] at hp
    obtain ⟨rfl, rfl⟩ := hp
    rw [← hu d' (List.mem_of_find?_eq_some hf)]

theorem ack_atHome {s : State} {die line : Nat} (d : Nat) (h : (⟨.ack, die, line⟩ : CohMsg) ∈ s.coh) :
    let c := s.coh.erase ⟨.ack, die, line⟩
    let pending : Prop := ∃ m ∈ c, m.line = line ∧ (m.kind = .inv ∨ m.kind = .ack ∨ m.kind = .wback)
    (pending → exec (.ack die line) s = .next { s with coh := c }) ∧
    (¬pending → (∀ m ∈ c, m.line = line → m.kind ≠ .getm) → exec (.ack die line) s = .next { s with coh := c }) ∧
    (¬pending → (⟨.getm, d, line⟩ : CohMsg) ∈ c → (∀ d', (⟨.getm, d', line⟩ : CohMsg) ∈ c → d' = d) →
      exec (.ack die line) s = .next { s with coh := c.erase ⟨.getm, d, line⟩ ++ [⟨.data .m, d, line⟩] }) := by
  refine ⟨fun hp => ?_, fun hp hg => ?_, fun hp hg hu => ?_⟩ <;> rw [exec_ack_settles h]
  · rw [State.cohSettle_pending (s := s.cohTake .ack die line) hp] <;> rfl
  · rw [State.cohSettle_none (s := s.cohTake .ack die line) hp hg] <;> rfl
  · rw [State.cohSettle_gives (s := s.cohTake .ack die line) hp hg hu] <;> rfl

/-! WBACK and BINV. -/

theorem State.hostMoves_hbm {line : Nat} (h : isHost (128 * line) = false) (s : State) (src dst : Nat) : s.hostMoves src dst line = s :=
  if_neg (by rw [h, Bool.false_and]; decide)

theorem wback_atHome {s : State} {die line : Nat} (h : (⟨.wback, die, line⟩ : CohMsg) ∈ s.coh) (hl : (s.dirOf line).length = 4)
    (hh : cohHome line < 4) :
    ∃ t, exec (.wback die line) s = .next t ∧
      t.dieState line (cohHome line) = (if ∀ k ∈ List.range 4, k ≠ cohHome line → s.dieState line k = .i then .m else .o) ∧
      (∀ k, k ≠ cohHome line → t.dieState line k = s.dieState line k) ∧ t.mem = s.mem ∧ t.rf = s.rf ∧
      (isHost (128 * line) = false → (s.l2Mates (cohHome line) line).length < 16 →
        t.coh = s.coh.erase ⟨.wback, die, line⟩ ++ [⟨.ack, die, line⟩]) := by
  let s1 := (s.cohTake .wback die line).hostMoves die (cohHome line) line
  let x : Moesi := if (List.range 4).all (fun k => k == cohHome line || s1.dieState line k == .i) then .m else .o
  have hr : exec (.wback die line) s = .next ((s1.place (cohHome line) line x).cohSend .ack die line) := by
    rw [exec_wback, execWback, State.doWback, State.cohHas_of_mem h] <;> rfl
  have hs : ∀ k, s1.dieState line k = s.dieState line k := State.dieState_congr ((State.dirs_hostMoves ..).trans rfl) line
  have h1 : (s1.dirOf line).length = 4 :=
    (congrArg List.length (State.dirOf_congr ((State.dirs_hostMoves ..).trans rfl) line)).trans hl
  have hx : x = if ∀ k ∈ List.range 4, k ≠ cohHome line → s.dieState line k = .i then .m else .o := by
    have hiff : (List.range 4).all (fun k => k == cohHome line || s1.dieState line k == .i) = true ↔
        ∀ k ∈ List.range 4, k ≠ cohHome line → s.dieState line k = .i := by
      simp only [List.all_eq_true, Bool.or_eq_true, beq_iff_eq, hs, or_iff_not_imp_left, ne_eq]
    exact if_congr hiff rfl rfl
  have ht : ∀ k, ((s1.place (cohHome line) line x).cohSend .ack die line).dieState line k =
      (s1.setDie line (cohHome line) x).dieState line k := fun k =>
    (State.dieState_cohSend ..).trans (State.dieState_place ..)
  have hc : s.Cohered ((s1.place (cohHome line) line x).cohSend .ack die line) :=
    (((s.cohered_cohTake ..).trans (State.cohered_hostMoves ..)).trans (State.cohered_place ..)).trans (State.cohered_cohSend ..)
  refine ⟨_, hr, ?_, fun k hk => ?_, by rw [hc.same], by rw [hc.same], fun hh hroom => ?_⟩
  · rw [ht, State.dieState_setDie_self hh h1, hx]
  · rw [ht, State.dieState_setDie_ne _ _ hk, hs]
  · have hs1 : s1 = s.cohTake .wback die line := State.hostMoves_hbm hh ..
    rw [hs1, State.place_room (show ((s.cohTake .wback die line).l2Mates _ line).length < 16 from hroom)]
    rfl

/-- A recalled copy is gone, and its holder answers with its data where they are dirty (R272). -/
theorem State.recallCopy_drops {s : State} {die line : Nat} (hd : die < 4) (hl : (s.dirOf line).length = 4) :
    (s.recallCopy die line).dieState line die = .i ∧ (∀ k, k ≠ die → (s.recallCopy die line).dieState line k = s.dieState line k) ∧
    (s.recallCopy die line).coh =
      s.coh ++ [⟨if s.dieState line die = .m ∨ s.dieState line die = .o then .wback else .ack, die, line⟩] := by
  have hk : (if (s.dieState line die == .m || s.dieState line die == .o) = true then CohKind.wback else .ack) =
      if s.dieState line die = .m ∨ s.dieState line die = .o then .wback else .ack :=
    if_congr (by rw [Bool.or_eq_true, beq_iff_eq, beq_iff_eq]) rfl rfl
  obtain ⟨hi, hj, hq⟩ := State.dropped_dieState hd hl
    (if (s.dieState line die == .m || s.dieState line die == .o) = true then CohKind.wback else .ack)
  exact ⟨hi, hj, hk ▸ hq⟩

theorem binv_atHolder {s : State} {die line : Nat} (hd : die < 4) (hl : (s.dirOf line).length = 4) :
    let answer : CohMsg := ⟨if s.dieState line die = .m ∨ s.dieState line die = .o then .wback else .ack, die, line⟩
    let after (c : List CohMsg) : Prop := ∃ t, exec (.binv die line) s = .next t ∧ t.dieState line die = .i ∧
      (∀ k, k ≠ die → t.dieState line k = s.dieState line k) ∧ t.coh = c ∧ t.mem = s.mem ∧ t.rf = s.rf
    ((⟨.binv, die, line⟩ : CohMsg) ∈ s.coh → after (s.coh.erase ⟨.binv, die, line⟩ ++ [answer])) ∧
    (cached line = true → Spec.AtRest s line → die ≠ cohHome line → s.dieState line die ≠ .i →
      after (s.coh ++ ((List.range 4).filter (fun k => k != die && k != cohHome line && s.dieState line k != .i)).map
        (fun k => ⟨.binv, k, line⟩) ++ [answer])) := by
  have hr : exec (.binv die line) s = .next (s.doBinv die line) := (exec_binv ..).trans rfl
  have hc := s.cohered_doBinv die line
  refine ⟨fun h => ?_, fun hca hrest hn hi => ?_⟩
  · have he : s.doBinv die line = (s.cohTake .binv die line).recallCopy die line := if_pos (State.cohHas_of_mem h)
    obtain ⟨h1, h2, h3⟩ := State.recallCopy_drops (s := s.cohTake .binv die line) hd hl
    exact ⟨_, hr, by rw [he, h1], fun k hk => by rw [he, h2 k hk] <;> rfl, by rw [he, h3] <;> rfl, by rw [hc.same], by rw [hc.same]⟩
  · let ds := (List.range 4).filter (fun k => k != die && k != cohHome line && s.dieState line k != .i)
    let s1 : State := { s with coh := s.coh ++ ds.map (fun k => ⟨.binv, k, line⟩) }
    have hno : ¬s.cohHas .binv die line = true := fun hb => by
      rcases hrest _ (List.contains_iff_mem.mp hb) rfl with hk | hk <;> exact CohKind.noConfusion hk
    have hlisted : die ∈ s.listed line := List.mem_filter.mpr ⟨List.mem_range.mpr hd, by
      rw [Bool.and_eq_true, bne_iff_ne, bne_iff_ne]
      exact ⟨hn, hi⟩⟩
    have hds : (s.listed line).filter (· != die) = ds := by
      unfold State.listed
      rw [List.filter_filter]
      exact List.filter_congr fun k _ => (Bool.and_assoc ..).symm
    have he : s.doBinv die line = s1.recallCopy die line := by
      unfold State.doBinv
      rw [if_neg hno, hca, State.cohBusy_of_atRest hrest, if_neg (by simp [hlisted]), hds, State.foldl_cohSend]
    obtain ⟨h1, h2, h3⟩ := State.recallCopy_drops (s := s1) hd hl
    exact ⟨_, hr, by rw [he, h1], fun k hk => by rw [he, h2 k hk] <;> rfl, by rw [he, h3] <;> rfl, by rw [hc.same], by rw [hc.same]⟩

end Sys2Proof.Machine

namespace Sys2Proof

open Machine

/-- Settles O41: each message's step is an equation for the messages left, and the states of its line are read off `setDie`. -/
theorem coherenceMessages : Obligations.CoherenceMessages := by
  unfold Obligations.CoherenceMessages
  exact ⟨fun _ _ part _ hc hr hi hq => State.cohAsk_asks part hc hr hi hq,
    fun _ _ _ hc hr hm hq => State.cohWrite_asks hc hr hm hq,
    fun _ _ _ h hr => reads_atHome h hr,
    fun _ _ _ h hr => readm_atHome h hr,
    fun _ _ _ _ ho hl h => fwd_atOwner ho hl h,
    fun _ _ _ _ hd hl h hu => data_atRequester hd hl h hu,
    fun _ _ _ hd hl h => inv_atSharer hd hl h,
    fun _ _ d _ h => ack_atHome d h,
    fun _ _ _ h hl hh => wback_atHome h hl hh,
    fun _ _ _ hd hl => binv_atHolder hd hl⟩

end Sys2Proof

end

section
/-!
PROOFS. Messages: arrival, full reply, resending and refusal (R217 to R220, R322, R326, R327).
-/

namespace Sys2Proof.Machine

/-! Rings and queues. -/

theorem State.ringHeld_none {s : State} {gs port : Nat} (h : s.chanOf gs port = none) : s.ringHeld gs port = false := by
  unfold State.ringHeld
  rw [h]

/-- A payload enters the queue itself where there is room and the ring, if there is one, is empty. -/
theorem State.arrive_queue {s : State} {gs port : Nat} (hh : s.ringHeld gs port = false)
    (hr : ∀ k c, s.chanOf gs port = some (k, c) → c.count = 0) (hq : (s.thread gs).queueRoom port = true) (v : Word) :
    s.arrive gs port v = some (s.setThread gs ((s.thread gs).enqueue port v)) := by
  have hcount : ((s.chanOf gs port).map (fun p => p.2.count)).getD 0 = 0 := by
    cases hc : s.chanOf gs port with
    | none => rfl
    | some p => exact hr p.1 p.2 hc
  unfold State.arrive
  rw [hh]
  dsimp only
  rw [if_neg (by decide), if_pos ⟨hq, hcount⟩]

theorem State.arrive_full {s : State} {gs port : Nat} (hc : s.chanOf gs port = none) (hq : (s.thread gs).queueRoom port = false)
    (v : Word) : s.arrive gs port v = none := by
  unfold State.arrive
  rw [State.ringHeld_none hc, hc]
  dsimp only
  rw [hq, if_neg (by decide), if_neg (by decide)]

/-- A payload that does not enter the queue goes behind what its ring holds, while the ring has a place. -/
theorem State.arrive_ring {s : State} {gs port k : Nat} {c : Chan} (hh : s.ringHeld gs port = false) (hc : s.chanOf gs port = some (k, c))
    (hq : (s.thread gs).queueRoom port = false ∨ 0 < c.count) (v : Word) :
    s.arrive gs port v = if c.rlog ≠ 0 ∧ c.count < 2 ^ c.rlog then
      some (({ s with chans := mput s.chans k { c with count := c.count + 1 } } : State).performAll none
        [.write (c.ringAddr (c.head + c.count)) (leBytes 8 v.toNat)]) else none := by
  have hno : ¬((s.thread gs).queueRoom port = true ∧ c.count = 0) := fun ⟨h1, h2⟩ => by
    rcases hq with h | h
    · rw [h1] at h
      exact Bool.noConfusion h
    · omega
  unfold State.arrive
  rw [hh, hc]
  dsimp only
  rw [if_neg (by decide), if_neg (show ¬((s.thread gs).queueRoom port = true ∧
    ((some (k, c)).map (fun p : Nat × Chan => p.2.count)).getD 0 = 0) from hno)]

theorem State.refillOne_moves {s : State} {gs port k : Nat} {c : Chan} (hc : s.chanOf gs port = some (k, c)) (h0 : 0 < c.count)
    (hq : (s.thread gs).queueRoom port = true) (hh : s.ringHeld gs port = false) :
    s.refillOne gs port = ({ s with
      chans := mput s.chans k { c with head := (c.head + 1) % 2 ^ c.rlog, count := c.count - 1 } } : State).setThread gs
        ((s.thread gs).enqueue port (s.dwordAt (spadAddr (coreOf c.gs) (c.roff + 8 * (c.head % 2 ^ c.rlog))))) := by
  unfold State.refillOne
  rw [hc]
  exact if_pos ⟨h0, hq, by rw [hh]; rfl⟩

theorem State.refillOne_keeps {s : State} {gs port k : Nat} {c : Chan} (hc : s.chanOf gs port = some (k, c))
    (h : c.count = 0 ∨ (s.thread gs).queueRoom port = false) : s.refillOne gs port = s := by
  unfold State.refillOne
  rw [hc]
  refine if_neg fun ⟨h1, h2, _⟩ => ?_
  rcases h with h | h
  · omega
  · rw [h] at h2
    exact Bool.noConfusion h2

theorem Thread.p15_enqueue (t : Thread) (v : Word) : (t.enqueue 15 v).p15 = t.p15 ++ [v] := by
  unfold Thread.enqueue
  rw [if_pos rfl]

/-! Arrival (R217, R218, R220). -/

/-- A message that travels and is the first of its sender to its target reaches its target, or the parking queue of a stopped cluster. -/
theorem exec_messageArrival_first {s : State} {mid : Nat} {m : Msg} (h : s.msgOf mid = some m) (hs : m.state = .flying ∨ m.state = .resent)
    (hf : s.msgFirst m = true) :
    exec (.messageArrival mid) s = if s.parkedMsg m = true then
      (if 16384 ≤ s.parkedBefore m then .next (s.setMsg m.id m.turnedAway) else .next s) else .next (s.msgArrive m) := by
  have hno : ¬((m.state ≠ .flying ∧ m.state ≠ .resent) ∨ (!s.msgFirst m) = true) := by
    rintro (⟨h1, h2⟩ | h1)
    · exact hs.elim h1 h2
    · rw [hf] at h1
      exact Bool.noConfusion h1
  rw [exec_messageArrival, execMessageArrival, h]
  exact if_neg hno

theorem exec_messageArrival_arrives {s : State} {mid : Nat} {m : Msg} (h : s.msgOf mid = some m)
    (hs : m.state = .flying ∨ m.state = .resent) (hf : s.msgFirst m = true) (hp : s.parkedMsg m = false) :
    exec (.messageArrival mid) s = .next (s.msgArrive m) :=
  (exec_messageArrival_first h hs hf).trans (if_neg (by rw [hp]; decide))

theorem State.msgArrive_waits {s : State} {m : Msg} {gs port : Nat} (hm : s.msgPort m = some (gs, port))
    (hh : s.ringHeld gs port = true) : s.msgArrive m = s := by
  have ha : s.arrive gs port m.payload = none := if_pos hh
  unfold State.msgArrive
  rw [hm]
  dsimp only
  rw [ha]
  exact if_pos hh

theorem State.msgArrive_enters {s s1 : State} {m : Msg} {gs port : Nat} (hm : s.msgPort m = some (gs, port))
    (ha : s.arrive gs port m.payload = some s1) : s.msgArrive m = { s1 with msgs := s1.msgs.filter (fun x => x.id != m.id) } := by
  unfold State.msgArrive
  rw [hm]
  dsimp only
  rw [ha]

theorem State.msgArrive_full {s : State} {m : Msg} {gs port : Nat} (hm : s.msgPort m = some (gs, port))
    (hh : s.ringHeld gs port = false) (ha : s.arrive gs port m.payload = none) : s.msgArrive m = s.setMsg m.id m.turnedAway := by
  unfold State.msgArrive
  rw [hm]
  dsimp only
  rw [ha]
  exact if_neg (by rw [hh]; decide)

theorem State.msgArrive_none {s : State} {m : Msg} (hm : s.msgPort m = none) :
    s.msgArrive m = s.setMsg m.id (if s.absentFor m then m.turnedAway else .refused) := by
  unfold State.msgArrive
  rw [hm]

theorem messageArrival_atPort {mid gs port : Nat} {m : Msg} {s : State} (h : s.msgOf mid = some m)
    (hs : m.state = .flying ∨ m.state = .resent) (hf : s.msgFirst m = true) (hp : s.parkedMsg m = false)
    (hm : s.msgPort m = some (gs, port)) :
    let full := s.setMsg m.id (if m.state = .resent then .held else .full)
    (s.ringHeld gs port = true → exec (.messageArrival mid) s = .next s) ∧
    (s.ringHeld gs port = false → (∀ k c, s.chanOf gs port = some (k, c) → c.count = 0) → (s.thread gs).queueRoom port = true →
      ∃ t, exec (.messageArrival mid) s = .next t ∧ t.thread gs = (s.thread gs).enqueue port m.payload ∧ t.chans = s.chans ∧
        (∀ x ∈ t.msgs, x.id ≠ m.id) ∧ (∀ g, g ≠ gs → t.thread g = s.thread g) ∧ t.rf = s.rf ∧ t.mem = s.mem) ∧
    (s.chanOf gs port = none → (s.thread gs).queueRoom port = false → exec (.messageArrival mid) s = .next full) ∧
    (∀ k c, s.ringHeld gs port = false → s.chanOf gs port = some (k, c) → (s.thread gs).queueRoom port = false ∨ 0 < c.count →
      (c.rlog ≠ 0 → c.count < 2 ^ c.rlog →
        let w := ({ s with chans := mput s.chans k { c with count := c.count + 1 } } : State).performAll none
          [.write (spadAddr (coreOf c.gs) (c.roff + 8 * ((c.head + c.count) % 2 ^ c.rlog))) (leBytes 8 m.payload.toNat)]
        exec (.messageArrival mid) s = .next { w with msgs := w.msgs.filter (fun x => x.id != m.id) }) ∧
      (c.rlog = 0 ∨ 2 ^ c.rlog ≤ c.count → exec (.messageArrival mid) s = .next full)) := by
  have he := exec_messageArrival_arrives h hs hf hp
  refine ⟨fun hh => ?_, fun hh hr hq => ?_, fun hc hq => ?_, fun k c hh hc hq => ⟨fun h0 hlt => ?_, fun hno => ?_⟩⟩
  · rw [he, State.msgArrive_waits hm hh]
  · rw [he, State.msgArrive_enters hm (State.arrive_queue hh hr hq _)]
    exact ⟨_, rfl, State.thread_setThread_self .., rfl, fun x hx => bne_iff_ne.mp (List.mem_filter.mp hx).2,
      fun g hg => State.thread_setThread_ne _ _ hg, rfl, rfl⟩
  · rw [he, State.msgArrive_full hm (State.ringHeld_none hc) (State.arrive_full hc hq _)] <;> rfl
  · rw [he, State.msgArrive_enters hm ((State.arrive_ring hh hc hq _).trans (if_pos ⟨h0, hlt⟩))] <;> rfl
  · have hn : ¬(c.rlog ≠ 0 ∧ c.count < 2 ^ c.rlog) := fun ⟨h1, h2⟩ => hno.elim h1 (fun h3 => absurd h2 (Nat.not_lt.mpr h3))
    rw [he, State.msgArrive_full hm hh ((State.arrive_ring hh hc hq _).trans (if_neg hn))] <;> rfl

theorem State.msgPort_channel {s : State} {gc n : Nat} {m : Msg} {c : Chan} (hk : tgKind m.word = 1)
    (ht : s.targetPlace m.vf m.lid (coreOf m.gs) m.word = some (gc, n)) (hc : mget s.chans (65536 * gc + m.chan) = some c)
    (hs : c.gs < noSlot) (hp : s.partOf c.gs = s.msgPart m) : s.msgPort m = some (c.gs, c.port) := by
  unfold State.msgPort
  rw [ht]
  dsimp only
  rw [if_pos hk, hc]
  exact if_pos ⟨hs, hp⟩

theorem messageArrival_awaited {mid : Nat} {m : Msg} {s : State} (h : s.msgOf mid = some m)
    (hs : m.state = .flying ∨ m.state = .resent) (hf : s.msgFirst m = true) :
    let full := s.setMsg m.id (if m.state = .resent then .held else .full)
    (s.parkedMsg m = true → exec (.messageArrival mid) s = .next (if 16384 ≤ s.parkedBefore m then full else s)) ∧
    (s.parkedMsg m = false → s.absentFor m = true → exec (.messageArrival mid) s = .next full) := by
  refine ⟨fun hp => ?_, fun hp ha => ?_⟩
  · rw [exec_messageArrival_first h hs hf, if_pos hp, apply_ite Host.Outcome.next] <;> rfl
  · have hm : s.msgPort m = none := by
      unfold State.absentFor at ha
      rw [Bool.and_eq_true] at ha
      exact Option.isNone_iff_eq_none.mp ha.1
    rw [exec_messageArrival_arrives h hs hf hp, State.msgArrive_none hm, if_pos ha] <;> rfl

theorem messageArrival_refused {mid : Nat} {m : Msg} {s : State} (h : s.msgOf mid = some m)
    (hs : m.state = .flying ∨ m.state = .resent) (hf : s.msgFirst m = true) (hp : s.parkedMsg m = false) (hm : s.msgPort m = none)
    (ha : s.absentFor m = false) : exec (.messageArrival mid) s = .next (s.setMsg m.id .refused) := by
  rw [exec_messageArrival_arrives h hs hf hp, State.msgArrive_none hm, if_neg (by rw [ha]; decide)]

/-! Full replies, resending and refusals. -/

theorem fullReply_holds {mid : Nat} {m : Msg} {s : State} (h : s.msgOf mid = some m) (hs : m.state = .full) (ha : s.answers m.gs = true) :
    exec (.fullReply mid) s = .next (s.setMsg mid .held) := by
  rw [exec_fullReply, execFullReply, h]
  exact if_pos ⟨hs, ha⟩

theorem messageResend_resends (gs : Nat) (s : State) : ∃ t, exec (.messageResend gs) s = .next t ∧ t.mem = s.mem ∧ t.threads = s.threads ∧
    t.msgs.length = s.msgs.length ∧
    (∀ m ∈ s.msgs, (m.gs ≠ gs ∨ m.state ≠ .held) → m ∈ t.msgs) ∧
    (∀ m ∈ s.msgs, m.gs = gs → m.state = .held → s.runs gs = true → s.parkedMsg m = false → s.wouldTake m = true →
      { m with state := .resent } ∈ t.msgs) := by
  refine ⟨_, exec_messageResend gs s, rfl, rfl, List.length_map .., fun m hm hne => ?_, fun m hm hg hs hr hp hw => ?_⟩
  · exact List.mem_map.mpr ⟨m, hm, if_neg fun ⟨hg, hs, _⟩ => hne.elim (absurd hg) (absurd hs)⟩
  · exact List.mem_map.mpr ⟨m, hm, if_pos ⟨hg, hs, hr, by rw [hp]; rfl, hw⟩⟩

/-- A sender with a message held for space issues nothing (R218). -/
theorem State.mayIssue_held {s : State} {gs : Nat} {m : Msg} (hm : m ∈ s.msgs) (hu : m.uid = (s.thread gs).uid)
    (hs : m.state = .held ∨ m.state = .resent) : s.mayIssue gs = false := by
  have hany : s.msgs.any (fun x => x.uid == (s.thread gs).uid && (x.state == .held || x.state == .resent)) = true :=
    List.any_eq_true.mpr ⟨m, hm, by
      rw [Bool.and_eq_true, Bool.or_eq_true, beq_iff_eq, beq_iff_eq, beq_iff_eq]
      exact ⟨hu, hs⟩⟩
  unfold State.mayIssue
  dsimp only
  rw [hany, Bool.not_true, Bool.and_false]

theorem messageRefusal_returns {mid : Nat} {m : Msg} {s : State} (h : s.msgOf mid = some m) (hs : m.state = .refused)
    (ha : s.answers m.gs = true) :
    ((s.thread m.gs).live = true → (s.thread m.gs).uid = m.uid → (s.thread m.gs).stopping = false →
      ∃ t, exec (.messageRefusal mid) s = .next t ∧ (∀ x ∈ t.msgs, x.id ≠ mid) ∧ t.mem = s.mem ∧ t.rf = s.rf ∧
        t.thread m.gs = { s.thread m.gs with refused := (s.thread m.gs).refused ++ [(m.word, m.payload)] } ∧
        (∀ g, g ≠ m.gs → t.thread g = s.thread g)) ∧
    ((s.thread m.gs).uid ≠ m.uid → m.vf = none →
      exec (.messageRefusal mid) s = .next { s with msgs := s.msgs.filter (fun x => x.id != mid) }) := by
  let s1 : State := { s with msgs := s.msgs.filter (fun x => x.id != mid) }
  refine ⟨fun hl hu hst => ?_, fun hu hv => ?_⟩
  · refine ⟨s1.setThread m.gs { s.thread m.gs with refused := (s.thread m.gs).refused ++ [(m.word, m.payload)] }, ?_,
      fun x hx => bne_iff_ne.mp (List.mem_filter.mp hx).2, rfl, rfl, State.thread_setThread_self ..,
      fun g hg => State.thread_setThread_ne _ _ hg⟩
    rw [exec_messageRefusal, execMessageRefusal, h]
    dsimp only
    rw [if_pos ⟨hs, ha⟩]
    exact if_pos (show (s.thread m.gs).live = true ∧ _ ∧ _ from ⟨hl, hu, by rw [State.thread_congr (t := s1) (s := s) rfl, hst]; rfl⟩)
  · rw [exec_messageRefusal, execMessageRefusal, h]
    dsimp only
    rw [if_pos ⟨hs, ha⟩]
    refine (if_neg (show ¬((s.thread m.gs).live = true ∧ (s.thread m.gs).uid = m.uid ∧ _) from fun hc => hu hc.2.1)).trans ?_
    rw [hv]

end Sys2Proof.Machine

namespace Sys2Proof

open Machine

/-- Settles O42: what an arriving message does turns on the port that takes it, its ring and the room of its queue. -/
theorem messageEvents : Obligations.MessageEvents := by
  unfold Obligations.MessageEvents
  exact ⟨fun _ _ _ _ _ h hs hf hp hm => messageArrival_atPort h hs hf hp hm,
    fun _ _ _ _ _ hc => ⟨fun h0 hq hh => State.refillOne_moves hc h0 hq hh, fun h => State.refillOne_keeps hc h⟩,
    fun _ _ _ _ _ hk ht hc hs hp => State.msgPort_channel hk ht hc hs hp,
    fun _ _ _ h hs hf => messageArrival_awaited h hs hf,
    fun _ _ _ h hs hf hp hm ha => messageArrival_refused h hs hf hp hm ha,
    fun t v => Thread.p15_enqueue t v,
    fun _ _ _ h hs ha => fullReply_holds h hs ha,
    messageResend_resends,
    fun _ _ _ hm hu hs => State.mayIssue_held hm hu hs,
    fun _ _ _ h hs ha => messageRefusal_returns h hs ha⟩

end Sys2Proof

end

section
/-!
PROOFS. Homes of reservations, edge operations and the timeouts of sleeps (R128 to R133, R144, R147, R149, R260, R342).
-/

namespace Sys2Proof.Machine

/-! Reservation homes (R130, R132, R133). -/

/-- After `cohKeep` no die but the home of a locked line holds a copy. -/
theorem State.dieState_cohKeep {s : State} {l k : Nat} (h : k ≠ cohHome l ∨ mget s.locks l = none) (x : Moesi) :
    (s.cohKeep l x).dieState l k = .i := by
  unfold State.cohKeep State.dieState State.dirOf
  dsimp only
  rw [State.l1Drops_dirs]
  unfold State.setDir
  rw [mgetD_mset_self, show ([.i, .i, .i, .i] : List Moesi) = List.replicate 4 .i from rfl, List.getD_eq_getElem?_getD]
  rcases h with h | h
  · rw [List.getElem?_set_ne (Ne.symm h), List.getElem?_replicate]
    split <;> rfl
  · rw [h, if_neg (by simp), List.set_replicate_self, List.getElem?_replicate]
    split <;> rfl

theorem State.dieState_cohDrop {s : State} {l k : Nat} (hc : cached l = true) (h : k ≠ cohHome l ∨ mget s.locks l = none) :
    (s.cohDrop l).dieState l k = .i := by
  have hl : (s.cohRecall .inv l).locks = s.locks := by rw [(s.cohered_cohRecall _ _).same]
  unfold State.cohDrop
  rw [if_pos hc]
  exact State.dieState_cohKeep (hl ▸ h) .m

/-- The request at the head of a word's queue is served or refused at once, where it is due. -/
theorem exec_qresHead_head {s : State} {pa p n gs : Nat} {rest : List Nat} {b : Bool} (h : mgetD s.homes pa ⟨[], false⟩ = ⟨gs :: rest, b⟩)
    (hold : (s.thread gs).hold = some (.qresWait p n)) :
    exec (.qresHead pa) s = if s.holderOf pa = true ∨ s.remotePending pa n = true ∨ ((s.thread gs).det && !s.keyTurn gs) = true then .next s
      else if b = true then .next (({ s.cohDrop (lineOf pa) with homes := mput s.homes pa ⟨rest, false⟩ } : State).setThread gs
        { s.thread gs with hold := some (.qresReply 0 true), resv := some ⟨pa, n, true, s.natAt pa n⟩ })
      else if s.poisoned (pa / 8) = true then .next (({ s with homes := mput s.homes pa ⟨rest, true⟩ } : State).setThread gs
        { s.thread gs with hold := some .qresPoison })
      else .next (({ s.cohDrop (lineOf pa) with homes := mput s.homes pa ⟨rest, false⟩ } : State).setThread gs
        { s.thread gs with
          hold := some (.qresReply (BitVec.ofNat 64 (s.natAt pa n)) false), resv := some ⟨pa, n, false, s.natAt pa n⟩ }) := by
  rw [exec_qresHead, execQresHead, h]
  dsimp only
  rw [hold] <;> simp only [Bool.and_eq_true, Bool.not_eq_true']

/-- A served request: the thread has its answer and the reservation, and no cache holds the line. -/
theorem qresHead_served {s : State} {pa n gs : Nat} {rest : List Nat} (b : Bool) (th : Thread) :
    let t := ({ s.cohDrop (lineOf pa) with homes := mput s.homes pa ⟨rest, false⟩ } : State).setThread gs th
    (cached (lineOf pa) = true → ∀ k, k ≠ cohHome (lineOf pa) ∨ mget s.locks (lineOf pa) = none → t.dieState (lineOf pa) k = .i) ∧
    mgetD t.homes pa ⟨[], false⟩ = ⟨rest, false⟩ ∧ t.mem = s.mem ∧ t.rf = s.rf ∧ t.thread gs = th ∧
    (∀ g, g ≠ gs → t.thread g = s.thread g) := by
  have hc := s.cohered_cohDrop (lineOf pa)
  refine ⟨fun hca k hk => State.dieState_cohDrop hca hk, ?_, ?_, ?_, State.thread_setThread_self .., fun g hg => ?_⟩
  · exact congrArg (Option.getD · _) (mget_mput_self ..)
  · exact (congrArg State.mem hc.same).trans rfl
  · exact (congrArg State.rf hc.same).trans rfl
  · exact (State.thread_setThread_ne _ _ hg).trans (State.thread_congr hc.threads g)

theorem qresHead_serves {s : State} {pa p n gs : Nat} {rest : List Nat} {b : Bool} (h : mgetD s.homes pa ⟨[], false⟩ = ⟨gs :: rest, b⟩)
    (hold : (s.thread gs).hold = some (.qresWait p n)) :
    let due : Prop := s.holderOf pa = false ∧ s.remotePending pa n = false ∧ ((s.thread gs).det = true → s.keyTurn gs = true)
    (¬due → exec (.qresHead pa) s = .next s) ∧
    (due → b = true ∨ s.poisoned (pa / 8) = false →
      ∃ t, (cached (lineOf pa) = true → ∀ k, k ≠ cohHome (lineOf pa) ∨ mget s.locks (lineOf pa) = none → t.dieState (lineOf pa) k = .i) ∧
        exec (.qresHead pa) s = .next t ∧ mgetD t.homes pa ⟨[], false⟩ = ⟨rest, false⟩ ∧ t.mem = s.mem ∧ t.rf = s.rf ∧
        t.thread gs = { s.thread gs with
          hold := some (if b then .qresReply 0 true else .qresReply (BitVec.ofNat 64 (s.natAt pa n)) false)
          resv := some ⟨pa, n, b, s.natAt pa n⟩ } ∧
        (∀ g, g ≠ gs → t.thread g = s.thread g)) ∧
    (due → b = false → s.poisoned (pa / 8) = true →
      ∃ t, exec (.qresHead pa) s = .next t ∧ t.thread gs = { s.thread gs with hold := some .qresPoison } ∧ t.mem = s.mem) := by
  have he := exec_qresHead_head h hold
  have hdue : (s.holderOf pa = true ∨ s.remotePending pa n = true ∨ ((s.thread gs).det && !s.keyTurn gs) = true) ↔
      ¬(s.holderOf pa = false ∧ s.remotePending pa n = false ∧ ((s.thread gs).det = true → s.keyTurn gs = true)) := by
    cases s.holderOf pa <;> cases s.remotePending pa n <;> cases (s.thread gs).det <;> cases s.keyTurn gs <;> decide
  refine ⟨fun hd => he.trans (if_pos (hdue.mpr hd)), fun hd hb => ?_, fun hd hb hp => ?_⟩
  · rw [if_neg (fun hc => hdue.mp hc hd)] at he
    cases b with
    | true =>
      rw [if_pos rfl] at he
      obtain ⟨h1, h2, h3, h4, h5, h6⟩ := qresHead_served (s := s) (pa := pa) (n := n) (gs := gs) (rest := rest) true
        { s.thread gs with hold := some (.qresReply 0 true), resv := some ⟨pa, n, true, s.natAt pa n⟩ }
      exact ⟨_, h1, he, h2, h3, h4, h5, h6⟩
    | false =>
      rw [if_neg (by decide), if_neg (by rw [hb.resolve_left (by decide)]; decide)] at he
      obtain ⟨h1, h2, h3, h4, h5, h6⟩ := qresHead_served (s := s) (pa := pa) (n := n) (gs := gs) (rest := rest) false
        { s.thread gs with
          hold := some (.qresReply (BitVec.ofNat 64 (s.natAt pa n)) false), resv := some ⟨pa, n, false, s.natAt pa n⟩ }
      exact ⟨_, h1, he, h2, h3, h4, h5, h6⟩
  · rw [if_neg (fun hc => hdue.mp hc hd), hb, if_neg (by decide), if_pos hp] at he
    exact ⟨_, he, State.thread_setThread_self .., rfl⟩

theorem qrelAck_acks {gs p : Nat} {s : State} (h : (s.thread gs).hold = some (.qrelWait p)) :
    ∃ t, exec (.qrelAck gs) s = .next t ∧ Spec.OnlyThread s t gs { s.thread gs with hold := some .qrelDone } := by
  refine ⟨_, ?_, onlyThread_setThread s gs _⟩
  rw [exec_qrelAck, execQrelAck]
  dsimp only
  rw [h]

/-! Edge atomics (R128, R129). -/

/-- The answer to an edge atomic stands in its thread. -/
def State.edgeAnswer (s : State) (gs : Nat) (ret : Bool) (a : EdgeAnswer) : State :=
  s.setThread gs { s.thread gs with hold := some (.edgeDone a ret) }

/-- The write of an edge atomic in the package or at the host, at its place in the order. -/
def State.edgeWrites (s : State) (gs pa n : Nat) (bs : List Byte) : State :=
  let s1 := s.noteGrant gs kindSingle 1 (s.levelOf gs kindSingle (linesOf pa n))
  if isHost pa then s1.performAll none [.edge pa bs] else s1.performAll (some gs) [.write pa bs]

/-- What the home of an edge atomic does, once no remote store is on its way to its bytes. -/
def State.edgeAtHome (s : State) (gs pa n op v : Nat) (ret : Bool) : Outcome :=
  let bs := leBytes n (atomicOp op n (s.natAt pa n) v)
  if isPeer pa then
    if !s.peerUp (peerDev pa) then .next s else
    match peerFault s.fresh pa with
    | some .dataPoison => .next { s.edgeAnswer gs ret .poison with fresh := s.fresh + 1 }
    | some c => .next { s.edgeAnswer gs ret (.fault c) with fresh := s.fresh + 1 }
    | none => .next { (s.setBytes pa bs).edgeAnswer gs ret (.old (s.natAt pa n)) with fresh := s.fresh + 1 }
  else if s.poisoned (pa / 8) then .next (s.edgeAnswer gs ret .poison)
  else
    match s.gate gs kindSingle 1 with
    | .wait => .next s
    | .diverge e => .next (s.divergence gs kindSingle 1 e)
    | .go =>
      match s.requestWait (s.singleReq gs s.cycle [.write pa bs]) with
      | some w => .next w
      | none => .next ((s.edgeWrites gs pa n bs).edgeAnswer gs ret (.old (s.natAt pa n)))

theorem exec_edgeAtomicAtHome_waits {s : State} {gs pa n op v : Nat} {ret : Bool}
    (h : (s.thread gs).hold = some (.edgeWait pa n op v ret)) (hr : s.remotePending pa n = false) :
    exec (.edgeAtomicAtHome gs) s = s.edgeAtHome gs pa n op v ret := by
  rw [exec_edgeAtomicAtHome, execEdgeAtomicAtHome]
  dsimp only
  rw [h]
  dsimp only
  rw [hr, if_neg (by decide)] <;> rfl

theorem edgeAtomicAtHome_answers {s : State} {gs pa n op v : Nat} {ret : Bool}
    (h : (s.thread gs).hold = some (.edgeWait pa n op v ret)) (hr : s.remotePending pa n = false) :
    let old := s.natAt pa n
    let bs := leBytes n (atomicOp op n old v)
    let answer (z : State) (a : EdgeAnswer) : State := z.setThread gs { z.thread gs with hold := some (.edgeDone a ret) }
    (isPeer pa = true → s.peerUp (peerDev pa) = false → exec (.edgeAtomicAtHome gs) s = .next s) ∧
    (isPeer pa = true → s.peerUp (peerDev pa) = true → exec (.edgeAtomicAtHome gs) s = .next (match peerFault s.fresh pa with
      | some .dataPoison => { answer s .poison with fresh := s.fresh + 1 }
      | some c => { answer s (.fault c) with fresh := s.fresh + 1 }
      | none => { answer (s.setBytes pa bs) (.old old) with fresh := s.fresh + 1 })) ∧
    (isPeer pa = false → s.poisoned (pa / 8) = true → exec (.edgeAtomicAtHome gs) s = .next (answer s .poison)) ∧
    (isPeer pa = false → s.poisoned (pa / 8) = false → s.gate gs kindSingle 1 = .go →
      ∀ w, s.requestWait (s.singleReq gs s.cycle [.write pa bs]) = some w → exec (.edgeAtomicAtHome gs) s = .next w) ∧
    (isPeer pa = false → s.poisoned (pa / 8) = false → s.gate gs kindSingle 1 = .go →
      s.requestWait (s.singleReq gs s.cycle [.write pa bs]) = none →
      let s1 := s.noteGrant gs kindSingle 1 (s.levelOf gs kindSingle (linesOf pa n))
      exec (.edgeAtomicAtHome gs) s = .next (answer
        (if isHost pa then s1.performAll none [.edge pa bs] else s1.performAll (some gs) [.write pa bs]) (.old old))) := by
  have he := exec_edgeAtomicAtHome_waits h hr
  unfold State.edgeAtHome at he
  dsimp only at he
  refine ⟨fun hp hu => ?_, fun hp hu => ?_, fun hp hx => ?_, fun hp hx hg w hw => ?_, fun hp hx hg hw => ?_⟩
  · rw [he, if_pos hp, hu] <;> rfl
  · rw [he, if_pos hp, hu, if_neg (by decide)]
    split <;> rfl
  · rw [he, hp, hx, if_neg (by decide), if_pos rfl] <;> rfl
  · rw [he, hp, hx, if_neg (by decide), if_neg (by decide), hg]
    dsimp only
    rw [hw]
  · rw [he, hp, hx, if_neg (by decide), if_neg (by decide), hg]
    dsimp only
    rw [hw] <;> rfl

theorem edgeAtomicResponse_replies {gs : Nat} {v : EdgeAnswer} {ret : Bool} {s : State} (h : (s.thread gs).hold = some (.edgeDone v ret)) :
    ∃ t, exec (.edgeAtomicResponse gs) s = .next t ∧
      Spec.OnlyThread s t gs { s.thread gs with hold := some (.edgeReply v), edges := (s.thread gs).edges - 1 } := by
  refine ⟨_, ?_, onlyThread_setThread s gs _⟩
  rw [exec_edgeAtomicResponse, execEdgeAtomicResponse]
  dsimp only
  rw [h]

/-! Edge writes (R144, R260). -/

theorem State.edgeGone_keeps (s : State) (e : EdgeWrite) : (∀ x ∈ (s.edgeGone e).edges, x.id ≠ e.id) ∧
    (s.edgeGone e).mem = s.mem ∧ (s.edgeGone e).peer = s.peer ∧ (s.edgeGone e).hring = s.hring := by
  have hf : ∀ x ∈ s.edges.filter (fun x => x.id != e.id), x.id ≠ e.id := fun x hx => bne_iff_ne.mp (List.mem_filter.mp hx).2
  unfold State.edgeGone
  dsimp only
  split
  · exact ⟨hf, rfl, rfl, rfl⟩
  · exact ⟨hf, rfl, rfl, rfl⟩

theorem State.thread_edgeGone {s : State} {e : EdgeWrite} (hc : e.copy = none) (hu : (s.thread e.gs).uid = e.uid) :
    (s.edgeGone e).thread e.gs = { s.thread e.gs with edges := (s.thread e.gs).edges - 1 } := by
  unfold State.edgeGone
  dsimp only
  rw [if_pos ⟨hc, hu⟩, State.thread_setThread_self]

theorem edgeWriteAck_acks {eid : Nat} {e : EdgeWrite} {s : State} (h : s.edges.find? (fun x => x.id == eid) = some e) (hc : e.copy = none) :
    let s1 := if isPeer (64 * e.piece) then e.bytes.foldl (fun (z : State) p => z.setByte p.1 p.2) s else s
    (isPeer (64 * e.piece) = true → s.peerUp (peerDev (64 * e.piece)) = false → exec (.edgeWriteAck eid) s = .next s) ∧
    ((isPeer (64 * e.piece) = true → s.peerUp (peerDev (64 * e.piece)) = true) → ∃ t, exec (.edgeWriteAck eid) s = .next t ∧
      (∀ x ∈ t.edges, x.id ≠ e.id) ∧ t.mem = s1.mem ∧ t.peer = s1.peer ∧
      ((s1.thread e.gs).uid = e.uid → t.thread e.gs = { s1.thread e.gs with edges := (s1.thread e.gs).edges - 1 })) := by
  let s1 := if isPeer (64 * e.piece) then e.bytes.foldl (fun (z : State) p => z.setByte p.1 p.2) s else s
  have he : exec (.edgeWriteAck eid) s = if (isPeer (64 * e.piece) && !s.peerUp (peerDev (64 * e.piece))) = true then .next s
      else .next (s1.edgeGone e) := by
    rw [exec_edgeWriteAck, execEdgeWriteAck, h] <;> rfl
  refine ⟨fun hp hu => he.trans (if_pos (by rw [hp, hu]; decide)), fun hu => ?_⟩
  have hno : ¬(isPeer (64 * e.piece) && !s.peerUp (peerDev (64 * e.piece))) = true := fun hb => by
    rw [Bool.and_eq_true] at hb
    rw [hu hb.1] at hb
    exact Bool.noConfusion hb.2
  obtain ⟨h1, h2, h3, _⟩ := s1.edgeGone_keeps e
  exact ⟨_, he.trans (if_neg hno), h1, h2, h3, fun hu => State.thread_edgeGone hc hu⟩

theorem State.postHyper_off {s : State} (h : bits s.hring 4 0 = 0) (type part vf place : Nat) (body : List Word) :
    s.postHyper type part vf place body = s := if_pos h

theorem edgeWriteRefused_drops {eid : Nat} {e : EdgeWrite} {s : State} (h : s.edges.find? (fun x => x.id == eid) = some e) :
    (isPeer (64 * e.piece) = false ∨ s.peerUp (peerDev (64 * e.piece)) = false → exec (.edgeWriteRefused eid) s = .next s) ∧
    (isPeer (64 * e.piece) = true → s.peerUp (peerDev (64 * e.piece)) = true → e.vf = none → bits s.hring 4 0 = 0 →
      ∃ t, exec (.edgeWriteRefused eid) s = .next t ∧ (∀ x ∈ t.edges, x.id ≠ e.id) ∧ t.mem = s.mem ∧ t.peer = s.peer) := by
  obtain ⟨h1, h2, h3, h4⟩ := s.edgeGone_keeps e
  rw [exec_edgeWriteRefused, execEdgeWriteRefused, h]
  dsimp only
  refine ⟨fun hn => if_neg fun hb => ?_, fun hp hu hv hr => ⟨s.edgeGone e, ?_, h1, h2, h3⟩⟩
  · rw [Bool.and_eq_true] at hb
    rcases hn with hn | hn
    · rw [hn] at hb
      exact Bool.noConfusion hb.1
    · rw [hn] at hb
      exact Bool.noConfusion hb.2
  · rw [hp, hu, if_pos (by decide), hv]
    dsimp only
    rw [State.postHyper_off (by rw [h4]; exact hr)]

/-! Sleeps (R147, R149). -/

theorem State.sleepOut_over {gs d : Nat} {w : Bool} {s : State} (h : (s.thread gs).hold = some (.sleep w (some d))) (hr : s.runs gs = true)
    (hd : (s.thread gs).det = false) (hc : d ≤ s.cycle) : s.sleepOut gs w = s.setThread gs { s.thread gs with
      hold := some (.sleepDone (Spec.sleepResult (s.thread gs).intPending true (w && (s.thread gs).ready)
        (if w then 0 else (s.thread gs).hits))) } := by
  unfold State.sleepOut
  dsimp only
  rw [h]
  dsimp only
  rw [if_pos ⟨rfl, hr, by rw [hd]; rfl, hc⟩, sleepWord_eq]

theorem sleep_timesOut {gs d : Nat} {w : Bool} {i : Instr} {s : State}
    (hi : (i = .monwTimeout gs ∧ w = false) ∨ (i = .wsleepTimeout gs ∧ w = true))
    (h : (s.thread gs).hold = some (.sleep w (some d))) (hr : s.runs gs = true) (hd : (s.thread gs).det = false) (hc : d ≤ s.cycle) :
    ∃ t, exec i s = .next t ∧ Spec.OnlyThread s t gs { s.thread gs with
      hold := some (.sleepDone (Spec.sleepResult (s.thread gs).intPending true (w && (s.thread gs).ready)
        (if w then 0 else (s.thread gs).hits))) } := by
  have he : exec i s = .next (s.sleepOut gs w) := by
    rcases hi with ⟨rfl, rfl⟩ | ⟨rfl, rfl⟩
    · exact exec_monwTimeout gs s
    · exact exec_wsleepTimeout gs s
  exact ⟨_, he.trans (congrArg Host.Outcome.next (State.sleepOut_over h hr hd hc)), onlyThread_setThread s gs _⟩

end Sys2Proof.Machine

namespace Sys2Proof

open Machine

/-- Settles O43: what each event does is read off one equation for its step, the head of a home's queue and the answer of an edge atomic
by its cases. -/
theorem homeAndSleepEvents : Obligations.HomeAndSleepEvents := by
  unfold Obligations.HomeAndSleepEvents
  exact ⟨fun _ _ _ _ _ _ _ h hold => qresHead_serves h hold,
    fun _ _ _ h => qrelAck_acks h,
    fun _ _ _ _ _ _ _ h hr => edgeAtomicAtHome_answers h hr,
    fun _ _ _ _ h => edgeAtomicResponse_replies h,
    fun _ _ _ h hc => edgeWriteAck_acks h hc,
    fun _ _ _ h => edgeWriteRefused_drops h,
    fun _ _ _ _ _ hi h hr hd hc => sleep_timesOut hi h hr hd hc⟩

end Sys2Proof

end

section
/-!
PROOFS. Matrix commands start and complete; reduction rounds deliver (R77, R189 to R192, R205, R221, R222, R362).
-/

namespace Sys2Proof.Machine

/-! Tiles. -/

/-- A state differs from another in its tile store only. -/
def State.Tiled (s t : State) : Prop := t = { s with tiles := t.tiles, tilePoison := t.tilePoison }

theorem State.Tiled.trans {s t u : State} (h : s.Tiled t) (g : t.Tiled u) : s.Tiled u := by
  unfold State.Tiled at *
  rw [g, h]

theorem State.Tiled.foldl {β : Type} {f : State → β → State} (hf : ∀ (s : State) (b : β), s.Tiled (f s b)) (bs : List β) :
    ∀ s : State, s.Tiled (bs.foldl f s) := by
  induction bs with
  | nil => exact fun s => rfl
  | cons b bs ih => exact fun s => (hf s b).trans (ih _)

theorem State.tiled_setTileBytes (s : State) (pc row : Nat) (bs : List PByte) : s.Tiled (s.setTileBytes pc row bs) := by
  unfold State.setTileBytes
  exact .foldl (fun _ _ => by unfold State.Tiled; rfl) _ s

theorem State.tiled_writeTiles (s : State) (pc : Nat) (c : MatCmd) : s.Tiled (s.writeTiles pc c) := by
  unfold State.writeTiles
  split
  · split
    · exact .foldl (fun s _ => s.tiled_setTileBytes ..) _ s
    · rfl
  · rfl

/-! Commands start and complete (R189, R190). -/

theorem matrixCommandAccept_starts {cl sq : Nat} {c : MatCmd} {rest : List MatCmd} {s : State} (hsq : sq / 256 = cl)
    (hr : s.clusterRuns cl = true) (hq : mgetD s.matq sq [] = c :: rest) (hrun : c.running = false) (hm : s.mayStart cl c = true)
    (hb : s.headBefore cl sq = false) : exec (.matrixCommandAccept cl sq) s = .next { s with
      matq := mput s.matq sq ({ c with running := true, left := c.stepCount, waits := s.barrierSet cl sq } :: rest),
      wrr := mput s.wrr cl (sq + 1) } := by
  have hand : (!c.running && s.mayStart cl c) = true := by rw [hrun, hm]; rfl
  have ha : s.acceptable cl sq = true := by
    unfold State.acceptable
    rw [hq]
    exact hand
  rw [exec_matrixCommandAccept, execMatrixCommandAccept, if_pos ⟨hsq, hr, ha, by rw [hb]; rfl⟩, State.acceptCmd, hq]
  dsimp only
  rw [if_pos hand]

theorem matrixCommandComplete_completes {cl sq : Nat} {c : MatCmd} {rest : List MatCmd} {s : State} (hsq : sq / 256 = cl)
    (hr : s.clusterRuns cl = true) (hq : mgetD s.matq sq [] = c :: rest) (hc : s.completable cl sq = true)
    (hu : (s.thread c.gs).uid = c.uid) :
    ∃ t, exec (.matrixCommandComplete cl sq) s = .next t ∧ mgetD t.matq sq [] = rest ∧ t.mem = s.mem ∧ t.rf = s.rf ∧
      t.tiles = (s.writeTiles cl c).tiles ∧
      t.thread c.gs = { s.thread c.gs with mats := retireDone ((s.thread c.gs).mats.map (fun p => if p.1 = c.id then (c.id, true) else p)) } ∧
      (∀ g, g ≠ c.gs → t.thread g = s.thread g) := by
  have hw := s.tiled_writeTiles cl c
  have hth : ∀ g, ({ s.writeTiles cl c with matq := mput s.matq sq rest } : State).thread g = s.thread g :=
    State.thread_congr ((congrArg State.threads hw).trans rfl)
  have he : exec (.matrixCommandComplete cl sq) s = .next (({ s.writeTiles cl c with matq := mput s.matq sq rest } : State).setThread c.gs
      ((s.thread c.gs).matDone c.id)) := by
    rw [exec_matrixCommandComplete, execMatrixCommandComplete, if_pos ⟨hsq, hr, hc⟩, State.completeCmd, hq]
    dsimp only
    rw [if_pos hc, hth, if_pos hu]
  refine ⟨_, he, congrArg (Option.getD · _) (mget_mput_self ..), (congrArg State.mem hw).trans rfl, (congrArg State.rf hw).trans rfl, rfl,
    State.thread_setThread_self .., fun g hg => (State.thread_setThread_ne _ _ hg).trans (hth g)⟩

/-! Rounds of the matrix unit (R189, R192, R362). -/

/-- What a block of a cluster's scratchpads holds: its bytes and their poison. -/
def State.blockNow (s : State) (pc k : Nat) : List (Byte × Bool) :=
  (List.range 128).map (fun b => (s.byteAt (blockAddr pc k + b), s.poisoned ((blockAddr pc k + b) / 8)))

/-- Blocks that are read one after another: each key of the list gets its value, every other keeps what it had. -/
theorem mget_foldl_mput {α : Type} (f : Nat → α) (ks : List Nat) (k : Nat) : ∀ m : Map α,
    mget (ks.foldl (fun m k => mput m k (f k)) m) k = if k ∈ ks then some (f k) else mget m k := by
  induction ks with
  | nil => exact fun m => (if_neg (List.not_mem_nil)).symm
  | cons x xs ih =>
    intro m
    rw [List.foldl_cons, ih]
    by_cases hx : k ∈ xs
    · rw [if_pos hx, if_pos (List.mem_cons_of_mem _ hx)]
    · rw [if_neg hx]
      by_cases hk : k = x
      · subst hk
        rw [mget_mput_self, if_pos List.mem_cons_self]
      · rw [mget_mput_ne _ _ hk, if_neg (fun h => (List.mem_cons.mp h).elim hk hx)]

/-- A read of blocks reads some that the command has not read yet, and changes nothing else of it. -/
theorem State.readBlocks_reads (s : State) (pc seed : Nat) (c : MatCmd) : ∃ h, s.readBlocks pc seed c = { c with held := h } ∧
    (c.out.isSome = true ∨ c.lid.isSome = true → h = c.held) ∧ (∀ k v, mget c.held k = some v → mget h k = some v) ∧
    (∀ k v, mget c.held k = none → mget h k = some v → k ∈ c.blocks ∧ v = s.blockNow pc k) := by
  have hsame : (∀ k v, mget c.held k = some v → mget c.held k = some v) ∧
      ∀ k v, mget c.held k = none → mget c.held k = some v → k ∈ c.blocks ∧ v = s.blockNow pc k :=
    ⟨fun _ _ h => h, fun _ _ h0 h1 => nomatch h0.symm.trans h1⟩
  by_cases hc : (!c.running || c.out.isSome || c.lid.isSome) = true
  · exact ⟨c.held, if_pos hc, fun _ => rfl, hsame⟩
  · let ks := (c.blocks.zipIdx.filter (fun p => (mget c.held p.1).isNone && Config.blockNow (seed + p.2) &&
      !s.remotePending (blockAddr pc p.1) 128)).map (·.1)
    have hks : ∀ k ∈ ks, k ∈ c.blocks ∧ mget c.held k = none := fun k hk => by
      obtain ⟨p, hp, rfl⟩ := List.mem_map.mp hk
      obtain ⟨hz, hn⟩ := List.mem_filter.mp hp
      rw [Bool.and_eq_true, Bool.and_eq_true] at hn
      exact ⟨List.fst_mem_of_mem_zipIdx hz, Option.isNone_iff_eq_none.mp hn.1.1⟩
    refine ⟨ks.foldl (fun m k => mput m k (s.blockNow pc k)) c.held, if_neg hc, fun ho => absurd ?_ hc, fun k v h => ?_, fun k v h0 h => ?_⟩
    · rcases ho with ho | ho <;> simp [ho]
    · rw [mget_foldl_mput, if_neg (fun hk => nomatch (hks k hk).2.symm.trans h), h]
    · rw [mget_foldl_mput] at h
      by_cases hk : k ∈ ks
      · rw [if_pos hk] at h
        exact ⟨(hks k hk).1, (Option.some.inj h).symm⟩
      · rw [if_neg hk] at h
        exact nomatch h0.symm.trans h

/-- The sub-queues of a cluster after a round: every running command has its steps and its reads, in its place. -/
theorem State.matq_matRound {s : State} {pc sq : Nat} (h : sq / 32 / 8 = pc) :
    mget (s.matRound pc).matq sq = (mget s.matq sq).map (fun cs => cs.map (fun c =>
      if c.running then { s.readBlocks pc (s.fresh + 65536 * c.id) c with left := c.left - s.subqWeight sq } else c)) := by
  have hm := mget_map_snd (fun k => k / 32 / 8 = pc) (fun key (cs : List MatCmd) => cs.map (fun c =>
    if c.running then { s.readBlocks pc (s.fresh + 65536 * c.id) c with left := c.left - s.subqWeight key } else c)) s.matq sq
  simp only [if_pos h] at hm
  exact hm

theorem matRound_head {cl sq : Nat} {c : MatCmd} {rest : List MatCmd} {s : State} (hsq : sq / 256 = cl)
    (hq : mgetD s.matq sq [] = c :: rest) (hrun : c.running = true) :
    ∃ h, (mgetD (s.matRound cl).matq sq []).head? = some { c with left := c.left - s.subqWeight sq, held := h } ∧
      (c.out.isSome = true ∨ c.lid.isSome = true → h = c.held) ∧ (∀ k v, mget c.held k = some v → mget h k = some v) ∧
      (∀ k v, mget c.held k = none → mget h k = some v → k ∈ c.blocks ∧ v = (List.range 128).map (fun b =>
        (s.byteAt (spadAddr (8 * cl + k / 2048) (k % 2048 * 128) + b), s.poisoned ((spadAddr (8 * cl + k / 2048) (k % 2048 * 128) + b) / 8)))) := by
  obtain ⟨h, he, hout, hkeep, hnew⟩ := s.readBlocks_reads cl (s.fresh + 65536 * c.id) c
  have hq' : mget s.matq sq = some (c :: rest) := by
    unfold mgetD at hq
    cases hg : mget s.matq sq with
    | none => rw [hg] at hq; exact nomatch hq
    | some cs => rw [hg] at hq; exact congrArg some hq
  refine ⟨h, ?_, hout, hkeep, hnew⟩
  rw [mgetD, State.matq_matRound (by omega), hq', Option.map_some, Option.getD_some, List.map_cons, List.head?_cons, if_pos hrun, he]

theorem subqWeight_cases (key : Nat) (s : State) : (key % 32 = 0 → s.subqWeight key = 8) ∧
    (∀ p, key % 32 ≠ 0 → mget s.parts (key % 32 - 1) = some p → s.subqWeight key = max 1 p.mw) := by
  refine ⟨fun h => if_pos h, fun p h hp => ?_⟩
  unfold State.subqWeight
  rw [if_neg h, hp] <;> rfl

/-! The reduction network (R77, R221, R222). -/

/-- One more child joins the value of a node. -/
def treeStep (s : State) (fuel fmt op : Nat) (n : Node) (acc : Option (Nat × List Nat)) (c : Nat) : Option (Nat × List Nat) :=
  match acc, (s.childNode n (c + 1)).bind (s.nodeValue fuel) with
  | some a, some v => some (fmt, treeJoin fmt op a.2 v)
  | _, _ => none

theorem treeStep_some {s : State} {fuel fmt op : Nat} {n : Node} {c : Nat} {v : Nat × List Nat}
    (h : (s.childNode n (c + 1)).bind (s.nodeValue fuel) = some v) (a : Nat × List Nat) :
    treeStep s fuel fmt op n (some a) c = some (fmt, treeJoin fmt op a.2 v) := by
  unfold treeStep
  rw [h]

theorem treeStep_missing {s : State} {fuel fmt op : Nat} {n : Node} {c : Nat}
    (h : (s.childNode n (c + 1)).bind (s.nodeValue fuel) = none) (acc : Option (Nat × List Nat)) :
    treeStep s fuel fmt op n acc c = none := by
  unfold treeStep
  rw [h]
  cases acc <;> rfl

theorem treeStep_none (s : State) (fuel fmt op : Nat) (n : Node) (c : Nat) : treeStep s fuel fmt op n none c = none := rfl

theorem foldl_treeStep_none (s : State) (fuel fmt op : Nat) (n : Node) (cs : List Nat) :
    cs.foldl (treeStep s fuel fmt op n) none = none := by
  induction cs with
  | nil => rfl
  | cons c cs ih => rw [List.foldl_cons, treeStep_none, ih]

/-- With every child's value there, the node's is folded from them. -/
theorem foldl_treeStep_some {s : State} {fuel fmt op : Nat} {n : Node} {val : Nat → Nat × List Nat} (cs : List Nat)
    (h : ∀ c ∈ cs, (s.childNode n (c + 1)).bind (s.nodeValue fuel) = some (val c)) : ∀ own : List Nat,
    cs.foldl (treeStep s fuel fmt op n) (some (fmt, own)) = some (fmt, cs.foldl (fun a c => treeJoin fmt op a (val c)) own) := by
  induction cs with
  | nil => exact fun _ => rfl
  | cons c cs ih =>
    intro own
    rw [List.foldl_cons, List.foldl_cons, treeStep_some (h c List.mem_cons_self), ih (fun d hd => h d (List.mem_cons_of_mem _ hd))]

/-- With one child's value missing there is none. -/
theorem foldl_treeStep_missing {s : State} {fuel fmt op : Nat} {n : Node} {c : Nat}
    (h : (s.childNode n (c + 1)).bind (s.nodeValue fuel) = none) : ∀ (cs : List Nat) (acc : Option (Nat × List Nat)), c ∈ cs →
    cs.foldl (treeStep s fuel fmt op n) acc = none := by
  intro cs
  induction cs with
  | nil => exact fun _ hc => absurd hc List.not_mem_nil
  | cons d ds ih =>
    intro acc hc
    rw [List.foldl_cons]
    rcases List.mem_cons.mp hc with rfl | hc
    · rw [treeStep_missing h, foldl_treeStep_none]
    · exact ih _ hc

theorem State.nodeValue_contributed {s : State} {n : Node} {fmt op : Nat} {own : List Nat} (hk : s.childrenOk n = true)
    (hc : n.contrib = some (fmt, op, own)) (fuel : Nat) :
    s.nodeValue (fuel + 1) n = (List.range n.nch).foldl (treeStep s fuel fmt op n) (some (fmt, own)) := by
  rw [State.nodeValue, if_pos hk, hc] <;> rfl

theorem State.nodeValue_of_waits {s : State} {n : Node} (h : n.contrib = none ∨ s.childrenOk n = false) (fuel : Nat) :
    s.nodeValue fuel n = none := by
  cases fuel with
  | zero => rfl
  | succ fuel =>
    have hc : (if s.childrenOk n = true then n.contrib else none) = none := by
      rcases h with h | h
      · rw [h, ite_self]
      · rw [h, if_neg (by decide)]
    rw [State.nodeValue, hc]

theorem State.nodeValue_of_spec {s : State} {d : Nat} {n : Node} {v : Nat × List Nat} (h : Spec.NodeValue s d n v) :
    s.nodeValue d n = some v := by
  induction h with
  | node d n fmt op own kid val hk hc hkid _ ih =>
    rw [State.nodeValue_contributed hk hc]
    refine foldl_treeStep_some _ (fun c hm => ?_) own
    have hlt := List.mem_range.mp hm
    rw [hkid c hlt]
    exact ih c hlt

/-- A node's value is missing while a contribution of its own or of a child is. -/
theorem State.nodeValue_missing {s : State} {n : Node}
    (h : n.contrib = none ∨ s.childrenOk n = false ∨ (∃ c, c < n.nch ∧ s.childNode n (c + 1) = none) ∨
      ∃ c m, c < n.nch ∧ s.childNode n (c + 1) = some m ∧ (m.contrib = none ∨ s.childrenOk m = false)) (fuel : Nat) :
    s.nodeValue (fuel + 1) n = none := by
  by_cases hw : n.contrib = none ∨ s.childrenOk n = false
  · exact State.nodeValue_of_waits hw _
  · obtain ⟨hc, hk⟩ := not_or.mp hw
    have hkid : ∃ c, c < n.nch ∧ (s.childNode n (c + 1)).bind (s.nodeValue fuel) = none := by
      rcases h with h | h | ⟨c, hlt, hn⟩ | ⟨c, m, hlt, hm, hn⟩
      · exact absurd h hc
      · exact absurd h hk
      · exact ⟨c, hlt, by rw [hn]; rfl⟩
      · exact ⟨c, hlt, by rw [hm]; exact State.nodeValue_of_waits hn fuel⟩
    obtain ⟨c, hlt, hn⟩ := hkid
    cases hcon : n.contrib with
    | none => exact absurd hcon hc
    | some p =>
      rw [State.nodeValue_contributed ((Bool.not_eq_false _).mp hk) (show n.contrib = some (p.1, p.2.1, p.2.2) from hcon)]
      exact foldl_treeStep_missing hn _ _ (List.mem_range.mpr hlt)

/-- The state after the words that found room, where the last of them ended the round. -/
def State.roundOver (s r : State) (vf tree : Nat) (n : Node) : State :=
  let ns := (s.nodes.map (fun m =>
    if m.tree = tree ∧ m.vf = vf ∧ m.uid ∈ s.subtree (s.nodes.length + 1) n then { m with contrib := none, out := none } else m)).filter
      (fun m => m.contrib.isSome || m.out.isSome || ((s.thread m.gs).uid == m.uid && (s.thread m.gs).live))
  { r with nodes := ns }

/-- What the root's words are: those still due, or the total of the round. -/
def State.rootWords (s : State) (n : Node) : Option (List Word) :=
  match n.out with
  | some ws => some ws
  | none => (s.nodeValue (s.nodes.length + 1) n).map (fun v => totalWords v.1 v.2)

theorem exec_reductionRoundDeliver_root {vf tree : Nat} {n : Node} {s : State} (h : Spec.Root s vf tree n) :
    exec (.reductionRoundDeliver vf tree) s = match s.rootWords n with
      | none => .next s
      | some ws => if (s.deliverWords n.gs ws).2 = [] then .next (s.roundOver (s.deliverWords n.gs ws).1 vf tree n)
        else .next { (s.deliverWords n.gs ws).1 with nodes := (s.deliverWords n.gs ws).1.nodes.map (fun m =>
          if m.uid = n.uid ∧ m.tree = tree then { m with out := some (s.deliverWords n.gs ws).2 } else m) } := by
  unfold Spec.Root at h
  rw [exec_reductionRoundDeliver, execReductionRoundDeliver, h] <;> rfl

theorem State.roundOver_clears {s r : State} {vf tree : Nat} {n m : Node} (hm : m ∈ (s.roundOver r vf tree n).nodes) (ht : m.tree = tree)
    (hv : m.vf = vf) (hu : m.uid ∈ s.subtree (s.nodes.length + 1) n) : m.contrib = none ∧ m.out = none := by
  obtain ⟨m0, _, rfl⟩ := List.mem_map.mp (List.mem_filter.mp hm).1
  by_cases hc : m0.tree = tree ∧ m0.vf = vf ∧ m0.uid ∈ s.subtree (s.nodes.length + 1) n
  · rw [if_pos hc]
    exact ⟨rfl, rfl⟩
  · rw [if_neg hc] at ht hv hu
    exact absurd ⟨ht, hv, hu⟩ hc

theorem reductionRoundDeliver_delivers {vf tree : Nat} {ws : List Word} {n : Node} {s : State} (h : Spec.Root s vf tree n)
    (hw : n.out = some ws ∨ (n.out = none ∧ ∃ v, Spec.NodeValue s (s.nodes.length + 1) n v ∧ ws = totalWords v.1 v.2)) :
    let r := s.deliverWords n.gs ws
    ∃ t, exec (.reductionRoundDeliver vf tree) s = .next t ∧ t.threads = r.1.threads ∧ t.chans = r.1.chans ∧ t.mem = r.1.mem ∧ t.rf = r.1.rf ∧
      (r.2 = [] → ∀ m ∈ t.nodes, m.tree = tree → m.vf = vf → m.uid ∈ s.subtree (s.nodes.length + 1) n → m.contrib = none ∧ m.out = none) ∧
      (r.2 ≠ [] → t.nodes = r.1.nodes.map (fun m => if m.uid = n.uid ∧ m.tree = tree then { m with out := some r.2 } else m)) := by
  have hws : s.rootWords n = some ws := by
    unfold State.rootWords
    rcases hw with ho | ⟨ho, v, hv, rfl⟩
    · rw [ho]
    · rw [ho, State.nodeValue_of_spec hv] <;> rfl
  have he := exec_reductionRoundDeliver_root h
  rw [hws] at he
  dsimp only at he
  by_cases hr : (s.deliverWords n.gs ws).2 = []
  · rw [if_pos hr] at he
    exact ⟨_, he, rfl, rfl, rfl, rfl, fun _ m hm ht hv hu => State.roundOver_clears hm ht hv hu, fun hn => absurd hr hn⟩
  · rw [if_neg hr] at he
    exact ⟨_, he, rfl, rfl, rfl, rfl, fun hn => absurd hn hr, fun _ => rfl⟩

theorem reductionRoundDeliver_waits {vf tree : Nat} {n : Node} {s : State} (h : Spec.Root s vf tree n) (ho : n.out = none)
    (hw : n.contrib = none ∨ s.childrenOk n = false ∨ (∃ c, c < n.nch ∧ s.childNode n (c + 1) = none) ∨
      ∃ c m, c < n.nch ∧ s.childNode n (c + 1) = some m ∧ (m.contrib = none ∨ s.childrenOk m = false)) :
    exec (.reductionRoundDeliver vf tree) s = .next s := by
  have hws : s.rootWords n = none := by
    unfold State.rootWords
    rw [ho, State.nodeValue_missing hw] <;> rfl
  rw [exec_reductionRoundDeliver_root h, hws]

theorem State.deliverWords_blocked {s : State} {gs : Nat} {w : Word} (h : s.arrive gs 15 w = none) (ws : List Word) :
    s.deliverWords gs (w :: ws) = (s, w :: ws) := by
  rw [State.deliverWords, h]

theorem Thread.enqueue_p15 (t : Thread) (v : Word) : t.enqueue 15 v = { t with p15 := t.p15 ++ [v] } := by
  unfold Thread.enqueue
  rw [if_pos rfl]

theorem State.deliverWords_room {s : State} {gs : Nat} (hc : s.chanOf gs 15 = none) (hq : (s.thread gs).queueRoom 15 = true) (w : Word)
    (ws : List Word) : s.deliverWords gs (w :: ws) =
      (s.setThread gs { s.thread gs with p15 := (s.thread gs).p15 ++ [w] }).deliverWords gs ws := by
  have ha := State.arrive_queue (State.ringHeld_none hc) (fun k c hkc => nomatch hc.symm.trans hkc) hq w
  rw [State.deliverWords, ha, Thread.enqueue_p15]

theorem State.childrenOk_above {n m : Node} {s : State} (hm : m ∈ s.childNodes n) (h : n.nch < m.cix) : s.childrenOk n = false := by
  have hall : (s.childNodes n).all (fun m => decide (m.cix ≤ n.nch)) = false :=
    List.all_eq_false.mpr ⟨m, hm, by rw [decide_eq_true_eq]; omega⟩
  unfold State.childrenOk
  rw [hall, Bool.false_and]

theorem State.childrenOk_repeated {n m m' : Node} {s : State} (hm : m ∈ s.childNodes n) (hs : s.nodeStands m = true)
    (hm' : m' ∈ s.childNodes n) (hs' : s.nodeStands m' = true) (hne : m ≠ m') (hc : m.cix = m'.cix) : s.childrenOk n = false := by
  have hdup : ¬(((s.childNodes n).filter s.nodeStands).map (·.cix)).Nodup := fun hd =>
    hne (List.inj_on_of_nodup_map hd (List.mem_filter.mpr ⟨hm, hs⟩) (List.mem_filter.mpr ⟨hm', hs'⟩) hc)
  unfold State.childrenOk
  rw [decide_eq_false hdup, Bool.and_false]

end Sys2Proof.Machine

namespace Sys2Proof

open Machine

/-- Settles O44: the round's value is folded child by child, so that a missing child leaves none; the tile store is all that a completing
command's write changes. -/
theorem matrixAndReductionEvents : Obligations.MatrixAndReductionEvents := by
  unfold Obligations.MatrixAndReductionEvents
  exact ⟨fun _ _ _ _ _ hsq hr hq hrun hm hb => ⟨_, matrixCommandAccept_starts hsq hr hq hrun hm hb, rfl⟩,
    fun _ _ _ _ _ hsq hr hq hc hu => matrixCommandComplete_completes hsq hr hq hc hu,
    fun _ _ _ _ _ hsq hq hrun => matRound_head hsq hq hrun,
    subqWeight_cases,
    fun _ _ _ _ _ h hw => reductionRoundDeliver_delivers h hw,
    fun _ w ws _ => ⟨rfl, fun h => State.deliverWords_blocked h ws, fun hc hq => State.deliverWords_room hc hq w ws,
      fun hc hq => State.arrive_full hc hq w⟩,
    fun _ _ _ _ h ho hw => reductionRoundDeliver_waits h ho hw,
    fun _ _ _ _ hm hs h => h.elim (State.childrenOk_above hm) (fun ⟨hm', hs', hne, hc⟩ => State.childrenOk_repeated hm hs hm' hs' hne hc)⟩

end Sys2Proof

end

section
/-!
PROOFS. The scheduler: queues, launches, core groups, children, tasks, passed-over waits, completion (R224, R284 to R304, R323).
-/

namespace Sys2Proof.Machine

/-! Queues (R285, R286). -/

theorem State.notify_of_vf {s : State} {vf q : Nat} {v : VFunc} (hv : mget s.vfs vf = some v) (hq : q < 64) :
    s.notify vf q =
      (let k := qKey vf q
       let s1 := if k ∈ s.qpend then s else { s with qpend := s.qpend ++ [k] }
       if s1.mapped k then s1
       else if s1.qFree v vf then s1.mapQueue v vf q
       else
         match s1.victim v vf (s1.qdesc v q).prio with
         | some m => ({ s1 with qmap := s1.qmap.filter (fun x => x != m) }.mapQueue v vf q).mapPending s1.qpend.length
         | none => (s1.postKernel vf 2 0 [BitVec.ofNat 64 q]).postHyper 2 v.part vf 0 [BitVec.ofNat 64 q]) := by
  unfold State.notify
  rw [Nat.mod_eq_of_lt hq, hv] <;> rfl

theorem queueNotify_pends {vf q : Nat} {v : VFunc} {s : State} (hv : mget s.vfs vf = some v) (hq : q < 64) :
    let k := qKey vf q
    let asid := s.natAt (v.pa (v.vcba + 128 + 2 * q)) 2
    (s.mapped k = true → k ∈ s.qpend → exec (.queueNotify vf q) s = .next s) ∧
    (s.mapped k = true → ¬k ∈ s.qpend → exec (.queueNotify vf q) s = .next { s with qpend := s.qpend ++ [k] }) ∧
    (s.mapped k = false → ¬k ∈ s.qpend → s.qFree v vf = true → v.abase ≤ asid → asid < v.abase + v.acnt →
      exec (.queueNotify vf q) s = .next { s with qpend := s.qpend ++ [k], qmap := s.qmap ++ [⟨vf, q, asid⟩], qlast := k }) := by
  have he : exec (.queueNotify vf q) s = .next (s.notify vf q) := exec_queueNotify vf q s
  rw [he, State.notify_of_vf hv hq]
  refine ⟨fun hm hp => congrArg Host.Outcome.next ?_, fun hm hp => congrArg Host.Outcome.next ?_,
    fun hm hp hf ha hb => congrArg Host.Outcome.next ?_⟩
  · dsimp only
    rw [if_pos hp, if_pos hm]
  · let s1 : State := { s with qpend := s.qpend ++ [qKey vf q] }
    dsimp only
    rw [if_neg hp]
    exact if_pos (show s1.mapped (qKey vf q) = true from hm)
  · let s1 : State := { s with qpend := s.qpend ++ [qKey vf q] }
    have hno : ¬s1.mapped (qKey vf q) = true := fun h => Bool.noConfusion (hm.symm.trans h)
    dsimp only
    rw [if_neg hp]
    refine (if_neg hno).trans ((if_pos (show s1.qFree v vf = true from hf)).trans ?_)
    exact if_pos ⟨ha, hb⟩

/-! The head of a queue becomes a launch (R286 to R289). -/

theorem State.servedBefore_last {s : State} {k : Nat}
    (h : ∀ x ∈ s.qmap, qKey x.vf x.q ≠ k → (s.headOfQueue false x).1.startable = false) : s.servedBefore k = false := by
  refine List.any_eq_false.mpr fun x hx hb => ?_
  simp only [Bool.and_eq_true, bne_iff_ne] at hb
  obtain ⟨⟨⟨hk, _⟩, hst⟩, _⟩ := hb
  rw [h x hx hk] at hst
  exact Bool.noConfusion hst

theorem State.mapPending_none {s : State} (h : s.qpend = []) (n : Nat) : s.mapPending n = s := by
  cases n with
  | zero => rfl
  | succ n =>
    have hn : s.nextPending = none := by
      unfold State.nextPending
      rw [h]
      rfl
    rw [State.mapPending, hn]

/-- A queue whose pending bit is the only one releases its slot, and no other queue waits for it. -/
theorem State.releaseQueue_last {s : State} {k : Nat} (h : s.qpend = [k]) :
    s.releaseQueue k = { s with qmap := s.qmap.filter (fun m => qKey m.vf m.q != k), qpend := [] } := by
  have hf : s.qpend.filter (fun x => x != k) = [] := by
    rw [h, List.filter_eq_nil_iff]
    exact fun x hx hb => bne_iff_ne.mp hb (List.mem_singleton.mp hx)
  unfold State.releaseQueue
  rw [hf]
  exact State.mapPending_none rfl _

/-- What the scheduler does with the head of a mapped queue (R286 to R289). -/
def State.serveHead (s : State) (vf q : Nat) (m : QSlot) (v : VFunc) : Head × State → Outcome
  | (.empty bad, _) => .next ((if bad then s.queueError vf q 0 0 else s).releaseQueue (qKey vf q))
  | (.blocked (some (f, p)), s1) => .next (s1.askPull f p)
  | (.blocked none, s1) => .next s1
  | (.unreadable t, _) =>
    if s.servedBefore (qKey vf q) then .next s
    else .next (({ s with qserve := qKey vf q }.raiseHead v q).schedFault vf q t t.info1)
  | (.record asid r st f, _) =>
    if s.servedBefore (qKey vf q) then .next s
    else
      let l := Launch.start_ m v.part asid r st
      let l1 := if st = 0 ∧ s.cannotFit l v then { l with ending := 1 } else l
      let s0 := (s.headOfQueue true m).2
      let s1 := { (match f with | some t => s0.postTable t | none => s0) with qserve := qKey vf q, fresh := s.fresh + 1 }.raiseHead v q
      .next (({ s1 with launches := mput s1.launches s.fresh l1 } : State).fillPool (2 ^ lrPlog r) s.fresh)

theorem exec_launchStart_serves {vf q : Nat} {m : QSlot} {v : VFunc} {s : State}
    (hm : s.qmap.find? (fun m => m.vf == vf && m.q == q) = some m) (hv : mget s.vfs vf = some v) (hg : s.migrating vf = false) :
    exec (.launchStart vf q) s = s.serveHead vf q m v (s.headOfQueue false m) := by
  rw [exec_launchStart, execLaunchStart, hm, hv]
  dsimp only
  rw [hg, if_neg (by decide)] <;> rfl

theorem State.serveHead_blocked {s : State} {vf q : Nat} {m : QSlot} {v : VFunc} {p : Head × State} (h : p.1 = .blocked none) :
    s.serveHead vf q m v p = .next p.2 := by
  obtain ⟨a, s1⟩ := p
  subst h
  rfl

theorem State.serveHead_empty {s : State} {vf q : Nat} {m : QSlot} {v : VFunc} {p : Head × State} (h : p.1 = .empty false) :
    s.serveHead vf q m v p = .next (s.releaseQueue (qKey vf q)) := by
  obtain ⟨a, s1⟩ := p
  subst h
  rfl

/-- The launch that a record begins: one that could never start on its partition ends at once (R296). -/
def State.launchBegun (s : State) (m : QSlot) (v : VFunc) (asid : Nat) (r : List Word) (st : Nat) : Launch :=
  let l := Launch.start_ m v.part asid r st
  { l with ending := if st = 0 ∧ s.cannotFit l v = true then 1 else st }

theorem State.launchBegun_eq (s : State) (m : QSlot) (v : VFunc) (asid : Nat) (r : List Word) (st : Nat) :
    (if st = 0 ∧ s.cannotFit (Launch.start_ m v.part asid r st) v = true then { Launch.start_ m v.part asid r st with ending := 1 }
      else Launch.start_ m v.part asid r st) = s.launchBegun m v asid r st := by
  unfold State.launchBegun
  dsimp only
  by_cases h : st = 0 ∧ s.cannotFit (Launch.start_ m v.part asid r st) v = true
  · rw [if_pos h, if_pos h]
  · rw [if_neg h, if_neg h] <;> rfl

theorem State.ending_launchBegun (s : State) (m : QSlot) (v : VFunc) (asid : Nat) (r : List Word) (st : Nat) :
    (s.launchBegun m v asid r st).ending = st ∨ (st = 0 ∧ (s.launchBegun m v asid r st).ending = 1) := by
  by_cases hc : st = 0 ∧ s.cannotFit (Launch.start_ m v.part asid r st) v = true
  · exact .inr ⟨hc.1, if_pos hc⟩
  · exact .inl (if_neg hc)

/-- The state in which the scheduler has taken a record off its queue. -/
def State.recordTaken (s : State) (m : QSlot) (v : VFunc) (q k : Nat) (f : Option Trap) : State :=
  let s0 := (s.headOfQueue true m).2
  { (match f with | some t => s0.postTable t | none => s0) with qserve := k, fresh := s.fresh + 1 }.raiseHead v q

theorem State.serveHead_record {s : State} {vf q asid st : Nat} {m : QSlot} {v : VFunc} {r : List Word} {f : Option Trap} {p : Head × State}
    (hb : s.servedBefore (qKey vf q) = false) (h : p.1 = .record asid r st f) :
    s.serveHead vf q m v p = .next (({ s.recordTaken m v q (qKey vf q) f with
      launches := mput (s.recordTaken m v q (qKey vf q) f).launches s.fresh (s.launchBegun m v asid r st) } : State).fillPool
        (2 ^ lrPlog r) s.fresh) := by
  obtain ⟨a, s1⟩ := p
  subst h
  unfold State.serveHead
  dsimp only
  rw [if_neg (by rw [hb]; decide), State.launchBegun_eq] <;> rfl

theorem launchStart_serves {vf q asid : Nat} {m : QSlot} {v : VFunc} {r : List Word} {s : State}
    (hm : s.qmap.find? (fun m => m.vf == vf && m.q == q) = some m) (hv : mget s.vfs vf = some v) (hg : s.migrating vf = false)
    (hfirst : ∀ x ∈ s.qmap, qKey x.vf x.q ≠ qKey vf q → (s.headOfQueue false x).1.startable = false) :
    (∀ st f, (s.headOfQueue false m).1 = .record asid r st f → ∃ (t : State) (l : Launch),
      exec (.launchStart vf q) s = .next (t.fillPool (2 ^ lrPlog r) s.fresh) ∧
      mget t.launches s.fresh = some l ∧ l.record = r ∧ l.vf = vf ∧ l.queue = q ∧ l.asid = asid ∧ l.part = v.part ∧ l.begun = 0 ∧
      l.exited = 0 ∧ l.start = none ∧ l.slots = [] ∧ l.children = [] ∧ l.tasks = [] ∧ (l.ending = st ∨ (st = 0 ∧ l.ending = 1)) ∧
      let s1 := (s.headOfQueue true m).2
      let s2 := match f with | some e => s1.postTable e | none => s1
      t.mem = ({ s2 with qserve := qKey vf q, fresh := s.fresh + 1 }.raiseHead v q).mem) ∧
    ((s.headOfQueue false m).1 = .blocked none → exec (.launchStart vf q) s = .next (s.headOfQueue false m).2) ∧
    ((s.headOfQueue false m).1 = .empty false → s.qpend = [qKey vf q] →
      exec (.launchStart vf q) s = .next { s with qmap := s.qmap.filter (fun m => qKey m.vf m.q != qKey vf q), qpend := [] }) := by
  have hid := List.find?_some (p := fun m : QSlot => m.vf == vf && m.q == q) hm
  rw [Bool.and_eq_true, beq_iff_eq, beq_iff_eq] at hid
  refine ⟨fun st f hr => ?_, fun hb => ?_, fun he hp => ?_⟩
  · exact ⟨_, _, (exec_launchStart_serves hm hv hg).trans (State.serveHead_record (State.servedBefore_last hfirst) hr), mget_mput_self .., rfl, hid.1, hid.2, rfl, rfl, rfl,
      rfl, rfl, rfl, rfl, rfl, s.ending_launchBegun m v asid r st, rfl⟩
  · exact (exec_launchStart_serves hm hv hg).trans (State.serveHead_blocked hb)
  · exact ((exec_launchStart_serves hm hv hg).trans (State.serveHead_empty he)).trans
      (congrArg Host.Outcome.next (State.releaseQueue_last hp))

/-! The pool of an ordered launch (R303). -/

theorem fillPool_cases {n lid : Nat} {l : Launch} {s : State} (hl : mget s.launches lid = some l) :
    (lrOrd l.record = false ∨ l.ending ≠ 0 ∨ l.initial ≤ l.first ∨ 2 ^ lrPlog l.record ≤ l.tasks.length → s.fillPool n lid = s) ∧
    (lrOrd l.record = true → l.ending = 0 → l.first < l.initial → l.tasks.length < 2 ^ lrPlog l.record →
      s.fillPool (n + 1) lid = (s.poolTask lid { l with first := l.first + 1 }
        { num := l.first, ts := 0, entry := lrEntry l.record, arg := 0, x3 := lrArg l.record, pool := none }).fillPool n lid) := by
  refine ⟨fun h => ?_, fun ho he hf ht => ?_⟩
  · cases n with
    | zero => rfl
    | succ n =>
      have hno : ¬(lrOrd l.record && l.ending == 0 && decide (l.first < l.initial ∧ l.tasks.length < 2 ^ lrPlog l.record)) = true := by
        intro hb
        rw [Bool.and_eq_true, Bool.and_eq_true, beq_iff_eq, decide_eq_true_eq] at hb
        obtain ⟨⟨ho, he⟩, hf, ht⟩ := hb
        rcases h with h | h | h | h
        · rw [h] at ho
          exact Bool.noConfusion ho
        · exact h he
        · omega
        · omega
      rw [State.fillPool, hl]
      exact if_neg hno
  · rw [State.fillPool, hl]
    refine if_pos ?_
    rw [Bool.and_eq_true, Bool.and_eq_true, beq_iff_eq, decide_eq_true_eq]
    exact ⟨⟨ho, he⟩, hf, ht⟩

/-! A thread that the scheduler starts. -/

/-- What the start of a thread changes: its slot, the registers and the count of the model's free values. -/
theorem State.startThread_shape (s : State) (gs : Nat) (t : Thread) (xs : List (Nat × Word)) :
    ∃ rf n f, s.startThread gs t xs =
      { s.setThread gs { t with uid := n, stopFor := f } with fresh := s.fresh + 1, rf := rf } := by
  let leaving := (match t.vf.bind (mget s.vfs) with | some v => v.mstate == 2 | none => false)
  let t1 : Thread := { t with uid := s.fresh, stopFor := if leaving then some .migrate else t.stopFor }
  let s1 : State := { s with fresh := s.fresh + 1 }.setThread gs t1
  obtain ⟨rf, hrf⟩ := s1.setWindowOf_shape gs (List.replicate t.winLim 0)
  have hx : ∃ rf, s.startThread gs t xs = { s1 with rf := rf } := by
    refine List.foldlRecOn (motive := fun u : State => ∃ rf, u = { s1 with rf := rf }) _ _ ⟨rf, hrf⟩ fun u ⟨rf, hu⟩ p _ => ?_
    obtain ⟨rf', h⟩ := u.setXOf_shape gs p.1 p.2
    exact ⟨rf', by rw [h, hu]⟩
  obtain ⟨rf, hx⟩ := hx
  exact ⟨rf, _, _, hx⟩

theorem State.launches_startThread (s : State) (gs : Nat) (t : Thread) (xs : List (Nat × Word)) :
    (s.startThread gs t xs).launches = s.launches := by
  obtain ⟨rf, n, f, h⟩ := s.startThread_shape gs t xs
  rw [h]
  rfl

theorem State.mem_startThread (s : State) (gs : Nat) (t : Thread) (xs : List (Nat × Word)) :
    (s.startThread gs t xs).mem = s.mem := by
  obtain ⟨rf, n, f, h⟩ := s.startThread_shape gs t xs
  rw [h]
  rfl

theorem State.thread_startThread_self (s : State) (gs : Nat) (t : Thread) (xs : List (Nat × Word)) :
    ∃ n f, (s.startThread gs t xs).thread gs = { t with uid := n, stopFor := f } := by
  obtain ⟨rf, n, f, h⟩ := s.startThread_shape gs t xs
  exact ⟨n, f, (congrArg (State.thread · gs) h).trans (State.thread_setThread_self s gs _)⟩

theorem State.thread_startThread_ne (s : State) {gs g : Nat} (hg : g ≠ gs) (t : Thread) (xs : List (Nat × Word)) :
    (s.startThread gs t xs).thread g = s.thread g := by
  obtain ⟨rf, n, f, h⟩ := s.startThread_shape gs t xs
  exact (congrArg (State.thread · g) h).trans (State.thread_setThread_ne s _ hg)

/-! Core groups (R287, R291, R292). -/

/-- A launch stands in its place with as many core groups begun, and the record it was read with. -/
def Begun (lid n : Nat) (r : List Word) (s : State) : Prop := ∃ l, mget s.launches lid = some l ∧ l.begun = n ∧ l.record = r

theorem begun_startGroup {lid n : Nat} {r : List Word} {s : State} {l : Launch} (hn : l.begun = n) (hr : l.record = r) (v : VFunc) (g gc : Nat)
    (fit : List Nat × List Nat × Nat) : Begun lid (n + 1) r (s.startGroup lid l v g gc fit) := by
  unfold State.startGroup
  dsimp only
  split
  · exact ⟨_, mget_mput_self .., congrArg (· + 1) hn, hr⟩
  · refine List.foldlRecOn (motive := Begun lid (n + 1) r) _ _ ⟨_, mget_mput_self .., congrArg (· + 1) hn, hr⟩ fun u hu p _ => ?_
    unfold Begun
    rw [State.launches_startThread]
    exact hu

/-- The choice of a block's die changes neither what the launch has begun nor its record. -/
theorem begun_blockDie {lid b d : Nat} {s t : State} {l : Launch} (hl : mget s.launches lid = some l)
    (h : blockDie lid l b s = .ok (d, t)) : Begun lid l.begun l.record t := by
  unfold blockDie at h
  cases hd : mget l.dies b with
  | some d =>
    rw [hd] at h
    cases h
    exact ⟨l, hl, rfl, rfl⟩
  | none =>
    rw [hd] at h
    obtain ⟨p, u, _, h⟩ := M.bind_ok_inv h
    obtain ⟨_, w, hmod, h⟩ := M.bind_ok_inv h
    cases hmod
    cases h
    exact ⟨_, mget_mput_self .., rfl, rfl⟩

/-- A search that starts a core group raises the count of those begun by one. -/
theorem begun_startNext (lid : Nat) {r : List Word} {k : Nat} : ∀ (n b : Nat) (held : List Nat) (s t : State), Begun lid k r s →
    startNext lid n b held s = .ok (true, t) → Begun lid (k + 1) r t := by
  intro n
  induction n with
  | zero => intro b held s t _ h; cases h
  | succ n ih =>
    intro b held s t hs h
    obtain ⟨l, hl, hk, hr⟩ := hs
    rw [startNext, M.get_bind, hl] at h
    cases hv : mget s.vfs l.vf with
    | none => rw [Option.bind_some, hv] at h; cases h
    | some v =>
      rw [Option.bind_some, hv] at h
      dsimp only at h
      split at h
      · exact ih _ _ _ _ ⟨l, hl, hk, hr⟩ h
      · split at h
        · cases h
        · obtain ⟨d, u, hd, h⟩ := M.bind_ok_inv h
          have hu := begun_blockDie hl hd
          rw [hk, hr] at hu
          split at h
          · exact ih _ _ _ _ hu h
          · rw [M.get_bind] at h
            cases hs2 : u.startOn lid ((mget u.launches lid).getD l) v
              (256 * lrL l.record * lrC l.record * b + mgetD l.blocks b 0) d with
            | some s2 =>
              rw [hs2] at h
              obtain ⟨_, w, hset, h⟩ := M.bind_ok_inv h
              cases hset
              cases h
              obtain ⟨p, _, hp⟩ := Option.map_eq_some_iff.mp hs2
              obtain ⟨l', hl', hk', hr'⟩ := hu
              rw [hl'] at hp
              exact hp ▸ begun_startGroup hk' hr' ..
            | none =>
              rw [hs2] at h
              exact ih _ _ _ _ hu h

theorem exec_coreGroupStart_free {lid : Nat} {l : Launch} {s t : State} {b : Bool} (hl : mget s.launches lid = some l)
    (ho : s.launchOpen l = true) (hr : s.outranked lid l = false) (hd : lrDet l.record = false)
    (h : startNext lid (lrBlocks l.record) 0 [] s = .ok (b, t)) : exec (.coreGroupStart lid) s = .next t := by
  have hs : startGroups lid l s = .ok (b, t) := by
    unfold startGroups
    rw [hd, if_neg (by decide), h]
  rw [exec_coreGroupStart, execCoreGroupStart, hl]
  dsimp only
  rw [ho, hr, if_neg (by decide), hs]
  exact if_pos (.inl (by rw [hd]; rfl))

theorem coreGroupStart_starts {lid : Nat} {l : Launch} {s : State} (hl : mget s.launches lid = some l)
    (ho : s.launchOpen l = true) (hr : s.outranked lid l = false) (hd : lrDet l.record = false) :
    (∀ t, startNext lid (lrBlocks l.record) 0 [] s = .ok (true, t) → exec (.coreGroupStart lid) s = .next t ∧
      ∃ l', mget t.launches lid = some l' ∧ l'.begun = l.begun + 1 ∧ l'.record = l.record) ∧
    (∀ t, startNext lid (lrBlocks l.record) 0 [] s = .ok (false, t) → exec (.coreGroupStart lid) s = .next t) :=
  ⟨fun t h => ⟨exec_coreGroupStart_free hl ho hr hd h, begun_startNext lid _ _ _ s t ⟨l, hl, rfl, rfl⟩ h⟩,
    fun _ h => exec_coreGroupStart_free hl ho hr hd h⟩

theorem coreGroupStart_waits {lid : Nat} {l : Launch} {s : State} (hl : mget s.launches lid = some l)
    (h : s.launchOpen l = false ∨ s.outranked lid l = true) : exec (.coreGroupStart lid) s = .next s := by
  rw [exec_coreGroupStart, execCoreGroupStart, hl]
  refine if_pos (h.imp (fun h => ?_) id)
  rw [h]
  rfl

/-! Children and tasks (R224, R300, R303). -/

theorem childStart_starts {lid gs b : Nat} {l : Launch} {c : Child} {rest : List Child} {s : State} (hl : mget s.launches lid = some l)
    (hc : l.children = c :: rest) (hslot : s.childSlot lid l c gs = true) (hr : s.runs gs = true) (hg : s.migrating l.vf = false)
    (hw : s.freeWindows (coreOf gs) (lrWin l.record) 1 [] = [b]) :
    ∃ t, exec (.childStart lid gs) s = .next t ∧ (t.thread gs).live = true ∧ (t.thread gs).a.pc = c.entry ∧ (t.thread gs).path = c.path ∧
      (t.thread gs).parent = some c.puid ∧ (t.thread gs).gid = c.gid ∧ (t.thread gs).lid = some lid ∧ (t.thread gs).winBase = b ∧
      (t.thread gs).winLim = lrWin l.record ∧ (t.thread gs).asid = l.asid ∧ (t.thread gs).vf = some l.vf ∧
      mget t.launches lid = some { l with children := rest } ∧ t.mem = s.mem ∧ (∀ g, g ≠ gs → t.thread g = s.thread g) := by
  let s1 : State := { s with launches := mput s.launches lid { l with children := rest } }
  let th : Thread := { launchThread l lid b c.entry c.gid with path := c.path, parent := some c.puid, ent := c.ent }
  have he : exec (.childStart lid gs) s = .next (s1.startThread gs th [(3, c.x3), (4, c.arg)]) := by
    rw [exec_childStart, execChildStart, hl]
    dsimp only
    rw [hc]
    dsimp only
    rw [hslot, hr, hg, hw] <;> rfl
  obtain ⟨n, f, hth⟩ := s1.thread_startThread_self gs th [(3, c.x3), (4, c.arg)]
  have hf {α : Type} (p : Thread → α) (hp : p { th with uid := n, stopFor := f } = p th) :
      p ((s1.startThread gs th [(3, c.x3), (4, c.arg)]).thread gs) = p th := (congrArg p hth).trans hp
  exact ⟨_, he, hf (·.live) rfl, hf (·.a.pc) rfl, hf (·.path) rfl, hf (·.parent) rfl, hf (·.gid) rfl, hf (·.lid) rfl, hf (·.winBase) rfl,
    hf (·.winLim) rfl, hf (·.asid) rfl, hf (·.vf) rfl, by rw [State.launches_startThread, mget_mput_self], State.mem_startThread ..,
    fun g hg => State.thread_startThread_ne s1 hg ..⟩

/-- What a slot of an ordered launch does that does not have to give up a task first. -/
def State.taskStep (s : State) (lid gs g : Nat) (l : Launch) (v : VFunc) : Outcome :=
  if l.ending ≠ 0 ∨ !lrOrd l.record ∨ !s.slotFree gs ∨ !s.runs gs ∨ s.migrating l.vf ∨
      s.boundTo gs ≠ some l.vf ∨ s.partOf gs ≠ some l.part then .next s
  else
    match l.takeTask, s.freeWindows (coreOf gs) (lrWin l.record) 1 [] with
    | some (k, l1), [b] =>
      let off := ((l.areas.find? (fun a => a.grp == g)).map (·.off)).getD 0
      let t := { launchThread l lid b k.entry [0, 0, 0, 0] with ts := k.ts, order := k.num }
      let l2 := { l1 with start := some (l1.start.getD s.cycle) }
      let s1 := match k.pool with | some e => s.readPool l e | none => s
      .next (({ s1 with launches := mput s1.launches lid l2 }.startThread gs t
        [(2, stackTop v l.record (coreOf gs) off 0), (3, k.x3), (4, k.arg)]).fillPool (2 ^ lrPlog l.record) lid)
    | _, _ => .next s

theorem exec_taskStart_slot {lid gs x g : Nat} {l : Launch} {v : VFunc} {s : State} (hl : mget s.launches lid = some l)
    (hs : l.slots.find? (fun x => x.1 == gs) = some (x, g)) (hv : mget s.vfs l.vf = some v) (hy : s.mustYield lid l gs = false) :
    exec (.taskStart lid gs) s = s.taskStep lid gs g l v := by
  rw [exec_taskStart, execTaskStart, hl]
  dsimp only
  rw [hs, hv]
  dsimp only
  rw [hy, if_neg (by decide), hl] <;> rfl

theorem taskStart_starts {lid gs x g b : Nat} {l l1 : Launch} {k : Task} {v : VFunc} {s : State} (hl : mget s.launches lid = some l)
    (hs : l.slots.find? (fun x => x.1 == gs) = some (x, g)) (hv : mget s.vfs l.vf = some v) (hy : s.mustYield lid l gs = false)
    (he : l.ending = 0) (ho : lrOrd l.record = true) (hf : s.slotFree gs = true) (hr : s.runs gs = true) (hg : s.migrating l.vf = false)
    (ht : l.takeTask = some (k, l1)) (hw : s.freeWindows (coreOf gs) (lrWin l.record) 1 [] = [b]) :
    (s.boundTo gs ≠ some l.vf ∨ s.partOf gs ≠ some l.part → exec (.taskStart lid gs) s = .next s) ∧
    (s.boundTo gs = some l.vf → s.partOf gs = some l.part →
    let s1 := match k.pool with | some e => s.readPool l e | none => s
    ∃ t : State, exec (.taskStart lid gs) s = .next (t.fillPool (2 ^ lrPlog l.record) lid) ∧ (t.thread gs).live = true ∧
      (t.thread gs).a.pc = k.entry ∧ (t.thread gs).ts = k.ts ∧
      (t.thread gs).order = k.num ∧ (t.thread gs).lid = some lid ∧ (t.thread gs).winBase = b ∧ t.mem = s1.mem ∧
      mget t.launches lid = some { l1 with start := some (l1.start.getD s.cycle) } ∧ (∀ g, g ≠ gs → t.thread g = s1.thread g)) := by
  have hx := exec_taskStart_slot hl hs hv hy
  unfold State.taskStep at hx
  refine ⟨fun hn => hx.trans (if_pos (.inr (.inr (.inr (.inr (.inr hn)))))), fun hb hp => ?_⟩
  have hgo : ¬(l.ending ≠ 0 ∨ (!lrOrd l.record) = true ∨ (!s.slotFree gs) = true ∨ (!s.runs gs) = true ∨ s.migrating l.vf = true ∨
      s.boundTo gs ≠ some l.vf ∨ s.partOf gs ≠ some l.part) := by
    simp [he, ho, hf, hr, hg, hb, hp]
  rw [if_neg hgo, ht, hw] at hx
  let s1 := match k.pool with | some e => s.readPool l e | none => s
  let s2 : State := { s1 with launches := mput s1.launches lid { l1 with start := some (l1.start.getD s.cycle) } }
  let th : Thread := { launchThread l lid b k.entry [0, 0, 0, 0] with ts := k.ts, order := k.num }
  let off := ((l.areas.find? (fun a => a.grp == g)).map (·.off)).getD 0
  let xs := [(2, stackTop v l.record (coreOf gs) off 0), (3, k.x3), (4, k.arg)]
  obtain ⟨n, f, hth⟩ := s2.thread_startThread_self gs th xs
  have hf {α : Type} (p : Thread → α) (hp : p { th with uid := n, stopFor := f } = p th) :
      p ((s2.startThread gs th xs).thread gs) = p th := (congrArg p hth).trans hp
  exact ⟨_, hx, hf (·.live) rfl, hf (·.a.pc) rfl, hf (·.ts) rfl, hf (·.order) rfl, hf (·.lid) rfl, hf (·.winBase) rfl,
    State.mem_startThread .., (congrArg (mget · lid) (State.launches_startThread ..)).trans (mget_mput_self ..),
    fun g hg => State.thread_startThread_ne s2 hg ..⟩

/-! Waits that are passed over (R299). -/

/-- The hold of a wait that is passed over: a sleep has used up one entry of its timeout. -/
def Hold.passedOver : Option Hold → Option Hold
  | some (.sleep w (some d)) => some (.sleep w (some (d - 1)))
  | h => h

theorem Hold.passedOver_other {h : Option Hold} (hne : ∀ w d, h ≠ some (.sleep w (some d))) : Hold.passedOver h = h := by
  unfold Hold.passedOver
  split
  next w d => exact absurd rfl (hne w d)
  next => rfl

theorem passedOverEntry_passes {gs lid : Nat} {l : Launch} {s : State} (hid : (s.thread gs).lid = some lid)
    (hl : mget s.launches lid = some l) (hlive : (s.thread gs).live = true) (hdet : (s.thread gs).det = true) (hr : s.runs gs = true)
    (hk : s.keyTurn gs = true) (hw : s.waitFails (s.thread gs) gs = true) (hb : s.launchBusy lid = false)
    (hst : s.launchStuck lid l = false) :
    ∃ t, exec (.passedOverEntry gs) s = .next t ∧ (t.thread gs).ent = (s.thread gs).ent + 1 ∧ (t.thread gs).a = (s.thread gs).a ∧
      (∀ w d, (s.thread gs).hold = some (.sleep w (some d)) → (t.thread gs).hold = some (.sleep w (some (d - 1)))) ∧
      ((∀ w d, (s.thread gs).hold ≠ some (.sleep w (some d))) → (t.thread gs).hold = (s.thread gs).hold) ∧
      t.mem = s.mem ∧ t.rf = s.rf ∧ (∀ g, g ≠ gs → t.thread g = s.thread g) := by
  let view := s.waitView lid
  let idle := (view, if l.idle.1 = view then (s.thread gs).uid :: l.idle.2.filter (fun u => u != (s.thread gs).uid) else [(s.thread gs).uid])
  let s1 : State := { s with launches := mput s.launches lid { l with idle := idle } }
  let th : Thread := { s.thread gs with ent := (s.thread gs).ent + 1, evald := none, hold := Hold.passedOver (s.thread gs).hold }
  have hbind : (s.thread gs).lid.bind (fun l => (mget s.launches l).map (fun x => (l, x))) = some (lid, l) := by
    rw [hid, Option.bind_some, hl, Option.map_some]
  have he : exec (.passedOverEntry gs) s = .next (s1.setThread gs th) := by
    rw [exec_passedOverEntry, execPassedOverEntry]
    dsimp only
    rw [hbind]
    dsimp only
    rw [if_pos ⟨hlive, hdet, hr, hk, hw, by rw [hb]; rfl, by rw [hst]; rfl⟩] <;> rfl
  have hth : (s1.setThread gs th).thread gs = th := State.thread_setThread_self ..
  refine ⟨_, he, by rw [hth], by rw [hth], fun w d hd => ?_, fun hne => ?_, rfl, rfl, fun g hg => State.thread_setThread_ne s1 _ hg⟩
  · rw [hth]
    exact congrArg Hold.passedOver hd
  · rw [hth]
    exact Hold.passedOver_other hne

/-! Completion (R295, R296, R323). -/

theorem launchComplete_completes {lid : Nat} {l : Launch} {s : State} (hl : mget s.launches lid = some l) (hd : s.launchDone lid l = true) :
    (∀ w, (s.completionWait l (lrCrec l.record) 32).orElse (fun _ => s.completionWait l (lrCev l.record) 8) = some w →
      exec (.launchComplete lid) s = .next w) ∧
    (s.completionWait l (lrCrec l.record) 32 = none → s.completionWait l (lrCev l.record) 8 = none →
      ∃ t, exec (.launchComplete lid) s = .next t ∧ mget t.launches lid = none ∧ t.mem = ((s.writeRecord l).raiseCev l).mem ∧
        (lrCrec l.record = 0 → lrCev l.record = 0 → t.mem = s.mem)) := by
  let s1 := (s.writeRecord l).raiseCev l
  have he : exec (.launchComplete lid) s =
      match (s.completionWait l (lrCrec l.record) 32).orElse (fun _ => s.completionWait l (lrCev l.record) 8) with
      | some w => .next w
      | none => .next { s1 with launches := mdel s1.launches lid } := by
    rw [exec_launchComplete, execLaunchComplete, hl]
    dsimp only
    rw [if_pos hd] <;> rfl
  refine ⟨fun w hw => by rw [he, hw], fun hr hc => ⟨{ s1 with launches := mdel s1.launches lid }, ?_, mget_mdel_self .., rfl, fun h0 h1 => ?_⟩⟩
  · rw [he, hr, hc] <;> rfl
  · have h2 : s.writeRecord l = s := if_pos h0
    have h3 : s.raiseCev l = s := if_pos h1
    show ((s.writeRecord l).raiseCev l).mem = s.mem
    rw [h2, h3]

theorem State.raiseCev_poisoned {l : Launch} {s s1 : State} {pa : Nat} (h0 : lrCev l.record ≠ 0)
    (hx : s.engineXlat (some l.vf) l.asid 1 (lrCev l.record) .rmw = .ok (pa, s1)) (hp : s1.poisoned (pa / 8) = true) :
    s.raiseCev l = s1.queueError l.vf l.queue Cause.dataPoison.code (lrCev l.record) := by
  unfold State.raiseCev
  dsimp only
  rw [if_neg h0, hx]
  exact if_pos hp

end Sys2Proof.Machine

namespace Sys2Proof

open Machine

/-- Settles O45: one equation for the step of each event; that a search starting a core group counts it is an induction over the blocks
it tries (`begun_startNext`). -/
theorem schedulerEvents : Obligations.SchedulerEvents := by
  unfold Obligations.SchedulerEvents
  exact ⟨fun _ _ _ _ hv hq => queueNotify_pends hv hq,
    fun _ _ _ _ _ _ _ hm hv hg hfirst => launchStart_serves hm hv hg hfirst,
    fun _ _ _ _ hl => fillPool_cases hl,
    fun _ _ _ hl ho hr hd => coreGroupStart_starts hl ho hr hd,
    fun _ _ _ hl h => coreGroupStart_waits hl h,
    fun _ _ _ _ _ _ _ hl hc hslot hr hg hw => childStart_starts hl hc hslot hr hg hw,
    fun _ _ _ _ _ _ _ _ _ _ hl hs hv hy he ho hf hr hg ht hw => taskStart_starts hl hs hv hy he ho hf hr hg ht hw,
    fun _ _ _ _ hid hl hlive hdet hr hk hw hb hst => passedOverEntry_passes hid hl hlive hdet hr hk hw hb hst,
    fun _ _ _ hl hd => launchComplete_completes hl hd,
    fun _ _ _ _ h0 hx hp => State.raiseCev_poisoned h0 hx hp,
    fun vf q s => exec_drainRequest vf q s⟩

end Sys2Proof

end

section
/-!
PROOFS. Errors, lost ports, resets, the start of the hypervisor, throttling (R282, R283, R401 to R411).
-/

namespace Sys2Proof.Machine

/-! Errors (R401, R402). -/

theorem sameUnit_iff (a b kind : Nat) : sameUnit a b kind = true ↔ kind = 6 ∨ a / 8192 = b / 8192 := by
  unfold sameUnit
  rw [Bool.or_eq_true, beq_iff_eq, beq_iff_eq]

/-- A corrected event that none of its unit stands for yet opens a record. -/
theorem State.corrected_new {s : State} {kind addr : Nat}
    (h : ∀ m ∈ s.merged, ¬(m.kind = kind ∧ (kind = 6 ∨ m.addr / 8192 = addr / 8192))) :
    s.corrected kind addr = { s with merged := s.merged ++ [⟨kind, addr, s.cycle, 1⟩] } := by
  refine if_neg fun hb => ?_
  obtain ⟨m, hm, hb⟩ := List.any_eq_true.mp hb
  rw [Bool.and_eq_true, beq_iff_eq, sameUnit_iff] at hb
  exact h m hm hb

theorem corrected_opens {kind pa gs addr : Nat} {i : Instr} {s : State}
    (hi : (i = .errorDetected 1 pa gs ∧ kind = 1 ∧ addr = pa) ∨
      (i = .errorDetected 6 pa gs ∧ kind = 6 ∧ addr = 0) ∨ (i = .linkFlitError ∧ kind = 6 ∧ addr = 0))
    (h : ∀ m ∈ s.merged, ¬(m.kind = kind ∧ (kind = 6 ∨ m.addr / 8192 = addr / 8192))) :
    exec i s = .next { s with merged := s.merged ++ [⟨kind, addr, s.cycle, 1⟩] } := by
  have he : exec i s = .next (s.corrected kind addr) := by
    rcases hi with ⟨rfl, rfl, rfl⟩ | ⟨rfl, rfl, rfl⟩ | ⟨rfl, rfl, rfl⟩
    · exact exec_errorDetected ..
    · exact exec_errorDetected ..
    · exact exec_linkFlitError s
  rw [he, State.corrected_new h]

/-- Memory's own addresses lie below the names of the tile store's bytes (log entry 36). -/
theorem State.markBad_memory {s : State} {pa : Nat} (h : pa < 2 ^ 61) : s.markBad pa =
    if (isPackage pa || isHost pa) = true then
      (s.setPoison (pa / 8) true).postHyper 10 (s.ownerOf pa) 0 0 [BitVec.ofNat 64 (2 ^ 32 + 2 ^ 8 + 3), BitVec.ofNat 64 pa, 0]
    else s := by
  have hno : ¬tileBase ≤ pa := Nat.not_le.mpr h
  unfold State.markBad
  rw [if_neg hno] <;> rfl

theorem State.markBad_tile {s : State} {pc k : Nat} (hc : pc < clusterCount) (hk : k < 2097152) :
    s.markBad (2 ^ 61 + (2097152 * pc + k)) = ({ s with
      tilePoison := mput s.tilePoison (2097152 * pc + k) () } : State).postHyper 10 ((s.rowOwner pc (k / 2048)).getD 31) 0 0
        [BitVec.ofNat 64 (2 ^ 32 + 2 ^ 8 + 3), BitVec.ofNat 64 (2 ^ 61 + (2097152 * pc + k)), 0] := by
  have hsub : 2 ^ 61 + (2097152 * pc + k) - tileBase = 2097152 * pc + k := Nat.add_sub_cancel_left ..
  have hpc : (2097152 * pc + k) / 2097152 = pc := by omega
  have hrow : (2097152 * pc + k) / 2048 % 1024 = k / 2048 := by omega
  unfold State.markBad
  rw [if_pos (show tileBase ≤ 2 ^ 61 + (2097152 * pc + k) from Nat.le_add_right ..)]
  dsimp only
  rw [hsub, hpc, hrow, if_pos hc] <;> rfl

/-- An error in a slot's logic: a chunk not granted is retried once where POLICY says so, and all else is contained. -/
theorem State.logicError_contains {s : State} {gs : Nat} (h : (s.thread gs).retried = true ∨
    ∀ c, (s.thread gs).chunks.getLast? = some c → c.granted = true ∨ c.policy % 2 = 0) :
    s.logicError gs = (s.contain (s.thread gs).vf (s.thread gs).asid 2 (some gs)).1 := by
  unfold State.logicError
  dsimp only
  refine if_neg fun hb => ?_
  rw [Bool.and_eq_true] at hb
  obtain ⟨hr, hn⟩ := hb
  rcases h with h | h
  · rw [h] at hn
    exact Bool.noConfusion hn
  · cases hc : (s.thread gs).chunks.getLast? with
    | none =>
      rw [hc] at hr
      exact Bool.noConfusion hr
    | some c =>
      rw [hc] at hr
      dsimp only at hr
      rw [Bool.and_eq_true, beq_iff_eq] at hr
      rcases h c hc with hg | hg
      · rw [hg] at hr
        exact Bool.noConfusion hr.1
      · omega

theorem State.logicError_retries {s : State} {gs : Nat} {c : Chunk} (hr : (s.thread gs).retried = false)
    (hc : (s.thread gs).chunks.getLast? = some c) (hg : c.granted = false) (hp : c.policy % 2 = 1) :
    let body : List Word := [BitVec.ofNat 64 (2 ^ 32 + 2 * 2 ^ 8 + 4), 0, 0]
    let s1 := s.squash gs ((s.thread gs).chunks.length - 1) true false
    let s2 := (s1.setThread gs { s1.thread gs with retried := true }).postHyper 10 ((s.partOf gs).getD 31) ((s.thread gs).vf.getD 0) gs body
    s.logicError gs = match (s.thread gs).vf with
      | some v => s2.postKernel v 10 (s.kernelPlace gs) body
      | none => s2 := by
  unfold State.logicError
  dsimp only
  rw [hc]
  dsimp only
  have hcond : (!c.granted && c.policy % 2 == 1 && !(s.thread gs).retried) = true := by
    rw [hg, hp, hr]
    rfl
  rw [if_pos hcond] <;> rfl

theorem errorDetected_atSlot {pa gs : Nat} {s : State} (hl : (s.thread gs).live = true) :
    exec (.errorDetected 5 pa gs) s = .next (s.contain (s.thread gs).vf (s.thread gs).asid 1 (some gs)).1 ∧
    exec (.errorDetected 4 pa gs) s = .next (s.logicError gs) := by
  refine ⟨?_, ?_⟩
  · rw [exec_errorDetected, execErrorDetected, if_pos hl]
  · rw [exec_errorDetected, execErrorDetected, if_pos hl]

/-! Heathway (R405). -/

theorem heathwayPortFailure_loses (port : Nat) (s : State) :
    (36 ≤ port ∨ port ∈ s.portsDown → exec (.heathwayPortFailure port) s = .next s) ∧
    (port < 36 → ¬port ∈ s.portsDown →
      exec (.heathwayPortFailure port) s = .next ({ s with portsDown := port :: s.portsDown } : State).loseLinks) := by
  have he : exec (.heathwayPortFailure port) s = if 36 ≤ port ∨ s.portsDown.contains port = true then .next s
      else .next ({ s with portsDown := port :: s.portsDown } : State).loseLinks := exec_heathwayPortFailure port s
  exact ⟨fun h => he.trans (if_pos (h.imp id List.contains_iff_mem.mpr)),
    fun h1 h2 => he.trans (if_neg fun h => h.elim (fun h => absurd h1 (Nat.not_lt.mpr h)) (fun h => h2 (List.contains_iff_mem.mp h)))⟩

theorem State.peerUp_down {dev : Nat} {s : State} (h : badIdentifier = true ∨ ∀ p, p < 36 → p ∈ s.portsDown) : s.peerUp dev = false := by
  unfold State.peerUp
  rcases h with h | h
  · rw [h] <;> rfl
  · have hany : (List.range 36).any (fun p => Config.route dev p && !s.portsDown.contains p) = false :=
      List.any_eq_false.mpr fun p hp hb => by
        rw [List.contains_iff_mem.mpr (h p (List.mem_range.mp hp)), Bool.not_true, Bool.and_false] at hb
        exact Bool.noConfusion hb
    rw [hany, Bool.and_false]

/-- The migration of a function loses its link: its pulls fail, and its status says so. -/
def State.loseLink (s : State) (vf : Nat) : State :=
  let s1 := (s.mig vf).asked.foldl (fun (s : State) page => s.failPull vf page) s
  ({ s1 with vfs := s1.vfs.map (fun (x : Nat × VFunc) => if x.1 = vf then (x.1, { x.2 with linkLost := true }) else x) } : State).statMig vf 4

theorem State.loseLinks_eq (s : State) : s.loseLinks =
    (s.vfs.filter (fun p => p.2.mstate == 4 && !p.2.linkLost && !s.peerUp (s.otherPart p.1).1)).foldl
      (fun (s : State) p => s.loseLink p.1) s := rfl

theorem State.vfs_showMig (s : State) (vf : Nat) : (s.showMig vf).vfs = s.vfs ∧ (s.showMig vf).migs = s.migs := by
  have h := (s.wrote_performAll none [.write (s.migBase vf + 0x80)
    (leBytes 8 (s.mstat vf ((mget s.vfs vf).getD VFunc.absent)).toNat ++ leBytes 8 (s.mowned vf ((mget s.vfs vf).getD VFunc.absent)).toNat)]).same
  exact ⟨(congrArg State.vfs h).trans rfl, (congrArg State.migs h).trans rfl⟩

/-- A change of one migration leaves the pulls asked of every other. -/
theorem State.asked_modMig (s : State) (vf : Nat) {f : Mig → Mig} (hf : (f (s.mig vf)).asked = (s.mig vf).asked) (k : Nat) :
    ((s.modMig vf f).mig k).asked = (s.mig k).asked := by
  unfold State.modMig State.mig mgetD
  by_cases h : k = vf
  · subst h
    rw [mget_mput_self]
    exact hf
  · rw [mget_mput_ne _ _ h]

theorem State.asked_statMig (s : State) (vf code k : Nat) : ((s.statMig vf code).mig k).asked = (s.mig k).asked := by
  have h : ((s.statMig vf code).mig k) = ((s.modMig vf (fun m => { m with stat := code })).mig k) :=
    congrArg (mgetD · k Mig.idle) (State.vfs_showMig ..).2
  rw [h]
  exact s.asked_modMig vf (f := fun m => { m with stat := code }) rfl k

/-- With no pull on its way, a lost link changes its own function's record only, and no pull of any. -/
theorem State.loseLink_quiet {s : State} {vf : Nat} (h : (s.mig vf).asked = []) :
    (∀ k, mget (s.loseLink vf).vfs k = (mget s.vfs k).map (fun v => if k = vf then { v with linkLost := true } else v)) ∧
    (∀ k, ((s.loseLink vf).mig k).asked = (s.mig k).asked) := by
  unfold State.loseLink
  rw [h]
  refine ⟨fun k => ?_, fun k => State.asked_statMig ..⟩
  have hv := (State.vfs_showMig (({ s with vfs := s.vfs.map (fun (x : Nat × VFunc) =>
    if x.1 = vf then (x.1, { x.2 with linkLost := true }) else x) } : State).modMig vf (fun m => { m with stat := 4 })) vf).1
  exact (congrArg (mget · k) hv).trans (mget_map_snd (fun j => j = vf) (fun _ (v : VFunc) => { v with linkLost := true }) s.vfs k)

/-- A link that is lost stays lost, and one of the list is lost after it. -/
theorem loseLink_fold {vf : Nat} : ∀ (ps : List (Nat × VFunc)) (s : State) (v : VFunc), (∀ p ∈ ps, (s.mig p.1).asked = []) →
    mget s.vfs vf = some v → (v.linkLost = true ∨ ∃ p ∈ ps, p.1 = vf) →
    ∃ w, mget (ps.foldl (fun (s : State) p => s.loseLink p.1) s).vfs vf = some w ∧ w.linkLost = true := by
  intro ps
  induction ps with
  | nil =>
    intro s v _ hv h
    exact ⟨v, hv, h.resolve_right (fun ⟨_, hp, _⟩ => absurd hp List.not_mem_nil)⟩
  | cons p ps ih =>
    intro s v hq hv h
    obtain ⟨hvfs, hasked⟩ := State.loseLink_quiet (hq p List.mem_cons_self)
    have hv1 := hvfs vf
    rw [hv, Option.map_some] at hv1
    refine ih _ _ (fun x hx => (hasked x.1).trans (hq x (List.mem_cons_of_mem _ hx))) hv1 ?_
    by_cases hp : vf = p.1
    · rw [if_pos hp]
      exact .inl rfl
    · rw [if_neg hp]
      exact h.imp id (fun ⟨x, hx, hxv⟩ => ⟨x, (List.mem_cons.mp hx).resolve_left (fun hxp => hp (hxp ▸ hxv.symm)), hxv⟩)

theorem mem_of_mget {α : Type} {k : Nat} {v : α} : ∀ {m : Map α}, mget m k = some v → (k, v) ∈ m
  | [], h => nomatch h
  | (j, w) :: rest, h => by
    unfold mget at h
    by_cases hj : j = k
    · rw [if_pos hj] at h
      cases h
      exact hj ▸ List.mem_cons_self
    · rw [if_neg hj] at h
      exact List.mem_cons_of_mem _ (mem_of_mget h)

theorem loseLinks_loses (s : State) :
    ((∀ p ∈ s.vfs, p.2.mstate ≠ 4 ∨ p.2.linkLost = true ∨ s.peerUp (s.otherPart p.1).1 = true) → s.loseLinks = s) ∧
    (∀ vf v, (∀ p ∈ s.vfs, (s.mig p.1).asked = []) → mget s.vfs vf = some v → v.mstate = 4 → v.linkLost = false →
      s.peerUp (s.otherPart vf).1 = false →
      ∃ w, mget s.loseLinks.vfs vf = some w ∧ w.linkLost = true) := by
  refine ⟨fun h => ?_, fun vf v hq hv hm hl hu => ?_⟩
  · have hf : s.vfs.filter (fun p => p.2.mstate == 4 && !p.2.linkLost && !s.peerUp (s.otherPart p.1).1) = [] :=
      List.filter_eq_nil_iff.mpr fun p hp hb => by
        rw [Bool.and_eq_true, Bool.and_eq_true, beq_iff_eq, Bool.not_eq_true', Bool.not_eq_true'] at hb
        obtain ⟨⟨hm, hl⟩, hu⟩ := hb
        rcases h p hp with h | h | h
        · exact h hm
        · exact Bool.noConfusion (h.symm.trans hl)
        · exact Bool.noConfusion (h.symm.trans hu)
    rw [State.loseLinks_eq, hf] <;> rfl
  · rw [State.loseLinks_eq]
    refine loseLink_fold _ s v (fun p hp => hq p (List.mem_of_mem_filter hp)) hv
      (.inr ⟨(vf, v), List.mem_filter.mpr ⟨mem_of_mget hv, ?_⟩, rfl⟩)
    rw [Bool.and_eq_true, Bool.and_eq_true, beq_iff_eq, Bool.not_eq_true', Bool.not_eq_true']
    exact ⟨⟨hm, hl⟩, hu⟩

/-! Resets (R404, R407, R408). -/

theorem isPackage_elsewhere {a : Nat} (h : isPackage a = true) : isHost a = false ∧ isPeer a = false := by
  have hlt : a < 2 ^ 50 := by
    have hs : spadBase = 2 ^ 40 := rfl
    unfold isPackage isSpad at h
    rw [Bool.or_eq_true, Bool.or_eq_true] at h
    rcases h with h | h | h
    · have := of_decide_eq_true h
      omega
    · unfold isSpadRange at h
      rw [Bool.and_eq_true, Bool.and_eq_true, decide_eq_true_eq, decide_eq_true_eq] at h
      omega
    · unfold isParked at h
      rw [Bool.and_eq_true, decide_eq_true_eq, decide_eq_true_eq] at h
      omega
  have hh : hostBase = 2 ^ 51 := rfl
  simp only [isHost, isPeer, Bool.and_eq_false_iff, decide_eq_false_iff_not]
  omega

/-- A reset leaves what the host and peers hold, and zeros in the package. -/
theorem State.byteAt_packageReset (s : State) (st f a : Nat) :
    (isHost a = true → (s.packageReset st f).byteAt a = s.byteAt a) ∧ (isPackage a = true → (s.packageReset st f).byteAt a = 0) := by
  have hm : mget (s.packageReset st f).mem a = if isHost a then mget s.mem a else none := mget_filter_key isHost s.mem a
  have hb : (s.packageReset st f).byteAt a = if isPeer a then mgetD s.peer a 0 else (mget (s.packageReset st f).mem a).getD 0 := rfl
  refine ⟨fun h => ?_, fun h => ?_⟩
  · rw [hb, hm, if_pos h] <;> rfl
  · obtain ⟨hh, hp⟩ := isPackage_elsewhere h
    rw [hb, hm, hh, hp] <;> rfl

theorem reset_leaves {i : Instr} {s : State} (hi : i = .packageReset ∨ i = .functionLevelReset 0 ∨ i = .thermalReset) :
    ∃ t : State, exec i s = .next t ∧ t.threads = State.reset.threads ∧ t.rf = State.reset.rf ∧ t.parts = State.reset.parts ∧
      t.vfs = State.reset.vfs ∧ t.launches = State.reset.launches ∧ t.peer = s.peer ∧
      (∀ a, isHost a = true → t.byteAt a = s.byteAt a) ∧ (∀ a, isPackage a = true → t.byteAt a = 0) ∧
      t.ho = { State.reset.ho with state := 0 } ∧
      t.agenda = s.agenda.filter Act.outside ++ [if i = .thermalReset then .handOff 2 2 else .handOff 1 0] := by
  have hr : ∀ st f, exec i s = .next (s.packageReset st f) →
      (if i = .thermalReset then Act.handOff 2 2 else .handOff 1 0) = .handOff st f → _ := fun st f he ha =>
    (⟨s.packageReset st f, he, rfl, rfl, rfl, rfl, rfl, rfl, fun a => (s.byteAt_packageReset st f a).1,
      fun a => (s.byteAt_packageReset st f a).2, rfl, by rw [ha]; rfl⟩ : ∃ t : State, exec i s = .next t ∧
      t.threads = State.reset.threads ∧ t.rf = State.reset.rf ∧ t.parts = State.reset.parts ∧
      t.vfs = State.reset.vfs ∧ t.launches = State.reset.launches ∧ t.peer = s.peer ∧
      (∀ a, isHost a = true → t.byteAt a = s.byteAt a) ∧ (∀ a, isPackage a = true → t.byteAt a = 0) ∧
      t.ho = { State.reset.ho with state := 0 } ∧
      t.agenda = s.agenda.filter Act.outside ++ [if i = .thermalReset then .handOff 2 2 else .handOff 1 0])
  rcases hi with rfl | rfl | rfl
  · exact hr 1 0 (exec_packageReset s) (if_neg (fun h => nomatch h))
  · exact hr 1 0 (exec_functionLevelReset 0 s) (if_neg (fun h => nomatch h))
  · exact hr 2 2 (exec_thermalReset s) (if_pos rfl)

theorem handOff_ends {st f i : Nat} {s : State} (h : s.ho.state = 0) :
    s.act (.handOff st f) = .next { s with ho := { s.ho with state := st, fail := f } } ∧ s.handoffWord i = 0 :=
  ⟨congrArg Host.Outcome.next (if_pos h), if_pos h⟩

/-! What stops (R319, R320, R404). -/

/-- A thread that has ended or is being stopped. -/
def Thread.Stops (t : Thread) : Prop := t.live = false ∨ t.stopping = true

/-- A thread is of a context, and as live and as far stopped, as another. -/
def Thread.Alike (t u : Thread) : Prop := u.live = t.live ∧ u.vf = t.vf ∧ u.asid = t.asid ∧ u.stopping = t.stopping

theorem Thread.Hit.alike {t u : Thread} (h : t.Hit u) : t.Alike u := by
  unfold Thread.Hit at h
  rw [h]
  exact ⟨rfl, rfl, rfl, rfl⟩

theorem Thread.Alike.stops {t u : Thread} (h : t.Alike u) (hs : t.Stops) : u.Stops := by
  obtain ⟨hl, _, _, hst⟩ := h
  exact hs.imp hl.trans hst.trans

theorem Thread.childEnds_alike (p t : Thread) (e : Bool) : p.Alike (p.childEnds t e) := by
  unfold Thread.childEnds
  split <;> exact ⟨rfl, rfl, rfl, rfl⟩

/-- What a stop of threads may do: each thread stays as it was or stops, and off the slots no thread comes to life. -/
structure State.Winds (s t : State) : Prop where
  thread : ∀ g, (t.thread g).Stops ∨ (s.thread g).Alike (t.thread g)
  away : ∀ a ∈ t.away, ∃ b ∈ s.away, a.vf = b.vf ∧ (a.t.live = true → b.t.live = true ∧ b.t.asid = a.t.asid)

theorem State.Winds.of_hits {s t : State} (h : s.Hits t) (ha : t.away = s.away) : s.Winds t :=
  ⟨fun g => .inr (h.thread g).alike, fun a hm => ⟨a, ha ▸ hm, rfl, fun hl => ⟨hl, rfl⟩⟩⟩

theorem State.Winds.of_same {s t : State} (h : t.threads = s.threads) (ha : t.away = s.away) : s.Winds t :=
  ⟨fun g => .inr (by rw [State.thread_congr h g]; exact ⟨rfl, rfl, rfl, rfl⟩), fun a hm => ⟨a, ha ▸ hm, rfl, fun hl => ⟨hl, rfl⟩⟩⟩

theorem State.Winds.refl (s : State) : s.Winds s := .of_same rfl rfl

theorem State.Winds.stops {s t : State} (h : s.Winds t) {g : Nat} (hs : (s.thread g).Stops) : (t.thread g).Stops :=
  (h.thread g).elim id (fun ha => ha.stops hs)

theorem State.Winds.trans {s t u : State} (h : s.Winds t) (k : t.Winds u) : s.Winds u := by
  refine ⟨fun g => ?_, fun a ha => ?_⟩
  · rcases k.thread g with hk | hk
    · exact .inl hk
    · rcases h.thread g with hh | hh
      · exact .inl (hk.stops hh)
      · obtain ⟨h1, h2, h3, h4⟩ := hh
        obtain ⟨k1, k2, k3, k4⟩ := hk
        exact .inr ⟨k1.trans h1, k2.trans h2, k3.trans h3, k4.trans h4⟩
  · obtain ⟨b, hb, hv, hl⟩ := k.away a ha
    obtain ⟨c, hc, hv', hl'⟩ := h.away b hb
    exact ⟨c, hc, hv.trans hv', fun h => ⟨(hl' (hl h).1).1, (hl' (hl h).1).2.trans (hl h).2⟩⟩

theorem State.Winds.ite {s t u : State} {c : Prop} [Decidable c] (h : s.Winds t) (g : s.Winds u) : s.Winds (if c then t else u) := by
  split; exacts [h, g]

theorem State.Winds.foldl {β : Type} {f : State → β → State} (hf : ∀ (s : State) (b : β), s.Winds (f s b)) (l : List β) :
    ∀ s : State, s.Winds (l.foldl f s) := by
  induction l with
  | nil => exact fun s => .refl s
  | cons b l ih => exact fun s => (hf s b).trans (ih _)

theorem State.winds_setThread {s : State} {gs : Nat} {u : Thread} (h : u.Stops ∨ (s.thread gs).Alike u) : s.Winds (s.setThread gs u) := by
  refine ⟨fun g => ?_, fun a hm => ⟨a, hm, rfl, fun hl => ⟨hl, rfl⟩⟩⟩
  by_cases hg : g = gs
  · subst hg
    rwa [State.thread_setThread_self]
  · rw [State.thread_setThread_ne _ _ hg]
    exact .inr ⟨rfl, rfl, rfl, rfl⟩

/-- A change of each thread by itself that leaves it alike, and of the threads off their slots. -/
theorem State.winds_childEnds {s t : State} {w : Thread} {e : Bool} {f : Away → Away}
    (ht : t.threads = s.threads.map (fun p => (p.1, p.2.childEnds w e))) (ha : t.away = s.away.map f)
    (hf : ∀ b, (f b).vf = b.vf ∧ ((f b).t.live = true → b.t.live = true ∧ b.t.asid = (f b).t.asid)) : s.Winds t := by
  refine ⟨fun g => .inr ?_, fun a hm => ?_⟩
  · have hm : mget (s.threads.map (fun p => (p.1, p.2.childEnds w e))) g = (mget s.threads g).map (·.childEnds w e) := by
      have h := mget_map_snd (fun _ => True) (fun _ (v : Thread) => v.childEnds w e) s.threads g
      simpa only [if_true] using h
    unfold State.thread mgetD
    rw [ht, hm]
    cases mget s.threads g with
    | none => exact ⟨rfl, rfl, rfl, rfl⟩
    | some v => exact v.childEnds_alike w e
  · rw [ha] at hm
    obtain ⟨b, hb, rfl⟩ := List.mem_map.mp hm
    exact ⟨b, hb, (hf b).1, (hf b).2⟩

theorem Away.childEnds_keeps (b : Away) (w : Thread) (e : Bool) :
    ({ b with t := b.t.childEnds w e } : Away).vf = b.vf ∧
      ((b.t.childEnds w e).live = true → b.t.live = true ∧ b.t.asid = (b.t.childEnds w e).asid) := by
  obtain ⟨hl, _, ha, _⟩ := b.t.childEnds_alike w e
  exact ⟨rfl, fun h => ⟨hl.symm.trans h, ha.symm⟩⟩

theorem State.winds_releaseSlot (s : State) (gs : Nat) : s.Winds (s.releaseSlot gs) := by
  obtain ⟨hs, h⟩ := s.releaseSlot_shape gs
  rw [h]
  exact .of_same rfl rfl

theorem State.winds_endThread (s : State) (gs : Nat) (e : Bool) : s.Winds (s.endThread gs e) := by
  obtain ⟨ls, h⟩ := s.endThread_shape gs e
  have he : s.Winds (s.emptied gs e) := by
    unfold State.emptied
    dsimp only
    refine ((s.winds_releaseSlot gs).trans ?_).trans (State.winds_setThread (.inl (.inl rfl)))
    exact State.winds_childEnds (f := fun a => { a with t := a.t.childEnds (s.thread gs) e }) rfl rfl (fun b => b.childEnds_keeps _ _)
  rw [h]
  exact he.trans (.of_same rfl rfl)

theorem State.winds_settleStops (s : State) : s.Winds s.settleStops :=
  .foldl (fun s gs => .ite (s.winds_endThread gs false) (.refl s)) _ s

theorem State.winds_beginStop (s : State) (gs : Nat) : s.Winds (s.beginStop gs) := by
  unfold State.beginStop
  dsimp only
  refine .ite (.refl s) (State.Winds.trans (t := { s.withdraw gs with matq := _, copies := _ }) (.of_same rfl rfl)
    (State.winds_setThread (.inl (.inr rfl))))

theorem State.stops_beginStop (s : State) (gs : Nat) : ((s.beginStop gs).thread gs).Stops := by
  unfold State.beginStop
  dsimp only
  by_cases h : (!(s.thread gs).live) = true
  · rw [if_pos h]
    exact .inl (Bool.not_eq_true' _ ▸ h)
  · rw [if_neg h, State.thread_setThread_self]
    exact .inr rfl

theorem State.winds_killThread (s : State) (gs : Nat) : s.Winds (s.killThread gs) :=
  (s.winds_beginStop gs).trans (State.winds_setThread (.inr ⟨rfl, rfl, rfl, rfl⟩))

theorem State.stops_killThread (s : State) (gs : Nat) : ((s.killThread gs).thread gs).Stops := by
  unfold State.killThread
  dsimp only
  rw [State.thread_setThread_self]
  exact s.stops_beginStop gs

/-- Each thread of a list that is killed stops. -/
theorem State.stops_kills (ks : List Nat) (s : State) {g : Nat} (h : g ∈ ks) : ((ks.foldl State.killThread s).thread g).Stops :=
  foldl_each (P := fun s g => (s.thread g).Stops) State.stops_killThread (fun s k _ _ hx => (s.winds_killThread k).stops hx) ks s g (.inl h)

/-- What is left off the slots when a thread there ends. -/
def Away.without (w a : Away) : Away :=
  if a.t.uid = w.t.uid then { a with t := { Thread.idle with uid := w.t.uid } } else { a with t := a.t.childEnds w.t false }

theorem Away.without_keeps (w b : Away) : (w.without b).vf = b.vf ∧
    ((w.without b).t.live = true → b.t.live = true ∧ b.t.asid = (w.without b).t.asid) := by
  unfold Away.without
  split
  · exact ⟨rfl, fun h => nomatch h⟩
  · exact b.childEnds_keeps _ _

theorem State.endAway_shape (s : State) (w : Away) : ∃ hs ns cs ls, s.endAway w = { s with
    homes := hs, nodes := ns, chans := cs, launches := ls
    threads := s.threads.map (fun p => (p.1, p.2.childEnds w.t false)), away := s.away.map w.without } := by
  unfold State.endAway
  dsimp only
  cases w.t.resv with
  | none =>
    dsimp only
    split
    · obtain ⟨ls, h⟩ := State.freeArea_shape _ _ _
      exact ⟨_, _, _, ls, h⟩
    · exact ⟨_, _, _, _, rfl⟩
  | some r =>
    dsimp only
    split
    · obtain ⟨ls, h⟩ := State.freeArea_shape _ _ _
      exact ⟨_, _, _, ls, h⟩
    · exact ⟨_, _, _, _, rfl⟩

theorem State.winds_endAway (s : State) (w : Away) : s.Winds (s.endAway w) := by
  obtain ⟨hs, ns, cs, ls, h⟩ := s.endAway_shape w
  rw [h]
  exact State.winds_childEnds rfl rfl w.without_keeps

/-! Containment of a context (R320, R402). -/

theorem State.away_performAll (s : State) (src : Option Nat) (es : List Eff) : (s.performAll src es).away = s.away :=
  (congrArg State.away (s.wrote_performAll src es).same).trans rfl

theorem State.away_raise (s : State) (gs level code : Nat) : (s.raise gs level code).away = s.away := by
  unfold State.raise
  dsimp only
  split <;> rfl

theorem State.winds_raise (s : State) (gs level code : Nat) : s.Winds (s.raise gs level code) :=
  .of_hits (s.hits_raise gs level code) (s.away_raise gs level code)

theorem State.winds_performAll (s : State) (src : Option Nat) (es : List Eff) : s.Winds (s.performAll src es) :=
  .of_hits (s.hits_performAll src es) (s.away_performAll src es)

theorem State.winds_postHyper (s : State) (type part vf place : Nat) (body : List Word) : s.Winds (s.postHyper type part vf place body) := by
  unfold State.postHyper
  dsimp only
  refine .ite (.refl s) (State.Winds.trans (t := { s with hserial := s.hserial + 1 }) (.of_same rfl rfl) ?_)
  exact (State.winds_performAll ..).trans (State.winds_raise ..)

theorem State.winds_askPull (s : State) (vf page : Nat) : s.Winds (s.askPull vf page) := by
  unfold State.askPull
  dsimp only
  exact .ite (.refl s) (.of_same rfl rfl)

theorem State.winds_writeEvent (s : State) (vf : Nat) (v : VFunc) (ipa : Nat) (bs : List Byte) : s.Winds (s.writeEvent vf v ipa bs) := by
  unfold State.writeEvent
  dsimp only
  exact .ite ((s.winds_askPull _ _).trans (.of_same rfl rfl)) (s.winds_performAll _ _)

theorem State.winds_postKernel (s : State) (vf type place : Nat) (body : List Word) : s.Winds (s.postKernel vf type place body) := by
  unfold State.postKernel
  cases hv : mget s.vfs vf with
  | none => exact .refl s
  | some v =>
    dsimp only
    by_cases h0 : v.elog = 0
    · rw [if_pos h0]
      exact .refl s
    · rw [if_neg h0]
      have hw := State.Winds.trans (s := s) (t := { s with vfs := mput s.vfs vf { v with serial := v.serial + 1 } }) (.of_same rfl rfl)
        (State.winds_writeEvent _ vf v (v.evr + 64 * ((v.serial - 1) % 2 ^ v.elog)) (eventRecord s type v.part vf v.serial place body))
      split
      · exact hw.trans (State.winds_raise ..)
      · exact hw

theorem State.winds_launches (s : State) (ls : Map Launch) : s.Winds { s with launches := ls } := .of_same rfl rfl

/-- The threads that a kill of a context stops, at their slots and off them. -/
def State.contained (s : State) (vf : Option Nat) (asid : Nat) (gs : Option Nat) : State :=
  let ctx := s.contextThreads vf asid (gs.getD slotCount)
  let lids := (ctx.filterMap (fun g => (s.thread g).lid) ++
    (s.away.filter (fun a => a.killed vf asid [])).filterMap (fun a => a.t.lid)).dedup
  let more := (s.threads.filter (fun p => p.2.live && !(p.1 ∈ ctx) && (match p.2.lid with
    | some l => l ∈ lids
    | none => false))).map (·.1)
  (s.away.filter (fun a => a.killed vf asid lids)).foldl State.endAway (more.foldl State.beginStop (ctx.foldl State.killThread s))

theorem State.contained_contain (s : State) (vf : Option Nat) (asid reason : Nat) (gs : Option Nat) :
    (s.contained vf asid gs).Winds (s.contain vf asid reason gs).1 := by
  unfold State.contain State.contained
  dsimp only
  refine State.Winds.trans ?_ (State.winds_settleStops _)
  cases vf with
  | none => exact (State.winds_launches _ _).trans (State.winds_postHyper ..)
  | some v =>
    refine State.Winds.trans ?_ (State.winds_postKernel ..)
    exact (State.winds_launches _ _).trans (State.winds_postHyper ..)

theorem State.winds_contained (s : State) (vf : Option Nat) (asid : Nat) (gs : Option Nat) : s.Winds (s.contained vf asid gs) :=
  ((State.Winds.foldl State.winds_killThread _ s).trans (.foldl State.winds_beginStop _ _)).trans (.foldl State.winds_endAway _ _)

theorem State.winds_contain (s : State) (vf : Option Nat) (asid reason : Nat) (gs : Option Nat) : s.Winds (s.contain vf asid reason gs).1 :=
  (s.winds_contained vf asid gs).trans (s.contained_contain vf asid reason gs)

theorem State.mem_threads_of_live {s : State} {g : Nat} (h : (s.thread g).live = true) : (g, s.thread g) ∈ s.threads := by
  unfold State.thread mgetD at *
  cases hm : mget s.threads g with
  | none =>
    rw [hm] at h
    exact nomatch h
  | some t => exact mem_of_mget hm

/-- Every thread of the context stops. -/
theorem State.contain_stops {s : State} {v asid reason g : Nat} (hl : (s.thread g).live = true) (hv : (s.thread g).vf = some v)
    (ha : (s.thread g).asid = asid) : ((s.contain (some v) asid reason none).1.thread g).Stops := by
  have hg : g ∈ s.contextThreads (some v) asid slotCount := by
    refine List.mem_map.mpr ⟨(g, s.thread g), List.mem_filter.mpr ⟨State.mem_threads_of_live hl, ?_⟩, rfl⟩
    simp [hl, hv, ha]
  refine (s.contained_contain (some v) asid reason none).stops ?_
  exact (State.Winds.foldl State.winds_endAway _ _).stops ((State.Winds.foldl State.winds_beginStop _ _).stops (State.stops_kills _ s hg))

theorem Away.without_live {w b : Away} (h : (w.without b).t.live = true) :
    w.t.uid ≠ b.t.uid ∧ (w.without b).t.uid = b.t.uid := by
  unfold Away.without at *
  by_cases hu : b.t.uid = w.t.uid
  · rw [if_pos hu] at h
    exact nomatch h
  · rw [if_neg hu]
    refine ⟨Ne.symm hu, ?_⟩
    unfold Thread.childEnds
    split <;> rfl

/-- What still lives off its slot after some threads there have ended was none of them. -/
theorem State.endAways_live : ∀ (ws : List Away) (s : State) (a : Away), a ∈ (ws.foldl State.endAway s).away → a.t.live = true →
    ∃ b ∈ s.away, a.vf = b.vf ∧ b.t.live = true ∧ b.t.asid = a.t.asid ∧ b.t.uid = a.t.uid ∧ ∀ w ∈ ws, w.t.uid ≠ b.t.uid := by
  intro ws
  induction ws with
  | nil => exact fun s a ha hl => ⟨a, ha, rfl, hl, rfl, rfl, fun w hw => absurd hw List.not_mem_nil⟩
  | cons w ws ih =>
    intro s a ha hl
    obtain ⟨b', hb', hv, hl', hasid, huid, hne⟩ := ih (s.endAway w) a ha hl
    obtain ⟨hs, ns, cs, ls, h⟩ := s.endAway_shape w
    rw [h] at hb'
    obtain ⟨b, hb, rfl⟩ := List.mem_map.mp hb'
    obtain ⟨hbv, hbl⟩ := w.without_keeps b
    obtain ⟨hw, hbu⟩ := Away.without_live hl'
    refine ⟨b, hb, hv.trans hbv, (hbl hl').1, (hbl hl').2.trans hasid, hbu.symm.trans huid, fun x hx => ?_⟩
    rcases List.mem_cons.mp hx with rfl | hx
    · exact hw
    · exact hbu ▸ hne x hx

theorem State.away_beginStop (s : State) (gs : Nat) : (s.beginStop gs).away = s.away := by
  unfold State.beginStop
  dsimp only
  split <;> rfl

theorem State.away_killThread (s : State) (gs : Nat) : (s.killThread gs).away = s.away := s.away_beginStop gs

theorem State.away_foldl {f : State → Nat → State} (hf : ∀ s g, (f s g).away = s.away) (ks : List Nat) :
    ∀ s : State, (ks.foldl f s).away = s.away := by
  induction ks with
  | nil => exact fun _ => rfl
  | cons k ks ih => exact fun s => (ih _).trans (hf s k)

/-- No thread of the context lives on off its slot. -/
theorem State.contain_away {s : State} {v asid reason : Nat} {a : Away} (hm : a ∈ (s.contain (some v) asid reason none).1.away)
    (hv : a.vf = v) (ha : a.t.asid = asid) : a.t.live = false := by
  refine (Bool.not_eq_true _).mp fun hl => ?_
  obtain ⟨b', hb', hv', hl'⟩ := (s.contained_contain (some v) asid reason none).away a hm
  obtain ⟨b, hb, hbv, hbl, hba, _, hne⟩ := State.endAways_live _ _ b' hb' (hl' hl).1
  rw [State.away_foldl State.away_beginStop, State.away_foldl State.away_killThread] at hb
  refine hne b (List.mem_filter.mpr ⟨hb, ?_⟩) rfl
  have h1 : b.vf = v := hbv.symm.trans (hv'.symm.trans hv)
  have h2 : b.t.asid = asid := hba.trans ((hl' hl).2.trans ha)
  unfold Away.killed
  simp [hbl, h1, h2]

/-! The reset of a function (R404). -/

/-- The contexts of a function are killed one after another. -/
def State.containAll (s : State) (v : Nat) (asids : List Nat) : State :=
  asids.foldl (fun (s : State) a => (s.contain (some v) a 4 none).1) s

theorem State.winds_containAll (s : State) (v : Nat) (asids : List Nat) : s.Winds (s.containAll v asids) :=
  .foldl (fun s a => s.winds_contain (some v) a 4 none) asids s

theorem State.containAll_stops {v g : Nat} : ∀ (asids : List Nat) (s : State), (s.thread g).vf = some v →
    (s.thread g).asid ∈ asids → ((s.containAll v asids).thread g).Stops := by
  intro asids
  induction asids with
  | nil => exact fun s _ h => absurd h List.not_mem_nil
  | cons a asids ih =>
    intro s hv ha
    have hw := s.winds_contain (some v) a 4 none
    show (((s.contain (some v) a 4 none).1.containAll v asids).thread g).Stops
    by_cases hl : (s.thread g).live = true
    · rcases hw.thread g with hst | ⟨_, hv', ha', _⟩
      · exact (State.winds_containAll _ v asids).stops hst
      · rcases List.mem_cons.mp ha with h | h
        · exact (State.winds_containAll _ v asids).stops (State.contain_stops hl hv h)
        · exact ih _ (hv'.trans hv) (ha' ▸ h)
    · exact ((s.winds_containAll v (a :: asids))).stops (.inl ((Bool.not_eq_true _).mp hl))

theorem State.containAll_away {v : Nat} : ∀ (asids : List Nat) (s : State) (a : Away), a ∈ (s.containAll v asids).away → a.vf = v →
    a.t.live = true → ∃ b ∈ s.away, b.vf = v ∧ b.t.live = true ∧ b.t.asid ∉ asids := by
  intro asids
  induction asids with
  | nil => exact fun s a ha hv hl => ⟨a, ha, hv, hl, List.not_mem_nil⟩
  | cons x asids ih =>
    intro s a ha hv hl
    obtain ⟨b', hb', hv', hl', hn⟩ := ih _ a ha hv hl
    obtain ⟨b, hb, hbv, hbl⟩ := (s.winds_contain (some v) x 4 none).away b' hb'
    have hx : b'.t.asid ≠ x := fun h => Bool.noConfusion ((State.contain_away hb' hv' h).symm.trans hl')
    refine ⟨b, hb, hbv.symm.trans hv', (hbl hl').1, fun h => ?_⟩
    rw [(hbl hl').2] at h
    exact (List.mem_cons.mp h).elim hx hn

/-- The contexts in which a function has threads, at their slots or off them. -/
def State.contextsOf (s : State) (v : Nat) : List Nat :=
  ((s.threads.filter (fun p => p.2.live && p.2.vf == some v)).map (fun p => p.2.asid) ++
    (s.away.filter (fun a => a.t.live && a.vf == v)).map (fun a => a.t.asid)).dedup

theorem State.asid_mem_contextsOf {s : State} {v g : Nat} (hl : (s.thread g).live = true) (hv : (s.thread g).vf = some v) :
    (s.thread g).asid ∈ s.contextsOf v := by
  refine List.mem_dedup.mpr (List.mem_append_left _ (List.mem_map.mpr ⟨(g, s.thread g), List.mem_filter.mpr
    ⟨State.mem_threads_of_live hl, ?_⟩, rfl⟩))
  simp [hl, hv]

theorem State.away_asid_mem_contextsOf {s : State} {v : Nat} {b : Away} (hb : b ∈ s.away) (hl : b.t.live = true) (hv : b.vf = v) :
    b.t.asid ∈ s.contextsOf v := by
  refine List.mem_dedup.mpr (List.mem_append_right _ (List.mem_map.mpr ⟨b, List.mem_filter.mpr ⟨hb, ?_⟩, rfl⟩))
  simp [hl, hv]

/-- No launch of a function that has begun goes on after a drain of its queue. -/
def Launch.Drained (l : Launch) (vf q : Nat) : Prop := l.vf = vf → l.queue = q → l.ending = 0 → l.start = none ∧ l.begun = 0

theorem drainQueue_drains (s : State) (vf : Nat) {q : Nat} (hq : q < 64) :
    ∀ p ∈ (s.drainQueue vf q).launches, p.2.Drained vf q := by
  intro p hp hv hpq he
  obtain ⟨x, _, rfl⟩ := List.mem_map.mp hp
  by_cases hc : x.2.vf = vf ∧ x.2.queue = q % 64 ∧ x.2.ending = 0 ∧ (x.2.start.isSome = true ∨ x.2.begun ≠ 0)
  · rw [if_pos hc] at he
    exact nomatch he
  · rw [if_neg hc] at hv hpq he ⊢
    rw [Nat.mod_eq_of_lt hq] at hc
    have hn : ¬(x.2.start.isSome = true ∨ x.2.begun ≠ 0) := fun h => hc ⟨hv, hpq, he, h⟩
    obtain ⟨hst, hb⟩ := not_or.mp hn
    exact ⟨Option.not_isSome_iff_eq_none.mp hst, Decidable.not_not.mp hb⟩

theorem drainQueue_keeps {s : State} {vf vf' q q' : Nat} (h : ∀ p ∈ s.launches, p.2.Drained vf q) :
    ∀ p ∈ (s.drainQueue vf' q').launches, p.2.Drained vf q := by
  intro p hp hv hpq he
  obtain ⟨x, hx, rfl⟩ := List.mem_map.mp hp
  by_cases hc : x.2.vf = vf' ∧ x.2.queue = q' % 64 ∧ x.2.ending = 0 ∧ (x.2.start.isSome = true ∨ x.2.begun ≠ 0)
  · rw [if_pos hc] at he
    exact nomatch he
  · rw [if_neg hc] at hv hpq he ⊢
    exact h x hx hv hpq he

theorem drainQueues_drain (vf : Nat) {q : Nat} : ∀ (qs : List Nat) (s : State), (∀ x ∈ qs, x < 64) →
    q ∈ qs ∨ (∀ p ∈ s.launches, p.2.Drained vf q) →
    ∀ p ∈ (qs.foldl (fun (s : State) q => s.drainQueue vf q) s).launches, p.2.Drained vf q := by
  intro qs
  induction qs with
  | nil => exact fun s _ h => h.resolve_left List.not_mem_nil
  | cons x qs ih =>
    intro s hlt h
    refine ih _ (fun y hy => hlt y (List.mem_cons_of_mem _ hy)) ?_
    rcases h with h | h
    · rcases List.mem_cons.mp h with rfl | h
      · exact .inr (drainQueue_drains s vf (hlt _ List.mem_cons_self))
      · exact .inl h
    · exact .inr (drainQueue_keeps h)

theorem State.settleResets_shape (s : State) : ∃ fs os, s.settleResets = { s with flrs := fs, outbox := os } ∧
    ∀ n ∈ s.flrs, n ∈ fs ∨ Out.resetDone n ∈ os := by
  unfold State.settleResets
  dsimp only
  split
  next h => exact ⟨s.flrs, s.outbox, rfl, fun n hn => .inl hn⟩
  next h =>
    refine ⟨_, _, rfl, fun n hn => ?_⟩
    by_cases hh : (s.threads.any (fun p => p.2.live && p.2.vf == some (n - 1)) || s.away.any (fun a => a.t.live && a.vf == n - 1)) = true
    · exact .inl (List.mem_filter.mpr ⟨hn, hh⟩)
    · refine .inr (List.mem_append_right _ (List.mem_map.mpr ⟨n, List.mem_filter.mpr ⟨hn, ?_⟩, rfl⟩))
      rw [(Bool.not_eq_true _).mp hh] <;> rfl

/-- A function whose contexts are killed and whose queues are drained. -/
def State.functionKilled (s : State) (v : Nat) : State :=
  (List.range 64).foldl (fun (s : State) q => s.drainQueue v q) (s.containAll v (s.contextsOf v))

/-- The reset of a function waits for its end. -/
def State.resetAsked (s : State) (n : Nat) : State := { s with flrs := if s.flrs.contains n then s.flrs else s.flrs ++ [n] }

theorem exec_functionLevelReset_function {n : Nat} (hn : n ≠ 0) (s : State) :
    exec (.functionLevelReset n) s = .next ((s.functionKilled (n - 1)).resetAsked n).settleResets :=
  (exec_functionLevelReset n s).trans (if_neg hn)

theorem State.mem_resetAsked (s : State) (n : Nat) : n ∈ (s.resetAsked n).flrs := by
  unfold State.resetAsked
  dsimp only
  split
  next h => exact List.contains_iff_mem.mp h
  next h => exact List.mem_append_right _ List.mem_cons_self

theorem State.winds_drainQueue (s : State) (vf q : Nat) : s.Winds (s.drainQueue vf q) := s.winds_launches _

theorem State.winds_resetAsked (s : State) (n : Nat) : s.Winds (s.resetAsked n) := .of_same rfl rfl

theorem State.winds_settleResets (s : State) : s.Winds s.settleResets := by
  obtain ⟨fs, os, h, _⟩ := s.settleResets_shape
  rw [h]
  exact .of_same rfl rfl

theorem State.launches_resetAsked (s : State) (n : Nat) : (s.resetAsked n).settleResets.launches = s.launches := by
  obtain ⟨fs, os, h, _⟩ := (s.resetAsked n).settleResets_shape
  rw [h]
  rfl

/-- After the kills of a function only drains and the wait for its reset's end follow. -/
theorem State.containAll_functionReset (s : State) (v n : Nat) :
    (s.containAll v (s.contextsOf v)).Winds ((s.functionKilled v).resetAsked n).settleResets :=
  ((State.Winds.foldl (fun s q => s.winds_drainQueue v q) (List.range 64) _).trans (State.winds_resetAsked _ n)).trans
    (State.winds_settleResets _)

theorem State.functionKilled_drains (s : State) (v : Nat) {q : Nat} (hq : q < 64) :
    ∀ p ∈ (s.functionKilled v).launches, p.2.Drained v q :=
  drainQueues_drain v _ _ (fun _ hx => List.mem_range.mp hx) (.inl (List.mem_range.mpr hq))

theorem functionLevelReset_kills {n : Nat} {s : State} (hn : n ≠ 0) : ∃ t, exec (.functionLevelReset n) s = .next t ∧
    (∀ gs, (s.thread gs).live = true → (s.thread gs).vf = some (n - 1) → (t.thread gs).live = true → (t.thread gs).stopping = true) ∧
    (∀ a ∈ t.away, a.vf = n - 1 → a.t.live = false) ∧ (n ∈ t.flrs ∨ Out.resetDone n ∈ t.outbox) ∧
    ∀ p ∈ t.launches, p.2.vf = n - 1 → p.2.queue < 64 → p.2.ending = 0 → p.2.start = none ∧ p.2.begun = 0 := by
  have hw := s.containAll_functionReset (n - 1) n
  obtain ⟨fs, os, hset, hflr⟩ := ((s.functionKilled (n - 1)).resetAsked n).settleResets_shape
  refine ⟨_, exec_functionLevelReset_function hn s, fun gs hl hv hlt => ?_, fun a ha hv => ?_, ?_, fun p hp hv hq => ?_⟩
  · refine (hw.stops (State.containAll_stops _ s hv (State.asid_mem_contextsOf hl hv))).resolve_left fun h => ?_
    exact Bool.noConfusion (h.symm.trans hlt)
  · refine (Bool.not_eq_true _).mp fun hl => ?_
    obtain ⟨b, hb, hbv, hbl⟩ := hw.away a ha
    obtain ⟨c, hc, hcv, hcl, hca⟩ := State.containAll_away _ s b hb (hbv.symm.trans hv) (hbl hl).1
    exact hca (State.away_asid_mem_contextsOf hc hcl hcv)
  · rw [hset]
    exact hflr n (State.mem_resetAsked ..)
  · rw [State.launches_resetAsked] at hp
    exact s.functionKilled_drains (n - 1) hq p hp hv rfl

/-! The start of the hypervisor (R409, R410) and throttling (R407). -/

theorem hyperThread_status (v : Word) : (hyperThread v).live = true ∧ (hyperThread v).a.pc = v ∧ (hyperThread v).level = 2 ∧
    (hyperThread v).dir = true ∧ (hyperThread v).ie = false ∧ (hyperThread v).winBase = 0 ∧ (hyperThread v).winLim = 64 := by
  have hl : bits (putBit (putBits (startStatus true false false false) 18 17 2) 16 false) 18 17 = 2 := by decide
  have hd : bit (putBit (putBits (startStatus true false false false) 18 17 2) 16 false) 12 = true := by decide
  have hi : bit (putBit (putBits (startStatus true false false false) 18 17 2) 16 false) 16 = false := by decide
  exact ⟨rfl, rfl, hl, hd, hi, rfl, rfl⟩

theorem State.getXOf_startThread_one (s : State) (gs : Nat) (t : Thread) {f : Nat} (v : Word) (hf : f ≠ 0) :
    (s.startThread gs t [(f, v)]).getXOf gs f = v := by
  unfold State.startThread
  dsimp only
  rw [List.foldl_cons, List.foldl_nil, getXOf_setXOf_self _ _ _ hf]

theorem hentry_starts (v : BitVec 64) (s : State) : (s.ho.state ≠ 1 → exec (.hentry v) s = .next s) ∧
    (s.ho.state = 1 → v.toNat % 4 = 0 → ∃ t : State, exec (.hentry v) s = .next t ∧ t.ho = { s.ho with hentry := v, state := 3 } ∧
      (t.thread fetchSlot).live = true ∧ (t.thread fetchSlot).a.pc = v ∧ (t.thread fetchSlot).level = 2 ∧
      (t.thread fetchSlot).dir = true ∧ (t.thread fetchSlot).ie = false ∧ (t.thread fetchSlot).winBase = 0 ∧
      (t.thread fetchSlot).winLim = 64 ∧ t.getXOf fetchSlot 3 = s.ho.harg ∧ t.mem = s.mem ∧
      (∀ g, g ≠ fetchSlot → t.thread g = s.thread g)) := by
  refine ⟨fun h => if_pos (.inl h), fun h1 h4 => ?_⟩
  let s1 : State := { s with ho := { s.ho with hentry := v, state := 3 } }
  have hbits : bits v 1 0 = 0 := by
    unfold bits
    omega
  have he : exec (.hentry v) s = .next (s1.startThread fetchSlot (hyperThread v) [(3, s.ho.harg)]) :=
    if_neg fun h => h.elim (fun h => h h1) (fun h => h hbits)
  obtain ⟨rf, n, f, hshape⟩ := s1.startThread_shape fetchSlot (hyperThread v) [(3, s.ho.harg)]
  obtain ⟨m, k, hth⟩ := s1.thread_startThread_self fetchSlot (hyperThread v) [(3, s.ho.harg)]
  obtain ⟨h2, h3, h5, h6, h7, h8, h9⟩ := hyperThread_status v
  refine ⟨_, he, (congrArg State.ho hshape).trans rfl, ?_, ?_, ?_, ?_, ?_, ?_, ?_, State.getXOf_startThread_one _ _ _ _ (by decide), State.mem_startThread ..,
    fun g hg => State.thread_startThread_ne s1 hg ..⟩ <;> rw [hth]
  exacts [h2, h3, h5, h6, h7, h8, h9]

theorem State.throttle_postHyper (s : State) (type part vf place : Nat) (body : List Word) :
    (s.postHyper type part vf place body).throttle = s.throttle ∧ (s.postHyper type part vf place body).rf = s.rf := by
  unfold State.postHyper
  dsimp only
  split
  · exact ⟨rfl, rfl⟩
  · have hw := State.wrote_performAll ({ s with hserial := s.hserial + 1 } : State) none
      [.write (bits s.hring 56 12 * 4096 + 64 * ((s.hserial - 1) % 2 ^ bits s.hring 4 0)) (eventRecord s type part vf s.hserial place body)]
    have hkeep : ∀ (u : State) (gs level code : Nat), (u.raise gs level code).throttle = u.throttle ∧ (u.raise gs level code).rf = u.rf :=
      fun u gs level code => by
        unfold State.raise
        dsimp only
        split <;> exact ⟨rfl, rfl⟩
    exact ⟨(hkeep ..).1.trans ((congrArg State.throttle hw.same).trans rfl), (hkeep ..).2.trans ((congrArg State.rf hw.same).trans rfl)⟩

theorem throttleStart_starts {die cause frac : Nat} {s : State} (hd : die < 4) (h1 : 1 ≤ cause) (h2 : cause ≤ 2) (hf : frac ≤ 63) :
    (mget s.throttle die = some (cause, frac) → exec (.throttleStart die cause frac) s = .next s) ∧
    (mget s.throttle die ≠ some (cause, frac) →
      ∃ t, exec (.throttleStart die cause frac) s = .next t ∧ mget t.throttle die = some (cause, frac) ∧ t.rf = s.rf) := by
  refine ⟨fun h => if_pos (.inr (.inr (.inr (.inr h)))), fun h => ⟨_, if_neg ?_, ?_, (State.throttle_postHyper ..).2⟩⟩
  · rintro (h' | h' | h' | h' | h')
    · omega
    · omega
    · omega
    · omega
    · exact h h'
  · rw [(State.throttle_postHyper ..).1, mget_mput_self]

theorem throttleEnd_ends {die : Nat} {s : State} (h : (mget s.throttle die).isSome = true) :
    ∃ t, exec (.throttleEnd die) s = .next t ∧ mget t.throttle die = none ∧ t.rf = s.rf := by
  refine ⟨_, if_pos h, ?_, (State.throttle_postHyper ..).2⟩
  rw [(State.throttle_postHyper ..).1, mget_mdel_self]

end Sys2Proof.Machine

namespace Sys2Proof

open Machine

/-- Settles O46: what a function-level reset stops is carried through its kills by `State.Winds`, under which a thread that stops stays so. -/
theorem packageEvents : Obligations.PackageEvents := by
  unfold Obligations.PackageEvents
  exact ⟨fun _ _ _ _ _ _ hi h => corrected_opens hi h,
    fun pa gs s => exec_errorDetected 2 pa gs s,
    fun pa gs s => ⟨fun h h1 h2 => (exec_errorDetected 3 pa gs s).trans (congrArg Host.Outcome.next
        ((State.markBad_memory h).trans (if_neg (by rw [h1, h2]; decide)))),
      fun h h1 => (exec_errorDetected 3 pa gs s).trans (congrArg Host.Outcome.next
        ((State.markBad_memory h).trans (if_pos (Bool.or_eq_true _ _ ▸ h1))))⟩,
    fun pc k gs s hc hk => (exec_errorDetected 3 _ gs s).trans (congrArg Host.Outcome.next (State.markBad_tile hc hk)),
    fun pa gs s hl => ⟨(errorDetected_atSlot hl).1,
      fun h => (errorDetected_atSlot hl).2.trans (congrArg Host.Outcome.next (State.logicError_contains h)),
      fun _ hr hc hg hp => (errorDetected_atSlot hl).2.trans (congrArg Host.Outcome.next (State.logicError_retries hr hc hg hp))⟩,
    heathwayPortFailure_loses, loseLinks_loses,
    fun _ _ h => State.peerUp_down h,
    fun _ _ hi => reset_leaves hi,
    fun _ _ _ _ h => handOff_ends h,
    fun _ h => if_neg h,
    fun _ _ hn => functionLevelReset_kills hn,
    hentry_starts,
    fun _ _ _ _ hd h1 h2 hf => throttleStart_starts hd h1 h2 hf,
    fun _ h => if_neg h,
    fun _ _ h => throttleEnd_ends h⟩

end Sys2Proof

end

section
/-!
PROOFS. The host link: the host's reads, writes and snoops, access counters and region moves (R258, R318, R347 to R356, R384, R411).
-/

namespace Sys2Proof.Machine

/-! Reads and writes by the host (R258). -/

theorem isHbm_lt {pa : Nat} (h : isHbm pa = true) : pa < 0xC000000000 := of_decide_eq_true h

theorem inHandoff_hbm {pa : Nat} (h : isHbm pa = true) : inHandoff pa = false := by
  have hlt := isHbm_lt h
  have hb : bar0 = 2 ^ 62 := rfl
  have hno : ¬bar0 ≤ pa := by omega
  unfold inHandoff
  rw [decide_eq_false hno, Bool.false_and]

/-- An address outside every function's segment is served at once. -/
theorem State.cxlMem_outside {s : State} {pa : Nat} (h : s.segmentOf pa = none) : s.cxlMem pa = .serve s := by
  unfold State.cxlMem
  rw [h]

theorem State.cxlMem_given {s : State} {pa vf : Nat} {v : VFunc} (h : s.segmentOf pa = some (vf, v)) (hm : s.moves = [])
    (h3 : v.mstate = 3) (hg : (pa - v.sbase) / 65536 ∈ (s.mig vf).given) :
    s.cxlMem pa = .gone (s.countRegion vf v false ((pa - v.sbase) / 65536)) vf v := by
  unfold State.cxlMem
  rw [h, hm]
  dsimp only
  rw [List.any_nil, if_neg (by decide), if_pos ⟨h3, List.contains_iff_mem.mpr hg⟩]

theorem exec_cxlMemRead_hbm {pa : Nat} (h : isHbm pa = true) (s : State) : exec (.cxlMemRead pa) s =
    match s.cxlMem (pa / 64 * 64) with
    | .wait s1 => .next s1
    | .gone s1 vf v => .next { s1.hostError vf v (pa / 64 * 64) with
        outbox := (s1.hostError vf v (pa / 64 * 64)).outbox ++ [Out.hostData (pa / 64 * 64) none] }
    | .serve s1 => .next ({ s1 with outbox := s1.outbox ++ [Out.hostData (pa / 64 * 64)
        (if (dwordsOf (pa / 64 * 64) 64).any s1.poisoned then none else some (s1.bytesAt (pa / 64 * 64) 64))] }.hostTakes
          (lineOf (pa / 64 * 64))) := by
  rw [exec_cxlMemRead, execCxlMemRead, inHandoff_hbm h, h] <;> rfl

theorem cxlMemRead_serves {pa : Nat} {s : State} (h : isHbm pa = true) (hs : s.segmentOf (pa / 64 * 64) = none) :
    exec (.cxlMemRead pa) s = .next { s with
      hostLines := mput s.hostLines (lineOf (pa / 64 * 64)) ()
      outbox := s.outbox ++ [.hostData (pa / 64 * 64)
        (if (dwordsOf (pa / 64 * 64) 64).any s.poisoned then none else some (s.bytesAt (pa / 64 * 64) 64))] } := by
  rw [exec_cxlMemRead_hbm h, State.cxlMem_outside hs] <;> rfl

theorem cxlMemRead_handoff {pa : Nat} (s : State) (h1 : bar0 ≤ pa) (h2 : pa < bar0 + 4096) :
    exec (.cxlMemRead pa) s = .next { s with outbox := s.outbox ++ [.hostData (pa / 64 * 64)
      (some ((List.range 8).flatMap (fun i => leBytes 8 (s.handoffWord ((pa - bar0) / 64 * 8 + i)).toNat)))] } := by
  have hin : inHandoff pa = true := by
    unfold inHandoff
    rw [decide_eq_true h1, decide_eq_true h2]
    rfl
  exact (exec_cxlMemRead pa s).trans (if_pos hin)

theorem cxlMemRead_gone {pa vf : Nat} {v : VFunc} {s : State} (h : isHbm pa = true) (hs : s.segmentOf (pa / 64 * 64) = some (vf, v))
    (hm : s.moves = []) (h3 : v.mstate = 3) (hg : (pa / 64 * 64 - v.sbase) / 65536 ∈ (s.mig vf).given) :
    let s1 := (s.countRegion vf v false ((pa / 64 * 64 - v.sbase) / 65536)).hostError vf v (pa / 64 * 64)
    exec (.cxlMemRead pa) s = .next { s1 with outbox := s1.outbox ++ [.hostData (pa / 64 * 64) none] } := by
  rw [exec_cxlMemRead_hbm h, State.cxlMem_given hs hm h3 hg]

theorem cxlMemWrite_writes {pa : Nat} {bytes : List Byte} {s : State} (h : isHbm pa = true) (hb : bytes ≠ [])
    (hl : pa % 64 + bytes.length ≤ 64) (hs : s.segmentOf pa = none) :
    exec (.cxlMemWrite pa bytes) s = .next ({ s with hostLines := mdel s.hostLines (lineOf pa) }.performAll none [.write pa bytes]) := by
  have hno : ¬((!isHbm pa) = true ∨ bytes = [] ∨ 64 < pa % 64 + bytes.length) := by
    rintro (h' | h' | h')
    · rw [h] at h'
      exact Bool.noConfusion h'
    · exact hb h'
    · omega
  rw [exec_cxlMemWrite, execCxlMemWrite, if_neg hno, State.cxlMem_outside hs] <;> rfl

/-! Notices and back-invalidation (R318, R349). -/

theorem State.sendNotice_atSlot {uid gs : Nat} {w : Word} {t : Thread} {s : State}
    (h : s.threads.find? (fun p => p.2.live && p.2.uid == uid) = some (gs, t)) (hg : gs < slotCount) :
    s.sendNotice (uid, w) = (s.arrive gs 15 w).getD { s with notices := s.notices ++ [(uid, w)] } := by
  unfold State.sendNotice
  dsimp only
  rw [h]
  exact if_neg (Nat.not_le.mpr hg)

theorem sendNotice_arrives {uid gs : Nat} {w : Word} {t : Thread} {s : State} (s1 : State)
    (h : s.threads.find? (fun p => p.2.live && p.2.uid == uid) = some (gs, t)) (hg : gs < slotCount) :
    (s.arrive gs 15 w = some s1 → s.sendNotice (uid, w) = s1) ∧
      (s.arrive gs 15 w = none → s.sendNotice (uid, w) = { s with notices := s.notices ++ [(uid, w)] }) :=
  ⟨fun ha => by rw [State.sendNotice_atSlot h hg, ha, Option.getD_some],
    fun ha => by rw [State.sendNotice_atSlot h hg, ha, Option.getD_none]⟩

theorem backInvalidate_sends (items : List Nat) (s : State) :
    let ls := items.filter (fun l => (mget s.hostLines l).isSome)
    (s.backInvalidate items).hostInval = s.hostInval ++ ls ∧ (s.backInvalidate items).outbox = s.outbox ++ ls.map Out.backInval ∧
    (∀ l ∈ ls, mget (s.backInvalidate items).hostLines l = none) ∧
    s.act .hostResponse = .next { s with hostInval := s.hostInval.drop 1 } := by
  dsimp only
  unfold State.backInvalidate
  by_cases h0 : s.hostLines = []
  · have hls : items.filter (fun l => (mget s.hostLines l).isSome) = [] :=
      List.filter_eq_nil_iff.mpr fun l _ hl => by
        rw [h0] at hl
        exact nomatch hl
    rw [if_pos h0, hls]
    exact ⟨(List.append_nil _).symm, (List.append_nil _).symm, fun l hl => absurd hl List.not_mem_nil, rfl⟩
  · rw [if_neg h0]
    refine ⟨rfl, rfl, fun l hl => ?_, rfl⟩
    have hm := mget_filter_key (fun k => !(decide (k ∈ items.filter (fun l => (mget s.hostLines l).isSome)))) s.hostLines l
    rw [if_neg (by rw [decide_eq_true hl]; decide)] at hm
    exact hm

/-! Snoops (R258, R348). -/

theorem exec_cxlCacheSnoop_host {pa : Nat} {bytes : List Byte} (h : isHost pa = true) (hl : pa % 64 + bytes.length ≤ 64) (s : State) :
    exec (.cxlCacheSnoop pa bytes) s = if bytes = [] then
      .next ((s.cohDrain (lineOf pa)).setDir (lineOf pa) (((s.cohDrain (lineOf pa)).dirOf (lineOf pa)).map
        (fun x => match x with | .i => .i | _ => .s)))
    else .next (s.performAll none [.edge pa bytes]) := by
  refine (exec_cxlCacheSnoop pa bytes s).trans (if_neg ?_)
  rintro (h' | h')
  · rw [h] at h'
    exact Bool.noConfusion h'
  · omega

/-- A host read leaves each die that held the line a shared copy. -/
theorem dieState_downgraded (s : State) (l die : Nat) :
    (s.setDir l ((s.dirOf l).map (fun x => match x with | .i => .i | _ => .s))).dieState l die =
      if s.dieState l die = .i then .i else .s := by
  unfold State.dieState
  rw [State.dirOf_setDir_self, List.getD_eq_getElem?_getD, List.getD_eq_getElem?_getD, List.getElem?_map]
  cases (s.dirOf l)[die]? with
  | none => rfl
  | some x => cases x <;> rfl

theorem cxlCacheSnoop_snoops {pa : Nat} {bytes : List Byte} {s : State} (h : isHost pa = true) (hl : pa % 64 + bytes.length ≤ 64) :
    (bytes ≠ [] → exec (.cxlCacheSnoop pa bytes) s = .next (s.performAll none [.edge pa bytes])) ∧
    (bytes = [] → ∃ t, exec (.cxlCacheSnoop pa bytes) s = .next t ∧ t.mem = s.mem ∧ t.rf = s.rf ∧
      ∀ die, t.dieState (lineOf pa) die = (if (s.cohDrain (lineOf pa)).dieState (lineOf pa) die = .i then .i else .s)) := by
  have he := exec_cxlCacheSnoop_host h hl s
  refine ⟨fun hb => he.trans (if_neg hb), fun hb => ⟨_, he.trans (if_pos hb), ?_, ?_, fun die => dieState_downgraded _ _ die⟩⟩
  · exact (congrArg State.mem (s.cohered_cohDrain (lineOf pa)).same).trans rfl
  · exact (congrArg State.rf (s.cohered_cohDrain (lineOf pa)).same).trans rfl

/-! Access counters and moves of regions (R351 to R354). -/

theorem accessCounterThreshold_acts {vf region : Nat} {host : Bool} {v : VFunc} {s : State} (hv : mget s.vfs vf = some v) :
    let e := s.dwordAt (v.pa ((if host then v.hct else v.dct) + 8 * region))
    let ptea := 8 * bits e 48 0
    let leaves := (List.range 16).map (fun i => s.dwordAt (v.pa ptea + 8 * i))
    (bits e 51 50 = 0 ∨ bits e 51 50 = 3 → exec (.accessCounterThreshold vf host region) s = .next s) ∧
    (bits e 51 50 = 1 → exec (.accessCounterThreshold vf host region) s = .next (s.report vf v 3 (65536 * region) 0 ptea)) ∧
    (∀ f s1, bits e 51 50 = 2 → ptea ≠ 0 → ptea % 128 = 0 → (v.window ptea).isSome = true → groupMaps (regionIpa host region) leaves = true →
      s.moves.length < 16 → State.takeFrame vf v host (65536 * region) ptea 511 s = (some f, s1) →
      ∃ t : State, exec (.accessCounterThreshold vf host region) s = .next t ∧
        t.moves = s1.moves ++ [⟨vf, host, region, f, ptea, leaves, []⟩] ∧
        t.mem = (s1.writeLeaves v ptea (leaves.map (fun w => putBit (putBit w 0 false) 53 true))).mem) := by
  rw [exec_accessCounterThreshold, execAccessCounterThreshold, hv]
  dsimp only
  refine ⟨fun h => ?_, fun h => if_pos h, fun f s1 h h0 h128 hw hg hm hf => ?_⟩
  · rw [if_neg (by omega), if_pos (by omega)]
  · have hno : ¬(8 * bits (s.dwordAt (v.pa ((if host then v.hct else v.dct) + 8 * region))) 48 0 = 0 ∨
        8 * bits (s.dwordAt (v.pa ((if host then v.hct else v.dct) + 8 * region))) 48 0 % 128 ≠ 0 ∨
        (v.window (8 * bits (s.dwordAt (v.pa ((if host then v.hct else v.dct) + 8 * region))) 48 0)).isNone = true ∨
        (!groupMaps (regionIpa host region) ((List.range 16).map (fun i => s.dwordAt (v.pa
          (8 * bits (s.dwordAt (v.pa ((if host then v.hct else v.dct) + 8 * region))) 48 0) + 8 * i)))) = true) := by
      rintro (h' | h' | h' | h')
      · exact h0 h'
      · exact h' h128
      · rw [Option.isNone_iff_eq_none] at h'
        rw [h'] at hw
        exact Bool.noConfusion hw
      · rw [hg] at h'
        exact Bool.noConfusion h'
    rw [if_neg (by omega), if_neg (by omega), if_neg hno, if_neg (by omega), hf]
    exact ⟨_, rfl, rfl, rfl⟩

/-- What a copy of a region, its report and its leaves leave alone. -/
def State.MovesKept (s t : State) : Prop := t.moves = s.moves ∧ t.notices = s.notices ∧ t.rf = s.rf

theorem State.MovesKept.trans {s t u : State} (h : s.MovesKept t) (g : t.MovesKept u) : s.MovesKept u :=
  ⟨g.1.trans h.1, g.2.1.trans h.2.1, g.2.2.trans h.2.2⟩

theorem State.MovesKept.foldl {β : Type} {f : State → β → State} (hf : ∀ (s : State) (b : β), s.MovesKept (f s b)) (l : List β) :
    ∀ s : State, s.MovesKept (l.foldl f s) := by
  induction l with
  | nil => exact fun s => ⟨rfl, rfl, rfl⟩
  | cons b l ih => exact fun s => (hf s b).trans (ih _)

theorem State.Wrote.movesKept {s t : State} (h : s.Wrote t) : s.MovesKept t :=
  ⟨(congrArg State.moves h.same).trans rfl, (congrArg State.notices h.same).trans rfl, (congrArg State.rf h.same).trans rfl⟩

theorem State.Rung.movesKept {s t : State} (h : s.Rung t) : s.MovesKept t :=
  ⟨(congrArg State.moves h.same).trans rfl, (congrArg State.notices h.same).trans rfl, (congrArg State.rf h.same).trans rfl⟩

theorem State.movesKept_noteOwn (s : State) (ls : List Nat) : s.MovesKept (s.noteOwn ls) := by
  unfold State.noteOwn
  split <;> exact ⟨rfl, rfl, rfl⟩

theorem State.movesKept_writeOwn (s : State) (es : List Eff) : s.MovesKept (s.writeOwn es) := by
  exact (s.movesKept_noteOwn _).trans (State.wrote_performAll ..).movesKept

theorem State.movesKept_setPoison (s : State) (k : Nat) (p : Bool) : s.MovesKept (s.setPoison k p) := ⟨rfl, rfl, rfl⟩

theorem State.movesKept_copyRegion (s : State) (vf : Nat) (v : VFunc) (src dst : Nat) : s.MovesKept (s.copyRegion vf v src dst) := by
  refine .foldl (fun s i => ?_) _ s
  refine State.MovesKept.trans ?_ (.foldl (fun s k => s.movesKept_setPoison _ _) _ _)
  exact ((s.rung_walkLines ..).movesKept.trans (State.movesKept_noteOwn ..)).trans (State.wrote_performAll ..).movesKept

theorem State.movesKept_raise (s : State) (gs level code : Nat) : s.MovesKept (s.raise gs level code) := by
  unfold State.raise
  dsimp only
  split <;> exact ⟨rfl, rfl, rfl⟩

theorem State.movesKept_writeEvent (s : State) (vf : Nat) (v : VFunc) (ipa : Nat) (bs : List Byte) :
    s.MovesKept (s.writeEvent vf v ipa bs) := by
  unfold State.writeEvent
  dsimp only
  split
  · have h : s.MovesKept (s.askPull vf (ipa / 65536)) := by
      unfold State.askPull
      dsimp only
      split <;> exact ⟨rfl, rfl, rfl⟩
    exact h.trans ⟨rfl, rfl, rfl⟩
  · exact (s.wrote_performAll ..).movesKept

theorem State.movesKept_postKernel (s : State) (vf type place : Nat) (body : List Word) : s.MovesKept (s.postKernel vf type place body) := by
  unfold State.postKernel
  cases mget s.vfs vf with
  | none => exact ⟨rfl, rfl, rfl⟩
  | some v =>
    dsimp only
    by_cases h0 : v.elog = 0
    · rw [if_pos h0]
      exact ⟨rfl, rfl, rfl⟩
    · rw [if_neg h0]
      have hw := State.MovesKept.trans (s := s) (t := { s with vfs := mput s.vfs vf { v with serial := v.serial + 1 } }) ⟨rfl, rfl, rfl⟩
        (State.movesKept_writeEvent _ vf v (v.evr + 64 * ((v.serial - 1) % 2 ^ v.elog)) (eventRecord s type v.part vf v.serial place body))
      split
      · exact hw.trans (State.movesKept_raise ..)
      · exact hw

theorem regionMoveComplete_ends {vf : Nat} {m : Move} {v : VFunc} {s : State} (hm : s.moves.find? (fun m => m.vf == vf) = some m)
    (hv : mget s.vfs vf = some v) :
    ∃ t, exec (.regionMoveComplete vf) s = .next t ∧ t.moves = s.moves.erase m ∧ t.rf = s.rf ∧
      t.notices = s.notices ++ m.waiters.map (fun w => (w.1, BitVec.ofNat 64 (0xFE * 2 ^ 56 + w.2 * 2 ^ 32))) := by
  let dst := (if m.toDevice then 0 else hostBase) + m.frame
  let s1 := s.copyRegion vf v (regionIpa m.toDevice m.region) dst
  let s2 := s1.writeLeaves v m.ptea (m.leaves.zipIdx.map (fun (p : Word × Nat) => leafMoved dst p.1 p.2))
  let s3 := s2.report vf v (if m.toDevice then 1 else 2) (65536 * m.region) m.frame m.ptea
  obtain ⟨hmoves, hnotices, hrf⟩ : s.MovesKept s3 :=
    ((s.movesKept_copyRegion ..).trans (State.movesKept_writeOwn ..)).trans (State.movesKept_postKernel ..)
  have he : exec (.regionMoveComplete vf) s = .next { s3 with
      moves := s3.moves.erase m
      notices := s3.notices ++ m.waiters.map (fun (w : Nat × Nat) => (w.1, nw (0xFE * 2 ^ 56 + w.2 * 2 ^ 32))) } := by
    rw [exec_regionMoveComplete, execRegionMoveComplete, hm, hv]
  exact ⟨_, he, congrArg (List.erase · m) hmoves, hrf, congrArg (· ++ _) hnotices⟩

end Sys2Proof.Machine

namespace Sys2Proof

open Machine

/-- Settles O47: how `cxlMem` answers an address decides a host access; copies, reports and leaves leave the moves and notices alone. -/
theorem hostLinkEvents : Obligations.HostLinkEvents := by
  unfold Obligations.HostLinkEvents
  exact ⟨fun _ _ h hs => cxlMemRead_serves h hs,
    fun _ s h1 h2 => cxlMemRead_handoff s h1 h2,
    fun _ _ _ _ h hs hm h3 hg => cxlMemRead_gone h hs hm h3 hg,
    fun _ _ _ _ _ s1 h hg => sendNotice_arrives s1 h hg,
    backInvalidate_sends,
    fun _ _ _ h hb hl hs => cxlMemWrite_writes h hb hl hs,
    fun _ _ _ h hl => cxlCacheSnoop_snoops h hl,
    fun _ _ _ _ _ hv => accessCounterThreshold_acts hv,
    fun _ _ _ _ hm hv => regionMoveComplete_ends hm hv⟩

end Sys2Proof

end

section
/-!
PROOFS. The debug port, counters, snapshots, sampling, trace units, register writes (R372, R373, R392 to R399, R408, R409).
-/

namespace Sys2Proof.Machine

/-! Event records (R306, R318). -/

/-- What writing an event record to a ring of the hypervisor or of a function can lead to: what a write leads to, the ring's own number, and
pulls of a page that a migration has not brought yet. -/
structure State.Posts (s t : State) : Prop where
  same : t = { s with
    mem := t.mem, poison := t.poison, peer := t.peer, threads := t.threads, gregs := t.gregs, gregHist := t.gregHist
    remotes := t.remotes, dirs := t.dirs, coh := t.coh, l1 := t.l1, hostPart := t.hostPart, hostLines := t.hostLines
    hostInval := t.hostInval, globals := t.globals, outbox := t.outbox
    edges := t.edges, fresh := t.fresh, sigs := t.sigs, stops := t.stops, mb := t.mb, agenda := t.agenda
    watches := t.watches, traced := t.traced, vfs := t.vfs, migs := t.migs, hserial := t.hserial }

theorem State.Posts.refl (s : State) : s.Posts s := ⟨rfl⟩

theorem State.Posts.trans {s t u : State} (h : s.Posts t) (g : t.Posts u) : s.Posts u := ⟨by rw [g.same, h.same]⟩

theorem State.Posts.ite {s t u : State} {c : Prop} [Decidable c] (h : s.Posts t) (g : s.Posts u) : s.Posts (if c then t else u) := by
  split; exacts [h, g]

theorem State.Wrote.posts {s t : State} (h : s.Wrote t) : s.Posts t := ⟨by rw [h.same]⟩

theorem State.posts_raise (s : State) (gs level code : Nat) : s.Posts (s.raise gs level code) := by
  unfold State.raise
  exact .ite ⟨rfl⟩ (.refl s)

theorem State.posts_vfs (s : State) (m : Map VFunc) : s.Posts { s with vfs := m } := ⟨rfl⟩

theorem State.posts_migs (s : State) (m : Map Mig) : s.Posts { s with migs := m } := ⟨rfl⟩

theorem State.posts_askPull (s : State) (vf page : Nat) : s.Posts (s.askPull vf page) := by
  unfold State.askPull
  exact .ite (.refl s) ⟨rfl⟩

theorem State.posts_writeEvent (s : State) (vf : Nat) (v : VFunc) (ipa : Nat) (bs : List Byte) : s.Posts (s.writeEvent vf v ipa bs) := by
  unfold State.writeEvent
  exact .ite ((s.posts_askPull _ _).trans (State.posts_migs _ _)) (s.wrote_performAll _ _).posts

theorem State.posts_postKernel (s : State) (vf type place : Nat) (body : List Word) : s.Posts (s.postKernel vf type place body) := by
  unfold State.postKernel
  cases mget s.vfs vf with
  | none => exact .refl s
  | some v =>
    dsimp only
    by_cases h0 : v.elog = 0
    · rw [if_pos h0]
      exact .refl s
    · rw [if_neg h0]
      have hw := (s.posts_vfs (mput s.vfs vf { v with serial := v.serial + 1 })).trans
        (State.posts_writeEvent _ vf v (v.evr + 64 * ((v.serial - 1) % 2 ^ v.elog)) (eventRecord s type v.part vf v.serial place body))
      split
      · exact hw.trans (State.posts_raise ..)
      · exact hw

theorem State.posts_postHyper (s : State) (type part vf place : Nat) (body : List Word) : s.Posts (s.postHyper type part vf place body) := by
  unfold State.postHyper
  refine .ite (.refl s) ?_
  exact (State.Posts.trans (s := s) (t := { s with hserial := s.hserial + 1 }) ⟨rfl⟩ (State.wrote_performAll ..).posts).trans
    (State.posts_raise ..)

/-! The debug port (R398, R399). -/

theorem forPart_other {α : Type} {x : ForDev α} (h : x.dev ≠ Config.devid % 2 ^ 20) (s : State) (act : α → Outcome) :
    forPart x s act = .next s := if_neg h

/-- An action that names another part does nothing here. -/
theorem debug_elsewhere {dev : Nat} {i : Instr} {s : State} (h : dev ≠ Config.devid % 2 ^ 20) (hi : Spec.debugDev i = some dev) :
    exec i s = .next s := by
  cases i with
  | dbgen x on => cases hi; exact (exec_dbgen ..).trans (forPart_other h s _)
  | bpset x n b => cases hi; exact (exec_bpset ..).trans (forPart_other h s _)
  | halt x => cases hi; exact (exec_halt ..).trans (forPart_other h s _)
  | step x => cases hi; exact (exec_step ..).trans (forPart_other h s _)
  | debugRead x => cases hi; exact (exec_debugRead ..).trans (forPart_other h s _)
  | debugWrite x r => cases hi; exact (exec_debugWrite ..).trans (forPart_other h s _)
  | debugResume x => cases hi; exact (exec_debugResume ..).trans (forPart_other h s _)
  | _ => exact nomatch hi

/-- The partitions with debug routing after it is set for one. -/
def routed (d : List Nat) (part : Nat) (on : Bool) : List Nat :=
  if on then part :: d.filter (fun p => p != part) else d.filter (fun p => p != part)

theorem mem_routed (d : List Nat) (part : Nat) (on : Bool) :
    (part ∈ routed d part on ↔ on = true) ∧ ∀ p, p ≠ part → (p ∈ routed d part on ↔ p ∈ d) := by
  cases on <;> simp +contextual [routed]

theorem dbgen_routes {dev : Nat} (part : Nat) (on : Bool) (s : State) (h : dev = Config.devid % 2 ^ 20) :
    ∃ d, exec (.dbgen ⟨dev, part⟩ on) s = .next { s with dbgen := d } ∧
    (part ∈ d ↔ on = true) ∧ ∀ p, p ≠ part → (p ∈ d ↔ p ∈ s.dbgen) := by
  subst h
  exact ⟨routed s.dbgen part on, (exec_dbgen ..).trans (forPart_own part s _), mem_routed s.dbgen part on⟩

theorem bpset_arms {dev i : Nat} (gc : Nat) (bp : Option (Nat × Nat)) (s : State) (h : dev = Config.devid % 2 ^ 20) (hi : i < 4) :
    ∃ m, exec (.bpset ⟨dev, gc⟩ i bp) s = .next { s with bps := m } ∧
    mget m (4 * gc + i) = bp ∧ ∀ k, k ≠ 4 * gc + i → mget m k = mget s.bps k := by
  subst h
  have he := (exec_bpset ⟨Config.devid % 2 ^ 20, gc⟩ i bp s).trans ((forPart_own gc s _).trans (if_neg (Nat.not_le.mpr hi)))
  cases bp with
  | none => exact ⟨_, he, mget_mdel_self .., fun k hk => mget_mdel_ne _ hk⟩
  | some b => exact ⟨_, he, mget_mput_self .., fun k hk => mget_mput_ne _ _ hk⟩

theorem exec_halt_slot {dev gs : Nat} {s : State} (h : dev = Config.devid % 2 ^ 20) :
    exec (.halt ⟨dev, [gs]⟩) s = .next (s.haltSlot gs) := by
  subst h
  exact (exec_halt ..).trans (forPart_own [gs] s _)

theorem State.haltSlot_running {s : State} {gs : Nat} (hl : (s.thread gs).live = true) (hh : (s.thread gs).halted = false) :
    s.haltSlot gs = if (s.thread gs).frozen = true then s.setThread gs { s.thread gs with halted := true }
      else if (s.thread gs).stopFor.isSome = true then s.setThread gs { s.thread gs with haltNext := true }
      else (s.setThread gs { s.thread gs with stopFor := some .halt }).settleHalt gs := by
  refine if_neg ?_
  rw [hl, hh]
  decide

theorem halt_stops {dev gs : Nat} {s : State} (h : dev = Config.devid % 2 ^ 20) (hl : (s.thread gs).live = true)
    (hh : (s.thread gs).halted = false) :
    ((s.thread gs).frozen = true → exec (.halt ⟨dev, [gs]⟩) s = .next (s.setThread gs { s.thread gs with halted := true })) ∧
    ((s.thread gs).frozen = false → (s.thread gs).stopFor ≠ none →
      exec (.halt ⟨dev, [gs]⟩) s = .next (s.setThread gs { s.thread gs with haltNext := true })) ∧
    ((s.thread gs).frozen = false → (s.thread gs).stopFor = none →
      let s1 := s.setThread gs { s.thread gs with stopFor := some .halt }
      (s.runs gs = false ∨ s1.atPoint gs = none → exec (.halt ⟨dev, [gs]⟩) s = .next s1) ∧
      (∀ s2, s.runs gs = true → s1.atPoint gs = some s2 →
        exec (.halt ⟨dev, [gs]⟩) s = .next (s2.setThread gs { s2.thread gs with halted := true, stopFor := none }))) := by
  have he := (exec_halt_slot (gs := gs) (s := s) h).trans (congrArg Host.Outcome.next (State.haltSlot_running hl hh))
  refine ⟨fun hf => he.trans (congrArg Host.Outcome.next (if_pos hf)), fun hf hs => ?_, fun hf hs => ?_⟩
  · rw [he, hf, if_neg (by decide), if_pos (Option.isSome_iff_ne_none.mpr hs)]
  · let s1 := s.setThread gs { s.thread gs with stopFor := some .halt }
    have hs1 : (s1.thread gs).stopFor = some .halt := by rw [State.thread_setThread_self]
    have hruns : s1.runs gs = s.runs gs := rfl
    have h1 : exec (.halt ⟨dev, [gs]⟩) s = .next (s1.settleHalt gs) := by
      rw [he, hf, hs, if_neg (by decide), if_neg (by decide)]
    refine ⟨fun hn => h1.trans (congrArg Host.Outcome.next ?_), fun s2 hr h2 => h1.trans (congrArg Host.Outcome.next ?_)⟩
    · rcases hn with hr | hn
      · exact if_neg fun hc => Bool.noConfusion (hr.symm.trans hc.2)
      · unfold State.settleHalt
        rw [hn, ite_self]
    · unfold State.settleHalt
      rw [if_pos ⟨hs1, hruns.trans hr⟩, h2]

theorem halted_serves {dev gs : Nat} {s : State} (h : dev = Config.devid % 2 ^ 20) (hl : (s.thread gs).live = true)
    (hh : (s.thread gs).halted = true) :
    exec (.step ⟨dev, gs⟩) s = .next (s.setThread gs { s.thread gs with stepping := true }) ∧
    exec (.debugRead ⟨dev, gs⟩) s = .next { s with outbox := s.outbox ++ [.debugData gs (s.threadRecord gs)] } ∧
    exec (.debugResume ⟨dev, [gs]⟩) s = .next (s.setThread gs { s.thread gs with
      halted := false, haltNext := false, stepping := false
      stopFor := if (s.thread gs).stopFor = some .halt then none else (s.thread gs).stopFor }) ∧
    (∀ r : List Word, recSize r = (s.thread gs).winLim → r.length = recLength (s.thread gs).winLim (recGrant r) →
      exec (.debugWrite ⟨dev, gs⟩ r) s =
        .next (s.placeRecord gs (s.recordThread (s.thread gs) (s.thread gs).vf (s.thread gs).winBase r) r)) ∧
    (∀ r : List Word, recSize r ≠ (s.thread gs).winLim → exec (.debugWrite ⟨dev, gs⟩ r) s = .next s) := by
  subst h
  refine ⟨?_, ?_, ?_, fun r hs hlen => ?_, fun r hs => ?_⟩
  · exact (exec_step ..).trans ((forPart_own gs s _).trans (if_pos ⟨hl, hh⟩))
  · exact (exec_debugRead ..).trans ((forPart_own gs s _).trans (if_pos ⟨hl, hh⟩))
  · refine (exec_debugResume ..).trans ((forPart_own [gs] s _).trans (congrArg Host.Outcome.next ?_))
    exact if_pos (by rw [hh]; rfl)
  · exact (exec_debugWrite ..).trans ((forPart_own gs s _).trans (if_pos ⟨hl, hh, hs, hlen⟩))
  · exact (exec_debugWrite ..).trans ((forPart_own gs s _).trans (if_neg fun hc => hs hc.2.2.1))

/-! Counters, samples and trace units (R372, R373, R393 to R397). -/

theorem counterConfig_clears {blk i base : Nat} (v : BitVec 64) {s : State} (hb : s.obsBase blk = some base) (hi : i < 16) :
    ∃ t, exec (.counterConfig blk i v) s = .next t ∧ t.rf = s.rf ∧
      ∃ c, mget t.counters (16 * blk + i) = some c ∧ c.cfg = v ∧ c.value = 0 ∧ c.frozen = false ∧ c.ovf = false ∧
        c.inval = cfgInvalid blk v := by
  let c : Counter := ⟨v, 0, false, cfgInvalid blk v, false⟩
  let s1 : State := { s with counters := mput s.counters (16 * blk + i) c }
  have he : exec (.counterConfig blk i v) s = .next (s1.performAll none [.write (base + 0x80 + 8 * i) (leBytes 8 c.word.toNat)]) := by
    rw [exec_counterConfig, execCounterConfig, hb]
    exact if_neg (Nat.not_le.mpr hi)
  have hw := s1.wrote_performAll none [.write (base + 0x80 + 8 * i) (leBytes 8 c.word.toNat)]
  refine ⟨_, he, (congrArg State.rf hw.same).trans rfl, c, ?_, rfl, rfl, rfl, rfl, rfl⟩
  exact (congrArg (fun t : State => mget t.counters (16 * blk + i)) hw.same).trans (mget_mput_self ..)

theorem observation_writes {blk base : Nat} (v : BitVec 64) {s : State} (hb : s.obsBase blk = some base) :
    exec (.snap blk v) s = .next (s.performAll none
      [.write (base + 0x80) ((List.range 16).flatMap (fun i => leBytes 8 (mgetD s.counters (16 * blk + i) Counter.zero).word.toNat)),
        .write (base + 0x108) (leBytes 8 v.toNat)]) ∧
    exec (.traceConfig blk) s = .next (s.performAll none [.write (base + 0x120) (leBytes 24 0)]) ∧
    exec (.trptr blk v) s = .next (s.performAll none [.write (base + 0x130) (leBytes 8 v.toNat)]) := by
  refine ⟨?_, ?_, ?_⟩
  · rw [exec_snap, execSnap, hb]
  · rw [exec_traceConfig, execTraceConfig, hb]
  · rw [exec_trptr, execTrptr, hb]

/-- The record of a pulse that comes while no sample is being written. -/
def State.sampleTaken (s : State) : State :=
  let s1 : State := { s with pulsed := some s.cycle, sserial := s.sserial + 1, sampling := s.cycle + Config.sampleTime s.sserial }
  let conf := s.dwordAt (s.ctb + 0x588)
  let bs := s.sampleRecord.flatMap (fun w => leBytes 8 w.toNat)
  let wp := (s.dwordAt (s.ctb + 0x590)).toNat
  (s1.performAll none (ringEffs (bits conf 56 12 * 4096) (2 ^ bits conf 4 0) wp bs)).performAll none
    [.write (s.ctb + 0x590) (leBytes 8 (wp + bs.length))]

theorem State.sampleTaken_keeps (s : State) : s.sampleTaken.pulsed = some s.cycle ∧ s.sampleTaken.rf = s.rf ∧
    s.sampleTaken.sserial = s.sserial + 1 := by
  let s1 : State := { s with pulsed := some s.cycle, sserial := s.sserial + 1, sampling := s.cycle + Config.sampleTime s.sserial }
  have h : s1.Wrote s.sampleTaken := by
    unfold State.sampleTaken
    refine State.Wrote.trans ?_ (State.wrote_performAll _ _ _)
    exact State.wrote_performAll _ _ _
  exact ⟨(congrArg State.pulsed h.same).trans rfl, (congrArg State.rf h.same).trans rfl, (congrArg State.sserial h.same).trans rfl⟩

theorem exec_samplingPulse_due {s : State} (h : s.pulseDue = true) :
    exec .samplingPulse s = if s.cycle < s.sampling then
      .next (({ s with pulsed := some s.cycle } : State).performAll none
        [.write (s.ctb + 0x598) (leBytes 8 ((s.dwordAt (s.ctb + 0x598)).toNat + 1))])
    else if bits (s.dwordAt (s.ctb + 0x588)) 4 0 < 16 ∨ 30 < bits (s.dwordAt (s.ctb + 0x588)) 4 0 then .next { s with pulsed := some s.cycle }
    else .next s.sampleTaken := by
  rw [exec_samplingPulse, execSamplingPulse, if_pos h]
  simp only [Nat.add_assoc, Nat.reduceAdd]
  rfl

theorem samplingPulse_samples (s : State) : (s.pulseDue = false → exec .samplingPulse s = .next s) ∧
    (s.pulseDue = true → s.cycle < s.sampling → exec .samplingPulse s = .next (({ s with pulsed := some s.cycle } : State).performAll none
      [.write (s.ctb + 0x598) (leBytes 8 ((s.dwordAt (s.ctb + 0x598)).toNat + 1))])) ∧
    (s.pulseDue = true → s.sampling ≤ s.cycle →
      let l := bits (s.dwordAt (s.ctb + 0x588)) 4 0
      ∃ t, exec .samplingPulse s = .next t ∧ t.pulsed = some s.cycle ∧ t.rf = s.rf ∧
        (l < 16 ∨ 30 < l → t.sserial = s.sserial ∧ t.mem = s.mem) ∧ (16 ≤ l → l ≤ 30 → t.sserial = s.sserial + 1)) := by
  refine ⟨fun h => (exec_samplingPulse s).trans (if_neg fun hp => Bool.noConfusion (h.symm.trans hp)),
    fun h hc => (exec_samplingPulse_due h).trans (if_pos hc),
    fun h hc => ?_⟩
  have he := (exec_samplingPulse_due h).trans (if_neg (Nat.not_lt.mpr hc))
  by_cases hl : bits (s.dwordAt (s.ctb + 0x588)) 4 0 < 16 ∨ 30 < bits (s.dwordAt (s.ctb + 0x588)) 4 0
  · exact ⟨_, he.trans (if_pos hl), rfl, rfl, fun _ => ⟨rfl, rfl⟩, fun h1 h2 => by omega⟩
  · obtain ⟨h1, h2, h3⟩ := s.sampleTaken_keeps
    exact ⟨_, he.trans (if_neg hl), h1, h2, fun hn => absurd hn hl, fun _ _ => h3⟩

/-- A die's trace unit changes its holder, and no register changes. -/
theorem State.setHolder_sets (s : State) (die h vf : Nat) :
    (s.setHolder die h vf).traceHold = s.traceHold.set die h ∧ (s.setHolder die h vf).rf = s.rf := by
  unfold State.setHolder
  dsimp only
  split
  next v _ =>
    have hw := State.wrote_performAll ({ s with traceHold := s.traceHold.set die h, traceAt := s.traceAt.set die s.cycle } : State) none
      [.write (v.pa (v.vcba + 16)) (leBytes 8 (({ s with
        traceHold := s.traceHold.set die h, traceAt := s.traceAt.set die s.cycle } : State).theld vf))]
    exact ⟨(congrArg State.traceHold hw.same).trans rfl, (congrArg State.rf hw.same).trans rfl⟩
  next => exact ⟨rfl, rfl⟩

theorem tclaim_holds {vf die : Nat} {v : VFunc} {s : State} (hv : mget s.vfs vf = some v) (hd : die < 4) :
    let h := s.traceHold.getD die 511
    (h = 511 → s.hyperClaims die = false → ∃ t, exec (.tclaim vf die true) s = .next t ∧ t.traceHold = s.traceHold.set die vf ∧ t.rf = s.rf) ∧
    (h ≠ 511 → ∃ t, exec (.tclaim vf die true) s = .next t ∧ t.traceHold = s.traceHold ∧ t.rf = s.rf) ∧
    (h = vf → ∃ t, exec (.tclaim vf die false) s = .next t ∧ t.traceHold = s.traceHold.set die 511 ∧ t.rf = s.rf) ∧
    (h ≠ vf → exec (.tclaim vf die false) s = .next s) := by
  have he : ∀ claim, exec (.tclaim vf die claim) s =
      if claim = true then
        (if s.traceHold.getD die 511 = 511 ∧ (!s.hyperClaims die) = true then .next (s.setHolder die vf vf)
          else .next (s.traceNotice vf die false))
      else if s.traceHold.getD die 511 = vf then .next (s.setHolder die 511 vf) else .next s := fun claim => by
    rw [exec_tclaim, execTclaim, hv]
    exact if_neg (Nat.not_le.mpr hd)
  refine ⟨fun h hc => ⟨_, (he true).trans ((if_pos rfl).trans (if_pos ⟨h, by rw [hc]; rfl⟩)), s.setHolder_sets die vf vf⟩,
    fun h => ⟨_, (he true).trans ((if_pos rfl).trans (if_neg fun hc => h hc.1)), ?_⟩,
    fun h => ⟨_, (he false).trans ((if_neg (by decide)).trans (if_pos h)), s.setHolder_sets die 511 vf⟩,
    fun h => (he false).trans ((if_neg (by decide)).trans (if_neg h))⟩
  have hp := (s.posts_postKernel vf 7 0 [BitVec.ofNat 64 (die + false.toNat * 2 ^ 8)]).same
  exact ⟨(congrArg State.traceHold hp).trans rfl, (congrArg State.rf hp).trans rfl⟩

/-! Register writes (R409). -/

theorem registerWrite_writes (pa : Nat) (v : BitVec 64) (s : State) :
    (pa = bar0 + 56 → exec (.registerWrite pa v) s = .next { s with ho := { s.ho with harg := v } }) ∧
    (pa = bar0 + 64 → 1000 ≤ v.toNat % 4096 → v.toNat % 4096 ≤ 2800 →
      exec (.registerWrite pa v) s = .next { s with ho := { s.ho with pwrcap := v.toNat % 4096 } }) ∧
    (pa < bar0 → pa % 8 = 0 → isMapped pa = true → isHost pa = false →
      exec (.registerWrite pa v) s = .next (s.performAll none [.write pa (leBytes 8 v.toNat)])) := by
  have hbits : bits v 11 0 = v.toNat % 4096 := by
    unfold bits
    rw [pow_zero, Nat.div_one] <;> rfl
  have he : exec (.registerWrite pa v) s = if pa = bar0 + 56 then .next { s with ho := { s.ho with harg := v } }
      else if pa = bar0 + 64 then
        .next (if 1000 ≤ bits v 11 0 ∧ bits v 11 0 ≤ 2800 then { s with ho := { s.ho with pwrcap := bits v 11 0 } } else s)
      else if pa % 8 = 0 ∧ isMapped pa = true then .next (s.performAll none [execRegisterWrite.partWrite pa v]) else .next s :=
    exec_registerWrite pa v s
  refine ⟨fun h => he.trans (if_pos h), fun h h1 h2 => ?_, fun h h8 hm hh => ?_⟩
  · rw [he, if_neg (by omega), if_pos h, hbits, if_pos ⟨h1, h2⟩]
  · rw [he, if_neg (by omega), if_neg (by omega), if_pos ⟨h8, hm⟩, execRegisterWrite.partWrite, hh, if_neg (by decide)]

end Sys2Proof.Machine

namespace Sys2Proof

open Machine

/-- Settles O48: an action that names another part is passed over by `forPart`; what is written to rings leaves registers and holders alone. -/
theorem debugAndObservationEvents : Obligations.DebugAndObservationEvents := by
  unfold Obligations.DebugAndObservationEvents
  exact ⟨fun _ _ _ h hi => debug_elsewhere h hi,
    fun _ part on s h => dbgen_routes part on s h,
    fun _ gc _ bp s h hi => bpset_arms gc bp s h hi,
    fun _ _ _ h hl hh => halt_stops h hl hh,
    fun _ _ _ h hl hh => halted_serves h hl hh,
    samplingPulse_samples,
    fun _ _ _ v _ hb hi => counterConfig_clears v hb hi,
    fun _ _ v _ hb => observation_writes v hb,
    fun _ _ _ _ hv hd => tclaim_holds hv hd,
    registerWrite_writes⟩

end Sys2Proof

end

section
/-!
PROOFS. A mailbox command from its doorbell to its result, and the commands that carve the part: PSET and VSET (R358 to R368).
-/

namespace Sys2Proof.Machine

/-! What effects leave of the mailbox: they may ring its bell, but the command it runs stays. -/

/-- The command that the mailbox runs stays. -/
structure State.Runs (s t : State) : Prop where
  run : t.mb.run = s.mb.run

theorem State.Runs.refl (s : State) : s.Runs s := ⟨rfl⟩

theorem State.Runs.trans {s t u : State} (h : s.Runs t) (g : t.Runs u) : s.Runs u := ⟨g.run.trans h.run⟩

theorem State.Runs.of_same {s t : State} (h : t.mb = s.mb) : s.Runs t := ⟨congrArg Mailbox.run h⟩

theorem State.Runs.ite {s t u : State} {c : Prop} [Decidable c] (h : s.Runs t) (g : s.Runs u) : s.Runs (if c then t else u) := by
  split; exacts [h, g]

theorem State.Runs.foldl {β : Type} {f : State → β → State} (hf : ∀ (s : State) (b : β), s.Runs (f s b)) (l : List β) :
    ∀ s : State, s.Runs (l.foldl f s) := by
  induction l with
  | nil => exact fun s => .refl s
  | cons b l ih => exact fun s => (hf s b).trans (ih _)

theorem State.Cohered.runs {s t : State} (h : s.Cohered t) : s.Runs t := .of_same (by rw [h.same])

theorem State.runs_ring (s : State) (a : Act) : s.Runs (s.ring a) := .of_same rfl

theorem State.runs_setBytes (bs : List Byte) : ∀ (s : State) (pa : Nat), s.Runs (s.setBytes pa bs) := by
  induction bs with
  | nil => exact fun s _ => .refl s
  | cons b bs ih => exact fun s pa => State.Runs.trans (.of_same (by unfold State.setByte; split <;> rfl)) (ih _ _)

theorem State.runs_obsBells (s : State) (blk base pa n : Nat) : s.Runs (s.obsBells blk base pa n) := by
  unfold State.obsBells
  dsimp only
  refine .ite (.refl s) ?_
  have h1 := State.Runs.foldl (f := fun (s : State) i =>
    if reaches pa n (base + 8 * i) then s.ring (.config blk i (s.dwordAt (base + 8 * i))) else s)
    (fun s _ => .ite (s.runs_ring _) (.refl s)) (List.range 16) s
  have h2 (t : State) (h : s.Runs t) : s.Runs (if reaches pa n (base + 0x110) then t.zeroTrace base (reaches pa n (base + 0x130)) else t) :=
    .ite (h.trans (State.runs_setBytes _ _ _)) h
  exact h2 _ (.ite (h1.trans (State.runs_ring _ _)) h1)

theorem State.runs_ctlBells (s : State) (vf base pa n : Nat) : s.Runs (s.ctlBells vf base pa n) := by
  unfold State.ctlBells
  dsimp only
  refine .ite (.refl s) ?_
  have h1 (t : State) (h : s.Runs t) (c : Prop) [Decidable c] (a : Act) : s.Runs (if c then t.ring a else t) :=
    .ite (h.trans (t.runs_ring a)) h
  exact h1 _ (h1 _ (h1 _ (.refl s) _ _) _ _) _ _

theorem State.runs_migBells (s : State) (vf : Nat) (v : VFunc) (pa n : Nat) : s.Runs (s.migBells vf v pa n) := by
  unfold State.migBells
  dsimp only
  refine .ite (.refl s) ?_
  have h0 : s.Runs ((dwordsOf pa n).foldl (fun (t : State) d =>
      if s.migBase vf ≤ 8 * d ∧ 8 * d < s.migBase vf + 0x10000 then
        t.setBytes (8 * d) (leBytes 8 (t.migWord vf v (8 * d - s.migBase vf) (t.dwordAt (8 * d))).toNat)
      else t) s) := .foldl (fun s _ => .ite (State.runs_setBytes _ s _) (.refl s)) _ s
  have h1 (t : State) (h : s.Runs t) (c : Prop) [Decidable c] (a : Act) : s.Runs (if c then t.ring a else t) :=
    .ite (h.trans (t.runs_ring a)) h
  refine h1 _ (h1 _ (.ite ?_ h0) _ _) _ _
  split <;> exact h0.trans (State.runs_ring _ _)

theorem State.runs_bells (s : State) (pa n : Nat) : s.Runs (s.bells pa n) := by
  unfold State.bells
  dsimp only
  have h1 : s.Runs (if reaches pa n (s.ctb + 0x80) then { s with mb := { s.mb with bell := true } } else s) := .ite ⟨rfl⟩ (.refl s)
  have h2 (t : State) (h : s.Runs t) : s.Runs ((t.obsBells 256 (t.ctb + 0x400) pa n).bareBells pa n) :=
    (h.trans (State.runs_obsBells _ _ _ _ _)).trans (State.Runs.ite (State.runs_migBells _ _ _ _ _) (.refl _))
  refine (h2 _ h1).trans ?_
  exact .foldl (fun s _ => ((s.runs_ctlBells _ _ _ _).trans (State.runs_obsBells _ _ _ _ _)).trans (State.runs_migBells _ _ _ _ _)) _ _

theorem State.runs_clearPoison (s : State) (pa n : Nat) : s.Runs (s.clearPoison pa n) :=
  .foldl (fun s _ => by split; exacts [.of_same rfl, .refl s]) _ s

theorem State.runs_wakeWatch (src : Option Nat) (s : State) (d : Nat) : s.Runs (s.wakeWatch src d) := by
  unfold State.wakeWatch
  split
  · exact .refl s
  · exact .ite (.refl s) (.of_same rfl)

theorem State.runs_touched (s : State) (src : Option Nat) (pa n : Nat) : s.Runs (s.touched src pa n) := by
  unfold State.touched
  have h0 : s.Runs (s.dropGlobals (linesOf pa n)) := .ite (.refl s) (.of_same rfl)
  have h := h0.trans (State.Runs.of_same (t := (s.dropGlobals (linesOf pa n)).mapThreads (fun _ t => t.hitLines (linesOf pa n))) rfl)
  exact State.Runs.trans (.ite (h.trans (.foldl (fun s _ => s.runs_wakeWatch _ _) _ _)) h) (State.runs_bells _ _ _)

theorem State.runs_store (src : Option Nat) (s : State) (pa : Nat) (bs : List Byte) : s.Runs (State.store src s pa bs) :=
  ((State.runs_setBytes bs s pa).trans (State.runs_clearPoison _ _ _)).trans (State.runs_touched _ _ _ _)

theorem State.runs_perform (src : Option Nat) (s : State) (e : Eff) : s.Runs (State.perform src s e) := by
  cases e with
  | write pa bs => exact State.runs_store src s pa bs
  | greg k v => exact .of_same rfl
  | remote pa bs => exact .of_same rfl
  | edge a bs => exact .ite (.refl s) (State.runs_store src s a bs)

theorem State.runs_backInvalidate (s : State) (items : List Nat) : s.Runs (s.backInvalidate items) := .ite (.refl s) (.of_same rfl)

theorem State.runs_signal (s : State) (src : Option Nat) (items : List Nat) : s.Runs (s.signal src items) := by
  unfold State.signal State.heard
  exact .ite (.refl s) (.ite (.of_same rfl) (.of_same rfl))

theorem State.runs_mbPoll (s : State) : s.Runs s.mbPoll := .ite ⟨rfl⟩ (.refl s)

/-- The part's own writes leave the command that the mailbox runs. -/
theorem State.runs_partWrites (s : State) (effs : List Eff) : s.Runs (s.performAll none effs) := by
  unfold State.performAll
  have h1 : s.Runs (effs.foldl (State.perform none) s) := .foldl (fun s e => State.runs_perform none s e) _ s
  have h2 := h1.trans (State.Runs.foldl (f := State.cohDrop) (fun s _ => (s.cohered_cohDrop _).runs) (itemsOf effs) _)
  exact ((h2.trans (State.runs_backInvalidate _ (itemsOf effs))).trans (State.runs_signal _ none (itemsOf effs))).trans (State.runs_mbPoll _)

/-! A command's result and its STATUS (R358, R360). -/

theorem State.Wrote.carved {s t : State} (h : s.Wrote t) :
    t.parts = s.parts ∧ t.vfs = s.vfs ∧ t.rf = s.rf ∧ t.traceHold = s.traceHold ∧ t.freed = s.freed ∧ t.binds = s.binds ∧ t.qmap = s.qmap := by
  rw [h.same]
  exact ⟨rfl, rfl, rfl, rfl, rfl, rfl, rfl⟩

theorem State.wrote_mbResult (s : State) (seq st d1 d3 : Nat) : s.Wrote (s.mbResult seq st d1 d3) :=
  State.Wrote.trans (t := { s with mb := { s.mb with busy := false, run := none } }) (.of_same rfl) (State.wrote_performAll ..)

theorem mbResult_run (s : State) (seq st d1 d3 : Nat) : (s.mbResult seq st d1 d3).mb.run = none :=
  (State.runs_partWrites { s with mb := { s.mb with busy := false, run := none } } _).run

theorem mbDo_running {s : State} (h : s.mb.run ≠ none) (op : Nat) (c : MbCmd) (f : State → Except (Nat × Nat × Nat) MbDone) :
    s.mbDo op c f = .next s := if_pos (Option.isSome_iff_ne_none.mpr h)

theorem mbDo_admits {s : State} (h : s.mb.run = none) (op : Nat) (c : MbCmd) (f : State → Except (Nat × Nat × Nat) MbDone) :
    s.mbDo op c f = if mbOp c ≠ op ∨ !mbFormed c then .next ((Spec.taken s).mbResult (mbSeq c) 1 0 0) else
      match f (Spec.taken s) with
      | .error (st, d1, d3) => .next ((Spec.taken s).mbResult (mbSeq c) st d1 d3)
      | .ok d =>
        match d.wait with
        | some w => .next { d.s with mb := { d.s.mb with run := some ⟨mbSeq c, w, d.d1, d.d3⟩ } }
        | none => .next (d.s.mbResult (mbSeq c) 0 d.d1 d.d3) := by
  unfold State.mbDo
  rw [h, Option.isSome_none, if_neg Bool.false_ne_true] <;> rfl

theorem mbFormed_iff (c : MbCmd) : mbFormed c = true ↔ bits c.target 47 32 = 0 ∧ bits c.target 15 8 = 0 := by
  rw [mbFormed, Bool.and_eq_true, beq_iff_eq, beq_iff_eq]

theorem mbDo_illFormed {s : State} {op : Nat} {c : MbCmd} (h : s.mb.run = none)
    (hf : bits c.target 7 0 ≠ op ∨ bits c.target 47 32 ≠ 0 ∨ bits c.target 15 8 ≠ 0) (f : State → Except (Nat × Nat × Nat) MbDone) :
    s.mbDo op c f = .next ((Spec.taken s).mbResult (bits c.target 63 48) 1 0 0) := by
  refine (mbDo_admits h op c f).trans (if_pos (hf.imp id fun hf => ?_))
  rw [Bool.not_eq_true', ← Bool.not_eq_true, mbFormed_iff, not_and_or]
  exact hf

section
variable {s : State} {op : Nat} {c : MbCmd} (hr : s.mb.run = none) (hf : mbFormed c = true) (ho : mbOp c = op)
  {f : State → Except (Nat × Nat × Nat) MbDone}
include hr hf ho

theorem mbDo_formed : s.mbDo op c f = match f (Spec.taken s) with
      | .error (st, d1, d3) => .next ((Spec.taken s).mbResult (mbSeq c) st d1 d3)
      | .ok d =>
        match d.wait with
        | some w => .next { d.s with mb := { d.s.mb with run := some ⟨mbSeq c, w, d.d1, d.d3⟩ } }
        | none => .next (d.s.mbResult (mbSeq c) 0 d.d1 d.d3) := by
  refine (mbDo_admits hr op c f).trans (if_neg ?_)
  rw [hf, Bool.not_true, not_or]
  exact ⟨fun h => h ho, Bool.false_ne_true⟩

/-- A condition that fails gives its STATUS and nothing else. -/
theorem mbDo_fails {st d1 d3 : Nat} (h : f (Spec.taken s) = .error (st, d1, d3)) :
    s.mbDo op c f = .next ((Spec.taken s).mbResult (bits c.target 63 48) st d1 d3) := by
  rw [mbDo_formed hr hf ho, h] <;> rfl

theorem mbDo_answers {d : MbDone} (h : f (Spec.taken s) = .ok d) (hw : d.wait = none) :
    s.mbDo op c f = .next (d.s.mbResult (bits c.target 63 48) 0 d.d1 d.d3) := by
  rw [mbDo_formed hr hf ho, h]
  dsimp only
  rw [hw] <;> rfl

theorem mbDo_waits {d : MbDone} {w : MbWait} (h : f (Spec.taken s) = .ok d) (hw : d.wait = some w) :
    s.mbDo op c f = .next { d.s with mb := { d.s.mb with run := some ⟨bits c.target 63 48, w, d.d1, d.d3⟩ } } := by
  rw [mbDo_formed hr hf ho, h]
  dsimp only
  rw [hw] <;> rfl

/-- A command carried out leaves what it makes, and its result's own write. -/
theorem mbDo_carries {d : MbDone} {P : State → Prop} (h : f (Spec.taken s) = .ok d) (hP : ∀ t, d.s.Wrote t → P t) :
    ∃ t, s.mbDo op c f = .next t ∧ P t := by
  cases hw : d.wait with
  | none => exact ⟨_, mbDo_answers hr hf ho h hw, hP _ (State.wrote_mbResult ..)⟩
  | some w => exact ⟨_, mbDo_waits hr hf ho h hw, hP _ (.of_same rfl)⟩

end

/-! The conditions of a command, one after another. -/

theorem mb_bind_ok {α β : Type} {x : Except (Nat × Nat × Nat) α} {a : α} (h : x = .ok a) (k : α → Except (Nat × Nat × Nat) β) :
    (x >>= k) = k a := by rw [h]; rfl

theorem mb_bind_error {α β : Type} {x : Except (Nat × Nat × Nat) α} {e : Nat × Nat × Nat} (h : x = .error e)
    (k : α → Except (Nat × Nat × Nat) β) : (x >>= k) = .error e := by rw [h]; rfl

theorem mbNeed_met {β : Type} {b : Bool} (h : b = true) (st : Nat) (k : Unit → Except (Nat × Nat × Nat) β) : (mbNeed b st >>= k) = k () := by
  rw [h]; rfl

theorem mbNeed_unmet {β : Type} {b : Bool} (h : b = false) (st : Nat) (k : Unit → Except (Nat × Nat × Nat) β) :
    (mbNeed b st >>= k) = .error (st, 0, 0) := by rw [h]; rfl

theorem baleNeed_met {β : Type} {b : Bool} (h : b = true) (code block : Nat) (k : Unit → Except (Nat × Nat × Nat) β) :
    (baleNeed b code block >>= k) = k () := by rw [h]; rfl

theorem baleNeed_unmet {β : Type} {b : Bool} (h : b = false) (code block : Nat) (k : Unit → Except (Nat × Nat × Nat) β) :
    (baleNeed b code block >>= k) = .error (code, 0, code + 2 ^ 32 * block) := by rw [h]; rfl

/-! Scrubs between owners (R367, R368). -/

/-- What scrubs change: memory, scratchpads, tiles, registers and queues, and what caches and the host hold of them. -/
structure State.Scrubbed (s t : State) : Prop where
  same : t = { s with
    mem := t.mem, poison := t.poison, locks := t.locks, globals := t.globals, remotes := t.remotes, icache := t.icache
    dirs := t.dirs, coh := t.coh, l1 := t.l1, hostPart := t.hostPart, hostLines := t.hostLines, hostInval := t.hostInval
    outbox := t.outbox, watches := t.watches, tiles := t.tiles, tilePoison := t.tilePoison, rf := t.rf, rqs := t.rqs
    matq := t.matq, chans := t.chans, threads := t.threads }

theorem State.Scrubbed.refl (s : State) : s.Scrubbed s := ⟨rfl⟩

theorem State.Scrubbed.trans {s t u : State} (h : s.Scrubbed t) (g : t.Scrubbed u) : s.Scrubbed u := ⟨by rw [g.same, h.same]⟩

theorem State.Scrubbed.ite {s t u : State} {c : Prop} [Decidable c] (h : s.Scrubbed t) (g : s.Scrubbed u) :
    s.Scrubbed (if c then t else u) := by split; exacts [h, g]

theorem State.Scrubbed.foldl {β : Type} {f : State → β → State} (hf : ∀ (s : State) (b : β), s.Scrubbed (f s b)) (l : List β) :
    ∀ s : State, s.Scrubbed (l.foldl f s) := by
  induction l with
  | nil => exact fun s => .refl s
  | cons b l ih => exact fun s => (hf s b).trans (ih _)

theorem State.Cohered.scrubbed {s t : State} (h : s.Cohered t) : s.Scrubbed t := ⟨by rw [h.same]⟩

theorem State.scrubbed_dropCopies (s : State) (f : Nat → Bool) : s.Scrubbed (s.dropCopies f) :=
  .foldl (fun s l => (s.cohered_cohDrop l).scrubbed) _ s

theorem State.scrubbed_backInvalidate (s : State) (items : List Nat) : s.Scrubbed (s.backInvalidate items) := .ite (.refl s) ⟨rfl⟩

theorem State.scrubbed_zeroMem (s : State) (f : Nat → Bool) : s.Scrubbed (s.zeroMem f) := by
  unfold State.zeroMem
  exact State.Scrubbed.trans ((s.scrubbed_dropCopies _).trans (State.scrubbed_backInvalidate _ _)) ⟨rfl⟩

theorem State.scrubbed_zeroBanks (s : State) (pc : Nat) (bank : Nat → Bool) : s.Scrubbed (s.zeroBanks pc bank) := by
  unfold State.zeroBanks
  exact State.Scrubbed.trans (s.scrubbed_zeroMem _) ⟨rfl⟩

theorem State.scrubbed_zeroRows (s : State) (pc : Nat) (row : Nat → Bool) : s.Scrubbed (s.zeroRows pc row) := ⟨rfl⟩

theorem State.scrubbed_zeroEntries (s : State) (pc : Nat) : s.Scrubbed (s.zeroEntries pc) := ⟨rfl⟩

theorem State.scrubbed_emptyQueues (s : State) (pc part : Nat) (slots : Word) : s.Scrubbed (s.emptyQueues pc part slots) := ⟨rfl⟩

theorem State.scrubbed_zeroShare (s : State) (pc part : Nat) (p : Part) : s.Scrubbed (s.zeroShare pc part p) :=
  (((s.scrubbed_zeroBanks _ _).trans (State.scrubbed_zeroRows _ _ _)).trans (State.scrubbed_zeroEntries _ _)).trans
    (State.scrubbed_emptyQueues _ _ _ _)

theorem State.scrubbed_scrubGain (s : State) (pid : Nat) (q p : Part) (c : Nat) : s.Scrubbed (s.scrubGain pid q p c) := by
  unfold State.scrubGain
  have h := ((s.scrubbed_zeroBanks c (fun b => p.ownsBank b && !(q.ownsCluster c && q.ownsBank b))).trans
    (State.scrubbed_zeroRows _ c (fun r => p.ownsRow r && !(q.ownsCluster c && q.ownsRow r)))).trans (State.scrubbed_zeroEntries _ c)
  exact .ite h (h.trans (State.scrubbed_emptyQueues _ _ _ _))

theorem State.scrubbed_leaveLocks (s : State) (q p : Part) : s.Scrubbed (s.leaveLocks q p) := ⟨rfl⟩

theorem State.scrubbed_clearReady (s : State) (pid : Nat) (cs : List Nat) : s.Scrubbed (s.clearReady pid cs) := ⟨rfl⟩

theorem State.scrubbed_replaceLines (s before : State) : s.Scrubbed (s.replaceLines before) := by
  unfold State.replaceLines
  exact State.Scrubbed.trans (t := { s with locks := s.locks.filter (fun (l : Nat × Option Nat) =>
    !(List.range 4).any (fun d => s.l2Set d l.1 != before.l2Set d l.1)) }) ⟨rfl⟩ (State.scrubbed_dropCopies _ _)

theorem State.Scrubbed.parts {s t : State} (h : s.Scrubbed t) : t.parts = s.parts := by rw [h.same]

/-! PSET (R361, R363, R368). -/

/-- The partition that a descriptor makes of an old one, or of none. -/
def State.partMade (s : State) (pid : Nat) (d : List Word) : Part := { (mget s.parts pid).getD ⟨[], 0, 0, 0, 0, false⟩ with desc := d }

theorem setPart_parts (s : State) (pid : Nat) (d : List Word) :
    (s.setPart pid d).s.parts = if allZero d then mdel s.parts pid else mput s.parts pid (s.partMade pid d) := by
  unfold State.setPart
  extract_lets old q p gained regions fresh lost both s1 s2 s3 s4 s5 s6 moved s6' s7 s8
  have h1 : s.Scrubbed s1 := (s.scrubbed_leaveLocks q p).trans (State.scrubbed_dropCopies _ _)
  have h2 : s.Scrubbed s2 := h1.trans (.foldl (fun s c => s.scrubbed_scrubGain pid q p c) gained s1)
  have h3 : s3.parts = s.parts := State.Scrubbed.parts (.ite h2 (h2.trans (s2.scrubbed_zeroMem _)))
  clear_value s3
  have h5 : s5.parts = s.parts := h3
  clear_value s5
  have h6 : s6.parts = if allZero d then mdel s.parts pid else mput s.parts pid p := congrArg (fun m => if allZero d then mdel m pid else mput m pid p) h5
  clear_value s6
  have h7 : s6.Scrubbed s6' := State.Scrubbed.trans (.ite (.refl s6) (s6.scrubbed_clearReady pid both)) (State.scrubbed_replaceLines _ s)
  clear_value s6'
  have h8 : s8.parts = s7.parts := by
    show (if old.isSome then s7 else _).parts = s7.parts
    split <;> rfl
  exact h8.trans (Eq.trans (b := s6'.parts) rfl (h7.parts.trans h6))

theorem setPart_created {s : State} {pid : Nat} {d : List Word} (h : allZero d = false) :
    mget (s.setPart pid d).s.parts pid = some (s.partMade pid d) ∧ ∀ k, k ≠ pid → mget (s.setPart pid d).s.parts k = mget s.parts k := by
  rw [setPart_parts, if_neg (Bool.eq_false_iff.mp h)]
  exact ⟨mget_mput_self .., fun k hk => mget_mput_ne _ _ hk⟩

theorem setPart_deleted {s : State} {pid : Nat} {d : List Word} (h : allZero d = true) :
    mget (s.setPart pid d).s.parts pid = none ∧ ∀ k, k ≠ pid → mget (s.setPart pid d).s.parts k = mget s.parts k := by
  rw [setPart_parts, if_pos h]
  exact ⟨mget_mdel_self .., fun k hk => mget_mdel_ne _ hk⟩

theorem others_any {α : Type} (m : Map α) (k : Nat) (f : α → Bool) :
    (((m.filter (fun x => x.1 != k)).map (·.2)).any f = true) ↔ ∃ p ∈ m, p.1 ≠ k ∧ f p.2 = true := by
  simp only [List.any_eq_true, List.mem_map, List.mem_filter, bne_iff_ne]
  exact ⟨fun ⟨_, ⟨x, ⟨hx, hk⟩, rfl⟩, hf⟩ => ⟨x, hx, hk, hf⟩, fun ⟨x, hx, hk, hf⟩ => ⟨x.2, ⟨x, ⟨hx, hk⟩, rfl⟩, hf⟩⟩

theorem others_any_false {α : Type} {m : Map α} {k : Nat} {f : α → Bool} (h : ∀ p ∈ m, p.1 ≠ k → f p.2 = false) :
    ((m.filter (fun x => x.1 != k)).map (·.2)).any f = false := by
  rw [Bool.eq_false_iff]
  exact fun h1 => let ⟨p, hp, hk, hf⟩ := (others_any m k f).mp h1; Bool.noConfusion (hf.symm.trans (h p hp hk))

section
variable {s : State} {c : MbCmd} {d : List Word} (hr : s.mb.run = none) (hf : mbFormed c = true) (ho : mbOp c = 1)
  (ht : bits c.target 31 16 < 20) (ha : (c.args.getD 0 0).toNat % 128 = 0)
  (hd : (Spec.taken s).mbDwords (c.args.getD 0 0).toNat 16 = .ok d)
  (hv : d.all (· == 0) = true ∨ partValid d = true)
include hr hf ho ht ha hd hv

theorem execMbPset_conflict (h : ∃ p ∈ s.parts, p.1 ≠ bits c.target 31 16 ∧ (⟨d, 0, 0, 0, 0, false⟩ : Part).conflicts p.2 = true) :
    execMbPset c s = .next ((Spec.taken s).mbResult (bits c.target 63 48) 2 0 0) := by
  refine mbDo_fails hr hf ho (d1 := 0) (d3 := 0) ?_
  refine (mbNeed_met (decide_eq_true ⟨ht, ha⟩) _ _).trans <| (mb_bind_ok hd _).trans <|
    (mbNeed_met (by rw [Bool.or_eq_true]; exact hv) _ _).trans <| mbNeed_unmet ?_ _ _
  exact congrArg (fun x => !x && _) ((others_any s.parts _ _).mpr h)

variable (hc : ∀ p ∈ s.parts, p.1 ≠ bits c.target 31 16 → (⟨d, 0, 0, 0, 0, false⟩ : Part).conflicts p.2 = false)
  (hover : overfull ⟨d, 0, 0, 0, 0, false⟩ ((s.parts.filter (fun x => x.1 != bits c.target 31 16)).map (·.2)) = false)
  (hcol : d.all (· == 0) = true ∨
    ((s.parts.filter (fun x => x.1 != bits c.target 31 16)).map (·.2)).foldl (fun acc q => acc ||| dw q.desc 11) (dw d 11) ≠ BitVec.allOnes 64)
include hc hover hcol

theorem execMbPset_inUse (h : (Spec.taken s).inUse (bits c.target 31 16) ⟨d, 0, 0, 0, 0, false⟩ = true) :
    execMbPset c s = .next ((Spec.taken s).mbResult (bits c.target 63 48) 3 0 0) := by
  refine mbDo_fails hr hf ho (d1 := 0) (d3 := 0) ?_
  refine (mbNeed_met (decide_eq_true ⟨ht, ha⟩) _ _).trans <| (mb_bind_ok hd _).trans <|
    (mbNeed_met (by rw [Bool.or_eq_true]; exact hv) _ _).trans <| (mbNeed_met ?_ _ _).trans <|
    (mbNeed_met (by rw [Bool.or_eq_true, bne_iff_ne]; exact hcol) _ _).trans <| mbNeed_unmet (congrArg (!·) h) _ _
  exact congrArg₂ (fun x y => !x && !y) (others_any_false hc) hover

theorem execMbPset_carried (h : (Spec.taken s).inUse (bits c.target 31 16) ⟨d, 0, 0, 0, 0, false⟩ = false) :
    ∃ t, execMbPset c s = .next t ∧ t.parts = ((Spec.taken s).setPart (bits c.target 31 16) d).s.parts := by
  refine mbDo_carries hr hf ho (d := (Spec.taken s).setPart (bits c.target 31 16) d) ?_ fun t hw => hw.carved.1
  refine (mbNeed_met (decide_eq_true ⟨ht, ha⟩) _ _).trans <| (mb_bind_ok hd _).trans <|
    (mbNeed_met (by rw [Bool.or_eq_true]; exact hv) _ _).trans <|
    (mbNeed_met (congrArg₂ (fun x y => !x && !y) (others_any_false hc) hover) _ _).trans <|
    (mbNeed_met (by rw [Bool.or_eq_true, bne_iff_ne]; exact hcol) _ _).trans <| mbNeed_met (congrArg (!·) h) _ _

end

/-! VSET (R364 to R367). -/

/-- What the squash of a thread's chunks changes. -/
structure State.Undone (s t : State) : Prop where
  same : t = { s with rf := t.rf, threads := t.threads, counters := t.counters, traced := t.traced }

theorem State.Undone.refl (s : State) : s.Undone s := ⟨rfl⟩

theorem State.Undone.trans {s t u : State} (h : s.Undone t) (g : t.Undone u) : s.Undone u := ⟨by rw [g.same, h.same]⟩

theorem State.Undone.ite {s t u : State} {c : Prop} [Decidable c] (h : s.Undone t) (g : s.Undone u) : s.Undone (if c then t else u) := by
  split; exacts [h, g]

theorem State.Undone.foldl {β : Type} {f : State → β → State} (hf : ∀ (s : State) (b : β), s.Undone (f s b)) (l : List β) :
    ∀ s : State, s.Undone (l.foldl f s) := by
  induction l with
  | nil => exact fun s => .refl s
  | cons b l ih => exact fun s => (hf s b).trans (ih _)

theorem State.undone_setWindowOf (s : State) (gs : Nat) (xs : List Word) : s.Undone (s.setWindowOf gs xs) := by
  obtain ⟨rf, h⟩ := s.setWindowOf_shape gs xs
  exact ⟨by rw [h]⟩

theorem State.undone_setThread (s : State) (gs : Nat) (t : Thread) : s.Undone (s.setThread gs t) := ⟨rfl⟩

theorem State.undone_count (s : State) (gs ev n : Nat) : s.Undone (s.count gs ev n) := ⟨rfl⟩

theorem State.undone_traceRec (s : State) (gs type : Nat) (pc aux : Word) : s.Undone (s.traceRec gs type pc aux) := .ite (.refl s) ⟨rfl⟩

theorem State.undone_squash (s : State) (gs i : Nat) (count fall : Bool) : s.Undone (s.squash gs i count fall) := by
  unfold State.squash
  cases (s.thread gs).chunks[i]? with
  | none => exact .refl s
  | some c =>
    have h1 := (s.undone_setWindowOf gs c.ckptX).trans (State.undone_setThread _ gs ((s.thread gs).squashed c i count fall))
    have h2 := h1.trans (State.undone_count _ gs 0x11 1)
    exact (State.Undone.ite (h2.trans (State.undone_count _ gs 0x12 1)) h2).trans (State.undone_traceRec ..)

theorem State.undone_forgetAhead (s : State) (fn : Option Nat) (gs : Nat) : s.Undone (s.forgetAhead fn gs) := .ite (.refl s) ⟨rfl⟩

theorem State.undone_squashXlat (s : State) (fn : Option Nat) : s.Undone (s.squashXlat fn) := by
  unfold State.squashXlat
  refine .foldl (fun s gs => ?_) _ s
  refine (s.undone_forgetAhead fn gs).trans (.ite ?_ (.refl _))
  split
  · exact State.undone_squash ..
  · exact .refl _

theorem State.Undone.carved {s t : State} (h : s.Undone t) :
    t.vfs = s.vfs ∧ t.freed = s.freed ∧ t.binds = s.binds ∧ t.hring = s.hring ∧ t.hslot = s.hslot ∧ t.hserial = s.hserial ∧ t.hctx = s.hctx := by
  rw [h.same]
  exact ⟨rfl, rfl, rfl, rfl, rfl, rfl, rfl⟩

theorem State.wrote_showMig (s : State) (vf : Nat) : s.Wrote (s.showMig vf) := by
  unfold State.showMig
  exact s.wrote_performAll none _

/-- The function that a descriptor makes. -/
def State.fnMade (s : State) (vf : Nat) (d : List Word) (cmap : List Nat) : VFunc :=
  ⟨d, cmap, bit (dw d 0) 8, 1, ((mget s.vfs vf).map VFunc.mstate).getD 0, ((mget s.vfs vf).map VFunc.linkLost).getD false⟩

/-- A binding to a running function other than the one that is made. -/
def State.bindStays (s : State) (vf : Nat) (b : Bind) : Bool := match b.vf with | some f => f != vf && s.fnBusy f | none => false

theorem setFn_made (s : State) (vf : Nat) (d : List Word) (cmap : List Nat) (p : Part) :
    (s.setFn vf d cmap p).s.vfs = mput s.vfs vf (s.fnMade vf d cmap) ∧
    (s.setFn vf d cmap p).s.freed = s.freed.filter (fun c => !cmap.contains c) ∧
    ∃ rest, (s.setFn vf d cmap p).s.binds = s.binds.filter (s.bindStays vf) ++ ⟨cmap.flatMap coresOf, p.slots, some vf⟩ :: rest := by
  unfold State.setFn
  extract_lets old part v frames count moved s1 s2 tag tags cores nb kept rest s3
  have h1 : s.Scrubbed s1 := .foldl (fun s c => s.scrubbed_zeroShare c part p) moved s
  have h2 : s.Scrubbed s2 := .ite h1 (h1.trans (s1.scrubbed_zeroMem _))
  have e2 : s2.vfs = s.vfs ∧ s2.freed = s.freed ∧ s2.binds = s.binds := by rw [h2.same]; exact ⟨rfl, rfl, rfl⟩
  obtain ⟨hv, hfr, hb⟩ := e2
  have hk : kept = s.binds.filter (s.bindStays vf) := congrArg (List.filter (s.bindStays vf)) hb
  have v3 : s3.vfs = mput s.vfs vf v := congrArg (mput · vf v) hv
  have f3 : s3.freed = s.freed.filter (fun c => !cmap.contains c) := congrArg (List.filter fun c => !cmap.contains c) hfr
  have b3 : s3.binds = s.binds.filter (s.bindStays vf) ++ nb :: rest := congrArg (· ++ nb :: rest) hk
  clear_value s3
  obtain ⟨uv, uf, ub, -⟩ := (s3.undone_squashXlat (some vf)).carved
  obtain ⟨-, wv, -, -, wf, wb, -⟩ := (State.wrote_showMig (s3.squashXlat (some vf)) vf).carved
  exact ⟨wv.trans (uv.trans v3), wf.trans (uf.trans f3), rest, wb.trans (ub.trans b3)⟩

theorem coreOf_mem_coresOf {gs : Nat} {cmap : List Nat} (h : clusterOf gs ∈ cmap) : coreOf gs ∈ cmap.flatMap coresOf := by
  refine List.mem_flatMap.mpr ⟨_, h, List.mem_map.mpr ⟨gs / 64 % 8, List.mem_range.mpr (Nat.mod_lt _ (by decide)), ?_⟩⟩
  unfold clusterOf coreOf
  omega

/-- A slot that no running function keeps is bound to the function that a `VSET` makes. -/
theorem boundTo_made {s t : State} {vf gs : Nat} {cmap : List Nat} {p : Part} {rest : List Bind}
    (hb : t.binds = s.binds.filter (s.bindStays vf) ++ ⟨cmap.flatMap coresOf, p.slots, some vf⟩ :: rest)
    (hc : clusterOf gs ∈ cmap) (hs : bit p.slots (slotOf gs) = true)
    (hfree : ∀ b ∈ s.binds, coreOf gs ∈ b.cores → bit b.slots (slotOf gs) = true → ∀ f, b.vf = some f → f ≠ vf → s.fnBusy f = false) :
    t.boundTo gs = some vf := by
  have hnone : (s.binds.filter (s.bindStays vf)).find? (fun (b : Bind) => b.cores.contains (coreOf gs) && bit b.slots (slotOf gs)) = none := by
    refine List.find?_eq_none.mpr fun b hb hcov => ?_
    obtain ⟨hm, hst⟩ := List.mem_filter.mp hb
    obtain ⟨hco, hsl⟩ := (Bool.and_eq_true ..).mp hcov
    unfold State.bindStays at hst
    split at hst
    next f hf =>
      obtain ⟨hne, hbusy⟩ := (Bool.and_eq_true ..).mp hst
      exact Bool.noConfusion (hbusy.symm.trans (hfree b hm (List.contains_iff_mem.mp hco) hsl f hf (bne_iff_ne.mp hne)))
    next => exact Bool.noConfusion hst
  have hnew : ((cmap.flatMap coresOf).contains (coreOf gs) && bit p.slots (slotOf gs)) = true := by
    rw [List.contains_iff_mem.mpr (coreOf_mem_coresOf hc), hs, Bool.and_true]
  rw [State.boundTo, hb, List.find?_append, hnone, Option.none_or, List.find?_cons, hnew]
  rfl

/-- What a new function must leave to others: clusters of its partition, each once, a segment of its partition's regions, and no range of
another function's (R365). -/
def Part.clearFor (p : Part) (v : VFunc) (cmap : List Nat) (others : List VFunc) : Prop :=
  cmap.Nodup ∧ (∀ k ∈ cmap, p.ownsCluster k = true) ∧ p.holds v.sbase v.sbound = true ∧
    (∀ w ∈ others, rangesMeet v.sbase v.sbound w.sbase w.sbound = false ∧ rangesMeet v.abase v.acnt w.abase w.acnt = false) ∧
    v.qsl + (others.map VFunc.qsl).foldl (· + ·) 0 ≤ 1024

theorem any_false_iff {α : Type} (l : List α) (f : α → Bool) : l.any f = false ↔ ∀ a ∈ l, f a = false := by
  rw [← Bool.not_eq_true, List.any_eq_true]
  exact ⟨fun h a ha => Bool.eq_false_iff.mpr fun hf => h ⟨a, ha, hf⟩, fun h ⟨a, ha, hf⟩ => Bool.noConfusion (hf.symm.trans (h a ha))⟩

/-- The four conditions of a `VSET` whose failure gives STATUS 2. -/
theorem clearFor_needs (p : Part) (v : VFunc) (cmap : List Nat) (others : List VFunc) {β : Type} (k : Except (Nat × Nat × Nat) β) :
    (p.clearFor v cmap others →
      (do mbNeed (decide cmap.Nodup && cmap.all (fun c => p.ownsCluster c)) 2
          mbNeed (p.holds v.sbase v.sbound && !others.any (fun w => rangesMeet v.sbase v.sbound w.sbase w.sbound)) 2
          mbNeed (!others.any (fun w => rangesMeet v.abase v.acnt w.abase w.acnt)) 2
          mbNeed (decide (v.qsl + (others.map VFunc.qsl).foldl (· + ·) 0 ≤ 1024)) 2
          k) = k) ∧
    (¬p.clearFor v cmap others →
      (do mbNeed (decide cmap.Nodup && cmap.all (fun c => p.ownsCluster c)) 2
          mbNeed (p.holds v.sbase v.sbound && !others.any (fun w => rangesMeet v.sbase v.sbound w.sbase w.sbound)) 2
          mbNeed (!others.any (fun w => rangesMeet v.abase v.acnt w.abase w.acnt)) 2
          mbNeed (decide (v.qsl + (others.map VFunc.qsl).foldl (· + ·) 0 ≤ 1024)) 2
          k) = .error (2, 0, 0)) := by
  have hiff : p.clearFor v cmap others ↔
      (decide cmap.Nodup && cmap.all (fun c => p.ownsCluster c)) = true ∧
      (p.holds v.sbase v.sbound && !others.any (fun w => rangesMeet v.sbase v.sbound w.sbase w.sbound)) = true ∧
      (!others.any (fun w => rangesMeet v.abase v.acnt w.abase w.acnt)) = true ∧
      decide (v.qsl + (others.map VFunc.qsl).foldl (· + ·) 0 ≤ 1024) = true := by
    rw [Bool.and_eq_true, Bool.and_eq_true, decide_eq_true_iff, decide_eq_true_iff, List.all_eq_true, Bool.not_eq_true', Bool.not_eq_true',
      any_false_iff, any_false_iff]
    exact ⟨fun ⟨a, b, c, d, e⟩ => ⟨⟨a, b⟩, ⟨c, fun w hw => (d w hw).1⟩, fun w hw => (d w hw).2, e⟩,
      fun ⟨⟨a, b⟩, ⟨c, d⟩, e, f⟩ => ⟨a, b, c, fun w hw => ⟨d w hw, e w hw⟩, f⟩⟩
  rw [hiff]
  constructor
  · intro ⟨h1, h2, h3, h4⟩
    exact (mbNeed_met h1 _ _).trans <| (mbNeed_met h2 _ _).trans <| (mbNeed_met h3 _ _).trans <| mbNeed_met h4 _ _
  · intro h
    rcases Bool.eq_false_or_eq_true (decide cmap.Nodup && cmap.all (fun c => p.ownsCluster c)) with h1 | h1
    · refine (mbNeed_met h1 _ _).trans ?_
      rcases Bool.eq_false_or_eq_true (p.holds v.sbase v.sbound && !others.any (fun w => rangesMeet v.sbase v.sbound w.sbase w.sbound)) with h2 | h2
      · refine (mbNeed_met h2 _ _).trans ?_
        rcases Bool.eq_false_or_eq_true (!others.any (fun w => rangesMeet v.abase v.acnt w.abase w.acnt)) with h3 | h3
        · refine (mbNeed_met h3 _ _).trans (mbNeed_unmet (Bool.eq_false_iff.mpr fun h4 => h ⟨h1, h2, h3, h4⟩) _ _)
        · exact mbNeed_unmet h3 _ _
      · exact mbNeed_unmet h2 _ _
    · exact mbNeed_unmet h1 _ _

/-- The cluster map that a function descriptor names. -/
def State.mapAt (s : State) (d : List Word) : List Nat :=
  (List.range (⟨d, [], false, 1, 0, false⟩ : VFunc).ncl).map (fun k => s.natAt ((dw d 2).toNat + 2 * k) 2)

/-- Every function but one. -/
def State.otherFns (s : State) (vf : Nat) : List VFunc := (s.vfs.filter (fun x => x.1 != vf)).map (·.2)

/-- A thread of another function holds a slot of the partition on one of the clusters. -/
def State.heldByOthers (s : State) (vf : Nat) (p : Part) (cmap : List Nat) : Prop :=
  ∃ x ∈ s.threads, x.2.live = true ∧ p.ownsSlot x.1 = true ∧ clusterOf x.1 ∈ cmap ∧ ∃ f, x.2.vf = some f ∧ f ≠ vf

theorem heldByOthers_iff (s : State) (vf : Nat) (p : Part) (cmap : List Nat) :
    (s.threads.any (fun t => t.2.live && p.ownsSlot t.1 && cmap.contains (clusterOf t.1) &&
      (match t.2.vf with | some f => f != vf | none => false))) = true ↔ s.heldByOthers vf p cmap := by
  have hm (t : Thread) : (match t.vf with | some f => f != vf | none => false) = true ↔ ∃ f, t.vf = some f ∧ f ≠ vf := by
    cases t.vf with
    | none => exact ⟨fun h => Bool.noConfusion h, fun ⟨_, h, _⟩ => nomatch h⟩
    | some f => exact ⟨fun h => ⟨f, rfl, bne_iff_ne.mp h⟩, fun ⟨g, hg, hne⟩ => bne_iff_ne.mpr (Option.some.inj hg ▸ hne)⟩
  rw [List.any_eq_true]
  refine exists_congr fun x => and_congr_right fun _ => ?_
  rw [Bool.and_eq_true, Bool.and_eq_true, Bool.and_eq_true, List.contains_iff_mem, and_assoc, and_assoc]
  exact and_congr_right fun _ => and_congr_right fun _ => and_congr_right fun _ => hm x.2

section
variable {s : State} {c : MbCmd} {d : List Word} (hr : s.mb.run = none) (hf : mbFormed c = true) (ho : mbOp c = 2)
  (ht : bits c.target 31 16 < 256) (ha : (c.args.getD 0 0).toNat % 64 = 0)
  (hd : (Spec.taken s).mbDwords (c.args.getD 0 0).toNat 24 = .ok d)
include hr hf ho ht ha hd

theorem execVset_busy (hz : d.all (· == 0) = true) (h : (Spec.taken s).fnBusy (bits c.target 31 16) = true ∨ (Spec.taken s).migHolds (bits c.target 31 16) = true) :
    execVset c s = .next ((Spec.taken s).mbResult (bits c.target 63 48) 3 0 0) := by
  refine mbDo_fails hr hf ho (d1 := 0) (d3 := 0) ?_
  refine (mbNeed_met (decide_eq_true ⟨ht, ha⟩) _ _).trans <| (mb_bind_ok hd _).trans <| (if_pos hz).trans (mbNeed_unmet ?_ _ _)
  rw [← Bool.not_or, Bool.not_eq_false', Bool.or_eq_true]
  exact h

theorem execVset_deletes (hz : d.all (· == 0) = true) (hb : (Spec.taken s).fnBusy (bits c.target 31 16) = false)
    (hm : (Spec.taken s).migHolds (bits c.target 31 16) = false) :
    ∃ t, execVset c s = .next t ∧ mget t.vfs (bits c.target 31 16) = none ∧
      (∀ v, v ≠ bits c.target 31 16 → mget t.vfs v = mget s.vfs v) ∧ (∀ m ∈ t.qmap, m.vf ≠ bits c.target 31 16) ∧ t.rf = s.rf := by
  refine mbDo_carries hr hf ho (d := { s := ((Spec.taken s).deleteFn (bits c.target 31 16)).showMig (bits c.target 31 16) }) ?_ fun t hw => ?_
  · exact (mbNeed_met (decide_eq_true ⟨ht, ha⟩) _ _).trans <| (mb_bind_ok hd _).trans <| (if_pos hz).trans <|
      mbNeed_met (congrArg₂ (fun x y => !x && !y) hb hm) _ _
  · obtain ⟨-, hv, hrf, -, -, -, hq⟩ := ((State.wrote_showMig ((Spec.taken s).deleteFn (bits c.target 31 16)) (bits c.target 31 16)).trans hw).carved
    rw [hv, hrf, hq]
    refine ⟨mget_mdel_self .., fun v h => mget_mdel_ne _ h, fun m hm => ?_, rfl⟩
    exact bne_iff_ne.mp (List.mem_filter.mp hm).2

variable {p : Part} (hz : d.all (· == 0) = false) (hv : fnValid d = true) (hp : mget s.parts (bits (dw d 0) 4 0) = some p)
  (hread : (Spec.taken s).readable (dw d 2).toNat (2 * (⟨d, [], false, 1, 0, false⟩ : VFunc).ncl) = true)
include hz hv hp hread

theorem execVset_standsInWay
    (h : ¬p.clearFor ⟨d, [], false, 1, 0, false⟩ ((Spec.taken s).mapAt d) (s.otherFns (bits c.target 31 16))) :
    execVset c s = .next ((Spec.taken s).mbResult (bits c.target 63 48) 2 0 0) := by
  refine mbDo_fails hr hf ho (d1 := 0) (d3 := 0) ?_
  have hp' : mget (Spec.taken s).parts (bits (dw d 0) 4 0) = some p := hp
  refine (mbNeed_met (decide_eq_true ⟨ht, ha⟩) _ _).trans <| (mb_bind_ok hd _).trans <| (if_neg (Bool.eq_false_iff.mp hz)).trans <|
    (mbNeed_met hv _ _).trans ?_
  beta_reduce
  rw [hp']
  exact (mbNeed_met hread _ _).trans ((clearFor_needs p _ _ _ _).2 h)

variable (hclear : p.clearFor ⟨d, [], false, 1, 0, false⟩ ((Spec.taken s).mapAt d) (s.otherFns (bits c.target 31 16)))
include hclear

theorem execVset_held (h : s.heldByOthers (bits c.target 31 16) p ((Spec.taken s).mapAt d)) :
    execVset c s = .next ((Spec.taken s).mbResult (bits c.target 63 48) 3 0 0) := by
  refine mbDo_fails hr hf ho (d1 := 0) (d3 := 0) ?_
  have hp' : mget (Spec.taken s).parts (bits (dw d 0) 4 0) = some p := hp
  refine (mbNeed_met (decide_eq_true ⟨ht, ha⟩) _ _).trans <| (mb_bind_ok hd _).trans <| (if_neg (Bool.eq_false_iff.mp hz)).trans <|
    (mbNeed_met hv _ _).trans ?_
  beta_reduce
  rw [hp']
  exact (mbNeed_met hread _ _).trans <| ((clearFor_needs p _ _ _ _).1 hclear).trans <|
    mbNeed_unmet (congrArg (!·) ((heldByOthers_iff s _ p _).mpr h)) _ _

theorem execVset_makes (h : ¬s.heldByOthers (bits c.target 31 16) p ((Spec.taken s).mapAt d)) :
    ∃ (t : State) (w : VFunc), execVset c s = .next t ∧ mget t.vfs (bits c.target 31 16) = some w ∧ w.desc = d ∧
      w.cmap = (Spec.taken s).mapAt d ∧ (∀ k, k ≠ bits c.target 31 16 → mget t.vfs k = mget s.vfs k) ∧
      (∀ k ∈ (Spec.taken s).mapAt d, ¬k ∈ t.freed) ∧
      (∀ gs, clusterOf gs ∈ (Spec.taken s).mapAt d → bit p.slots (slotOf gs) = true →
        (∀ b ∈ s.binds, coreOf gs ∈ b.cores → bit b.slots (slotOf gs) = true → ∀ f, b.vf = some f → f ≠ bits c.target 31 16 →
          s.fnBusy f = false) →
        t.boundTo gs = some (bits c.target 31 16)) := by
  obtain ⟨mv, mf, rest, mb⟩ := setFn_made (Spec.taken s) (bits c.target 31 16) d ((Spec.taken s).mapAt d) p
  have key : ∃ t, execVset c s = .next t ∧
      t.vfs = mput s.vfs (bits c.target 31 16) (s.fnMade (bits c.target 31 16) d ((Spec.taken s).mapAt d)) ∧
      t.freed = s.freed.filter (fun k => !((Spec.taken s).mapAt d).contains k) ∧
      t.binds = s.binds.filter (s.bindStays (bits c.target 31 16)) ++
        ⟨((Spec.taken s).mapAt d).flatMap coresOf, p.slots, some (bits c.target 31 16)⟩ :: rest := by
    refine mbDo_carries hr hf ho (d := (Spec.taken s).setFn (bits c.target 31 16) d ((Spec.taken s).mapAt d) p) ?_ fun t hw => ?_
    · have hp' : mget (Spec.taken s).parts (bits (dw d 0) 4 0) = some p := hp
      refine (mbNeed_met (decide_eq_true ⟨ht, ha⟩) _ _).trans <| (mb_bind_ok hd _).trans <| (if_neg (Bool.eq_false_iff.mp hz)).trans <|
        (mbNeed_met hv _ _).trans ?_
      beta_reduce
      rw [hp']
      exact (mbNeed_met hread _ _).trans <| ((clearFor_needs p _ _ _ _).1 hclear).trans <|
        mbNeed_met (congrArg (!·) (Bool.eq_false_iff.mpr fun hh => h ((heldByOthers_iff s _ p _).mp hh))) _ _
    · obtain ⟨-, wv, -, -, wf, wb, -⟩ := hw.carved
      exact ⟨wv.trans mv, wf.trans mf, wb.trans mb⟩
  obtain ⟨t, he, hvf, hfr, hb⟩ := key
  refine ⟨t, s.fnMade (bits c.target 31 16) d ((Spec.taken s).mapAt d), he, ?_, rfl, rfl, fun k hk => ?_, fun k hk hmem => ?_, fun gs hg hs hfree => boundTo_made hb hg hs hfree⟩
  · rw [hvf, mget_mput_self]
  · rw [hvf, mget_mput_ne _ _ hk]
  · rw [hfr] at hmem
    have := (List.mem_filter.mp hmem).2
    rw [List.contains_iff_mem.mpr hk] at this
    exact Bool.noConfusion this

end

end Sys2Proof.Machine
end

section
/-!
PROOFS. The other mailbox commands, and what every command answers (R320, R321, R323, R324, R326, R329 to R331, R358 to R373).
-/

namespace Sys2Proof.Machine

theorem stopCluster_runs (s : State) (pc part buf : Nat) (mig : Option Nat) : (s.stopCluster pc part buf mig).clusterRuns pc = false := by
  rw [State.clusterRuns, Bool.and_eq_false_iff]
  refine .inr (Bool.eq_false_iff.mpr fun h => ?_)
  have hm : (s.nextStop, (⟨pc, part, buf, .stopping, 0, 0, [], 0, false, mig, false, false⟩ : BaleStop)) ∈ (s.stopCluster pc part buf mig).stops :=
    mem_of_mget (mget_mput_self ..)
  exact bne_iff_ne.mp (List.all_eq_true.mp h _ hm) rfl

/-- A live thread of the slot is to stop for a handover. -/
def State.tellHover (s : State) (gs : Nat) : State :=
  let t := s.thread gs
  if t.live then s.setThread gs (t.stopsFor .hover) else s

theorem tellHover_keeps (l : List Nat) : ∀ s : State, ∃ m, l.foldl State.tellHover s = { s with threads := m } := by
  induction l with
  | nil => exact fun s => ⟨_, rfl⟩
  | cons g l ih =>
    intro s
    obtain ⟨m, hm⟩ := ih (s.tellHover g)
    obtain ⟨m1, hm1⟩ : ∃ m1, s.tellHover g = { s with threads := m1 } := by
      unfold State.tellHover
      dsimp only
      split
      exacts [⟨_, rfl⟩, ⟨_, rfl⟩]
    exact ⟨m, by rw [List.foldl_cons, hm, hm1]⟩

/-- Each slot is told once; a thread told stays live and told. -/
theorem tellHover_told (gs : Nat) (l : List Nat) : ∀ s : State, ((s.thread gs).live = true → ((l.foldl State.tellHover s).thread gs).live = true) ∧
    ((s.thread gs).live = true → (gs ∈ l ∨ (s.thread gs).stopFor = some .hover) → ((l.foldl State.tellHover s).thread gs).stopFor = some .hover) := by
  induction l with
  | nil => exact fun s => ⟨id, fun _ h => h.elim (fun h => nomatch h) id⟩
  | cons g l ih =>
    intro s
    have hone : (s.thread gs).live = true → ((s.tellHover g).thread gs).live = true ∧
        ((gs = g ∨ (s.thread gs).stopFor = some .hover) → ((s.tellHover g).thread gs).stopFor = some .hover) := by
      intro hl
      unfold State.tellHover
      dsimp only
      by_cases he : gs = g
      · subst he
        rw [if_pos hl, State.thread_setThread_self]
        exact ⟨hl, fun _ => rfl⟩
      · have hk : (if (s.thread g).live = true then s.setThread g ((s.thread g).stopsFor .hover) else s).thread gs = s.thread gs := by
          split
          exacts [State.thread_setThread_ne _ _ he, rfl]
        rw [hk]
        exact ⟨hl, fun h => h.resolve_left he⟩
    refine ⟨fun hl => (ih _).1 (hone hl).1, fun hl h => (ih _).2 (hone hl).1 ?_⟩
    rcases h with h | h
    · rcases List.mem_cons.mp h with h | h
      exacts [.inr ((hone hl).2 (.inl h)), .inl h]
    · exact .inr ((hone hl).2 (.inr h))

theorem State.Wrote.hyper {s t : State} (h : s.Wrote t) :
    t.hring = s.hring ∧ t.hslot = s.hslot ∧ t.hserial = s.hserial ∧ t.hctx = s.hctx := by
  rw [h.same]
  exact ⟨rfl, rfl, rfl, rfl⟩

theorem State.Posts.carved {s t : State} (h : s.Posts t) : t.parts = s.parts ∧ t.rf = s.rf ∧ t.traceHold = s.traceHold := by
  rw [h.same]
  exact ⟨rfl, rfl, rfl⟩

/-- A partition with another log and POLICY. -/
def Part.withLog (p : Part) (base len policy : Nat) : Part :=
  { p with
    policy := policy, logBase := base, logLen := len
    logPos := if base = p.logBase then p.logPos else 0
    stopped := p.stopped && decide (policy / 2 = 2) }

theorem setLog_parts {s : State} {pid : Nat} {p : Part} (h : mget s.parts pid = some p) (base len policy : Nat) :
    (s.setLog pid base len policy).parts = mput s.parts pid (p.withLog base len policy) ∧ (s.setLog pid base len policy).rf = s.rf := by
  unfold State.setLog
  rw [h]
  dsimp only
  have hp (s1 : State) (b : Bool) : s1.Posts (if b = true then s1.postHyper 11 pid 0 0 [] else s1) :=
    .ite (s1.posts_postHyper ..) (.refl s1)
  obtain ⟨h1, h2, -⟩ := (hp { s with parts := mput s.parts pid (p.withLog base len policy) } _).carved
  exact ⟨h1, h2⟩

section
variable {s : State} {c : MbCmd} (hr : s.mb.run = none) (hf : mbFormed c = true)
include hr hf

/-! HSET, PLOG, CONTAIN and DRAIN. -/

theorem execHset_sets (ho : mbOp c = 3) (ht : bits c.target 31 16 = 0) (h0 : bits (c.args.getD 0 0) 63 57 = 0)
    (h1 : bits (c.args.getD 0 0) 11 5 = 0) (h2 : 6 ≤ bits (c.args.getD 0 0) 4 0) (h3 : bits (c.args.getD 0 0) 4 0 ≤ 16)
    (h4 : bits (c.args.getD 1 0) 63 18 = 0) (h5 : bits (c.args.getD 1 0) 17 9 < clusterCount) (h6 : bits (c.args.getD 2 0) 63 52 = 0)
    (h7 : bits (c.args.getD 2 0) 11 1 = 0) :
    ∃ t, execHset c s = .next t ∧ t.hring = c.args.getD 0 0 ∧ t.hslot = c.args.getD 1 0 ∧ t.hserial = 1 ∧ t.hctx = c.args.getD 2 0 ∧
      t.mb.run = none := by
  let s1 : State := { Spec.taken s with hring := c.args.getD 0 0, hslot := c.args.getD 1 0, hserial := 1, hctx := c.args.getD 2 0 }
  let d : MbDone := { s := if (Spec.taken s).hctx = c.args.getD 2 0 then s1 else s1.squashXlat none }
  have hd : s1.Undone d.s := .ite (.refl s1) (s1.undone_squashXlat none)
  refine ⟨_, mbDo_answers hr hf ho (d := d) ?_ rfl, ?_⟩
  · refine (mbNeed_met ?_ _ _).trans (mbNeed_met ?_ _ _)
    · rw [Bool.and_eq_true, Bool.and_eq_true, Bool.and_eq_true, beq_iff_eq, beq_iff_eq, beq_iff_eq, decide_eq_true_iff]
      exact ⟨⟨⟨ht, h0⟩, h1⟩, h2, h3⟩
    · rw [Bool.and_eq_true, Bool.and_eq_true, Bool.and_eq_true, beq_iff_eq, beq_iff_eq, beq_iff_eq, decide_eq_true_iff]
      exact ⟨⟨⟨h4, h5⟩, h6⟩, h7⟩
  · obtain ⟨-, -, -, ur, us, un, uc⟩ := hd.carved
    have hw := (d.s.wrote_mbResult (bits c.target 63 48) 0 d.d1 d.d3).hyper
    obtain ⟨wr, ws, wn, wc⟩ := hw
    exact ⟨wr.trans ur, ws.trans us, wn.trans un, wc.trans uc, mbResult_run ..⟩

theorem execMbPlog_sets (ho : mbOp c = 4) {p : Part} (hp : mget s.parts (bits c.target 31 16) = some p)
    (h0 : (c.args.getD 0 0).toNat % 8 = 0) (h1 : bits (c.args.getD 2 0) 63 3 = 0) (h2 : bits (c.args.getD 2 0) 2 1 ≠ 3) :
    ∃ (t : State) (q : Part), execMbPlog c s = .next t ∧ mget t.parts (bits c.target 31 16) = some q ∧
      q.logBase = (c.args.getD 0 0).toNat ∧ q.logLen = (c.args.getD 1 0).toNat ∧ q.policy = bits (c.args.getD 2 0) 2 0 ∧
      q.desc = p.desc ∧ (q.logPos = if (c.args.getD 0 0).toNat = p.logBase then p.logPos else 0) ∧ t.rf = s.rf := by
  obtain ⟨hq, hl⟩ := setLog_parts (s := Spec.taken s) hp (c.args.getD 0 0).toNat (c.args.getD 1 0).toNat (bits (c.args.getD 2 0) 2 0)
  have key : ∃ t, execMbPlog c s = .next t ∧ ((Spec.taken s).setLog (bits c.target 31 16) (c.args.getD 0 0).toNat (c.args.getD 1 0).toNat
      (bits (c.args.getD 2 0) 2 0)).Wrote t := by
    refine mbDo_carries hr hf ho (d := { s := _ }) (mbNeed_met ?_ _ _) fun t hw => hw
    rw [Bool.and_eq_true, Bool.and_eq_true, Bool.and_eq_true, beq_iff_eq, bne_iff_ne, decide_eq_true_iff]
    exact ⟨⟨⟨Option.isSome_iff_exists.mpr ⟨p, hp⟩, h0⟩, h1⟩, h2⟩
  obtain ⟨t, he, hw⟩ := key
  obtain ⟨wp, -, wr, -⟩ := hw.carved
  refine ⟨t, p.withLog _ _ _, he, ?_, rfl, rfl, rfl, rfl, rfl, wr.trans hl⟩
  rw [wp, hq]
  exact mget_mput_self ..

theorem execContain_kills (ho : mbOp c = 5) (hv : (mget s.vfs (bits c.target 31 16)).isSome = true) (ha : bits (c.args.getD 0 0) 63 14 = 0) :
    execContain c s = .next ((((Spec.taken s).contain (some (bits c.target 31 16)) (c.args.getD 0 0).toNat 4 none).1).mbResult
      (bits c.target 63 48) 0 ((Spec.taken s).contain (some (bits c.target 31 16)) (c.args.getD 0 0).toNat 4 none).2 0) := by
  refine mbDo_answers hr hf ho (d := { s := _, d1 := _ }) ?_ rfl
  exact mbNeed_met ((Bool.and_eq_true ..).mpr ⟨hv, beq_iff_eq.mpr ha⟩) _ _

theorem execDrain_drains (ho : mbOp c = 6) (hv : (mget s.vfs (bits c.target 31 16)).isSome = true) (ha : (c.args.getD 0 0).toNat < 64) :
    execDrain c s = .next (((Spec.taken s).drainQueue (bits c.target 31 16) (c.args.getD 0 0).toNat).mbResult (bits c.target 63 48) 0 0 0) := by
  refine mbDo_answers hr hf ho (d := { s := _ }) ?_ rfl
  exact mbNeed_met ((Bool.and_eq_true ..).mpr ⟨hv, decide_eq_true ha⟩) _ _

/-! TRACE (R373). -/

theorem execTrace_cases (ho : mbOp c = 7) (ht : bits c.target 31 16 < 4) (ha : bits (c.args.getD 0 0) 63 2 = 0) :
    (256 ≤ s.traceHold.getD (bits c.target 31 16) 511 → ∃ t, execTrace c s = .next t ∧
      t.traceHold = s.traceHold.set (bits c.target 31 16) (if (c.args.getD 0 0).getLsbD 0 then 256 else 511) ∧ t.rf = s.rf) ∧
    (s.traceHold.getD (bits c.target 31 16) 511 < 256 →
      ((c.args.getD 0 0).getLsbD 1 = true → ∃ t, execTrace c s = .next t ∧
        t.traceHold = s.traceHold.set (bits c.target 31 16) (if (c.args.getD 0 0).getLsbD 0 then 256 else 511) ∧ t.rf = s.rf) ∧
      ((c.args.getD 0 0).getLsbD 1 = false → (c.args.getD 0 0).getLsbD 0 = true → (Spec.taken s).claimedNow (bits c.target 31 16) = false →
        execTrace c s = .next ((Spec.taken s).mbResult (bits c.target 63 48) 3 (s.traceHold.getD (bits c.target 31 16) 511) 0)) ∧
      ((c.args.getD 0 0).getLsbD 1 = false → (c.args.getD 0 0).getLsbD 0 = false →
        execTrace c s = .next ((Spec.taken s).mbResult (bits c.target 63 48) 0 (s.traceHold.getD (bits c.target 31 16) 511) 0))) := by
  have hneed : (decide (bits c.target 31 16 < 4) && bits (c.args.getD 0 0) 63 2 == 0) = true :=
    (Bool.and_eq_true ..).mpr ⟨decide_eq_true ht, beq_iff_eq.mpr ha⟩
  rw [← bit_eq_getLsbD, ← bit_eq_getLsbD]
  refine ⟨fun h => ?_, fun h => ⟨fun h1 => ?_, fun h1 h0 hn => ?_, fun h1 h0 => ?_⟩⟩
  · refine mbDo_carries hr hf ho (d := { s := { Spec.taken s with traceHold := _ }, d1 := _ }) ((mbNeed_met hneed _ _).trans
      (if_neg (Nat.not_lt.mpr h))) fun t hw => ?_
    obtain ⟨-, -, wr, wt, -⟩ := hw.carved
    exact ⟨wt, wr⟩
  · refine mbDo_carries hr hf ho (d := { s := State.traceNotice _ _ _ _, d1 := _ }) ((mbNeed_met hneed _ _).trans
      ((if_pos h).trans (if_pos h1))) fun t hw => ?_
    obtain ⟨-, -, wr, wt, -⟩ := hw.carved
    obtain ⟨-, pr, pt⟩ := (State.posts_postKernel _ _ _ _ _).carved
    obtain ⟨st, sr⟩ := State.setHolder_sets (Spec.taken s) (bits c.target 31 16) (if bit (c.args.getD 0 0) 0 then 256 else 511)
      (s.traceHold.getD (bits c.target 31 16) 511)
    exact ⟨wt.trans (pt.trans st), wr.trans (pr.trans sr)⟩
  · exact mbDo_fails hr hf ho ((mbNeed_met hneed _ _).trans ((if_pos h).trans
      ((if_neg (Bool.eq_false_iff.mp h1)).trans ((if_pos h0).trans (if_neg (Bool.eq_false_iff.mp hn))))))
  · exact mbDo_answers hr hf ho (d := { s := Spec.taken s, d1 := _ }) ((mbNeed_met hneed _ _).trans ((if_pos h).trans
      ((if_neg (Bool.eq_false_iff.mp h1)).trans (if_neg (Bool.eq_false_iff.mp h0))))) rfl

/-! BSTOP and BREST (R324, R326, R329 to R331). -/

theorem execBstop_stops (ho : mbOp c = 16) {part : Nat} (ht : bits c.target 31 16 < clusterCount)
    (hp : (Spec.taken s).wholeOwner (bits c.target 31 16) = some part) (hruns : (Spec.taken s).clusterRuns (bits c.target 31 16) = true)
    (hfree : ¬bits c.target 31 16 ∈ s.freed)
    (hbuf : (List.range baleBlocks).all (fun k => (Spec.taken s).bufferBlock ((c.args.getD 0 0).toNat + 4096 * k)) = true) :
    ∃ t, execBstop c s = .next t ∧ t.rf = s.rf ∧ t.mem = s.mem ∧ t.clusterRuns (bits c.target 31 16) = false ∧
      (∃ b, mget t.stops s.nextStop = some b ∧ b.pc = bits c.target 31 16 ∧ b.phase = .stopping ∧ b.buf = (c.args.getD 0 0).toNat) ∧
      (∃ r, t.mb.run = some r ∧ r.wait = .bstop (bits c.target 31 16)) := by
  let d : MbDone :=
    ⟨(Spec.taken s).stopCluster (bits c.target 31 16) part (c.args.getD 0 0).toNat none, 0, 0, some (.bstop (bits c.target 31 16))⟩
  refine ⟨_, mbDo_waits hr hf ho (d := d) ?_ rfl, rfl, rfl, stopCluster_runs .., ⟨_, mget_mput_self .., rfl, rfl, rfl⟩, _, rfl, rfl⟩
  have hi : (if bits c.target 31 16 < clusterCount then (Spec.taken s).wholeOwner (bits c.target 31 16) else none) = some part := (if_pos ht).trans hp
  dsimp only [mbTgt]
  rw [hi]
  refine (baleNeed_met ?_ _ _ _).trans (baleNeed_met hbuf _ _ _)
  rw [hruns, Bool.true_and, Bool.not_eq_true', Bool.eq_false_iff]
  exact fun h => hfree (List.contains_iff_mem.mp h)

theorem execBstop_refused (ho : mbOp c = 16) (h : clusterCount ≤ bits c.target 31 16 ∨ (Spec.taken s).wholeOwner (bits c.target 31 16) = none ∨
      (Spec.taken s).clusterRuns (bits c.target 31 16) = false ∨ bits c.target 31 16 ∈ s.freed) :
    execBstop c s = .next ((Spec.taken s).mbResult (bits c.target 63 48) 5 0 5) := by
  refine mbDo_fails hr hf ho ?_
  dsimp only [mbTgt]
  cases hw : (if bits c.target 31 16 < clusterCount then (Spec.taken s).wholeOwner (bits c.target 31 16) else none) with
  | none => rfl
  | some part =>
    obtain ⟨ht, hp⟩ : bits c.target 31 16 < clusterCount ∧ (Spec.taken s).wholeOwner (bits c.target 31 16) = some part := by
      split at hw
      · exact ⟨‹_›, hw⟩
      · exact nomatch hw
    refine baleNeed_unmet ?_ _ _ _
    rw [Bool.and_eq_false_iff, Bool.not_eq_false', List.contains_iff_mem]
    rcases h with h | h | h
    · exact absurd ht (Nat.not_lt.mpr h)
    · exact nomatch h.symm.trans hp
    · exact h

theorem execBrest_refused (ho : mbOp c = 17) {e : Nat × Nat × Nat} (h : (Spec.taken s).checkBale (c.args.getD 0 0).toNat = .error e) :
    execBrest c s = .next ((Spec.taken s).mbResult (bits c.target 63 48) e.1 e.2.1 e.2.2) :=
  mbDo_fails hr hf ho (mb_bind_error h _)

section
variable (ho : mbOp c = 17) {h : BaleHead} (hb : (Spec.taken s).checkBale (c.args.getD 0 0).toNat = .ok h)
  (ht : bits c.target 31 16 < clusterCount) (hfree : bits c.target 31 16 ∈ s.freed)
  (hown : (Spec.taken s).wholeOwner (bits c.target 31 16) = some h.part)
include ho hb ht hfree hown

theorem brest_free : (decide (bits c.target 31 16 < clusterCount) && (Spec.taken s).freed.contains (bits c.target 31 16) &&
    (Spec.taken s).wholeOwner (bits c.target 31 16) == some h.part) = true := by
  rw [Bool.and_eq_true, Bool.and_eq_true, beq_iff_eq, decide_eq_true_iff, List.contains_iff_mem]
  exact ⟨⟨ht, hfree⟩, hown⟩

theorem execBrest_own (hd : h.dev = Config.devid % 2 ^ 20) {n : Nat} {b : BaleStop} (hs : (Spec.taken s).stopOf h = some (n, b)) :
    ∃ t, execBrest c s = .next t ∧ t.rf = s.rf ∧ t.mem = s.mem ∧ mget t.stops n = some { b with
        phase := .into (bits c.target 31 16), buf := (c.args.getD 0 0).toNat, altered := (Spec.taken s).bodyAltered n (c.args.getD 0 0).toNat } ∧
      ¬bits c.target 31 16 ∈ t.freed ∧ (∃ r, t.mb.run = some r ∧ r.wait = .brest (bits c.target 31 16)) := by
  let b1 : BaleStop := { b with
    phase := .into (bits c.target 31 16), buf := (c.args.getD 0 0).toNat, altered := (Spec.taken s).bodyAltered n (c.args.getD 0 0).toNat }
  let s1 : State := { Spec.taken s with stops := mput s.stops n b1, freed := s.freed.filter (fun x => x != bits c.target 31 16) }
  refine ⟨_, mbDo_waits hr hf ho (d := ⟨s1, 0, 0, some (.brest (bits c.target 31 16))⟩) ?_ rfl, rfl, rfl, mget_mput_self .., ?_, _, rfl, rfl⟩
  · refine (mb_bind_ok hb _).trans <| (baleNeed_met (brest_free hr hf ho hb ht hfree hown) _ _ _).trans <| (if_pos hd).trans ?_
    dsimp only [mbArg, mbTgt]
    rw [hs] <;> rfl
  · exact fun hm => bne_iff_ne.mp (List.mem_filter.mp hm).2 rfl

theorem execBrest_lost (hd : h.dev = Config.devid % 2 ^ 20) (hs : (Spec.taken s).stopOf h = none) :
    execBrest c s = .next ((Spec.taken s).mbResult (bits c.target 63 48) 5 0 5) := by
  refine mbDo_fails hr hf ho ?_
  refine (mb_bind_ok hb _).trans <| (baleNeed_met (brest_free hr hf ho hb ht hfree hown) _ _ _).trans <| (if_pos hd).trans ?_
  rw [hs] <;> rfl

theorem execBrest_foreign (hd : h.dev ≠ Config.devid % 2 ^ 20) :
    ∃ t b, execBrest c s = .next t ∧ t.rf = s.rf ∧ t.mem = s.mem ∧ mget t.stops s.nextStop = some b ∧
      b.phase = .into (bits c.target 31 16) ∧ b.buf = (c.args.getD 0 0).toNat ∧ b.foreign = true ∧ ¬bits c.target 31 16 ∈ t.freed := by
  let b : BaleStop := ⟨bits c.target 31 16, h.part, (c.args.getD 0 0).toNat, .into (bits c.target 31 16), h.cseq, h.cyc, [], h.vf, h.multi, none,
    true, false⟩
  let s1 : State := { Spec.taken s with
    stops := mput s.stops s.nextStop b, freed := s.freed.filter (fun x => x != bits c.target 31 16), nextStop := s.nextStop + 1 }
  refine ⟨_, b, mbDo_waits hr hf ho (d := ⟨s1, 0, 0, some (.brest (bits c.target 31 16))⟩) ?_ rfl, rfl, rfl,
    mget_mput_self .., rfl, rfl, rfl, ?_⟩
  · exact (mb_bind_ok hb _).trans <| (baleNeed_met (brest_free hr hf ho hb ht hfree hown) _ _ _).trans <| if_neg hd
  · exact fun hm => bne_iff_ne.mp (List.mem_filter.mp hm).2 rfl

end

/-! HOVER (R321). -/

theorem execHover_begins (ho : mbOp c = 18) {p : Part} {vo vi : VFunc} (hp : mget s.parts (bits c.target 31 16) = some p)
    (hvo : mget s.vfs (bits (c.args.getD 1 0) 7 0) = some vo) (hvi : mget s.vfs (bits (c.args.getD 1 0) 15 8) = some vi)
    (h0 : bits (c.args.getD 1 0) 63 16 = 0) (h1 : bits (c.args.getD 1 0) 7 0 ≠ bits (c.args.getD 1 0) 15 8)
    (h2 : (c.args.getD 2 0).toNat % 8 = 0) (h3 : (c.args.getD 3 0).toNat % 8 = 0) (h4 : isMapped (c.args.getD 2 0).toNat = true)
    (h5 : c.args.getD 3 0 = 0 ∨ isMapped (c.args.getD 3 0).toNat = true) (h6 : vo.part = bits c.target 31 16) (h7 : vi.part = bits c.target 31 16)
    (h8 : c.args.getD 0 0 &&& ~~~p.slots = 0)
    (hne : (Spec.taken s).hoverSlots p (c.args.getD 0 0) (bits (c.args.getD 1 0) 7 0) vi ≠ []) :
    ∃ t h, execHover c s = .next t ∧ t.hover = some h ∧
      h.slots = (Spec.taken s).hoverSlots p (c.args.getD 0 0) (bits (c.args.getD 1 0) 7 0) vi ∧ h.out = bits (c.args.getD 1 0) 7 0 ∧
      h.inc = bits (c.args.getD 1 0) 15 8 ∧ (∃ r, t.mb.run = some r ∧ r.wait = .hover) ∧
      (∀ gs ∈ h.slots, (s.thread gs).live = true → (t.thread gs).stopFor = some .hover) ∧ t.rf = s.rf ∧ t.mem = s.mem := by
  let slots := (Spec.taken s).hoverSlots p (c.args.getD 0 0) (bits (c.args.getD 1 0) 7 0) vi
  let h : Hover := ⟨bits c.target 31 16, bits (c.args.getD 1 0) 7 0, bits (c.args.getD 1 0) 15 8, (c.args.getD 2 0).toNat, (c.args.getD 3 0).toNat, slots, 0⟩
  let s1 : State := slots.foldl State.tellHover (Spec.taken s)
  obtain ⟨m, hm⟩ := tellHover_keeps slots (Spec.taken s)
  have hkeep : s1.rf = s.rf ∧ s1.mem = s.mem := by rw [show s1 = _ from hm]; exact ⟨rfl, rfl⟩
  refine ⟨_, h, mbDo_waits hr hf ho (d := ⟨{ s1 with hover := some h }, 0, 0, some .hover⟩) ?_ rfl, rfl, rfl, rfl, rfl, ⟨_, rfl, rfl⟩,
    fun gs hgs hl => ?_, hkeep.1, hkeep.2⟩
  · have hneed : (bits (c.args.getD 1 0) 63 16 == 0 && decide ((c.args.getD 2 0).toNat % 8 = 0 ∧ (c.args.getD 3 0).toNat % 8 = 0 ∧
        bits (c.args.getD 1 0) 7 0 ≠ bits (c.args.getD 1 0) 15 8) && isMapped (c.args.getD 2 0).toNat &&
        ((c.args.getD 3 0).toNat == 0 || isMapped (c.args.getD 3 0).toNat)) = true := by
      rw [Bool.and_eq_true, Bool.and_eq_true, Bool.and_eq_true, Bool.or_eq_true, beq_iff_eq, beq_iff_eq, decide_eq_true_iff]
      exact ⟨⟨⟨h0, h2, h3, h1⟩, h4⟩, h5.imp (fun h => by rw [h]; rfl) id⟩
    refine (mbNeed_met hneed _ _).trans ?_
    have hp' : mget (Spec.taken s).parts (bits c.target 31 16) = some p := hp
    have hvo' : mget (Spec.taken s).vfs (bits (c.args.getD 1 0) 7 0) = some vo := hvo
    have hvi' : mget (Spec.taken s).vfs (bits (c.args.getD 1 0) 15 8) = some vi := hvi
    dsimp only [mbTgt, mbArg]
    rw [hp', hvo', hvi']
    refine (mbNeed_met ((Bool.and_eq_true ..).mpr ⟨beq_iff_eq.mpr h6, beq_iff_eq.mpr h7⟩) _ _).trans <|
      (mbNeed_met (beq_iff_eq.mpr h8) _ _).trans <| if_neg ?_
    exact fun he => hne (List.isEmpty_iff.mp he)
  · exact (tellHover_told gs slots (Spec.taken s)).2 hl (.inl hgs)

end

/-- Each command is run by `mbDo` under its own code. -/
theorem exec_of_mbCode {i : Instr} {op : Nat} {c : MbCmd} (h : Spec.mbCode i = some (op, c)) : ∃ f, ∀ s, exec i s = s.mbDo op c f := by
  cases i with
  | mbPset => cases h; exact ⟨_, fun s => exec_mbPset c s⟩
  | vset => cases h; exact ⟨_, fun s => exec_vset c s⟩
  | hset => cases h; exact ⟨_, fun s => exec_hset c s⟩
  | mbPlog => cases h; exact ⟨_, fun s => exec_mbPlog c s⟩
  | contain => cases h; exact ⟨_, fun s => exec_contain c s⟩
  | drain => cases h; exact ⟨_, fun s => exec_drain c s⟩
  | trace => cases h; exact ⟨_, fun s => exec_trace c s⟩
  | bstop => cases h; exact ⟨_, fun s => exec_bstop c s⟩
  | brest => cases h; exact ⟨_, fun s => exec_brest c s⟩
  | hover => cases h; exact ⟨_, fun s => exec_hover c s⟩
  | _ => exact nomatch h

theorem execScrubComplete_answers {s : State} {r : MbRun} {p : Nat} {v : Option Nat} {f : List (Nat × Nat)} (hr : s.mb.run = some r)
    (hw : r.wait = .scrub p v f) : execScrubComplete s = .next (s.mbResult r.seq 0 r.d1 r.d3) := by
  unfold execScrubComplete
  rw [hr]
  dsimp only
  rw [hw] <;> rfl

end Sys2Proof.Machine

namespace Sys2Proof
open Machine

/-- Settles O49: a command in progress, wrong fields and failed conditions answer at once; each admitted command leaves what its row says, and its
result is the write of four doublewords that leaves partitions, functions and registers alone. -/
theorem mailboxCommands : Obligations.MailboxCommands := by
  unfold Obligations.MailboxCommands
  refine ⟨fun i op c s hi => ?_, fun i op c s hi hr hf ho => ?_, fun r p v f s hr hw => ?_, fun seq st d1 d3 s => ?_⟩
  · obtain ⟨f, hex⟩ := exec_of_mbCode hi
    exact ⟨fun h => (hex s).trans (mbDo_running h op c f), fun hr h => (hex s).trans (mbDo_illFormed hr h f)⟩
  · intro s0 seq tgt a0 a1 a2
    refine ⟨?_, ?_, ?_, ?_, ?_, ?_, ?_, ?_, ?_, ?_, ?_, ?_, ?_, ?_, ?_, ?_, ?_, ?_⟩
    · rintro d rfl ht ha hd hz hu hc hov
      cases hi
      obtain ⟨t, he, hp⟩ := execMbPset_carried hr hf ho ht ha hd (.inl hz) hc hov (.inl hz) hu
      obtain ⟨h1, h2⟩ := setPart_deleted (s := s0) (pid := tgt) (d := d) hz
      exact ⟨t, he, by rw [hp]; exact h1, fun p h => by rw [hp]; exact h2 p h⟩
    · rintro d rfl ht ha hd hz hv hc hov hcol hu
      cases hi
      obtain ⟨t, he, hp⟩ := execMbPset_carried hr hf ho ht ha hd (.inr hv) hc hov (.inr hcol) hu
      obtain ⟨h1, h2⟩ := setPart_created (s := s0) (pid := tgt) (d := d) hz
      exact ⟨t, _, he, by rw [hp]; exact h1, rfl, fun p h => by rw [hp]; exact h2 p h⟩
    · rintro d rfl ht ha hd hv
      cases hi
      exact ⟨execMbPset_conflict hr hf ho ht ha hd hv, fun hc hov hcol => execMbPset_inUse hr hf ho ht ha hd hv hc hov hcol⟩
    · rintro d rfl ht ha hd hz hb hm
      cases hi
      exact execVset_deletes hr hf ho ht ha hd hz hb hm
    · rintro d rfl ht ha hd hz h
      cases hi
      exact execVset_busy hr hf ho ht ha hd hz h
    · intro d p hvi ht ha hd hz hv hp v hread cmap others clear held
      subst hvi
      cases hi
      exact ⟨execVset_standsInWay hr hf ho ht ha hd hz hv hp hread, execVset_held hr hf ho ht ha hd hz hv hp hread,
        execVset_makes hr hf ho ht ha hd hz hv hp hread⟩
    · rintro rfl h0 h1 h2 h3 h4 h5 h6 h7 h8
      cases hi
      exact execHset_sets hr hf ho h0 h1 h2 h3 h4 h5 h6 h7 h8
    · rintro p rfl hp h0 h1 h2
      cases hi
      exact execMbPlog_sets hr hf ho hp h0 h1 h2
    · rintro rfl hv ha
      cases hi
      exact execContain_kills hr hf ho hv ha
    · rintro rfl hv ha
      cases hi
      exact execDrain_drains hr hf ho hv ha
    · rintro rfl ht ha
      cases hi
      exact (execTrace_cases hr hf ho ht ha).1
    · rintro rfl ht ha
      cases hi
      exact (execTrace_cases hr hf ho ht ha).2
    · rintro part rfl ht hp hruns hfree hbuf
      cases hi
      exact execBstop_stops hr hf ho ht hp hruns hfree hbuf
    · rintro rfl h
      cases hi
      exact execBstop_refused hr hf ho h
    · rintro h n b rfl hb ht hfree hown hd hs
      cases hi
      exact execBrest_own hr hf ho hb ht hfree hown hd hs
    · rintro h rfl hb ht hfree hown
      cases hi
      exact ⟨execBrest_lost hr hf ho hb ht hfree hown, execBrest_foreign hr hf ho hb ht hfree hown⟩
    · rintro e rfl h
      cases hi
      exact execBrest_refused hr hf ho h
    · rintro p vo vi rfl hp hvo hvi h0 h1 h2 h3 h4 h5 h6 h7 h8 hne
      cases hi
      exact execHover_begins hr hf ho hp hvo hvi h0 h1 h2 h3 h4 h5 h6 h7 h8 hne
  · exact (exec_scrubComplete s).trans (execScrubComplete_answers hr hw)
  · obtain ⟨hp, hv, hrf, -⟩ := (s.wrote_mbResult seq st d1 d3).carved
    exact ⟨_, rfl, hrf, hp, hv, mbResult_run ..⟩

end Sys2Proof
end

section
/-!
PROOFS. Cluster freeze, bale out and in, slot handover and its resumption (R321, R322, R326, R330, R331).
-/

namespace Sys2Proof.Machine

theorem mget_map_vals {α : Type} (f : α → α) (m : Map α) (k : Nat) : mget (m.map (fun p => (p.1, f p.2))) k = (mget m k).map f := by
  have h := mget_map_snd (fun _ => True) (fun _ => f) m k
  simpa only [if_true] using h

/-! What effects leave of the stops: a signature that a stopped cluster hears changes no stop's phase (R327). -/

/-- Every stop keeps its phase. -/
structure State.Phased (s t : State) : Prop where
  phase : ∀ n, (mget t.stops n).map BaleStop.phase = (mget s.stops n).map BaleStop.phase

theorem State.Phased.of_same {s t : State} (h : t.stops = s.stops) : s.Phased t := ⟨fun n => by rw [h]⟩

theorem State.Phased.refl (s : State) : s.Phased s := .of_same rfl

theorem State.Phased.trans {s t u : State} (h : s.Phased t) (g : t.Phased u) : s.Phased u := ⟨fun n => (g.phase n).trans (h.phase n)⟩

theorem State.Phased.ite {s t u : State} {c : Prop} [Decidable c] (h : s.Phased t) (g : s.Phased u) : s.Phased (if c then t else u) := by
  split; exacts [h, g]

theorem State.Phased.foldl {β : Type} {f : State → β → State} (hf : ∀ (s : State) (b : β), s.Phased (f s b)) (l : List β) :
    ∀ s : State, s.Phased (l.foldl f s) := by
  induction l with
  | nil => exact fun s => .refl s
  | cons b l ih => exact fun s => (hf s b).trans (ih _)

theorem State.Rung.phased {s t : State} (h : s.Rung t) : s.Phased t := .of_same (by rw [h.same])

theorem State.Cohered.phased {s t : State} (h : s.Cohered t) : s.Phased t := .of_same (by rw [h.same])

theorem State.phased_clearPoison (s : State) (pa n : Nat) : s.Phased (s.clearPoison pa n) :=
  .foldl (fun s _ => by split; exacts [.of_same rfl, .refl s]) _ s

theorem State.phased_wakeWatch (src : Option Nat) (s : State) (d : Nat) : s.Phased (s.wakeWatch src d) := by
  unfold State.wakeWatch
  split
  · exact .refl s
  · exact .ite (.refl s) (.of_same rfl)

theorem State.phased_touched (s : State) (src : Option Nat) (pa n : Nat) : s.Phased (s.touched src pa n) := by
  unfold State.touched
  have h0 : s.Phased (s.dropGlobals (linesOf pa n)) := .ite (.refl s) (.of_same rfl)
  have h := h0.trans (State.Phased.of_same (t := (s.dropGlobals (linesOf pa n)).mapThreads (fun _ t => t.hitLines (linesOf pa n))) rfl)
  exact State.Phased.trans (.ite (h.trans (.foldl (fun s _ => s.phased_wakeWatch _ _) _ _)) h) (State.rung_bells _ _ _).phased

theorem State.phased_store (src : Option Nat) (s : State) (pa : Nat) (bs : List Byte) : s.Phased (State.store src s pa bs) :=
  ((State.rung_setBytes bs s pa).phased.trans (State.phased_clearPoison _ _ _)).trans (State.phased_touched _ _ _ _)

theorem State.phased_perform (src : Option Nat) (s : State) (e : Eff) : s.Phased (State.perform src s e) := by
  cases e with
  | write pa bs => exact State.phased_store src s pa bs
  | greg k v => exact .of_same rfl
  | remote pa bs => exact .of_same rfl
  | edge a bs => exact .ite (.refl s) (State.phased_store src s a bs)

theorem State.phased_backInvalidate (s : State) (items : List Nat) : s.Phased (s.backInvalidate items) := .ite (.refl s) (.of_same rfl)

/-- A stop that hears a signature. -/
def BaleStop.hears (items : List Nat) (b : BaleStop) : BaleStop := if b.phase = .stopping then b else { b with sig := (b.sig ++ items).dedup }

theorem BaleStop.phase_hears (items : List Nat) (b : BaleStop) : (b.hears items).phase = b.phase := by
  unfold BaleStop.hears
  split <;> rfl

theorem State.phased_heard (s : State) (items : List Nat) : s.Phased (s.heard items) := by
  refine .ite (.refl s) ⟨fun n => ?_⟩
  have hf : (fun (p : Nat × BaleStop) => if p.2.phase = .stopping then p else (p.1, { p.2 with sig := (p.2.sig ++ items).dedup })) =
      fun p => (p.1, p.2.hears items) := by
    funext p
    unfold BaleStop.hears
    split <;> rfl
  show (mget (s.stops.map _) n).map BaleStop.phase = _
  rw [hf, mget_map_vals, Option.map_map]
  exact congrArg (Option.map · _) (funext fun b => b.phase_hears items)

theorem State.phased_signal (s : State) (src : Option Nat) (items : List Nat) : s.Phased (s.signal src items) := by
  refine .ite (.refl s) (.trans (t := { s with sigs := s.sigs ++ [((match src with | some g => g + 1 | none => 0), items)] }) (.of_same rfl) ?_)
  exact State.phased_heard _ items

theorem State.phased_mbPoll (s : State) : s.Phased s.mbPoll := .ite (.of_same rfl) (.refl s)

/-- The part's own writes leave every stop in its phase. -/
theorem State.phased_partWrites (s : State) (effs : List Eff) : s.Phased (s.performAll none effs) := by
  unfold State.performAll
  have h1 : s.Phased (effs.foldl (State.perform none) s) := .foldl (fun s e => State.phased_perform none s e) _ s
  have h2 := h1.trans (State.Phased.foldl (f := State.cohDrop) (fun s _ => (s.cohered_cohDrop _).phased) (itemsOf effs) _)
  exact ((h2.trans (State.phased_backInvalidate _ (itemsOf effs))).trans (State.phased_signal _ none (itemsOf effs))).trans (State.phased_mbPoll _)

theorem State.phased_answerWait (s : State) (w : MbWait) (d1 d3 : Nat) : s.Phased (s.answerWait w d1 d3) := by
  unfold State.answerWait
  split
  · refine .ite ?_ (.refl s)
    exact State.Phased.trans (t := { s with mb := { s.mb with busy := false, run := none } }) (.of_same rfl) (State.phased_partWrites ..)
  · exact .refl s

theorem State.wrote_answerWait (s : State) (w : MbWait) (d1 d3 : Nat) : s.Wrote (s.answerWait w d1 d3) := by
  unfold State.answerWait
  split
  · exact .ite (State.wrote_mbResult ..) (.refl s)
  · exact .refl s

/-! The freeze (R326). -/

theorem mem_mren {α : Type} {f : Nat → Nat} {m : Map α} {p : Nat × α} (h : p ∈ mren f m) : ∃ q ∈ m, p.1 = f q.1 := by
  have key (m : Map α) : ∀ acc : Map α, p ∈ m.foldl (fun (acc : Map α) p => mput acc (f p.1) p.2) acc → p ∈ acc ∨ ∃ q ∈ m, p.1 = f q.1 := by
    induction m with
    | nil => exact fun acc h => .inl h
    | cons x m ih =>
      intro acc h
      rcases ih _ h with h | ⟨q, hq, he⟩
      · rcases mem_mput h with h | h
        · exact .inr ⟨x, .head _, by rw [h]⟩
        · exact .inl h
      · exact .inr ⟨q, .tail _ hq, he⟩
  exact (key m [] h).resolve_left (fun h => nomatch h)

theorem clusterOf_slot_ne {cl n gs : Nat} (h : cl < clusterCount) : clusterOf ((⟨cl, parked n⟩ : Ren).slot gs) ≠ cl := by
  unfold Ren.slot clusterOf parked
  dsimp only
  have : clusterCount = 384 := rfl
  split <;> omega

/-- A cluster under another number leaves no thread under its own. -/
theorem renameCluster_parks {s : State} {cl n : Nat} (h : cl < clusterCount) : ∀ p ∈ (s.renameCluster cl (parked n)).threads, clusterOf p.1 ≠ cl := by
  intro p hp
  obtain ⟨x, hx, rfl⟩ := List.mem_map.mp hp
  obtain ⟨q, -, he⟩ := mem_mren hx
  show clusterOf x.1 ≠ cl
  rw [he]
  exact clusterOf_slot_ne h

theorem stops_renameCluster (s : State) (a b n : Nat) :
    mget (s.renameCluster a b).stops n = (mget s.stops n).map (fun x => { x with sig := x.sig.map (⟨a, b⟩ : Ren).item }) :=
  mget_map_vals (fun (x : BaleStop) => { x with sig := x.sig.map (⟨a, b⟩ : Ren).item }) s.stops n

theorem State.undone_unspill (s : State) (pc : Nat) : s.Undone (s.unspill pc) := by
  unfold State.unspill
  refine .foldl (fun s gs => ?_) _ s
  split
  · exact s.undone_squash ..
  · exact .refl s

theorem State.Undone.clock {s t : State} (h : s.Undone t) : t.pkgSeq = s.pkgSeq ∧ t.cycle = s.cycle := by
  rw [h.same]
  exact ⟨rfl, rfl⟩

/-- The record of a cluster that has frozen. -/
def State.frozenStop (s : State) (cl : Nat) (b : BaleStop) : BaleStop :=
  { b with
    phase := .frozen, cseq := (s.unspill cl).pkgSeq, cyc := (s.unspill cl).cycle, vf := (s.functionsOn cl).headD 0
    multi := decide (1 < (s.functionsOn cl).length), sig := ((s.unspill cl).sigs.flatMap (·.2)).dedup }

theorem execBaleFreeze_eq {s : State} {cl n : Nat} {b : BaleStop} (h : s.stopAt cl .stopping = some (n, b)) : execBaleFreeze cl s =
    if s.threads.any (fun x => clusterOf x.1 == cl && x.2.chunks.any (fun c => c.granted)) || s.sigs.any (sigFrom cl) then .next s
    else .next (({ s.unspill cl with stops := mput (s.unspill cl).stops n (s.frozenStop cl b) } : State).renameCluster cl (parked n)) := by
  unfold execBaleFreeze
  rw [h] <;> rfl

theorem execBaleFreeze_waits {s : State} {cl n : Nat} {b : BaleStop} (h : s.stopAt cl .stopping = some (n, b))
    (hw : (∃ p ∈ s.threads, clusterOf p.1 = cl ∧ ∃ c ∈ p.2.chunks, c.granted = true) ∨ (∃ q ∈ s.sigs, sigFrom cl q = true)) :
    execBaleFreeze cl s = .next s := by
  refine (execBaleFreeze_eq h).trans (if_pos ?_)
  rw [Bool.or_eq_true, List.any_eq_true, List.any_eq_true]
  refine hw.imp (fun ⟨p, hp, hc, c, hm, hg⟩ => ⟨p, hp, ?_⟩) id
  exact (Bool.and_eq_true ..).mpr ⟨beq_iff_eq.mpr hc, List.any_eq_true.mpr ⟨c, hm, hg⟩⟩

theorem execBaleFreeze_freezes {s : State} {cl n : Nat} {b : BaleStop} (h : s.stopAt cl .stopping = some (n, b)) (hcl : cl < clusterCount)
    (hg : ∀ p ∈ s.threads, clusterOf p.1 = cl → ∀ c ∈ p.2.chunks, c.granted = false) (hs : ∀ q ∈ s.sigs, sigFrom cl q = false) :
    ∃ (t : State) (b1 : BaleStop), execBaleFreeze cl s = .next t ∧ mget t.stops n = some b1 ∧ b1.phase = .frozen ∧ b1.cseq = s.pkgSeq ∧
      b1.cyc = s.cycle ∧ b1.pc = b.pc ∧ b1.buf = b.buf ∧ (∀ p ∈ t.threads, clusterOf p.1 ≠ cl) := by
  have hn : (s.threads.any (fun x => clusterOf x.1 == cl && x.2.chunks.any (fun c => c.granted)) || s.sigs.any (sigFrom cl)) = false := by
    rw [Bool.or_eq_false_iff, any_false_iff, any_false_iff]
    refine ⟨fun p hp => ?_, hs⟩
    rw [Bool.and_eq_false_iff, any_false_iff, beq_eq_false_iff_ne]
    by_cases hc : clusterOf p.1 = cl
    · exact .inr (hg p hp hc)
    · exact .inl hc
  obtain ⟨hseq, hcyc⟩ := (s.undone_unspill cl).clock
  refine ⟨_, { s.frozenStop cl b with sig := (s.frozenStop cl b).sig.map (⟨cl, parked n⟩ : Ren).item },
    (execBaleFreeze_eq h).trans (if_neg (Bool.eq_false_iff.mp hn)), ?_, rfl, hseq, hcyc, rfl, rfl, renameCluster_parks hcl⟩
  exact (stops_renameCluster ..).trans (congrArg (Option.map _) (mget_mput_self ..))

/-! The bale in its buffer (R326, R331), and the restore (R330, R332). -/

/-- A stop whose bale has left the cluster. -/
def State.leftAs (s : State) (n : Nat) (b : BaleStop) : State := { s with stops := mput s.stops n { b with phase := .out } }

theorem execBaleStreamOutEnd_eq {s : State} {cl n : Nat} {b : BaleStop} (h : s.stopAt cl .frozen = some (n, b)) : execBaleStreamOutEnd cl s =
    match b.mig with
    | some _ => .next (s.leftAs n b)
    | none => .next (((({ s.leftAs n b with freed := cl :: (s.leftAs n b).freed } : State).performAll none
        [partEff b.buf (s.baleBytes n b)]).answerWait (.bstop cl) b.cseq.toNat 0)) := by
  unfold execBaleStreamOutEnd
  rw [h] <;> rfl

theorem execBaleStreamOutEnd_migrating {s : State} {cl n v : Nat} {b : BaleStop} (h : s.stopAt cl .frozen = some (n, b)) (hm : b.mig = some v) :
    execBaleStreamOutEnd cl s = .next (s.leftAs n b) := by
  rw [execBaleStreamOutEnd_eq h, hm] <;> rfl

/-- What a result's write leaves of stops, free clusters and registers. -/
theorem answered_keeps (s : State) (effs : List Eff) (w : MbWait) (d1 d3 n : Nat) :
    ((s.performAll none effs).answerWait w d1 d3).freed = s.freed ∧ ((s.performAll none effs).answerWait w d1 d3).rf = s.rf ∧
    (mget ((s.performAll none effs).answerWait w d1 d3).stops n).map BaleStop.phase = (mget s.stops n).map BaleStop.phase := by
  obtain ⟨-, -, hr, -, hf, -, -⟩ := ((s.wrote_performAll none effs).trans (State.wrote_answerWait _ w d1 d3)).carved
  exact ⟨hf, hr, ((s.phased_partWrites effs).trans (State.phased_answerWait _ w d1 d3)).phase n⟩

theorem answered_gone (s : State) (w : MbWait) (d1 n : Nat) : mget (({ s with stops := mdel s.stops n } : State).answerWait w d1 0).stops n = none := by
  have hp := (State.phased_answerWait { s with stops := mdel s.stops n } w d1 0).phase n
  rw [show mget ({ s with stops := mdel s.stops n } : State).stops n = none from mget_mdel_self ..] at hp
  exact Option.map_eq_none_iff.mp hp

theorem execBaleStreamOutEnd_frees {s : State} {cl n : Nat} {b : BaleStop} (h : s.stopAt cl .frozen = some (n, b)) (hm : b.mig = none) :
    ∃ (t : State) (b1 : BaleStop), execBaleStreamOutEnd cl s = .next t ∧ t.freed = cl :: s.freed ∧ mget t.stops n = some b1 ∧
      b1.phase = .out ∧ t.rf = s.rf := by
  let s1 : State := { s.leftAs n b with freed := cl :: (s.leftAs n b).freed }
  have he : execBaleStreamOutEnd cl s =
      .next ((s1.performAll none [partEff b.buf (s.baleBytes n b)]).answerWait (.bstop cl) b.cseq.toNat 0) := by
    rw [execBaleStreamOutEnd_eq h, hm] <;> rfl
  obtain ⟨hf, hr, hp⟩ := answered_keeps s1 [partEff b.buf (s.baleBytes n b)] (.bstop cl) b.cseq.toNat 0 n
  rw [show mget s1.stops n = some { b with phase := .out } from mget_mput_self ..] at hp
  obtain ⟨b1, hb1, hph⟩ := Option.map_eq_some_iff.mp hp
  exact ⟨_, b1, he, hf, hb1, hph, hr⟩

theorem execBaleStreamInEnd_ends {s : State} {cl n : Nat} {b : BaleStop}
    (h : s.stops.find? (fun x => x.2.phase == .into cl) = some (n, b)) :
    ∃ t, execBaleStreamInEnd cl s = .next t ∧ mget t.stops n = none := by
  unfold execBaleStreamInEnd
  rw [h]
  exact ⟨_, rfl, answered_gone ..⟩

/-! Handovers (R321, R322). -/

section
variable {gs : Nat} {h : Hover} {r : MbRun} {vo vi : VFunc} {s : State} (hh : s.hover = some h) (hr : s.mb.run = some r)
  (hvo : mget s.vfs h.out = some vo) (hvi : mget s.vfs h.inc = some vi) (hgs : gs ∈ h.slots) (hruns : s.runs gs = true)
include hh hr hvo hvi hgs hruns

theorem execSlotHandover_eq : execSlotHandover gs s =
    match (s.handable h gs).bind (fun s1 => (s1.saveSlot h vo gs).fillSlot h vi gs) with
    | some s2 =>
      let s3 := s2.bindSlots [coreOf gs] (BitVec.ofNat 64 (2 ^ slotOf gs)) (some h.inc)
      let left := h.slots.erase gs
      if left.isEmpty then .next ({ s3 with hover := none }.mbResult r.seq 0 (h.count + 1) 0)
      else .next { s3 with hover := some { h with slots := left, count := h.count + 1 } }
    | none => .next s := by
  have hc : ¬((!h.slots.contains gs) = true ∨ (!s.runs gs) = true) := by
    rw [List.contains_iff_mem.mpr hgs, hruns]
    decide
  unfold execSlotHandover
  rw [hh, hr]
  dsimp only
  rw [hvo, hvi]
  dsimp only
  rw [if_neg hc] <;> rfl

theorem execSlotHandover_waits (hn : s.handable h gs = none) : execSlotHandover gs s = .next s := by
  rw [execSlotHandover_eq hh hr hvo hvi hgs hruns, hn] <;> rfl

theorem execSlotHandover_done {s1 s2 : State} (h1 : s.handable h gs = some s1) (h2 : (s1.saveSlot h vo gs).fillSlot h vi gs = some s2) :
    let s3 := s2.bindSlots [coreOf gs] (BitVec.ofNat 64 (2 ^ slotOf gs)) (some h.inc)
    (h.slots.erase gs ≠ [] → execSlotHandover gs s =
      .next { s3 with hover := some { h with slots := h.slots.erase gs, count := h.count + 1 } }) ∧
    (h.slots.erase gs = [] → execSlotHandover gs s = .next ({ s3 with hover := none }.mbResult r.seq 0 (h.count + 1) 0)) := by
  intro s3
  have hb : (s.handable h gs).bind (fun s1 => (s1.saveSlot h vo gs).fillSlot h vi gs) = some s2 := by rw [h1]; exact h2
  rw [execSlotHandover_eq hh hr hvo hvi hgs hruns, hb]
  exact ⟨fun hl => if_neg (fun he => hl (List.isEmpty_iff.mp he)), fun hl => if_pos (List.isEmpty_iff.mpr hl)⟩

end

theorem execHandoverResume_grants {gs n : Nat} {s : State} (hh : (s.thread gs).hold = some (.lanes n)) (hl : (s.thread gs).live = true)
    (hr : s.runs gs = true) (hn : n ≤ s.lanesFree gs) :
    ∃ t, execHandoverResume gs s = .next t ∧
      Spec.OnlyThread s t gs { s.thread gs with hold := none, a := { (s.thread gs).a with grant := n } } := by
  refine ⟨_, ?_, onlyThread_setThread s gs _⟩
  unfold execHandoverResume
  dsimp only
  rw [hh]
  exact if_pos ⟨hl, hr, hn⟩

end Sys2Proof.Machine

namespace Sys2Proof
open Machine

/-- Settles O50: the freeze waits for grants and signatures on their way and then parks the cluster under another number; the ends of the
streams move the stop's phase, which no write changes; a slot is handed over as its point is reached; a returned thread gets its lanes. -/
theorem baleAndHandoverEvents : Obligations.BaleAndHandoverEvents := by
  unfold Obligations.BaleAndHandoverEvents
  refine ⟨fun cl n b s h hcl => ⟨fun hw => ?_, fun hg hs => ?_⟩, fun cl n b s h => ⟨fun v hm => ?_, fun hm => ?_⟩, fun cl n b s h => ?_,
    fun gs h r vo vi s hh hr hvo hvi hgs hruns => ⟨fun hn => ?_, fun s1 s2 h1 h2 => ?_⟩, fun gs n s hh hl hr hn => ?_⟩
  · exact (exec_baleFreeze cl s).trans (execBaleFreeze_waits h hw)
  · exact execBaleFreeze_freezes h hcl hg hs
  · exact (exec_baleStreamOutEnd cl s).trans (execBaleStreamOutEnd_migrating h hm)
  · exact execBaleStreamOutEnd_frees h hm
  · exact execBaleStreamInEnd_ends h
  · exact (exec_slotHandover gs s).trans (execSlotHandover_waits hh hr hvo hvi hgs hruns hn)
  · exact execSlotHandover_done hh hr hvo hvi hgs hruns h1 h2
  · exact execHandoverResume_grants hh hl hr hn

end Sys2Proof
end

section
/-!
PROOFS. The requests of a migration block and the states they lead to (R375 to R380, Tables 22.1 to 22.3).
-/

namespace Sys2Proof.Machine

/-! Where a function's migration stands: its record, its function, and the register file beside them. -/

/-- The migration of a function stands at a record, with the function and the register file as given. -/
structure State.MigAt (t : State) (vf : Nat) (m : Mig) (v : VFunc) (rf : Map Word) : Prop where
  mig : t.mig vf = m
  fn : mget t.vfs vf = some v
  rf : t.rf = rf

theorem migAt_refl {s : State} {vf : Nat} {v : VFunc} (h : mget s.vfs vf = some v) : s.MigAt vf (s.mig vf) v s.rf := ⟨rfl, h, rfl⟩

theorem State.MigAt.of_same {s t : State} {vf : Nat} {m : Mig} {v : VFunc} {rf : Map Word} (h : s.MigAt vf m v rf) (hm : t.migs = s.migs)
    (hv : t.vfs = s.vfs) (hr : t.rf = s.rf) : t.MigAt vf m v rf :=
  ⟨(congrArg (mgetD · vf Mig.idle) hm).trans h.mig, (congrArg (mget · vf) hv).trans h.fn, hr.trans h.rf⟩

theorem State.Wrote.migAt {s t : State} {vf : Nat} {m : Mig} {v : VFunc} {rf : Map Word} (w : s.Wrote t) (h : s.MigAt vf m v rf) :
    t.MigAt vf m v rf := by
  have hs : t.migs = s.migs ∧ t.vfs = s.vfs ∧ t.rf = s.rf := by rw [w.same]; exact ⟨rfl, rfl, rfl⟩
  exact h.of_same hs.1 hs.2.1 hs.2.2

section
variable {s : State} {vf : Nat} {m : Mig} {v : VFunc} {rf : Map Word} (h : s.MigAt vf m v rf)
include h

theorem State.MigAt.modMig (f : Mig → Mig) : (s.modMig vf f).MigAt vf (f m) v rf := by
  refine ⟨?_, h.fn, h.rf⟩
  have : (s.modMig vf f).mig vf = f (s.mig vf) := by
    unfold State.modMig State.mig mgetD
    rw [mget_mput_self]
    rfl
  rw [this, h.mig]

theorem State.MigAt.showMig : (s.showMig vf).MigAt vf m v rf := (s.wrote_showMig vf).migAt h

theorem State.MigAt.statMig (code : Nat) : (s.statMig vf code).MigAt vf { m with stat := code } v rf :=
  (h.modMig (fun m => { m with stat := code })).showMig

theorem State.MigAt.setMState (n : Nat) : (s.setMState vf n).MigAt vf m { v with mstate := n } rf := by
  unfold State.setMState
  rw [h.fn]
  exact ⟨h.mig, mget_mput_self .., h.rf⟩

theorem State.MigAt.readReq : (s.readReq vf).MigAt vf { m with last := false, stat := 0 } v rf := h.modMig _

theorem State.MigAt.takeForm : (s.takeForm vf).MigAt vf { m with form := s.reqForm vf } v rf := h.modMig _

theorem State.MigAt.failHeldPulls : (s.failHeldPulls vf).MigAt vf { m with heldPulls := [] } v rf := by
  unfold State.failHeldPulls
  exact (h.of_same (t := { s with outbox := s.outbox ++ (s.mig vf).heldPulls.map (fun p => Out.pullFail (s.otherPart vf).1 (s.otherPart vf).2 p) })
    rfl rfl rfl).modMig _

theorem State.MigAt.releaseHeld : (s.releaseHeld vf).MigAt vf { m with heldAccesses := [] } v rf := by
  unfold State.releaseHeld
  exact (h.of_same (t := { s with agenda := (s.mig vf).heldAccesses.map (fun a => Act.peerAccess a) ++ s.agenda }) rfl rfl rfl).modMig _

/-- Writing the next step changes no more of the record than the steps and what is still to come. -/
theorem State.MigAt.pumpMig : ∃ m', (s.pumpMig vf).MigAt vf m' v rf ∧ m' = { m with stream := m'.stream, steps := m'.steps, last := m'.last } ∧
    (¬m.mack < m.steps → m.stream ≠ [] → m'.steps = m.steps + 1) := by
  unfold State.pumpMig
  rw [h.fn]
  dsimp only
  rw [h.mig]
  by_cases hc : m.mack < m.steps ∨ m.stream.isEmpty = true
  · rw [if_pos hc]
    exact ⟨m, h, rfl, fun h1 h2 => absurd hc (not_or.mpr ⟨h1, fun he => h2 (List.isEmpty_iff.mp he)⟩)⟩
  · rw [if_neg hc]
    exact ⟨_, ((State.wrote_performAll ..).migAt (h.modMig _)).showMig, rfl, fun _ _ => rfl⟩

end

theorem State.placeRecord_keeps (s : State) (gs : Nat) (t : Thread) (r : List Word) :
    (s.placeRecord gs t r).migs = s.migs ∧ (s.placeRecord gs t r).vfs = s.vfs := by
  unfold State.placeRecord
  obtain ⟨rf, h⟩ := (s.setThread gs t).setWindowOf_shape gs (0 :: (r.drop 473).take (t.winLim - 1))
  rw [h]
  exact ⟨rfl, rfl⟩

/-- A thread's restart from its record leaves migrations and functions. -/
theorem State.restartThreads_keeps (s : State) (vf : Nat) : (s.restartThreads vf).migs = s.migs ∧ (s.restartThreads vf).vfs = s.vfs := by
  unfold State.restartThreads
  have key (l : List Nat) : ∀ s : State, (l.foldl (fun (s : State) gs =>
      s.placeRecord gs (s.recordThread (s.thread gs) (some vf) (s.thread gs).winBase (s.threadRecord gs)).rearmed (s.threadRecord gs)) s).migs = s.migs ∧
      (l.foldl (fun (s : State) gs =>
      s.placeRecord gs (s.recordThread (s.thread gs) (some vf) (s.thread gs).winBase (s.threadRecord gs)).rearmed (s.threadRecord gs)) s).vfs = s.vfs := by
    induction l with
    | nil => exact fun s => ⟨rfl, rfl⟩
    | cons g l ih =>
      intro s
      obtain ⟨h1, h2⟩ := ih (s.placeRecord g (s.recordThread (s.thread g) (some vf) (s.thread g).winBase (s.threadRecord g)).rearmed (s.threadRecord g))
      obtain ⟨p1, p2⟩ := s.placeRecord_keeps g (s.recordThread (s.thread g) (some vf) (s.thread g).winBase (s.threadRecord g)).rearmed (s.threadRecord g)
      exact ⟨h1.trans p1, h2.trans p2⟩
  exact key _ s

/-! Notices of a function, and a page that is given up. -/

/-- The same function with more event records written: its descriptor and its migration state stay. -/
def VFunc.Notes (v w : VFunc) : Prop := w.mstate = v.mstate ∧ w.desc = v.desc

theorem writeEvent_keeps (s : State) (vf : Nat) (v : VFunc) (ipa : Nat) (bs : List Byte) :
    (s.writeEvent vf v ipa bs).vfs = s.vfs ∧ (s.writeEvent vf v ipa bs).rf = s.rf := by
  unfold State.writeEvent
  split
  · show (s.askPull vf (ipa / 65536)).vfs = s.vfs ∧ (s.askPull vf (ipa / 65536)).rf = s.rf
    unfold State.askPull
    dsimp only
    split
    exacts [⟨rfl, rfl⟩, ⟨rfl, rfl⟩]
  · obtain ⟨-, hv, hr, -⟩ := (s.wrote_performAll none [.write (v.pa ipa) bs]).carved
    exact ⟨hv, hr⟩

theorem raise_keeps (s : State) (gs level code : Nat) : (s.raise gs level code).vfs = s.vfs ∧ (s.raise gs level code).rf = s.rf := by
  unfold State.raise
  dsimp only
  split
  exacts [⟨rfl, rfl⟩, ⟨rfl, rfl⟩]

theorem postKernel_keeps {s : State} {vf : Nat} {v : VFunc} (h : mget s.vfs vf = some v) (type place : Nat) (body : List Word) :
    ∃ w, mget (s.postKernel vf type place body).vfs vf = some w ∧ v.Notes w ∧ (s.postKernel vf type place body).rf = s.rf := by
  unfold State.postKernel
  rw [h]
  dsimp only
  split
  · exact ⟨v, h, ⟨rfl, rfl⟩, rfl⟩
  · obtain ⟨hv, hr⟩ := writeEvent_keeps { s with vfs := mput s.vfs vf { v with serial := v.serial + 1 } } vf v
      (v.evr + 64 * ((v.serial - 1) % 2 ^ v.elog)) (eventRecord s type v.part vf v.serial place body)
    refine ⟨{ v with serial := v.serial + 1 }, ?_, ⟨rfl, rfl⟩, ?_⟩
    · split
      · rw [(raise_keeps ..).1, hv]; exact mget_mput_self ..
      · rw [hv]; exact mget_mput_self ..
    · split
      · rw [(raise_keeps ..).2, hr]
      · rw [hr]

theorem State.hits_postKernel (s : State) (vf type place : Nat) (body : List Word) : s.Hits (s.postKernel vf type place body) := by
  have hw (z : State) (v : VFunc) (ipa : Nat) (bs : List Byte) : z.Hits (z.writeEvent vf v ipa bs) := by
    unfold State.writeEvent
    refine .ite ?_ (z.hits_performAll _ _)
    have ha : z.Hits (z.askPull vf (ipa / 65536)) := .ite (.refl z) (.of_same rfl rfl)
    exact ha.trans (.of_same rfl rfl)
  unfold State.postKernel
  cases mget s.vfs vf with
  | none => exact .refl s
  | some v =>
    refine .ite (.refl s) ?_
    have h1 := State.Hits.trans (s := s) (t := { s with vfs := mput s.vfs vf { v with serial := v.serial + 1 } }) (.of_same rfl rfl)
      (hw _ v (v.evr + 64 * ((v.serial - 1) % 2 ^ v.elog)) (eventRecord s type v.part vf v.serial place body))
    dsimp only
    split
    · exact h1.trans (State.hits_raise ..)
    · exact h1

theorem setHolder_carved (s : State) (die h vf : Nat) : (s.setHolder die h vf).vfs = s.vfs ∧ (s.setHolder die h vf).rf = s.rf := by
  refine ⟨?_, (s.setHolder_sets die h vf).2⟩
  unfold State.setHolder
  dsimp only
  split
  · rw [(State.wrote_performAll ..).carved.2.1]
  · rfl

theorem State.hits_setHolder (s : State) (die h vf : Nat) : s.Hits (s.setHolder die h vf) := by
  unfold State.setHolder
  have h1 : s.Hits { s with traceHold := s.traceHold.set die h, traceAt := s.traceAt.set die s.cycle } := .of_same rfl rfl
  dsimp only
  split
  · exact h1.trans (State.hits_performAll ..)
  · exact h1

/-- The end of a function's tracing leaves its function but for its event records, and every thread but for its interrupts. -/
theorem endTrace_keeps (vf : Nat) (l : List Nat) : ∀ {s : State} {v : VFunc}, mget s.vfs vf = some v →
    ∃ w, mget (l.foldl (fun (s : State) d => if s.traceHold.getD d 511 = vf then (s.setHolder d 511 vf).traceNotice vf d true else s) s).vfs vf =
      some w ∧ v.Notes w ∧
      (l.foldl (fun (s : State) d => if s.traceHold.getD d 511 = vf then (s.setHolder d 511 vf).traceNotice vf d true else s) s).rf = s.rf ∧
      s.Hits (l.foldl (fun (s : State) d => if s.traceHold.getD d 511 = vf then (s.setHolder d 511 vf).traceNotice vf d true else s) s) := by
  induction l with
  | nil => exact fun h => ⟨_, h, ⟨rfl, rfl⟩, rfl, .refl _⟩
  | cons d l ih =>
    intro s v h
    rw [List.foldl_cons]
    by_cases hd : s.traceHold.getD d 511 = vf
    · rw [if_pos hd]
      obtain ⟨hv, hr⟩ := setHolder_carved s d 511 vf
      have h1 : mget (s.setHolder d 511 vf).vfs vf = some v := (congrArg (mget · vf) hv).trans h
      obtain ⟨w1, hw1, n1, r1⟩ := postKernel_keeps h1 7 0 [BitVec.ofNat 64 (d + true.toNat * 2 ^ 8)]
      obtain ⟨w, hw, n, r, hh⟩ := ih hw1
      exact ⟨w, hw, ⟨n.1.trans n1.1, n.2.trans n1.2⟩, r.trans (r1.trans hr),
        ((s.hits_setHolder d 511 vf).trans (State.hits_postKernel ..)).trans hh⟩
    · rw [if_neg hd]
      exact ih h

/-- The slot's thread is to stop for a migration. -/
def State.tellMigrate (s : State) (gs : Nat) : State := s.setThread gs ((s.thread gs).stopsFor .migrate)

theorem tellMigrate_keeps (l : List Nat) : ∀ s : State, ∃ m, l.foldl State.tellMigrate s = { s with threads := m } := by
  induction l with
  | nil => exact fun s => ⟨_, rfl⟩
  | cons g l ih =>
    intro s
    obtain ⟨m, hm⟩ := ih (s.tellMigrate g)
    exact ⟨m, by rw [List.foldl_cons, hm]; rfl⟩

theorem tellMigrate_told (gs : Nat) (l : List Nat) : ∀ s : State, gs ∈ l ∨ (s.thread gs).stopFor = some .migrate →
    ((l.foldl State.tellMigrate s).thread gs).stopFor = some .migrate := by
  induction l with
  | nil => exact fun s h => h.elim (fun h => nomatch h) id
  | cons g l ih =>
    intro s h
    refine ih _ ?_
    by_cases he : gs = g
    · subst he
      exact .inr (by rw [State.tellMigrate, State.thread_setThread_self]; rfl)
    · refine h.imp (fun h => (List.mem_cons.mp h).resolve_left he) fun h => ?_
      rw [State.tellMigrate, State.thread_setThread_ne _ _ he]
      exact h

theorem mem_slotsOf {s : State} {vf gs : Nat} (hl : (s.thread gs).live = true) (hv : (s.thread gs).vf = some vf) : gs ∈ s.slotsOf vf := by
  cases hm : mget s.threads gs with
  | none =>
    have : s.thread gs = Thread.idle := by rw [State.thread, mgetD, hm]; rfl
    rw [this] at hl
    exact nomatch hl
  | some t =>
    have ht : s.thread gs = t := by rw [State.thread, mgetD, hm]; rfl
    rw [ht] at hl hv
    exact List.mem_map.mpr ⟨(gs, t), List.mem_filter.mpr ⟨mem_of_mget hm, (Bool.and_eq_true ..).mpr ⟨hl, beq_iff_eq.mpr hv⟩⟩, rfl⟩

/-- A page given up takes its records with it; nothing else of the migration changes. -/
theorem State.MigAt.givePage {s : State} {vf : Nat} {m : Mig} {v w : VFunc} {rf : Map Word} (h : s.MigAt vf m v rf) (page : Nat) :
    ∃ m', (s.givePage vf page w).MigAt vf m' v rf ∧ m' = { m with given := m'.given, own := m'.own } := by
  unfold State.givePage
  dsimp only
  by_cases h1 : (s.mig vf).given.contains page = true
  · rw [if_pos h1]
    exact ⟨m, h, rfl⟩
  · rw [if_neg h1]
    by_cases h2 : w.pages ≤ page
    · rw [if_pos h2]
      exact ⟨m, h.of_same rfl rfl rfl, rfl⟩
    · rw [if_neg h2]
      have hsame (f : Nat → Bool) (items : List Nat) (out : List Out) :
          ({ (s.dropCopies f).backInvalidate items with outbox := out } : State).MigAt vf m v rf := by
        have hw : s.Wrote (s.dropCopies f) := .foldl (fun s l => s.wrote_cohDrop l) _ s
        exact ((hw.trans (State.wrote_backInvalidate _ items)).migAt h).of_same rfl rfl rfl
      exact ⟨_, ((hsame _ _ _).modMig _).showMig, rfl⟩

/-- Pages given up one after another. -/
theorem State.MigAt.givePages {vf : Nat} {w u : VFunc} {rf : Map Word} (l : List Nat) : ∀ {s : State} {m : Mig}, s.MigAt vf m u rf →
    ∃ m', (l.foldl (fun (s : State) p => s.givePage vf p w) s).MigAt vf m' u rf ∧ m' = { m with given := m'.given, own := m'.own } := by
  induction l with
  | nil => exact fun h => ⟨_, h, rfl⟩
  | cons p l ih =>
    intro s m h
    obtain ⟨m1, h1, e1⟩ := h.givePage (w := w) p
    obtain ⟨m2, h2, e2⟩ := ih h1
    exact ⟨m2, h2, by rw [e2, e1]⟩

theorem State.hits_showMig (s : State) (vf : Nat) : s.Hits (s.showMig vf) := by
  unfold State.showMig
  exact s.hits_performAll none _

theorem State.hits_pumpMig (s : State) (vf : Nat) : s.Hits (s.pumpMig vf) := by
  have hm (f : Mig → Mig) : s.Hits (s.modMig vf f) := .of_same rfl rfl
  unfold State.pumpMig
  cases mget s.vfs vf with
  | none => exact .refl s
  | some v => exact .ite (.refl s) (((hm _).trans (State.hits_performAll ..)).trans (State.hits_showMig ..))

/-! Requests that Table 22.3 refuses, and those it takes (R375). -/

section
variable {vf : Nat} {v : VFunc} {s : State} (hv : mget s.vfs vf = some v)
include hv

/-- A request that is not admitted changes nothing but STAT. -/
theorem refused_leaves {t : State} (h : t = (s.readReq vf).statMig vf 2) : mget t.vfs vf = some v ∧ (t.mig vf).stat = 2 ∧ t.rf = s.rf := by
  obtain ⟨hm, hf, hr⟩ := (migAt_refl hv).readReq.statMig 2
  subst h
  exact ⟨hf, congrArg Mig.stat hm, hr⟩

theorem execPrecopy_eq : execPrecopy vf s =
    if (!s.mpeer vf) = true ∨ v.mstate ≠ 0 then .next ((s.readReq vf).statMig vf 2)
    else .next ((((((s.readReq vf).takeForm vf).modMig vf (fun m => { m.restart with stream := sectionWords 1 (s.configWords vf v) })).setMState
      vf 1).showMig vf).pumpMig vf) := by
  unfold execPrecopy
  rw [hv] <;> rfl

theorem execPrecopy_admitted (hp : s.mpeer vf = true) (h0 : v.mstate = 0) :
    ∃ t, execPrecopy vf s = .next t ∧ mget t.vfs vf = some { v with mstate := 1 } ∧ (t.mig vf).heldAccesses = (s.mig vf).heldAccesses ∧
      (t.mig vf).steps = 1 ∧ (t.mig vf).stat = 0 ∧ t.rf = s.rf := by
  have hno : ¬((!s.mpeer vf) = true ∨ v.mstate ≠ 0) := by
    rw [hp, h0]
    decide
  obtain ⟨m', ⟨hm, hf, hr⟩, he, hs⟩ := ((((migAt_refl hv).readReq.takeForm.modMig
    (fun m => { m.restart with stream := sectionWords 1 (s.configWords vf v) })).setMState 1).showMig).pumpMig
  refine ⟨_, (execPrecopy_eq hv).trans (if_neg hno), hf, ?_, ?_, ?_, hr⟩
  · rw [hm, he]; rfl
  · rw [hm]; exact hs (Nat.lt_irrefl 0) (List.cons_ne_nil _ _)
  · rw [hm, he]; rfl

theorem execPrecopy_refused (h : s.mpeer vf = false ∨ v.mstate ≠ 0) :
    ∃ t, execPrecopy vf s = .next t ∧ mget t.vfs vf = some v ∧ (t.mig vf).stat = 2 ∧ t.rf = s.rf :=
  ⟨_, (execPrecopy_eq hv).trans (if_pos (h.imp (fun h => by rw [h]; rfl) id)), refused_leaves hv rfl⟩

/-! ABORT, RESUMING and the window's MACK. -/

theorem execAbort_eq : execAbort vf s =
    if bits (s.dwordAt (s.migBase vf)) 2 0 ≠ 3 ∨ (!s.mpeer vf) = true then .next ((s.readReq vf).statMig vf 2)
    else if v.mstate = 1 ∨ (v.mstate = 4 ∧ (!(s.mig vf).ended) = true) then
      .next ((((((s.readReq vf).failHeldPulls vf).releaseHeld vf).modMig vf Mig.restart).setMState vf 0).showMig vf)
    else if v.mstate = 3 ∧ (!(s.mig vf).started) = true then
      .next (((((((((s.readReq vf).unstop vf).restartThreads vf).failHeldPulls vf).releaseHeld vf).modMig vf Mig.restart).setMState vf 0).showMig vf))
    else .next ((s.readReq vf).statMig vf 2) := by
  unfold execAbort
  rw [hv] <;> rfl

theorem execAbort_admitted (hp : s.mpeer vf = true) (hq : bits (s.dwordAt (s.migBase vf)) 2 0 = 3)
    (h : v.mstate = 1 ∨ (v.mstate = 4 ∧ (s.mig vf).ended = false)) :
    ∃ t, execAbort vf s = .next t ∧ mget t.vfs vf = some { v with mstate := 0 } ∧ (t.mig vf).steps = 0 ∧ t.rf = s.rf := by
  have hno : ¬(bits (s.dwordAt (s.migBase vf)) 2 0 ≠ 3 ∨ (!s.mpeer vf) = true) := by
    rw [hp, hq]
    decide
  obtain ⟨hm, hf, hr⟩ := ((((migAt_refl hv).readReq.failHeldPulls.releaseHeld.modMig Mig.restart).setMState 0).showMig)
  refine ⟨_, (execAbort_eq hv).trans ((if_neg hno).trans (if_pos (h.imp id fun h => ⟨h.1, by rw [h.2]; rfl⟩))), hf, ?_, hr⟩
  rw [hm]
  rfl

theorem execAbort_stopped (hp : s.mpeer vf = true) (hq : bits (s.dwordAt (s.migBase vf)) 2 0 = 3) (h3 : v.mstate = 3)
    (hst : (s.mig vf).started = false) (hno : ∀ x ∈ s.stops, x.2.mig ≠ some vf) :
    ∃ t, execAbort vf s = .next t ∧ mget t.vfs vf = some { v with mstate := 0 } ∧ (t.mig vf).steps = 0 ∧ (t.mig vf).heldPulls = [] := by
  have hno0 : ¬(bits (s.dwordAt (s.migBase vf)) 2 0 ≠ 3 ∨ (!s.mpeer vf) = true) := by
    rw [hp, hq]
    decide
  have hno1 : ¬(v.mstate = 1 ∨ (v.mstate = 4 ∧ (!(s.mig vf).ended) = true)) := by omega
  have hu : (s.readReq vf).unstop vf = s.readReq vf := by
    unfold State.unstop
    have : (s.readReq vf).stops.filter (fun (x : Nat × BaleStop) => x.2.mig == some vf) = [] :=
      List.filter_eq_nil_iff.mpr fun x hx he => hno x hx (beq_iff_eq.mp he)
    rw [this]
    rfl
  obtain ⟨km, kv⟩ := (s.readReq vf).restartThreads_keeps vf
  have h0 := (migAt_refl hv).readReq
  have h1 : ((s.readReq vf).restartThreads vf).MigAt vf { s.mig vf with last := false, stat := 0 } v ((s.readReq vf).restartThreads vf).rf :=
    ⟨(congrArg (mgetD · vf Mig.idle) km).trans h0.mig, (congrArg (mget · vf) kv).trans h0.fn, rfl⟩
  obtain ⟨hm, hf, -⟩ := ((h1.failHeldPulls.releaseHeld.modMig Mig.restart).setMState 0).showMig
  refine ⟨_, (execAbort_eq hv).trans ((if_neg hno0).trans ((if_neg hno1).trans (if_pos ⟨h3, by rw [hst]; rfl⟩))), ?_, ?_, ?_⟩
  · rw [hu]; exact hf
  · rw [hu, hm]; rfl
  · rw [hu, hm]; rfl

theorem execAbort_refused (h : s.mpeer vf = false ∨ bits (s.dwordAt (s.migBase vf)) 2 0 ≠ 3 ∨ v.mstate = 0 ∨ v.mstate = 2 ∨ 4 < v.mstate ∨
      (v.mstate = 3 ∧ (s.mig vf).started = true) ∨ (v.mstate = 4 ∧ (s.mig vf).ended = true)) :
    ∃ t, execAbort vf s = .next t ∧ mget t.vfs vf = some v ∧ (t.mig vf).stat = 2 ∧ t.rf = s.rf := by
  refine ⟨_, ?_, refused_leaves hv rfl⟩
  rw [execAbort_eq hv]
  by_cases h0 : bits (s.dwordAt (s.migBase vf)) 2 0 ≠ 3 ∨ (!s.mpeer vf) = true
  · exact if_pos h0
  · obtain ⟨hq, hp⟩ := not_or.mp h0
    replace hp : s.mpeer vf = true := by simpa using hp
    have hs : v.mstate = 0 ∨ v.mstate = 2 ∨ 4 < v.mstate ∨ (v.mstate = 3 ∧ (s.mig vf).started = true) ∨ (v.mstate = 4 ∧ (s.mig vf).ended = true) := by
      rcases h with h | h | h
      · exact Bool.noConfusion (h.symm.trans hp)
      · exact absurd h hq
      · exact h
    rw [if_neg h0]
    refine (if_neg ?_).trans (if_neg ?_)
    · rintro (h1 | ⟨h4, he⟩)
      · omega
      · rcases hs with hs | hs | hs | hs | hs
        · omega
        · omega
        · omega
        · omega
        · rw [hs.2] at he
          exact Bool.noConfusion he
    · rintro ⟨h3, hst⟩
      rcases hs with hs | hs | hs | hs | hs
      · omega
      · omega
      · omega
      · rw [hs.2] at hst
        exact Bool.noConfusion hst
      · omega

theorem execResuming_eq : execResuming vf s =
    if s.mpeer vf = true ∧ v.mstate = 0 ∧ (!s.fnBusy vf) = true ∧ (s.absentPages v).length = v.pages then
      let s2 := (s.readReq vf).modMig vf (fun m =>
        { Mig.idle with form := s.reqForm vf, heldAccesses := m.heldAccesses, pullall := bit (s.dwordAt (s.migBase vf + 0x10)) 0 })
      .next ({ s2 with vfs := mput s2.vfs vf { v with mstate := 4, linkLost := !s.peerUp (s.otherPart vf).1 } }.showMig vf)
    else .next ((s.readReq vf).statMig vf 2) := by
  unfold execResuming
  rw [hv] <;> rfl

theorem execResuming_admitted (hp : s.mpeer vf = true) (h0 : v.mstate = 0) (hb : s.fnBusy vf = false)
    (ha : (s.absentPages v).length = v.pages) :
    ∃ t, execResuming vf s = .next t ∧ mget t.vfs vf = some { v with mstate := 4, linkLost := !s.peerUp (s.otherPart vf).1 } ∧
      (t.mig vf).steps = 0 ∧ (t.mig vf).heldAccesses = (s.mig vf).heldAccesses ∧
      (t.mig vf).pullall = (s.dwordAt (s.migBase vf + 0x10)).getLsbD 0 ∧ (t.mig vf).ended = false ∧ t.rf = s.rf := by
  obtain ⟨hm, hf, hr⟩ := (migAt_refl hv).readReq.modMig (fun m =>
    { Mig.idle with form := s.reqForm vf, heldAccesses := m.heldAccesses, pullall := bit (s.dwordAt (s.migBase vf + 0x10)) 0 })
  have h1 := State.MigAt.showMig (s := { (s.readReq vf).modMig vf (fun m =>
      { Mig.idle with form := s.reqForm vf, heldAccesses := m.heldAccesses, pullall := bit (s.dwordAt (s.migBase vf + 0x10)) 0 }) with
    vfs := mput ((s.readReq vf).modMig vf (fun m =>
      { Mig.idle with form := s.reqForm vf, heldAccesses := m.heldAccesses, pullall := bit (s.dwordAt (s.migBase vf + 0x10)) 0 })).vfs vf
      { v with mstate := 4, linkLost := !s.peerUp (s.otherPart vf).1 } }) ⟨hm, mget_mput_self .., hr⟩
  obtain ⟨tm, tf, tr⟩ := h1
  refine ⟨_, (execResuming_eq hv).trans (if_pos ⟨hp, h0, by rw [hb]; rfl, ha⟩), tf, ?_, ?_, ?_, ?_, tr⟩
  · rw [tm]; rfl
  · rw [tm]
  · rw [tm]; exact bit_eq_getLsbD ..
  · rw [tm]; rfl

theorem execResuming_refused (h : s.mpeer vf = false ∨ v.mstate ≠ 0) :
    ∃ t, execResuming vf s = .next t ∧ mget t.vfs vf = some v ∧ (t.mig vf).stat = 2 ∧ t.rf = s.rf := by
  refine ⟨_, (execResuming_eq hv).trans (if_neg ?_), refused_leaves hv rfl⟩
  rintro ⟨hp, h0, -⟩
  exact h.elim (fun h => Bool.noConfusion (h.symm.trans hp)) (fun h => h h0)

theorem execMackRelease_eq : execMackRelease vf s =
    if v.mstate ≠ 4 ∧ s.dwordAt (s.migBase vf + 0x100) = BitVec.ofNat 64 (s.mig vf).steps then
      .next ((s.modMig vf (fun m => { m with mack := m.steps })).pumpMig vf)
    else .next s := by
  unfold execMackRelease
  rw [hv] <;> rfl

theorem execMackRelease_releases (h4 : v.mstate ≠ 4) (hd : s.dwordAt (s.migBase vf + 0x100) = BitVec.ofNat 64 (s.mig vf).steps) :
    ∃ t, execMackRelease vf s = .next t ∧ (t.mig vf).mack = (s.mig vf).steps ∧ t.rf = s.rf := by
  obtain ⟨m', ⟨hm, -, hr⟩, he, -⟩ := ((migAt_refl hv).modMig (fun m => { m with mack := m.steps })).pumpMig
  refine ⟨_, (execMackRelease_eq hv).trans (if_pos ⟨h4, hd⟩), ?_, hr⟩
  rw [hm, he]

theorem execMackRelease_ignored (hd : s.dwordAt (s.migBase vf + 0x100) ≠ BitVec.ofNat 64 (s.mig vf).steps) : execMackRelease vf s = .next s :=
  (execMackRelease_eq hv).trans (if_neg fun h => hd h.2)

/-- What a submitted step comes to, once its checks have answered. -/
def State.submitted (s : State) (vf : Nat) (v : VFunc) : Except Nat StepIn → Outcome
  | .error code => .next (s.statMig vf code)
  | .ok x =>
    let s1 := s.modMig vf (fun m =>
      { m with stream := x.stream, steps := m.steps + 1, formBad := m.formBad || x.formBad, stat := if x.formBad then 1 else m.stat })
    if x.fin then
      match s.checkIntake vf v x.secs with
      | .error code => .next (s.statMig vf code)
      | .ok y => .next ((((s1.takeIn vf v y x.secs).showMig vf).pumpPulls vf).settleDone vf)
    else .next (s1.showMig vf)

theorem execMackSubmit_eq : execMackSubmit vf s =
    if v.mstate ≠ 4 ∨ s.dwordAt (s.migBase vf + 0x100) ≠ BitVec.ofNat 64 ((s.mig vf).steps + 1) then .next s
    else s.submitted vf v (s.checkStep vf v) := by
  unfold execMackSubmit
  rw [hv]
  refine ite_congr rfl (fun _ => rfl) (fun _ => ?_)
  generalize s.checkStep vf v = r
  cases r with
  | error code => rfl
  | ok x =>
    refine ite_congr rfl (fun _ => ?_) (fun _ => rfl)
    generalize s.checkIntake vf v x.secs = y
    cases y with
    | error code => rfl
    | ok i => rfl

theorem execMackSubmit_wrong (h4 : v.mstate = 4) (hd : s.dwordAt (s.migBase vf + 0x100) = BitVec.ofNat 64 ((s.mig vf).steps + 1)) {code : Nat}
    (hc : s.checkStep vf v = .error code) :
    ∃ t, execMackSubmit vf s = .next t ∧ (t.mig vf).stat = code ∧ (t.mig vf).steps = (s.mig vf).steps ∧ (t.mig vf).stream = (s.mig vf).stream ∧
      t.rf = s.rf := by
  obtain ⟨hm, -, hr⟩ := (migAt_refl hv).statMig code
  refine ⟨_, ?_, ?_, ?_, ?_, hr⟩
  · rw [execMackSubmit_eq hv, hc]
    exact if_neg (fun h => h.elim (fun h => h h4) (fun h => h hd))
  all_goals rw [hm]

theorem execMackSubmit_taken (h4 : v.mstate = 4) (hd : s.dwordAt (s.migBase vf + 0x100) = BitVec.ofNat 64 ((s.mig vf).steps + 1)) {x : StepIn}
    (hc : s.checkStep vf v = .ok x) (hx : x.fin = false) :
    ∃ t, execMackSubmit vf s = .next t ∧ (t.mig vf).steps = (s.mig vf).steps + 1 ∧ (t.mig vf).stream = x.stream ∧ t.rf = s.rf := by
  obtain ⟨hm, -, hr⟩ := ((migAt_refl hv).modMig (fun m =>
    { m with stream := x.stream, steps := m.steps + 1, formBad := m.formBad || x.formBad, stat := if x.formBad then 1 else m.stat })).showMig
  refine ⟨_, ?_, ?_, ?_, hr⟩
  · rw [execMackSubmit_eq hv, hc]
    exact (if_neg (fun h => h.elim (fun h => h h4) (fun h => h hd))).trans (if_neg (Bool.eq_false_iff.mp hx))
  all_goals rw [hm]

/-! STOPPING, and the step that makes a stopped function's state its stream. -/

/-- What STOPPING comes to where the request is admitted. -/
def State.beginStopping (s : State) (vf : Nat) (v : VFunc) : State :=
  ((s.slotsOf vf).foldl State.tellMigrate ((if v.mstate = 1 then (s.readReq vf).takeForm vf
    else ((s.readReq vf).takeForm vf).modMig vf (fun m => { m.restart with stream := sectionWords 1 (s.configWords vf v) })).setMState vf 2))

theorem execStopping_eq : execStopping vf s =
    if (!s.mpeer vf) = true ∨ (v.mstate ≠ 0 ∧ v.mstate ≠ 1) then .next ((s.readReq vf).statMig vf 2)
    else if s.reqForm vf = 0 ∧ s.noBaleForm v = true then .next ((s.readReq vf).statMig vf 6)
    else .next ((((s.beginStopping vf v).endTrace vf).showMig vf).pumpMig vf) := by
  unfold execStopping
  rw [hv] <;> rfl

theorem execStopping_refused (h : s.mpeer vf = false ∨ (v.mstate ≠ 0 ∧ v.mstate ≠ 1)) :
    ∃ t, execStopping vf s = .next t ∧ mget t.vfs vf = some v ∧ (t.mig vf).stat = 2 ∧ t.rf = s.rf :=
  ⟨_, (execStopping_eq hv).trans (if_pos (h.imp (fun h => by rw [h]; rfl) id)), refused_leaves hv rfl⟩

theorem execStopping_admitted (hp : s.mpeer vf = true) (h01 : v.mstate = 0 ∨ v.mstate = 1) (hform : (s.dwordAt (s.migBase vf)).getLsbD 8 = true) :
    ∃ (t : State) (w : VFunc), execStopping vf s = .next t ∧ mget t.vfs vf = some w ∧ w.mstate = 2 ∧ w.desc = v.desc ∧ t.rf = s.rf ∧
      ∀ gs, (s.thread gs).live = true → (s.thread gs).vf = some vf → (t.thread gs).stopFor = some .migrate := by
  have hno : ¬((!s.mpeer vf) = true ∨ (v.mstate ≠ 0 ∧ v.mstate ≠ 1)) := by
    rw [hp]
    rintro (h | h)
    · exact Bool.noConfusion h
    · omega
  have hf : ¬(s.reqForm vf = 0 ∧ s.noBaleForm v = true) := by
    rintro ⟨h, -⟩
    unfold State.reqForm at h
    rw [bit_eq_getLsbD, hform] at h
    exact nomatch h
  -- the request's own record, then STATE, and the slots that are told
  have h2 : ∃ m, ((if v.mstate = 1 then (s.readReq vf).takeForm vf
      else ((s.readReq vf).takeForm vf).modMig vf (fun m => { m.restart with stream := sectionWords 1 (s.configWords vf v) })).setMState vf 2).MigAt
      vf m { v with mstate := 2 } s.rf := by
    split
    · exact ⟨_, (migAt_refl hv).readReq.takeForm.setMState 2⟩
    · exact ⟨_, ((migAt_refl hv).readReq.takeForm.modMig _).setMState 2⟩
  obtain ⟨m2, h2⟩ := h2
  have ht : ((if v.mstate = 1 then (s.readReq vf).takeForm vf
      else ((s.readReq vf).takeForm vf).modMig vf (fun m => { m.restart with stream := sectionWords 1 (s.configWords vf v) })).setMState
        vf 2).threads = s.threads := by
    unfold State.setMState
    split <;> split <;> rfl
  obtain ⟨ths, hk⟩ := tellMigrate_keeps (s.slotsOf vf) ((if v.mstate = 1 then (s.readReq vf).takeForm vf
      else ((s.readReq vf).takeForm vf).modMig vf (fun m => { m.restart with stream := sectionWords 1 (s.configWords vf v) })).setMState vf 2)
  have hb : (s.beginStopping vf v).MigAt vf m2 { v with mstate := 2 } s.rf := by
    unfold State.beginStopping
    rw [hk]
    exact h2.of_same rfl rfl rfl
  obtain ⟨w, hw, hn, hr, hh⟩ := endTrace_keeps vf (List.range 4) hb.fn
  have he : ((s.beginStopping vf v).endTrace vf).MigAt vf (((s.beginStopping vf v).endTrace vf).mig vf) w s.rf := ⟨rfl, hw, hr.trans hb.rf⟩
  obtain ⟨m', ⟨-, hfn, hrf⟩, -, -⟩ := he.showMig.pumpMig
  refine ⟨_, w, (execStopping_eq hv).trans ((if_neg hno).trans (if_neg hf)), hfn, hn.1, hn.2, hrf, fun gs hl hvf => ?_⟩
  have hhit := ((State.Hits.trans (s := s.beginStopping vf v) (t := (s.beginStopping vf v).endTrace vf) hh (State.hits_showMig _ vf)).trans
    (State.hits_pumpMig _ vf)).thread gs
  have htold : ((s.beginStopping vf v).thread gs).stopFor = some .migrate := tellMigrate_told gs _ _ (.inl (mem_slotsOf hl hvf))
  rw [hhit]
  exact htold

/-- The words with a reservation or a broken flag that travel with their pages. -/
def State.pageOwn (s : State) (vf : Nat) (v : VFunc) : List (Nat × List Word) :=
  ((s.ownedWords vf v).filter (fun x => v.inSegment x.1)).map (fun x => (v.ipaOf x.1 / 65536, wOwn x.2))

theorem execMigrationStopped_eq : execMigrationStopped vf s =
    if v.mstate ≠ 2 ∨ (!s.migQuiet vf) = true then .next s
    else if (s.mig vf).form = 0 ∧ (!v.cmap.all (fun c => s.stops.any (fun (x : Nat × BaleStop) => x.2.mig == some vf &&
        (x.2.pc == c || parked x.1 == c)))) = true then
      .next (v.cmap.foldl (fun (s : State) c => s.stopCluster c v.part 0 (some vf)) s)
    else if s.stops.any (fun (x : Nat × BaleStop) => x.2.mig == some vf && x.2.phase != .out) = true then .next s
    else
      .next ((((s.mig vf).heldPulls.foldl (fun (s : State) p => s.givePage vf p v)
        ((s.modMig vf (fun m => { m with
          stream := m.stream ++ s.stateWords vf v, ending := true, own := s.pageOwn vf v, heldPulls := [] })).setMState vf 3)).showMig vf).pumpMig vf) := by
  unfold execMigrationStopped
  rw [hv]
  refine ite_congr rfl (fun _ => rfl) (fun _ => ite_congr rfl (fun _ => rfl) (fun _ => ite_congr rfl (fun _ => rfl) (fun _ => ?_)))
  rfl

theorem execMigrationStopped_waits (h : v.mstate ≠ 2 ∨ s.migQuiet vf = false) : execMigrationStopped vf s = .next s :=
  (execMigrationStopped_eq hv).trans (if_pos (h.imp id fun h => by rw [h]; rfl))

theorem execMigrationStopped_stopped (h2 : v.mstate = 2) (hq : s.migQuiet vf = true) (hf : (s.mig vf).form = 1)
    (hno : ∀ x ∈ s.stops, x.2.mig ≠ some vf) :
    ∃ t, execMigrationStopped vf s = .next t ∧ mget t.vfs vf = some { v with mstate := 3 } ∧ (t.mig vf).ending = true ∧
      (t.mig vf).heldPulls = [] ∧ t.rf = s.rf := by
  have hstops : ¬s.stops.any (fun (x : Nat × BaleStop) => x.2.mig == some vf && x.2.phase != .out) = true := by
    rw [List.any_eq_true]
    rintro ⟨x, hx, he⟩
    exact hno x hx (beq_iff_eq.mp ((Bool.and_eq_true ..).mp he).1)
  obtain ⟨m1, h1, e1⟩ := State.MigAt.givePages (w := v) (s.mig vf).heldPulls (((migAt_refl hv).modMig (fun m => { m with
    stream := m.stream ++ s.stateWords vf v, ending := true, own := s.pageOwn vf v, heldPulls := [] })).setMState 3)
  obtain ⟨m', ⟨hm, hfn, hr⟩, e', -⟩ := h1.showMig.pumpMig
  refine ⟨_, (execMigrationStopped_eq hv).trans ((if_neg ?_).trans ((if_neg ?_).trans (if_neg hstops))), hfn, ?_, ?_, hr⟩
  · rw [hq]
    exact fun h => h.elim (fun h => h h2) Bool.noConfusion
  · rw [hf]
    exact fun h => nomatch h.1
  · rw [hm, e', e1]
  · rw [hm, e', e1]

end

end Sys2Proof.Machine

namespace Sys2Proof
open Machine

/-- Settles O51: each request of the migration block is admitted in the states of Table 22.3 and leaves the state, the status and the window that its
row gives; every other one leaves STAT 2. -/
theorem migrationRequests : Obligations.MigrationRequests := by
  unfold Obligations.MigrationRequests
  intro vf v s hv
  refine ⟨execPrecopy_admitted hv, execPrecopy_refused hv, execStopping_admitted hv, execStopping_refused hv, execAbort_admitted hv,
    execAbort_stopped hv, execAbort_refused hv, execResuming_admitted hv, execResuming_refused hv, execMigrationStopped_waits hv,
    execMigrationStopped_stopped hv, execMackRelease_releases hv, execMackRelease_ignored hv, fun h4 _ hd => ⟨?_, ?_⟩⟩
  · exact fun code => execMackSubmit_wrong hv h4 hd
  · exact fun x => execMackSubmit_taken hv h4 hd

end Sys2Proof
end

section
/-!
PROOFS. Page pulls, the messages of a migration's parts and peers, peer accesses (R259, R341, R342, R375, R382, R383, R386, R388, R389).
-/

namespace Sys2Proof.Machine

/-! What effects send: back-invalidations of lines the host holds, and nothing else (R349). -/

/-- The outbox grows by back-invalidations only. -/
structure State.Tells (s t : State) : Prop where
  sent : ∃ post, t.outbox = s.outbox ++ post ∧ ∀ o ∈ post, ∃ l, o = .backInval l

theorem State.Tells.of_same {s t : State} (h : t.outbox = s.outbox) : s.Tells t := ⟨[], by rw [h, List.append_nil], fun _ h => nomatch h⟩

theorem State.Tells.refl (s : State) : s.Tells s := .of_same rfl

theorem State.Tells.trans {s t u : State} (h : s.Tells t) (g : t.Tells u) : s.Tells u := by
  obtain ⟨p, hp, hb⟩ := h.sent
  obtain ⟨q, hq, hc⟩ := g.sent
  refine ⟨p ++ q, by rw [hq, hp, List.append_assoc], fun o ho => ?_⟩
  exact (List.mem_append.mp ho).elim (hb o) (hc o)

theorem State.Tells.ite {s t u : State} {c : Prop} [Decidable c] (h : s.Tells t) (g : s.Tells u) : s.Tells (if c then t else u) := by
  split; exacts [h, g]

theorem State.Tells.foldl {β : Type} {f : State → β → State} (hf : ∀ (s : State) (b : β), s.Tells (f s b)) (l : List β) :
    ∀ s : State, s.Tells (l.foldl f s) := by
  induction l with
  | nil => exact fun s => .refl s
  | cons b l ih => exact fun s => (hf s b).trans (ih _)

theorem State.Rung.tells {s t : State} (h : s.Rung t) : s.Tells t := .of_same (by rw [h.same])

theorem State.Cohered.tells {s t : State} (h : s.Cohered t) : s.Tells t := .of_same (by rw [h.same])

theorem State.tells_clearPoison (s : State) (pa n : Nat) : s.Tells (s.clearPoison pa n) :=
  .foldl (fun s _ => by split; exacts [.of_same rfl, .refl s]) _ s

theorem State.tells_wakeWatch (src : Option Nat) (s : State) (d : Nat) : s.Tells (s.wakeWatch src d) := by
  unfold State.wakeWatch
  split
  · exact .refl s
  · exact .ite (.refl s) (.of_same rfl)

theorem State.tells_touched (s : State) (src : Option Nat) (pa n : Nat) : s.Tells (s.touched src pa n) := by
  unfold State.touched
  have h0 : s.Tells (s.dropGlobals (linesOf pa n)) := .ite (.refl s) (.of_same rfl)
  have h := h0.trans (State.Tells.of_same (t := (s.dropGlobals (linesOf pa n)).mapThreads (fun _ t => t.hitLines (linesOf pa n))) rfl)
  exact State.Tells.trans (.ite (h.trans (.foldl (fun s _ => s.tells_wakeWatch _ _) _ _)) h) (State.rung_bells _ _ _).tells

theorem State.tells_store (src : Option Nat) (s : State) (pa : Nat) (bs : List Byte) : s.Tells (State.store src s pa bs) :=
  ((State.rung_setBytes bs s pa).tells.trans (State.tells_clearPoison _ _ _)).trans (State.tells_touched _ _ _ _)

theorem State.tells_perform (src : Option Nat) (s : State) (e : Eff) : s.Tells (State.perform src s e) := by
  cases e with
  | write pa bs => exact State.tells_store src s pa bs
  | greg k v => exact .of_same rfl
  | remote pa bs => exact .of_same rfl
  | edge a bs => exact .ite (.refl s) (State.tells_store src s a bs)

theorem State.tells_backInvalidate (s : State) (items : List Nat) : s.Tells (s.backInvalidate items) :=
  ⟨_, (backInvalidate_sends items s).2.1, fun _ ho => let ⟨l, _, he⟩ := List.mem_map.mp ho; ⟨l, he.symm⟩⟩

theorem State.tells_signal (s : State) (src : Option Nat) (items : List Nat) : s.Tells (s.signal src items) := by
  unfold State.signal State.heard
  exact .ite (.refl s) (.ite (.of_same rfl) (.of_same rfl))

theorem State.tells_mbPoll (s : State) : s.Tells s.mbPoll := .ite (.of_same rfl) (.refl s)

/-- The part's own writes send no more than back-invalidations. -/
theorem State.tells_partWrites (s : State) (effs : List Eff) : s.Tells (s.performAll none effs) := by
  unfold State.performAll
  have h1 : s.Tells (effs.foldl (State.perform none) s) := .foldl (fun s e => State.tells_perform none s e) _ s
  have h2 := h1.trans (State.Tells.foldl (f := State.cohDrop) (fun s _ => (s.cohered_cohDrop _).tells) (itemsOf effs) _)
  exact ((h2.trans (State.tells_backInvalidate _ (itemsOf effs))).trans (State.tells_signal _ none (itemsOf effs))).trans (State.tells_mbPoll _)

theorem State.tells_showMig (s : State) (vf : Nat) : s.Tells (s.showMig vf) := by
  unfold State.showMig
  exact s.tells_partWrites _

theorem State.tells_dropCopies (s : State) (f : Nat → Bool) : s.Tells (s.dropCopies f) := .foldl (fun s l => (s.cohered_cohDrop l).tells) _ s

/-! Pulls at the source (R382). -/

theorem execPull_absent {vf : Nat} {s : State} (h : mget s.vfs vf = none) (page : Nat) :
    execPull vf page s = .next { s with outbox := s.outbox ++ [.pullFail (s.otherPart vf).1 (s.otherPart vf).2 page] } := by
  unfold execPull
  rw [h] <;> rfl

section
variable {vf : Nat} {v : VFunc} {s : State} (hv : mget s.vfs vf = some v)
include hv

theorem execPull_eq (page : Nat) : execPull vf page s =
    if v.mstate = 3 then .next (s.givePage vf page v)
    else if v.mstate = 4 then .next s
    else .next (s.modMig vf (fun m => { m with heldPulls := if m.heldPulls.contains page then m.heldPulls else m.heldPulls ++ [page] })) := by
  unfold execPull
  rw [hv] <;> rfl

theorem execPull_given {page : Nat} (h3 : v.mstate = 3) (hg : page ∈ (s.mig vf).given) : execPull vf page s = .next s :=
  (execPull_eq hv page).trans ((if_pos h3).trans (congrArg _ (if_pos (List.contains_iff_mem.mpr hg))))

theorem execPull_destination (page : Nat) (h4 : v.mstate = 4) : execPull vf page s = .next s :=
  (execPull_eq hv page).trans ((if_neg (by omega)).trans (if_pos h4))

theorem execPull_held (page : Nat) (h2 : v.mstate ≤ 2) :
    ∃ t, execPull vf page s = .next t ∧ page ∈ (t.mig vf).heldPulls ∧ t.outbox = s.outbox ∧ t.mem = s.mem := by
  obtain ⟨hm, -, -⟩ := (migAt_refl hv).modMig (fun m =>
    { m with heldPulls := if m.heldPulls.contains page then m.heldPulls else m.heldPulls ++ [page] })
  refine ⟨_, (execPull_eq hv page).trans ((if_neg (by omega)).trans (if_neg (by omega))), ?_, rfl, rfl⟩
  rw [hm]
  dsimp only
  split
  · exact List.contains_iff_mem.mp ‹_›
  · exact List.mem_append.mpr (.inr (List.mem_singleton.mpr rfl))

/-- The message that carries a page. -/
def State.pageOut (s : State) (vf page : Nat) (v : VFunc) : Out :=
  .pullData (s.otherPart vf).1 (s.otherPart vf).2 page (s.bytesAt (v.sbase + 65536 * page) 65536)
    ((List.range 8192).filter (fun i => s.poisoned ((v.sbase + 65536 * page) / 8 + i)))
    (((s.mig vf).own.filter (fun x => x.1 == page)).map (·.2))

/-- What a page's copies leave once they are dropped on every die and on the host. -/
def State.clearedOf (s : State) (page : Nat) (v : VFunc) : State :=
  (s.dropCopies (fun l => 128 * l / 65536 == (v.sbase + 65536 * page) / 65536)).backInvalidate
    ((s.hostLines.map (·.1)).filter (fun l => 128 * l / 65536 == (v.sbase + 65536 * page) / 65536))

omit hv in
theorem givePage_eq {page : Nat} (hg : ¬page ∈ (s.mig vf).given) (hp : page < v.pages) : s.givePage vf page v =
    (({ s.clearedOf page v with outbox := (s.clearedOf page v).outbox ++ [s.pageOut vf page v] } : State).modMig vf (fun m =>
      { m with given := m.given ++ [page], own := m.own.filter (fun x => x.1 != page) })).showMig vf :=
  (if_neg (fun h => hg (List.contains_iff_mem.mp h))).trans (if_neg (Nat.not_le.mpr hp))

theorem execPull_gives {page : Nat} (h3 : v.mstate = 3) (hp : page < v.pages) (hg : ¬page ∈ (s.mig vf).given) :
    ∃ (t : State) (recs : List (List Word)) (pre post : List Out), execPull vf page s = .next t ∧
      (t.mig vf).given = (s.mig vf).given ++ [page] ∧
      t.outbox = s.outbox ++ pre ++ [.pullData (s.otherPart vf).1 (s.otherPart vf).2 page (s.bytesAt (v.sbase + 65536 * page) 65536)
        ((List.range 8192).filter (fun i => s.poisoned ((v.sbase + 65536 * page) / 8 + i))) recs] ++ post ∧
      (∀ o ∈ pre ++ post, ∃ l, o = .backInval l) ∧ t.rf = s.rf := by
  have hc : s.Wrote (s.clearedOf page v) :=
    State.Wrote.trans (.foldl (fun s l => s.wrote_cohDrop l) _ s) (State.wrote_backInvalidate _ _)
  obtain ⟨pre, hpre, hb1⟩ := ((s.tells_dropCopies _).trans (State.tells_backInvalidate _ _) : s.Tells (s.clearedOf page v)).sent
  have h1 := (hc.migAt (migAt_refl hv)).of_same
    (t := { s.clearedOf page v with outbox := (s.clearedOf page v).outbox ++ [s.pageOut vf page v] }) rfl rfl rfl
  obtain ⟨hm, -, hr⟩ := (h1.modMig (fun m => { m with given := m.given ++ [page], own := m.own.filter (fun x => x.1 != page) })).showMig
  obtain ⟨post, hpost, hb2⟩ := (State.tells_showMig (({ s.clearedOf page v with
    outbox := (s.clearedOf page v).outbox ++ [s.pageOut vf page v] } : State).modMig vf (fun m =>
      { m with given := m.given ++ [page], own := m.own.filter (fun x => x.1 != page) })) vf).sent
  refine ⟨_, ((s.mig vf).own.filter (fun x => x.1 == page)).map (·.2), pre, post, (execPull_eq hv page).trans ((if_pos h3).trans (congrArg _ (givePage_eq hg hp))), ?_, ?_, ?_, hr⟩
  · rw [hm]
  · exact hpost.trans (congrArg (fun o => o ++ [s.pageOut vf page v] ++ post) hpre)
  · exact fun o ho => (List.mem_append.mp ho).elim (hb1 o) (hb2 o)

end

/-! A page that arrives, or fails to (R382, R386, R388). -/

theorem State.mig_modMig (s : State) (vf : Nat) (f : Mig → Mig) : (s.modMig vf f).mig vf = f (s.mig vf) := by
  unfold State.modMig State.mig mgetD
  rw [mget_mput_self]
  rfl

theorem State.Wrote.mig {s t : State} (w : s.Wrote t) (vf : Nat) : t.mig vf = s.mig vf := by
  have h : t.migs = s.migs := by rw [w.same]
  exact congrArg (mgetD · vf Mig.idle) h

theorem State.mig_showMig (s : State) (vf : Nat) : (s.showMig vf).mig vf = s.mig vf := (s.wrote_showMig vf).mig vf

theorem State.mig_statMig (s : State) (vf code : Nat) : (s.statMig vf code).mig vf = { s.mig vf with stat := code } :=
  (State.mig_showMig _ vf).trans (s.mig_modMig vf _)

/-- A pull that fails is asked no more, and STAT says so. -/
theorem failPull_mig (s : State) (vf page : Nat) :
    ((s.failPull vf page).mig vf).stat = 4 ∧ ¬page ∈ ((s.failPull vf page).mig vf).asked := by
  have key (z : State) : (((z.modMig vf (fun m => { m with asked := m.asked.filter (fun p => p != page) })).statMig vf 4).mig vf).stat = 4 ∧
      ¬page ∈ (((z.modMig vf (fun m => { m with asked := m.asked.filter (fun p => p != page) })).statMig vf 4).mig vf).asked := by
    rw [State.mig_statMig, State.mig_modMig]
    exact ⟨rfl, fun h => bne_iff_ne.mp (List.mem_filter.mp h).2 rfl⟩
  unfold State.failPull
  exact key _

/-- The page with its bytes and its poison. -/
def State.pageIn (s : State) (page : Nat) (v : VFunc) (bytes : List Byte) (pois : List Nat) : State :=
  (pois.filter (· < 8192)).foldl (fun (z : State) i => z.setPoison ((v.sbase + 65536 * page) / 8 + i) true)
    (s.performAll none [.write (v.sbase + 65536 * page) bytes])

theorem State.wrote_pageIn (s : State) (page : Nat) (v : VFunc) (bytes : List Byte) (pois : List Nat) : s.Wrote (s.pageIn page v bytes pois) :=
  (s.wrote_performAll none _).trans (.foldl (fun _ _ => .of_same rfl) _ _)

/-- The page with the event records that were written before it came, its presence bit set, and the migration that asks for it no more. -/
def State.pageStands (s : State) (vf page : Nat) (v : VFunc) (late : List (Nat × List Byte)) : State :=
  let pb := v.presenceByte (65536 * page)
  let s2 := (late.filter (fun x => x.1 / 65536 == page)).foldl (fun (z : State) x => z.performAll none [.write (v.pa x.1) x.2]) s
  let s3 := s2.performAll none [.write pb [s2.byteAt pb ||| BitVec.ofNat 8 (2 ^ (page % 8))]]
  (s3.modMig vf (fun m => { m with asked := m.asked.filter (fun p => p != page), late := m.late.filter (fun x => !(x.1 / 65536 == page)) })).showMig vf

section
variable {vf page : Nat} {v : VFunc} {s : State} (hv : mget s.vfs vf = some v) (h4 : v.mstate = 4) (hp : page < v.pages)
  (hpr : s.present v (65536 * page) = false) {bytes : List Byte} {pois : List Nat}
include hv h4 hp hpr

theorem execPullData_eq (recs : List (List Word)) : execPullData vf page bytes pois recs s =
    if bytes.length ≠ 65536 then .next (s.failPull vf page)
    else
      let pb := v.presenceByte (65536 * page)
      let s2 := (((s.pageIn page v bytes pois).mig vf).late.filter (fun x => x.1 / 65536 == page)).foldl
        (fun (z : State) x => z.performAll none [.write (v.pa x.1) x.2]) (s.pageIn page v bytes pois)
      let s3 := s2.performAll none [.write pb [s2.byteAt pb ||| BitVec.ofNat 8 (2 ^ (page % 8))]]
      let s4 := (recs.filterMap (rdAll rdOwn)).foldl (fun (s : State) o => s.ownIn v o) s3
      let s5 := (s4.modMig vf (fun m =>
        { m with asked := m.asked.filter (fun p => p != page), late := m.late.filter (fun x => !(x.1 / 65536 == page)) })).showMig vf
      .next (((s5.retryHeld vf).pumpPulls vf).settleDone vf) := by
  have hno : ¬(v.mstate ≠ 4 ∨ v.pages ≤ page ∨ s.present v (65536 * page) = true) := by
    rw [hpr]
    rintro (h | h | h)
    · exact h h4
    · omega
    · exact Bool.noConfusion h
  unfold execPullData
  rw [hv]
  exact if_neg hno

theorem execPullData_fails (recs : List (List Word)) (hl : bytes.length ≠ 65536) :
    execPullData vf page bytes pois recs s = .next (s.failPull vf page) := (execPullData_eq hv h4 hp hpr recs).trans (if_pos hl)

theorem execPullData_brings (hl : bytes.length = 65536) : execPullData vf page bytes pois [] s =
    .next (((((s.pageIn page v bytes pois).pageStands vf page v (s.mig vf).late).retryHeld vf).pumpPulls vf).settleDone vf) := by
  rw [← (s.wrote_pageIn page v bytes pois).mig vf]
  exact (execPullData_eq hv h4 hp hpr []).trans (if_neg (fun h => h hl))

end

/-! PULLALL (R383). -/

theorem askPull_keeps (s : State) (vf page : Nat) : (s.askPull vf page).mem = s.mem ∧ (s.askPull vf page).rf = s.rf ∧
    ((s.askPull vf page).mig vf).pullall = (s.mig vf).pullall := by
  unfold State.askPull
  dsimp only
  split
  · exact ⟨rfl, rfl, rfl⟩
  · refine ⟨rfl, rfl, ?_⟩
    have h := congrArg Mig.pullall (s.mig_modMig vf (fun m => { m with asked := m.asked ++ [page] }))
    exact h

theorem askPulls_keep (vf : Nat) (l : List Nat) : ∀ s : State,
    (l.foldl (fun (s : State) p => s.askPull vf p) s).mem = s.mem ∧ (l.foldl (fun (s : State) p => s.askPull vf p) s).rf = s.rf ∧
    ((l.foldl (fun (s : State) p => s.askPull vf p) s).mig vf).pullall = (s.mig vf).pullall := by
  induction l with
  | nil => exact fun s => ⟨rfl, rfl, rfl⟩
  | cons p l ih =>
    intro s
    obtain ⟨a1, a2, a3⟩ := askPull_keeps s vf p
    obtain ⟨h1, h2, h3⟩ := ih (s.askPull vf p)
    exact ⟨h1.trans a1, h2.trans a2, h3.trans a3⟩

theorem pumpPulls_keeps (s : State) (vf : Nat) : (s.pumpPulls vf).mem = s.mem ∧ (s.pumpPulls vf).rf = s.rf ∧
    ((s.pumpPulls vf).mig vf).pullall = (s.mig vf).pullall := by
  unfold State.pumpPulls
  cases mget s.vfs vf with
  | none => exact ⟨rfl, rfl, rfl⟩
  | some v =>
    dsimp only
    split
    · exact ⟨rfl, rfl, rfl⟩
    · exact askPulls_keep vf _ s

theorem execPullall_sets (vf : Nat) (s : State) : ∃ t, execPullall vf s = .next t ∧
    (t.mig vf).pullall = (s.dwordAt (s.migBase vf + 0x10)).getLsbD 0 ∧ t.mem = s.mem ∧ t.rf = s.rf := by
  obtain ⟨h1, h2, h3⟩ := pumpPulls_keeps (s.modMig vf (fun m => { m with pullall := bit (s.dwordAt (s.migBase vf + 0x10)) 0 })) vf
  refine ⟨_, rfl, h3.trans ?_, h1, h2⟩
  rw [State.mig_modMig]
  exact bit_eq_getLsbD ..

/-! STARTED and DONE at the source (R375). -/

theorem State.undone_checkChunks (s : State) (all : Bool) (sig : List Nat) (gs : Nat) : s.Undone (s.checkChunks all sig gs) := by
  unfold State.checkChunks
  dsimp only
  split
  · exact (s.undone_setThread gs _).trans (State.undone_squash ..)
  · exact s.undone_setThread gs _

theorem State.undone_startClock (s : State) (pc stop : Nat) (all : Bool) (sig : List Nat) : s.Undone (s.startClock pc stop all sig) :=
  .foldl (fun s gs => (s.undone_setThread gs _).trans (State.undone_checkChunks ..)) _ s

/-- A cluster that comes back from under the number of its stop sends nothing. -/
theorem unstop_outbox (s : State) (vf : Nat) : (s.unstop vf).outbox = s.outbox := by
  have hone (z : State) (x : Nat × BaleStop) (all : Bool) :
      ((z.renameCluster (parked x.1) x.2.pc).startClock x.2.pc x.2.cyc all x.2.sig).outbox = z.outbox := by
    have h := State.undone_startClock (z.renameCluster (parked x.1) x.2.pc) x.2.pc x.2.cyc all x.2.sig
    exact Eq.trans (by rw [h.same]) (rfl : (z.renameCluster (parked x.1) x.2.pc).outbox = z.outbox)
  unfold State.unstop
  generalize s.stops.filter (fun (x : Nat × BaleStop) => x.2.mig == some vf) = l
  induction l generalizing s with
  | nil => rfl
  | cons x l ih => exact (ih _).trans (hone s x _)

section
variable {vf : Nat} {v : VFunc} {s : State} (hv : mget s.vfs vf = some v)
include hv

theorem execStarted_eq : execStarted vf s =
    if v.mstate = 3 ∧ (!(s.mig vf).started) = true then
      .next ((({ s.dropFn vf with outbox := (s.dropFn vf).outbox ++ (s.mig vf).peers.map (fun p => Out.remap p.dev
        (BitVec.ofNat 64 (Config.devid % 2 ^ 20 + vf * 2 ^ 20)) (BitVec.ofNat 64 ((s.otherPart vf).1 + (s.otherPart vf).2 * 2 ^ 20))) } : State).modMig
          vf (fun m => { m with started := true })).showMig vf)
    else .next s := by
  unfold execStarted
  rw [hv] <;> rfl

theorem execStarted_moves (h3 : v.mstate = 3) (hs : (s.mig vf).started = false) :
    ∃ t, execStarted vf s = .next t ∧ (t.mig vf).started = true ∧ (∀ x ∈ t.launches, x.2.vf ≠ vf) ∧ (∀ q ∈ t.qmap, q.vf ≠ vf) ∧ ∃ post,
      t.outbox = s.outbox ++ (s.mig vf).peers.map (fun p => Out.remap p.dev (BitVec.ofNat 64 (Config.devid % 2 ^ 20 + vf * 2 ^ 20))
        (BitVec.ofNat 64 ((s.otherPart vf).1 + (s.otherPart vf).2 * 2 ^ 20))) ++ post ∧ ∀ o ∈ post, ∃ l, o = .backInval l := by
  have key (z : State) : ∃ t, t = (z.modMig vf (fun m => { m with started := true })).showMig vf ∧ (t.mig vf).started = true ∧
      t.launches = z.launches ∧ t.qmap = z.qmap ∧ ∃ post, t.outbox = z.outbox ++ post ∧ ∀ o ∈ post, ∃ l, o = .backInval l := by
    refine ⟨_, rfl, ?_, ?_, ?_, (State.tells_showMig _ vf).sent⟩
    · rw [State.mig_showMig, State.mig_modMig]
    · rw [(State.wrote_showMig _ vf).same]; rfl
    · rw [(State.wrote_showMig _ vf).same]; rfl
  obtain ⟨t, ht, hst, hl, hq, post, ho, hb⟩ := key { s.dropFn vf with
    outbox := (s.dropFn vf).outbox ++ (s.mig vf).peers.map (fun p => Out.remap p.dev
      (BitVec.ofNat 64 (Config.devid % 2 ^ 20 + vf * 2 ^ 20)) (BitVec.ofNat 64 ((s.otherPart vf).1 + (s.otherPart vf).2 * 2 ^ 20))) }
  refine ⟨t, ?_, hst, fun x hx => ?_, fun q hq' => ?_, post, ?_, hb⟩
  · rw [ht]
    exact (execStarted_eq hv).trans (if_pos ⟨h3, by rw [hs]; rfl⟩)
  · rw [hl] at hx
    exact bne_iff_ne.mp (List.mem_filter.mp hx).2
  · rw [hq] at hq'
    exact bne_iff_ne.mp (List.mem_filter.mp hq').2
  · rw [ho]
    exact congrArg (fun o => o ++ _ ++ post) (unstop_outbox s vf)

theorem execDone_eq : execDone vf s =
    if v.mstate = 3 ∧ (s.mig vf).started = true then .next ((s.modMig vf (fun m => { m with finished := true })).showMig vf) else .next s := by
  unfold execDone
  rw [hv] <;> rfl

theorem execDone_finishes (h3 : v.mstate = 3) (hs : (s.mig vf).started = true) :
    ∃ t, execDone vf s = .next t ∧ (t.mig vf).finished = true ∧ mget t.vfs vf = some v ∧ t.rf = s.rf := by
  obtain ⟨hm, hf, hr⟩ := ((migAt_refl hv).modMig (fun m => { m with finished := true })).showMig
  exact ⟨_, (execDone_eq hv).trans (if_pos ⟨h3, hs⟩), by rw [hm], hf, hr⟩

/-! REMAPACK and FWDEND (R389). -/

theorem execRemapack_eq (dev : Nat) : execRemapack vf dev s =
    if v.mstate = 3 ∧ (s.mig vf).started = true ∧ (s.mig vf).peers.any (fun p => p.dev == dev && !p.acked) = true then
      let s1 := s.modMig vf (fun m => { m with peers := m.peers.map (fun (p : Peer) => if p.dev = dev then { p with acked := true } else p) })
      .next ({ s1 with outbox := s1.outbox ++ [Out.fwdend (s.otherPart vf).1 (s.otherPart vf).2 dev] }.showMig vf)
    else .next s := by
  unfold execRemapack
  rw [hv] <;> rfl

theorem execRemapack_acks {dev : Nat} (h3 : v.mstate = 3) (hs : (s.mig vf).started = true)
    (hp : ∃ p ∈ (s.mig vf).peers, p.dev = dev ∧ p.acked = false) :
    ∃ t, execRemapack vf dev s = .next t ∧ (∀ p ∈ (t.mig vf).peers, p.dev = dev → p.acked = true) ∧
      (∃ post, t.outbox = s.outbox ++ [.fwdend (s.otherPart vf).1 (s.otherPart vf).2 dev] ++ post ∧ ∀ o ∈ post, ∃ l, o = .backInval l) ∧
      t.rf = s.rf := by
  have hany : (s.mig vf).peers.any (fun p => p.dev == dev && !p.acked) = true := by
    obtain ⟨p, hm, hd, ha⟩ := hp
    exact List.any_eq_true.mpr ⟨p, hm, (Bool.and_eq_true ..).mpr ⟨beq_iff_eq.mpr hd, by rw [ha]; rfl⟩⟩
  let s1 := s.modMig vf (fun m => { m with peers := m.peers.map (fun (p : Peer) => if p.dev = dev then { p with acked := true } else p) })
  let s2 : State := { s1 with outbox := s1.outbox ++ [Out.fwdend (s.otherPart vf).1 (s.otherPart vf).2 dev] }
  obtain ⟨hm, -, hr⟩ := (((migAt_refl hv).modMig (fun m =>
    { m with peers := m.peers.map (fun (p : Peer) => if p.dev = dev then { p with acked := true } else p) })).of_same (t := s2) rfl rfl rfl).showMig
  refine ⟨_, (execRemapack_eq hv dev).trans (if_pos ⟨h3, hs, hany⟩), fun p hpm hd => ?_, (s2.tells_showMig vf).sent, hr⟩
  rw [show (s2.showMig vf).mig vf = _ from hm] at hpm
  obtain ⟨q, -, rfl⟩ := List.mem_map.mp hpm
  by_cases hq : q.dev = dev
  · rw [if_pos hq]
  · rw [if_neg hq] at hd
    exact absurd hd hq

theorem execFwdend_eq (dev : Nat) : execFwdend vf dev s =
    if v.mstate = 4 ∧ (!(s.mig vf).fwdended.contains dev) = true then
      .next (((s.modMig vf (fun m => { m with fwdended := m.fwdended ++ [dev] })).retryHeld vf).settleDone vf)
    else .next s := by
  unfold execFwdend
  rw [hv] <;> rfl

omit hv in
/-- The end of a destination's waiting leaves the peers that have ended their forwarding. -/
theorem settleDone_keeps {m : Mig} {rf : Map Word} (h : s.MigAt vf m v rf) :
    ((s.settleDone vf).mig vf).fwdended = m.fwdended ∧ (s.settleDone vf).rf = rf := by
  unfold State.settleDone
  rw [h.fn]
  dsimp only
  split
  · obtain ⟨hm, -, hr⟩ := (((h.of_same (t := { s with outbox := s.outbox ++ [Out.done (s.otherPart vf).1 (s.otherPart vf).2] }) rfl rfl rfl).modMig
      (fun m => { m with peers := m.peers.map (fun (p : Peer) => { p with acked := false }) })).setMState 0).showMig
    have hf := congrArg Mig.fwdended hm
    exact ⟨hf, hr⟩
  · exact ⟨congrArg Mig.fwdended h.mig, h.rf⟩

theorem execFwdend_ends {dev : Nat} (h4 : v.mstate = 4) (hd : ¬dev ∈ (s.mig vf).fwdended) (hh : (s.mig vf).heldAccesses = []) :
    ∃ t, execFwdend vf dev s = .next t ∧ (t.mig vf).fwdended = (s.mig vf).fwdended ++ [dev] ∧ t.rf = s.rf := by
  have h1 := (migAt_refl hv).modMig (fun m => { m with fwdended := m.fwdended ++ [dev] })
  have hret : (s.modMig vf (fun m => { m with fwdended := m.fwdended ++ [dev] })).retryHeld vf =
      s.modMig vf (fun m => { m with fwdended := m.fwdended ++ [dev] }) := by
    unfold State.retryHeld
    dsimp only
    rw [h1.mig, hh]
    rfl
  have hc : (!(s.mig vf).fwdended.contains dev) = true := by
    rw [Bool.not_eq_true', Bool.eq_false_iff]
    exact fun h => hd (List.contains_iff_mem.mp h)
  obtain ⟨hf, hr⟩ := settleDone_keeps h1
  refine ⟨_, (execFwdend_eq hv dev).trans (if_pos ⟨h4, hc⟩), ?_, ?_⟩
  · rw [hret]; exact hf
  · rw [hret]; exact hr

end

/-! REMAP (R389). -/

theorem execRemap_watches (src dst : Word) (s : State) : ∃ t, execRemap src dst s = .next t ∧ (bits src 19 0, bits src 27 20) ∈ t.remaps ∧
    (∀ k ∈ s.remaps, k ∈ t.remaps) ∧ t.rf = s.rf := by
  have hp := (s.posts_postHyper 13 31 0 0 [nw (bits src 27 0), nw (bits dst 27 0)]).same
  have hk : (s.postHyper 13 31 0 0 [nw (bits src 27 0), nw (bits dst 27 0)]).remaps = s.remaps := by rw [hp]
  have hr : (s.postHyper 13 31 0 0 [nw (bits src 27 0), nw (bits dst 27 0)]).rf = s.rf := by rw [hp]
  refine ⟨_, rfl, ?_, fun k hmem => ?_, hr⟩
  · dsimp only
    split
    · exact List.contains_iff_mem.mp ‹_›
    · exact List.mem_append.mpr (.inr (List.mem_singleton.mpr rfl))
  · dsimp only
    rw [← hk] at hmem
    split
    · exact hmem
    · exact List.mem_append.mpr (.inl hmem)

/-! Accesses that arrive from peers (R259, R342). -/

theorem peerArrival_absent {a : PeerAccess} {s : State} (h : mget s.vfs a.vf = none) :
    s.peerArrival a = { s with outbox := s.outbox ++ [.peerFault a.dev 7] } := by
  unfold State.peerArrival
  rw [h] <;> rfl

/-- A forwarded access to a running function, with none held before it, is served at once. -/
theorem peerArrival_served {a : PeerAccess} {v : VFunc} {s : State} (hv : mget s.vfs a.vf = some v) (h0 : v.mstate = 0)
    (hh : (s.mig a.vf).heldAccesses = []) (hf : a.fwd = true) : s.peerArrival a = s.servePeer a v := by
  unfold State.peerArrival
  rw [hv]
  dsimp only
  rw [hh, if_neg (by rw [List.any_nil]; exact Bool.false_ne_true), if_neg (by omega), if_neg (by omega), if_pos (.inl hf)]

theorem servePeer_read {a : PeerAccess} {v : VFunc} {pa : Nat} {s : State} (hk : a.kind = .read)
    (hx : ∃ z, ({ s with fs := noSlot } : State).stageTwo a.vf v a.ipa .read 0 = .ok (pa, z)) (hp : ∀ d ∈ dwordsOf pa a.size, s.poisoned d = false) :
    s.servePeer a v = { s with outbox := s.outbox ++ [.peerData a.dev (s.bytesAt pa a.size)] } := by
  obtain ⟨z, hz⟩ := hx
  unfold State.servePeer
  dsimp only
  rw [hk]
  dsimp only [peerAcc]
  rw [hz]
  exact if_neg (Bool.eq_false_iff.mp ((any_false_iff _ _).mpr hp))

theorem servePeer_write {a : PeerAccess} {v : VFunc} {pa : Nat} {s : State} (hk : a.kind = .write)
    (hx : ∃ z, ({ s with fs := noSlot } : State).stageTwo a.vf v a.ipa .write 0 = .ok (pa, z)) :
    s.servePeer a v = { s.performAll none [partEff pa a.data] with
      outbox := (s.performAll none [partEff pa a.data]).outbox ++ [.peerData a.dev []] } := by
  obtain ⟨z, hz⟩ := hx
  unfold State.servePeer
  dsimp only
  rw [hk]
  dsimp only [peerAcc]
  rw [hz] <;> rfl

end Sys2Proof.Machine

namespace Sys2Proof
open Machine

/-- Settles O52: pages are given up once, with nothing else sent but back-invalidations; a page that comes stands with its late records and its
presence bit; the messages of the two parts and of peers each leave what R375 and R389 say; an access from a peer is answered from the home. -/
theorem migrationTraffic : Obligations.MigrationTraffic := by
  unfold Obligations.MigrationTraffic
  refine ⟨fun vf page s h => execPull_absent h page, fun vf page v s hv => ⟨fun h3 hp hg => ?_, fun h3 hg => ?_, fun h4 => ?_, fun h2 => ?_⟩,
    fun vf page bytes pois recs v s hv h4 hp hpr => ⟨fun hl => ⟨?_, failPull_mig s vf page⟩, fun hl hrec => ?_⟩, fun vf s => execPullall_sets vf s,
    fun vf v s hv => ⟨fun h3 hs => ?_, fun h3 hs => ?_, fun h3 => ⟨?_, ?_⟩⟩, fun src dst s => execRemap_watches src dst s,
    fun vf dev v s hv => ⟨fun h3 hs hp => ?_, fun h4 hd hh => ?_⟩, fun a s h => ?_, fun a v pa s hv h0 hh hf => ⟨fun hk hx hp => ?_, fun hk hx => ?_⟩⟩
  · exact execPull_gives hv h3 hp hg
  · exact execPull_given hv h3 hg
  · exact execPull_destination hv page h4
  · exact execPull_held hv page h2
  · exact execPullData_fails hv h4 hp hpr recs hl
  · subst hrec
    exact execPullData_brings hv h4 hp hpr hl
  · exact execStarted_moves hv h3 hs
  · exact execDone_finishes hv h3 hs
  · exact (exec_started vf s).trans ((execStarted_eq hv).trans (if_neg fun h => h3 h.1))
  · exact (exec_done vf s).trans ((execDone_eq hv).trans (if_neg fun h => h3 h.1))
  · exact execRemapack_acks hv h3 hs hp
  · exact execFwdend_ends hv h4 hd hh
  · exact congrArg Host.Outcome.next (peerArrival_absent h)
  · exact congrArg Host.Outcome.next ((peerArrival_served hv h0 hh hf).trans (servePeer_read hk hx hp))
  · exact congrArg Host.Outcome.next ((peerArrival_served hv h0 hh hf).trans (servePeer_write hk hx))

end Sys2Proof
end
